-- ==== Sys2Proof/Word.lean ====
section
/-! DEFINITION. Words, bytes, the operand types of the commands, and the canonical finite table `Tab`
that every sparse piece of the state (memories, register pages, instances) is held in. -/

namespace Sys2Proof

abbrev Byte := BitVec 8
abbrev Word := BitVec 64
/-- An fp32 value as its 32 bits (R77). -/
abbrev F32 := BitVec 32

/-- Core number, CORE000 to CORE143 (R13). -/
abbrev CoreId := Fin 144
/-- A context of a core: threads 0 to 8,191 (R43), harts 8,192 to 8,195 (the CONTEXT numbers of R52). -/
abbrev CtxId := Fin 8196
/-- Engine number (R107), list number (R136), partition P0 to P15 (R13). -/
abbrev EngId := Fin 16
abbrev ListId := Fin 64
abbrev PartId := Fin 16
/-- Long-operation slot (R384). -/
abbrev SlotId := Fin 32
/-- Module channel MC00 to MC11, Gather unit GU0 to GU3, Taleus port TP0 to TP7 (R13). -/
abbrev ModId := Fin 12
abbrev GuId := Fin 4
abbrev PortId := Fin 8
/-- Expanders: 0 to 5 HC, 6 to 17 MC, 18 Archive, 19 link (the TARGETS bit order of R258). -/
abbrev ExpId := Fin 20
/-- Pieces of tier 0 and tier 1 (R214): 0 to 47 pseudo-channel pairs, 48 to 59 module channels. -/
abbrev PieceId := Fin 60
/-- Register number of an instruction (R79). -/
abbrev Reg := Fin 16

/-- Host ports A and B (R13). -/
inductive HPort where
  | A | B
deriving DecidableEq, Repr, Inhabited

/-- A function that reaches BAR0: the service processor, a physical function, or VF n + 1 (R368, R480). -/
inductive Fn where
  | sp
  | pf (b : HPort)
  | vf (b : HPort) (n : Fin 16)
deriving DecidableEq, Repr, Inhabited

/-- A Taleus Link flit (R340), its header fields already separated. -/
structure Flit where
  vc       : Nat
  comp     : Nat
  first    : Bool
  last     : Bool
  link     : Bool
  epoch    : Nat
  dstNode  : Nat
  dstPart  : Nat
  srcNode  : Nat
  srcPart  : Nat
  len      : Nat
  hops     : Nat
  lseq     : Nat
  ack      : Nat
  nak      : Bool
  crVc     : Nat
  crCount  : Nat
  msgFlits : Nat
  payload  : List Byte
deriving DecidableEq, Repr, Inhabited

/-- What the CRC check of a received flit finds (R344). -/
inductive Crc where
  | good | failed | stomped
deriving DecidableEq, Repr, Inhabited

/-- How a flash codeword was recovered (R315): the LDPC outcome, which the manual leaves to the media. -/
inductive CwOutcome where
  | hard                    -- hard decision
  | retried (n : Fin 4)     -- recovered by the n-th retry
  | rebuilt                 -- recovered by parity after three retries
  | lost                    -- not recovered
deriving DecidableEq, Repr, Inhabited

/-- An ownership operation that partition software of `part` asks for (R206): the record at `addr` in the allocation of
partition `hold` of node `node`, its 16 bytes expected and wanted. -/
structure OwnReq where
  part : PartId
  node : Nat
  hold : PartId
  addr : Word
  exp  : BitVec 128
  new  : BitVec 128
deriving DecidableEq, Repr

/-- A request of the SPDM subset that Colophon serves (R439, R440). -/
inductive SpdmReq where
  | getVersion
  | getCapabilities
  | negotiateAlgorithms (base hash : Bool)
  | getDigests
  | getCertificate (slot off len : Nat)
  | challenge (slot : Nat) (nonce : List Byte)
  | getMeasurements (index : Nat) (sign : Bool) (nonce : List Byte)
  | getPqCert (off len : Nat)
  | getPqSig
deriving DecidableEq, Repr

/-- A partition's configuration as the boot NOR stores it (R428): its slice registers (R393), its words of the TIER page
(R237), its index root, zero where it holds no index, and the addresses of its durable version records. -/
structure StoredPart where
  part  : Nat
  slice : List Word
  tier  : List Word
  root  : Word
  recs  : List Word
deriving DecidableEq, Repr, Inhabited

/-- A flash target's parameter page (R306, R335): main and spare bytes of a page, LUNs, planes, pages of a block, blocks of
a plane, rate in 100 MT/s, times in µs, endurance in units of 100, and whether word lines are programmed in one pass. -/
structure FlashTarget where
  main    : Nat
  spare   : Nat
  luns    : Nat
  planes  : Nat
  pages   : Nat
  blocks  : Nat
  rate    : Nat
  tR      : Nat
  tProg   : Nat
  tBers   : Nat
  endur   : Nat
  onePass : Bool
deriving DecidableEq, Repr, Inhabited

/-- What the service processor finds when a start-up step ends (R426, R427). -/
structure StartReport where
  /-- HBM stacks that failed training -/
  stackFail : List Nat
  /-- modules found: channel, TYPE, CAP_GIB, RANKS (R215, R239) -/
  modules   : List (Nat × Nat × Nat × Nat)
  /-- link ports trained: port, lanes, partner node -/
  ports     : List (Nat × Nat × Nat)
  /-- flash channels: channel, and the targets that answer (R306) -/
  flash     : List (Nat × List FlashTarget)
  /-- flash channels with a target that fails training -/
  flashFail : List Nat
  /-- partition configurations to restore -/
  parts     : List StoredPart
deriving DecidableEq, Repr, Inhabited

/-- Low `n` bits of `w` from bit `lo`, as a number. -/
def fld {m : Nat} (w : BitVec m) (lo n : Nat) : Nat := (w.extractLsb' lo n).toNat

/-- `w` with the `n` bits from bit `lo` replaced by `v`. -/
def putFld (w : Word) (lo n : Nat) (v : Nat) : Word :=
  let mask : Word := (BitVec.ofNat 64 (2 ^ n - 1)) <<< lo
  (w &&& ~~~mask) ||| ((BitVec.ofNat 64 v) <<< lo &&& mask)

/-- The little-endian value of a byte list (R109, R161). -/
def leNat : List Byte → Nat
  | [] => 0
  | b :: bs => b.toNat + 256 * leNat bs

/-- The `n` little-endian bytes of a value. -/
def leBytes : Nat → Nat → List Byte
  | 0, _ => []
  | n + 1, v => BitVec.ofNat 8 v :: leBytes n (v / 256)

/-- A finite table: sorted by key, no key twice, no entry equal to what an unlisted key reads as. -/
structure Tab (α : Type) where
  cells : List (Nat × α)
deriving DecidableEq, Repr, Inhabited

namespace Tab
variable {α : Type}

def empty : Tab α := ⟨[]⟩

def lookup : List (Nat × α) → Nat → Option α
  | [], _ => none
  | (j, v) :: r, k => if j = k then some v else lookup r k

/-- The entry at `k`, or what an unlisted key reads as. -/
def get (d : Nat → α) (t : Tab α) (k : Nat) : α := (lookup t.cells k).getD (d k)

def erase (l : List (Nat × α)) (k : Nat) : List (Nat × α) := l.filter (fun c => c.1 != k)

def insert : List (Nat × α) → Nat → α → List (Nat × α)
  | [], k, v => [(k, v)]
  | (j, w) :: r, k, v => if k < j then (k, v) :: (j, w) :: r else (j, w) :: insert r k v

/-- Writes `v` at `k`; a value that an unlisted key reads as is not listed. -/
def set [DecidableEq α] (d : Nat → α) (t : Tab α) (k : Nat) (v : α) : Tab α :=
  if v = d k then ⟨erase t.cells k⟩ else ⟨insert (erase t.cells k) k v⟩

/-- The canonical form. -/
def wf [DecidableEq α] (d : Nat → α) (t : Tab α) : Bool :=
  decide (t.cells.Pairwise (fun a b => a.1 < b.1)) && t.cells.all (fun c => decide (c.2 ≠ d c.1))

def keys (t : Tab α) : List Nat := t.cells.map Prod.fst

end Tab

/-- A byte-addressed memory: the cells are `Host.Cell`s (address, byte); an unlisted byte reads 0. -/
abbrev Mem := Tab Byte

namespace Mem

def rd (m : Mem) (a : Nat) : Byte := Tab.get (fun _ => 0) m a
def wr (m : Mem) (a : Nat) (b : Byte) : Mem := Tab.set (fun _ => 0) m a b
def wf (m : Mem) : Bool := Tab.wf (fun _ => 0) m

/-- The `n` bytes from `a`, lowest address first. -/
def bytes (m : Mem) (a : Nat) : Nat → List Byte
  | 0 => []
  | n + 1 => rd m a :: bytes m (a + 1) n

def putBytes (m : Mem) (a : Nat) : List Byte → Mem
  | [] => m
  | b :: bs => putBytes (wr m a b) (a + 1) bs

/-- Little-endian read and write of `n` bytes. -/
def le (m : Mem) (a n : Nat) : Nat := leNat (bytes m a n)
def putLe (m : Mem) (a n v : Nat) : Mem := putBytes m a (leBytes n v)

/-- The memory that holds just these bytes from address 0. -/
def ofBytes (bs : List Byte) : Mem := putBytes Tab.empty 0 bs

end Mem

/-- A core and the voltage, in mV, that the command reports for it. -/
structure CoreMv where
  core : CoreId
  mv   : BitVec 10
deriving DecidableEq, Repr

end Sys2Proof
end

