-- ==== Sys2Proof/Syntax.lean ====
section
/-! DEFINITION. The commands: one constructor per row of spec/opcode_table.json, family by family.
`c` core, `t` context (thread or hart), `f` the function that writes, `p` partition, `o` long-operation slot. -/

namespace Sys2Proof

inductive Instr where
  -- thread and hart instructions (04, R85 to R101): the encoded fields of R79
  | alu   (c : CoreId) (t : CtxId) (rd ra rb : Reg) (fn : BitVec 14)
  | mul   (c : CoreId) (t : CtxId) (rd ra rb : Reg) (fn : BitVec 14)
  | fpu   (c : CoreId) (t : CtxId) (rd ra rb : Reg) (fn : BitVec 14)
  | addi  (c : CoreId) (t : CtxId) (rd ra : Reg) (imm : BitVec 18)
  | andi  (c : CoreId) (t : CtxId) (rd ra : Reg) (imm : BitVec 18)
  | ori   (c : CoreId) (t : CtxId) (rd ra : Reg) (imm : BitVec 18)
  | xori  (c : CoreId) (t : CtxId) (rd ra : Reg) (imm : BitVec 18)
  | shli  (c : CoreId) (t : CtxId) (rd ra : Reg) (imm : BitVec 18)
  | shri  (c : CoreId) (t : CtxId) (rd ra : Reg) (imm : BitVec 18)
  | srai  (c : CoreId) (t : CtxId) (rd ra : Reg) (imm : BitVec 18)
  | slti  (c : CoreId) (t : CtxId) (rd ra : Reg) (imm : BitVec 18)
  | lui   (c : CoreId) (t : CtxId) (rd : Reg) (imm : BitVec 22)
  | beq   (c : CoreId) (t : CtxId) (ra rb : Reg) (off : BitVec 18)
  | bne   (c : CoreId) (t : CtxId) (ra rb : Reg) (off : BitVec 18)
  | blt   (c : CoreId) (t : CtxId) (ra rb : Reg) (off : BitVec 18)
  | bge   (c : CoreId) (t : CtxId) (ra rb : Reg) (off : BitVec 18)
  | bltu  (c : CoreId) (t : CtxId) (ra rb : Reg) (off : BitVec 18)
  | bgeu  (c : CoreId) (t : CtxId) (ra rb : Reg) (off : BitVec 18)
  | jal   (c : CoreId) (t : CtxId) (rd : Reg) (off : BitVec 22)
  | jalr  (c : CoreId) (t : CtxId) (rd ra : Reg) (imm : BitVec 18)
  | endT  (c : CoreId) (t : CtxId) (rd ra rb : Reg) (fn : BitVec 14)
  | yield (c : CoreId) (t : CtxId) (rd ra : Reg) (imm : BitVec 18)
  /-- `seu`: bit errors that have struck the addressed 64-bit word since it was last read (R60). -/
  | ld    (c : CoreId) (t : CtxId) (rd ra : Reg) (size : Fin 4) (sx : Bool) (off : BitVec 15) (seu : Nat)
  | st    (c : CoreId) (t : CtxId) (rb ra : Reg) (size : Fin 4) (sx : Bool) (off : BitVec 15)
  /-- LINE with FN[0] = 0 and LINE with FN[0] = 1; `hi` is FN[13:1]. -/
  | lcopy (c : CoreId) (t : CtxId) (rd ra rb : Reg) (hi : BitVec 13)
  | lzero (c : CoreId) (t : CtxId) (rd ra rb : Reg) (hi : BitVec 13)
  | rld   (c : CoreId) (t : CtxId) (rd ra : Reg) (size : Fin 4) (sx : Bool) (off : BitVec 15)
  | rst   (c : CoreId) (t : CtxId) (rb ra : Reg) (size : Fin 4) (sx : Bool) (off : BitVec 15)
  | atom  (c : CoreId) (t : CtxId) (rd ra rb : Reg) (fn : BitVec 14)
  | fence (c : CoreId) (t : CtxId) (rd ra rb : Reg) (fn : BitVec 14)
  | rda   (c : CoreId) (t : CtxId) (rd ra rb : Reg) (fn : BitVec 14)
  | wra   (c : CoreId) (t : CtxId) (rd ra rb : Reg) (fn : BitVec 14)
  | waitr (c : CoreId) (t : CtxId) (rd ra : Reg) (imm : BitVec 18)
  | esub  (c : CoreId) (t : CtxId) (rd ra rb : Reg) (fn : BitVec 14)
  | ewait (c : CoreId) (t : CtxId) (rd ra rb : Reg) (fn : BitVec 14)
  | cins  (c : CoreId) (t : CtxId) (rd ra rb : Reg) (fn : BitVec 14)
  | vts   (c : CoreId) (t : CtxId) (rd ra rb : Reg) (fn : BitVec 14)
  | hpush (c : CoreId) (t : CtxId) (rd ra rb : Reg) (fn : BitVec 14)
  | hpop  (c : CoreId) (t : CtxId) (rd ra rb : Reg) (fn : BitVec 14)
  | hash  (c : CoreId) (t : CtxId) (rd ra rb : Reg) (fn : BitVec 14)
  | spawn (c : CoreId) (t : CtxId) (rd ra rb : Reg) (fn : BitVec 14)
  | gwait (c : CoreId) (t : CtxId) (rd ra rb : Reg) (hi : BitVec 13)
  | gsig  (c : CoreId) (t : CtxId) (rd ra rb : Reg) (hi : BitVec 13)
  | gld   (c : CoreId) (t : CtxId) (rd ra : Reg) (size : Fin 4) (off : BitVec 15)
  | gst   (c : CoreId) (t : CtxId) (rb ra : Reg) (size : Fin 4) (off : BitVec 15)
  | wqtake (c : CoreId) (t : CtxId) (rd ra rb : Reg) (fn : BitVec 14)
  | gnew  (c : CoreId) (t : CtxId) (rd ra rb : Reg) (fn : BitVec 14)
  | gdone (c : CoreId) (t : CtxId) (rd ra rb : Reg) (hi : BitVec 13)
  | gkill (c : CoreId) (t : CtxId) (rd ra rb : Reg) (hi : BitVec 13)
  | specb (c : CoreId) (t : CtxId) (rd ra rb : Reg) (fn : BitVec 14)
  | specc (c : CoreId) (t : CtxId) (rd ra rb : Reg) (fn : BitVec 14)
  | specx (c : CoreId) (t : CtxId) (rd ra rb : Reg) (fn : BitVec 14)
  -- core events; `i` numbers an access under way (State.reqs), `line` a 64-byte line of it
  | contextFree (c : CoreId) (t : CtxId)
  | readDataReturn (i : Nat) (line : Nat)
  | writeAck (i : Nat)
  | remoteAccessAtTarget (i : Nat)
  | remoteResponse (i : Nat)
  | hartRunWrite (f : Fn) (c : CoreId) (v : BitVec 32)
  | coreCommit (f : Fn) (c : CoreId)
  | coreSoftReset (f : Fn) (c : CoreId)
  | coreZeroingDone (c : CoreId)
  | coreResetReady (c : CoreId)
  -- engines and Collators
  | descStart (c : CoreId) (e : EngId)
  | descComplete (c : CoreId) (e : EngId)
  | collatorTake (c : CoreId) (e : EngId)
  | listSeal (c : CoreId) (l : ListId)
  | collatorCommit (f : Fn) (c : CoreId)
  | groupFreeReport (c : CoreId)
  | mergeRequest
  -- index versions and prefetch
  | publishSample (p : PartId)
  | publishPointWrite (p : PartId)
  | indexSnapshotCommit (f : Fn) (p : PartId) (o : SlotId)
  | snapshotPublish (p : PartId)
  | prefetchFill (i : Nat)
  | prefetchServe (c : CoreId) (k : Nat)
  -- Desk; `q` is a QUERY_TAG
  | ringPoll (p : PartId)
  | admitNext
  | workItemRelease (c : CoreId)
  | reserveRefill
  | queryStageAdvance (q : Nat)
  | queryComplete (q : Nat)
  | modelStepStart (p : PartId)
  | generativeRound (p : PartId)
  | layerStart (p : PartId)
  /-- A request of this chip's software, or (none) the oldest STATE request received (R206). -/
  | ownershipOp (r : Option OwnReq)
  | stateReplyReceive
  | handoffSweep
  | stateClaim (f : Fn) (p : PartId) (o : SlotId)
  | deskCommit (f : Fn) (p : PartId)
  | deskConfigEffect (p : PartId)
  -- tiers; `errs`: bytes (tier 0) or devices (tier 1) of the line in error (R231, R232)
  | tierRead (i : Nat) (line : Nat) (errs : Nat)
  | tierWrite (i : Nat) (line : Nat)
  | tierAtom (i : Nat) (errs : Nat)
  | scrubRead (g : PieceId) (line : Nat) (errs : Nat)
  | migrationPeriod (p : PartId)
  | moveCopyDone (p : PartId)
  | migrationBatch (f : Fn) (p : PartId) (o : SlotId)
  | tierCommit (f : Fn)
  | bar2Read (f : Fn) (x : BitVec 36) (n : Nat)
  | bar2Write (f : Fn) (x : BitVec 36) (data : List Byte)
  | pieceZeroingDone (g : PieceId)
  -- Expanders; `b` is a block of the access
  | expanderBlockDecode (i : Nat) (b : Nat)
  | expanderBlockEncode (i : Nat) (b : Nat)
  | mouldTableLoad (f : Fn) (p : PartId) (o : SlotId)
  | mouldInstall (p : PartId)
  | mouldOwnerWrite (f : Fn) (x : ExpId) (q : Fin 4) (v : Word)
  | expanderCommit (f : Fn) (x : ExpId)
  -- Carrel; `bad`: module byte addresses of bursts that read uncorrectable, `corr`: bursts corrected
  | carrelRingPoll (m : ModId)
  | scan (m : ModId) (bad : List Nat) (corr : Nat)
  | select (m : ModId) (bad : List Nat) (corr : Nat)
  | rowsum (m : ModId) (bad : List Nat) (corr : Nat)
  | carrelComplete (m : ModId)
  | carrelCancel (m : ModId) (q : Nat)
  | carrelEnableWrite (f : Fn) (m : ModId) (v : Word)
  | carrelCommit (f : Fn) (m : ModId)
  -- Gather units
  | gatherRingPoll (p : PartId)
  | lookup (p : PartId)
  | update (p : PartId)
  | gatherBatchComplete (p : PartId)
  | rowReq
  | rowData
  | gradientApply
  | hotPeriodExpiry (g : GuId)
  | tableReplace (f : Fn) (p : PartId) (o : SlotId)
  | tableReplaceCommit (p : PartId)
  | tableHoldExpiry (p : PartId)
  | guCommit (f : Fn) (g : GuId)
  -- Archive Controller
  | archiveWrite (i : Nat) (line : Nat)
  | archiveRead (i : Nat) (unit : Nat)
  | codewordReadDone (i : Nat) (unit : Nat) (r : CwOutcome)
  | stripeCloseExpiry (p : PartId)
  /-- `fails`: the LUNs (0 to 15) of the stripe group whose program reported failure (R316). -/
  | stripeProgramDone (p : PartId) (fails : List Nat)
  | journalCloseExpiry (p : PartId)
  | journalProgramDone (p : PartId)
  | checkpointRound (p : PartId)
  | collectionIdleExpiry (p : PartId)
  /-- `bad`: codewords of the victim that were recovered by nothing (R315). -/
  | collect (p : PartId) (bad : List Nat)
  /-- `fails`: member LUNs whose block failed erase twice. -/
  | eraseDone (p : PartId) (fails : List Nat)
  | discard (f : Fn) (p : PartId) (o : SlotId)
  | secureDiscard (f : Fn) (p : PartId) (o : SlotId)
  | discardAccept (p : PartId)
  | collectionFlush (f : Fn) (p : PartId) (o : SlotId)
  | flashFormat (f : Fn) (p : PartId) (o : SlotId)
  | archiveCommit (f : Fn)
  -- Taleus Link
  | egressSlot (q : PortId)
  | flitReceive (q : PortId) (x : Flit) (crc : Crc)
  | replayTimeout (q : PortId)
  | linkTrainingDone (q : PortId) (lanes : BitVec 4) (partner : BitVec 10)
  | gateEntryExpiry (q : PortId)
  | gclSwitch (q : PortId)
  | histSample (q : PortId)
  | histClear (f : Fn) (q : PortId)
  | sendRingPoll (p : PartId)
  | put (p : PartId)
  | sendComplete (p : PartId)
  | vcOwnerChange (q : PortId) (v : Fin 8)
  | linkCommit (f : Fn)
  | portCommit (f : Fn) (q : PortId)
  | linkPortReset (f : Fn) (q : PortId)
  -- Roll Call
  | heartbeatSend
  | heartbeatReceive
  | heartbeatMiss (q : PortId)
  | lost
  | arrive
  | release
  | abort
  | barrierPoll (b : Fin 16)
  | portFenceWrite (f : Fn) (v : Word)
  | nodeFenceWrite (f : Fn) (i : Fin 16) (v : Word)
  | rollcallCommit (f : Fn)
  -- host ports and partitions
  | sqTailWrite (f : Fn) (q : Fin 16) (v : BitVec 16)
  | cqHeadWrite (f : Fn) (q : Fin 16) (v : BitVec 16)
  | queueEnableWrite (f : Fn) (cq : Bool) (q : Fin 16) (v : Word)
  | cqTimerExpiry (f : Fn) (q : Fin 16)
  | hostCommit (f : Fn)
  | perst (b : HPort)
  | flr (f : Fn)
  | partResetWrite (f : Fn) (v : BitVec 16)
  | partitionReset (p : PartId)
  | partResetDone (p : PartId)
  | partCommit (f : Fn)
  | partRunWrite (f : Fn) (v : BitVec 16)
  | compositionChange (f : Fn) (p : PartId) (o : SlotId)
  | bulkScan (f : Fn) (p : PartId) (o : SlotId)
  -- power, reset and start-up
  | powerCommit (f : Fn)
  /-- `vout`: what READ_VOUT gives, in mV (R414). -/
  | freqChangeDone (x : CoreMv)
  | vidStep (up : Bool)
  /-- `mv`: the voltage at the core's own supply (R416), below at the sense point (R417). -/
  | droopDetect (x : CoreMv)
  | droopRecover (x : CoreMv) (cycles : Nat)
  | pwrBrownout (mv : BitVec 10)
  | brownoutEnd (ns : Nat) (mv : BitVec 10)
  | pwrSupplyReset (mv : BitVec 10)
  | thermalSample (deg : List Nat)
  | throttleStep (r : Fin 36)
  | ungateSlot
  | engineRestartSlot
  | supplyResetRelease
  | pwrOkRise
  | pwrOkFall
  | startupStepDone (r : StartReport)
  | chipRstNAssert (ns : Nat)
  | chipRstNRelease
  | rstCmd (f : Fn) (key : BitVec 16)
  | standbyLoss
  -- Colophon
  | mrExtend (f : Fn) (v : BitVec 3)
  | push (f : Fn) (off : BitVec 14)
  | pushDone (ok : Bool)
  | firmwareStage (f : Fn) (part : Option Bool)
  | getVersion (b : HPort)
  | getCapabilities (b : HPort)
  | negotiateAlgorithms (b : HPort) (base hash : Bool)
  | getDigests (b : HPort)
  | getCertificate (b : HPort) (slot off len : Nat)
  | challenge (b : HPort) (slot : Nat) (nonce : List Byte)
  | getMeasurements (b : HPort) (index : Nat) (sign : Bool) (nonce : List Byte)
  /-- `last`: the request that the chunks have carried, with the last of them. -/
  | chunkSend (b : HPort) (last : Option SpdmReq) (data : List Byte)
  | chunkGet (b : HPort) (k : Nat)
  | getPqCert (b : HPort) (off len : Nat)
  | getPqSig (b : HPort)
  -- Ream Meter; `crc`: the CRC-32C of the I2C command is right
  | meterIncrement
  | energySample (uj : Nat)
  | energyApportion
  | meterIntervalExpiry
  | recordCut
  | meterStart (slot : Bool)
  | mirrorRefresh
  | status (crc : Bool)
  | readRecord (crc : Bool) (seq : Word) (off len : Nat)
  | readCert (crc : Bool) (chain : Nat) (off len : Nat)
  | cut (crc : Bool)
  | writeConfig (crc : Bool) (interval : BitVec 16) (addr : Byte)
  | fwPush (crc : Bool) (off : BitVec 32) (data : List Byte)
  | fwCommit (crc : Bool)
  | reseal (crc : Bool) (token : List Byte)
  -- Accession Log
  | logEventTake
  | logTokenRefill (code : BitVec 16)
  | logSummaryTimeout (code : BitVec 16)
  | logPersistWriteDone (ok : Bool)
  | logClear (f : Fn) (key : BitVec 16)
  | logCursor (f : Fn) (atEnd : Bool)
  | logWindowAdvance (f : Fn)
  -- register access
  | latchedLowRead (f : Fn) (off : BitVec 25) (size : Nat)
  | quiesceReqWrite (f : Fn) (off : BitVec 24) (v : Bool)
  | registerWrite (f : Fn) (off : BitVec 25) (size : Nat) (v : Word)
  -- rows without operands stand last: compiled Lean gives no tag above 243 to a constructor with fields
  | powerOn
  | recordSigningDone
  | logPersist
  | opSecondsTick
deriving DecidableEq, Repr

end Sys2Proof
end

