-- ==== Sys2Proof/Decode.lean ====
section
/-! DEFINITION. The commands that the table gives bits: none. No row of spec/opcode_table.json carries a field or a
fixed bit, so no word spells a command; thread instructions arrive with the fields of R79 already separated. -/

namespace Sys2Proof

/-- The command that the low `nbits` bits of `w` spell by the table: no row gives bits. -/
def decodeTableWord (_nbits _w : Nat) : Option Instr := none

end Sys2Proof
end

