-- ==== Sys2Proof/Config.lean ====
section
/-! DEFINITION. What one part or one implementation fixes, and the free values: opaque constants with no body.
Nothing can be proved about the value of an opaque constant, so every claim holds for all of them. -/

namespace Sys2Proof.Config

/-- The part: true for GS820-128 (R2), with the cores that its fuses disable (R3).
The model's figures are those of the GS820-144 unless this says otherwise. -/
opaque is128 : Bool
/-- On a GS820-128, which cores are fused off (R3) varies from part to part: the place of each in turn among the cores
that are left. -/
opaque fusedPick : Fin 16 → Nat

/-- Takes the cores named by the places `ks`, one after the other, out of `rest`. -/
def takeOff : List Nat → List Nat → List Nat
  | [], _ => []
  | k :: ks, rest =>
    let c := rest.getD (k % rest.length) 0
    c :: takeOff ks (rest.erase c)

/-- The 16 distinct cores that a GS820-128 has fused off (R3). -/
def fusedOff : List Nat := takeOff ((List.finRange 16).map fusedPick) (List.range 144)

/-- Core `n` is enabled (R3, CHIP_CORE_EN): 144 cores, or 128. -/
def coreEnabled (n : Nat) : Bool := decide (n < 144) && !(is128 && fusedOff.contains n)

/-- Free values, applied to the state's counter `free`, which each use advances. -/
opaque freeWord : Nat → Word
opaque freeBit  : Nat → Bool
/-- A free choice among the first `n` of something: used as an index modulo `n`. -/
opaque freePick : Nat → Nat
/-- Free bytes at free places, and free list entries: what a misuse leaves in stores (R504). -/
opaque anyWrites : Nat → List (Nat × Byte)
opaque anyEntries : Nat → List (Word × F32)
/-- Which NaN code a conversion of a NaN writes in a narrow format (R112 names only "NaN"): sign and payload. -/
opaque nanNeg : Nat → Bool
opaque nanPayload : Nat → Nat
/-- Which of the numbers within the error bound of R144 an EXP2 term is. -/
opaque exp2Pick : F32 → Nat
/-- Colophon's and the meter's published algorithms (R433, R435, R438, R456): named by the manual, not defined in it. -/
opaque sha384 : List Byte → List Byte
opaque rsaVerify : List Byte → List Byte → List Byte → Bool
opaque slhVerify : List Byte → List Byte → List Byte → Bool
opaque rsaSign : List Byte → List Byte → List Byte
opaque slhSign : List Byte → List Byte → List Byte
/-- The LDPC parity bytes of a codeword (R307): the manual gives their places and not the code. -/
opaque ldpc : List Byte → Nat → Byte
/-- Fused data (R432, R446): varies from part to part. -/
opaque serial : Word
opaque deviceSecret : List Byte
opaque keyDigest : Nat → List Byte
opaque meterSecret : List Byte
opaque approvalDigest : Nat → List Byte
/-- The ROM that MR0 measures (R438), and the two certificate chains of the boot NOR (R433) and of the meter. -/
opaque romBytes : List Byte
opaque rsaChain : List Byte
opaque slhChain : List Byte
opaque meterRsaChain : List Byte
opaque meterSlhChain : List Byte
/-- SPDM message bodies that DMTF SPDM 1.3 lays out (R439): request code, port, state-dependent data. -/
opaque spdmBody : Nat → List Byte → List Byte
/-- Speed, width, flit mode and L0p of a host port's link as it trains (R391): what the partner gives. -/
opaque hostLink : Nat → Word
/-- The voltage in mV that the on-die process monitors accept for a frequency (R413). -/
opaque voltageFor : Nat → Nat
/-- Column of a row in row `k` of a count-min sketch (R295 names no hash). -/
opaque sketchCol : Nat → Nat → Nat
/-- Good data superblocks of a formatted namespace (R308, R309): set by the media. -/
opaque goodSuperblocks : Nat → Nat
/-- Blocks of a LUN that its maker has marked bad (R329). -/
opaque factoryBad : Nat → Nat

end Sys2Proof.Config
end

