-- ==== Sys2Proof/Machine/Float.lean ====
section
/-! DEFINITION. fp32 arithmetic (R77, R86), the element formats of R109 and the conversion of R112, all computed
exactly on dyadic numbers `m × 2^e` and rounded once, to nearest, ties to even. -/

namespace Sys2Proof.Machine

/-- A floating value: sign, magnitude `m × 2^e`. -/
inductive FV where
  | nan
  | inf (neg : Bool)
  | fin (neg : Bool) (m : Nat) (e : Int)
deriving DecidableEq, Repr, Inhabited

/-- `m ÷ 2^d` rounded to nearest, ties to even. -/
def rneShift (m d : Nat) : Nat :=
  let q := m / 2 ^ d
  let r := m % 2 ^ d
  if 2 * r > 2 ^ d ∨ (2 * r = 2 ^ d ∧ q % 2 = 1) then q + 1 else q

def bitLen (m : Nat) : Nat := if m = 0 then 0 else Nat.log2 m + 1

/-- `m × 2^e` rounded to `prec` significant bits with least exponent `emin`: significand and exponent of its last bit. -/
def roundFin (prec : Nat) (emin : Int) (m : Nat) (e : Int) : Nat × Int :=
  let l := max (e + bitLen m - prec) emin
  if l ≤ e then (m * 2 ^ (e - l).toNat, l) else (rneShift m (l - e).toNat, l)

def signBit (n : Bool) (w : Nat) : Nat := if n then 2 ^ (w - 1) else 0

/-- The IEEE bits of a rounded magnitude with `mb` mantissa bits. -/
def packBits (mb : Nat) (emin : Int) (r : Nat × Int) : Nat := (r.2 - emin).toNat * 2 ^ mb + r.1

def qNaN : F32 := 0x7FC00000#32

/-- fp32 of an exact value (R77): overflow gives an infinity. -/
def FV.toF32 : FV → F32
  | .nan => qNaN
  | .inf n => BitVec.ofNat 32 (signBit n 32 + 0x7F800000)
  | .fin n m e =>
    if m = 0 then BitVec.ofNat 32 (signBit n 32)
    else BitVec.ofNat 32 (signBit n 32 + min 0x7F800000 (packBits 23 (-149) (roundFin 24 (-149) m e)))

/-- An IEEE-style value of `eb` exponent and `mb` mantissa bits. -/
def ieee (eb mb : Nat) (w : Nat) : FV :=
  let n := decide (w / 2 ^ (eb + mb) % 2 = 1)
  let x := w / 2 ^ mb % 2 ^ eb
  let m := w % 2 ^ mb
  let bias : Int := 2 ^ (eb - 1) - 1
  if x = 2 ^ eb - 1 then (if m = 0 then .inf n else .nan)
  else if x = 0 then .fin n m (1 - bias - mb)
  else .fin n (m + 2 ^ mb) (x - bias - mb)

def fv (x : F32) : FV := ieee 8 23 x.toNat

def FV.neg : FV → FV
  | .nan => .nan
  | .inf n => .inf !n
  | .fin n m e => .fin (!n) m e

def sInt (n : Bool) (m : Nat) : Int := if n then -(m : Int) else m

/-- Exact sum; a zero sum is −0 only of two negative zeros (round to nearest). -/
def FV.add : FV → FV → FV
  | .nan, _ | _, .nan => .nan
  | .inf a, .inf b => if a = b then .inf a else .nan
  | .inf a, _ | _, .inf a => .inf a
  | .fin a m e, .fin b k f =>
    let g := min e f
    let z := sInt a (m * 2 ^ (e - g).toNat) + sInt b (k * 2 ^ (f - g).toNat)
    if z = 0 then .fin (a && b && decide (m = 0 ∧ k = 0)) 0 g else .fin (decide (z < 0)) z.natAbs g

def FV.mul : FV → FV → FV
  | .nan, _ | _, .nan => .nan
  | .inf a, .inf b => .inf (a != b)
  | .inf a, .fin b k _ => if k = 0 then .nan else .inf (a != b)
  | .fin a m _, .inf b => if m = 0 then .nan else .inf (a != b)
  | .fin a m e, .fin b k f => .fin (a != b) (m * k) (e + f)

/-- Exact multiplication by 2^k. -/
def FV.scale (k : Int) : FV → FV
  | .fin n m e => .fin n m (e + k)
  | v => v

/-- Order of two values that are not NaN; the zeros are equal. -/
def FV.lt : FV → FV → Bool
  | .nan, _ | _, .nan => false
  | .inf a, .inf b => a && !b
  | .inf a, _ => a
  | _, .inf b => !b
  | .fin a m e, .fin b k f =>
    let g := min e f
    decide (sInt a (m * 2 ^ (e - g).toNat) < sInt b (k * 2 ^ (f - g).toNat))

def FV.eq (a b : FV) : Bool :=
  match a, b with
  | .nan, _ | _, .nan => false
  | a, b => !a.lt b && !b.lt a

def isNaN32 (x : F32) : Bool := decide (fv x = .nan)

def fadd (a b : F32) : F32 := ((fv a).add (fv b)).toF32
def fsub (a b : F32) : F32 := ((fv a).add (fv b).neg).toF32
def fmul (a b : F32) : F32 := ((fv a).mul (fv b)).toF32
def flt (a b : F32) : Bool := (fv a).lt (fv b)
def feq (a b : F32) : Bool := (fv a).eq (fv b)
def fscale (k : Int) (a : F32) : F32 := ((fv a).scale k).toF32

def fneg0 (x : F32) : Bool := x.msb

/-- FMIN and FMAX (R86): the other operand when one is a NaN; −0 below +0. -/
def fminmax (mx : Bool) (a b : F32) : F32 :=
  if isNaN32 a then (if isNaN32 b then qNaN else b)
  else if isNaN32 b then a
  else if feq a b then (if fneg0 a != mx then a else b)
  else if flt a b != mx then a else b

/-- A finite value rounded to an integer, ties to even. -/
def rneInt (n : Bool) (m : Nat) (e : Int) : Int :=
  sInt n (if 0 ≤ e then m * 2 ^ e.toNat else rneShift m (-e).toNat)

/-- FCVTI (R86). -/
def fcvti (a : F32) : Word :=
  match fv a with
  | .nan => 0
  | .inf n => if n then BitVec.ofNat 64 (2 ^ 63) else BitVec.ofNat 64 (2 ^ 63 - 1)
  | .fin n m e => BitVec.ofInt 64 (max (-(2 ^ 63 : Int)) (min (2 ^ 63 - 1) (rneInt n m e)))

def f32OfInt (z : Int) : F32 := (FV.fin (decide (z < 0)) z.natAbs 0).toF32

/-- FCVTF (R86). -/
def fcvtf (w : Word) : F32 := f32OfInt w.toInt

/-- fp32 quotient, rounded once. -/
def fdiv (a b : F32) : F32 :=
  match fv a, fv b with
  | .nan, _ | _, .nan => qNaN
  | .inf _, .inf _ => qNaN
  | .inf x, .fin y _ _ => (FV.inf (x != y)).toF32
  | .fin x _ _, .inf y => (FV.fin (x != y) 0 0).toF32
  | .fin x m e, .fin y k f =>
    if k = 0 then (if m = 0 then qNaN else (FV.inf (x != y)).toF32)
    else
      let q := m * 2 ^ 64 / k
      let st := if m * 2 ^ 64 % k = 0 then 0 else 1
      (FV.fin (x != y) (2 * q + st) (e - f - 65)).toF32

/-- Integer square root by bisection on `n` bits. -/
def isqrt : Nat → Nat → Nat → Nat
  | 0, acc, _ => acc
  | n + 1, acc, v => if (acc + 2 ^ n) * (acc + 2 ^ n) ≤ v then isqrt n (acc + 2 ^ n) v else isqrt n acc v

/-- fp32 square root, rounded once. -/
def fsqrt (a : F32) : F32 :=
  match fv a with
  | .nan => qNaN
  | .inf n => if n then qNaN else a
  | .fin n m e =>
    if m = 0 then a
    else if n then qNaN
    else
      let d := 64 + (e % 2).toNat
      let v := m * 2 ^ d
      let r := isqrt 64 0 v
      let st := if r * r = v then 0 else 1
      (FV.fin false (2 * r + st) ((e - d) / 2 - 1)).toF32

/-! ### Element formats (R109) -/

/-- Format codes of R109. -/
inductive EFmt where
  | int8 | int4 | e4m3 | e5m2 | bf16 | fp16 | bin | pq4 | pq8 | fp32
deriving DecidableEq, Repr, Inhabited

def EFmt.ofCode : Nat → Option EFmt
  | 0 => some .int8 | 1 => some .int4 | 2 => some .e4m3 | 3 => some .e5m2 | 4 => some .bf16 | 5 => some .fp16
  | 6 => some .bin | 7 => some .pq4 | 8 => some .pq8 | 9 => some .fp32 | _ => none

/-- OFMT codes of R113. -/
def EFmt.ofOut : Nat → Option EFmt
  | 0 => some .fp32 | 1 => some .bf16 | 2 => some .fp16 | 3 => some .int8 | 4 => some .int4 | 5 => some .e4m3
  | 6 => some .e5m2 | _ => none

def EFmt.bits : EFmt → Nat
  | .int8 | .e4m3 | .e5m2 | .pq8 => 8
  | .int4 | .pq4 => 4
  | .bf16 | .fp16 => 16
  | .bin => 1
  | .fp32 => 32

def EFmt.isInt : EFmt → Bool
  | .int8 | .int4 => true
  | _ => false

/-- Two's complement value of an `n`-bit code. -/
def sext (n w : Nat) : Int := if w % 2 ^ n < 2 ^ (n - 1) then (w % 2 ^ n : Int) else (w % 2 ^ n : Int) - 2 ^ n

def e4m3Val (w : Nat) : FV :=
  if w % 128 = 127 then .nan
  else
    let x := w / 8 % 16
    let n := decide (w / 128 % 2 = 1)
    if x = 0 then .fin n (w % 8) (-9) else .fin n (w % 8 + 8) ((x : Int) - 10)

/-- The value of an element's code. -/
def EFmt.value (f : EFmt) (w : Nat) : FV :=
  match f with
  | .int8 => let z := sext 8 w; .fin (decide (z < 0)) z.natAbs 0
  | .int4 => let z := sext 4 w; .fin (decide (z < 0)) z.natAbs 0
  | .e4m3 => e4m3Val w
  | .e5m2 => ieee 5 2 w
  | .bf16 => ieee 8 7 w
  | .fp16 => ieee 5 10 w
  | .fp32 => ieee 8 23 w
  | .bin | .pq4 | .pq8 => .fin false w 0

/-- Element `i` of a packed vector (R109). -/
def EFmt.elem (f : EFmt) (bs : List Byte) (i : Nat) : Nat :=
  match f.bits with
  | 1 => (bs.getD (i / 8) 0).toNat / 2 ^ (i % 8) % 2
  | 4 => (bs.getD (i / 2) 0).toNat / 2 ^ (4 * (i % 2)) % 16
  | n => leNat ((bs.drop (i * (n / 8))).take (n / 8))

/-- Mantissa bits, exponent of the last subnormal bit and largest finite code of a floating format. -/
def EFmt.shape : EFmt → Nat × Int × Nat
  | .e4m3 => (3, -9, 0x7E)
  | .e5m2 => (2, -16, 0x7B)
  | .bf16 => (7, -133, 0x7F7F)
  | .fp16 => (10, -24, 0x7BFF)
  | _ => (23, -149, 0x7F7FFFFF)

/-- A NaN code of a floating format: fp32 by R77; the pattern in a narrower format is free (R112 says only NaN). -/
def EFmt.nanCode (f : EFmt) : Nat :=
  match f with
  | .fp32 => 0x7FC00000
  | .e4m3 => signBit (Config.nanNeg 2) 8 + 0x7F
  | .e5m2 => signBit (Config.nanNeg 3) 8 + 0x7D + Config.nanPayload 3 % 3
  | .bf16 => signBit (Config.nanNeg 4) 16 + 0x7F81 + Config.nanPayload 4 % 127
  | _ => signBit (Config.nanNeg 5) 16 + 0x7C01 + Config.nanPayload 5 % 1023

/-- R112: the code of `x` at exponent `s`, and whether it counts as saturation. -/
def convert (x : FV) (f : EFmt) (s : Int) : Nat × Bool :=
  let w := f.bits
  if f.isInt then
    let top : Int := 2 ^ (w - 1) - 1
    match x with
    | .nan => (0, true)
    | .inf n => ((if n then (-top - 1) else top) % 2 ^ w |>.toNat, true)
    | .fin n m e =>
      let q := rneInt n m (e - s)
      let c := max (-top - 1) (min top q)
      ((c % 2 ^ w).toNat, decide (c ≠ q))
  else
    let (mb, emin, big) := f.shape
    match x with
    | .nan => (f.nanCode, true)
    | .inf n => (signBit n w + big, true)
    | .fin n m e =>
      let b := if m = 0 then 0 else packBits mb emin (roundFin (mb + 1) emin m (e - s))
      (signBit n w + min big b, decide (big < b))

/-- fp32 value of an element. -/
def EFmt.f32 (f : EFmt) (w : Nat) : F32 := (f.value w).toF32

/-- `n` packed codes to bytes. -/
def packCodes (f : EFmt) : List Nat → List Byte
  | [] => []
  | a :: r =>
    match f.bits, r with
    | 4, b :: t => BitVec.ofNat 8 (a + 16 * b) :: packCodes f t
    | 4, [] => [BitVec.ofNat 8 a]
    | n, r => leBytes (n / 8) a ++ packCodes f r

/-! ### EXP2 terms (R144) -/

/-- ln 2 × 2^64. -/
def ln2 : Nat := 12786308645202655660

/-- The terms x^k ÷ k! from `t` on, in units of 2^-64. -/
def expSeries (x : Nat) : Nat → Nat → Nat → Nat
  | 0, _, _ => 0
  | fuel + 1, k, t => t + expSeries x fuel (k + 1) (t * x / 2 ^ 64 / k)

/-- Floor of a number × 2^64. -/
def floor64 (n : Bool) (m : Nat) (e : Int) : Int := if 0 ≤ e + 64 then sInt n m * 2 ^ (e + 64).toNat else sInt n m / 2 ^ (-(e + 64)).toNat

/-- 2^a as a number from 1 to 2 in units of 2^-64, within 2^-58 of it, and the power of two that scales it. -/
def exp2Parts (a : F32) : Nat × Int :=
  match fv a with
  | .fin n m e =>
    let z := floor64 n m e
    (expSeries ((z % 2 ^ 64).toNat * ln2 / 2 ^ 64) 24 1 (2 ^ 64), z / 2 ^ 64)
  | _ => (2 ^ 64, 0)

/-- The term `v` has a relative error of at most 2^-22. -/
def exp2Within (a v : F32) : Bool :=
  let p := exp2Parts a
  match fv v with
  | .fin false m e => decide ((((m * 2 ^ (e + 64 - p.2).toNat : Nat) : Int) - p.1).natAbs * 2 ^ 22 ≤ p.1 + 2 ^ 28)
  | _ => false

/-- The fp32 numbers that the bound allows: those near 2^a. -/
def exp2Cands (a : F32) : List F32 :=
  let p := exp2Parts a
  let c := (p.2 + 127) * 2 ^ 23 + ((p.1 / 2 ^ 41 : Nat) : Int) - 2 ^ 23
  ((List.range 9).map (fun (j : Nat) => BitVec.ofInt 32 (c + j - 4))).filter (exp2Within a)

/-- The EXP2 term of a normal result: which of the allowed numbers it is, the manual leaves open. -/
def exp2Term (a : F32) : F32 := (exp2Cands a).getD (Config.exp2Pick a % (exp2Cands a).length) 0

/-- R144: the term of a score. -/
def sumTerm (exp2 : Bool) (scale s : F32) : F32 :=
  if !exp2 then s
  else
    let a := fmul s scale
    if isNaN32 a then qNaN
    else if !flt a 0x43000000#32 then 0x7F800000#32
    else if flt a 0xC2FC0000#32 then 0
    else exp2Term a

/-- R141: a score better than another. -/
def better (mx : Bool) (a b : F32) : Bool := if mx then flt b a else flt a b

/-- R146: the fill score. -/
def fillScore (mx : Bool) : F32 := if mx then 0xFF800000#32 else 0x7F800000#32

/-! ### CRC-32C (Castagnoli, reflected): R162, R258, R343 and the meter's commands -/

def crcBit (c : Nat) : Nat := if c % 2 = 1 then (c / 2) ^^^ 0x82F63B78 else c / 2

def crcByte (c : Nat) (b : Byte) : Nat := Nat.repeat crcBit 8 (c ^^^ b.toNat)

def crc32c (bs : List Byte) : Nat := bs.foldl crcByte 0xFFFFFFFF ^^^ 0xFFFFFFFF

end Sys2Proof.Machine
end

