-- ==== Sys2Proof/Machine/State.lean ====
section
/-! DEFINITION. The state of the GS820 as plain data: every register (by its BAR0 address, `regs` as software reads
it and `force` as committed, R482), every store, queue, buffer, counter and mode of every block, and the queue of
waiting commands. A `Tab` lists only what differs from its reset value, so the state after reset is small. -/

namespace Sys2Proof.Machine

/-- STATE of a context (R44). A hart that is halted is `free`. -/
inductive TState where
  | free | ready | waitRead | waitEngine | waitUnit | sleep | faulted
deriving DecidableEq, Repr, Inhabited

/-- What a waiting context waits for (R48, R82, R104), with what it writes when the wait ends. -/
inductive Wait where
  | none
  | reissue                 -- the instruction at PC issues again once its cause clears (R45, R56, R89, R181)
  | reads (n : Nat)         -- WAITR
  | drain                   -- END
  | engine (rd ticket : Nat) -- EWAIT
  | access (i : Nat)        -- RLD, remote or tier ATOM: request i
  | fence
  | event (rd : Nat)        -- GWAIT
  | commit                  -- deferred until its hop commits (R104)
  | rebind                  -- a GST that waits for a seal (R137)
  | lost                    -- no further progress, after a misuse (R504)
deriving DecidableEq, Repr, Inhabited

/-- One context of the thread store or the hart store (R43, R44, R51). -/
structure Thread where
  g      : Tab Word := ⟨[]⟩   -- g1 to g15
  pc     : BitVec 16 := 0
  st     : TState := .free
  group  : Nat := 0
  spec   : Bool := false
  hop    : Nat := 0            -- hop of a thread with SPEC = 1 (R101)
  reads  : Nat := 0            -- READS, 0 to 255
  writes : Nat := 0            -- WRAs and RSTs not yet acknowledged (R89)
  wait   : Wait := .none
  marked : Bool := false       -- killed or squashed: freed at its next scheduling point (R49)
  inst   : Nat := 0            -- how often the context has been claimed, so that late data finds no new thread (R50)
deriving DecidableEq, Repr, Inhabited

structure HeapEntry where
  id  : Word
  key : F32
  seq : BitVec 32
deriving DecidableEq, Repr, Inhabited

/-- A group descriptor (R53) and what the Walker keeps beside it (R55, R67, R98, R101). -/
structure Group where
  live    : Bool := false
  done    : Bool := false
  killed  : Bool := false
  desc    : Mem := ⟨[]⟩        -- the 64 bytes of R53
  events  : BitVec 16 := 0
  hops    : Nat := 0           -- open-hop count D
  heap    : List HeapEntry := []
  heapSeq : BitVec 32 := 0
  gen     : Nat := 0           -- how often the descriptor has been claimed
  kind    : Nat := 0           -- KIND and STEP of the work item that it serves (R196)
  step    : Nat := 0
deriving DecidableEq, Repr, Inhabited

/-- Left-out and drop accounting of a list or of a hop (R142, R143, R147). -/
structure Acct where
  left : Nat := 0
  out  : F32 := 0
  best : F32 := 0
  nan  : Nat := 0
  tomb : Nat := 0
deriving DecidableEq, Repr, Inhabited

structure Shadow where
  entries : List (Word × F32) := []
  acct    : Acct := {}
deriving DecidableEq, Repr, Inhabited

/-- A Collator list (R136 to R149); `entries` best first. -/
structure ColList where
  isOpen   : Bool := false
  owner    : Nat := 0
  cfg      : Word := 0                 -- the latched COL_LIST_CFG
  entries  : List (Word × F32) := []
  acct     : Acct := {}
  shadow   : List Shadow := []         -- hops 1, 2, …
  dropHops : List Nat := []            -- hops above SHADOW_HOPS that lost an entry (R149)
  loss     : Bool := false
  sealing  : Bool := false             -- a seal is requested (R137, R138)
  reopen   : Option (Nat × Nat) := none -- the list to open after the seal, and the GST's context
deriving DecidableEq, Repr, Inhabited

/-- A submitted descriptor (R116, R131). -/
structure QDesc where
  bytes : List Byte
  ctx   : Nat
  pc    : BitVec 16
  group : Nat
  gen   : Nat
  spec  : Bool
  hop   : Nat
  epoch : Nat
  seq   : Nat
  ord   : Nat                          -- place of its ESUB in the order of issue (R102)
deriving DecidableEq, Repr, Inhabited

/-- A started descriptor: how far it has come, what it has produced, and how it ends (R117 to R131). -/
structure Running where
  d         : QDesc
  list      : Nat := 0
  toList    : Bool := false
  next      : Nat := 0                 -- the next candidate or row
  out       : List (Word × F32) := []  -- the output queue of 8 entries (R120)
  summary   : Acct := {}
  status    : Nat := 0
  scored    : Nat := 0
  filtered  : Nat := 0
  accSat    : Nat := 0
  failIndex : Nat := 0xFFFFFFFF
  failAddr  : Nat := 0                 -- scratch address of a poisoned or uncorrectable word
deriving DecidableEq, Repr, Inhabited

/-- Resident operands (R115, R119, R124): format, DIM and bytes. -/
structure Resident where
  fmt   : Nat
  dim   : Nat
  bytes : List Byte
  exps  : List Byte
  base  : Nat
deriving DecidableEq, Repr, Inhabited

structure Engine where
  queue   : List QDesc := []
  run     : Option Running := none
  seq     : Nat := 0                   -- next submission sequence, modulo 2^16
  log     : List (Nat × Option Nat) := [] -- the last 4,096 accepted: sequence and status, newest first
  query   : Option Resident := none
  lut     : Option Resident := none
  bitmap  : Option (List Byte) := none
deriving DecidableEq, Repr, Inhabited

/-- An adjacency prefetch entry, oldest first in the buffer (R178, R179). -/
structure PfEntry where
  id     : Nat                         -- its read (State.reqs)
  stale  : Bool                        -- overwritten by the core: serves only those that wait on it already
  addr   : Word
  filled : Bool
  data   : List Byte
  bad    : Bool × Bool                 -- by 64-byte line
  waits  : List (Nat × Nat × Nat)      -- context, its `inst`, scratch destination
deriving DecidableEq, Repr, Inhabited

structure HeldFault where
  group : Nat
  hop   : Nat
  ctx   : Nat
  code  : Nat
  pc    : BitVec 16
  addr  : Word
  ord   : Nat                          -- place in the order of issue (R102)
deriving DecidableEq, Repr, Inhabited

/-- The report of a freed group to the Desk (R152): QUERY_TAG, KIND and STEP of its work item, whether it was killed or left
a list unsealed, whether it was marked done, and the line of the record that its list last wrote. -/
structure Report where
  tag    : Nat
  kind   : Nat := 0
  step   : Nat := 0
  failed : Bool := false
  done   : Bool := true
  line   : Option Nat := none
deriving DecidableEq, Repr, Inhabited

/-- One core tile. Its registers are in `State.regs`. -/
structure Core where
  threads  : Tab Thread := ⟨[]⟩
  groups   : Tab Group := ⟨[]⟩
  scratch  : Mem := ⟨[]⟩
  poison   : Tab Bool := ⟨[]⟩          -- by 64-bit word (R72)
  ecc      : Tab Nat := ⟨[]⟩           -- bits in error, by 64-bit word (R60)
  engines  : Tab Engine := ⟨[]⟩
  lists    : Tab ColList := ⟨[]⟩
  workq    : List (List Byte) := []    -- untaken work items, oldest first (R52)
  handles  : Tab (Option (Nat × List Byte)) := ⟨[]⟩ -- handle: hart and item (R100)
  tombs    : List (Nat × Nat) := []    -- local ID, sequence (R170)
  held     : List (Nat × Nat × Nat) := [] -- group, hop, bit of the scratch (R180, R181)
  faults   : List HeldFault := []      -- R71, oldest first
  prefetch : List PfEntry := []
  freed    : List Report := []         -- freed groups not yet reported (R152)
  sealed   : Tab (Option Nat) := ⟨[]⟩  -- group: line of the record its list last wrote
  hartDown : List Nat := []            -- harts that faulted and have not been restarted (R52)
  colRot   : List Nat := List.range 17 -- order in which the Collator serves engines 0 to 15 and CINS, 16 (R121)
  zeroing  : Bool := false             -- R63
  resetting : Bool := false            -- R75
deriving DecidableEq, Repr, Inhabited

/-- Kinds of access under way. -/
inductive ReqKind where
  | rda | wra | atom | rload | rstore | ratom | prefetch | weight
deriving DecidableEq, Repr, Inhabited

/-- An access that has left its requester and is not complete (R50, R56, R62, R88 to R92). -/
structure Req where
  kind      : ReqKind := .rda
  part      : Nat := 0
  core      : Nat := 0
  ctx       : Nat := 0
  inst      : Nat := 0
  group     : Nat := 0
  gen       : Nat := 0               -- of the issuer's group
  spec      : Bool := false
  hop       : Nat := 0
  pc        : BitVec 16 := 0
  addr      : Word := 0              -- tier or remote address
  loc       : Nat := 0               -- scratch address at the issuer
  len       : Nat := 0
  rd        : Nat := 0
  size      : Nat := 0               -- bytes of a remote access
  sx        : Bool := false
  op        : Nat := 0               -- SWAP, ADD, CAS
  a         : Word := 0              -- RB
  b         : Word := 0              -- RD, the CAS comparand
  old       : Mem := ⟨[]⟩            -- WRA: the source as issued
  oldBad    : Tab Bool := ⟨[]⟩
  stored    : Mem := ⟨[]⟩            -- stored bytes read or to be written, from offset 0
  storedBad : Tab Bool := ⟨[]⟩       -- by stored line
  lines     : Tab Bool := ⟨[]⟩       -- stored lines performed
  out       : Mem := ⟨[]⟩            -- bytes delivered, from offset 0
  outBad    : Tab Bool := ⟨[]⟩       -- by byte
  blocks    : Tab Bool := ⟨[]⟩       -- blocks decoded or encoded
  written   : Tab Bool := ⟨[]⟩       -- destination lines written
  range     : Option (Word × Word) := none -- the compression range entry in force for it (R241)
  reached   : Bool := false          -- it has reached its tier or Expander: the entry is settled (R259)
  refused   : Bool := false          -- its stored bytes then lie outside the allocation
  exp       : Nat := 0               -- its Expander
  came      : Tab Nat := ⟨[]⟩        -- stored line: when it came to the Expander (R248)
  cancelled : Bool := false          -- R103
  answered  : Bool := false
  code      : Nat := 0               -- refusal at the target
deriving DecidableEq, Repr, Inhabited

/-- Where a query came from (R17, R22). -/
inductive Src where
  | sq (f : Fn) (q : Nat)
  | fabric (node part : Nat)
  | ring (p : Nat)
  | bulk (p slot : Nat)
deriving DecidableEq, Repr, Inhabited

/-- Stages of R17, in their order; `remerge` merges the lists of a re-rank. -/
inductive Stage where
  | admitted | encode | search | merge | rerank | remerge | rank | report
deriving DecidableEq, Repr, Inhabited

structure Query where
  part    : Nat
  cidx    : Nat
  cls     : List Byte               -- class entry in force at admission (R189)
  epoch   : Nat
  version : Nat
  publish : Nat
  t0      : Word
  ord     : Nat := 0                -- place in the order of admission
  src     : Src
  cq      : Nat                     -- CQ of its SQ
  cqGen   : Nat                     -- how often that CQ had been enabled
  sqHead  : Nat                     -- the SQ's head after it was taken
  req     : List Byte
  reqAddr : Word
  stage   : Stage
  busy    : Bool                    -- the stage has started and not completed
  fan     : List Nat                -- cores of the fan-out, by SHARD
  waiting : List Nat                -- cores that have not reported (R152)
  recs    : List (Nat × Nat)        -- core, record line of its list
  members : List Nat                -- members whose RESULT is awaited
  remote  : List (Nat × List Byte)  -- member, its record
  record  : List Byte               -- the record that has reached the Desk
  err     : Nat
  wcet    : Nat
  step    : Nat := 0                -- STEP of the items whose groups' reports its ranking awaits (R196)
  qvec    : Nat := 0                -- scratch address of the encoded query vector, 0 at INPUT_ADDR (R196)
deriving DecidableEq, Repr, Inhabited

/-- A source of a merge (R152): a scratch record or bytes held by the chip. `absent` stands at its place j for a core whose
group sealed no list. -/
inductive MSrc where
  | absent
  | scratch (core addr : Nat)
  | tier (addr : Word)
  | held (bytes : List Byte)
deriving DecidableEq, Repr, Inhabited

structure Merge where
  part  : Nat
  tag   : Nat
  srcs  : List MSrc
  kOut  : Nat
  dedup : Bool
  dest  : Option (Bool × Word)      -- RESULT_ADDR (true: a remote scratch address); none: another node's query
  bulk  : Option (Nat × Nat)        -- partition and slot of a bulk scan (R387)
deriving DecidableEq, Repr, Inhabited

/-- A model step (R202, R203). -/
structure Step where
  model  : Nat
  plan   : List Byte := []          -- header and layer descriptors, as in force at its start (R201)
  tags   : List Nat
  cols   : Nat
  rt     : Bool
  layer  : Nat := 0
  begun  : Bool := false            -- LAYER items of `layer` are out
  left   : List Nat := []           -- cores whose layer group is not done
  wreq   : List Nat := []           -- weight reads of the next layer to start
  poison : Bool := false
  failed : Nat := 0                 -- code of a layer group or batch that failed, else 0
  decode : List Nat := []
  chunks : List Nat := []
  old    : Bool := false            -- runs on a plan older than the last commit (R210)
  todo   : List Req := []           -- weight reads of the next layer that have no tag yet (R202, R203)
  table  : Word := 0                -- its column table (R196)
deriving DecidableEq, Repr, Inhabited

/-- A generative request (R204): chunks still to run, decode rounds done. -/
structure GenReq where
  tag    : Nat
  chunks : Nat
  rounds : Nat
deriving DecidableEq, Repr, Inhabited

/-- A snapshot commit under way (R176). -/
structure Snap where
  slot  : Nat
  vrec  : List Byte
  dst   : Word
  units : List Nat                  -- tier 2 units that must be durable
  wrote : Bool                      -- the version record is at REC_DST (step 4)
deriving DecidableEq, Repr, Inhabited

/-- The Desk's state for one partition (R161, R169, R188 to R213). -/
structure DeskPart where
  classes   : List (List Byte) := []  -- committed class table
  wcet      : Tab Nat := ⟨[]⟩         -- WCET per class (R190), in units of `nsUnit`
  models    : List (List Byte × List Byte) := [] -- model entry, plan
  published : Nat := 0
  active    : Nat := 0
  oldestPin : Nat := 0
  tlogRead  : Nat := 0
  tombs     : List (Nat × Nat) := []  -- live tombstone entries delivered: local ID, sequence (R170, R185)
  vrec      : Tab (List Byte) := ⟨[]⟩
  pubNext   : Option (Nat × Nat) := none -- TLOG_READ and PUBLISHED to write (R169)
  pubHeld   : Bool := false
  ringHead  : Nat := 0
  intake    : List (List Byte) := []  -- ring requests taken, not yet tested
  bCore     : Nat := 0
  b0        : Nat := 0
  b1        : Nat := 0
  b2        : Nat := 0
  pendCfg   : Bool := false           -- an accepted commit awaits its boundary (R201)
  pendClasses : List (List Byte) := []
  pendModels  : List (List Byte × List Byte) := []
  pendWcet    : List Nat := []
  pendWords   : List Word := []       -- the accepted words of R211
  ready     : List Step := []         -- ready steps in the order in which they became ready
  step      : Option Step := none
  stepNo    : Nat := 0
  gens      : List GenReq := []
  snap      : Option Snap := none
  held      : List (Nat × List Byte) := [] -- work items held: core, item (R197)
deriving DecidableEq, Repr, Inhabited

/-- A delivered STATE, BULK or GRADIENT message: source node, source partition, destination partition, epoch, bytes. -/
structure Msg where
  node  : Nat
  part  : Nat
  dst   : Nat
  epoch : Nat
  since : Word
  bytes : List Byte
deriving DecidableEq, Repr, Inhabited

structure Desk where
  nextTag  : Nat := 1
  queries  : Tab (Option Query) := ⟨[]⟩
  rot      : Nat := 0                 -- source served last (R192)
  drrPort  : Tab (Nat × Nat) := ⟨[]⟩  -- port: VF being served and its quantum left (R377)
  drrFn    : Tab (Nat × Nat) := ⟨[]⟩  -- VF: SQ being served and its quantum left
  fabric   : List Msg := []           -- QUERY messages not yet tested
  handoff  : List (Nat × Word × Word) := [] -- partition, record, deadline (R207)
  stateReq : List Msg := []           -- STATE requests in arrival order
  stateRep : List Msg := []
  awaiting : List (Nat × Nat × Nat) := [] -- request tag, partition, epoch (R382)
  mergeQ   : List Merge := []         -- merge requests that find the chip Collator's queue full (R152)
  stateOut : Tab (Option (Nat × Nat)) := ⟨[]⟩ -- partition: status and record value of its last operation
deriving DecidableEq, Repr, Inhabited

/-- A long-operation slot (R384). -/
structure Losw where
  op    : Nat := 0
  state : Nat := 0
  error : Nat := 0
  prog  : Nat := 0
  total : Nat := 0
  part  : Nat := 0
  req   : Word := 0
deriving DecidableEq, Repr, Inhabited

/-- A journal record (R317). -/
structure JRec where
  type  : Nat
  flags : Nat
  a     : Nat
  b     : Nat
  seq   : Nat
deriving DecidableEq, Repr, Inhabited

/-- A partition reset under way (R389): `step` is the step that runs next. -/
structure ResetRun where
  step    : Nat
  aborted : Nat := 0
  killed  : Nat := 0
  awaited : Nat := 0
  t0      : Word
  flrs    : List Nat                       -- functions whose FLR started or joined it
  stripes : List (Nat × Nat) := []         -- superblock and row of the stripes awaited
  pages   : List (List JRec) := []         -- journal pages awaited
  erase   : Option Nat := none             -- superblock whose erase is awaited
deriving DecidableEq, Repr, Inhabited

structure Part where
  curMap  : Tab Nat := ⟨[]⟩      -- member entries of R381
  prevMap : Tab Nat := ⟨[]⟩
  self    : Nat := 0
  prevSelf : Nat := 0
  epoch   : Nat := 0
  losw    : Tab Losw := ⟨[]⟩
  reset   : Option ResetRun := none
  compWait : List (Nat × List Byte) := [] -- composition changes queued behind a reset: slot, request
deriving DecidableEq, Repr, Inhabited

/-- A page of a UNIFIED partition (R218). -/
structure PageEnt where
  res    : Nat
  pin    : Bool
  moving : Bool
  slot   : Nat
deriving DecidableEq, Repr, Inhabited

/-- A move under way (R225): page (tier 0 and 1) or extent (tier 2). -/
structure Move where
  ext    : Bool
  num    : Nat
  dst    : Nat
  slot   : Nat := 0
  dirty  : Tab Bool := ⟨[]⟩
  batch  : Bool := false
deriving DecidableEq, Repr, Inhabited

/-- A migration batch under way (R227): the pages (extents for target 2) left, with target and FLAGS. -/
structure Batch where
  slot  : Nat
  todo  : List (Nat × Nat × Nat)
  retry : Bool := false             -- the running move is the second try
deriving DecidableEq, Repr, Inhabited

structure TierPart where
  ext    : Tab (Option (Nat × Nat)) := ⟨[]⟩ -- extent: tier and slot; none: its place when the map was made
  t0     : Tab (Option Nat) := ⟨[]⟩  -- page: slot of its tier 0 copy
  pins   : Tab Bool := ⟨[]⟩
  since  : Tab Bool := ⟨[]⟩          -- sub-blocks of promoted pages written since promotion
  pcnt   : Tab Nat := ⟨[]⟩
  xcnt   : Tab Nat := ⟨[]⟩
  base1  : Nat := 0                  -- tier 1 extents when the map was made
  usize  : Nat := 0                  -- U_SIZE of the map, in bytes
  periodAt : Word := 0               -- CLK_TIME at the end of the last migration period
  xlate  : List Nat := []            -- pages whose entries the translation cache holds, oldest first (R219)
  move   : Option Move := none
  moveQ  : List Move := []
  batch  : Option Batch := none
deriving DecidableEq, Repr, Inhabited

/-- An Expander (R240 to R259): tables by bank × 32 + table; `none` not loaded. -/
structure Expander where
  tables   : Tab (Option (List Byte)) := ⟨[]⟩
  arrivals : Nat := 0        -- lines that have come to its decoders (R248)
  lastDec  : Nat := 15       -- Archive Expander: the partitions last granted a decode and an encode (R240)
  lastEnc  : Nat := 15
deriving DecidableEq, Repr, Inhabited

/-- A mould-table load under way (R258). -/
structure MLoad where
  slot    : Nat
  bank    : Nat
  tables  : List (Nat × List Byte)
  targets : List Nat
  idx     : Nat
deriving DecidableEq, Repr, Inhabited

/-- A Carrel command taken by MCm, or running (R264 to R273). -/
structure CarCmd where
  bytes    : List Byte
  opnd     : List Byte
  status   : Nat := 0
  done     : Bool := false
  counts   : List Nat := []     -- SELECT: IDs that each unit wrote
  passed   : Nat := 0
  scored   : Nat := 0
  filtered : Nat := 0
  banks    : List Nat := []     -- compute banks that hold bursts of the command (R261)
  ver      : List (Nat × List Byte × Bool) := [] -- bursts written since it started, as they were: line, bytes, poison
deriving DecidableEq, Repr, Inhabited

/-- The Carrel path of a module channel: `win` is the command-and-result window (R262), `found` the uncorrectable bursts
in each unit's status line (R279). -/
structure Carrel where
  head    : Nat := 0
  taken   : List CarCmd := []
  run     : Option CarCmd := none
  lastSeq : Nat := 0
  win     : Mem := ⟨[]⟩
  found   : Tab (List Nat) := ⟨[]⟩
  winBad  : List Nat := []       -- lines of the window that hold the check pattern (R279)
deriving DecidableEq, Repr, Inhabited

/-- A Gather batch (R290 to R294, R298). -/
structure GBatch where
  bytes  : List Byte
  epoch  : Nat
  since  : Word
  remote : List (Nat × Nat × Nat × Nat)  -- component, row, member, request tag: asked and not returned
  rows   : List (Nat × Nat × List F32 × Bool) -- component, row, elements, poisoned
  begun  : Bool
  done   : Bool
  status : Nat
  unique : Nat
  nremote : Nat
  layer  : Bool                         -- submitted by the Desk for a GATHER layer
  idx    : List (Word × Bool) := []     -- the indices as read, and whether each lies in a poisoned line
  ends   : List Nat × Bool := ([], false) -- the bag end offsets as read, and whether a line of them is poisoned
  grads  : List (List F32 × Bool) := [] -- UPDATE: the gradient rows as read
deriving DecidableEq, Repr, Inhabited

/-- A table replacement under way (R300). -/
structure Repl where
  slot  : Nat
  table : Nat
  desc  : List Byte
  begun : Bool
deriving DecidableEq, Repr, Inhabited

structure GuPart where
  tables : Tab (List Byte) := ⟨[]⟩       -- installed descriptors, [] when absent
  sketch : Tab Nat := ⟨[]⟩               -- (table × 4 + row) × 4,096 + column
  dir    : Tab (Option (Nat × Nat)) := ⟨[]⟩ -- table × 16,384 + slot: component and row
  head   : Nat := 0
  queue  : List GBatch := []
  cur    : Option GBatch := none
  heldB  : List GBatch := []
  heldG  : List Msg := []
  repl   : Option Repl := none
  hotAt  : Word := 0                     -- CLK_TIME at the end of the last hot period
  last   : Bool := false                 -- its Gather unit took its last batch from this partition (R285)
deriving DecidableEq, Repr, Inhabited

/-- One staged unit (R311, R312): `seq` is its write sequence once it has entered a stripe, else 0. -/
structure Staged where
  lu    : Nat
  data  : List Byte
  bad   : Bool
  seq   : Nat := 0
  since : Word := 0          -- CLK_TIME at which it was staged
  waits : Bool := false      -- its write still waits at the edge router for a place in staging
  cover : List Nat := []     -- of a poisoned unit: the lines that good data has covered since
deriving DecidableEq, Repr, Inhabited

/-- A codeword (R307): logical unit, write sequence, FLAGS, data. -/
structure Codeword where
  lu    : Nat
  seq   : Nat
  flags : Nat
  data  : List Byte
deriving DecidableEq, Repr, Inhabited

/-- A stripe whose programs are issued (R308, R312): its data codewords in order; the rest of the 60 are PAD. -/
structure Stripe where
  sb    : Nat
  row   : Nat
  host  : Bool
  units : List Codeword
  sum   : Bool := false      -- the summary stripe of its superblock
  drop  : List Nat := []     -- units of it that a discard has dropped since
deriving DecidableEq, Repr, Inhabited

inductive SbState where
  | free | opened | closed
deriving DecidableEq, Repr, Inhabited

structure Superblock where
  st      : SbState := .free
  erases  : Nat := 0
  retired : List Nat := []      -- blocks retired and not yet replaced: member × 4 + plane
  rows    : Nat := 0            -- stripes given out
  summary : List (Nat × Nat) := [] -- its summary once programmed: logical unit and write sequence of every codeword
deriving DecidableEq, Repr, Inhabited

/-- A secure discard (R326, R331): units `[lo, hi)`; `seq` is S. -/
structure SDiscard where
  slot      : Nat
  lo        : Nat
  hi        : Nat
  seq       : Nat
  accepted  : Bool
  size      : Nat
  todo      : List Nat
  done      : Nat
  notErased : Nat
  atAccept  : Nat
  begun     : Bool := false  -- its DISCARD_BEGIN is durable
deriving DecidableEq, Repr, Inhabited

/-- A flash format under way (R329): its slot, SPARE_PCT and OP_PCT, the block rows erased so far, and whether the erase of the
next one is issued. -/
structure Format where
  slot  : Nat
  spare : Nat
  head  : Nat
  row   : Nat := 0
  busy  : Bool := true
deriving DecidableEq, Repr, Inhabited

/-- A journal page (R317): the journal sequence of its first record, its records, and the two LUNs that hold it. -/
structure JPage where
  seq  : Nat
  recs : List JRec
  luns : List Nat
deriving DecidableEq, Repr, Inhabited

/-- A partition's namespace and its media management (R307 to R334). -/
structure Ns where
  formatted : Bool := false
  chans     : List Nat := []           -- flash channels that the format took
  mounted   : Bool := false
  readOnly  : Bool := false
  cap       : Nat := 0                 -- U
  dataSb    : Nat := 0
  sparesAt  : Nat := 0                 -- spares per LUN reserved at format
  spUsed    : Tab Nat := ⟨[]⟩          -- of these, used, by LUN
  map       : Tab Nat := ⟨[]⟩          -- logical unit: codeword number + 1
  cws       : Tab (Option Codeword) := ⟨[]⟩
  parity    : Tab (List (List Byte)) := ⟨[]⟩ -- stripe number: the codewords of its parity page
  staging   : List Staged := []        -- in the order in which they were staged
  seq       : Nat := 1
  hostSb    : List Nat := []           -- open superblocks, the one in use first
  colSb     : List Nat := []
  flying    : List Stripe := []
  again     : List Stripe := []        -- stripes with a failed program, to be programmed again (R316)
  format    : Option Format := none
  jOpen     : List JRec := []
  jFlying   : List (List JRec) := []   -- pages whose programs are issued
  journal   : List JPage := []         -- durable since the newest complete checkpoint round
  jSeq      : Nat := 0
  ckpt      : Tab Nat := ⟨[]⟩
  ckptRound : Nat := 0
  ckptAt    : Word := 0                -- CLK_TIME of the last checkpoint round
  ckptDisc  : Option (Nat × Nat × Nat) := none -- range and S of a secure discard that ran
  sbs       : Tab Superblock := ⟨[]⟩
  colSince  : Nat := 0                 -- collection stripes programmed since the last host stripe
  idle      : Bool := false
  idleAt    : Word := 0                -- CLK_TIME of the partition's last tier 2 request
  jAt       : Word := 0                -- CLK_TIME of the open journal page's first record
  mapLines  : List Nat := []           -- map lines that the cache holds (R310)
  loading   : Bool := false            -- mounted: map lines are loaded from the checkpoint (R319)
  loaded    : List Nat := []           -- of these, the lines used since
  victim    : Option Nat := none
  rewrite   : List Nat := []           -- recovered codewords to be rewritten (R315)
  staticMv  : Bool := false
  erasing   : Option Nat := none
  retired   : Nat := 0                 -- blocks retired since format
  life      : Nat := 0
  discard   : Option SDiscard := none
  plain     : List (Nat × Nat × Nat) := [] -- discards with SECURE = 0 not yet durable: slot, first unit, units
  flushes   : List (Nat × List (Nat × Nat)) := [] -- slot; units not yet durable, with the least write sequence awaited
  stopped   : Bool := false            -- no new program or erase (R330, R412)
deriving DecidableEq, Repr, Inhabited

/-- A message being received on a virtual channel (R346, R347): what happens to it, its FIRST flit, its bytes so far with
their poison, and the lines of a PUT that are still to be written. -/
structure RxMsg where
  action : Nat            -- 0 drop, 1 deliver, 2 forward, 3 drop by the policer
  port   : Nat            -- egress port
  head   : Flit
  bytes  : List (Byte × Bool) := []
  upto   : Nat := 0       -- bytes of a PUT's data handed to `lines` or written
  out    : Bool := false  -- a PUT that has met an address outside the allocation: it writes no more (R347)
  lines  : List (Word × List (Byte × Bool)) := []
deriving DecidableEq, Repr, Inhabited

/-- A flit in an egress queue. -/
structure Fwd where
  port  : Nat               -- ingress port of its message; 8 for a message of this chip
  stomp : Bool              -- its copy ends stomped (R348)
  flit  : Flit
  place : Bool := false     -- it holds a place of that port's receive buffer (R343)
  since : Nat := 0          -- link cycle at which it was queued (R359)
deriving DecidableEq, Repr, Inhabited

/-- One Taleus Link port (R337 to R363). Levels and rates of buckets are in 1/250 byte: a slot of 4 ns adds RATE. -/
structure LinkPort where
  state    : Nat := 0                  -- 0 DOWN, 1 TRAINING, 2 UP
  lanes    : Nat := 0
  partner  : Nat := 0
  slot     : Nat := 0                  -- slot number modulo 18
  txSeq    : Nat := 0
  rxSeq    : Nat := 4095               -- last LSEQ received in order
  nak      : Bool := false
  dropping : Bool := false
  replay   : List (Bool × Flit) := []  -- sent and not acknowledged, oldest first; true: stomped
  resend   : Nat := 0                  -- of these, how many are to be sent again
  fails    : Nat := 0                  -- replays in a row without progress
  credits  : Tab Nat := ⟨[]⟩
  owed     : Tab Nat := ⟨[]⟩
  owedRot  : Nat := 0
  localQ   : Tab (List Fwd) := ⟨[]⟩
  fwdQ     : Tab (List Fwd) := ⟨[]⟩
  fwdTurn  : Tab Bool := ⟨[]⟩
  inMsg    : Tab Nat := ⟨[]⟩           -- egress VC: 0 none, 1 local message begun, 2 + k a message forwarded from port k begun
  msgAt    : Tab Nat := ⟨[]⟩           -- link cycle at which that message was queued
  cyc      : Nat := 0                  -- cycles (link) that have passed
  histAt   : Nat := 0                  -- of these, at the last histogram sample (R359)
  drrVc    : Nat := 0
  drrLeft  : Nat := 0
  shape    : Tab Int := ⟨[]⟩           -- levels, R351, R352
  police   : Tab Int := ⟨[]⟩
  gate     : Nat := 0                  -- entry in force
  gateN    : Nat := 1                  -- entries of the list in force
  gateLeft : Int := 0                  -- cycles left of the entry in force
  gclWait  : Option (List Word) := none -- a committed list that awaits the cycle end (R354)
  rx       : Tab (Option RxMsg) := ⟨[]⟩
  ownWait  : Tab (Option Nat) := ⟨[]⟩  -- TL_VC_OWNER byte that awaits the end of the messages in progress (R356)
deriving DecidableEq, Repr, Inhabited

/-- A send-ring message under way (R358). -/
structure Send where
  desc   : List Byte
  status : Nat
  flits  : Nat
  ahead  : Nat            -- flits of the egress queue up to the message's last, still to be sent
  port   : Nat
deriving DecidableEq, Repr, Inhabited

structure LinkPart where
  head  : Nat := 0
  queue : List (List Byte) := []
  cur   : Option Send := none
deriving DecidableEq, Repr, Inhabited

/-- A barrier context (R405, R406). -/
structure Barrier where
  gen     : Nat := 0
  arrived : List Nat := []         -- child ports whose ARRIVE(gen) has been taken
  localOk : Bool := false
  sent    : Bool := false          -- ARRIVE sent to the parent
  aborted : Bool := false
deriving DecidableEq, Repr, Inhabited

structure RollCall where
  queue   : List (Nat × List Byte) := []  -- received messages: port, payload
  hbSeq   : Nat := 0
  hbAt    : Word := 0                  -- CLK_TIME of the last round of HEARTBEATs
  lastHb  : Tab (Option Word) := ⟨[]⟩     -- CLK_TIME of the last HEARTBEAT or of entering UP
  inc     : Tab Nat := ⟨[]⟩               -- partner INCARNATION
  fencedBy : Tab Bool := ⟨[]⟩
  bars    : Tab Barrier := ⟨[]⟩
  windows : Tab Nat := ⟨[]⟩
  crossed : Tab Bool := ⟨[]⟩              -- the window count is at the threshold
  handled : List (Nat × Nat) := []        -- losses handled: node, INCARNATION
  touched : Tab Bool := ⟨[]⟩              -- barrier contexts written since the last COMMIT
deriving DecidableEq, Repr, Inhabited

/-- The queues of a function (R373 to R380). -/
structure HostFn where
  sqTail : Tab Nat := ⟨[]⟩
  sqHead : Tab Nat := ⟨[]⟩
  cqTail : Tab Nat := ⟨[]⟩
  cqHead : Tab Nat := ⟨[]⟩
  phase  : Tab Bool := ⟨[]⟩       -- true: inverted
  rsv    : Tab Nat := ⟨[]⟩        -- entries reserved
  agg    : Tab Nat := ⟨[]⟩        -- entries written since the last message
  timer  : Tab (Option Word) := ⟨[]⟩ -- coalescing timer: CLK_TIME at which it started
  cqGen  : Tab Nat := ⟨[]⟩        -- how often a CQ has been enabled
  link   : Option Word := none    -- of a physical function: its port's link as it trained; none while the link is down
deriving DecidableEq, Repr, Inhabited

structure Power where
  standby  : Bool := true
  pwrOk    : Bool := false
  rstLow   : Bool := false
  brownout : Bool := false
  supply   : Bool := false        -- held in supply reset
  droop    : Tab Bool := ⟨[]⟩
  early    : Tab Bool := ⟨[]⟩     -- a droop that had begun before the brown-out that runs
  span     : Tab (Option (Nat × Nat)) := ⟨[]⟩ -- least and greatest frequency of a core since the brown-out began, 0 while stopped (R42)
  target   : Nat := 750
  sense    : Nat := 0             -- VDD_CORE at the sense point when it was last compared with a level, and when that was
  senseAt  : Word := 0
  freq     : Tab Nat := ⟨[]⟩      -- old frequency that a core still runs at while a change is pending; 0: none is
  lowered  : Tab Nat := ⟨[]⟩      -- 100 MHz steps taken off a region by throttling
  hot      : Tab Bool := ⟨[]⟩     -- regions throttling
  tj       : Nat := 0
  deg      : Tab Nat := ⟨[]⟩      -- last reading of each region's sensor (R421)
  rampAt   : Option (Word × Bool) := none -- slot last counted in PWR_RAMP_WAIT_CNT, and whether by an engine restart (R430)
  ungateQ  : List Nat := []
  ungated  : Tab Bool := ⟨[]⟩     -- cores that are not power-gated
  restartQ : List Nat := []       -- core × 16 + engine
  tripped  : Bool := false
  cause    : Nat := 1
  phase    : Nat := 0
  shutdown : Bool := false        -- PWR_OK has fallen (R412)
  t0       : Word := 0            -- CLK_TIME at PWR_OK or at the end of the reset
  readyMs  : Nat := 0
deriving DecidableEq, Repr, Inhabited

structure Spdm where
  state   : Nat := 0              -- 0 before GET_VERSION, 1 versions, 2 capabilities, 3 algorithms
  script  : List Byte := []       -- transcript
  signed  : Option (List Byte) := none
  large   : List Byte := []       -- large response being returned by CHUNK_GET
  gather  : List Byte := []       -- large request being collected by CHUNK_SEND
deriving DecidableEq, Repr, Inhabited

structure Colophon where
  nor      : Mem := ⟨[]⟩          -- boot NOR (R434)
  revoke   : BitVec 4 := 0
  fwSvn    : BitVec 128 := 0      -- the fuses of FW_SVN, a thermometer (R432)
  mr       : Tab (List Byte) := ⟨[]⟩
  mrCnt    : Tab Nat := ⟨[]⟩
  bootSlot : Nat := 0
  keyGen   : Nat := 0
  imgSvn   : Nat := 0
  recovery : Bool := false
  burned   : Bool := false        -- fuses handled since power-on (R437)
  pushing  : Option (Nat × List Byte) := none
  pushBad  : Bool := false        -- a push since the last stage failed to read back
  losw     : Losw := {}
  stage    : Option Nat := none   -- a firmware stage that runs: images verified (R442)
  spdm     : Tab Spdm := ⟨[]⟩
deriving DecidableEq, Repr, Inhabited

structure Meter where
  totals   : Tab Nat := ⟨[]⟩      -- partition × 8 + total, in the order of R456
  arriving : List (Nat × Nat) := []  -- increments in flight: index, amount
  energy   : Nat := 0             -- µJ
  seconds  : Nat := 0
  ticks    : Nat := 0             -- of the running interval
  pcc      : Nat := 0
  seq      : Nat := 0
  sealed   : Bool := true
  sealCnt  : Nat := 0
  svn      : Nat := 0
  interval : Nat := 60
  addr     : Nat := 0x5A
  slot     : Nat := 0             -- firmware slot running
  slots    : Mem := ⟨[]⟩          -- two firmware slots of 512 KiB
  ring     : List (Nat × List Byte) := []  -- SEQ and record, oldest first
  signing  : Option (List Byte) := none
  due      : List Nat := []       -- FLAGS of the cuts that wait
  gap      : Bool := false
  unsealed : Bool := false        -- at any time in the interval
  running  : Bool := false
  savedT   : Tab Nat := ⟨[]⟩
  savedE   : Nat := 0
  savedS   : Nat := 0
  est      : Tab Nat := ⟨[]⟩      -- apportioned estimate (R453), µJ
  estFrom  : Nat := 0             -- ENERGY at the last apportioning
  estBusy  : Tab Nat := ⟨[]⟩
deriving DecidableEq, Repr, Inhabited

structure Event where
  code : Nat
  sev  : Nat
  part : Option Nat
  data : List Byte
  at_  : Word := 0                -- CLK_TIME at which it arrived at the queue
deriving DecidableEq, Repr, Inhabited

structure LogRec where
  num   : Nat
  sev   : Nat
  part  : Option Nat
  bytes : List Byte
deriving DecidableEq, Repr, Inhabited

structure Bucket where
  code   : Nat
  tokens : Nat
  supp   : Nat := 0
  sev    : Nat := 0
  first  : Nat := 0
  last   : Nat := 0
  parts  : Nat := 0
  chip   : Bool := false
  since  : Nat := 0               -- CLK_TIME at which the refill timer's present interval began
  suppAt : Nat := 0               -- CLK_TIME of the first suppression not yet summarised
deriving DecidableEq, Repr, Inhabited

structure Cursor where
  next    : Nat := 0              -- the next record number that the cursor looks for
  shown   : Option LogRec := none
  skipped : Nat := 0              -- SKIPPED as the window shows it
  lost    : Nat := 0              -- visible records overwritten since the last advance
deriving DecidableEq, Repr, Inhabited

structure LogImage where
  seq    : Nat
  clean  : Bool
  recs   : List LogRec
  totals : Tab Nat
  next   : Nat
deriving DecidableEq, Repr, Inhabited

structure Log where
  recs    : List LogRec := []     -- taking order
  queue   : List Event := []
  buckets : List Bucket := []
  totals  : Tab Nat := ⟨[]⟩       -- 0–7 TOTAL_SEV, 8–15 DROP_SEV, 16 SUPPRESS, 17 BELOW_MIN, 18 BUCKET_MISS
  next    : Nat := 0
  opSec   : Nat := 0
  opSaved : Nat := 0
  pcc     : Nat := 0
  lastAt  : Nat × Nat := (0, 0)   -- OP_SECONDS and PCC of the last record
  subSeq  : Nat := 0
  cursors : Tab Cursor := ⟨[]⟩
  writing : Option (LogImage × Bool) := none -- image being written, and whether it is the retry
  due     : Option Bool := none   -- a persistence that waits for the write in progress; true: with CLEAN
  persistAt : Word := 0           -- CLK_TIME of the last periodic persistence
  images  : Tab (Option LogImage) := ⟨[]⟩
  imgSeq  : Nat := 0
  slot    : Nat := 0
deriving DecidableEq, Repr, Inhabited

/-- What the last command sent out of the chip in answer. -/
structure Resp where
  bytes  : List Byte := []
  status : Nat := 0
  poison : Bool := false
  ur     : Bool := false          -- Unsupported Request
  crs    : Bool := false          -- Configuration Request Retry Status
deriving DecidableEq, Repr, Inhabited

/-- The whole machine. `free` is the model's own counter of free values used; no claim rests on it. -/
structure State where
  pending : List Instr
  free    : Nat
  resp    : Resp
  msix    : List (Nat × Nat)       -- MSI-X messages sent: function, vector; newest first
  irqSent : Tab Word               -- by page: IRQ_STATUS bits that have signalled since the host last cleared them (R379)
  clk     : Word                   -- CLK_TIME (R41)
  nextId  : Nat
  regs    : Tab Word
  force   : Tab Word
  latch   : Tab (Option (Nat × Word))
  cores   : Tab Core
  reqs    : Tab (Option Req)
  desk    : Desk
  deskP   : Tab DeskPart
  merges  : List Merge
  parts   : Tab Part
  mem     : Mem                    -- tiers 0 and 1, by piece (R217)
  memBad  : Tab Bool               -- poisoned 64-byte lines (R230)
  zeroing : Tab Bool               -- pieces being zeroed (R371)
  tierP   : Tab TierPart
  exps    : Tab Expander
  mloads  : Tab (Option MLoad)
  carrel  : Tab Carrel
  gus     : Tab GuPart
  gather  : List (Bool × Msg)      -- GRADIENT (true), ROW_REQ and ROW_DATA messages delivered
  arc     : Tab Ns
  badBlks : Tab (Option Nat)       -- blocks that the retired-block table of a LUN holds; none before its first format (R329)
  ports   : Tab LinkPort
  linkP   : Tab LinkPart
  rc      : RollCall
  hosts   : Tab HostFn
  pwr     : Power
  colo    : Colophon
  meter   : Meter
  log     : Log
deriving DecidableEq, Repr

/-- The machine right after power-on: every register at its reset value, every store empty (R424, R481). -/
def State.reset : State where
  pending := []
  free    := 0
  resp    := {}
  msix    := []
  irqSent := Tab.empty
  clk     := 0
  nextId  := 0
  regs    := Tab.empty
  force   := Tab.empty
  latch   := Tab.empty
  cores   := Tab.empty
  reqs    := Tab.empty
  desk    := {}
  deskP   := Tab.empty
  merges  := []
  parts   := Tab.empty
  mem     := Tab.empty
  memBad  := Tab.empty
  zeroing := Tab.empty
  tierP   := Tab.empty
  exps    := Tab.empty
  mloads  := Tab.empty
  carrel  := Tab.empty
  gus     := Tab.empty
  gather  := []
  arc     := Tab.empty
  badBlks := Tab.empty
  ports   := Tab.empty
  linkP   := Tab.empty
  rc      := {}
  hosts   := Tab.empty
  pwr     := {}
  colo    := {}
  meter   := {}
  log     := {}

/-- Why the machine stops with a fault: no command of the block stops it. The faults of threads, descriptors and long
operations are effects on the state. -/
inductive Fault where
deriving DecidableEq, Repr

/-- Why a command is refused. -/
inductive Refusal where
  /-- Raised by Dispatch.lean only: the command has no meaning yet. Safe. -/
  | notModelled (mnemonic : String)
deriving DecidableEq, Repr

end Sys2Proof.Machine
end

