-- ==== Sys2Proof/Machine/Regs.lean ====
section
/-! DEFINITION. The register pages of BAR0 (R476 to R485): where each page and register lies, what software may
write, what each register resets to, which function sees it, counters (R12) and interrupt signalling (R379).
A register is held as the 64-bit word at its 8-byte aligned BAR0 offset; `State.regs` lists what differs from reset. -/

namespace Sys2Proof.Machine

/-- Block types of the page index (R483). -/
inductive PTy where
  | chip | power | clock | reset | desk | log | meter | colophon | rollcall | tier | chipcol | host | part
  | gu | hc | exp | mc | carrel | archive | fc | link | tp | core | walker | engines | collator
  /-- A function's configuration space (R364), which is no page of BAR0. -/
  | cfg
deriving DecidableEq, Repr

/-- TYPE of PAGE_ID (R483). -/
def PTy.code : PTy → Nat
  | .chip => 0x01 | .power => 0x02 | .clock => 0x03 | .reset => 0x04
  | .desk => 0x10 | .log => 0x11 | .meter => 0x12 | .colophon => 0x13 | .rollcall => 0x14 | .tier => 0x15
  | .chipcol => 0x16 | .host => 0x17 | .part => 0x18
  | .gu => 0x20 | .hc => 0x21 | .exp => 0x22 | .mc => 0x23 | .carrel => 0x24 | .archive => 0x25 | .fc => 0x26
  | .link => 0x27 | .tp => 0x28 | .core => 0x30 | .walker => 0x31 | .engines => 0x32 | .collator => 0x33
  | .cfg => 0

/-- A page: its type, INSTANCE and the offset of its first byte. -/
structure Page where
  ty   : PTy
  inst : Nat
  base : Nat
deriving DecidableEq, Repr

/-- Per-function keys of the HOST views start here (each function sees its own view, R368). -/
def viewKey : Nat := 0x1000000
/-- Keys of the configuration spaces of the functions: a space begins 0x40 above its key. -/
def cfgKey : Nat := 0x2000000
def cfgP (k : Nat) : Nat := cfgKey + k * 0x1000

/-- The page that holds an 8-byte key (R483); none where the offset is unassigned. -/
def pageOf (a : Nat) : Option Page :=
  let b := a / 0x1000 * 0x1000
  if a < 0xD000 ∧ (0xB000 ≤ a) then some ⟨.host, (a - 0xB000) / 0x1000, b⟩
  else if a < 0x1000 then some ⟨.chip, 0, b⟩
  else if a < 0x2000 then some ⟨.power, 0, b⟩
  else if a < 0x3000 then some ⟨.clock, 0, b⟩
  else if a < 0x4000 then some ⟨.reset, 0, b⟩
  else if a < 0x5000 then some ⟨.desk, 0, b⟩
  else if a < 0x6000 then some ⟨.log, 0, b⟩
  else if a < 0x7000 then some ⟨.meter, 0, b⟩
  else if a < 0x8000 then some ⟨.colophon, 0, b⟩
  else if a < 0x9000 then some ⟨.rollcall, 0, b⟩
  else if a < 0xA000 then some ⟨.tier, 0, b⟩
  else if a < 0xB000 then some ⟨.chipcol, 0, b⟩
  else if a < 0xE000 then some ⟨.part, 0, b⟩
  else if a < 0x10000 then none
  else if a < 0x14000 then some ⟨.gu, (a - 0x10000) / 0x1000, b⟩
  else if a < 0x20000 then none
  else if a < 0x2C000 then
    let h := (a - 0x20000) / 0x2000
    if (a - 0x20000) % 0x2000 < 0x1000 then some ⟨.hc, h, b⟩ else some ⟨.exp, h, b⟩
  else if a < 0x30000 then none
  else if a < 0x54000 then
    let m := (a - 0x30000) / 0x3000
    let o := (a - 0x30000) % 0x3000
    if o < 0x1000 then some ⟨.mc, m, b⟩ else if o < 0x2000 then some ⟨.exp, 0x10 + m, b⟩ else some ⟨.carrel, m, b⟩
  else if a < 0x60000 then none
  else if a < 0x64000 then some ⟨.archive, (a - 0x60000) / 0x1000, b⟩
  else if a < 0x67000 then none
  else if a < 0x68000 then some ⟨.exp, 0x20, b⟩
  else if a < 0x88000 then some ⟨.fc, (a - 0x68000) / 0x1000, b⟩
  else if a < 0x90000 then none
  else if a < 0x91000 then some ⟨.link, 0, b⟩
  else if a < 0xA1000 then some ⟨.tp, (a - 0x91000) / 0x1000, b⟩
  else if a < 0xA2000 then some ⟨.exp, 0x30, b⟩
  else if a < 0x100000 then none
  else if a < 0x340000 then
    let n := (a - 0x100000) / 0x4000
    match (a - 0x100000) % 0x4000 / 0x1000 with
    | 0 => some ⟨.core, n, b⟩
    | 1 => some ⟨.walker, n, b⟩
    | 2 => some ⟨.engines, n, b⟩
    | _ => some ⟨.collator, n, b⟩
  else if viewKey ≤ a ∧ a < viewKey + 35 * 0x1000 then
    let k := (a - viewKey) / 0x1000
    some ⟨.host, if k = 1 ∨ (3 ≤ k ∧ k < 19) then 0 else 1, b⟩
  else if cfgKey + 0x1000 ≤ a ∧ a < cfgKey + 35 * 0x1000 then some ⟨.cfg, (a - cfgKey) / 0x1000, b⟩
  else none

/-- One row of a register table: a register array on a page.
`rw`: bits a write sets at once; `st`: staged bits (R482); `wc`: W1C bits; `wo`: write-only bits, read as zero;
`pf`: marked PF (R484). -/
structure Row where
  off    : Nat
  n      : Nat := 1
  stride : Nat := 8
  rw     : Nat := 0
  st     : Nat := 0
  wc     : Nat := 0
  wo     : Nat := 0
  rst    : Nat := 0
  pf     : Bool := false
deriving DecidableEq, Repr

def w64 (n : Nat) : Word := BitVec.ofNat 64 n
def ones (hi lo : Nat) : Nat := (2 ^ (hi + 1 - lo) - 1) * 2 ^ lo
def rep (n step v : Nat) : Nat := match n with
  | 0 => 0
  | k + 1 => v * 2 ^ (step * k) + rep k step v

/-- The registers of each block (the tables of the chapters); registers that software cannot write and that reset
to 0 have no row. -/
def rowsOf : PTy → List Row
  | .power => [⟨0x040, 1, 8, 0, ones 4 0 + ones 12 8 + ones 20 16, 0, 0, 5 + 8 * 2 ^ 8 + 15 * 2 ^ 16, false⟩,
      ⟨0x048, 1, 8, ones 4 0, 0, 0, 0, 4, false⟩,
      ⟨0x100, 18, 8, 0, rep 8 8 0x3F, 0, 0, rep 8 8 (if Config.is128 then 32 else 36), false⟩]
  | .desk => [⟨0x040, 1, 8, 0, ones 19 0, 0, 0, 1000, false⟩, ⟨0x050, 1, 8, 0, 0, ones 31 16, ones 15 0, 0, false⟩,
      ⟨0x100, 16, 64, 0, ones 63 0, 0, 0, 0, false⟩, ⟨0x108, 16, 64, 0, ones 63 0, 0, 0, 0, false⟩,
      ⟨0x110, 16, 64, 0, ones 63 0, 0, 0, 0, false⟩, ⟨0x118, 16, 64, 0, ones 63 0, 0, 0, 0, false⟩,
      ⟨0x120, 16, 64, 0, ones 5 0 + ones 12 8 + ones 24 16 + ones 36 26 + ones 55 40, 0, 0, 0, false⟩,
      ⟨0x128, 16, 64, 0, ones 63 0, 0, 0, 0, false⟩, ⟨0x130, 16, 64, 0, ones 63 0, 0, 0, 0, false⟩,
      ⟨0x138, 16, 64, 0, ones 47 0, 0, 0, 0, false⟩]
  | .log => [⟨0x040, 1, 8, ones 18 0, 0, 0, 0, 4 + 4 * 2 ^ 8 + 2 ^ 16, true⟩,
      ⟨0x058, 1, 8, 0, 0, 0, 1, 0, false⟩, ⟨0x060, 1, 8, 0, 0, 0, ones 15 0, 0, true⟩]
  | .colophon => [⟨0x050, 1, 8, 0, 0, 0, 1 + ones 24 11, 0, true⟩, ⟨0x060, 1, 8, 0, 0, 0, 0, 0, true⟩,
      ⟨0x300, 6, 8, ones 63 0, 0, 0, ones 63 0, 0, true⟩, ⟨0x330, 1, 8, 0, 0, 0, 7, 0, true⟩,
      ⟨0x800, 256, 8, ones 63 0, 0, 0, ones 63 0, 0, true⟩]
  | .reset => [⟨0x048, 1, 8, 0, 0, 0, ones 15 0, 0, true⟩]
  | .rollcall => [⟨0x040, 1, 8, 0, 1 + ones 17 8 + ones 23 20 + ones 38 32 + ones 46 40, 0, 0,
        1 + 100 * 2 ^ 8 + 4 * 2 ^ 20 + 32 * 2 ^ 32 + 8 * 2 ^ 40, false⟩,
      ⟨0x048, 1, 8, ones 15 0, 0, ones 23 16, 0, 0xFF, false⟩, ⟨0x0C0, 1, 8, 0, 0, ones 63 63, 0, 0, false⟩,
      ⟨0x0D0, 1, 8, 0, 0, ones 7 0, 0, 0, false⟩, ⟨0x100, 16, 8, ones 63 0, 0, 0, 0, 0, false⟩,
      ⟨0x200, 16, 16, 0, 1 + ones 7 4 + ones 11 8 + ones 23 16 + ones 47 32, 0, 0, 8 * 2 ^ 8, false⟩,
      ⟨0x208, 16, 16, ones 49 6, 0, 0, 0, 0, false⟩]
  | .tier => [⟨0x040, 1, 8, 1 + ones 19 4 + ones 31 24, 0, 0, 0, 1000 * 2 ^ 4 + 16 * 2 ^ 24, false⟩,
      ⟨0x048, 1, 8, ones 63 0, 0, 0, 0, 64 + 16 * 2 ^ 16 + 512 * 2 ^ 32 + 128 * 2 ^ 48, false⟩,
      ⟨0x050, 1, 8, ones 7 0, 0, 0, 0, 24, false⟩,
      ⟨0x100, 16, 32, 0, 3 + ones 16 8 + ones 40 32 + ones 56 48, 0, 0, 64 * (2 ^ 8 + 2 ^ 32 + 2 ^ 48), false⟩,
      ⟨0x108, 16, 32, 0, ones 16 0 + ones 52 32, 0, 0, 0, false⟩,
      ⟨0x110, 16, 32, 0, ones 21 0 + ones 54 32, 0, 0, 0, false⟩,
      ⟨0x800, 128, 8, 1 + ones 49 33, 0, 0, 0, 0, false⟩,
      ⟨0xC00, 16, 8, 1 + ones 7 4 + ones 49 33, 0, 0, 0, 0, false⟩]
  | .host => [⟨0x100, 16, 8, 0, ones 3 0 + ones 7 7 + ones 11 8, 0, 0, 2 ^ 8, true⟩,
      ⟨0x200, 16, 16, 1 + ones 49 6, 0, 0, 0, 0, false⟩,
      ⟨0x208, 16, 16, ones 4 0 + ones 11 8 + ones 19 16, 0, 0, 0, 4 + 2 ^ 16, false⟩,
      ⟨0x300, 16, 16, 1 + ones 49 6, 0, 0, 0, 0, false⟩,
      ⟨0x308, 16, 16, ones 4 0 + ones 14 8 + ones 31 16, 0, 0, 0, 4 + 2 ^ 16, false⟩,
      ⟨0x400, 16, 8, 0, 0, 0, ones 15 0, 0, false⟩, ⟨0x480, 16, 8, 0, 0, 0, ones 15 0, 0, false⟩,
      ⟨0x800, 64, 16, ones 63 0, 0, 0, 0, 0, false⟩, ⟨0x808, 64, 16, ones 32 0, 0, 0, 0, 2 ^ 32, false⟩]
  | .part => [⟨0x0C0, 1, 8, ones 15 0, 0, 0, 0, 0, false⟩, ⟨0x0C8, 1, 8, 0, 0, 0, ones 15 0, 0, false⟩,
      ⟨0x100, 16, 64, 0, ones 63 0, 0, 0, 0, false⟩, ⟨0x108, 16, 64, 0, ones 63 0, 0, 0, 0, false⟩,
      ⟨0x110, 16, 64, 0, ones 15 0, 0, 0, 0, false⟩, ⟨0x118, 16, 64, 0, ones 47 0, 0, 0, 0, false⟩,
      ⟨0x120, 16, 64, 0, ones 11 0 + ones 63 32, 0, 0, 0, false⟩, ⟨0x128, 16, 64, 0, ones 49 21, 0, 0, 0, false⟩,
      ⟨0x800, 1, 8, ones 3 0 + ones 8 8, 0, 0, 0, 0, false⟩]
  | .gu => [⟨0x040, 1, 8, ones 19 0, 0, 0, 0, 500, false⟩,
      ⟨0x048, 1, 8, ones 35 0, 0, 0, 0, 256 + 1000 * 2 ^ 16, false⟩,
      ⟨0x100, 16, 32, 0, 1 + ones 12 8 + ones 23 16, 0, 0, 6 * 2 ^ 8, false⟩,
      ⟨0x108, 16, 32, 0, ones 49 6, 0, 0, 0, false⟩]
  | .hc => [⟨0x040, 1, 8, 0, 0, 0, 0, 36 + 8 * 2 ^ 8, false⟩]
  | .exp => [⟨0x040, 4, 8, rep 8 8 0x8F, 0, 0, 0, 0, true⟩, ⟨0x400, 64, 16, 0, ones 53 0, 0, 0, 0, true⟩,
      ⟨0x408, 64, 16, 0, ones 37 0, 0, 0, 0, true⟩]
  | .carrel => [⟨0x040, 1, 8, 0, ones 49 6, 0, 0, 0, false⟩,
      ⟨0x048, 1, 8, 1, ones 12 8 + ones 20 16, 0, 0, 6 * 2 ^ 8 + 8 * 2 ^ 16, false⟩,
      ⟨0x058, 1, 8, 0, 0, ones 63 63, 0, 0, false⟩]
  | .archive => [⟨0x040, 1, 8, 0, 0, 0, 0, 0, false⟩]
  | .link => [⟨0x040, 1, 8, ones 9 0 + ones 23 16, 0, 0, 0, 8 * 2 ^ 16, false⟩,
      ⟨0x100, 16, 8, 0, ones 7 0, 0, 0, 0, false⟩, ⟨0x200, 16, 16, 0, ones 49 6, 0, 0, 0, false⟩,
      ⟨0x208, 16, 16, 0, 1 + ones 12 8, 0, 0, 6 * 2 ^ 8, false⟩, ⟨0x800, 64, 8, ones 63 0, 0, 0, 0, 0, false⟩]
  | .core => [⟨0x040, 1, 8, ones 47 32, ones 7 0, 0, 0, 0, false⟩,
      ⟨0x048, 1, 8, ones 3 0, ones 42 32, ones 19 16, 0, 0xF00, false⟩, ⟨0x058, 1, 8, 0, 0, ones 47 47, 0, 0, false⟩]
  | .walker => [⟨0x040, 1, 8, ones 3 0, 0, 0, 0, 0, false⟩]
  | .collator => [⟨0x200, 64, 8, 0, ones 63 16 + ones 14 0, 0, 0, 0, false⟩]
  | _ => []

/-- Words of a function's configuration space (R364, R365); `pf`: of a physical function. PRESUMED: the PCI Express header and
capabilities as that standard lays them out; DESIGN CHOICE: where each capability lies (log entry 96). -/
def cfgRows (pf : Bool) : List Row :=
  let w (o rw wc wo rst : Nat) : Row := ⟨0x40 + o, 1, 8, rw, 0, wc, wo, rst, false⟩
  -- Vendor ID, Device ID, Command, Status; Revision ID, class code; capability pointer
  [w 0x000 (2 ^ 33 + 2 ^ 34 + 2 ^ 38 + 2 ^ 40) (ones 63 59 + 2 ^ 56) 0 (0xCB7A + (if pf then 0x0820 else 0x0821) * 2 ^ 16 + 2 ^ 52),
   w 0x008 0 0 0 (0xB1 + 0x120000 * 2 ^ 8), w 0x030 0 0 0 (0x40 * 2 ^ 32),
   -- Power Management: PowerState; PCI Express: Device Control with Max_Payload_Size and Initiate FLR
   w 0x040 (3 * 2 ^ 32) 0 0 (0x35001 + 2 ^ 35), w 0x050 0 0 0 (0x27010 + (2 + 2 ^ 28) * 2 ^ 32), w 0x058 (7 * 2 ^ 5) (15 * 2 ^ 16) (2 ^ 15) 0,
   -- MSI-X: Function Mask, Enable, 64 vectors; AER: status, mask and severity words
   w 0x070 (3 * 2 ^ 30) 0 0 (0x0011 + 63 * 2 ^ 16 + 0xB800 * 2 ^ 32), w 0x078 0 0 0 0xBC00,
   w 0x100 0 (ones 63 32) 0 0x15020001, w 0x108 (ones 63 0) 0 0 (0x00462030 * 2 ^ 32), w 0x110 (ones 63 32) (ones 31 0) 0 (0x2000 * 2 ^ 32)] ++
  -- BAR0 of 16 MiB and BAR2 of 64 GiB; SR-IOV: VF Enable, NumVFs, the VFs' BARs; DOE
  (if pf then [w 0x010 (ones 31 24 + ones 63 32) 0 0 4, w 0x018 (ones 63 36) 0 0 0xC,
     w 0x160 0 0 0 0x1A010010, w 0x168 (1 + 2 ^ 3 + 2 ^ 4) 0 0 (16 * 2 ^ 32 + 16 * 2 ^ 48), w 0x170 (ones 15 0) 0 0 (2 ^ 32 + 2 ^ 48),
     w 0x178 0 0 0 (0x0821 * 2 ^ 16 + 0x553 * 2 ^ 32), w 0x180 (ones 31 0 + ones 63 56) 0 0 (1 + 4 * 2 ^ 32),
     w 0x188 (ones 31 0) 0 0 (0xC * 2 ^ 32), w 0x190 (ones 31 4) 0 0 0, w 0x1A0 0 0 0 0x0001002E]
   else [])

/-- ARCHIVE pages 0 and 1, and the two pages of a port, differ by instance (R332, R333, R361, R363). -/
def rowsAt (p : Page) : List Row :=
  match p.ty, p.inst with
  | .archive, 0 => [⟨0x040, 1, 8, ones 3 0 + ones 31 8, 0, 0, 0, 2 + 10 * 2 ^ 8 + 5 * 2 ^ 16 + 10 * 2 ^ 24, false⟩,
      ⟨0x048, 1, 8, ones 15 0 + ones 47 32, 0, 0, 0, 200, false⟩,
      ⟨0x050, 1, 8, ones 47 0, 0, 0, 0, 1000 + 200 * 2 ^ 16 + 60 * 2 ^ 32, false⟩]
  | .archive, 1 => [⟨0x040, 16, 8, 0, ones 12 0, 0, 0, 256, false⟩]
  | .archive, _ => []
  | .tp, n =>
    if n % 2 = 0 then
      [⟨0x048, 1, 8, 0, rep 8 8 0x8F, 0, 0, 0, false⟩, ⟨0x050, 1, 8, 1, ones 7 1, 0, 0, 2, false⟩,
       ⟨0x100, 8, 32, 0, ones 51 0, 0, 0, 65536 * 2 ^ 24 + 2 ^ 48, false⟩,
       ⟨0x108, 8, 32, 0, ones 48 0, 0, 0, 65536 * 2 ^ 24, false⟩,
       ⟨0x200, 64, 8, 0, ones 31 0, 0, 0, 0, false⟩]
    else [⟨0x040, 1, 8, ones 15 0, 0, 0, 0, 1024, false⟩]
  | .cfg, k => cfgRows (decide (k < 3))
  | t, _ => rowsOf t

/-- Every page's header (R476): CTRL.QUIESCE_REQ, ERR_STATUS and ERR_MASK, IRQ_STATUS and IRQ_ENABLE, IRQ_ROUTE. -/
def headerRows : List Row :=
  [⟨0x008, 1, 8, 2, 0, 0, ones 3 2, 0, false⟩, ⟨0x010, 1, 8, ones 63 32, 0, ones 31 0, 0, 0, false⟩,
   ⟨0x018, 1, 8, ones 63 32, 0, ones 31 0, 0, 0, false⟩, ⟨0x020, 1, 8, ones 5 0 + ones 15 8, 0, 0, 0, 0, false⟩]

def Row.has (r : Row) (o : Nat) : Bool :=
  decide (r.off ≤ o ∧ (o - r.off) % r.stride = 0 ∧ (o - r.off) / r.stride < r.n)

/-- The row of the register at key `a`. -/
def rowOf (a : Nat) : Option Row :=
  match pageOf a with
  | none => none
  | some p =>
    let o := a - p.base
    if o < 0x40 then headerRows.find? (·.has o) else (rowsAt p).find? (·.has o)

/-- The word that the register at `a` resets to (R481). -/
def regReset (a : Nat) : Word :=
  match rowOf a with
  | some r => BitVec.ofNat 64 r.rst
  | none => 0

/-- The register at `a` as software reads it: for a staged field, its staging copy (R482). -/
def State.reg (s : State) (a : Nat) : Word := Tab.get regReset s.regs a

def State.setReg (s : State) (a : Nat) (w : Word) : State := { s with regs := Tab.set regReset s.regs a w }

/-- The register at `a` as the block uses it: staged fields at the value in force. -/
def State.inForce (s : State) (a : Nat) : Word :=
  let st := match rowOf a with
    | some r => BitVec.ofNat 64 r.st
    | none => 0
  (s.reg a &&& ~~~st) ||| (Tab.get regReset s.force a &&& st)

def State.setForce (s : State) (a : Nat) (w : Word) : State := { s with force := Tab.set regReset s.force a w }

/-- The keys of a page's staged registers. -/
def stagedKeys (p : Page) : List Nat :=
  (rowsAt p).flatMap (fun r => if r.st = 0 then [] else (List.range r.n).map (fun k => p.base + r.off + k * r.stride))

/-- All staged values of the page take effect together (R482 step 3). -/
def State.applyStaged (s : State) (p : Page) : State :=
  (stagedKeys p).foldl (fun s a => s.setForce a (s.reg a)) s

/-- A `_CNT` counter rises by `n` and saturates (R12). -/
def State.bump (s : State) (a n : Nat) : State :=
  s.setReg a (BitVec.ofNat 64 (min (2 ^ 64 - 1) ((s.reg a).toNat + n)))

/-- Sets bits `lo` to `lo + n - 1` of a register. -/
def State.setField (s : State) (a lo n v : Nat) : State := s.setReg a (putFld (s.reg a) lo n v)

/-! ### Where pages lie -/
def coreP (c : Nat) : Nat := 0x100000 + c * 0x4000
def walkP (c : Nat) : Nat := coreP c + 0x1000
def engP (c : Nat) : Nat := coreP c + 0x2000
def colP (c : Nat) : Nat := coreP c + 0x3000
def hcP (h : Nat) : Nat := 0x20000 + h * 0x2000
def mcP (m : Nat) : Nat := 0x30000 + m * 0x3000
def carP (m : Nat) : Nat := mcP m + 0x2000
def guP (g : Nat) : Nat := 0x10000 + g * 0x1000
def fcP (c : Nat) : Nat := 0x68000 + c * 0x1000
def tpP (q : Nat) : Nat := 0x91000 + q * 0x2000
def partSlice (p k : Nat) : Nat := 0xD100 + p * 0x40 + k * 8
/-- Expander page: 0 to 5 HC, 6 to 17 MC, 18 Archive, 19 link. -/
def expP (x : Nat) : Nat :=
  if x < 6 then hcP x + 0x1000 else if x < 18 then mcP (x - 6) + 0x1000 else if x = 18 then 0x67000 else 0xA1000

/-- A function's number: service processor 0, PF of A and B 1 and 2, VF n + 1 of A 3 + n, of B 19 + n. -/
def fnIdx : Fn → Nat
  | .sp => 0
  | .pf .A => 1
  | .pf .B => 2
  | .vf .A n => 3 + n.val
  | .vf .B n => 19 + n.val

def fnPort : Fn → Option HPort
  | .sp => none
  | .pf b => some b
  | .vf b _ => some b

def fnIsVf : Fn → Bool
  | .vf _ _ => true
  | _ => false

def portIdx : HPort → Nat
  | .A => 0
  | .B => 1

/-- The function with a number below 35. -/
def fnOfIdx (k : Nat) : Fn :=
  if k = 0 then .sp else if k = 1 then .pf .A else if k = 2 then .pf .B
  else if k < 19 then .vf .A (Fin.ofNat 16 (k - 3)) else .vf .B (Fin.ofNat 16 (k - 19))

/-- Key of a register of a function's own HOST view (R368). -/
def viewP (k : Nat) : Nat := viewKey + k * 0x1000
/-- HOST_VF_BIND of VF n + 1 of a port, in its PF's view. -/
def bindA (b n : Nat) : Nat := viewP (1 + b) + 0x100 + n * 8

/-! ### Owners (R368, R370, R476) -/

def State.slice (s : State) (p k : Nat) : Word := s.inForce (partSlice p k)

def ownerBit (s : State) (k i : Nat) : Option Nat :=
  (List.range 16).find? (fun p => (s.slice p k).getLsbD i)

/-- Partition of a core, a tier 0 pair, a module channel, a flash channel. -/
def State.coreOwner (s : State) (c : Nat) : Option Nat := if c < 144 then ownerBit s (c / 64) (c % 64) else none
def State.pairOwner (s : State) (i : Nat) : Option Nat := ownerBit s 3 i
def State.chanOwner (s : State) (m : Nat) : Option Nat := ownerBit s 4 m
def State.flashOwner (s : State) (c : Nat) : Option Nat := ownerBit s 4 (32 + c)

/-- The cores of a partition, lowest number first. -/
def State.coresOf (s : State) (p : Nat) : List Nat :=
  (List.range 144).filter (fun c => (s.slice p (c / 64)).getLsbD (c % 64))
def State.pairsOf (s : State) (p : Nat) : List Nat := (List.range 48).filter (fun i => (s.slice p 3).getLsbD i)
def State.chansOf (s : State) (p : Nat) : List Nat := (List.range 12).filter (fun i => (s.slice p 4).getLsbD i)
def State.flashOf (s : State) (p : Nat) : List Nat := (List.range 32).filter (fun i => (s.slice p 4).getLsbD (32 + i))

/-- Owner of virtual channel v of port q in force (R356). -/
def State.vcOwner (s : State) (q v : Nat) : Option Nat :=
  let w := s.inForce (tpP q + 0x48)
  if w.getLsbD (8 * v + 7) then some (fld w (8 * v) 4) else none

/-- A port is owned whole when every data class channel has one owner (R356). -/
def State.portOwner (s : State) (q : Nat) : Option Nat :=
  let p := s.vcOwner q 0
  if (List.range 5).all (fun v => decide (s.vcOwner q v = p)) then p else none

def State.pageOwner (s : State) (p : Page) : Option Nat :=
  match p.ty with
  | .core | .walker | .engines | .collator => s.coreOwner p.inst
  | .mc | .carrel => s.chanOwner p.inst
  | .exp => if 0x10 ≤ p.inst ∧ p.inst < 0x1C then s.chanOwner (p.inst - 0x10) else none
  | .fc => s.flashOwner p.inst
  | .tp => s.portOwner (p.inst / 2)
  | _ => none

/-- Partition that a function is bound to (R367). -/
def State.fnPart (s : State) : Fn → Option Nat
  | .vf b n =>
    let w := s.inForce (bindA (portIdx b) n.val)
    if w.getLsbD 7 then some (fld w 0 4) else none
  | _ => none

/-! ### Configuration space (R364 to R366) -/

/-- The word at offset `o` of the configuration space of function number `k`. -/
def State.cfg (s : State) (k o : Nat) : Word := s.reg (cfgP k + 0x40 + o)
def State.busMaster (s : State) (k : Nat) : Bool := (s.cfg k 0).getLsbD 34
def State.inD3 (s : State) (k : Nat) : Bool := decide (fld (s.cfg k 0x40) 32 2 = 3)
def State.msixOn (s : State) (k : Nat) : Bool := (s.cfg k 0x70).getLsbD 31
def State.msixMasked (s : State) (k : Nat) : Bool := (s.cfg k 0x70).getLsbD 30
/-- The VFs of a port that VF Enable and NumVFs enable. -/
def State.numVfs (s : State) (b : HPort) : Nat :=
  let k := 1 + portIdx b
  if (s.cfg k 0x168).getLsbD 0 then min 16 (fld (s.cfg k 0x170) 0 16) else 0
/-- The function exists: a physical one, or an enabled VF. -/
def State.fnThere (s : State) : Fn → Bool
  | .vf b n => decide (n.val < s.numVfs b)
  | _ => true
/-- The function answers more than configuration requests: it is not in D3hot (R364). -/
def State.fnLive (s : State) (f : Fn) : Bool := decide (f = .sp) || (s.fnThere f && !s.inD3 (fnIdx f))

/-- A function reaches BAR0: a host function only once start-up has ended, or, in recovery mode, a physical function on
four pages (R426, R427); the service processor always. -/
def State.reaches (s : State) (f : Fn) (p : Page) : Bool :=
  decide (f = .sp) || (s.fnLive f && (decide (s.pwr.phase = 9) ||
  (decide (s.pwr.phase = 15) && !fnIsVf f && (match p.ty with
    | .chip | .log | .colophon | .reset => true
    | _ => false))))

/-- Whether the function sees the page (R368, R474, R484): a page of a core that is fused off is absent. The service
processor sees every page but the HOST views. -/
def State.seesPage (s : State) (f : Fn) (p : Page) : Bool :=
  s.reaches f p &&
  (match p.ty with
   | .host => decide ((fnPort f).map portIdx = some p.inst)
   | .cfg => false
   | .log => if fnIsVf f then (s.fnPart f).isSome else true
   | .core | .walker | .engines | .collator =>
     Config.coreEnabled p.inst && (!fnIsVf f || decide ((s.fnPart f).isSome ∧ s.pageOwner p = s.fnPart f))
   | .carrel =>
     decide (fld (s.reg (mcP p.inst + 0x40)) 0 2 = 2) && (!fnIsVf f || decide ((s.fnPart f).isSome ∧ s.pageOwner p = s.fnPart f))
   | _ => if fnIsVf f then decide ((s.fnPart f).isSome ∧ s.pageOwner p = s.fnPart f) else true)

/-- A BAR0 offset to its key: the HOST page of the function's own port is its own view. -/
def keyOf (f : Fn) (off : Nat) : Nat :=
  if 0xB000 ≤ off ∧ off < 0xD000 then viewP (fnIdx f) + off % 0x1000 else off

/-- A BAR0 access by a function discards its latched word (R479). -/
def State.access (s : State) (f : Fn) : State := { s with latch := Tab.set (fun _ => none) s.latch (fnIdx f) none }

/-- Whether a function may use the register at `off` (R368, R484): the page is visible and the register is not
marked PF for a virtual function. -/
def State.sees (s : State) (f : Fn) (off : Nat) : Bool :=
  match pageOf off with
  | none => false
  | some p => s.seesPage f p && !(fnIsVf f && (match rowOf off with
      | some r => r.pf
      | none => false))

/-! ### Interrupts and errors (R379, R477) -/

def msixCtl (k v : Nat) : Nat := viewP k + 0x808 + v * 16
def msixPba (k : Nat) : Nat := viewP k + 0xC00

/-- Function number `k` may send the message of vector `v`: Bus Master Enable and MSI-X Enable are set, the function is not in
D3hot, and neither Function Mask nor the vector's mask holds it (R364, R366, R380). -/
def State.msixGo (s : State) (k v : Nat) : Bool :=
  s.busMaster k && s.msixOn k && !s.inD3 k && !s.msixMasked k && !(s.reg (msixCtl k v)).getLsbD 32

/-- Sends the vector `v` of function number `k`: one that may not go sets its PBA bit (R380, log entry 14). -/
def State.sendMsix (s : State) (k v : Nat) : State :=
  if !s.msixGo k v then
    s.setReg (msixPba k) (s.reg (msixPba k) ||| (1#64 <<< v))
  else { s with msix := (k, v) :: s.msix }.bump (viewP k + 0x620) 1

/-- Function number of an IRQ_ROUTE FUNCTION field, none where no function has it (R379). -/
def routeFn (fnc : Nat) : Option Nat :=
  let b := fnc / 128
  let n := fnc % 32
  if fnc / 32 % 4 ≠ 0 ∨ 16 < n then none
  else if n = 0 then some (1 + b) else some (2 + n + 16 * b)

/-- Partition that owns the page at key `base`; a VF's HOST view belongs to the bound partition. -/
def State.irqOwner (s : State) (base : Nat) : Option Nat :=
  if viewKey ≤ base then s.fnPart (fnOfIdx ((base - viewKey) / 0x1000)) else (pageOf base).bind s.pageOwner

/-- Signals a page's interrupt to its route, where R379 permits the function. -/
def State.signal (s : State) (p : Page) : State :=
  let w := s.reg (p.base + 0x20)
  match routeFn (fld w 8 8) with
  | none => s
  | some k =>
    match fnOfIdx k, s.irqOwner p.base with
    | .vf b n, some q => if s.fnPart (.vf b n) = some q then s.sendMsix k (fld w 0 6) else s
    | .vf _ _, none => s
    | _, _ => s.sendMsix k (fld w 0 6)

/-- IRQ_STATUS bits of the page at `base` that have signalled since the host last cleared them. -/
def State.irqOut (s : State) (base : Nat) : Word := Tab.get (fun _ => 0) s.irqSent base
def State.setIrqOut (s : State) (base : Nat) (w : Word) : State := { s with irqSent := Tab.set (fun _ => 0) s.irqSent base w }
/-- Bits of `m` become signalling: one message for each, and none again until the host clears the bit (R379). -/
def State.signalBits (s : State) (p : Page) (m : Word) : State :=
  ((List.range 32).filter (fun b => m.getLsbD b)).foldl (fun s _ => s.signal p) (s.setIrqOut p.base (s.irqOut p.base ||| m))

/-- Hardware sets bit `b` of IRQ_STATUS of the page at `base`. -/
def State.setIrq (s : State) (base b : Nat) : State :=
  let w := s.reg (base + 0x18)
  let s1 := s.setReg (base + 0x18) (w ||| (1#64 <<< b))
  if !w.getLsbD b && w.getLsbD (32 + b) then
    match pageOf base with
    | some p => s1.signalBits p (1#64 <<< b)
    | none => s1
  else s1

/-- Hardware sets bit `b` of ERR_STATUS of the page at `base`: ERR_CLASS becomes b + 1, and IRQ bit 31 sets unless
masked (R476, R477). -/
def State.setErr (s : State) (base b : Nat) : State :=
  let w := s.reg (base + 0x10)
  let s1 := s.setReg (base + 0x10) (w ||| (1#64 <<< b))
  let s2 := s1.setReg (base + 0x08) (putFld (s1.reg (base + 0x08)) 40 8 (b + 1))
  if w.getLsbD (32 + b) then s2 else s2.setIrq base 31

/-- What a COMMIT finds (R482 step 2). -/
inductive Commit where
  | ok
  | notQuiesced
  | invalid
deriving DecidableEq, Repr

/-- COMMIT of a page: a check that fails leaves every value staged and sets ERR_STATUS; otherwise all staged values
take effect together and `after` does what the block does at its boundary. -/
def State.commit (s : State) (f : Fn) (p : Page) (check : State → Commit) (after : State → State) : State :=
  if !s.seesPage f p then s
  else match check s with
    | .notQuiesced => s.setErr p.base 0
    | .invalid => s.setErr p.base 1
    | .ok => after (s.applyStaged p)

/-- A bad access (R479): counted on the CHIP page, and ERR_STATUS bit 2 of a page that the function sees. -/
def State.badAccess (s : State) (f : Fn) (off : Nat) : State :=
  let s1 := s.bump 0xC0 1
  match pageOf (keyOf f off) with
  | some p => if s1.seesPage f p then s1.setErr p.base 2 else s1
  | none => s1

end Sys2Proof.Machine
end

