-- ==== Sys2Proof/Machine/Ops.lean ====
section
/-! DEFINITION. The named operations over contexts, groups, scratch, the tiers, the log, the meter and the long
operations, which the commands' meanings are written in. -/

namespace Sys2Proof.Machine

abbrev Outc := Host.Outcome State Fault Refusal

def zeroW : Nat → Word := fun _ => 0

/-! ### Cores, contexts and groups -/

def State.core (s : State) (c : Nat) : Core := Tab.get (fun _ => {}) s.cores c
def State.setCore (s : State) (c : Nat) (k : Core) : State := { s with cores := Tab.set (fun _ => {}) s.cores c k }
def State.modCore (s : State) (c : Nat) (f : Core → Core) : State := s.setCore c (f (s.core c))

def Core.thr (k : Core) (t : Nat) : Thread := Tab.get (fun _ => {}) k.threads t
def Core.setThr (k : Core) (t : Nat) (x : Thread) : Core :=
  { k with threads := Tab.set (fun _ => {}) k.threads t x }
def Core.grp (k : Core) (g : Nat) : Group := Tab.get (fun _ => {}) k.groups g
def Core.setGrp (k : Core) (g : Nat) (x : Group) : Core := { k with groups := Tab.set (fun _ => {}) k.groups g x }
def Core.eng (k : Core) (e : Nat) : Engine := Tab.get (fun _ => {}) k.engines e
def Core.setEng (k : Core) (e : Nat) (x : Engine) : Core := { k with engines := Tab.set (fun _ => {}) k.engines e x }
def Core.list (k : Core) (l : Nat) : ColList := Tab.get (fun _ => {}) k.lists l
def Core.setList (k : Core) (l : Nat) (x : ColList) : Core := { k with lists := Tab.set (fun _ => {}) k.lists l x }

def State.thr (s : State) (c t : Nat) : Thread := (s.core c).thr t
def State.setThr (s : State) (c t : Nat) (x : Thread) : State := s.modCore c (·.setThr t x)
def State.modThr (s : State) (c t : Nat) (f : Thread → Thread) : State := s.setThr c t (f (s.thr c t))
def State.grp (s : State) (c g : Nat) : Group := (s.core c).grp g
def State.modGrp (s : State) (c g : Nat) (f : Group → Group) : State :=
  s.modCore c (fun k => k.setGrp g (f (k.grp g)))

/-- g0 reads as zero and ignores writes (R43). -/
def Thread.r (x : Thread) (i : Reg) : Word := if i = 0 then 0 else Tab.get zeroW x.g i.val
def Thread.setR (x : Thread) (i : Reg) (w : Word) : Thread :=
  if i = 0 then x else { x with g := Tab.set zeroW x.g i.val w }
def Thread.setRn (x : Thread) (i : Nat) (w : Word) : Thread := x.setR (Fin.ofNat 16 i) w

def isHart (t : Nat) : Bool := decide (8192 ≤ t)

/-- The core's clock runs: it is ungated and the chip is neither tripped nor in supply reset (R420 to R422). -/
def State.coreClocked (s : State) (c : Nat) : Bool :=
  Config.coreEnabled c && Tab.get (fun _ => false) s.pwr.ungated c && !s.pwr.tripped && !s.pwr.supply

def freqMax : Nat := if Config.is128 then 32 else 36
/-- The frequency configured for a core (R414, R429), in 100 MHz. -/
def State.coreFreq (s : State) (c : Nat) : Nat := max 8 (min freqMax (fld (s.inForce (0x1100 + c / 8 * 8)) (c % 8 * 8) 6))
/-- The frequency that the core's PLL gives: the old one while a change is pending (R414). -/
def State.runFreq (s : State) (c : Nat) : Nat :=
  let k := Tab.get (fun _ => 0) s.pwr.freq c
  if k = 0 then s.coreFreq c else k
/-- Region of a core: a 2 × 2 block of core tiles (R421). -/
def regionOf (c : Nat) : Nat := c / 12 / 2 * 6 + c % 12 / 2
/-- The frequency at which the core runs, throttling included, before any stretch; 0 while its clock stands. -/
def State.nowFreq (s : State) (c : Nat) : Nat :=
  if s.coreClocked c then max 8 (s.runFreq c - Tab.get (fun _ => 0) s.pwr.lowered (regionOf c)) else 0
/-- Remembers within a brown-out between which frequencies a core has run. -/
def State.noteCore (s : State) (c : Nat) : State :=
  if !s.pwr.brownout then s
  else
    let f := s.nowFreq c
    let o := (Tab.get (fun _ => none) s.pwr.span c).getD (f, f)
    { s with pwr := { s.pwr with span := Tab.set (fun _ => none) s.pwr.span c (some (min o.1 f, max o.2 f)) } }
def State.noteFreq (s : State) : State := (List.range 144).foldl (fun s c => s.noteCore c) s

/-- STATUS.READY of a core: clocked and neither zeroing nor in reset (R3, R63, R75). -/
def State.coreReady (s : State) (c : Nat) : Bool :=
  s.coreClocked c && !(s.core c).zeroing && !(s.core c).resetting

/-- Engine e of core c does not issue: during a brown-out and until its restart (R132, R418, R423). -/
def State.engPaused (s : State) (c e : Nat) : Bool := s.pwr.brownout || s.pwr.restartQ.contains (c * 16 + e)

/-- Little-endian field of a group descriptor (R53). -/
def Group.f (g : Group) (off n : Nat) : Nat := Mem.le g.desc off n
def Group.setF (g : Group) (off n v : Nat) : Group := { g with desc := Mem.putLe g.desc off n v }
def Group.liveThreads (g : Group) : Nat := g.f 26 2
def Group.specEpoch (g : Group) : Nat := g.f 28 4
def Group.rt (g : Group) : Bool := decide (g.f 13 1 / 16 % 2 = 1)
def Group.deckle (g : Group) : Nat := min 4 (g.f 25 1 % 8)
def Group.colList (g : Group) : Nat := g.f 24 1 % 64

/-- The live contexts of a group. -/
def Core.members (k : Core) (g : Nat) : List Nat :=
  k.threads.keys.filter (fun t => decide (t < 8192) && decide ((k.thr t).group = g) && decide ((k.thr t).st ≠ .free))

/-! ### Scratch (R57 to R60, R72, R91) -/

def scrMask (w : Word) : Nat := fld w 0 22

def Core.words (a n : Nat) : List Nat := if n = 0 then [] else (List.range ((a + n - 1) / 8 + 1 - a / 8)).map (· + a / 8)

/-- Reading the words of `[a, a + n)`: how many hold a single-bit error, whether one holds more, whether one is
poison-marked. -/
def Core.check (k : Core) (a n : Nat) : Nat × Bool × Bool :=
  let ws := Core.words a n
  ((ws.filter (fun w => decide (Tab.get (fun _ => 0) k.ecc w = 1))).length,
   ws.any (fun w => decide (2 ≤ Tab.get (fun _ => 0) k.ecc w)),
   ws.any (fun w => Tab.get (fun _ => false) k.poison w))

/-- A write of the bytes `bs` at `a`: a word written in full loses its poison mark and its bit errors. -/
def Core.write (k : Core) (a : Nat) (bs : List Byte) : Core :=
  let full := (Core.words a bs.length).filter (fun w => decide (a ≤ 8 * w ∧ 8 * w + 8 ≤ a + bs.length))
  { k with
    scratch := Mem.putBytes k.scratch a bs
    poison := full.foldl (fun t w => Tab.set (fun _ => false) t w false) k.poison
    ecc := full.foldl (fun t w => Tab.set (fun _ => 0) t w 0) k.ecc }

/-- Marks the words that hold a byte of `[a, a + n)` (R72). -/
def Core.mark (k : Core) (a n : Nat) : Core :=
  { k with poison := (Core.words a n).foldl (fun t w => Tab.set (fun _ => false) t w true) k.poison }

def State.scr (s : State) (c a n : Nat) : List Byte := Mem.bytes (s.core c).scratch a n
def State.writeScr (s : State) (c a : Nat) (bs : List Byte) : State := s.modCore c (·.write a bs)

/-- First byte and end of the code region (R61, CORE_CODE). -/
def State.codeRegion (s : State) (c : Nat) : Nat × Nat :=
  let w := s.inForce (coreP c + 0x40)
  let b := fld w 0 6 * 0x10000
  (b, b + (fld w 6 2 + 1) * 0x10000)

/-- Whether `[a, a + n)` reaches the code region. -/
def State.inCode (s : State) (c a n : Nat) : Bool :=
  let r := s.codeRegion c
  decide (a < r.2 ∧ r.1 < a + n)

/-! ### The free value and the log -/

/-- Takes a free value: the model's counter advances, so each use is fresh. -/
def State.fresh (s : State) : Nat × State := (s.free, { s with free := s.free + 1 })

/-- An event joins the queue: behind those of earlier cycles, and by CODE among those of its own (R466). -/
def putEvent (q : List Event) (e : Event) : List Event :=
  let later := q.reverse.takeWhile (fun x => decide (x.at_ = e.at_ ∧ e.code < x.code))
  q.take (q.length - later.length) ++ e :: later.reverse

/-- Sends an event to the log's queue; entries past the 64th are held at their sources (R466). -/
def State.logEv (s : State) (code sev : Nat) (part : Option Nat) (data : List Byte) : State :=
  { s with log := { s.log with queue := putEvent s.log.queue ⟨code, sev, part, data, s.clk⟩ } }

/-- Sends an increment to the meter (R451): total k of partition p. -/
def State.meterAdd (s : State) (p k n : Nat) : State :=
  { s with meter := { s.meter with arriving := s.meter.arriving ++ [(p * 8 + k, n)] } }

/-- A period of `ticks` has ended since `last`. DESIGN CHOICE: periods follow one another from CLK_TIME 0 on (log entry 95). -/
def periodEnds (clk last : Word) (ticks : Nat) : Bool := decide (last.toNat / max 1 ticks < clk.toNat / max 1 ticks)

/-- `p` comes first after `last`, in rotating order, of the partitions that wait. -/
def nextTurn (last p : Nat) (waits : Nat → Bool) : Bool :=
  (List.range 16).all (fun q => !waits q || decide ((p + 31 - last) % 16 ≤ (q + 31 - last) % 16))

/-- Cycles of a wait that the manual counts and the model does not time: at least one, else a free number
(log entry 53). -/
def State.waitCycles (s : State) (a : Nat) : State :=
  ({ s with free := s.free + 1 } : State).bump a (1 + Config.freePick s.free)

/-- A wait that the manual bounds by `n` cycles (R30). -/
def State.waitUpTo (s : State) (a n : Nat) : State :=
  ({ s with free := s.free + 1 } : State).bump a (1 + Config.freePick s.free % n)

/-- Counters of the CORE, WALKER, ENGINES and COLLATOR pages (R74, R135, R159, R186). -/
def coreCounters (c : Nat) : List Nat :=
  (List.range 10).map (fun i => coreP c + 0x80 + i * 8) ++ (List.range 10).map (fun i => walkP c + 0x80 + i * 8) ++
  (List.range 128).map (fun i => engP c + 0x100 + i * 8) ++ (List.range 9).map (fun i => colP c + 0x80 + i * 8)

/-! ### Partitions, queries -/

def State.part (s : State) (p : Nat) : Part := Tab.get (fun _ => {}) s.parts p
def State.modPart (s : State) (p : Nat) (f : Part → Part) : State :=
  { s with parts := Tab.set (fun _ => {}) s.parts p (f (s.part p)) }
def State.dk (s : State) (p : Nat) : DeskPart := Tab.get (fun _ => {}) s.deskP p
def State.modDk (s : State) (p : Nat) (f : DeskPart → DeskPart) : State :=
  { s with deskP := Tab.set (fun _ => {}) s.deskP p (f (s.dk p)) }
/-- Changes the step in progress of a partition. -/
def State.modStep (s : State) (p : Nat) (f : Step → Step) : State :=
  s.modDk p (fun d => { d with step := d.step.map f })
def State.modDesk (s : State) (f : Desk → Desk) : State := { s with desk := f s.desk }
def State.query (s : State) (q : Nat) : Option Query := Tab.get (fun _ => none) s.desk.queries q
def State.setQuery (s : State) (q : Nat) (x : Option Query) : State :=
  s.modDesk (fun d => { d with queries := Tab.set (fun _ => none) d.queries q x })
def State.modQuery (s : State) (q : Nat) (f : Query → Query) : State :=
  match s.query q with
  | some x => s.setQuery q (some (f x))
  | none => s
/-- The live queries of a partition. -/
def State.queriesOf (s : State) (p : Nat) : List Nat :=
  s.desk.queries.keys.filter (fun q => match s.query q with
    | some x => decide (x.part = p)
    | none => false)

/-- A query fails: its first error code stands (R23). -/
def State.failQuery (s : State) (q code : Nat) : State :=
  s.modQuery q (fun x => if x.err = 0 then { x with err := code } else x)

/-- The partition of core `c` whose step in progress a group with this KIND and STEP serves: a LAYER or LIST group of that
step (R196, R202). -/
def State.stepPart (s : State) (c kind step : Nat) : Option Nat :=
  if kind = 1 ∨ kind = 3 then
    (s.coreOwner c).bind (fun p =>
      if (s.dk p).step.isSome && decide (step / 1024 = (s.dk p).stepNo % 2 ^ 22) then some p else none)
  else none

/-- A group's fault reaches the Desk: that of a layer group fails the step in progress, with PLAN_FAULT at its next
boundary (R203); any other fails the query with the fault's code (R70). -/
def State.deskFault (s : State) (c : Nat) (x : Group) (code : Nat) : State :=
  match s.stepPart c x.kind x.step with
  | some p => s.modStep p (fun y => { y with failed := if y.failed = 0 then 0x0111 else y.failed })
  | none => s.failQuery (x.f 0 4) code

/-- A layer group is marked done (R202): its core is done with the layer. -/
def State.layerGdone (s : State) (c : Nat) (x : Group) : State :=
  match s.stepPart c x.kind x.step with
  | some p => s.modStep p (fun y => { y with left := y.left.erase c })
  | none => s

/-- The previous epoch's map, or the current one (R382). -/
def Part.map (x : Part) (epoch : Nat) : Tab Nat := if epoch = x.epoch then x.curMap else x.prevMap
/-- Member entry: NODE, PART where valid (R381). -/
def memberEntry (t : Tab Nat) (m : Nat) : Option (Nat × Nat) :=
  let w := Tab.get (fun _ => 0) t m
  if w / 2 ^ 31 % 2 = 1 then some (w % 1024, w / 1024 % 16) else none

/-! ### Requests under way -/

def State.req (s : State) (i : Nat) : Option Req := Tab.get (fun _ => none) s.reqs i
def State.setReq (s : State) (i : Nat) (r : Option Req) : State := { s with reqs := Tab.set (fun _ => none) s.reqs i r }
def State.newReq (s : State) (r : Req) : Nat × State :=
  (s.nextId, { s with nextId := s.nextId + 1 }.setReq s.nextId (some r))

/-- Requests that hold a tag of core `c` (R56). -/
def State.tagsUsed (s : State) (c : Nat) : Nat :=
  (s.reqs.keys.filter (fun i => match s.req i with
    | some r => decide (r.core = c) &&
        (match r.kind with
         | .rda | .wra | .prefetch => true
         | _ => false)
    | none => false)).length
def State.tagsFree (s : State) (c : Nat) : Nat := 1792 - s.tagsUsed c
def State.tagReserve (s : State) (c : Nat) : Nat := min 1792 (fld (s.inForce (coreP c + 0x48)) 32 11)
/-- A usable tag (R56): the reserve is only for groups with RT = 1. -/
def State.tagUsable (s : State) (c : Nat) (rt : Bool) : Bool :=
  if rt then decide (0 < s.tagsFree c) else decide (s.tagReserve c < s.tagsFree c)

/-! ### Waking -/

/-- A waiting context whose instruction issues again becomes READY (R45, R48); it has been counted already. -/
def Thread.wakeReissue (x : Thread) : Thread := { x with st := .ready, wait := .reissue }
/-- A waiting context whose instruction has completed goes on. -/
def Thread.complete (x : Thread) : Thread := { x with st := .ready, wait := .none, pc := x.pc + 1 }

/-- Wakes every context of the core that satisfies `p`. -/
def State.wakeIf (s : State) (c : Nat) (p : Thread → Bool) (f : Thread → Thread) : State :=
  (s.core c).threads.keys.foldl (fun s t =>
    let x := s.thr c t
    if p x then s.setThr c t (f x) else s) s

/-- What a context in WAIT_UNIT waits for may be there: a work item, a handle, a place in the hold store or a Collator
that takes bindings again. Each issues its instruction again and waits anew where its own cause stands (R48, R100). -/
def State.wakeUnit (s : State) (c : Nat) : State :=
  s.wakeIf c (fun x => decide (x.st = .waitUnit ∧ x.wait = .reissue)) Thread.wakeReissue

/-! ### Groups: freeing, killing, events (R49, R50, R55, R98, R139) -/

/-- GSIG of a group (R98): the count rises and every sleeping thread goes on with the new count. -/
def State.gsig (s : State) (c g : Nat) : State :=
  let n := (s.grp c g).events + 1
  let s1 := s.modGrp c g (fun x => { x with events := n })
  s1.wakeIf c (fun x => decide (x.st = .sleep ∧ x.group = g))
    (fun x => match x.wait with
      | .event rd => (x.setRn rd (n.setWidth 64)).complete
      | _ => x)

/-- Shadow entries held by a list. -/
def ColList.shadowCount (l : ColList) : Nat := (l.shadow.map (fun h => h.entries.length)).foldl (· + ·) 0

/-- The lists that a group owns and are open. -/
def Core.ownLists (k : Core) (g : Nat) : List Nat :=
  (List.range 64).filter (fun l => (k.list l).isOpen && decide ((k.list l).owner = g))

/-- Closes the group's lists without a seal (R139). -/
def State.closeLists (s : State) (c g : Nat) : State :=
  ((s.core c).ownLists g).foldl (fun s l => s.modCore c (fun k => k.setList l {})) s

/-- Frees a group that has no live thread left, and holds the report to the Desk (R55, R152). What its uncommitted hops
still hold goes with it. -/
def State.freeGroup (s : State) (c g : Nat) : State :=
  let x := s.grp c g
  let unsealed := decide ((s.core c).ownLists g ≠ [])
  let rec_ := Tab.get (fun _ => none) (s.core c).sealed g
  let s1 := s.closeLists c g
  s1.modCore c (fun k =>
    { k.setGrp g { gen := x.gen } with
      held := k.held.filter (fun h => decide (h.1 ≠ g))
      faults := k.faults.filter (fun h => decide (h.group ≠ g))
      sealed := Tab.set (fun _ => none) k.sealed g none
      freed := k.freed ++ [⟨x.f 0 4, x.kind, x.step, x.killed || unsealed, x.done, rec_⟩] })

/-- Frees the group where R55 allows: killed or done, no live thread, no seal pending. -/
def State.tryFree (s : State) (c g : Nat) : State :=
  let x := s.grp c g
  let sealing := ((s.core c).ownLists g).any (fun l => ((s.core c).list l).sealing)
  if x.live && (x.killed || x.done) && decide (x.liveThreads = 0) && (x.killed || !sealing) then s.freeGroup c g
  else s

/-- Discards the group's held visited bits, held faults and shadow lists (R103, R149). -/
def State.dropHeld (s : State) (c g : Nat) : State :=
  let n := (((s.core c).ownLists g).map (fun l => ((s.core c).list l).shadowCount)).foldl (· + ·) 0
  let s1 := s.modCore c (fun k =>
    let k1 := (k.ownLists g).foldl (fun k l =>
      let x := k.list l
      k.setList l { x with shadow := x.shadow.map (fun _ => {}), dropHops := [] }) k
    { k1 with
      held := k1.held.filter (fun h => decide (h.1 ≠ g))
      faults := k1.faults.filter (fun h => decide (h.group ≠ g)) })
  (s1.bump (colP c + 0xB8) n).wakeUnit c

/-- Kills a group (R49, R50, R105, R139): its lists close without a seal, its contexts are marked and freed at their
next scheduling points (CONTEXT_FREE). -/
def State.killGroup (s : State) (c g : Nat) : State :=
  let x := s.grp c g
  if !x.live || x.killed then s
  else
    let s1 := if x.hops = 0 then s else (s.dropHeld c g).bump (walkP c + 0x88) 1
    let s2 := s1.closeLists c g
    let s3 := s2.modGrp c g (fun x => { x with killed := true, hops := 0 })
    let s4 := ((s3.core c).members g).foldl (fun s t => s.modThr c t (fun y => { y with marked := true })) s3
    s4.tryFree c g

/-- The handles that hart `h` holds. -/
def Core.handlesOf (k : Core) (h : Nat) : List Nat :=
  (List.range 64).filter (fun i => match Tab.get (fun _ => none) k.handles i with
    | some (h', _) => decide (h' = h)
    | none => false)

/-- The handles of a hart that halts are released, and the Desk offers their items to the core again (R100): they wait
there ahead of the items that the core has not been given yet. -/
def State.releaseHandles (s : State) (c h : Nat) : State :=
  let k := s.core c
  let mine := k.handlesOf h
  let items := mine.filterMap (fun i => (Tab.get (fun _ => none) k.handles i).map (fun x => (c, x.2)))
  let s1 := s.modCore c (fun k => { k with handles := mine.foldl (fun t i => Tab.set (fun _ => none) t i none) k.handles })
  match s.coreOwner c with
  | some p => s1.modDk p (fun d => { d with held := items ++ d.held })
  | none => s1

/-- Halts hart `h` of core `c` (R52, R90): RUN clears and HALTED sets. -/
def State.haltHart (s : State) (c h : Nat) : State :=
  let a := coreP c + 0x48
  let s1 := (s.setField a h 1 0).setField a (8 + h) 1 1
  ((s1.modThr c (8192 + h) (fun x => { ({} : Thread) with inst := x.inst + 1 })).releaseHandles c h).wakeUnit c

/-- Records the first fault while CORE_FAULT_INFO.VALID is 0 (R52, R70). DEDUCED: a hart's number 8,192 + h needs 14 bits
and CONTEXT has 13, so its top bit stands in bit 29 (log entry 42). -/
def State.recordFault (s : State) (c ctx grp code : Nat) (pc : BitVec 16) (addr : Word) : State :=
  let a := coreP c + 0x58
  if (s.reg a).getLsbD 47 then s
  else (s.setReg a (BitVec.ofNat 64 (code + ctx * 2 ^ 16 + grp * 2 ^ 32 + 2 ^ 47 + pc.toNat * 2 ^ 48))).setReg
    (coreP c + 0x60) addr

/-- A committed fault in a group (R70). -/
def State.groupFault (s : State) (c g ctx code : Nat) (pc : BitVec 16) (addr : Word) : State :=
  let s1 := s.bump (coreP c + 0xA0) 1
  let x := s1.grp c g
  if !x.live then s1
  else
    let s2 := if x.f 32 4 = 0 then
        (s1.modGrp c g (·.setF 32 4 (code + ctx * 2 ^ 16))).recordFault c ctx g code pc addr
      else s1
    (s2.deskFault c x code).killGroup c g

/-- A hart's fault (R52). -/
def State.hartFault (s : State) (c h code : Nat) (pc : BitVec 16) (addr : Word) : State :=
  let s1 := (s.bump (coreP c + 0xA0) 1).recordFault c (8192 + h) 0 code pc addr
  ((s1.setField (coreP c + 0x48) (16 + h) 1 1).modCore c (fun k => { k with hartDown := h :: k.hartDown.erase h })).haltHart c h

/-- The instruction at `pc` of context `t` faults: at once, or held with hop `h` (R70, R71) under its place `ord` in the
order of issue. -/
def State.faultWith (s : State) (c t : Nat) (held : Option Nat) (ord code : Nat) (pc : BitVec 16) (addr : Word) : State :=
  let x := s.thr c t
  if isHart t then s.hartFault c (t - 8192) code pc addr
  else
    let s1 := s.setThr c t { x with st := .faulted, wait := .none }
    match held with
    | some h => s1.modCore c (fun k => { k with faults := k.faults ++ [⟨x.group, h, t, code, pc, addr, ord⟩] })
    | none => s1.groupFault c x.group t code pc addr

/-- The fault of an instruction that the thread issues now: before every access that is still to be numbered. -/
def State.faultThread (s : State) (c t code : Nat) (pc : BitVec 16) (addr : Word) : State :=
  let x := s.thr c t
  s.faultWith c t (if x.spec then some x.hop else none) (2 * s.nextId) code pc addr

/-! ### Tier addresses (R216 to R220) -/

def qReg (p k : Nat) : Nat := 0x9100 + p * 0x20 + k * 8
def State.unified (s : State) (p : Nat) : Bool := (s.inForce (qReg p 0)).getLsbD 0
def State.t1Linear (s : State) (p : Nat) : Bool := (s.inForce (qReg p 0)).getLsbD 1
def MiB2 : Nat := 0x200000
def MiB64 : Nat := 0x4000000
/-- Quota of a tier in bytes. -/
def State.quota (s : State) (p t : Nat) : Nat :=
  match t with
  | 0 => fld (s.inForce (qReg p 1)) 0 17 * MiB2
  | 1 => fld (s.inForce (qReg p 1)) 32 21 * MiB2
  | _ => fld (s.inForce (qReg p 2)) 0 22 * MiB64
def State.uSize (s : State) (p : Nat) : Nat := fld (s.inForce (qReg p 2)) 32 23 * MiB64
def mapBytes (u : Nat) : Nat := (u / 524288 + MiB2 - 1) / MiB2 * MiB2

def aSpace (a : Word) : Nat := fld a 48 2
def aOff (a : Word) : Nat := fld a 0 48

/-- Size of a space of the partition's view. -/
def State.spaceSize (s : State) (p sp : Nat) : Nat :=
  if s.unified p then (if sp = 3 then s.uSize p else 0) else (if sp = 3 then 0 else s.quota p sp)

/-- Whether the `n` bytes at `a` lie inside the partition's allocation (R216). -/
def State.inAlloc (s : State) (p : Nat) (a : Word) (n : Nat) : Bool :=
  decide (fld a 50 14 = 0 ∧ aOff a + n ≤ s.spaceSize p (aSpace a) ∧ aOff a < s.spaceSize p (aSpace a))

/-- Where a byte lies: a piece of tier 0 or 1 with the offset in it, or tier 2 (R214). -/
inductive Loc where
  | phys (piece off : Nat)
  | arch (off : Nat)
deriving DecidableEq, Repr, Inhabited

/-- Key of a byte of a piece in `State.mem`: pairs 8 GiB apart, channels 256 GiB apart. -/
def physKey (piece off : Nat) : Nat := if piece < 48 then piece * 2 ^ 33 + off else 48 * 2 ^ 33 + (piece - 48) * 2 ^ 38 + off

/-- Usable bytes of a module channel (R217): its capacity less the Carrel window. -/
def State.chanCap (s : State) (m : Nat) : Nat :=
  let w := s.reg (mcP m + 0x40)
  let cap := fld w 4 9 * 2 ^ 30
  if fld w 0 2 = 2 then cap - 64 * 2 ^ 20 else cap

def pairCap : Nat := 9 * 2 ^ 29

/-- R217: FLAGS placement of an offset of tier 0 or 1. -/
def State.place (s : State) (p t o : Nat) : Option Loc :=
  let interleave (ps : List Nat) (g : Nat) : Option Loc :=
    if ps = [] then none
    else
      let u := o / g
      (ps[u % ps.length]?).map (fun i => .phys i (u / ps.length * g + o % g))
  match t with
  | 0 => interleave (s.pairsOf p) 512
  | 1 =>
    let ch := s.chansOf p
    if s.t1Linear p then
      (ch.foldl (fun (acc : Option Loc × Nat) m =>
        match acc.1 with
        | some _ => acc
        | none =>
          let cap := s.chanCap m
          if acc.2 < cap then (some (.phys (48 + m) acc.2), 0) else (none, acc.2 - cap)) (none, o)).1
    else interleave (ch.map (48 + ·)) 4096
  | _ => some (.arch o)

def State.tp (s : State) (p : Nat) : TierPart := Tab.get (fun _ => {}) s.tierP p
def State.modTp (s : State) (p : Nat) (f : TierPart → TierPart) : State :=
  { s with tierP := Tab.set (fun _ => {}) s.tierP p (f (s.tp p)) }

/-- Tier 1 extents of a UNIFIED partition. -/
def State.t1Extents (s : State) (p : Nat) : Nat := s.quota p 1 / MiB64

/-- Tier and slot of an extent; one not yet moved is where the making of the map put it: the first extents in tier 1, the
others in tier 2 (log entry 12). -/
def State.extent (s : State) (p x : Nat) : Nat × Nat :=
  match Tab.get (fun _ => none) (s.tp p).ext x with
  | some e => e
  | none => if x < (s.tp p).base1 then (1, x) else (2, x - (s.tp p).base1)

/-- The map entry of a page (R218). -/
def State.page (s : State) (p g : Nat) : PageEnt :=
  let x := s.tp p
  let moving := match x.move with
    | some m => if m.ext then decide (m.num = g / 32) else decide (m.num = g)
    | none => false
  let pin := Tab.get (fun _ => false) x.pins g
  match Tab.get (fun _ => none) x.t0 g with
  | some sl => ⟨0, pin, moving, sl⟩
  | none => ⟨(s.extent p (g / 32)).1, pin, moving, (s.extent p (g / 32)).2 * 32 + g % 32⟩

/-- Where a device address of the partition lies (R217, R218). -/
def State.locate (s : State) (p : Nat) (a : Word) : Option Loc :=
  if aSpace a = 3 then
    let o := aOff a
    let e := s.page p (o / MiB2)
    s.place p e.res (e.slot * MiB2 + o % MiB2)
  else s.place p (aSpace a) (aOff a)

/-- Where the map entry of a page lies: in the top MAP_BYTES of the partition's tier 0 quota, 4 bytes a page (R218). -/
def State.mapEntry (s : State) (p g : Nat) : Option Loc := s.place p 0 (s.quota p 0 - mapBytes (s.uSize p) + 4 * g)

/-- The line that holds the map entry of a page, where it is poisoned. -/
def State.mapLineBad (s : State) (p g : Nat) : Option (Nat × Nat) :=
  match s.mapEntry p g with
  | some (.phys i o) => if Tab.get (fun _ => false) s.memBad (physKey i o / 64) then some (i, o) else none
  | _ => none

/-- The translation cache holds the page's entry (R219). -/
def State.cached (s : State) (p g : Nat) : Bool := (s.tp p).xlate.contains g

/-- The address cannot be translated: its map entry is not cached and reads as poison (TIER_MAP_POISON). -/
def State.mapBad (s : State) (p : Nat) (a : Word) : Bool :=
  s.unified p && decide (aSpace a = 3) && !s.cached p (aOff a / MiB2) && (s.mapLineBad p (aOff a / MiB2)).isSome

/-- Tier of a device address as its request finds it. -/
def State.tierOf (s : State) (p : Nat) (a : Word) : Nat := if aSpace a = 3 then (s.page p (aOff a / MiB2)).res else aSpace a

/-! ### Tier 2 as it reads (R311 to R313) -/

def State.ns (s : State) (p : Nat) : Ns := Tab.get (fun _ => {}) s.arc p
/-- A journal page's first record starts its time (R312): `n` is what the namespace `old` becomes at time `clk`. -/
def Ns.timed (n old : Ns) (clk : Word) : Ns := if n.jOpen.head? = old.jOpen.head? then n else { n with jAt := clk }
/-- Changes a namespace. -/
def State.modNs (s : State) (p : Nat) (f : Ns → Ns) : State :=
  { s with arc := Tab.set (fun _ => {}) s.arc p ((f (s.ns p)).timed (s.ns p) s.clk) }

def Ns.cw (n : Ns) (lu : Nat) : Option Codeword :=
  let k := Tab.get (fun _ => 0) n.map lu
  if k = 0 then none else Tab.get (fun _ => none) n.cws (k - 1)

/-- Writes to the range of a resumed discard wait until its set is known (R331). -/
def Ns.holdsWrite (n : Ns) (lu : Nat) : Bool :=
  match n.discard with
  | some d => !d.accepted && decide (d.slot = 31 ∧ d.lo ≤ lu ∧ lu < d.hi)
  | none => false

/-- Content of a logical unit: staged, programmed, zeros where it is unmapped, poison while the namespace is unformatted
(R313, R329). -/
def Ns.content (n : Ns) (lu : Nat) : List Byte × Bool :=
  if !n.formatted then (List.replicate 4096 0, true)
  else match n.staging.find? (fun x => decide (x.lu = lu)) with
  | some x => (x.data, x.bad)
  | none =>
    match n.cw lu with
    | some c => (c.data, decide (c.flags / 2 % 2 = 1))
    | none => (List.replicate 4096 0, false)

/-- What a unit reads as: its content, but zeros while a resumed discard of its range awaits its set (R331). -/
def Ns.unit (n : Ns) (lu : Nat) : List Byte × Bool :=
  if n.formatted && n.holdsWrite lu then (List.replicate 4096 0, false) else n.content lu

/-- Whether a unit is in staging, or waits for it. -/
def Ns.isStaged (n : Ns) (lu : Nat) : Bool := n.staging.any (fun x => decide (x.lu = lu))
/-- A namespace that is formatted and not read-only takes writes; others drop them (R323, R329). -/
def Ns.takesWrite (n : Ns) : Bool := n.formatted && !n.readOnly

/-- Bytes of one line replace those of a staged unit. A poisoned unit is clean again once good data has covered every line of
it (R315). -/
def Staged.put (x : Staged) (off : Nat) (bs : List Byte) (bad : Bool) : Staged :=
  let cover := if bad then [] else if x.bad && decide (bs.length = 64) && !x.cover.contains (off / 64) then x.cover ++ [off / 64] else x.cover
  { x with data := x.data.take off ++ bs ++ x.data.drop (off + bs.length), bad := bad || (x.bad && decide (cover.length < 64)), cover := cover }

/-- A line write enters staging: later writes replace a unit's lines in place until it enters a stripe, and then stage it
anew (R311). -/
def Ns.stage (n : Ns) (lu off : Nat) (bs : List Byte) (bad : Bool) (now : Word) (room : Bool) : Ns :=
  match n.staging.find? (fun x => decide (x.lu = lu)) with
  | some x =>
    if x.seq = 0 then { n with staging := n.staging.map (fun y => if y.lu = lu then y.put off bs bad else y) }
    else { n with staging := n.staging.filter (fun y => decide (y.lu ≠ lu)) ++ [({ x with seq := 0, since := now, cover := [] } : Staged).put off bs bad] }
  | none =>
    let u := n.content lu
    { n with staging := n.staging ++ [({ lu := lu, data := u.1, bad := u.2, since := now, waits := !room } : Staged).put off bs bad] }

/-! ### Tier accesses of the chip's blocks -/

/-- The 64-byte lines that `[a, a + n)` touches. -/
def linesOf (a n : Nat) : List Nat := if n = 0 then [] else (List.range ((a + n - 1) / 64 + 1 - a / 64)).map (· + a / 64)

/-- A piece still being zeroed cannot be reached (R371). -/
def State.zeroingPiece (s : State) (i : Nat) : Bool := Tab.get (fun _ => false) s.zeroing i

/-- One byte as the tier holds it: zero in a piece that is being zeroed (R371). -/
def State.tierByte (s : State) (p : Nat) (a : Word) : Byte :=
  match s.locate p a with
  | some (.phys i o) => if s.zeroingPiece i then 0 else Mem.rd s.mem (physKey i o)
  | some (.arch o) => ((s.ns p).unit (o / 4096)).1.getD (o % 4096) 0
  | none => 0

def State.lineBad (s : State) (p : Nat) (a : Word) : Bool :=
  s.mapBad p a || match s.locate p a with
  | some (.phys i o) => !s.zeroingPiece i && Tab.get (fun _ => false) s.memBad (physKey i o / 64)
  | some (.arch o) => ((s.ns p).unit (o / 4096)).2
  | none => false

/-- Accesses that the Tier block counts for a page of a UNIFIED partition and its extent (R223), in units of 64 bytes,
saturating. -/
def State.countPage (s : State) (p g n : Nat) : State :=
  s.modTp p (fun x => { x with
    pcnt := Tab.set (fun _ => 0) x.pcnt g (min 0xFFFF (Tab.get (fun _ => 0) x.pcnt g + n))
    xcnt := Tab.set (fun _ => 0) x.xcnt (g / 32) (min 0xFFFFFFFF (Tab.get (fun _ => 0) x.xcnt (g / 32) + n)) })

/-- Counts an access of `n` lines from `a` on, each line to its page. -/
def State.countAccess (s : State) (p : Nat) (a : Word) (n : Nat) : State :=
  if !s.unified p then s
  else
    let l := aOff a / 64
    (List.range ((l + n - 1) / 32768 + 1 - l / 32768)).foldl (fun s j =>
      let g := l / 32768 + j
      s.countPage p g (min (l + n) ((g + 1) * 32768) - max l (g * 32768))) s

/-- Bytes that the meter counts for a delivered read (R449): 64 per line in tiers 0 and 1, 4,096 per unit in tier 2. -/
def State.meterRead (s : State) (p : Nat) (a : Word) (n : Nat) : State :=
  match s.tierOf p a with
  | 0 => s.meterAdd p 3 (64 * (linesOf (aOff a) n).length)
  | 1 => s.meterAdd p 4 (64 * (linesOf (aOff a) n).length)
  | _ => s.meterAdd p 5 (4096 * ((aOff a + n - 1) / 4096 + 1 - aOff a / 4096))

def addA (a : Word) (n : Nat) : Word := a + BitVec.ofNat 64 n

/-- TIER_POISON_CNT of a partition. -/
def State.poisonRead (s : State) (p : Nat) : State := s.bump (0x9300 + p * 0x40 + 0x18) 1

/-- The bytes at `[a, a + n)` and whether a line or unit of them is poisoned. -/
def State.peek (s : State) (p : Nat) (a : Word) (n : Nat) : List Byte × Bool :=
  ((List.range n).map (fun i => s.tierByte p (addA a i)),
   (linesOf (aOff a) n).any (fun l => s.lineBad p (addA a (l * 64 - aOff a))))

/-- Event TIER_UNCORRECTABLE (R229). -/
def State.reportBad (s : State) (p : Option Nat) (tier inst piece cause line : Nat) : State :=
  s.logEv 0x0420 4 p (leBytes 1 tier ++ leBytes 1 inst ++ leBytes 1 piece ++ leBytes 1 cause ++ leBytes 8 line ++
    List.replicate 4 0)

/-- Page of the controller of a tier 0 or tier 1 piece, and its owner. -/
def ctlP (i : Nat) : Nat := if i < 48 then hcP (i / 8) else mcP (i - 48)
def State.pieceOwner (s : State) (i : Nat) : Option Nat := if i < 48 then s.pairOwner i else s.chanOwner (i - 48)

/-- An uncorrectable line of a piece is found (R229, R234). -/
def State.uncorr (s : State) (i o : Nat) (scrub : Bool) : State :=
  (s.bump (ctlP i + 0x88) 1).reportBad (s.pieceOwner i) (if i < 48 then 0 else 1)
    (if i < 48 then i / 8 else i - 48) (if i < 48 then i else i - 48) (if scrub then 1 else 0) (o / 64 * 64)

/-- A partition's LUNs, each by channel × 64 + target × 4 + LUN index, in the order of R308: LUN index, then target, then
channel. -/
def State.lunIds (s : State) (p : Nat) : List Nat :=
  (List.range 4).flatMap (fun l => (List.range 16).flatMap (fun t => ((s.flashOf p).filter (fun c =>
    let w := s.reg (fcP c + 0x40)
    decide (t < fld w 0 5 ∧ l < fld w 8 3))).map (fun c => c * 64 + t * 4 + l)))
/-- Their channels. -/
def State.lunChans (s : State) (p : Nat) : List Nat := (s.lunIds p).map (· / 64)

/-- Geometry of a partition's flash: stripes per superblock and superblocks per stripe group (R306, R308, R335). -/
def State.fcGeom (s : State) (p : Nat) : Nat × Nat :=
  match s.flashOf p with
  | [] => (0, 0)
  | c :: _ => let w := s.reg (fcP c + 0x40)
    (fld w 16 13 * fld w 12 3, fld w 32 16)
/-- Planes of a partition's LUNs. -/
def State.planes (s : State) (p : Nat) : Nat :=
  match s.flashOf p with
  | [] => 0
  | c :: _ => fld (s.reg (fcP c + 0x40)) 12 3

/-- Codewords are numbered by superblock, stripe and place in the stripe (log entry 23): channel of a codeword. -/
def State.cwChan (s : State) (p cw : Nat) : Nat :=
  let g := s.fcGeom p
  let row := cw / 60 % max 1 g.1
  let sb := cw / 60 / max 1 g.1
  let d := cw % 60 / 4
  let lun := if d < row % 16 then d else d + 1
  ((s.lunChans p)[sb / max 1 g.2 * 16 + lun]?).getD 0

/-! #### Flash reads (R310, R313, R315) -/

/-- Superblock of a codeword; `rows` is the number of stripes of a superblock. -/
def sbOf (rows cw : Nat) : Nat := cw / 60 / max 1 rows
def State.sbRows (s : State) (p : Nat) : Nat := (s.fcGeom p).1
/-- Channel of member LUN `m` of a superblock. -/
def State.memberChan (s : State) (p sb m : Nat) : Nat := ((s.lunChans p)[sb / max 1 (s.fcGeom p).2 * 16 + m]?).getD 0
/-- Number of member LUN `m` among the partition's LUNs. -/
def State.memberLun (s : State) (p sb m : Nat) : Nat := sb / max 1 (s.fcGeom p).2 * 16 + m

/-- Member LUN of its superblock that holds a codeword. -/
def memberOf (rows cw : Nat) : Nat :=
  let row := cw / 60 % max 1 rows
  let d := cw % 60 / 4
  if d < row % 16 then d else d + 1

/-- `n` codewords come from, or go to, a flash channel, 1,152 cycles each (R313, R336). -/
def State.fcRead (s : State) (c n : Nat) : State := (s.bump (fcP c + 0x80) n).bump (fcP c + 0xB0) (1152 * n)
def State.fcProg (s : State) (c n : Nat) : State := (s.bump (fcP c + 0x88) n).bump (fcP c + 0xB0) (1152 * n)

/-- Counter of the Archive Controller for a partition (R334). -/
def arcCnt (p k : Nat) : Nat := 0x63040 + p * 0x80 + k

/-- The map look-up of a unit (R310, R319): a line that is not among the 4,096 cached ones is read from tier 1; a line's
first use after a mount waits where the background has not loaded it yet. DESIGN CHOICE: a full cache gives up a line that
the model leaves free (log entry 60). -/
def State.mapLook (s : State) (p lu : Nat) : State :=
  let n := s.ns p
  let l := lu / 16
  let s1 : State :=
    if n.loading && !n.loaded.contains l then
      let s0 := ({ s with free := s.free + 1 } : State).modNs p (fun n => { n with loaded := n.loaded ++ [l] })
      if Config.freeBit s.free then s0.waitCycles (arcCnt p 0x68) else s0
    else s
  if n.mapLines.contains l then s1
  else
    let s2 : State := { (s1.bump (arcCnt p 0x20) 1) with free := s1.free + 1 }
    s2.modNs p (fun n => { n with mapLines :=
      (if n.mapLines.length < 4096 then n.mapLines else n.mapLines.eraseIdx (Config.freePick s1.free % 4096)) ++ [l] })

/-- Codeword `cw` is read: hard decision, retries, the other 15 pages of its stripe (R315). A recovered codeword is to be
rewritten. -/
def State.flashRead (s : State) (p cw : Nat) (q : CwOutcome) : State :=
  let c := s.cwChan p cw
  let retries := match q with
    | .hard => 0
    | .retried m => min 3 (max 1 m.val)
    | _ => 3
  let s1 := (s.fcRead c (1 + retries)).bump (arcCnt p 0x28) retries
  match q with
  | .hard => ({ s1 with free := s1.free + 1 } : State).bump (fcP c + 0x98) (if Config.freeBit s1.free then 1 else 0)
  | .retried _ => s1.modNs p (fun n => { n with rewrite := n.rewrite ++ [cw] })
  | q =>
    let s2 := (List.range 16).foldl (fun s m =>
      if m = memberOf (s.sbRows p) cw then s else s.fcRead (s.memberChan p (sbOf (s.sbRows p) cw) m) 1) s1
    if q = .rebuilt then (s2.bump (arcCnt p 0x30) 1).modNs p (fun n => { n with rewrite := n.rewrite ++ [cw] })
    else s2.bump (arcCnt p 0x38) 1

/-- The LDPC outcome of a read that no command reports: the manual leaves it to the media (R315). -/
def freeOutcome (k : Nat) : CwOutcome :=
  match Config.freePick k % 6 with
  | 0 => .hard
  | 1 => .retried 1
  | 2 => .retried 2
  | 3 => .retried 3
  | 4 => .rebuilt
  | _ => .lost

/-- The current content of a unit that is not staged is fetched: whether nothing recovers it. -/
def State.fetchUnit (s : State) (p lu : Nat) : State × Bool :=
  if !(s.ns p).formatted then (s, false)
  else
    let s1 := s.mapLook p lu
    match (s1.ns p).cw lu with
    | none => (s1, false)
    | some _ =>
      let q := freeOutcome s1.free
      (({ s1 with free := s1.free + 1 } : State).flashRead p (Tab.get (fun _ => 0) (s1.ns p).map lu - 1) q, decide (q = .lost))

/-- The partition's request reaches tier 2, which ends its being idle (R320). -/
def State.t2Seen (s : State) (p : Nat) : State := s.modNs p (fun n => { n with idle := false, idleAt := s.clk })

/-- Tier 2 units that `[a, a + n)` touches. -/
def State.unitsAt (s : State) (p : Nat) (a : Word) (n : Nat) : List Nat :=
  ((linesOf (aOff a) n).filterMap (fun l => match s.locate p (addA a (l * 64 - aOff a)) with
    | some (.arch o) => some (o / 4096)
    | _ => none)).dedup

/-- One unit is read for the partition: its counts, and whether nothing recovers it. -/
def State.readUnit (s : State) (p lu : Nat) : State × Bool :=
  let s1 := s.bump (arcCnt p 0x00) 1
  if (s1.ns p).isStaged lu then (s1, false) else s1.fetchUnit p lu

/-- Reads the tier 2 units of `[a, a + n)` for the partition: the counts, and the units that nothing recovers. -/
def State.readUnits (s : State) (p : Nat) (a : Word) (n : Nat) : State × List Nat :=
  match s.unitsAt p a n with
  | [] => (s, [])
  | us => us.foldl (fun (x : State × List Nat) u =>
      let y := x.1.readUnit p u
      (y.1, if y.2 then x.2 ++ [u] else x.2)) (s.t2Seen p, [])

/-- What a read of a poisoned place reports: its controller's finding, or that of the Archive Controller for the unit. -/
def State.reportLoc (s : State) (p : Nat) : Option Loc → State
  | some (.phys i o) => s.uncorr i o false
  | some (.arch o) =>
    s.reportBad (some p) 2 0 (s.cwChan p (Tab.get (fun _ => 0) (s.ns p).map (o / 4096) - 1)) 0 (o / 4096 * 4096)
  | none => s

/-- The report of a poisoned line at `a`, of an access whose first line is `first`: a tier 2 unit is reported once; a line
behind a poisoned map entry is not reached. -/
def State.reportLine (s : State) (p : Nat) (a : Word) (first : Bool) : State :=
  if s.mapBad p a then s
  else match s.locate p a with
    | some (.arch o) => if o % 4096 < 64 || first then s.reportLoc p (some (.arch o)) else s
    | l => s.reportLoc p l

/-- Keeps a page's entry in the translation cache of 16,384 entries. DESIGN CHOICE: a full cache gives up an entry that the
model leaves free (log entry 60). -/
def State.cacheIn (s : State) (p g : Nat) : State :=
  let sizes := (List.range 16).map (fun q => (s.tp q).xlate.length)
  let s1 : State :=
    if sizes.foldl (· + ·) 0 < 16384 then s
    else
      let v := Config.freePick s.free % 16384
      ((List.range 16).foldl (fun (acc : State × Nat) q =>
        let n := sizes.getD q 0
        (if acc.2 < n then acc.1.modTp q (fun x => { x with xlate := x.xlate.eraseIdx acc.2 }) else acc.1,
          if acc.2 < n then 16384 else acc.2 - n)) ({ s with free := s.free + 1 }, v)).1
  s1.modTp p (fun x => { x with xlate := x.xlate ++ [g] })

/-- The Tier block translates an access of a UNIFIED partition to page `g` (R219): a miss reads the map entry. -/
def State.translate (s : State) (p g : Nat) : State :=
  if s.cached p g then s
  else
    let s1 := s.bump (0x9300 + p * 0x40 + 0x38) 1
    match s1.mapLineBad p g with
    | some (i, o) => s1.uncorr i o false
    | none => s1.cacheIn p g

/-- Translation of the pages of `[a, a + n)`. -/
def State.translateAll (s : State) (p : Nat) (a : Word) (n : Nat) : State :=
  if !s.unified p || decide (n = 0) then s
  else (List.range ((aOff a + n - 1) / MiB2 + 1 - aOff a / MiB2)).foldl (fun s j => s.translate p (aOff a / MiB2 + j)) s

/-! #### Module channels with Carrel units (R261, R276, R277) -/

def State.car (s : State) (m : Nat) : Carrel := Tab.get (fun _ => {}) s.carrel m
def State.modCar (s : State) (m : Nat) (f : Carrel → Carrel) : State :=
  { s with carrel := Tab.set (fun _ => {}) s.carrel m (f (s.car m)) }
def State.isCarrel (s : State) (m : Nat) : Bool := decide (fld (s.reg (mcP m + 0x40)) 0 2 = 2)

/-- Compute bank of a module address (R261). -/
def bankOf (a : Nat) : Nat := a / 4096 % 64

/-- The command that the units of a piece's module scan for, where it reads the compute bank of offset `o`. -/
def State.scanAt (s : State) (i o : Nat) : Option CarCmd :=
  if i < 48 then none
  else (s.car (i - 48)).run.filter (fun c => !c.done && c.banks.contains (bankOf o))

/-- An ordinary access to a compute bank of a running command meets it held or not, which the manual leaves to the timing:
the unit then yields for 18 cycles (R276, log entry 53). -/
def State.yieldAt (s : State) (i o : Nat) : State :=
  if (s.scanAt i o).isNone then s
  else
    let s1 := { s with free := s.free + 1 }
    if Config.freeBit s.free then (s1.bump (carP (i - 48) + 0xA8) 1).bump (carP (i - 48) + 0xB0) 18 else s1

/-- Yields of an access to `[a, a + n)`, one for each line. -/
def State.yieldLines (s : State) (p : Nat) (a : Word) (n : Nat) : State :=
  (linesOf (aOff a) n).foldl (fun s l => match s.locate p (addA a (l * 64 - aOff a)) with
    | some (.phys i o) => s.yieldAt i o
    | _ => s) s

/-- A burst that a running command reads, or has read, is about to be written: it may be scored as it was (R277). -/
def State.keepBurst (s : State) (i o : Nat) : State :=
  match s.scanAt i o with
  | none => s
  | some c =>
    let k := physKey i (o / 64 * 64)
    s.modCar (i - 48) (fun x => { x with
      run := some { c with ver := c.ver ++ [(o / 64, Mem.bytes s.mem k 64, Tab.get (fun _ => false) s.memBad (k / 64))] } })

/-- A remote scratch address of R84: core and scratch address. -/
def remote (a : Word) : Nat × Nat := (fld a 22 8, fld a 0 22)

/-! ### Long operations (R384, R385) -/

def State.losw (s : State) (p o : Nat) : Losw := Tab.get (fun _ => {}) (s.part p).losw o
def State.modLosw (s : State) (p o : Nat) (f : Losw → Losw) : State :=
  s.modPart p (fun x => { x with losw := Tab.set (fun _ => {}) x.losw o (f (Tab.get (fun _ => {}) x.losw o)) })

def State.loswFail (s : State) (p o code : Nat) : State := s.modLosw p o (fun l => { l with state := 4, error := code })
def State.loswDone (s : State) (p o : Nat) : State := s.modLosw p o (fun l => { l with state := 3 })
def State.loswAbort (s : State) (p o : Nat) : State := s.modLosw p o (fun l => { l with state := 5 })
/-- A running operation that waits for flash programs or erases (R330, R385). -/
def Losw.flash (l : Losw) : Bool := decide (l.op = 1 ∨ l.op = 3 ∨ l.op = 9 ∨ l.op = 0x0A)
/-- TOTAL and PART are written before STATE becomes RUNNING, or PAUSED in a brown-out that holds the operation. -/
def State.loswRun (s : State) (p o total : Nat) (partial_ : Bool) : State :=
  s.modLosw p o (fun l => { l with
    total := total, part := if partial_ then o * 131072 else 0xFFFFFFFF, state := if s.pwr.brownout && l.flash then 6 else 2 })
def State.loswProg (s : State) (p o n : Nat) : State := s.modLosw p o (fun l => { l with prog := max l.prog n })

/-- Address of a slot's partial results. -/
def State.lopArea (s : State) (p o : Nat) : Word := addA (s.slice p 5) (o * 131072)

/-- A start of operation `op` in slot `o` (R384, R385): ignored, and counted, unless the slot may start; an accepted
one is QUEUED. -/
def State.lopAccept (s : State) (f : Fn) (p o op : Nat) (body : State → State) : State :=
  if f = .sp ∨ !s.fnLive f ∨ (fnIsVf f ∧ s.fnPart f ≠ some p) then s
  else if 30 ≤ o ∨ (s.losw p o).state ∈ [1, 2, 6] then s.bump (viewP (fnIdx f) + 0x628) 1
  else body (s.modLosw p o (fun l =>
    { l with op := op, state := 1, error := 0, prog := 0, total := 0, part := 0xFFFFFFFF }))

/-- Operations that a write of LOSW_START starts (R386); each is a command of its own. 0x07 and unassigned codes are
LOP_INVALID, as is 0x0B here, which starts on the COLOPHON page (R442, log entry 32). -/
def lopAssigned (op : Nat) : Bool := decide (op ∈ [1, 2, 3, 4, 5, 6, 8, 9, 10, 12])

/-- LOSW_START with an operation that cannot start: FAILED at once with LOP_INVALID. -/
def State.lopInvalid (s : State) (f : Fn) (p o op : Nat) : State :=
  s.lopAccept f p o op (fun s1 => s1.loswFail p o (if fnIsVf f && decide (op = 0x0B) then 0x0A05 else 0x0A04))

/-! ### Byte fields of requests and records -/

def bAt (bs : List Byte) (i : Nat) : Nat := (bs.getD i 0).toNat
def leAt (bs : List Byte) (off n : Nat) : Nat := leNat ((bs.drop off).take n)
def wAt (bs : List Byte) (off : Nat) : Word := BitVec.ofNat 64 (leAt bs off 8)
def zeroAt (bs : List Byte) (off n : Nat) : Bool := ((bs.drop off).take n).all (· == 0)
def bit (n i : Nat) : Bool := decide (n / 2 ^ i % 2 = 1)
/-- `n` bits of `v` from bit `lo`. -/
def bits (v lo n : Nat) : Nat := v / 2 ^ lo % 2 ^ n
def zeros (n : Nat) : List Byte := List.replicate n 0
def upd (bs : List Byte) (off : Nat) (v : List Byte) : List Byte := bs.take off ++ v ++ bs.drop (off + v.length)
def ceilDiv (a b : Nat) : Nat := (a + b - 1) / b

end Sys2Proof.Machine
end

