-- ==== Sys2Proof/Machine/Operands.lean ====
section
/-! DEFINITION. How an instruction of a thread or hart issues (R46 to R48, R61, R79, R80, R104), its operand forms
(R79, R84), and how it goes on or faults. The instruction set has no flags: comparisons write 0 or 1 to a register. -/

namespace Sys2Proof.Machine

/-- Sign-extended immediates and offsets (R79). -/
def imm (n : Nat) (x : BitVec n) : Word := x.signExtend 64
/-- Zero-extended immediates of ANDI, ORI and XORI (R85). -/
def uimm (n : Nat) (x : BitVec n) : Word := x.setWidth 64

/-- Bytes of a SIZE field (R79). -/
def sizeOf (z : Fin 4) : Nat := 2 ^ z.val

/-- `n` low bytes of a register as a stored value, and a loaded value extended by SX. -/
def loadExt (sx : Bool) (n v : Nat) : Word :=
  if sx then BitVec.ofInt 64 (sext (8 * n) v) else BitVec.ofNat 64 v

/-- The instruction completes: register results are written and the PC advances modulo 2^16 (R78, R81). -/
def State.adv (s : State) (c t : Nat) (f : Thread → Thread) : State :=
  s.modThr c t (fun x => { f x with pc := x.pc + 1 })

/-- RD ← w; PC ← PC + 1. -/
def State.retire (s : State) (c t : Nat) (rd : Reg) (w : Word) : State := s.adv c t (·.setR rd w)

/-- The thread enters a wait state; a wait of kind `.reissue` issues the same instruction again (R48). -/
def State.waitIn (s : State) (c t : Nat) (st : TState) (w : Wait) : State :=
  s.modThr c t (fun x => { x with st := st, wait := w })

/-- The fault of the instruction at the thread's PC (R70). -/
def State.trap (s : State) (c t code : Nat) (addr : Nat) : State :=
  s.faultThread c t code (s.thr c t).pc (BitVec.ofNat 64 addr)

/-- A context that may issue: READY, not marked, on a core that is ready (R47 to R49). -/
def State.mayIssue (s : State) (c t : Nat) : Bool :=
  decide ((s.thr c t).st = .ready) && !(s.thr c t).marked && s.coreReady c

/-- The PC lies in the code region (R61). -/
def State.fetchOk (s : State) (c t : Nat) : Bool :=
  let r := s.codeRegion c
  decide (r.1 + 4 * (s.thr c t).pc.toNat + 4 ≤ r.2)

/-- The instruction at the context's PC has issued: it is counted, but for one that issues again after a wait, which was
counted when it first issued. -/
def State.issued (s : State) (c t : Nat) : State :=
  if (s.thr c t).wait = .reissue then s.modThr c t (fun x => { x with wait := .none }) else s.bump (coreP c + 0x80) 1

/-- Issues one instruction (DESIGN CHOICE: an illegal word has issued and is counted, a fetch outside the code region has
not, log entry 47): a context that cannot issue does nothing; a fetch outside the code region and an illegal
word (`legal` false) raise ILLEGAL_INSTRUCTION; an instruction that R104 defers waits for its hop's commit; else
`act`. -/
def issue (c t : Nat) (s : State) (legal defer : Bool) (act : State → Outc) : Outc :=
  if !s.mayIssue c t then .next s
  else if !s.fetchOk c t then .next (s.trap c t 0x0280 0)
  else
    let s1 := s.issued c t
    if !legal then .next (s1.trap c t 0x0280 0)
    else if defer && (s.thr c t).spec then .next (s1.waitIn c t .waitUnit .commit)
    else act s1

/-- An instruction that only writes a register. -/
def issueR (c t : Nat) (s : State) (legal : Bool) (rd : Reg) (v : Thread → Word) : Outc :=
  issue c t s legal false (fun s => .next (s.retire c t rd (v (s.thr c t))))

/-- A branch: PC ← PC + OFF18 when taken (R85). -/
def issueBr (c t : Nat) (s : State) (off : BitVec 18) (taken : Thread → Bool) : Outc :=
  issue c t s true false (fun s =>
    .next (s.modThr c t (fun x => { x with pc := if taken x then x.pc + off.setWidth 16 else x.pc + 1 })))

/-- Frees the context of a thread that has ended or been killed (R49, R55, R90). -/
def State.endThread (s : State) (c t : Nat) : State :=
  let x := s.thr c t
  let s1 := s.setThr c t { ({} : Thread) with inst := x.inst + 1 }
  let s2 := s1.modGrp c x.group (fun g => g.setF 26 2 (g.liveThreads - 1))
  s2.tryFree c x.group

/-- END once nothing of the context is outstanding (R90). -/
def State.endContext (s : State) (c t : Nat) : State :=
  if isHart t then s.haltHart c (t - 8192) else s.endThread c t

/-- The thread's reads or writes in flight have fallen: ends the waits that this clears (R45, R48, R87, R90). -/
def State.settle (s : State) (c t : Nat) : State :=
  let x := s.thr c t
  match x.st, x.wait with
  | .waitRead, .reads n => if x.reads ≤ n then s.setThr c t x.complete else s
  | .waitRead, .drain => if x.reads = 0 ∧ x.writes = 0 then s.endContext c t else s
  | .waitRead, .reissue => s.setThr c t x.wakeReissue
  | .waitUnit, .fence => if x.writes = 0 then s.setThr c t x.complete else s
  | _, _ => s

/-- A core tag is free: reads and writes that wait for one issue again (R56). -/
def State.tagFreed (s : State) (c : Nat) : State :=
  s.wakeIf c (fun x => decide (x.st = .waitRead ∧ x.wait = .reissue)) Thread.wakeReissue

/-- One of a list, by a free choice: the manual does not say which (the choice is bounded by the list alone). -/
def State.choose (s : State) (l : List Nat) : Option Nat × State :=
  (l[Config.freePick s.free % l.length]?, { s with free := s.free + 1 })

end Sys2Proof.Machine
end

