-- ==== Sys2Proof/Machine/Alu.lean ====
section
/-! DEFINITION. Arithmetic and control opcodes (R76 to R78, R85, R86, R90). -/

namespace Sys2Proof.Machine

/-- ALU operations by FN[3:0] (R85); none where FN is not assigned. -/
def aluOp (fn : BitVec 14) (a b : Word) : Option Word :=
  let sh := b.toNat % 64
  match fn.toNat with
  | 0 => some (a + b)
  | 1 => some (a - b)
  | 2 => some (a &&& b)
  | 3 => some (a ||| b)
  | 4 => some (a ^^^ b)
  | 5 => some (a <<< sh)
  | 6 => some (a >>> sh)
  | 7 => some (a.sshiftRight sh)
  | 8 => some (if a.slt b then 1 else 0)
  | 9 => some (if a.ult b then 1 else 0)
  | 10 => some (if b.slt a then b else a)
  | 11 => some (if a.slt b then b else a)
  | 12 => some (if b.ult a then b else a)
  | 13 => some (if a.ult b then b else a)
  | _ => none

def execAlu (c : CoreId) (t : CtxId) (rd ra rb : Reg) (fn : BitVec 14) (s : State) : Outc :=
  issueR c t s (aluOp fn 0 0).isSome rd (fun x => (aluOp fn (x.r ra) (x.r rb)).getD 0)

/-- MUL, MULHU, MULH by FN[1:0] (R85). -/
def mulOp (fn : BitVec 14) (a b : Word) : Option Word :=
  match fn.toNat with
  | 0 => some (a * b)
  | 1 => some (BitVec.ofNat 64 (a.toNat * b.toNat / 2 ^ 64))
  | 2 => some (BitVec.ofInt 64 (a.toInt * b.toInt / 2 ^ 64))
  | _ => none

def execMul (c : CoreId) (t : CtxId) (rd ra rb : Reg) (fn : BitVec 14) (s : State) : Outc :=
  issueR c t s (mulOp fn 0 0).isSome rd (fun x => (mulOp fn (x.r ra) (x.r rb)).getD 0)

/-- The fp32 operand of a register (R77). -/
def f32 (w : Word) : F32 := w.extractLsb' 0 32
def ofF32 (x : F32) : Word := x.setWidth 64

/-- FPU operations by FN[3:0] (R77, R85, R86). -/
def fpuOp (fn : BitVec 14) (a b : Word) : Option Word :=
  match fn.toNat with
  | 0 => some (ofF32 (fadd (f32 a) (f32 b)))
  | 1 => some (ofF32 (fsub (f32 a) (f32 b)))
  | 2 => some (ofF32 (fmul (f32 a) (f32 b)))
  | 3 => some (ofF32 (fminmax false (f32 a) (f32 b)))
  | 4 => some (ofF32 (fminmax true (f32 a) (f32 b)))
  | 5 => some (if flt (f32 a) (f32 b) then 1 else 0)
  | 6 => some (if feq (f32 a) (f32 b) then 1 else 0)
  | 7 => some (fcvti (f32 a))
  | 8 => some (ofF32 (fcvtf a))
  | _ => none

/-- FCVTI and FCVTF name no RB, so its field must be zero (R79). -/
def execFpu (c : CoreId) (t : CtxId) (rd ra rb : Reg) (fn : BitVec 14) (s : State) : Outc :=
  issueR c t s ((fpuOp fn 0 0).isSome && (decide (fn.toNat < 7) || decide (rb = 0))) rd
    (fun x => (fpuOp fn (x.r ra) (x.r rb)).getD 0)

def execAddi (c : CoreId) (t : CtxId) (rd ra : Reg) (k : BitVec 18) (s : State) : Outc :=
  issueR c t s true rd (fun x => x.r ra + imm 18 k)

def execAndi (c : CoreId) (t : CtxId) (rd ra : Reg) (k : BitVec 18) (s : State) : Outc :=
  issueR c t s true rd (fun x => x.r ra &&& uimm 18 k)

def execOri (c : CoreId) (t : CtxId) (rd ra : Reg) (k : BitVec 18) (s : State) : Outc :=
  issueR c t s true rd (fun x => x.r ra ||| uimm 18 k)

def execXori (c : CoreId) (t : CtxId) (rd ra : Reg) (k : BitVec 18) (s : State) : Outc :=
  issueR c t s true rd (fun x => x.r ra ^^^ uimm 18 k)

/-- SHLI, SHRI, SRAI: IMM18[17:6] must be zero (R85). -/
def execShli (c : CoreId) (t : CtxId) (rd ra : Reg) (k : BitVec 18) (s : State) : Outc :=
  issueR c t s (decide (k.toNat < 64)) rd (fun x => x.r ra <<< k.toNat)

def execShri (c : CoreId) (t : CtxId) (rd ra : Reg) (k : BitVec 18) (s : State) : Outc :=
  issueR c t s (decide (k.toNat < 64)) rd (fun x => x.r ra >>> k.toNat)

def execSrai (c : CoreId) (t : CtxId) (rd ra : Reg) (k : BitVec 18) (s : State) : Outc :=
  issueR c t s (decide (k.toNat < 64)) rd (fun x => (x.r ra).sshiftRight k.toNat)

def execSlti (c : CoreId) (t : CtxId) (rd ra : Reg) (k : BitVec 18) (s : State) : Outc :=
  issueR c t s true rd (fun x => if (x.r ra).slt (imm 18 k) then 1 else 0)

def execLui (c : CoreId) (t : CtxId) (rd : Reg) (k : BitVec 22) (s : State) : Outc :=
  issueR c t s true rd (fun _ => imm 22 k <<< 18)

def execBeq (c : CoreId) (t : CtxId) (ra rb : Reg) (off : BitVec 18) (s : State) : Outc :=
  issueBr c t s off (fun x => decide (x.r ra = x.r rb))

def execBne (c : CoreId) (t : CtxId) (ra rb : Reg) (off : BitVec 18) (s : State) : Outc :=
  issueBr c t s off (fun x => decide (x.r ra ≠ x.r rb))

def execBlt (c : CoreId) (t : CtxId) (ra rb : Reg) (off : BitVec 18) (s : State) : Outc :=
  issueBr c t s off (fun x => (x.r ra).slt (x.r rb))

def execBge (c : CoreId) (t : CtxId) (ra rb : Reg) (off : BitVec 18) (s : State) : Outc :=
  issueBr c t s off (fun x => !(x.r ra).slt (x.r rb))

def execBltu (c : CoreId) (t : CtxId) (ra rb : Reg) (off : BitVec 18) (s : State) : Outc :=
  issueBr c t s off (fun x => (x.r ra).ult (x.r rb))

def execBgeu (c : CoreId) (t : CtxId) (ra rb : Reg) (off : BitVec 18) (s : State) : Outc :=
  issueBr c t s off (fun x => !(x.r ra).ult (x.r rb))

/-- RD ← PC + 1; PC ← PC + OFF22 (R78, R85). -/
def execJal (c : CoreId) (t : CtxId) (rd : Reg) (off : BitVec 22) (s : State) : Outc :=
  issue c t s true false (fun s => .next (s.modThr c t (fun x =>
    { x.setR rd ((x.pc + 1).setWidth 64) with pc := x.pc + off.setWidth 16 })))

/-- RD ← PC + 1; PC ← (RA + IMM18)[15:0]: RA is read before RD is written. -/
def execJalr (c : CoreId) (t : CtxId) (rd ra : Reg) (k : BitVec 18) (s : State) : Outc :=
  issue c t s true false (fun s => .next (s.modThr c t (fun x =>
    { x.setR rd ((x.pc + 1).setWidth 64) with pc := (x.r ra + imm 18 k).setWidth 16 })))

/-- END waits until the thread's reads and writes are drained, then frees the context (R90). -/
def execEndT (c : CoreId) (t : CtxId) (rd ra rb : Reg) (fn : BitVec 14) (s : State) : Outc :=
  issue c t s (decide (rd = 0 ∧ ra = 0 ∧ rb = 0 ∧ fn = 0)) false (fun s =>
    .next ((s.waitIn c t .waitRead .drain).settle c t))

/-- YIELD has no effect (R85); its interval is time, which the model leaves out. -/
def execYield (c : CoreId) (t : CtxId) (rd ra : Reg) (k : BitVec 18) (s : State) : Outc :=
  issue c t s (decide (rd = 0 ∧ ra = 0 ∧ k.toNat < 256)) false (fun s => .next (s.adv c t id))

end Sys2Proof.Machine
end

