-- ==== Sys2Proof/Machine/Expand.lean ====
section
/-! DEFINITION. Compression ranges, block addresses, block decode and encode (R241 to R253, R510). -/

namespace Sys2Proof.Machine

/-- Rate of a compressed format: code width w, escape code E, bytes S, blocks per frame B (R242, R243, R250). -/
structure Rate where
  tag : Nat
  w   : Nat
  s   : Nat
  b   : Nat
deriving DecidableEq, Repr, Inhabited

def rateOf : Nat → Option Rate
  | 1 => some ⟨1, 3, 16, 16⟩
  | 2 => some ⟨2, 4, 24, 10⟩
  | 3 => some ⟨3, 6, 32, 8⟩
  | _ => none

def Rate.e (r : Rate) : Nat := 2 ^ r.w - 1

/-- A range entry (R249, R259). -/
structure Range where
  rate  : Rate
  ofmt  : EFmt
  resid : Bool
  mould : Nat
  gen   : Nat
  base  : Nat
  size  : Nat
  words : Word × Word
deriving DecidableEq, Repr, Inhabited

def rangeA (x i : Nat) : Nat := expP x + 0x400 + i * 0x10

/-- The entry that two words hold, where it is valid for partition `p` (R259). -/
def parseRange (p : Nat) (lo hi : Word) : Option Range :=
  match rateOf (fld lo 1 2) with
  | none => none
  | some r =>
    if lo.getLsbD 0 && decide (fld lo 12 4 = p) then
      some ⟨r, if fld lo 3 2 = 0 then .fp32 else if fld lo 3 2 = 1 then .bf16 else .fp16, lo.getLsbD 5, fld lo 6 5,
        fld lo 11 1, fld lo 16 38 * 4096, fld hi 0 38 * 4096, (lo, hi)⟩
    else none

/-- Entry `i` of Expander `x`, as in force. -/
def State.rangeAt (s : State) (x p i : Nat) : Option Range :=
  parseRange p (s.inForce (rangeA x i)) (s.inForce (rangeA x i + 8))

/-- The Expander that serves a device address (R240). -/
def State.expOf (s : State) (p : Nat) (a : Word) : Option Nat :=
  match s.locate p a with
  | some (.phys i _) => some (if i < 48 then i / 8 else 6 + (i - 48))
  | some (.arch _) => some 18
  | none => none

/-- The compression range that the first byte of an access falls in (R241): Expander and entry. -/
def State.rangeFor (s : State) (p : Nat) (a : Word) : Option (Nat × Range) :=
  match s.expOf p a with
  | none => none
  | some x =>
    ((List.range 64).findSome? (fun i => match s.rangeAt x p i with
      | some r => if r.base ≤ a.toNat ∧ a.toNat < r.base + r.size then some r else none
      | none => none)).map (fun r => (x, r))

/-- Number of the block that starts at an address of the range (R250). -/
def Range.blockAt (r : Range) (a : Nat) : Option Nat :=
  let o := a - r.base
  let i := o % 256 / r.rate.s
  if o % 256 % r.rate.s = 0 ∧ i < r.rate.b then some (o / 256 * r.rate.b + i) else none

/-- Stored offset in the range of block j (R250). -/
def Range.blockOff (r : Range) (j : Nat) : Nat := 256 * (j / r.rate.b) + r.rate.s * (j % r.rate.b)

/-- Decoded bytes of one block. -/
def Range.outBytes (r : Range) : Nat := 32 * (r.ofmt.bits / 8)

/-- The blocks of an access of `len` decoded bytes at `a`: first block and count, where R251 holds. -/
def Range.blocks (r : Range) (a len : Nat) : Option (Nat × Nat) :=
  match r.blockAt a with
  | none => none
  | some j =>
    let n := len / r.outBytes
    if len % r.outBytes = 0 ∧ 0 < n ∧ r.blockOff (j + n - 1) + r.rate.s ≤ r.size then some (j, n) else none

/-- Stored bytes from the first block to the end of the last, with the zero bytes behind the last block of a frame. -/
def Range.span (r : Range) (j n : Nat) : Nat :=
  (if (j + n) % r.rate.b = 0 then r.blockOff (j + n) else r.blockOff (j + n - 1) + r.rate.s) - r.blockOff j

/-- Stored bytes that an access of `n` bytes at `a` names in its tier: the span of its blocks inside a compression
range, nothing where R251 refuses it, else its own bytes. -/
def storedLen (rg : Option (Nat × Range)) (a : Word) (n : Nat) : Nat :=
  match rg with
  | none => n
  | some (_, r) => match r.blocks a.toNat n with
    | some (j, m) => r.span j m
    | none => 0

/-! ### Blocks -/

def State.expander (s : State) (x : Nat) : Expander := Tab.get (fun _ => {}) s.exps x
def State.modExp (s : State) (x : Nat) (f : Expander → Expander) : State :=
  { s with exps := Tab.set (fun _ => {}) s.exps x (f (s.expander x)) }
def Expander.table (e : Expander) (bank t : Nat) : Option (List Byte) := Tab.get (fun _ => none) e.tables (bank * 32 + t)

/-- Whether partition `p` owns table `t` at Expander `x` (EXP_MOULD_OWNER). -/
def State.ownsMould (s : State) (x p t : Nat) : Bool :=
  let w := s.reg (expP x + 0x40 + t / 8 * 8)
  w.getLsbD (8 * (t % 8) + 7) && decide (fld w (8 * (t % 8)) 4 = p)

/-- Mould entry c of a table (R245). -/
def mouldEntry (tb : List Byte) (c : Nat) : FV := EFmt.fp16.value (leAt tb (2 * c) 2)

/-- Header fields and codes of a stored block (R242, R243). -/
def blkCode (r : Rate) (v i : Nat) : Nat := bits v (16 + r.w * i) r.w
def blkSlot (r : Rate) (v k : Nat) : Nat :=
  if r.tag = 1 then bits v (112 + 8 * k) 8 else bits v (16 + 32 * r.w + 24 * k) 24

/-- Positions of the escaped elements. -/
def blkEsc (r : Rate) (v : Nat) : List Nat := (List.range 32).filter (fun i => decide (blkCode r v i = r.e))

/-- A valid block (R244); `usable` says whether the table it names is owned and loaded in its bank. -/
def blkValid (r : Rate) (v : Nat) (usable : Nat → Nat → Bool) : Bool :=
  decide (bits v 0 2 = r.tag ∧ bits v 14 2 ≠ 3 ∧ (blkEsc r v).length = bits v 14 2) &&
  (List.range 2).all (fun k => decide (k < bits v 14 2 ∨ blkSlot r v k = 0)) &&
  usable (bits v 8 5) (bits v 13 1)

/-- Decoded element i before conversion (R247). -/
def blkElem (r : Rate) (v : Nat) (tb : List Byte) (i : Nat) : FV :=
  let s := sext 6 (bits v 2 6)
  if blkCode r v i = r.e then
    let k := ((blkEsc r v).filter (· < i)).length
    if r.tag = 1 then (e4m3Val (blkSlot r v k)).scale s else fv (BitVec.ofNat 32 (blkSlot r v k * 256))
  else (mouldEntry tb (blkCode r v i)).scale s

/-- A decoded block: its bytes in OFMT, or none where it is invalid. -/
def State.decodeBlock (s : State) (x p : Nat) (r : Rate) (ofmt : EFmt) (stored : List Byte) : Option (List Byte) :=
  let v := leNat stored
  let ex := s.expander x
  let usable t g := s.ownsMould x p t && (ex.table g t).isSome
  if blkValid r v usable then
    let tb := (ex.table (bits v 13 1) (bits v 8 5)).getD []
    some ((List.range 32).flatMap (fun i => leBytes (ofmt.bits / 8) (convert (blkElem r v tb i) ofmt 0).1))
  else none

/-- A block with escapes holds its lane for a second cycle: while another block waits, that cycle counts in
EXP_ESCAPE_STALL_CNT where no other lane is free, which the model does not time and leaves open (R256, log entry 53). -/
def State.escapeStall (s : State) (x p : Nat) (stored : List Byte) (valid waits : Bool) : State :=
  if valid && waits && decide (bits (leNat stored) 14 2 ≠ 0) then
    ({ s with free := s.free + 1 } : State).bump (expP x + 0x100 + p * 8) (if Config.freeBit s.free then 1 else 0)
  else s

/-- Counters of one decoded block (R260): 0x180 blocks, 0x188 with escapes, 0x190 invalid, 0x198 poisoned. -/
def State.countDecode (s : State) (x : Nat) (stored : List Byte) (valid bad : Bool) : State :=
  let a := expP x
  let s1 := s.bump (a + 0x180) 1
  let s2 := if valid && decide (bits (leNat stored) 14 2 ≠ 0) then s1.bump (a + 0x188) 1 else s1
  let s3 := if valid then s2 else s2.bump (a + 0x190) 1
  if bad then s3.bump (a + 0x198) 1 else s3

/-! ### Encoding (R252) -/

def FV.abs : FV → FV
  | .fin _ m e => .fin false m e
  | v => v

/-- Element as the encoder takes it: an infinity becomes the largest finite magnitude, a NaN +0; and whether it was
replaced. -/
def encElem (f : EFmt) (w : Nat) : FV × Bool :=
  match f.value w with
  | .nan => (.fin false 0 0, true)
  | .inf n => (f.value (signBit n f.bits + f.shape.2.2), true)
  | v => (v, false)

/-- Largest |L[c]|, c < E. -/
def lmax (tb : List Byte) (e : Nat) : FV :=
  (List.range e).foldl (fun m c => let a := (mouldEntry tb c).abs; if m.lt a then a else m) (.fin false 0 0)

/-- The n-th largest of a list of magnitudes. -/
def insDesc (a : FV) : List FV → List FV
  | [] => [a]
  | b :: r => if b.lt a then a :: b :: r else b :: insDesc a r
def sortDesc (l : List FV) : List FV := l.foldl (fun acc a => insDesc a acc) []

/-- The smallest s in −32 to 31 with m ≤ Lmax × 2^s; 31 if none. -/
def pickScale (m lm : FV) : Int :=
  (((List.range 64).map (fun i => (i : Int) - 32)).find? (fun s => !(lm.scale s).lt m)).getD 31

/-- The c < E whose level is nearest to y, in fp32; the lower on equal distance. -/
def nearest (tb : List Byte) (e : Nat) (y : F32) : Nat :=
  ((List.range e).foldl (fun (best : Nat × F32) c =>
    let d := fsub y (mouldEntry tb c).toF32 &&& 0x7FFFFFFF#32
    if c = 0 ∨ flt d best.2 then (c, d) else best) (0, 0)).1

/-- fp32 rounded to 15 mantissa bits, its bits 31:8; a value that rounds beyond the range is an infinity, as in R77. -/
def esc24 (v : FV) : Nat :=
  match v with
  | .fin n m e => if m = 0 then signBit n 24 else signBit n 24 + min 0x7F8000 (packBits 15 (-141) (roundFin 16 (-141) m e))
  | _ => 0

/-- An encoded block: the stored bytes, whether it has escapes, and its saturations (R252). -/
def encodeBlock (r : Rate) (mould gen : Nat) (tb : List Byte) (xs : List (FV × Bool)) : List Byte × Bool × Nat :=
  let lm := lmax tb r.e
  let m := (sortDesc (xs.map (fun x => x.1.abs)))[2]?.getD (.fin false 0 0)
  let s := pickScale m lm
  let top := lm.scale s
  let step (acc : Nat × Nat × Nat × Nat × Nat) (x : FV × Bool) : Nat × Nat × Nat × Nat × Nat :=
    -- value, element number, escapes, saturations
    let (v, i, n, sat, _) := acc
    let big := top.lt x.1.abs
    if big && decide (n < 2) then
      let (slot, sv) := if r.tag = 1 then (let q := convert x.1 .e4m3 s; (q.1, q.2)) else (esc24 x.1, false)
      let at_ := if r.tag = 1 then 112 + 8 * n else 16 + 32 * r.w + 24 * n
      (v + r.e * 2 ^ (16 + r.w * i) + slot * 2 ^ at_, i + 1, n + 1, sat + (if sv then 1 else 0) + (if x.2 then 1 else 0), 0)
    else
      let c := nearest tb r.e (x.1.scale (-s)).toF32
      (v + c * 2 ^ (16 + r.w * i), i + 1, n, sat + (if big then 1 else 0) + (if x.2 then 1 else 0), 0)
  let (v, _, n, sat, _) := xs.foldl step (0, 0, 0, 0, 0)
  let hdr := r.tag + (s % 64).toNat * 4 + mould * 2 ^ 8 + gen * 2 ^ 13 + n * 2 ^ 14
  (leBytes r.s (v + hdr), decide (0 < n), sat)

/-! ### The stored lines and blocks of a request -/

/-- Range entry in force for a request; for a weight read of a layer with COMP ≠ 0 (`op`), its W_ADDR and extent with
the layer's FMT (`rd`: 1 BF16, 2 FP16). -/
def Req.rng (r : Req) : Option Range :=
  match r.kind, r.range with
  | .weight, _ => (rateOf r.op).map (fun q =>
      ⟨q, if r.rd = 1 then .bf16 else .fp16, false, 0, 0, r.a.toNat, r.b.toNat, (0, 0)⟩)
  | _, some w => parseRange r.part w.1 w.2
  | _, none => none

/-- Blocks of a ranged request: first and count (R251). -/
def Req.blks (r : Req) : Option (Nat × Nat) := if r.refused then none else r.rng.bind (fun g => g.blocks r.addr.toNat r.len)

/-- Stored bytes of a request, counted from the start of its first stored line. -/
def Req.storedEnd (r : Req) : Nat :=
  match r.rng with
  | none => if r.refused then 0 else r.addr.toNat % 64 + r.len
  | some g => match r.blks with
    | some (j, n) => r.addr.toNat % 64 + g.span j n
    | none => 0
def Req.nLines (r : Req) : Nat := ceilDiv r.storedEnd 64
/-- Whether stored line `l` has been performed. -/
def Req.lineDone (r : Req) (l : Nat) : Bool := Tab.get (fun _ => false) r.lines l

/-- Offset of block `b` from the start of the first stored line. -/
def Req.blkOff (r : Req) (b : Nat) : Nat :=
  match r.rng, r.blks with
  | some g, some (j, _) => r.addr.toNat % 64 + (g.blockOff (j + b) - g.blockOff j)
  | _, _ => 0

/-- Device address of stored line `l` of a request. -/
def Req.lineAddr (r : Req) (l : Nat) : Word := addA r.addr (64 * l) - BitVec.ofNat 64 (r.addr.toNat % 64)

/-- Device address of block `b` of a request, and the Expander that serves it (R250). -/
def Req.blkAddr (r : Req) (b : Nat) : Word := addA r.addr (r.blkOff b - r.addr.toNat % 64)
def State.blkExp (s : State) (r : Req) (b : Nat) : Nat := (s.expOf r.part (r.blkAddr b)).getD r.exp

/-- The stored lines, counted from the first, that hold bytes of block `b`. -/
def Req.blkLines (r : Req) (g : Range) (b : Nat) : List Nat := linesOf (r.blkOff b) g.rate.s

end Sys2Proof.Machine
end

