-- ==== Sys2Proof/Machine/Flash.lean ====
section
/-! DEFINITION. The request queues of the tiers (R221), the stripes and journal pages of the flash tier (R307 to R312, R317,
R318), and what a block of the chip reads and writes in the tiers. -/

namespace Sys2Proof.Machine

def readsTier : ReqKind → Bool
  | .rda | .prefetch | .weight => true
  | _ => false

/-- The blocks of a ranged WRA that reach into stored line `l` are all encoded. -/
def Req.encoded (r : Req) (l : Nat) : Bool :=
  match r.rng, r.blks with
  | some g, some (_, n) => (List.range n).all (fun b =>
      let o := r.blkOff b
      decide (64 * l + 64 ≤ o ∨ o + g.rate.s ≤ 64 * l) || Tab.get (fun _ => false) r.blocks b)
  | some _, none => false
  | none, _ => true

/-- Whether stored line `l` of a WRA can be written now. -/
def Req.canWrite (r : Req) (l : Nat) : Bool :=
  decide (r.kind = .wra ∧ l < r.nLines) && !r.lineDone l && r.encoded l

/-! ### Request queues (R221) -/

/-- The lines of a request that are still at their tiers. -/
def Req.openLines (r : Req) : List Nat :=
  match r.kind with
  | .rda | .prefetch | .weight => (List.range r.nLines).filter (fun l => !r.lineDone l)
  | .wra => (List.range r.nLines).filter r.canWrite
  | .atom => if r.answered then [] else [0]
  | _ => []

/-- The queue of a place: its piece's, or the partition's own at the Archive Controller. -/
def queueOf (p : Nat) : Option Loc → Nat
  | some (.phys i _) => i
  | some (.arch _) => 64 + p
  | none => 128

/-- Queue of a line of a request. -/
def State.lineQueue (s : State) (r : Req) (l : Nat) : Nat := queueOf r.part (s.locate r.part (r.lineAddr l))

/-- 4 KiB unit of device addresses that line `l` of a request lies in. -/
def Req.lineUnitNo (r : Req) (l : Nat) : Nat := aOff (r.lineAddr l) / 4096

/-- A read has some stored lines of one of its blocks, and not yet the one at device address `a` of partition `p`. -/
def State.halfRead (s : State) (p : Nat) (a : Word) : Bool :=
  s.reqs.keys.any (fun i => match s.req i with
    | none => false
    | some r => readsTier r.kind && decide (r.part = p) && (match r.rng, r.blks with
      | some g, some (_, n) => (List.range n).any (fun b =>
          let ls := r.blkLines g b
          ls.any r.lineDone && ls.any (fun l => !r.lineDone l) && ls.any (fun l => decide (r.lineAddr l = a)))
      | _, _ => false))

/-- The stored lines that are written with line `l`, since a block crosses from one to the next (R253). -/
def Req.lineGroup (r : Req) (l : Nat) : List Nat :=
  match r.rng, r.blks with
  | some g, some (_, n) =>
    let grow (ls : List Nat) : List Nat := (List.range n).foldl (fun (acc : List Nat) b =>
      let bl := r.blkLines g b
      if bl.any acc.contains then acc ++ bl.filter (fun m => !acc.contains m) else acc) ls
    grow (grow [l])
  | _, _ => [l]

/-- A group of a WRA's lines that no read has a part of a block of. -/
def State.wholeThere (s : State) (r : Req) (ls : List Nat) : Bool := ls.all (fun l => !s.halfRead r.part (r.lineAddr l))

/-- Every line of a group of a WRA can be written, and no read has a part of a block there (R253). -/
def State.groupFree (s : State) (r : Req) (ls : List Nat) : Bool := ls.all r.canWrite && s.wholeThere r ls

/-- Entries of queue `q` of other requests, and of this one, that are ahead of line `l` of request `i`: lines, or at the
Archive Controller 4 KiB units. DESIGN CHOICE: lines reach a queue in the order of their requests' issue; lines of a WRA that
R253 holds off for a read behind them are not in it yet (log entry 61). -/
def State.queueAhead (s : State) (i l q : Nat) : Nat :=
  ((s.reqs.keys.filter (fun j => decide (j ≤ i))).map (fun j => match s.req j with
    | some r =>
      let ms := r.openLines.filter (fun m => decide ((j < i ∨ m < l) ∧ s.lineQueue r m = q) &&
        (decide (r.kind ≠ .wra) || s.wholeThere r (r.lineGroup m)))
      if q < 64 then ms.length
      else ((ms.map r.lineUnitNo).filter (fun k => decide (j < i ∨ k ≠ r.lineUnitNo l))).dedup.length
    | none => 0)).foldl (· + ·) 0

/-- T0_DEPTH, T1_DEPTH or T2_DEPTH of a partition. -/
def State.queueDepth (s : State) (p t : Nat) : Nat := fld (s.inForce (qReg p 0)) (if t = 0 then 8 else if t = 1 then 32 else 48) 9

/-- The line finds its queue full and waits at the edge router (R221). -/
def State.lineWaits (s : State) (i : Nat) (r : Req) (l : Nat) : Bool :=
  decide (s.queueDepth r.part (s.tierOf r.part (r.lineAddr l)) ≤ s.queueAhead i l (s.lineQueue r l))

/-- A line of the request waits there. -/
def State.reqQueued (s : State) (i : Nat) : Bool :=
  match s.req i with
  | some r => r.openLines.any (s.lineWaits i r)
  | none => false

/-- Counts that wait in TIER_Tt_QWAIT_CNT. -/
def State.queueWait (s : State) (p : Nat) (a : Word) : State := s.waitCycles (0x9300 + p * 0x40 + 8 * s.tierOf p a)

/-- An access of a block of the chip to a place finds its queue full, and waits (R221). -/
def State.placeWaits (s : State) (p t : Nat) (l : Option Loc) : State :=
  if s.queueDepth p t ≤ s.queueAhead s.nextId 0 (queueOf p l) then s.waitCycles (0x9300 + p * 0x40 + 8 * t) else s

/-- The same for each line, or tier 2 unit, of `[a, a + n)`. -/
def State.blockWaits (s : State) (p : Nat) (a : Word) (n : Nat) : State :=
  (linesOf (aOff a) n).foldl (fun s l =>
    let x := addA a (l * 64 - aOff a)
    let at_ := s.locate p x
    let first := match at_ with
      | some (.arch o) => decide (l = aOff a / 64 ∨ o % 4096 < 64)
      | _ => true
    if first then s.placeWaits p (s.tierOf p x) at_ else s) s

/-- A piece has been zeroed. -/
def State.zeroed (s : State) (i : Nat) : State :=
  let lo := physKey i 0
  let hi := if i < 48 then lo + 2 ^ 33 else lo + 2 ^ 38
  { s with
    zeroing := Tab.set (fun _ => false) s.zeroing i false
    mem := ⟨s.mem.cells.filter (fun c => decide (c.1 < lo ∨ hi ≤ c.1))⟩
    memBad := ⟨s.memBad.cells.filter (fun c => decide (c.1 < lo / 64 ∨ hi / 64 ≤ c.1))⟩ }

/-- `[a, a + n)` reaches into a piece that is being zeroed. -/
def State.meetsZero (s : State) (p : Nat) (a : Word) (n : Nat) : Bool :=
  (linesOf (aOff a) n).any (fun l => match s.locate p (addA a (l * 64 - aOff a)) with
    | some (.phys i _) => s.zeroingPiece i
    | _ => false)

/-- A block's access to a piece that is being zeroed waits until that is done (R371). DESIGN CHOICE: such an access is one step,
so the zeroing has ended then (log entry 61). -/
def State.awaitZero (s : State) (p : Nat) (a : Word) (n : Nat) : State :=
  (linesOf (aOff a) n).foldl (fun s l => match s.locate p (addA a (l * 64 - aOff a)) with
    | some (.phys i _) => if s.zeroingPiece i then s.zeroed i else s
    | _ => s) s

/-- The one that `before` puts first; ties go to the lower number (lists are ascending). -/
def firstBy (cnt : Nat → Nat) (before : Nat → Nat → Bool) : List Nat → Option Nat
  | [] => none
  | a :: r => match firstBy cnt before r with
    | none => some a
    | some b => if before (cnt b) (cnt a) then some b else some a

/-! ### Superblocks -/

def Ns.sb (n : Ns) (b : Nat) : Superblock := Tab.get (fun _ => {}) n.sbs b
def Ns.modSb (n : Ns) (b : Nat) (f : Superblock → Superblock) : Ns := { n with sbs := Tab.set (fun _ => {}) n.sbs b (f (n.sb b)) }
def Ns.all (n : Ns) : List Nat := List.range n.dataSb
/-- Free superblocks; F of R320 is their number. -/
def Ns.freeSbs (n : Ns) : List Nat := n.all.filter (fun b => decide ((n.sb b).st = .free))
def Ns.closedSbs (n : Ns) : List Nat := n.all.filter (fun b => decide ((n.sb b).st = .closed))

/-- A setting of ARC_GC and of R332's other registers, held to its limits. -/
def clampN (lo hi v : Nat) : Nat := min hi (max lo v)
def State.gcRatio (s : State) : Nat := clampN 1 15 (fld (s.reg 0x60040) 0 4)
def State.lowWm (s : State) : Nat := clampN 1 50 (fld (s.reg 0x60040) 16 8)
def State.highWm (s : State) : Nat :=
  let h := min 60 (fld (s.reg 0x60040) 24 8)
  if h ≤ s.lowWm then s.lowWm + 1 else h
/-- Ticks of IDLE_MS, STRIPE_CLOSE_US and JOURNAL_CLOSE_US. -/
def State.idleTicks (s : State) : Nat := 100000 * clampN 1 255 (fld (s.reg 0x60040) 8 8)
def State.stripeTicks (s : State) : Nat := 100 * clampN 50 65535 (fld (s.reg 0x60050) 0 16)
def State.journalTicks (s : State) : Nat := 100 * clampN 20 65535 (fld (s.reg 0x60050) 16 16)

/-- GC_MODE (R320): 0 NONE, 1 BACKGROUND, 2 FOREGROUND. -/
def State.gcMode (s : State) (p : Nat) : Nat :=
  let n := s.ns p
  let f := 100 * n.freeSbs.length
  if f < s.lowWm * n.dataSb then 2 else if n.idle && decide (f < s.highWm * n.dataSb) then 1 else 0

/-- allocate(p) (R321): lowest erase count, then lower number; for a static move the highest erase count. -/
def Ns.pickSb (n : Ns) (high : Bool) : Option Nat :=
  firstBy (fun b => (n.sb b).erases) (fun a b => if high then decide (b < a) else decide (a < b)) n.freeSbs

/-! ### Codewords and pages (R307, R308) -/

/-- The 4,608 bytes of a codeword of partition `p`. -/
def Codeword.image (p : Nat) (c : Codeword) : List Byte :=
  let body := c.data ++ leBytes 4 c.lu ++ leBytes 4 c.seq ++ leBytes 1 c.flags ++ leBytes 1 p ++ zeros 22
  body ++ (List.range 480).map (Config.ldpc body)

/-- A PAD codeword: filler, of which the manual states no content but its flag (log entry 66). -/
def padCw : Codeword := ⟨0, 0, 1, zeros 4096⟩

def xorBytes (a b : List Byte) : List Byte := List.zipWith (· ^^^ ·) a b

/-- The parity page of a stripe: each of its four codewords is the XOR of the 15 in the same place of the other pages. -/
def parityOf (p : Nat) (units : List Codeword) : List (List Byte) :=
  (List.range 4).map (fun k => (List.range 15).foldl (fun acc d => xorBytes acc ((units.getD (4 * d + k) padCw).image p)) (zeros 4608))

/-! ### Journal (R317, R318) -/

def JRec.bytes (r : JRec) : List Byte :=
  leBytes 1 r.type ++ leBytes 1 r.flags ++ zeros 2 ++ leBytes 4 r.a ++ leBytes 4 r.b ++ leBytes 4 r.seq

/-- The 16,384 bytes of a journal page. DESIGN CHOICE: its CRC-32C covers the page without the CRC's own bytes, and places
with no record hold zeros (log entry 67). -/
def JPage.image (g : JPage) : List Byte :=
  let h := leBytes 8 g.seq ++ leBytes 4 g.recs.length
  let body := g.recs.flatMap JRec.bytes ++ zeros (16 * (1023 - g.recs.length))
  h ++ leBytes 4 (crc32c (h ++ body)) ++ body

def Ns.addRec (n : Ns) (r : JRec) : Ns := { n with jOpen := n.jOpen ++ [r] }
/-- The journal area of 256 MiB is full: 16,384 pages. -/
def Ns.jFull (n : Ns) : Bool := decide (16384 ≤ n.journal.length + n.jFlying.length)
/-- Programs the open journal page; a full journal area holds it (R318). -/
def Ns.closePage (n : Ns) : Ns :=
  if n.jOpen = [] ∨ n.stopped ∨ n.jFull then n
  else { n with jFlying := n.jFlying ++ [n.jOpen.take 1023], jOpen := n.jOpen.drop 1023 }
/-- Programs the full pages. -/
def Ns.closeFull : Nat → Ns → Ns
  | 0, n => n
  | k + 1, n => if 1023 ≤ n.jOpen.length then n.closePage.closeFull k else n
/-- Programs each full page, and the open one where a flush waits for it (R312, R328). -/
def Ns.fullPages (n : Ns) : Ns :=
  let m := Ns.closeFull (n.jOpen.length / 1023) n
  if m.flushes ≠ [] then m.closePage else m
/-- Records that are not durable yet. -/
def Ns.pendingRecs (n : Ns) : List JRec := n.jFlying.flatten ++ n.jOpen
/-- A record under way maps a unit to superblock `b`. -/
def Ns.pendingMap (n : Ns) (rows b : Nat) : Bool := n.pendingRecs.any (fun r => decide (r.type = 1 ∧ sbOf rows r.b = b))
/-- A record under way unmaps the unit. -/
def Ns.pendingCut (n : Ns) (lu : Nat) : Bool :=
  n.pendingRecs.any (fun r => decide ((r.type = 2 ∨ r.type = 3) ∧ r.a ≤ lu ∧ lu < r.a + r.b))

/-! ### Stripes (R308, R311, R312, R320) -/

/-- Takes the next stripe of the host's or collection's open superblock, opening one where needed: its superblock and
row. The last stripe of a superblock is its summary, so the superblock closes after the one before. -/
def Ns.takeRow (n : Ns) (host high : Bool) (rows : Nat) : Option (Nat × Nat × Ns) :=
  let cur := (if host then n.hostSb else n.colSb).head?
  match (match cur with
    | some b => some b
    | none => n.pickSb high) with
  | none => none
  | some b =>
    let r := (n.sb b).rows
    let full := decide (rows ≤ r + 2)
    let n1 := n.modSb b (fun x => { x with st := if full then .closed else .opened, rows := r + 1 })
    let left := if full then (if host then n.hostSb else n.colSb).drop 1 else b :: (if host then n.hostSb else n.colSb).drop 1
    some (b, r, if host then { n1 with hostSb := left } else { n1 with colSb := left })

/-- `n` stripes' programs are issued on every member of a superblock: 4 codewords a page, parity included. -/
def State.memberProgs (s : State) (p b n : Nat) : State :=
  (List.range 16).foldl (fun s m => s.fcProg (s.memberChan p b m) (4 * n)) s

/-- The plane in which a stripe lies. DESIGN CHOICE: the stripes of a superblock go from plane to plane (log entry 68). -/
def State.rowPlane (s : State) (p row : Nat) : Nat := row % max 1 (s.planes p)
/-- No block of the plane is retired. -/
def Superblock.sound (x : Superblock) (plane : Nat) : Bool := x.retired.all (fun k => decide (k % 4 ≠ plane))

/-- Issues the programs of a stripe (R312, R336); `again` for one whose program has failed before. -/
def State.launch (s : State) (p : Nat) (st : Stripe) (again : Bool := false) : State :=
  let s1 := s.memberProgs p st.sb 1
  let s2 := s1.bump (arcCnt p (if st.host then 0x08 else 0x10)) (if again then 0 else st.units.length)
  (if st.sum then s2 else s2.bump (arcCnt p 0x78) (60 - st.units.length)).modNs p (fun n => { n with flying := n.flying ++ [st] })

/-- The last stripe of a superblock that has closed is programmed: its summary (R308). One whose plane has a retired block takes
none (log entry 68). -/
def State.launchSum (s : State) (p b : Nat) : State :=
  let row := s.sbRows p - 1
  if ((s.ns p).sb b).sound (s.rowPlane p row) then s.launch p { sb := b, row := row, host := true, units := [], sum := true } else s

/-- A stripe enters the row that `takeRow` gave it. -/
def State.enter (s : State) (p : Nat) (st : Stripe) (again : Bool := false) : State :=
  let s1 := s.launch p st again
  if ((s1.ns p).sb st.sb).st = .closed then s1.launchSum p st.sb else s1

/-- An open superblock is closed: PAD codewords in its empty places, then its summary (R326). -/
def State.closeSb (s : State) (p b : Nat) : State :=
  let r := ((s.ns p).sb b).rows
  let k := s.sbRows p - 1 - r
  let s1 := s.modNs p (fun n =>
    { n.modSb b (fun x => { x with st := .closed, rows := s.sbRows p }) with
      hostSb := n.hostSb.filter (· ≠ b), colSb := n.colSb.filter (· ≠ b) })
  ((List.range k).foldl (fun s j => s.launch p { sb := b, row := r + j, host := true, units := [] }) s1).launchSum p b

/-- Unit of the namespace that line `l` of a request lies in. -/
def State.lineUnit (s : State) (r : Req) (l : Nat) : Option Nat :=
  match s.locate r.part (r.lineAddr l) with
  | some (.arch o) => some (o / 4096)
  | _ => none

/-- A WRA has staged a part of its lines of the unit. -/
def State.unitBusy (s : State) (p lu : Nat) : Bool :=
  s.reqs.keys.any (fun i => match s.req i with
    | some r => decide (r.kind = .wra ∧ r.part = p) &&
        (let ls := (List.range r.nLines).filter (fun l => decide (s.lineUnit r l = some lu))
         ls.any r.lineDone && ls.any (fun l => !r.lineDone l))
    | none => false)

/-- Programs may start (R330, R412). -/
def Ns.runs (n : Ns) : Bool := !n.stopped && n.formatted && n.mounted
/-- FOREGROUND holds host stripes: RATIO collection stripes first, and none at CRIT (R320). -/
def State.hostHeld (s : State) (p : Nat) : Bool :=
  decide (s.gcMode p = 2) && (decide ((s.ns p).colSince < s.gcRatio) || decide ((s.ns p).freeSbs.length ≤ 2))

/-- A stripe whose program failed goes out again, in a free superblock, which stays open for more (R316); units that a discard has
dropped since are left out. -/
def State.relaunch (s : State) (p : Nat) : Nat → State
  | 0 => s
  | k + 1 =>
    let n := s.ns p
    match n.again with
    | [] => s
    | st :: rest =>
      let units := st.units.filter (fun c => !st.drop.contains c.lu)
      if !n.runs then s
      else if units = [] then (s.modNs p (fun n => { n with again := rest })).relaunch p k
      else match n.pickSb false with
        | none => s
        | some b =>
          let n1 := { n.modSb b (fun x => { x with st := .opened, rows := 1 }) with again := rest }
          let n2 := if st.host then { n1 with hostSb := n1.hostSb ++ [b] } else { n1 with colSb := n1.colSb ++ [b] }
          ((s.modNs p (fun _ => n2)).launch p { st with sb := b, row := 0, units := units, drop := [] } true).relaunch p k

/-- Staged units that the next host stripe takes, in the order in which they were staged (R312). -/
def State.stripeUnits (s : State) (p : Nat) : List Staged :=
  (((s.ns p).staging.filter (fun x => decide (x.seq = 0) && !x.waits)).takeWhile (fun x => !s.unitBusy p x.lu)).take 60

/-- The namespace after `take` has entered a stripe as `units`. -/
def Ns.gaveUnits (n : Ns) (seq : Nat) (units : List Codeword) : Ns :=
  { n with
    seq := seq + units.length
    colSince := 0
    staging := n.staging.map (fun x => match units.find? (fun c => decide (c.lu = x.lu)) with
      | some c => { x with seq := c.seq }
      | none => x) }

/-- Moves staged units into host stripes: full stripes, and with `close` the partly filled one too. A stripe that
FOREGROUND or the journal holds up is counted. -/
def State.formStripes (s : State) (p : Nat) (close : Bool) : Nat → State
  | 0 => s
  | fuel + 1 =>
    let n := s.ns p
    let take := s.stripeUnits p
    if take = [] ∨ (take.length < 60 ∧ !close) ∨ !n.runs then s
    else if n.jFull then s.waitCycles (arcCnt p 0x60)
    else if s.hostHeld p then s.waitCycles (arcCnt p 0x50)
    else match n.takeRow true false (s.sbRows p) with
      | none => s
      | some (b, r, n1) =>
        let units := ((List.range take.length).zip take).map (fun x =>
          ({ lu := x.2.lu, seq := n.seq + x.1, flags := if x.2.bad then 2 else 0, data := x.2.data } : Codeword))
        ((s.modNs p (fun _ => n1.gaveUnits n.seq units)).enter p { sb := b, row := r, host := true, units := units }).formStripes p close fuel

/-- Staging units that STAGE_MIB holds (R310). -/
def State.stageMax (s : State) (p : Nat) : Nat := fld (s.inForce (0x61040 + p * 8)) 0 13 * 256
/-- Whether a write to a unit need not wait for a place in staging, or for a discard's set (R311, R331). -/
def State.stageRoom (s : State) (p lu : Nat) : Bool :=
  let n := s.ns p
  if n.holdsWrite lu then false
  else match n.staging.find? (fun x => decide (x.lu = lu)) with
  | some x => !x.waits
  | none => n.staging.all (fun x => !x.waits) && decide (n.staging.length < s.stageMax p)

/-- Writes that wait for staging enter it as far as STAGE_MIB allows (R311). -/
def State.letIn (s : State) (p : Nat) : State :=
  if (s.ns p).staging.all (fun x => !x.waits) then s
  else
    let room := s.stageMax p - ((s.ns p).staging.filter (fun x => !x.waits)).length
    let go := (((s.ns p).staging.filter (fun x => x.waits && !(s.ns p).holdsWrite x.lu)).take room).map (·.lu)
    s.modNs p (fun n => { n with staging := n.staging.map (fun x => if go.contains x.lu then { x with waits := false, since := s.clk } else x) })

/-- A flush waits for a unit that has not entered a stripe yet (R328). -/
def Ns.flushHolds (n : Ns) : Bool := n.flushes.any (fun f => f.2.any (fun u => n.staging.any (fun x => decide (x.lu = u.1 ∧ x.seq = 0))))

/-- Forms what can be formed: the stripes that failed, full ones, and with `close` or for a flush those partly filled too. -/
def State.fillStripes (s : State) (p : Nat) (close : Bool) : State :=
  let s1 := (s.letIn p).relaunch p (s.ns p).again.length
  s1.formStripes p (close || (s1.ns p).flushHolds) ((s1.ns p).staging.length + 1)

/-! ### The LUNs of reads (R314) -/

/-- Where the content of a logical unit lies: its codeword, where it is neither staged nor unmapped (R313). -/
def Ns.inFlash (n : Ns) (lu : Nat) : Option Nat :=
  if !n.formatted || n.isStaged lu || (n.cw lu).isNone then none else some (Tab.get (fun _ => 0) n.map lu - 1)

/-- LUN of a codeword: its channel, and its number among the partition's LUNs. -/
def State.cwLun (s : State) (p cw : Nat) : Nat :=
  s.memberLun p (sbOf (s.sbRows p) cw) (memberOf (s.sbRows p) cw)

/-- LUN of the codeword that holds line `m` of a request. -/
def State.lineLun (s : State) (r : Req) (m : Nat) : Option Nat :=
  (s.lineUnit r m).bind (fun lu => ((s.ns r.part).inFlash lu).map (s.cwLun r.part))

/-- The read of line `l` of request `i` is the oldest of its queue that is addressed to LUN `lun` (R314). -/
def State.oldestAt (s : State) (i : Nat) (r0 : Req) (l lun : Nat) : Bool :=
  s.reqs.keys.all (fun j => match s.req j with
    | some r => !(readsTier r.kind || decide (r.kind = .atom)) || decide (r.part ≠ r0.part) ||
        r.openLines.all (fun m => !(decide (j < i) || (decide (j = i) && decide (m < l))) || decide (s.lineLun r m ≠ some lun))
    | none => true)

/-! ### Accesses of the chip's blocks -/

/-- A block's read comes to the tiers: its waits, translations, yields and flash reads, and the units that nothing recovers. -/
def State.readTo (s : State) (p : Nat) (a : Word) (n : Nat) : State × List Nat :=
  (((((s.awaitZero p a n).blockWaits p a n).translateAll p a n).yieldLines p a n).readUnits p a n)

/-- A read by a block of the chip that the meter does not count: the data, whether it is poisoned, and the counts it
leaves (R219, R223, R228, R229). -/
def State.readBy (s : State) (p : Nat) (a : Word) (n : Nat) : State × List Byte × Bool :=
  let t := s.readTo p a n
  let s0 := t.1
  let r := s0.peek p a n
  let s1 := s0.countAccess p a (linesOf (aOff a) n).length
  let lost (l : Nat) : Bool := match s0.locate p (addA a (l * 64 - aOff a)) with
    | some (.arch o) => t.2.contains (o / 4096)
    | _ => false
  let bad := (linesOf (aOff a) n).filter (fun l => s0.lineBad p (addA a (l * 64 - aOff a)) || lost l)
  if r.2 || decide (t.2 ≠ []) then
    ((bad.foldl (fun s l => s.reportLine p (addA a (l * 64 - aOff a)) (decide (l = aOff a / 64))) s1).poisonRead p, r.1, true)
  else (s1, r.1, false)

/-- The units of `[a, a + n)` that this read of it does not recover (R315). -/
def State.lostUnits (s : State) (p : Nat) (a : Word) (n : Nat) : List Nat :=
  (s.readTo p a n).2

/-- Whether the byte at `a` reads poisoned in a read that does not recover the units `lost`. -/
def State.badWith (s : State) (p : Nat) (lost : List Nat) (a : Word) : Bool :=
  s.lineBad p a || match s.locate p a with
    | some (.arch o) => lost.contains (o / 4096)
    | _ => false

/-- A read by a block of the chip that the meter counts (R449). -/
def State.devRead (s : State) (p : Nat) (a : Word) (n : Nat) : State × List Byte × Bool :=
  let r := s.readBy p a n
  (r.1.meterRead p a n, r.2)

/-- A write to a page or extent under a move sets its sub-block's dirty bit; a promoted page remembers what was
written since its promotion (R225). -/
def State.noteWrite (s : State) (p : Nat) (a : Word) : State :=
  if aSpace a ≠ 3 then s
  else
    let g := aOff a / MiB2
    let sub := aOff a % MiB2 / 4096
    s.modTp p (fun x => { x with
      since := if (s.page p g).res = 0 then Tab.set (fun _ => false) x.since (g * 512 + sub) true else x.since
      move := x.move.map (fun m =>
        if m.ext && m.num = g / 32 then { m with dirty := Tab.set (fun _ => false) m.dirty (g % 32 * 512 + sub) true }
        else if !m.ext && m.num = g then { m with dirty := Tab.set (fun _ => false) m.dirty sub true } else m) })

/-- A write to `[a, a + n)` fills its 4 KiB unit `k` of device addresses first, where it covers only a part of it and the unit
has no staging unit (R311). -/
def State.fillAt (s : State) (p : Nat) (a : Word) (n k : Nat) : State :=
  if (aOff a ≤ 4096 * k ∧ 4096 * (k + 1) ≤ aOff a + n) ∨ s.mapBad p a then s
  else match s.locate p (addA a (4096 * k - aOff a)) with
    | some (.arch o) =>
      let lu := o / 4096
      if !(s.ns p).takesWrite || (s.ns p).isStaged lu then s
      else
        let y := s.fetchUnit p lu
        let s1 := if y.2 then y.1.reportLoc p (some (.arch o)) else y.1
        if y.2 then s1.modNs p (fun n => let m := n.stage lu 0 [] false s.clk (s.stageRoom p lu)
          { m with staging := m.staging.map (fun x => if x.lu = lu then { x with bad := true } else x) })
        else s1
    | _ => s

/-- The same for each unit that the write touches, which ends the partition's being idle (R320). -/
def State.fillFor (s : State) (p : Nat) (a : Word) (n : Nat) : State :=
  match s.unitsAt p a n with
  | [] => s
  | _ => (List.range ((aOff a + n - 1) / 4096 + 1 - aOff a / 4096)).foldl (fun s j => s.fillAt p a n (aOff a / 4096 + j)) (s.t2Seen p)

/-- Writes bytes that lie within one 64-byte line of a place; a full line of good data clears its poison, and `bad`
data poisons it (R230). A namespace that is unformatted or read-only drops the write (R323, R329). -/
def State.putLoc (s : State) (p : Nat) (l : Option Loc) (bs : List Byte) (bad : Bool) : State :=
  match l with
  | some (.phys i o) =>
    let k := physKey i o
    let s0 := s.keepBurst i o
    let s1 := { s0 with mem := Mem.putBytes s0.mem k bs }
    if bad then { s1 with memBad := Tab.set (fun _ => false) s1.memBad (k / 64) true }.bump (ctlP i + 0x98) 1
    else if bs.length = 64 then { s1 with memBad := Tab.set (fun _ => false) s1.memBad (k / 64) false }
    else s1
  | some (.arch o) =>
    if !(s.ns p).takesWrite then s
    else
      let room := s.stageRoom p (o / 4096)
      let s1 := if room || (s.ns p).holdsWrite (o / 4096) then s else s.waitCycles (arcCnt p 0x58)
      s1.modNs p (fun n => n.stage (o / 4096) (o % 4096) bs bad s.clk room)
  | none => s

/-- A line write of the partition at a device address. One that cannot be translated fails, and writes nothing (R219). -/
def State.writeLine (s : State) (p : Nat) (a : Word) (bs : List Byte) (bad : Bool) : State :=
  if s.mapBad p a then s else (s.noteWrite p a).putLoc p (s.locate p a) bs bad

/-- Splits a write at line boundaries. -/
def lineParts (a : Nat) : Nat → List Byte → List (Nat × List Byte)
  | 0, _ => []
  | f + 1, bs =>
    if bs = [] then []
    else
      let n := 64 - a % 64
      (a, bs.take n) :: lineParts (a + n) f (bs.drop n)

/-- Counts the units that a write of `n` bytes at `a` drops because the namespace is unformatted or read-only
(ARC_WRITE_DROP_CNT). -/
def State.countDrops (s : State) (p : Nat) (a : Word) (n : Nat) : State :=
  match s.locate p a with
  | some (.arch o) => if !(s.ns p).takesWrite then
      s.bump (arcCnt p 0x70) (if n = 0 then 0 else (o + n - 1) / 4096 + 1 - o / 4096) else s
  | _ => s

/-- A write by a block of the chip, line by line, its k-th line poisoned where `bad k`; the stripes that it fills are
programmed (R312). -/
def State.devWriteLines (s : State) (p : Nat) (a : Word) (bs : List Byte) (bad : Nat → Bool) : State :=
  let n := bs.length
  let s1 := ((((((s.awaitZero p a n).blockWaits p a n).translateAll p a n).yieldLines p a n).countAccess p a
    (linesOf (aOff a) n).length).countDrops p a n).fillFor p a n
  let ls := lineParts a.toNat (n + 1) bs
  (((List.range ls.length).zip ls).foldl (fun s l => s.writeLine p (BitVec.ofNat 64 l.2.1) l.2.2 (bad l.1)) s1).fillStripes p false
/-- The same with one mark for every line. -/
def State.devWrite (s : State) (p : Nat) (a : Word) (bs : List Byte) (bad : Bool := false) : State :=
  s.devWriteLines p a bs (fun _ => bad)

/-! ### Start of a long operation -/

/-- A start of operation `op` (R386): LOP_DENIED for an operation marked PF started through a VF; LOP_INVALID for a
request outside the partition or poisoned; else the operation goes on with the request's bytes. -/
def State.lopStart (s : State) (f : Fn) (p o op : Nat) (pfOnly : Bool) (nbytes : Nat)
    (body : State → List Byte → State) : State :=
  s.lopAccept f p o op (fun s1 =>
    if pfOnly ∧ fnIsVf f then s1.loswFail p o 0x0A05
    else
      let a := (s1.losw p o).req
      if !s1.inAlloc p a nbytes || decide (a.toNat % 16 ≠ 0) then s1.loswFail p o 0x0A04
      else
        let (s2, bs, bad) := s1.devRead p a nbytes
        if bad then s2.loswFail p o 0x0A04 else body s2 bs)

end Sys2Proof.Machine
end

