-- ==== Sys2Proof/Machine/Misuse.lean ====
section
/-! DEFINITION. What a misuse that R506 calls undefined within the partition does (R504): results, sums and statuses of
the partition's queries and long operations, its scratch, tier contents and counters take free values, and its threads
fault, stop or go on. Nothing of another partition changes (R7, R505). Log entry 52. -/

namespace Sys2Proof.Machine

/-- A free byte string of length `n`. -/
def State.anyBytes (s : State) (n : Nat) : State × List Byte :=
  ({ s with free := s.free + n }, (List.range n).map (fun i => (Config.freeWord (s.free + i)).setWidth 8))

/-- Free values in a core's stores: scratch, and the entries and accounting of its lists and heaps. -/
def Core.undefine (k : Core) (n : Nat) : Core :=
  let es := Config.anyEntries n
  let acct : Acct :=
    { left := Config.freePick n, out := (Config.freeWord n).setWidth 32, best := (Config.freeWord (n + 1)).setWidth 32
      nan := Config.freePick (n + 1), tomb := Config.freePick (n + 2) }
  let k1 := { k with scratch := (Config.anyWrites n).foldl (fun m (w : Nat × Byte) => Mem.putBytes m (w.1 % 0x400000) [w.2]) k.scratch }
  let k2 := k1.lists.keys.foldl (fun (k : Core) l =>
    let x := k.list l
    k.setList l { x with entries := es.take (fld x.cfg 0 9), acct := acct }) k1
  k2.groups.keys.foldl (fun (k : Core) g =>
    let x := k.grp g
    k.setGrp g { x with heap := (es.take x.heap.length).map (fun (e : Word × F32) => ⟨e.1, e.2, (Config.freeWord n).setWidth 32⟩) }) k2

/-- What R504 lets happen to one context: nothing, a fault of R70, or no further progress. -/
def State.anyThread (s : State) (c t : Nat) : State :=
  let n := Config.freePick s.free
  let s1 : State := { s with free := s.free + 1 }
  let x := s.thr c t
  if x.st = .free ∨ x.st = .faulted then s1
  else match n % 3 with
    | 0 => s1
    | 1 => s1.faultWith c t none 0 (0x0280 + n / 3 % 8) x.pc 0
    | _ => s1.modThr c t (fun x => { x with st := .waitUnit, wait := .lost })

/-- Counters of a partition on the DESK, TIER and ARCHIVE pages (R213, R238, R334). -/
def partCounters (p : Nat) : List Nat :=
  (List.range 16).map (fun k => 0x4500 + p * 0x80 + k * 8) ++ (List.range 8).map (fun k => 0x9300 + p * 0x40 + k * 8) ++
  (List.range 16).map (fun k => arcCnt p (k * 8))

/-- Free values in the counters at `l`. -/
def State.anyCounts (s : State) (l : List Nat) : State :=
  l.foldl (fun s a => ({ s with free := s.free + 1 } : State).setReg a (Config.freeWord s.free)) s

/-- One core of a misused partition. -/
def State.undefineCore (s : State) (c : Nat) : State :=
  let s1 := ({ s with free := s.free + 4 } : State).modCore c (·.undefine s.free)
  let s2 := s1.anyCounts (coreCounters c)
  (s2.core c).threads.keys.foldl (fun s t => s.anyThread c t) s2

/-- A query of a misused partition: its record and its error take free values. -/
def State.anyQuery (s : State) (q : Nat) : State :=
  match s.query q with
  | none => s
  | some x =>
    let r := s.anyBytes x.record.length
    let n := Config.freePick r.1.free
    ({ r.1 with free := r.1.free + 1 } : State).setQuery q (some { x with
      record := r.2
      err := if n % 2 = 0 then x.err else n / 2 % 0x10000
      remote := x.remote.map (fun m => (m.1, m.2.map (fun b => b ^^^ (Config.freeWord n).setWidth 8))) })

/-- A long operation of a misused partition: its status takes free values. -/
def State.anyLosw (s : State) (p o : Nat) : State :=
  let n := Config.freePick s.free
  let s1 : State := { s with free := s.free + 1 }
  if (s.losw p o).state = 0 then s1
  else s1.modLosw p o (fun l => { l with
    state := if n % 4 = 0 then l.state else 2 + n % 4, error := n / 4 % 0x10000, prog := n / 4 % 2 ^ 32 })

/-- The tier contents of a misused partition: free bytes at free places of its own allocation. -/
def State.anyTier (s : State) (p : Nat) : State :=
  (Config.anyWrites s.free).foldl (fun s w =>
    let a := BitVec.ofNat 64 (w.1 % 2 ^ 50)
    if s.inAlloc p a 1 then s.devWrite p a [w.2] else s) { s with free := s.free + 1 }

/-- A misuse on core `c` (R504). -/
def State.misuse (s : State) (c : Nat) : State :=
  match s.coreOwner c with
  | none => s.undefineCore c
  | some p =>
    let s1 := (s.coresOf p).foldl (fun s c => s.undefineCore c) s
    let s2 := (s1.queriesOf p).foldl (fun s q => s.anyQuery q) s1
    let s3 := (List.range 30).foldl (fun s o => s.anyLosw p o) s2
    (s3.anyTier p).anyCounts (partCounters p)

end Sys2Proof.Machine
end

