-- ==== Sys2Proof/Machine/Units.lean ====
section
/-! DEFINITION. The units that threads drive: the core Collator's lists (R136 to R149), the completion of engine
descriptors (R94, R130), the adjacency prefetch (R178, R179), and the commit and squash of hops (R102, R103). -/

namespace Sys2Proof.Machine

/-! ### Collator lists -/

/-- Fields of COL_LIST_CFG (R157). -/
def lcK (w : Word) : Nat := fld w 0 9
def lcMax (w : Word) : Bool := w.getLsbD 9
def lcExp2 (w : Word) : Bool := w.getLsbD 10
def lcTomb (w : Word) : Bool := w.getLsbD 11
def lcShadow (w : Word) : Nat := fld w 12 3
def lcLine (w : Word) : Nat := fld w 16 16
def lcScale (w : Word) : F32 := w.extractLsb' 32 32

/-- left_out of R142: one score goes to the left-out accounting. -/
def Acct.leave (w : Word) (a : Acct) (x : F32) : Acct :=
  { a with
    left := a.left + 1
    out := fadd a.out (sumTerm (lcExp2 w) (lcScale w) x)
    best := if a.left = 0 ∨ better (lcMax w) x a.best then x else a.best }

/-- Adds a summary or held accounting to a list's (R143, R148): its sum is one term. -/
def Acct.merge (w : Word) (a b : Acct) : Acct :=
  { left := a.left + b.left
    out := if b.left = 0 then a.out else fadd a.out b.out
    best := if b.left = 0 then a.best else if a.left = 0 ∨ better (lcMax w) b.best a.best then b.best else a.best
    nan := a.nan + b.nan
    tomb := a.tomb + b.tomb }

/-- Places an entry directly after the last entry whose score is not worse (R141, R142). -/
def placeEntry (mx : Bool) (id : Word) (x : F32) : List (Word × F32) → List (Word × F32)
  | [] => [(id, x)]
  | e :: r => if better mx x e.2 then (id, x) :: e :: r else e :: placeEntry mx id x r

/-- What take() did with an entry (R142). -/
inductive Took where
  | nan | left | tomb | entered (evicted : Bool)
deriving DecidableEq, Repr

def isFull (w : Word) (es : List (Word × F32)) : Bool := decide (lcK w ≤ es.length)
def kth (es : List (Word × F32)) : F32 := ((es.getLast?).map (·.2)).getD 0

/-- take() of R142 on entries and accounting. `tests`: the NaN test is made; `dead`: the ID is tombstoned. -/
def takeEntry (w : Word) (tests dead : Bool) (es : List (Word × F32)) (a : Acct) (id : Word) (x : F32) :
    List (Word × F32) × Acct × Took :=
  if tests && isNaN32 x then (es, { a with nan := a.nan + 1 }, .nan)
  else if isFull w es && !better (lcMax w) x (kth es) then (es, a.leave w x, .left)
  else if dead then (es, { a with tomb := a.tomb + 1 }, .tomb)
  else if isFull w es then
    (placeEntry (lcMax w) id x es.dropLast, a.leave w (kth es), .entered true)
  else (placeEntry (lcMax w) id x es, a, .entered false)

/-- R170: the store names the ID with a sequence below P. -/
def Core.tombstoned (k : Core) (id : Word) (p : Nat) : Bool :=
  k.tombs.any (fun e => decide (e.1 = fld id 0 32 ∧ e.2 < p))

/-- Counters of one committed take (R159). -/
def State.countTook (s : State) (c : Nat) (r : Took) : State :=
  let s1 := s.bump (colP c + 0x80) 1
  match r with
  | .nan => s1.bump (colP c + 0x98) 1
  | .left => s1.bump (colP c + 0x90) 1
  | .tomb => s1.bump (colP c + 0xA0) 1
  | .entered ev =>
    let s2 := s1.bump (colP c + 0x88) 1
    if ev then s2.bump (colP c + 0x90) 1 else s2

/-- Whether an entry is dead for list `l`: TOMB = 1 and tombstoned at the owner's publish point (R142). -/
def Core.dead (k : Core) (l : Nat) (id : Word) : Bool :=
  let x := k.list l
  lcTomb x.cfg && k.tombstoned id ((k.grp x.owner).f 8 4)

/-- The requester that the Collator has served becomes the last in its order (R121). -/
def Core.served (k : Core) (i : Nat) : Core := { k with colRot := k.colRot.filter (· ≠ i) ++ [i] }

/-- The Collator takes one entry for list `l` (R140, R142, R147, R149): the state, and whether it entered. -/
def State.colTake (s : State) (c l : Nat) (spec : Bool) (hop : Nat) (id : Word) (x : F32) : State × Bool :=
  let k := s.core c
  let li := k.list l
  if !li.isOpen then (s.bump (colP c + 0xA8) 1, false)
  else if spec then
    match li.shadow[hop - 1]? with
    | none => ((s.modCore c (·.setList l { li with dropHops := hop :: li.dropHops })).bump (colP c + 0xB0) 1, false)
    | some h =>
      let low := isFull li.cfg li.entries && !isNaN32 x && !better (lcMax li.cfg) x (kth li.entries)
      let r := if low then (h.entries, h.acct.leave li.cfg x, Took.left)
        else takeEntry li.cfg true (k.dead l id) h.entries h.acct id x
      (s.modCore c (·.setList l { li with shadow := li.shadow.set (hop - 1) ⟨r.1, r.2.1⟩ }),
       match r.2.2 with
       | .entered _ => true
       | _ => false)
  else
    let r := takeEntry li.cfg true (k.dead l id) li.entries li.acct id x
    ((s.modCore c (·.setList l { li with entries := r.1, acct := r.2.1 })).countTook c r.2.2,
     match r.2.2 with
     | .entered _ => true
     | _ => false)

/-- Whether what a descriptor of context `ctx` and group `g` scores still reaches list `l`: its list is open, and not for
another group. What comes from a group that is gone meets a list that was closed with it (R106, R139). -/
def State.reachesList (s : State) (c l ctx g gen : Nat) : Bool :=
  let x := (s.core c).list l
  x.isOpen && (isHart ctx || (decide (x.owner = g) && (s.grp c g).live && decide ((s.grp c g).gen = gen)))

/-- The Collator takes the oldest entry of an engine's output queue (R121, R142). -/
def State.takeOldest (s : State) (c e : Nat) : State :=
  let en := (s.core c).eng e
  match en.run with
  | none => s
  | some r =>
    match r.out with
    | [] => s
    | x :: xs =>
      let s1 := s.modCore c (fun k => (k.setEng e { en with run := some { r with out := xs } }).served e)
      if s.reachesList c r.list r.d.ctx r.d.group r.d.gen then (s1.colTake c r.list r.d.spec r.d.hop x.1 x.2).1
      else s1.bump (colP c + 0xA8) 1

/-- The engines before CINS in the Collator's order, each of which it serves first where its queue holds an entry (R121). -/
def State.serveAhead (s : State) (c : Nat) : State :=
  ((s.core c).colRot.takeWhile (· ≠ 16)).foldl (fun s e => s.takeOldest c e) s

/-- An engine's left-out summary (R143): to the list, or to the hop's held accounting. -/
def State.colSummary (s : State) (c l : Nat) (spec : Bool) (hop : Nat) (a : Acct) : State :=
  let li := (s.core c).list l
  if !li.isOpen then s.bump (colP c + 0xA8) 1
  else if spec then
    match li.shadow[hop - 1]? with
    | none => (s.modCore c (·.setList l { li with dropHops := hop :: li.dropHops })).bump (colP c + 0xB0) 1
    | some h => s.modCore c (·.setList l { li with shadow := li.shadow.set (hop - 1) ⟨h.entries, h.acct.merge li.cfg a⟩ })
  else
    ((s.modCore c (·.setList l { li with acct := li.acct.merge li.cfg a })).bump (colP c + 0x90) a.left).bump
      (colP c + 0x98) a.nan

/-- Publishes hop 1's shadow list (R148); the higher ones move down, and a dropped entry of hop 1 sets LOSS (R149). -/
def State.publishShadow (s : State) (c l : Nat) : State :=
  let li := (s.core c).list l
  match li.shadow with
  | [] => s.modCore c (·.setList l { li with
      loss := li.loss || li.dropHops.contains 1, dropHops := (li.dropHops.filter (· ≠ 1)).map (· - 1) })
  | h :: r =>
    let s1 := h.entries.foldl (fun s e =>
      let x := (s.core c).list l
      let t := takeEntry x.cfg false false x.entries x.acct e.1 e.2
      (s.modCore c (·.setList l { x with entries := t.1, acct := t.2.1 })).countTook c t.2.2) s
    let s2 := s1.modCore c (fun k =>
      let x := k.list l
      k.setList l { x with
        acct := x.acct.merge x.cfg h.acct
        shadow := r ++ [{}]
        loss := x.loss || x.dropHops.contains 1
        dropHops := (x.dropHops.filter (· ≠ 1)).map (· - 1) })
    ((s2.bump (colP c + 0x90) h.acct.left).bump (colP c + 0x98) h.acct.nan).bump (colP c + 0xA0) h.acct.tomb

/-- The configuration of list `l` in force. -/
def State.listCfg (s : State) (c l : Nat) : Word := s.inForce (colP c + 0x200 + l * 8)

/-- Opens list `l` for group `g` (R137). -/
def State.openList (s : State) (c l g : Nat) : State :=
  let w := s.listCfg c l
  s.modCore c (·.setList l { isOpen := true, owner := g, cfg := w, shadow := List.replicate (lcShadow w) {} })

/-- fp32 sum of terms in rank order, from +0 (R144). -/
def sumOf (exp2 : Bool) (scale : F32) (xs : List F32) : F32 :=
  xs.foldl (fun a x => fadd a (sumTerm exp2 scale x)) 0

def sat32 (n : Nat) : Nat := min n 0xFFFFFFFF

/-- Bytes of one entry of a result record (R151). -/
def entryBytes (id : Word) (x : F32) (src : Nat) : List Byte :=
  leBytes 8 id.toNat ++ leBytes 4 x.toNat ++ leBytes 2 src ++ zeros 2

/-- A result record (R150): header and K entries, filled to K (R146). -/
def recordBytes (mx exp2 tie exact dedup loss trunc : Bool) (k : Nat) (sel out scale best : F32)
    (left nan tomb dup tag origin : Nat) (es : List (Word × F32 × Nat)) : List Byte :=
  let b (x : Bool) (i : Nat) : Nat := if x then 2 ^ i else 0
  leBytes 2 es.length ++ leBytes 2 k
  ++ leBytes 1 (b mx 0 + b exp2 1 + b tie 2 + b exact 3 + b dedup 4 + b loss 5 + b trunc 6) ++ zeros 3
  ++ leBytes 4 sel.toNat ++ leBytes 4 out.toNat ++ leBytes 4 scale.toNat ++ leBytes 4 best.toNat
  ++ leBytes 4 (sat32 left) ++ leBytes 4 (sat32 nan) ++ leBytes 4 (sat32 tomb) ++ leBytes 4 (sat32 dup)
  ++ leBytes 4 tag ++ leBytes 2 origin ++ zeros 18
  ++ es.flatMap (fun e => entryBytes e.1 e.2.1 e.2.2)
  ++ (List.replicate (k - es.length) (entryBytes (BitVec.allOnes 64) (fillScore mx) 0)).flatten

/-- The record that a core list seals with (R138, R144 to R146, R150, R151). -/
def ColList.record (l : ColList) (tag core : Nat) : List Byte :=
  let w := l.cfg
  let mx := lcMax w
  let full := decide (l.entries.length = lcK w)
  let tie := full && decide (0 < l.acct.left) && feq l.acct.best (kth l.entries)
  recordBytes mx (lcExp2 w) tie (!l.loss) false l.loss false (lcK w)
    (sumOf (lcExp2 w) (lcScale w) (l.entries.map (·.2))) l.acct.out (lcScale w)
    (if l.acct.left = 0 then fillScore mx else l.acct.best)
    l.acct.left l.acct.nan l.acct.tomb 0 tag core (l.entries.map (fun e => (e.1, e.2, 0)))

/-! ### Engine descriptors -/

/-- `n` bits of the control word from bit `lo` (R113). -/
def cw (d : List Byte) (lo n : Nat) : Nat := bits (leAt d 0 8) lo n
def cwBit (d : List Byte) (i : Nat) : Bool := bit (leAt d 0 8) i
/-- Signed 6-bit exponent field. -/
def cwExp (d : List Byte) (lo : Nat) : Int := sext 6 (cw d lo 6)
/-- 32-bit field of bytes 8 to 63. -/
def w4 (d : List Byte) (off : Nat) : Nat := leAt d off 4
def dN (d : List Byte) : Nat := w4 d 12
/-- A SCORE or LOOKUP descriptor. -/
def dStream (d : List Byte) : Bool := decide (cw d 0 3 = 0 ∨ cw d 0 3 = 2)
def dFmt (d : List Byte) : EFmt := (EFmt.ofCode (cw d 3 4)).getD .fp32
def dOfmt (d : List Byte) : EFmt := (EFmt.ofOut (cw d 43 4)).getD .fp32
def dDim (d : List Byte) : Nat := leAt d 8 2
/-- Bytes of one candidate (R118). -/
def dVec (d : List Byte) : Nat := dDim d * (dFmt d).bits / 8
/-- Table entries per subspace (R124). -/
def dTab (d : List Byte) : Nat := if dFmt d = .pq4 then 16 else 256
/-- `a` rounded up to a multiple of `n`. -/
def up (a n : Nat) : Nat := ceilDiv a n * n

/-- The completion record that a descriptor with REC = 1 writes when it ends (R122). -/
def State.descRecord (s : State) (c : Nat) (r : Running) : State :=
  let d := r.d.bytes
  if dStream d && cwBit d 41 then
    s.writeScr c (if cwBit d 12 then up (w4 d 56 + 4 * dN d) 16 else w4 d 56)
      (leBytes 4 r.scored ++ leBytes 4 r.filtered ++ leBytes 4 (sat32 r.accSat) ++ leBytes 4 r.failIndex)
  else s

/-- A descriptor ends with a status (R94, R135): held among the last 4,096, and EWAITs of its ticket go on. -/
def State.descStatus (s : State) (c e seq status : Nat) : State :=
  let s1 := s.modCore c (fun k =>
    let x := k.eng e
    k.setEng e { x with log := x.log.map (fun p => if p.1 = seq then (seq, some status) else p) })
  let s2 := s1.bump (engP c + 0x100 + e * 0x40 + (if status = 0 then 0 else 8)) 1
  s2.wakeIf c (fun x => match x.wait with
      | .engine _ tk => decide (x.st = .waitEngine ∧ tk = e + seq * 16)
      | _ => false)
    (fun x => match x.wait with
      | .engine rd _ => (x.setRn rd (BitVec.ofNat 64 status)).complete
      | _ => x)

/-- A place in a descriptor queue is free: ESUBs that wait for one issue again (R93). -/
def State.queueFreed (s : State) (c : Nat) : State :=
  s.wakeIf c (fun x => decide (x.st = .waitEngine ∧ x.wait = .reissue)) Thread.wakeReissue

/-- Queued descriptors of an engine, of which its queue holds 16 (R116). DEDUCED: one that runs has left the queue
(R94, R103, log entry 48). -/
def Engine.depth (x : Engine) : Nat := x.queue.length

/-- Elements per cycle of a SCORE or LOOKUP descriptor (R127). -/
def rateElems : EFmt → Nat
  | .int8 | .e4m3 | .e5m2 => 256
  | .int4 => 512
  | .bin => 2048
  | _ => 64

/-- Cycles (core) that a descriptor's prologue, issue and pipeline take without waits (R128, R129), for the `next` units that
it has issued. -/
def Running.cycles (r : Running) : Nat :=
  let d := r.d.bytes
  let bit1 (i : Nat) : Nat := if cwBit d i then 1 else 0
  match cw d 0 3 with
  | 1 =>
    let k := w4 d 8
    let i := match dFmt d with
      | .int4 => ceilDiv k 2
      | .bf16 | .fp16 => 4 * k
      | _ => k
    1 + bit1 55 + 4 * bit1 54 + 3 + i + 4 + 2 + (dOfmt d).bits / 2 + 2 * bit1 42
  | 3 => ceilDiv (r.next * w4 d 12) 64 + 5 + bit1 42 * ceilDiv r.next 8
  | m =>
    if dN d = 0 then 0
    else
      let load := if cwBit d 40 then
          ceilDiv ((if m = 2 then dDim d * dTab d + dDim d else dVec d) + (if cw d 9 2 = 2 then 32 else 0)) 256 else 0
      let pipe := match dFmt d with
        | .int8 | .int4 => 11
        | .e4m3 | .e5m2 => 12
        | .bf16 | .fp16 => 14
        | _ => 9
      load + max (ceilDiv r.next 8) (ceilDiv (r.scored * dDim d) (rateElems (dFmt d))) + pipe - 1

/-- ENG_BUSY_CNT and ENG_BANK_WAIT_CNT of a descriptor that has ended or been squashed (R135): its own cycles, and the waits for scratch banks, which
the model does not time (log entry 53). -/
def State.engCycles (s : State) (c e : Nat) (r : Running) : State :=
  let a := engP c + 0x100 + e * 0x40
  let w := if r.cycles = 0 then 0 else Config.freePick s.free
  (({ s with free := s.free + 1 } : State).bump (a + 0x28) (r.cycles + w)).bump (a + 0x30) w

/-- Removes the queued descriptors of engine `e` that satisfy `p` and stops the running one if it does (R94, R131):
each completes with `status`, the running one with its record (R122); entries not yet taken are dropped, counted where
`count`. -/
def State.dropDescs (s : State) (c e status : Nat) (count : Bool) (p : QDesc → Bool) : State :=
  let x := (s.core c).eng e
  let gone := x.queue.filter p
  let s1 := s.modCore c (fun k => k.setEng e { x with queue := x.queue.filter (fun d => !p d) })
  let s2 := match x.run with
    | some r =>
      if p r.d then
        let s2 := s1.modCore c (fun k => k.setEng e { k.eng e with run := none })
        let s3 := if count then (s2.bump (colP c + 0xB8) r.out.length).engCycles c e r else s2
        (s3.descRecord c r).descStatus c e r.d.seq status
      else s1
    | none => s1
  (gone.foldl (fun s d => s.descStatus c e d.seq status) s2).queueFreed c

/-! ### Adjacency prefetch (R178, R179) -/

/-- Heap entries best first: the order of pops (R67). -/
def heapBetter (mx : Bool) (a b : HeapEntry) : Bool :=
  better mx a.key b.key || (!better mx b.key a.key && decide (a.seq.toNat < b.seq.toNat))

def insertHeap (mx : Bool) (h : HeapEntry) : List HeapEntry → List HeapEntry
  | [] => [h]
  | e :: r => if heapBetter mx h e then h :: e :: r else e :: insertHeap mx h r

/-- One prefetch of a block address (R178, R179). -/
def State.prefetchOne (s : State) (c p : Nat) (a : Word) : State :=
  let k := s.core c
  if k.prefetch.any (fun e => decide (e.addr = a) && !e.stale) then s
  else if !s.inAlloc p a 128 || !decide (s.tagReserve c < s.tagsFree c) then s.bump (walkP c + 0xB0) 1
  else
    let go (s : State) (es : List PfEntry) : State :=
      let r := s.newReq { kind := .prefetch, part := p, core := c, addr := a, len := 128 }
      (r.2.modCore c (fun k => { k with prefetch := es ++ [⟨r.1, false, a, false, [], (false, false), []⟩] })).bump
        (walkP c + 0xA0) 1
    if k.prefetch.length < 256 then go s k.prefetch
    else match k.prefetch.find? (fun e => e.filled && decide (e.waits = [])) with
      | some v => go (s.bump (walkP c + 0xB8) 1) (k.prefetch.filter (fun e => decide (e.id ≠ v.id)))
      | none => s.bump (walkP c + 0xB0) 1

/-- Prefetch after a heap operation of group `g` (R178). -/
def State.prefetchAfter (s : State) (c g : Nat) : State :=
  let w := s.reg (walkP c + 0x40)
  match s.coreOwner c with
  | none => s
  | some p =>
    if !w.getLsbD 0 then s
    else
      let x := s.grp c g
      let base := s.reg (walkP c + 0x48 + x.f 4 4 % 4 * 8)
      (x.heap.take (min 4 (fld w 1 3))).foldl
        (fun s h => s.prefetchOne c p (addA base (128 * fld h.id 0 32))) s

/-- A WRA or space-2 ATOM of the core frees the entries that it overlaps (R179); one that an RDA waits on already
still serves that RDA and no later one (log entry 21). -/
def State.prefetchDrop (s : State) (c : Nat) (a : Word) (n : Nat) : State :=
  let hit (e : PfEntry) : Bool := decide (e.addr.toNat < a.toNat + n ∧ a.toNat < e.addr.toNat + 128)
  s.modCore c (fun k =>
    let left := k.prefetch.filter (fun e => !(hit e && decide (e.waits = [])))
    { k with prefetch := left.map (fun e => if hit e then { e with stale := true } else e) })

/-! ### Visited sets (R64, R66, R180) -/

/-- Bit number of an ID in the group's visited set. -/
def visitedBit (seed id : Word) (b : Nat) : Nat := ((id * (seed ||| 1)) >>> (64 - b)).toNat

/-- Sets bit `i` of the set at `base`, with no effect on marks (a store of fewer than 8 bytes). -/
def Core.setBit (k : Core) (base i : Nat) : Core :=
  let a := base + i / 8
  k.write a [Mem.rd k.scratch a ||| (1#8 <<< (i % 8))]
def Core.testBit (k : Core) (base i : Nat) : Bool := (Mem.rd k.scratch (base + i / 8)).getLsbD (i % 8)

/-- The Walker reads the word of bit `i` of the set at `base`: a corrected error is counted (R60). -/
def State.setRead (s : State) (c base i : Nat) : State :=
  s.bump (coreP c + 0x98) ((s.core c).check (base + i / 8) 1).1

/-- The word of bit `i` holds an error that SECDED cannot correct; VTS has no fault for it, so what it reads is a free
value (R60, R93, log entry 54). -/
def Core.setLost (k : Core) (base i : Nat) : Bool := (k.check (base + i / 8) 1).2.1

/-- Held faults in the order in which their instructions issued (R102). -/
def heldInsert (h : HeldFault) : List HeldFault → List HeldFault
  | [] => [h]
  | e :: r => if h.ord < e.ord then h :: e :: r else e :: heldInsert h r
def byIssue (l : List HeldFault) : List HeldFault := l.foldl (fun acc h => heldInsert h acc) []

/-! ### Commit and squash of hops -/

/-- Every context of the core changed by `f`. -/
def Core.mapThr (k : Core) (f : Thread → Thread) : Core := k.threads.keys.foldl (fun k t => k.setThr t (f (k.thr t))) k

/-- Every request changed by `f`. -/
def State.mapReqs (s : State) (f : Req → Req) : State :=
  s.reqs.keys.foldl (fun s i => match s.req i with
    | some r => s.setReq i (some (f r))
    | none => s) s

/-- Commits hop 1 of group `g` (R102, R182); the thread's own result is written before. -/
def State.commitHop (s : State) (c g : Nat) : State :=
  let mine (h : Nat × Nat × Nat) : Bool := decide (h.1 = g)
  -- held bits
  let base := (s.grp c g).f 16 2 * 64
  let due1 := (s.core c).held.filter (fun h => mine h && decide (h.2.1 = 1))
  let s0 := due1.foldl (fun s h => s.setRead c base h.2.2) s
  let s1 := s0.modCore c (fun k =>
    let now := k.held.filter (fun h => mine h && decide (h.2.1 = 1))
    let k1 := now.foldl (fun k h => k.setBit base h.2.2) k
    let left := (k1.held.filter (fun h => !(mine h && decide (h.2.1 = 1)))).map
      (fun h => if mine h then (h.1, h.2.1 - 1, h.2.2) else h)
    { k1 with held := left })
  -- shadow lists
  let s2 := ((s1.core c).ownLists g).foldl (fun s l => s.publishShadow c l) s1
  -- threads, reads, descriptors
  let s3 := s2.modCore c (fun k => k.mapThr (fun x =>
    if x.group = g ∧ x.spec then
      (if x.hop = 1 then
        let y := { x with spec := false, hop := 0 }
        if x.wait = .commit then y.wakeReissue else y
       else { x with hop := x.hop - 1 })
    else x))
  let s4 := s3.mapReqs (fun r => if r.core = c ∧ r.group = g ∧ r.gen = (s.grp c g).gen ∧ r.spec then
      { r with spec := decide (r.hop ≠ 1), hop := r.hop - 1 } else r)
  let down (d : QDesc) : QDesc := if d.group = g ∧ d.gen = (s.grp c g).gen ∧ d.spec then { d with spec := decide (d.hop ≠ 1), hop := d.hop - 1 } else d
  let s5 := s4.modCore c (fun k => k.engines.keys.foldl (fun k e =>
    let x := k.eng e
    k.setEng e { x with queue := x.queue.map down, run := x.run.map (fun r => { r with d := down r.d }) }) k)
  -- the hold store has places again
  let s6 := (s5.modGrp c g (fun x => { x with hops := x.hops - 1 })).wakeUnit c
  -- held faults of hop 1, oldest by issue first
  let due := byIssue ((s6.core c).faults.filter (fun h => decide (h.group = g ∧ h.hop = 1)))
  let s7 := s6.modCore c (fun k =>
    let left := (k.faults.filter (fun h => !decide (h.group = g ∧ h.hop = 1))).map
      (fun h => if h.group = g then { h with hop := h.hop - 1 } else h)
    { k with faults := left })
  due.foldl (fun s h => s.groupFault c g h.ctx h.code h.pc h.addr) s7

/-- Squashes every open hop of group `g` (R103, R183). -/
def State.squash (s : State) (c g : Nat) : State :=
  let s1 := (s.dropHeld c g).modGrp c g (fun x => (x.setF 28 4 ((x.specEpoch + 1) % 2 ^ 32)) )
  let s2 := s1.modGrp c g (fun x => { x with hops := 0 })
  let s3 := s2.modCore c (fun k =>
    let k1 := k.mapThr (fun x => if x.group = g ∧ x.spec ∧ x.st ≠ .free then { x with marked := true } else x)
    { k1 with prefetch := k1.prefetch.map (fun e => { e with waits := e.waits.filter (fun w =>
        !((k1.thr w.1).spec && decide ((k1.thr w.1).group = g))) }) })
  let s4 := s3.mapReqs (fun r => if r.core = c ∧ r.group = g ∧ r.gen = (s.grp c g).gen ∧ r.spec ∧ r.kind = .rda then { r with cancelled := true } else r)
  let s5 := (List.range 16).foldl (fun s e => s.dropDescs c e 0x0206 true (fun d => d.spec && decide (d.group = g ∧ d.gen = (s.grp c g).gen))) s4
  s5.bump (walkP c + 0x88) 1

end Sys2Proof.Machine
end

