-- ==== Sys2Proof/Machine/ThreadMem.lean ====
section
/-! DEFINITION. Scratch, remote and tier opcodes (R57 to R62, R84, R87 to R92). -/

namespace Sys2Proof.Machine

/-- A thread's use of scratch words: corrected errors are counted; a double-bit error faults before a poison mark
(R60, R72, R91). -/
def State.scrUse (s : State) (c t a n : Nat) (ok : State → State) : State :=
  let r := (s.core c).check a n
  let s1 := s.bump (coreP c + 0x98) r.1
  if r.2.1 then s1.trap c t 0x0285 a
  else if r.2.2 then s1.trap c t 0x0284 a
  else ok s1

/-- Little-endian value of scratch bytes. -/
def State.scrLe (s : State) (c a n : Nat) : Nat := Mem.le (s.core c).scratch a n

/-- A thread's store may not reach the code region; a hart's may (R61). -/
def State.codeBarred (s : State) (c t a n : Nat) : Bool := !isHart t && s.inCode c a n

/-- The access of the instruction at the PC of context `t`. -/
def State.accessOf (s : State) (c t : Nat) (kind : ReqKind) (rd : Reg) (a : Word) : Req :=
  let x := s.thr c t
  { kind := kind, part := (s.coreOwner c).getD 16, core := c, ctx := t, inst := x.inst, group := x.group,
    gen := (s.grp c x.group).gen, spec := x.spec, hop := x.hop, pc := x.pc, addr := a, rd := rd.val }

/-- The allocation check of the core (R84, R216). -/
def State.coreAlloc (s : State) (c : Nat) (a : Word) (n : Nat) : Bool :=
  match s.coreOwner c with
  | some p => s.inAlloc p a n
  | none => false

/-- `seu` bit errors strike the word that holds byte `a`. -/
def Core.strike (k : Core) (a seu : Nat) : Core :=
  { k with ecc := Tab.set (fun _ => 0) k.ecc (a / 8) (Tab.get (fun _ => 0) k.ecc (a / 8) + seu) }

def execLd (c : CoreId) (t : CtxId) (rd ra : Reg) (size : Fin 4) (sx : Bool) (off : BitVec 15) (seu : Nat)
    (s : State) : Outc :=
  issue c t s true false (fun s =>
    let n := sizeOf size
    let a := scrMask ((s.thr c t).r ra + imm 15 off)
    if a % n ≠ 0 then .next (s.trap c t 0x0282 a)
    else .next ((s.modCore c (·.strike a seu)).scrUse c t a n (fun s =>
      s.retire c t rd (loadExt sx n (s.scrLe c a n)))))

def execSt (c : CoreId) (t : CtxId) (rb ra : Reg) (size : Fin 4) (sx : Bool) (off : BitVec 15) (s : State) : Outc :=
  issue c t s (!sx) false (fun s =>
    let x := s.thr c t
    let n := sizeOf size
    let a := scrMask (x.r ra + imm 15 off)
    if a % n ≠ 0 then .next (s.trap c t 0x0282 a)
    else if s.codeBarred c t a n then .next (s.trap c t 0x0281 a)
    else .next ((s.writeScr c a (leBytes n (x.r rb).toNat)).adv c t id))

/-- Copies a line with its poison marks (R91). -/
def Core.copyLine (k : Core) (src dst : Nat) : Core :=
  let k1 := k.write dst (Mem.bytes k.scratch src 64)
  let marks := (List.range 8).filter (fun i => Tab.get (fun _ => false) k.poison (src / 8 + i))
  { k1 with poison := marks.foldl (fun t i => Tab.set (fun _ => false) t (dst / 8 + i) true) k1.poison }

/-- DESIGN CHOICE: CODE_WRITE is raised before the source line is read (log entry 49); of two misaligned lines
CORE_FAULT_ADDR takes the source's (log entry 93). -/
def execLcopy (c : CoreId) (t : CtxId) (rd ra rb : Reg) (hi : BitVec 13) (s : State) : Outc :=
  issue c t s (decide (rd = 0 ∧ hi = 0)) false (fun s =>
    let x := s.thr c t
    let src := scrMask (x.r rb)
    let dst := scrMask (x.r ra)
    if src % 64 ≠ 0 then .next (s.trap c t 0x0282 src)
    else if dst % 64 ≠ 0 then .next (s.trap c t 0x0282 dst)
    else if s.codeBarred c t dst 64 then .next (s.trap c t 0x0281 dst)
    else
      let r := (s.core c).check src 64
      let s1 := s.bump (coreP c + 0x98) r.1
      if r.2.1 then .next (s1.trap c t 0x0285 src)
      else .next ((s1.modCore c (·.copyLine src dst)).adv c t id))

def execLzero (c : CoreId) (t : CtxId) (rd ra rb : Reg) (hi : BitVec 13) (s : State) : Outc :=
  issue c t s (decide (rd = 0 ∧ rb = 0 ∧ hi = 0)) false (fun s =>
    let dst := scrMask ((s.thr c t).r ra)
    if dst % 64 ≠ 0 then .next (s.trap c t 0x0282 dst)
    else if s.codeBarred c t dst 64 then .next (s.trap c t 0x0281 dst)
    else .next ((s.writeScr c dst (zeros 64)).adv c t id))

/-- Bits 29:0 of a remote address (R84). -/
def remoteMask (a : Word) : Word := BitVec.ofNat 64 (fld a 0 30)

/-- Leaves for the target core; the thread waits for the answer (R48, R62). -/
def execRld (c : CoreId) (t : CtxId) (rd ra : Reg) (size : Fin 4) (sx : Bool) (off : BitVec 15) (s : State) : Outc :=
  issue c t s true false (fun s =>
    let n := sizeOf size
    let a := remoteMask ((s.thr c t).r ra + imm 15 off)
    if a.toNat % n ≠ 0 then .next (s.trap c t 0x0282 a.toNat)
    else
      let r := s.newReq { s.accessOf c t .rload rd a with size := n, sx := sx }
      .next (r.2.waitIn c t .waitUnit (.access r.1)))

/-- A remote store leaves and the thread goes on; at most 255 writes are outstanding (R89). -/
def execRst (c : CoreId) (t : CtxId) (rb ra : Reg) (size : Fin 4) (sx : Bool) (off : BitVec 15) (s : State) : Outc :=
  issue c t s (!sx) true (fun s =>
    let x := s.thr c t
    let n := sizeOf size
    let a := remoteMask (x.r ra + imm 15 off)
    if a.toNat % n ≠ 0 then .next (s.trap c t 0x0282 a.toNat)
    else if 255 ≤ x.writes then .next (s.waitIn c t .waitRead .reissue)
    else
      let r := s.newReq { s.accessOf c t .rstore 0 a with size := n, a := x.r rb }
      .next (r.2.adv c t (fun x => { x with writes := x.writes + 1 })))

/-- What an ATOM writes: SWAP, ADD, CAS (R87); none where CAS does not match. -/
def atomNew (op : Nat) (old rb rd : Word) : Option Word :=
  match op with
  | 0 => some rb
  | 1 => some (old + rb)
  | _ => if old = rd then some rb else none

/-- ATOM of space 0 (R87, R92). DESIGN CHOICE: CODE_WRITE is raised before the word is read, so for a CAS whose comparison
would fail as well (log entries 49, 50). -/
def State.atomLocal (s : State) (c t op : Nat) (rd : Reg) (a : Nat) (rb : Word) : State :=
  if s.codeBarred c t a 8 then s.trap c t 0x0281 a
  else s.scrUse c t a 8 (fun s =>
    let old : Word := BitVec.ofNat 64 (s.scrLe c a 8)
    let s1 := match atomNew op old rb ((s.thr c t).r rd) with
      | some w => s.writeScr c a (leBytes 8 w.toNat)
      | none => s
    s1.retire c t rd old)

def execAtom (c : CoreId) (t : CtxId) (rd ra rb : Reg) (fn : BitVec 14) (s : State) : Outc :=
  let op := fn.toNat % 4
  let sp := fn.toNat / 4
  issue c t s (decide (op ≤ 2 ∧ sp ≤ 2)) true (fun s =>
    let x := s.thr c t
    let a := x.r ra
    let q : Req := { s.accessOf c t .ratom rd (remoteMask a) with size := 8, op := op, a := x.r rb, b := x.r rd }
    let send (s : State) (q : Req) : State :=
      let r := s.newReq q
      r.2.waitIn c t .waitUnit (.access r.1)
    if a.toNat % 8 ≠ 0 then
      .next (s.trap c t 0x0282 (if sp = 0 then scrMask a else if sp = 1 then fld a 0 30 else a.toNat))
    else if sp = 0 then .next (s.atomLocal c t op rd (scrMask a) (x.r rb))
    else if sp = 1 then .next (send s q)
    else if !s.coreAlloc c a 8 then .next (s.trap c t 0x0287 a.toNat)
    else .next (send (s.prefetchDrop c a 8) { q with kind := .atom, addr := a }))

def execFence (c : CoreId) (t : CtxId) (rd ra rb : Reg) (fn : BitVec 14) (s : State) : Outc :=
  issue c t s (decide (rd = 0 ∧ ra = 0 ∧ rb = 0 ∧ fn = 0)) true (fun s =>
    .next ((s.waitIn c t .waitUnit .fence).settle c t))

/-- The prefetch entry that serves an RDA (R179). -/
def Core.pfMatch (k : Core) (a : Word) (n : Nat) : Option PfEntry :=
  if n = 128 then k.prefetch.find? (fun e => decide (e.addr = a) && !e.stale) else none

/-- An RDA that a prefetch entry serves takes no tag. -/
def State.pfJoin (s : State) (c t d : Nat) (e : PfEntry) : State :=
  let w := (t, (s.thr c t).inst, d)
  (s.modCore c (fun k => { k with prefetch := k.prefetch.map (fun x =>
    if x.id = e.id then { x with waits := x.waits ++ [w] } else x) })).bump (walkP c + 0xA8) 1

/-- The tag wait of an RDA or WRA that finds no usable tag: counted, and the instruction issues again (R56). -/
def State.tagWait (s : State) (c t : Nat) : State := (s.waitCycles (coreP c + 0x90)).waitIn c t .waitRead .reissue

/-- DESIGN CHOICE: of several exceptions that hold, MISALIGNED comes first, then CODE_WRITE, then TIER_DENIED
(log entry 49). -/
def execRda (c : CoreId) (t : CtxId) (rd ra rb : Reg) (fn : BitVec 14) (s : State) : Outc :=
  issue c t s (decide (rd = 0 ∧ fn.toNat < 4096)) false (fun s =>
    let x := s.thr c t
    let d := scrMask (x.r ra)
    let a := x.r rb
    let n := fn.toNat + 1
    let rg := s.rangeFor ((s.coreOwner c).getD 16) a
    let sl := storedLen rg a n
    let up (x : Thread) : Thread := { x with reads := x.reads + 1 }
    if d % 8 ≠ 0 ∨ 0x400000 < d + n then .next (s.trap c t 0x0282 d)
    else if s.codeBarred c t d n then .next (s.trap c t 0x0281 d)
    else if !s.coreAlloc c a (max 1 sl) then .next (s.trap c t 0x0287 a.toNat)
    else if 255 ≤ x.reads then .next (s.waitIn c t .waitRead .reissue)
    else match (s.core c).pfMatch a n with
      | some e => .next ((s.pfJoin c t d e).adv c t up)
      | none =>
        if !s.tagUsable c (!isHart t && (s.grp c x.group).rt) then .next (s.tagWait c t)
        else
          let q : Req := { s.accessOf c t .rda 0 a with loc := d, len := n, exp := (rg.map (·.1)).getD 0, range := rg.map (·.2.words) }
          .next ((s.newReq q).2.adv c t up))

/-- The words of a WRA source that are sent as poisoned (R89). -/
def Core.badWords (k : Core) (a n : Nat) : Tab Bool :=
  (Core.words a n).foldl (fun t w =>
    Tab.set (fun _ => false) t (w - a / 8)
      (Tab.get (fun _ => false) k.poison w || decide (2 ≤ Tab.get (fun _ => 0) k.ecc w))) Tab.empty

/-- DESIGN CHOICE: of two misaligned addresses CORE_FAULT_ADDR takes the scratch one's (log entry 93). -/
def execWra (c : CoreId) (t : CtxId) (rd ra rb : Reg) (fn : BitVec 14) (s : State) : Outc :=
  issue c t s (decide (rd = 0 ∧ fn.toNat < 4096)) true (fun s =>
    let x := s.thr c t
    let d := scrMask (x.r ra)
    let a := x.r rb
    let n := fn.toNat + 1
    let rg := s.rangeFor ((s.coreOwner c).getD 16) a
    let sl := storedLen rg a n
    if d % 64 ≠ 0 ∨ n % 64 ≠ 0 ∨ 0x400000 < d + n then .next (s.trap c t 0x0282 d)
    else if a.toNat % 64 ≠ 0 then .next (s.trap c t 0x0282 a.toNat)
    else if !s.coreAlloc c a (max 1 sl) then .next (s.trap c t 0x0287 a.toNat)
    else if 255 ≤ x.writes then .next (s.waitIn c t .waitRead .reissue)
    else if !s.tagUsable c (!isHart t && (s.grp c x.group).rt) then .next (s.tagWait c t)
    else
      -- the source lines are read: corrected errors are counted (R60)
      let s0 := s.bump (coreP c + 0x98) ((s.core c).check d n).1
      let q : Req := { s.accessOf c t .wra 0 a with
        loc := d, len := n, exp := (rg.map (·.1)).getD 0, range := rg.map (·.2.words), old := Mem.ofBytes (s.scr c d n), oldBad := (s.core c).badWords d n }
      .next (((s0.prefetchDrop c a (max 1 sl)).newReq q).2.adv c t (fun x => { x with writes := x.writes + 1 })))

def execWaitr (c : CoreId) (t : CtxId) (rd ra : Reg) (k : BitVec 18) (s : State) : Outc :=
  issue c t s (decide (rd = 0 ∧ ra = 0 ∧ k.toNat < 256)) false (fun s =>
    .next ((s.waitIn c t .waitRead (.reads k.toNat)).settle c t))

end Sys2Proof.Machine
end

