-- ==== Sys2Proof/Machine/ThreadUnit.lean ====
section
/-! DEFINITION. Unit opcodes: engines, Collator, visited sets, heaps, hash (R64 to R69, R93 to R95, R180, R181). -/

namespace Sys2Proof.Machine

/-- The engine that an ESUB names: FN[3:0], or with ANY the one with the fewest descriptors, lower number first. -/
def Core.pickEngine (k : Core) (fn : Nat) : Nat :=
  if fn < 16 then fn
  else (List.range 16).foldl (fun b e => if (k.eng e).depth < (k.eng b).depth then e else b) 0

/-- The queue accepts a descriptor: the next number modulo 2^16, its status among the last 4,096 (R94). -/
def Engine.accept (x : Engine) (d : QDesc) : Engine :=
  { x with queue := x.queue ++ [d], seq := (x.seq + 1) % 65536, log := ((d.seq, none) :: x.log).take 4096 }

/-- With ANY = 1 the operation does not use FN[3:0], which must be zero (R79). -/
def execEsub (c : CoreId) (t : CtxId) (rd ra rb : Reg) (fn : BitVec 14) (s : State) : Outc :=
  issue c t s (decide (rb = 0 ∧ fn.toNat ≤ 16)) false (fun s =>
    let x := s.thr c t
    let a := scrMask (x.r ra)
    if a % 64 ≠ 0 then .next (s.trap c t 0x0282 a)
    else
      let e := (s.core c).pickEngine fn.toNat
      let en := (s.core c).eng e
      if 16 ≤ en.depth then .next (s.waitIn c t .waitEngine .reissue)
      else .next (s.scrUse c t a 64 (fun s =>
        let d : QDesc := ⟨s.scr c a 64, t, x.pc, x.group, (s.grp c x.group).gen, x.spec, x.hop,
          (s.grp c x.group).specEpoch, en.seq, 2 * s.nextId + 1⟩
        (({ s with nextId := s.nextId + 1 } : State).modCore c (fun k => k.setEng e (en.accept d))).retire c t rd (BitVec.ofNat 64 (e + en.seq * 16)))))

/-- Status of a ticket: held, pending, or EXPIRED where the engine does not hold it (R94). DESIGN CHOICE: bits 63:20, zero
in every ticket that ESUB gives, are ignored (log entry 51). -/
def Core.ticket (k : Core) (w : Word) : Option (Option Nat) :=
  ((k.eng (fld w 0 4)).log.find? (fun p => decide (p.1 = fld w 4 16))).map (·.2)

def execEwait (c : CoreId) (t : CtxId) (rd ra rb : Reg) (fn : BitVec 14) (s : State) : Outc :=
  issue c t s (decide (rb = 0 ∧ fn = 0)) false (fun s =>
    let w := (s.thr c t).r ra
    match (s.core c).ticket w with
    | none => .next (s.retire c t rd 0x10000)
    | some (some st) => .next (s.retire c t rd (BitVec.ofNat 64 st))
    | some none => .next (s.waitIn c t .waitEngine (.engine rd.val (fld w 0 20))))

/-- Whether inserting into list `l` for `group` is the misuse of R506: not configured, or open for another group. A hart
belongs to no group, so any list that is configured is open to it (R80, R93). -/
def State.foreignList (s : State) (c l : Nat) (group : Option Nat) : Bool :=
  let x := (s.core c).list l
  decide (lcK (s.listCfg c l) = 0) || (x.isOpen && (match group with
    | some g => decide (g ≠ x.owner)
    | none => false))

/-- A misuse of R506 by the instruction: it completes with a free result, and R504 holds for the partition. -/
def State.misused (s : State) (c t : Nat) (rd : Reg) : State :=
  (({ s with free := s.free + 1 } : State).retire c t rd (Config.freeWord s.free)).misuse c

/-- With USE_GROUP = 1 the operation does not use FN[5:0], which must be zero (R79). The Collator serves the engines that
come before CINS in its order first (R121). -/
def execCins (c : CoreId) (t : CtxId) (rd ra rb : Reg) (fn : BitVec 14) (s : State) : Outc :=
  let useGrp := bit fn.toNat 6
  issue c t s (decide (fn.toNat ≤ 64) && !(useGrp && isHart t)) false (fun s =>
    let x := s.thr c t
    let l := if useGrp then (s.grp c x.group).colList else fn.toNat % 64
    if s.foreignList c l (if isHart t then none else some x.group) then .next (s.misused c t rd)
    else
      let r := ((s.serveAhead c).modCore c (·.served 16)).colTake c l x.spec x.hop (x.r ra) (f32 (x.r rb))
      .next (r.1.retire c t rd (if r.2 then 1 else 0)))

/-- `[base, base + n)` runs past scratch or meets the code region (R506). -/
def State.badArea (s : State) (c base n : Nat) : Bool := decide (0x400000 < base + n) || s.inCode c base n

/-- DESIGN CHOICE: a LOG2 that GST has put outside 12 to 22 (for a heap, 6 to 16) is taken as the 5-bit number that it is
(log entry 93). -/
def execVts (c : CoreId) (t : CtxId) (rd ra rb : Reg) (fn : BitVec 14) (s : State) : Outc :=
  issue c t s (decide (rb = 0 ∧ fn = 0) && !isHart t) false (fun s =>
    let x := s.thr c t
    let g := s.grp c x.group
    let base := g.f 16 2 * 64
    let b := bits (g.f 18 1) 0 5
    if s.badArea c base (max 1 (2 ^ b / 8)) then .next (s.misused c t rd)
    else
      let i := visitedBit (BitVec.ofNat 64 (g.f 40 8)) (x.r ra) b
      let s := s.setRead c base i
      let k := s.core c
      if k.setLost base i then
        .next (({ s with free := s.free + 1 } : State).retire c t rd (if Config.freeBit s.free then 1 else 0))
      else if k.testBit base i || k.held.any (fun h => decide (h.1 = x.group ∧ h.2.2 = i)) then .next (s.retire c t rd 1)
      else if !x.spec then .next ((s.modCore c (·.setBit base i)).retire c t rd 0)
      else if 4096 ≤ k.held.length then .next ((s.waitCycles (walkP c + 0x98)).waitIn c t .waitUnit .reissue)
      else .next ((s.modCore c (fun k => { k with held := k.held ++ [(x.group, x.hop, i)] })).retire c t rd 0))

/-- HEAP of a group: base address, LOG2, ORDER = MAX (R53, R67). -/
def Group.heapCfg (g : Group) : Nat × Nat × Bool := (g.f 20 2 * 64, bits (g.f 22 1) 0 5, bit (g.f 22 1) 5)

/-- What HPUSH leaves in the group and its status (R67, R68). DESIGN CHOICE: the arrangement of the entries in scratch is
not defined, and the model leaves the scratch bytes at HEAP.BASE as they were (log entry 44). -/
def Group.push (g : Group) (id : Word) (key : F32) : Group × Nat :=
  let h := g.heapCfg
  if isNaN32 key || decide (2 ^ h.2.1 ≤ g.heap.length) then (g, 1)
  else ({ g with heap := insertHeap h.2.2 ⟨id, key, g.heapSeq⟩ g.heap, heapSeq := g.heapSeq + 1 }, 0)

/-- DESIGN CHOICE: a NaN key pushed to a full heap counts as a NaN push only (log entry 45). -/
def execHpush (c : CoreId) (t : CtxId) (rd ra rb : Reg) (fn : BitVec 14) (s : State) : Outc :=
  issue c t s (decide (fn = 0) && !isHart t) true (fun s =>
    let x := s.thr c t
    let g := s.grp c x.group
    let h := g.heapCfg
    if s.badArea c h.1 (2 ^ h.2.1 * 16) then .next (s.misused c t rd)
    else
      let key := f32 (x.r rb)
      let r := g.push (x.r ra) key
      let s1 := s.modGrp c x.group (fun _ => r.1)
      let s2 := if isNaN32 key then s1.bump (coreP c + 0xB8) 1
        else if r.2 = 1 then s1.bump (coreP c + 0xB0) 1 else s1
      .next ((s2.prefetchAfter c x.group).retire c t rd (BitVec.ofNat 64 r.2)))

/-- What HPOP takes: ID, key, status, and the group after it (R67, R68). -/
def Group.pop (g : Group) : Group × Word × F32 × Nat :=
  match g.heap with
  | e :: r => ({ g with heap := r }, e.id, e.key, 0)
  | [] => (g, BitVec.allOnes 64, if g.heapCfg.2.2 then 0xFF800000#32 else 0x7F800000#32, 1)

/-- RD takes the ID, then the register of field 17:14 the status and key. DESIGN CHOICE: where both name one register, the
status and key stand in it (log entry 93). -/
def execHpop (c : CoreId) (t : CtxId) (rd ra rb : Reg) (fn : BitVec 14) (s : State) : Outc :=
  issue c t s (decide (ra = 0 ∧ fn = 0) && !isHart t) true (fun s =>
    let x := s.thr c t
    let g := s.grp c x.group
    let h := g.heapCfg
    if s.badArea c h.1 (2 ^ h.2.1 * 16) then
      .next ((({ s with free := s.free + 1 } : State).modThr c t (fun x => x.setR rb (Config.freeWord s.free))).misused c t rd)
    else
      let r := g.pop
      let s1 := (s.modGrp c x.group (fun _ => r.1)).prefetchAfter c x.group
      .next (s1.adv c t (fun x =>
        (x.setR rd r.2.1).setR rb (BitVec.ofNat 64 (r.2.2.2 * 2 ^ 32 + r.2.2.1.toNat)))))

def execHash (c : CoreId) (t : CtxId) (rd ra rb : Reg) (fn : BitVec 14) (s : State) : Outc :=
  issueR c t s (decide (fn.toNat < 64)) rd (fun x =>
    let p := x.r ra * (x.r rb ||| 1)
    if fn.toNat = 0 then p else p >>> (64 - fn.toNat))

end Sys2Proof.Machine
end

