-- ==== Sys2Proof/Machine/ThreadGroup.lean ====
section
/-! DEFINITION. Threads, groups, events, hart-only and speculation opcodes (R52 to R55, R96 to R105, R137). -/

namespace Sys2Proof.Machine

/-- Result of a spawn or a group creation that fails: status in bit 63. -/
def failBit : Word := 1#64 <<< 63

/-- Starts a thread of group `g` in context `n`: PC, g1 (R96, R99). -/
def State.startThread (s : State) (c n g : Nat) (pc : BitVec 16) (g1 : Word) (spec : Bool) (hop : Nat) : State :=
  let old := s.thr c n
  (s.setThr c n (({ ({} : Thread) with inst := old.inst, pc := pc, st := .ready, group := g, spec := spec, hop := hop } : Thread).setRn 1 g1)).modGrp
    c g (fun x => x.setF 26 2 (x.liveThreads + 1))

/-- A thread spawns in its own group; a hart names the group in RD. DESIGN CHOICE: naming no live group, or one whose kill is
under way, fails and is not counted; which free context is claimed is a free choice (log entry 55). -/
def execSpawn (c : CoreId) (t : CtxId) (rd ra rb : Reg) (fn : BitVec 14) (s : State) : Outc :=
  issue c t s (decide (fn = 0)) false (fun s =>
    let x := s.thr c t
    let g := if isHart t then (x.r rd).toNat else x.group
    let free := (List.range 8192).filter (fun n => decide ((s.thr c n).st = .free))
    if 1024 ≤ g ∨ !(s.grp c g).live ∨ (s.grp c g).killed then .next (s.retire c t rd failBit)
    else
      let r := s.choose free
      match r.1 with
      | none => .next ((s.bump (coreP c + 0xC8) 1).retire c t rd failBit)
      | some n =>
        .next ((r.2.startThread c n g ((x.r ra).setWidth 16) (x.r rb) x.spec x.hop).retire c t rd (BitVec.ofNat 64 n)))

/-- GEVT, FN[0] = 0: continues at once where the count differs from RA[15:0], else sleeps (R98). -/
def execGwait (c : CoreId) (t : CtxId) (rd ra rb : Reg) (hi : BitVec 13) (s : State) : Outc :=
  issue c t s (decide (rb = 0 ∧ hi = 0) && !isHart t) false (fun s =>
    let x := s.thr c t
    let n := (s.grp c x.group).events
    if (x.r ra).setWidth 16 = n then .next (s.waitIn c t .sleep (.event rd.val))
    else .next (s.retire c t rd (n.setWidth 64)))

/-- GEVT, FN[0] = 1. -/
def execGsig (c : CoreId) (t : CtxId) (rd ra rb : Reg) (hi : BitVec 13) (s : State) : Outc :=
  issue c t s (decide (ra = 0 ∧ rb = 0 ∧ hi = 0) && !isHart t) true (fun s =>
    let g := (s.thr c t).group
    let s1 := s.gsig c g
    .next (s1.retire c t rd ((s1.grp c g).events.setWidth 64)))

/-- The group that a GRP reaches: a thread's own, or the live one that a hart names in RA (R96, R97). -/
def State.grpNamed (s : State) (c t : Nat) (ra : Reg) : Option Nat :=
  let x := s.thr c t
  let g := if isHart t then (x.r ra).toNat else x.group
  if g < 1024 ∧ (s.grp c g).live then some g else none

/-- GRP with SX = 0. -/
def execGld (c : CoreId) (t : CtxId) (rd ra : Reg) (size : Fin 4) (off : BitVec 15) (s : State) : Outc :=
  issue c t s true false (fun s =>
    let n := sizeOf size
    match s.grpNamed c t ra with
    | none => .next (s.retire c t rd 0)
    | some g =>
      if 64 ≤ off.toNat ∨ off.toNat % n ≠ 0 then .next (s.trap c t 0x0282 0)
      else .next (s.retire c t rd (BitVec.ofNat 64 ((s.grp c g).f off.toNat n))))

/-- Bits of group descriptor byte `i` that a GST writes (R53): none in a reserved byte. -/
def grpMask (i : Nat) : Byte :=
  if i = 18 then 0x1F
  else if i = 22 ∨ i = 24 then 0x3F
  else if i = 25 then 0x07
  else if i = 19 ∨ i = 23 ∨ (36 ≤ i ∧ i < 40) then 0
  else 0xFF

/-- A byte of a Desk or Hardware field (R53, R54). -/
def grpRo (i : Nat) : Bool := decide (i < 16 ∨ (26 ≤ i ∧ i < 36))

/-- Writes descriptor bytes; bit 0 of VISITED_SEED stays 1; a write of the HEAP field empties the heap (R53, R67). -/
def Group.store (g : Group) (off : Nat) (bs : List Byte) : Group :=
  let ms := ((List.range bs.length).zip bs).map (fun p => (p.2 &&& grpMask (off + p.1)) ||| (if off + p.1 = 40 then 1 else 0))
  { g with
    desc := Mem.putBytes g.desc off ms
    heap := if off < 24 ∧ 20 < off + bs.length then [] else g.heap }

/-- A write of COL_LIST by context `t` (R137): opens the list, or seals the group's open list first, which the
thread waits for. The GST's other bytes are in place. Binding a list that is open for another group is a misuse (R506). -/
def State.bindList (s : State) (c t g l : Nat) : Outc :=
  let own := (s.core c).ownLists g
  let x := (s.core c).list l
  if x.isOpen ∧ x.owner ≠ g then .next ((s.adv c t id).misuse c)
  else match own with
    | o :: _ => .next ((s.modCore c (fun k => k.setList o { k.list o with sealing := true, reopen := some (l, t) })).waitIn
        c t .waitUnit .rebind)
    | [] => .next ((if lcK (s.listCfg c l) = 0 then s else s.openList c l g).adv c t id)

/-- GRP with SX = 1 (R54, R97, R137). -/
def execGst (c : CoreId) (t : CtxId) (rb ra : Reg) (size : Fin 4) (off : BitVec 15) (s : State) : Outc :=
  issue c t s true true (fun s =>
    let n := sizeOf size
    let o := off.toNat
    match s.grpNamed c t ra with
    | none => .next (s.adv c t id)
    | some g =>
      if 64 ≤ o ∨ o % n ≠ 0 then .next (s.trap c t 0x0282 0)
      else if (List.range n).any (fun i => grpRo (o + i)) then .next (s.trap c t 0x0286 0)
      else if o ≤ 24 ∧ 24 < o + n then
        -- a Collator that takes no bindings, or an earlier binding of the group that waits for its seal
        if (s.reg (colP c + 8)).getLsbD 1 || ((s.core c).ownLists g).any (fun l => ((s.core c).list l).reopen.isSome) then
          .next (s.waitIn c t .waitUnit .reissue)
        else
          let s1 := s.modGrp c g (·.store o (leBytes n ((s.thr c t).r rb).toNat))
          s1.bindList c t g (s1.grp c g).colList
      else .next ((s.modGrp c g (·.store o (leBytes n ((s.thr c t).r rb).toNat))).adv c t id))

/-- A place in the core's work queue is free again (R197). -/
def Core.freeHandles (k : Core) : List Nat :=
  (List.range 64).filter (fun i => decide (Tab.get (fun _ => none) k.handles i = none))

def execWqtake (c : CoreId) (t : CtxId) (rd ra rb : Reg) (fn : BitVec 14) (s : State) : Outc :=
  issue c t s (decide (rb = 0 ∧ fn = 0) && isHart t) false (fun s =>
    let a := scrMask ((s.thr c t).r ra)
    if a % 64 ≠ 0 then .next (s.trap c t 0x0282 a)
    else
      let r := s.choose (s.core c).freeHandles
      match (s.core c).workq, r.1 with
      | w :: q, some h =>
        .next ((r.2.modCore c (fun k =>
          { k.write a w with workq := q, handles := Tab.set (fun _ => none) k.handles h (some (t.val - 8192, w)) })).retire
            c t rd (BitVec.ofNat 64 h))
      | _, _ => .next (s.waitIn c t .waitUnit .reissue))

/-- Creates a group from the work item with handle RA: bytes 0 to 15 are its stamps (R53, R100, R196). DESIGN CHOICE: bit 0 of
VISITED_SEED, forced to 1 by R53, is 1 from the start although R100 makes the other fields zero (log entry 93). -/
def execGnew (c : CoreId) (t : CtxId) (rd ra rb : Reg) (fn : BitVec 14) (s : State) : Outc :=
  issue c t s (decide (rb = 0 ∧ fn = 0) && isHart t) false (fun s =>
    let h := ((s.thr c t).r ra).toNat
    match Tab.get (fun _ => none) (s.core c).handles h with
    | none => .next (s.retire c t rd failBit)
    | some (hart, w) =>
      if hart ≠ t.val - 8192 ∨ 64 ≤ h then .next (s.retire c t rd failBit)
      else
        let r := s.choose ((List.range 1024).filter (fun g => !(s.grp c g).live))
        match r.1 with
        | none => .next ((s.bump (coreP c + 0xC8) 1).retire c t rd failBit)
        | some g =>
          let s1 := r.2.modGrp c g (fun x => {
            gen := x.gen + 1, live := true, desc := Mem.putBytes (Mem.ofBytes (w.take 16)) 40 [1]
            kind := bAt w 16, step := leAt w 20 4 })
          let s2 := s1.modCore c (fun k => { k with
            handles := Tab.set (fun _ => none) k.handles h none, sealed := Tab.set (fun _ => none) k.sealed g none })
          .next ((s2.wakeUnit c).retire c t rd (BitVec.ofNat 64 g)))

/-- GCTL, FN[0] = 0: marks the group done and asks for the seal of its list (R55, R100, R138). -/
def State.markDone (s : State) (c g : Nat) : State :=
  let s1 := s.modGrp c g (fun x => { x with done := true })
  let s2 := ((s1.core c).ownLists g).foldl (fun s l =>
    s.modCore c (fun k => k.setList l { k.list l with sealing := true })) s1
  s2.tryFree c g

/-- DESIGN CHOICE: a GDONE or GKILL that names no live group does nothing (log entry 93). -/
def execGdone (c : CoreId) (t : CtxId) (rd ra rb : Reg) (hi : BitVec 13) (s : State) : Outc :=
  issue c t s (decide (rd = 0 ∧ rb = 0 ∧ hi = 0) && isHart t) false (fun s =>
    let g := ((s.thr c t).r ra).toNat
    if g < 1024 ∧ (s.grp c g).live ∧ !(s.grp c g).killed then
      let s1 := if (s.grp c g).done then s else s.layerGdone c (s.grp c g)
      .next ((s1.markDone c g).adv c t id)
    else .next (s.adv c t id))

/-- GCTL, FN[0] = 1; of a number without a live group as GDONE. -/
def execGkill (c : CoreId) (t : CtxId) (rd ra rb : Reg) (hi : BitVec 13) (s : State) : Outc :=
  issue c t s (decide (rd = 0 ∧ rb = 0 ∧ hi = 0) && isHart t) false (fun s =>
    let g := ((s.thr c t).r ra).toNat
    if g < 1024 then .next ((s.killGroup c g).adv c t id) else .next (s.adv c t id))

/-- Opens a hop (R101). -/
def execSpecb (c : CoreId) (t : CtxId) (rd ra rb : Reg) (fn : BitVec 14) (s : State) : Outc :=
  issue c t s (decide (ra = 0 ∧ rb = 0 ∧ fn = 0) && !isHart t) false (fun s =>
    let gi := (s.thr c t).group
    let g := s.grp c gi
    if g.hops < g.deckle then
      .next ((s.modGrp c gi (fun g => { g with hops := g.hops + 1 })).adv c t
        (fun x => { x.setR rd (BitVec.ofNat 64 (g.hops + 1)) with spec := true, hop := g.hops + 1 }))
    else .next (s.retire c t rd 0))

/-- Commits hop 1 (R102, R182); the result is written before a held fault can end the group. -/
def execSpecc (c : CoreId) (t : CtxId) (rd ra rb : Reg) (fn : BitVec 14) (s : State) : Outc :=
  issue c t s (decide (ra = 0 ∧ rb = 0 ∧ fn = 0) && !isHart t) true (fun s =>
    let gi := (s.thr c t).group
    if (s.grp c gi).hops = 0 then .next (s.retire c t rd 0)
    else .next (((s.retire c t rd 1).bump (walkP c + 0x80) 1).commitHop c gi))

/-- Squash (R103, R183). -/
def execSpecx (c : CoreId) (t : CtxId) (rd ra rb : Reg) (fn : BitVec 14) (s : State) : Outc :=
  issue c t s (decide (ra = 0 ∧ rb = 0 ∧ fn = 0) && !isHart t) true (fun s =>
    let gi := (s.thr c t).group
    let s1 := s.squash c gi
    .next (s1.retire c t rd (BitVec.ofNat 64 (s1.grp c gi).specEpoch)))

end Sys2Proof.Machine
end

