-- ==== Sys2Proof/Machine/CoreEvents.lean ====
section
/-! DEFINITION. Events of a core: freed contexts, arriving data, remote accesses, hart control, commit, core reset and
zeroing (R49 to R52, R56, R61 to R63, R73 to R75, R88, R89, R94, R134, R139, R183, R185). -/

namespace Sys2Proof.Machine

/-- A killed or squashed context reaches its scheduling point (R49, R106): at once, but for a remote access or ATOM
that has not returned. -/
def execContextFree (c : CoreId) (t : CtxId) (s : State) : Outc :=
  let x := s.thr c t
  let waits := match x.wait with
    | .access i => (s.req i).isSome
    | _ => false
  if !x.marked || decide (x.st = .free) || waits then .next s
  else
    let s1 := if (s.grp c x.group).killed then s.bump (coreP c + 0xA8) 1 else s
    .next (s1.endThread c t)

/-! ### Arriving data (R50, R72, R88, R183) -/

/-- The context that issued a request is still the same thread. -/
def State.sameThread (s : State) (r : Req) : Bool :=
  decide ((s.thr r.core r.ctx).inst = r.inst) && decide ((s.thr r.core r.ctx).st ≠ .free)
/-- It takes the data: neither killed, squashed nor faulted (R50). -/
def State.takesData (s : State) (r : Req) : Bool :=
  s.sameThread r && !(s.thr r.core r.ctx).marked && decide ((s.thr r.core r.ctx).st ≠ .faulted) && !r.cancelled

/-- The first line or block of request `i` reaches its tier or Expander: the range entries in force then are the ones that
it uses (R259), and one that R251 refuses is counted. DESIGN CHOICE: a request whose stored bytes then lie outside the
allocation reads as poison and writes nothing (log entry 63). -/
def State.reach (s : State) (i : Nat) : State :=
  match s.req i with
  | none => s
  | some r =>
    if r.reached then s
    else
      let thread : Bool := match r.kind with
        | .rda | .wra => true
        | _ => false
      let rg : Option (Nat × Range) := if thread then s.rangeFor r.part r.addr else none
      let r1 := { r with
        reached := true
        range := if thread then rg.map (fun (x : Nat × Range) => x.2.words) else r.range
        exp := if thread then (rg.map (fun (x : Nat × Range) => x.1)).getD 0 else (s.expOf r.part r.addr).getD 0 }
      let r2 := { r1 with refused := thread && !s.inAlloc r.part r.addr (max 1 (r1.storedEnd - r1.addr.toNat % 64)) }
      (if r1.rng.isSome && r1.blks.isNone then s.bump (expP r1.exp + 0x1A0) 1 else s).setReq i (some r2)

/-- Destination line `k` of an RDA: scratch address and the offsets in the data `[lo, hi)`. -/
def Req.destLine (r : Req) (k : Nat) : Nat × Nat × Nat :=
  let a := (r.loc / 64 + k) * 64
  let lo := max r.loc a
  (lo, lo - r.loc, min (r.loc + r.len) (a + 64) - r.loc)
def Req.nDest (r : Req) : Nat := (linesOf r.loc r.len).length

/-- Block `b` has left its Expander: it is decoded, and so are the request's blocks before it there (R248). -/
def State.blkLeft (s : State) (r : Req) (b : Nat) : Bool :=
  (List.range (b + 1)).all (fun k => Tab.get (fun _ => false) r.blocks k || decide (s.blkExp r k ≠ s.blkExp r b))
    && Tab.get (fun _ => false) r.blocks b

/-- The data at offset `o` of an RDA: present or not, its byte, and whether it is poisoned. -/
def State.dataAt (s : State) (r : Req) (o : Nat) : Option (Byte × Bool) :=
  match r.rng with
  | none =>
    let p := r.addr.toNat % 64 + o
    if r.refused then some (0, true)
    else if r.lineDone (p / 64) then some (Mem.rd r.stored p, Tab.get (fun _ => false) r.storedBad (p / 64)) else none
  | some g =>
    if r.blks = none then some (0, true)
    else if s.blkLeft r (o / g.outBytes) then some (Mem.rd r.out o, Tab.get (fun _ => false) r.outBad o)
    else none

/-- Writes arriving bytes to scratch and marks the words of the poisoned ones. -/
def Core.deliver (k : Core) (a : Nat) (ds : List (Byte × Bool)) : Core :=
  let k1 := k.write a (ds.map (·.1))
  (List.range ds.length).foldl (fun k i => if (ds.getD i (0, false)).2 then k.mark (a + i) 1 else k) k1

/-- One read of the thread is complete: READS falls by one. -/
def State.readDone (s : State) (c t inst : Nat) : State :=
  if (s.thr c t).inst = inst ∧ (s.thr c t).st ≠ .free then
    (s.modThr c t (fun x => { x with reads := x.reads - 1 })).settle c t
  else s

/-- Ends an RDA: its tag is free, a cancelled read is counted (R56, R88, R183). -/
def State.rdaEnd (s : State) (i : Nat) (r : Req) : State :=
  let s1 := s.setReq i none
  let s2 := if r.cancelled then s1.bump (walkP r.core + 0x90) 1 else s1
  (s2.readDone r.core r.ctx r.inst).tagFreed r.core

/-- The step that a weight read belongs to still awaits it (R202). -/
def State.awaitsWeight (s : State) (i : Nat) (r : Req) : Bool :=
  match (s.dk r.part).step with
  | some x => x.wreq.contains i
  | none => false

/-- Tags of the chip-level blocks in use: each weight read holds one (R56). -/
def State.chipTags (s : State) : Nat :=
  (s.reqs.keys.filter (fun i => match s.req i with
    | some r => decide (r.kind = .weight)
    | none => false)).length

/-- Issues the weight reads of a partition's step that find a chip-level tag: 512 of the 4,096 belong to each Gather unit (R56,
R202, R285). -/
def State.issueFor (s : State) (p : Nat) : State :=
  match (s.dk p).step with
  | none => s
  | some x =>
    let n := 4096 - 4 * 512 - s.chipTags
    (x.todo.take n).foldl (fun s r =>
      let t := s.newReq r
      t.2.modStep p (fun x => { x with wreq := x.wreq ++ [t.1] }))
      (s.modStep p (fun x => { x with todo := x.todo.drop n }))

/-- Tags are free: the partitions' weight reads take them. DESIGN CHOICE: in ascending order of the partitions
(log entry 58). -/
def State.issueWeights (s : State) : State := (List.range 16).foldl (fun s p => s.issueFor p) s

/-- Destination line `k` of read `i` is written once its data is there; after the last one the read ends. Poison in a
weight read fails its step at the layer boundary (R203). -/
def execReadDataReturn (i : Nat) (k : Nat) (s0 : State) : Outc :=
  let s := s0.reach i
  match s.req i with
  | none => .next s0
  | some r =>
    let d := r.destLine k
    let data := (List.range (d.2.2 - d.2.1)).filterMap (fun o => s.dataAt r (d.2.1 + o))
    let weight := decide (r.kind = .weight)
    if (r.kind ≠ .rda ∧ !weight) ∨ r.nDest ≤ k ∨ Tab.get (fun _ => false) r.written k = true ∨
        data.length ≠ d.2.2 - d.2.1 then .next s0
    else
      let r1 := { r with written := Tab.set (fun _ => false) r.written k true }
      let takes := if weight then s.awaitsWeight i r && decide (s.coreOwner r.core = some r.part) && s.coreReady r.core
        else s.takesData r
      let s1 := if takes then s.modCore r.core (·.deliver d.1 data) else s
      let s2 := if weight && takes && data.any (·.2) then s1.modStep r.part (fun x => { x with poison := true }) else s1
      if !(List.range r.nDest).all (fun k => Tab.get (fun _ => false) r1.written k) then .next (s2.setReq i (some r1))
      else if weight then
        .next ((s2.setReq i none).modStep r.part (fun x => { x with wreq := x.wreq.erase i })).issueWeights
      else .next (s2.rdaEnd i r)

/-- One write of the thread is acknowledged. -/
def State.writeDone (s : State) (r : Req) : State :=
  if s.sameThread r then
    (s.modThr r.core r.ctx (fun x => { x with writes := x.writes - 1 })).settle r.core r.ctx
  else s

/-- A WRA is acknowledged once all its stored lines are written (R89). -/
def execWriteAck (i : Nat) (s0 : State) : Outc :=
  let s := s0.reach i
  match s.req i with
  | none => .next s0
  | some r =>
    if r.kind = .wra ∧ (List.range r.nLines).all r.lineDone then
      .next (((s.setReq i none).writeDone r).tagFreed r.core)
    else .next s0

/-! ### Remote accesses (R62) -/

/-- An earlier access of the same thread to the same core that is still to be performed. -/
def State.remoteAhead (s : State) (i : Nat) (r : Req) : Bool :=
  s.reqs.keys.any (fun j => decide (j < i) && (match s.req j with
    | some q => decide (q.core = r.core ∧ q.ctx = r.ctx ∧ q.inst = r.inst ∧ (remote q.addr).1 = (remote r.addr).1) &&
        !q.answered && (match q.kind with
          | .rload | .rstore | .ratom => true
          | _ => false)
    | none => false))

/-- The target's answer: a value or a refusal (R60 to R62, R70, R92), and the target's state. -/
def State.atTarget (s : State) (r : Req) : State × Word × Nat :=
  let tc := (remote r.addr).1
  let a := (remote r.addr).2
  match r.kind with
  | .rstore =>
    if r.ctx < 8192 ∧ s.inCode tc a r.size then (s, 0, 0x0281)
    else (s.writeScr tc a (leBytes r.size r.a.toNat), 0, 0)
  | _ =>
    if r.kind = .ratom ∧ r.ctx < 8192 ∧ s.inCode tc a 8 then (s, 0, 0x0281)
    else
      let ch := (s.core tc).check a r.size
      let s1 := s.bump (coreP tc + 0x98) ch.1
      let v : Word := BitVec.ofNat 64 (s1.scrLe tc a r.size)
      if ch.2.1 then (s1, 0, 0x0285)
      else if ch.2.2 then (s1, 0, 0x0284)
      else if r.kind = .ratom then
        (match atomNew r.op v r.a r.b with
          | some w => s1.writeScr tc a (leBytes 8 w.toNat)
          | none => s1, v, 0)
      else (s1, v, 0)

def isRemote : ReqKind → Bool
  | .rload | .rstore | .ratom => true
  | _ => false

/-- The access is performed or refused at its target core. DESIGN CHOICE: CORE_REMOTE_DENIED_CNT counts the refusals of
R62's ownership test and not a CODE_WRITE refusal (log entry 46). -/
def execRemoteAccessAtTarget (i : Nat) (s : State) : Outc :=
  match s.req i with
  | none => .next s
  | some r =>
    let tc := (remote r.addr).1
    if !isRemote r.kind || r.answered || s.remoteAhead i r then .next s
    else if !Config.coreEnabled tc then .next (s.setReq i (some { r with answered := true, code := 0x0283 }))
    else if s.coreOwner tc ≠ some r.part then
      .next ((s.bump (coreP tc + 0xC0) 1).setReq i (some { r with answered := true, code := 0x0283 }))
    else if !s.coreReady tc then .next s
    else
      let q := s.atTarget r
      .next (q.1.setReq i (some { r with answered := true, b := q.2.1, code := q.2.2 }))

/-- The answer reaches the issuer: RD, a fault, or the acknowledgement of an RST. -/
def execRemoteResponse (i : Nat) (s : State) : Outc :=
  match s.req i with
  | none => .next s
  | some r =>
    let x := s.thr r.core r.ctx
    let s1 := s.setReq i none
    let waiting := match r.kind with
      | .rload | .ratom | .atom => true
      | _ => false
    if !(waiting || decide (r.kind = .rstore)) || !r.answered then .next s
    else if !s.sameThread r then .next s1
    else if r.kind = .rstore then
      if r.code ≠ 0 ∧ !x.marked ∧ x.st ≠ .faulted then
        .next ((s1.modThr r.core r.ctx (fun x => { x with writes := x.writes - 1 })).faultWith r.core r.ctx none 0 r.code r.pc r.addr)
      else .next (s1.writeDone r)
    else if x.marked then .next (s1.setThr r.core r.ctx { x with wait := .none })
    else if r.code ≠ 0 then
      .next (s1.faultWith r.core r.ctx (if x.spec then some x.hop else none) (2 * i + 1) r.code r.pc r.addr)
    else
      let v := if r.kind = .rload then loadExt r.sx r.size r.b.toNat else r.b
      .next (s1.modThr r.core r.ctx (fun x => (x.setRn r.rd v).complete))

/-! ### The CORE page -/

/-- CORE_OCCUPANCY: live contexts and live groups. -/
def Core.liveThreads (k : Core) : Nat :=
  (k.threads.keys.filter (fun t => decide (t < 8192) && decide ((k.thr t).st ≠ .free))).length
def Core.liveGroups (k : Core) : List Nat := k.groups.keys.filter (fun g => (k.grp g).live)
/-- HALTED of all four harts. -/
def State.hartsHalted (s : State) (c : Nat) : Bool := decide (fld (s.reg (coreP c + 0x48)) 8 4 = 15)

/-- STATUS.QUIESCED of a page (R157, R478). -/
def State.quiesced (s : State) (p : Page) : Bool :=
  (s.reg (p.base + 8)).getLsbD 1 &&
  (match p.ty with
   | .core => decide ((s.core p.inst).liveThreads = 0 ∧ (s.core p.inst).liveGroups = []) && s.hartsHalted p.inst
   | .collator => (List.range 64).all (fun l => !((s.core p.inst).list l).isOpen)
   | _ => true)

/-- Hart `h` starts at CORE_HART_ENTRY (R52). DESIGN CHOICE: g1 to g15, of which R52 says nothing, are zero then
(log entry 43). -/
def State.startHart (s : State) (c h : Nat) : State :=
  let entry := (s.reg (coreP c + 0x40)).extractLsb' 32 16
  let s1 := (s.setField (coreP c + 0x48) h 1 1).setField (coreP c + 0x48) (8 + h) 1 0
  (s1.modCore c (fun k => { k with hartDown := k.hartDown.erase h })).modThr c (8192 + h)
    (fun x => { ({} : Thread) with inst := x.inst + 1, pc := entry, st := .ready })

/-- A 4-byte write of CORE_HART_CTRL: RUN starts and stops harts, HART_FAULT is W1C. -/
def execHartRunWrite (f : Fn) (c : CoreId) (v : BitVec 32) (s : State) : Outc :=
  let s := s.access f
  let a := coreP c + 0x48
  if !s.seesPage f ⟨.core, c, coreP c⟩ then .next s
  else
    let s0 := s.setField a 16 4 (fld (s.reg a) 16 4 &&& (15 - fld v 16 4))
    .next ((List.range 4).foldl (fun s h =>
      let run := (s.reg a).getLsbD h
      if v.getLsbD h && !run then s.startHart c h
      else if !v.getLsbD h && run then s.haltHart c h
      else s) s0)

/-- CORE_CODE and CORE_TAG_RESERVE take effect (R73); a COMMIT during a core reset meets BUSY (R482). -/
def execCoreCommit (f : Fn) (c : CoreId) (s : State) : Outc :=
  let s := s.access f
  let p : Page := ⟨.core, c, coreP c⟩
  if s.seesPage f p && (s.core c).resetting then .next (s.setErr p.base 3)
  else .next (s.commit f p (fun s => if s.quiesced p then .ok else .notQuiesced) id)

/-! ### Core reset and change of OWNER -/

def State.zeroRegs (s : State) (l : List Nat) : State := l.foldl (fun s a => s.setReg a 0) s

/-- Every thread and hart stops and every group is freed; reads outstanding find no thread (R50, R75). -/
def State.stopCore (s : State) (c : Nat) : State :=
  let s1 := (s.core c).liveGroups.foldl (fun s g =>
    (s.modGrp c g (fun x => { x with killed := true, hops := 0 })).freeGroup c g) s
  let s2 := s1.modCore c (fun k => k.mapThr (fun x => { ({} : Thread) with inst := x.inst + 1 }))
  (s2.setField (coreP c + 0x48) 0 4 0).setField (coreP c + 0x48) 8 4 15

/-- Descriptors of an engine that a core reset aborts: DESC_ABORTED (R94). -/
def State.abortEngine (s : State) (c e : Nat) : State :=
  let s1 := s.dropDescs c e 0x0207 false (fun _ => true)
  s1.modCore c (fun k => k.setEng e { k.eng e with query := none, lut := none, bitmap := none })

/-- Core reset (R75, R94, R134, R139, R185). Its harts release their handles (R100). -/
def State.resetCore (s : State) (c : Nat) : State :=
  let s0 := (List.range 4).foldl (fun s h => s.releaseHandles c h) (s.stopCore c)
  let s1 := s0.zeroRegs (coreCounters c)
  let s2 := (s1.core c).engines.keys.foldl (fun s e => s.abortEngine c e) s1
  s2.modCore c (fun k => { k with
    lists := Tab.empty, held := [], faults := [], prefetch := [], sealed := Tab.empty, hartDown := [], resetting := true })

def execCoreSoftReset (f : Fn) (c : CoreId) (s : State) : Outc :=
  let s := s.access f
  if !s.seesPage f ⟨.core, c, coreP c⟩ then .next s else .next (s.resetCore c)

/-- STATUS.READY after a core reset (R75). -/
def execCoreResetReady (c : CoreId) (s : State) : Outc :=
  .next (s.modCore c (fun k => { k with resetting := false }))

/-- A core's stores as zeroing leaves them (R63). -/
def Core.zero (k : Core) : Core :=
  { k with
    threads := k.threads.keys.foldl (fun t i => Tab.set (fun _ => {}) t i { ({} : Thread) with inst := (k.thr i).inst }) k.threads
    groups := k.groups.keys.foldl (fun t i => Tab.set (fun _ => {}) t i { ({} : Group) with gen := (k.grp i).gen }) k.groups
    scratch := Tab.empty
    poison := Tab.empty
    ecc := Tab.empty }

/-- The core's OWNER changes: nothing of the last partition goes on, its counters and its fault record are zero, and
zeroing begins (R63, R94, R139, R157, R185). DESIGN CHOICE: what reaches the core's stores while it is zeroing finds zeros, so
that no data of the last partition is readable (log entry 93). -/
def State.ownerChange (s : State) (c : Nat) : State :=
  let s1 := (s.stopCore c).zeroRegs (coreCounters c ++ [coreP c + 0x58, coreP c + 0x60])
  let s2 := (List.range 64).foldl (fun s l =>
    let a := colP c + 0x200 + l * 8
    (s.setField a 0 9 0).setForce a (putFld (Tab.get regReset s.force a) 0 9 0)) s1
  s2.modCore c (fun k => { k.zero with
    lists := Tab.empty, held := [], faults := [], prefetch := [], sealed := Tab.empty, engines := Tab.empty,
    workq := [], handles := Tab.empty, tombs := [], freed := [], hartDown := [], zeroing := true, resetting := false })

/-- Loads WLK_ADJ_BASE of one slot: ADJ_BASE of the version in slot `v` of the partition, 0 where there is none (R161 to
R163). -/
def State.loadAdj (s : State) (c p v : Nat) : State :=
  let r := Tab.get (fun _ => []) (s.dk p).vrec v
  let h := wAt r 16
  if r = [] ∨ !s.inAlloc p h 128 then s.setReg (walkP c + 0x48 + v * 8) 0
  else
    let b := s.devRead p h 128
    b.1.setReg (walkP c + 0x48 + v * 8) (wAt b.2.1 16)

/-- Zeroing ends (R63): scratch, contexts and groups are zero, and the Desk has reloaded the tombstone store (R185). DESIGN
CHOICE: a hart whose RUN bit was written meanwhile starts then (log entry 93). -/
def execCoreZeroingDone (c : CoreId) (s : State) : Outc :=
  if !((s.core c).zeroing && s.coreClocked c) then .next s
  else
    let s0 := s.modCore c (fun k => { k.zero with zeroing := false })
    let s1 := (List.range 4).foldl (fun s h => if (s.reg (coreP c + 0x48)).getLsbD h then s.startHart c h else s) s0
    match s1.coreOwner c with
    | none => .next s1
    | some p =>
      .next ((List.range 4).foldl (fun s v => s.loadAdj c p v) (s1.modCore c (fun k => { k with tombs := (s.dk p).tombs })))

end Sys2Proof.Machine
end

