-- ==== Sys2Proof/Machine/Engine.lean ====
section
/-! DEFINITION. Engine descriptors: checks, streams, tiles, conversion, completion, and the Collator's takes
(R107 to R132, R140 to R143). -/

namespace Sys2Proof.Machine

/-- A descriptor that fills a Collator list. -/
def dToList (d : List Byte) : Bool := dStream d && !cwBit d 12

/-! ### Checks (R113 to R115, R117) -/

/-- Address fields within 22 bits (R114). -/
def addrsOk (d : List Byte) (l : List Nat) : Bool := l.all (fun o => decide (w4 d o < 2 ^ 22))

def scoreDim (d : List Byte) : Bool :=
  let n := dDim d
  match dFmt d with
  | .int8 | .e4m3 | .e5m2 => decide (1 ≤ n ∧ n ≤ 8192)
  | .int4 => decide (n % 2 = 0 ∧ 2 ≤ n ∧ n ≤ 16384)
  | .bf16 | .fp16 => decide (1 ≤ n ∧ n ≤ 4096)
  | .bin => decide (n % 8 = 0 ∧ 8 ≤ n ∧ n ≤ 65528)
  | _ => false

def streamValid (d : List Byte) : Bool :=
  let look := decide (cw d 0 3 = 2)
  let flt := cw d 9 2
  decide (cw d 42 22 = 0 ∧ flt ≠ 3) && zeroAt d 10 2
  && (!cwBit d 15 || decide (cw d 16 6 = 0))
  && (if cwBit d 13 then decide (w4 d 24 = 0) else zeroAt d 32 8)
  && (decide (flt ≠ 0) || (decide (w4 d 28 = 0) && zeroAt d 40 8))
  && (decide (flt ≠ 2) || (zeroAt d 44 4 && addrsOk d [40]))
  && (decide (flt = 1) || zeroAt d 48 8)
  && (cwBit d 41 || cwBit d 12 || decide (w4 d 56 = 0))
  && (cwBit d 14 || decide (w4 d 60 = 0))
  && addrsOk d [16, 20, 24, 28, 56, 60]
  && (if look then
        decide (cw d 7 2 = 0 ∧ cw d 14 1 = 0 ∧ cw d 28 6 = 0)
        && (match dFmt d with
            | .pq4 => decide (dDim d % 2 = 0 ∧ 2 ≤ dDim d ∧ dDim d ≤ 2048)
            | .pq8 => decide (1 ≤ dDim d ∧ dDim d ≤ 128)
            | _ => false)
      else
        scoreDim d && (if dFmt d = .bin then decide (cw d 7 2 = 3 ∧ cw d 22 6 = 0 ∧ cw d 28 6 = 0 ∧ cw d 14 1 = 0)
          else decide (cw d 7 2 ≠ 3)))

def matrixValid (d : List Byte) : Bool :=
  decide (cw d 7 15 = 0 ∧ cw d 28 14 = 0 ∧ cw d 56 8 = 0 ∧ cw d 3 4 ≤ 5 ∧ cw d 43 4 ≤ 6)
  && (!cwBit d 54 || decide (cw d 43 4 = 0))
  && decide (1 ≤ w4 d 8 ∧ w4 d 8 ≤ 65536)
  && (cwBit d 55 || decide (w4 d 28 = 0)) && (cwBit d 42 || decide (w4 d 32 = 0))
  && zeroAt d 36 28 && addrsOk d [12, 16, 20, 24, 28, 32]

def convertValid (d : List Byte) : Bool :=
  decide (cw d 7 35 = 0 ∧ cw d 47 17 = 0 ∧ (cw d 3 4 = 4 ∨ cw d 3 4 = 5 ∨ cw d 3 4 = 9) ∧ cw d 43 4 ≤ 6)
  && decide (1 ≤ w4 d 8 ∧ w4 d 8 ≤ 65536 ∧ 1 ≤ w4 d 12 ∧ w4 d 12 ≤ 65536 ∧ (cw d 43 4 ≠ 4 ∨ w4 d 12 % 2 = 0))
  && (cwBit d 42 || decide (w4 d 28 = 0)) && zeroAt d 32 32 && addrsOk d [16, 20, 24, 28]

def descValid (d : List Byte) (hart : Bool) : Bool :=
  match cw d 0 3 with
  | 0 | 2 => streamValid d && !(cwBit d 15 && hart)
  | 1 => matrixValid d
  | 3 => convertValid d
  | _ => false

/-- Operand and output ranges: address, bytes, alignment, output (R114, R117). -/
def descRanges (d : List Byte) : List (Nat × Nat × Nat × Bool) :=
  match cw d 0 3 with
  | 1 =>
    let pb := w4 d 8 * 16 * (dFmt d).bits / 8
    [(w4 d 12, pb, 64, false), (w4 d 16, pb, 64, false), (w4 d 20, 16, 1, false),
     (w4 d 24, 256 * (dOfmt d).bits / 8, 64, true)]
    ++ (if cwBit d 55 then [(w4 d 28, 64, 64, false)] else []) ++ (if cwBit d 42 then [(w4 d 32, 128, 8, true)] else [])
  | 3 =>
    let n := w4 d 8 * w4 d 12
    [(w4 d 16, n * (dFmt d).bits / 8, 64, false), (w4 d 20, w4 d 8, 1, false), (w4 d 24, n * (dOfmt d).bits / 8, 64, true)]
    ++ (if cwBit d 42 then [(w4 d 28, 8 * w4 d 8, 8, true)] else [])
  | m =>
    let n := dN d
    (if cwBit d 40 then
        (w4 d 16, if m = 2 then up (dDim d * dTab d) 64 + dDim d else dVec d, 64, false)
        :: (if cw d 9 2 = 2 then [(w4 d 40, 32, 32, false)] else [])
      else [])
    ++ [(w4 d 20, n * dVec d, 64, false)]
    ++ (if cwBit d 13 then [] else [(w4 d 24, 8 * n, 8, false)])
    ++ (if cw d 9 2 = 0 then [] else [(w4 d 28, 8 * n, 8, false)])
    ++ (if cwBit d 14 then [(w4 d 60, n, 1, false)] else [])
    ++ (if cwBit d 12 then
          (w4 d 56, 4 * n, 64, true) :: (if cwBit d 41 then [(up (w4 d 56 + 4 * n) 16, 16, 16, true)] else [])
        else if cwBit d 41 then [(w4 d 56, 16, 16, true)] else [])

def State.rangeOk (s : State) (c : Nat) (r : Nat × Nat × Nat × Bool) : Bool :=
  decide (r.1 % r.2.2.1 = 0 ∧ r.1 + r.2.1 ≤ 0x400000) && !(r.2.2.2 && decide (0 < r.2.1) && s.inCode c r.1 r.2.1)

/-- The check at the head of the queue: 0 where the descriptor may run (R117). DESIGN CHOICE: of several checks that fail, the
one with the lowest code gives the status (log entry 93). -/
def State.descCheck (s : State) (c : Nat) (en : Engine) (q : QDesc) : Nat :=
  let d := q.bytes
  let stream := dStream d
  let res := if cw d 0 3 = 2 then en.lut else en.query
  let resident := match res with
    | some r => decide (r.fmt = cw d 3 4 ∧ r.dim = dDim d)
    | none => false
  if !descValid d (isHart q.ctx) then 0x0201
  else if !(descRanges d).all (s.rangeOk c) then 0x0202
  else if stream && !cwBit d 40 && (!resident || (decide (cw d 9 2 = 2) && en.bitmap.isNone)) then 0x0203
  else if cw d 0 3 = 0 ∧ cw d 7 2 = 1 ∧ cw d 14 1 = 0 ∧ cw d 28 6 ≠ cw d 22 6 then 0x0204
  else 0

/-! ### Reads -/

/-- What an engine's read of scratch meets: 0, or 0x0285, 0x0284, with the address of the first such word, and how
many words were corrected (R60, R72, R91, R130). -/
def Core.meet (k : Core) (a n : Nat) : Nat × Nat × Nat :=
  let ch := k.check a n
  let first (p : Nat → Bool) : Nat := (((Core.words a n).find? p).getD 0) * 8
  if ch.2.1 then (0x0285, first (fun w => decide (2 ≤ Tab.get (fun _ => 0) k.ecc w)), ch.1)
  else if ch.2.2 then (0x0284, first (fun w => Tab.get (fun _ => false) k.poison w), ch.1)
  else (0, 0, ch.1)

/-- A stream under way. -/
structure Strm where
  code     : Nat := 0
  index    : Nat := 0xFFFFFFFF
  addr     : Nat := 0
  out      : List (Word × F32) := []     -- for the Collator, newest first
  writes   : List (Nat × List Byte) := []
  sum      : Acct := {}
  scored   : Nat := 0
  filtered : Nat := 0
  sat      : Nat := 0
  corr     : Nat := 0
deriving DecidableEq, Repr

/-- A read within the stream at candidate `n`: fails the stream, or goes on. -/
def Strm.reading (t : Strm) (k : Core) (a len n : Nat) : Strm :=
  if t.code ≠ 0 then t
  else
    let m := k.meet a len
    let t1 := { t with corr := t.corr + m.2.2 }
    if m.1 ≠ 0 then { t1 with code := m.1, index := n, addr := m.2.1 } else t1

def Strm.fail (t : Strm) (code n : Nat) : Strm := if t.code ≠ 0 then t else { t with code := code, index := n }

/-! ### Scores (R110, R123, R124) -/

/-- Adds to a signed 32-bit accumulator: the value and whether it saturated. -/
def accAdd (a : Int × Nat) (x : Int) : Int × Nat :=
  let v := a.1 + x
  if v < -2147483648 then (-2147483648, a.2 + 1) else if 2147483647 < v then (2147483647, a.2 + 1) else (v, a.2)

/-- Integer value of an element of an integer format. -/
def intOf (f : EFmt) (w : Nat) : Int := sext f.bits w

/-- Score of one candidate in SCORE mode, and its accumulator saturations. -/
def scoreOf (f : EFmt) (metric dim : Nat) (qexp cexp : Int) (q c : List Byte) : F32 × Nat :=
  let ix := List.range dim
  let k := if metric = 1 then 2 * qexp else qexp + cexp
  if f = .bin then (f32OfInt ((ix.filter (fun i => decide (f.elem q i ≠ f.elem c i))).length), 0)
  else if f.isInt then
    let r := ix.foldl (fun a i =>
      let x := intOf f (f.elem q i)
      let y := intOf f (f.elem c i)
      accAdd a (if metric = 1 then (x - y) * (x - y) else x * y)) ((0 : Int), 0)
    (fscale k (f32OfInt r.1), r.2)
  else
    (fscale k (ix.foldl (fun a i =>
      let x := f.f32 (f.elem q i)
      let y := f.f32 (f.elem c i)
      fadd a (if metric = 1 then (let z := fsub x y; fmul z z) else fmul x y)) 0), 0)

/-- Score of one candidate in LOOKUP mode (R124). -/
def lookupOf (f : EFmt) (dim tab : Nat) (base : Int) (entries exps c : List Byte) : F32 × Nat :=
  let r := (List.range dim).foldl (fun a j =>
    let t := sext 8 (bAt entries (j * tab + f.elem c j))
    accAdd a (t * 2 ^ ((sext 6 (bAt exps j)) - base).toNat)) ((0 : Int), 0)
  (fscale base (f32OfInt r.1), r.2)

/-- R119: the filter's verdict. -/
def passes (d : List Byte) (attr : Nat) (bitmap : List Byte) : Bool :=
  let p := match cw d 9 2 with
    | 0 => true
    | 1 => decide (attr &&& leAt d 40 8 = leAt d 48 8)
    | _ =>
      let b := attr / 2 ^ (cw d 34 6) % 256
      bit (bAt bitmap (b / 8)) (b % 8)
  p != cwBit d 11

/-- How an engine treats a score for its list (R120, R143): discarded against the k-th score of a full list. -/
def Strm.deliver (t : Strm) (li : ColList) (id : Word) (x : F32) : Strm :=
  if isNaN32 x && isFull li.cfg li.entries && li.isOpen then { t with sum := { t.sum with nan := t.sum.nan + 1 } }
  else if li.isOpen && isFull li.cfg li.entries && !better (lcMax li.cfg) x (kth li.entries) then
    { t with sum := t.sum.leave li.cfg x }
  else { t with out := (id, x) :: t.out }

/-- One candidate of a stream (R118 to R120, R123, R124). -/
def Strm.cand (d : List Byte) (k : Core) (res : Resident) (bitmap : List Byte) (li : ColList) (t : Strm) (n : Nat) :
    Strm :=
  if t.code ≠ 0 then t
  else
    let look := decide (cw d 0 3 = 2)
    let t1 := if cw d 9 2 = 0 then t else t.reading k (w4 d 28 + 8 * n) 8 n
    if t1.code ≠ 0 then t1
    else if !passes d (Mem.le k.scratch (w4 d 28 + 8 * n) 8) bitmap then
      { t1 with filtered := t1.filtered + 1,
                writes := if cwBit d 12 then (w4 d 56 + 4 * n, leBytes 4 0xFFC00000) :: t1.writes else t1.writes }
    else
      let t2 := if cwBit d 13 then t1 else t1.reading k (w4 d 24 + 8 * n) 8 n
      let id : Word := if cwBit d 13 then addA (wAt d 32) n else BitVec.ofNat 64 (Mem.le k.scratch (w4 d 24 + 8 * n) 8)
      let arr := cwBit d 14
      let t3 := if arr then t2.reading k (w4 d 60 + n) 1 n else t2
      let eb := Mem.le k.scratch (w4 d 60 + n) 1
      let t4 := if arr && decide (64 ≤ eb) then t3.fail 0x0201 n else t3
      let ce : Int := if arr then sext 6 eb else cwExp d 28
      let t5 := if !look && decide (cw d 7 2 = 1 ∧ ce ≠ cwExp d 22) then t4.fail 0x0204 n else t4
      let t6 := t5.reading k (w4 d 20 + n * dVec d) (dVec d) n
      if t6.code ≠ 0 then t6
      else
        let c := Mem.bytes k.scratch (w4 d 20 + n * dVec d) (dVec d)
        let r := if look then lookupOf (dFmt d) (dDim d) (dTab d) (sext 6 res.base) res.bytes res.exps c
          else scoreOf (dFmt d) (cw d 7 2) (dDim d) (cwExp d 22) ce res.bytes c
        let t7 := { t6 with scored := t6.scored + 1, sat := t6.sat + r.2 }
        if cwBit d 12 then { t7 with writes := (w4 d 56 + 4 * n, leBytes 4 r.1.toNat) :: t7.writes }
        else t7.deliver li id r.1

/-- What LOAD = 1 leaves in the engine, and the stream after it (R111, R117, R119, R124, R130): the tables and the bitmap
of the descriptor before are gone whatever it loads. -/
def loadEng (d : List Byte) (k : Core) (en : Engine) : Engine × Strm :=
  let look := decide (cw d 0 3 = 2)
  let nb := if look then dDim d * dTab d else dVec d
  let ea := w4 d 16 + up (dDim d * dTab d) 64
  let t1 := (({} : Strm).reading k (w4 d 16) nb 0)
  let t2 := if look then t1.reading k ea (dDim d) 0 else t1
  let t3 := if cw d 9 2 = 2 then t2.reading k (w4 d 40) 32 0 else t2
  let en0 := { en with lut := none, bitmap := none, query := if look then en.query else none }
  if t3.code ≠ 0 then (en0, t3)
  else
    let exps := Mem.bytes k.scratch ea (dDim d)
    let bad := exps.any (fun b => decide (64 ≤ b.toNat ∨ sext 6 b.toNat < cwExp d 22 ∨ cwExp d 22 + 15 < sext 6 b.toNat))
    if look && bad then (en0, t3.fail 0x0205 0)
    else
      let r : Resident := ⟨cw d 3 4, dDim d, Mem.bytes k.scratch (w4 d 16) nb, if look then exps else [], cw d 22 6⟩
      let en1 := if cw d 9 2 = 2 then { en0 with bitmap := some (Mem.bytes k.scratch (w4 d 40) 32) } else en0
      (if look then { en1 with lut := some r } else { en1 with query := some r }, t3)

/-! ### MATRIX and CONVERT (R112, R125, R126) -/

/-- One element's error and saturation added to a statistics record (R126). -/
def statAdd (r : F32 × Nat) (x : F32) (f : EFmt) (s : Int) (q : Nat × Bool) : F32 × Nat :=
  let fin := match fv x with
    | .fin _ _ _ => true
    | _ => false
  let e := fsub x ((f.value q.1).scale s).toF32
  (if fin then fadd r.1 (fmul e e) else r.1, if q.2 then min 0xFFFFFFFF (r.2 + 1) else r.2)

/-- A row of values converted, and its statistics record at `a` after it. -/
def convRow (k : Core) (stats : Bool) (a : Nat) (f : EFmt) (s : Int) (xs : List F32) :
    List Nat × List (Nat × List Byte) :=
  let qs := xs.map (fun x => convert (fv x) f s)
  let r0 : F32 × Nat := (BitVec.ofNat 32 (Mem.le k.scratch a 4), Mem.le k.scratch (a + 4) 4)
  let r := (xs.zip qs).foldl (fun r p => statAdd r p.1 f s p.2) r0
  (qs.map (·.1), if stats then [(a, leBytes 4 r.1.toNat ++ leBytes 4 r.2)] else [])

/-- One accumulator of a tile. -/
def tileAcc (f : EFmt) (n : Nat) (w x : List Byte) (i j : Nat) : F32 × Nat :=
  if f.isInt then
    let r := (List.range n).foldl (fun a t =>
      accAdd a (intOf f (f.elem w (t * 16 + i)) * intOf f (f.elem x (t * 16 + j)))) ((0 : Int), 0)
    (f32OfInt r.1, r.2)
  else
    ((List.range n).foldl (fun a t => fadd a (fmul (f.f32 (f.elem w (t * 16 + i))) (f.f32 (f.elem x (t * 16 + j))))) 0, 0)

/-- R125: max(y, +0), a NaN stays NaN. -/
def relu (y : F32) : F32 := if isNaN32 y then y else if flt 0 y then y else 0

def runMatrix (d : List Byte) (k : Core) : Strm :=
  let f := dFmt d
  let n := w4 d 8
  let pb := n * 16 * f.bits / 8
  let t1 := ((({} : Strm).reading k (w4 d 20) 16 0).reading k (w4 d 12) pb 0).reading k (w4 d 16) pb 0
  let t2 := if cwBit d 55 then t1.reading k (w4 d 28) 64 0 else t1
  let t3 := if cwBit d 54 then t2.reading k (w4 d 24) 1024 0 else t2
  let t4 := if cwBit d 42 then t3.reading k (w4 d 32) 128 0 else t3
  let we := Mem.bytes k.scratch (w4 d 20) 16
  let t5 := if we.any (fun b => decide (64 ≤ b.toNat)) then t4.fail 0x0201 0 else t4
  if t5.code ≠ 0 then t5
  else
    let w := Mem.bytes k.scratch (w4 d 12) pb
    let x := Mem.bytes k.scratch (w4 d 16) pb
    let acc (i j : Nat) := tileAcc f n w x i j
    let y (i j : Nat) : F32 :=
      let y0 := fscale (sext 6 (bAt we i) + cwExp d 22) (acc i j).1
      let y1 := if cwBit d 54 then fadd y0 (BitVec.ofNat 32 (Mem.le k.scratch (w4 d 24 + 4 * (i * 16 + j)) 4)) else y0
      let y2 := if cwBit d 55 then fadd y1 (BitVec.ofNat 32 (Mem.le k.scratch (w4 d 28 + 4 * i) 4)) else y1
      if cwBit d 53 then relu y2 else y2
    let rows := (List.range 16).map (fun i =>
      convRow k (cwBit d 42) (w4 d 32 + 8 * i) (dOfmt d) (cwExp d 47) ((List.range 16).map (y i)))
    let sat := ((List.range 256).map (fun e => (acc (e / 16) (e % 16)).2)).foldl (· + ·) 0
    { t5 with
      sat := sat
      writes := rows.flatMap (·.2) ++ [(w4 d 24, packCodes (dOfmt d) (rows.flatMap (·.1)))] }

/-- One row of a CONVERT. -/
def Strm.convStep (d : List Byte) (k : Core) (t : Strm) (r : Nat) : Strm :=
  if t.code ≠ 0 then t
  else
    let f := dFmt d
    let o := dOfmt d
    let len := w4 d 12
    let rb := len * f.bits / 8
    let eb := Mem.le k.scratch (w4 d 20 + r) 1
    let t1 := (t.reading k (w4 d 20 + r) 1 r)
    let t2 := if 64 ≤ eb then t1.fail 0x0201 r else t1
    let t3 := t2.reading k (w4 d 16 + r * rb) rb r
    let t4 := if cwBit d 42 then t3.reading k (w4 d 28 + 8 * r) 8 r else t3
    if t4.code ≠ 0 then t4
    else
      let row := Mem.bytes k.scratch (w4 d 16 + r * rb) rb
      let c := convRow k (cwBit d 42) (w4 d 28 + 8 * r) o (sext 6 eb) ((List.range len).map (fun i => f.f32 (f.elem row i)))
      { t4 with writes := (w4 d 24 + r * (len * o.bits / 8), packCodes o c.1) :: c.2 ++ t4.writes }

/-! ### The commands -/

/-- Units of work of a descriptor: candidates, rows, or one tile. -/
def dTotal (d : List Byte) : Nat :=
  match cw d 0 3 with
  | 1 => 1
  | 3 => w4 d 8
  | _ => dN d

/-- Unit `n` of a descriptor's work. -/
def Strm.unit (d : List Byte) (k : Core) (en : Engine) (li : ColList) (t : Strm) (n : Nat) : Strm :=
  match cw d 0 3 with
  | 1 => runMatrix d k
  | 3 => Strm.convStep d k t n
  | _ =>
    match (if cw d 0 3 = 2 then en.lut else en.query) with
    | none => t
    | some res => Strm.cand d k res (en.bitmap.getD []) li t n

/-- At most `f` units from unit `n` on: the engine stops at a failure, at the end, and while its output queue, which
holds `q` entries already, is full (R121). -/
def Strm.go (d : List Byte) (k : Core) (en : Engine) (li : ColList) (q : Nat) : Nat → Nat → Strm → Nat × Strm
  | 0, n, t => (n, t)
  | f + 1, n, t =>
    if t.code ≠ 0 ∨ dTotal d ≤ n ∨ 8 ≤ q + t.out.length then (n, t) else Strm.go d k en li q f (n + 1) (Strm.unit d k en li t n)

/-- Nothing of the descriptor is left to issue. -/
def Running.ended (r : Running) : Bool := decide (r.status ≠ 0 ∨ dTotal r.d.bytes ≤ r.next)

/-- What reads and units have produced is added to the running descriptor and to the engine's counters; candidates scored
are metered, speculative or not (R25, R135). -/
def State.engResult (s : State) (c e : Nat) (r : Running) (n : Nat) (t : Strm) : State :=
  let r1 := { r with
    next := n, out := r.out ++ t.out.reverse, summary := t.sum, status := t.code, scored := r.scored + t.scored
    filtered := r.filtered + t.filtered, accSat := r.accSat + t.sat, failIndex := t.index, failAddr := t.addr }
  let s1 := t.writes.reverse.foldl (fun s w => s.writeScr c w.1 w.2) s
  let s2 := s1.modCore c (fun k => k.setEng e { k.eng e with run := some r1 })
  let a := engP c + 0x100 + e * 0x40
  let s3 := (((s2.bump (a + 0x10) t.scored).bump (a + 0x18) t.filtered).bump (a + 0x20) t.sat).bump (coreP c + 0x98) t.corr
  match s.coreOwner c with
  | some p => if t.scored = 0 then s3 else s3.meterAdd p 2 t.scored
  | none => s3

/-- The engine goes on with its descriptor for at most `f` units, with the threshold of the list as the Collator
publishes it now (R120, R143). -/
def State.engRun (s : State) (c e f : Nat) : State :=
  let k := s.core c
  let en := k.eng e
  match en.run with
  | none => s
  | some r =>
    if r.ended then s
    else
      let d := r.d.bytes
      let li : ColList := if r.toList && s.reachesList c r.list r.d.ctx r.d.group r.d.gen then k.list r.list else {}
      let x := Strm.go d k en li r.out.length f r.next { sum := r.summary }
      s.engResult c e r x.1 x.2

/-- The list that a descriptor fills (R113). -/
def State.descList (s : State) (c : Nat) (q : QDesc) : Nat :=
  if cwBit q.bytes 15 then (s.grp c q.group).colList else cw q.bytes 16 6

/-- The group that submitted the descriptor is still there; a hart has none. -/
def State.descGroup (s : State) (c : Nat) (q : QDesc) : Bool :=
  isHart q.ctx || ((s.grp c q.group).live && decide ((s.grp c q.group).gen = q.gen))

/-- The head of the queue starts (R116 to R126): it is checked, what it loads becomes resident, and the engine runs a free
number of its units, since the model does not time them. Naming a list that is not configured or is open for another
group is a misuse (R506). -/
def execDescStart (c : CoreId) (e : EngId) (s : State) : Outc :=
  let en := (s.core c).eng e
  match en.queue, en.run with
  | q :: rest, none =>
    if !s.coreReady c || s.engPaused c e then .next s
    else
      let s1 := (s.modCore c (fun k => k.setEng e { en with queue := rest })).queueFreed c
      let st := s.descCheck c en q
      if st ≠ 0 then .next (s1.descStatus c e q.seq st)
      else
        let d := q.bytes
        let l := s.descList c q
        if dToList d && s.descGroup c q && s.foreignList c l (if isHart q.ctx then none else some q.group) then
          .next ((({ s1 with free := s1.free + 1 } : State).descStatus c e q.seq (Config.freePick s1.free % 0x10000)).misuse c)
        else
          let ld := if dStream d && cwBit d 40 then loadEng d (s.core c) en else (en, {})
          let s2 := s1.modCore c (fun k => k.setEng e { ld.1 with queue := rest })
          let s3 := s2.engResult c e { d := q, list := l, toList := dToList d } 0 ld.2
          .next (({ s3 with free := s3.free + 1 } : State).engRun c e (Config.freePick s3.free))
  | _, _ => .next s

/-- Requester `i` is the first in the Collator's order of those whose output queue holds an entry (R121). -/
def Core.colTurn (k : Core) (i : Nat) : Bool :=
  (k.colRot.find? (fun e => match (k.eng e).run with
    | some r => decide (r.out ≠ [])
    | none => false)) == some i

/-- The Collator takes the next entry of an engine's output queue in its turn (R121, R142); an engine whose queue is empty
goes on first, for a free number of its units, until one is there. -/
def execCollatorTake (c : CoreId) (e : EngId) (s : State) : Outc :=
  let s0 := match ((s.core c).eng e).run with
    | some r => if r.out = [] ∧ s.coreReady c ∧ !s.engPaused c e then
        ({ s with free := s.free + 1 } : State).engRun c e (Config.freePick s.free) else s
    | none => s
  let en := (s0.core c).eng e
  match en.run with
  | none => .next s0
  | some r =>
    match r.out with
    | [] => .next s0
    | _ :: _ =>
      if !s0.coreReady c || !(s0.core c).colTurn e then .next s0
      else
        let sw := if 8 ≤ r.out.length ∧ !r.ended then s0.waitUpTo (engP c + 0x100 + e * 0x40 + 0x38) 16 else s0
        .next (sw.takeOldest c e)

/-- The fault of a descriptor that met poison or a double-bit error (R130). -/
def State.descFault (s : State) (c : Nat) (q : QDesc) (code addr : Nat) : State :=
  let a := BitVec.ofNat 64 addr
  if isHart q.ctx then s.hartFault c (q.ctx - 8192) code q.pc a
  else
    let g := s.grp c q.group
    if !g.live || decide (g.gen ≠ q.gen) then s
    else if q.spec then s.modCore c (fun k => { k with faults := k.faults ++ [⟨q.group, q.hop, q.ctx, code, q.pc, a, q.ord⟩] })
    else s.groupFault c q.group q.ctx code q.pc a

/-- The descriptor ends once all its units have issued and its entries are taken: its summary is taken, its completion
record written, its status held (R94, R122, R130, R143). One with N = 0 has no output but its record (R116). -/
def execDescComplete (c : CoreId) (e : EngId) (s : State) : Outc :=
  match ((s.core c).eng e).run with
  | none => .next s
  | some r0 =>
    if !s.coreReady c || s.engPaused c e then .next s
    else
      let s0 := s.engRun c e (dTotal r0.d.bytes)
      match ((s0.core c).eng e).run with
      | none => .next s0
      | some r =>
        if !r.ended || decide (r.out ≠ []) then .next s0
        else
          let s1 := if r.toList && decide (dN r.d.bytes ≠ 0) then
              (if s0.reachesList c r.list r.d.ctx r.d.group r.d.gen then s0.colSummary c r.list r.d.spec r.d.hop r.summary
               else s0.bump (colP c + 0xA8) 1)
            else s0
          let s2 := (s1.engCycles c e r).descRecord c r
          let s3 := s2.modCore c (fun k => k.setEng e { k.eng e with run := none })
          let s4 := s3.descStatus c e r.d.seq r.status
          .next (if r.status = 0x0284 ∨ r.status = 0x0285 then s4.descFault c r.d r.status r.failAddr else s4)

end Sys2Proof.Machine
end

