-- ==== Sys2Proof/Machine/Collator.lean ====
section
/-! DEFINITION. Seals, the chip Collator's merges, the reports of freed groups and COMMIT of the COLLATOR page
(R138, R144 to R157, R387). -/

namespace Sys2Proof.Machine

/-! ### Seals -/

/-- The Desk asks for a merge: the chip Collator's queue holds 64 requests, and further ones wait at the Desk in their
order (R152). -/
def State.askMerge (s : State) (m : Merge) : State :=
  if s.merges.length < 64 then { s with merges := s.merges ++ [m] } else s.modDesk (fun d => { d with mergeQ := d.mergeQ ++ [m] })

/-- A place of that queue is free: the Desk's oldest waiting request takes it. -/
def State.nextMerge (s : State) (rest : List Merge) : State :=
  match s.desk.mergeQ with
  | [] => { s with merges := rest }
  | m :: r => { s.modDesk (fun d => { d with mergeQ := r }) with merges := rest ++ [m] }

/-- A seal during a bulk scan asks for a merge with the slot's running record (R387). -/
def State.bulkSeal (s : State) (c tag a : Nat) : State :=
  match s.query tag with
  | none => s
  | some q =>
    match q.src with
    | .bulk p o => s.askMerge
        ⟨p, tag, [.scratch c a], leAt q.cls 2 2, bit (leAt q.cls 0 2) 8, some (false, s.lopArea p o), some (p, o)⟩
    | _ => s

/-- After the seal of a group's list, the list that the waiting GST names opens (R137); a group marked done meanwhile
has it sealed in turn (R138). -/
def State.reopen (s : State) (c g l t : Nat) : Outc :=
  let x := (s.core c).list l
  if x.isOpen then
    let y := s.thr c t
    .next ((if y.wait = .rebind ∧ !y.marked then s.setThr c t y.complete else s).misuse c)
  else
    let s1 := if lcK (s.listCfg c l) = 0 then s else s.openList c l g
    let s2 := if (s1.grp c g).done then
        s1.modCore c (fun k => if (k.list l).isOpen then k.setList l { k.list l with sealing := true } else k)
      else s1
    let y := s2.thr c t
    .next ((if y.wait = .rebind ∧ !y.marked then s2.setThr c t y.complete else s2).wakeUnit c)

/-- Writes the record of a list whose seal is requested, closes the list and signals the group (R138). A record over the
code region or past the end of scratch is a misuse (R506): it is not written, and R504 holds for the partition. -/
def execListSeal (c : CoreId) (l : ListId) (s : State) : Outc :=
  let x := (s.core c).list l
  if !(s.coreReady c && x.isOpen && x.sealing) then .next s
  else
    let a := lcLine x.cfg * 64
    let bad := s.badArea c a (64 + 16 * lcK x.cfg)
    let g := x.owner
    let tag := (s.grp c g).f 0 4
    let s0 := if bad then s.misuse c else s.writeScr c a (x.record tag c)
    let s1 := s0.modCore c (fun k =>
      { k.setList l {} with sealed := Tab.set (fun _ => none) k.sealed g (some (a / 64)) })
    let s2 := ((s1.bump (colP c + 0xC0) 1).bump (colP c + 0xB8) x.shadowCount).bulkSeal c tag a
    let s3 := s2.gsig c g
    match x.reopen with
    | some (l2, t) => s3.reopen c g l2 t
    | none => .next (s3.tryFree c g)

/-- COL_LIST_CFG words that a COMMIT accepts (R136, R157). -/
def goodList (w : Word) : Bool :=
  let x := lcScale w
  let m := x &&& 0x7FFFFFFF#32
  decide (lcK w ≤ 256 ∧ lcShadow w ≤ 4) && (!lcExp2 w || decide (m ≠ 0 ∧ m.toNat < 0x7F800000))

/-- Entries of the Collator store that a configuration occupies (R136). -/
def listsUsed (ws : List Word) : Nat := (ws.map (fun w => lcK w * (1 + lcShadow w))).foldl (· + ·) 0

def execCollatorCommit (f : Fn) (c : CoreId) (s : State) : Outc :=
  let s := s.access f
  let p : Page := ⟨.collator, c, colP c⟩
  .next (s.commit f p (fun s =>
    let ws := (List.range 64).map (fun l => s.reg (colP c + 0x200 + l * 8))
    if !s.quiesced p then .notQuiesced
    else if ws.all goodList && decide (listsUsed ws ≤ 4096) then .ok else .invalid) id)

/-! ### Reports of freed groups (R152, R203) -/

/-- A nonzero error code that the manual leaves open: a query whose group was killed or left its list unsealed. -/
def State.freeCode (s : State) : Nat × State :=
  ((Config.freeWord s.free).toNat % 65535 + 1, { s with free := s.free + 1 })

/-- A layer group of the step in progress was killed: the step fails, and where no GDONE had marked it the layer ends at
its core (R203). -/
def State.layerLost (s : State) (p c : Nat) (done : Bool) : State :=
  s.modStep p (fun x => { x with
    left := if done then x.left else x.left.erase c, failed := if x.failed = 0 then 0x0111 else x.failed })

/-- A core of a query's fan-out, or one that holds a list of its ranking, has reported; a search or re-rank stage ends with
the last one, a ranking one with its step or its last round (R202, R204). -/
def State.shardDone (s : State) (c tag : Nat) (failed : Bool) (line : Option Nat) : State :=
  match s.query tag with
  | none => s
  | some q =>
    if !q.waiting.contains c then s
    else
      let code := s.freeCode
      let s1 := if failed ∧ q.err = 0 then code.2.failQuery tag code.1 else s
      s1.modQuery tag (fun q =>
        let w := q.waiting.erase c
        let rounds := (s.dk q.part).gens.any (fun g => decide (g.tag = tag))
        let step := ((s.dk q.part).step.map (·.tags.contains tag)).getD false
        { q with waiting := w, busy := q.busy && (rounds || step || decide (w ≠ []))
                 recs := match line with
                   | some n => q.recs ++ [(c, n)]
                   | none => q.recs })

/-- A report that the query's present stage awaits: of a walk, scan or re-rank group, of the group that holds its beam list,
or of a LAYER group of the last layer of its ranking step. -/
def State.reportsFor (s : State) (x : Report) : Bool :=
  match s.query x.tag with
  | none => false
  | some q => match q.stage with
    | .search => decide (x.kind = 0)
    | .rerank => decide (x.kind = 2)
    | .rank => decide ((x.kind = 1 ∨ x.kind = 3) ∧ (x.failed ∨ x.step = q.step))
    | _ => false

/-- The Desk takes the core's oldest report: of a layer group of the step in progress, or of a query's walk, scan or
re-rank group. -/
def execGroupFreeReport (c : CoreId) (s : State) : Outc :=
  match (s.core c).freed with
  | [] => .next s
  | x :: r =>
    let s1 := s.modCore c (fun k => { k with freed := r })
    match s1.stepPart c x.kind x.step, x.failed with
    | some p, true => .next (s1.layerLost p c x.done)
    | _, _ => if s1.reportsFor x then .next (s1.shardDone c x.tag x.failed x.line) else .next s1

/-! ### Merges (R152 to R156) -/

/-- Bytes of a source: none outside the partition, else the bytes and whether they read poisoned. -/
def State.srcBytes (s : State) (p : Nat) (m : MSrc) (off n : Nat) : State × Option (List Byte × Bool) :=
  match m with
  | .scratch c a =>
    if s.coreOwner c ≠ some p ∨ 0x400000 < a + off + n then (s, none)
    else
      let k := (s.core c).check (a + off) n
      (s.bump (coreP c + 0x98) k.1, some (s.scr c (a + off) n, k.2.1 || k.2.2))
  | .tier a =>
    if n = 0 ∨ s.inAlloc p (addA a off) n then
      let r := s.devRead p (addA a off) n
      (r.1, some r.2)
    else (s, none)
  | .held bs => (s, some ((bs.drop off).take n, false))
  | .absent => (s, some ([], false))

/-- fp32 field of a record. -/
def fAt (bs : List Byte) (off : Nat) : F32 := BitVec.ofNat 32 (leAt bs off 4)
def recCount (bs : List Byte) : Nat := leAt bs 0 2
def recK (bs : List Byte) : Nat := leAt bs 2 2
def recFlag (bs : List Byte) (i : Nat) : Bool := bit (bAt bs 4) i
def recLeft (bs : List Byte) : Nat := leAt bs 24 4
def recEntries (bs : List Byte) (src : Nat) : List (Word × F32 × Nat) :=
  (List.range (recCount bs)).map (fun i => (wAt bs (64 + 16 * i), fAt bs (72 + 16 * i), src))

/-- A valid header (R153 check 3). -/
def goodHeader (h : List Byte) : Bool :=
  decide (0 < recK h ∧ recK h ≤ 4096 ∧ recCount h ≤ recK h) && !recFlag h 7 && zeroAt h 5 3 && zeroAt h 46 18

/-- Checks 1 to 6 of one source: code 0 and its record, or the code of the first that fails. -/
def State.checkSrc (s : State) (p : Nat) (m : MSrc) : State × Nat × List Byte :=
  if m = .absent then (s, 0, [])
  else match s.srcBytes p m 0 64 with
  | (s1, none) => (s1, 0x0303, [])
  | (s1, some (h, true)) => (s1, 0x0304, h)
  | (s1, some (h, false)) =>
    if !goodHeader h then (s1, 0x0302, [])
    else match s1.srcBytes p m 64 (16 * recK h) with
      | (s2, none) => (s2, 0x0303, [])
      | (s2, some (_, true)) => (s2, 0x0304, [])
      | (s2, some (es, false)) =>
        let r := h ++ es
        if (recEntries r 0).any (fun e => isNaN32 e.2.1) then (s2, 0x0302, []) else (s2, 0, r)

/-- All sources in order: the first failing check decides. -/
def State.checkSrcs (s : State) (p : Nat) : List MSrc → State × Nat × List (List Byte)
  | [] => (s, 0, [])
  | m :: r =>
    let a := s.checkSrc p m
    if a.2.1 ≠ 0 then (a.1, a.2.1, [])
    else
      let b := a.1.checkSrcs p r
      (b.1, b.2.1, a.2.2 :: b.2.2)

/-- Whether an output of `n` bytes at `a` lies inside the partition: a remote scratch address or device memory. -/
def State.inPart (s : State) (p : Nat) (d : Bool × Word) (n : Nat) : Bool :=
  if d.1 then decide (s.coreOwner (remote d.2).1 = some p ∧ (remote d.2).2 + n ≤ 0x400000)
  else s.inAlloc p d.2 n

/-- RESULT_ADDR of a query: a remote scratch address where the request came from the on-chip ring (R188), nothing
where the query came from another node (R22). -/
def Query.dest (q : Query) : Option (Bool × Word) :=
  match q.src with
  | .fabric _ _ => none
  | .ring _ => some (true, wAt q.req 40)
  | _ => some (false, wAt q.req 40)

/-- Sources that agree in ORDER, SUM_MODE and SUM_SCALE. -/
def agree (rs0 : List (List Byte)) : Bool :=
  let rs := rs0.filter (· ≠ [])
  rs.all (fun r => decide (recFlag r 0 = recFlag (rs.headD []) 0 ∧ recFlag r 1 = recFlag (rs.headD []) 1 ∧
    fAt r 16 = fAt (rs.headD []) 16))

/-- Stable order of candidates: better first, then in the order given (R154). -/
def placeCand (mx : Bool) (e : Word × F32 × Nat) : List (Word × F32 × Nat) → List (Word × F32 × Nat)
  | [] => [e]
  | x :: r => if better mx e.2.1 x.2.1 then e :: x :: r else x :: placeCand mx e r

/-- The first of the entries with one ID stays (R154). -/
def dropDups (es : List (Word × F32 × Nat)) : List (Word × F32 × Nat) :=
  es.foldl (fun acc e => if acc.any (fun x => decide (x.1 = e.1)) then acc else acc ++ [e]) []

def sumNat (l : List Nat) : Nat := l.foldl (· + ·) 0

/-- The merge of source records (R154, R155): the output record and how many duplicates went. An absent source, `[]`, gives
nothing to it. -/
def mergeRecords (kOut : Nat) (dedup : Bool) (tag : Nat) (srcs : List (List Byte)) : List Byte × Nat :=
  let rs := srcs.filter (· ≠ [])
  let h := rs.headD []
  let mx := recFlag h 0
  let exp2 := recFlag h 1
  let scale := fAt h 16
  let all := ((List.range srcs.length).zip srcs).flatMap (fun x => recEntries x.2 x.1)
  let sorted := all.foldl (fun acc e => placeCand mx e acc) []
  let cand := if dedup then dropDups sorted else sorted
  let dup := sorted.length - cand.length
  let sel := cand.take kOut
  let rest := cand.drop kOut
  let lefts := rs.filter (fun r => decide (0 < recLeft r))
  let left := sumNat (rs.map recLeft) + rest.length
  let dups := sumNat (rs.map (fun r => leAt r 36 4)) + dup
  let outs := rs.foldl (fun a r => fadd a (fAt r 12)) 0
  let out := rest.foldl (fun a e => fadd a (sumTerm exp2 scale e.2.1)) outs
  let bests := rest.map (fun e => e.2.1) ++ lefts.map (fun r => fAt r 20)
  let best := match bests with
    | [] => fillScore mx
    | x :: r => r.foldl (fun a b => if better mx b a then b else a) x
  let full := decide (sel.length = kOut)
  let last : F32 := ((sel.getLast?).map (fun e => e.2.1)).getD 0
  let ded := dedup || rs.any (recFlag · 4)
  let trunc := rs.any (recFlag · 6) || (full && lefts.any (fun r => better mx (fAt r 20) last)) ||
    (!full && decide (lefts ≠ [])) || lefts.any (fun r => decide (recCount r < kOut))
  (recordBytes mx exp2 (full && decide (0 < left) && feq best last) (rs.all (recFlag · 3) && (!ded || decide (dups = 0)))
    ded (rs.any (recFlag · 5)) trunc kOut (sumOf exp2 scale (sel.map (fun e => e.2.1))) out scale best left
    (sumNat (rs.map (fun r => leAt r 28 4))) (sumNat (rs.map (fun r => leAt r 32 4))) dups tag 0xFFFF sel, dup)

/-- The merge stage goes on once the local record and every member's record are there (R152). -/
def State.mergeNext (s : State) (q : Nat) : State :=
  match s.query q with
  | none => s
  | some x =>
    if x.record = [] ∨ x.members ≠ [] then s
    else if x.remote = [] then s.modQuery q (fun x => { x with busy := false })
    else (s.modQuery q (fun x => { x with remote := [] })).askMerge
      ⟨x.part, q, .held x.record :: x.remote.map (fun r => .held r.2), leAt x.cls 2 2, bit (leAt x.cls 0 2) 8, x.dest, none⟩

/-- Cycles (mesh) that a merge takes to merge and to send (R156). -/
def mergeCycles (entries kOut : Nat) : Nat := 8 + ceilDiv entries 4 + ceilDiv (64 + 16 * kOut) 256

/-- The chip Collator performs its oldest request: checks, merge, output, counters (R153 to R156, R160, R387). -/
def execMergeRequest (s : State) : Outc :=
  match s.merges with
  | [] => .next s
  | m :: r =>
    let s0 := s.nextMerge r
    match s0.query m.tag with
    | none => .next s0
    | some _ =>
      let srcs := match m.bulk with
        | some (p, o) => if (s0.losw p o).prog = 0 then m.srcs else .tier (s0.lopArea p o) :: m.srcs
        | none => m.srcs
      let a := s0.checkSrcs m.part srcs
      let outOk := match m.dest with
        | some d => a.1.inPart m.part d (64 + 16 * m.kOut)
        | none => true
      let code := if a.2.1 ≠ 0 then a.2.1 else if !outOk then 0x0303 else if !agree a.2.2 then 0x0301 else 0
      if code ≠ 0 then
        .next (((a.1.bump 0xA088 1).failQuery m.tag code).modQuery m.tag (fun q => { q with busy := false }))
      else
        let out := mergeRecords m.kOut m.dedup m.tag a.2.2
        let n := sumNat (a.2.2.map recCount)
        let s1 := (((a.1.bump 0xA080 1).bump 0xA090 n).bump 0xA098 out.2).bump 0xA0A0 (mergeCycles n m.kOut)
        match m.bulk with
        | some (p, o) => .next ((s1.devWrite p (s1.lopArea p o) out.1).loswProg p o ((s1.losw p o).prog + 1))
        | none => .next ((s1.modQuery m.tag (fun q => { q with record := out.1 })).mergeNext m.tag)

end Sys2Proof.Machine
end

