-- ==== Sys2Proof/Machine/Fabric.lean ====
section
/-! DEFINITION. Messages of the fabric: how a block sends one (R340 to R342, R345, R347) and what the receiving block
does with a whole one (R346, R152). -/

namespace Sys2Proof.Machine

/-- TL_NODE: this chip's node number and HOPS of sent flits. -/
def State.node (s : State) : Nat := fld (s.reg 0x90040) 0 10
def State.hopsInit (s : State) : Nat := fld (s.reg 0x90040) 16 8

/-- TL_FWD: the egress port for a node. -/
def State.route (s : State) (n : Nat) : Option Nat :=
  let w := s.reg (0x90800 + n / 16 * 8)
  if w.getLsbD (4 * (n % 16) + 3) then some (fld w (4 * (n % 16)) 3) else none

def State.port (s : State) (q : Nat) : LinkPort := Tab.get (fun _ => {}) s.ports q
def State.modPort (s : State) (q : Nat) (f : LinkPort → LinkPort) : State :=
  { s with ports := Tab.set (fun _ => {}) s.ports q (f (s.port q)) }
def LinkPort.lq (x : LinkPort) (v : Nat) : List Fwd := Tab.get (fun _ => []) x.localQ v
def LinkPort.setLq (x : LinkPort) (v : Nat) (l : List Fwd) : LinkPort :=
  { x with localQ := Tab.set (fun _ => []) x.localQ v l }
/-- A flit of this chip as the queue holds it. -/
def LinkPort.mine (x : LinkPort) (f : Flit) : Fwd := { port := 8, stomp := false, flit := f, since := x.cyc }
/-- Flits of this chip enter the local queue of channel v. -/
def LinkPort.pushLq (x : LinkPort) (v : Nat) (fs : List Flit) : LinkPort := x.setLq v (x.lq v ++ fs.map x.mine)

/-- Bytes in pieces of at most `n`. -/
def pieces (n : Nat) : Nat → List Byte → List (List Byte)
  | 0, _ => []
  | f + 1, bs => if bs = [] then [] else bs.take n :: pieces n f (bs.drop n)

/-- The flits of a message: COMP and payload of each. -/
def flitsOf (vc epoch dn dp sn sp hops : Nat) (ps : List (Nat × List Byte)) : List Flit :=
  (List.range ps.length).zip ps |>.map (fun x =>
    { vc := vc, comp := x.2.1, first := decide (x.1 = 0), last := decide (x.1 + 1 = ps.length), link := false,
      epoch := epoch, dstNode := dn, dstPart := dp, srcNode := sn, srcPart := sp, len := x.2.2.length, hops := hops,
      lseq := 0, ack := 0, nak := false, crVc := 0, crCount := 0,
      msgFlits := if x.1 = 0 then ps.length else 0, payload := x.2.2 })

/-- A query of partition `p` that awaits the member with node and partition of message `m`. -/
def Query.awaits (q : Query) (map : Tab Nat) (m : Msg) : Bool :=
  q.members.any (fun i => decide (memberEntry map i = some (m.node, m.part)))

/-- The home query of a RESULT message: the one that QUERY_TAG names; a refusal carries no QUERY_TAG (R195), and stands
for the oldest query with its USER_TAG that awaits its member (log entry 56). -/
def State.homeQuery (s : State) (m : Msg) : Nat :=
  if bit (bAt m.bytes 10) 1 then
    ((s.queriesOf m.dst).find? (fun t => match s.query t with
      | some q => decide ((q.req.drop 48).take 8 = m.bytes.take 8) && q.awaits ((s.part q.part).map q.epoch) m
      | none => false)).getD 0
  else leAt m.bytes 12 4

/-- A RESULT message reaches its home query (R152): the record of a member, or the member's error code. A message that
no query awaits has no effect. -/
def State.takeResult (s : State) (m : Msg) : State :=
  let tag := s.homeQuery m
  match s.query tag with
  | none => s
  | some q =>
    let map := (s.part q.part).map q.epoch
    match q.members.find? (fun i => decide (memberEntry map i = some (m.node, m.part))) with
    | none => s
    | some i =>
      let code := leAt m.bytes 8 2
      let s1 := s.modQuery tag (fun q => { q with members := q.members.erase i })
      if q.part ≠ m.dst then s
      else if code ≠ 0 then (s1.failQuery tag code).modQuery tag (fun q => { q with busy := false })
      else (s1.modQuery tag (fun q =>
        let lo := q.remote.filter (fun r => decide (r.1 < i))
        let hi := q.remote.filter (fun r => decide (i < r.1))
        { q with remote := lo ++ [(i, m.bytes.drop 16)] ++ hi })).mergeNext tag

/-- A PUT's data at its destination: dropped where it lies outside the allocation (R345, R347). -/
def State.putBytes (s : State) (p : Nat) (a : Word) (bs : List Byte) : State :=
  if s.inAlloc p a bs.length then s.devWrite p a bs else s

/-- The receiving block acts on a whole message (R342, R345, R346). -/
def State.deliverMsg (s : State) (vc : Nat) (m : Msg) : State :=
  match vc with
  | 0 => s.modDesk (fun d => { d with fabric := d.fabric ++ [m] })
  | 1 => s.takeResult m
  | 2 => if bAt m.bytes 0 = 1 then s.modDesk (fun d => { d with stateReq := d.stateReq ++ [m] })
    else if bAt m.bytes 0 = 2 then s.modDesk (fun d => { d with stateRep := d.stateRep ++ [m] }) else s
  | 3 => { s with gather := s.gather ++ [(true, m)] }
  | 4 => if bAt m.bytes 0 = 2 ∨ bAt m.bytes 0 = 3 then { s with gather := s.gather ++ [(false, m)] }
    else if bAt m.bytes 0 = 1 then s.putBytes m.dst (wAt m.bytes 8) (m.bytes.drop 16) else s
  | _ => s

/-! ### The link encoder (R254, R357, R510) -/

/-- Blocks that one flit carries. -/
def perFlit (comp : Nat) : Nat := if comp = 1 then 14 else if comp = 2 then 9 else 7

/-- Elements of a byte string, padded with +0 to whole blocks. -/
def blocksOf (bs : List Byte) : List (List Nat) :=
  (List.range (ceilDiv bs.length 128)).map (fun b => (List.range 32).map (fun i => leAt bs (128 * b + 4 * i) 4))

/-- The blocks that the link encoder forms of fp32 data; none where the partition cannot use the table, and every block
not formed is counted (R510). -/
def State.linkEncode (s : State) (p comp mould gen : Nat) (bs : List Byte) : State × Option (List (List Byte)) :=
  match rateOf comp, s.ownsMould 19 p mould, (s.expander 19).table gen mould with
  | some r, true, some tb =>
    let es := (blocksOf bs).map (fun xs => encodeBlock r mould gen tb (xs.map (encElem .fp32)))
    let a := expP 19
    (((s.bump (a + 0x1A8) es.length).bump (a + 0x1B0) (es.filter (·.2.1)).length).bump (a + 0x1B8) (sumNat (es.map (·.2.2))),
      some (es.map (·.1)))
  | _, _, _ => (s.bump (expP 19 + 0x190) (blocksOf bs).length, none)

/-- Flit payloads of blocks. -/
def packBlocks (comp : Nat) (bl : List (List Byte)) : List (Nat × List Byte) :=
  (List.range (ceilDiv bl.length (perFlit comp))).map (fun k => (comp, ((bl.drop (perFlit comp * k)).take (perFlit comp)).flatten))

/-- Payloads of a message: GRADIENT is compressed as TL_PART_COMP sets (R358); an unusable table ends it with an abort
flit. -/
def State.payloads (s : State) (vc p : Nat) (bs : List Byte) : State × List (Nat × List Byte) :=
  let w := s.inForce (0x90100 + p * 8)
  let comp := fld w 0 2
  if vc = 3 ∧ comp ≠ 0 then
    let e := s.linkEncode p comp (fld w 2 5) (fld w 7 1) (bs.drop 16)
    (e.1, (0, bs.take 16) :: (match e.2 with
      | some bl => packBlocks comp bl
      | none => [(0, [])]))
  else (s, (pieces 236 (bs.length + 1) bs).map (fun b => (0, b)))

/-- The elements that a compressed flit carries, decoded with this chip's tables (R254). Its blocks come together: each but the
last may wait behind one before it (R256). -/
def State.linkDecode (s : State) (p comp : Nat) (bs : List Byte) : State × List (Byte × Bool) :=
  match rateOf comp with
  | none => (s, bs.map (fun b => (b, false)))
  | some r =>
    let n := bs.length / r.s
    (List.range n).foldl (fun acc k =>
      let b := (bs.drop (r.s * k)).take r.s
      let d := acc.1.decodeBlock 19 p r .fp32 b
      ((acc.1.countDecode 19 b d.isSome false).escapeStall 19 p b d.isSome (decide (k + 1 < n)),
        acc.2 ++ (d.getD (zeros 128)).map (fun y => (y, d.isNone)))) (s, [])

/-- A message to a member of this node, which crosses no port: its payloads decoded as a receiving port does it. One that an abort
flit ends, or with a poisoned element, is discarded (R254, R346, R357). -/
def State.sendHere (s : State) (vc : Nat) (m : Msg) (ps : List (Nat × List Byte)) : State :=
  let d := ps.foldl (fun (acc : State × List (Byte × Bool)) x =>
    let y := acc.1.linkDecode m.dst x.1 x.2
    (y.1, acc.2 ++ y.2)) (s, [])
  if ps.any (fun x => decide (x.2 = [])) || d.2.any (·.2) then d.1 else d.1.deliverMsg vc { m with bytes := d.2.map (·.1) }

/-- A block of partition `p` sends a message under `epoch`: over the port that TL_FWD names where `p` owns the channel;
within the chip where the destination is this node; nowhere without a route (log entry 22). -/
def State.sendMsg (s : State) (vc p epoch dn dp : Nat) (bs : List Byte) : State :=
  if dn = s.node then
    let e := s.payloads vc p bs
    e.1.sendHere vc ⟨s.node, p, dp, epoch, s.clk, bs⟩ e.2
  else match s.route dn with
    | none => s
    | some q =>
      if s.vcOwner q vc ≠ some p then s
      else
        let e := s.payloads vc p bs
        e.1.modPort q (fun x => x.pushLq vc (flitsOf vc epoch dn dp s.node p s.hopsInit e.2))

end Sys2Proof.Machine
end

