-- ==== Sys2Proof/Machine/HostQ.lean ====
section
/-! DEFINITION. Submission and completion queues of a function and their interrupts (R373 to R380). -/

namespace Sys2Proof.Machine

def State.host (s : State) (k : Nat) : HostFn := Tab.get (fun _ => {}) s.hosts k
def State.modHost (s : State) (k : Nat) (f : HostFn → HostFn) : State :=
  { s with hosts := Tab.set (fun _ => {}) s.hosts k (f (s.host k)) }

/-- Keys of the queue registers of function number `k`. -/
def sqReg (k q : Nat) : Nat := viewP k + 0x200 + q * 0x10
def cqReg (k q : Nat) : Nat := viewP k + 0x300 + q * 0x10
/-- LOG2 outside 4 to 16 acts as the nearest limit (R391). -/
def ringSize (cfg : Word) : Nat := 2 ^ (min 16 (max 4 (fld cfg 0 5)))
/-- ENABLE and BASE. -/
def qOn (w : Word) : Bool := w.getLsbD 0
def qBase (w : Word) : Word := BitVec.ofNat 64 (fld w 6 44 * 64)
def z0 : Nat → Nat := fun _ => 0

/-- Entries of a CQ that are written and unconsumed. -/
def State.cqUsed (s : State) (k q : Nat) : Nat :=
  let n := ringSize (s.reg (cqReg k q + 8))
  (Tab.get z0 (s.host k).cqTail q + n - Tab.get z0 (s.host k).cqHead q) % n

/-- A CQ that can take one more reservation (R374). -/
def State.cqRoom (s : State) (k q : Nat) : Bool :=
  qOn (s.reg (cqReg k q)) &&
  decide (s.cqUsed k q + Tab.get z0 (s.host k).rsv q < ringSize (s.reg (cqReg k q + 8)) - 1)

/-- The CQ's message (R380): its vector, its count cleared and its timer stopped. A CQ with IEN = 0 has none. -/
def State.cqSignal (s : State) (k q : Nat) : State :=
  let cfg := s.reg (cqReg k q + 8)
  if !cfg.getLsbD 14 then s
  else (s.sendMsix k (fld cfg 8 6)).modHost k (fun h => { h with
    agg := Tab.set z0 h.agg q 0, timer := Tab.set (fun _ => none) h.timer q none })

/-- One entry was written to a CQ: AGG entries signal at once; otherwise the timer runs; TIMER_US 0 signals each. -/
def State.cqWritten (s : State) (k q : Nat) : State :=
  let cfg := s.reg (cqReg k q + 8)
  if !cfg.getLsbD 14 then s
  else
    let s1 := s.modHost k (fun h => { h with
      agg := Tab.set z0 h.agg q (Tab.get z0 h.agg q + 1)
      timer := if (Tab.get (fun _ => none) h.timer q).isSome then h.timer else Tab.set (fun _ => none) h.timer q (some s.clk) })
    if fld cfg 24 8 = 0 ∨ max 1 (fld cfg 16 8) ≤ Tab.get z0 (s1.host k).agg q then s1.cqSignal k q else s1

/-- A completion goes to its CQ as one 32-byte entry (R375); a CQ disabled
since the query's intake discards and counts it (R369, R390). `quiet`:
the write signals nothing (R389 step 6). -/
def State.postCq (s : State) (p k q gen sq head : Nat) (comp : List Byte) (quiet : Bool := false) : State :=
  let s0 := s.modHost k (fun h => { h with rsv := Tab.set z0 h.rsv q (Tab.get z0 h.rsv q - 1) })
  let w := s0.reg (cqReg k q)
  if !qOn w ∨ Tab.get z0 (s.host k).cqGen q ≠ gen then s.bump (viewP k + 0x610) 1
  else
    let h := s0.host k
    let n := ringSize (s0.reg (cqReg k q + 8))
    let t := Tab.get z0 h.cqTail q
    let inv := Tab.get (fun _ => false) h.phase q
    let e := comp ++ leBytes 2 head ++ leBytes 1 sq ++ leBytes 1 (if inv then 0 else 1) ++ zeros 12
    let s1 := s0.devWrite p (addA (qBase w) (32 * t)) e
    let s2 := s1.modHost k (fun h => { h with
      cqTail := Tab.set z0 h.cqTail q ((t + 1) % n)
      phase := if t + 1 = n then Tab.set (fun _ => false) h.phase q (!inv) else h.phase })
    if quiet then s2 else s2.cqWritten k q

/-- The bound VFs of a partition, by function number (R367). -/
def State.vfsOf (s : State) (p : Nat) : List Nat :=
  (List.range 32).filterMap (fun i => if s.fnPart (fnOfIdx (3 + i)) = some p then some (3 + i) else none)

end Sys2Proof.Machine
end

