-- ==== Sys2Proof/Machine/Tier.lean ====
section
/-! DEFINITION. Tier 0 and tier 1 accesses, scrub, migration, COMMIT of the TIER page and BAR2 (R214 to R238, R276,
R371). -/

namespace Sys2Proof.Machine

/-! ### Lines under error (R229 to R234) -/

/-- 64 free bytes. -/
def State.freeLine (s : State) : List Byte × State :=
  ((List.range 8).flatMap (fun i => leBytes 8 (Config.freeWord (s.free + i)).toNat), { s with free := s.free + 8 })

/-- A line is found uncorrectable: counted, logged and, where it is not yet, marked poisoned (R229, R230). -/
def State.findBad (s : State) (i k : Nat) (o : Nat) (scrub : Bool) : State :=
  let s1 := s.uncorr i o scrub
  if Tab.get (fun _ => false) s1.memBad k then s1
  else { s1 with memBad := Tab.set (fun _ => false) s1.memBad k true }.bump (ctlP i + 0x98) 1

/-- `n` of the numbers below 8, by a free choice. -/
def State.freeDevs (s : State) (n : Nat) : List Nat × State :=
  (List.range n).foldl (fun (x : List Nat × State) _ =>
    let r := x.2.choose ((List.range 8).filter (fun d => !x.1.contains d))
    (x.1 ++ r.1.toList, r.2)) ([], s)

/-- A line of which the devices `ds` drive wrong bits: a device drives 4 bits of each beat of 4 bytes. PRESUMED: device d drives
bits 4d to 4d + 3 of a beat, as a DDR5 subchannel numbers them (log entry 61). -/
def mixDevs (ds : List Nat) (old new : List Byte) : List Byte :=
  (List.range 64).map (fun i =>
    let m : Byte := (if ds.contains (i % 4 * 2) then 0x0F else 0) ||| (if ds.contains (i % 4 * 2 + 1) then 0xF0 else 0)
    (old.getD i 0 &&& ~~~m) ||| (new.getD i 0 &&& m))

/-- A corrected line is written back (R234). -/
def State.corrected (s : State) (i o : Nat) : State := (s.bump (ctlP i + 0x80) 1).yieldAt i o

/-- An error that the code does not bound: reported, corrected to a wrong line, or passed as a valid line (R231, R232). What is
wrong then, of a module's line, is what the wrong devices and one more drive. -/
def State.unbounded (s : State) (i k o errs : Nat) (scrub : Bool) (cases : Nat) : State :=
  let n := Config.freePick s.free % cases
  let s0 := { s with free := s.free + 1 }
  if n = 0 then s0.findBad i k o scrub
  else
    let f := s0.freeLine
    let d := f.2.freeDevs (if i < 48 then 8 else min 8 (errs + 1))
    let s1 := { d.2 with
      mem := Mem.putBytes d.2.mem (k * 64) (mixDevs d.1 (Mem.bytes d.2.mem (k * 64) 64) f.1)
      memBad := Tab.set (fun _ => false) d.2.memBad k false }
    if n = 1 then s1.corrected i o else s1

/-- The controller reads line `o / 64` of piece `i` with `errs` bytes (tier 0) or devices (tier 1) in error: it corrects
up to 2 bytes or 1 device, reports 3 to 6 bytes, reports 2 devices but for a pattern within a third device's error of a
codeword, and is not bound beyond. -/
def State.lineRead (s : State) (i o errs : Nat) (scrub : Bool) : State :=
  let k := physKey i o / 64
  if Tab.get (fun _ => false) s.memBad k then s.findBad i k o scrub
  else if errs = 0 then s
  else if errs ≤ (if i < 48 then 2 else 1) then s.corrected i o
  else if i < 48 ∧ errs ≤ 6 then s.findBad i k o scrub
  else s.unbounded i k o errs scrub (if 48 ≤ i ∧ errs = 2 then 2 else 3)

/-- Whether a line of a piece is poisoned. -/
def State.lineState (s : State) (i o : Nat) : List Byte × Bool :=
  let k := physKey i (o / 64 * 64)
  (Mem.bytes s.mem k 64, Tab.get (fun _ => false) s.memBad (k / 64))

/-! ### Requests at the controllers -/

/-- The request of a group fails with TIER_MAP_POISON (R219). -/
def State.failMap (s : State) (r : Req) : State :=
  match r.kind with
  | .rda | .wra | .atom => if isHart r.ctx then s else s.failQuery ((s.grp r.core r.group).f 0 4) 0x0402
  | _ => s

/-- Line `l` of a request has been read: its bytes, its poison. -/
def Req.gotLine (r : Req) (l : Nat) (bs : List Byte) (bad : Bool) : Req :=
  { r with
    stored := Mem.putBytes r.stored (64 * l) bs
    storedBad := Tab.set (fun _ => false) r.storedBad l bad
    lines := Tab.set (fun _ => false) r.lines l true }

/-- Stored line `l` of a read comes to its Expander (R248). -/
def State.lineCame (s : State) (r : Req) (l : Nat) : State × Req :=
  if r.rng.isNone then (s, r)
  else
    let x := (s.expOf r.part (r.lineAddr l)).getD r.exp
    let n := (s.expander x).arrivals
    (s.modExp x (fun e => { e with arrivals := n + 1 }), { r with came := Tab.set (fun _ => 0) r.came l n })

/-- The controller reads line `l` of read `i` at a place of a piece, and delivers it. -/
def State.serveLine (s : State) (i : Nat) (r : Req) (l g o errs : Nat) : State :=
  let a := r.lineAddr l
  let s1 := ((s.yieldAt g o).lineRead g o errs false).countAccess r.part a 1
  let s2 := s1.meterAdd r.part (if g < 48 then 3 else 4) 64
  let d := s2.lineState g o
  let s3 := if d.2 then s2.poisonRead r.part else s2
  s3.setReq i (some (r.gotLine l d.1 d.2))

/-- The reads that have a part of a block which `[a, a + n)` meets read the rest of it, before a block of the chip writes there: no
read sees a mix of two blocks (R253). -/
def State.finishHalf (s : State) (p : Nat) (a : Word) (n : Nat) : State :=
  s.reqs.keys.foldl (fun s i => match s.req i with
    | none => s
    | some r => if !readsTier r.kind || decide (r.part ≠ p) then s else match r.rng, r.blks with
      | some g, some (_, k) =>
        let bs := (List.range k).filter (fun b =>
          let ls := r.blkLines g b
          let lo := (r.blkAddr b).toNat
          ls.any r.lineDone && ls.any (fun l => !r.lineDone l) && decide (lo < a.toNat + n ∧ a.toNat < lo + g.rate.s))
        (bs.flatMap (r.blkLines g)).dedup.foldl (fun s l => match s.req i with
          | none => s
          | some r => if r.lineDone l then s else
            let t := s.lineCame r l
            match s.locate p (r.lineAddr l) with
            | some (.phys c o) => t.1.serveLine i t.2 l c o 0
            | some (.arch o) =>
              let u := (s.ns p).unit (o / 4096)
              t.1.setReq i (some (t.2.gotLine l ((u.1.drop (o % 4096 / 64 * 64)).take 64) u.2))
            | none => s) s
      | _, _ => s) s

def execTierRead (i : Nat) (line : Nat) (errs : Nat) (s0 : State) : Outc :=
  let s := s0.reach i
  match s.req i with
  | none => .next s0
  | some r0 =>
    if !readsTier r0.kind || r0.nLines ≤ line || r0.lineDone line then .next s0
    else
      let a := r0.lineAddr line
      let t := (s.translateAll r0.part a 1).lineCame r0 line
      let s0 := t.1
      let r := t.2
      if s0.mapBad r.part a then
        .next (((s0.failMap r).poisonRead r.part).setReq i (some (r.gotLine line (zeros 64) true)))
      else match s.locate r.part a with
      | some (.phys g o) =>
        if s.zeroingPiece g then .next s
        else if s.lineWaits i r line then .next (s.queueWait r.part a)
        else .next (s0.serveLine i r line g o errs)
      | _ => .next s

/-- What a WRA writes to line `l`: its place in the line and bytes, and whether a word or block of it is poisoned. The
source may have changed since the WRA issued: the line then takes its old or its new content (R89). -/
def State.wraLine (s : State) (r : Req) (l : Nat) : Nat × List Byte × Bool :=
  let lo := max (r.addr.toNat % 64) (64 * l)
  let hi := min r.storedEnd (64 * l + 64)
  let off := lo - r.addr.toNat % 64
  let n := hi - lo
  match r.rng with
  | some _ => (lo - 64 * l, Mem.bytes r.stored lo n, Tab.get (fun _ => false) r.storedBad l)
  | none =>
    let old := Mem.bytes r.old off n
    let k := s.core r.core
    let now := s.scr r.core (r.loc + off) n
    let oldBad := (Core.words off n).any (fun w => Tab.get (fun _ => false) r.oldBad w)
    let ch := k.check (r.loc + off) n
    let nowBad := ch.2.1 || ch.2.2
    let pickNow := (decide (old ≠ now) || decide (oldBad ≠ nowBad)) && Config.freeBit s.free
    if pickNow then (lo - 64 * l, now, nowBad) else (lo - 64 * l, old, oldBad)

/-- Line `l` of the WRA `i` is written at its place, or fails where it cannot be translated. -/
def State.writeReqLine (s : State) (i : Nat) (r : Req) (l : Nat) : State :=
  let w := s.wraLine r l
  let a := addA (r.lineAddr l) w.1
  let s0 := { s with free := s.free + 1 }
  let lo := r.addr.toNat % 64
  let fill := ((s0.translateAll r.part a 1).countAccess r.part a 1).fillAt r.part (addA (r.lineAddr 0) lo) (r.storedEnd - lo) (r.lineUnitNo l)
  let s1 := fill.writeLine r.part a w.2.1 w.2.2
  (if s1.mapBad r.part a then s1.failMap r else s1).setReq i (some { r with lines := Tab.set (fun _ => false) r.lines l true })

/-- Lines `ls` of the WRA `i`, one after the other. -/
def State.writeReqLines (s : State) (i : Nat) (ls : List Nat) : State :=
  ls.foldl (fun s l => match s.req i with
    | some r => s.writeReqLine i r l
    | none => s) s

/-- The write of a stored line, with the lines that a block of the WRA shares with it (R222, R253). -/
def execTierWrite (i : Nat) (line : Nat) (s0 : State) : Outc :=
  let s := s0.reach i
  match s.req i with
  | none => .next s0
  | some r =>
    let ls := r.lineGroup line
    match s.locate r.part (r.lineAddr line) with
    | some (.phys g _) =>
      if !s.groupFree r ls || s.zeroingPiece g then .next s0
      else if s.lineWaits i r line then .next (s.queueWait r.part (r.lineAddr line))
      else .next ((ls.foldl (fun s l => s.yieldLines r.part (r.lineAddr l) 1) s).writeReqLines i ls)
    | _ => .next s0

/-- A space-2 ATOM: one read-modify-write of 8 bytes, once its piece is zeroed or its flash unit's LUN has served the older reads
(R314, R371); poison writes nothing and faults its thread (R92). -/
def execTierAtom (i : Nat) (errs : Nat) (s : State) : Outc :=
  match s.req i with
  | none => .next s
  | some r =>
    let piece : Bool := match s.locate r.part r.addr with
      | some (.phys g _) => s.zeroingPiece g
      | some (.arch o) => match (s.ns r.part).inFlash (o / 4096) with
        | some cw => !s.oldestAt i r 0 (s.cwLun r.part cw)
        | none => false
      | none => false
    if r.kind ≠ .atom ∨ r.answered ∨ piece then .next s
    else if s.lineWaits i r 0 then .next (s.queueWait r.part r.addr)
    else
      let s0 := s.translateAll r.part r.addr 8
      let t := s0.readUnits r.part r.addr 8
      let lost := decide (t.2 ≠ [])
      let s1 := match s.locate r.part r.addr with
        | some (.phys g o) => ((s0.yieldAt g o).lineRead g o errs false).meterAdd r.part (if g < 48 then 3 else 4) 64
        | l => (if t.1.lineBad r.part r.addr || lost then t.1.reportLoc r.part l else t.1).meterAdd r.part 5 4096
      let s2 := s1.countAccess r.part r.addr 1
      let d := s2.peek r.part r.addr 8
      let v : Word := BitVec.ofNat 64 (leNat d.1)
      if d.2 || lost then .next (((if s2.mapBad r.part r.addr then s2.failMap r else s2).poisonRead r.part).setReq i (some { r with answered := true, code := 0x0284 }))
      else
        let s3 := match atomNew r.op v r.a r.b with
          | some w => (s2.countDrops r.part r.addr 8).writeLine r.part r.addr (leBytes 8 w.toNat) false
          | none => s2
        .next ((s3.setReq i (some { r with answered := true, b := v })).fillStripes r.part false)

/-- Capacity of a piece in bytes. -/
def State.pieceCap (s : State) (i : Nat) : Nat :=
  if i < 48 then pairCap else fld (s.reg (mcP (i - 48) + 0x40)) 4 9 * 2 ^ 30

/-- Line of a module's command-and-result window (R262). -/
def State.windowLine (s : State) (g line : Nat) : Option Nat :=
  if 48 ≤ g ∧ s.isCarrel (g - 48) ∧ s.pieceCap g - 64 * 2 ^ 20 ≤ line * 64 then some (line - (s.pieceCap g - 64 * 2 ^ 20) / 64)
  else none

/-- A scrub read of a line of the window, of which nothing is corrected or marked (R277). -/
def State.scrubWindow (s : State) (g line w errs : Nat) : State :=
  if (s.car (g - 48)).run ≠ none then s
  else
    let s1 := ({ s with free := s.free + 1 } : State).bump (ctlP g + 0x90) 1
    if (s.car (g - 48)).winBad.contains w then s1.uncorr g (line * 64) true
    else if errs = 0 then s1
    else if errs = 1 then s1.bump (ctlP g + 0x80) 1
    else match Config.freePick s.free % (if errs = 2 then 2 else 3) with
      | 0 => s1.uncorr g (line * 64) true
      | 1 => s1.bump (ctlP g + 0x80) 1
      | _ => s1

/-- A scrub read of one line (R234). -/
def execScrubRead (g : PieceId) (line : Nat) (errs : Nat) (s : State) : Outc :=
  if s.pieceCap g ≤ line * 64 ∨ s.zeroingPiece g then .next s
  else match s.windowLine g line with
  | some w => .next (s.scrubWindow g line w errs)
  | none => .next (((s.yieldAt g (line * 64)).bump (ctlP g + 0x90) 1).lineRead g (line * 64) errs true)

def execPieceZeroingDone (g : PieceId) (s : State) : Outc :=
  .next (if s.zeroingPiece g then s.zeroed g else s)

/-! ### Migration (R223 to R227) -/

def pCnt (x : TierPart) (g : Nat) : Nat := Tab.get (fun _ => 0) x.pcnt g
def xCnt (x : TierPart) (e : Nat) : Nat := Tab.get (fun _ => 0) x.xcnt e

/-- Pages and extents of the unified range; places of the tier 0 pool; extent slots of tiers 1 and 2. -/
def State.uPages (s : State) (p : Nat) : Nat := s.uSize p / MiB2
def State.uExts (s : State) (p : Nat) : Nat := s.uSize p / MiB64
def State.t0Pool (s : State) (p : Nat) : Nat := (s.quota p 0 - mapBytes (s.uSize p)) / MiB2
def State.extSlots (s : State) (p t : Nat) : Nat := if t = 1 then s.t1Extents p else s.quota p 2 / MiB64

/-- The 4 bytes of a map entry (R218). -/
def PageEnt.word (e : PageEnt) : Nat := e.res % 4 + (if e.pin then 4 else 0) + (if e.moving then 8 else 0) + e.slot * 16

/-- The Tier block writes the entries of pages `gs` into the partition's map (R218). -/
def State.putMap (s : State) (p : Nat) (gs : List Nat) : State :=
  gs.foldl (fun s g => match s.mapEntry p g with
    | some (.phys i o) => { s with mem := Mem.putBytes s.mem (physKey i o) (leBytes 4 (s.page p g).word) }
    | _ => s) s

/-- The pages that a move concerns. -/
def Move.pages (m : Move) : List Nat := if m.ext then (List.range 32).map (· + 32 * m.num) else [m.num]

/-- Slots of a tier that hold nothing (page slots of tier 0; extent slots of tiers 1 and 2). -/
def State.freeSlots (s : State) (p t : Nat) : List Nat :=
  if t = 0 then
    let used := (s.tp p).t0.cells.filterMap (fun c => c.2)
    (List.range (s.t0Pool p)).filter (fun k => !used.contains k)
  else
    let used := (List.range (s.uExts p)).filterMap (fun x => if (s.extent p x).1 = t then some (s.extent p x).2 else none)
    (List.range (s.extSlots p t)).filter (fun k => !used.contains k)

/-- Pages of an extent with a tier 0 copy, and whether a page of it is pinned. -/
def State.upPages (s : State) (p x : Nat) : List Nat :=
  ((List.range 32).map (· + 32 * x)).filter (fun g => decide ((s.page p g).res = 0))
def State.extPinned (s : State) (p x : Nat) : Bool := (List.range 32).any (fun k => (s.page p (32 * x + k)).pin)

def coldest (cnt : Nat → Nat) (l : List Nat) : Option Nat := firstBy cnt (fun a b => decide (a < b)) l

/-- Hottest first; ties in ascending number. -/
def byHeat (cnt : Nat → Nat) (l : List Nat) : List Nat :=
  l.foldl (fun acc a =>
    let (hi, lo) := acc.span (fun b => decide (cnt a ≤ cnt b))
    hi ++ a :: lo) []

/-- Ascending order. -/
def insAsc (a : Nat) : List Nat → List Nat
  | [] => [a]
  | b :: r => if a ≤ b then a :: b :: r else b :: insAsc a r
def sortAsc (l : List Nat) : List Nat := l.foldl (fun acc a => insAsc a acc) []

/-- Moves that R224 chooses for pages: `up` are the pages in tier 0 so far. -/
def choosePages (cnt : Nat → Nat) (pinned : Nat → Bool) (pool hyst : Nat) : List Nat → List Nat → List Move
  | [], _ => []
  | g :: r, up =>
    if up.length < pool then { ext := false, num := g, dst := 0 } :: choosePages cnt pinned pool hyst r (g :: up)
    else match coldest cnt (sortAsc (up.filter (fun v => !pinned v))) with
      | none => []
      | some v =>
        if cnt v + hyst ≤ cnt g then
          { ext := false, num := v, dst := 1 } :: { ext := false, num := g, dst := 0 } ::
            choosePages cnt pinned pool hyst r (g :: up.filter (· ≠ v))
        else []

/-- Moves that R224 chooses for extents: `low` are the extents in tier 1 so far; `up` the tier 0 pages of an extent. -/
def chooseExts (cnt : Nat → Nat) (pinned : Nat → Bool) (upOf : Nat → List Nat) (slots hyst : Nat) :
    List Nat → List Nat → List Move
  | [], _ => []
  | x :: r, low =>
    if low.length < slots then { ext := true, num := x, dst := 1 } :: chooseExts cnt pinned upOf slots hyst r (x :: low)
    else match coldest cnt (sortAsc (low.filter (fun v => !pinned v))) with
      | none => []
      | some v =>
        if cnt v + hyst ≤ cnt x then
          (upOf v).map (fun g => { ext := false, num := g, dst := 1 }) ++
          { ext := true, num := v, dst := 2 } :: { ext := true, num := x, dst := 1 } ::
            chooseExts cnt pinned upOf slots hyst r (x :: low.filter (· ≠ v))
        else []

/-- The moves of a period, at most MOVES_MAX. -/
def State.chooseMoves (s : State) (p : Nat) : List Move :=
  let x := s.tp p
  let th := s.reg 0x9048
  let pages := List.range (s.uPages p)
  let exts := List.range (s.uExts p)
  let pin g := (s.page p g).pin
  let hot := byHeat (pCnt x) (pages.filter (fun g => decide ((s.page p g).res = 1 ∧ fld th 0 16 ≤ pCnt x g) && !pin g))
  let m1 := choosePages (pCnt x) pin (s.t0Pool p) (fld th 16 16) hot (pages.filter (fun g => decide ((s.page p g).res = 0)))
  let hotX := byHeat (xCnt x) (exts.filter (fun e =>
    decide ((s.extent p e).1 = 2 ∧ fld th 32 16 * 64 ≤ xCnt x e) && !s.extPinned p e))
  let upAfter e := (s.upPages p e).filter (fun g => !m1.any (fun m => decide (m.dst = 1 ∧ m.num = g))) ++
    (m1.filter (fun m => decide (m.dst = 0 ∧ m.num / 32 = e))).map (·.num)
  let m2 := chooseExts (xCnt x) (s.extPinned p) upAfter (s.extSlots p 1) (fld th 48 16 * 64) hotX
    (exts.filter (fun e => decide ((s.extent p e).1 = 1)))
  (m1 ++ m2).take (fld (s.reg 0x9040) 24 8)

/-- Takes a destination slot and sets MOVING (R225 step 1); none where no slot is free. -/
def State.startMove (s : State) (p : Nat) (m : Move) : Option State :=
  if !m.ext && decide (m.dst = 1) then some ((s.modTp p (fun x => { x with move := some m })).putMap p m.pages)
  else
    let r := s.choose (s.freeSlots p m.dst)
    match r.1 with
    | none => none
    | some k => some ((r.2.modTp p (fun x => { x with move := some { m with slot := k } })).putMap p m.pages)

/-- Whether a queued move still makes sense. -/
def State.moveFits (s : State) (p : Nat) (m : Move) : Bool :=
  if m.ext then decide ((s.extent p m.num).1 ≠ m.dst) && decide (s.upPages p m.num = [])
  else if m.dst = 0 then decide ((s.page p m.num).res = 1) else decide ((s.page p m.num).res = 0)

/-- Starts the next counter-driven move that can start. -/
def State.nextMove (s : State) (p : Nat) : List Move → State
  | [] => s.modTp p (fun x => { x with moveQ := [] })
  | m :: r =>
    match (if s.moveFits p m then s.startMove p m else none) with
    | some s1 => s1.modTp p (fun x => { x with moveQ := r })
    | none => s.nextMove p r

/-! #### Batches -/

/-- What an item of a batch needs next: nothing, a move, or there is no space (R227). -/
inductive Need where
  | nothing
  | move (m : Move)
  | noSpace
deriving DecidableEq, Repr

/-- Makes room for an extent in tier 1: the coldest unpinned one goes down, its tier 0 pages first. -/
def State.roomT1 (s : State) (p : Nat) : Need :=
  match coldest (xCnt (s.tp p)) ((List.range (s.uExts p)).filter (fun e =>
      decide ((s.extent p e).1 = 1) && !s.extPinned p e)) with
  | none => .noSpace
  | some v => match s.upPages p v with
    | g :: _ => .move { ext := false, num := g, dst := 1, batch := true }
    | [] => if s.freeSlots p 2 = [] then .noSpace else .move { ext := true, num := v, dst := 2, batch := true }

/-- Pulls an extent up to tier 1. -/
def State.pullExt (s : State) (p e : Nat) : Need :=
  if s.freeSlots p 1 = [] then s.roomT1 p else .move { ext := true, num := e, dst := 1, batch := true }

def State.need (s : State) (p num target : Nat) : Need :=
  match target with
  | 2 =>
    if (s.extent p num).1 = 2 then .nothing
    else match s.upPages p num with
      | g :: _ => .move { ext := false, num := g, dst := 1, batch := true }
      | [] => if s.freeSlots p 2 = [] then .noSpace else .move { ext := true, num := num, dst := 2, batch := true }
  | 1 =>
    match (s.page p num).res with
    | 0 => .move { ext := false, num := num, dst := 1, batch := true }
    | 1 => .nothing
    | _ => s.pullExt p (num / 32)
  | _ =>
    match (s.page p num).res with
    | 0 => .nothing
    | 1 =>
      if s.freeSlots p 0 ≠ [] then .move { ext := false, num := num, dst := 0, batch := true }
      else match coldest (pCnt (s.tp p)) ((List.range (s.uPages p)).filter (fun g =>
          decide ((s.page p g).res = 0) && !(s.page p g).pin)) with
        | none => .noSpace
        | some v => .move { ext := false, num := v, dst := 1, batch := true }
    | _ => s.pullExt p (num / 32)

/-- PIN or UNPIN of a page or of an extent's pages. -/
def State.applyPin (s : State) (p num target flags : Nat) : State :=
  let gs := if target = 2 then (List.range 32).map (· + 32 * num) else [num]
  (s.modTp p (fun x => { x with pins := gs.foldl (fun t g =>
    if bit flags 0 then Tab.set (fun _ => false) t g true
    else if bit flags 1 then Tab.set (fun _ => false) t g false else t) x.pins })).putMap p (if bit flags 0 || bit flags 1 then gs else [])

/-- Works through a batch's items until one needs a move or the batch ends. -/
def State.batchRun (s : State) (p : Nat) (b : Batch) : List (Nat × Nat × Nat) → State
  | [] => (s.modTp p (fun x => { x with batch := none })).loswDone p b.slot
  | (num, t, fl) :: r =>
    let fail := (s.modTp p (fun x => { x with batch := none })).loswFail p b.slot 0x0411
    match s.need p num t with
    | .nothing =>
      let s1 := s.applyPin p num t fl
      (s1.loswProg p b.slot ((s1.losw p b.slot).prog + (if t = 2 then 32 else 1))).batchRun p b r
    | .move m => match s.startMove p m with
      | some s1 => s1.modTp p (fun x => { x with batch := some { b with todo := (num, t, fl) :: r } })
      | none => fail
    | .noSpace => fail

/-- What runs after a move has ended: the batch, or the next counter-driven move. -/
def State.afterMove (s : State) (p : Nat) : State :=
  match (s.tp p).batch with
  | some b => s.batchRun p b b.todo
  | none => s.nextMove p (s.tp p).moveQ

/-- PERIOD_US, 100 to 10,000, in ticks (R237). -/
def State.migTicks (s : State) : Nat := 100 * min 10000 (max 100 (fld (s.reg 0x9040) 4 16))

def execMigrationPeriod (p : PartId) (s : State) : Outc :=
  if !s.unified p || !periodEnds s.clk (s.tp p).periodAt s.migTicks then .next s
  else
    let x := s.tp p
    let ms := if (s.reg 0x9040).getLsbD 0 ∧ x.batch = none then s.chooseMoves p else []
    let half (t : Tab Nat) : Tab Nat := t.keys.foldl (fun t k => Tab.set (fun _ => 0) t k (Tab.get (fun _ => 0) t k / 2)) t
    let s1 := s.modTp p (fun x => { x with pcnt := half x.pcnt, xcnt := half x.xcnt, periodAt := s.clk, moveQ := x.moveQ ++ ms })
    .next (if x.move = none ∧ x.batch = none then s1.nextMove p (s1.tp p).moveQ else s1)

/-- The 64 bytes of a place and their poison. -/
def State.getLoc (s : State) (p : Nat) : Option Loc → List Byte × Bool
  | some (.phys i o) => s.lineState i o
  | some (.arch o) => let u := (s.ns p).unit (o / 4096)
    ((u.1.drop (o % 4096 / 64 * 64)).take 64, u.2)
  | none => (zeros 64, false)

/-- Copies sub-blocks (4 KiB each) from one place of the view to another, poison with them (R225, R226), through the partition's own
queues (R221). -/
def State.copySubs (s : State) (p st so dt d0 : Nat) (subs : List Nat) : State :=
  subs.foldl (fun s b =>
    let w := (s.placeWaits p st (s.place p st (so + b * 4096))).placeWaits p dt (s.place p dt (d0 + b * 4096))
    let u := match s.place p st (so + b * 4096) with
      | some (.arch o) => w.readUnit p (o / 4096)
      | _ => (w, false)
    ((List.range 64).foldl (fun s k =>
      let o := b * 4096 + k * 64
      let l := s.place p st (so + o)
      let x := s.getLoc p l
      let arch := match l with
        | some (.arch _) => true
        | _ => false
      let bad := x.2 || u.2
      let s1 := if bad && (!arch || decide (o % 4096 = 0)) then (s.reportLoc p l).poisonRead p else s
      s1.putLoc p (s.place p dt (d0 + o)) x.1 bad) u.1).fillStripes p false) s

/-- The commit of a move (R225 steps 5 and 6). -/
def State.commitMove (s : State) (p : Nat) (m : Move) : State :=
  let ctr (s : State) (up : Bool) : State := s.bump (0x9300 + p * 0x40 + (if up then 0x20 else 0x28)) 1
  if m.ext then
    let e := s.extent p m.num
    let s1 := s.copySubs p e.1 (e.2 * MiB64) m.dst (m.slot * MiB64) (List.range 16384)
    ctr (s1.modTp p (fun x => { x with ext := Tab.set (fun _ => none) x.ext m.num (some (m.dst, m.slot)) })) (decide (m.dst < e.1))
  else
    let home := (s.extent p (m.num / 32)).2 * MiB64 + m.num % 32 * MiB2
    if m.dst = 0 then
      let s1 := s.copySubs p 1 home 0 (m.slot * MiB2) (List.range 512)
      ctr (s1.modTp p (fun x => { x with
        t0 := Tab.set (fun _ => none) x.t0 m.num (some m.slot)
        since := (List.range 512).foldl (fun t b => Tab.set (fun _ => false) t (m.num * 512 + b) false) x.since })) true
    else
      let x := s.tp p
      let sl := (Tab.get (fun _ => none) x.t0 m.num).getD 0
      let s1 := s.copySubs p 0 (sl * MiB2) 1 home
        ((List.range 512).filter (fun b => Tab.get (fun _ => false) x.since (m.num * 512 + b)))
      ctr (s1.modTp p (fun x => { x with t0 := Tab.set (fun _ => none) x.t0 m.num none })) false

/-- A move is abandoned: counted and logged; a batch tries once more, then fails (R225 step 4, R227). -/
def State.abandonMove (s : State) (p : Nat) (m : Move) : State :=
  let s1 := (((s.modTp p (fun x => { x with move := none })).putMap p m.pages).bump (0x9300 + p * 0x40 + 0x30) 1).logEv 0x0421 2 (some p) []
  match m.batch, (s1.tp p).batch with
  | true, some b =>
    if b.retry then
      ((s1.modTp p (fun x => { x with batch := none })).loswFail p b.slot 0x0414).afterMove p
    else (s1.modTp p (fun x => { x with batch := some { b with retry := true } })).afterMove p
  | _, _ => s1.afterMove p

/-- The copy passes end. Sub-blocks still dirty after the second pass are some of those written during the move: with
more than 16 written, whether more than 16 are left is a free choice (R225). A move down to tier 2 that the namespace
cannot take is abandoned (R226). -/
def execMoveCopyDone (p : PartId) (s : State) : Outc :=
  match (s.tp p).move with
  | none => .next s
  | some m =>
    let n := s.ns p
    let over16 := decide (16 < m.dirty.cells.length) && Config.freeBit s.free
    let s0 := { s with free := s.free + 1 }
    if over16 || (m.ext && decide (m.dst = 2) && !n.takesWrite) then .next (s0.abandonMove p m)
    else
      let s1 := ((s0.commitMove p m).modTp p (fun x => { x with move := none, batch := x.batch.map (fun b => { b with retry := false }) })).putMap p m.pages
      .next (s1.afterMove p)

/-- One entry of a batch's list, expanded; none where it breaks R227. -/
def batchEntry (u : Nat) (e : List Byte) : Option (List (Nat × Nat × Nat)) :=
  let a := wAt e 0
  let n := leAt e 8 4
  let t := bAt e 12
  let fl := bAt e 13
  let o := aOff a
  let unit := if t = 2 then MiB64 else MiB2
  if t ≤ 2 ∧ fl < 3 ∧ zeroAt e 14 2 ∧ 0 < n ∧ fld a 50 14 = 0 ∧ aSpace a = 3 ∧ o % unit = 0 ∧ o + n * MiB2 ≤ u ∧
      (t = 2 → n % 32 = 0) then
    some (if t = 2 then (List.range (n / 32)).map (fun k => (o / MiB64 + k, t, fl))
      else (List.range n).map (fun k => (o / MiB2 + k, t, fl)))
  else none

/-- All entries, or none. -/
def batchEntries (u : Nat) : List (List Byte) → Option (List (Nat × Nat × Nat))
  | [] => some []
  | e :: r => match batchEntry u e, batchEntries u r with
    | some a, some b => some (a ++ b)
    | _, _ => none

def execMigrationBatch (f : Fn) (p : PartId) (o : SlotId) (s : State) : Outc :=
  let s := s.access f
  .next (s.lopStart f p o 0x04 false 16 (fun s rq =>
    let a := wAt rq 0
    let n := leAt rq 8 4
    if !s.unified p then s.loswFail p o 0x0413
    else if (s.tp p).batch ≠ none then s.loswFail p o 0x0412
    else if n = 0 ∨ 4096 < n ∨ !zeroAt rq 12 4 ∨ a.toNat % 16 ≠ 0 ∨ !s.inAlloc p a (16 * n) then s.loswFail p o 0x0410
    else
      let r := s.devRead p a (16 * n)
      match r.2.2, batchEntries (s.uSize p) ((List.range n).map (fun i => (r.2.1.drop (16 * i)).take 16)) with
      | false, some todo =>
        let total := (todo.map (fun e => if e.2.1 = 2 then 32 else 1)).foldl (· + ·) 0
        let s1 := (r.1.loswRun p o total false).modTp p (fun x => { x with batch := some { slot := o.val, todo := todo } })
        if (s1.tp p).move = none then s1.afterMove p else s1
      | _, _ => r.1.loswFail p o 0x0410))

/-! ### COMMIT of the TIER page (R220, R237) -/

/-- The staged registers of partition `p`: VIEW word, quotas. -/
def tierOk (s : State) (p : Nat) : Bool :=
  let v := s.reg (qReg p 0)
  let v0 := s.inForce (qReg p 0)
  let q := s.reg (qReg p 1)
  let q0 := s.inForce (qReg p 1)
  let t2 := s.reg (qReg p 2)
  let t20 := s.inForce (qReg p 2)
  let depth n := decide (1 ≤ n ∧ n ≤ 256)
  let uni := v.getLsbD 0
  let u := fld t2 32 23 * MiB64
  let c0 := (s.pairsOf p).length * pairCap
  let c1 := ((s.chansOf p).map s.chanCap).foldl (· + ·) 0
  let c2 := if (s.ns p).formatted then (s.ns p).cap * 4096 else 0
  let ranges := depth (fld v 8 9) && depth (fld v 32 9) && depth (fld v 48 9)
  let caps := decide (fld q 0 17 * MiB2 ≤ c0 ∧ fld q 32 21 * MiB2 ≤ c1) &&
    (decide (fld t2 0 22 = fld t20 0 22) && !(s.ns p).formatted || decide (fld t2 0 22 * MiB64 ≤ c2))
  let view := if uni then
      decide (u + (s.tp p).t0.cells.length * MiB2 ≤ fld q 32 21 * MiB2 + fld t2 0 22 * MiB64 ∧
        mapBytes u + MiB2 ≤ fld q 0 17 * MiB2)
    else decide (u = 0)
  let live := decide (s.coresOf p = []) || (decide (fld v 0 2 = fld v0 0 2 ∧ fld t2 32 23 = fld t20 32 23 ∧
    fld q0 0 17 ≤ fld q 0 17 ∧ fld q0 32 21 ≤ fld q 32 21 ∧ fld t20 0 22 ≤ fld t2 0 22))
  ranges && caps && view && live

/-- A new map of a partition whose view, range size or a quota has changed downwards (R218): it stands for every raised
quota later. After a reset the Tier block still holds the map of the same range, whose tier 2 part names what is there
(R226). -/
def State.newMap (s : State) (p : Nat) : State :=
  let u := if s.unified p then s.uSize p else 0
  (s.modTp p (fun x => if x.usize = u ∧ u ≠ 0 ∧ x.base1 ≤ s.t1Extents p then x
    else { base1 := s.t1Extents p, usize := u, periodAt := x.periodAt })).putMap p (List.range (u / MiB2))

/-- Whether the staged words of `p` leave its map as it is. -/
def State.keepsMap (s : State) (p : Nat) : Bool :=
  let q := s.reg (qReg p 1)
  let q0 := s.inForce (qReg p 1)
  let t2 := s.reg (qReg p 2)
  let t20 := s.inForce (qReg p 2)
  decide (fld (s.reg (qReg p 0)) 0 1 = fld (s.inForce (qReg p 0)) 0 1 ∧ fld t2 32 23 = fld t20 32 23 ∧
    fld q0 0 17 ≤ fld q 0 17 ∧ fld q0 32 21 ≤ fld q 32 21 ∧ fld t20 0 22 ≤ fld t2 0 22)

def execTierCommit (f : Fn) (s : State) : Outc :=
  let s := s.access f
  let changed := (List.range 16).filter (fun p => !s.keepsMap p)
  .next (s.commit f ⟨.tier, 0, 0x9000⟩ (fun s => if (List.range 16).all (tierOk s) then .ok else .invalid)
    (fun s => changed.foldl (fun s p => s.newMap p) s))

/-! ### BAR2 (R235, R236) -/

/-- The window that a BAR2 offset goes through: partition and device address. -/
def State.window (s : State) (f : Fn) (x : BitVec 36) : Option (Nat × Word) :=
  let w := x.toNat / 2 ^ 33
  let at_ (r : Word) (p : Nat) : Option (Nat × Word) :=
    if r.getLsbD 0 then some (p, addA (BitVec.ofNat 64 (fld r 33 17 * 2 ^ 33)) (x.toNat % 2 ^ 33)) else none
  if s.pwr.phase ≠ 9 ∨ !s.fnLive f then none
  else match f with
    | .sp => none
    | .pf b => let r := s.reg (0x9C00 + portIdx b * 0x40 + w * 8)
      at_ r (fld r 4 4)
    | .vf b n => match s.fnPart (.vf b n) with
      | none => none
      | some p => at_ (s.reg (0x9800 + p * 0x40 + w * 8)) p

/-- An access of `n` bytes that the window, the allocation and the pieces allow (R216, R236, R371). -/
def State.bar2 (s : State) (f : Fn) (x : BitVec 36) (n : Nat) : Option (Nat × Word) :=
  match s.window f x with
  | none => none
  | some (p, a) =>
    if 0 < n ∧ x.toNat % 4096 + n ≤ 4096 ∧ s.inAlloc p a n ∧ !s.meetsZero p a n then some (p, a) else none

def execBar2Read (f : Fn) (x : BitVec 36) (n : Nat) (s : State) : Outc :=
  match s.bar2 f x n with
  | none => .next { s with resp := { ur := true } }
  | some (p, a) =>
    let r := s.devRead p a n
    .next { r.1 with resp := { bytes := r.2.1, poison := r.2.2 } }

def execBar2Write (f : Fn) (x : BitVec 36) (data : List Byte) (s : State) : Outc :=
  match s.bar2 f x data.length with
  | none => if f = .sp then .next s else .next (s.bump (viewP (fnIdx f) + 0x618) 1)
  | some (p, a) => .next (s.devWrite p a data)

end Sys2Proof.Machine
end

