-- ==== Sys2Proof/Machine/Archive.lean ====
section
/-! DEFINITION. The Archive Controller: writes, programs, durability, checkpoints, mount, reads, collection, wear, discard,
flush and format (R305 to R336). -/

namespace Sys2Proof.Machine

/-- Units that the lines `ls` of a WRA begin: those of which they hold the first line, and that of the request's first line. -/
def State.unitsBegun (s : State) (r : Req) (ls : List Nat) : List Nat :=
  ls.filter (fun l => match s.locate r.part (r.lineAddr l) with
    | some (.arch o) => decide (l = 0 ∨ o % 4096 < 64)
    | _ => false)

/-- Stages line `line` of a tier 2 WRA (R221, R311), with the lines that a block of it shares. -/
def execArchiveWrite (i : Nat) (line : Nat) (s0 : State) : Outc :=
  let s := s0.reach i
  match s.req i with
  | none => .next s0
  | some r =>
    let ls := r.lineGroup line
    match s.locate r.part (r.lineAddr line) with
    | some (.arch o) =>
      let p := r.part
      let n := s.ns p
      if !s.groupFree r ls || (n.formatted && (!n.mounted || n.holdsWrite (o / 4096))) then .next s0
      else if s.lineWaits i r line then .next (s.queueWait p (r.lineAddr line))
      else if n.takesWrite && !s.stageRoom p (o / 4096) then .next (s.waitCycles (arcCnt p 0x58))
      else
        let s1 := (s.unitsBegun r ls).foldl (fun s l => s.countDrops p (r.lineAddr l) 1) s
        let s2 := (s1.t2Seen p).writeReqLines i ls
        .next (s2.fillStripes p false)
    | _ => .next s0

/-- STRIPE_CLOSE_US after its first unit, the open stripe is programmed with PAD codewords (R312). -/
def execStripeCloseExpiry (p : PartId) (s : State) : Outc :=
  match s.stripeUnits p with
  | x :: _ => .next (if s.stripeTicks ≤ (s.clk - x.since).toNat then s.fillStripes p true else s)
  | [] => .next s

/-! ### Retirement and life (R316, R322, R323) -/

/-- ENDURANCE of R322. -/
def State.endurance (s : State) (p : Nat) : Nat :=
  let w := fld (s.reg 0x60048) 32 16
  if w ≠ 0 then w else match s.flashOf p with
    | c :: _ => 100 * fld (s.reg (fcP c + 0x48)) 48 16
    | [] => 0

/-- Life used of a namespace (R322). -/
def State.lifeOf (s : State) (p : Nat) : Nat :=
  let n := s.ns p
  let total := sumNat (n.all.map (fun b => (n.sb b).erases))
  let a := if n.dataSb * s.endurance p = 0 then 0 else 100 * total / (n.dataSb * s.endurance p)
  let spares := n.sparesAt * (s.lunChans p).length
  min 255 (max a (if spares = 0 then 0 else 100 * n.retired / spares))

/-- Recomputes the life used and logs the thresholds crossed. -/
def State.updLife (s : State) (p : Nat) : State :=
  let old := (s.ns p).life
  let life := s.lifeOf p
  [80, 90, 100].foldl (fun s t => if old < t ∧ t ≤ life then s.logEv 0x0822 4 (some p) [] else s) (s.modNs p (fun n => { n with life := life }))

/-- Retires block `k` of a superblock, member × 4 + plane, unless that is done; the table of its LUN names it from then on (R329);
without a spare left in its LUN the namespace becomes read-only. -/
def State.retireBlock (s : State) (p sb k : Nat) (unerased : Bool) : State :=
  if ((s.ns p).sb sb).retired.contains k then s
  else
    let lun := s.memberLun p sb (k / 4)
    let used := Tab.get z0 (s.ns p).spUsed lun
    let id := (s.lunIds p).getD lun 0
    let s1 := (s.bump (arcCnt p 0x40) 1).bump (arcCnt p 0x48) (if unerased then 1 else 0)
    let s2 := (({ s1 with badBlks := Tab.set (fun _ => none) s1.badBlks id (some ((Tab.get (fun _ => none) s1.badBlks id).getD 0 + 1)) } :
      State).logEv 0x0820 3 (some p) []).modNs p (fun n =>
      ({ n with retired := n.retired + 1 }.addRec ⟨6, 0, sb, 0, 0⟩).modSb sb (fun x => { x with retired := x.retired ++ [k] }))
    let s3 := if (s.ns p).sparesAt ≤ used then
        (if (s.ns p).readOnly then s2 else s2.logEv 0x0821 6 (some p) []).modNs p (fun n => { n with readOnly := true })
      else s2.modNs p (fun n => { n with spUsed := Tab.set z0 n.spUsed lun (used + 1) })
    s3.updLife p

/-! ### Programs and durability (R312, R316) -/

/-- Journals the MAP records of a stripe that has been programmed: of every host unit that no discard has dropped, and of a
collected one while the map still names a codeword of the same sequence. -/
def Ns.mapRecs (n : Ns) (st : Stripe) (rows : Nat) : List JRec :=
  ((List.range st.units.length).zip st.units).filterMap (fun x =>
    let c := x.2
    let keep := !st.drop.contains c.lu && (st.host || (match n.cw c.lu with
      | some o => decide (o.seq = c.seq)
      | none => false))
    if keep then some ⟨1, 0, c.lu, (st.sb * rows + st.row) * 60 + x.1, c.seq⟩ else none)

/-- Logical unit and write sequence of every codeword of a superblock: its summary, or the metadata of one without. -/
def Ns.entries (n : Ns) (rows b : Nat) : List (Nat × Nat) :=
  if (n.sb b).summary ≠ [] then (n.sb b).summary
  else n.cws.cells.filterMap (fun c => match c.2 with
    | some w => if sbOf rows c.1 = b ∧ w.flags < 4 then some (w.lu, w.seq) else none
    | none => none)

/-- The codewords of a summary stripe, FLAGS[2] set (R307, R308). DESIGN CHOICE: the manual does not lay the summary out; its
entries of 8 bytes lie in codeword order, as far as the stripe holds them (log entry 66). -/
def sumCws (es : List (Nat × Nat)) : List Codeword :=
  let bs := es.flatMap (fun e => leBytes 4 e.1 ++ leBytes 4 e.2)
  (List.range 60).map (fun k =>
    let d := (bs.drop (4096 * k)).take 4096
    ⟨0, 0, 4, d ++ zeros (4096 - d.length)⟩)

/-- The pages of a stripe are in flash, parity included; the journal has the records of its units. -/
def Ns.programmed (n : Ns) (p : Nat) (st : Stripe) (rows : Nat) : Ns :=
  let es := n.entries rows st.sb
  let units := if st.sum then sumCws es else st.units
  let k := st.sb * rows + st.row
  let n1 := if st.sum then n.modSb st.sb (fun x => { x with summary := es })
    else { n with jOpen := n.jOpen ++ n.mapRecs st rows, colSince := if st.host then n.colSince else n.colSince + 1 }
  { n1 with
    cws := ((List.range units.length).zip units).foldl (fun t x => Tab.set (fun _ => none) t (k * 60 + x.1) (some x.2)) n1.cws
    parity := Tab.set (fun _ => []) n1.parity k (parityOf p units) }

/-- A superblock with a failed program takes no further stripe of units until it is erased: it closes, and the stripe is to be
programmed again. DEDUCED: a stripe is programmed only as a whole, so the plane of a retired block takes none (log entry 68). -/
def State.programAgain (s : State) (p : Nat) (st : Stripe) : State :=
  let shut := decide (((s.ns p).sb st.sb).st = .opened)
  let s1 := s.modNs p (fun n => { (if shut then n.modSb st.sb (fun x => { x with st := .closed }) else n) with
    hostSb := n.hostSb.filter (· ≠ st.sb), colSb := n.colSb.filter (· ≠ st.sb), again := if st.units = [] then n.again else n.again ++ [st] })
  (if shut && (s1.ns p).runs then s1.launchSum p st.sb else s1).fillStripes p false

/-- The oldest stripe's programs end; `fails` are the members whose program reported failure. -/
def State.programEnd (s : State) (p : Nat) (fails : List Nat) : State :=
  match (s.ns p).flying with
  | [] => s
  | st :: rest =>
    let s0 := s.modNs p (fun n => { n with flying := rest })
    let bad := (List.range 16).filter fails.contains
    if bad ≠ [] then
      (bad.foldl (fun s m => (s.bump (fcP (s.memberChan p st.sb m) + 0xA0) 1).retireBlock p st.sb (4 * m + s.rowPlane p st.row) false) s0).programAgain p st
    else (s0.modNs p (fun n => (n.programmed p st (s.sbRows p)).fullPages)).fillStripes p false

def execStripeProgramDone (p : PartId) (fails : List Nat) (s : State) : Outc := .next (s.programEnd p fails)

/-- JOURNAL_CLOSE_US after its first record, the open page is programmed (R312). -/
def execJournalCloseExpiry (p : PartId) (s : State) : Outc :=
  .next (if s.journalTicks ≤ (s.clk - (s.ns p).jAt).toNat then s.modNs p Ns.closePage else s)

/-- The units `[lo, hi)` lose their map entries. -/
def Ns.unmap (n : Ns) (lo hi : Nat) : Ns := { n with map := ⟨n.map.cells.filter (fun c => decide (c.1 < lo ∨ hi ≤ c.1))⟩ }

/-- What one durable record does to the map (R312, R317, R319): the MAP with the highest write sequence stands, and one from
before a secure discard of its unit does nothing. -/
def Ns.applyRec (n : Ns) (r : JRec) : Ns :=
  match r.type with
  | 1 =>
    let newer := match n.cw r.a with
      | some c => decide (c.seq ≤ r.seq)
      | none => true
    let cut := match n.discard with
      | some d => d.begun && decide (d.lo ≤ r.a ∧ r.a < d.hi ∧ r.seq < d.seq)
      | none => false
    if newer && !cut then { n with map := Tab.set z0 n.map r.a (r.b + 1) } else n
  | 2 => n.unmap r.a (r.a + r.b)
  | 3 =>
    let n1 := n.unmap r.a (r.a + r.b)
    { n1 with discard := n1.discard.map (fun d => if r.seq = d.seq then { d with begun := true } else d) }
  | _ => n

/-- Codewords of a superblock that the map names, in codeword order. -/
def Ns.validOf (n : Ns) (rows b : Nat) : List Nat :=
  sortAsc (n.map.cells.filterMap (fun c => if sbOf rows (c.2 - 1) = b then some (c.2 - 1) else none))

/-- The codeword at `cw`, where the map names it and no record under way unmaps its unit. -/
def Ns.named (n : Ns) (cw : Nat) : Option Codeword :=
  match Tab.get (fun _ => none) n.cws cw with
  | some c => if Tab.get z0 n.map c.lu = cw + 1 ∧ !n.pendingCut c.lu then some c else none
  | none => none

/-- A copy of the codeword is under way. -/
def Ns.copying (n : Ns) (c : Codeword) : Bool :=
  (n.flying ++ n.again).any (fun st => st.units.any (fun y => decide (y.lu = c.lu ∧ y.seq = c.seq))) ||
  n.pendingRecs.any (fun r => decide (r.type = 1 ∧ r.a = c.lu ∧ r.seq = c.seq))

/-- Codewords of `l` that collection still has to copy. -/
def Ns.toCopy (n : Ns) (l : List Nat) : List Nat := l.filter (fun k => match n.named k with
  | some c => !n.copying c
  | none => false)

/-- No stripe of a superblock and no record that maps to it is under way. -/
def Ns.settled (n : Ns) (rows b : Nat) : Bool := n.flying.all (fun st => decide (st.sb ≠ b)) && !n.pendingMap rows b

/-- Once every copy of the victim is durable, its erase starts (R320, R326). -/
def Ns.tryErase (n : Ns) (rows : Nat) : Ns :=
  match n.victim with
  | none => n
  | some v =>
    if n.validOf rows v = [] ∧ n.settled rows v ∧ n.erasing = none ∧ !n.stopped then { n with erasing := some v, victim := none } else n

/-- Progress of the flushes once units are durable, each given with its write sequence (R328). -/
def State.flushDone (s : State) (p : Nat) (done : List (Nat × Nat)) : State :=
  let fl := (s.ns p).flushes.map (fun f => (f.1, f.2.filter (fun u => !done.any (fun d => decide (d.1 = u.1 ∧ u.2 ≤ d.2)))))
  let s1 := fl.foldl (fun s f =>
    let t := (s.losw p f.1).total
    let s2 := s.loswProg p f.1 (t - f.2.length)
    if f.2 = [] then s2.loswDone p f.1 else s2) s
  s1.modNs p (fun n => { n with flushes := fl.filter (fun f => decide (f.2 ≠ [])) })

/-- Channel of a partition's LUN. -/
def State.lunChan (s : State) (p lun : Nat) : Nat := (s.lunChans p).getD lun 0

/-- The two LUNs of a journal page, on two channels where the partition owns more than one (R317), and the programs they
take. DESIGN CHOICE: which LUNs the model leaves free (log entry 67). -/
def State.pageLuns (s : State) (p : Nat) : State × List Nat :=
  let luns := List.range (s.lunChans p).length
  match s.choose luns with
  | (none, s1) => (s1, [])
  | (some a, s1) =>
    let others := luns.filter (fun x => decide (s.lunChan p x ≠ s.lunChan p a))
    match s1.choose (if others = [] then luns.erase a else others) with
    | (none, s2) => (s2.fcProg (s.lunChan p a) 4, [a])
    | (some b, s2) => ((s2.fcProg (s.lunChan p a) 4).fcProg (s.lunChan p b) 4, [a, b])

/-- The pages of a checkpoint, 4,096 entries each, go to one LUN. -/
def State.ckptPages (s : State) (p : Nat) : State :=
  match s.choose (List.range (s.lunChans p).length) with
  | (some a, s1) => s1.fcProg (s.lunChan p a) (4 * ceilDiv (s.ns p).cap 4096)
  | (none, s1) => s1

/-- A checkpoint round: the map and the range of a running secure discard are written, and the journal before it is free
(R318). -/
def State.ckptRound (s : State) (p : Nat) : State :=
  let l := s.pageLuns p
  (l.1.ckptPages p).modNs p (fun n => { n with
    ckpt := n.map, ckptRound := n.ckptRound + 1, ckptAt := s.clk
    ckptDisc := n.discard.bind (fun d => if d.begun then some (d.lo, d.hi, d.seq) else none)
    journal := [{ seq := n.jSeq, recs := [⟨7, 0, n.ckptRound + 1, 0, 0⟩, ⟨8, 0, n.ckptRound + 1, 0, 0⟩], luns := l.2 }], jSeq := n.jSeq + 2 })

/-- CKPT_S, 10 to 3,600, in ticks (R332). -/
def State.ckptTicks (s : State) : Nat := 100000000 * clampN 10 3600 (fld (s.reg 0x60050) 32 16)

/-- CKPT_S after the last round, or with the journal area half full, a round runs (R318). -/
def execCheckpointRound (p : PartId) (s : State) : Outc :=
  let n := s.ns p
  .next (if n.runs && (decide (s.ckptTicks ≤ (s.clk - n.ckptAt).toNat) || decide (8192 ≤ n.journal.length)) then
    ((s.ckptRound p).modNs p Ns.fullPages).fillStripes p false else s)

/-- The discards with SECURE = 0 that the UNMAP records `us` (first unit, count) end, one each, and those that are left (R325). -/
def plainDone (us : List (Nat × Nat)) (plain : List (Nat × Nat × Nat)) : List (Nat × Nat × Nat) × List (Nat × Nat × Nat) :=
  us.foldl (fun x u => match x.2.find? (fun d => decide (d.2 = u)) with
    | some d => (x.1 ++ [d], x.2.erase d)
    | none => x) ([], plain)

/-- A journal page completes: its records take effect, and the units that they map leave staging (R312, R325); a journal
area half full starts a checkpoint round (R318). -/
def State.journalEnd (s : State) (p : Nat) : State :=
  match (s.ns p).jFlying with
  | [] => s
  | pg :: rest =>
    let l := s.pageLuns p
    let n := l.1.ns p
    let n1 := pg.foldl Ns.applyRec { n with
      jFlying := rest, journal := n.journal ++ [{ seq := n.jSeq, recs := pg, luns := l.2 }], jSeq := n.jSeq + pg.length }
    let maps := pg.filterMap (fun r => if r.type = 1 then some (r.a, r.seq) else none)
    let d := plainDone (pg.filterMap (fun r => if r.type = 2 then some (r.a, r.b) else none)) n1.plain
    let n2 := ({ n1 with
      staging := n1.staging.filter (fun x => decide (x.seq = 0) || !maps.contains (x.lu, x.seq))
      plain := d.2 }).tryErase (s.sbRows p)
    let s1 := d.1.foldl (fun s d => (s.loswProg p d.1 1).loswDone p d.1) (l.1.modNs p (fun _ => n2.fullPages))
    let s2 := if 8192 ≤ (s1.ns p).journal.length && (s1.ns p).runs then s1.ckptRound p else s1
    ((s2.flushDone p maps).fillStripes p false)

def execJournalProgramDone (p : PartId) (s : State) : Outc := .next (s.journalEnd p)

/-- The secure discard that is open after the records, in their order: one runs at a time (R331). -/
def openDiscard (recs : List JRec) (d : Option (Nat × Nat × Nat)) : Option (Nat × Nat × Nat) :=
  recs.foldl (fun d r => if r.type = 3 ∧ r.flags = 1 then some (r.a, r.a + r.b, r.seq) else if r.type = 4 then none else d) d

/-- Replay of one record at a mount (R319): `cuts` are the secure discards met so far, with their S. -/
def replayRec (x : Ns × List (Nat × Nat × Nat)) (r : JRec) : Ns × List (Nat × Nat × Nat) :=
  if r.type = 1 ∧ x.2.any (fun c => decide (c.1 ≤ r.a ∧ r.a < c.2.1 ∧ r.seq < c.2.2)) then x
  else (x.1.applyRec r, if r.type = 3 then x.2 ++ [(r.a, r.a + r.b, r.seq)] else x.2)

/-- A mount (R319, R331): the checkpoint, then the journal. DEDUCED: an UNMAP, whose SEQ is zero, takes its place in the order
of the journal (log entry 69). -/
def State.mount (s : State) (p : Nat) : State :=
  let n := s.ns p
  if !n.formatted then s
  else
    let recs := n.journal.flatMap (·.recs)
    let disc : Option SDiscard := (openDiscard recs n.ckptDisc).map (fun d =>
      { slot := 31, lo := d.1, hi := d.2.1, seq := d.2.2, accepted := false, size := 0, todo := [], done := 0, notErased := 0, atAccept := 0, begun := true })
    let n0 : Ns := { n with
      map := n.ckpt, mounted := true, staging := [], flying := [], again := [], jOpen := [], jFlying := [], hostSb := [], colSb := [],
      victim := none, rewrite := [], staticMv := false, erasing := none, plain := [], flushes := [], idle := false, idleAt := s.clk
      ckptAt := s.clk, stopped := s.pwr.brownout, discard := none, mapLines := [], loading := true, loaded := []
      sbs := n.sbs.keys.foldl (fun t b =>
        Tab.set (fun _ => {}) t b { n.sb b with st := if (n.sb b).st = .opened then .closed else (n.sb b).st }) n.sbs }
    let n1 := (recs.foldl replayRec (n0, n.ckptDisc.toList)).1
    let s1 := (s.modNs p (fun _ => { n1 with discard := disc })).updLife p
    match disc with
    | none => s1
    | some _ => (s1.logEv 0x0823 2 (some p) []).modLosw p 31 (fun _ =>
        { op := 0x03, state := 2, error := 0, prog := 0, total := 0, part := 31 * 131072, req := 0 })

/-! ### Reads (R313 to R315) -/

/-- Lines of a request that lie in its k-th 4 KiB unit of device addresses. -/
def Req.unitLines (r : Req) (k : Nat) : List Nat :=
  (List.range r.nLines).filter (fun l => decide ((r.lineAddr l).toNat / 4096 = r.addr.toNat / 4096 + k))

/-- The unit's lines reach the request. -/
def State.gotUnit (s : State) (i : Nat) (r : Req) (ls : List Nat) (u : List Byte × Bool) : State :=
  let p := r.part
  let a := r.lineAddr (ls.headD 0)
  let s1 := ((s.countAccess p a ls.length).meterAdd p 5 4096).bump (arcCnt p 0x00) 1
  let s2 := if u.2 then (s1.reportLine p (a - BitVec.ofNat 64 (a.toNat % 4096)) true).poisonRead p else s1
  let x := ls.foldl (fun (x : State × Req) l =>
    let o := (r.lineAddr l).toNat % 4096
    let c := x.1.lineCame x.2 l
    (c.1, c.2.gotLine l ((u.1.drop o).take 64) u.2)) (s2, r)
  x.1.setReq i (some x.2)

/-- A unit of a read that can be served: its logical unit and lines. -/
def State.unitRead (s : State) (i k : Nat) : Option (Req × Nat × List Nat) :=
  match s.req i with
  | none => none
  | some r =>
    match r.unitLines k with
    | [] => none
    | l :: ls =>
      match s.locate r.part (r.lineAddr l) with
      | some (.arch o) =>
        if readsTier r.kind && !r.lineDone l && (!(s.ns r.part).formatted || (s.ns r.part).mounted) then some (r, o / 4096, l :: ls)
        else none
      | _ => none

/-- The request cannot be translated: its lines come back as poison, and it fails (R219, R229). -/
def State.gotNothing (s : State) (i : Nat) (r : Req) (ls : List Nat) : State :=
  ((s.failMap r).poisonRead r.part).setReq i (some (ls.foldl (fun r l => r.gotLine l (zeros 64) true) r))

/-- A read reaches the Archive Controller: its translation (R219); a full queue holds it (R221); the map look-up (R313); a unit is
served from staging, as zeros where it is unmapped, as poison while the namespace is unformatted; a unit in flash waits for its
codeword. -/
def execArchiveRead (i : Nat) (unit : Nat) (s0 : State) : Outc :=
  let s := s0.reach i
  match s.unitRead i unit with
  | none => .next s0
  | some (r, lu, ls) =>
    let p := r.part
    let a := r.lineAddr (ls.headD 0)
    let t := s.translateAll p a 1
    if t.mapBad p a then .next (t.gotNothing i r ls)
    else if t.lineWaits i r (ls.headD 0) then .next (t.queueWait p a)
    else
      let s0 := t.t2Seen p
      let s1 := if (s0.ns p).formatted && !(s0.ns p).isStaged lu then s0.mapLook p lu else s0
      if ((s1.ns p).inFlash lu).isSome then .next s1 else .next (s1.gotUnit i r ls ((s1.ns p).unit lu))

/-- A flash codeword arrives (R315), the oldest read of its LUN first (R314). -/
def execCodewordReadDone (i : Nat) (unit : Nat) (q : CwOutcome) (s0 : State) : Outc :=
  let s := s0.reach i
  match s.unitRead i unit with
  | none => .next s0
  | some (r, lu, ls) =>
    let p := r.part
    match (s.ns p).inFlash lu with
    | none => .next s0
    | some cw =>
      let l := ls.headD 0
      if s.lineWaits i r l || !s.oldestAt i r l (s.cwLun p cw) then .next s0
      else
        let u := (s.ns p).unit lu
        .next (((s.flashRead p cw q)).gotUnit i r ls (u.1, u.2 || decide (q = .lost)))

/-! ### Collection and wear (R320, R321) -/

/-- IDLE_MS after its last tier 2 request the partition is idle. -/
def execCollectionIdleExpiry (p : PartId) (s : State) : Outc :=
  if (s.ns p).mounted && decide (s.idleTicks ≤ (s.clk - (s.ns p).idleAt).toNat) then .next (s.modNs p (fun n => { n with idle := true }))
  else .next s

/-- A superblock of a secure discard's set. -/
def Ns.inSet (n : Ns) (b : Nat) : Bool :=
  match n.discard with
  | some d => d.accepted && d.todo.contains b
  | none => false

/-- Closed superblocks that collection may take. -/
def Ns.candidates (n : Ns) (rows : Nat) : List Nat := n.closedSbs.filter (fun b => !n.inSet b && n.settled rows b)

/-- victim(p): fewest valid units, then lower erase count, then lower number. -/
def Ns.bestVictim (n : Ns) (rows : Nat) : Option Nat :=
  let v b := (n.validOf rows b).length
  firstBy id (fun a b => decide (v a < v b ∨ (v a = v b ∧ (n.sb a).erases < (n.sb b).erases))) (n.candidates rows)

/-- Sets the superblock that collection works on: the head of a discard's set, else the victim of the mode. -/
def State.setVictim (s : State) (p : Nat) : State :=
  let n := s.ns p
  if n.victim ≠ none ∨ n.erasing ≠ none then s
  else
    let pick := match n.discard with
      | some d => if d.accepted then d.todo.head? else none
      | none => none
    let v := match pick with
      | some b => some b
      | none => if s.gcMode p = 0 then none else n.bestVictim (s.sbRows p)
    match v with
    | none => s
    | some b => s.modNs p (fun n => { n with victim := some b })

/-- The superblock that is being collected now: a discard's and a static move's goes on; another one stops with its mode, as
BACKGROUND does when a request of the partition arrives (R320). -/
def State.victimNow (s : State) (p : Nat) : Option Nat :=
  (s.ns p).victim.filter (fun v => (s.ns p).staticMv || (s.ns p).inSet v || decide (s.gcMode p ≠ 0))

/-- Reads one codeword for collection: `bad` are those that nothing recovers, and how the others come is free. -/
def State.colRead (s : State) (p : Nat) (bad : List Nat) (cw : Nat) : State :=
  if bad.contains cw then
    let s1 := s.flashRead p cw .lost
    match (s.ns p).named cw with
    | some c => s1.reportBad (some p) 2 0 (s.cwChan p cw) 0 (c.lu * 4096)
    | none => s1
  else
    let q := freeOutcome s.free
    ({ s with free := s.free + 1 } : State).flashRead p cw (if q = .lost then .hard else q)

/-- One collection stripe: the next valid units of the victim, or codewords that were recovered (R315); the last one is
filled with PAD codewords. A unit copied from a codeword that nothing recovered is written with POISON = 1. -/
def execCollect (p : PartId) (bad : List Nat) (s : State) : Outc :=
  let s0 := s.setVictim p
  let n := s0.ns p
  let rows := s0.sbRows p
  if !n.runs then .next s
  else
    let src := n.toCopy (match s0.victimNow p with
      | some v => n.validOf rows v
      | none => n.rewrite.dedup)
    let take := src.take 60
    if take = [] then .next ((s0.modNs p (fun n => (n.tryErase rows).fullPages)).fillStripes p false)
    else match n.takeRow false n.staticMv rows with
      | none => .next s
      | some (b, r, n1) =>
        let units := take.filterMap (fun cw => (n.named cw).map (fun c =>
          { c with flags := if bad.contains cw ∨ c.flags / 2 % 2 = 1 then 2 else 0 }))
        let s1 := take.foldl (fun s cw => s.colRead p bad cw) (s0.modNs p (fun _ => n1))
        .next ((s1.modNs p (fun n => { n with rewrite := n.rewrite.filter (fun k => !take.contains k) })).enter p
          { sb := b, row := r, host := false, units := units })

/-- A static wear move starts where the spread calls for one (R321): collection's open superblock closes, and the move's
stripes go to the free superblock with the highest erase count. -/
def State.wearCheck (s : State) (p : Nat) : State :=
  let n := s.ns p
  let cnt b := (n.sb b).erases
  let es := n.all.map cnt
  let spread := es.foldl max 0 - es.foldl min (es.headD 0)
  if spread ≤ clampN 16 65535 (fld (s.reg 0x60048) 0 16) ∨ n.staticMv ∨ s.gcMode p = 2 ∨ n.victim ≠ none ∨ !n.runs then s
  else match firstBy cnt (fun a b => decide (a < b)) (n.candidates (s.sbRows p)) with
    | none => s
    | some v =>
      (n.colSb.foldl (fun s b => s.closeSb p b) s).modNs p (fun n => { n with staticMv := true, victim := some v })

/-- PART area of a secure discard (R326). -/
def State.discardArea (s : State) (p : Nat) (d : SDiscard) : State :=
  s.devWrite p (s.lopArea p d.slot) (leBytes 4 d.size ++ leBytes 4 d.done ++ leBytes 4 d.notErased ++ leBytes 4 d.atAccept)

/-- A secure discard whose set is done ends: DISCARD_END, DONE or ARC_SECURE_INCOMPLETE. -/
def State.discardEnd (s : State) (p : Nat) : State :=
  match (s.ns p).discard with
  | some d =>
    if d.accepted && decide (d.todo = []) then
      let s1 := (s.discardArea p d).modNs p (fun n => ({ (n.addRec ⟨4, 0, d.lo, 0, 0⟩) with discard := none }).fullPages)
      if d.notErased = 0 then s1.loswDone p d.slot else s1.loswFail p d.slot 0x0803
    else s
  | none => s

/-- A superblock has been erased: free, one erase more, and nothing of it is left. -/
def Ns.erased (n : Ns) (v rows notErased : Nat) : Ns :=
  let lo := v * rows * 60
  let hi := (v + 1) * rows * 60
  let n1 := (n.modSb v (fun x => { st := .free, erases := x.erases + 1 })).addRec ⟨5, 0, v, 0, 0⟩
  { n1 with
    erasing := none
    staticMv := false
    rewrite := n1.rewrite.filter (fun c => decide (sbOf rows c ≠ v))
    cws := ⟨n1.cws.cells.filter (fun c => decide (c.1 < lo ∨ hi ≤ c.1))⟩
    parity := ⟨n1.parity.cells.filter (fun c => decide (c.1 < v * rows ∨ (v + 1) * rows ≤ c.1))⟩
    discard := n1.discard.map (fun d => if d.todo.contains v then
      { d with todo := d.todo.erase v, done := d.done + 1, notErased := d.notErased + notErased } else d) }

/-- The erase of a superblock completes. `fails`: blocks, member × 4 + plane, that failed erase twice; they are retired, and retired
blocks are replaced by spares now (R316). -/
def State.eraseEnd (s : State) (p : Nat) (fails : List Nat) : State :=
  match (s.ns p).erasing with
  | none => s
  | some v =>
    let ks := (List.range 16).flatMap (fun m => (List.range (s.planes p)).map (fun l => 4 * m + l))
    let s0 := s.modNs p (fun n => (n.modSb v (fun x => { x with retired := [] })))
    let s1 := ks.foldl (fun s k =>
      let c := fcP (s.memberChan p v (k / 4))
      if fails.contains k then (s.bump (c + 0xA8) 2).retireBlock p v k true else s.bump (c + 0x90) 1) s0
    let s2 := (s1.bump (arcCnt p 0x18) 1).modNs p (fun n => (n.erased v (s.sbRows p) (ks.filter fails.contains).length).fullPages)
    let s3 := match (s2.ns p).discard with
      | some d => if d.accepted then (s2.loswProg p d.slot d.done).discardArea p d else s2
      | none => s2
    ((((s3.updLife p).discardEnd p).wearCheck p).fillStripes p false)

/-! ### Format (R329) -/

/-- Good blocks of the LUN `id`: those that neither its maker nor its table, once a format has made one, calls bad. -/
def State.goodBlks (s : State) (p id : Nat) : Nat :=
  (s.fcGeom p).2 * s.planes p - (match Tab.get (fun _ => none) s.badBlks id with
    | some n => n
    | none => Config.factoryBad id)

/-- Superblocks that the journal area of 256 MiB, twice, and one checkpoint of the largest map take. DESIGN CHOICE: the manual
does not say how many are reserved; the model reserves at least these (log entry 70). -/
def reservedSbs (rows all : Nat) : Nat :=
  let bytes := max 1 (rows * 16 * 16384)
  ceilDiv (2 * 2 ^ 28) bytes + ceilDiv (4 * 60 * rows * all) bytes

/-- The namespace that a format leaves. The superblocks that turn out good are a free number within what the channels hold, less
the spares, the journal and the checkpoint area (R309). -/
def State.formatted (s : State) (p : Nat) (x : Format) : State :=
  let g := s.fcGeom p
  let all := (s.lunChans p).length / 16 * g.2
  let limit := min (all * (100 - x.spare) / 100 - reservedSbs g.1 all) ((2 ^ 32 - 2) / max 1 (g.1 * 60))
  let good := Config.goodSuperblocks s.free % (limit + 1)
  let u := min (good * g.1 * 60 * (100 - x.head) / 100 / 16384 * 16384) (2 ^ 32 - 2 ^ 14)
  let old := s.ns p
  let n : Ns := {
    formatted := true, mounted := true, chans := s.flashOf p, cap := u, dataSb := good
    sparesAt := g.2 * s.planes p * x.spare / 100, life := old.life, idleAt := s.clk, ckptAt := s.clk, stopped := old.stopped
    sbs := (List.range good).foldl (fun t b => Tab.set (fun _ => {}) t b { erases := (old.sb b).erases + 1 }) Tab.empty }
  (((({ s with free := s.free + 1 } : State).modNs p (fun _ => n)).ckptPages p).updLife p).loswDone p x.slot

/-- Block row `row` of every LUN has been erased, but for the blocks that are bad. DESIGN CHOICE: of a LUN with `k` good blocks the
first `k` erases count them; `fails`, LUN × 4 + plane, failed twice (log entry 71). -/
def State.formatRow (s : State) (p : Nat) (x : Format) (fails : List Nat) : State :=
  let ids := s.lunIds p
  let planes := s.planes p
  let s1 := (List.range ids.length).foldl (fun s i =>
    let id := ids.getD i 0
    let good := min planes (s.goodBlks p id - planes * x.row)
    let bad := ((List.range good).filter (fun l => fails.contains (4 * i + l))).length
    let s1 := ((s.bump (fcP (id / 64) + 0x90) (good - bad)).bump (fcP (id / 64) + 0xA8) (2 * bad)).loswProg p x.slot
      ((s.losw p x.slot).prog + (good - bad))
    if bad = 0 then s1
    else { s1 with badBlks := Tab.set (fun _ => none) s1.badBlks id (some ((Tab.get (fun _ => none) s1.badBlks id).getD 0 + bad)) }) s
  if x.row + 1 < (s.fcGeom p).2 then s1.modNs p (fun n => { n with format := some { x with row := x.row + 1, busy := !n.stopped } })
  else s1.formatted p x

/-- An erase completes: a superblock's, or the block row of a format. -/
def execEraseDone (p : PartId) (fails : List Nat) (s : State) : Outc :=
  .next (match (s.ns p).format with
    | some x => if x.busy then s.formatRow p x fails else s
    | none => s.eraseEnd p fails)

/-! ### Discards (R324 to R327) -/

/-- Range of a discard in units, where the request is valid. -/
def State.discardRange (s : State) (p : Nat) (rq : List Byte) : Option (Nat × Nat) :=
  let a := wAt rq 0
  let len := leAt rq 8 8
  let u := (s.ns p).cap
  if !(decide (bAt rq 16 < 4) && zeroAt rq 17 15) then none
  else if bit (bAt rq 16) 1 then (if a = 0 ∧ len = 0 then some (0, u) else none)
  else
    let o := aOff a
    if !s.unified p ∧ fld a 50 14 = 0 ∧ aSpace a = 2 ∧ o % 4096 = 0 ∧ len % 4096 = 0 ∧ o + len ≤ u * 4096 then
      some (o / 4096, (o + len) / 4096)
    else none

/-- Units `[lo, hi)` that are staged, or in a stripe under way, are dropped; no flush waits for them any more. -/
def Ns.dropRange (n : Ns) (lo hi : Nat) : Ns :=
  let within (u : Nat) : Bool := decide (lo ≤ u ∧ u < hi)
  let drop (st : Stripe) : Stripe := { st with drop := st.drop ++ (st.units.map (·.lu)).filter within }
  { n with
    staging := n.staging.filter (fun x => !within x.lu || x.waits)
    flying := n.flying.map drop
    again := n.again.map drop
    flushes := n.flushes.map (fun f => (f.1, f.2.filter (fun u => !within u.1))) }

/-- Long operation 0x03 (R324 to R326). -/
def State.discardOp (s : State) (f : Fn) (p o : Nat) : State :=
  s.lopStart f p o 0x03 false 32 (fun s rq =>
    match s.discardRange p rq with
    | none => s.loswFail p o 0x0801
    | some (lo, hi) =>
      let n := s.ns p
      if !n.formatted then s.loswFail p o 0x0805
      else if !bit (bAt rq 16) 0 then
        ((s.loswRun p o 1 false).modNs p (fun n =>
          ({ (n.addRec ⟨2, 0, lo, hi - lo, 0⟩).dropRange lo hi with plain := n.plain ++ [(o, lo, hi - lo)] }).fullPages)).flushDone p []
      else if n.discard ≠ none then s.loswFail p o 0x0802
      else s.modNs p (fun n => ({ n.addRec ⟨3, 1, lo, hi - lo, n.seq⟩ with
          discard := some { slot := o, lo := lo, hi := hi, seq := n.seq, accepted := false, size := 0, todo := [], done := 0, notErased := 0, atAccept := 0 } }).closePage))

def execDiscard (f : Fn) (p : PartId) (o : SlotId) (s : State) : Outc :=
  let s := s.access f
  .next (s.discardOp f p o)
def execSecureDiscard (f : Fn) (p : PartId) (o : SlotId) (s : State) : Outc :=
  let s := s.access f
  .next (s.discardOp f p o)

/-- The superblocks that hold a codeword of the range with a write sequence below S, current or stale, or one that is being
programmed (R326 step 2). -/
def Ns.discardSet (n : Ns) (rows : Nat) (d : SDiscard) : List Nat :=
  let hit (lu seq : Nat) : Bool := decide (d.lo ≤ lu ∧ lu < d.hi ∧ seq < d.seq)
  sortAsc ((n.all.filter (fun b => (n.entries rows b).any (fun e => hit e.1 e.2))) ++
    (n.flying.filterMap (fun st => if st.units.any (fun c => hit c.lu c.seq) then some st.sb else none))).dedup

/-- The units `[lo, hi)` whose durable content has a write sequence below `seq` lose their map entries. -/
def Ns.unmapBelow (n : Ns) (lo hi seq : Nat) : Ns :=
  { n with map := ⟨n.map.cells.filter (fun c => decide (c.1 < lo ∨ hi ≤ c.1) || (match n.cw c.1 with
    | some w => decide (seq ≤ w.seq)
    | none => false))⟩ }

/-- DISCARD_BEGIN is durable: the range reads as unmapped, its staging is dropped, open superblocks of the set close, and
the set is known (R326 steps 1 and 2, R331). What was written with a sequence of S or above and is durable stays (R327). -/
def execDiscardAccept (p : PartId) (s : State) : Outc :=
  let n := s.ns p
  match n.discard with
  | none => .next s
  | some d =>
    if d.accepted || !d.begun || !n.runs then .next s
    else
      let set := n.discardSet (s.sbRows p) d
      let d1 := { d with accepted := true, size := set.length, todo := set, atAccept := (s.reg (arcCnt p 0x48)).toNat }
      let s1 := s.modNs p (fun n =>
        { (if d.slot = 31 then n else n.dropRange d.lo d.hi).unmapBelow d.lo d.hi d.seq with discard := some d1 })
      let s2 := set.foldl (fun s b => if ((s.ns p).sb b).st = .opened then s.closeSb p b else s) (s1.flushDone p [])
      .next ((((s2.loswRun p d.slot set.length true).discardArea p d1).discardEnd p).fillStripes p false)

/-! ### Flush, start of a format, COMMIT (R328, R329, R333) -/

def execCollectionFlush (f : Fn) (p : PartId) (o : SlotId) (s : State) : Outc :=
  let s := s.access f
  .next (s.lopStart f p o 0x09 false 16 (fun s rq =>
    if !zeroAt rq 0 16 then s.loswFail p o 0x0801
    else if !(s.ns p).formatted then s.loswFail p o 0x0805
    else
      let n := s.ns p
      let us := (n.staging.filter (fun x => !x.waits)).map (fun x => (x.lu, if x.seq = 0 then n.seq else x.seq))
      let s1 := s.loswRun p o us.length false
      let s2 := if us = [] then s1.loswDone p o else s1.modNs p (fun n => { n with flushes := n.flushes ++ [(o.val, us)] })
      (s2.fillStripes p true).modNs p Ns.closePage))

/-- Long operation 0x0A: the namespace is unformatted from here on. The first format of a LUN takes its maker's marks into the
table. -/
def execFlashFormat (f : Fn) (p : PartId) (o : SlotId) (s : State) : Outc :=
  let s := s.access f
  .next (s.lopStart f p o 0x0A false 16 (fun s rq =>
    let chans := s.flashOf p
    let mask := sumNat (chans.map (2 ^ ·))
    let sp := if bAt rq 4 = 0 then 2 else bAt rq 4
    let op := if bAt rq 5 = 0 then 10 else bAt rq 5
    if fnIsVf f || decide (s.coresOf p ≠ []) then s.loswFail p o 0x0804
    else if leAt rq 0 4 ≠ mask ∨ chans = [] ∨ 20 < sp ∨ op < 5 ∨ 50 < op ∨ !zeroAt rq 6 10 ∨ (s.ns p).format ≠ none then s.loswFail p o 0x0801
    else
      let s1 := (s.lunIds p).foldl (fun s id => match Tab.get (fun _ => none) s.badBlks id with
        | some _ => s
        | none => { s with badBlks := Tab.set (fun _ => none) s.badBlks id (some (Config.factoryBad id)) }) s
      let x : Format := { slot := o.val, spare := sp, head := op, busy := !(s.ns p).stopped }
      (s1.modNs p (fun n => ({ stopped := n.stopped, sbs := n.sbs, life := n.life, format := some x } : Ns))).loswRun p o
        ((s.lunIds p).length * (s.fcGeom p).2 * s.planes p) false))

/-- Archive reserve of a partition for a STAGE_MIB (R310). -/
def State.arcReserve (s : State) (p mib : Nat) : Nat := up (4 * (s.ns p).cap) MiB2 + mib * 2 ^ 20

def execArchiveCommit (f : Fn) (s : State) : Outc :=
  let s := s.access f
  .next (s.commit f ⟨.archive, 1, 0x61000⟩ (fun s =>
    if (List.range 16).all (fun p =>
      let new := fld (s.reg (0x61040 + p * 8)) 0 13
      let old := fld (s.inForce (0x61040 + p * 8)) 0 13
      let t1 := sumNat ((s.chansOf p).map s.chanCap)
      decide (16 ≤ new ∧ new ≤ 4096) && (decide (new = old) || decide (s.coresOf p = [])) &&
      (decide (s.flashOf p = []) || decide (s.quota p 1 + s.arcReserve p new ≤ t1))) then .ok else .invalid) id)

end Sys2Proof.Machine
end

