-- ==== Sys2Proof/Machine/Expander.lean ====
section
/-! DEFINITION. The Expanders: block decode and encode, mould tables, ranges (R240 to R260, R510). -/

namespace Sys2Proof.Machine

/-- A block of a read that has entered the Expander and is not decoded: its range. -/
def Req.inExpander (r : Req) (b : Nat) : Option Range :=
  match r.kind, r.rng, r.blks with
  | .rda, some g, some (_, n) | .weight, some g, some (_, n) =>
    if b < n ∧ !Tab.get (fun _ => false) r.blocks b ∧ (r.blkLines g b).all r.lineDone then some g else none
  | _, _, _ => none

/-- Stored bytes of block `b` of a read. -/
def Req.blkBytes (r : Req) (g : Range) (b : Nat) : List Byte := Mem.bytes r.stored (r.blkOff b) g.rate.s

/-- A block of read `i` that has come whole has escapes (R256). -/
def State.hasEscapes (s : State) (i : Nat) : Bool :=
  match s.req i with
  | none => false
  | some r => match r.rng, r.blks with
    | some g, some (_, n) => (List.range n).any (fun b =>
        (r.blkLines g b).all r.lineDone && decide (bits (leNat (r.blkBytes g b)) 14 2 ≠ 0))
    | _, _ => false

/-- When block `b` of a read came whole to its Expander. -/
def Req.blkCame (r : Req) (g : Range) (b : Nat) : Nat :=
  (r.blkLines g b).foldl (fun m l => max m (Tab.get (fun _ => 0) r.came l)) 0

/-- The blocks of reads at the pair, channel or partition `q` that are not decoded: when they came, request, number. -/
def State.blksIn (s : State) (q : Nat) : List (Nat × Nat × Nat) :=
  s.reqs.keys.flatMap (fun i => match s.req i with
    | none => []
    | some r => match r.blks with
      | none => []
      | some (_, n) => (List.range n).filterMap (fun b => match r.inExpander b with
        | some g => if s.lineQueue r (r.blkOff b / 64) = q then some (r.blkCame g b, i, b) else none
        | none => none))

/-- Blocks ahead of block `b` of request `i`: those of its pair, channel or partition that came before it (R248). The
Expander's input buffer holds the first 32; the controller holds the others. -/
def State.blksAhead (s : State) (i : Nat) (r : Req) (g : Range) (b : Nat) : Nat :=
  ((s.blksIn (s.lineQueue r (r.blkOff b / 64))).filter (fun x =>
    decide (x.1 < r.blkCame g b ∨ (x.1 = r.blkCame g b ∧ x.2.1 = i ∧ x.2.2 < b)))).length

/-- Partition `q` has a block that waits for a decode by Expander `x`. -/
def State.decWaits (s : State) (x q : Nat) : Bool :=
  s.reqs.keys.any (fun i => match s.req i with
    | none => false
    | some r => decide (r.part = q) && (match r.blks with
      | none => false
      | some (_, n) => (List.range n).any (fun b => (r.inExpander b).isSome && decide (s.blkExp r b = x))))

/-- Partition `q` has a block that waits for its encoding by Expander `x`. -/
def State.encWaits (s : State) (x q : Nat) : Bool :=
  s.reqs.keys.any (fun i => match s.req i with
    | none => false
    | some r => decide (r.kind = .wra ∧ r.part = q) && (match r.blks with
      | none => false
      | some (_, n) => (List.range n).any (fun b => !Tab.get (fun _ => false) r.blocks b && decide (s.blkExp r b = x))))

/-- The Archive Expander, 18, takes one block per grant in rotating partition order (R240). -/
def grants (x last p : Nat) (waits : Nat → Bool) : Bool := decide (x ≠ 18) || nextTurn last p waits

/-- Block `b` decodes (R247): invalid blocks and blocks of poisoned lines deliver poison-marked elements. -/
def execExpanderBlockDecode (i : Nat) (b : Nat) (s : State) : Outc :=
  match s.req i with
  | none => .next s
  | some r =>
    let x := s.blkExp r b
    match r.inExpander b with
    | none => .next s
    | some g =>
    if s.blksAhead i r g b ≠ 0 ∨ !grants x (s.expander x).lastDec r.part (s.decWaits x) then .next s
    else
      let bs := r.blkBytes g b
      let bad := (r.blkLines g b).any (fun l => Tab.get (fun _ => false) r.storedBad l)
      let d := s.decodeBlock x r.part g.rate g.ofmt bs
      let n := g.outBytes
      let r1 := { r with
        out := Mem.putBytes r.out (b * n) (d.getD (zeros n))
        outBad := (List.range n).foldl (fun t k => Tab.set (fun _ => false) t (b * n + k) (bad || d.isNone)) r.outBad
        blocks := Tab.set (fun _ => false) r.blocks b true }
      let waits := decide (1 < (s.blksIn (s.lineQueue r (r.blkOff b / 64))).length)
      let s1 := (s.countDecode x bs d.isSome bad).escapeStall x r.part bs d.isSome waits
      .next ((s1.modExp x (fun e => { e with lastDec := r.part })).setReq i (some r1))

/-- One 64-byte line of a WRA's source, old or new where it has changed since (R89), and whether it is poisoned. -/
def State.srcLine (s : State) (r : Req) (l : Nat) : List Byte × Bool :=
  let old := Mem.bytes r.old (64 * l) 64
  let now := s.scr r.core (r.loc + 64 * l) 64
  let oldBad := (Core.words (64 * l) 64).any (fun w => Tab.get (fun _ => false) r.oldBad w)
  let ch := (s.core r.core).check (r.loc + 64 * l) 64
  let nowBad := ch.2.1 || ch.2.2
  if (decide (old ≠ now) || decide (oldBad ≠ nowBad)) && Config.freeBit (s.free + l) then (now, nowBad) else (old, oldBad)

/-- The residual x − out of a block, in the source format (R253). -/
def residual (f : EFmt) (xs outs : List Nat) : List Byte :=
  (xs.zip outs).flatMap (fun x =>
    leBytes (f.bits / 8) (convert (fv (fsub (encElem f x.1).1.toF32 (f.f32 x.2))) f 0).1)

/-- Elements of `bs`, in format `f`. -/
def elems (f : EFmt) (bs : List Byte) : List Nat := (List.range 32).map (fun i => f.elem bs i)

/-- Block `b` of a WRA is formed, or its stored lines become poisoned (R252, R253, R510). -/
def execExpanderBlockEncode (i : Nat) (b : Nat) (s0 : State) : Outc :=
  let t := s0.reach i
  match t.req i with
  | none => .next s0
  | some r =>
    let x := t.blkExp r b
    match r.kind, r.rng, r.blks with
    | .wra, some g, some (_, n) =>
      if n ≤ b ∨ Tab.get (fun _ => false) r.blocks b = true ∨
          !grants x (t.expander x).lastEnc r.part (t.encWaits x) then .next s0
      else
        let s := t.modExp x (fun e => { e with lastEnc := r.part })
        let r1 := { r with blocks := Tab.set (fun _ => false) r.blocks b true }
        let poison (ls : List Nat) : Tab Bool := ls.foldl (fun t l => Tab.set (fun _ => false) t l true) r.storedBad
        match s.ownsMould x r.part g.mould, (s.expander x).table g.gen g.mould with
        | true, some tb =>
          let m := g.outBytes
          let ls := (List.range (m / 64)).map (fun k => s.srcLine r (b * (m / 64) + k))
          let s0 := { s with free := s.free + r.len / 64 }
          if ls.any (·.2) then .next (s0.setReq i (some { r1 with storedBad := poison (r.blkLines g b) }))
          else
            let bs := ls.flatMap (·.1)
            let xs := elems g.ofmt bs
            let e := encodeBlock g.rate g.mould g.gen tb (xs.map (encElem g.ofmt))
            let a := expP x
            let s1 := ((s0.bump (a + 0x1A8) 1).bump (a + 0x1B0) (if e.2.1 then 1 else 0)).bump (a + 0x1B8) e.2.2
            let outs := elems g.ofmt ((s.decodeBlock x r.part g.rate g.ofmt e.1).getD [])
            let s2 := if g.resid && decide (s.coreOwner r.core = some r.part) then
                s1.writeScr r.core (r.loc + b * m) (residual g.ofmt xs outs) else s1
            .next (s2.setReq i (some { r1 with stored := Mem.putBytes r.stored (r.blkOff b) e.1 }))
        | _, _ =>
          .next ((s.bump (expP x + 0x190) 1).setReq i
            (some { r1 with storedBad := poison (List.range r.nLines), lines := Tab.empty }))
    | _, _, _ => .next s0

/-! ### Mould tables (R246, R257, R258) -/

/-- A table of `bank` that a block in the Expander names (EXP_BANK_BUSY). -/
def State.tableBusy (s : State) (x bank t : Nat) : Bool :=
  s.reqs.keys.any (fun i => match s.req i with
    | none => false
    | some r =>
      let n := match r.blks with
        | some (_, n) => n
        | none => 0
      (List.range n).any (fun b => match r.inExpander b with
        | none => false
        | some g =>
          let v := leNat (r.blkBytes g b)
          decide (s.blksAhead i r g b < 32 ∧ s.blkExp r b = x ∧ bits v 13 1 = bank ∧ bits v 8 5 = t)))

/-- A table that R245 allows. -/
def goodMould (tb : List Byte) : Bool :=
  let f (c : Nat) : FV := mouldEntry tb c
  zeroAt tb 126 2 && (List.range 64).all (fun c => match f c with
    | .fin _ _ _ => true
    | _ => false) && (List.range 7).any (fun c => decide (leAt tb (2 * c) 2 % 2 ^ 15 ≠ 0))

def State.mload (s : State) (p : Nat) : Option MLoad := Tab.get (fun _ => none) s.mloads p
def State.setMload (s : State) (p : Nat) (m : Option MLoad) : State :=
  { s with mloads := Tab.set (fun _ => none) s.mloads p m }

/-- Bits of a mask in ascending order. -/
def maskBits (v n : Nat) : List Nat := (List.range n).filter (bit v)

/-- Long operation 0x08 (R258 steps 1 and 2). -/
def execMouldTableLoad (f : Fn) (p : PartId) (o : SlotId) (s : State) : Outc :=
  let s := s.access f
  .next (s.lopStart f p o 0x08 false 32 (fun s rq =>
    let a := wAt rq 0
    let ts := maskBits (leAt rq 8 4) 32
    let xs := maskBits (leAt rq 12 4) 20
    let n := 128 * ts.length
    if ts = [] ∨ xs = [] ∨ 2 ^ 20 ≤ leAt rq 12 4 ∨ 2 ≤ bAt rq 16 ∨ !zeroAt rq 17 15 ∨ a.toNat % 64 ≠ 0 ∨
        !s.inAlloc p a (n + 64) then s.loswFail p o 0x0505
    else if s.mload p ≠ none then s.loswFail p o 0x0504
    else if !xs.all (fun x => ts.all (s.ownsMould x p)) then s.loswFail p o 0x0502
    else
      let r := s.devRead p a (n + 64)
      let im := r.2.1
      let tbs := (List.range ts.length).map (fun k => (im.drop (128 * k)).take 128)
      if r.2.2 || decide (leAt im n 4 ≠ crc32c (im.take n)) || !zeroAt im (n + 4) 60 || !tbs.all goodMould then
        r.1.loswFail p o 0x0503
      else ((r.1.loswRun p o xs.length true).devWrite p (s.lopArea p o) (List.replicate xs.length 1)).setMload p
        (some ⟨o, bAt rq 16, ts.zip tbs, xs, 0⟩)))

/-- Step 3 of R258 at the next target. -/
def execMouldInstall (p : PartId) (s : State) : Outc :=
  match s.mload p with
  | none => .next s
  | some m =>
    let x := (m.targets[m.idx]?).getD 0
    let mark (s : State) (v : Byte) : State := s.devWrite p (addA (s.lopArea p m.slot) m.idx) [v]
    if m.tables.any (fun t => s.tableBusy x m.bank t.1) then
      .next (((mark s 2).setMload p none).loswFail p m.slot 0x0501)
    else
      let s1 := (s.modExp x (fun e => { e with
        tables := m.tables.foldl (fun tb t => Tab.set (fun _ => none) tb (m.bank * 32 + t.1) (some t.2)) e.tables })).bump
          (expP x + 0x1C0) 1
      let s2 := (mark s1 0).loswProg p m.slot (m.idx + 1)
      if m.idx + 1 = m.targets.length then .next ((s2.setMload p none).loswDone p m.slot)
      else .next (s2.setMload p (some { m with idx := m.idx + 1 }))

/-- The page of an Expander. -/
def expPage (x : Nat) : Page := ⟨.exp, if x < 6 then x else if x < 18 then 0x10 + (x - 6) else if x = 18 then 0x20 else 0x30, expP x⟩

/-- Word `q` of EXP_MOULD_OWNER is written: tables whose owner byte changes are unloaded in both banks (R259). -/
def State.mouldOwners (s : State) (x q : Nat) (v : Word) : State :=
  let a := expP x + 0x40 + q * 8
  let old := s.reg a
  let new := v &&& BitVec.ofNat 64 (rep 8 8 0x8F)
  let ch := (List.range 8).filter (fun b => decide (fld old (8 * b) 8 ≠ fld new (8 * b) 8))
  (s.setReg a new).modExp x (fun e => { e with
    tables := ch.foldl (fun tb b =>
      Tab.set (fun _ => none) (Tab.set (fun _ => none) tb (8 * q + b) none) (32 + 8 * q + b) none) e.tables })

/-- A write of EXP_MOULD_OWNER (PF). -/
def execMouldOwnerWrite (f : Fn) (x : ExpId) (q : Fin 4) (v : Word) (s : State) : Outc :=
  let s := s.access f
  if fnIsVf f || !s.seesPage f (expPage x) then .next s else .next (s.mouldOwners x q v)

/-- Whether the staged ranges of an Expander may take effect (R259). -/
def State.rangesOk (s : State) (x : Nat) : Bool :=
  let lo i := s.reg (rangeA x i)
  let hi i := s.reg (rangeA x i + 8)
  let valid := (List.range 64).filter (fun i => (lo i).getLsbD 0)
  let part i := fld (lo i) 12 4
  let base i := fld (lo i) 16 38
  let size i := fld (hi i) 0 38
  valid.all (fun i => decide (fld (lo i) 1 2 ≠ 0 ∧ fld (lo i) 3 2 ≠ 3 ∧ size i ≠ 0) && s.ownsMould x (part i) (fld (lo i) 6 5) &&
    valid.all (fun j => decide (i = j ∨ part i ≠ part j ∨ base i + size i ≤ base j ∨ base j + size j ≤ base i)))

def execExpanderCommit (f : Fn) (x : ExpId) (s : State) : Outc :=
  let s := s.access f
  .next (s.commit f (expPage x) (fun s => if s.rangesOk x then .ok else .invalid) id)

end Sys2Proof.Machine
end

