-- ==== Sys2Proof/Machine/Carrel.lean ====
section
/-! DEFINITION. Carrel modules: command rings, the units' SCAN, SELECT and ROWSUM, completion, cancellation
(R261 to R284). -/

namespace Sys2Proof.Machine

/-! ### Fields of a command (R266, R267) -/

def caOp (b : List Byte) : Nat := bAt b 0
def caFmt (b : List Byte) : EFmt := (EFmt.ofCode (bAt b 1)).getD .int8
def caCtl (b : List Byte) (i : Nat) : Bool := bit (bAt b 2) i
def caFilter (b : List Byte) : Nat := bits (bAt b 2) 3 2
def caK (b : List Byte) : Nat := bAt b 3
def caDim (b : List Byte) : Nat := leAt b 4 2
def caQexp (b : List Byte) : Int := sext 6 (bAt b 6)
def caCexp (b : List Byte) : Int := sext 6 (bAt b 7)
def caRange (b : List Byte) : Word := wAt b 8
def caN (b : List Byte) : Nat := leAt b 16 4
def caStride (b : List Byte) : Nat := leAt b 20 2
def caAttr (b : List Byte) : Nat := leAt b 22 2
def caId (b : List Byte) : Nat := leAt b 24 2
def caOpnd (b : List Byte) : Nat := leAt b 28 4
def caDest (b : List Byte) : Bool × Word := (bit (bAt b 26) 0, wAt b 40)
def caTag (b : List Byte) : Nat := leAt b 48 4
def caSeq (b : List Byte) : Nat := leAt b 56 8
def caRpb (b : List Byte) : Nat := 4096 / max 1 (caStride b)
/-- Bytes of a record's code or row (R118). -/
def caV (b : List Byte) : Nat := caDim b * (caFmt b).bits / 8
/-- Table entries per subspace. -/
def caTab (b : List Byte) : Nat := if caFmt b = .pq4 then 16 else 256
def opMask (o : List Byte) : Nat := leAt o 0 8
def opValue (o : List Byte) : Nat := leAt o 8 8
def opMax (o : List Byte) : Nat := leAt o 28 4

/-- Operand bytes that a command's data needs. -/
def caNeed (b : List Byte) : Nat :=
  match caOp b with
  | 1 => if caFmt b = .pq4 ∨ caFmt b = .pq8 then 64 + up (caDim b * caTab b) 64 + caDim b else 64 + caV b
  | 3 => 64 + 4 * caN b
  | _ => 64

/-- DIM of a SCAN (R115). -/
def scanDim (f : EFmt) (d : Nat) : Bool :=
  match f with
  | .int8 => decide (1 ≤ d ∧ d ≤ 8192)
  | .int4 => decide (2 ≤ d ∧ d ≤ 16384 ∧ d % 2 = 0)
  | .pq4 => decide (2 ≤ d ∧ d ≤ 2048 ∧ d % 2 = 0)
  | .pq8 => decide (1 ≤ d ∧ d ≤ 128)
  | _ => false

/-- CAR_CMD_INVALID on the fields of R266 (R269). -/
def carValid (b : List Byte) : Bool :=
  let opOk := match caOp b with
    | 1 => decide (bAt b 1 = 0 ∨ bAt b 1 = 1 ∨ bAt b 1 = 7 ∨ bAt b 1 = 8) && scanDim (caFmt b) (caDim b) &&
        decide (1 ≤ caK b ∧ caK b ≤ 64 ∧ caV b ≤ caStride b)
    | 2 => decide (bAt b 1 = 0 ∧ caK b = 0)
    | 3 => decide (bAt b 1 = 0 ∨ bAt b 1 = 1 ∨ bAt b 1 = 4 ∨ bAt b 1 = 5) &&
        decide (caK b = 0 ∧ caDim b ≤ 1024 ∧ caN b ≤ 4096 ∧ caV b ≤ caStride b ∧ (4 ≤ bAt b 1 → caCexp b = 0))
    | _ => false
  let word (on : Bool) (off : Nat) : Bool :=
    if on then decide (off % 8 = 0 ∧ off + 8 ≤ caStride b) else decide (off = 0)
  opOk && decide (caFilter b < 2 ∧ bAt b 6 < 64 ∧ bAt b 7 < 64) &&
  decide (fld (caRange b) 50 14 = 0 ∧ aSpace (caRange b) = 1 ∧ (caRange b).toNat % 4096 = 0) &&
  decide (caStride b % 8 = 0 ∧ 8 ≤ caStride b ∧ caStride b ≤ 4096) &&
  word (decide (caFilter b = 1)) (caAttr b) && word (!caCtl b 6) (caId b) &&
  decide (bAt b 26 < 2) && zeroAt b 27 1 && zeroAt b 53 1 && decide (leAt b 54 2 < 1024) &&
  decide (64 ≤ caOpnd b ∧ caOpnd b ≤ 64 + 34816 ∧ caNeed b ≤ caOpnd b) &&
  decide ((wAt b 32).toNat % 64 = 0 ∧ (wAt b 40).toNat % 64 = 0)

/-- CAR_CMD_INVALID on the parameter line (R267). -/
def opndValid (b o : List Byte) : Bool :=
  zeroAt o 32 32 && (if caOp b = 2 then decide (1 ≤ opMax o ∧ opMax o ≤ 65536) else decide (opMax o = 0))

/-- Lines of one SCAN record. -/
def scanLines (b : List Byte) : Nat := ceilDiv (64 + 16 * caK b) 64

/-- Bytes of the largest output of a command, and its completion. -/
def carOutMax (b o : List Byte) : Nat :=
  (match caOp b with
   | 1 => 4 * 64 * scanLines b
   | 2 => 64 + up (8 * min (caN b) (4 * opMax o)) 64
   | _ => up (4 * caDim b) 64) + 16

/-! ### Completion (R273) -/

/-- Writes pieces of at most 64 bytes from `a` on, poisoned ones marked or written poisoned (R279). -/
def State.carWrite (s : State) (p : Nat) (d : Bool × Word) (ps : List (List Byte × Bool)) : State :=
  (ps.foldl (fun (acc : State × Nat) x =>
    let a := addA d.2 acc.2
    let s1 := if d.1 then acc.1.modCore (remote a).1 (·.deliver (remote a).2 (x.1.map (fun b => (b, x.2))))
      else acc.1.devWrite p a x.1 x.2
    (s1, acc.2 + x.1.length)) (s, 0)).1

/-- Output, completion, signal and counts of a command that ends. -/
def State.carFinish (s : State) (m p : Nat) (c : CarCmd) (status units : Nat) (out : List (List Byte × Bool)) : State :=
  let b := c.bytes
  let d := caDest b
  let n := sumNat (out.map (·.1.length))
  let comp := leBytes 2 status ++ leBytes 1 units ++ zeros 1 ++ leBytes 4 c.scored ++ leBytes 4 c.filtered ++
    leBytes 4 (caSeq b)
  let s1 := if s.inPart p d (n + 16) then (s.carWrite p d out).carWrite p (d.1, addA d.2 (up n 64)) [(comp, false)] else s
  let core := bAt b 52
  let s2 := if caCtl b 7 && decide (s1.coreOwner core = some p) && !(s1.core core).resetting then
      s1.gsig core (leAt b 54 2 % 1024) else s1
  (s2.bump (carP m + (if status = 0 then 0x80 else 0x88)) 1).modCar m (fun x => { x with lastSeq := caSeq b % 2 ^ 32 })

/-- Module address of record 0, where the whole range lies on this channel. -/
def State.carBase (s : State) (p : Nat) (b : List Byte) : Nat :=
  match s.locate p (caRange b) with
  | some (.phys _ o) => o
  | _ => 0

/-- Module address of record r, and the unit of an address (R261, R268). -/
def recAddr (base : Nat) (b : List Byte) (r : Nat) : Nat :=
  base + r / caRpb b * 4096 + r % caRpb b * caStride b
def unitOf (a : Nat) : Nat := bankOf a / 16

/-- Index k of a ROWSUM's operand. -/
def carIndex (o : List Byte) (k : Nat) : Nat := leAt o (64 + 4 * k) 4

/-- Compute banks that hold what a command reads. -/
def carBanks (base : Nat) (b o : List Byte) : List Nat :=
  (if caOp b = 3 then (List.range (caN b)).map (fun k => bankOf (recAddr base b (carIndex o k)))
   else (List.range (min 64 (ceilDiv (caN b) (caRpb b)))).map (fun k => bankOf (base + 4096 * k))).dedup

/-- A write or read of the window is a request of the partition's queue at the channel: one that finds it full waits
(R221, R280). -/
def State.winQueue (s : State) (m p : Nat) : State :=
  if s.queueDepth p 1 ≤ s.queueAhead s.nextId 0 (48 + m) then s.waitCycles (0x9300 + p * 0x40 + 8) else s

/-- The next taken command starts: it and its operand go to the window (R265, R275). -/
def State.carNext (s : State) (m : Nat) : State :=
  match (s.car m).run, (s.car m).taken, s.chanOwner m with
  | none, c :: r, some p => (s.winQueue m p).modCar m (fun x => { x with
      run := some { c with banks := carBanks (s.carBase p c.bytes) c.bytes c.opnd }
      taken := r
      found := Tab.empty
      win := Mem.putBytes x.win 0 (c.bytes ++ c.opnd) })
  | _, _, _ => s

/-! ### Taking commands (R264, R269) -/

/-- Whether the 4 KiB blocks `[0, n)` of the range lie in the partition's tier 1 piece on channel m (R269). -/
def State.carBlocks (s : State) (m p : Nat) (b : List Byte) (n : Nat) : Bool :=
  let at_ (k : Nat) : Bool :=
    let a := addA (caRange b) (4096 * k)
    s.inAlloc p a 4096 && (match s.locate p a with
      | some (.phys i _) => decide (i = 48 + m)
      | _ => false)
  decide (n = 0) || (at_ 0 && at_ (n - 1))

/-- What MCm finds when it takes a command: its status and operand (R269). -/
def State.carCheck (s : State) (m p : Nat) (b : List Byte) : State × Nat × List Byte :=
  if !carValid b || !s.inAlloc p (wAt b 32) (caOpnd b) then (s, 0x0601, [])
  else if s.unified p || !s.t1Linear p ||
      (decide (caOp b ≠ 3) && !s.carBlocks m p b (ceilDiv (caN b) (caRpb b))) then (s, 0x0602, [])
  else
    let r := s.devRead p (wAt b 32) (caOpnd b)
    if r.2.2 then (r.1, 0x0603, [])
    else if !opndValid b r.2.1 then (r.1, 0x0601, [])
    else if !s.inPart p (caDest b) (carOutMax b r.2.1) then (r.1, 0x0607, [])
    else (r.1, 0, r.2.1)

/-- Takes the ready commands at HEAD, at most `fuel`. -/
def State.carTake (s : State) (m p base size : Nat) : Nat → State
  | 0 => s
  | n + 1 =>
    let h := (s.car m).head
    let ring : Word := BitVec.ofNat 64 base
    let a := addA ring (64 + 64 * (h % size))
    if !s.inAlloc p a 64 then s
    else
      let r := s.devRead p a 64
      let b := r.2.1
      if r.2.2 || decide (caSeq b ≠ (h + 1) % 2 ^ 64) then r.1
      else
        let s1 := (r.1.modCar m (fun x => { x with head := h + 1 })).devWrite p (addA ring 8) (leBytes 8 (h + 1))
        let c := s1.carCheck m p b
        let cmd : CarCmd := { bytes := b, opnd := c.2.2, status := c.2.1 }
        let s2 := if c.2.1 ≠ 0 then c.1.carFinish m p cmd c.2.1 0 []
          else c.1.modCar m (fun x => { x with taken := x.taken ++ [cmd] })
        s2.carTake m p base size n

def execCarrelRingPoll (m : ModId) (s : State) : Outc :=
  match s.chanOwner m with
  | none => .next s
  | some p =>
    let ctl := s.inForce (carP m + 0x48)
    if !ctl.getLsbD 0 || !s.isCarrel m then .next s
    else
      let n := 2 ^ fld ctl 8 5
      .next ((s.carTake m p (fld (s.inForce (carP m + 0x40)) 6 44 * 64) n n).carNext m)

/-! ### The units (R268, R270 to R272, R278 to R280) -/

/-- The units' view of a command: the bursts that they read as they were before a write of their scan, and those that
read uncorrectable. -/
structure CarView where
  ch   : Nat
  b    : List Byte
  o    : List Byte
  base : Nat
  seen : List (Nat × List Byte × Bool)
  bad  : List Nat        -- burst numbers
deriving DecidableEq, Repr

/-- The burst of line `l` as it was, where the units read it so. -/
def CarView.was (v : CarView) (l : Nat) : Option (List Byte × Bool) := (v.seen.find? (fun x => decide (x.1 = l))).map (·.2)

/-- Module bytes as the units read them. -/
def State.modByte (s : State) (v : CarView) (a n : Nat) : List Byte :=
  if v.seen = [] then Mem.bytes s.mem (physKey (48 + v.ch) a) n
  else (List.range n).map (fun i => match v.was ((a + i) / 64) with
    | some x => x.1.getD ((a + i) % 64) 0
    | none => Mem.rd s.mem (physKey (48 + v.ch) (a + i)))

/-- A record that lies wholly or partly in an uncorrectable burst. -/
def CarView.skips (v : CarView) (r : Nat) : Bool :=
  (linesOf (recAddr v.base v.b r) (caStride v.b)).any v.bad.contains

/-- The records of unit u below N, ascending. -/
def CarView.recs (v : CarView) (u : Nat) : List Nat :=
  (List.range (caN v.b)).filter (fun r => decide (unitOf (recAddr v.base v.b r) = u))

/-- MASKVAL and FNEG (R119, R270). -/
def State.carPass (s : State) (v : CarView) (r : Nat) : Bool :=
  let p := if caFilter v.b = 0 then true
    else decide (leNat (s.modByte v (recAddr v.base v.b r + caAttr v.b) 8) &&& opMask v.o = opValue v.o)
  p != caCtl v.b 5

def State.carIdOf (s : State) (v : CarView) (r : Nat) : Word :=
  if caCtl v.b 6 then addA (wAt v.o 16) r
  else BitVec.ofNat 64 (leNat (s.modByte v (recAddr v.base v.b r + caId v.b) 8))

/-- Score of a record (R123, R124); free where the exponents break the conditions under which an engine scores. -/
def State.carScore (s : State) (v : CarView) (r : Nat) : F32 :=
  let f := caFmt v.b
  let c := s.modByte v (recAddr v.base v.b r) (caV v.b)
  let data := v.o.drop 64
  let free : F32 := (Config.freeWord (s.free + r)).setWidth 32
  if f = .pq4 ∨ f = .pq8 then
    let n := up (caDim v.b * caTab v.b) 64
    let exps := (data.drop n).take (caDim v.b)
    if exps.any (fun e => decide (64 ≤ e.toNat ∨ sext 6 e.toNat < caQexp v.b ∨ caQexp v.b + 15 < sext 6 e.toNat)) then free
    else (lookupOf f (caDim v.b) (caTab v.b) (caQexp v.b) data exps c).1
  else if caCtl v.b 0 && decide (caCexp v.b ≠ caQexp v.b) then free
  else (scoreOf f (if caCtl v.b 0 then 1 else 0) (caDim v.b) (caQexp v.b) (caCexp v.b) data c).1

/-- Configuration word of a unit's list. -/
def carCfg (b o : List Byte) : Word :=
  BitVec.ofNat 64 (caK b + (if caCtl b 1 then 512 else 0) + (if caCtl b 2 then 1024 else 0) + leAt o 24 4 * 2 ^ 32)

/-- Blocks of unit u: their module addresses and the bytes read of each (R268). -/
def CarView.blocks (v : CarView) (u : Nat) : List (Nat × Nat) :=
  (List.range (ceilDiv (caN v.b) (caRpb v.b))).filterMap (fun k =>
    let a := v.base + 4096 * k
    if unitOf a = u then some (a, min (caRpb v.b) (caN v.b - k * caRpb v.b) * caStride v.b) else none)

/-- Rows of a ROWSUM in unit u, in operand order. -/
def CarView.rows (v : CarView) (u : Nat) : List Nat :=
  ((List.range (caN v.b)).map (carIndex v.o)).filter (fun r => decide (unitOf (recAddr v.base v.b r) = u))

/-- Bursts that unit u reads, as line numbers. -/
def CarView.lines (v : CarView) (u : Nat) : List Nat :=
  if caOp v.b = 3 then (v.rows u).flatMap (fun r => linesOf (recAddr v.base v.b r) (caV v.b))
  else (v.blocks u).flatMap (fun x => linesOf x.1 x.2)

/-- How many bursts unit u reads (R275: one for each 64 bytes of a row). -/
def CarView.bursts (v : CarView) (u : Nat) : Nat :=
  if caOp v.b = 3 then (v.rows u).length * ceilDiv (caV v.b) 64 else (v.lines u).length

/-- One record of a SCAN: list, records scored, records filtered. -/
def State.scanRec (s : State) (v : CarView) (w : Word) (acc : ColList × Nat × Nat) (r : Nat) : ColList × Nat × Nat :=
  if v.skips r then acc
  else if !s.carPass v r then (acc.1, acc.2.1, acc.2.2 + 1)
  else
    let t := takeEntry w true false acc.1.entries acc.1.acct (s.carIdOf v r) (s.carScore v r)
    ({ acc.1 with entries := t.1, acct := t.2.1 }, acc.2.1 + 1, acc.2.2)

/-- One row of a ROWSUM added to a unit's partial sum. -/
def State.addRow (s : State) (v : CarView) (acc : List F32) (r : Nat) : List F32 :=
  if v.skips r then acc
  else
    let f := caFmt v.b
    let row := s.modByte v (recAddr v.base v.b r) (caV v.b)
    (List.range (caDim v.b)).map (fun i =>
      fadd (acc.getD i 0) (fscale (if f.isInt then caCexp v.b else 0) (f.f32 (f.elem row i))))

/-- Result of unit u: its lines, IDs written, records passed, scored (or summed), filtered. -/
def State.unitResult (s : State) (v : CarView) (u : Nat) : List Byte × Nat × Nat × Nat × Nat :=
  match caOp v.b with
  | 1 =>
    let w := carCfg v.b v.o
    let r := (v.recs u).foldl (s.scanRec v w) (({ cfg := w } : ColList), 0, 0)
    (r.1.record (caTag v.b) (0x8000 + 4 * v.ch + u), 0, r.2.1, r.2.1, r.2.2)
  | 2 =>
    let seen := (v.recs u).filter (fun r => !v.skips r)
    let pass := seen.filter (s.carPass v)
    let ids := (pass.take (opMax v.o)).map (s.carIdOf v)
    (ids.flatMap (fun i => leBytes 8 i.toNat), ids.length, pass.length, 0, seen.length - pass.length)
  | _ =>
    let rs := (v.rows u).filter (fun r => !v.skips r)
    (((v.rows u).foldl (s.addRow v) (List.replicate (caDim v.b) 0)).flatMap (fun x => leBytes 4 x.toNat), 0, 0, rs.length, 0)

def resArea (u : Nat) : Nat := 0x1000000 + u * 0x800000

/-- The bursts of a command that its units read as they were: of each one written since the command started, some content
that it had since then (R277). -/
def State.carSeen (s : State) (c : CarCmd) : List (Nat × List Byte × Bool) :=
  ((c.ver.map (·.1)).dedup).filterMap (fun l =>
    let vs := c.ver.filter (fun x => decide (x.1 = l))
    vs[Config.freePick (s.free + 1 + l) % (vs.length + 1)]?)

/-- Lines of the window that a result of `n` bytes of unit u takes. -/
def resLines (u n : Nat) : List Nat := (List.range (ceilDiv n 64)).map (· + resArea u / 64)

/-- The running command's scan. A ROWSUM that names a row outside the range stops with CAR_RANGE, after some of its rows.
`bad` are bursts that read uncorrectable now; a poisoned line of the module reads so too, and stays so (R279). `corr` bursts
are corrected (R278). -/
def State.carRun (s : State) (m op : Nat) (bad : List Nat) (corr : Nat) : State :=
  match (s.car m).run, s.chanOwner m with
  | some c, some p =>
    if c.done || decide (caOp c.bytes ≠ op) || s.pwr.brownout then s
    else
      let base := s.carBase p c.bytes
      let rowsOk := decide (op ≠ 3) || (List.range (caN c.bytes)).all (fun k =>
        s.carBlocks m p c.bytes (carIndex c.opnd k / caRpb c.bytes + 1))
      if !rowsOk then
        let rows := Config.freePick s.free % max 1 (caN c.bytes)
        let n := rows * ceilDiv (caV c.bytes) 64
        let s1 := (({ s with free := s.free + 1 } : State).bump (carP m + 0x90) (64 * n)).meterAdd p 6 (64 * n)
        ((s1.bump (carP m + 0xC0) (min corr n)).bump (carP m + 0x98) rows).modCar m
          (fun x => { x with run := some { c with done := true, status := 0x0602, scored := rows } })
      else
        let v0 : CarView := ⟨m, c.bytes, c.opnd, base, s.carSeen c, []⟩
        let isBad (l : Nat) : Bool := bad.contains (64 * l) || (match v0.was l with
          | some x => x.2
          | none => Tab.get (fun _ => false) s.memBad (physKey (48 + m) (64 * l) / 64))
        let found := (List.range 4).map (fun u => ((v0.lines u).filter isBad).dedup)
        let v := { v0 with bad := found.flatten }
        let rs := (List.range 4).map (s.unitResult v)
        let k := sumNat ((List.range 4).map v.bursts)
        let scored := sumNat (rs.map (·.2.2.2.1))
        let filtered := sumNat (rs.map (·.2.2.2.2))
        let s1 := { s with
          free := s.free + 2 ^ 38
          memBad := (found.flatten.filter (fun l => (v0.was l).isNone)).foldl (fun t l =>
            Tab.set (fun _ => false) t (physKey (48 + m) (64 * l) / 64) true) s.memBad }
        let s2 := ((s1.bump (carP m + 0x90) (64 * k)).meterAdd p 6 (64 * k)).bump (carP m + 0xC0) (min corr k)
        let s3 := ((s2.bump (carP m + 0x98) scored).bump (carP m + 0xA0) filtered).bump (carP m + 0xB8) (Config.freePick s.free)
        let took (u : Nat) : List Nat := resLines u (rs.getD u ([], 0, 0, 0, 0)).1.length
        s3.modCar m (fun x => { x with
          run := some { c with done := true, counts := rs.map (·.2.1), passed := sumNat (rs.map (·.2.2.1)),
                               scored := scored, filtered := filtered }
          winBad := x.winBad.filter (fun l => (List.range 4).all (fun u => !(took u).contains l)) ++
            (List.range 4).flatMap (fun u => if found.getD u [] = [] then [] else took u)
          win := (List.range 4).foldl (fun w u => Mem.putBytes w (resArea u) ((rs.getD u ([], 0, 0, 0, 0)).1)) x.win
          found := (List.range 4).foldl (fun t u => Tab.set (fun _ => []) t u (found.getD u [])) x.found })
  | _, _ => s

def execScan (m : ModId) (bad : List Nat) (corr : Nat) (s : State) : Outc := .next (s.carRun m 1 bad corr)
def execSelect (m : ModId) (bad : List Nat) (corr : Nat) (s : State) : Outc := .next (s.carRun m 2 bad corr)
def execRowsum (m : ModId) (bad : List Nat) (corr : Nat) (s : State) : Outc := .next (s.carRun m 3 bad corr)

/-! ### Output (R273, R279) -/

/-- 64-byte pieces with a poison test on their byte ranges. -/
def pieces64 (bs : List Byte) (bad : Nat → Nat → Bool) : List (List Byte × Bool) :=
  (List.range (ceilDiv bs.length 64)).map (fun k => ((bs.drop (64 * k)).take 64, bad (64 * k) (64 * k + 64)))

def padTo (n : Nat) (bs : List Byte) : List Byte := bs ++ zeros (up bs.length n - bs.length)

/-- The output that MCm forms from the window. -/
def Carrel.output (x : Carrel) (c : CarCmd) : List (List Byte × Bool) :=
  let b := c.bytes
  let bad (u : Nat) : Bool := decide (Tab.get (fun _ => []) x.found u ≠ [])
  match caOp b with
  | 1 => (List.range 4).flatMap (fun u =>
      pieces64 (padTo 64 (Mem.bytes x.win (resArea u) (64 + 16 * caK b))) (fun _ _ => bad u))
  | 2 =>
    let cnt (u : Nat) : Nat := c.counts.getD u 0
    let start (u : Nat) : Nat := 8 * sumNat ((List.range u).map cnt)
    let ids := (List.range 4).flatMap (fun u => Mem.bytes x.win (resArea u) (8 * cnt u))
    let total := sumNat c.counts
    let hdr := leBytes 4 total ++ leBytes 4 c.passed ++ leBytes 1 (if total < c.passed then 1 else 0) ++ zeros 7 ++
      (List.range 4).flatMap (fun u => leBytes 4 (cnt u)) ++ zeros 32
    (hdr, false) :: pieces64 ids (fun lo hi => (List.range 4).any (fun u =>
      bad u && decide (start u < hi ∧ lo < start u + 8 * cnt u)))
  | _ =>
    let part (u i : Nat) : F32 := BitVec.ofNat 32 (Mem.le x.win (resArea u + 4 * i) 4)
    let sums := (List.range (caDim b)).map (fun i => (List.range 4).foldl (fun a u => fadd a (part u i)) 0)
    pieces64 (padTo 64 (sums.flatMap (fun y => leBytes 4 y.toNat))) (fun _ _ => (List.range 4).any bad)

/-- Result lines that MCm reads from the window. -/
def CarCmd.readLines (c : CarCmd) : Nat :=
  match caOp c.bytes with
  | 1 => 4 * scanLines c.bytes
  | 2 => sumNat (c.counts.map (fun n => ceilDiv (8 * n) 64))
  | _ => 4 * ceilDiv (caDim c.bytes) 16

/-- Reports one uncorrectable burst of unit u (R279). -/
def State.carReport (s : State) (m p u l : Nat) : State :=
  let s1 := (s.bump (carP m + 0xC8) 1).poisonRead p
  let s2 := s1.logEv 0x0620 4 (some p) (leBytes 1 m ++ leBytes 1 u ++ zeros 6 ++ leBytes 8 (64 * l))
  if (s2.reg (carP m + 0x58)).getLsbD 63 then s2
  else s2.setReg (carP m + 0x58) (BitVec.ofNat 64 (l + u * 2 ^ 38 + 2 ^ 63))

def execCarrelComplete (m : ModId) (s : State) : Outc :=
  match (s.car m).run, s.chanOwner m with
  | some c, some p =>
    if !c.done then .next s
    else
      let x := s.car m
      let found (u : Nat) : List Nat := if c.status = 0 then Tab.get (fun _ => []) x.found u else []
      let units := sumNat ((List.range 4).map (fun u => if found u = [] then 0 else 2 ^ u))
      let s1 := (List.range 4).foldl (fun s u => (found u).foldl (fun s l => s.carReport m p u l) s) s
      let status := if c.status ≠ 0 then c.status else if units ≠ 0 then 0x0604 else 0
      -- MCm reads the result lines from the window (R275, R449)
      let s2 := if c.status = 0 then (s1.winQueue m p).meterAdd p 4 (64 * c.readLines) else s1
      let s3 := s2.carFinish m p c status units (if c.status = 0 then x.output c else [])
      .next ((s3.modCar m (fun x => { x with run := none })).carNext m)
  | _, _ => .next s

/-! ### Cancellation, stops and the CARREL page (R280 to R283) -/

/-- What a command that stops within its scan has read, corrected, scored and filtered: free, within its bounds (R278,
R280, R284). -/
def State.carStopped (s : State) (m p : Nat) (c : CarCmd) : State × CarCmd :=
  if c.done then (s, c)
  else
    let v : CarView := ⟨m, c.bytes, c.opnd, s.carBase p c.bytes, [], []⟩
    let pick (k bound : Nat) : Nat := Config.freePick (s.free + k) % (bound + 1)
    let k := pick 0 (sumNat ((List.range 4).map v.bursts))
    let sc := if caOp c.bytes = 2 then 0 else pick 1 (caN c.bytes)
    let fi := if caOp c.bytes = 3 then 0 else pick 2 (caN c.bytes - sc)
    let s1 := (({ s with free := s.free + 5 } : State).bump (carP m + 0x90) (64 * k)).meterAdd p 6 (64 * k)
    let s2 := (s1.bump (carP m + 0xC0) (pick 3 k)).bump (carP m + 0xB8) (Config.freePick (s.free + 4))
    ((s2.bump (carP m + 0x98) sc).bump (carP m + 0xA0) fi, { c with scored := sc, filtered := fi })

/-- The Desk's QUERY_TAG reaches a channel (R281). -/
def State.carCancel (s : State) (m q : Nat) : State :=
  match s.chanOwner m with
  | none => s
  | some p =>
    if q = 0 then s
    else
      let x := s.car m
      let mine := x.taken.filter (fun c => decide (caTag c.bytes = q))
      let s1 := s.modCar m (fun x => { x with taken := x.taken.filter (fun c => decide (caTag c.bytes ≠ q)) })
      let s2 := mine.foldl (fun s c => s.carFinish m p c 0x0605 0 []) s1
      match x.run with
      | none => s2
      | some c =>
        if caTag c.bytes ≠ q then s2
        else
          let r := s2.carStopped m p c
          ((r.1.carFinish m p r.2 0x0605 0 []).modCar m (fun x => { x with run := none })).carNext m

def execCarrelCancel (m : ModId) (q : Nat) (s : State) : Outc := .next (s.carCancel m q)

/-- Partition reset of the owner `p`, or a change of OWNER (R282): nothing is written, HEAD stays, ENABLE clears. -/
def State.carReset (s : State) (m : Nat) (p : Option Nat) : State :=
  let s1 := match (s.car m).run, p with
    | some c, some p => (s.carStopped m p c).1.modCar m (fun x => { x with lastSeq := caSeq c.bytes % 2 ^ 32 })
    | _, _ => s
  (s1.modCar m (fun x => { x with run := none, taken := [] })).setField (carP m + 0x48) 0 1 0

/-- The CARREL page as a function finds it: present only while the channel holds a CM5-256. -/
def State.seesCarrel (s : State) (f : Fn) (m : Nat) : Bool := s.isCarrel m && s.seesPage f ⟨.carrel, m, carP m⟩

/-- A write of CAR_CTRL: ENABLE takes effect at once, RING_LOG2 and BUDGET are staged; a virtual function does not
write BUDGET. -/
def execCarrelEnableWrite (f : Fn) (m : ModId) (v : Word) (s : State) : Outc :=
  let s := s.access f
  if !s.seesCarrel f m then .next s
  else
    let mask : Word := BitVec.ofNat 64 (1 + ones 12 8 + (if fnIsVf f then 0 else ones 20 16))
    let old := s.reg (carP m + 0x48)
    .next (s.setReg (carP m + 0x48) ((old &&& ~~~mask) ||| (v &&& mask)))

/-- A new ring starts at the HEAD in its header. -/
def State.carHead (s : State) (m : Nat) : State :=
  match s.chanOwner m with
  | none => s
  | some p =>
    let a := addA (BitVec.ofNat 64 (fld (s.inForce (carP m + 0x40)) 6 44 * 64)) 8
    if s.inAlloc p a 8 then
      let r := s.devRead p a 8
      r.1.modCar m (fun x => { x with head := leNat r.2.1 })
    else s

def execCarrelCommit (f : Fn) (m : ModId) (s : State) : Outc :=
  let s := s.access f
  if !s.isCarrel m then .next s
  else
    let old := fld (s.inForce (carP m + 0x40)) 6 44
    .next (s.commit f ⟨.carrel, m, carP m⟩ (fun s =>
      let w := s.reg (carP m + 0x48)
      if (s.car m).run ≠ none then .notQuiesced
      else if decide (6 ≤ fld w 8 5 ∧ fld w 8 5 ≤ 16 ∧ 4 ≤ fld w 16 5 ∧ fld w 16 5 ≤ 16) then .ok else .invalid)
      (fun s => if fld (s.inForce (carP m + 0x40)) 6 44 = old then s else s.carHead m))

end Sys2Proof.Machine
end

