-- ==== Sys2Proof/Machine/Gather.lean ====
section
/-! DEFINITION. The Gather units: batches, hot rows, updates, rows shared by nodes, table replacement
(R285 to R304). -/

namespace Sys2Proof.Machine

def State.gu (s : State) (p : Nat) : GuPart := Tab.get (fun _ => {}) s.gus p
def State.modGu (s : State) (p : Nat) (f : GuPart → GuPart) : State := { s with gus := Tab.set (fun _ => {}) s.gus p (f (s.gu p)) }

/-- GU_PART_CFG and GU_RING_BASE of partition p on page g. -/
def guCfg (g p : Nat) : Nat := guP g + 0x100 + p * 0x20
def guCnt (g p k : Nat) : Nat := guP g + 0x400 + p * 0x40 + k
/-- The Gather unit that serves a partition (R285). -/
def State.guOf (s : State) (p : Nat) : Option Nat := (List.range 4).find? (fun g => (s.inForce (guCfg g p)).getLsbD 0)
/-- Adds to a counter of the partition on its unit's page. -/
def State.guBump (s : State) (p k n : Nat) : State :=
  match s.guOf p with
  | some g => s.bump (guCnt g p k) n
  | none => s

/-! ### Descriptors (R287) -/

def tdValid (d : List Byte) : Bool := bit (bAt d 0) 0
def tdMode (d : List Byte) : Nat := bits (bAt d 0) 1 2
def tdHot (d : List Byte) : Bool := bit (bAt d 0) 3
def tdOpt (d : List Byte) : Nat := bits (bAt d 0) 4 2
def tdFmt (d : List Byte) : EFmt := (EFmt.ofCode (bAt d 1)).getD .fp32
def tdDim (d : List Byte) : Nat := leAt d 2 2
def tdLog2 (d : List Byte) (c : Nat) : Nat := bAt d (4 + c)
def tdShards (d : List Byte) : Nat := max 1 (bAt d 7)
def tdSeed (d : List Byte) (c : Nat) : Word := wAt d (8 + 8 * c)
def tdBase (d : List Byte) (c : Nat) : Word := wAt d (24 + 8 * c)
def tdVersion (d : List Byte) : Nat := leAt d 56 4
def tdSlots (d : List Byte) : Nat := leAt d 60 2
def tdMember (d : List Byte) : Nat := leAt d 62 2
/-- Bytes of a row, and RSTRIDE (R288). -/
def tdRow (d : List Byte) : Nat := tdDim d * ((tdFmt d).bits / 8)
def tdStride (d : List Byte) : Nat := up (tdRow d) 64
/-- This node's rows of a component. -/
def tdRows (d : List Byte) (c : Nat) : Nat := (2 ^ tdLog2 d c + tdShards d - 1 - tdMember d) / tdShards d
/-- Components of a table. -/
def tdComps (d : List Byte) : List Nat := if tdMode d = 1 then [0] else [0, 1]
/-- Row that an index selects in a component (R93, R288). -/
def tdHash (d : List Byte) (c : Nat) (i : Word) : Nat := visitedBit (tdSeed d c) i (tdLog2 d c)

/-- Stacks on which the partition owns tier 0 pairs: position of the lowest owned pair of each (R289). -/
def State.stackPos (s : State) (p : Nat) : List Nat :=
  let ps := s.pairsOf p
  (List.range 6).filterMap (fun h => ps.findIdx? (fun i => decide (i / 8 = h)))

/-- The table is replicated. -/
def State.replicates (s : State) (p : Nat) (d : List Byte) : Bool := tdHot d && decide (2 ≤ (s.stackPos p).length)

/-- Address of copy `r` of replica slot `j`. -/
def State.repAddr (s : State) (p : Nat) (d : List Byte) (j r : Nat) : Word :=
  addA (wAt d 64) (512 * (j * (s.pairsOf p).length + ((s.stackPos p)[r]?).getD 0))

/-- Range of a read-only table's component, if it lies in one. -/
def State.rowRange (s : State) (p : Nat) (d : List Byte) (c : Nat) : Option (Nat × Range) :=
  if tdOpt d = 0 then s.rangeFor p (tdBase d c) else none

/-- Stored bytes of this node's rows of a component. -/
def State.compBytes (s : State) (p : Nat) (d : List Byte) (c : Nat) : Nat :=
  match s.rowRange p d c with
  | some (_, r) => match r.blockAt (tdBase d c).toNat with
    | some j => r.span j (max 1 (tdRows d c * (tdDim d / 32)))
    | none => 0
  | none => tdRows d c * tdStride d

/-- Whether a component overlaps a compression range of the partition. -/
def State.meetsRange (s : State) (p : Nat) (d : List Byte) (c : Nat) : Bool :=
  (List.range 20).any (fun x => (List.range 64).any (fun i => match s.rangeAt x p i with
    | some r => decide (r.base < (tdBase d c).toNat + tdRows d c * tdStride d ∧ (tdBase d c).toNat < r.base + r.size)
    | none => false))

/-- R287 and R289 on a descriptor that replaces one of version `old`. -/
def State.descOk (s : State) (p : Nat) (d : List Byte) (old : Nat) : Bool :=
  let comp := decide (tdMode d ≠ 1)
  let i8 := decide (bAt d 1 = 0)
  let ada := decide (tdOpt d = 2)
  let ranged := (tdComps d).all (fun c => match s.rowRange p d c with
    | some (_, r) => decide (r.ofmt = tdFmt d ∧ tdDim d % 32 = 0) && (r.blockAt (tdBase d c).toNat).isSome
    | none => true)
  let n := (s.pairsOf p).length
  decide (tdMode d ≠ 0 ∧ tdOpt d ≠ 3 ∧ bAt d 0 < 64) &&
  decide (bAt d 1 = 9 ∨ bAt d 1 = 4 ∨ bAt d 1 = 5 ∨ bAt d 1 = 0) &&
  decide (1 ≤ tdDim d ∧ tdDim d ≤ 1024 ∧ 10 ≤ tdLog2 d 0 ∧ tdLog2 d 0 ≤ 40) &&
  (if comp then decide (10 ≤ tdLog2 d 1 ∧ tdLog2 d 1 ≤ 40) else decide (tdLog2 d 1 = 0 ∧ tdSeed d 1 = 0 ∧ tdBase d 1 = 0)) &&
  decide (bAt d 6 < (if i8 then 64 else 1)) &&
  decide (1 ≤ bAt d 7 ∧ bAt d 7 ≤ 64 ∧ tdMember d < bAt d 7) &&
  (tdComps d).all (fun c => decide ((tdBase d c).toNat % 64 = 0) && s.inAlloc p (tdBase d c) (s.compBytes p d c)) &&
  (if ada then s.inAlloc p (wAt d 40) (4 * sumNat ((tdComps d).map (tdRows d))) else decide (wAt d 40 = 0 ∧ leAt d 52 4 = 0)) &&
  decide (tdOpt d = 0 → leAt d 48 4 = 0) && decide (tdVersion d ≠ 0 ∧ tdVersion d ≠ old) &&
  (if tdHot d then decide (1 ≤ tdSlots d ∧ tdSlots d ≤ 16384 ∧ tdStride d ≤ 512 ∧ 0 < n ∧ aSpace (wAt d 64) = 0 ∧
      (wAt d 64).toNat % (512 * n) = 0) && !s.unified p && s.inAlloc p (wAt d 64) (tdSlots d * n * 512)
    else decide (tdSlots d = 0 ∧ wAt d 64 = 0)) &&
  zeroAt d 72 56 && (!i8 || decide (tdOpt d = 0)) && ranged &&
  (decide (tdOpt d = 0) || (tdComps d).all (fun c => !s.meetsRange p d c))

/-! ### The hot-row SRAM (R286) -/

def tdSram (d : List Byte) : Nat := if d = [] then 0 else 128 + (if tdHot d then 32768 + 16 * tdSlots d else 0)

def GuPart.table (x : GuPart) (t : Nat) : List Byte := Tab.get (fun _ => []) x.tables t
/-- SRAM that installed tables take. -/
def GuPart.installed (x : GuPart) : Nat := sumNat (x.tables.keys.map (fun t => tdSram (x.table t)))
/-- Fields of a batch request (R290). -/
def gbOp (b : List Byte) : Nat := bAt b 0
def gbTable (b : List Byte) : Nat := bAt b 1
def gbPool (b : List Byte) : Bool := bit (bAt b 2) 1
def gbN (b : List Byte) : Nat := leAt b 4 4
def gbData (b : List Byte) : Word := wAt b 16
def gbBags (b : List Byte) : Nat := leAt b 24 4
def gbOut (b : List Byte) : Bool × Word := (bit (bAt b 2) 3, wAt b 32)
def gbFmt (b : List Byte) : EFmt := if bit (bAt b 2) 0 then .bf16 else .fp32

/-- SRAM that a checked replacement needs beyond that of the table it replaces. -/
def GuPart.reserved (x : GuPart) : Nat :=
  match x.repl with
  | some r => if tdValid r.desc then tdSram r.desc - tdSram (x.table r.table) else 0
  | none => 0
/-- A partition's share in bytes. -/
def State.sramShare (s : State) (p : Nat) : Nat :=
  match s.guOf p with
  | some g => fld (s.inForce (guCfg g p)) 16 8 * 2 ^ 20
  | none => 0

/-! ### Rows (R288, R289, R296) -/

/-- Member that owns a row, and the row's place there. -/
def rowOwner (d : List Byte) (r : Nat) : Nat := r % tdShards d
def rowIdx (d : List Byte) (r : Nat) : Nat := r / tdShards d

/-- Replica slot of a row. -/
def GuPart.slotOf (x : GuPart) (t c r : Nat) (slots : Nat) : Option Nat :=
  (List.range slots).find? (fun j => decide (Tab.get (fun _ => none) x.dir (t * 16384 + j) = some (c, r)))

/-- fp32 elements of a stored row. -/
def rowElems (d : List Byte) (bs : List Byte) : List F32 :=
  let f := tdFmt d
  (List.range (tdDim d)).map (fun i => if f = .int8 then fscale (sext 6 (bAt d 6)) (f.f32 (f.elem bs i)) else f.f32 (f.elem bs i))

/-- Decoded bytes of `m` blocks of a compression range from block `j` on, and whether one was poisoned. -/
def State.readRanged (s : State) (p : Nat) (r : Range) (j m : Nat) : State × List Byte × Bool :=
  (List.range m).foldl (fun (acc : State × List Byte × Bool) k =>
    let a : Word := BitVec.ofNat 64 (r.base + r.blockOff (j + k))
    let q := acc.1.devRead p a r.rate.s
    let x := (s.expOf p a).getD 0
    let o := q.1.decodeBlock x p r.rate r.ofmt q.2.1
    ((q.1.countDecode x q.2.1 o.isSome q.2.2).escapeStall x p q.2.1 o.isSome (decide (k + 1 < m)),
      acc.2.1 ++ o.getD (zeros r.outBytes), acc.2.2 || q.2.2 || o.isNone))
    (s, [], false)

/-- A row read of `n` bytes whose first byte lies at `a`: through an Expander where that byte falls in a range, poison
where R251 refuses it (R241, R251). -/
def State.readRow (s : State) (p : Nat) (a : Word) (n : Nat) : State × List Byte × Bool :=
  match s.rangeFor p a with
  | none => s.devRead p a n
  | some (x, g) => match g.blocks a.toNat n with
    | some (j, m) => s.readRanged p g j m
    | none => (s.bump (expP x + 0x1A0) 1, zeros n, true)

/-- Forms `m` blocks from block `j` on, once every read that has a part of the old block has the rest (R252, R253); stored
lines of a poisoned row become poisoned (R510). -/
def State.writeRanged (s : State) (p : Nat) (r : Range) (j m : Nat) (bs : List Byte) (bad : Bool) : State :=
  (List.range m).foldl (fun s0 k =>
    let a : Word := BitVec.ofNat 64 (r.base + r.blockOff (j + k))
    let s := s0.finishHalf p a r.rate.s
    let x := (s.expOf p a).getD 0
    if bad then s.devWrite p a (zeros r.rate.s) true
    else match s.ownsMould x p r.mould, (s.expander x).table r.gen r.mould with
    | true, some tb =>
      let e := encodeBlock r.rate r.mould r.gen tb ((elems r.ofmt (bs.drop (k * r.outBytes))).map (encElem r.ofmt))
      (((s.bump (expP x + 0x1A8) 1).bump (expP x + 0x1B0) (if e.2.1 then 1 else 0)).bump (expP x + 0x1B8) e.2.2).devWrite p a e.1
    | _, _ => (s.bump (expP x + 0x190) 1).devWrite p a (zeros r.rate.s) true) s

/-- A row write whose first byte lies at `a` (R241, R251). -/
def State.writeRow (s : State) (p : Nat) (a : Word) (bs : List Byte) (bad : Bool := false) : State :=
  match s.rangeFor p a with
  | none => s.devWrite p a bs bad
  | some (x, g) => match g.blocks a.toNat bs.length with
    | some (j, m) => s.writeRanged p g j m bs bad
    | none => s.bump (expP x + 0x1A0) 1

/-- Device address of a home row: its first block where the read-only table lies in a range (R287, R288). -/
def State.rowAddr (s : State) (p : Nat) (d : List Byte) (c r : Nat) : Word :=
  match s.rowRange p d c with
  | some (_, g) => match g.blockAt (tdBase d c).toNat with
    | some j => BitVec.ofNat 64 (g.base + g.blockOff (j + rowIdx d r * (tdDim d / 32)))
    | none => addA (tdBase d c) (tdStride d * rowIdx d r)
  | none => addA (tdBase d c) (tdStride d * rowIdx d r)

/-- Reads a home row: its bytes in FMT and whether it is poisoned. -/
def State.readHome (s : State) (p : Nat) (d : List Byte) (c r : Nat) : State × List Byte × Bool :=
  s.readRow p (s.rowAddr p d c r) (tdRow d)

/-- Fetches a local row at sorted position `k`: from its replica where it has one (R292). -/
def State.fetchRow (s : State) (p t : Nat) (d : List Byte) (c r k : Nat) : State × List Byte × Bool :=
  let copies := (s.stackPos p).length
  match (if s.replicates p d then (s.gu p).slotOf t c r (tdSlots d) else none) with
  | some j => (s.guBump p 0x10 1).readRow p (s.repAddr p d j (k % copies)) (tdRow d)
  | none => s.readHome p d c r

/-- A row write: the home row and every replica, as one step (R24, R296). -/
def State.rowWrite (s : State) (p t : Nat) (d : List Byte) (c r : Nat) (bs : List Byte) : State :=
  let s1 := s.writeRow p (s.rowAddr p d c r) bs
  match (if s.replicates p d then (s.gu p).slotOf t c r (tdSlots d) else none) with
  | some j => (List.range (s.stackPos p).length).foldl (fun s k => s.writeRow p (s.repAddr p d j k) bs) s1
  | none => s1

/-! ### The sketch and promotion (R295) -/

def sketchKey (t k c r : Nat) : Nat := (t * 4 + k) * 4096 + Config.sketchCol k (2 * r + c) % 4096
def GuPart.estimate (x : GuPart) (t c r : Nat) : Nat :=
  (List.range 4).foldl (fun m k => min m (Tab.get z0 x.sketch (sketchKey t k c r))) 65535
def GuPart.count (x : GuPart) (t c r : Nat) : GuPart :=
  { x with sketch := (List.range 4).foldl (fun q k =>
      let a := sketchKey t k c r
      Tab.set z0 q a (min 65535 (Tab.get z0 q a + 1))) x.sketch }

/-- After the fetch of a local row: promotion to a free replica slot. -/
def State.promote (s : State) (g p t : Nat) (d : List Byte) (c r : Nat) (bs : List Byte) (bad : Bool) : State :=
  let x := s.gu p
  let thresh := fld (s.reg (guP g + 0x48)) 0 16
  let free := (List.range (tdSlots d)).filter (fun j => decide (Tab.get (fun _ => none) x.dir (t * 16384 + j) = none))
  if !s.replicates p d || decide (x.estimate t c r < thresh) || (x.slotOf t c r (tdSlots d)).isSome then s
  else
    let ch := s.choose free
    match ch.1 with
    | none => s
    | some j =>
      ((List.range (s.stackPos p).length).foldl (fun s k => s.writeRow p (s.repAddr p d j k) bs bad) ch.2).modGu p
        (fun x => { x with dir := Tab.set (fun _ => none) x.dir (t * 16384 + j) (some (c, r)) })

/-! ### Intake (R290, R291, R300 step 3) -/

/-- GU_REQUEST_INVALID on the request's fields. -/
def gbValid (b : List Byte) : Bool :=
  let upd := decide (gbOp b = 2)
  decide (gbOp b = 1 ∨ gbOp b = 2) && decide (gbTable b < 32 ∧ bAt b 2 < 16) && zeroAt b 3 1 &&
  decide (1 ≤ gbN b ∧ gbN b ≤ 65536 ∧ leAt b 8 8 % 8 = 0 ∧ (gbOut b).2.toNat % 64 = 0) && !(upd && gbPool b) &&
  (if gbPool b then decide (1 ≤ gbBags b ∧ gbBags b ≤ 65536) else decide (gbBags b = 0)) &&
  (upd || gbPool b || decide (gbData b = 0)) && zeroAt b 28 4 && zeroAt b 45 1 && decide (leAt b 46 2 < 1024) && zeroAt b 48 8

/-- Working space of a batch: a request that R290 refuses takes none (R286). -/
def gbWork (b : List Byte) : Nat := if gbValid b then 16 * gbN b else 0
/-- SRAM in use: the installed tables and the batch in progress. -/
def GuPart.sramUsed (x : GuPart) : Nat := x.installed + x.cur.elim 0 (fun b => gbWork b.bytes)

def gbOstride (d b : List Byte) : Nat := up (tdDim d * ((gbFmt b).bits / 8)) 64
def gbSlots (b : List Byte) : Nat := if gbOp b = 2 then 0 else if gbPool b then gbBags b else gbN b
/-- Where the completion lies after OUT_ADDR (R292); at OUT_ADDR where no table gives a stride. -/
def gbCompOff (d b : List Byte) : Nat := if d = [] then 0 else gbSlots b * gbOstride d b
def gradStride (d : List Byte) : Nat := up (4 * tdDim d) 64

/-- Status that a batch meets before it runs. -/
def State.gbCheck (s : State) (p : Nat) (b : List Byte) : Nat :=
  let d := (s.gu p).table (gbTable b)
  let data := if gbOp b = 2 then gradStride d * gbN b else if gbPool b then 4 * gbBags b else 0
  if !gbValid b then 0x0701
  else if d = [] then 0x0702
  else if gbOp b = 2 ∧ tdOpt d = 0 then 0x0704
  else if !s.inAlloc p (wAt b 8) (8 * gbN b) || !(decide (data = 0) || s.inAlloc p (gbData b) data) ||
      !s.inPart p (gbOut b) (gbCompOff d b + 16) then 0x0706
  else 0

/-- The table of a batch is REPLACING. -/
def GuPart.holds (x : GuPart) (t : Nat) : Bool :=
  match x.repl with
  | some r => r.begun && decide (r.table = t)
  | none => false

/-- A batch enters: to the partition's queue, or held. -/
def State.gbIntake (s : State) (p : Nat) (b : List Byte) (layer : Bool) : State :=
  let q : GBatch := {
    bytes := b, epoch := (s.part p).epoch, since := s.clk, remote := [], rows := [], begun := false, done := false, status := 0,
    unique := 0, nremote := 0, layer := layer }
  if (s.gu p).holds (gbTable b) then
    (s.modGu p (fun x => { x with heldB := x.heldB ++ [q] })).guBump p 0x30 1
  else s.modGu p (fun x => { x with queue := x.queue ++ [q] })

/-- Takes the ready requests of the Gather ring, at most `fuel`. -/
def State.guTake (s : State) (p base size : Nat) : Nat → State
  | 0 => s
  | n + 1 =>
    let h := (s.gu p).head
    let ring : Word := BitVec.ofNat 64 base
    let a := addA ring (64 + 64 * (h % size))
    if !s.inAlloc p a 64 then s
    else
      let r := s.devRead p a 64
      if r.2.2 || decide (leAt r.2.1 56 8 ≠ (h + 1) % 2 ^ 64) then r.1
      else (((r.1.modGu p (fun x => { x with head := h + 1 })).devWrite p (addA ring 8) (leBytes 8 (h + 1))).gbIntake p
        r.2.1 false).guTake p base size n

def execGatherRingPoll (p : PartId) (s : State) : Outc :=
  match s.guOf p with
  | none => .next s
  | some g =>
    if (s.part p).reset ≠ none then .next s
    else
      let n := 2 ^ fld (s.inForce (guCfg g p)) 8 5
      .next (s.guTake p (fld (s.inForce (guCfg g p + 8)) 6 44 * 64) n n)

/-! ### Running a batch -/

/-- The working space of a batch fits in the partition's free share (R286). -/
def State.guFits (s : State) (p : Nat) (b : List Byte) : Bool :=
  decide ((s.gu p).installed + (s.gu p).reserved + gbWork b ≤ s.sramShare p ∨ gbWork b = 0)

/-- Unit g could take a batch of partition q now. -/
def State.guWaits (s : State) (g q : Nat) : Bool :=
  decide (s.guOf q = some g ∧ (s.gu q).cur = none) && (match (s.gu q).queue with
    | b :: _ => s.guFits q b.bytes
    | [] => false)

/-- The partition from which unit g took its last batch. -/
def State.guLast (s : State) (g : Nat) : Nat :=
  ((List.range 16).find? (fun q => decide (s.guOf q = some g) && (s.gu q).last)).getD 15

/-- A batch of the partition may start: no other is in progress, its working space fits, the partition is next in rotating
order, and its unit runs fewer than four (R285, R286). -/
def State.guMayStart (s : State) (g p : Nat) (b : List Byte) : Bool :=
  decide ((s.gu p).cur = none) && s.guFits p b && nextTurn (s.guLast g) p (s.guWaits g) &&
  decide (((List.range 16).filter (fun q => decide (s.guOf q = some g ∧ (s.gu q).cur ≠ none))).length < 4)

/-- The N indices and whether each lies in a poisoned line. -/
def State.gbIndices (s : State) (p : Nat) (b : List Byte) : List (Word × Bool) :=
  let lost := s.lostUnits p (wAt b 8) (8 * gbN b)
  (List.range (gbN b)).map (fun n =>
    let a := addA (wAt b 8) (8 * n)
    (BitVec.ofNat 64 (leNat (s.peek p a 8).1), s.badWith p lost a))

/-- Component rows of the sound indices, unique and sorted by component and row. -/
def uniqueRows (d : List Byte) (ix : List (Word × Bool)) : List (Nat × Nat) :=
  (tdComps d).flatMap (fun c =>
    (sortAsc ((ix.filter (!·.2)).map (fun i => tdHash d c i.1)).dedup).map (fun r => (c, r)))

/-- Sends a request for a row to its member under the batch's epoch (R298). -/
def State.askRow (s : State) (p t : Nat) (d : List Byte) (epoch c r : Nat) : State × (Nat × Nat × Nat × Nat) :=
  let m := rowOwner d r
  let tag := s.nextId % 2 ^ 32
  let who := (memberEntry ((s.part p).map epoch) m).getD (0, 0)
  ({ s with nextId := s.nextId + 1 }.sendMsg 4 p epoch who.1 who.2
    (leBytes 1 2 ++ leBytes 1 (t + 32 * c) ++ zeros 2 ++ leBytes 4 (tdVersion d) ++ leBytes 8 r ++ leBytes 4 tag), (c, r, m, tag))

/-- Fetches the rows of a batch: local ones at once, remote ones by request. -/
def State.fetchRows (s : State) (g p : Nat) (d : List Byte) (b : GBatch) (us : List (Nat × Nat)) (hot : Bool) :
    State × GBatch :=
  let t := gbTable b.bytes
  ((List.range us.length).zip us).foldl (fun (acc : State × GBatch) u =>
    let (c, r) := u.2
    if rowOwner d r = tdMember d then
      let f := acc.1.fetchRow p t d c r u.1
      let s1 := if hot then f.1.promote g p t d c r f.2.1 f.2.2 else f.1
      (s1, { acc.2 with rows := acc.2.rows ++ [(c, r, rowElems d f.2.1, f.2.2)] })
    else
      let q := acc.1.askRow p t d acc.2.epoch c r
      (q.1, { acc.2 with remote := acc.2.remote ++ [q.2], nremote := acc.2.nremote + 1 })) (s, b)

/-- A node has been declared lost, and its fence still stands (R399). -/
def State.isLost (s : State) (n : Nat) : Bool :=
  (s.reg (0x8100 + n / 64 * 8)).getLsbD (n % 64) && s.rc.handled.any (fun x => decide (x.1 = n))

/-- Every member that owns one of the rows is in the batch's map and not lost (R298). -/
def State.membersThere (s : State) (p epoch : Nat) (d : List Byte) (us : List (Nat × Nat)) : Bool :=
  us.all (fun u => decide (rowOwner d u.2 = tdMember d) ||
    (match memberEntry ((s.part p).map epoch) (rowOwner d u.2) with
      | some e => !s.isLost e.1
      | none => false))

def GBatch.row (b : GBatch) (c r : Nat) : List F32 × Bool :=
  ((b.rows.find? (fun x => decide (x.1 = c ∧ x.2.1 = r))).map (·.2.2)).getD ([], true)

/-- value(i) and whether a row of it is poisoned (R288). -/
def GBatch.value (b : GBatch) (d : List Byte) (i : Word × Bool) : List F32 × Bool :=
  if i.2 then (List.replicate (tdDim d) 0, true)
  else
    let x := b.row 0 (tdHash d 0 i.1)
    if tdMode d = 1 then x
    else
      let y := b.row 1 (tdHash d 1 i.1)
      (x.1.zipWith (fun a c => if tdMode d = 2 then fmul a c else fadd a c) y.1, x.2 || y.2)

/-- Bag end offsets: whether they rise to N, and whether the list is poisoned. -/
def State.bagEnds (s : State) (p : Nat) (b : List Byte) : List Nat × Bool :=
  let r := (s.devRead p (gbData b) (4 * gbBags b)).2
  ((List.range (gbBags b)).map (fun k => leAt r.1 (4 * k) 4), r.2)

def risesTo (n : Nat) : Nat → List Nat → Bool
  | a, [] => decide (a = n)
  | a, e :: r => decide (a < e) && risesTo n e r

/-- One output slot: elements converted to OFMT, poison with it. -/
def slotBytes (_d b : List Byte) (v : List F32 × Bool) : List (List Byte × Bool) :=
  pieces64 (padTo 64 (v.1.flatMap (fun x => leBytes ((gbFmt b).bits / 8) (convert (fv x) (gbFmt b) 0).1))) (fun _ _ => v.2)

/-- Output of a LOOKUP in slot order (R292). -/
def lookupOut (d : List Byte) (b : GBatch) : List (List Byte × Bool) × Bool :=
  let vs := b.idx.map (b.value d)
  let outs :=
    if gbPool b.bytes then
      let e := b.ends
      ((List.range (gbBags b.bytes)).map (fun k =>
        let lo := if k = 0 then 0 else e.1.getD (k - 1) 0
        let mem := (vs.drop lo).take (e.1.getD k 0 - lo)
        (mem.foldl (fun a v => a.zipWith fadd v.1) (List.replicate (tdDim d) 0), e.2 || mem.any (·.2))))
    else vs
  (outs.flatMap (slotBytes d b.bytes), outs.any (·.2))

/-- The batch in progress is finished but for its completion. -/
def State.guDone (s : State) (p : Nat) (b : GBatch) (status : Nat) : State :=
  s.modGu p (fun x => { x with cur := some { b with begun := true, done := true, status := status } })

/-- Takes the batch at the front of the queue, where `ok` accepts its OP and it may start. -/
def State.guStart (s : State) (p : Nat) (ok : Nat → Bool) : Option (Nat × GBatch × State) :=
  match s.guOf p, (s.gu p).queue with
  | some g, b :: r =>
    if ok (gbOp b.bytes) && s.guMayStart g p b.bytes then
      let s1 := (List.range 16).foldl (fun s q => if s.guOf q = some g then s.modGu q (fun x => { x with last := false }) else s) s
      some (g, b, s1.modGu p (fun x => { x with queue := r, last := true }))
    else none
  | _, _ => none

/-- No batch starts: one whose working space does not fit waits, and its cycles count in GU_SRAM_WAIT_CNT (R286). -/
def State.guIdle (s : State) (p : Nat) (ok : Nat → Bool) : State :=
  match s.guOf p, (s.gu p).queue with
  | some g, b :: _ => if ok (gbOp b.bytes) && decide ((s.gu p).cur = none) && !s.guFits p b.bytes then s.waitCycles (guCnt g p 0x38) else s
  | _, _ => s

/-- Scatter of a LOOKUP whose rows have all arrived. -/
def State.scatter (s : State) (p : Nat) (d : List Byte) (b : GBatch) : State :=
  let o := lookupOut d b
  (s.carWrite p (gbOut b.bytes) o.1).guDone p b (if b.status ≠ 0 then b.status else if o.2 then 0x0705 else 0)

def execLookup (p : PartId) (s : State) : Outc :=
  match (s.gu p).cur with
  | some b =>
    if gbOp b.bytes = 2 ∨ b.done = true ∨ b.remote ≠ [] then .next s
    else if b.status ≠ 0 then .next (s.guDone p b b.status)
    else .next (s.scatter p ((s.gu p).table (gbTable b.bytes)) b)
  | none =>
    match s.guStart p (· != 2) with
    | none => .next (s.guIdle p (· != 2))
    | some (g, b, s0) =>
      let d := (s0.gu p).table (gbTable b.bytes)
      let bad := s0.gbCheck p b.bytes
      if bad ≠ 0 then .next (s0.guDone p b bad)
      else
        let ix := s0.gbIndices p b.bytes
        let s1 := (s0.devRead p (wAt b.bytes 8) (8 * gbN b.bytes)).1
        let e := if gbPool b.bytes then s1.bagEnds p b.bytes else ([], false)
        let s2 := if gbPool b.bytes then (s1.devRead p (gbData b.bytes) (4 * gbBags b.bytes)).1 else s1
        let t := gbTable b.bytes
        let us := uniqueRows d ix
        if gbPool b.bytes && !e.2 && !risesTo (gbN b.bytes) 0 e.1 then .next (s2.guDone p b 0x0701)
        else if !s2.membersThere p b.epoch d us then .next (s2.guDone p b 0x0709)
        else
          let s3 := if tdHot d then (ix.filter (!·.2)).foldl (fun s i => s.modGu p (fun x =>
              (tdComps d).foldl (fun x c => x.count t c (tdHash d c i.1)) x)) s2 else s2
          let s4 := (s3.guBump p 0x00 (gbN b.bytes)).guBump p 0x08 us.length
          let f := s4.fetchRows g p d { b with unique := us.length, idx := ix, ends := e } us (tdHot d)
          if f.2.remote = [] then .next (f.1.scatter p d f.2)
          else .next (f.1.modGu p (fun x => { x with cur := some { f.2 with begun := true } }))

/-! ### Updates (R297, R299) -/

/-- fp32 sum of the elements' squares over DIM. -/
def meanSq (g : List F32) : F32 := fdiv (g.foldl (fun a x => fadd a (fmul x x)) 0) (f32OfInt g.length)

/-- Address of a row's accumulator. -/
def accAddr (d : List Byte) (c r : Nat) : Word :=
  addA (wAt d 40) (4 * ((if c = 0 then 0 else tdRows d 0) + rowIdx d r))

/-- apply(r, G): the new row, or nothing where a read of it returned poison. -/
def State.applyRow (s : State) (p t : Nat) (d : List Byte) (c r : Nat) (g : List F32) : State × Bool :=
  let h := s.readHome p d c r
  let ac := if tdOpt d = 2 then h.1.devRead p (accAddr d c r) 4 else (h.1, [], false)
  if h.2.2 || ac.2.2 then (ac.1, true)
  else
    let lr : F32 := BitVec.ofNat 32 (leAt d 48 4)
    let a := fadd (BitVec.ofNat 32 (leNat ac.2.1)) (meanSq g)
    let step (x : F32) : F32 :=
      if tdOpt d = 2 then fdiv (fmul lr x) (fadd (fsqrt a) (BitVec.ofNat 32 (leAt d 52 4))) else fmul lr x
    let w := (rowElems d h.2.1).zipWith (fun w x => fsub w (step x)) g
    let bs := w.flatMap (fun x => leBytes ((tdFmt d).bits / 8) (convert (fv x) (tdFmt d) 0).1)
    let s1 := if tdOpt d = 2 then ac.1.devWrite p (accAddr d c r) (leBytes 4 a.toNat) else ac.1
    (s1.rowWrite p t d c r bs, false)

/-- Gradient row n and whether it is poisoned, in a read of them all that does not recover the units `lost`. -/
def State.gradient (s : State) (p : Nat) (d b : List Byte) (lost : List Nat) (n : Nat) : List F32 × Bool :=
  let a := addA (gbData b) (n * gradStride d)
  let r := s.peek p a (4 * tdDim d)
  ((List.range (tdDim d)).map (fun i => BitVec.ofNat 32 (leAt r.1 (4 * i) 4)),
    r.2 || (linesOf (aOff a) (4 * tdDim d)).any (fun l => s.badWith p lost (addA a (l * 64 - aOff a))))

/-- Contributions of one index: component, row, values, poison. -/
def contrib (d : List Byte) (b : GBatch) (n : Nat) (i : Word × Bool) : List (Nat × Nat × List F32 × Bool) :=
  if i.2 then []
  else
    let g := b.grads.getD n ([], true)
    let h1 := tdHash d 0 i.1
    match tdMode d with
    | 1 => [(0, h1, g.1, g.2)]
    | 2 =>
      let h2 := tdHash d 1 i.1
      let t1 := b.row 0 h1
      let t2 := b.row 1 h2
      [(0, h1, g.1.zipWith fmul t2.1, g.2 || t2.2), (1, h2, g.1.zipWith fmul t1.1, g.2 || t1.2)]
    | _ => [(0, h1, g.1, g.2), (1, tdHash d 1 i.1, g.1, g.2)]

/-- Sends one coalesced gradient to its owner (R298). -/
def State.sendGrad (s : State) (p t : Nat) (d : List Byte) (epoch c r : Nat) (g : List F32) : State :=
  let who := (memberEntry ((s.part p).map epoch) (rowOwner d r)).getD (0, 0)
  s.sendMsg 3 p epoch who.1 who.2 (leBytes 1 (t + 32 * c) ++ leBytes 1 epoch ++ leBytes 2 (tdDim d) ++
    leBytes 4 (tdVersion d) ++ leBytes 8 r ++ g.flatMap (fun x => leBytes 4 x.toNat))

/-- Coalesces and applies: each touched row once. -/
def State.applyBatch (s : State) (p : Nat) (d : List Byte) (b : GBatch) : State :=
  let t := gbTable b.bytes
  let ix := b.idx
  let cs := ((List.range ix.length).zip ix).flatMap (fun x => contrib d b x.1 x.2)
  let us := uniqueRows d ix
  let r := us.foldl (fun (acc : State × Bool) u =>
    let mine := cs.filter (fun x => decide (x.1 = u.1 ∧ x.2.1 = u.2))
    let g := mine.foldl (fun a x => a.zipWith fadd x.2.2.1) (List.replicate (tdDim d) 0)
    if mine.any (·.2.2.2) then (acc.1, true)
    else if rowOwner d u.2 = tdMember d then
      let a := acc.1.applyRow p t d u.1 u.2 g
      (a.1, acc.2 || a.2)
    else (acc.1.sendGrad p t d b.epoch u.1 u.2 g, acc.2)) (s, ix.any (·.2))
  let far := (us.filter (fun u => decide (rowOwner d u.2 ≠ tdMember d))).length
  ((r.1.guBump p 0x18 (us.length - far)).guBump p 0x20 (cs.length - us.length)).guDone p
    { b with unique := us.length, nremote := far } (if r.2 then 0x0705 else 0)

def execUpdate (p : PartId) (s : State) : Outc :=
  match (s.gu p).cur with
  | some b =>
    if gbOp b.bytes ≠ 2 ∨ b.done = true ∨ b.remote ≠ [] then .next s
    else if b.status ≠ 0 then .next (s.guDone p b b.status)
    else .next (s.applyBatch p ((s.gu p).table (gbTable b.bytes)) b)
  | none =>
    match s.guStart p (· == 2) with
    | none => .next (s.guIdle p (· == 2))
    | some (g, b, s0) =>
      let d := (s0.gu p).table (gbTable b.bytes)
      let bad := s0.gbCheck p b.bytes
      if bad ≠ 0 then .next (s0.guDone p b bad)
      else
        let ix := s0.gbIndices p b.bytes
        let us := uniqueRows d ix
        let s1 := (s0.devRead p (wAt b.bytes 8) (8 * gbN b.bytes)).1
        if !s1.membersThere p b.epoch d us then .next (s1.guDone p b 0x0709)
        else
          let b1 := { b with idx := ix, grads := (List.range (gbN b.bytes)).map (s1.gradient p d b.bytes (s1.lostUnits p (gbData b.bytes) (gradStride d * gbN b.bytes))) }
          let s2 := (s1.devRead p (gbData b.bytes) (gradStride d * gbN b.bytes)).1
          let f := if tdMode d = 2 then (s2.guBump p 0x08 us.length).fetchRows g p d b1 us (tdHot d) else (s2, b1)
          if f.2.remote = [] then .next (f.1.applyBatch p d f.2)
          else .next (f.1.modGu p (fun x => { x with cur := some { f.2 with begun := true } }))

/-! ### Completion (R294) -/

/-- Writes a batch's completion and signals its group. -/
def State.guFinish (s : State) (p : Nat) (b : GBatch) (status : Nat) : State :=
  let d := (s.gu p).table (gbTable b.bytes)
  let o := gbOut b.bytes
  let off := if status = 0x0701 ∨ status = 0x0702 then 0 else gbCompOff d b.bytes
  let comp := leBytes 2 status ++ zeros 2 ++ leBytes 4 b.unique ++ leBytes 4 b.nremote ++ leBytes 4 (leAt b.bytes 56 8)
  let s1 := if s.inPart p o (off + 16) then s.carWrite p (o.1, addA o.2 off) [(comp, false)] else s
  let core := bAt b.bytes 44
  let s2 := if bit (bAt b.bytes 2) 2 && decide (s1.coreOwner core = some p) && !(s1.core core).resetting then
      s1.gsig core (leAt b.bytes 46 2 % 1024) else s1
  if b.layer then s2.modStep p (fun x => { x with left := [], failed := if x.failed = 0 then status else x.failed }) else s2

def execGatherBatchComplete (p : PartId) (s : State) : Outc :=
  match (s.gu p).cur with
  | some b =>
    if b.done then .next ((s.guFinish p b b.status).modGu p (fun x => { x with cur := none })) else .next s
  | none => .next s

/-! ### Rows and gradients from other nodes (R298, R299) -/

/-- The oldest delivered message that `f` accepts, and the rest. -/
def takeFirst {α : Type} (f : α → Bool) : List α → Option (α × List α)
  | [] => none
  | a :: r => if f a then some (a, r) else (takeFirst f r).map (fun x => (x.1, a :: x.2))

def isRow (op : Nat) (x : Bool × Msg) : Bool := !x.1 && decide (bAt x.2.bytes 0 = op)

/-- The owner reads a row for a remote member and returns it, or the low byte of the code that prevents it. -/
def execRowReq (s : State) : Outc :=
  match takeFirst (isRow 2) s.gather with
  | none => .next s
  | some ((_, m), rest) =>
    let s0 := { s with gather := rest }
    let p := m.dst
    let t := bAt m.bytes 1 % 32
    let c := bit (bAt m.bytes 1) 5
    let r := leAt m.bytes 8 8
    let d := (s0.gu p).table t
    let comp := if c then 1 else 0
    let tag := (m.bytes.drop 16).take 4
    let head (st ver : Nat) : List Byte :=
      leBytes 1 3 ++ leBytes 1 (bAt m.bytes 1) ++ leBytes 1 st ++ zeros 1 ++ leBytes 4 ver ++ leBytes 8 r ++ tag
    if d = [] ∨ (c ∧ tdMode d = 1) ∨ 2 ^ tdLog2 d comp ≤ r ∨ rowOwner d r ≠ tdMember d then
      .next (s0.sendMsg 4 p m.epoch m.node m.part (head 2 (leAt m.bytes 4 4)))
    else
      let f := s0.fetchRow p t d comp r 0
      .next (f.1.sendMsg 4 p m.epoch m.node m.part (head (if f.2.2 then 5 else 0) (tdVersion d) ++
        (if f.2.2 then zeros (tdRow d) else f.2.1)))

/-- A remote row reaches the batch that asked for it; a row that no batch awaits is dropped. -/
def execRowData (s : State) : Outc :=
  match takeFirst (isRow 3) s.gather with
  | none => .next s
  | some ((_, m), rest) =>
    let s0 := { s with gather := rest }
    match (s0.gu m.dst).cur with
    | none => .next s0
    | some b =>
      let tag := leAt m.bytes 16 4
      match b.remote.find? (fun x => decide (x.2.2.2 = tag)) with
      | none => .next s0
      | some x =>
        let d := (s0.gu m.dst).table (gbTable b.bytes)
        let st := bAt m.bytes 2
        let b1 := { b with
          remote := b.remote.filter (fun y => decide (y.2.2.2 ≠ tag))
          rows := b.rows ++ [(x.1, x.2.1, rowElems d (m.bytes.drop 20), decide (st = 5))]
          status := if st ≠ 0 ∧ st ≠ 5 then 0x0700 + st else b.status }
        .next (s0.modGu m.dst (fun y => { y with cur := some b1 }))

/-- Applies one GRADIENT message; a message whose VERSION is not the installed one is dropped and counted, one whose
table is REPLACING is held. -/
def execGradientApply (s : State) : Outc :=
  match takeFirst (fun x : Bool × Msg => x.1) s.gather with
  | none => .next s
  | some ((_, m), rest) =>
    let s0 := { s with gather := rest }
    let p := m.dst
    let t := bAt m.bytes 0 % 32
    let c := if bit (bAt m.bytes 0) 5 then 1 else 0
    let r := leAt m.bytes 8 8
    let d := (s0.gu p).table t
    if (s0.gu p).holds t then .next (s0.modGu p (fun x => { x with heldG := x.heldG ++ [{ m with since := s.clk }] }))
    else if d = [] ∨ leAt m.bytes 4 4 ≠ tdVersion d then .next (s0.guBump p 0x28 1)
    else if tdOpt d = 0 ∨ leAt m.bytes 2 2 ≠ tdDim d ∨ 2 ^ tdLog2 d c ≤ r ∨ (c = 1 ∧ tdMode d = 1) then .next s0
    else
      let g : List F32 := (List.range (tdDim d)).map (fun i => BitVec.ofNat 32 (leAt m.bytes (16 + 4 * i) 4))
      .next ((s0.applyRow p t d c r g).1.guBump p 0x18 1)

/-- HOT_PERIOD_US of a Gather unit, 100 to 100,000, in ticks of CLK_TIME (R295, R303). -/
def State.hotTicks (s : State) (g : Nat) : Nat := 100 * min 100000 (max 100 (fld (s.reg (guP g + 0x48)) 16 20))

/-- The end of HOT_PERIOD_US: counters halve, and slots of rows that have cooled are freed. -/
def execHotPeriodExpiry (g : GuId) (s : State) : Outc :=
  let thresh := fld (s.reg (guP g + 0x48)) 0 16
  .next (((List.range 16).filter (fun p => decide (s.guOf p = some g.val) &&
      periodEnds s.clk (s.gu p).hotAt (s.hotTicks g))).foldl (fun s p => s.modGu p (fun x =>
    let y := { x with hotAt := s.clk, sketch := x.sketch.keys.foldl (fun q k => Tab.set z0 q k (Tab.get z0 q k / 2)) x.sketch }
    { y with dir := y.dir.keys.foldl (fun q k => match Tab.get (fun _ => none) q k with
        | some (c, r) => if 2 * y.estimate (k / 16384) c r < thresh then Tab.set (fun _ => none) q k none else q
        | none => q) y.dir })) s)

/-! ### Table replacement (R300, R301) -/

/-- Copies one extent in units of 4,096 bytes, the poison of each line with its data. -/
def State.copyExtent (s : State) (p : Nat) (src dst : Word) (len : Nat) : State :=
  (List.range (len / 4096)).foldl (fun s k =>
    let a := addA src (4096 * k)
    let b := addA dst (4096 * k)
    let ls := (List.range 64).map (fun i => (s.peek p (addA a (64 * i)) 64).2)
    let lost := s.lostUnits p a 4096
    let r := s.devRead p a 4096
    r.1.devWriteLines p b r.2.1 (fun i => ls.getD i false || s.badWith p lost (addA a (64 * i)))) s

/-- Extent k of a list: SRC, DST and LEN. -/
def extentOf (bs : List Byte) (k : Nat) : Word × Word × Nat := (wAt bs (32 * k), wAt bs (32 * k + 8), leAt bs (32 * k + 16) 4)

def execTableReplace (f : Fn) (p : PartId) (o : SlotId) (s : State) : Outc :=
  let s := s.access f
  .next (s.lopStart f p o 0x02 false 32 (fun s rq =>
    let t := bAt rq 0
    let da := wAt rq 8
    let ea := wAt rq 16
    let n := leAt rq 24 4
    if (s.gu p).repl ≠ none then s.loswFail p o 0x0707
    else if 32 ≤ t ∨ !zeroAt rq 1 7 ∨ da.toNat % 64 ≠ 0 ∨ !s.inAlloc p da 128 ∨ 4096 < n ∨ !zeroAt rq 28 4 ∨
        (0 < n ∧ (ea.toNat % 32 ≠ 0 ∨ !s.inAlloc p ea (32 * n))) then s.loswFail p o 0x070A
    else
      let d := s.devRead p da 128
      let e := if n = 0 then (d.1, [], false) else d.1.devRead p ea (32 * n)
      let desc := d.2.1
      let exts := (List.range n).map (extentOf e.2.1)
      let x := s.gu p
      let extOk := (List.range n).all (fun k => zeroAt e.2.1 (32 * k + 20) 12) && exts.all (fun q =>
        decide (q.2.2 % 4096 = 0) && (decide (q.2.2 = 0) || (s.inAlloc p q.1 q.2.2 && s.inAlloc p q.2.1 q.2.2)))
      if d.2.2 || e.2.2 || !extOk || (tdValid desc && !s.descOk p desc (tdVersion (x.table t))) then e.1.loswFail p o 0x070A
      else if tdValid desc && decide (s.sramShare p < x.sramUsed - tdSram (x.table t) + tdSram desc) then
        e.1.loswFail p o 0x0708
      else
        let units := sumNat (exts.map (fun q => q.2.2 / 4096))
        let s1 := exts.foldl (fun s q => s.copyExtent p q.1 q.2.1 q.2.2) (e.1.loswRun p o (units + 1) false)
        (s1.loswProg p o units).modGu p (fun x => { x with repl := some ⟨o, t, desc, true⟩ })))

/-- The commit point: once no batch past intake names the table, the descriptor is installed, the sketch is clear, the
replica slots are free, and the held batches and messages go on. -/
def execTableReplaceCommit (p : PartId) (s : State) : Outc :=
  let x := s.gu p
  match x.repl with
  | none => .next s
  | some r =>
    let uses (b : GBatch) : Bool := decide (gbTable b.bytes = r.table)
    if x.queue.any uses || x.cur.toList.any uses then .next s
    else
      let s1 := s.modGu p (fun x => { x with
        tables := Tab.set (fun _ => []) x.tables r.table (if tdValid r.desc then r.desc else [])
        sketch := (x.sketch.keys.filter (fun k => decide (k / 16384 = r.table))).foldl (fun q k => Tab.set z0 q k 0) x.sketch
        dir := (x.dir.keys.filter (fun k => decide (k / 16384 = r.table))).foldl (fun q k => Tab.set (fun _ => none) q k none) x.dir
        queue := x.heldB ++ x.queue, heldB := [], heldG := [], repl := none })
      let s2 := { s1 with gather := x.heldG.map (fun m => (true, m)) ++ s1.gather }
      .next ((s2.loswProg p r.slot (s2.losw p r.slot).total).loswDone p r.slot)

/-- Ticks of TABLE_HOLD_US of the partition's unit; values outside 10 to 100,000 act as the nearest limit (R303). -/
def State.tableHold (s : State) (p : Nat) : Nat :=
  100 * min 100000 (max 10 (fld (s.reg (guP ((s.guOf p).getD 0) + 0x40)) 0 20))

/-- What was held since `t` has been held for longer than TABLE_HOLD_US of CLK_TIME (R39, R301). -/
def State.heldTooLong (s : State) (p : Nat) (t : Word) : Bool := decide (s.tableHold p < (s.clk - t).toNat)

/-- Of what has been held for longer than TABLE_HOLD_US, the oldest: a batch fails with TABLE_PAUSED, a message is
dropped. -/
def execTableHoldExpiry (p : PartId) (s : State) : Outc :=
  let x := s.gu p
  let failB (b : GBatch) (bs : List GBatch) : Outc :=
    .next (if s.heldTooLong p b.since then (s.modGu p (fun x => { x with heldB := bs })).guFinish p b 0x0703 else s)
  let dropG (m : Msg) (ms : List Msg) : Outc :=
    .next (if s.heldTooLong p m.since then (s.modGu p (fun x => { x with heldG := ms })).guBump p 0x28 1 else s)
  match x.heldB, x.heldG with
  | [], [] => .next s
  | [], m :: r => dropG m r
  | b :: bs, m :: r => if m.since < b.since then dropG m r else failB b bs
  | b :: bs, [] => failB b bs

/-! ### Resets and COMMIT (R302, R303) -/

/-- Partition reset: batches end with no completion; tables stay. -/
def State.guReset (s : State) (p : Nat) : State :=
  { s.modGu p (fun x => { x with queue := [], cur := none, heldB := [], heldG := [], repl := none }) with
    gather := s.gather.filter (fun m => decide (m.2.dst ≠ p)) }

/-- Batches that wait on a member that is lost end with GU_ABORTED (R298). -/
def State.guLost (s : State) (p : Nat) (ms : List Nat) : State :=
  s.modGu p (fun x => { x with cur := x.cur.map (fun b =>
    if b.remote.any (fun r => ms.contains r.2.2.1) then { b with remote := [], done := true, status := 0x0709 } else b) })

/-- GU_PART_CFG words of all four pages: staged on page g, in force elsewhere. -/
def State.guWord (s : State) (g h p : Nat) : Word := if g = h then s.reg (guCfg h p) else s.inForce (guCfg h p)

def State.guOk (s : State) (g : Nat) : Bool :=
  let on h p := (s.guWord g h p).getLsbD 0
  let mib h p := if on h p then fld (s.guWord g h p) 16 8 else 0
  (List.range 16).all (fun p =>
    let w := s.guWord g g p
    decide (6 ≤ fld w 8 5 ∧ fld w 8 5 ≤ 16) && (!on g p || ((List.range 4).all (fun h => decide (h = g) || !on h p) &&
      decide ((s.gu p).installed ≤ mib g p * 2 ^ 20)))) &&
  decide (sumNat ((List.range 4).flatMap (fun h => (List.range 16).map (mib h))) ≤ 128)

def execGuCommit (f : Fn) (g : GuId) (s : State) : Outc :=
  let s := s.access f
  let on (s : State) p := (s.inForce (guCfg g p)).getLsbD 0
  let base (s : State) p := fld (s.inForce (guCfg g p + 8)) 6 44
  .next (s.commit f ⟨.gu, g, guP g⟩ (fun t => if t.guOk g then .ok else .invalid) (fun t =>
    (List.range 16).foldl (fun t p =>
      let aborted : State := match (t.gu p).repl with
        | some r => t.loswAbort p r.slot
        | none => t
      let t1 := if on s p && !on t p then (aborted.guReset p).modGu p (fun x => { x with
          tables := Tab.empty, sketch := Tab.empty, dir := Tab.empty }) else t
      let a : Word := BitVec.ofNat 64 (base t p * 64 + 8)
      if on t p && (decide (base s p ≠ base t p) || !on s p) && t1.inAlloc p a 8 then
        let r := t1.devRead p a 8
        r.1.modGu p (fun x => { x with head := leNat r.2.1 })
      else t1) t))

end Sys2Proof.Machine
end

