-- ==== Sys2Proof/Machine/Index.lean ====
section
/-! DEFINITION. Publication of mutations, tombstone stores, snapshot commit and the prefetch buffer (R161 to R179). -/

namespace Sys2Proof.Machine

/-! ### The index root (R161) -/

/-- Word k of a partition's Desk configuration in force (R211). -/
def State.deskW (s : State) (p k : Nat) : Word := s.inForce (0x4100 + p * 0x40 + k * 8)
def State.idxRoot (s : State) (p : Nat) : Word := s.deskW p 1
/-- The Desk writes a field of the root. -/
def State.putRoot (s : State) (p off : Nat) (bs : List Byte) : State := s.devWrite p (addA (s.idxRoot p) off) bs

/-- Fields of a version record (R162). -/
def vrVersion (r : List Byte) : Nat := leAt r 0 4
def vrLink (r : List Byte) : Nat := leAt r 4 4
def vrFold (r : List Byte) : Nat := leAt r 8 4

/-- VREC of version v as the Desk holds it. -/
def DeskPart.vrOf (d : DeskPart) (v : Nat) : List Byte := Tab.get (fun _ => []) d.vrec (v % 4)

/-- Every core of the partition takes the Desk's tombstone entries. -/
def State.syncTombs (s : State) (p : Nat) : State :=
  (s.coresOf p).foldl (fun s c => s.modCore c (fun k => { k with tombs := (s.dk p).tombs })) s

/-- The oldest version pinned by a live query, ACTIVE when none is live (R161). -/
def State.pinOf (s : State) (p : Nat) : Nat :=
  let act := (s.dk p).active
  let vs := (s.queriesOf p).filterMap (fun q => (s.query q).map (·.version))
  let age (v : Nat) : Nat := (act + (2 ^ 32 - 1) - v) % (2 ^ 32 - 1)
  (vs.filter (· ≠ 0)).foldl (fun best v => if age best < age v then v else best) act

/-- OLDEST_PIN becomes `v`; the stores retire what that version excludes (R172). -/
def State.setPin (s : State) (p v : Nat) : State :=
  (s.modDk p (fun d => { d with
    oldestPin := v
    tombs := d.tombs.filter (fun e => decide (vrFold (d.vrOf v) ≤ e.2)) })).syncTombs p

/-- OLDEST_PIN follows the live queries; a change writes it and retires what its version excludes. -/
def State.repin (s : State) (p : Nat) : State :=
  let v := s.pinOf p
  if v = (s.dk p).oldestPin then s else (s.setPin p v).putRoot p 12 (leBytes 4 v)

/-! ### Publication (R169 to R171) -/

/-- What the Desk reads from the log: records delivered, and how it ended. -/
inductive LogEnd where
  | done
  | failing (r : Nat)
  | full (seq : Nat)
deriving DecidableEq, Repr

/-- An entry enters the store; a delete of an ID that it holds keeps the lower sequence. -/
def addTomb (l : List (Nat × Nat)) (id seq : Nat) : Option (List (Nat × Nat) × Bool) :=
  if l.any (fun e => decide (e.1 = id)) then some (l.map (fun e => if e.1 = id then (id, min e.2 seq) else e), true)
  else if l.length < 65536 then some (l ++ [(id, seq)], false) else none

/-- Reads records from `r` on: the state, the record reached, sequence after the last one delivered, and the end. -/
def State.readLog (s : State) (p : Nat) (base : Word) (cap written : Nat) : Nat → Nat → Nat → State × Nat × Nat × LogEnd
  | 0, r, last => (s, r, last, .done)
  | fuel + 1, r, last =>
    let a := addA base (8 * (r % max 1 cap))
    if !s.inAlloc p a 8 then (s, r, last, .failing r)
    else
      let x := s.devRead p a 8
      let seq := leAt x.2.1 4 4
      let id := leAt x.2.1 0 4
      if x.2.2 then (x.1, r, last, .failing r)
      else if written ≤ seq then (x.1, r, last, .done)
      else match addTomb (x.1.dk p).tombs id seq with
        | none => (x.1, r, last, .full seq)
        | some (l, dup) =>
          let s1 := x.1.modDk p (fun d => { d with tombs := l })
          let s2 := if dup then (s1.coresOf p).foldl (fun s c => s.bump (walkP c + 0xC0) 1) s1 else s1
          s2.readLog p base cap written fuel ((r + 1) % 2 ^ 32) (seq + 1)

/-- The sample of WRITTEN each 1 µs (R169, R171). Publication becomes held, and INDEX_PUBLISH_HELD is logged, at the first
sample that a record fails, and again where a held record was delivered since and a later one fails. -/
def execPublishSample (p : PartId) (s : State) : Outc :=
  let d := s.dk p
  let root := s.idxRoot p
  if d.pubNext ≠ none ∨ root = 0 ∨ !s.inAlloc p root 256 then .next s
  else
    let r := s.devRead p root 64
    let w := leAt r.2.1 0 4
    if r.2.2 ∨ w ≤ d.published then .next r.1
    else
      let x := r.1.readLog p (wAt r.2.1 24) (leAt r.2.1 20 4) w (leAt r.2.1 20 4) d.tlogRead d.published
      let s1 := x.1.syncTombs p
      let next (s : State) (pub : Nat) : State :=
        if pub = d.published ∧ x.2.1 = d.tlogRead then s else s.modDk p (fun d => { d with pubNext := some (x.2.1, pub) })
      match x.2.2.2 with
      | .done => .next (next (s1.modDk p (fun d => { d with pubHeld := false })) w)
      | .failing n =>
        let s2 := if d.pubHeld && decide (x.2.1 = d.tlogRead) then s1 else s1.logEv 0x0121 4 (some p) (leBytes 4 n ++ zeros 12)
        .next (next (s2.modDk p (fun d => { d with pubHeld := true })) x.2.2.1)
      | .full seq =>
        let s2 := (s1.coresOf p).foldl (fun s c => s.bump (walkP c + 0xC8) 1) s1
        .next (next (s2.modDk p (fun d => { d with pubHeld := false })) (max seq d.published))

/-- TLOG_READ, then PUBLISHED (R169 step 3). -/
def execPublishPointWrite (p : PartId) (s : State) : Outc :=
  match (s.dk p).pubNext with
  | none => .next s
  | some (t, w) =>
    let s1 := s.modDk p (fun d => { d with tlogRead := t, published := w, pubNext := none })
    .next ((s1.putRoot p 16 (leBytes 4 t)).putRoot p 4 (leBytes 4 w))

/-! ### Snapshot commit (R175 to R177) -/

/-- DEGREE of the index header is 32 where GRAPH is set (R176 step 1). -/
def State.degreeOk (s : State) (p : Nat) (r : List Byte) : State × Bool :=
  let hdr := wAt r 16
  if !bit (leAt r 12 4) 0 then (s, true)
  else if !s.inAlloc p hdr 128 then (s, false)
  else
    let h := s.devRead p hdr 128
    (h.1, !h.2.2 && decide (bAt h.2.1 11 = 32))

/-- Conditions of R176 step 1 on the version record itself. -/
def DeskPart.vrecOk (d : DeskPart) (r : List Byte) : Bool :=
  let v := vrVersion r
  let old := d.vrOf d.active
  decide (leAt r 28 4 = crc32c (r.take 28)) && decide (v = if d.active = 2 ^ 32 - 1 then 1 else d.active + 1) &&
  decide (vrFold r ≤ vrLink r ∧ vrLink r ≤ d.published) &&
  (decide (d.active = 0) || decide (vrFold old ≤ vrFold r ∧ vrLink old ≤ vrLink r))

/-- Copies an extent to tier 2; none where a read returns poison or tier 2 cannot take the write. -/
def State.persist (s : State) (p : Nat) (src dst : Word) : Nat → State × Bool
  | 0 => (s, true)
  | n + 1 =>
    let r := s.devRead p src 64
    if r.2.2 || !(s.ns p).takesWrite then (r.1, false)
    else (r.1.devWrite p dst r.2.1).persist p (addA src 64) (addA dst 64) n

def State.persistAll (s : State) (p : Nat) : List (Word × Word × Nat) → State × Bool
  | [] => (s, true)
  | e :: r =>
    let x := s.persist p e.1 e.2.1 (e.2.2 / 64)
    if x.2 then x.1.persistAll p r else x

/-- Logical units of `n` bytes at a tier 2 address. -/
def unitsOf (a : Word) (n : Nat) : List Nat := if n = 0 then [] else (List.range ((aOff a + n - 1) / 4096 + 1 - aOff a / 4096)).map (· + aOff a / 4096)

def execIndexSnapshotCommit (f : Fn) (p : PartId) (o : SlotId) (s : State) : Outc :=
  let s := s.access f
  .next (s.lopStart f p o 0x01 false 64 (fun s rq =>
    let va := wAt rq 0
    let ea := wAt rq 8
    let n := leAt rq 16 4
    let dst := wAt rq 24
    if (s.dk p).snap ≠ none then s.loswFail p o 0x02A3
    else if !zeroAt rq 20 4 || !zeroAt rq 32 32 || decide (4096 < n ∨ ea.toNat % 32 ≠ 0 ∨ aSpace dst ≠ 2) || !s.inAlloc p va 32 ||
        !s.inAlloc p dst 4096 || (decide (0 < n) && !s.inAlloc p ea (32 * n)) then s.loswFail p o 0x02A1
    else
      let v := s.devRead p va 32
      let e := if n = 0 then (v.1, [], false) else v.1.devRead p ea (32 * n)
      let exts := (List.range n).map (extentOf e.2.1)
      let h := e.1.degreeOk p v.2.1
      let extOk := (List.range n).all (fun k => zeroAt e.2.1 (32 * k + 20) 12) && exts.all (fun x =>
        decide (x.2.2 % 4096 = 0 ∧ aSpace x.2.1 = 2) && (decide (x.2.2 = 0) || (s.inAlloc p x.1 x.2.2 && s.inAlloc p x.2.1 x.2.2)))
      let pinned := (s.queriesOf p).any (fun q => match s.query q with
        | some y => decide (y.version ≠ 0 ∧ (s.dk p).vrOf (vrVersion v.2.1) ≠ [] ∧
            y.version = vrVersion ((s.dk p).vrOf (vrVersion v.2.1)))
        | none => false)
      if v.2.2 || e.2.2 || !extOk || !(s.dk p).vrecOk v.2.1 || !h.2 then h.1.loswFail p o 0x02A1
      else if pinned then h.1.loswFail p o 0x02A0
      else
        let x := (h.1.loswRun p o (sumNat (exts.map (fun x => x.2.2 / 4096))) false).persistAll p exts
        if !x.2 then x.1.loswFail p o 0x02A2
        else x.1.modDk p (fun d => { d with snap := some ⟨o, v.2.1, dst, exts.flatMap (fun x => unitsOf x.2.1 x.2.2), false⟩ })))

/-- Empties a prefetch buffer: entries that serve no RDA go; the others serve only those that wait already. -/
def Core.emptyPrefetch (k : Core) : Core :=
  { k with prefetch := (k.prefetch.filter (fun e => decide (e.waits ≠ []))).map (fun e => { e with stale := true }) }

/-- The next step of a snapshot commit whose units so far are durable: the durable record, then the commit point. -/
def execSnapshotPublish (p : PartId) (s : State) : Outc :=
  match (s.dk p).snap with
  | none => .next s
  | some q =>
    let left := q.units.filter (fun u => (s.ns p).staging.any (fun x => decide (x.lu = u)))
    let s0 := if q.wrote then s else s.loswProg p q.slot ((s.losw p q.slot).total - left.length)
    if left ≠ [] then .next s0
    else if !q.wrote then
      if !(s0.ns p).takesWrite then
        .next ((s0.modDk p (fun d => { d with snap := none })).loswFail p q.slot 0x02A2)
      else .next ((s0.devWrite p q.dst q.vrec).modDk p (fun d => { d with snap := some { q with wrote := true, units := unitsOf q.dst 32 } }))
    else
      let v := vrVersion q.vrec
      let s1 := (s0.putRoot p (64 + 32 * (v % 4)) q.vrec).putRoot p 8 (leBytes 4 v)
      let s2 := s1.modDk p (fun d => { d with active := v, vrec := Tab.set (fun _ => []) d.vrec (v % 4) q.vrec, snap := none })
      let s3 := (s2.coresOf p).foldl (fun s c => (s.loadAdj c p (v % 4)).modCore c Core.emptyPrefetch) s2
      .next ((s3.loswDone p q.slot).repin p)

/-! ### Prefetch (R178, R179) -/

/-- A prefetched block arrives; an entry freed meanwhile drops it. -/
def execPrefetchFill (i : Nat) (s : State) : Outc :=
  match s.req i with
  | none => .next s
  | some r =>
    if r.kind ≠ .prefetch ∨ !(List.range r.nLines).all r.lineDone then .next s
    else
      let data := Mem.bytes r.stored (r.addr.toNat % 64) 128
      let bad (l : Nat) : Bool := Tab.get (fun _ => false) r.storedBad l
      let s1 := (s.setReq i none).modCore r.core (fun k => { k with
        prefetch := k.prefetch.map (fun e => if e.id = i then { e with filled := true, data := data, bad := (bad 0, bad 1) } else e) })
      .next (s1.tagFreed r.core)

/-- The first RDA that waits on a filled entry is served; the entry is freed after the last. -/
def execPrefetchServe (c : CoreId) (k : Nat) (s : State) : Outc :=
  match (s.core c).prefetch.find? (fun e => decide (e.id = k)) with
  | none => .next s
  | some e =>
    match e.filled, e.waits with
    | true, (t, inst, dst) :: ws =>
      let r : Req := { core := c, ctx := t, inst := inst }
      let data := (List.range 128).map (fun i => (e.data.getD i 0, if i < 64 then e.bad.1 else e.bad.2))
      let s1 := if s.takesData r then s.modCore c (·.deliver dst data) else s
      let cut (l : List PfEntry) : List PfEntry :=
        if ws = [] then l.filter (fun x => decide (x.id ≠ e.id))
        else l.map (fun x => if x.id = e.id then { x with waits := ws } else x)
      let s2 := s1.modCore c (fun k => { k with prefetch := cut k.prefetch })
      .next (s2.readDone c t inst)
    | _, _ => .next s

end Sys2Proof.Machine
end

