-- ==== Sys2Proof/Machine/Admit.lean ====
section
/-! DEFINITION. The Desk's intake, admission, work items, reserves, query stages and completions (R17 to R25, R187 to
R197, R372 to R377, R387). -/

namespace Sys2Proof.Machine

/-! ### Class entries (R189) and partition state (R372) -/

def clFlag (c : List Byte) (i : Nat) : Bool := bit (leAt c 0 2) i
def clSearch (c : List Byte) : Nat := bits (leAt c 0 2) 3 2
def clRank (c : List Byte) : Nat := bits (leAt c 0 2) 6 2
def clRt (c : List Byte) : Bool := clFlag c 1
def clK (c : List Byte) : Nat := leAt c 2 2
def clFan (c : List Byte) : Nat := bAt c 6
def clCyc (c : List Byte) (i : Nat) : Nat := leAt c (12 + 4 * i) 4
def clX (c : List Byte) (i : Nat) : Nat := leAt c (36 + 2 * i) 2
def clTier (c : List Byte) (t : Nat) : Nat := leAt c (48 + 4 * t) 4
def clRerankN (c : List Byte) : Nat := leAt c 60 2

def nClasses (s : State) (p : Nat) : Nat := fld (s.deskW p 4) 0 6
def ringLog2 (s : State) (p : Nat) : Nat := fld (s.deskW p 4) 8 5
def batchLimit (s : State) (p : Nat) : Nat := fld (s.deskW p 4) 16 9
def chunkEvents (s : State) (p : Nat) : Nat := fld (s.deskW p 4) 26 11
def beLimit (s : State) (p : Nat) : Nat := fld (s.deskW p 4) 40 16

/-- A piece of the partition is being zeroed (R371). -/
def State.partZeroing (s : State) (p : Nat) : Bool :=
  s.zeroing.keys.any (fun g => decide (s.pieceOwner g = some p))

/-- PART_STATE.STATE. -/
def State.partState (s : State) (p : Nat) : Nat :=
  if (s.part p).reset ≠ none then 3
  else if s.coresOf p = [] then 0
  else if (s.reg 0xD0C0).getLsbD p && !s.partZeroing p then 2 else 1

/-- Admission of the partition is stopped (R372, R412). -/
def State.stopped (s : State) (p : Nat) : Bool := decide (s.partState p ≠ 2) || decide ((s.part p).self = 0xFF) || s.pwr.shutdown

/-- Counter k of a partition on the DESK page (R213). -/
def deskCnt (p k : Nat) : Nat := 0x4500 + p * 0x80 + 8 * k

/-! ### Ownership records (R205) -/

inductive Own where
  | unused
  | owned (p node : Nat)
  | handoff (p node q toNode : Nat)
  | orphan
  | invalid
deriving DecidableEq, Repr

def ownOf (r : List Byte) : Own :=
  let a := bAt r 1 % 16
  let b := bAt r 1 / 16
  let m := leAt r 2 2
  let n := leAt r 4 2
  if !zeroAt r 6 2 then .invalid
  else match bAt r 0 with
    | 0 => if zeroAt r 0 16 then .unused else .invalid
    | 1 => if b = 0 ∧ n = 0 then .owned a m else .invalid
    | 2 => .handoff a m b n
    | 3 => if b = 0 ∧ n = 0 then .orphan else .invalid
    | _ => .invalid

/-- The check of R208: 0, or the refusal's code. -/
def State.checkOwned (s : State) (p : Nat) (a : Word) : Nat :=
  if a.toNat % 16 ≠ 0 || !s.inAlloc p a 16 then 0x0116
  else
    let r := (s.readBy p a 16).2
    if r.2 then 0x0116
    else match ownOf r.1 with
      | .owned q n => if q = p ∧ n = s.node then 0 else 0x0112
      | .orphan => 0x0113
      | .invalid => 0x0116
      | _ => 0x0112

/-! ### Work items (R196, R197) -/

def itemRt (b : List Byte) : Bool := bit (bAt b 13) 4

/-- Bytes 0 to 15 of a work item (R53). -/
def stamps (q : Query) (tag : Nat) : List Byte :=
  leBytes 4 tag ++ leBytes 4 q.version ++ leBytes 4 q.publish ++ leBytes 1 q.epoch ++
  leBytes 1 (q.part + if clRt q.cls then 16 else 0) ++ leBytes 2 q.cidx

/-- A 64-byte work item. -/
def workItem (q : Query) (tag kind shard fanout step : Nat) (req : Word) (wbuf rows cols qvec : Nat) : List Byte :=
  stamps q tag ++ leBytes 1 kind ++ leBytes 1 shard ++ leBytes 1 fanout ++ zeros 1 ++ leBytes 4 step ++
  leBytes 8 req.toNat ++ leBytes 4 wbuf ++ leBytes 4 rows ++ leBytes 4 cols ++ leBytes 4 qvec ++
  (q.req.drop 16).take 16

/-- A place in the core's queue that is open to the item: 16 for RT items, 48 for best-effort ones. -/
def Core.itemFits (k : Core) (b : List Byte) : Bool :=
  decide ((k.workq.filter (fun x => itemRt x == itemRt b)).length < if itemRt b then 16 else 48)

/-- The core takes new work items: no QUIESCE_REQ (R478), and no hart that faulted and waits for its restart (R52). -/
def State.takesItems (s : State) (c : Nat) : Bool := !(s.reg (coreP c + 8)).getLsbD 1 && (s.core c).hartDown.isEmpty

/-- The Desk sends an item to a core, or holds it behind those of its kind that it holds. -/
def State.sendItem (s : State) (p c : Nat) (b : List Byte) : State :=
  let waits := (s.dk p).held.any (fun h => decide (h.1 = c) && (itemRt h.2 == itemRt b))
  if !waits && (s.core c).itemFits b && s.takesItems c then
    (s.modCore c (fun k => { k with workq := k.workq ++ [b] })).wakeUnit c
  else s.modDk p (fun d => { d with held := d.held ++ [(c, b)] })

/-- The first item held for core `c` that has no held item of its kind before it and finds a place. -/
def takeHeld (k : Core) (c : Nat) : List (Nat × List Byte) → Bool → Bool → Option (List Byte × List (Nat × List Byte))
  | [], _, _ => none
  | h :: r, rt, be =>
    if h.1 = c ∧ (if itemRt h.2 then !rt else !be) ∧ k.itemFits h.2 then some (h.2, r)
    else
      let mine := decide (h.1 = c)
      (takeHeld k c r (rt || (mine && itemRt h.2)) (be || (mine && !itemRt h.2))).map (fun x => (x.1, h :: x.2))

def execWorkItemRelease (c : CoreId) (s : State) : Outc :=
  match s.coreOwner c with
  | none => .next s
  | some p =>
    if !s.takesItems c then .next s
    else match takeHeld (s.core c) c (s.dk p).held false false with
      | none => .next s
      | some (b, r) => 
        .next (((s.modDk p (fun d => { d with held := r })).modCore c (fun k => { k with workq := k.workq ++ [b] })).wakeUnit c)

/-! ### Reserves (R191) -/

/-- Rate of bucket i: CORE, T0, T1, T2. -/
def State.rsvRate (s : State) (p i : Nat) : Nat :=
  match i with
  | 0 => fld (s.deskW p 5) 32 32
  | 1 => fld (s.deskW p 6) 0 32
  | 2 => fld (s.deskW p 6) 32 32
  | _ => fld (s.deskW p 7) 0 32
def State.rsvCap (s : State) (p i : Nat) : Nat := s.rsvRate p i * fld (s.deskW p 7) 32 16

/-- Every bucket to its cap. -/
def State.rsvFull (s : State) (p : Nat) : State :=
  s.modDk p (fun d => { d with bCore := s.rsvCap p 0, b0 := s.rsvCap p 1, b1 := s.rsvCap p 2, b2 := s.rsvCap p 3 })

def execReserveRefill (s : State) : Outc :=
  .next ((List.range 16).foldl (fun s p => s.modDk p (fun d => { d with
    bCore := min (s.rsvCap p 0) (d.bCore + s.rsvRate p 0)
    b0 := min (s.rsvCap p 1) (d.b0 + s.rsvRate p 1)
    b1 := min (s.rsvCap p 2) (d.b1 + s.rsvRate p 2)
    b2 := min (s.rsvCap p 3) (d.b2 + s.rsvRate p 3) })) s)

/-! ### The on-chip ring (R188) -/

/-- Takes the ready requests, at most `fuel`. DESIGN CHOICE: a slot that reads poisoned is not ready (log entry 31). -/
def State.ringTake (s : State) (p : Nat) (base : Word) (size : Nat) : Nat → State
  | 0 => s
  | n + 1 =>
    let h := (s.dk p).ringHead
    let a := addA base (64 + 64 * (h % size))
    if !s.inAlloc p a 64 then s
    else
      let r := s.readBy p a 64
      if r.2.2 || decide (leAt r.2.1 56 8 ≠ (h + 1) % 2 ^ 64) then r.1.meterRead p a 64
      else ((r.1.modDk p (fun d => { d with ringHead := (h + 1) % 2 ^ 64, intake := d.intake ++ [r.2.1] })).devWrite p
        (addA base 8) (leBytes 8 (h + 1))).ringTake p base size n

def execRingPoll (p : PartId) (s : State) : Outc :=
  let n := 2 ^ ringLog2 s p
  if ringLog2 s p = 0 ∨ (s.part p).reset ≠ none then .next s
  else .next (s.ringTake p (s.deskW p 3) n n)

/-! ### Deficit round robin (R377) -/

/-- The member served next, and its quantum left: the current one while it has quantum and work, else the next after it
in the order that has work. -/
def drr (order : List Nat) (cur left : Nat) (work : Nat → Bool) (weight : Nat → Nat) : Option (Nat × Nat) :=
  if 0 < left ∧ order.contains cur ∧ work cur then some (cur, left - 1)
  else
    let later := order.filter (fun i => decide (cur < i)) ++ order.filter (fun i => decide (i ≤ cur))
    (later.find? work).map (fun i => (i, weight i - 1))

def weightOf (w : Nat) : Nat := if w = 0 then 1 else w

/-- SQ q of function k holds an entry that the Desk may take (R374). -/
def State.sqReady (s : State) (k q : Nat) : Bool :=
  qOn (s.reg (sqReg k q)) && decide (Tab.get z0 (s.host k).sqHead q ≠ Tab.get z0 (s.host k).sqTail q) &&
  s.cqRoom k (fld (s.reg (sqReg k q + 8)) 8 4)

/-- A VF that has an entry to take: bound, its partition is not being reset (R389), and no request that was taken from the
partition's ring waits for its test: requests of a partition are tested in the order taken (R192). -/
def State.vfReady (s : State) (k : Nat) : Bool :=
  (match s.fnPart (fnOfIdx k) with
   | some p => decide ((s.part p).reset = none ∧ (s.dk p).intake = [])
   | none => false) && (List.range 16).any (s.sqReady k)

/-- The SQ entry that a port's turn takes: function and queue, with the round robin moved on. -/
def State.pickSq (s : State) (b : Nat) : Option (Nat × Nat × State) :=
  let c := Tab.get (fun _ => (0, 0)) s.desk.drrPort b
  match drr ((List.range 16).map (fun n => 3 + 16 * b + n)) c.1 c.2 s.vfReady
      (fun k => weightOf (fld (s.inForce (bindA b (k - 3 - 16 * b))) 8 4)) with
  | none => none
  | some (k, l) =>
    let d := Tab.get (fun _ => (0, 0)) s.desk.drrFn k
    match drr (List.range 16) d.1 d.2 (s.sqReady k) (fun q => weightOf (fld (s.reg (sqReg k q + 8)) 16 4)) with
    | none => none
    | some (q, m) => some (k, q, s.modDesk (fun x => { x with
        drrPort := Tab.set (fun _ => (0, 0)) x.drrPort b (k, l), drrFn := Tab.set (fun _ => (0, 0)) x.drrFn k (q, m) }))

/-! ### Completions (R195, R375, R20) -/

def completion (user : List Byte) (code tag : Nat) (overrun refused : Bool) : List Byte :=
  user ++ leBytes 2 code ++ leBytes 1 ((if overrun then 1 else 0) + if refused then 2 else 0) ++ zeros 1 ++ leBytes 4 tag

/-- Tag that a fan-out's member answers under: the home query's (R196 stamps after the request). -/
def homeTag (req : List Byte) (tag : Nat) : Nat := if 64 < req.length then leAt req 64 4 else tag

/-- Sends a completion to its source; `rec_` is the result record of a success (R22, R188, R195, R342). DESIGN CHOICE: a
completion whose place from the ring lies outside the partition is not written (log entry 41). -/
def State.complete (s : State) (x : Query) (comp rec_ : List Byte) (quiet : Bool) : State :=
  match x.src with
  | .sq f q => s.postCq x.part (fnIdx f) x.cq x.cqGen q x.sqHead comp quiet
  | .fabric n sp => s.sendMsg 1 x.part x.epoch n sp (comp ++ rec_)
  | .ring _ =>
    let a := addA (wAt x.req 40) rec_.length
    if s.inPart x.part (true, a) 16 then s.carWrite x.part (true, a) [(comp, false)] else s
  | .bulk _ _ => s

/-- A refusal (R20): completed at once, counted, and without a tag. -/
def State.refuse (s : State) (x : Query) (code : Nat) : State :=
  let s1 := s.bump (deskCnt x.part 1) 1
  match x.src with
  | .bulk p o => s1.loswFail p o code
  | _ => s1.complete x (completion ((x.req.drop 48).take 8) code 0 false true) [] false

/-! ### Admission (R192, R18) -/

/-- The sizes and reserved fields of R187 and, for the ring, RESULT_ADDR (R188). DESIGN CHOICE: a ring request that does not
name a remote scratch address of the partition, as R188 requires, is refused as REQUEST_INVALID (log entry 41). -/
def State.reqOk (s : State) (p : Nat) (src : Src) (r : List Byte) : Bool :=
  let ring := match src with
    | .ring _ => true
    | _ => false
  decide (leAt r 2 2 < 4 ∧ 0 < leAt r 4 4 ∧ leAt r 4 4 ≤ 65536) && (bit (leAt r 2 2) 1 || zeroAt r 32 8) &&
  (if ring then decide (fld (wAt r 40) 30 34 = 0 ∧ s.coreOwner (remote (wAt r 40)).1 = some p) else zeroAt r 56 8)

/-- Live queries of a class. -/
def State.liveClass (s : State) (p c : Nat) : Nat :=
  ((s.queriesOf p).filter (fun q => match s.query q with
    | some x => decide (x.cidx = c)
    | none => false)).length

/-- Live best-effort queries, bulk scans not counted (R387). -/
def State.liveBe (s : State) (p : Nat) : Nat :=
  ((s.queriesOf p).filter (fun q => match s.query q with
    | some x => !clRt x.cls && (match x.src with
        | .bulk _ _ => false
        | _ => true)
    | none => false)).length

def State.rsvLevel (s : State) (p i : Nat) : Nat :=
  match i with
  | 0 => (s.dk p).bCore
  | 1 => (s.dk p).b0
  | 2 => (s.dk p).b1
  | _ => (s.dk p).b2

/-- Charges of a query of a class (R191). -/
def clCharge (c : List Byte) (i : Nat) : Nat :=
  match i with
  | 0 => clCyc c 0 * clFan c
  | n + 1 => clTier c n

/-- The tests of R192 that need no read, in their order: 0, or the refusal's code. DESIGN CHOICE: a request that is not there
in full (`poison`: an SQ entry that reads poisoned or lies outside the allocation, a fabric QUERY of fewer than 64 bytes) is
refused as REQUEST_INVALID (log entry 40). -/
def State.firstCode (s : State) (p : Nat) (src : Src) (r : List Byte) (poison : Bool) : Nat :=
  let ci := leAt r 0 2
  let c := (s.dk p).classes.getD ci []
  if s.stopped p then 0x0105
  else if poison then 0x0102
  else if nClasses s p ≤ ci || !clFlag c 0 then 0x0101
  else if !s.reqOk p src r then 0x0102
  else if clSearch c ≠ 0 ∧ (s.dk p).active = 0 then 0x0106
  else 0

/-- The tests of R192 in their order: 0, or the refusal's code. -/
def State.admitCode (s : State) (p : Nat) (src : Src) (r : List Byte) (poison : Bool) : Nat :=
  let ci := leAt r 0 2
  let c := (s.dk p).classes.getD ci []
  let first := s.firstCode p src r poison
  let own := if bit (leAt r 2 2) 1 then s.checkOwned p (wAt r 32) else 0
  if first ≠ 0 then first
  else if own ≠ 0 then own
  else if clRt c then
    if decide (bAt c 7 ≤ s.liveClass p ci) || !(List.range 4).all (fun i => decide (clCharge c i ≤ s.rsvLevel p i)) then 0x0103 else 0
  else match src with
    | .bulk _ _ => 0
    | _ => if beLimit s p ≤ s.liveBe p then 0x0104 else 0

/-- The next free QUERY_TAG after `t`, from 1 up. -/
def State.nextTag (s : State) : Nat → Nat → Nat
  | 0, t => t
  | n + 1, t =>
    let u := if t = 0 ∨ 2 ^ 32 ≤ t then 1 else t
    if s.query u = none then u else s.nextTag n (u + 1)

/-- The query that a request becomes. -/
def State.newQuery (s : State) (p epoch : Nat) (src : Src) (cq head : Nat) (r : List Byte) (a : Word) : Query :=
  let c := (s.dk p).classes.getD (leAt r 0 2) []
  let far := decide (64 < r.length)
  { part := p, cidx := leAt r 0 2, cls := c, epoch := epoch
    version := if far then leAt r 68 4 else (s.dk p).active
    publish := if far then leAt r 72 4 else (s.dk p).published
    t0 := s.clk, src := src, cq := cq, sqHead := head
    cqGen := (match src with
      | .sq f _ => Tab.get z0 (s.host (fnIdx f)).cqGen cq
      | _ => 0)
    req := r, reqAddr := a, stage := .admitted, busy := false
    fan := [], waiting := [], recs := [], members := [], remote := [], record := [], err := 0
    wcet := Tab.get z0 (s.dk p).wcet (leAt r 0 2) }

/-- The read of the ownership record (R208), which the meter counts for an admitted request only (R20). -/
def State.readOwned (s : State) (x : Query) (poison admitted : Bool) : State :=
  let a := wAt x.req 32
  if bit (leAt x.req 2 2) 1 && decide (s.firstCode x.part x.src x.req poison = 0 ∧ a.toNat % 16 = 0) && s.inAlloc x.part a 16 then
    let s1 := (s.readBy x.part a 16).1
    if admitted then s1.meterRead x.part a 16 else s1
  else s

/-- Tests a request and admits it with its stamps, or refuses it. -/
def State.enterQuery (s0 : State) (x : Query) (poison : Bool) : State :=
  let p := x.part
  let code := s0.admitCode p x.src x.req poison
  let s := s0.readOwned x poison (decide (code = 0))
  if code ≠ 0 then s.refuse x code
  else
    let s1 := if clRt x.cls then s.modDk p (fun d => { d with
        bCore := d.bCore - clCharge x.cls 0, b0 := d.b0 - clCharge x.cls 1
        b1 := d.b1 - clCharge x.cls 2, b2 := d.b2 - clCharge x.cls 3 }) else s
    let tag := s1.nextTag (s1.desk.queries.cells.length + 1) s1.desk.nextTag
    let s2 := ({ s1 with nextId := s1.nextId + 1 }.setQuery tag (some { x with ord := s1.nextId })).modDesk
      (fun d => { d with nextTag := tag + 1 })
    let s3 := (s2.bump (deskCnt p 0) 1).meterAdd p 0 1
    s3.repin p

/-- Takes an SQ entry: its CQ place is reserved (R374). -/
def State.takeSq (s : State) (k q : Nat) : State :=
  match s.fnPart (fnOfIdx k) with
  | none => s
  | some p =>
    let cfg := s.reg (sqReg k q + 8)
    let h := Tab.get z0 (s.host k).sqHead q
    let n := (h + 1) % ringSize cfg
    let cq := fld cfg 8 4
    let a := addA (qBase (s.reg (sqReg k q))) (64 * h)
    let r := if s.inAlloc p a 64 then s.readBy p a 64 else (s, zeros 64, true)
    let s1 := (r.1.modHost k (fun x => { x with
      sqHead := Tab.set z0 x.sqHead q n, rsv := Tab.set z0 x.rsv cq (Tab.get z0 x.rsv cq + 1) })).bump (viewP k + 0x600) 1
    let x := s1.newQuery p (s1.part p).epoch (.sq (fnOfIdx k) q) cq n r.2.1 a
    let s2 := if s1.admitCode p x.src r.2.1 r.2.2 = 0 then s1.meterRead p a 64 else s1
    s2.enterQuery x r.2.2

/-- A turn of one source (R192); none where it holds no request. -/
def State.turn (s : State) (k : Nat) : Option State :=
  match k with
  | 0 | 1 => (s.pickSq k).map (fun x => x.2.2.takeSq x.1 x.2.1)
  | 2 =>
    match takeFirst (fun m => decide ((s.dk m.dst).intake = [])) s.desk.fabric with
    | none => none
    | some (m, r) =>
      let s1 := s.modDesk (fun d => { d with fabric := r })
      let x := s1.newQuery m.dst m.epoch (.fabric m.node m.part) 0 0 m.bytes (Config.freeWord s1.free)
      some ({ s1 with free := s1.free + 1 }.enterQuery x (decide (m.bytes.length < 64)))
  | _ =>
    let ps := (List.range 16).filter (fun p => decide ((s.dk p).intake ≠ []))
    match ps[Config.freePick s.free % ps.length]? with
    | none => none
    | some p =>
      match (s.dk p).intake with
      | [] => none
      | r :: rest =>
        let s1 := { s with free := s.free + 1 }.modDk p (fun d => { d with intake := rest })
        let n := 2 ^ ringLog2 s1 p
        let a := addA (s1.deskW p 3) (64 + 64 * ((leAt r 56 8 + 2 ^ 64 - 1) % n))
        let x := s1.newQuery p (s1.part p).epoch (.ring p) 0 0 r a
        let s2 := if s1.admitCode p x.src r false = 0 then s1.meterRead p a 64 else s1
        some (s2.enterQuery x false)

/-- The Desk serves the next source after the one that it served last that holds a request. -/
def execAdmit (s : State) : Outc :=
  let order := [1, 2, 3, 4].map (fun d => (s.desk.rot + d) % 4)
  match order.filterMap (fun k => (s.turn k).map (fun t => (k, t))) with
  | [] => .next s
  | (k, t) :: _ => .next (t.modDesk (fun d => { d with rot := k }))

/-! ### Stages (R17, R152) -/

/-- A free choice of `n` of the cores, in the order chosen. -/
def pickCores : Nat → Nat → List Nat → List Nat
  | 0, _, _ => []
  | n + 1, k, l =>
    match l[Config.freePick k % l.length]? with
    | none => []
    | some c => c :: pickCores n (k + 1) (l.erase c)

/-- Cores that the Desk may send items. -/
def State.takers (s : State) (p : Nat) : List Nat :=
  (s.coresOf p).filter (fun c => s.coreReady c && !(s.reg (coreP c + 8)).getLsbD 1)

/-- Sends one item of a query to each core of its fan-out. -/
def State.sendFan (s : State) (q : Nat) (x : Query) (kind cols : Nat) (fan : List Nat) : State :=
  let s1 := s.modQuery q (fun x => { x with fan := fan, waiting := fan, recs := [], busy := true })
  ((List.range fan.length).zip fan).foldl (fun s j =>
    s.sendItem x.part j.2 (workItem x q kind j.1 fan.length 0 x.reqAddr 0 0 cols x.qvec)) s1

/-- Members of the query's map other than this partition (R381, R382). -/
def State.otherMembers (s : State) (x : Query) : List (Nat × Nat × Nat) :=
  let p := s.part x.part
  let self := if x.epoch = p.epoch then p.self else p.prevSelf
  (List.range 64).filterMap (fun m => if m = self then none else (memberEntry (p.map x.epoch) m).map (fun e => (m, e.1, e.2)))

def isHome (x : Query) : Bool := decide (x.req.length = 64)

/-- The home node asks every other member (R152, R342); RING_SEQ is zero outside the ring (R187). -/
def State.fanOut (s : State) (q : Nat) (x : Query) : State :=
  let ms := s.otherMembers x
  let s1 := s.modQuery q (fun x => { x with members := ms.map (·.1) })
  ms.foldl (fun s m => s.sendMsg 0 x.part x.epoch m.2.1 m.2.2 (upd x.req 56 (zeros 8) ++ stamps x q)) s1

/-- An empty list of K_OUT. -/
def emptyRecord (k tag : Nat) : List Byte :=
  recordBytes true false false true false false false k 0 0 0 (fillScore true) 0 0 0 0 tag 0xFFFF []

/-- Sources of a query's merge, in SHARD order (R152): the list of the core in place j is source j. -/
def Query.srcs (x : Query) (cores : List Nat) : List MSrc :=
  cores.map (fun c => match x.recs.find? (fun r => decide (r.1 = c)) with
    | some r => .scratch c (64 * r.2)
    | none => .absent)

/-- The stage's lists become the query's record: none leaves the record that stands, one is taken as it is, more are
merged (R152). DESIGN CHOICE: so do those of a re-rank, whose merged list takes the place of the list that was re-ranked (log
entry 94). -/
def State.collectLists (s : State) (q : Nat) (x : Query) (ss : List MSrc) : State :=
  match ss.filter (· ≠ .absent) with
  | [] => (s.modQuery q (fun x => { x with record := if x.record = [] then emptyRecord (clK x.cls) q else x.record })).mergeNext q
  | [m] =>
    let r := s.checkSrc x.part m
    if r.2.1 ≠ 0 then r.1.failQuery q r.2.1
    else (r.1.modQuery q (fun x => { x with record := r.2.2 })).mergeNext q
  | _ => (s.modQuery q (fun x => { x with record := [] })).askMerge ⟨x.part, q, ss, clK x.cls, clFlag x.cls 8, x.dest, none⟩

/-- The record of a bulk scan: its running record, once every seal is merged (R387). -/
def State.collectBulk (s : State) (q : Nat) (x : Query) (p o : Nat) : State :=
  if (s.losw p o).prog = 0 then s.collectLists q x []
  else s.collectLists q x [.tier (s.lopArea p o)]

/-- A model step becomes ready for a query (R202). -/
def State.readyStep (s : State) (p : Nat) (x : Step) : State := s.modDk p (fun d => { d with ready := d.ready ++ [x] })
def State.planOf (s : State) (p m : Nat) : List Byte := ((s.dk p).models.getD m ([], [])).2
def newStep (m : Nat) (tags : List Nat) (cols : Nat) (rt : Bool) : Step :=
  { model := m, tags := tags, cols := cols, rt := rt, layer := 0 }

/-- The next enabled stage after `g` (R17); a member of a fan-out ends with its merge (R152). -/
def Query.nextStage (x : Query) : Stage :=
  let after : Stage → Stage := fun g => match g with
    | .admitted => if clFlag x.cls 2 && !bit (leAt x.req 2 2) 0 then .encode else .search
    | .encode => .search
    | .search => .merge
    | .merge => if !isHome x then .report else if clFlag x.cls 5 then .rerank else if clRank x.cls ≠ 0 then .rank else .report
    | .rerank => .remerge
    | .remerge => if clRank x.cls ≠ 0 then .rank else .report
    | _ => .report
  after x.stage

/-- Merges of a bulk scan that are still to be performed. -/
def State.bulkPending (s : State) (q : Nat) : Bool := (s.merges ++ s.desk.mergeQ).any (fun m => decide (m.tag = q ∧ m.bulk ≠ none))

/-- Starts stage `g`; a stage that cannot start yet leaves the query where it is. DESIGN CHOICE (log entry 94): a re-rank
without a search before it takes FANOUT cores of its own; the columns of a ranking step are the entries of the list that a
re-rank has left; and the lists that the groups of a ranking model's last layer seal are merged into the final list, the
record staying as it is where none seals one. -/
def State.startStage (s : State) (q : Nat) (x : Query) (g : Stage) : State :=
  let s1 := s.modQuery q (fun x => { x with stage := g })
  let cores := s.takers x.part
  let go (s : State) : State := s.modQuery q (fun x => { x with busy := true })
  match g with
  | .encode => (go s1).readyStep x.part (newStep (bAt x.cls 4) [q] 1 (clRt x.cls))
  | .search =>
    if clSearch x.cls = 0 then s1
    else if cores.length < clFan x.cls then s
    else
      let s2 := if isHome x then s1.fanOut q x else s1
      { s2 with free := s2.free + clFan x.cls }.sendFan q x 0 1 (pickCores (clFan x.cls) s2.free cores)
  | .merge =>
    match x.src with
    | .bulk p o => if s.bulkPending q then s else (go s1).collectBulk q x p o
    | _ => (go s1).collectLists q x (x.srcs x.fan)
  | .rerank =>
    if cores.length < max 1 x.fan.length ∨ (x.fan = [] ∧ cores.length < clFan x.cls) then s
    else if x.fan = [] then
      { s1 with free := s1.free + clFan x.cls }.sendFan q x 2 (clRerankN x.cls) (pickCores (clFan x.cls) s1.free cores)
    else s1.sendFan q x 2 (clRerankN x.cls) x.fan
  | .remerge => (go s1).collectLists q x (x.srcs x.fan)
  | .rank =>
    let m := bAt x.cls 5
    let s2 := (go s1).modQuery q (fun x => { x with recs := [] })
    if clRank x.cls = 2 then
      { s2 with free := s2.free + 1 }.modDk x.part (fun d => { d with gens := d.gens ++ [({ tag := q, chunks := 1 + Config.freePick s2.free, rounds := 0 } : GenReq)] })
    else s2.readyStep x.part (newStep m [q] (recCount x.record) (clRt x.cls))
  | .report =>
    if x.stage = .rank ∧ x.recs ≠ [] then
      (go s1).collectLists q x (x.srcs (s.coresOf x.part))
    else s1
  | .admitted => s

def execQueryStageAdvance (q : Nat) (s : State) : Outc :=
  match s.query q with
  | none => .next s
  | some x => if x.busy ∨ x.err ≠ 0 ∨ x.stage = .report then .next s else .next (s.startStage q x x.nextStage)

/-! ### Reporting (R22, R23, R194, R195, R387) -/

/-- WCET is kept in units of 1 / 144,403,552,893,600 ns, in which every island's period is whole (R190). -/
def nsUnit : Nat := 144403552893600

/-- The query is over: it holds nothing of the Desk any more; a failed one of a CARREL class is made known to the
partition's channels (R281). -/
def State.endQuery (s : State) (q : Nat) (x : Query) (failed : Bool) : State :=
  let s1 := ((s.setQuery q none).modDk x.part (fun d => { d with
    ready := d.ready.filter (fun y => decide (y.tags ≠ [q])), gens := d.gens.filter (fun y => decide (y.tag ≠ q)) }))
  let s2 := if failed && clFlag x.cls 9 then
      (s1.chansOf x.part).foldl (fun s m => if s.isCarrel m then s.carCancel m q else s) s1 else s1
  s2.repin x.part

/-- A query of an RT class completes beyond its WCET_NS (R194): RT_OVERRUN. -/
def State.late (s : State) (x : Query) : Bool := clRt x.cls && decide (x.wcet < 10 * nsUnit * (s.clk - x.t0).toNat)
/-- It is counted. -/
def State.countLate (s : State) (x : Query) : State := if s.late x then s.bump (deskCnt x.part 4) 1 else s

/-- Completes a query with an error code and no list. -/
def State.endFailed (s : State) (q : Nat) (x : Query) (code : Nat) (quiet : Bool) : State :=
  let s1 := ((s.bump (deskCnt x.part 3) 1).countLate x).endQuery q x true
  match x.src with
  | .bulk p o => s1.loswFail p o code
  | _ => s1.complete x (completion ((x.req.drop 48).take 8) code (homeTag x.req q) (s.late x) false) [] quiet

/-- The result record at RESULT_ADDR. DESIGN CHOICE: a record that lies outside the partition, where no merge has found it
(R153), fails the query with the code of TIER_DENIED, 0x0287 (log entry 94). -/
def State.endOk (s : State) (q : Nat) (x : Query) : State :=
  let place := match x.dest with
    | none => true
    | some d => s.inPart x.part d (x.record.length + if d.1 then 16 else 0)
  if !place then s.endFailed q x 0x0287 false
  else
    let s1 := match x.dest with
      | none => s
      | some d => s.carWrite x.part d ((pieces 64 (x.record.length + 1) x.record).map (fun b => (b, false)))
    let s2 := (s1.bump (deskCnt x.part 2) 1).meterAdd x.part 1 1
    let s3 := (s2.countLate x).endQuery q x false
    match x.src with
    | .bulk p o => s3.loswDone p o
    | _ => s3.complete x (completion ((x.req.drop 48).take 8) 0 (homeTag x.req q) (s.late x) false) x.record false

def execQueryComplete (q : Nat) (s : State) : Outc :=
  match s.query q with
  | none => .next s
  | some x =>
    if x.err ≠ 0 then .next (s.endFailed q x x.err false)
    else if x.stage = .report ∧ !x.busy then .next (s.endOk q x) else .next s

/-! ### Bulk scan (R387) -/

def execBulkScan (f : Fn) (p : PartId) (o : SlotId) (s : State) : Outc :=
  let s := s.access f
  .next (s.lopStart f p o 0x05 false 128 (fun s b =>
    let r := b.take 64
    let c := (s.dk p).classes.getD (leAt r 0 2) []
    if !zeroAt b 68 60 || decide (leAt b 64 4 = 0) then s.loswFail p o 0x0A04
    else if leAt r 0 2 < nClasses s p ∧ clFlag c 0 ∧ (clSearch c = 0 ∨ clRt c ∨ 8188 < clK c) then s.loswFail p o 0x0A04
    else
      let x := s.newQuery p (s.part p).epoch (.bulk p o) 0 0 r (s.losw p o).req
      let code := s.admitCode p x.src r false
      if code ≠ 0 then s.enterQuery x false else (s.loswRun p o (leAt b 64 4) true).enterQuery x false))

end Sys2Proof.Machine
end

