-- ==== Sys2Proof/Machine/Models.lean ====
section
/-! DEFINITION. Model steps, layers and generative rounds of the Desk (R198 to R204). -/

namespace Sys2Proof.Machine

/-! ### Fields of plans (R198 to R200) -/

def mdPlan (m : List Byte) : Word := wAt m 0
def mdWbuf (m : List Byte) : Nat := leAt m 8 4
def mdHalf (m : List Byte) : Nat := leAt m 12 4
def mdValid (m : List Byte) : Bool := bit (bAt m 16) 0

def plLayers (h : List Byte) : Nat := leAt h 0 4
def plGen (h : List Byte) : Bool := bit (leAt h 4 4) 0
def plToken (h : List Byte) : Nat := leAt h 8 4
def plFixed (h : List Byte) : Nat := leAt h 12 4
def plBeam (h : List Byte) : Nat := leAt h 16 2
def plSteps (h : List Byte) : Nat := leAt h 18 2
/-- Descriptor of layer n of a plan. -/
def plLayer (h : List Byte) (n : Nat) : List Byte := (h.drop (64 + 64 * n)).take 64

def lyKind (l : List Byte) : Nat := bAt l 0
def lyFmt (l : List Byte) : EFmt := (EFmt.ofCode (bAt l 1)).getD .int8
def lyK (l : List Byte) : Nat := leAt l 4 4
def lyN (l : List Byte) : Nat := leAt l 8 4
def lyW (l : List Byte) : Word := wAt l 12
def lyWBytes (l : List Byte) : Nat := leAt l 20 4
def lyComp (l : List Byte) : Nat := bAt l 49

/-- Rows of one core's share of a MATRIX layer (R201). -/
def share (l : List Byte) (cores : Nat) : Nat := ceilDiv (lyN l) (16 * max 1 cores) * 16
/-- First row and row count of the core in place j. -/
def panel (l : List Byte) (cores j : Nat) : Nat × Nat :=
  let f := min (j * share l cores) (lyN l)
  (f, min (share l cores) (lyN l - f))
/-- Bytes of n rows. -/
def rowBytes (l : List Byte) (n : Nat) : Nat := n * lyK l * (lyFmt l).bits / 8

/-- Half of WBUF of layer n. -/
def wbufOf (m : List Byte) (n : Nat) : Nat := mdWbuf m + n % 2 * mdHalf m

/-! ### Weight reads (R202 step 3) -/

/-- Bytes that one weight read delivers at most. DESIGN CHOICE: those of the longest RDA (log entry 58). -/
def weightPiece : Nat := 4096

/-- The read of piece `k` of one core's panel into the half of WBUF that belongs to the layer. -/
def State.weightReq (s : State) (p c : Nat) (m l : List Byte) (n j cores k : Nat) : Req :=
  let r := panel l cores j
  let a := match rateOf (lyComp l) with
    | none => addA (lyW l) (rowBytes l r.1 + k * weightPiece)
    | some q => addA (lyW l)
        ((⟨q, .bf16, false, 0, 0, 0, 0, (0, 0)⟩ : Range).blockOff (r.1 * lyK l / 32 + k * (weightPiece / 64)))
  { kind := .weight, part := p, core := c, addr := a, loc := wbufOf m n + k * weightPiece
    len := min weightPiece (rowBytes l r.2 - k * weightPiece), op := lyComp l
    rd := if lyFmt l = .bf16 then 1 else 2, a := lyW l, b := BitVec.ofNat 64 (lyWBytes l), exp := (s.expOf p a).getD 0 }

/-- The weight reads of layer n: the pieces of each core's panel. -/
def State.weightReqs (s : State) (p n : Nat) (x : Step) : List Req :=
  let l := plLayer x.plan n
  let m := ((s.dk p).models.getD x.model ([], [])).1
  let cs := s.coresOf p
  if plLayers x.plan ≤ n ∨ lyKind l ≠ 0 then []
  else ((List.range cs.length).zip cs).flatMap (fun j =>
    (List.range (ceilDiv (rowBytes l (panel l cs.length j.1).2) weightPiece)).map (fun k =>
      s.weightReq p j.2 m l n j.1 cs.length k))

/-- Issues the weight reads of layer n of the step in progress, as far as tags are free (R202, R203). -/
def State.readWeights (s : State) (p n : Nat) (x : Step) : State :=
  (s.modStep p (fun y => { y with todo := s.weightReqs p n x })).issueWeights

/-! ### Starting and ending a step (R202, R203) -/

/-- The first ready step of the highest level, and the others. -/
def pickStep (l : List Step) : Option (Step × List Step) :=
  match takeFirst (fun x => x.rt) l with
  | some r => some r
  | none => takeFirst (fun _ => true) l

/-- Queries of a step: its own, and those of a round. -/
def Step.all (x : Step) : List Nat := x.tags ++ x.decode.filter (fun q => !x.tags.contains q) ++
  x.chunks.filter (fun q => !x.tags.contains q)

/-- A step fails: every query of it does (R203). -/
def State.failStep (s : State) (p code : Nat) (x : Step) : State :=
  x.all.foldl (fun s q => (s.failQuery q code).modQuery q (fun y => { y with busy := false }))
    (s.modDk p (fun d => { d with step := none }))

/-- The first ready step starts on the plan in force now (R201), with a column table of its own (R196). DESIGN CHOICE: a
step whose model has no plan in force any more fails with PLAN_FAULT (log entry 57). -/
def execModelStepStart (p : PartId) (s : State) : Outc :=
  let d := s.dk p
  if d.step ≠ none ∨ d.pendCfg ∨ (s.part p).reset ≠ none then .next s
  else match pickStep d.ready with
    | none => .next s
    | some (x, r) =>
      let y := { x with
        layer := 0, begun := false, left := [], wreq := [], plan := s.planOf p x.model, table := Config.freeWord s.free }
      let s1 := ({ s with free := s.free + 1 } : State).modDk p (fun d => { d with
        ready := r, step := some y, stepNo := d.stepNo + 1 })
      if y.plan = [] then .next (s1.failStep p 0x0111 y)
      else .next ((if plGen y.plan then s1.bump (deskCnt p 5) 1 else s1).readWeights p 0 y)

/-- What a round leaves of a request: a chunk less, or a decode step more (R204). -/
def GenReq.after (g : GenReq) (x : Step) : GenReq :=
  if x.decode.contains g.tag then { g with rounds := g.rounds + 1 }
  else if x.chunks.contains g.tag then { g with chunks := g.chunks - 1 } else g

/-- The last layer of the step in progress has ended. DEDUCED: an encoder leaves the query's vector at OUT_ADDR of its last
layer, in every core (log entry 59). A ranking query waits for the lists of that layer's groups, whose order is the model's
choice of record (DESIGN CHOICE, log entry 94). A generative request is over once its beam list is sealed too (R204). -/
def State.endStep (s : State) (p : Nat) (x : Step) : State :=
  let s1 := s.modDk p (fun d => { d with step := none })
  let out := leAt (plLayer x.plan (plLayers x.plan - 1)) 44 4
  if !plGen x.plan then x.all.foldl (fun s q => s.modQuery q (fun y => { y with
    busy := decide (y.stage = .rank ∧ y.waiting ≠ []), qvec := if y.stage = .encode then out else y.qvec })) s1
  else
    let gs := (s1.dk p).gens.map (·.after x)
    let over_ := gs.filter (fun g => x.decode.contains g.tag && decide (plSteps x.plan ≤ g.rounds))
    over_.foldl (fun s g => s.modQuery g.tag (fun y => { y with busy := decide (y.waiting ≠ []) }))
      (s1.modDk p (fun d => { d with gens := gs.filter (fun g => !over_.contains g) }))

/-! ### Layers (R202, R203) -/

/-- STEP of a work item. -/
def stepField (s : State) (p n : Nat) : Nat := n + (s.dk p).stepNo % 2 ^ 22 * 1024

/-- LAYER items to every core of the partition, with the panel of each. DESIGN CHOICE: the order that a ranking model finds
reaches the result record through the lists that the groups of its last layer seal, which become the query's (log entry 94). -/
def State.sendLayer (s : State) (p n : Nat) (x : Step) (q : Nat) (y : Query) (l : List Byte) : State :=
  let cs := s.coresOf p
  let m := ((s.dk p).models.getD x.model ([], [])).1
  let s0 := s.modStep p (fun x => { x with left := cs })
  let s1 := if y.stage = .rank ∧ !plGen x.plan ∧ plLayers x.plan = n + 1 then
      s0.modQuery q (fun y => { y with waiting := cs, recs := [], step := stepField s p n }) else s0
  ((List.range cs.length).zip cs).foldl (fun s j =>
    let r := panel l cs.length j.1
    s.sendItem p j.2 (workItem y q 1 j.1 cs.length (stepField s p n) x.table (wbufOf m n) (r.1 + r.2 * 65536)
      x.cols y.qvec)) s1

/-- LIST items of a SELECT layer: one for each request that decodes, always to the same core of the partition, which
holds the request's beam list and reports its seal. -/
def State.sendLists (s : State) (p n : Nat) (x : Step) : State :=
  let cs := s.coresOf p
  let mine : List (Nat × Query × Nat) := x.decode.filterMap (fun q => match s.query q, cs[q % max 1 cs.length]? with
    | some y, some c => some (q, y, c)
    | _, _ => none)
  let s1 := s.modStep p (fun x => { x with left := mine.map (fun (r : Nat × Query × Nat) => r.2.2) })
  mine.foldl (fun s r => (s.modQuery r.1 (fun q => { q with waiting := [r.2.2], recs := [], step := stepField s p n })).sendItem p r.2.2
    (workItem r.2.1 r.1 3 0 1 (stepField s p n) x.table 0 0 (plBeam x.plan) r.2.1.qvec)) s1

/-- The batch request of a GATHER layer at W_ADDR goes to the partition's Gather unit (R291); the layer ends with its
completion. A request that reads poisoned fails the step with TIER_POISON (R229). -/
def State.sendGather (s : State) (p : Nat) (l : List Byte) : State :=
  let s1 := s.modStep p (fun x => { x with left := [1000] })
  if s1.guOf p = none ∨ !s1.inAlloc p (lyW l) 64 then s1.modStep p (fun x => { x with left := [], failed := 0x0111 })
  else
    let r := s1.devRead p (lyW l) 64
    if r.2.2 then r.1.modStep p (fun x => { x with left := [], failed := 0x0401 }) else r.1.gbIntake p r.2.1 true

/-- Layer n starts: its items go out and the next layer's weight reads are issued. -/
def State.beginLayer (s : State) (p n : Nat) (x : Step) (q : Nat) (y : Query) : State :=
  let l := plLayer x.plan n
  let s1 := s.modStep p (fun x => { x with begun := true })
  let s2 := match lyKind l with
    | 1 => s1.sendGather p l
    | 2 => s1.sendLists p n x
    | _ => s1.sendLayer p n x q y l
  s2.readWeights p (n + 1) x

/-- A live query of the step, whose stamps its items carry. -/
def State.stepQuery (s : State) (x : Step) : Option (Nat × Query) :=
  (x.all.filterMap (fun q => (s.query q).map (fun y => (q, y)))).head?

/-- Cause of a stall before layer `x.layer` (R203): QUEUED, while a read of the layer waits for a tag or for a place in its
queue; EXPANDER, while a block of it is in an escape path, which the manual leaves to the timing; LATE otherwise. -/
def State.stallCause (s : State) (x : Step) : Nat :=
  if x.todo ≠ [] ∨ x.wreq.any s.reqQueued then 0
  else if x.wreq.any s.hasEscapes ∧ Config.freeBit s.free then 1 else 2

/-- Counts a stall at the boundary between two layers, under the tier of the later one's weights (R203). -/
def State.countStall (s : State) (p : Nat) (x : Step) : State :=
  if x.layer = 0 then s
  else ({ s with free := s.free + 1 } : State).waitCycles
    (deskCnt p (7 + 3 * s.tierOf p (lyW (plLayer x.plan x.layer)) + s.stallCause x))

/-- The boundary before layer `x.layer`: stalled while a weight read is out, else failed, or the layer starts. -/
def State.boundary (s : State) (p : Nat) (x : Step) : State :=
  let s1 := s.modDk p (fun d => { d with step := some x })
  if x.wreq ≠ [] ∨ x.todo ≠ [] then s1.countStall p x
  else if x.poison then s1.failStep p 0x0110 x
  else match s1.stepQuery x with
    | none => s1.modDk p (fun d => { d with step := none })
    | some (q, y) => s1.beginLayer p x.layer x q y

def execLayerStart (p : PartId) (s : State) : Outc :=
  match (s.dk p).step with
  | none => .next s
  | some x =>
    if x.left ≠ [] then .next s
    else if !x.begun then .next (s.boundary p x)
    else if x.failed ≠ 0 then .next (s.failStep p x.failed x)
    else if plLayers x.plan ≤ x.layer + 1 then .next (s.endStep p x)
    else .next (s.boundary p { x with layer := x.layer + 1, begun := false })

/-! ### Rounds (R204) -/

/-- Requests in the order of their admission. -/
def State.byAdmission (s : State) (l : List GenReq) : List GenReq :=
  let t (g : GenReq) : Nat := match s.query g.tag with
    | some q => q.ord
    | none => 0
  let rec ins (g : GenReq) : List GenReq → List GenReq
    | [] => [g]
    | h :: r => if t g < t h then g :: h :: r else h :: ins g r
  l.foldl (fun acc g => ins g acc) []

/-- Decode-ready requests that fit under BATCH_LIMIT. -/
def takeDecode (beam limit : Nat) : Nat → List GenReq → List Nat
  | _, [] => []
  | b, g :: r => if limit < b + beam then [] else g.tag :: takeDecode beam limit (b + beam) r

/-- Requests whose next chunk fits under ROUND_CYCLES. -/
def takeChunks (fixed token chunk cycles b : Nat) : Nat → List GenReq → List Nat
  | _, [] => []
  | c, g :: r => if cycles < fixed + token * (b + (c + 1) * chunk) then [] else g.tag :: takeChunks fixed token chunk cycles b (c + 1) r

/-- The model of the oldest request that has no round ready or running. -/
def State.roundModel (s : State) (p : Nat) (gs : List GenReq) : Option Nat :=
  let out := ((s.dk p).ready ++ (s.dk p).step.toList).filter (fun x => plGen (s.planOf p x.model)) |>.map (·.model)
  (gs.filterMap (fun g => (s.query g.tag).map (fun q => bAt q.cls 5))).find? (fun m => !out.contains m)

def execGenerativeRound (p : PartId) (s : State) : Outc :=
  let gs := s.byAdmission (s.dk p).gens
  match s.roundModel p gs with
  | none => .next s
  | some m =>
    let plan := s.planOf p m
    let mine := gs.filter (fun g => match s.query g.tag with
      | some q => decide (bAt q.cls 5 = m)
      | none => false)
    let waiting := mine.filter (fun g => decide (0 < g.chunks))
    let dec := takeDecode (plBeam plan) (batchLimit s p) 0 (mine.filter (fun g => decide (g.chunks = 0)))
    let b := dec.length * plBeam plan
    let fit := takeChunks (plFixed plan) (plToken plan) (chunkEvents s p) (fld (s.deskW p 5) 0 32) b 0 waiting
    let ch := if b = 0 ∧ fit = [] then (waiting.take 1).map (·.tag) else fit
    if dec = [] ∧ ch = [] then .next s
    else
      let rt := (dec ++ ch).any (fun q => match s.query q with
        | some x => clRt x.cls
        | none => false)
      let x := { newStep m (dec ++ ch) (b + ch.length * chunkEvents s p) rt with decode := dec, chunks := ch }
      .next (s.readyStep p x)

end Sys2Proof.Machine
end

