-- ==== Sys2Proof/Machine/Owner.lean ====
section
/-! DEFINITION. Ownership records: operations, replies, the sweeper and the state claim (R205 to R209, R345). -/

namespace Sys2Proof.Machine

def ownSeq (r : List Byte) : Nat := leAt r 8 4
def seqNext (n : Nat) : Nat := (n + 1) % 2 ^ 32

/-- An ownership record. -/
def ownRec (st a node b toNode seq stamp : Nat) : List Byte :=
  leBytes 1 st ++ leBytes 1 (a + 16 * b) ++ leBytes 2 node ++ leBytes 2 toNode ++ zeros 2 ++ leBytes 4 seq ++ leBytes 4 stamp

/-- Whether partition P of node N may change `old` to `new` (R206). -/
def ownAllowed (p n : Nat) (old new : List Byte) : Bool :=
  let up := decide (ownSeq new = seqNext (ownSeq old))
  match ownOf old, ownOf new with
  | .unused, .owned a m => decide (a = p ∧ m = n ∧ ownSeq new = 1)
  | .owned a m, .handoff a2 m2 _ _ => decide (a = p ∧ m = n ∧ a2 = a ∧ m2 = m) && up
  | .owned a m, .unused => decide (a = p ∧ m = n)
  | .handoff a m q t, .owned a2 m2 =>
    (decide (a2 = q ∧ m2 = t ∧ q = p ∧ t = n) || decide (a2 = a ∧ m2 = m ∧ a = p ∧ m = n)) && up
  | _, _ => false

def isHandoff (r : List Byte) : Bool := decide (bAt r 0 = 2)

/-- Ticks of CLK_TIME in HANDOFF_TIMEOUT. -/
def State.handoffTicks (s : State) : Nat := fld (s.inForce 0x4040) 0 20 * 100

/-- A change of a record at this node, with its STAMP and its place in the hand-off table (R205, R207). -/
def State.setOwn (s : State) (hold : Nat) (a : Word) (r : List Byte) : State :=
  let out := if bAt r 0 = 0 then zeros 16 else r.take 12 ++ leBytes 4 (s.clk.toNat % 2 ^ 32)
  (s.devWrite hold a out).modDesk (fun d =>
    let rest := d.handoff.filter (fun e => decide ¬ (e.1 = hold ∧ e.2.1 = a))
    { d with handoff := if isHandoff out then rest ++ [(hold, a, addA s.clk s.handoffTicks)] else rest })

/-- An operation on the record at `a` of partition `hold`: its code and the record afterwards. -/
def State.ownOp (s : State) (hold : Nat) (a : Word) (exp new : List Byte) (p n : Nat) : State × Nat × List Byte :=
  if a.toNat % 16 ≠ 0 || !s.inAlloc hold a 16 then (s, 0x0116, zeros 16)
  else
    let r := s.devRead hold a 16
    let cur := r.2.1
    if r.2.2 then (r.1, 0x0116, zeros 16)
    else if cur ≠ exp || !ownAllowed p n cur new then (r.1, 0x0114, cur)
    else if isHandoff new && decide (4096 ≤ r.1.desk.handoff.length) then (r.1, 0x0115, cur)
    else
      let s1 := r.1.setOwn hold a new
      (s1, 0, (s1.peek hold a 16).1)

def n128 (w : BitVec 128) : List Byte := leBytes 16 w.toNat

/-- The outcome that partition software learns. -/
def State.ownOut (s : State) (p code : Nat) (r : List Byte) : State :=
  s.modDesk (fun d => { d with stateOut := Tab.set (fun _ => none) d.stateOut p (some (code, leNat r)) })

def execOwnershipOp (r : Option OwnReq) (s : State) : Outc :=
  match r with
  | some r =>
    if r.node = s.node then
      let x := s.ownOp r.hold r.addr (n128 r.exp) (n128 r.new) r.part s.node
      .next (x.1.ownOut r.part x.2.1 x.2.2)
    else
      let tag := s.nextId
      let e := (s.part r.part).epoch
      let s1 := { s with nextId := s.nextId + 1 }.modDesk (fun d => { d with awaiting := d.awaiting ++ [(tag, r.part.val, e)] })
      .next (s1.sendMsg 2 r.part e r.node r.hold
        (leBytes 1 1 ++ zeros 7 ++ leBytes 8 r.addr.toNat ++ n128 r.exp ++ n128 r.new ++ leBytes 8 tag))
  | none =>
    match s.desk.stateReq with
    | [] => .next s
    | m :: rest =>
      let s1 := s.modDesk (fun d => { d with stateReq := rest })
      let a := wAt m.bytes 8
      let x := s1.ownOp m.dst a ((m.bytes.drop 16).take 16) ((m.bytes.drop 32).take 16) m.part m.node
      .next (x.1.sendMsg 2 m.dst m.epoch m.node m.part
        (leBytes 1 2 ++ leBytes 1 x.2.1 ++ zeros 6 ++ leBytes 8 a.toNat ++ x.2.2 ++ (m.bytes.drop 48).take 8))

def execStateReplyReceive (s : State) : Outc :=
  match s.desk.stateRep with
  | [] => .next s
  | m :: rest =>
    let s1 := s.modDesk (fun d => { d with stateRep := rest })
    let tag := leAt m.bytes 32 8
    match s1.desk.awaiting.find? (fun e => decide (e.1 = tag ∧ e.2.1 = m.dst)) with
    | none => .next s1
    | some e =>
      let st := bAt m.bytes 1
      .next ((s1.modDesk (fun d => { d with awaiting := d.awaiting.erase e })).ownOut m.dst
        (if st = 0 then 0 else 0x0100 + st) ((m.bytes.drop 16).take 16))

/-- One expired hand-off becomes ORPHAN (R207): the receiving fields clear, the handing ones stay. -/
def State.sweep (s : State) (e : Nat × Word × Word) : State :=
  let s0 := s.modDesk (fun d => { d with handoff := d.handoff.erase e })
  let r := s0.devRead e.1 e.2.1 16
  match ownOf r.2.1, r.2.2 with
  | .handoff a m _ _, false =>
    let q := seqNext (ownSeq r.2.1)
    let s1 := (r.1.setOwn e.1 e.2.1 (ownRec 3 a m 0 0 q 0)).bump (deskCnt e.1 6) 1
    { s1 with free := s1.free + 1 }.logEv 0x0120 ((Config.freeWord s1.free).toNat % 8) (some e.1)
      (leBytes 8 e.2.1.toNat ++ leBytes 4 q ++ zeros 4)
  | _, _ => r.1

def execHandoffSweep (s : State) : Outc :=
  .next ((s.desk.handoff.filter (fun e => decide (e.2.2 < s.clk))).foldl (fun s e => s.sweep e) s)

def execStateClaim (f : Fn) (p : PartId) (o : SlotId) (s : State) : Outc :=
  let s := s.access f
  .next (s.lopStart f p o 0x0C false 16 (fun s b =>
    let a := wAt b 0
    if !zeroAt b 12 4 then s.loswFail p o 0x0A04
    else
      let s1 := s.loswRun p o 1 false
      if a.toNat % 16 ≠ 0 || !s1.inAlloc p a 16 then s1.loswFail p o 0x0114
      else
        let r := s1.devRead p a 16
        if r.2.2 || decide (ownOf r.2.1 ≠ .orphan ∨ ownSeq r.2.1 ≠ leAt b 8 4) then r.1.loswFail p o 0x0114
        else ((r.1.setOwn p a (ownRec 1 p s.node 0 0 (seqNext (ownSeq r.2.1)) 0)).loswProg p o 1).loswDone p o))

end Sys2Proof.Machine
end

