-- ==== Sys2Proof/Machine/DeskCfg.lean ====
section
/-! DEFINITION. DESK_COMMIT and its effect (R161, R189, R190, R198 to R201, R210 to R212). -/

namespace Sys2Proof.Machine

/-- Staged word k of a partition's Desk configuration. -/
def State.deskStaged (s : State) (p k : Nat) : Word := s.reg (0x4100 + p * 0x40 + k * 8)

/-- Configured frequency of a core in 100 MHz (R429), and the lowest of the partition's cores. -/
def State.lowFreq (s : State) (p : Nat) : Nat :=
  match s.coresOf p with
  | [] => 0
  | c :: r => r.foldl (fun m c => min m (s.coreFreq c)) (s.coreFreq c)

/-- Frequency of island i of R189 in 100 MHz. -/
def islandFreq (core i : Nat) : Nat :=
  match i with
  | 0 => core
  | 1 => 24
  | 2 => 12
  | 3 => 16
  | 4 => 18
  | _ => 20

/-- WCET_NS of a class in units of `nsUnit` (R190). -/
def wcetOf (core : Nat) (c : List Byte) : Nat :=
  sumNat ((List.range 6).map (fun i => (clCyc c i + clX c i) * (10 * nsUnit) / max 1 (islandFreq core i)))

/-- A valid class entry (R189, R201, R212). -/
def classOk (s : State) (p : Nat) (models : List (List Byte × List Byte)) (c : List Byte) : Bool :=
  let model (n : Nat) : Bool := mdValid (models.getD n ([], [])).1
  decide (leAt c 0 2 < 1024 ∧ clRank c < 3 ∧ 0 < clK c ∧ clK c ≤ 4096 ∧ 0 < clFan c ∧ clFan c ≤ (s.coresOf p).length ∧ 0 < bAt c 7)
  && zeroAt c 62 2 && (!clFlag c 2 || model (bAt c 4)) && (decide (clRank c = 0) || model (bAt c 5))
  && decide (0 < clRerankN c ∧ clRerankN c ≤ clK c)
  && (!clRt c || decide (wcetOf (s.lowFreq p) c ≤ leAt c 8 4 * nsUnit))

/-- A layer of a plan that obeys R200, R201 and the formats of the Expander chapter. -/
def layerOk (s : State) (p half : Nat) (gen : Bool) (l : List Byte) : Bool :=
  let cores := (s.coresOf p).length
  let wb := if lyComp l = 0 then rowBytes l (lyN l) else lyWBytes l
  decide (lyKind l < 4) && (decide (lyKind l ≠ 2) || gen) && decide (EFmt.ofCode (bAt l 1) ≠ none ∧ bAt l 2 < 64 ∧
    EFmt.ofOut (bAt l 2 % 16) ≠ none ∧ bAt l 3 < 64 ∧ lyN l % 16 = 0 ∧ bAt l 48 < 64 ∧ lyComp l < 4) &&
  (bit (bAt l 2) 5 || zeroAt l 32 8) && zeroAt l 50 14 && decide (leAt l 40 4 < 0x400000 ∧ leAt l 44 4 < 0x400000) &&
  (decide (lyComp l = 0) || decide (bAt l 1 = 4 ∨ bAt l 1 = 5)) &&
  (decide (lyKind l ≠ 0) || (decide (rowBytes l (share l cores) ≤ half) && s.inAlloc p (lyW l) (max 1 wb)))

/-- A plan that obeys R199 to R201. -/
def planOk (s : State) (p limit half : Nat) (h : List Byte) : Bool :=
  decide (leAt h 4 4 < 2) && zeroAt h 20 44 &&
  (!plGen h || decide (0 < plBeam h ∧ plBeam h ≤ 256 ∧ 0 < plSteps h ∧ plSteps h ≤ 64 ∧ plBeam h ≤ limit)) &&
  (List.range (plLayers h)).all (fun n => layerOk s p half (plGen h) (plLayer h n))

/-- Reads a model's plan: none where it breaks a rule. -/
def State.readPlan (s : State) (p limit : Nat) (m : List Byte) : Option (List Byte) :=
  if !mdValid m then some []
  else if !(decide (bAt m 16 < 2 ∧ (mdPlan m).toNat % 64 = 0 ∧ mdHalf m % 64 = 0 ∧ mdWbuf m + 2 * mdHalf m ≤ 0x400000)) ||
      !zeroAt m 17 15 || !s.inAlloc p (mdPlan m) 64 then none
  else
    let h := (s.devRead p (mdPlan m) 64).2
    let n := plLayers h.1
    if h.2 || n = 0 || decide (1024 < n) || !s.inAlloc p (mdPlan m) (64 + 64 * n) then none
    else
      let b := (s.devRead p (mdPlan m) (64 + 64 * n)).2
      if b.2 || !planOk s p limit (mdHalf m) b.1 then none else some b.1

/-- The table of `n` entries of `k` bytes at `a`: none where it lies outside the partition or reads poisoned. -/
def State.readTable (s : State) (p : Nat) (a : Word) (n k : Nat) : Option (List (List Byte)) :=
  if n = 0 then some []
  else if !s.inAlloc p a (n * k) then none
  else
    let r := (s.devRead p a (n * k)).2
    if r.2 then none else some ((List.range n).map (fun i => (r.1.drop (k * i)).take k))

/-- A table address in the partition's tier 0 allocation (R189, R161). -/
def State.inT0 (s : State) (p : Nat) (a : Word) : Bool := s.unified p || decide (aSpace a = 0)

/-- Ranges of the staged words (R210, R211) and the places of what they name. -/
def State.wordsOk (s : State) (p : Nat) : Bool :=
  let w := s.deskStaged p
  let lim := w 4
  let depth := fld (w 7) 32 16
  let t := fld (s.reg 0x4040) 0 20
  decide (fld lim 0 6 ≤ 32 ∧ 6 ≤ fld lim 8 5 ∧ fld lim 8 5 ≤ 16 ∧
    64 ≤ fld lim 26 11 ∧ fld lim 26 11 ≤ 1024 ∧ 1 ≤ depth ∧ depth ≤ 1000 ∧ 10 ≤ t ∧ t ≤ 1000000) &&
  (List.range 4).all (fun k => decide ((w k).toNat % 64 = 0)) &&
  (decide (fld lim 0 6 = 0) || s.inT0 p (w 0)) &&
  (decide (w 1 = 0) || s.inT0 p (w 1))

/-- Word k that partition `q` has committed: accepted and awaiting its boundary, else in force. -/
def State.deskCommitted (s : State) (q k : Nat) : Word :=
  if (s.dk q).pendCfg then (s.dk q).pendWords.getD k 0 else s.deskW q k

/-- Rates under R212: of CORE for the partition, of the tiers across all, staged values of this one and committed values of
the others. -/
def State.ratesOk (s : State) (p : Nat) : Bool :=
  let tot (k lo : Nat) : Nat := sumNat ((List.range 16).map (fun q =>
    fld (if q = p then s.deskStaged p k else s.deskCommitted q k) lo 32))
  decide (fld (s.deskStaged p 5) 32 32 ≤ (s.coresOf p).length * (s.lowFreq p * 100) ∧
    tot 6 0 ≤ 7372800 ∧ tot 6 32 ≤ 614400 ∧ tot 7 0 ≤ 115200)

/-- What the commit would put in force: classes and models; none where it is refused. A model table outside the partition's
allocation holds no model (log entry 31). -/
def State.deskCheck (s : State) (p : Nat) : Option (List (List Byte) × List (List Byte × List Byte)) :=
  if !s.wordsOk p || !s.ratesOk p then none
  else
    let lim := s.deskStaged p 4
    let nm := if s.inAlloc p (s.deskStaged p 2) 512 then 16 else 0
    match s.readTable p (s.deskStaged p 0) (fld lim 0 6) 64, s.readTable p (s.deskStaged p 2) nm 32 with
    | some cs, some ms =>
      let plans := ms.map (fun m => (s.readPlan p (fld lim 16 9) m).map (fun h => (m, h)))
      if plans.any (·.isNone) then none
      else
        let models := plans.filterMap id
        if cs.all (fun c => !clFlag c 0 || classOk s p models c) then some (cs, models) else none
    | _, _ => none

/-- What a commit reads (R189, R201): the class table, the model table and every VALID model's plan, where they lie inside
the partition's allocation. -/
def State.commitReads (s : State) (p : Nat) : List (Word × Nat) :=
  let ms := s.deskStaged p 2
  let tables := [(s.deskStaged p 0, fld (s.deskStaged p 4) 0 6 * 64), (ms, 512)]
  let plans := (List.range 16).filterMap (fun i =>
    let m := (s.peek p (addA ms (32 * i)) 32).1
    if mdValid m && s.inAlloc p ms 512 then
      some (mdPlan m, 64 + 64 * min 1024 (if s.inAlloc p (mdPlan m) 64 then plLayers (s.peek p (mdPlan m) 64).1 else 0))
    else none)
  (tables ++ plans).filter (fun r => decide (0 < r.2) && s.inAlloc p r.1 r.2)

/-- DESK_COMMIT of partition p: accepted values wait for the step boundary; a step in progress is then an old one. -/
def execDeskCommit (f : Fn) (p : PartId) (s : State) : Outc :=
  let s := s.access f
  if !s.seesPage f ⟨.desk, 0, 0x4000⟩ then .next s
  else
    let r := (s.commitReads p).foldl (fun s r => (s.devRead p r.1 r.2).1) s
    match s.deskCheck p with
    | none => .next ((r.setField 0x4050 (16 + p) 1 1).setErr 0x4000 1)
    | some (cs, ms) =>
      let s1 := (r.setField 0x4050 (16 + p) 1 0).setForce 0x4040 (s.reg 0x4040)
      .next (s1.modDk p (fun d => { d with
        pendCfg := true
        pendClasses := cs
        pendModels := ms
        pendWcet := cs.map (wcetOf (s.lowFreq p))
        pendWords := (List.range 8).map (s.deskStaged p)
        step := d.step.map (fun x => { x with old := true }) }))

/-- The Desk's copies of a root (R161). -/
def State.loadRoot (s : State) (p : Nat) : State :=
  let root := s.idxRoot p
  if root = 0 ∨ !s.inAlloc p root 256 then s.modDk p (fun d => { d with
    published := 0, active := 0, oldestPin := 0, tlogRead := 0, vrec := Tab.empty, pubNext := none, pubHeld := false })
  else
    let r := s.devRead p root 256
    let b := r.2.1
    let vr : Tab (List Byte) := (List.range 4).foldl (fun t v =>
      let x := (b.drop (64 + 32 * v)).take 32
      Tab.set (fun _ => []) t v (if zeroAt x 0 32 then [] else x)) Tab.empty
    let s1 := r.1.modDk p (fun d => { d with
      published := leAt b 4 4
      active := leAt b 8 4
      tlogRead := leAt b 16 4
      vrec := vr
      pubNext := none
      pubHeld := false })
    let s2 := (s1.coresOf p).foldl (fun s c => (List.range 4).foldl (fun s v => s.loadAdj c p v) s) s1
    if leAt b 12 4 = (s.dk p).oldestPin then s2 else s2.setPin p (leAt b 12 4)

/-- The accepted configuration takes effect between two steps (R201, R211); buckets go to their caps (R191). -/
def execDeskConfigEffect (p : PartId) (s : State) : Outc :=
  let d := s.dk p
  if !d.pendCfg ∨ d.step ≠ none then .next s
  else
    let root := s.idxRoot p
    let ring := s.deskW p 3
    let had := ringLog2 s p
    let s1 := ((List.range 8).zip d.pendWords).foldl (fun s k => s.setForce (0x4100 + p * 0x40 + k.1 * 8) k.2) s
    let w : Tab Nat := ((List.range d.pendWcet.length).zip d.pendWcet).foldl (fun t k => Tab.set z0 t k.1 k.2) Tab.empty
    let s2 := (s1.modDk p (fun d => { d with
      pendCfg := false
      classes := d.pendClasses
      models := d.pendModels
      wcet := w
      pendClasses := []
      pendModels := []
      pendWcet := []
      pendWords := [] })).rsvFull p
    let s3 := if s2.idxRoot p ≠ root then s2.loadRoot p else s2
    .next (if s3.deskW p 3 ≠ ring ∨ had = 0 then
      if s3.inAlloc p (s3.deskW p 3) 64 then
        let r := s3.devRead p (s3.deskW p 3) 16
        r.1.modDk p (fun d => { d with ringHead := leAt r.2.1 8 8 })
      else s3.modDk p (fun d => { d with ringHead := 0 })
    else s3)

end Sys2Proof.Machine
end

