-- ==== Sys2Proof/Machine/Link.lean ====
section
/-! DEFINITION. Taleus Link: slots, replay, ingress, forwarding, shaping, gates, the send ring and the link pages (R337 to
R363, R401). A slot of 8 cycles (link) is one EGRESS_SLOT; link time passes in slots only. -/

namespace Sys2Proof.Machine

/-! ### Registers of a port -/

/-- Counter k of R362. -/
def tpCnt (q k : Nat) : Nat := tpP q + 0x600 + 8 * k
/-- Per-channel counter of R363. -/
def vcCnt (q v k : Nat) : Nat := tpP q + 0x1A00 + v * 0x40 + k
def shapeA (q v : Nat) : Nat := tpP q + 0x100 + v * 0x20
def policeA (q v : Nat) : Nat := shapeA q v + 8
/-- Bucket parameters in force, in units of a slot and of 1/250 byte. -/
def bktRate (w : Word) : Int := fld w 0 24
def bktBurst (w : Word) : Int := fld w 24 24 * 250
def flitCost : Int := 256 * 250
def lvl (t : Tab Int) (v : Nat) : Int := Tab.get (fun _ => 65536 * 250) t v
def setLvl (t : Tab Int) (v : Nat) (n : Int) : Tab Int := Tab.set (fun _ => 65536 * 250) t v n
/-- Growth over one slot. -/
def grow (w : Word) (n : Int) : Int := if bktRate w = 0 then bktBurst w else min (bktBurst w) (n + bktRate w)
/-- The level of a bucket: with RATE 0 always at BURST (R351). -/
def bktLevel (w : Word) (n : Int) : Int := if bktRate w = 0 then bktBurst w else n

/-- RC_PORT_FENCE and RC_NODE_FENCE (R401). -/
def State.elecFence (s : State) (q : Nat) : Bool := (s.reg 0x8048).getLsbD q
def State.portFenced (s : State) (q : Nat) : Bool := (s.reg 0x8048).getLsbD (8 + q) || (s.reg 0x8048).getLsbD (16 + q)
def State.nodeFenced (s : State) (n : Nat) : Bool := (s.reg (0x8100 + n / 64 * 8)).getLsbD (n % 64)
def State.portUp (s : State) (q : Nat) : Bool := decide ((s.port q).state = 2) && !s.elecFence q
def isHb (x : Flit) : Bool := decide (x.vc = 5 ∧ bAt x.payload 0 = 1)
/-- Levels of channel v's egress and ingress buckets (R351, R352). -/
def State.shapeLvl (s : State) (q v : Nat) : Int := bktLevel (s.inForce (shapeA q v)) (lvl (s.port q).shape v)
def State.policeLvl (s : State) (q v : Nat) : Int := bktLevel (s.inForce (policeA q v)) (lvl (s.port q).police v)

/-- Owner of a channel for the tests of R347: channels 5 to 7 have none. -/
def State.chOwner (s : State) (q v : Nat) : Option Nat := if v < 5 then s.vcOwner q v else none

/-! ### The flit on the lanes (R340) -/

/-- The 256 bytes of a flit; a stomped one ends with the inverted CRC (R344). -/
def flitBytes (x : Flit) (stomp : Bool) : List Byte :=
  let h := if x.link then zeros 10 ++ leBytes 2 (x.ack + if x.nak then 4096 else 0) ++ leBytes 1 x.crVc ++ leBytes 1 x.crCount ++ zeros 2
    else leBytes 1 (x.vc + 8 * x.comp + (if x.first then 32 else 0) + if x.last then 64 else 0) ++ leBytes 1 x.epoch ++
      leBytes 2 (x.dstNode + 1024 * x.dstPart) ++ leBytes 2 (x.srcNode + 1024 * x.srcPart) ++ leBytes 1 x.len ++ leBytes 1 x.hops ++
      leBytes 2 x.lseq ++ leBytes 2 (x.ack + if x.nak then 4096 else 0) ++ leBytes 1 x.crVc ++ leBytes 1 x.crCount ++ leBytes 2 x.msgFlits
  let h1 := if x.link then leBytes 1 128 ++ h.drop 1 else h
  let b := h1 ++ padTo 236 (x.payload.take 236)
  let c := crc32c b
  b ++ leBytes 4 (if stomp then c ^^^ 0xFFFFFFFF else c)

def linkFlit : Flit :=
  { vc := 0, comp := 0, first := false, last := false, link := true, epoch := 0, dstNode := 0, dstPart := 0, srcNode := 0
    srcPart := 0, len := 0, hops := 0, lseq := 0, ack := 0, nak := false, crVc := 0, crCount := 0, msgFlits := 0, payload := [] }

/-- The abort flit that ends a message (R340, R346). -/
def abortOf (x : Flit) : Flit := { x with comp := 0, first := false, last := true, len := 0, msgFlits := 0, payload := [] }

/-! ### Queues and credits -/

def LinkPort.fq (x : LinkPort) (v : Nat) : List Fwd := Tab.get (fun _ => []) x.fwdQ v
def LinkPort.setFq (x : LinkPort) (v : Nat) (l : List Fwd) : LinkPort := { x with fwdQ := Tab.set (fun _ => []) x.fwdQ v l }
def LinkPort.busyVc (x : LinkPort) (v : Nat) : Nat := Tab.get z0 x.inMsg v
def LinkPort.setBusy (x : LinkPort) (v n : Nat) : LinkPort := { x with inMsg := Tab.set z0 x.inMsg v n }
def LinkPort.rxOf (x : LinkPort) (v : Nat) : Option RxMsg := Tab.get (fun _ => none) x.rx v
def LinkPort.setRx (x : LinkPort) (v : Nat) (m : Option RxMsg) : LinkPort := { x with rx := Tab.set (fun _ => none) x.rx v m }

/-- A place of the receive buffer of port q becomes free (R343). -/
def State.freePlace (s : State) (q v : Nat) : State :=
  if 8 ≤ q then s else s.modPort q (fun x => { x with owed := Tab.set z0 x.owed v (Tab.get z0 x.owed v + 1) })

/-- The send-ring message that has left over port q. -/
def State.linkP' (s : State) (p : Nat) : LinkPart := Tab.get (fun _ => {}) s.linkP p
def State.modLp (s : State) (p : Nat) (f : LinkPart → LinkPart) : State :=
  { s with linkP := Tab.set (fun _ => {}) s.linkP p (f (s.linkP' p)) }

/-- Flits of the local BULK queue of port q are gone: `n` of them. -/
def State.sendPassed (s : State) (q n : Nat) : State :=
  (List.range 16).foldl (fun s p => match (s.linkP' p).cur with
    | some c => if c.port = q ∧ 0 < c.ahead then s.modLp p (fun x => { x with cur := some { c with ahead := c.ahead - n } }) else s
    | none => s) s

/-- A flit of a message from ingress port q enters the forwarded queue of its egress port. -/
def State.queueFwd (s : State) (q e : Nat) (f : Flit) (stomp place : Bool) : State :=
  s.modPort e (fun x => x.setFq f.vc (x.fq f.vc ++ [⟨q, stomp, f, place, x.cyc⟩]))

/-- Forwarding of a message from ingress port q ends early: its copies end with an abort flit (R346). -/
def State.endForward (s : State) (q : Nat) (m : RxMsg) : State :=
  if m.action = 2 then s.queueFwd q m.port (abortOf m.head) false false else s

/-- What is still to come of a message that port k receives for egress port q is dropped as it arrives. -/
def State.dropRest (s : State) (k q v : Nat) : State :=
  match (s.port k).rxOf v with
  | some m => if m.action = 2 ∧ m.port = q then s.modPort k (·.setRx v (some { m with action := 0 })) else s
  | none => s

/-- Queued flits without those of the first message from port `k`, the flits of that message, and whether its LAST is among them. -/
def dropMsg (k : Nat) : List Fwd → List Fwd × List Fwd × Bool
  | [] => ([], [], false)
  | w :: r =>
    if w.port ≠ k then let t := dropMsg k r; (w :: t.1, t.2)
    else if w.flit.last && !w.stomp then (r, [w], true)
    else let t := dropMsg k r; (t.1, w :: t.2.1, t.2.2)

/-- Flits leave the queues of channel v without being sent: their places are free (R343). -/
def State.freePlaces (s : State) (v : Nat) (ws : List Fwd) : State :=
  ws.foldl (fun s w => if w.place then s.freePlace w.port v else s) s

/-- The message that channel v of port q has begun is discarded, with what is still to come of it (R344). -/
def State.dropBegun (s : State) (q v : Nat) : State :=
  let x := s.port q
  let s1 := s.modPort q (·.setBusy v 0)
  match x.busyVc v with
  | 0 => s
  | 1 => s1.modPort q (fun x => x.setLq v (dropMsg 8 (x.lq v)).1)
  | n + 2 =>
    let d := dropMsg n (x.fq v)
    let s2 := (s1.modPort q (fun x => x.setFq v d.1)).freePlaces v d.2.1
    if d.2.2 then s2 else s2.dropRest n q v

/-- Every message partly received on port q is discarded (R344, R346). -/
def State.dropRx (s : State) (q : Nat) : State :=
  (List.range 8).foldl (fun s v => match (s.port q).rxOf v with
    | none => s
    | some m => (((s.modPort q (fun x => x.setRx v none)).bump (tpCnt q 11) 1).endForward q m)) s

/-- The send-ring message of port q that has begun ends with TL_SEND_ABORTED (R358); `whole`: one that has not begun too. -/
def State.abortSend (s : State) (q : Nat) (whole : Bool) : State :=
  (List.range 16).foldl (fun s p => match (s.linkP' p).cur with
    | some c =>
      if c.port = q ∧ 0 < c.ahead ∧ (whole ∨ c.ahead < c.flits) then s.modLp p (fun x => { x with
        cur := some { c with status := 0x0905, flits := c.flits - min c.flits c.ahead, ahead := 0 } })
      else s
    | none => s) s

/-- The port leaves UP (R344): the replay buffer and every message partly sent or received are discarded. -/
def State.portLeavesUp (s : State) (q st : Nat) : State :=
  let s1 := (s.dropRx q).abortSend q false
  let x := s1.port q
  let gone := if x.busyVc 4 = 1 then (dropMsg 8 (x.lq 4)).2.1.length else 0
  let s2 := (List.range 8).foldl (fun s v => s.dropBegun q v) (s1.sendPassed q gone)
  s2.modPort q (fun x => { x with state := st, replay := [], resend := 0, fails := 0, nak := false, dropping := false })

/-- 16 replays in a row made no progress: the port goes DOWN and trains again. -/
def State.linkDown (s : State) (q : Nat) : State :=
  (s.portLeavesUp q 1).logEv 0x0920 5 none []

/-- A replay from the first unacknowledged flit (R344). -/
def State.replayPort (s : State) (q : Nat) : State :=
  let x := s.port q
  if x.replay = [] then s
  else if 16 ≤ x.fails then s.linkDown q
  else (s.modPort q (fun x => { x with resend := x.replay.length, fails := x.fails + 1 })).bump (tpCnt q 3) 1

/-! ### Gates (R353, R354) -/

def gclCycles (w : Word) : Int := fld w 0 24
def gclOpen (w : Word) (v : Nat) : Bool := decide (v = 5) || w.getLsbD (24 + v)
def State.gclOper (s : State) (q e : Nat) : Word := s.reg (tpP q + 0x400 + 8 * e)

/-- The entry after `e`: its number and word; a committed list follows at the end of the cycle. -/
def State.gclNext (s : State) (q e : Nat) : Nat × Word :=
  let x := s.port q
  if e + 1 < x.gateN then (e + 1, s.gclOper q (e + 1))
  else match x.gclWait with
    | some l => (0, l.headD 0)
    | none => (0, s.gclOper q 0)

/-- Whether channel v is open for the `need` cycles from now, `left` cycles of entry `w` remaining. -/
def State.gateOpen (s : State) (q v : Nat) : Nat → Nat → Word → Int → Int → Bool
  | 0, _, _, _, _ => false
  | n + 1, e, w, left, need =>
    if left ≤ 0 then
      let x := s.gclNext q e
      s.gateOpen q v n x.1 x.2 (left + gclCycles x.2) need
    else if !gclOpen w v then false
    else if need ≤ left then true
    else
      let x := s.gclNext q e
      s.gateOpen q v n x.1 x.2 (gclCycles x.2) (need - left)

def State.gatesOn (s : State) (q : Nat) : Bool := (s.reg (tpP q + 0x50)).getLsbD 0
/-- CONTROL is never gated (R26, R353). -/
def State.mayOccupy (s : State) (q v : Nat) : Bool :=
  decide (v = 5) || !s.gatesOn q || s.gateOpen q v 200 (s.port q).gate (s.gclOper q (s.port q).gate) (s.port q).gateLeft 8

/-- Cycles of the `need` from now in which channel v is closed, `left` cycles of entry `w` remaining. -/
def State.shutCycles (s : State) (q v : Nat) : Nat → Nat → Word → Int → Int → Int
  | 0, _, _, _, _ => 0
  | n + 1, e, w, left, need =>
    if left ≤ 0 then
      let x := s.gclNext q e
      s.shutCycles q v n x.1 x.2 (left + gclCycles x.2) need
    else
      let x := s.gclNext q e
      (if gclOpen w v then 0 else min left need) +
        (if need ≤ left then 0 else s.shutCycles q v n x.1 x.2 (gclCycles x.2) (need - left))

/-- Cycles of the first `n` of a slot in which v's gate is closed. -/
def State.shutIn (s : State) (q v n : Nat) : Nat :=
  if v = 5 ∨ !s.gatesOn q ∨ n = 0 then 0
  else (s.shutCycles q v 200 (s.port q).gate (s.gclOper q (s.port q).gate) (s.port q).gateLeft n).toNat

/-- The list runs from its first entry (ENABLE set). -/
def State.gateStart (s : State) (q : Nat) : State :=
  s.modPort q (fun x => { x with gate := 0, gateLeft := gclCycles (s.gclOper q 0) })

def execGateEntryExpiry (q : PortId) (s : State) : Outc :=
  let x := s.port q
  if !s.gatesOn q ∨ 0 < x.gateLeft then .next s
  else if x.gateN ≤ x.gate + 1 ∧ x.gclWait ≠ none then .next s
  else
    let e := s.gclNext q x.gate
    .next (s.modPort q (fun x => { x with gate := e.1, gateLeft := x.gateLeft + gclCycles e.2 }))

/-- The committed list is in force. -/
def State.gclLoad (s : State) (q : Nat) (l : List Word) : State :=
  ((List.range 64).foldl (fun s e => s.setReg (tpP q + 0x400 + 8 * e)
    (match l[e]? with
     | some w => (w &&& 0xFFFFFFFF) ||| 0x20000000
     | none => 0)) s).modPort q (fun x => { x with gateN := l.length, gclWait := none })

def execGclSwitch (q : PortId) (s : State) : Outc :=
  let x := s.port q
  match x.gclWait with
  | none => .next s
  | some l =>
    if s.gatesOn q && (decide (0 < x.gateLeft) || decide (x.gate + 1 < x.gateN)) then .next s
    else .next ((s.gclLoad q l).modPort q (fun y => { y with gate := 0, gateLeft := x.gateLeft + gclCycles (l.headD 0) }))

/-! ### Egress (R338, R341, R343, R350, R351) -/

/-- Begun message of channel v: a flit of it, from the queue or as its ingress port received the FIRST. -/
def State.begun (s : State) (q v : Nat) : Option Flit :=
  let x := s.port q
  match x.busyVc v with
  | 0 => none
  | 1 => (x.lq v).head?.map (·.flit)
  | n + 2 => match (x.fq v).find? (fun w => decide (w.port = n)) with
    | some w => some w.flit
    | none => ((s.port n).rxOf v).map (·.head)

/-- A flit that no fence lets leave: one for a fenced node, HEARTBEAT apart (R401). -/
def State.barred (s : State) (f : Flit) : Bool := s.nodeFenced f.dstNode && !isHb f

/-- What a replay sends in the place of a flit that may not leave: a stomped flit for this node that keeps its LSEQ, its channel and
so its credit, and no more of it. DESIGN CHOICE: R401 drops the flit and R344 needs its LSEQ (log entry 97). -/
def State.blank (s : State) (f : Flit) : Flit :=
  { linkFlit with link := false, vc := f.vc, lseq := f.lseq, dstNode := s.node, srcNode := s.node }

/-- Flits for a fenced node leave no port (R401): they are dropped, those of a replay too, and a message of theirs that had begun
stays cut. -/
def State.purge (s : State) (q : Nat) : State :=
  let t := (List.range 8).foldl (fun s v =>
    let x := s.port q
    let badL : List Fwd := (x.lq v).filter (fun w => s.barred w.flit)
    let badF : List Fwd := (x.fq v).filter (fun w => s.barred w.flit)
    let cut := (s.begun q v).any s.barred
    let s1 := s.modPort q (fun x => (if cut then x.setBusy v 0 else x).setLq v (x.lq v |>.filter (fun w => !s.barred w.flit)) |>.setFq v
      (x.fq v |>.filter (fun w => !s.barred w.flit)))
    let s2 := if v = 4 ∧ badL ≠ [] then s1.sendPassed q badL.length else s1
    (s2.freePlaces v badF).bump 0x8420 (badL.length + badF.length)) s
  let x := t.port q
  let old := x.replay.drop (x.replay.length - x.resend)
  let bad (e : Bool × Flit) : Bool := t.barred e.2
  (t.modPort q (fun x => { x with
    replay := x.replay.take (x.replay.length - x.resend) ++ old.map (fun e => if bad e then (true, t.blank e.2) else e) })).bump
      0x8420 (old.filter bad).length

/-- The flit that channel v has ready: of the message it has begun, else the first of a queue, local and forwarded in turn (R341,
R350). The flag: from the forwarded queue. -/
def LinkPort.ready (x : LinkPort) (v : Nat) : Option (Bool × Fwd) :=
  let l := (x.lq v).head?.map (fun w => (false, w))
  match x.busyVc v with
  | 0 =>
    let f := (x.fq v).head?.map (fun w => (true, w))
    if Tab.get (fun _ => false) x.fwdTurn v then f.or l else l.or f
  | 1 => l
  | n + 2 => ((x.fq v).find? (fun w => decide (w.port = n))).map (fun w => (true, w))

/-- The fences, the gate and the level let a flit start (R350, R351, R353, R401). -/
def State.mayStart (s : State) (q : Nat) (f : Flit) : Bool :=
  (!s.portFenced q || isHb f) && s.mayOccupy q f.vc && (decide (f.vc = 5) || decide (flitCost ≤ s.shapeLvl q f.vc))

/-- Eligibility of R350, with room in the replay buffer. A HEARTBEAT waits for no such room (R396). -/
def State.eligible (s : State) (q v : Nat) : Bool :=
  let x := s.port q
  match x.ready v with
  | none => false
  | some (_, w) => s.mayStart q w.flit && decide (0 < Tab.get (fun _ => 64) x.credits v) && (isHb w.flit || decide (x.replay.length < 256))

/-- The channel whose credits the next flit returns, and how many (R343). -/
def LinkPort.dueCredits (x : LinkPort) : Nat × Nat :=
  match ((List.range 8).map (fun d => (x.owedRot + 1 + d) % 8)).find? (fun v => decide (0 < Tab.get z0 x.owed v)) with
  | some v => (v, min 255 (Tab.get z0 x.owed v))
  | none => (0, 0)

/-- Cycles of a slot in which the level of v is below one flit. -/
def State.shortOf (s : State) (q v : Nat) : Nat :=
  let w := s.inForce (shapeA q v)
  let l := s.shapeLvl q v
  if v = 5 ∨ bktRate w = 0 ∨ flitCost ≤ l then 0 else min 8 ((8 * (flitCost - l) + bktRate w - 1) / bktRate w).toNat

/-- The flit that the port's replay sends next. -/
def LinkPort.again (x : LinkPort) : Option (Bool × Flit) :=
  if x.resend = 0 then none else x.replay[x.replay.length - x.resend]?

/-- The waits of a slot's 8 cycles: of each channel with a flit ready, those without a credit (R343), with too few tokens
(R351), or with tokens and a closed gate (R353). A flit that is sent again needs no credit. -/
def State.slotWaits (s : State) (q : Nat) : State :=
  (List.range 8).foldl (fun s v =>
    let x := s.port q
    let again := x.again.any (fun e => decide (e.2.vc = v))
    if (x.ready v).isNone && !again then s
    else if !again && decide (Tab.get (fun _ => 64) x.credits v = 0) then s.bump (vcCnt q v 0x30) 8
    else
      let n := s.shortOf q v
      (s.bump (vcCnt q v 0x20) n).bump (vcCnt q v 0x28) (s.shutIn q v 8 - s.shutIn q v n)) s

/-- A flit with the port's ACK and credit fields leaves. -/
def State.emit (s : State) (q : Nat) (f : Flit) (stomp : Bool) : State :=
  let x := s.port q
  let c := x.dueCredits
  let g := { f with ack := x.rxSeq, nak := x.nak, crVc := c.1, crCount := c.2 }
  { s with resp := { bytes := flitBytes g stomp } }.modPort q (fun x => { x with
    nak := false
    owed := Tab.set z0 x.owed c.1 (Tab.get z0 x.owed c.1 - c.2)
    owedRot := if c.2 = 0 then x.owedRot else c.1 })

/-- The start of a flit takes 256 from the level (R351). -/
def LinkPort.take (x : LinkPort) (v : Nat) : LinkPort :=
  if v = 5 then x else { x with shape := setLvl x.shape v (lvl x.shape v - flitCost) }

/-- Channel v sends its ready flit under the next LSEQ; one that goes before a replay is sent again after it. -/
def State.sendFlit (s : State) (q v : Nat) (fwd : Bool) (w : Fwd) : State :=
  let g := { w.flit with lseq := (s.port q).txSeq }
  let s1 := s.modPort q (fun x =>
    let y := if fwd then x.setFq v ((x.fq v).erase w) else x.setLq v ((x.lq v).drop 1)
    let z := if w.stomp then y else y.setBusy v (if g.last then 0 else if fwd then 2 + w.port else 1)
    { (z.take v) with
      txSeq := (x.txSeq + 1) % 4096
      replay := x.replay ++ [(w.stomp, g)]
      resend := if x.resend = 0 then 0 else x.resend + 1
      credits := Tab.set (fun _ => 64) x.credits v (Tab.get (fun _ => 64) x.credits v - 1)
      msgAt := if g.first then Tab.set z0 x.msgAt v w.since else x.msgAt
      fwdTurn := Tab.set (fun _ => false) x.fwdTurn v (!fwd) })
  let s2 := if fwd then s1.freePlaces v [w] else if v = 4 then s1.sendPassed q 1 else s1
  let s3 := (s2.bump (vcCnt q v 0) 1).bump (vcCnt q v 0x38) (if g.last && !w.stomp then 1 else 0)
  s3.emit q g w.stomp

/-- The port's 8 cycles of a slot pass: levels grow, and the running gate entry loses 8 cycles. -/
def State.slotTime (s : State) (q : Nat) : State :=
  s.modPort q (fun x => { x with
    slot := (x.slot + 1) % 18
    cyc := x.cyc + 8
    shape := (List.range 8).foldl (fun t v => setLvl t v (grow (s.inForce (shapeA q v)) (lvl t v))) x.shape
    police := (List.range 8).foldl (fun t v => setLvl t v (grow (s.inForce (policeA q v)) (lvl t v))) x.police
    gateLeft := if s.gatesOn q then x.gateLeft - 8 else x.gateLeft })

/-- What a slot that can carry a flit carries: a HEARTBEAT before every other flit (R396), then a replay, then what R350 chooses. -/
def State.slotFlit (s : State) (q : Nat) : State :=
  let x := s.port q
  let send (v : Nat) (s : State) : State := match x.ready v with
    | some (b, w) => s.sendFlit q v b w
    | none => s.emit q linkFlit false
  if s.eligible q 5 && (x.ready 5).any (fun w => isHb w.2.flit) then send 5 s
  else match x.again with
    | some (st, f) =>
      if s.mayStart q f then (s.modPort q (fun x => { (x.take f.vc) with resend := x.resend - 1 })).emit q f st
      else s.emit q linkFlit false
    | none =>
      if s.eligible q 5 then send 5 s
      else match drr [0, 1, 2, 3, 4, 6] x.drrVc x.drrLeft (s.eligible q) (fun v => weightOf (fld (s.inForce (shapeA q v)) 48 4)) with
        | none => s.emit q linkFlit false
        | some (v, left) => send v (s.modPort q (fun x => { x with drrVc := v, drrLeft := left }))

/-- One slot. Time passes on a port that is not UP too: its levels grow and its gate list runs (R351, R353). -/
def execEgressSlot (q : PortId) (s : State) : Outc :=
  if !s.portUp q then .next (s.slotTime q)
  else
    let s1 := s.slotWaits q
    if (s.port q).slot = 17 then .next ({ s1 with resp := {} }.slotTime q)
    else .next (((s1.purge q).slotFlit q).slotTime q)

/-! ### Ingress (R344 to R348, R352, R357, R401) -/

/-- Writes one line of a PUT. -/
def State.putLine (s : State) (p : Nat) (l : Word × List (Byte × Bool)) : State :=
  s.devWrite p l.1 (l.2.map (·.1)) (l.2.any (·.2))

/-- The lines of a PUT that flits have completed: each is written now or later; all are written once the message is
whole (R346). From the first line outside the allocation on they are dropped (R347). -/
def State.putFlow (s : State) (m : RxMsg) (last : Bool) : State × RxMsg :=
  let p := m.head.dstPart
  let d := m.bytes.drop 16
  let dst := leNat ((m.bytes.drop 8).take 8 |>.map (·.1))
  let hi := min d.length (if last then d.length else max m.upto ((dst + d.length) / 64 * 64 - dst))
  let part := (d.drop m.upto).take (hi - m.upto)
  let ls := (lineParts (dst + m.upto) (part.length + 1) (part.map (·.1))).map (fun x =>
    ((BitVec.ofNat 64 x.1 : Word), (d.drop (x.1 - dst)).take x.2.length))
  let r := ls.foldl (fun (acc : State × RxMsg) l =>
    let (s, m) := acc
    if m.out || !s.inAlloc p l.1 l.2.length then (s, { m with out := true })
    else
      let s1 := { s with free := s.free + 1 }
      if Config.freeBit s.free then (s1.putLine p l, m) else (s1, { m with lines := m.lines ++ [l] })) (s, m)
  if last then (r.2.lines.foldl (fun s l => s.putLine p l) r.1, { r.2 with upto := hi, lines := [] })
  else (r.1, { r.2 with upto := hi })

/-- The receiving block has the whole message. -/
def State.rxWhole (s : State) (q : Nat) (m : RxMsg) : State :=
  let h := m.head
  let bs := m.bytes.map (·.1)
  if h.vc = 5 then
    (if 1 ≤ bAt bs 0 ∧ bAt bs 0 ≤ 5 then { s with rc := { s.rc with queue := s.rc.queue ++ [(q, bs)] } } else s)
  else if h.vc = 6 then s
  else if h.vc = 4 ∧ bAt bs 0 = 1 then s
  else if m.bytes.any (·.2) then s.bump (tpCnt q 12) 1
  else s.deliverMsg h.vc ⟨h.srcNode, h.srcPart, h.dstPart, h.epoch, s.clk, bs⟩

/-- A flit of a message that is delivered here. -/
def State.rxDeliver (s : State) (q : Nat) (x : Flit) (m : RxMsg) : State :=
  let s1 := (s.freePlace q x.vc).modPort q (fun y => if x.vc = 5 then y else { y with police := setLvl y.police x.vc (lvl y.police x.vc - flitCost) })
  if x.last ∧ x.len = 0 then (s1.bump (tpCnt q 11) 1).modPort q (·.setRx x.vc none)
  else
    let d := s1.linkDecode m.head.dstPart x.comp (x.payload.take x.len)
    let m1 := { m with bytes := m.bytes ++ d.2 }
    let isPut := decide (x.vc = 4 ∧ bAt (m1.bytes.map (·.1)) 0 = 1)
    let r := if isPut then d.1.putFlow m1 x.last else (d.1, m1)
    let s2 := if r.2.out && !m.out then r.1.bump (tpCnt q 8) 1 else r.1
    if x.last then (s2.rxWhole q r.2).modPort q (·.setRx x.vc none)
    else s2.modPort q (·.setRx x.vc (some r.2))

/-- What happens to a message, tested at its FIRST flit (R347, R352). -/
def State.rxFirst (s : State) (q : Nat) (x : Flit) : State × RxMsg :=
  let v := x.vc
  let drop (a : Nat) (s : State) : State × RxMsg := (s, { action := a, port := 0, head := x })
  let o := s.chOwner q v
  let e := (s.part x.dstPart).epoch
  if x.dstNode = s.node then
    if v < 5 ∧ o ≠ some x.dstPart then drop 0 (s.bump (tpCnt q 8) 1)
    else if v < 5 ∧ (s.part x.dstPart).reset ≠ none then drop 0 s
    else if v < 5 ∧ x.epoch ≠ e ∧ x.epoch ≠ (e + 255) % 256 then drop 0 (s.bump (tpCnt q 7) 1)
    else
      let w := s.inForce (policeA q v)
      if v ≠ 5 ∧ w.getLsbD 48 ∧ s.policeLvl q v < flitCost then drop 3 (s.bump (vcCnt q v 0x10) 1)
      else drop 1 s
  else if v = 5 then drop 0 (s.bump (tpCnt q 6) 1)
  else match s.route x.dstNode with
    | none => drop 0 (s.bump (tpCnt q 9) 1)
    | some e =>
      if x.hops = 1 then drop 0 (s.bump (tpCnt q 9) 1)
      else if s.chOwner e v ≠ o then drop 0 (s.bump (tpCnt q 6) 1)
      else (s.bump (tpCnt q 5) 1, { action := 2, port := e, head := { x with hops := x.hops - 1 } })

/-- Flits of a partition that is being reset are dropped and counted (R355). -/
def State.resetDrop (s : State) (q : Nat) (x : Flit) : State :=
  if x.vc < 5 ∧ x.dstNode = s.node ∧ s.chOwner q x.vc = some x.dstPart ∧ (s.part x.dstPart).reset ≠ none then s.bump (tpCnt q 8) 1 else s

/-- One good flit in order at ingress. -/
def State.ingress (s : State) (q : Nat) (x : Flit) : State :=
  let v := x.vc
  let s1 := s.bump (vcCnt q v 8) 1
  let old := (s1.port q).rxOf v
  if (s1.portFenced q || s1.nodeFenced x.srcNode) && !isHb x then
    let s2 := (s1.freePlace q v).bump 0x8420 1
    match old with
    | some m => ((s2.modPort q (·.setRx v none)).bump (tpCnt q 11) 1).endForward q m
    | none => s2
  else if v = 7 then (s1.freePlace q v).bump (tpCnt q 10) 1
  else
    let s2 := match x.first, old with
      | true, some m => ((s1.modPort q (·.setRx v none)).bump (tpCnt q 11) 1).endForward q m
      | _, _ => s1
    let r := if x.first then (let a := s2.rxFirst q x; (a.1, some a.2)) else (s2, old)
    match r.2 with
    | none => r.1.freePlace q v
    | some m =>
      match m.action with
      | 1 => r.1.rxDeliver q x m
      | 2 => (r.1.modPort q (·.setRx v (if x.last then none else some m))).queueFwd q m.port { x with hops := x.hops - 1 } false true
      | a =>
        let s3 := if a = 3 then r.1.bump (vcCnt q v 0x18) 1 else r.1.resetDrop q x
        (s3.freePlace q v).modPort q (·.setRx v (if x.last then none else some m))

/-- ACK, NAK and credits of a received flit (R343, R344). -/
def State.takeAck (s : State) (q : Nat) (x : Flit) : State :=
  let y := s.port q
  let n := match y.replay.findIdx? (fun f => decide (f.2.lseq = x.ack)) with
    | some i => i + 1
    | none => 0
  let s1 := s.modPort q (fun y => { y with
    replay := y.replay.drop n
    resend := min y.resend (y.replay.length - n)
    fails := if n = 0 then y.fails else 0
    credits := Tab.set (fun _ => 64) y.credits x.crVc (min 64 (Tab.get (fun _ => 64) y.credits x.crVc + x.crCount)) })
  if x.nak then s1.replayPort q else s1

/-- The copy of a flit whose CRC fails or that came stomped, which cut-through has begun to forward, ends stomped (R348). -/
def State.stompCopy (s : State) (q : Nat) (x : Flit) : State :=
  let m := if x.first then some (s.rxFirst q x).2 else (s.port q).rxOf x.vc
  match m with
  | some m =>
    if m.action = 2 ∧ !s.portFenced q ∧ !s.nodeFenced x.srcNode then
      s.queueFwd q m.port { x with hops := x.hops - 1 } true false
    else s
  | none => s

def execFlitReceive (q : PortId) (x : Flit) (crc : Crc) (s : State) : Outc :=
  if !s.portUp q then .next s
  else
    let y := s.port q
    let inOrder := decide (x.lseq = (y.rxSeq + 1) % 4096)
    match crc with
    | .failed =>
      -- a CRC failure that a codeword beyond correction causes (R339)
      let s1 := (({ s with free := s.free + 1 }.bump (tpCnt q 1) (if Config.freeBit s.free then 1 else 0)).bump (tpCnt q 2) 1).modPort q (fun y => { y with nak := true, dropping := true })
      .next (if !x.link && !y.dropping && inOrder then s1.stompCopy q x else s1)
    | c =>
      -- whether its codeword was corrected is free (R339)
      let s0 := ({ s with free := s.free + 1 }).bump (tpCnt q 0) (if Config.freeBit s.free then 1 else 0)
      let s1 := s0.takeAck q x
      if x.link ∨ !s1.portUp q then .next s1
      else if !inOrder then
        let old := decide ((y.rxSeq + 4096 - x.lseq) % 4096 < 2048)
        .next (if y.dropping || old then s1 else s1.modPort q (fun y => { y with nak := true, dropping := true }))
      else
        let s2 := s1.modPort q (fun y => { y with rxSeq := x.lseq, dropping := false })
        if c = .stomped then .next ((((s2.bump (vcCnt q x.vc 8) 1).bump (tpCnt q 4) 1).freePlace q x.vc).stompCopy q x)
        else .next (s2.ingress q x)

def execReplayTimeout (q : PortId) (s : State) : Outc := if s.portUp q then .next (s.replayPort q) else .next s

/-- Training ends: the port is UP, its slots and sequences start anew (R338, R397). -/
def State.linkUp (s : State) (q lanes partner : Nat) : State :=
  if (s.port q).state ≠ 1 ∨ s.elecFence q then s
  else
    let s1 := s.modPort q (fun x => { x with
      state := 2, lanes := lanes, partner := partner, slot := 0, txSeq := 0, rxSeq := 4095, nak := false
      dropping := false, replay := [], resend := 0, fails := 0, credits := Tab.empty, owed := Tab.empty })
    { s1 with rc := { s1.rc with lastHb := Tab.set (fun _ => none) s1.rc.lastHb q (some s1.clk) } }

def execLinkTrainingDone (q : PortId) (lanes : BitVec 4) (partner : BitVec 10) (s : State) : Outc :=
  .next (s.linkUp q lanes.toNat partner.toNat)

/-! ### Histograms (R359, R363) -/

/-- Bin of a value (R359). -/
def histBin (x : Nat) : Nat := if x = 0 then 0 else min 15 (Nat.log2 x + 1)

/-- Cycles since the message at the head of a queue was queued. -/
def LinkPort.delay (x : LinkPort) (v : Nat) : Nat :=
  match x.ready v with
  | none => 0
  | some (_, w) => x.cyc - (if x.busyVc v = 0 then w.since else Tab.get z0 x.msgAt v)

/-- HIST_PERIOD, 256 to 65,535 cycles (link). -/
def State.histPeriod (s : State) (q : Nat) : Nat := max 256 (fld (s.reg (tpP q + 0x1040)) 0 16)

/-- One sample, once HIST_PERIOD has passed since the last. -/
def execHistSample (q : PortId) (s : State) : Outc :=
  if (s.port q).cyc < (s.port q).histAt + s.histPeriod q then .next s
  else .next ((List.range 8).foldl (fun s v =>
    let x := s.port q
    let n := (x.lq v).length + (x.fq v).length
    let a := tpP q + 0x1100 + v * 0x100
    (s.bump (a + 8 * histBin n) 1).bump (a + 0x80 + 8 * histBin (x.delay v)) 1)
    (s.modPort q (fun x => { x with histAt := x.cyc })))

def execHistClear (f : Fn) (q : PortId) (s : State) : Outc :=
  let s := s.access f
  if !s.seesPage f ⟨.tp, 2 * q + 1, tpP q + 0x1000⟩ then .next s
  else .next ((List.range 8).foldl (fun s v => (List.range 32).foldl (fun s b => s.setReg (tpP q + 0x1100 + v * 0x100 + 8 * b) 0) s) s)

/-! ### The send ring (R358) -/

def sdComp (d : List Byte) : Nat := bits (bAt d 0) 0 2
def sdResid (d : List Byte) : Bool := bit (bAt d 0) 2
def sdMould (d : List Byte) : Nat := bits (bAt d 1) 0 5
def sdGen (d : List Byte) : Nat := bits (bAt d 1) 5 1
def sdBytes (d : List Byte) : Nat := leAt d 4 4
def sdPrefix (d : List Byte) : Nat := leAt d 24 2

def State.lkTake (s : State) (p : Nat) (base : Word) (size : Nat) : Nat → State
  | 0 => s
  | n + 1 =>
    let h := (s.linkP' p).head
    let a := addA base (64 + 64 * (h % size))
    if !s.inAlloc p a 64 then s
    else
      let r := s.devRead p a 64
      if r.2.2 || decide (leAt r.2.1 56 8 ≠ (h + 1) % 2 ^ 64) then r.1
      else ((r.1.modLp p (fun x => { x with head := (h + 1) % 2 ^ 64, queue := x.queue ++ [r.2.1] })).devWrite p (addA base 8)
        (leBytes 8 (h + 1))).lkTake p base size n

def tlRing (p : Nat) : Nat := 0x90200 + p * 0x10

def execSendRingPoll (p : PartId) (s : State) : Outc :=
  let c := s.inForce (tlRing p + 8)
  let n := 2 ^ fld c 8 5
  if !c.getLsbD 0 ∨ (s.part p).reset ≠ none then .next s
  else .next (s.lkTake p (BitVec.ofNat 64 (fld (s.inForce (tlRing p)) 6 44 * 64)) n n)

def sendValid (d : List Byte) : Bool :=
  decide (bAt d 0 < 8 ∧ bAt d 1 < 64 ∧ leAt d 2 2 < 64 ∧ 1 ≤ sdBytes d ∧ sdBytes d ≤ 1048576 ∧ sdPrefix d ≤ 220 ∧
    (sdComp d ≠ 0 → sdPrefix d ≤ sdBytes d ∧ (sdBytes d - sdPrefix d) % 4 = 0) ∧ leAt d 32 8 % 16 = 0) &&
  zeroAt d 26 6 && zeroAt d 40 16

/-- The source of a send lies in a core whose scratch is still being zeroed for its owner: the send waits. DESIGN CHOICE: R63 lets no
data of the previous owner be read, and says no more (log entry 97). -/
def State.sendHeld (s : State) (d : List Byte) : Bool :=
  let c := (remote (wAt d 8)).1
  sdResid d && decide (c < 144) && !s.coreReady c

/-- Source bytes of a send, with the poison of each; none where they lie outside the partition. A source of RESID = 1 is a
remote scratch address, any other a device address. -/
def State.sendSrc (s : State) (p : Nat) (d : List Byte) : State × Option (List (Byte × Bool)) :=
  let a := wAt d 8
  let n := sdBytes d
  if sdResid d then
    let c := remote a
    if fld a 30 34 = 0 ∧ s.coreOwner c.1 = some p ∧ c.2 + n ≤ 0x400000 then
      (s.bump (coreP c.1 + 0x98) ((s.core c.1).check c.2 n).1,
        some ((List.range n).map (fun i => let k := (s.core c.1).check (c.2 + i) 1
          (Mem.rd (s.core c.1).scratch (c.2 + i), k.2.1 || k.2.2))))
    else (s, none)
  else if s.inAlloc p a n then
    let r := s.devRead p a n
    let lost := s.lostUnits p a n
    (r.1, some ((List.range n).map (fun i => (r.2.1.getD i 0, r.2.2 && s.badWith p lost (addA a i)))))
  else (s, none)

/-- Payloads of a PUT and its status: a poisoned source or an unusable table ends it with an abort flit; the blocks before
a poisoned element are formed (R510). -/
def State.sendBody (s : State) (p : Nat) (d : List Byte) (src : List (Byte × Bool)) : State × Nat × List (Nat × List Byte) :=
  let pre := leBytes 1 1 ++ zeros 7 ++ (d.drop 16).take 8
  let bs := src.map (·.1)
  let good := src.findIdx (·.2)
  if sdComp d = 0 then
    let all := pieces 236 (bs.length + 17) (pre ++ bs)
    if good = src.length then (s, 0, all.map (fun b => (0, b)))
    else (s, 0x0903, (all.take ((16 + good) / 236)).map (fun b => (0, b)) ++ [(0, [])])
  else
    let k := sdPrefix d
    let first := (0, pre ++ bs.take k)
    if good < k then (s, 0x0903, [(0, [])])
    else
      let whole := decide (good = src.length)
      let e := s.linkEncode p (sdComp d) (sdMould d) (sdGen d)
        (if whole then bs.drop k else (bs.drop k).take ((good - k) / 128 * 128))
      match e.2 with
      | none => (if whole then e.1 else s.bump (expP 19 + 0x190) (blocksOf (bs.drop k)).length, 0x0902, [first, (0, [])])
      | some bl =>
        if !whole then (e.1, 0x0903, first :: packBlocks (sdComp d) bl ++ [(0, [])])
        else
          let outs := bl.map (fun b => elems .fp32 ((s.decodeBlock 19 p ((rateOf (sdComp d)).getD ⟨1, 3, 16, 16⟩) .fp32 b).getD []))
          let res := ((blocksOf (bs.drop k)).zip outs).flatMap (fun x => residual .fp32 x.1 x.2)
          let c := remote (wAt d 8)
          let s1 := if sdResid d then e.1.writeScr c.1 (c.2 + k) (res.take (bs.length - k)) else e.1
          (s1, 0, first :: packBlocks (sdComp d) bl)

/-- The flits of a PUT to a member of this node, which cross no port: decoded and written as R346 and R357 have a receiving
port do it. DESIGN CHOICE: the manual names no port for them (log entry 22). -/
def State.putLocal (s : State) (m : RxMsg) : List Flit → State
  | [] => s
  | x :: r =>
    if x.last ∧ x.len = 0 then s
    else
      let d := s.linkDecode m.head.dstPart x.comp (x.payload.take x.len)
      let w := d.1.putFlow { m with bytes := m.bytes ++ d.2 } x.last
      w.1.putLocal w.2 r

/-- The oldest descriptor is sent (R358): checked, read, and its flits queued at the egress port. No send starts in a reset of the
partition (R355). -/
def execPut (p : PartId) (s : State) : Outc :=
  let x := s.linkP' p
  match x.cur, x.queue with
  | none, d :: rest =>
    if (s.part p).reset.isSome || s.sendHeld d then .next s
    else
    let s0 := s.modLp p (fun x => { x with queue := rest })
    let done (s : State) (st fl ahead q : Nat) : Outc :=
      .next (s.modLp p (fun x => { x with cur := some { desc := d, status := st, flits := fl, ahead := ahead, port := q } }))
    let e := (s.part p).epoch
    if !sendValid d then done s0 0x0901 0 0 8
    else if !s0.inAlloc p (wAt d 32) 16 then done s0 0x0902 0 0 8
    else match memberEntry (s.part p).curMap (leAt d 2 2), s0.sendSrc p d with
      | _, (s1, none) => done s1 0x0902 0 0 8
      | none, _ => done s0 0x0904 0 0 8
      | some (dn, dp), (s1, some src) =>
        if dn = s.node then
          let b := s1.sendBody p d src
          match flitsOf 4 e dn dp s.node p s.hopsInit b.2.2 with
          | x :: r =>
            done (b.1.putLocal { action := 1, port := 0, head := x } (x :: r)) b.2.1 0 0 8
          | [] => done b.1 b.2.1 0 0 8
        else match s1.route dn with
          | none => done s0 0x0904 0 0 8
          | some q =>
            if s1.vcOwner q 4 ≠ some p.val then done s0 0x0904 0 0 8
            else
              let b := s1.sendBody p d src
              let fs := flitsOf 4 e dn dp s.node p s.hopsInit b.2.2
              let s2 := b.1.modPort q (·.pushLq 4 fs)
              done s2 b.2.1 fs.length ((s2.port q).lq 4).length q
  | _, _ => .next s

/-- STATUS, flits sent and SEQ. -/
def sendCompl (c : Send) : List Byte :=
  leBytes 2 c.status ++ zeros 2 ++ leBytes 4 c.flits ++ zeros 4 ++ leBytes 4 (leAt c.desc 56 4)

def State.writeSend (s : State) (p : Nat) (c : Send) : State :=
  let a := wAt c.desc 32
  if s.inAlloc p a 16 ∧ a.toNat % 16 = 0 then s.devWrite p a (sendCompl c) else s

def execSendComplete (p : PartId) (s : State) : Outc :=
  match (s.linkP' p).cur with
  | some c => if c.ahead = 0 then .next ((s.writeSend p c).modLp p (fun x => { x with cur := none })) else .next s
  | none => .next s

/-! ### Owners and commits (R354, R356, R360, R361) -/

/-- A message is in progress on channel v of port q, in either direction. DESIGN CHOICE: a queued message counts, so that none of
the old owner leaves on the channel of the new one (R347, R356, log entry 97). -/
def State.vcBusy (s : State) (q v : Nat) : Bool :=
  let x := s.port q
  decide (x.busyVc v ≠ 0 ∨ x.lq v ≠ [] ∨ x.fq v ≠ []) || (x.rxOf v).isSome

/-- Byte v of TL_VC_OWNER takes effect. -/
def State.setVcOwner (s : State) (q v b : Nat) : State :=
  let a := tpP q + 0x48
  (s.setForce a (putFld (s.inForce a) (8 * v) 8 b)).modPort q (fun x => { x with ownWait := Tab.set (fun _ => none) x.ownWait v none })

def execVcOwnerChange (q : PortId) (v : Fin 8) (s : State) : Outc :=
  match Tab.get (fun _ => none) (s.port q).ownWait v with
  | some b => if s.vcBusy q v then .next s else .next (s.setVcOwner q v b)
  | none => .next s

/-- The ring of a partition starts at the HEAD that its header holds. -/
def State.ringHeader (s : State) (p : Nat) (base : Word) : State :=
  if base ≠ 0 ∧ s.inAlloc p base 64 then
    let r := s.devRead p base 16
    r.1.modLp p (fun x => { x with head := leAt r.2.1 8 8 })
  else s.modLp p (fun x => { x with head := 0 })

def execLinkCommit (f : Fn) (s : State) : Outc :=
  let s := s.access f
  let old := (List.range 16).map (fun p => s.inForce (tlRing p))
  .next (s.commit f ⟨.link, 0, 0x90000⟩
    (fun s => if (List.range 16).all (fun p => let n := fld (s.reg (tlRing p + 8)) 8 5; decide (6 ≤ n ∧ n ≤ 16)) then .ok else .invalid)
    (fun s => (List.range 16).foldl (fun s p =>
      let w := s.inForce (tlRing p)
      if old[p]? = some w then s
      else s.ringHeader p (BitVec.ofNat 64 (fld w 6 44 * 64))) s))

/-- A commit of the port is still waiting for its boundary (R482). -/
def State.portBusy (s : State) (q : Nat) : Bool :=
  (s.port q).gclWait.isSome || decide ((s.port q).ownWait.cells ≠ [])

/-- What a COMMIT of page 0 leaves: levels, owners and gate list at their boundaries. -/
def State.portCommitted (s : State) (q : Nat) (was : State) : State :=
  let s1 := (List.range 8).foldl (fun s v => s.modPort q (fun x => { x with
    shape := if s.inForce (shapeA q v) &&& 0xFFFFFFFFFFFF = was.inForce (shapeA q v) &&& 0xFFFFFFFFFFFF then x.shape
      else setLvl x.shape v (bktBurst (s.inForce (shapeA q v)))
    police := if s.inForce (policeA q v) &&& 0xFFFFFFFFFFFF = was.inForce (policeA q v) &&& 0xFFFFFFFFFFFF then x.police
      else setLvl x.police v (bktBurst (s.inForce (policeA q v))) })) s
  let a := tpP q + 0x48
  let new := s1.reg a
  let s2 := (List.range 8).foldl (fun s v =>
    let b := fld new (8 * v) 8
    if fld (was.inForce a) (8 * v) 8 = b then s
    else if v < 5 && was.vcBusy q v then s.modPort q (fun x => { x with ownWait := Tab.set (fun _ => none) x.ownWait v (some b) })
    else s.setVcOwner q v b) (s1.setForce a (was.inForce a))
  let l := (List.range (max 1 (min 64 (fld (s2.reg (tpP q + 0x50)) 1 7)))).map (fun e => s2.reg (tpP q + 0x200 + 8 * e))
  if s2.gatesOn q then s2.modPort q (fun x => { x with gclWait := some l }) else s2.gclLoad q l

def execPortCommit (f : Fn) (q : PortId) (s : State) : Outc :=
  let s := s.access f
  let p : Page := ⟨.tp, 2 * q, tpP q⟩
  if s.seesPage f p && s.portBusy q then .next (s.setErr p.base 3)
  else .next (s.commit f p
    (fun s => if (List.range 8).all (fun v => decide (256 ≤ fld (s.reg (shapeA q v)) 24 24 ∧ 256 ≤ fld (s.reg (policeA q v)) 24 24))
      then .ok else .invalid)
    (fun t => t.portCommitted q s))

/-- Channel v of port q is emptied: a message that has begun ends with an abort flit, the rest is discarded, and so is what is still
to come of forwarded messages (R355, R363). -/
def State.emptyVc (s : State) (q v : Nat) : State :=
  let x := s.port q
  let f := (s.begun q v).map abortOf
  let l := match x.busyVc v, f with
    | 1, some f => [x.mine f]
    | _, _ => []
  let w := match x.busyVc v, f with
    | n + 2, some f => [{ x.mine f with port := n }]
    | _, _ => []
  let s1 := (s.freePlaces v (x.fq v)).modPort q (fun x => (x.setLq v l).setFq v w)
  (List.range 8).foldl (fun s k => s.dropRest k q v) s1

/-- A link-port reset (R363): DOWN under R344, queues discarded, training again. The abort flits of messages that have begun leave
once the port is UP. -/
def execLinkPortReset (f : Fn) (q : PortId) (s : State) : Outc :=
  let s := s.access f
  if !s.seesPage f ⟨.tp, 2 * q, tpP q⟩ then .next s
  else
    let s1 := (List.range 8).foldl (fun s v => s.emptyVc q v) (s.abortSend q true)
    let x := s1.port q
    let s2 := s1.portLeavesUp q (if s.elecFence q then 0 else 1)
    .next (s2.modPort q (fun y => { y with localQ := x.localQ, fwdQ := x.fwdQ }))

/-! ### Partition reset (R355) -/

/-- One channel of the partition. -/
def State.resetVc (s : State) (p q v : Nat) : State :=
  let s2 := (s.emptyVc q v).modPort q (fun x => { x with
    shape := setLvl x.shape v (bktBurst (s.inForce (shapeA q v)))
    police := setLvl x.police v (bktBurst (s.inForce (policeA q v))) })
  match (s2.port q).rxOf v with
  | some m => if m.action = 2 ∨ m.head.dstPart = p then s2.modPort q (·.setRx v (some { m with action := 0 })) else s2
  | none => s2

def State.linkReset (s : State) (p : Nat) : State :=
  let s1 := (List.range 8).foldl (fun s q => (List.range 5).foldl (fun s v =>
    if s.vcOwner q v = some p then s.resetVc p q v else s) s) s
  let x := s1.linkP' p
  let all := x.cur.toList.map (fun c => if 0 < c.ahead then { c with status := 0x0905, flits := c.flits - min c.flits c.ahead } else c) ++
    x.queue.map (fun d => ({ desc := d, status := 0x0905, flits := 0, ahead := 0, port := 8 } : Send))
  (all.foldl (fun s c => s.writeSend p c) s1).modLp p (fun x => { x with queue := [], cur := none })

end Sys2Proof.Machine
end

