-- ==== Sys2Proof/Machine/Barrier.lean ====
section
/-! DEFINITION. Roll Call messages and barrier contexts (R394, R395, R404 to R406). -/

namespace Sys2Proof.Machine

/-! ### Messages (R394) -/

/-- RC_CTRL. -/
def State.faultMode (s : State) : Bool := (s.inForce 0x8040).getLsbD 0
def State.hbUs (s : State) : Nat := fld (s.inForce 0x8040) 8 10
def State.missLimit (s : State) : Nat := fld (s.inForce 0x8040) 20 4
def State.rcWindow (s : State) : Nat := fld (s.inForce 0x8040) 32 7
def State.suspectAt (s : State) : Nat := fld (s.inForce 0x8040) 40 7

/-- A message of the 16 listed bytes to the partner of port q. -/
def State.ctlFlit (s : State) (q : Nat) (bs : List Byte) : Flit :=
  { vc := 5, comp := 0, first := true, last := true, link := false, epoch := 0, dstNode := (s.port q).partner, dstPart := 0
    srcNode := s.node, srcPart := 0, len := 16, hops := 1, lseq := 0, ack := 0, nak := false, crVc := 0, crCount := 0
    msgFlits := 1, payload := bs }

/-- Sends a message on a port in state UP. -/
def State.sendCtl (s : State) (q : Nat) (bs : List Byte) : State :=
  if s.portUp q then s.modPort q (·.pushLq 5 [s.ctlFlit q bs]) else s

/-- ARRIVE, RELEASE and ABORT: context and generation. -/
def barMsg (op b g : Nat) : List Byte := leBytes 1 op ++ leBytes 1 b ++ zeros 2 ++ leBytes 4 g ++ zeros 8

/-- The oldest received message, where it has the operation `op`: its port, its bytes, and the state without it. -/
def State.takeCtl (s : State) (op : Nat) : Option (Nat × List Byte × State) :=
  match s.rc.queue with
  | (q, bs) :: r => if bAt bs 0 = op then some (q, bs, { s with rc := { s.rc with queue := r } }) else none
  | [] => none

/-! ### Contexts -/

def barCfg (b : Nat) : Nat := 0x8200 + b * 0x10
def State.barW (s : State) (b : Nat) : Word := s.inForce (barCfg b)
def State.barOn (s : State) (b : Nat) : Bool := (s.barW b).getLsbD 0
def State.barPart (s : State) (b : Nat) : Nat := fld (s.barW b) 4 4
/-- Parent port; 8 is the root. -/
def State.barParent (s : State) (b : Nat) : Nat := fld (s.barW b) 8 4
def State.barKids (s : State) (b : Nat) : List Nat := (List.range 8).filter (fun q => (s.barW b).getLsbD (16 + q))
def State.barLocal (s : State) (b : Nat) : Nat := fld (s.barW b) 32 16
def State.barPorts (s : State) (b : Nat) : List Nat :=
  s.barKids b ++ (if s.barParent b < 8 then [s.barParent b] else [])
/-- The barrier word (R404). -/
def State.barWord (s : State) (b : Nat) : Word := BitVec.ofNat 64 (fld (s.inForce (barCfg b + 8)) 6 44 * 64)
def State.barWordOk (s : State) (b : Nat) : Bool := decide (aSpace (s.barWord b) = 0) && s.inAlloc (s.barPart b) (s.barWord b) 64

def State.bar (s : State) (b : Nat) : Barrier := Tab.get (fun _ => {}) s.rc.bars b
def State.modBar (s : State) (b : Nat) (f : Barrier → Barrier) : State :=
  { s with rc := { s.rc with bars := Tab.set (fun _ => {}) s.rc.bars b (f (s.bar b)) } }
/-- A valid context that is not aborted. -/
def State.barRuns (s : State) (b : Nat) : Bool := s.barOn b && !(s.bar b).aborted

/-- Writes bytes of the barrier word. -/
def State.barWrite (s : State) (b off : Nat) (bs : List Byte) : State :=
  if s.barWordOk b then s.devWrite (s.barPart b) (addA (s.barWord b) off) bs else s

/-- Signals GROUP of CORE where SIGNAL asks for it. -/
def State.barSignal (s : State) (b : Nat) : State :=
  if !s.barWordOk b then s
  else
    let t := s.readBy (s.barPart b) (s.barWord b) 64
    let w := t.2.1
    let c := bAt w 14
    if !t.2.2 && bit (bAt w 13) 0 && decide (t.1.coreOwner c = some (s.barPart b)) && !(t.1.core c).resetting then
      t.1.gsig c (leAt w 16 2 % 1024)
    else t.1

/-- release(g) of R405. -/
def State.barRelease (s : State) (b : Nat) : State :=
  let g := (s.bar b).gen
  let s1 := s.barWrite b 8 (leBytes 4 (g + 1))
  let s2 := (s1.barKids b).foldl (fun s q => s.sendCtl q (barMsg 4 b g)) s1
  ((s2.barSignal b).modBar b (fun _ => { gen := (g + 1) % 2 ^ 32 })).bump 0x8428 1

/-- Aborts a context; `but` is the port from which the abort came (R405). -/
def State.barAbort (s : State) (b : Nat) (but : Option Nat) : State :=
  if !s.barRuns b then s
  else
    let g := (s.bar b).gen
    let s1 := s.barWrite b 12 (leBytes 1 1)
    let ps := (s1.barPorts b).filter (fun q => decide (but ≠ some q) && !s1.portFenced q && !s1.elecFence q)
    let s2 := ps.foldl (fun s q => s.sendCtl q (barMsg 5 b g)) s1
    ((s2.barSignal b).modBar b (fun x => { x with aborted := true })).bump 0x8430 1

/-- Port q is lost or becomes fenced. -/
def State.barAbortPort (s : State) (q : Nat) : State :=
  (List.range 16).foldl (fun s b => if (s.barPorts b).contains q then s.barAbort b (some q) else s) s

/-- The owning partition is reset. -/
def State.barReset (s : State) (p : Nat) : State :=
  (List.range 16).foldl (fun s b => if s.barPart b = p then s.barAbort b none else s) s

/-! ### Late arrivals (R406) -/

def popcount (n w : Nat) : Nat := ((List.range w).filter (bit n)).length

/-- Shifts `v` into the window of port q; reaching the threshold marks the partner suspect, once for each crossing. -/
def State.shiftWindow (s : State) (q v : Nat) : State :=
  let w := (Tab.get z0 s.rc.windows q * 2 + v) % 2 ^ 64
  let n := popcount w s.rcWindow
  let over_ := decide (s.suspectAt ≤ n)
  let s1 := { s with rc := { s.rc with
    windows := Tab.set z0 s.rc.windows q w
    crossed := Tab.set (fun _ => false) s.rc.crossed q over_ } }
  if over_ && !Tab.get (fun _ => false) s.rc.crossed q then
    ((s1.setField 0x80D0 q 1 1).setIrq 0x8000 1).logEv 0x0B22 3 none
      (leBytes 1 q ++ zeros 1 ++ leBytes 2 (s.port q).partner ++ leBytes 4 n ++ zeros 8)
  else s1

/-- The skew windows at completion (R406): the late child's shifts a 1 in, or every child's shifts a 0 in. -/
def State.barShift (s : State) (b : Nat) (late : Option Nat) : State :=
  match late with
  | some q => (s.bump (0x8440 + 8 * q) 1).shiftWindow q 1
  | none => (s.barKids b).foldl (fun s q => s.shiftWindow q 0) s

/-- ARRIVE(g) goes to the parent, on a port in state UP (R394); until then the context keeps it. -/
def State.barArrive (s : State) (b : Nat) : State :=
  if s.portUp (s.barParent b) then
    (s.sendCtl (s.barParent b) (barMsg 3 b (s.bar b).gen)).modBar b (fun x => { x with sent := true })
  else s

/-- The generation is complete on this chip; `late` is the child whose ARRIVE was its last event. -/
def State.barComplete (s : State) (b : Nat) (late : Option Nat) : State :=
  let s1 := s.barShift b late
  if s1.barParent b = 8 then s1.barRelease b else s1.barArrive b

/-- local_done and children_done. -/
def State.barReady (s : State) (b : Nat) : Bool :=
  (s.bar b).localOk && (s.barKids b).all (fun q => (s.bar b).arrived.contains q) && !(s.bar b).sent

/-- A poll of the word: results are taken after the messages that have arrived (R395). A complete context whose parent port was
not UP sends its ARRIVE. DESIGN CHOICE: a word that reads
poisoned counts no arrival and signals nothing (log entry 72). -/
def execBarrierPoll (b : Fin 16) (s : State) : Outc :=
  let x := s.bar b
  if !s.barRuns b || decide (s.rc.queue ≠ []) then .next s
  else if s.barReady b then .next (s.barArrive b)
  else if x.localOk || !s.barWordOk b then .next s
  else
    let t := s.readBy (s.barPart b) (s.barWord b) 8
    if t.2.2 || decide (leAt t.2.1 0 8 < (x.gen + 1) * s.barLocal b) then .next t.1
    else
      let s1 := t.1.modBar b (fun x => { x with localOk := true })
      .next (if s1.barReady b then s1.barComplete b none else s1)

/-- ARRIVE(g) of a child. -/
def execArrive (s : State) : Outc :=
  match s.takeCtl 3 with
  | none => .next s
  | some (q, bs, s0) =>
    let b := bAt bs 1
    let x := s0.bar b
    if 16 ≤ b || !s0.barRuns b || !(s0.barKids b).contains q || decide (leAt bs 4 4 ≠ x.gen) || x.arrived.contains q then .next s0
    else
      let s1 := s0.modBar b (fun x => { x with arrived := x.arrived ++ [q] })
      .next (if s1.barReady b then s1.barComplete b (some q) else s1)

/-- RELEASE(g) of the parent. -/
def execRelease (s : State) : Outc :=
  match s.takeCtl 4 with
  | none => .next s
  | some (q, bs, s0) =>
    let b := bAt bs 1
    if 16 ≤ b || !s0.barRuns b || decide (s0.barParent b ≠ q ∨ leAt bs 4 4 ≠ (s0.bar b).gen) || !(s0.bar b).sent then .next s0
    else .next (s0.barRelease b)

/-- ABORT(g) of a partner of the context. -/
def execAbort (s : State) : Outc :=
  match s.takeCtl 5 with
  | none => .next s
  | some (q, bs, s0) =>
    let b := bAt bs 1
    if 16 ≤ b || !(s0.barPorts b).contains q || decide (leAt bs 4 4 ≠ (s0.bar b).gen) then .next s0
    else .next (s0.barAbort b (some q))

end Sys2Proof.Machine
end

