-- ==== Sys2Proof/Machine/Part.lean ====
section
/-! DEFINITION. Partitions: slices and their COMMIT, partition reset, compositions (R370 to R372, R381 to R383, R388 to
R390, R393). -/

namespace Sys2Proof.Machine

/-! ### Epochs and compositions (R381 to R383) -/

/-- PREV_LIVE: live items stamped with epoch E − 1. -/
def State.prevLive (s : State) (p : Nat) : Nat :=
  let e := ((s.part p).epoch + 255) % 256
  let g := s.gu p
  ((s.queriesOf p).filter (fun q => match s.query q with
    | some x => decide (x.epoch = e)
    | none => false)).length +
  ((g.queue ++ g.cur.toList ++ g.heldB).filter (fun b => decide (b.epoch = e))).length +
  (s.desk.awaiting.filter (fun a => decide (a.2.1 = p ∧ a.2.2 = e))).length

/-- A composition change that is no longer queued: checked, then performed in one cycle (R383). -/
def State.changeComp (s : State) (p o : Nat) (b : List Byte) : State :=
  let x := s.part p
  let a := wAt b 0
  let self := bAt b 9
  if !zeroAt b 10 22 || decide (bAt b 8 ≠ (x.epoch + 1) % 256 ∨ a.toNat % 64 ≠ 0) || !s.inAlloc p a 256 then s.loswFail p o 0x0A03
  else
    let r := s.devRead p a 256
    let es := (List.range 64).map (fun m => leAt r.2.1 (4 * m) 4)
    let new := ((List.range 64).zip es).foldl (fun (t : Tab Nat) e => Tab.set z0 t e.1 e.2) Tab.empty
    let good := es.all (fun e => decide (bits e 14 17 = 0)) &&
      (decide (self = 0xFF) || (decide (self < 64) && decide (memberEntry new self = some (s.node, p))))
    if r.2.2 || !good then r.1.loswFail p o 0x0A03
    else if s.prevLive p ≠ 0 then r.1.loswFail p o 0x0A02
    else
      let s1 := (r.1.loswRun p o 1 false).modPart p (fun x => { x with
        prevMap := x.curMap, prevSelf := x.self, curMap := new, self := self, epoch := (x.epoch + 1) % 256 })
      (s1.loswProg p o 1).loswDone p o

/-- Long operation 0x06; during a reset of the partition it stays QUEUED. -/
def execCompositionChange (f : Fn) (p : PartId) (o : SlotId) (s : State) : Outc :=
  let s := s.access f
  .next (s.lopStart f p o 0x06 true 32 (fun s b =>
    if (s.part p).reset ≠ none then s.modPart p (fun x => { x with compWait := x.compWait ++ [(o.val, b)] })
    else s.changeComp p o b))

/-! ### Partition reset (R388 to R390) -/

/-- Every MSI-X vector of a function is masked and its PBA is clear. -/
def State.maskVectors (s : State) (k : Nat) : State :=
  ((List.range 64).foldl (fun s v => s.setField (msixCtl k v) 32 1 1) s).setReg (msixPba k) 0

/-- The queues of a function are disabled. -/
def State.disableQueues (s : State) (k : Nat) : State :=
  (List.range 16).foldl (fun s q => (s.setField (sqReg k q) 0 1 0).setField (cqReg k q) 0 1 0) s

/-- A reset request for partition p, with the function whose FLR made it: starts a reset, of which step 1 is done here, or joins
the running one; of a FREE partition it has no effect. -/
def State.requestReset (s : State) (p : Nat) (flr : Option Nat) : State :=
  match (s.part p).reset with
  | some r =>
    let s1 := s.modPart p (fun x => { x with reset := some { r with flrs := r.flrs ++ flr.toList } })
    if r.step = 7 then flr.toList.foldl (fun s k => s.disableQueues k) s1 else s1
  | none =>
    if s.coresOf p = [] then s
    else
      let s1 := s.modPart p (fun x => { x with reset := some { step := 2, t0 := s.clk, flrs := flr.toList } })
      let s2 := (s1.linkReset p).modLosw p 30 (fun l => { l with op := 7, state := 1, error := 0, prog := 0, total := 0, part := 0xFFFFFFFF })
      (s2.loswRun p 30 7 true).loswProg p 30 1

/-- Step 2 on one core: every group is killed, the items that wait and those held by handle are discarded. -/
def State.killCore (s : State) (c : Nat) : State :=
  let s1 := (s.core c).liveGroups.foldl (fun s g => s.killGroup c g) s
  let ts := (s1.core c).threads.keys.filter (fun t => decide (t < 8192) && (s1.thr c t).marked && decide ((s1.thr c t).st ≠ .free))
  let s2 := ts.foldl (fun s t => (s.bump (coreP c + 0xA8) 1).endThread c t) s1
  s2.modCore c (fun k => { k with workq := [], handles := Tab.empty })

/-- Groups that step 2 kills. -/
def State.groupsToKill (s : State) (p : Nat) : Nat :=
  sumNat ((s.coresOf p).map (fun c => ((s.core c).liveGroups.filter (fun g => !(s.grp c g).killed)).length))

/-- Long operations of the partition that a reset aborts: snapshot commit, table replace, migration batch, mould load,
collection flush. -/
def State.abortLops (s : State) (p : Nat) : State :=
  let slots := (s.dk p).snap.toList.map (·.slot) ++ (s.gu p).repl.toList.map (·.slot) ++ (s.tp p).batch.toList.map (·.slot) ++
    (s.mload p).toList.map (·.slot) ++ (s.ns p).flushes.map (·.1)
  let s1 := slots.foldl (fun s o => s.loswAbort p o) s
  let s2 := if (s1.tp p).move = none then s1 else s1.bump (0x9300 + p * 0x40 + 0x30) 1
  ((((s2.modDk p (fun d => { d with snap := none })).modTp p (fun x => { x with move := none, moveQ := [], batch := none })).setMload p none).modNs p
    (fun n => { n with flushes := [] }))

/-- Step 2. -/
def State.resetKill (s : State) (p : Nat) (r : ResetRun) : State :=
  let n := s.groupsToKill p
  let s1 := (s.coresOf p).foldl (fun s c => s.killCore c) s
  let s2 := s1.modDk p (fun d => { d with held := [], step := none, ready := [], gens := [] })
  let s3 := (s2.chansOf p).foldl (fun s m => if s.isCarrel m then s.carReset m (some p) else s) s2
  let s4 := (((s3.abortLops p).guReset p).barReset p).modDesk (fun d => { d with
    awaiting := d.awaiting.filter (fun a => decide (a.2.1 ≠ p)) })
  let left := (s4.merges ++ s4.desk.mergeQ).filter (fun m => decide (m.part ≠ p))
  ((({ s4 with merges := left.take 64 } : State).modDesk (fun d => { d with mergeQ := left.drop 64 })).modPart p (fun x => { x with
    reset := some { r with step := 3, killed := n } })).loswProg p 30 2

/-- Step 3: whether a write of the partition is still outstanding, an atomic's among them. -/
def State.writesOut (s : State) (p : Nat) : Bool :=
  s.reqs.keys.any (fun i => match s.req i with
    | some r => decide (r.part = p) && (match r.kind with
      | .wra | .rstore | .atom => true
      | _ => false)
    | none => false)

/-- Step 4: IRQ_STATUS and IRQ_ENABLE of the partition's pages, and the vectors of its VFs. -/
def State.resetIrqs (s : State) (p : Nat) : State :=
  let ks := s.regs.keys.filter (fun a => decide (a % 0x1000 = 0x18 ∧ s.irqOwner (a - 0x18) = some p))
  (s.vfsOf p).foldl (fun s k => s.maskVectors k) (ks.foldl (fun s a => s.setIrqOut (a - 0x18) 0) (s.zeroRegs ks))

/-- Step 5. -/
def State.resetBuckets (s : State) (p : Nat) : State :=
  (s.vfsOf p).foldl (fun s k => s.modHost k (fun h => { h with timer := Tab.empty, agg := Tab.empty })) (s.rsvFull p)

/-- Step 6, and the queues of the VFs that an FLR reset. -/
def State.resetQueries (s : State) (p : Nat) (r : ResetRun) : State :=
  let s1 := (s.queriesOf p).foldl (fun s q => match s.query q with
    | some x => s.endFailed q x 0x0A01 true
    | none => s) s
  r.flrs.foldl (fun s k => s.disableQueues k) s1

/-- Steps 3 to 6; step 7 awaits the programs that are issued now. -/
def State.resetDrained (s : State) (p : Nat) : State :=
  match (s.part p).reset with
  | none => s
  | some r =>
    let n := (s.queriesOf p).length
    let s1 := (((s.resetIrqs p).resetBuckets p).resetQueries p r)
    let a := s1.ns p
    (s1.modPart p (fun x => { x with reset := some { r with
      step := 7, aborted := n, awaited := 16 * a.flying.length + 2 * a.jFlying.length
      stripes := a.flying.map (fun st => (st.sb, st.row)), pages := a.jFlying, erase := a.erasing } })).loswProg p 30 6
      |>.modLosw p 30 (fun l => if s.pwr.brownout then { l with state := 6 } else l)

/-- Steps 2 to 6 of R389, as far as they can go: step 3 waits for outstanding writes. -/
def execPartitionReset (p : PartId) (s : State) : Outc :=
  match (s.part p).reset with
  | none => .next s
  | some r =>
    if r.step = 7 then .next s
    else
      let s1 := if r.step = 2 then s.resetKill p r else s
      .next (if s1.writesOut p then s1 else s1.resetDrained p)

/-- The programs and the erase that step 7 awaits are complete, and no brown-out holds it. -/
def State.resetEnds (s : State) (p : Nat) (r : ResetRun) : Bool :=
  decide (r.step = 7) && !s.pwr.brownout && !(s.ns p).flying.any (fun st => r.stripes.contains (st.sb, st.row)) &&
  !(s.ns p).jFlying.any (fun g => r.pages.contains g) && (r.erase.isNone || decide ((s.ns p).erasing ≠ r.erase))

/-- The reset is DONE; queued composition changes follow (R389, R390). -/
def execPartResetDone (p : PartId) (s : State) : Outc :=
  match (s.part p).reset with
  | none => .next s
  | some r =>
    if !s.resetEnds p r then .next s
    else
      let us := (s.clk - r.t0).toNat / 100
      let area := s.lopArea p 30
      let res := leBytes 4 r.aborted ++ leBytes 4 r.killed ++ leBytes 4 r.awaited ++ leBytes 4 us
      let s1 := if s.inAlloc p area 16 then s.devWrite p area res else s
      let s2 := ((s1.loswProg p 30 7).loswDone p 30).logEv 0x0A20 2 (some p) []
      let q := (s2.part p).compWait
      let s3 := s2.modPart p (fun x => { x with reset := none, compWait := [] })
      .next (q.foldl (fun s c => s.changeComp p c.1 c.2) s3)

def partPage : Page := ⟨.part, 0, 0xD000⟩

/-- A write of PART_RESET. -/
def execPartResetWrite (f : Fn) (v : BitVec 16) (s : State) : Outc :=
  let s := s.access f
  if !s.seesPage f partPage then .next s
  else .next ((List.range 16).foldl (fun s p => if v.getLsbD p then s.requestReset p none else s) s)

/-- A write of PART_RUN. -/
def execPartRunWrite (f : Fn) (v : BitVec 16) (s : State) : Outc :=
  let s := s.access f
  if !s.seesPage f partPage then .next s else .next (s.setField 0xD0C0 0 16 v.toNat)

/-! ### COMMIT of the PART page (R370, R371, R393) -/

/-- The staged word k of partition p's slice. -/
def State.sliceNew (s : State) (p k : Nat) : Word := s.reg (partSlice p k)
def coresIn (w : Nat → Word) : List Nat := (List.range 144).filter (fun c => (w (c / 64)).getLsbD (c % 64))

/-- A piece that failed training cannot be assigned (R427). -/
def State.pieceFails (s : State) (w : Nat → Word) : Bool :=
  (List.range 48).any (fun i => (w 3).getLsbD i && decide (fld (s.reg (hcP (i / 8) + 0x40)) 8 8 = 0)) ||
  (List.range 12).any (fun m => (w 4).getLsbD m && decide (fld (s.reg (mcP m + 0x40)) 0 2 = 0))

/-- The partition has an allocation in some space. -/
def State.hasAlloc (s : State) (p : Nat) : Bool := (List.range 4).any (fun x => s.inAlloc p (BitVec.ofNat 64 (x * 2 ^ 48)) 1)

/-- What the staged slice of one partition breaks, with ERR_STATUS bit 1. A PART_LOP_BASE area is held against the quotas in
force; before a quota is set no area lies in a partition, and only a COMMIT that changes the area is refused (log entry 30). -/
def State.sliceBad (s : State) (p : Nat) : Bool :=
  let w := s.sliceNew p
  let gone (k : Nat) : Bool := decide (s.slice p k &&& ~~~(w k) ≠ 0)
  (List.range p).any (fun q => (List.range 5).any (fun k => decide (w k &&& s.sliceNew q k ≠ 0))) ||
  (coresIn w).any (fun c => !Config.coreEnabled c) || s.pieceFails w ||
  (decide (s.coresOf p ≠ []) && (gone 3 || gone 4)) ||
  ((gone 0 || gone 1 || gone 2) && decide (s.partState p ≠ 1)) ||
  ((decide (w 5 ≠ s.slice p 5) || s.hasAlloc p) && !s.inAlloc p (BitVec.ofNat 64 (fld (w 5) 21 29 * 2 ^ 21)) 0x400000)

/-- A core that the COMMIT would remove still has work (ERR_STATUS bit 0). -/
def State.coreBusy (s : State) (c : Nat) : Bool :=
  decide ((s.core c).liveGroups ≠ []) || !s.hartsHalted c || decide ((s.core c).workq ≠ [])

def State.partCheck (s : State) : Commit :=
  if (List.range 16).any s.sliceBad then .invalid
  else if (List.range 144).any (fun c => match s.coreOwner c with
      | some p => !(s.sliceNew p (c / 64)).getLsbD (c % 64) && s.coreBusy c
      | none => false) then .notQuiesced
  else .ok

/-- The power manager's part of it: gated where no partition holds the core, else queued for ungating. -/
def Power.moved (w : Power) (c : Nat) (free : Bool) : Power :=
  if free then { w with ungated := Tab.set (fun _ => false) w.ungated c false, ungateQ := w.ungateQ.filter (· ≠ c) }
  else if Tab.get (fun _ => false) w.ungated c || w.ungateQ.contains c then w
  else { w with ungateQ := w.ungateQ ++ [c] }

def State.coreGate (s : State) (c : Nat) (free : Bool) : State := { s with pwr := s.pwr.moved c free }.noteCore c

/-- A core that has changed owner: cleared; gated where no partition holds it, else queued for ungating (R63, R422). -/
def State.coreMoved (s : State) (c : Nat) : State :=
  let s1 := s.ownerChange c
  s1.coreGate c (s1.coreOwner c).isNone

/-- A module channel that has changed owner from `old` (R282). -/
def State.chanMoved (s : State) (m : Nat) (old : Option Nat) : State :=
  if !s.isCarrel m then s
  else (s.carReset m old).modCar m (fun x => { x with win := Tab.empty, found := Tab.empty, winBad := [] })

/-- The namespace of a partition whose flash channels changed is unformatted (R371); what ran on it is aborted. -/
def State.nsLost (s : State) (p : Nat) : State :=
  let n := s.ns p
  let slots := n.discard.toList.map (·.slot) ++ n.plain.map (·.1) ++ n.flushes.map (·.1) ++ n.format.toList.map (·.slot)
  (slots.foldl (fun s o => s.loswAbort p o) s).modNs p (fun n => { ({} : Ns) with sbs := n.sbs, readOnly := n.readOnly })

/-- What follows a COMMIT; `t` is the state before it. -/
def State.partApply (t s : State) : State :=
  let s1 := (List.range 144).foldl (fun s c => if t.coreOwner c = s.coreOwner c then s else s.coreMoved c) s
  let s2 := (List.range 60).foldl (fun s i => if t.pieceOwner i = s.pieceOwner i then s
    else { s with zeroing := Tab.set (fun _ => false) s.zeroing i true }) s1
  let s3 := (List.range 12).foldl (fun s m => if t.chanOwner m = s.chanOwner m then s else s.chanMoved m (t.chanOwner m)) s2
  (List.range 16).foldl (fun s p =>
    let s4 := if t.flashOf p = s.flashOf p then s else s.nsLost p
    if decide (t.coresOf p = []) = decide (s4.coresOf p = []) then s4 else s4.meterAdd p 7 1) s3

def execPartCommit (f : Fn) (s : State) : Outc :=
  let s := s.access f
  .next (s.commit f partPage State.partCheck (State.partApply s))

end Sys2Proof.Machine
end

