-- ==== Sys2Proof/Machine/Host.lean ====
section
/-! DEFINITION. Host ports: doorbells, queue registers, coalescing, bindings, host-port and function-level reset (R369, R373,
R376, R380, R388, R391). -/

namespace Sys2Proof.Machine

/-- The HOST view of a VF that reaches it: its number. A PF has no queues (R373). -/
def State.queueView (s : State) (f : Fn) : Option Nat :=
  match f with
  | .vf b _ => if s.seesPage f ⟨.host, portIdx b, viewP (fnIdx f)⟩ then some (fnIdx f) else none
  | _ => none

/-- A doorbell write that is ignored (R376). -/
def State.badDoorbell (s : State) (k : Nat) : State := (s.bump (viewP k + 0x608) 1).setErr (viewP k) 2

def execSqTailWrite (f : Fn) (q : Fin 16) (v : BitVec 16) (s : State) : Outc :=
  let s := s.access f
  match s.queueView f with
  | none => .next s
  | some k =>
    if !qOn (s.reg (sqReg k q)) || decide (ringSize (s.reg (sqReg k q + 8)) ≤ v.toNat) then .next (s.badDoorbell k)
    else .next (s.modHost k (fun h => { h with sqTail := Tab.set z0 h.sqTail q v.toNat }))

def execCqHeadWrite (f : Fn) (q : Fin 16) (v : BitVec 16) (s : State) : Outc :=
  let s := s.access f
  match s.queueView f with
  | none => .next s
  | some k =>
    if !qOn (s.reg (cqReg k q)) || decide (ringSize (s.reg (cqReg k q + 8)) ≤ v.toNat) then .next (s.badDoorbell k)
    else .next (s.modHost k (fun h => { h with cqHead := Tab.set z0 h.cqHead q v.toNat }))

/-- Enabling a queue: head and tail 0 and, for a CQ, phase 1 and no reservation (R373). -/
def HostFn.enable (h : HostFn) (cq : Bool) (q : Nat) : HostFn :=
  if cq then { h with
    cqTail := Tab.set z0 h.cqTail q 0, cqHead := Tab.set z0 h.cqHead q 0, phase := Tab.set (fun _ => false) h.phase q false
    rsv := Tab.set z0 h.rsv q 0, agg := Tab.set z0 h.agg q 0, timer := Tab.set (fun _ => none) h.timer q none
    cqGen := Tab.set z0 h.cqGen q (Tab.get z0 h.cqGen q + 1) }
  else { h with sqTail := Tab.set z0 h.sqTail q 0, sqHead := Tab.set z0 h.sqHead q 0 }

/-- HOST_SQ_BASE or HOST_CQ_BASE of queue q is written (R391). -/
def State.queueBase (s : State) (f : Fn) (cq : Bool) (q : Nat) (v : Word) : State :=
  match s.queueView f with
  | none => s
  | some k =>
    let a := if cq then cqReg k q else sqReg k q
    let new : Word := BitVec.ofNat 64 (fld v 6 44 * 64)
    let size := (if cq then 32 else 64) * ringSize (s.reg (a + 8))
    let on := v.getLsbD 0
    if qOn (s.reg a) then
      if on then s
      else (s.setReg a new).modHost k (fun h => if cq then { h with timer := Tab.set (fun _ => none) h.timer q none } else h)
    else if !on then s.setReg a new
    else
      let inside := match s.fnPart f with
        | some p => s.inAlloc p new size
        | none => false
      if inside then (s.setReg a (new ||| 1)).modHost k (fun h => h.enable cq q)
      else (s.setReg a new).setErr (viewP k) 1

/-- A write of HOST_SQ_BASE or HOST_CQ_BASE. -/
def execQueueEnableWrite (f : Fn) (cq : Bool) (q : Fin 16) (v : Word) (s : State) : Outc := .next ((s.access f).queueBase f cq q v)

/-- TIMER_US has passed since the first entry that is not yet signalled (R380). -/
def execCqTimerExpiry (f : Fn) (q : Fin 16) (s : State) : Outc :=
  match Tab.get (fun _ => none) (s.host (fnIdx f)).timer q with
  | some t =>
    if fld (s.reg (cqReg (fnIdx f) q + 8)) 24 8 * 100 ≤ (s.clk - t).toNat then .next (s.cqSignal (fnIdx f) q) else .next s
  | none => .next s

/-- VF Enable and NumVFs enable the VF of function number `k` (R370, R391). -/
def State.vfEnabled (s : State) (k : Nat) : Bool := s.fnThere (fnOfIdx k)

/-- Rules of R391 and R367 on HOST_VF_BIND. -/
def State.bindOk (s : State) (b : Nat) : Bool :=
  (List.range 16).all (fun n =>
    let w := s.reg (bindA b n)
    let bound (m : Nat) : Bool := (s.reg (bindA b m)).getLsbD 7
    (decide (w &&& 0x8F = s.inForce (bindA b n) &&& 0x8F) || !s.vfEnabled (3 + 16 * b + n)) &&
    (!w.getLsbD 7 || (List.range n).all (fun m => !bound m || decide (fld (s.reg (bindA b m)) 0 4 ≠ fld w 0 4))))

/-- HOST_VF_BIND takes effect: the PF's view of its own port, or the service processor, which sees no HOST view and so
commits none. -/
def execHostCommit (f : Fn) (s : State) : Outc :=
  let s := s.access f
  match f with
  | .pf b => .next (s.commit f ⟨.host, portIdx b, viewP (1 + portIdx b)⟩
      (fun s => if s.bindOk (portIdx b) then .ok else .invalid) id)
  | _ => .next s

/-- Interrupt sources that stay set are pending at their masked vectors after a host-port reset (R369). -/
def State.pendSources (s : State) (b : HPort) : State :=
  (s.regs.keys.filter (fun a => decide (a % 0x1000 = 0x18))).foldl (fun s a =>
    let w := s.reg a
    match routeFn (fld (s.reg (a + 8)) 8 8) with
    | some k =>
      let live := decide (fld w 0 32 &&& fld w 32 32 ≠ 0)
      let allowed := !fnIsVf (fnOfIdx k) || ((s.irqOwner (a - 0x18)).isSome && decide (s.fnPart (fnOfIdx k) = s.irqOwner (a - 0x18)))
      if live && allowed && decide (fnPort (fnOfIdx k) = some b) then s.sendMsix k (fld (s.reg (a + 8)) 0 6) else s
    | none => s) s

/-- The link of a host port trains: its speed, width, flit mode and L0p are its partner's choice (R391, log entry 96). -/
def State.hostTrain (s : State) (b : HPort) : State :=
  ({ s with free := s.free + 1 } : State).modHost (1 + portIdx b) (fun h => { h with link := some (Config.hostLink s.free) })

/-- PERST# of a port (R369, R441): its configuration space, every register of its functions' HOST views but HOST_VF_BIND; its
link trains again. -/
def execPerst (b : HPort) (s : State) : Outc :=
  let ks := (1 + portIdx b) :: (List.range 16).map (fun n => 3 + 16 * portIdx b + n)
  let mine (a : Nat) : Bool := ks.any (fun k => decide ((viewP k ≤ a ∧ a < viewP k + 0x1000) ∨ (cfgP k ≤ a ∧ a < cfgP k + 0x1000))) &&
    !decide (bindA (portIdx b) 0 ≤ a ∧ a ≤ bindA (portIdx b) 15)
  let s1 := { s with
    regs := ⟨s.regs.cells.filter (fun c => !mine c.1)⟩
    latch := ks.foldl (fun t k => Tab.set (fun _ => none) t k none) s.latch
    colo := { s.colo with spdm := Tab.set (fun _ => {}) s.colo.spdm (portIdx b) {} } }
  let s2 := ks.foldl (fun s k => s.modHost k (fun h => { cqGen := h.cqGen, link := h.link })) s1
  let s3 := if ((s.host (1 + portIdx b)).link).isSome then s2.hostTrain b else s2
  .next (s3.pendSources b)

/-- A function returns to its state after a reset of its port: its configuration space, its vectors, its queues. -/
def State.fnReset (s : State) (k : Nat) : State :=
  (((({ s with regs := ⟨s.regs.cells.filter (fun c => !decide (cfgP k ≤ c.1 ∧ c.1 < cfgP k + 0x1000))⟩ } : State).maskVectors k)).disableQueues k)

/-- Function-level reset (R364, R388, R389): of a bound VF it resets the partition, and its queues are disabled at the reset's
end of step 6; any other function resets alone, a physical one with its VFs. -/
def State.flr (s : State) (f : Fn) : State :=
  let k := fnIdx f
  match f with
  | .sp => s
  | .pf b => (List.range 16).foldl (fun s n => s.fnReset (3 + 16 * portIdx b + n)) (s.fnReset k)
  | .vf _ _ =>
    if !s.fnThere f then s
    else match s.fnPart f with
    | none => s.fnReset k
    | some p =>
      let s1 := s.requestReset p (some k)
      if (s1.part p).reset = none then s1.fnReset k
      else { s1 with regs := ⟨s1.regs.cells.filter (fun c => !decide (cfgP k ≤ c.1 ∧ c.1 < cfgP k + 0x1000))⟩ }

def execFlr (f : Fn) (s : State) : Outc := .next (s.flr f)

/-! ### Configuration requests (R364, R366, R426) -/

/-- A host function answers configuration requests: start-up has ended, or the chip is in recovery mode, where a port presents its
PF only. -/
def State.cfgReady (s : State) (f : Fn) : Bool := decide (s.pwr.phase = 9) || (decide (s.pwr.phase = 15) && !fnIsVf f)

/-- Vectors that wait at the pending bit array and may go are sent. -/
def State.drainPba (s : State) (k : Nat) : State :=
  (List.range 64).foldl (fun s v =>
    if (s.reg (msixPba k)).getLsbD v && s.msixGo k v then (s.setField (msixPba k) v 1 0).sendMsix k v else s) s

/-- What a write of configuration space does beside storing the word; `old` is the state before, `x` the bits written. -/
def State.afterCfg (s old : State) (f : Fn) (o : Nat) (x : Word) : State :=
  let k := fnIdx f
  if o = 0x58 && x.getLsbD 15 then s.flr f
  else match f with
    | .pf b =>
      let off := (List.range 16).filter (fun n => decide (s.numVfs b ≤ n ∧ n < old.numVfs b))
      (off.foldl (fun s n => s.fnReset (3 + 16 * portIdx b + n)) s).drainPba k
    | _ => s.drainPba k

/-- A request of 4 or 8 bytes, aligned, within the 4 KiB of a configuration space. -/
def cfgShape (o size : Nat) : Bool := decide ((size = 4 ∨ size = 8) ∧ o % size = 0 ∧ o < 0x1000)

/-- A configuration write at offset `o`. -/
def State.cfgWrite (s : State) (f : Fn) (o size : Nat) (v : Word) : State :=
  if f = .sp || !s.fnThere f || !s.cfgReady f || !cfgShape o size then s
  else
    let a := cfgP (fnIdx f) + 0x40 + o / 8 * 8
    match (if o < 0xFC0 then rowOf a else none) with
    | none => s
    | some r =>
      let lo := 32 * (o % 8 / 4)
      let half := if size = 8 then 2 ^ 64 - 1 else (2 ^ 32 - 1) * 2 ^ lo
      let x : Word := (if size = 8 then v else (v &&& 0xFFFFFFFF#64) <<< lo) &&& w64 half
      let new := ((s.reg a &&& ~~~(w64 (r.rw &&& half))) ||| (x &&& w64 r.rw)) &&& ~~~(x &&& w64 r.wc)
      (s.setReg a new).afterCfg s f (o / 8 * 8) x

/-- A configuration read: Configuration Request Retry Status until the function is ready (R426). -/
def State.cfgRead (s : State) (f : Fn) (o size : Nat) : Resp :=
  if f = .sp || !s.fnThere f then { ur := true }
  else if !s.cfgReady f then { crs := true }
  else if !cfgShape o size then { ur := true }
  else
    let w := (s.cfg (fnIdx f) (o / 8 * 8)).toNat
    { bytes := leBytes size (w / 2 ^ (8 * (o % 8))) }

end Sys2Proof.Machine
end

