-- ==== Sys2Proof/Machine/RollCall.lean ====
section
/-! DEFINITION. Roll Call: heartbeats, loss, notices, fences and the ROLLCALL page (R396 to R403, R407 to R409). -/

namespace Sys2Proof.Machine

/-- INCARNATION of this chip: its power-cycle count (R394, R465). -/
def State.incarnation (s : State) : Nat := s.log.pcc % 2 ^ 24

def State.heartbeat (s : State) (q n : Nat) : List Byte :=
  leBytes 1 1 ++ leBytes 1 ((if s.faultMode then 1 else 0) + if s.nodeFenced (s.port q).partner then 2 else 0) ++ zeros 2 ++
  leBytes 4 n ++ leBytes 3 s.incarnation ++ zeros 5

/-- HB_US has passed since the last round: one HEARTBEAT, ahead of the port's other flits, on every UP port that is not fenced electrically. -/
def execHeartbeatSend (s : State) : Outc :=
  let n := (s.rc.hbSeq + 1) % 2 ^ 32
  let s0 := { s with rc := { s.rc with hbSeq := n, hbAt := s.clk } }
  if (s.clk - s.rc.hbAt).toNat < s.hbUs * 100 then .next s
  else .next ((List.range 8).foldl (fun s q =>
    if s.portUp q then
      (s.modPort q (fun x => x.setLq 5 (x.mine (s.ctlFlit q (s.heartbeat q n)) :: x.lq 5))).bump 0x8400 1
    else s) s0)

def execHeartbeatReceive (s : State) : Outc :=
  match s.takeCtl 1 with
  | none => .next s
  | some (q, bs, s0) =>
    .next ({ s0 with rc := { s0.rc with
      lastHb := Tab.set (fun _ => none) s0.rc.lastHb q (some s0.clk)
      inc := Tab.set z0 s0.rc.inc q (leAt bs 8 3)
      fencedBy := Tab.set (fun _ => false) s0.rc.fencedBy q (bit (bAt bs 1) 1) } }.bump 0x8408 1)

/-! ### Loss of a node (R398 to R402) -/

/-- Ports whose partner is node n; a port that has never been UP has no partner. -/
def State.portsTo (s : State) (n : Nat) : List Nat :=
  (List.range 8).filter (fun q => (Tab.get (fun _ => none) s.rc.lastHb q).isSome && decide ((s.port q).partner = n))
def State.portLost (s : State) (q : Nat) : Bool := (s.reg 0x8048).getLsbD (16 + q)

/-- Sets or clears the electrical fence of a port as its bit asks. -/
def State.setElec (s : State) (q : Nat) (on : Bool) : State :=
  if s.elecFence q = on then s
  else if on then (s.setField 0x8048 q 1 1).portLeavesUp q 0
  else (s.setField 0x8048 q 1 0).modPort q (fun x => { x with state := 1 })

/-- Whether partition p depends on node n: a valid member of its current map lies there, or one of its previous map while
PREV_LIVE is not 0. -/
def State.dependsOn (s : State) (p n : Nat) : Bool :=
  let on (t : Tab Nat) : Bool := (List.range 64).any (fun m => match memberEntry t m with
    | some e => decide (e.1 = n)
    | none => false)
  on (s.part p).curMap || (on (s.part p).prevMap && decide (s.prevLive p ≠ 0))

def lostMsg (n inc by_ : Nat) : List Byte := leBytes 1 2 ++ zeros 1 ++ leBytes 2 n ++ leBytes 3 inc ++ zeros 1 ++ leBytes 2 by_ ++ zeros 6

/-- The Gather batch of p that waits on node n ends with GU_ABORTED (R298). -/
def State.gatherLost (s : State) (p n : Nat) : State :=
  match (s.gu p).cur with
  | some b =>
    let m := (s.part p).map b.epoch
    s.guLost p ((List.range 64).filter (fun i => match memberEntry m i with
      | some e => decide (e.1 = n)
      | none => false))
  | none => s

/-- Node n is lost (R399); `from_` is the port of the notice that said so, `by_` the node that declared it. -/
def State.nodeLost (s : State) (n inc by_ : Nat) (from_ : Option Nat) : State :=
  let lost := (s.portsTo n).filter s.portLost
  let s0 := if s.faultMode then lost.foldl (fun s q => s.setElec q true) s else s
  let s1 := s0.setReg (0x8100 + n / 64 * 8) (s0.reg (0x8100 + n / 64 * 8) ||| (1#64 <<< (n % 64)))
  let s2 := if s1.faultMode then s1
    else ((List.range 8).filter (fun q => decide (from_ ≠ some q) && (from_.isSome || !lost.contains q))).foldl
      (fun s q => s.sendCtl q (lostMsg n inc by_)) s1
  let ps := (List.range 16).filter (fun p => s.dependsOn p n && decide (s.coresOf p ≠ []))
  let s3 := ps.foldl (fun s p => (s.gatherLost p n).requestReset p none) s2
  let s4 := lost.foldl (fun s q => s.barAbortPort q) s3
  let pm := sumNat (lost.map (2 ^ ·))
  let rm := sumNat (ps.map (2 ^ ·))
  let s5 := if (s4.reg 0x80C0).getLsbD 63 then s4
    else (s4.setReg 0x80C0 (BitVec.ofNat 64 (n + pm * 2 ^ 16 + rm * 2 ^ 32 + (if from_.isSome then 2 ^ 48 else 0) + 2 ^ 63))).setReg
      0x80C8 s4.clk
  let s6 := ((s5.bump 0x8410 1).setIrq 0x8000 0).logEv 0x0B20 5 none (leBytes 2 n ++ leBytes 1 pm ++ zeros 1 ++ leBytes 2 rm ++ zeros 10)
  { s6 with rc := { s6.rc with handled := s6.rc.handled ++ [(n, inc)] } }

/-- The age of port q since its last HEARTBEAT, in ticks of CLK_TIME; none before the port has been UP. -/
def State.hbAge (s : State) (q : Nat) : Option Nat := (Tab.get (fun _ => none) s.rc.lastHb q).map (fun t => (s.clk - t).toNat)

/-- The age of port q reaches MISS_LIMIT × HB_US: the partner is lost on it, and its node where no other port reaches it.
A loss that has been handled and whose fence still stands is not declared again. -/
def execHeartbeatMiss (q : PortId) (s : State) : Outc :=
  match s.hbAge q with
  | none => .next s
  | some a =>
    if s.portLost q || decide (a < s.missLimit * s.hbUs * 100) then .next s
    else
      let n := (s.port q).partner
      let inc := Tab.get z0 s.rc.inc q
      let s1 := (s.setField 0x8048 (16 + q) 1 1).barAbortPort q
      if (s1.portsTo n).all s1.portLost && !(s1.nodeFenced n && s1.rc.handled.contains (n, inc)) then
        .next (s1.nodeLost n inc s.node none)
      else .next s1

/-- A LOST notice (R400, R402). -/
def execLost (s : State) : Outc :=
  match s.takeCtl 2 with
  | none => .next s
  | some (q, bs, s0) =>
    let n := leAt bs 2 2 % 1024
    let inc := leAt bs 4 3
    let s1 := (s0.bump 0x8418 1).setIrq 0x8000 2
    if s1.nodeFenced (s1.port q).partner then .next s1
    else if n = s1.node then .next (s1.logEv 0x0B24 4 none [])
    else if s1.rc.handled.contains (n, inc) then .next s1
    else if s1.faultMode then .next (s1.logEv 0x0B20 5 none (leBytes 2 n ++ zeros 14))
    else .next (s1.nodeLost n inc (leAt bs 8 2 % 1024) (some q))

/-! ### The ROLLCALL page (R401, R403, R408) -/

def rcPage : Page := ⟨.rollcall, 0, 0x8000⟩

/-- A port that no flit of a barrier context may use. -/
def State.anyFence (s : State) (q : Nat) : Bool := s.portFenced q || s.elecFence q

/-- The low half of RC_PORT_FENCE is written: ELEC and LOGIC take effect at once, LOST bits are W1C. The contexts of the ports that
become fenced are aborted once all fences stand (R405). -/
def State.fencePorts (s : State) (v : Word) : State :=
  let s1 := (List.range 8).foldl (fun s q =>
    let s1 := (s.setElec q (v.getLsbD q)).setField 0x8048 (8 + q) 1 (if v.getLsbD (8 + q) then 1 else 0)
    if v.getLsbD (16 + q) then s1.setField 0x8048 (16 + q) 1 0 else s1) s
  ((List.range 8).filter (fun q => s1.anyFence q && !s.anyFence q)).foldl (fun s q => s.barAbortPort q) s1

/-- A write of RC_PORT_FENCE. -/
def execPortFenceWrite (f : Fn) (v : Word) (s : State) : Outc :=
  let s := s.access f
  if !s.seesPage f rcPage then .next s else .next (s.fencePorts v)

/-- A write of one RC_NODE_FENCE word. -/
def execNodeFenceWrite (f : Fn) (i : Fin 16) (v : Word) (s : State) : Outc :=
  let s := s.access f
  if !s.seesPage f rcPage then .next s else .next (s.setReg (0x8100 + 8 * i) v)

/-- Ranges of RC_CTRL and the rules of a valid context. -/
def State.rcOk (s : State) : Bool :=
  let w := s.reg 0x8040
  let range (lo hi v : Nat) : Bool := decide (lo ≤ v ∧ v ≤ hi)
  range 10 1000 (fld w 8 10) && range 2 15 (fld w 20 4) && range 8 64 (fld w 32 7) && range 1 64 (fld w 40 7) &&
  (List.range 16).all (fun b =>
    let c := s.reg (barCfg b)
    let parent := fld c 8 4
    let a : Word := BitVec.ofNat 64 (fld (s.reg (barCfg b + 8)) 6 44 * 64)
    decide (parent ≤ 8) && (!c.getLsbD 0 || (!(decide (parent < 8) && c.getLsbD (16 + parent)) && decide (1 ≤ fld c 32 16) &&
      decide (aSpace a = 0) && s.inAlloc (fld c 4 4) a 64)))

/-- RC_CTRL and the barrier contexts take effect: a context written since the last COMMIT is aborted if it runs, and starts
at generation 0. -/
def execRollcallCommit (f : Fn) (s : State) : Outc :=
  let s := s.access f
  let bs := (List.range 16).filter (fun b => Tab.get (fun _ => false) s.rc.touched b)
  let s1 := bs.foldl (fun s b => s.barAbort b none) s
  if !s.seesPage f rcPage then .next s
  else if !s.rcOk then .next (s.setErr 0x8000 1)
  else
    let s2 := s1.applyStaged rcPage
    .next { s2 with rc := { s2.rc with
      bars := bs.foldl (fun t b => Tab.set (fun _ => {}) t b {}) s2.rc.bars, touched := Tab.empty } }

end Sys2Proof.Machine
end

