-- ==== Sys2Proof/Machine/Log.lean ====
section
/-! DEFINITION. The Accession Log: taking events, buckets, summaries, overwriting, persistence, cursors, clearing (R464 to
R475). -/

namespace Sys2Proof.Machine

def logPage : Page := ⟨.log, 0, 0x5000⟩
def State.modLog (s : State) (f : Log → Log) : State := { s with log := f s.log }
def Log.count (l : Log) (k n : Nat) : Log :=
  { l with totals := Tab.set z0 l.totals k (min (2 ^ 64 - 1) (Tab.get z0 l.totals k + n)) }

/-- RATE, BURST and MIN_SEV of LOG_CTRL; 0 acts as 1. -/
def State.logRate (s : State) : Nat := max 1 (fld (s.reg 0x5040) 0 8)
def State.logBurst (s : State) : Nat := max 1 (fld (s.reg 0x5040) 8 8)
def State.logMinSev (s : State) : Nat := fld (s.reg 0x5040) 16 3

/-- Which records a function sees (R471): a VF those of its bound partition. -/
def State.seesRec (s : State) (k : Nat) (r : LogRec) : Bool :=
  !fnIsVf (fnOfIdx k) || (r.part.isSome && decide (r.part = s.fnPart (fnOfIdx k)))

def Log.cursor (l : Log) (k : Nat) : Cursor := Tab.get (fun _ => {}) l.cursors k
def Log.setCursor (l : Log) (k : Nat) (c : Cursor) : Log := { l with cursors := Tab.set (fun _ => {}) l.cursors k c }

/-! ### Records (R464, R469) -/

/-- The bytes of a record taken now. -/
def recBytes (code sev : Nat) (part : Option Nat) (summary : Bool) (opSec pcc sub : Nat) (data : List Byte) : List Byte :=
  leBytes 2 code ++ leBytes 1 (sev + (match part with
    | some p => 8 * p
    | none => 128)) ++ leBytes 1 (if summary then 1 else 0) ++ leBytes 4 opSec ++ leBytes 3 pcc ++ zeros 1 ++ leBytes 2 sub ++
  zeros 2 ++ (data ++ zeros 16).take 16

/-- The record that a full log gives up for one of severity `sev`: the oldest of no higher severity. -/
def Log.victim (l : Log) (sev : Nat) : Option LogRec := l.recs.find? (fun r => decide (r.sev ≤ sev))

/-- A cursor at the end takes a new visible record; one that has not reached the victim loses it. -/
def State.moveCursors (s : State) (new : LogRec) (old : Option LogRec) : State :=
  (List.range 35).foldl (fun s k =>
    let c := s.log.cursor k
    let gone := match old with
      | some v => decide (c.next ≤ v.num) && s.seesRec k v
      | none => false
    let c1 := if gone then { c with lost := c.lost + 1 } else c
    let c2 := if c1.shown = none ∧ s.seesRec k new then { next := new.num + 1, shown := some new, skipped := c1.lost, lost := 0 } else c1
    s.modLog (fun l => l.setCursor k c2)) s

/-- Takes a record into a free place, over the victim, or drops it (R469). -/
def State.placeRec (s : State) (code sev : Nat) (part : Option Nat) (summary : Bool) (data : List Byte) : State :=
  let l := s.log
  let full := decide (4096 ≤ l.recs.length)
  let v := if full then l.victim sev else none
  if full && v.isNone then s.modLog (fun l => l.count (8 + sev) 1)
  else
    let at_ := (l.opSec, l.pcc)
    let sub := if l.lastAt = at_ then min 0xFFFF l.subSeq else 0
    let r : LogRec := ⟨l.next, sev, part, recBytes code sev part summary l.opSec l.pcc sub data⟩
    let keep := match v with
      | some x => l.recs.filter (fun y => decide (y.num ≠ x.num))
      | none => l.recs
    let s1 := s.modLog (fun l => { l.count sev 1 with recs := keep ++ [r], next := l.next + 1, lastAt := at_, subSeq := min 0xFFFF (sub + 1) })
    s1.moveCursors r v

/-! ### Buckets (R467, R468) -/

/-- The bucket of a code and the buckets without it: its entry, a new one, or none where no entry qualifies. -/
def Log.takeBucket (l : Log) (code burst : Nat) : Option (Bucket × List Bucket) :=
  match l.buckets.find? (fun b => decide (b.code = code)) with
  | some b => some (b, l.buckets.filter (fun x => decide (x.code ≠ code)))
  | none =>
    let new : Bucket := { code := code, tokens := burst }
    if l.buckets.length < 256 then some (new, l.buckets)
    else match l.buckets.find? (fun b => decide (burst ≤ b.tokens ∧ b.supp = 0)) with
      | some b => some (new, l.buckets.erase b)
      | none => none

/-- Ticks of CLK_TIME since `t`; CLK_TIME starts anew at a supply reset, which the log survives (R40). -/
def State.since (s : State) (t : Nat) : Nat := if t ≤ s.clk.toNat then s.clk.toNat - t else s.clk.toNat

/-- An event passes its code's bucket: recorded, or suppressed. The refill timer starts when the bucket first falls below
BURST. -/
def State.takeEvent (s : State) (e : Event) : State :=
  let l := s.log
  match l.takeBucket e.code s.logBurst with
  | none => (s.modLog (fun l => l.count 18 1)).placeRec e.code e.sev e.part false e.data
  | some (b, rest) =>
    let put (b : Bucket) (s : State) : State := s.modLog (fun l => { l with buckets := rest ++ [b] })
    if 0 < b.tokens then
      (put { b with tokens := b.tokens - 1, since := if s.logBurst ≤ b.tokens then s.clk.toNat else b.since } s).placeRec e.code e.sev e.part false e.data
    else
      (put { b with
        supp := b.supp + 1
        sev := max b.sev e.sev
        first := if b.supp = 0 then l.opSec else b.first
        suppAt := if b.supp = 0 then s.clk.toNat else b.suppAt
        last := l.opSec
        parts := (match e.part with
          | some p => b.parts ||| 2 ^ p
          | none => b.parts)
        chip := b.chip || e.part.isNone } s).modLog (fun l => l.count 16 1)

/-- One event leaves the queue (R466). -/
def execLogEventTake (s : State) : Outc :=
  match s.log.queue with
  | [] => .next s
  | e :: r =>
    let s1 := s.modLog (fun l => { l with queue := r })
    .next (if e.sev < s.logMinSev then s1.modLog (fun l => l.count 17 1) else s1.takeEvent e)

/-- The summary of a bucket, which then holds no suppressed count. -/
def State.summary (s : State) (b : Bucket) : State :=
  let ps := (List.range 16).filter (bit b.parts)
  let part := match ps with
    | [p] => some p
    | _ => none
  let data := leBytes 4 b.supp ++ leBytes 4 b.first ++ leBytes 4 b.last ++ leBytes 2 b.parts ++ leBytes 1 (if b.chip then 1 else 0) ++ zeros 1
  (s.modLog (fun l => { l with buckets := l.buckets.map (fun x =>
    if x.code = b.code then { code := x.code, tokens := x.tokens, since := x.since } else x) })).placeRec b.code b.sev part true data

/-- The refill timer of a code's bucket: one token every 1 ÷ RATE s of CLK_TIME until the bucket is full, where a bucket that
holds a suppressed count writes its summary. -/
def execLogTokenRefill (code : BitVec 16) (s : State) : Outc :=
  match s.log.buckets.find? (fun b => decide (b.code = code.toNat)) with
  | none => .next s
  | some b =>
    if s.logBurst ≤ b.tokens then .next (if b.supp = 0 then s else s.summary b)
    else if s.since b.since * s.logRate < 100000000 then .next s
    else
      let b1 := { b with tokens := b.tokens + 1, since := b.since + 100000000 / s.logRate }
      let s1 := s.modLog (fun l => { l with buckets := l.buckets.map (fun x => if x.code = b.code then b1 else x) })
      .next (if s.logBurst ≤ b1.tokens ∧ b1.supp ≠ 0 then s1.summary b1 else s1)

/-- 60 s of CLK_TIME after the first suppression that a bucket has not summarised. -/
def execLogSummaryTimeout (code : BitVec 16) (s : State) : Outc :=
  match s.log.buckets.find? (fun b => decide (b.code = code.toNat)) with
  | none => .next s
  | some b => .next (if b.supp = 0 ∨ s.since b.suppAt < 6000000000 then s else s.summary b)

/-! ### Persistence (R465, R470) -/

/-- The image is copied and its slot is being written. -/
def State.persist' (s : State) (clean : Bool) : State :=
  s.modLog (fun l => { l with
    imgSeq := l.imgSeq + 1, slot := (l.slot + 1) % 32
    writing := some (⟨l.imgSeq + 1, clean, l.recs, l.totals, l.next⟩, false) })

/-- The log persists; a persistence that meets a slot being written follows that write. -/
def State.persistLog (s : State) (clean : Bool) : State :=
  if s.log.writing = none then s.persist' clean else s.modLog (fun l => { l with due := some (clean || l.due.getD false) })

/-- The log persists every 600 s of CLK_TIME. -/
def execLogPersist (s : State) : Outc :=
  if !s.pwr.standby || !periodEnds s.clk s.log.persistAt 60000000000 then .next s
  else .next ((s.modLog (fun l => { l with persistAt := s.clk })).persistLog false)

/-- The slot's write is over: the persistence that waits starts. -/
def State.persistNext (s : State) : State :=
  match s.log.due with
  | none => s
  | some c => (s.modLog (fun l => { l with due := none })).persist' c

/-- The write of the slot ends; one that fails to read back is retried once in the next slot. -/
def execLogPersistWriteDone (ok : Bool) (s : State) : Outc :=
  match s.log.writing with
  | none => .next s
  | some (img, again) =>
    let put (x : Option LogImage) (l : Log) : Log := { l with images := Tab.set (fun _ => none) l.images l.slot x }
    if ok then .next (s.modLog (fun l => { put (some img) l with writing := none })).persistNext
    else if again then .next ((s.modLog (fun l => { put none l with writing := none })).logEv 0x0F22 5 none []).persistNext
    else .next (s.modLog (fun l => { put none l with writing := some (img, true), slot := (l.slot + 1) % 32 }))

/-- One second of the always-on island; every 600 s the Power Manager stores the operating seconds. -/
def execOpSecondsTick (s : State) : Outc :=
  if !s.pwr.standby then .next s
  else .next (s.modLog (fun l => { l with
    opSec := l.opSec + 1, opSaved := if (l.opSec + 1) % 600 = 0 then l.opSec + 1 else l.opSaved }))

/-- The valid image with the highest sequence. -/
def Log.newest (l : Log) : Option LogImage :=
  (List.range 32).foldl (fun (best : Option LogImage) k =>
    match best, Tab.get (fun _ => none) l.images k with
    | none, x => x
    | some b, some x => if b.seq < x.seq then some x else some b
    | some b, none => some b) none

/-- Power-on of the log: PCC advances, the newest image is loaded, and an image without CLEAN is recorded (R465, R470). -/
def State.logPowerOn (s : State) : State :=
  let l := s.log
  let base : Log := { images := l.images, imgSeq := l.imgSeq, slot := l.slot, opSec := l.opSaved, opSaved := l.opSaved, pcc := (l.pcc + 1) % 2 ^ 24 }
  match l.newest with
  | none => { s with log := base }
  | some g =>
    let s1 := { s with log := { base with
      recs := g.recs, totals := g.totals, next := g.next
      cursors := (List.range 35).foldl (fun t k => Tab.set (fun _ => {}) t k { next := g.next }) Tab.empty } }
    if g.clean then s1 else s1.takeEvent { code := 0x0F21, sev := 4, part := none, data := [] }

/-! ### Cursors and clearing (R471, R473) -/

/-- The first visible record from number `n` on. -/
def State.nextRec (s : State) (k n : Nat) : Option LogRec := s.log.recs.find? (fun r => decide (n ≤ r.num) && s.seesRec k r)

/-- The function's cursor arrives at the next visible record from number `n` on, or at the end. -/
def State.arrive (s : State) (k n skipped : Nat) : State :=
  s.modLog (fun l => l.setCursor k (match s.nextRec k n with
    | some r => { next := r.num + 1, shown := some r, skipped := skipped, lost := 0 }
    | none => { next := l.next, shown := none, skipped := skipped, lost := 0 }))

def execLogCursor (f : Fn) (atEnd : Bool) (s : State) : Outc :=
  let s := s.access f
  if !s.seesPage f logPage then .next s
  else .next (s.arrive (fnIdx f) (if atEnd then s.log.next else 0) 0)

/-- A read that includes byte 0x13F. -/
def execLogWindowAdvance (f : Fn) (s : State) : Outc :=
  let s := s.access f
  let c := s.log.cursor (fnIdx f)
  if !s.seesPage f logPage ∨ c.shown = none then .next s else .next (s.arrive (fnIdx f) c.next c.lost)

/-- LOG_CLEAR: a physical function, with the key. -/
def execLogClear (f : Fn) (key : BitVec 16) (s : State) : Outc :=
  let s := s.access f
  match f with
  | .pf b =>
    if !s.seesPage f logPage ∨ key ≠ 0xC1EA then .next s
    else
      let n := s.log.recs.length
      let s1 := s.modLog (fun l => { l with
        recs := [], buckets := []
        cursors := (List.range 35).foldl (fun t k => Tab.set (fun _ => {}) t k { next := l.next }) l.cursors })
      .next ((s1.takeEvent { code := 0x0F20, sev := 3, part := none, data := leBytes 1 (portIdx b) ++ zeros 3 ++ leBytes 4 n }).persistLog false)
  | _ => .next s

end Sys2Proof.Machine
end

