-- ==== Sys2Proof/Machine/Colophon.lean ====
section
/-! DEFINITION. Colophon: images and their checks, measurement registers, firmware stage and SPDM (R432 to R445). -/

namespace Sys2Proof.Machine

def coloPage : Page := ⟨.colophon, 0, 0x7000⟩
def State.modColo (s : State) (f : Colophon → Colophon) : State := { s with colo := f s.colo }
/-- `bs` as exactly `n` bytes. -/
def fit (n : Nat) (bs : List Byte) : List Byte := (bs ++ zeros n).take n

/-! ### Images (R435, R436) -/

/-- An image in a memory: where it starts. -/
structure Image where
  mem  : Mem
  base : Nat
def Image.at_ (i : Image) (off n : Nat) : List Byte := Mem.bytes i.mem (i.base + off) n
def Image.n (i : Image) (off n : Nat) : Nat := leNat (i.at_ off n)
def Image.keyGen (i : Image) : Nat := i.n 5 1
def Image.svn (i : Image) : Nat := i.n 6 1
def Image.minSvn (i : Image) : Nat := i.n 7 1
def Image.revoke (i : Image) : Nat := i.n 8 1
def Image.header (i : Image) : List Byte := i.at_ 0 256

/-- MAGIC, TYPE, zero fields, BODY_BYTES and the version fields. -/
def Image.formatOk (i : Image) (type : Nat → Bool) (limit : Nat) : Bool :=
  decide (i.n 0 4 = 0x47534346) && type (i.n 4 1) && decide (i.keyGen < 4 ∧ i.svn ≤ 128 ∧ i.minSvn ≤ i.svn ∧ i.revoke < 16) &&
  !bit i.revoke i.keyGen && zeroAt (i.at_ 9 7) 0 7 && zeroAt (i.at_ 20 4) 0 4 && zeroAt (i.at_ 72 184) 0 184 &&
  zeroAt (i.at_ 688 16) 0 16 && zeroAt (i.at_ 17312 32) 0 32 && decide (1 ≤ i.n 16 4 ∧ i.n 16 4 ≤ limit)

/-- The first check of R436 that fails, as its code; 0 where the image verifies. -/
def Image.check (i : Image) (type : Nat → Bool) (limit : Nat) (digest : Nat → List Byte) (revoked : Nat → Bool) (svn : Nat) : Nat :=
  if !i.formatOk type limit then 0x0D04
  else if Config.sha384 (i.at_ 256 384) ++ Config.sha384 (i.at_ 640 48) ≠ digest i.keyGen then 0x0D01
  else if revoked i.keyGen then 0x0D02
  else if i.svn < svn then 0x0D03
  else if Config.sha384 (i.at_ 17344 (i.n 16 4)) ≠ i.at_ 24 48 then 0x0D05
  else if Config.rsaVerify (i.at_ 256 384) i.header (i.at_ 704 384) && Config.slhVerify (i.at_ 640 48) i.header (i.at_ 1088 16224) then 0
  else 0x0D05

/-- The two images of a slot: stage one and service firmware. -/
def slotBase (k : Nat) : Nat := 0x100000 + k * 0x1800000
def State.stageOne (s : State) (k : Nat) : Image := ⟨s.colo.nor, slotBase k⟩
def State.service (s : State) (k : Nat) : Image := ⟨s.colo.nor, slotBase k + 0x400000⟩

/-- The lowest security version accepted: the set bits of FW_SVN (R432). -/
def fuseCount (w : BitVec 128) : Nat := ((List.range 128).filter (fun i => w.getLsbD i)).length

/-- Colophon's check of one image of a slot. -/
def State.coloCheck (s : State) (svc : Bool) (k : Nat) : Nat :=
  (if svc then s.service k else s.stageOne k).check (fun t => decide (t = if svc then 2 else 1)) (if svc then 20954176 else 4176960)
    Config.keyDigest (fun g => s.colo.revoke.getLsbD g) (fuseCount s.colo.fwSvn)

/-- Checks an image and counts the outcome (R445). -/
def State.coloVerify (s : State) (svc : Bool) (k : Nat) : State × Nat :=
  let c := s.coloCheck svc k
  (s.bump (if c = 0 then 0x7400 else 0x7408) 1, c)

/-! ### The boot directory (R434) -/

/-- A directory copy: its sequence and ACTIVE_SLOT, where its CRC is right. -/
def State.dirCopy (s : State) (c : Nat) : Option (Nat × Nat) :=
  let b := Mem.bytes s.colo.nor (c * 0x8000) 12
  if leAt b 8 4 = crc32c (b.take 5) then some (leAt b 0 4, bAt b 4 % 2) else none
/-- The copy in force with its sequence and slot; slot 0 where no copy is valid. -/
def State.dir (s : State) : Option Nat × Nat × Nat :=
  match s.dirCopy 0, s.dirCopy 1 with
  | some a, some b => if a.1 < b.1 then (some 1, b.1, b.2) else (some 0, a.1, a.2)
  | some a, none => (some 0, a.1, a.2)
  | none, some b => (some 1, b.1, b.2)
  | none, none => (none, 0, 0)

/-! ### Measurement registers (R438) -/

def State.mr (s : State) (i : Nat) : List Byte := Tab.get (fun _ => zeros 48) s.colo.mr i
def State.extend (s : State) (i : Nat) (d : List Byte) : State :=
  s.modColo (fun c => { c with
    mr := Tab.set (fun _ => zeros 48) c.mr i (Config.sha384 (s.mr i ++ d))
    mrCnt := Tab.set z0 c.mrCnt i ((Tab.get z0 c.mrCnt i + 1) % 65536) })

/-- The fuse fields that MR0 measures: all but DEVICE_SECRET, in the order of R432. -/
def State.fuseBytes (s : State) : List Byte :=
  leBytes 8 Config.serial.toNat ++ (List.range 4).flatMap Config.keyDigest ++ leBytes 1 s.colo.revoke.toNat ++
  leBytes 16 s.colo.fwSvn.toNat

/-- A write of COLO_EXTEND_CTRL by a physical function (R438). -/
def execMrExtend (f : Fn) (v : BitVec 3) (s : State) : Outc :=
  let s := s.access f
  if f = .sp ∨ fnIsVf f ∨ !s.seesPage f coloPage ∨ v.toNat < 6 then .next s
  else .next (s.extend v.toNat ((List.range 6).flatMap (fun k => leBytes 8 (s.reg (0x7300 + 8 * k)).toNat)))

/-! ### Firmware stage (R442, R443) -/

/-- COLO_STAGE_CTRL.PUSH: 2 KiB of the window go to the slot that is not in force. -/
def execPush (f : Fn) (off : BitVec 14) (s : State) : Outc :=
  let s := s.access f
  if !s.seesPage f coloPage then .next s
  else if s.colo.pushing ≠ none ∨ s.colo.stage ≠ none then .next (s.bump 0x7418 1)
  else if 12287 < off.toNat then .next s
  else .next (s.modColo (fun c => { c with
    pushing := some (off.toNat, (List.range 256).flatMap (fun k => leBytes 8 (s.reg (0x7800 + 8 * k)).toNat)) }))

/-- The program of a push ends; 2 KiB that fail to read back hold free values, and the next stage fails. -/
def execPushDone (ok : Bool) (s : State) : Outc :=
  match s.colo.pushing with
  | none => .next s
  | some (off, bs) =>
    let a := slotBase (1 - s.dir.2.2) + off * 2048
    let data := if ok then bs else (List.range 256).flatMap (fun k => leBytes 8 (Config.freeWord (s.free + k)).toNat)
    .next ({ s with free := if ok then s.free else s.free + 256 }.modColo (fun c => { c with
      pushing := none, pushBad := c.pushBad || !ok, nor := Mem.putBytes c.nor a data }))

def State.stageLosw (s : State) (f : Losw → Losw) : State := s.modColo (fun c => { c with losw := f c.losw })

/-- COLO_LOSW of a stage that runs. -/
def stageRuns (n : Nat) : Losw := { op := 0x0B, state := 2, prog := n, total := 3, part := 0xFFFFFFFF }
/-- A stage ends FAILED. -/
def State.stageFail (s : State) (code : Nat) : State :=
  (s.modColo (fun c => { c with stage := none })).stageLosw (fun l => { l with state := 4, error := code })

/-- OP 0x0B is written to COLO_LOSW. DESIGN CHOICE: where a stage runs, COLO_LOSW shows FAILED with FW_STAGE_BUSY until
the running stage reports its next progress (log entry 98). -/
def State.stageStart (s : State) : State :=
  if s.colo.stage ≠ none then s.stageLosw (fun l => { l with state := 4, error := 0x0D07 })
  else
    let s0 := s.modColo (fun c => { c with stage := some 0, pushBad := false, losw := stageRuns 0 })
    if s.colo.pushBad then s0.stageFail 0x0D06 else s0

/-- The next image of the stage is verified: the stage one image, then the service image. -/
def State.stageVerify (s : State) (n : Nat) : State :=
  let r := s.coloVerify (decide (n = 1)) (1 - s.dir.2.2)
  let t := r.1.stageLosw (fun _ => stageRuns n)
  if r.2 ≠ 0 then t.stageFail r.2
  else t.modColo (fun c => { c with stage := some (n + 1), losw := stageRuns (n + 1) })

/-- The directory copy that is not in force is written to name the other slot; `ok`: it reads back. -/
def State.stageWrite (s : State) (ok : Bool) : State :=
  let d := s.dir
  let k := 1 - d.2.2
  let q := (d.2.1 + 1) % 2 ^ 32
  let b := leBytes 4 q ++ leBytes 1 k
  let copy := match d.1 with
    | some c => 1 - c
    | none => 0
  if !ok then (s.stageLosw (fun _ => stageRuns 2)).stageFail 0x0D06
  else
    let s1 := s.modColo (fun c => { c with nor := Mem.putBytes c.nor (copy * 0x8000) (b ++ zeros 3 ++ leBytes 4 (crc32c b)) })
    let s2 := (s1.extend 4 (Config.sha384 (s1.service k).header)).extend 5 (Config.sha384 (leBytes 1 k ++ leBytes 4 q))
    ((s2.modColo (fun c => { c with stage := none })).stageLosw (fun _ => { stageRuns 3 with state := 3 })).logEv 0x0D24 2 none []

/-- Long operation 0x0B. `part` absent: a physical function starts it; else the running stage's next part ends: the
verification of the stage one image, of the service image, or the directory write, of which `ok` says whether it reads back. -/
def execFirmwareStage (f : Fn) (part : Option Bool) (s : State) : Outc :=
  match part with
  | none =>
    let s := s.access f
    .next (if fnIsVf f ∨ !s.seesPage f coloPage then s else s.stageStart)
  | some ok =>
    match s.colo.stage with
    | none => .next s
    | some n => .next (if n < 2 then s.stageVerify n else s.stageWrite ok)

/-! ### Boot (R437) -/

/-- A slot that fails is logged. -/
def State.bootFail (s : State) (code : Nat) : State × Bool :=
  (s.logEv 0x0D20 5 none (leBytes 2 code ++ zeros 14), false)

/-- A slot whose two images are valid is measured and booted. -/
def State.bootGood (s : State) (k : Nat) : State :=
  ((s.extend 1 (Config.sha384 (s.stageOne k).header)).extend 2 (Config.sha384 (s.service k).header)).modColo (fun c => { c with
    bootSlot := k, keyGen := (s.stageOne k).keyGen, imgSvn := (s.stageOne k).svn, recovery := false })

/-- A slot that step 2 tries: verified and measured, or failed and logged. -/
def State.trySlot (s : State) (k : Nat) : State × Bool :=
  let r1 := s.coloVerify false k
  if r1.2 ≠ 0 then r1.1.bootFail r1.2
  else
    let r2 := r1.1.coloVerify true k
    if r2.2 ≠ 0 then r2.1.bootFail r2.2 else (r2.1.bootGood k, true)

/-- The other slot, then recovery mode, which R427 logs as a failure of Colophon's block too. -/
def State.bootOther (s : State) (k : Nat) : State :=
  let q := s.trySlot k
  if q.2 then q.1
  else ((q.1.modColo (fun c => { c with recovery := true })).logEv 0x0D21 6 none []).logEv 0x0C24 5 none (leBytes 1 0x13 ++ zeros 15)

/-- Step 2 of start-up: the slot that ACTIVE_SLOT names, then the other; else recovery mode. -/
def State.bootSlots (s : State) : State :=
  let k := s.dir.2.2
  let r := s.trySlot k
  if r.2 then r.1 else r.1.bootOther (1 - k)

/-- Burns one fuse; whether it reads back is a free value. -/
def State.burn (s : State) (good : Colophon → Colophon) : State :=
  let s1 := { s with free := s.free + 1 }
  if Config.freeBit s.free then (s1.modColo good).logEv 0x0D22 2 none [] else s1.logEv 0x0D23 5 none []

/-- The fuses that raise FW_SVN to `n`: the lowest of those not yet burned. -/
def svnFuses (w : BitVec 128) (n : Nat) : List Nat := ((List.range 128).filter (fun i => !w.getLsbD i)).take (n - fuseCount w)

/-- PHASE first reaches 9 after a power-on: FW_SVN rises to the smaller MIN_SVN, and the REVOKE bits are burned. -/
def State.burnFuses (s : State) : State :=
  if s.colo.burned then s
  else
    let a := s.stageOne s.colo.bootSlot
    let b := s.service s.colo.bootSlot
    let s1 := (svnFuses s.colo.fwSvn (min a.minSvn b.minSvn)).foldl (fun s i =>
      s.burn (fun c => { c with fwSvn := c.fwSvn ||| (1#128 <<< i) })) s
    let s2 := (List.range 4).foldl (fun s g =>
      if bit (a.revoke ||| b.revoke) g && !s.colo.revoke.getLsbD g then s.burn (fun c => { c with revoke := c.revoke ||| (1#4 <<< g) })
      else s) s1
    s2.modColo (fun c => { c with burned := true })

/-! ### SPDM (R439 to R441) -/

def State.spdm (s : State) (b : HPort) : Spdm := Tab.get (fun _ => {}) s.colo.spdm (portIdx b)
def State.modSpdm (s : State) (b : HPort) (f : Spdm → Spdm) : State :=
  s.modColo (fun c => { c with spdm := Tab.set (fun _ => {}) c.spdm (portIdx b) (f (s.spdm b)) })

/-- SPDM error codes that the model answers with. -/
def invalidRequest : Nat := 0x01
def unexpectedRequest : Nat := 0x04
def largeResponse : Nat := 0x0F

/-- ERROR with a code. -/
def State.spdmError (s : State) (code : Nat) : State := { s with resp := { status := code } }

/-- Colophon takes a request of a port whose connection is at least in state `least`; before, it answers ERROR. -/
def State.spdmTake (s : State) (least : Nat) (b : HPort) (body : State → State) : Outc :=
  if s.pwr.phase ≠ 9 ∧ s.pwr.phase ≠ 15 then .next s
  else
    let s1 := s.bump 0x7410 1
    .next (if (s.spdm b).state < least then s1.spdmError unexpectedRequest else body s1)

/-- A response: request code, the request's fields and state-dependent data in the layout of DMTF SPDM; request and response
enter the transcript. -/
def State.spdmAnswer (s : State) (b : HPort) (code : Nat) (req data : List Byte) : State :=
  let r := Config.spdmBody code data
  { s with resp := { bytes := r } }.modSpdm b (fun x => { x with script := x.script ++ Config.spdmBody (512 + code) req ++ r })

/-- A response that exceeds DataTransferSize is returned by CHUNK_GET. -/
def State.spdmLarge (s : State) (b : HPort) (r : List Byte) : State :=
  (s.modSpdm b (fun x => { x with large := r })).spdmError largeResponse

/-- A response signed by the RSA identity key over the prefix and the transcript's hash. -/
def State.spdmSigned (s : State) (b : HPort) (code : Nat) (req data : List Byte) : State :=
  let x := s.spdm b
  let msg := Config.spdmBody (256 + code) (Config.sha384 (x.script ++ Config.spdmBody (512 + code) req ++ Config.spdmBody code data))
  (s.spdmAnswer b code req (data ++ Config.rsaSign Config.deviceSecret msg)).modSpdm b (fun x => { x with signed := some msg })

/-- GET_VERSION starts the connection anew. -/
def State.answerVersion (s : State) (b : HPort) : State := (s.modSpdm b (fun _ => { state := 1 })).spdmAnswer b 0x84 [] []

/-- CERT_CAP, CHAL_CAP, MEAS_CAP with signature and CHUNK_CAP, at their places in SPDM's Flags (log entry 19). -/
def spdmFlags : Nat := 2 ^ 1 + 2 ^ 2 + 2 ^ 4 + 2 ^ 17
/-- The Flags and DataTransferSize. -/
def State.answerCapabilities (s : State) (b : HPort) : State :=
  (s.spdmAnswer b 0xE1 [] (leBytes 4 spdmFlags ++ leBytes 4 4096)).modSpdm b (fun x => { x with state := max 2 x.state })

/-- `base`, `hash`: the request offers TPM_ALG_RSAPSS_3072 and TPM_ALG_SHA_384, which are chosen: BaseAsymSel,
BaseHashSel and MeasurementHashAlgo as SPDM numbers them (log entry 19). -/
def State.answerAlgorithms (s : State) (b : HPort) (base hash : Bool) : State :=
  if base && hash then
    (s.spdmAnswer b 0xE3 [] (leBytes 4 8 ++ leBytes 4 2 ++ leBytes 4 4)).modSpdm b (fun x => { x with state := 3 })
  else s.spdmError invalidRequest

def State.answerDigests (s : State) (b : HPort) : State := s.spdmAnswer b 0x81 [] (Config.sha384 Config.rsaChain)

/-- A portion of the chain; with the 8 bytes of the message's header it may exceed DataTransferSize (log entry 19). -/
def State.answerCertificate (s : State) (b : HPort) (slot off len : Nat) : State :=
  let part := (Config.rsaChain.drop off).take len
  if slot ≠ 0 ∨ Config.rsaChain.length < off then s.spdmError invalidRequest
  else if 4096 < 8 + part.length then s.spdmLarge b (Config.spdmBody 0x82 part)
  else s.spdmAnswer b 0x82 (leBytes 1 slot ++ leBytes 2 off ++ leBytes 2 len) part

def State.answerChallenge (s : State) (b : HPort) (slot : Nat) (nonce : List Byte) : State :=
  if slot ≠ 0 then s.spdmError invalidRequest
  else s.spdmSigned b 0x83 (leBytes 1 slot ++ nonce) (Config.sha384 Config.rsaChain)

/-- Indices 1 to 8 are MR0 to MR7; 0xFD the manifest; 0xFF all; 0 their number. -/
def State.measurement (s : State) (i : Nat) : Option (List Byte) :=
  let manifest := (List.range 8).flatMap (fun k => leBytes 2 (Tab.get z0 s.colo.mrCnt k)) ++ leBytes 8 Config.serial.toNat
  if i = 0 then some (leBytes 1 9)
  else if i ≤ 8 then some (s.mr (i - 1))
  else if i = 0xFD then some manifest
  else if i = 0xFF then some ((List.range 8).flatMap s.mr ++ manifest)
  else none

def State.answerMeasurements (s : State) (b : HPort) (index : Nat) (sign : Bool) (nonce : List Byte) : State :=
  match s.measurement index with
  | none => s.spdmError invalidRequest
  | some m =>
    let req := leBytes 1 (if sign then 1 else 0) ++ leBytes 1 index ++ nonce
    if sign then s.spdmSigned b 0xE0 req m else s.spdmAnswer b 0xE0 req m

/-- GET_PQ_CERT: the chain's length and a portion of it (R440). -/
def State.answerPqCert (s : State) (b : HPort) (off len : Nat) : State :=
  if 4000 < len then s.spdmError invalidRequest
  else s.spdmAnswer b 0x7E (leBytes 1 1 ++ leBytes 4 off ++ leBytes 2 len)
    (leBytes 4 Config.slhChain.length ++ (Config.slhChain.drop off).take len)

/-- GET_PQ_SIG: the SLH-DSA signature over what the port's last signed response signed (R440). -/
def State.answerPqSig (s : State) (b : HPort) : State :=
  match (s.spdm b).signed with
  | none => s.spdmError invalidRequest
  | some m => s.spdmLarge b (fit 16224 (Config.slhSign Config.deviceSecret m))

def execGetVersion (b : HPort) (s : State) : Outc := s.spdmTake 0 b (·.answerVersion b)
def execGetCapabilities (b : HPort) (s : State) : Outc := s.spdmTake 1 b (·.answerCapabilities b)
def execNegotiateAlgorithms (b : HPort) (base hash : Bool) (s : State) : Outc := s.spdmTake 2 b (·.answerAlgorithms b base hash)
def execGetDigests (b : HPort) (s : State) : Outc := s.spdmTake 3 b (·.answerDigests b)
def execGetCertificate (b : HPort) (slot off len : Nat) (s : State) : Outc := s.spdmTake 3 b (·.answerCertificate b slot off len)
def execChallenge (b : HPort) (slot : Nat) (nonce : List Byte) (s : State) : Outc := s.spdmTake 3 b (·.answerChallenge b slot nonce)
def execGetMeasurements (b : HPort) (index : Nat) (sign : Bool) (nonce : List Byte) (s : State) : Outc :=
  s.spdmTake 3 b (·.answerMeasurements b index sign nonce)
def execGetPqCert (b : HPort) (off len : Nat) (s : State) : Outc := s.spdmTake 3 b (·.answerPqCert b off len)
def execGetPqSig (b : HPort) (s : State) : Outc := s.spdmTake 3 b (·.answerPqSig b)

/-- Serves a request that chunks have carried: in the connection state that it needs, as on its own. -/
def State.spdmServe (s : State) (b : HPort) (r : SpdmReq) : State :=
  let need (least : Nat) (t : State) : State := if (s.spdm b).state < least then s.spdmError unexpectedRequest else t
  match r with
  | .getVersion => s.answerVersion b
  | .getCapabilities => need 1 (s.answerCapabilities b)
  | .negotiateAlgorithms base hash => need 2 (s.answerAlgorithms b base hash)
  | .getDigests => need 3 (s.answerDigests b)
  | .getCertificate slot off len => need 3 (s.answerCertificate b slot off len)
  | .challenge slot nonce => need 3 (s.answerChallenge b slot nonce)
  | .getMeasurements index sign nonce => need 3 (s.answerMeasurements b index sign nonce)
  | .getPqCert off len => need 3 (s.answerPqCert b off len)
  | .getPqSig => need 3 (s.answerPqSig b)

/-- A chunk of a large request: acknowledged and collected; the last one makes the request `last`, whose response the
acknowledgement carries. -/
def execChunkSend (b : HPort) (last : Option SpdmReq) (data : List Byte) (s : State) : Outc :=
  s.spdmTake 2 b (fun s => match last with
    | none => { s with resp := { bytes := Config.spdmBody 0x85 [] } }.modSpdm b (fun x => { x with gather := x.gather ++ data })
    | some r =>
      let t := (s.modSpdm b (fun x => { x with gather := [] })).spdmServe b r
      { t with resp := { t.resp with bytes := Config.spdmBody 0x85 t.resp.bytes } })

/-- Chunk k of the large response. A chunk holds what DataTransferSize leaves beside the 12-byte header. -/
def execChunkGet (b : HPort) (k : Nat) (s : State) : Outc :=
  s.spdmTake 2 b (fun s =>
    let c := ((s.spdm b).large.drop (4084 * k)).take 4084
    if c = [] then s.spdmError invalidRequest else { s with resp := { bytes := Config.spdmBody 0x86 c } })

end Sys2Proof.Machine
end

