-- ==== Sys2Proof/Machine/Meter.lean ====
section
/-! DEFINITION. The Ream Meter: totals, energy, records, the I²C commands, the seal and the mirror page (R446 to R463). -/

namespace Sys2Proof.Machine

def State.modMeter (s : State) (f : Meter → Meter) : State := { s with meter := f s.meter }
def Meter.total (m : Meter) (p k : Nat) : Nat := Tab.get z0 m.totals (p * 8 + k)

/-! ### Counting (R449, R451 to R453) -/

/-- An increment reaches the accumulator: a total saturates at 64 bits, CONFIG_SEQ at 32. -/
def execMeterIncrement (s : State) : Outc :=
  match s.meter.running, s.meter.arriving with
  | true, (k, n) :: r =>
    .next (s.modMeter (fun m => { m with
      arriving := r
      totals := Tab.set z0 m.totals k (min (if k % 8 = 7 then 2 ^ 32 - 1 else 2 ^ 64 - 1) (Tab.get z0 m.totals k + n)) }))
  | _, _ => .next s

/-- The integral of the measured power over one sample, in µJ. -/
def execEnergySample (uj : Nat) (s : State) : Outc :=
  if s.meter.running then .next (s.modMeter (fun m => { m with energy := m.energy + uj })) else .next s

/-- ENG_BUSY_CNT of a core's 16 engines together. -/
def State.engBusy (s : State) (c : Nat) : Nat :=
  sumNat ((List.range 16).map (fun e => (s.reg (engP c + 0x100 + e * 0x40 + 0x28)).toNat))

/-- The Power Manager's estimate, every 1 ms, of the energy since the last one: 70 % by engine busy cycles, 20 % by tier bytes,
10 % by cores owned (R453). A core counter that a reset took below its last value counts from zero. `estBusy` keeps the
values last seen: key p partition p's tier bytes, key 16 + c core c's busy cycles. -/
def execEnergyApportion (s : State) : Outc :=
  let m := s.meter
  let e := m.energy - m.estFrom
  let bytes (p : Nat) : Nat := m.total p 3 + m.total p 4 + m.total p 5
  let fresh (p : Nat) : Nat := bytes p - Tab.get z0 m.estBusy p
  let core (c : Nat) : Nat :=
    let old := Tab.get z0 m.estBusy (16 + c)
    if old ≤ s.engBusy c then s.engBusy c - old else s.engBusy c
  let busy (p : Nat) : Nat := sumNat ((s.coresOf p).map core)
  let share (pct : Nat) (f : Nat → Nat) (p : Nat) : Nat := e * pct * f p / (100 * max 1 (sumNat ((List.range 16).map f)))
  let add (p : Nat) : Nat := share 70 busy p + share 20 fresh p + share 10 (fun p => (s.coresOf p).length) p
  .next (s.modMeter (fun m => { m with
    estFrom := m.energy
    est := (List.range 16).foldl (fun t p => Tab.set z0 t p (Tab.get z0 t p + add p)) m.est
    estBusy := (List.range 144).foldl (fun t c => Tab.set z0 t (16 + c) (s.engBusy c))
      ((List.range 16).foldl (fun t p => Tab.set z0 t p (bytes p)) m.estBusy) }))

/-! ### Records (R454 to R456) -/

/-- Header of the running firmware image. -/
def Meter.image (m : Meter) (k : Nat) : Image := ⟨m.slots, k * 0x80000⟩

/-- The 1,088-byte body of the record being cut. -/
def Meter.body (m : Meter) (flags seq ticks : Nat) : List Byte :=
  leBytes 4 0x47534D54 ++ leBytes 2 1 ++ leBytes 2 flags ++ leBytes 8 seq ++ leBytes 8 Config.serial.toNat ++ leBytes 8 ticks ++
  leBytes 4 m.seconds ++ leBytes 4 m.pcc ++ leBytes 4 m.sealCnt ++ leBytes 4 (m.image m.slot).svn ++ leBytes 8 (min (2 ^ 64 - 1) (m.energy / 1000)) ++ zeros 8 ++
  (List.range 16).flatMap (fun p => (List.range 7).flatMap (fun k => leBytes 8 (m.total p k)) ++ leBytes 4 (m.total p 7) ++ zeros 4)

/-- Cuts the record that waits longest: its signing starts, and the totals and seconds are persisted. The interval of a
record that no other cut divides is INTERVAL_S; of any other, TICKS and the seconds passed are free values within it. Once
its image has cut a record, the ROM burns METER_SVN up to the image's MIN_SVN (R458). -/
def State.cutNext (s : State) : State :=
  let m := s.meter
  match m.running, m.signing, m.due with
  | true, none, fl :: rest =>
    let whole := decide (fl = 0 ∧ m.ticks = 0)
    let t := if whole then m.interval * 25000000 else (Config.freeWord s.free).toNat % (m.interval * 25000000 + 1)
    let sec := m.seconds + (if whole then m.interval else t / 25000000)
    let flags := fl + (if m.gap then 1 else 0) + (if m.unsealed then 2 else 0)
    let m1 := { m with seconds := sec, seq := m.seq + 1, due := rest }
    { s with free := s.free + 1 }.modMeter (fun _ => { m1 with
      signing := some (m1.body flags m1.seq t)
      svn := max m.svn (min 64 (m.image m.slot).minSvn)
      gap := false, unsealed := !m.sealed, ticks := if fl = 0 then 0 else 1
      savedT := m.totals, savedE := m.energy, savedS := sec })
  | _, _, _ => s

def execRecordCut (s : State) : Outc := .next s.cutNext

/-- The signatures are made, the record is readable, and the cut that waits is performed. -/
def execRecordSigningDone (s : State) : Outc :=
  match s.meter.signing with
  | none => .next s
  | some b =>
    let r := b ++ fit 384 (Config.rsaSign Config.meterSecret b) ++ fit 16224 (Config.slhSign Config.meterSecret b)
    let m := s.meter
    let ring := m.ring ++ [(leAt b 8 8, r)]
    .next (s.modMeter (fun m => { m with
      signing := none, ring := ring.drop (ring.length - 64) })).cutNext

/-- The end of an interval calls for a record. -/
def execMeterIntervalExpiry (s : State) : Outc :=
  if s.meter.running then .next (s.modMeter (fun m => { m with due := m.due ++ [0] })) else .next s

/-- The check of the meter firmware in slot `k`: R436 against APPROVAL_DIGEST with METER_SVN for FW_SVN. -/
def Meter.verdict (m : Meter) (k : Nat) : Nat :=
  (m.image k).check (fun t => decide (t = 1 ∨ t = 2)) (0x80000 - 17344) Config.approvalDigest (fun g => decide (1 < g)) m.svn
/-- The ROM accepts the firmware of slot `k`: it verifies, and SVN and MIN_SVN do not exceed 64. -/
def Meter.accepts (m : Meter) (k : Nat) : Bool :=
  decide (m.verdict k = 0 ∧ (m.image k).svn ≤ 64 ∧ (m.image k).minSvn ≤ 64)
/-- The ROM runs the firmware of slot `k`. DESIGN CHOICE: that of the slot last committed, and that of the other only where
the first is not accepted (log entry 98). -/
def Meter.boots (m : Meter) (k : Nat) : Bool := m.accepts k && (decide (k = m.slot) || !m.accepts m.slot)

/-- A meter start from the second slot or the first: the ROM verifies the firmware; with none that it accepts, the meter does
not run (R461). -/
def execMeterStart (slot : Bool) (s : State) : Outc :=
  let k := if slot then 1 else 0
  if s.meter.running || !s.pwr.standby || !s.meter.boots k then .next s
  else
    let s1 := s.modMeter (fun m => { m with running := true, pcc := m.pcc + 1, slot := k })
    .next (if s.meter.gap then s1.logEv 0x0E22 4 none [] else s1)

/-- The mirror page (R461 to R463): zero until the meter has started. -/
def execMirrorRefresh (s : State) : Outc :=
  let m := s.meter
  if !m.running then .next s
  else
    let w (n : Nat) : Word := BitVec.ofNat 64 (min n (2 ^ 64 - 1))
    let s1 := (((s.setReg 0x6040 (w ((if m.sealed then 1 else 0) + (if m.signing ≠ none then 2 else 0) + m.sealCnt * 2 ^ 16))).setReg 0x6048
      (w m.seq)).setReg 0x6050 (w (m.energy / 1000))).setReg 0x6058 (w m.interval)
    .next ((List.range 16).foldl (fun s p =>
      ((List.range 7).foldl (fun s k => s.setReg (0x6100 + p * 0x40 + 8 * k) (w (m.total p k))) s).setReg (0x6138 + p * 0x40)
        (w (Tab.get z0 m.est p / 1000))) s1)

/-! ### The seal (R459, R460) -/

/-- A configuration change: the fuse counter rises, the seal is broken, and a record is cut. -/
def State.breakSeal (s : State) : State :=
  (s.modMeter (fun m => { m with sealCnt := m.sealCnt + 1, sealed := false, unsealed := true, due := m.due ++ [8] })).logEv 0x0E20 4 none []

/-! ### I²C commands (R457, R458) -/

/-- The answer of a command: status and data. -/
def State.i2c (s : State) (status : Nat) (data : List Byte := []) : State := { s with resp := { bytes := data, status := status } }

/-- A command is taken: a bad CRC discards it, and a meter that is not running is busy. -/
def State.i2cTake (s : State) (crc : Bool) (body : State → State) : Outc :=
  if !s.pwr.standby then .next { s with resp := {} }
  else if !s.meter.running then .next (s.i2c 0x0E07)
  else if !crc then .next (s.i2c 0x0E02)
  else .next (body s)

/-- Newest and oldest SEQ held. -/
def Meter.held (m : Meter) : Nat × Nat := ((m.ring.getLast?.map Prod.fst).getD 0, (m.ring.head?.map Prod.fst).getD 0)

def execStatus (crc : Bool) (s : State) : Outc :=
  s.i2cTake crc (fun s =>
    let m := s.meter
    s.i2c 0 (leBytes 1 (if m.sealed then 1 else 0) ++ leBytes 4 m.sealCnt ++ leBytes 8 m.held.1 ++ leBytes 8 m.held.2 ++ leBytes 2 m.interval ++
      leBytes 4 m.svn ++ leBytes 1 (if m.signing = none then 0 else 1)))

def execReadRecord (crc : Bool) (seq : Word) (off len : Nat) (s : State) : Outc :=
  s.i2cTake crc (fun s =>
    if len = 0 ∨ 4096 < len ∨ 17696 < off + len then s.i2c 0x0E01
    else match s.meter.ring.find? (fun r => decide (r.1 = seq.toNat)) with
      | none => s.i2c 0x0E06
      | some r => s.i2c 0 ((r.2.drop off).take len))

def execReadCert (crc : Bool) (chain : Nat) (off len : Nat) (s : State) : Outc :=
  s.i2cTake crc (fun s =>
    if 1 < chain then s.i2c 0x0E01
    else s.i2c 0 (((if chain = 0 then Config.meterRsaChain else Config.meterSlhChain).drop off).take len))

def execCut (crc : Bool) (s : State) : Outc :=
  s.i2cTake crc (fun s => (s.modMeter (fun m => { m with due := m.due ++ [16] })).i2c 0)

def execWriteConfig (crc : Bool) (interval : BitVec 16) (addr : Byte) (s : State) : Outc :=
  s.i2cTake crc (fun s =>
    let i := interval.toNat
    let a := addr.toNat
    if i < 10 ∨ 3600 < i ∨ a < 0x08 ∨ 0x77 < a then s.i2c 0x0E01
    else if i = s.meter.interval ∧ a = s.meter.addr then s.i2c 0
    else ((s.modMeter (fun m => { m with interval := i, addr := a })).breakSeal).i2c 0)

def execFwPush (crc : Bool) (off : BitVec 32) (data : List Byte) (s : State) : Outc :=
  s.i2cTake crc (fun s =>
    if 2048 < data.length ∨ 0x80000 < off.toNat + data.length then s.i2c 0x0E01
    else (s.modMeter (fun m => { m with slots := Mem.putBytes m.slots ((1 - m.slot) * 0x80000 + off.toNat) data })).i2c 0)

/-- Verifies the inactive slot and restarts the meter from it. -/
def execFwCommit (crc : Bool) (s : State) : Outc :=
  s.i2cTake crc (fun s =>
    let m := s.meter
    let i := m.image (1 - m.slot)
    let c := m.verdict (1 - m.slot)
    if c = 0x0D04 then s.i2c 0x0E01
    else if 64 < i.svn ∨ 64 < i.minSvn then s.i2c 0x0E01
    else if c = 0x0D03 then s.i2c 0x0E05
    else if c ≠ 0 then s.i2c 0x0E03
    else
      ((s.modMeter (fun m => { m with slot := 1 - m.slot, savedT := m.totals, savedE := m.energy, savedS := m.seconds })).breakSeal.modMeter
        (fun m => { m with running := false })).i2c 0)

/-- Bytes of the configuration block that a token names. -/
def Meter.config (m : Meter) : List Byte := leBytes 2 m.interval ++ leBytes 1 m.addr

/-- A reseal token: 109 bytes of fields, then the RSA and the SLH-DSA signature. -/
def execReseal (crc : Bool) (token : List Byte) (s : State) : Outc :=
  s.i2cTake crc (fun s =>
    let m := s.meter
    let g := bAt token 0
    let key := Config.approvalDigest g
    let fields := token.take 109
    let rest := decide (g < 2) && decide (leAt token 1 8 = Config.serial.toNat) &&
      decide ((token.drop 13).take 48 = Config.sha384 m.config) && decide ((token.drop 61).take 48 = Config.sha384 (m.image m.slot).header) &&
      Config.rsaVerify (key.take 48) fields ((token.drop 109).take 384) && Config.slhVerify (key.drop 48) fields ((token.drop 493).take 16224)
    if token.length ≠ 16717 then s.i2c 0x0E01
    else if !rest then s.i2c 0x0E03
    else if leAt token 9 4 ≠ m.sealCnt then s.i2c 0x0E04
    else ((s.modMeter (fun m => { m with sealed := true })).logEv 0x0E21 2 none []).i2c 0)

/-- The standby rails fail: what was not persisted is lost, and the next record carries GAP (R455). -/
def State.meterLost (s : State) : State :=
  s.modMeter (fun m => { m with
    running := false, arriving := [], totals := m.savedT, energy := m.savedE, seconds := m.savedS, signing := none, due := []
    gap := true, ticks := 1, est := Tab.empty, estFrom := m.savedE, estBusy := Tab.empty })

end Sys2Proof.Machine
end

