-- ==== Sys2Proof/Machine/Power.lean ====
section
/-! DEFINITION. Power, reset and start-up: frequency and voltage, droop and brown-out, heat, the wake-up budget, the reset
kinds, and the steps of start-up (R410 to R431, R497, R498). -/

namespace Sys2Proof.Machine

def powPage : Page := ⟨.power, 0, 0x1000⟩
def State.modPwr (s : State) (f : Power → Power) : State := { s with pwr := f s.pwr }

/-- The chip's main islands are powered and none of R498's conditions holds them. -/
def State.powered (s : State) : Bool := s.pwr.standby && s.pwr.pwrOk && !s.pwr.tripped

/-! ### Frequency and voltage (R413 to R415) -/

/-- The frequency that the staged PWR_CORE_FREQ asks for (R429). -/
def State.freqNew (s : State) (c : Nat) : Nat := max 8 (min freqMax (fld (s.reg (0x1100 + c / 8 * 8)) (c % 8 * 8) 6))
/-- Least target for a frequency: 0.65 V to 0.85 V in steps of 5 mV (R413). -/
def mvFor (f : Nat) : Nat := max 650 (min 850 (ceilDiv (Config.voltageFor f) 5 * 5))
def State.enabledCores (_s : State) : List Nat := (List.range 144).filter Config.coreEnabled
/-- Target that the highest frequency configured, or still running, needs. -/
def State.needMv (s : State) : Nat :=
  mvFor (s.enabledCores.foldl (fun m c => max m (max (s.coreFreq c) (s.runFreq c))) 8)

/-- A core whose partition has a valid RT class, in force or accepted (R415). -/
def State.rtCore (s : State) (c : Nat) : Bool :=
  match s.coreOwner c with
  | none => false
  | some p => ((s.dk p).classes ++ (s.dk p).pendClasses).any (fun x => clFlag x 0 && clRt x)

def State.powerCheck (s : State) : Commit :=
  let w := s.reg 0x1040
  let d := fld w 0 5
  let n := fld w 8 5
  let r := fld w 16 5
  if d < 2 ∨ 10 < d ∨ n < 4 ∨ 12 < n ∨ r < 10 ∨ 20 < r ∨ r ≤ n ∨ n ≤ d then .invalid
  else if (List.range 144).any (fun c => decide (s.freqNew c < s.coreFreq c) && s.rtCore c) then .invalid
  else .ok

/-- After a COMMIT, each core whose frequency changes still runs at its old one; `t` is the state before. -/
def State.powerApply (t s : State) : State :=
  s.enabledCores.foldl (fun s c => s.modPwr (fun w =>
    { w with freq := Tab.set z0 w.freq c (if t.runFreq c = s.coreFreq c then 0 else t.runFreq c) })) s

def execPowerCommit (f : Fn) (s : State) : Outc :=
  let s := s.access f
  .next (s.commit f powPage State.powerCheck (fun t => (State.powerApply s t).noteFreq))

/-- A pending change of core `c` may take effect (R414): a lowering at once; a raise once the target meets the new requirement
and `vout`, which READ_VOUT gives, confirms it. -/
def State.mayChange (s : State) (c vout : Nat) : Bool :=
  decide (Tab.get z0 s.pwr.freq c ≠ 0) &&
    (decide (s.coreFreq c ≤ s.runFreq c) || decide (mvFor (s.coreFreq c) ≤ s.pwr.target ∧ mvFor (s.coreFreq c) ≤ vout))

/-- The PLL of core `x.core` switches; `x.mv`: what READ_VOUT gives. -/
def execFreqChangeDone (x : CoreMv) (s : State) : Outc :=
  if !s.mayChange x.core x.mv.toNat then .next s
  else .next (s.modPwr (fun w => { w with freq := Tab.set z0 w.freq x.core 0 })).noteFreq

/-- One 5 mV step of the target. -/
def execVidStep (up : Bool) (s : State) : Outc :=
  let t := s.pwr.target
  if up then .next (if t < s.needMv then s.modPwr (fun w => { w with target := t + 5 }) else s)
  else .next (if s.needMv < t then s.modPwr (fun w => { w with target := t - 5 }) else s)

/-! ### Droop and brown-out (R416 to R419) -/

def State.droopPct (s : State) : Nat := fld (s.inForce 0x1040) 0 5
def State.warnPct (s : State) : Nat := fld (s.inForce 0x1040) 8 5
def State.resetPct (s : State) : Nat := fld (s.inForce 0x1040) 16 5
/-- A voltage is below the target less a percentage. -/
def State.below (s : State) (mv pct : Nat) : Bool := decide (mv * 100 < s.pwr.target * (100 - pct))
/-- A voltage is above the target less a percentage. -/
def State.above (s : State) (mv pct : Nat) : Bool := decide (s.pwr.target * (100 - pct) < mv * 100)
/-- What the sense point reads when a level is crossed. -/
def State.senseNow (s : State) (mv : Nat) : State := s.modPwr (fun w => { w with sense := mv, senseAt := s.clk })

/-- A core's detector sees `x.mv` at its own supply. -/
def execDroopDetect (x : CoreMv) (s : State) : Outc :=
  if s.coreClocked x.core && s.below x.mv.toNat s.droopPct then
    .next (s.modPwr (fun w => { w with droop := Tab.set (fun _ => false) w.droop x.core true }))
  else .next s

/-- The local voltage, now `x.mv`, has stayed above the level: the cycles that ran stretched are counted. Within a brown-out,
which stretches every core itself, only those from before it count here; the manual's events do not tell how many these are. -/
def execDroopRecover (x : CoreMv) (cycles : Nat) (s : State) : Outc :=
  let c := x.core
  if !Tab.get (fun _ => false) s.pwr.droop c || !s.above x.mv.toNat s.droopPct then .next s
  else
    let early := Tab.get (fun _ => false) s.pwr.early c
    let s1 := s.modPwr (fun w => { w with
      droop := Tab.set (fun _ => false) w.droop c false
      early := Tab.set (fun _ => false) w.early c false })
    if !s.pwr.brownout then .next (s1.bump 0x2048 cycles)
    else if early then .next (({ s1 with free := s1.free + 1 } : State).bump 0x2048 (Config.freePick s1.free % (cycles + 1)))
    else .next s1

def parts16 : List Nat := List.range 16
def slots32 : List Nat := List.range 32

/-- Long operations that a brown-out holds (R330, R385, R389): those that wait for flash programs or erases. -/
def State.flashOp (s : State) (p o : Nat) : Bool :=
  let l := s.losw p o
  decide (l.state = 2) && (l.flash ||
    (decide (l.op = 7) && (match (s.part p).reset with
      | some r => decide (r.step = 7)
      | none => false)))
def State.pauseOps (s : State) (p : Nat) : State :=
  slots32.foldl (fun s o => if s.flashOp p o then s.modLosw p o (fun l => { l with state := 6 }) else s) s
def State.resumeOps (s : State) (p : Nat) : State :=
  slots32.foldl (fun s o => if (s.losw p o).state = 6 then s.modLosw p o (fun l => { l with state := 2 }) else s) s

/-- A crossing below the warning level has held for 100 ns. -/
def execPwrBrownout (mv : BitVec 10) (s : State) : Outc :=
  if !s.powered || s.pwr.brownout || s.pwr.supply || s.pwr.rstLow || !s.below mv.toNat s.warnPct then .next s
  else
    let s1 := ((s.senseNow mv.toNat).modPwr (fun w => { w with brownout := true, early := w.droop, span := Tab.empty })).noteFreq
    let s2 := parts16.foldl (fun s p => (s.modNs p (fun n => { n with stopped := true })).pauseOps p) s1
    .next ((s2.bump 0x1200 1).logEv 0x0C20 4 none [])

/-- Engines of the enabled cores, in ascending core and engine number. -/
def State.allEngines (s : State) : List Nat := s.enabledCores.flatMap (fun c => (List.range 16).map (fun e => c * 16 + e))

/-- Cycles that a core ran stretched in `ns` of a brown-out, at half its frequency: the least and the greatest number,
which differ only where the frequency changed meanwhile or the core was stopped. -/
def State.stretched (s : State) (c ns : Nat) : Nat × Nat :=
  let f := (Tab.get (fun _ => none) s.pwr.span c).getD (0, 0)
  (ns * f.1 / 20, ns * f.2 / 20)

/-- Adds to CLK_STRETCH_CNT what a core ran stretched in a brown-out of `ns` (R42): all of it; the part before a droop
that began within it and goes on, whose end counts the rest; nothing where such a droop began before it. -/
def State.countStretch (s : State) (c ns : Nat) : State :=
  let r := s.stretched c ns
  let droop := Tab.get (fun _ => false) s.pwr.droop c
  if droop && Tab.get (fun _ => false) s.pwr.early c then s
  else
    let lo := if droop then 0 else r.1
    if lo = r.2 then s.bump 0x2048 lo
    else ({ s with free := s.free + 1 } : State).bump 0x2048 (lo + Config.freePick s.free % (r.2 - lo + 1))

/-- Programs and erases of a namespace start again. -/
def State.resumeFlash (s : State) (p : Nat) : State :=
  (s.modNs p (fun n =>
    ((({ n with stopped := false, format := n.format.map (fun x => { x with busy := true }) } : Ns).tryErase (s.sbRows p)).fullPages))).fillStripes p false

/-- VDD_CORE has stayed above the warning level plus 1 % for 20 µs; `ns` is the time since the start. Flash programs and the
operations that wait for them resume, unless PWR_OK has fallen meanwhile (R412). DESIGN CHOICE: the stretched cycles of R42
appear in CLK_STRETCH_CNT when the stretch ends, here and at DROOP_RECOVER, not while it goes on (log entry 98). -/
def execBrownoutEnd (ns : Nat) (mv : BitVec 10) (s : State) : Outc :=
  if !s.pwr.brownout || !s.above mv.toNat (s.warnPct - 1) then .next s
  else
    let s1 := (List.range 144).foldl (fun s c => s.countStretch c ns) (s.bump 0x1208 (ns / 1000))
    let q := s.pwr.restartQ
    let s2 := (s1.senseNow mv.toNat).modPwr (fun w => { w with
      brownout := false, early := Tab.empty, span := Tab.empty, restartQ := q ++ s.allEngines.filter (fun e => !q.contains e) })
    .next (if s.pwr.shutdown then s2
      else parts16.foldl (fun s p => (s.resumeFlash p).resumeOps p) s2)

/-! ### Heat (R421) -/

def State.trip (s : State) : State :=
  if s.pwr.tripped then s else (s.modPwr (fun w => { w with tripped := true })).noteFreq.logEv 0x0C23 7 none []
/-- A region runs below its configured frequency, or is about to. -/
def State.throttled (s : State) : Bool :=
  (List.range 36).any (fun r => Tab.get (fun _ => false) s.pwr.hot r || decide (0 < Tab.get z0 s.pwr.lowered r))

/-- The 36 sensors are read; a sensor that the list leaves out reads 0 °C. -/
def execThermalSample (deg : List Nat) (s : State) : Outc :=
  if !s.powered then .next s
  else
    let ds := (List.range 36).map (fun r => deg.getD r 0)
    let tj := ds.foldl max 0
    let s1 := s.modPwr (fun w => { w with
      tj := tj, deg := (List.range 36).foldl (fun t r => Tab.set z0 t r (ds.getD r 0)) w.deg })
    let s2 := (List.range 36).foldl (fun s r =>
      let h := Tab.get (fun _ => false) s.pwr.hot r
      let d := ds.getD r 0
      let set (v : Bool) (s : State) : State := s.modPwr (fun w => { w with hot := Tab.set (fun _ => false) w.hot r v })
      if !h && decide (95 ≤ d) then (set true s).logEv 0x0C22 3 none []
      else if h && decide (d < 93) then set false s else s) s1
    let s3 := if s2.throttled then s2.bump 0x1218 10 else s2
    .next (if 105 ≤ tj then s3.trip else s3)

/-- One 100 µs step of a region: 100 MHz down to 0.8 GHz while its sensor reads 95 °C or more, up again once it reads below
93 °C. -/
def execThrottleStep (r : Fin 36) (s : State) : Outc :=
  if !s.powered then .next s
  else if 105 ≤ s.pwr.tj then .next s.trip
  else
    let n := Tab.get z0 s.pwr.lowered r
    let top := (s.enabledCores.filter (fun c => decide (regionOf c = r.val))).foldl (fun m c => max m (s.runFreq c)) 8
    let d := Tab.get z0 s.pwr.deg r
    let n1 := if 95 ≤ d then (if 8 + n < top then n + 1 else n) else if d < 93 then n - 1 else n
    .next (s.modPwr (fun w => { w with lowered := Tab.set z0 w.lowered r n1 })).noteFreq

/-! ### Wake-up budget (R422, R423) -/

def State.perSlot (s : State) : Nat := max 1 (min 16 (fld (s.reg 0x1048) 0 5))
/-- Counts a slot of 250 ns in which a request waits, of either queue, once (R430). `eng`: the queue of engine restarts. -/
def State.countWait (s : State) (eng : Bool) (left : List Nat) : State :=
  if left = [] then s
  else
    let slot := s.clk / 25
    if s.pwr.rampAt = some (slot, !eng) then s.modPwr (fun w => { w with rampAt := none })
    else (s.modPwr (fun w => { w with rampAt := some (slot, eng) })).bump 0x1220 1

/-- A core is released: it zeroes before it is ready. -/
def State.ungate (s : State) (c : Nat) : State :=
  (s.modPwr (fun w => { w with ungated := Tab.set (fun _ => false) w.ungated c true })).modCore c (fun k => { k with zeroing := true })

/-- One 250 ns slot of the ungating queue. -/
def execUngateSlot (s : State) : Outc :=
  if !s.powered || s.pwr.supply || s.pwr.rstLow then .next s
  else
    let n := if s.pwr.brownout then 0 else s.perSlot
    let go := s.pwr.ungateQ.take n
    let s1 := s.modPwr (fun w => { w with ungateQ := w.ungateQ.drop n })
    .next ((go.foldl (fun s c => s.ungate c) s1).countWait false s1.pwr.ungateQ)

/-- One 250 ns slot of the engine restarts. -/
def execEngineRestartSlot (s : State) : Outc :=
  if !s.powered then .next s
  else
    let n := if s.pwr.brownout then 0 else 16 * s.perSlot
    let s1 := s.modPwr (fun w => { w with restartQ := w.restartQ.drop n })
    .next (s1.countWait true s1.pwr.restartQ)

/-! ### What a reset clears (R330, R424, R425, R481) -/

/-- Registers of the always-on island and the meter's mirror, beside their headers. -/
def alwaysOn (a : Nat) : Bool :=
  decide (0x40 ≤ a % 0x1000) && decide (a / 0x1000 = 1 ∨ a / 0x1000 = 3 ∨ a / 0x1000 = 5 ∨ a / 0x1000 = 6 ∨ a / 0x1000 = 7)
/-- Counters that a chip reset keeps (R239, R336). -/
def chipKeeps (a : Nat) : Bool :=
  match pageOf a with
  | some p => decide (0x80 ≤ a - p.base) && (match p.ty with
    | .hc | .mc | .fc => true
    | _ => false)
  | none => false

/-- Programs and erases that are issued complete (R330, R412). -/
def State.programsEnd (s : State) (p : Nat) : State :=
  let n := s.ns p
  let s1 := (List.range n.flying.length).foldl (fun s _ => s.programEnd p []) s
  let s2 := (List.range (s1.ns p).jFlying.length).foldl (fun s _ => s.journalEnd p) s1
  if (s2.ns p).erasing = none then s2 else s2.eraseEnd p []

/-- A namespace as a mount finds it: what is not in the flash is gone (R319, R330). -/
def Ns.cut (n : Ns) : Ns :=
  { n with
    mounted := false, staging := [], flying := [], jOpen := [], jFlying := [], discard := none, plain := [], flushes := []
    victim := none, rewrite := [], staticMv := false, erasing := none, idle := false, stopped := false, mapLines := []
    again := [], format := none }

/-- `stop`: no new program or erase yet, as a brown-out goes on. -/
def State.cutFlash (s : State) (stop : Bool) : State :=
  parts16.foldl (fun s p => s.modNs p (fun n => { n.cut with stopped := stop })) s

/-- Every island but the always-on one starts anew. `clock`: CLK_TIME runs on; `counters`: what a chip reset keeps is kept. The
Power Manager keeps its state: a brown-out goes on, and a frequency change stays pending. -/
def State.islandsReset (s : State) (clock counters : Bool) : State :=
  let keep (a : Nat) : Bool := alwaysOn a || (counters && chipKeeps a)
  { State.reset with
    pending := s.pending
    free := s.free
    nextId := s.nextId
    msix := s.msix
    clk := if clock then s.clk else 0
    regs := ⟨s.regs.cells.filter (fun c => keep c.1)⟩
    force := ⟨s.force.cells.filter (fun c => keep c.1)⟩
    arc := (s.cutFlash s.pwr.brownout).arc
    badBlks := s.badBlks
    tierP := ⟨s.tierP.cells.map (fun c => (c.1, { c.2 with
      pcnt := Tab.empty, xcnt := Tab.empty, xlate := [], move := none, moveQ := [], batch := none
      periodAt := if clock then c.2.periodAt else 0 }))⟩
    colo := { s.colo with
      spdm := Tab.empty
      stage := none
      losw := if s.colo.stage ≠ none then { s.colo.losw with state := 5, error := 0 } else s.colo.losw }
    meter := s.meter
    log := { s.log with persistAt := if clock then s.log.persistAt else 0 }
    pwr := { s.pwr with
      supply := false, rstLow := false, droop := Tab.empty, early := Tab.empty, span := Tab.empty
      ungateQ := [], ungated := Tab.empty, restartQ := [] } }

/-- The links of both host ports train (R425). DESIGN CHOICE: as soon as start-up is past step 2 (log entry 96). -/
def State.hostsTrain (s : State) : State := (s.hostTrain .A).hostTrain .B

/-- Step 3 begins: every enabled core asks to be ungated (R422). -/
def State.enterStep3 (s : State) : State :=
  s.hostsTrain.modPwr (fun w => { w with phase := 3, ungateQ := s.enabledCores, ungated := Tab.empty, t0 := s.clk })

/-- Where start-up enters when a reset ends (R426): step 3, or step 2 after a chip reset in recovery mode. -/
def State.afterReset (s : State) (chip : Bool) : State :=
  if chip && s.colo.recovery then s.modPwr (fun w => { w with phase := 2, t0 := s.clk })
  else s.enterStep3

/-- No new flash program or erase starts from here on. -/
def State.stopFlash (s : State) : State := parts16.foldl (fun s p => s.modNs p (fun n => { n with stopped := true })) s

/-- What a chip reset does at its start; issued flash programs complete first (R425). -/
def State.chipReset (s : State) (cause : Nat) : State :=
  ((parts16.foldl (fun s p => s.programsEnd p) s.stopFlash).islandsReset true true).modPwr (fun w => { w with
    cause := cause, phase := 0, readyMs := 0 })

/-! ### Supply reset (R420) -/

def execPwrSupplyReset (mv : BitVec 10) (s : State) : Outc :=
  if !s.powered || s.pwr.supply || !s.below mv.toNat s.resetPct then .next s
  else
    let low := s.pwr.rstLow
    let s1 := (s.islandsReset false false).modPwr (fun w => { w with supply := true, rstLow := low, cause := 2, phase := 0, readyMs := 0 })
    .next (((s1.senseNow mv.toNat).bump 0x1210 1).logEv 0x0C21 6 none [])

/-- A voltage above the warning level plus 1 %: which, is a free value. -/
def State.releaseMv (s : State) : Nat :=
  let level := s.pwr.target * (100 - (s.warnPct - 1)) / 100
  level + 1 + Config.freePick s.free % (1023 - level)

/-- VDD_CORE has stayed above the warning level plus 1 % for 20 µs. -/
def execSupplyResetRelease (s : State) : Outc :=
  if !s.pwr.supply then .next s
  else
    let s1 := ({ s with free := s.free + 1 }.senseNow s.releaseMv).modPwr (fun w => { w with supply := false })
    .next (if s1.pwr.rstLow then s1 else s1.afterReset false)

/-! ### Chip reset (R424, R425, R498) -/

/-- CHIP_RST_N has been low for `ns`; between 100 ns and 1 µs either outcome may occur. -/
def execChipRstNAssert (ns : Nat) (s : State) : Outc :=
  if !s.powered || s.pwr.rstLow || decide (ns < 100) then .next s
  else
    let s1 := if ns < 1000 then { s with free := s.free + 1 } else s
    if ns < 1000 ∧ !Config.freeBit s.free then .next s1
    else
      let sup := s1.pwr.supply
      .next ((s1.chipReset 3).modPwr (fun w => { w with rstLow := true, supply := sup }))

def execChipRstNRelease (s : State) : Outc :=
  if !s.pwr.rstLow then .next s
  else
    let s1 := s.modPwr (fun w => { w with rstLow := false })
    .next (if !s1.powered || s1.pwr.supply then s1 else s1.afterReset true)

def rstPage : Page := ⟨.reset, 0, 0x3000⟩

/-- RST_CMD: the key, from a physical function or the service processor. -/
def execRstCmd (f : Fn) (key : BitVec 16) (s : State) : Outc :=
  let s := s.access f
  if fnIsVf f ∨ !s.seesPage f rstPage ∨ key ≠ 0xC41B ∨ !s.powered ∨ s.pwr.supply ∨ s.pwr.rstLow then .next s
  else .next ((s.chipReset 4).afterReset true)

/-! ### Power-on, PWR_OK and the loss of standby (R411, R412, R424, R465) -/

/-- The standby rails rise. -/
def execPowerOn (s : State) : Outc :=
  if s.pwr.standby then .next s
  else
    let s1 := s.islandsReset false false
    let c := s.colo
    let s2 : State := { s1 with
      regs := Tab.empty
      force := Tab.empty
      arc := (s.cutFlash false).arc
      colo := { nor := c.nor, revoke := c.revoke, fwSvn := c.fwSvn }
      pwr := { cause := if s.pwr.tripped then 5 else 1 } }
    .next (s2.modMeter (fun m => { m with est := Tab.empty, estFrom := m.energy, estBusy := Tab.empty })).logPowerOn

/-- PWR_OK rises: start-up begins. Rails that were removed since have lost what they held; CLK_STRETCH_CNT, which R42
lets only the resets clear, stays. -/
def execPwrOkRise (s : State) : Outc :=
  if !s.pwr.standby || s.pwr.pwrOk || s.pwr.tripped then .next s
  else
    let s1 := if s.pwr.shutdown then (s.islandsReset true false).setReg 0x2048 (s.reg 0x2048) else s
    .next (s1.modPwr (fun w => { w with pwrOk := true, shutdown := false, phase := 1, t0 := s1.clk, readyMs := 0 }))

/-- What closes the open stripes and journal page is programmed, though nothing else starts any more. -/
def State.closing (s : State) (p : Nat) (f : State → State) : State :=
  (f (s.modNs p (fun n => { n with stopped := false }))).modNs p (fun n => { n with stopped := true })

/-- A partition's namespace closes its open stripes and its journal, and what it issued completes (R412). -/
def State.closeFlash (s : State) (p : Nat) : State :=
  let s1 := (s.closing p (fun s => s.fillStripes p true)).programsEnd p
  (s1.closing p (fun s => s.modNs p (fun n => (Ns.closeFull (n.jOpen.length / 1023) n).closePage))).programsEnd p

/-- PWR_OK falls: the orderly shutdown. -/
def execPwrOkFall (s : State) : Outc :=
  if !s.powered then .next s
  else
    let s1 := s.modPwr (fun w => { w with pwrOk := false, shutdown := true })
    let s2 := parts16.foldl (fun s p => s.closeFlash p) s1
    let s3 := s2.modLog (fun l => { l with opSaved := l.opSec })
    .next ((s3.persistLog true).modMeter (fun m => { m with due := if m.running then m.due ++ [4] else m.due }))

/-- The standby rails fall: only the flash, the boot NOR, the fuses, the log's images and the sealed meter are left. A
slot of the log that was being written holds no image. -/
def execStandbyLoss (s : State) : Outc :=
  if !s.pwr.standby then .next s
  else
    let s1 := s.islandsReset false false
    let c := s.colo
    let l := s.log
    .next ({ s1 with
      regs := Tab.empty
      force := Tab.empty
      arc := (s.cutFlash false).arc
      colo := { nor := c.nor, revoke := c.revoke, fwSvn := c.fwSvn }
      log := { images := if l.writing = none then l.images else Tab.set (fun _ => none) l.images l.slot none
               imgSeq := l.imgSeq, slot := l.slot, opSaved := l.opSaved, pcc := l.pcc }
      pwr := { standby := false, tripped := s.pwr.tripped } }).meterLost

/-! ### Start-up (R426 to R428) -/

/-- A failure of training: block type and instance. -/
def State.trainFail (s : State) (ty inst : Nat) : State := s.logEv 0x0C24 5 none (leBytes 1 ty ++ leBytes 1 inst ++ zeros 14)

/-- Step 4: HBM stacks. -/
def State.trainHbm (s : State) (r : StartReport) : State :=
  (List.range 6).foldl (fun s h => if r.stackFail.contains h then (s.setField (hcP h + 0x40) 8 8 0).trainFail 0x21 h else s) s

/-- A module of a kind that R215 allows. -/
def moduleOk (ty cap ranks : Nat) : Bool :=
  (decide (ty = 1) && [32, 64, 96, 128, 256].contains cap && decide (1 ≤ ranks ∧ ranks ≤ 8)) || decide (ty = 2 ∧ cap = 256 ∧ ranks < 16)

/-- Step 5: modules. -/
def State.trainModules (s : State) (r : StartReport) : State :=
  (List.range 12).foldl (fun s m => match r.modules.find? (fun x => decide (x.1 = m)) with
    | none => s
    | some (_, ty, cap, ranks) =>
      if moduleOk ty cap ranks then s.setReg (mcP m + 0x40) (BitVec.ofNat 64 (ty + cap * 2 ^ 4 + ranks * 2 ^ 16))
      else s.trainFail 0x23 m) s

/-- Step 6: service firmware clears the electrical fence of each port that trains. -/
def State.trainPorts (s : State) (r : StartReport) : State :=
  (List.range 8).foldl (fun s q => match r.ports.find? (fun x => decide (x.1 = q)) with
    | some (_, lanes, partner) =>
      if lanes % 16 = 0 then s.trainFail 0x28 q else (s.setElec q false).linkUp q (lanes % 16) (partner % 1024)
    | none => s.trainFail 0x28 q) s

/-- What R305 and R306 ask of a target. -/
def targetOk (t : FlashTarget) : Bool :=
  decide (t.main = 16384 ∧ 2048 ≤ t.spare ∧ t.pages ≤ 4096 ∧ t.luns * t.planes * t.blocks * t.pages * t.main ≤ 2 ^ 38 ∧
    t.luns ∈ [1, 2, 4] ∧ t.planes ∈ [2, 4]) && t.onePass

/-- The usable targets of a channel, 16 at most: of those that R306 admits, the ones with the first one's geometry and times.
DESIGN CHOICE: where targets differ, the first stands (log entry 65). -/
def usable (ts : List FlashTarget) : List FlashTarget :=
  match ts.filter targetOk with
  | [] => []
  | t :: r => ((t :: r).filter (fun x => decide ({ x with spare := t.spare } = t))).take 16

/-- FC_INFO and FC_TIMING of a channel (R335). -/
def fcInfo (ts : List FlashTarget) : Word :=
  match ts with
  | [] => 0
  | t :: _ => BitVec.ofNat 64 (ts.length + t.luns * 2 ^ 8 + t.planes * 2 ^ 12 + t.pages * 2 ^ 16 + t.blocks % 2 ^ 16 * 2 ^ 32 + t.rate % 2 ^ 8 * 2 ^ 48)
def fcTiming (ts : List FlashTarget) : Word :=
  match ts with
  | [] => 0
  | t :: _ => BitVec.ofNat 64 (t.tR % 2 ^ 16 + t.tProg % 2 ^ 16 * 2 ^ 16 + t.tBers % 2 ^ 16 * 2 ^ 32 + t.endur % 2 ^ 16 * 2 ^ 48)

/-- Step 7: flash channels. -/
def State.trainFlash (s : State) (r : StartReport) : State :=
  let s1 := r.flash.foldl (fun s x => if x.1 < 32 then (List.range (x.2.length - (usable x.2).length)).foldl (fun s _ => s.trainFail 0x26 x.1)
    ((s.setReg (fcP x.1 + 0x40) (fcInfo (usable x.2))).setReg (fcP x.1 + 0x48) (fcTiming (usable x.2))) else s) s
  r.flashFail.foldl (fun s c => s.trainFail 0x26 c) s1

/-- Puts words `ks` of a stored slice in force. -/
def State.putSlice (s : State) (x : StoredPart) (ks : List Nat) : State :=
  ks.foldl (fun s k => (s.setReg (partSlice x.part k) (x.slice.getD k 0)).setForce (partSlice x.part k) (x.slice.getD k 0)) s

/-- The words of R237 that a stored configuration holds, staged. -/
def State.putTier (s : State) (x : StoredPart) : State :=
  (List.range 3).foldl (fun s k => s.setReg (qReg x.part k) (x.tier.getD k 0)) s

/-- Bytes of a stored configuration that MR3 measures. -/
def storedBytes (x : StoredPart) : List Byte :=
  leBytes 1 x.part ++ (x.slice ++ x.tier ++ [x.root] ++ x.recs).flatMap (fun w => leBytes 8 w.toNat)

/-- The durable version record that step 7 restores: a correct CHECK and the highest VERSION. -/
def State.bestRecord (s : State) (x : StoredPart) : State × Option (List Byte) :=
  x.recs.foldl (fun (best : State × Option (List Byte)) a =>
    if !s.inAlloc x.part a 32 then best
    else
      let t := best.1.readBy x.part a 32
      let r := t.2.1
      if t.2.2 || decide (leAt r 28 4 ≠ crc32c (r.take 28) ∨ leAt r 0 4 = 0) then (t.1, best.2)
      else match best.2 with
        | some b => (t.1, if leAt b 0 4 < leAt r 0 4 then some r else best.2)
        | none => (t.1, some r)) (s, none)

/-- The index root of a restored partition (R428). -/
def State.restoreRoot (s : State) (x : StoredPart) : State :=
  if x.root = 0 ∨ !s.inAlloc x.part x.root 256 then s
  else match s.bestRecord x with
    | (t, none) => t
    | (t, some b) =>
      let v := leAt b 0 4
      let link := leBytes 4 (leAt b 4 4)
      let s1 := t.devWrite x.part x.root (link ++ link ++ leBytes 4 v ++ leBytes 4 v ++ leBytes 4 0)
      s1.devWrite x.part (addA x.root (64 + 32 * (v % 4))) b

/-- A flash channel of the word has no target that training found usable (R427). -/
def State.flashFails (s : State) (w : Word) : Bool :=
  (List.range 32).any (fun c => w.getLsbD (32 + c) && decide (fld (s.reg (fcP c + 0x40)) 0 8 = 0))

/-- Restores one partition: its pieces, its view, then its cores; the zeroing of its pieces is part of the step. A
configuration that a check refuses leaves the partition FREE, with ERR_STATUS bit 1 of the PART page as any refused COMMIT. -/
def State.restorePart (s : State) (x : StoredPart) : State :=
  let p := x.part
  if 16 ≤ p ∨ s.coresOf p ≠ [] then s
  else
    let staged := (List.range 6).foldl (fun t k => t.setReg (partSlice p k) (x.slice.getD k 0)) s
    if staged.pieceFails (staged.sliceNew p) ∨ staged.flashFails (staged.sliceNew p 4) ∨ (List.range 16).any (fun q => q != p &&
        (List.range 5).any (fun k => decide (staged.sliceNew p k &&& staged.sliceNew q k ≠ 0))) then s.setErr 0xD000 1
    else
      let s1 := s.putSlice x [3, 4, 5]
      let s2 := State.partApply s s1
      let same := decide (s2.flashOf p = (s.ns p).chans)
      let s3 : State := ({ s2 with arc := if same then s.arc else s2.arc, zeroing := s.zeroing }.mount p).putTier x
      let keeps := s3.keepsMap p
      if !tierOk s3 p then s.setErr 0xD000 1
      else
        let s4 : State := (fun (t : State) => if keeps then t else t.newMap p) ((List.range 3).foldl (fun s k => s.setForce (qReg p k) (s.reg (qReg p k))) s3)
        let s5 := (List.range 3).foldl (fun t k => t.setReg (partSlice p k) (x.slice.getD k 0)) s4
        if s5.sliceBad p then s.setErr 0xD000 1
        else
          let s6 := State.partApply s4 (s5.putSlice x [0, 1, 2])
          ((s6.extend 3 (Config.sha384 (storedBytes x))).setField 0xD0C0 p 1 0).restoreRoot x

/-- The step in progress ends. -/
def execStartupStepDone (r : StartReport) (s : State) : Outc :=
  let go (n : Nat) (s : State) : State := s.modPwr (fun w => { w with phase := n })
  if !s.powered || s.pwr.rstLow || s.pwr.supply then .next s
  else match s.pwr.phase with
    | 1 => .next (go 2 (s.extend 0 (Config.sha384 (Config.romBytes ++ s.fuseBytes))))
    | 2 =>
      let s1 := s.bootSlots
      .next (if s1.colo.recovery then go 15 s1.hostsTrain else { s1.enterStep3 with pwr := { s1.enterStep3.pwr with t0 := s.pwr.t0 } })
    | 3 =>
      if s.pwr.ungateQ ≠ [] then .next s
      else .next (go (if s.colo.recovery then 15 else 4) (s.modPwr (fun w => { w with ungated := Tab.empty })))
    | 4 => .next (go 5 (s.trainHbm r))
    | 5 => .next (go 6 (s.trainModules r))
    | 6 => .next (go 7 (s.trainPorts r))
    | 7 => .next (go 8 (r.parts.foldl (fun s x => s.restorePart x) (s.trainFlash r)))
    | 8 => .next ((go 9 (s.modPwr (fun w => { w with readyMs := (s.clk - w.t0).toNat / 100000 }))).burnFuses)
    | _ => .next s

/-! ### Output pins (R461, R497) -/

inductive PinState where
  | hiZ
  | low
  | high
  /-- Carries its bus, as the pin's standard says. -/
  | bus
  /-- Electrical idle, or the reset state of the pin's standard. -/
  | idle
deriving DecidableEq, Repr

inductive OutPin where
  | thermtrip
  | xspiCs
  | xspiReset
  | mtrSeal
  | vid
  | tdo
  /-- Outputs of module, flash, link and PCI Express groups. -/
  | phy
  /-- RESET_N of a module channel and CE_N of a flash channel. -/
  | phyReset
deriving DecidableEq, Repr

/-- An island reset is held or start-up has not left it. -/
def State.inReset (s : State) : Bool := s.pwr.rstLow || s.pwr.supply || decide (s.pwr.phase = 0)

/-- The state of an output ball. Before the standby rails rise it is that of the ramp. MTR_SEAL is released only while
the meter is sealed and its firmware runs. -/
def State.pin (s : State) : OutPin → PinState
  | .thermtrip => if s.pwr.standby && s.pwr.tripped then .low else .hiZ
  | .xspiCs | .xspiReset => if !s.pwr.standby then .hiZ else if !s.pwr.pwrOk || s.inReset then .high else .bus
  | .mtrSeal => if s.pwr.standby && s.meter.running && s.meter.sealed then .hiZ else .low
  | .vid => if s.pwr.standby then .bus else .hiZ
  | .tdo => if s.pwr.standby then .bus else .hiZ
  | .phy => if !s.pwr.standby || !s.pwr.pwrOk then .hiZ else if s.inReset then .idle else .bus
  | .phyReset => if !s.pwr.standby then .hiZ else if !s.pwr.pwrOk then .low else if s.inReset then .idle else .bus

end Sys2Proof.Machine
end

