-- ==== Sys2Proof/Machine/Registers.lean ====
section
/-! DEFINITION. Reads and writes of BAR0 (R476 to R485): the value of every register as software reads it, the access
rules, and the writes that have no command of their own. -/

namespace Sys2Proof.Machine

/-- The number whose bit k is `b k`, for k below `n`. -/
def bitsOf (n : Nat) (b : Nat → Bool) : Nat := sumNat ((List.range n).map (fun k => if b k then 2 ^ k else 0))

/-! ### The common header (R476, R478) -/

def Page.softReset (p : Page) : Bool :=
  match p.ty with
  | .core => true
  | .tp => decide (p.inst % 2 = 0)
  | _ => false
def Page.staged (p : Page) : Bool :=
  match p.ty with
  | .power | .rollcall | .tier | .host | .part | .gu | .exp | .carrel | .link | .core | .collator => true
  | .archive => decide (p.inst = 1)
  | .tp => decide (p.inst % 2 = 0)
  | _ => false
def Page.quiesces (p : Page) : Bool :=
  match p.ty with
  | .core | .collator => true
  | _ => false
def Page.ownable (p : Page) : Bool :=
  match p.ty with
  | .core | .walker | .engines | .collator | .mc | .carrel | .fc | .tp | .host | .log => true
  | .exp => decide (0x10 ≤ p.inst ∧ p.inst < 0x1C)
  | _ => false

def pageIdCap (p : Page) : Word :=
  w64 (1 + p.inst * 2 ^ 8 + p.ty.code * 2 ^ 16 +
    ((if p.softReset then 1 else 0) + (if p.staged then 2 else 0) + (if p.quiesces then 4 else 0) + (if p.ownable then 8 else 0)) * 2 ^ 32)

/-- Start-up step `n` has ended. -/
def State.stepped (s : State) (n : Nat) : Bool := decide (n < s.pwr.phase) && (decide (s.pwr.phase ≠ 15) || decide (n < 3))

/-- CTRL.ENABLE: the block has completed its part of start-up and has not failed training. -/
def State.pageEnabled (s : State) (p : Page) : Bool :=
  match p.ty with
  | .chip | .power | .clock | .reset | .log | .meter => s.stepped 1
  | .colophon => s.stepped 2
  | .core | .walker | .engines | .collator => s.stepped 3 && Config.coreEnabled p.inst
  | .hc => s.stepped 4 && decide (fld (s.reg (p.base + 0x40)) 8 8 ≠ 0)
  | .mc => s.stepped 5 && decide (fld (s.reg (p.base + 0x40)) 0 2 ≠ 0)
  | .carrel => s.stepped 5 && s.isCarrel p.inst
  | .tp => s.stepped 6 && !s.elecFence (p.inst / 2)
  | .archive => s.stepped 7
  | .fc => s.stepped 7 && decide (fld (s.reg (p.base + 0x40)) 0 5 ≠ 0)
  | .host => s.stepped 8
  | .exp =>
    if p.inst < 0x10 then s.stepped 4 && decide (fld (s.reg (hcP p.inst + 0x40)) 8 8 ≠ 0)
    else if p.inst < 0x20 then s.stepped 5 && decide (fld (s.reg (mcP (p.inst - 0x10) + 0x40)) 0 2 ≠ 0)
    else if p.inst = 0x20 then s.stepped 7 else s.stepped 6
  | _ => s.stepped 3

def State.occupancy (s : State) (c : Nat) : Nat × Nat := ((s.core c).liveThreads, (s.core c).liveGroups.length)

def State.pageReady (s : State) (p : Page) : Bool :=
  s.pageEnabled p && (match p.ty with
    | .core | .walker | .engines | .collator => s.coreReady p.inst
    | _ => true)

def State.pageBusy (s : State) (p : Page) : Bool :=
  match p.ty with
  | .core => (s.core p.inst).resetting
  | .tp => decide (p.inst % 2 = 0) && s.portBusy (p.inst / 2)
  | _ => false

/-- OWNER as the function sees it (R474, R483). -/
def State.ownerOf (s : State) (f : Fn) (p : Page) : Nat :=
  match p.ty with
  | .host | .log => (s.fnPart f).getD 0xFF
  | _ => (s.pageOwner p).getD 0xFF

def State.readHeader (s : State) (f : Fn) (p : Page) (o : Nat) : Word :=
  let b (v : Bool) (k : Nat) : Nat := if v then 2 ^ k else 0
  match o with
  | 0x00 => pageIdCap p
  | 0x08 => s.reg (p.base + 8) ||| w64 (b (s.pageEnabled p) 0 + b (s.pageReady p) 32 + b (s.quiesced p) 33 + b (s.pageBusy p) 34)
  | 0x20 => s.reg (p.base + 0x20) ||| w64 (s.ownerOf f p * 2 ^ 32)
  | _ => s.reg (p.base + o)

/-! ### Registers whose value the block forms (R73, R134, R158, R185, R210, R237, R284, R303, R333, R361, R391, R393, R408,
R429, R431, R444, R474, R485) -/

/-- Attachment routers (R486). -/
def attach : List Nat := [24, 72, 120, 23, 71, 119, 0, 2, 4, 6, 8, 10, 133, 135, 137, 139, 141, 143, 36, 48, 84, 96, 47, 59, 95, 107,
  66, 1, 3, 9, 11, 132, 134, 140, 142, 12, 35, 78, 65, 77, 53, 54, 89, 90, 0xFF, 0xFF, 0xFF, 0xFF]

def readChip (o : Nat) : Option Nat :=
  if o = 0x40 then some (0xB1 + (if Config.is128 then 0x80 else 0x90) * 2 ^ 8 + 0x0820 * 2 ^ 16 + 0xCB7A * 2 ^ 32 + 2 ^ 48)
  else if 0x50 ≤ o ∧ o ≤ 0x60 then some (bitsOf 64 (fun k => Config.coreEnabled ((o - 0x50) / 8 * 64 + k)))
  else if 0x80 ≤ o ∧ o < 0xB0 then some (sumNat ((List.range 8).map (fun b => attach.getD (o - 0x80 + b) 0xFF * 2 ^ (8 * b))))
  else none

/-- VDD_CORE at the sense point: as last compared with a level, at that time; a free value of the field's 10 bits at any other
(log entry 25). -/
def State.senseMv (s : State) : Nat := if s.clk = s.pwr.senseAt then s.pwr.sense % 1024 else Config.freePick s.free % 1024

def State.readPower (s : State) (o : Nat) : Option Nat :=
  if o = 0x50 then some (s.pwr.target + s.senseMv * 2 ^ 16 + (if s.pwr.brownout then 2 ^ 32 else 0) + (if s.throttled then 2 ^ 33 else 0) +
    s.pwr.tj % 256 * 2 ^ 40)
  else none

def State.readReset (s : State) (o : Nat) : Option Nat :=
  if o = 0x40 then some s.pwr.cause
  else if o = 0x50 then some (s.pwr.phase + s.pwr.readyMs % 2 ^ 32 * 2 ^ 32)
  else none

def State.readDesk (s : State) (o : Nat) : Option Nat :=
  if o = 0x40 then some ((s.reg 0x4040).toNat + s.desk.handoff.length % 8192 * 2 ^ 32)
  else if o = 0x58 then some (bitsOf 16 (fun p => match (s.dk p).step with
    | some x => x.old
    | none => false))
  else none

def State.readLogPage (s : State) (f : Fn) (o : Nat) : Option Nat :=
  let c := s.log.cursor (fnIdx f)
  if o = 0x48 then some (s.log.recs.length + s.log.opSec % 2 ^ 32 * 2 ^ 32)
  else if o = 0x50 then some s.log.pcc
  else if 0x100 ≤ o ∧ o < 0x120 then some (c.shown.elim 0 (fun r => leAt r.bytes (o - 0x100) 8))
  else if o = 0x120 then some (c.shown.elim 0 (fun r => r.num))
  else if o = 0x128 then some ((if c.shown.isSome then 1 else 0) + c.skipped % 2 ^ 32 * 2 ^ 32)
  else if fnIsVf f ∧ (o = 0x40 ∨ 0x200 ≤ o) then some 0
  else if 0x200 ≤ o ∧ o < 0x298 then some (Tab.get z0 s.log.totals ((o - 0x200) / 8))
  else none

/-- A long-operation status word and its second word (R384). -/
def Losw.word (l : Losw) : Nat := l.prog % 2 ^ 32 + l.error * 2 ^ 32 + l.state * 2 ^ 52 + l.op * 2 ^ 56
def Losw.word2 (l : Losw) : Nat := l.total % 2 ^ 32 + l.part % 2 ^ 32 * 2 ^ 32

def State.readColo (s : State) (o : Nat) : Option Nat :=
  let c := s.colo
  if o = 0x40 then some (c.bootSlot + (if c.recovery then 2 else 0) + (if c.pushing.isSome then 4 else 0) + c.keyGen * 2 ^ 4 +
    c.revoke.toNat * 2 ^ 8 + fuseCount c.fwSvn * 2 ^ 16 + c.imgSvn * 2 ^ 24)
  else if o = 0x48 then some Config.serial.toNat
  else if o = 0x60 then some c.losw.word
  else if o = 0x68 then some (c.losw.total + 0xFFFFFFFF * 2 ^ 32)
  else if 0x100 ≤ o ∧ o < 0x280 then some (leAt (s.mr ((o - 0x100) / 0x30)) ((o - 0x100) % 0x30) 8)
  else if 0x280 ≤ o ∧ o < 0x2C0 then some (Tab.get z0 c.mrCnt ((o - 0x280) / 8))
  else none

def State.readRc (s : State) (o : Nat) : Option Nat :=
  if 0x80 ≤ o ∧ o < 0xC0 then
    let q := (o - 0x80) / 8
    let age := ((s.hbAge q).map (fun t => min (2 ^ 32 - 1) (t / 100))).getD 0
    let alive := (s.hbAge q).isSome && decide (age < s.missLimit * s.hbUs)
    some (age + Tab.get z0 s.rc.inc q % 2 ^ 24 * 2 ^ 32 + (if alive then 2 ^ 56 else 0) +
      (if Tab.get (fun _ => false) s.rc.fencedBy q then 2 ^ 57 else 0))
  else none

/-- TIER_USE, and the PART field of a window. -/
def State.readTier (s : State) (o : Nat) : Option Nat :=
  if 0x100 ≤ o ∧ o < 0x300 ∧ o % 0x20 = 0x18 then
    let p := (o - 0x100) / 0x20
    let t1 := if s.unified p then ((List.range (s.uExts p)).filter (fun x => decide ((s.extent p x).1 = 1))).length else 0
    some ((s.tp p).t0.cells.length + t1 * 2 ^ 32)
  else if 0x800 ≤ o ∧ o < 0xC00 then some ((s.reg (0x9000 + o)).toNat + (o - 0x800) / 0x40 * 2 ^ 4)
  else none

def State.readHost (s : State) (f : Fn) (a o : Nat) : Option Nat :=
  let h := s.host (fnIdx f)
  let vf := fnIsVf f
  if o = 0x40 then
    if vf then some 0
    else
      let b := ((fnPort f).map portIdx).getD 0
      let n := ((List.range 16).filter (fun n => s.vfEnabled (3 + 16 * b + n))).length
      some ((h.link.elim 0 (fun w =>
        let l := w.toNat
        1 + l % 6 + 2 ^ (l / 8 % 4) * 2 ^ 4 + l / 2 ^ 8 % 4 * 2 ^ 8)) + n * 2 ^ 16)
  else if o = 0xC0 then some (((s.fnPart f).map (fun p => (s.slice p 5).toNat)).getD 0)
  else if 0x200 ≤ o ∧ o < 0x400 then
    if !vf then some 0
    else if o < 0x300 ∧ o % 0x10 = 8 then some ((s.reg a).toNat + Tab.get z0 h.sqHead ((o - 0x200) / 0x10) * 2 ^ 32)
    else if 0x300 ≤ o ∧ o % 0x10 = 8 then some ((s.reg a).toNat + Tab.get z0 h.cqTail ((o - 0x300) / 0x10) * 2 ^ 32)
    else none
  else none

def State.readPart (s : State) (o : Nat) : Option Nat :=
  if 0x40 ≤ o ∧ o < 0xC0 then
    let p := (o - 0x40) / 8
    let x := s.part p
    some (s.partState p + (if s.partZeroing p then 4 else 0) + (if x.self = 0xFF then 8 else 0) + x.epoch * 2 ^ 8 + s.prevLive p % 2 ^ 32 * 2 ^ 32)
  else if 0x900 ≤ o ∧ o < 0xA00 then
    let w := s.reg 0xD800
    let x := s.part (fld w 0 4)
    let t := if w.getLsbD 8 then x.prevMap else x.curMap
    let m := (o - 0x900) / 4
    some (Tab.get z0 t m + Tab.get z0 t (m + 1) * 2 ^ 32)
  else none

def State.readGu (s : State) (g o : Nat) : Option Nat :=
  if 0x110 ≤ o ∧ o < 0x300 ∧ o % 0x20 = 0x10 then
    let p := (o - 0x110) / 0x20
    if s.guOf p ≠ some g then some 0
    else
      let x := s.gu p
      some (bitsOf 32 (fun t => decide (x.table t ≠ [])) + (x.repl.elim 0 (fun r => r.table + 1)) * 2 ^ 32 + x.sramUsed / 8192 % 2 ^ 15 * 2 ^ 48 +
        (if x.cur.isSome then 2 ^ 63 else 0))
  else none

def State.readExp (s : State) (x o : Nat) : Option Nat :=
  if o = 0x60 then some (bitsOf 64 (fun k => s.tableBusy x (k / 32) (k % 32)))
  else if o = 0x68 then some (bitsOf 64 (fun k => (Tab.get (fun _ => none) (s.expander x).tables k).isSome))
  else none

/-- Compute banks that the units may hold for a command: of each unit its share of the BUDGET, among those that the
command reads (R274). -/
def State.carShare (s : State) (m : Nat) (c : CarCmd) : Nat :=
  let b := fld (s.inForce (carP m + 0x48)) 16 5
  sumNat ((List.range 4).map (fun u => min (b / 4 + if u < b % 4 then 1 else 0)
    (c.banks.filter (fun k => decide (k / 16 = u))).length))

/-- CAR_STATUS: the banks that a running command holds at this moment are a free value. -/
def State.readCarrel (s : State) (m o : Nat) : Option Nat :=
  let c := Tab.get (fun _ => {}) s.carrel m
  if o = 0x50 then some (match c.run with
    | some r => 1 + (if r.done then 0 else Config.freePick s.free % (s.carShare m r + 1)) * 2 ^ 8 + caSeq r.bytes % 2 ^ 32 * 2 ^ 32
    | none => c.lastSeq * 2 ^ 32)
  else none

def State.readArchive (s : State) (k o : Nat) : Option Nat :=
  if k = 2 ∧ 0x40 ≤ o ∧ o < 0x140 then
    let p := (o - 0x40) / 0x10
    let n := s.ns p
    if o % 0x10 = 0 then
      let free := n.freeSbs.length
      let mode := if n.formatted ∧ free ≤ 2 then 3 else s.gcMode p
      some ((if n.formatted then 1 else 0) + (if n.mounted then 2 else 0) + (if n.readOnly then 4 else 0) + (if n.discard.any (·.begun) then 8 else 0) +
        mode * 2 ^ 4 + n.life % 256 * 2 ^ 8 + free * 2 ^ 32)
    else some (n.cap % 2 ^ 32 + n.dataSb * 2 ^ 32)
  else if k = 2 ∧ o = 0x140 then some ((List.range 16).foldl (fun m p => max m ((s.ns p).life % 256)) 0)
  else none

/-- A signed level in bytes as 32 bits. -/
def levelBits (n : Int) : Nat := (BitVec.ofInt 32 (n / 250)).toNat

/-- TL_PORT_STATUS: FENCED while the electrical fence stands (R401), but 0 as R361 resets it until start-up has reached the
ports in its step 6 (log entry 97). -/
def State.readPort (s : State) (q o : Nat) : Option Nat :=
  let x := s.port q
  if o = 0x40 then some (if s.elecFence q then (if s.pwr.phase ≤ 6 then 0 else 3) else x.state + x.lanes * 2 ^ 4 + (if x.state = 2 then x.partner * 2 ^ 8 else 0))
  else if 0x100 ≤ o ∧ o < 0x200 ∧ o % 0x20 = 0x10 then
    let v := (o - 0x100) / 0x20
    some (levelBits (s.shapeLvl q v) + levelBits (s.policeLvl q v) * 2 ^ 32)
  else if 0x200 ≤ o ∧ o < 0x400 then some ((s.reg (tpP q + o)).toNat ||| 2 ^ 29)
  else none

def State.readCore (s : State) (c o : Nat) : Option Nat :=
  if o = 0x50 then some ((s.occupancy c).1 + (s.occupancy c).2 * 2 ^ 16 + s.tagsFree c * 2 ^ 32) else none

def State.readWalker (s : State) (c o : Nat) : Option Nat :=
  let k := s.core c
  let n := k.prefetch.length
  if o = 0x68 then some (k.tombs.length + k.held.length * 2 ^ 32 + min 255 n * 2 ^ 45 + (if 256 ≤ n then 2 ^ 53 else 0)) else none

def State.readEngines (s : State) (c o : Nat) : Option Nat :=
  let k := s.core c
  if o = 0x40 ∨ o = 0x48 then some (sumNat ((List.range 8).map (fun e => (k.eng ((o - 0x40) + e)).queue.length * 2 ^ (8 * e))))
  else if o = 0x50 then some (bitsOf 16 (fun e => (k.eng e).query.isSome) + bitsOf 16 (fun e => (k.eng e).lut.isSome) * 2 ^ 16 +
    bitsOf 16 (fun e => (k.eng e).bitmap.isSome) * 2 ^ 32)
  else none

def State.readCollator (s : State) (c o : Nat) : Option Nat :=
  if o = 0x40 then some (bitsOf 64 (fun l => ((s.core c).list l).isOpen))
  else if o = 0x48 then some (listsUsed ((List.range 64).map (fun l => s.inForce (colP c + 0x200 + l * 8))))
  else none

/-- Expander number of an EXP page. -/
def expOfInst (i : Nat) : Nat := if i < 0x10 then i else if i < 0x1C then 6 + (i - 0x10) else if i = 0x20 then 18 else 19

/-- The formed value of a register, where it has one. -/
def State.formed (s : State) (f : Fn) (p : Page) (a o : Nat) : Option Nat :=
  match p.ty with
  | .chip => readChip o
  | .power => s.readPower o
  | .clock => if o = 0x40 then some s.clk.toNat else none
  | .reset => s.readReset o
  | .desk => s.readDesk o
  | .log => s.readLogPage f o
  | .colophon => s.readColo o
  | .rollcall => s.readRc o
  | .tier => s.readTier o
  | .chipcol => if o = 0x40 then some s.merges.length else none
  | .host => s.readHost f a o
  | .part => s.readPart o
  | .gu => s.readGu p.inst o
  | .exp => s.readExp (expOfInst p.inst) o
  | .carrel => s.readCarrel p.inst o
  | .archive => s.readArchive p.inst o
  | .tp => if p.inst % 2 = 0 then s.readPort (p.inst / 2) o else none
  | .core => s.readCore p.inst o
  | .walker => s.readWalker p.inst o
  | .engines => s.readEngines p.inst o
  | .collator => s.readCollator p.inst o
  | .hc | .mc | .fc | .link | .meter | .cfg => none

/-- A register that the chapter gives a function: what it reads, write-only bits as zero (R10). -/
def State.readKey (s : State) (f : Fn) (a : Nat) : Word :=
  match pageOf a with
  | none => 0
  | some p =>
    let o := a - p.base
    if o < 0x40 then s.readHeader f p o
    else
      let wo := match rowOf a with
        | some r => r.wo
        | none => 0
      ((s.formed f p a o).map w64).getD (s.reg a) &&& ~~~(w64 wo)

/-! ### The LOSW area (R368, R384) -/

def isLosw (off : Nat) : Bool := decide (0xE000 ≤ off ∧ off < 0x10000)
def loswPart (off : Nat) : Nat := (off - 0xE000) / 0x200
def loswSlot (off : Nat) : Nat := off % 0x200 / 0x10
def State.seesLosw (s : State) (f : Fn) (off : Nat) : Bool :=
  (decide (f = .sp) || (s.fnLive f && decide (s.pwr.phase = 9))) && (!fnIsVf f || decide (s.fnPart f = some (loswPart off)))

/-- The 64-bit word at an 8-byte aligned offset as the function reads it: zero where it sees none. -/
def State.readWord (s : State) (f : Fn) (off : Nat) : Word :=
  if isLosw off then
    if s.seesLosw f off then
      let l := s.losw (loswPart off) (loswSlot off)
      w64 (if off % 0x10 = 0 then l.word else l.word2)
    else 0
  else if s.sees f off then s.readKey f (keyOf f off)
  else 0

/-! ### Access rules (R479) -/

def badShape (off size : Nat) : Bool := !(decide (size = 4 ∨ size = 8) && decide (off % size = 0))

/-- Offsets that hold two 32-bit registers, which no read latches. -/
def twoRegs (off : Nat) : Bool :=
  match pageOf off with
  | none => false
  | some p =>
    let o := off - p.base
    decide (o < 0x28) || (match p.ty with
      | .core => decide (o = 0x40 ∨ o = 0x48 ∨ o = 0x50)
      | .host => decide (0x800 ≤ o ∧ o < 0xC00)
      | .part => decide (0x900 ≤ o ∧ o < 0xA00)
      | _ => false)

/-- CORE_BANK_CONFLICT_CNT counts cycles that the model does not time: while the core issues instructions it rises by a free
number between two reads (log entry 53). -/
def State.conflicts (s : State) (f : Fn) (a : Nat) : State :=
  match pageOf a with
  | some p =>
    if p.ty = .core ∧ a - p.base = 0x88 ∧ s.sees f a = true ∧ s.reg (p.base + 0x80) ≠ 0 then
      ({ s with free := s.free + 1 } : State).bump a (Config.freePick s.free)
    else s
  | none => s

/-- Offsets of host reads and writes from here on are the function's configuration space; those below are BAR0. -/
def cfgBase : Nat := 0x1000000

/-- A read of BAR0 or of configuration space. A read of the lower word of a 64-bit register of BAR0 latches its upper word for the
function. -/
def execLatchedLowRead (f : Fn) (off : BitVec 25) (size : Nat) (s : State) : Outc :=
  let o := off.toNat
  if cfgBase ≤ o then .next { s with resp := s.cfgRead f (o - cfgBase) size } else
  let s := if badShape o size || decide (o % 8 ≠ 0) then s else s.conflicts f o
  if badShape o size then .next { (s.badAccess f o).access f with resp := { ur := true } }
  else
    let a := o / 8 * 8
    let w := s.readWord f a
    let answer (n v : Nat) (s : State) : State := { s with resp := { bytes := leBytes n v } }
    if size = 8 then .next (answer 8 w.toNat (s.access f))
    else if o % 8 = 0 then
      let s1 := answer 4 w.toNat (s.access f)
      .next (if twoRegs a then s1 else { s1 with latch := Tab.set (fun _ => none) s1.latch (fnIdx f) (some (a, w)) })
    else
      let v := match Tab.get (fun _ => none) s.latch (fnIdx f) with
        | some (k, x) => if k = a then x else w
        | none => w
      .next (answer 4 (v.toNat / 2 ^ 32) (s.access f))

/-- CTRL.QUIESCE_REQ of the page at `off` (R478, R484). -/
def execQuiesceReqWrite (f : Fn) (off : BitVec 24) (v : Bool) (s : State) : Outc :=
  let s := s.access f
  match pageOf (keyOf f off.toNat) with
  | none => .next s
  | some p =>
    if s.seesPage f p then
      let s1 := s.setField (p.base + 8) 1 1 (if v then 1 else 0)
      -- intake resumes: the group bindings that wait on a Collator issue again
      .next (if p.ty = .collator ∧ !v then s1.wakeUnit p.inst else s1)
    else .next s

/-- Registers, or halves of them, whose writes are commands of their own. -/
def ownCommand (p : Page) (o : Nat) : Nat :=
  let all := 2 ^ 64 - 1
  if o = 0x08 then all
  else match p.ty with
    | .core => if o = 0x48 then 2 ^ 32 - 1 else 0
    | .exp => if 0x40 ≤ o ∧ o < 0x60 then all else 0
    | .carrel => if o = 0x48 then all else 0
    | .rollcall => if o = 0x48 ∨ (0x100 ≤ o ∧ o < 0x180) then all else 0
    | .host => if (0x200 ≤ o ∧ o < 0x400 ∧ o % 0x10 = 0) ∨ (0x400 ≤ o ∧ o < 0x500) then all else 0
    | .part => if o = 0xC0 ∨ o = 0xC8 then all else 0
    | _ => 0

/-- W1C of ERR_STATUS: ERR_CLASS is 0 once every bit is (R477). -/
def State.afterErr (s : State) (base : Nat) : State :=
  if fld (s.reg (base + 0x10)) 0 32 = 0 then s.setField (base + 8) 40 8 0 else s

/-- A bit of IRQ_STATUS that a write of IRQ_ENABLE lets signal signals (R379). -/
def State.afterEnable (s : State) (p : Page) (old : Word) : State :=
  let w := s.reg (p.base + 0x18)
  let s1 := s.setIrqOut p.base (s.irqOut p.base &&& w)
  s1.signalBits p (w &&& (w >>> 32) &&& ~~~(old >>> 32) &&& ~~~(s1.irqOut p.base) &&& 0xFFFFFFFF)

/-- What the blocks do beside storing the value; `old` is the word before. -/
def State.afterWrite (s : State) (f : Fn) (p : Page) (a o : Nat) (old : Word) : State :=
  let w := s.reg a
  if o = 0x10 then s.afterErr p.base
  else if o = 0x18 then s.afterEnable p old
  else match p.ty with
    | .host =>
      let k := fnIdx f
      if 0x800 ≤ o ∧ o < 0xC00 ∧ o % 0x10 = 8 ∧ old.getLsbD 32 ∧ !w.getLsbD 32 then
        let v := (o - 0x800) / 0x10
        if (s.reg (msixPba k)).getLsbD v then (s.setField (msixPba k) v 1 0).sendMsix k v else s
      else s
    | .tp => if p.inst % 2 = 0 ∧ o = 0x50 ∧ !old.getLsbD 0 ∧ w.getLsbD 0 then s.gateStart (p.inst / 2) else s
    | .rollcall =>
      if 0x200 ≤ o ∧ o < 0x300 then { s with rc := { s.rc with touched := Tab.set (fun _ => false) s.rc.touched ((o - 0x200) / 0x10) true } }
      else if o = 0xC0 ∧ old.getLsbD 63 ∧ !w.getLsbD 63 then (s.setReg a 0).setReg (a + 8) 0
      else s
    | .core => if o = 0x58 ∧ old.getLsbD 47 ∧ !w.getLsbD 47 then (s.setReg a 0).setReg (a + 8) 0 else s
    | .archive => if p.inst = 0 ∧ o = 0x48 then (List.range 16).foldl (fun s q => s.updLife q) s else s
    | .carrel => if o = 0x58 ∧ old.getLsbD 63 ∧ !w.getLsbD 63 then s.setReg a 0 else s
    | _ => s

/-- Bits of a queue's CFG that a write may change while the queue is enabled (R391). -/
def State.queueMask (s : State) (f : Fn) (o : Nat) : Nat :=
  if o % 0x10 ≠ 8 ∨ o < 0x200 ∨ 0x400 ≤ o then 2 ^ 64 - 1
  else if !fnIsVf f then 0
  else if qOn (s.reg (viewP (fnIdx f) + o - 8)) then (if o < 0x300 then ones 19 16 else ones 31 8) else 2 ^ 64 - 1

/-- Bits that a function may write at key `a`, by kind: set from the value, cleared by 1. -/
def State.writable (s : State) (f : Fn) (p : Page) (a o half : Nat) : Nat × Nat :=
  match rowOf a with
  | none => (0, 0)
  | some r =>
    let m := half &&& (2 ^ 64 - 1 - ownCommand p o) &&& (match p.ty with
      | .host => s.queueMask f o
      | _ => 2 ^ 64 - 1)
    ((r.rw ||| r.st) &&& m, r.wc &&& m)

/-- A write, here of either half or of both, to a 64-bit register whose writes act on more than the word: `x` holds the bits
written, `half` their places. None where the register is no such one. -/
def State.actWrite (s : State) (f : Fn) (p : Page) (o : Nat) (x half : Word) : Option State :=
  let new := (s.reg (p.base + o) &&& ~~~half) ||| x
  match p.ty with
  | .rollcall =>
    if o = 0x48 then some (if half.getLsbD 0 then s.fencePorts x else s)
    else if 0x100 ≤ o ∧ o < 0x180 then some (s.setReg (p.base + o) new) else none
  | .exp => if 0x40 ≤ o ∧ o < 0x60 ∧ !fnIsVf f then some (s.mouldOwners (expOfInst p.inst) ((o - 0x40) / 8) new) else none
  | .host => if 0x200 ≤ o ∧ o < 0x400 ∧ o % 0x10 = 0 then some (s.queueBase f (decide (0x300 ≤ o)) (o % 0x100 / 0x10) new) else none
  | _ => none

/-- A 4-byte write to a write-only register whose field spans both halves (R479). -/
def breaksPartial (off size : Nat) : Bool :=
  decide (size = 4) && ((isLosw off && decide (off % 0x10 = 8 ∨ off % 0x10 = 12)) || (match rowOf (off / 8 * 8) with
    | some r => decide (r.wo = 2 ^ 64 - 1)
    | none => false))

/-- A write of configuration space, or of a register that has no command of its own. -/
def execRegisterWrite (f : Fn) (off : BitVec 25) (size : Nat) (v : Word) (s : State) : Outc :=
  if cfgBase ≤ off.toNat then .next (s.cfgWrite f (off.toNat - cfgBase) size v) else
  let s := s.access f
  let o := off.toNat
  if badShape o size then .next (s.badAccess f o)
  else if isLosw o then
    if !s.seesLosw f o then .next s
    else if breaksPartial o size then .next (s.badAccess f o)
    else if o % 0x10 = 8 then .next (s.modLosw (loswPart o) (loswSlot o) (fun l => { l with req := v }))
    else
      -- LOSW_START: bits 55:0 must be zero (R384, log entry 32)
      let x := if size = 8 then v.toNat else v.toNat % 2 ^ 32 * 2 ^ 32
      if (o % 0x10 = 0 ∧ size = 8 ∨ o % 0x10 = 4) ∧ x % 2 ^ 56 = 0 ∧ !lopAssigned (x / 2 ^ 56) then
        .next (s.lopInvalid f (loswPart o) (loswSlot o) (x / 2 ^ 56))
      else .next s
  else
    let b := o / 8 * 8
    if !s.sees f b then .next s
    else if breaksPartial o size then .next (s.badAccess f o)
    else
      let a := keyOf f b
      match pageOf a with
      | none => .next s
      | some p =>
        let lo := 32 * (o % 8 / 4)
        let half := if size = 8 then 2 ^ 64 - 1 else (2 ^ 32 - 1) * 2 ^ lo
        let x : Word := if size = 8 then v else (v &&& 0xFFFFFFFF#64) <<< lo
        match s.actWrite f p (a - p.base) x (w64 half) with
        | some t => .next t
        | none =>
        let m := s.writable f p a (a - p.base) half
        let old := s.reg a
        let new := ((old &&& ~~~(w64 m.1)) ||| (x &&& w64 m.1)) &&& ~~~(x &&& w64 m.2)
        .next ((s.setReg a new).afterWrite f p a (a - p.base) old)

end Sys2Proof.Machine
end

