-- ==== Sys2Proof/Machine/Dispatch.lean ====
section
/-! DEFINITION. Every command to its meaning: one arm per constructor of Instr. -/

namespace Sys2Proof.Machine

def exec (i : Instr) (s : State) : Host.Outcome State Fault Refusal :=
  match i with
  | .alu c t rd ra rb fn => Sys2Proof.Machine.execAlu c t rd ra rb fn s
  | .mul c t rd ra rb fn => Sys2Proof.Machine.execMul c t rd ra rb fn s
  | .fpu c t rd ra rb fn => Sys2Proof.Machine.execFpu c t rd ra rb fn s
  | .addi c t rd ra imm => Sys2Proof.Machine.execAddi c t rd ra imm s
  | .andi c t rd ra imm => Sys2Proof.Machine.execAndi c t rd ra imm s
  | .ori c t rd ra imm => Sys2Proof.Machine.execOri c t rd ra imm s
  | .xori c t rd ra imm => Sys2Proof.Machine.execXori c t rd ra imm s
  | .shli c t rd ra imm => Sys2Proof.Machine.execShli c t rd ra imm s
  | .shri c t rd ra imm => Sys2Proof.Machine.execShri c t rd ra imm s
  | .srai c t rd ra imm => Sys2Proof.Machine.execSrai c t rd ra imm s
  | .slti c t rd ra imm => Sys2Proof.Machine.execSlti c t rd ra imm s
  | .lui c t rd imm => Sys2Proof.Machine.execLui c t rd imm s
  | .beq c t ra rb off => Sys2Proof.Machine.execBeq c t ra rb off s
  | .bne c t ra rb off => Sys2Proof.Machine.execBne c t ra rb off s
  | .blt c t ra rb off => Sys2Proof.Machine.execBlt c t ra rb off s
  | .bge c t ra rb off => Sys2Proof.Machine.execBge c t ra rb off s
  | .bltu c t ra rb off => Sys2Proof.Machine.execBltu c t ra rb off s
  | .bgeu c t ra rb off => Sys2Proof.Machine.execBgeu c t ra rb off s
  | .jal c t rd off => Sys2Proof.Machine.execJal c t rd off s
  | .jalr c t rd ra imm => Sys2Proof.Machine.execJalr c t rd ra imm s
  | .endT c t rd ra rb fn => Sys2Proof.Machine.execEndT c t rd ra rb fn s
  | .yield c t rd ra imm => Sys2Proof.Machine.execYield c t rd ra imm s
  | .ld c t rd ra size sx off seu => Sys2Proof.Machine.execLd c t rd ra size sx off seu s
  | .st c t rb ra size sx off => Sys2Proof.Machine.execSt c t rb ra size sx off s
  | .lcopy c t rd ra rb hi => Sys2Proof.Machine.execLcopy c t rd ra rb hi s
  | .lzero c t rd ra rb hi => Sys2Proof.Machine.execLzero c t rd ra rb hi s
  | .rld c t rd ra size sx off => Sys2Proof.Machine.execRld c t rd ra size sx off s
  | .rst c t rb ra size sx off => Sys2Proof.Machine.execRst c t rb ra size sx off s
  | .atom c t rd ra rb fn => Sys2Proof.Machine.execAtom c t rd ra rb fn s
  | .fence c t rd ra rb fn => Sys2Proof.Machine.execFence c t rd ra rb fn s
  | .rda c t rd ra rb fn => Sys2Proof.Machine.execRda c t rd ra rb fn s
  | .wra c t rd ra rb fn => Sys2Proof.Machine.execWra c t rd ra rb fn s
  | .waitr c t rd ra imm => Sys2Proof.Machine.execWaitr c t rd ra imm s
  | .esub c t rd ra rb fn => Sys2Proof.Machine.execEsub c t rd ra rb fn s
  | .ewait c t rd ra rb fn => Sys2Proof.Machine.execEwait c t rd ra rb fn s
  | .cins c t rd ra rb fn => Sys2Proof.Machine.execCins c t rd ra rb fn s
  | .vts c t rd ra rb fn => Sys2Proof.Machine.execVts c t rd ra rb fn s
  | .hpush c t rd ra rb fn => Sys2Proof.Machine.execHpush c t rd ra rb fn s
  | .hpop c t rd ra rb fn => Sys2Proof.Machine.execHpop c t rd ra rb fn s
  | .hash c t rd ra rb fn => Sys2Proof.Machine.execHash c t rd ra rb fn s
  | .spawn c t rd ra rb fn => Sys2Proof.Machine.execSpawn c t rd ra rb fn s
  | .gwait c t rd ra rb hi => Sys2Proof.Machine.execGwait c t rd ra rb hi s
  | .gsig c t rd ra rb hi => Sys2Proof.Machine.execGsig c t rd ra rb hi s
  | .gld c t rd ra size off => Sys2Proof.Machine.execGld c t rd ra size off s
  | .gst c t rb ra size off => Sys2Proof.Machine.execGst c t rb ra size off s
  | .wqtake c t rd ra rb fn => Sys2Proof.Machine.execWqtake c t rd ra rb fn s
  | .gnew c t rd ra rb fn => Sys2Proof.Machine.execGnew c t rd ra rb fn s
  | .gdone c t rd ra rb hi => Sys2Proof.Machine.execGdone c t rd ra rb hi s
  | .gkill c t rd ra rb hi => Sys2Proof.Machine.execGkill c t rd ra rb hi s
  | .specb c t rd ra rb fn => Sys2Proof.Machine.execSpecb c t rd ra rb fn s
  | .specc c t rd ra rb fn => Sys2Proof.Machine.execSpecc c t rd ra rb fn s
  | .specx c t rd ra rb fn => Sys2Proof.Machine.execSpecx c t rd ra rb fn s
  | .contextFree c t => Sys2Proof.Machine.execContextFree c t s
  | .readDataReturn i_ line => Sys2Proof.Machine.execReadDataReturn i_ line s
  | .writeAck i_ => Sys2Proof.Machine.execWriteAck i_ s
  | .remoteAccessAtTarget i_ => Sys2Proof.Machine.execRemoteAccessAtTarget i_ s
  | .remoteResponse i_ => Sys2Proof.Machine.execRemoteResponse i_ s
  | .hartRunWrite f c v => Sys2Proof.Machine.execHartRunWrite f c v s
  | .coreCommit f c => Sys2Proof.Machine.execCoreCommit f c s
  | .coreSoftReset f c => Sys2Proof.Machine.execCoreSoftReset f c s
  | .coreZeroingDone c => Sys2Proof.Machine.execCoreZeroingDone c s
  | .coreResetReady c => Sys2Proof.Machine.execCoreResetReady c s
  | .descStart c e => Sys2Proof.Machine.execDescStart c e s
  | .descComplete c e => Sys2Proof.Machine.execDescComplete c e s
  | .collatorTake c e => Sys2Proof.Machine.execCollatorTake c e s
  | .listSeal c l => Sys2Proof.Machine.execListSeal c l s
  | .collatorCommit f c => Sys2Proof.Machine.execCollatorCommit f c s
  | .groupFreeReport c => Sys2Proof.Machine.execGroupFreeReport c s
  | .mergeRequest => Sys2Proof.Machine.execMergeRequest s
  | .publishSample p => Sys2Proof.Machine.execPublishSample p s
  | .publishPointWrite p => Sys2Proof.Machine.execPublishPointWrite p s
  | .indexSnapshotCommit f p o => Sys2Proof.Machine.execIndexSnapshotCommit f p o s
  | .snapshotPublish p => Sys2Proof.Machine.execSnapshotPublish p s
  | .prefetchFill i_ => Sys2Proof.Machine.execPrefetchFill i_ s
  | .prefetchServe c k => Sys2Proof.Machine.execPrefetchServe c k s
  | .ringPoll p => Sys2Proof.Machine.execRingPoll p s
  | .admitNext => Sys2Proof.Machine.execAdmit s
  | .workItemRelease c => Sys2Proof.Machine.execWorkItemRelease c s
  | .reserveRefill => Sys2Proof.Machine.execReserveRefill s
  | .queryStageAdvance q => Sys2Proof.Machine.execQueryStageAdvance q s
  | .queryComplete q => Sys2Proof.Machine.execQueryComplete q s
  | .modelStepStart p => Sys2Proof.Machine.execModelStepStart p s
  | .generativeRound p => Sys2Proof.Machine.execGenerativeRound p s
  | .layerStart p => Sys2Proof.Machine.execLayerStart p s
  | .ownershipOp r => Sys2Proof.Machine.execOwnershipOp r s
  | .stateReplyReceive => Sys2Proof.Machine.execStateReplyReceive s
  | .handoffSweep => Sys2Proof.Machine.execHandoffSweep s
  | .stateClaim f p o => Sys2Proof.Machine.execStateClaim f p o s
  | .deskCommit f p => Sys2Proof.Machine.execDeskCommit f p s
  | .deskConfigEffect p => Sys2Proof.Machine.execDeskConfigEffect p s
  | .tierRead i_ line errs => Sys2Proof.Machine.execTierRead i_ line errs s
  | .tierWrite i_ line => Sys2Proof.Machine.execTierWrite i_ line s
  | .tierAtom i_ errs => Sys2Proof.Machine.execTierAtom i_ errs s
  | .scrubRead g line errs => Sys2Proof.Machine.execScrubRead g line errs s
  | .migrationPeriod p => Sys2Proof.Machine.execMigrationPeriod p s
  | .moveCopyDone p => Sys2Proof.Machine.execMoveCopyDone p s
  | .migrationBatch f p o => Sys2Proof.Machine.execMigrationBatch f p o s
  | .tierCommit f => Sys2Proof.Machine.execTierCommit f s
  | .bar2Read f x n => Sys2Proof.Machine.execBar2Read f x n s
  | .bar2Write f x data => Sys2Proof.Machine.execBar2Write f x data s
  | .pieceZeroingDone g => Sys2Proof.Machine.execPieceZeroingDone g s
  | .expanderBlockDecode i_ b => Sys2Proof.Machine.execExpanderBlockDecode i_ b s
  | .expanderBlockEncode i_ b => Sys2Proof.Machine.execExpanderBlockEncode i_ b s
  | .mouldTableLoad f p o => Sys2Proof.Machine.execMouldTableLoad f p o s
  | .mouldInstall p => Sys2Proof.Machine.execMouldInstall p s
  | .mouldOwnerWrite f x q v => Sys2Proof.Machine.execMouldOwnerWrite f x q v s
  | .expanderCommit f x => Sys2Proof.Machine.execExpanderCommit f x s
  | .carrelRingPoll m => Sys2Proof.Machine.execCarrelRingPoll m s
  | .scan m bad corr => Sys2Proof.Machine.execScan m bad corr s
  | .select m bad corr => Sys2Proof.Machine.execSelect m bad corr s
  | .rowsum m bad corr => Sys2Proof.Machine.execRowsum m bad corr s
  | .carrelComplete m => Sys2Proof.Machine.execCarrelComplete m s
  | .carrelCancel m q => Sys2Proof.Machine.execCarrelCancel m q s
  | .carrelEnableWrite f m v => Sys2Proof.Machine.execCarrelEnableWrite f m v s
  | .carrelCommit f m => Sys2Proof.Machine.execCarrelCommit f m s
  | .gatherRingPoll p => Sys2Proof.Machine.execGatherRingPoll p s
  | .lookup p => Sys2Proof.Machine.execLookup p s
  | .update p => Sys2Proof.Machine.execUpdate p s
  | .gatherBatchComplete p => Sys2Proof.Machine.execGatherBatchComplete p s
  | .rowReq => Sys2Proof.Machine.execRowReq s
  | .rowData => Sys2Proof.Machine.execRowData s
  | .gradientApply => Sys2Proof.Machine.execGradientApply s
  | .hotPeriodExpiry g => Sys2Proof.Machine.execHotPeriodExpiry g s
  | .tableReplace f p o => Sys2Proof.Machine.execTableReplace f p o s
  | .tableReplaceCommit p => Sys2Proof.Machine.execTableReplaceCommit p s
  | .tableHoldExpiry p => Sys2Proof.Machine.execTableHoldExpiry p s
  | .guCommit f g => Sys2Proof.Machine.execGuCommit f g s
  | .archiveWrite i_ line => Sys2Proof.Machine.execArchiveWrite i_ line s
  | .archiveRead i_ unit => Sys2Proof.Machine.execArchiveRead i_ unit s
  | .codewordReadDone i_ unit r => Sys2Proof.Machine.execCodewordReadDone i_ unit r s
  | .stripeCloseExpiry p => Sys2Proof.Machine.execStripeCloseExpiry p s
  | .stripeProgramDone p fails => Sys2Proof.Machine.execStripeProgramDone p fails s
  | .journalCloseExpiry p => Sys2Proof.Machine.execJournalCloseExpiry p s
  | .journalProgramDone p => Sys2Proof.Machine.execJournalProgramDone p s
  | .checkpointRound p => Sys2Proof.Machine.execCheckpointRound p s
  | .collectionIdleExpiry p => Sys2Proof.Machine.execCollectionIdleExpiry p s
  | .collect p bad => Sys2Proof.Machine.execCollect p bad s
  | .eraseDone p fails => Sys2Proof.Machine.execEraseDone p fails s
  | .discard f p o => Sys2Proof.Machine.execDiscard f p o s
  | .secureDiscard f p o => Sys2Proof.Machine.execSecureDiscard f p o s
  | .discardAccept p => Sys2Proof.Machine.execDiscardAccept p s
  | .collectionFlush f p o => Sys2Proof.Machine.execCollectionFlush f p o s
  | .flashFormat f p o => Sys2Proof.Machine.execFlashFormat f p o s
  | .archiveCommit f => Sys2Proof.Machine.execArchiveCommit f s
  | .egressSlot q => Sys2Proof.Machine.execEgressSlot q s
  | .flitReceive q x crc => Sys2Proof.Machine.execFlitReceive q x crc s
  | .replayTimeout q => Sys2Proof.Machine.execReplayTimeout q s
  | .linkTrainingDone q lanes partner => Sys2Proof.Machine.execLinkTrainingDone q lanes partner s
  | .gateEntryExpiry q => Sys2Proof.Machine.execGateEntryExpiry q s
  | .gclSwitch q => Sys2Proof.Machine.execGclSwitch q s
  | .histSample q => Sys2Proof.Machine.execHistSample q s
  | .histClear f q => Sys2Proof.Machine.execHistClear f q s
  | .sendRingPoll p => Sys2Proof.Machine.execSendRingPoll p s
  | .put p => Sys2Proof.Machine.execPut p s
  | .sendComplete p => Sys2Proof.Machine.execSendComplete p s
  | .vcOwnerChange q v => Sys2Proof.Machine.execVcOwnerChange q v s
  | .linkCommit f => Sys2Proof.Machine.execLinkCommit f s
  | .portCommit f q => Sys2Proof.Machine.execPortCommit f q s
  | .linkPortReset f q => Sys2Proof.Machine.execLinkPortReset f q s
  | .heartbeatSend => Sys2Proof.Machine.execHeartbeatSend s
  | .heartbeatReceive => Sys2Proof.Machine.execHeartbeatReceive s
  | .heartbeatMiss q => Sys2Proof.Machine.execHeartbeatMiss q s
  | .lost => Sys2Proof.Machine.execLost s
  | .arrive => Sys2Proof.Machine.execArrive s
  | .release => Sys2Proof.Machine.execRelease s
  | .abort => Sys2Proof.Machine.execAbort s
  | .barrierPoll b => Sys2Proof.Machine.execBarrierPoll b s
  | .portFenceWrite f v => Sys2Proof.Machine.execPortFenceWrite f v s
  | .nodeFenceWrite f i_ v => Sys2Proof.Machine.execNodeFenceWrite f i_ v s
  | .rollcallCommit f => Sys2Proof.Machine.execRollcallCommit f s
  | .sqTailWrite f q v => Sys2Proof.Machine.execSqTailWrite f q v s
  | .cqHeadWrite f q v => Sys2Proof.Machine.execCqHeadWrite f q v s
  | .queueEnableWrite f cq q v => Sys2Proof.Machine.execQueueEnableWrite f cq q v s
  | .cqTimerExpiry f q => Sys2Proof.Machine.execCqTimerExpiry f q s
  | .hostCommit f => Sys2Proof.Machine.execHostCommit f s
  | .perst b => Sys2Proof.Machine.execPerst b s
  | .flr f => Sys2Proof.Machine.execFlr f s
  | .partResetWrite f v => Sys2Proof.Machine.execPartResetWrite f v s
  | .partitionReset p => Sys2Proof.Machine.execPartitionReset p s
  | .partResetDone p => Sys2Proof.Machine.execPartResetDone p s
  | .partCommit f => Sys2Proof.Machine.execPartCommit f s
  | .partRunWrite f v => Sys2Proof.Machine.execPartRunWrite f v s
  | .compositionChange f p o => Sys2Proof.Machine.execCompositionChange f p o s
  | .bulkScan f p o => Sys2Proof.Machine.execBulkScan f p o s
  | .powerCommit f => Sys2Proof.Machine.execPowerCommit f s
  | .freqChangeDone x => Sys2Proof.Machine.execFreqChangeDone x s
  | .vidStep up => Sys2Proof.Machine.execVidStep up s
  | .droopDetect x => Sys2Proof.Machine.execDroopDetect x s
  | .droopRecover x cycles => Sys2Proof.Machine.execDroopRecover x cycles s
  | .pwrBrownout mv => Sys2Proof.Machine.execPwrBrownout mv s
  | .brownoutEnd ns mv => Sys2Proof.Machine.execBrownoutEnd ns mv s
  | .pwrSupplyReset mv => Sys2Proof.Machine.execPwrSupplyReset mv s
  | .thermalSample deg => Sys2Proof.Machine.execThermalSample deg s
  | .throttleStep r => Sys2Proof.Machine.execThrottleStep r s
  | .ungateSlot => Sys2Proof.Machine.execUngateSlot s
  | .engineRestartSlot => Sys2Proof.Machine.execEngineRestartSlot s
  | .powerOn => Sys2Proof.Machine.execPowerOn s
  | .pwrOkRise => Sys2Proof.Machine.execPwrOkRise s
  | .pwrOkFall => Sys2Proof.Machine.execPwrOkFall s
  | .startupStepDone r => Sys2Proof.Machine.execStartupStepDone r s
  | .chipRstNAssert ns => Sys2Proof.Machine.execChipRstNAssert ns s
  | .chipRstNRelease => Sys2Proof.Machine.execChipRstNRelease s
  | .rstCmd f key => Sys2Proof.Machine.execRstCmd f key s
  | .standbyLoss => Sys2Proof.Machine.execStandbyLoss s
  | .mrExtend f v => Sys2Proof.Machine.execMrExtend f v s
  | .push f off => Sys2Proof.Machine.execPush f off s
  | .pushDone ok => Sys2Proof.Machine.execPushDone ok s
  | .firmwareStage f part => Sys2Proof.Machine.execFirmwareStage f part s
  | .getVersion b => Sys2Proof.Machine.execGetVersion b s
  | .getCapabilities b => Sys2Proof.Machine.execGetCapabilities b s
  | .negotiateAlgorithms b base hash => Sys2Proof.Machine.execNegotiateAlgorithms b base hash s
  | .getDigests b => Sys2Proof.Machine.execGetDigests b s
  | .getCertificate b slot off len => Sys2Proof.Machine.execGetCertificate b slot off len s
  | .challenge b slot nonce => Sys2Proof.Machine.execChallenge b slot nonce s
  | .getMeasurements b index sign nonce => Sys2Proof.Machine.execGetMeasurements b index sign nonce s
  | .chunkSend b last data => Sys2Proof.Machine.execChunkSend b last data s
  | .chunkGet b k => Sys2Proof.Machine.execChunkGet b k s
  | .getPqCert b off len => Sys2Proof.Machine.execGetPqCert b off len s
  | .getPqSig b => Sys2Proof.Machine.execGetPqSig b s
  | .meterIncrement => Sys2Proof.Machine.execMeterIncrement s
  | .energySample uj => Sys2Proof.Machine.execEnergySample uj s
  | .energyApportion => Sys2Proof.Machine.execEnergyApportion s
  | .meterIntervalExpiry => Sys2Proof.Machine.execMeterIntervalExpiry s
  | .recordCut => Sys2Proof.Machine.execRecordCut s
  | .meterStart slot => Sys2Proof.Machine.execMeterStart slot s
  | .mirrorRefresh => Sys2Proof.Machine.execMirrorRefresh s
  | .status crc => Sys2Proof.Machine.execStatus crc s
  | .readRecord crc seq off len => Sys2Proof.Machine.execReadRecord crc seq off len s
  | .readCert crc chain off len => Sys2Proof.Machine.execReadCert crc chain off len s
  | .cut crc => Sys2Proof.Machine.execCut crc s
  | .writeConfig crc interval addr => Sys2Proof.Machine.execWriteConfig crc interval addr s
  | .fwPush crc off data => Sys2Proof.Machine.execFwPush crc off data s
  | .fwCommit crc => Sys2Proof.Machine.execFwCommit crc s
  | .reseal crc token => Sys2Proof.Machine.execReseal crc token s
  | .logEventTake => Sys2Proof.Machine.execLogEventTake s
  | .logTokenRefill code => Sys2Proof.Machine.execLogTokenRefill code s
  | .logSummaryTimeout code => Sys2Proof.Machine.execLogSummaryTimeout code s
  | .logPersistWriteDone ok => Sys2Proof.Machine.execLogPersistWriteDone ok s
  | .logClear f key => Sys2Proof.Machine.execLogClear f key s
  | .logCursor f atEnd => Sys2Proof.Machine.execLogCursor f atEnd s
  | .logWindowAdvance f => Sys2Proof.Machine.execLogWindowAdvance f s
  | .latchedLowRead f off size => Sys2Proof.Machine.execLatchedLowRead f off size s
  | .quiesceReqWrite f off v => Sys2Proof.Machine.execQuiesceReqWrite f off v s
  | .registerWrite f off size v => Sys2Proof.Machine.execRegisterWrite f off size v s
  | .supplyResetRelease => Sys2Proof.Machine.execSupplyResetRelease s
  | .recordSigningDone => Sys2Proof.Machine.execRecordSigningDone s
  | .logPersist => Sys2Proof.Machine.execLogPersist s
  | .opSecondsTick => Sys2Proof.Machine.execOpSecondsTick s

end Sys2Proof.Machine
end

