-- ==== Sys2Proof/Safety.lean ====
section
/-! DEFINITION. The words in which claims speak of runs: what it is for a command to complete, and the invariants that
every step keeps. -/

namespace Sys2Proof.Machine

/-- The outcome is the next state `t`. -/
def goesTo (o : Host.Outcome State Fault Refusal) (t : State) : Prop := o = .next t

/-- The command completes with a next state of which `post` holds. -/
def completes (o : Host.Outcome State Fault Refusal) (post : State → Prop) : Prop := ∃ t, o = .next t ∧ post t

/-- No fault and no refusal. -/
def safe (s : State) : Prop := ∃ t, step s = .next t

/-- The tiers' memory is in its canonical form: addresses strictly rising, and no byte equal to what an unlisted one
reads as. -/
def memOk (s : State) : Prop := Mem.wf s.mem = true

/-- RST_STATUS.PHASE, RST_CAUSE.CAUSE and PWR_STATUS.TARGET_MV hold values that R413, R426 and R431 give them. -/
def powerOk (s : State) : Prop :=
  (s.pwr.phase ≤ 9 ∨ s.pwr.phase = 15) ∧ (1 ≤ s.pwr.cause ∧ s.pwr.cause ≤ 5) ∧
  (650 ≤ s.pwr.target ∧ s.pwr.target ≤ 850 ∧ s.pwr.target % 5 = 0)

/-- No fuse has cleared: the set bits of FW_SVN and KEY_REVOKE stay set, and SEAL_COUNT and METER_SVN have not fallen
(R432, R437, R446). -/
def fusesRise (b s : State) : Prop :=
  b.colo.fwSvn &&& ~~~s.colo.fwSvn = 0 ∧ b.colo.revoke &&& ~~~s.colo.revoke = 0 ∧
  b.meter.sealCnt ≤ s.meter.sealCnt ∧ b.meter.svn ≤ s.meter.svn

/-! ### One context -/

/-- Context `t` of core `c` may issue the instruction at its PC (R47, R61). -/
def canIssue (s : State) (c t : Nat) : Prop := s.mayIssue c t = true ∧ s.fetchOk c t = true

/-- The context that issues a thread or hart instruction. -/
def issuedBy : Instr → Option (CoreId × CtxId)
  | .alu c t .. | .mul c t .. | .fpu c t .. | .addi c t .. | .andi c t .. | .ori c t .. | .xori c t .. | .shli c t ..
  | .shri c t .. | .srai c t .. | .slti c t .. | .lui c t .. | .beq c t .. | .bne c t .. | .blt c t .. | .bge c t ..
  | .bltu c t .. | .bgeu c t .. | .jal c t .. | .jalr c t .. | .endT c t .. | .yield c t .. | .ld c t .. | .st c t ..
  | .lcopy c t .. | .lzero c t .. | .rld c t .. | .rst c t .. | .atom c t .. | .fence c t .. | .rda c t ..
  | .wra c t .. | .waitr c t .. | .esub c t .. | .ewait c t .. | .cins c t .. | .vts c t .. | .hash c t ..
  | .hpush c t .. | .hpop c t .. | .gwait c t .. | .gsig c t .. | .gld c t .. | .gst c t .. | .gdone c t ..
  | .gkill c t .. | .specb c t .. | .specc c t .. | .specx c t .. | .spawn c t .. | .wqtake c t .. | .gnew c t .. => some (c, t)
  | _ => none

/-- Nothing but context `t` of core `c` and that core's CORE_INSTR_CNT differs between `s` and `u`. -/
def onlyThread (s u : State) (c t : Nat) : Prop :=
  (∃ k r, u = { s with cores := k, regs := r }) ∧
  (∀ d, { u.core d with threads := ⟨[]⟩ } = { s.core d with threads := ⟨[]⟩ }) ∧
  (∀ d v, d ≠ c ∨ v ≠ t → u.thr d v = s.thr d v) ∧
  (∀ a, a ≠ coreP c + 0x80 → u.reg a = s.reg a)

/-- The context's registers and PC after an instruction that writes `v` to RD and goes to `pc`: register 0 reads 0 and
the others keep their values (R43); the context's other fields are as they were. -/
def regWrote (s u : State) (c t : Nat) (rd : Reg) (v : Word) (pc : BitVec 16) : Prop :=
  (u.thr c t).pc = pc ∧ (∀ i, (u.thr c t).r i = if i = 0 then 0 else if i = rd then v else (s.thr c t).r i) ∧
  { u.thr c t with g := ⟨[]⟩, pc := 0, wait := .none } = { s.thr c t with g := ⟨[]⟩, pc := 0, wait := .none }

/-- The same, and nothing else has changed. -/
def wrote (s u : State) (c t : Nat) (rd : Reg) (v : Word) (pc : BitVec 16) : Prop :=
  regWrote s u c t rd v pc ∧ onlyThread s u c t

/-- The context's registers are as they were and its PC is `pc`. -/
def goneTo (s u : State) (c t : Nat) (pc : BitVec 16) : Prop := (u.thr c t).pc = pc ∧ ∀ i, (u.thr c t).r i = (s.thr c t).r i

/-- The access `i` under way is one of context `t` of core `c` of kind `k` at `a`. -/
def underWay (u : State) (i : Nat) (c t : Nat) (k : ReqKind) (a : Word) (p : Req → Prop) : Prop :=
  ∃ q, u.req i = some q ∧ q.core = c ∧ q.ctx = t ∧ q.kind = k ∧ q.addr = a ∧ p q

/-- A byte of a core's scratch. -/
def scrByte (s : State) (c a : Nat) : Byte := Mem.rd (s.core c).scratch a

/-- No word of `[a, a + n)` of the core's scratch holds a bit error or a poison mark (R60, R72). -/
def clean (s : State) (c a n : Nat) : Prop := (s.core c).check a n = (0, false, false)

/-- The scratch of core `c` holds the bytes `bs` from `a` on, and every other byte of every scratch and every byte of the
tiers is as it was. -/
def stored (s u : State) (c a : Nat) (bs : List Byte) : Prop :=
  (∀ d b, scrByte u d b = if d = c ∧ a ≤ b ∧ b < a + bs.length then bs.getD (b - a) 0 else scrByte s d b) ∧ u.mem = s.mem

/-- No byte of a scratch or of the tiers has changed. -/
def storedNone (s u : State) : Prop := (∀ d b, scrByte u d b = scrByte s d b) ∧ u.mem = s.mem

/-! ### Commands of the other units -/

/-- Function `f` may start an operation in slot `o` of partition `p`: the function answers, and the slot is neither QUEUED,
RUNNING nor PAUSED (R364, R384, R385). -/
def mayStart (s : State) (f : Fn) (p o : Nat) : Prop :=
  f ≠ .sp ∧ s.fnLive f = true ∧ (fnIsVf f = true → s.fnPart f = some p) ∧ o < 30 ∧ (s.losw p o).state ≠ 1 ∧ (s.losw p o).state ≠ 2 ∧ (s.losw p o).state ≠ 6

/-- The start of operation `op` in slot `o` reads the `n` bytes of the slot's request: the state after it, with the slot
QUEUED, the bytes, and whether they read poisoned (R384 to R386). -/
def slotRequest (s : State) (f : Fn) (p o op n : Nat) : State × List Byte × Bool :=
  ((s.access f).modLosw p o (fun l => { l with op := op, state := 1, error := 0, prog := 0, total := 0, part := 0xFFFFFFFF })).devRead
    p (s.losw p o).req n

/-- The request of a start of operation `op` lies in the partition and reads `bs`, unpoisoned (R386). -/
def asks (s : State) (f : Fn) (p o op n : Nat) (bs : List Byte) : Prop :=
  s.inAlloc p (s.losw p o).req n = true ∧ (s.losw p o).req.toNat % 16 = 0 ∧ (slotRequest s f p o op n).2 = (bs, false)

/-- Every staged register of page `g` is in force, as software last wrote it (R482). -/
def inEffect (s u : State) (g : Page) : Prop := ∀ a ∈ stagedKeys g, Tab.get regReset u.force a = s.reg a

/-- No staged register of page `g` has come into force, and its ERR_STATUS bit `b` is set (R482). -/
def refusedWith (s u : State) (g : Page) (b : Nat) : Prop :=
  (∀ a ∈ stagedKeys g, Tab.get regReset u.force a = Tab.get regReset s.force a) ∧ (u.reg (g.base + 0x10)).getLsbD b = true

/-- A COMMIT of page `g` whose check finds `c` puts every staged value in force, or leaves all of them staged with bit 0 or
bit 1 of ERR_STATUS set (R482). -/
def commitDoes (s : State) (o : Host.Outcome State Fault Refusal) (g : Page) (c : Commit) : Prop :=
  match c with
  | .ok => completes o (fun u => inEffect s u g)
  | .notQuiesced => completes o (fun u => refusedWith s u g 0)
  | .invalid => completes o (fun u => refusedWith s u g 1)

/-- The counter at `a` has risen by `n`, saturating (R12). -/
def counted (s u : State) (a n : Nat) : Prop := (u.reg a).toNat = min (2 ^ 64 - 1) ((s.reg a).toNat + n)

/-! ### What a command may change -/

/-- The parts of the state, but for the queue. -/
inductive StatePart where
  | free | resp | msix | irqSent | clk | nextId | regs | force | latch | cores | reqs | desk | deskP | merges | parts | mem
  | memBad | zeroing | tierP | exps | mloads | carrel | gus | gather | arc | badBlks | ports | linkP | rc | hosts | pwr | colo | meter | log
deriving DecidableEq, Repr

def StatePart.all : List StatePart :=
  [.free, .resp, .msix, .irqSent, .clk, .nextId, .regs, .force, .latch, .cores, .reqs, .desk, .deskP, .merges, .parts, .mem,
   .memBad, .zeroing, .tierP, .exps, .mloads, .carrel, .gus, .gather, .arc, .badBlks, .ports, .linkP, .rc, .hosts, .pwr, .colo, .meter, .log]

/-- A part is the same in both states. -/
def samePart (s t : State) : StatePart → Prop
  | .free => t.free = s.free
  | .resp => t.resp = s.resp
  | .msix => t.msix = s.msix
  | .irqSent => t.irqSent = s.irqSent
  | .clk => t.clk = s.clk
  | .nextId => t.nextId = s.nextId
  | .regs => t.regs = s.regs
  | .force => t.force = s.force
  | .latch => t.latch = s.latch
  | .cores => t.cores = s.cores
  | .reqs => t.reqs = s.reqs
  | .desk => t.desk = s.desk
  | .deskP => t.deskP = s.deskP
  | .merges => t.merges = s.merges
  | .parts => t.parts = s.parts
  | .mem => t.mem = s.mem
  | .memBad => t.memBad = s.memBad
  | .zeroing => t.zeroing = s.zeroing
  | .tierP => t.tierP = s.tierP
  | .exps => t.exps = s.exps
  | .mloads => t.mloads = s.mloads
  | .carrel => t.carrel = s.carrel
  | .gus => t.gus = s.gus
  | .gather => t.gather = s.gather
  | .arc => t.arc = s.arc
  | .badBlks => t.badBlks = s.badBlks
  | .ports => t.ports = s.ports
  | .linkP => t.linkP = s.linkP
  | .rc => t.rc = s.rc
  | .hosts => t.hosts = s.hosts
  | .pwr => t.pwr = s.pwr
  | .colo => t.colo = s.colo
  | .meter => t.meter = s.meter
  | .log => t.log = s.log

/-- Nothing has changed but the parts listed; the queue never does. -/
def onlyParts (l : List StatePart) (s t : State) : Prop := t.pending = s.pending ∧ ∀ k, k ∉ l → samePart s t k

/-- What the thread and hart instructions may change. -/
def threadTouches : Instr → Option (List StatePart)
  | .alu .. | .mul .. | .fpu .. | .addi .. | .andi .. | .ori .. | .xori .. | .shli .. | .shri .. | .srai ..
  | .slti .. | .lui .. | .beq .. | .bne .. | .blt .. | .bge .. | .bltu .. | .bgeu .. | .jal .. | .jalr .. | .endT ..
  | .yield .. | .ld .. | .st .. | .lcopy .. | .lzero .. | .fence .. | .waitr .. | .ewait .. | .hash .. | .gwait ..
  | .gsig .. | .gld .. | .gdone .. | .gkill .. | .specb .. =>
    some [.regs, .cores, .desk, .deskP]
  | .rld .. | .rst .. | .atom .. =>
    some [.nextId, .regs, .cores, .reqs, .desk, .deskP]
  | .rda .. | .wra .. =>
    some [.free, .nextId, .regs, .cores, .reqs, .desk, .deskP]
  | .esub .. =>
    some [.nextId, .regs, .cores, .desk, .deskP]
  | .cins .. | .vts .. | .gst .. =>
    some [.free, .regs, .cores, .desk, .deskP, .parts, .mem, .memBad, .zeroing, .tierP, .carrel, .arc, .log]
  | .hpush .. | .hpop .. =>
    some [.free, .nextId, .regs, .cores, .reqs, .desk, .deskP, .parts, .mem, .memBad, .zeroing, .tierP, .carrel, .arc, .log]
  | .spawn .. | .wqtake .. | .gnew .. =>
    some [.free, .regs, .cores, .desk, .deskP]
  | .specc .. =>
    some [.regs, .cores, .reqs, .desk, .deskP]
  | .specx .. =>
    some [.free, .regs, .cores, .reqs, .desk, .deskP]
  | _ => none

/-- What the core, engine, Collator and index commands may change. -/
def coreTouches : Instr → Option (List StatePart)
  | .contextFree .. =>
    some [.regs, .cores]
  | .readDataReturn .. =>
    some [.nextId, .regs, .cores, .reqs, .deskP]
  | .writeAck .. =>
    some [.regs, .cores, .reqs, .deskP]
  | .remoteAccessAtTarget .. =>
    some [.regs, .cores, .reqs]
  | .remoteResponse .. =>
    some [.regs, .cores, .reqs, .desk, .deskP]
  | .hartRunWrite .. =>
    some [.regs, .latch, .cores, .deskP]
  | .coreCommit .. | .collatorCommit .. =>
    some [.msix, .irqSent, .regs, .force, .latch]
  | .coreSoftReset .. =>
    some [.free, .regs, .latch, .cores, .deskP]
  | .coreZeroingDone .. =>
    some [.free, .regs, .cores, .mem, .memBad, .zeroing, .tierP, .arc, .meter, .log]
  | .coreResetReady .. =>
    some [.cores]
  | .descStart .. =>
    some [.free, .regs, .cores, .desk, .deskP, .parts, .mem, .memBad, .zeroing, .tierP, .carrel, .arc, .meter, .log]
  | .descComplete .. =>
    some [.free, .regs, .cores, .desk, .deskP, .meter]
  | .collatorTake .. =>
    some [.free, .regs, .cores, .meter]
  | .listSeal .. =>
    some [.free, .regs, .cores, .desk, .deskP, .merges, .parts, .mem, .memBad, .zeroing, .tierP, .carrel, .arc, .log]
  | .groupFreeReport .. =>
    some [.free, .cores, .desk, .deskP]
  | .mergeRequest .. =>
    some [.free, .regs, .desk, .merges, .parts, .mem, .memBad, .zeroing, .tierP, .carrel, .arc, .meter, .log]
  | .publishSample .. =>
    some [.free, .regs, .cores, .deskP, .mem, .memBad, .zeroing, .tierP, .arc, .meter, .log]
  | .publishPointWrite .. =>
    some [.free, .regs, .deskP, .mem, .memBad, .zeroing, .tierP, .carrel, .arc, .log]
  | .indexSnapshotCommit .. =>
    some [.free, .regs, .latch, .deskP, .parts, .mem, .memBad, .zeroing, .tierP, .carrel, .arc, .meter, .log]
  | .snapshotPublish .. =>
    some [.free, .regs, .cores, .deskP, .parts, .mem, .memBad, .zeroing, .tierP, .carrel, .arc, .meter, .log]
  | .prefetchFill .. =>
    some [.cores, .reqs]
  | .prefetchServe .. =>
    some [.regs, .cores, .deskP]
  | _ => none

/-- What the Desk, model, ownership, Gather, Carrel and Expander commands may change. -/
def deskTouches : Instr → Option (List StatePart)
  | .ringPoll .. =>
    some [.free, .regs, .deskP, .mem, .memBad, .zeroing, .tierP, .carrel, .arc, .meter, .log]
  | .admitNext .. =>
    some [.free, .msix, .nextId, .regs, .cores, .desk, .deskP, .merges, .parts, .mem, .memBad, .zeroing, .tierP, .carrel, .gather, .arc, .ports, .hosts, .meter, .log]
  | .workItemRelease .. =>
    some [.cores, .deskP]
  | .reserveRefill .. | .generativeRound .. =>
    some [.deskP]
  | .queryStageAdvance .. =>
    some [.free, .regs, .cores, .desk, .deskP, .merges, .mem, .memBad, .zeroing, .tierP, .carrel, .gather, .arc, .ports, .meter, .log]
  | .queryComplete .. =>
    some [.free, .msix, .regs, .cores, .desk, .deskP, .merges, .parts, .mem, .memBad, .zeroing, .tierP, .carrel, .gather, .arc, .ports, .hosts, .meter, .log]
  | .modelStepStart .. =>
    some [.free, .nextId, .regs, .reqs, .desk, .deskP]
  | .layerStart .. =>
    some [.free, .nextId, .regs, .cores, .reqs, .desk, .deskP, .mem, .memBad, .zeroing, .tierP, .gus, .arc, .meter, .log]
  | .ownershipOp .. =>
    some [.free, .nextId, .regs, .desk, .merges, .mem, .memBad, .zeroing, .tierP, .carrel, .gather, .arc, .ports, .meter, .log]
  | .stateReplyReceive .. =>
    some [.desk]
  | .handoffSweep .. =>
    some [.free, .regs, .desk, .mem, .memBad, .zeroing, .tierP, .carrel, .arc, .meter, .log]
  | .stateClaim .. =>
    some [.free, .regs, .latch, .desk, .parts, .mem, .memBad, .zeroing, .tierP, .carrel, .arc, .meter, .log]
  | .deskCommit .. =>
    some [.free, .msix, .irqSent, .regs, .force, .latch, .deskP, .mem, .memBad, .zeroing, .tierP, .arc, .meter, .log]
  | .deskConfigEffect .. =>
    some [.free, .regs, .force, .cores, .deskP, .mem, .memBad, .zeroing, .tierP, .arc, .meter, .log]
  | .expanderBlockDecode .. =>
    some [.free, .regs, .reqs, .exps]
  | .expanderBlockEncode .. =>
    some [.free, .regs, .cores, .reqs, .exps]
  | .mouldTableLoad .. =>
    some [.free, .regs, .latch, .parts, .mem, .memBad, .zeroing, .tierP, .mloads, .carrel, .arc, .meter, .log]
  | .mouldInstall .. =>
    some [.free, .regs, .parts, .mem, .memBad, .zeroing, .tierP, .exps, .mloads, .carrel, .arc, .log]
  | .mouldOwnerWrite .. =>
    some [.regs, .latch, .exps]
  | .expanderCommit .. =>
    some [.msix, .irqSent, .regs, .force, .latch]
  | .carrelRingPoll .. | .carrelComplete .. | .carrelCancel .. =>
    some [.free, .regs, .cores, .mem, .memBad, .zeroing, .tierP, .carrel, .arc, .meter, .log]
  | .scan .. | .select .. | .rowsum .. =>
    some [.free, .regs, .memBad, .carrel, .meter]
  | .carrelEnableWrite .. =>
    some [.regs, .latch]
  | .carrelCommit .. =>
    some [.free, .msix, .irqSent, .regs, .force, .latch, .mem, .memBad, .zeroing, .tierP, .carrel, .arc, .meter, .log]
  | .gatherRingPoll .. =>
    some [.free, .regs, .mem, .memBad, .zeroing, .tierP, .carrel, .gus, .arc, .meter, .log]
  | .lookup .. =>
    some [.free, .nextId, .regs, .cores, .reqs, .desk, .merges, .mem, .memBad, .zeroing, .tierP, .exps, .carrel, .gus, .gather, .arc, .ports, .meter, .log]
  | .update .. =>
    some [.free, .nextId, .regs, .reqs, .desk, .merges, .mem, .memBad, .zeroing, .tierP, .exps, .carrel, .gus, .gather, .arc, .ports, .meter, .log]
  | .gatherBatchComplete .. | .tableHoldExpiry .. =>
    some [.free, .regs, .cores, .deskP, .mem, .memBad, .zeroing, .tierP, .carrel, .gus, .arc, .log]
  | .rowReq .. =>
    some [.free, .regs, .desk, .merges, .mem, .memBad, .zeroing, .tierP, .carrel, .gather, .arc, .ports, .meter, .log]
  | .rowData .. =>
    some [.gus, .gather]
  | .gradientApply .. =>
    some [.free, .regs, .reqs, .mem, .memBad, .zeroing, .tierP, .exps, .carrel, .gus, .gather, .arc, .meter, .log]
  | .hotPeriodExpiry .. =>
    some [.gus]
  | .tableReplace .. =>
    some [.free, .regs, .latch, .parts, .mem, .memBad, .zeroing, .tierP, .carrel, .gus, .arc, .meter, .log]
  | .tableReplaceCommit .. =>
    some [.parts, .gus, .gather]
  | .guCommit .. =>
    some [.free, .msix, .irqSent, .regs, .force, .latch, .parts, .mem, .memBad, .zeroing, .tierP, .gus, .gather, .arc, .meter, .log]
  | .bulkScan .. =>
    some [.free, .msix, .nextId, .regs, .latch, .cores, .desk, .deskP, .merges, .parts, .mem, .memBad, .zeroing, .tierP, .carrel, .gather, .arc, .ports, .hosts, .meter, .log]
  | _ => none

/-- What the tier and Archive commands may change. -/
def tierTouches : Instr → Option (List StatePart)
  | .tierRead .. =>
    some [.free, .regs, .reqs, .desk, .mem, .memBad, .tierP, .exps, .meter, .log]
  | .tierWrite .. | .archiveWrite .. =>
    some [.free, .regs, .reqs, .desk, .mem, .memBad, .tierP, .carrel, .arc, .log]
  | .tierAtom .. =>
    some [.free, .regs, .reqs, .desk, .mem, .memBad, .tierP, .carrel, .arc, .meter, .log]
  | .scrubRead .. =>
    some [.free, .regs, .mem, .memBad, .log]
  | .migrationPeriod .. =>
    some [.free, .mem, .tierP]
  | .moveCopyDone .. =>
    some [.free, .regs, .parts, .mem, .memBad, .tierP, .carrel, .arc, .log]
  | .migrationBatch .. | .discard .. | .secureDiscard .. | .collectionFlush .. =>
    some [.free, .regs, .latch, .parts, .mem, .memBad, .zeroing, .tierP, .arc, .meter, .log]
  | .tierCommit .. =>
    some [.msix, .irqSent, .regs, .force, .latch, .mem, .tierP]
  | .bar2Read .. =>
    some [.free, .resp, .regs, .mem, .memBad, .zeroing, .tierP, .arc, .meter, .log]
  | .bar2Write .. =>
    some [.free, .regs, .mem, .memBad, .zeroing, .tierP, .carrel, .arc, .log]
  | .pieceZeroingDone .. =>
    some [.mem, .memBad, .zeroing]
  | .archiveRead .. =>
    some [.free, .regs, .reqs, .desk, .tierP, .exps, .arc, .meter, .log]
  | .codewordReadDone .. =>
    some [.free, .regs, .reqs, .tierP, .exps, .arc, .meter, .log]
  | .stripeCloseExpiry .. | .checkpointRound .. =>
    some [.free, .regs, .arc]
  | .stripeProgramDone .. =>
    some [.free, .regs, .arc, .badBlks, .log]
  | .journalCloseExpiry .. | .collectionIdleExpiry .. =>
    some [.arc]
  | .journalProgramDone .. =>
    some [.free, .regs, .parts, .arc]
  | .collect .. =>
    some [.free, .regs, .arc, .log]
  | .eraseDone .. =>
    some [.free, .regs, .parts, .mem, .memBad, .zeroing, .tierP, .carrel, .arc, .badBlks, .log]
  | .discardAccept .. =>
    some [.free, .regs, .parts, .mem, .memBad, .zeroing, .tierP, .carrel, .arc, .log]
  | .flashFormat .. =>
    some [.free, .regs, .latch, .parts, .mem, .memBad, .zeroing, .tierP, .arc, .badBlks, .meter, .log]
  | .archiveCommit .. =>
    some [.msix, .irqSent, .regs, .force, .latch]
  | _ => none

/-- What the link, Roll Call, barrier, host and partition commands may change. -/
def linkTouches : Instr → Option (List StatePart)
  | .egressSlot .. =>
    some [.resp, .regs, .ports, .linkP]
  | .flitReceive .. =>
    some [.free, .regs, .desk, .merges, .mem, .memBad, .zeroing, .tierP, .carrel, .gather, .arc, .ports, .linkP, .rc, .log]
  | .replayTimeout .. =>
    some [.regs, .ports, .linkP, .log]
  | .linkTrainingDone .. =>
    some [.ports, .rc]
  | .gateEntryExpiry .. =>
    some [.ports]
  | .gclSwitch .. | .histSample .. =>
    some [.regs, .ports]
  | .histClear .. | .nodeFenceWrite .. | .partRunWrite .. =>
    some [.regs, .latch]
  | .sendRingPoll .. =>
    some [.free, .regs, .mem, .memBad, .zeroing, .tierP, .carrel, .arc, .linkP, .meter, .log]
  | .put .. =>
    some [.free, .regs, .cores, .mem, .memBad, .zeroing, .tierP, .carrel, .arc, .ports, .linkP, .meter, .log]
  | .sendComplete .. =>
    some [.free, .regs, .mem, .memBad, .zeroing, .tierP, .carrel, .arc, .linkP, .log]
  | .vcOwnerChange .. =>
    some [.force, .ports]
  | .linkCommit .. =>
    some [.free, .msix, .irqSent, .regs, .force, .latch, .mem, .memBad, .zeroing, .tierP, .arc, .linkP, .meter, .log]
  | .portCommit .. =>
    some [.msix, .irqSent, .regs, .force, .latch, .ports]
  | .linkPortReset .. =>
    some [.regs, .latch, .ports, .linkP]
  | .heartbeatSend .. =>
    some [.regs, .ports, .rc]
  | .heartbeatReceive .. =>
    some [.regs, .rc]
  | .heartbeatMiss .. | .lost .. =>
    some [.free, .msix, .irqSent, .regs, .cores, .parts, .mem, .memBad, .zeroing, .tierP, .carrel, .gus, .arc, .ports, .linkP, .rc, .log]
  | .arrive .. | .barrierPoll .. =>
    some [.free, .msix, .irqSent, .regs, .cores, .mem, .memBad, .zeroing, .tierP, .carrel, .arc, .ports, .rc, .log]
  | .release .. | .abort .. =>
    some [.free, .regs, .cores, .mem, .memBad, .zeroing, .tierP, .carrel, .arc, .ports, .rc, .log]
  | .portFenceWrite .. =>
    some [.free, .regs, .latch, .cores, .mem, .memBad, .zeroing, .tierP, .carrel, .arc, .ports, .linkP, .rc, .log]
  | .rollcallCommit .. =>
    some [.free, .msix, .irqSent, .regs, .force, .latch, .cores, .mem, .memBad, .zeroing, .tierP, .carrel, .arc, .ports, .rc, .log]
  | .sqTailWrite .. | .cqHeadWrite .. | .queueEnableWrite .. =>
    some [.msix, .irqSent, .regs, .latch, .hosts]
  | .cqTimerExpiry .. =>
    some [.msix, .regs, .hosts]
  | .hostCommit .. =>
    some [.msix, .irqSent, .regs, .force, .latch]
  | .perst .. =>
    some [.free, .msix, .regs, .latch, .hosts, .colo]
  | .flr .. =>
    some [.free, .regs, .parts, .mem, .memBad, .zeroing, .tierP, .carrel, .arc, .ports, .linkP, .log]
  | .partResetWrite .. =>
    some [.free, .regs, .latch, .parts, .mem, .memBad, .zeroing, .tierP, .carrel, .arc, .ports, .linkP, .log]
  | .partitionReset .. =>
    some [.free, .msix, .irqSent, .regs, .cores, .desk, .deskP, .merges, .parts, .mem, .memBad, .zeroing, .tierP, .mloads, .carrel, .gus, .gather, .arc, .ports, .rc, .hosts, .meter, .log]
  | .partResetDone .. =>
    some [.free, .regs, .parts, .mem, .memBad, .zeroing, .tierP, .carrel, .arc, .meter, .log]
  | .partCommit .. =>
    some [.free, .msix, .irqSent, .regs, .force, .latch, .cores, .parts, .zeroing, .carrel, .arc, .pwr, .meter]
  | .compositionChange .. =>
    some [.free, .regs, .latch, .parts, .mem, .memBad, .zeroing, .tierP, .arc, .meter, .log]
  | _ => none

/-- What the log, Colophon, meter, power and register commands may change. -/
def serviceTouches : Instr → Option (List StatePart)
  | .powerCommit .. =>
    some [.msix, .irqSent, .regs, .force, .latch, .pwr]
  | .freqChangeDone .. | .vidStep .. | .droopDetect .. =>
    some [.pwr]
  | .droopRecover .. =>
    some [.free, .regs, .pwr]
  | .pwrBrownout .. =>
    some [.regs, .parts, .arc, .pwr, .log]
  | .brownoutEnd .. =>
    some [.free, .regs, .parts, .arc, .pwr]
  | .pwrSupplyReset .. | .powerOn .. | .pwrOkRise .. | .chipRstNAssert .. | .rstCmd .. | .standbyLoss .. =>
    some StatePart.all
  | .thermalSample .. =>
    some [.regs, .pwr, .log]
  | .throttleStep .. =>
    some [.pwr, .log]
  | .ungateSlot .. =>
    some [.regs, .cores, .pwr]
  | .engineRestartSlot .. =>
    some [.regs, .pwr]
  | .pwrOkFall .. =>
    some [.free, .regs, .parts, .mem, .memBad, .zeroing, .tierP, .carrel, .arc, .badBlks, .pwr, .meter, .log]
  | .startupStepDone .. =>
    some [.free, .msix, .irqSent, .regs, .force, .cores, .parts, .mem, .memBad, .zeroing, .tierP, .carrel, .arc, .ports, .linkP, .rc, .hosts, .pwr, .colo, .meter, .log]
  | .chipRstNRelease .. | .supplyResetRelease .. =>
    some [.free, .hosts, .pwr]
  | .mrExtend .. =>
    some [.latch, .colo]
  | .push .. =>
    some [.regs, .latch, .colo]
  | .pushDone .. =>
    some [.free, .colo]
  | .firmwareStage .. =>
    some [.regs, .latch, .colo, .log]
  | .getVersion .. | .getCapabilities .. | .negotiateAlgorithms .. | .getDigests .. | .getCertificate ..
  | .challenge .. | .getMeasurements .. | .chunkSend .. | .getPqCert .. | .getPqSig .. =>
    some [.resp, .regs, .colo]
  | .chunkGet .. =>
    some [.resp, .regs]
  | .meterIncrement .. | .energySample .. | .energyApportion .. | .meterIntervalExpiry .. =>
    some [.meter]
  | .recordCut .. | .recordSigningDone .. =>
    some [.free, .meter]
  | .meterStart .. =>
    some [.meter, .log]
  | .mirrorRefresh .. =>
    some [.regs]
  | .status .. | .readRecord .. | .readCert .. =>
    some [.resp]
  | .cut .. | .fwPush .. =>
    some [.resp, .meter]
  | .writeConfig .. | .fwCommit .. | .reseal .. =>
    some [.resp, .meter, .log]
  | .logEventTake .. | .logTokenRefill .. | .logSummaryTimeout .. | .logPersistWriteDone .. | .logPersist ..
  | .opSecondsTick .. =>
    some [.log]
  | .logClear .. | .logCursor .. | .logWindowAdvance .. =>
    some [.latch, .log]
  | .latchedLowRead .. =>
    some [.free, .resp, .msix, .irqSent, .regs, .latch]
  | .quiesceReqWrite .. =>
    some [.regs, .latch, .cores]
  | .registerWrite .. =>
    some [.free, .msix, .irqSent, .regs, .latch, .cores, .parts, .mem, .memBad, .zeroing, .tierP, .exps, .carrel, .arc, .ports, .linkP, .rc, .hosts, .log]
  | _ => none

end Sys2Proof.Machine
end

