-- ==== Sys2Proof/Certificates/Slice0/Obligations.lean ====
section
/-! DEFINITION. The statements about the model. Each takes every state and operand that meets its hypotheses; where a statement
speaks of the next state it says that the command completes. -/

open Sys2Proof Sys2Proof.Machine

/-- R85: FN[3:0] of ALU selects the operation on the 64-bit operands; shift amounts are RB[5:0]. FN[1:0] of MUL selects
the low or the high half of the product. Each completes for every register, RD and RA and RB alike or not. R85: the
immediate forms: IMM18 sign-extended, but zero-extended in ANDI, ORI and XORI; shift amounts IMM18[5:0] with IMM18[17:6]
zero; LUI writes IMM22 << 18, sign-extended. R77, R85: the fp32 operations of FPU on the low 32 bits of RA and RB; FCVTI
and FCVTF name no RB. -/
def Obligations.ArithmeticResults : Prop :=
  (∀ (c : CoreId) (t : CtxId) (rd ra rb : Reg) (s : State), canIssue s c t →
     let x := s.thr c t
     let a := x.r ra
     let b := x.r rb
     let alu (fn : BitVec 14) (v : Word) := completes (exec (.alu c t rd ra rb fn) s) (fun u => wrote s u c t rd v (x.pc + 1))
     let mul (fn : BitVec 14) (v : Word) := completes (exec (.mul c t rd ra rb fn) s) (fun u => wrote s u c t rd v (x.pc + 1))
     alu 0 (a + b) ∧ alu 1 (a - b) ∧ alu 2 (a &&& b) ∧ alu 3 (a ||| b) ∧ alu 4 (a ^^^ b) ∧
     alu 5 (a <<< (b.toNat % 64)) ∧ alu 6 (a >>> (b.toNat % 64)) ∧ alu 7 (a.sshiftRight (b.toNat % 64)) ∧
     alu 8 (if a.toInt < b.toInt then 1 else 0) ∧ alu 9 (if a.toNat < b.toNat then 1 else 0) ∧
     alu 10 (if b.toInt < a.toInt then b else a) ∧ alu 11 (if a.toInt < b.toInt then b else a) ∧
     alu 12 (if b.toNat < a.toNat then b else a) ∧ alu 13 (if a.toNat < b.toNat then b else a) ∧
     mul 0 (BitVec.ofNat 64 (a.toNat * b.toNat)) ∧ mul 1 (BitVec.ofNat 64 (a.toNat * b.toNat / 2 ^ 64)) ∧
     mul 2 (BitVec.ofInt 64 (a.toInt * b.toInt / 2 ^ 64))) ∧
  (∀ (c : CoreId) (t : CtxId) (rd ra : Reg) (k : BitVec 18) (n : BitVec 22) (s : State), canIssue s c t →
     let x := s.thr c t
     let a := x.r ra
     let i : Word := k.signExtend 64
     let u : Word := k.setWidth 64
     let is (j : Instr) (v : Word) := completes (exec j s) (fun u => wrote s u c t rd v (x.pc + 1))
     is (.addi c t rd ra k) (a + i) ∧ is (.andi c t rd ra k) (a &&& u) ∧ is (.ori c t rd ra k) (a ||| u) ∧
     is (.xori c t rd ra k) (a ^^^ u) ∧ is (.slti c t rd ra k) (if a.toInt < i.toInt then 1 else 0) ∧
     is (.lui c t rd n) (n.signExtend 64 <<< 18) ∧
     (k.toNat < 64 → is (.shli c t rd ra k) (a <<< k.toNat) ∧ is (.shri c t rd ra k) (a >>> k.toNat) ∧
       is (.srai c t rd ra k) (a.sshiftRight k.toNat))) ∧
  (∀ (c : CoreId) (t : CtxId) (rd ra rb : Reg) (s : State), canIssue s c t →
     let x := s.thr c t
     let a : F32 := (x.r ra).extractLsb' 0 32
     let b : F32 := (x.r rb).extractLsb' 0 32
     let is (rb : Reg) (fn : BitVec 14) (v : Word) :=
       completes (exec (.fpu c t rd ra rb fn) s) (fun u => wrote s u c t rd v (x.pc + 1))
     is rb 0 ((fadd a b).setWidth 64) ∧ is rb 1 ((fsub a b).setWidth 64) ∧ is rb 2 ((fmul a b).setWidth 64) ∧
     is rb 3 ((fminmax false a b).setWidth 64) ∧ is rb 4 ((fminmax true a b).setWidth 64) ∧
     is rb 5 (if flt a b then 1 else 0) ∧ is rb 6 (if feq a b then 1 else 0) ∧
     is 0 7 (fcvti a) ∧ is 0 8 ((fcvtf (x.r ra)).setWidth 64))

/-- R78, R85, R90: a branch adds OFF18, counted in instructions and taken modulo 2^16, to its own PC when its condition
holds and goes on otherwise; JAL and JALR write PC + 1 to RD, RA being read first; YIELD only goes on. -/
def Obligations.ControlFlow : Prop :=
  ∀ (c : CoreId) (t : CtxId) (rd ra rb : Reg) (k : BitVec 18) (n : BitVec 22) (s : State), canIssue s c t →
    let x := s.thr c t
    let a := x.r ra
    let b := x.r rb
    let br (j : Instr) (p : Prop) [Decidable p] :=
      completes (exec j s) (fun u => wrote s u c t 0 0 (if p then x.pc + k.setWidth 16 else x.pc + 1))
    br (.beq c t ra rb k) (a = b) ∧ br (.bne c t ra rb k) (a ≠ b) ∧ br (.blt c t ra rb k) (a.toInt < b.toInt) ∧
    br (.bge c t ra rb k) (b.toInt ≤ a.toInt) ∧ br (.bltu c t ra rb k) (a.toNat < b.toNat) ∧
    br (.bgeu c t ra rb k) (b.toNat ≤ a.toNat) ∧
    completes (exec (.jal c t rd n) s) (fun u => wrote s u c t rd ((x.pc + 1).setWidth 64) (x.pc + n.setWidth 16)) ∧
    completes (exec (.jalr c t rd ra k) s)
      (fun u => wrote s u c t rd ((x.pc + 1).setWidth 64) ((a + k.signExtend 64).setWidth 16)) ∧
    (k.toNat < 256 → completes (exec (.yield c t 0 0 k) s) (fun u => wrote s u c t 0 0 (x.pc + 1)))

/-- R60, R84, R85: LD takes 2^SIZE bytes, little-endian, from scratch at RA + OFF15 (bits 21:0) and extends them by SX;
a single bit error in the word is corrected and counted; no byte changes. ST writes the low bytes of RB there and
nothing else; a hart's may reach the code region, a thread's may not. R85, R91: LINE copies the 64 bytes of line RB to
line RA, or writes zeros there, and changes no other byte. -/
def Obligations.LoadsAndStores : Prop :=
  (∀ (c : CoreId) (t : CtxId) (r ra : Reg) (z : Fin 4) (sx : Bool) (off : BitVec 15) (s : State), canIssue s c t →
     let x := s.thr c t
     let n := 2 ^ z.val
     let a := (x.r ra + off.signExtend 64).toNat % 2 ^ 22
     a % n = 0 →
     (clean s c a n →
       (completes (exec (.ld c t r ra z sx off 0) s) (fun u =>
         regWrote s u c t r (loadExt sx n (Mem.le (s.core c).scratch a n)) (x.pc + 1) ∧ storedNone s u)) ∧
       (completes (exec (.ld c t r ra z sx off 1) s) (fun u =>
         regWrote s u c t r (loadExt sx n (Mem.le (s.core c).scratch a n)) (x.pc + 1) ∧ storedNone s u ∧
         (u.reg (coreP c + 0x98)).toNat = min (2 ^ 64 - 1) ((s.reg (coreP c + 0x98)).toNat + 1)))) ∧
     ((8192 ≤ t.val ∨ ¬ s.inCode c a n = true) →
       completes (exec (.st c t r ra z false off) s) (fun u =>
         regWrote s u c t 0 0 (x.pc + 1) ∧ stored s u c a (leBytes n (x.r r).toNat)))) ∧
  (∀ (c : CoreId) (t : CtxId) (ra rb : Reg) (s : State), canIssue s c t →
     let x := s.thr c t
     let dst := (x.r ra).toNat % 2 ^ 22
     let src := (x.r rb).toNat % 2 ^ 22
     dst % 64 = 0 → (8192 ≤ t.val ∨ ¬ s.inCode c dst 64 = true) →
     (src % 64 = 0 → (s.core c).check src 64 = (((s.core c).check src 64).1, false, ((s.core c).check src 64).2.2) →
       completes (exec (.lcopy c t 0 ra rb 0) s) (fun u =>
         regWrote s u c t 0 0 (x.pc + 1) ∧ stored s u c dst (Mem.bytes (s.core c).scratch src 64))) ∧
     completes (exec (.lzero c t 0 ra 0 0) s) (fun u =>
       regWrote s u c t 0 0 (x.pc + 1) ∧ stored s u c dst (List.replicate 64 0)))

/-- R62, R84, R87, R89, R92: a remote load leaves for its target and the context waits for the answer; a remote store
leaves and the context goes on with one more write outstanding; an ATOM of space 0 reads and writes scratch at once, one
of space 1 or 2 leaves and waits. -/
def Obligations.RemoteAndAtomic : Prop :=
  ∀ (c : CoreId) (t : CtxId) (r ra rb : Reg) (z : Fin 4) (sx : Bool) (off : BitVec 15) (op : Fin 3) (s : State),
    canIssue s c t → (s.thr c t).spec = false →
    let x := s.thr c t
    let w := s.issued c t
    let n := 2 ^ z.val
    let far := x.r ra + off.signExtend 64
    let a := x.r ra
    let waits (u : State) := goneTo s u c t x.pc ∧ (u.thr c t).st = .waitUnit ∧ (u.thr c t).wait = .access w.nextId
    (far.toNat % 2 ^ 30 % n = 0 →
      completes (exec (.rld c t r ra z sx off) s) (fun u =>
        underWay u w.nextId c t .rload (BitVec.ofNat 64 (far.toNat % 2 ^ 30)) (fun q => q.size = n ∧ q.sx = sx ∧ q.rd = r.val) ∧
        waits u ∧ storedNone s u) ∧
      (x.writes < 255 → completes (exec (.rst c t r ra z false off) s) (fun u =>
        underWay u w.nextId c t .rstore (BitVec.ofNat 64 (far.toNat % 2 ^ 30)) (fun q => q.size = n ∧ q.a = x.r r) ∧
        goneTo s u c t (x.pc + 1) ∧ (u.thr c t).writes = x.writes + 1 ∧ storedNone s u))) ∧
    (a.toNat % 8 = 0 →
      let l := a.toNat % 2 ^ 22
      let old := Mem.le (s.core c).scratch l 8
      (clean s c l 8 → (8192 ≤ t.val ∨ ¬ s.inCode c l 8 = true) →
        completes (exec (.atom c t r ra rb (BitVec.ofNat 14 op.val)) s) (fun u =>
          regWrote s u c t r (BitVec.ofNat 64 old) (x.pc + 1) ∧
          (match op.val with
           | 0 => stored s u c l (leBytes 8 (x.r rb).toNat)
           | 1 => stored s u c l (leBytes 8 (BitVec.ofNat 64 old + x.r rb).toNat)
           | _ => if BitVec.ofNat 64 old = x.r r then stored s u c l (leBytes 8 (x.r rb).toNat) else storedNone s u))) ∧
      completes (exec (.atom c t r ra rb (BitVec.ofNat 14 (4 + op.val))) s) (fun u =>
        underWay u w.nextId c t .ratom (BitVec.ofNat 64 (a.toNat % 2 ^ 30)) (fun q => q.op = op.val ∧ q.a = x.r rb ∧ q.b = x.r r) ∧
        waits u ∧ storedNone s u) ∧
      (w.coreAlloc c a 8 = true → completes (exec (.atom c t r ra rb (BitVec.ofNat 14 (8 + op.val))) s) (fun u =>
        underWay u w.nextId c t .atom a (fun q => q.op = op.val ∧ q.a = x.r rb ∧ q.b = x.r r) ∧
        waits u ∧ storedNone s u)))

/-- R48, R88, R89, R90: WAITR goes on once at most IMM18 reads are outstanding, FENCE once no write is, and waits
otherwise; END frees the context once nothing of it is outstanding, and waits otherwise: a thread's context becomes
FREE, a hart halts. None of them stores. -/
def Obligations.WaitsAndEnd : Prop :=
  ∀ (c : CoreId) (t : CtxId) (k : BitVec 18) (s : State), canIssue s c t → (s.thr c t).marked = false →
    let x := s.thr c t
    (k.toNat < 256 → completes (exec (.waitr c t 0 0 k) s) (fun u =>
      if x.reads ≤ k.toNat then goneTo s u c t (x.pc + 1) ∧ (u.thr c t).st = .ready
      else goneTo s u c t x.pc ∧ (u.thr c t).st = .waitRead)) ∧
    (x.spec = false → completes (exec (.fence c t 0 0 0 0) s) (fun u =>
      if x.writes = 0 then goneTo s u c t (x.pc + 1) ∧ (u.thr c t).st = .ready
      else goneTo s u c t x.pc ∧ (u.thr c t).st = .waitUnit)) ∧
    (x.reads = 0 → x.writes = 0 → completes (exec (.endT c t 0 0 0 0) s) (fun u =>
      (u.thr c t).st = .free ∧ (∀ i, (u.thr c t).r i = 0) ∧
      (8192 ≤ t.val → (u.reg (coreP c + 0x48)).getLsbD (t.val - 8192) = false ∧
        (u.reg (coreP c + 0x48)).getLsbD (8 + (t.val - 8192)) = true))) ∧
    (0 < x.reads + x.writes → completes (exec (.endT c t 0 0 0 0) s) (fun u => (u.thr c t).st = .waitRead))

/-- R56, R61, R84, R88, R89, R179: an RDA that no prefetch entry serves takes a tag and leaves for the tiers, one more
read outstanding; a WRA leaves with its source as it is now, one more write outstanding; the context goes on and nothing
is stored yet. -/
def Obligations.TierAccessIssues : Prop :=
  ∀ (c : CoreId) (t : CtxId) (ra rb : Reg) (fn : BitVec 14) (s : State), canIssue s c t → fn.toNat < 4096 →
    let x := s.thr c t
    let w := s.issued c t
    let d := (x.r ra).toNat % 2 ^ 22
    let a := x.r rb
    let n := fn.toNat + 1
    let rg := w.rangeFor ((w.coreOwner c).getD 16) a
    w.coreAlloc c a (max 1 (storedLen rg a n)) = true → d + n ≤ 0x400000 →
    w.tagUsable c (!isHart t && (w.grp c x.group).rt) = true →
    (d % 8 = 0 → (8192 ≤ t.val ∨ ¬ s.inCode c d n = true) → x.reads < 255 → (w.core c).pfMatch a n = none →
      completes (exec (.rda c t 0 ra rb fn) s) (fun u =>
        underWay u w.nextId c t .rda a (fun q => q.loc = d ∧ q.len = n ∧ q.range = rg.map (·.2.words)) ∧
        goneTo s u c t (x.pc + 1) ∧ (u.thr c t).reads = x.reads + 1 ∧ storedNone s u)) ∧
    (d % 64 = 0 → n % 64 = 0 → a.toNat % 64 = 0 → x.writes < 255 → x.spec = false →
      completes (exec (.wra c t 0 ra rb fn) s) (fun u =>
        underWay u w.nextId c t .wra a (fun q => q.loc = d ∧ q.len = n ∧ q.old = Mem.ofBytes (s.scr c d n)) ∧
        goneTo s u c t (x.pc + 1) ∧ (u.thr c t).writes = x.writes + 1 ∧ storedNone s u))

/-- R64 to R69, R93 to R95: ESUB queues the descriptor and returns its ticket; EWAIT returns a held status, EXPIRED for
a ticket that the engine does not hold, and waits for a pending one; CINS at a closed list, after what the
Collator serves ahead of it, returns 0 and is counted; VTS
of a bit not yet set sets it and returns 0, of a set one returns 1; HASH multiplies by RB made odd and keeps the FN top
bits. -/
def Obligations.UnitOpcodes : Prop :=
  ∀ (c : CoreId) (t : CtxId) (rd ra rb : Reg) (fn : BitVec 14) (s : State), canIssue s c t →
    let x := s.thr c t
    let w := s.issued c t
    let k := w.core c
    (let a := (x.r ra).toNat % 2 ^ 22
     let e := k.pickEngine fn.toNat
     fn.toNat ≤ 16 → a % 64 = 0 → clean s c a 64 → (k.eng e).depth < 16 →
      completes (exec (.esub c t rd ra 0 fn) s) (fun u =>
        regWrote s u c t rd (BitVec.ofNat 64 (e + (k.eng e).seq * 16)) (x.pc + 1) ∧
        (∃ d : QDesc, ((u.core c).eng e).queue = (k.eng e).queue ++ [d] ∧ d.bytes = s.scr c a 64 ∧ d.ctx = t.val ∧ d.pc = x.pc) ∧
        ((u.core c).eng e).seq = ((k.eng e).seq + 1) % 65536)) ∧
    completes (exec (.ewait c t rd ra 0 0) s) (fun u =>
      match k.ticket (x.r ra) with
      | none => wrote s u c t rd 0x10000 (x.pc + 1)
      | some (some st) => wrote s u c t rd (BitVec.ofNat 64 st) (x.pc + 1)
      | some none => goneTo s u c t x.pc ∧ (u.thr c t).st = .waitEngine) ∧
    (fn.toNat < 64 → lcK (w.listCfg c fn.toNat) ≠ 0 → (k.list fn.toNat).isOpen = false →
      completes (exec (.cins c t rd ra rb fn) s) (fun u => regWrote s u c t rd 0 (x.pc + 1) ∧
        counted (w.serveAhead c) u (colP c + 0xA8) 1)) ∧
    (t.val < 8192 →
      let g := k.grp x.group
      let base := g.f 16 2 * 64
      let b := g.f 18 1 % 32
      let i := visitedBit (BitVec.ofNat 64 (g.f 40 8)) (x.r ra) b
      let set := k.testBit base i = true ∨ ∃ h ∈ k.held, h.1 = x.group ∧ h.2.2 = i
      let read (u : State) := counted s u (coreP c + 0x98) (k.check (base + i / 8) 1).1
      w.badArea c base (max 1 (2 ^ b / 8)) = false → k.setLost base i = false →
      (set → completes (exec (.vts c t rd ra 0 0) s) (fun u => regWrote s u c t rd 1 (x.pc + 1) ∧ storedNone s u ∧ read u)) ∧
      (¬ set → x.spec = false → completes (exec (.vts c t rd ra 0 0) s) (fun u =>
        regWrote s u c t rd 0 (x.pc + 1) ∧ (u.core c).testBit base i = true ∧ read u))) ∧
    (fn.toNat < 64 → completes (exec (.hash c t rd ra rb fn) s) (fun u =>
      let p := x.r ra * (x.r rb ||| 1)
      wrote s u c t rd (if fn.toNat = 0 then p else p >>> (64 - fn.toNat)) (x.pc + 1)))

/-- R121, R141, R142: an entry that a thread's CINS brings to its group's open list, a number and not tombstoned; the
Collator has served the engines ahead of it in its order. A list with
room takes it directly behind the last entry that it does not beat; a full list leaves it out and counts it unless it
beats the k-th entry, which then drops out. Nothing else of the ranking changes. -/
def Obligations.CollatorInsert : Prop :=
  ∀ (c : CoreId) (t : CtxId) (rd ra rb : Reg) (fn : BitVec 14) (s : State), canIssue s c t → fn.toNat < 64 → t.val < 8192 →
    let x := s.thr c t
    let w := s.issued c t
    let v := w.serveAhead c
    let l := (v.core c).list fn.toNat
    let id := x.r ra
    let sc : F32 := (x.r rb).extractLsb' 0 32
    let mx := lcMax l.cfg
    let k := lcK l.cfg
    x.spec = false → lcK (w.listCfg c fn.toNat) ≠ 0 → l.isOpen = true → l.owner = x.group → isNaN32 sc = false →
    (v.core c).dead fn.toNat id = false →
    completes (exec (.cins c t rd ra rb fn) s) (fun u =>
      let l' := (u.core c).list fn.toNat
      let last := kth l.entries
      (l.entries.length < k ∨ better mx sc last = true →
        regWrote s u c t rd 1 (x.pc + 1) ∧
        ∃ a b, (if l.entries.length < k then l.entries else l.entries.dropLast) = a ++ b ∧ l'.entries = a ++ (id, sc) :: b ∧
          (∀ e ∈ a, better mx sc e.2 = false) ∧ (∀ e ∈ b.head?, better mx sc e.2 = true)) ∧
      (k ≤ l.entries.length ∧ better mx sc last = false →
        regWrote s u c t rd 0 (x.pc + 1) ∧ l'.entries = l.entries ∧ l'.acct.left = l.acct.left + 1))

/-- R53, R54, R96 to R98: GWAIT goes on at once with the count where it differs from RA[15:0] and sleeps otherwise; GSIG
raises the count and returns it; GLD reads 2^SIZE bytes of the group's descriptor, zero-extended; a GST of fields that
software may write changes those bytes alone, a reserved bit staying 0 and bit 0 of VISITED_SEED 1, and raises GROUP_RO
without a change where it reaches a Desk or Hardware field. R53, R100, R196: WQTAKE copies the oldest untaken work item
to scratch under a handle that nothing holds, and waits while there is no item; GNEW makes a group of the item that its
hart holds: bytes 0 to 15 are the item's stamps, VISITED_SEED is 1 and all other fields are 0, and it releases the
handle; it returns bit 63 for a handle that the hart does not hold. -/
def Obligations.GroupEventsAndWork : Prop :=
  (∀ (c : CoreId) (t : CtxId) (rd ra rb : Reg) (z : Fin 4) (off : BitVec 15) (s : State), canIssue s c t → t.val < 8192 →
     let x := s.thr c t
     let g := s.grp c x.group
     let n := 2 ^ z.val
     let o := off.toNat
     completes (exec (.gwait c t rd ra 0 0) s) (fun u =>
       if (x.r ra).setWidth 16 = g.events then goneTo s u c t x.pc ∧ (u.thr c t).st = .sleep
       else wrote s u c t rd (g.events.setWidth 64) (x.pc + 1)) ∧
     (x.spec = false → completes (exec (.gsig c t rd 0 0 0) s) (fun u =>
       regWrote s u c t rd ((g.events + 1).setWidth 64) (x.pc + 1) ∧ (u.grp c x.group).events = g.events + 1 ∧ storedNone s u)) ∧
     (x.group < 1024 → g.live = true → o < 64 → o % n = 0 →
       completes (exec (.gld c t rd ra z off) s) (fun u =>
         wrote s u c t rd (BitVec.ofNat 64 (Mem.le g.desc o n)) (x.pc + 1)) ∧
       (x.spec = false → (∀ i, i < n → grpRo (o + i) = false) → ¬ (o ≤ 24 ∧ 24 < o + n) →
         completes (exec (.gst c t rb ra z off) s) (fun u =>
           regWrote s u c t 0 0 (x.pc + 1) ∧ storedNone s u ∧
           (∀ b, Mem.rd (u.grp c x.group).desc b =
             if o ≤ b ∧ b < o + n then ((leBytes n (x.r rb).toNat).getD (b - o) 0 &&& grpMask b) ||| (if b = 40 then 1 else 0)
             else Mem.rd g.desc b) ∧
           (∀ d v, ¬(d = c.val ∧ v = x.group) → u.grp d v = s.grp d v))) ∧
       (x.spec = false → (∃ i, i < n ∧ grpRo (o + i) = true) →
         goesTo (exec (.gst c t rb ra z off) s) ((s.issued c t).trap c t 0x0286 0)))) ∧
  (∀ (c : CoreId) (t : CtxId) (rd ra : Reg) (s : State), canIssue s c t → 8192 ≤ t.val →
     let x := s.thr c t
     let a := (x.r ra).toNat % 2 ^ 22
     let h := (x.r ra).toNat
     let held (i : Nat) := Tab.get (fun _ => none) (s.core c).handles i
     (a % 64 = 0 →
       (∀ i q, (s.core c).workq = i :: q → (∃ n, n < 64 ∧ held n = none) →
         completes (exec (.wqtake c t rd ra 0 0) s) (fun u => ∃ n, n < 64 ∧ held n = none ∧
           regWrote s u c t rd (BitVec.ofNat 64 n) (x.pc + 1) ∧ stored s u c a i ∧ (u.core c).workq = q ∧
           Tab.get (fun _ => none) (u.core c).handles n = some (t.val - 8192, i))) ∧
       ((s.core c).workq = [] → completes (exec (.wqtake c t rd ra 0 0) s) (fun u =>
         goneTo s u c t x.pc ∧ (u.thr c t).st = .waitUnit ∧ storedNone s u))) ∧
     (∀ w, h < 64 → held h = some (t.val - 8192, w) → (∃ g, g < 1024 ∧ (s.grp c g).live = false) →
       completes (exec (.gnew c t rd ra 0 0) s) (fun u => ∃ g, g < 1024 ∧ (s.grp c g).live = false ∧
         regWrote s u c t rd (BitVec.ofNat 64 g) (x.pc + 1) ∧ (u.grp c g).live = true ∧ (u.grp c g).events = 0 ∧
         (u.grp c g).hops = 0 ∧ (∀ b, Mem.rd (u.grp c g).desc b = if b = 40 then 1 else if b < 16 then w.getD b 0 else 0) ∧
         Tab.get (fun _ => none) (u.core c).handles h = none ∧ storedNone s u)) ∧
     (held h = none → completes (exec (.gnew c t rd ra 0 0) s) (fun u => wrote s u c t rd failBit (x.pc + 1))))

/-- R54: a GST by a thread to its group, or by a hart to the group that it names, that reaches a field marked Desk
(bytes 0 to 15) or Hardware (LIVE_THREADS, SPEC_EPOCH and FAULT, bytes 26 to 35) raises GROUP_RO; no byte of the
descriptor takes a new value but FAULT, which the fault itself records. -/
def Obligations.GroupFieldsGuarded : Prop :=
  ∀ (c : CoreId) (t : CtxId) (ra rb : Reg) (z : Fin 4) (off : BitVec 15) (g b : Nat) (s : State), canIssue s c t →
    let x := s.thr c t
    let n := 2 ^ z.val
    let o := off.toNat
    let u := (s.issued c t).trap c t 0x0286 0
    x.spec = false → g = (if t.val < 8192 then x.group else (x.r ra).toNat) → g < 1024 → (s.grp c g).live = true →
    (t.val < 8192 → (s.grp c g).liveThreads ≠ 0) → o < 64 → o % n = 0 → o ≤ b → b < o + n → (b < 16 ∨ 26 ≤ b ∧ b < 36) →
    goesTo (exec (.gst c t rb ra z off) s) u ∧
    ∀ i, ¬(32 ≤ i ∧ i < 36) → Mem.rd (u.grp c g).desc i = Mem.rd (s.grp c g).desc i

/-- R49, R55, R96, R99, R100: SPAWN starts a thread of the group in a FREE context at PC RA[15:0] with g1 the value of
RB, every other register 0 and the issuer's hop, raises LIVE_THREADS and returns the context; where none is free it
returns bit 63 and is counted. GDONE marks the group done, and its lists for sealing; GKILL kills it: its lists are
closed and every live context of it is marked. -/
def Obligations.SpawnDoneKill : Prop :=
  ∀ (c : CoreId) (t : CtxId) (rd ra rb : Reg) (s : State), canIssue s c t →
    let x := s.thr c t
    let gi := if t.val < 8192 then x.group else (x.r rd).toNat
    let g := s.grp c gi
    let k := (x.r ra).toNat
    let e := s.grp c k
    (gi < 1024 → g.live = true → g.killed = false →
      ((∃ n, n < 8192 ∧ (s.thr c n).st = .free) → completes (exec (.spawn c t rd ra rb 0) s) (fun u => ∃ n, n < 8192 ∧
        (s.thr c n).st = .free ∧ regWrote s u c t rd (BitVec.ofNat 64 n) (x.pc + 1) ∧
        (u.thr c n).st = .ready ∧ (u.thr c n).pc = (x.r ra).setWidth 16 ∧ (u.thr c n).group = gi ∧
        (u.thr c n).spec = x.spec ∧ (u.thr c n).hop = x.hop ∧
        (∀ i, (u.thr c n).r i = if i = 1 then x.r rb else 0) ∧
        (u.grp c gi).liveThreads = (g.liveThreads + 1) % 65536)) ∧
      ((∀ n, n < 8192 → (s.thr c n).st ≠ .free) → completes (exec (.spawn c t rd ra rb 0) s) (fun u =>
        regWrote s u c t rd failBit (x.pc + 1) ∧
        (u.reg (coreP c + 0xC8)).toNat = min (2 ^ 64 - 1) ((s.reg (coreP c + 0xC8)).toNat + 1)))) ∧
    (8192 ≤ t.val → k < 1024 → e.live = true → e.killed = false → e.liveThreads ≠ 0 →
      completes (exec (.gdone c t 0 ra 0 0) s) (fun u => regWrote s u c t 0 0 (x.pc + 1) ∧ (u.grp c k).done = true ∧
        (∀ l, l < 64 → ((s.core c).list l).isOpen = true → ((s.core c).list l).owner = k → ((u.core c).list l).sealing = true) ∧
        storedNone s u) ∧
      completes (exec (.gkill c t 0 ra 0 0) s) (fun u => regWrote s u c t 0 0 (x.pc + 1) ∧
        (u.grp c k).killed = true ∧ (u.grp c k).hops = 0 ∧
        (∀ l, l < 64 → ((s.core c).list l).isOpen = true → ((s.core c).list l).owner = k → ((u.core c).list l).isOpen = false) ∧
        (∀ n, n < 8192 → (s.thr c n).group = k → (s.thr c n).st ≠ .free → (u.thr c n).marked = true) ∧ storedNone s u))

/-- R101 to R103: SPECB opens a hop while fewer than DECKLE (at most 4) are open and puts the thread in it; SPECC
returns 0 where no hop is open and else commits hop 1, one hop fewer being open; SPECX closes all of them and raises
SPEC_EPOCH. -/
def Obligations.HopOpcodes : Prop :=
  ∀ (c : CoreId) (t : CtxId) (rd : Reg) (s : State), canIssue s c t → t.val < 8192 →
    let x := s.thr c t
    let g := s.grp c x.group
    let records (d : QDesc) : Bool := dStream d.bytes && cwBit d.bytes 41
    completes (exec (.specb c t rd 0 0 0) s) (fun u =>
      if g.hops < min 4 (Mem.le g.desc 25 1 % 8) then
        (u.thr c t).pc = x.pc + 1 ∧ (u.thr c t).spec = true ∧ (u.thr c t).hop = g.hops + 1 ∧
        (∀ i, (u.thr c t).r i = if i = 0 then 0 else if i = rd then BitVec.ofNat 64 (g.hops + 1) else x.r i) ∧
        (u.grp c x.group).hops = g.hops + 1 ∧ storedNone s u
      else wrote s u c t rd 0 (x.pc + 1)) ∧
    (x.spec = false →
      (g.hops = 0 → completes (exec (.specc c t rd 0 0 0) s) (fun u => wrote s u c t rd 0 (x.pc + 1))) ∧
      (g.hops ≠ 0 → (∀ f ∈ (s.core c).faults, ¬(f.group = x.group ∧ f.hop = 1)) →
        completes (exec (.specc c t rd 0 0 0) s) (fun u => (u.thr c t).pc = x.pc + 1 ∧
          (∀ i, (u.thr c t).r i = if i = 0 then 0 else if i = rd then 1 else x.r i) ∧
          (u.grp c x.group).hops = g.hops - 1 ∧ (u.grp c x.group).desc = g.desc ∧ u.mem = s.mem)) ∧
      completes (exec (.specx c t rd 0 0 0) s) (fun u =>
        regWrote s u c t rd (BitVec.ofNat 64 ((Mem.le g.desc 28 4 + 1) % 2 ^ 32)) (x.pc + 1) ∧
        (u.grp c x.group).hops = 0 ∧ Mem.le (u.grp c x.group).desc 28 4 = (Mem.le g.desc 28 4 + 1) % 2 ^ 32 ∧
        (∀ h ∈ (u.core c).held, h.1 ≠ x.group) ∧ (∀ f ∈ (u.core c).faults, f.group ≠ x.group) ∧ u.mem = s.mem ∧
        ((∀ e r, ((s.core c).eng e).run = some r → r.d.group = x.group → records r.d = false) → storedNone s u)))

/-- R67, R68: a push takes its place in the order of pops, with the next sequence number, and returns 0; into a full
heap, or with a NaN key, it is dropped, counted and returns 1; a pop takes the first entry with status 0, and from an
empty heap all ones and the infinity that sorts last, with status 1. -/
def Obligations.HeapOpcodes : Prop :=
  ∀ (c : CoreId) (t : CtxId) (rd ra rb : Reg) (s : State), canIssue s c t → t.val < 8192 → (s.thr c t).spec = false →
    let x := s.thr c t
    let g := s.grp c x.group
    let cap := 2 ^ (Mem.le g.desc 22 1 % 32)
    let mx := bit (Mem.le g.desc 22 1) 5
    let key : F32 := (x.r rb).extractLsb' 0 32
    let new : HeapEntry := ⟨x.r ra, key, g.heapSeq⟩
    let pops (id : Word) (st : Nat) (k : F32) (left : List HeapEntry) :=
      completes (exec (.hpop c t rd 0 rb 0) s) (fun u => (u.thr c t).pc = x.pc + 1 ∧ (u.grp c x.group).heap = left ∧
        ∀ i, (u.thr c t).r i = if i = 0 then 0 else if i = rb then BitVec.ofNat 64 (st * 2 ^ 32 + k.toNat)
          else if i = rd then id else x.r i)
    let pushes (v : Word) (post : State → Prop) := completes (exec (.hpush c t rd ra rb 0) s)
      (fun u => (u.thr c t).pc = x.pc + 1 ∧ (∀ i, (u.thr c t).r i = if i = 0 then 0 else if i = rd then v else x.r i) ∧ post u)
    (s.issued c t).badArea c (Mem.le g.desc 20 2 * 64) (cap * 16) = false →
    (isNaN32 key = false → g.heap.length < cap → pushes 0 (fun u => (u.grp c x.group).heapSeq = g.heapSeq + 1 ∧
      ∃ a b, g.heap = a ++ b ∧ (u.grp c x.group).heap = a ++ new :: b ∧
        (∀ e ∈ a, heapBetter mx new e = false) ∧ (∀ e ∈ b.head?, heapBetter mx new e = true))) ∧
    (isNaN32 key = false → cap ≤ g.heap.length → pushes 1 (fun u => (u.grp c x.group).heap = g.heap)) ∧
    (isNaN32 key = true → pushes 1 (fun u => (u.grp c x.group).heap = g.heap)) ∧
    (∀ e r, g.heap = e :: r → pops e.id 0 e.key r) ∧
    (g.heap = [] → pops (BitVec.allOnes 64) 1 (if mx then 0xFF800000#32 else 0x7F800000#32) [])

/-- R61: CORE_CODE in force sets the code region. Every instruction of a thread or hart whose word does not lie below
CODE_BASE + CODE_SIZE raises ILLEGAL_INSTRUCTION at its fetch, and one inside is fetched; PC counts words from
CODE_BASE, so none lies below the region. A thread's ST, LCOPY, LZERO or ATOM into the region raises CODE_WRITE and
changes no byte; a hart's ST changes exactly its bytes. -/
def Obligations.CodeRegion : Prop :=
  ∀ (c : CoreId) (t : CtxId) (rd ra rb : Reg) (z : Fin 4) (off : BitVec 15) (op : BitVec 14) (s : State), s.mayIssue c t = true →
    let x := s.thr c t
    let w := s.inForce (coreP c + 0x40)
    let base := (w.toNat % 64) * 65536
    let size := (w.toNat / 64 % 4 + 1) * 65536
    let reached (a n : Nat) := a < base + size ∧ base < a + n
    let fetches := base + 4 * x.pc.toNat + 4 ≤ base + size
    let n := 2 ^ z.val
    let a := (x.r ra + off.signExtend 64).toNat % 2 ^ 22
    let dst := (x.r ra).toNat % 2 ^ 22
    let refused (i : Instr) (addr : Nat) := goesTo (exec i s) ((s.issued c t).trap c t 0x0281 addr) ∧
      storedNone s ((s.issued c t).trap c t 0x0281 addr)
    (canIssue s c t ↔ fetches) ∧
    (∀ i, issuedBy i = some (c, t) → ¬fetches → goesTo (exec i s) (s.trap c t 0x0280 0)) ∧
    (fetches → t.val < 8192 →
      (a % n = 0 → reached a n → refused (.st c t rb ra z false off) a) ∧
      (dst % 64 = 0 → reached dst 64 → refused (.lzero c t 0 ra 0 0) dst ∧
        ((x.r rb).toNat % 64 = 0 → refused (.lcopy c t 0 ra rb 0) dst)) ∧
      (op.toNat ≤ 2 → x.spec = false → (x.r ra).toNat % 8 = 0 → reached dst 8 → refused (.atom c t rd ra rb op) dst)) ∧
    (fetches → 8192 ≤ t.val → a % n = 0 → reached a n → completes (exec (.st c t rb ra z false off) s) (fun u =>
      stored s u c a (leBytes n (x.r rb).toNat)))

/-- R59, R60, R70, R72, R80, R91: a word that no instruction encodes raises ILLEGAL_INSTRUCTION; an access that its size
does not align MISALIGNED, before any other check; a load that meets a double-bit error SCRATCH_UNCORRECTABLE, and a
load of a marked word POISON_CONSUMED. -/
def Obligations.ThreadTraps : Prop :=
  ∀ (c : CoreId) (t : CtxId) (r ra rb : Reg) (z : Fin 4) (sx : Bool) (off : BitVec 15) (k : BitVec 18) (fn : BitVec 14)
    (seu : Nat) (s : State), canIssue s c t →
    let x := s.thr c t
    let n := 2 ^ z.val
    let a := (x.r ra + off.signExtend 64).toNat % 2 ^ 22
    let dst := (x.r ra).toNat % 2 ^ 22
    let src := (x.r rb).toNat % 2 ^ 22
    let raises (i : Instr) (code addr : Nat) := goesTo (exec i s) ((s.issued c t).trap c t code addr)
    let hit := ((s.core c).strike a seu).check a n
    let faults (code : Nat) := goesTo (exec (.ld c t r ra z sx off seu) s)
      ((((s.issued c t).modCore c (·.strike a seu)).bump (coreP c + 0x98) hit.1).trap c t code a)
    (14 ≤ fn.toNat → raises (.alu c t r ra rb fn) 0x0280 0) ∧ (3 ≤ fn.toNat → raises (.mul c t r ra rb fn) 0x0280 0) ∧
    (9 ≤ fn.toNat → raises (.fpu c t r ra rb fn) 0x0280 0) ∧
    (64 ≤ k.toNat → raises (.shli c t r ra k) 0x0280 0 ∧ raises (.shri c t r ra k) 0x0280 0 ∧ raises (.srai c t r ra k) 0x0280 0) ∧
    (a % n ≠ 0 → raises (.ld c t r ra z sx off seu) 0x0282 a ∧ raises (.st c t r ra z false off) 0x0282 a) ∧
    (a % n = 0 → hit.2.1 = true → faults 0x0285) ∧
    (a % n = 0 → hit.2.1 = false → hit.2.2 = true → faults 0x0284) ∧
    (src % 64 ≠ 0 → raises (.lcopy c t 0 ra rb 0) 0x0282 src) ∧
    (src % 64 = 0 → dst % 64 ≠ 0 → raises (.lcopy c t 0 ra rb 0) 0x0282 dst) ∧
    (dst % 64 ≠ 0 → raises (.lzero c t 0 ra 0 0) 0x0282 dst)

/-- R52, R70, R71: what a fault at PC does. A thread that is not speculating stops in FAULTED with its registers and PC
as they are; the fault is counted; the first of its group is kept in FAULT, and in CORE_FAULT_INFO and CORE_FAULT_ADDR
where VALID is 0; the group is killed. A speculating thread's fault is held with its hop: nothing is counted, recorded
or killed. A hart halts: RUN clears, HALTED and HART_FAULT set, and no thread or group is touched. No byte of memory or
scratch changes. -/
def Obligations.FaultEntry : Prop :=
  ∀ (c : CoreId) (t : CtxId) (code : BitVec 16) (addr : Nat) (s : State),
    let x := s.thr c t
    let g := s.grp c x.group
    let u := s.trap c t code.toNat addr
    let info := coreP c + 0x58
    let told (ctx grp : Nat) := if (s.reg info).getLsbD 47 then u.reg info = s.reg info ∧ u.reg (info + 8) = s.reg (info + 8)
      else u.reg info = BitVec.ofNat 64 (code.toNat + ctx * 2 ^ 16 + grp * 2 ^ 32 + 2 ^ 47 + x.pc.toNat * 2 ^ 48) ∧
        u.reg (info + 8) = BitVec.ofNat 64 addr
    storedNone s u ∧
    (t.val < 8192 → (u.thr c t).st = .faulted ∧ (u.thr c t).pc = x.pc ∧ (∀ i, (u.thr c t).r i = x.r i) ∧
      (x.spec = false → counted s u (coreP c + 0xA0) 1 ∧
        (g.live = true → g.killed = false → g.liveThreads ≠ 0 →
          (u.grp c x.group).live = true ∧ (u.grp c x.group).killed = true ∧
          (∀ n, n < 8192 → (s.thr c n).group = x.group → (s.thr c n).st ≠ .free → (u.thr c n).marked = true) ∧
          (g.f 32 4 = 0 → (u.grp c x.group).f 32 4 = (code.toNat + t.val * 2 ^ 16) % 2 ^ 32 ∧ told t.val x.group) ∧
          (g.f 32 4 ≠ 0 → (u.grp c x.group).f 32 4 = g.f 32 4 ∧ u.reg info = s.reg info))) ∧
      (x.spec = true → (∀ a, u.reg a = s.reg a) ∧ (∀ h, u.grp c h = s.grp c h) ∧
        ∃ h : HeldFault, (u.core c).faults = (s.core c).faults ++ [h] ∧ h.group = x.group ∧ h.hop = x.hop ∧ h.ctx = t.val ∧
          h.code = code.toNat ∧ h.pc = x.pc ∧ h.addr = BitVec.ofNat 64 addr)) ∧
    (8192 ≤ t.val → (u.reg (coreP c + 0x48)).getLsbD (t.val - 8192) = false ∧
      (u.reg (coreP c + 0x48)).getLsbD (8 + (t.val - 8192)) = true ∧
      (u.reg (coreP c + 0x48)).getLsbD (16 + (t.val - 8192)) = true ∧
      counted s u (coreP c + 0xA0) 1 ∧ told t.val 0 ∧ (∀ h, u.grp c h = s.grp c h) ∧
      (∀ n, n < 8192 → (s.thr c n).st ≠ .waitUnit → u.thr c n = s.thr c n))

/-- R48 to R50, R88, R89: a marked context is freed at its next scheduling point; a line of an RDA whose data is there
is written to scratch if its thread takes it, and after the last line the read is over; the acknowledgement of a WRA,
all its lines written, takes one write off the thread. -/
def Obligations.TierAccessesReturn : Prop :=
  ∀ (c : CoreId) (t : CtxId) (i k : Nat) (r : Req) (s : State),
    ((s.thr c t).marked = true → (s.thr c t).st ≠ .free → (∀ j, (s.thr c t).wait = .access j → s.req j = none) →
      completes (exec (.contextFree c t) s) (fun u => (u.thr c t).st = .free ∧ (u.thr c t).pc = 0 ∧
        (∀ j, (u.thr c t).r j = 0) ∧ storedNone s u)) ∧
    ((s.thr c t).marked = false → goesTo (exec (.contextFree c t) s) s) ∧
    (let s' := s.reach i
     s'.req i = some r → r.kind = .rda → k < r.nDest → Tab.get (fun _ => false) r.written k = false →
      let d := r.destLine k
      let n := d.2.2 - d.2.1
      let ds := (List.range n).filterMap (fun o => s'.dataAt r (d.2.1 + o))
      ds.length = n → completes (exec (.readDataReturn i k) s) (fun u =>
        (if s'.takesData r = true then stored s u r.core d.1 (ds.map (·.1)) else storedNone s u) ∧
        (if ∀ j, j < r.nDest → j ≠ k → Tab.get (fun _ => false) r.written j = true then u.req i = none
         else ∃ r', u.req i = some r' ∧ Tab.get (fun _ => false) r'.written k = true))) ∧
    ((s.reach i).req i = some r → r.kind = .wra → (∀ l, l < r.nLines → r.lineDone l = true) →
      completes (exec (.writeAck i) s) (fun u => u.req i = none ∧ storedNone s u ∧
        ((s.thr r.core r.ctx).inst = r.inst → (s.thr r.core r.ctx).st = .ready →
          (u.thr r.core r.ctx).writes = (s.thr r.core r.ctx).writes - 1)))

/-- R60 to R62, R92: a remote access is performed at its target core once no earlier access of its thread to that core
is left: a load and an ATOM take the value there, a store and an ATOM that writes change the bytes there; a core of
another partition answers REMOTE_FAULT and counts. The answer then completes the instruction, or faults its thread. -/
def Obligations.RemoteAccesses : Prop :=
  ∀ (i : Nat) (r : Req) (s : State), s.req i = some r → r.kind = .rload ∨ r.kind = .rstore ∨ r.kind = .ratom →
    let tc := r.addr.toNat / 2 ^ 22 % 256
    let a := r.addr.toNat % 2 ^ 22
    let old := Mem.le (s.core tc).scratch a r.size
    let x := s.thr r.core r.ctx
    (r.answered = false → s.remoteAhead i r = false → Config.coreEnabled tc = true →
      (s.coreOwner tc = some r.part → s.coreReady tc = true → (8192 ≤ r.ctx ∨ s.inCode tc a r.size = false) → r.size ≤ 8 →
        clean s tc a r.size → (r.kind = .ratom → r.size = 8) →
        completes (exec (.remoteAccessAtTarget i) s) (fun u =>
          (∃ q, u.req i = some q ∧ q.answered = true ∧ q.code = 0 ∧ (r.kind ≠ .rstore → q.b = BitVec.ofNat 64 old)) ∧
          (r.kind = .rload → storedNone s u) ∧
          (r.kind = .rstore → stored s u tc a (leBytes r.size r.a.toNat)) ∧
          (r.kind = .ratom → match atomNew r.op (BitVec.ofNat 64 old) r.a r.b with
            | some w => stored s u tc a (leBytes 8 w.toNat)
            | none => storedNone s u))) ∧
      (s.coreOwner tc ≠ some r.part → completes (exec (.remoteAccessAtTarget i) s) (fun u =>
        (∃ q, u.req i = some q ∧ q.answered = true ∧ q.code = 0x0283) ∧ storedNone s u ∧
        (u.reg (coreP tc + 0xC0)).toNat = min (2 ^ 64 - 1) ((s.reg (coreP tc + 0xC0)).toNat + 1)))) ∧
    (r.answered = true → s.sameThread r = true → x.marked = false → x.st ≠ .faulted →
      completes (exec (.remoteResponse i) s) (fun u => u.req i = none ∧ storedNone s u ∧
        (r.code = 0 → r.kind ≠ .rstore →
          (u.thr r.core r.ctx).st = .ready ∧ (u.thr r.core r.ctx).pc = x.pc + 1 ∧
          ∀ j, (u.thr r.core r.ctx).r j = if j = 0 then 0 else if j = Fin.ofNat 16 r.rd then
            (if r.kind = .rload then loadExt r.sx r.size r.b.toNat else r.b) else x.r j) ∧
        (r.code = 0 → r.kind = .rstore → x.st = .ready → (u.thr r.core r.ctx).writes = x.writes - 1) ∧
        (r.code ≠ 0 → r.ctx < 8192 → (u.thr r.core r.ctx).st = .faulted)))

/-- R52, R63, R75: a write of CORE_HART_CTRL starts a halted hart at CORE_HART_ENTRY with its registers 0 and stops a
running one; a core reset stops every context and frees every group and list while scratch keeps its bytes, but for the
completion records of the descriptors that it ends; the core is READY again; once zeroing ends, scratch, contexts and
groups are zero. The model's choice, which log entry 93 names: a hart whose RUN bit was written meanwhile starts then. -/
def Obligations.CoreControl : Prop :=
  ∀ (f : Fn) (c : CoreId) (v : BitVec 32) (s : State),
    let a := coreP c + 0x48
    (s.seesPage f ⟨.core, c, coreP c⟩ = true →
      completes (exec (.hartRunWrite f c v) s) (fun u => ∀ h : Fin 4,
        let y := u.thr c (8192 + h.val)
        (u.reg a).getLsbD (16 + h.val) = ((s.reg a).getLsbD (16 + h.val) && !v.getLsbD (16 + h.val)) ∧
        (v.getLsbD h.val = true → (s.reg a).getLsbD h.val = false →
          y.st = .ready ∧ y.pc = (s.reg (coreP c + 0x40)).extractLsb' 32 16 ∧ (∀ i, y.r i = 0) ∧
          (u.reg a).getLsbD h.val = true ∧ (u.reg a).getLsbD (8 + h.val) = false) ∧
        (v.getLsbD h.val = false → (s.reg a).getLsbD h.val = true →
          y.st = .free ∧ (u.reg a).getLsbD h.val = false ∧ (u.reg a).getLsbD (8 + h.val) = true)) ∧
      completes (exec (.coreSoftReset f c) s) (fun u =>
        (∀ t, (u.thr c t).st = .free) ∧ (∀ g, (u.grp c g).live = false) ∧ (∀ l, ((u.core c).list l).isOpen = false) ∧
        (u.core c).resetting = true ∧ (∀ k, k < 10 → u.reg (coreP c + 0x80 + 8 * k) = 0) ∧
        (u.core c).faults = [] ∧ (u.core c).held = [] ∧ (u.core c).prefetch = [] ∧ u.mem = s.mem ∧
        ((∀ e r, ((s.core c).eng e).run = some r → (dStream r.d.bytes && cwBit r.d.bytes 41) = false) → storedNone s u))) ∧
    completes (exec (.coreResetReady c) s) (fun u => (u.core c).resetting = false ∧ (∀ t, u.thr c t = s.thr c t) ∧ storedNone s u) ∧
    ((s.core c).zeroing = true → s.coreClocked c = true → completes (exec (.coreZeroingDone c) s) (fun u =>
      (u.core c).zeroing = false ∧ (∀ b, scrByte u c b = 0) ∧ (∀ t i, (u.thr c t).r i = 0) ∧
      (∀ t, t < 8192 → (u.thr c t).st = .free) ∧
      (∀ h : Fin 4, (u.thr c (8192 + h.val)).st = if (s.reg a).getLsbD h.val then .ready else .free) ∧
      (∀ g, (u.grp c g).live = false) ∧ ((∀ i, s.zeroingPiece i = false) → u.mem = s.mem)))

/-- R93, R94, R116, R117, R130, R135: the oldest descriptor starts on an idle engine of a core that issues: one that
fails a check ends with that status and stores nothing; another runs, its scores counted. A descriptor all of whose
units have issued, and that met no poison or double-bit error, ends once the Collator has taken its scores: the engine
is idle again, the ticket's status is held, its completion record is in scratch where it asks for one, and every context
that waits for the ticket goes on with the status. R110, R111, R115: what a MATRIX tile accumulates. In the integer
formats a sum of products that stays within 32 bits is exact, and one that would leave them saturates. -/
def Obligations.DescriptorsRunAndEnd : Prop :=
  (∀ (c : CoreId) (e : EngId) (s : State), s.coreReady c = true → s.engPaused c e = false →
     let en := (s.core c).eng e
     (∀ q rest, en.queue = q :: rest → en.run = none →
       (s.descCheck c en q ≠ 0 → completes (exec (.descStart c e) s) (fun u =>
         ((u.core c).eng e).queue = rest ∧ ((u.core c).eng e).run = none ∧ storedNone s u ∧
         (∀ p ∈ ((u.core c).eng e).log, p.1 = q.seq → p.2 = some (s.descCheck c en q)) ∧
         (u.reg (engP c + 0x100 + e * 0x40 + 8)).toNat = min (2 ^ 64 - 1) ((s.reg (engP c + 0x100 + e * 0x40 + 8)).toNat + 1))) ∧
       (s.descCheck c en q = 0 → (dToList q.bytes = false ∨ s.foreignList c (s.descList c q)
           (if 8192 ≤ q.ctx then none else some q.group) = false) →
         completes (exec (.descStart c e) s) (fun u => ((u.core c).eng e).queue = rest ∧ u.mem = s.mem ∧
           ∃ r, ((u.core c).eng e).run = some r ∧ r.d = q ∧ r.toList = dToList q.bytes ∧
             (u.reg (engP c + 0x100 + e * 0x40 + 0x10)).toNat =
               min (2 ^ 64 - 1) ((s.reg (engP c + 0x100 + e * 0x40 + 0x10)).toNat + r.scored)))) ∧
     (∀ r, en.run = some r → r.ended = true → r.out = [] → r.status ≠ 0x0284 → r.status ≠ 0x0285 →
       let d := r.d.bytes
       let place := if cwBit d 12 then up (w4 d 56 + 4 * dN d) 16 else w4 d 56
       completes (exec (.descComplete c e) s) (fun u => ((u.core c).eng e).run = none ∧
         (∀ p ∈ ((u.core c).eng e).log, p.1 = r.d.seq → p.2 = some r.status) ∧
         (if (cw d 0 3 = 0 ∨ cw d 0 3 = 2) ∧ cwBit d 41 = true then
           stored s u c place (leBytes 4 r.scored ++ leBytes 4 r.filtered ++ leBytes 4 (min r.accSat 0xFFFFFFFF) ++ leBytes 4 r.failIndex)
          else storedNone s u) ∧
         (∀ t rd, (s.thr c t).st = .waitEngine → (s.thr c t).wait = .engine rd (e.val + r.d.seq * 16) →
           (u.thr c t).st = .ready ∧ (u.thr c t).pc = (s.thr c t).pc + 1 ∧
           ∀ i, (u.thr c t).r i = if i = 0 then 0 else if i = Fin.ofNat 16 rd then BitVec.ofNat 64 r.status else (s.thr c t).r i)))) ∧
  (∀ (f : EFmt) (w x : List Byte) (i j n : Nat), f.isInt = true →
     let term (t : Nat) : Int := intOf f (f.elem w (t * 16 + i)) * intOf f (f.elem x (t * 16 + j))
     let sum (m : Nat) : Int := ((List.range m).map term).sum
     ((∀ m, m ≤ n → -2147483648 ≤ sum m ∧ sum m ≤ 2147483647) → tileAcc f n w x i j = (f32OfInt (sum n), 0)) ∧
     (∀ a : Int × Nat, ∀ v : Int, (accAdd a v).1 = max (-2147483648) (min 2147483647 (a.1 + v))))

/-- R121, R137, R138, R140 to R142: the Collator takes, from the engine whose turn it is, the oldest score of its output
for its list, as it takes an inserted one, and counts it as dropped where the list is not open to the descriptor any
more. A seal asked for is performed: the record stands at the list's line, the list is closed, and its group, if it goes
on, is signalled. R144 to R146, R150, R151, R154: the bytes of a result record: 64 + 16 K bytes, the number of entries
and K first, each entry in rank order with its ID and score, and fill entries (all ones and the fill score) up to K. -/
def Obligations.CollatorTakesAndSeals : Prop :=
  (∀ (c : CoreId) (e : EngId) (l : ListId) (s : State), s.coreReady c = true →
     let k := s.core c
     (∀ r x xs, (k.eng e).run = some r → r.out = x :: xs → k.colTurn e = true →
       (let li := k.list r.list
        let tk := takeEntry li.cfg true (k.dead r.list x.1) li.entries li.acct x.1 x.2
        s.reachesList c r.list r.d.ctx r.d.group r.d.gen = true → r.d.spec = false → completes (exec (.collatorTake c e) s) (fun u =>
         (∃ r', ((u.core c).eng e).run = some r' ∧ r'.out = xs) ∧ ((u.core c).list r.list).entries = tk.1 ∧
         ((u.core c).list r.list).acct = tk.2.1 ∧ storedNone s u)) ∧
       (s.reachesList c r.list r.d.ctx r.d.group r.d.gen = false → completes (exec (.collatorTake c e) s) (fun u =>
         (∃ r', ((u.core c).eng e).run = some r' ∧ r'.out = xs) ∧ storedNone s u ∧
         (u.reg (colP c + 0xA8)).toNat = min (2 ^ 64 - 1) ((s.reg (colP c + 0xA8)).toNat + 1)))) ∧
     (let x := k.list l
      let a := lcLine x.cfg * 64
      let g := s.grp c x.owner
      x.isOpen = true → x.sealing = true → x.reopen = none → s.badArea c a (64 + 16 * lcK x.cfg) = false →
       g.done = false → g.killed = false →
       completes (exec (.listSeal c l) s) (fun u =>
         stored s u c a (x.record (Mem.le g.desc 0 4) c) ∧ ((u.core c).list l).isOpen = false ∧
         (u.grp c x.owner).events = g.events + 1 ∧
         Tab.get (fun _ => none) (u.core c).sealed x.owner = some (a / 64) ∧
         (u.reg (colP c + 0xC0)).toNat = min (2 ^ 64 - 1) ((s.reg (colP c + 0xC0)).toNat + 1)))) ∧
  (∀ (l : ColList) (tag core : Nat), l.entries.length ≤ lcK l.cfg → lcK l.cfg < 65536 →
     let b := l.record tag core
     b.length = 64 + 16 * lcK l.cfg ∧ leAt b 0 2 = l.entries.length ∧ leAt b 2 2 = lcK l.cfg ∧
     (∀ i, ∀ h : i < l.entries.length, leAt b (64 + 16 * i) 8 = l.entries[i].1.toNat ∧
       leAt b (72 + 16 * i) 4 = l.entries[i].2.toNat) ∧
     (∀ i, l.entries.length ≤ i → i < lcK l.cfg → leAt b (64 + 16 * i) 8 = 2 ^ 64 - 1 ∧
       leAt b (72 + 16 * i) 4 = (fillScore (lcMax l.cfg)).toNat))

/-- R152 to R155, R203: the Desk takes a core's oldest report of a freed group. One that the query's stage awaits (of a
walk, scan or re-rank group in that stage, of a group of the last layer while ranking) strikes the core off, with its
record; another changes no query. One of a killed group of the layer in progress fails that step. The chip Collator performs its oldest merge: the merged record reaches the Desk, and a
source that fails a check fails the query with that code instead. -/
def Obligations.ReportsAndMerges : Prop :=
  ∀ (c : CoreId) (s : State),
    (∀ (x : Report) (rest : List Report) (q : Query), (s.core c).freed = x :: rest → s.query x.tag = some q →
      let awaited := q.stage = .search ∧ x.kind = 0 ∨ q.stage = .rerank ∧ x.kind = 2 ∨
        q.stage = .rank ∧ (x.kind = 1 ∨ x.kind = 3) ∧ x.step = q.step
      (x.failed = false → awaited → c.val ∈ q.waiting → completes (exec (.groupFreeReport c) s) (fun u => (u.core c).freed = rest ∧
        ∃ q', u.query x.tag = some q' ∧ q'.waiting = q.waiting.erase c ∧ q'.err = q.err ∧
          (∀ n, x.line = some n → q'.recs = q.recs ++ [(c.val, n)]) ∧
          ((s.dk q.part).gens.any (fun g => decide (g.tag = x.tag)) = false →
            (∀ y, (s.dk q.part).step = some y → x.tag ∉ y.tags) → q.waiting = [c.val] → q'.busy = false))) ∧
      (x.failed = false → ¬awaited → completes (exec (.groupFreeReport c) s) (fun u => (u.core c).freed = rest ∧
        ∀ t, u.query t = s.query t)) ∧
      (∀ p y, x.failed = true → s.stepPart c x.kind x.step = some p → (s.dk p).step = some y →
        completes (exec (.groupFreeReport c) s) (fun u => (u.core c).freed = rest ∧ (∀ t, u.query t = s.query t) ∧
          ∃ y', (u.dk p).step = some y' ∧ y'.failed = (if y.failed = 0 then 0x0111 else y.failed) ∧
            y'.left = if x.done then y.left else y.left.erase c.val))) ∧
    (∀ m r q, s.merges = m :: r → s.query m.tag = some q → m.bulk = none → m.dest = none →
      let a := (s.nextMerge r).checkSrcs m.part m.srcs
      (a.2.1 ≠ 0 → completes (exec .mergeRequest s) (fun u => (s.desk.mergeQ = [] → u.merges = r) ∧
        (∀ w ws, s.desk.mergeQ = w :: ws → u.merges = r ++ [w]) ∧ ∃ q', u.query m.tag = some q' ∧
        q'.busy = false ∧ q'.err = if q.err = 0 then a.2.1 else q.err)) ∧
      (a.2.1 = 0 → agree a.2.2 = true → completes (exec .mergeRequest s) (fun u =>
        ∃ q', u.query m.tag = some q' ∧ q'.record = (mergeRecords m.kOut m.dedup m.tag a.2.2).1)))

/-- R169 to R172, R178, R179: the Desk delivers the records of the tombstone log up to WRITTEN to every core of the
partition, then writes TLOG_READ and PUBLISHED. A prefetched block fills its entry, and serves the first RDA that waits
on it. R161, R175 to R177: a snapshot commit is one at a time; with a good version record and no extents it waits for
its record to be durable in tier 2 (PAUSED while a brown-out holds it, R330, R385), and its last step makes the version ACTIVE and ends the operation. -/
def Obligations.PublicationAndSnapshots : Prop :=
  (∀ (p : PartId) (c : CoreId) (i : Nat) (s : State),
     let d := s.dk p
     let root := s.idxRoot p
     (d.pubNext = none → root ≠ 0 → s.inAlloc p root 256 = true →
       let r := s.devRead p root 64
       let w := leAt r.2.1 0 4
       let x := r.1.readLog p (wAt r.2.1 24) (leAt r.2.1 20 4) w (leAt r.2.1 20 4) d.tlogRead d.published
       r.2.2 = false → (w ≤ d.published → goesTo (exec (.publishSample p) s) r.1) ∧
       (d.published < w → x.2.2.2 = .done → completes (exec (.publishSample p) s) (fun u =>
         (u.dk p).pubNext = some (x.2.1, w) ∧ (u.dk p).tombs = (x.1.dk p).tombs ∧
         (∀ c ∈ s.coresOf p, (u.core c).tombs = (u.dk p).tombs) ∧ (u.dk p).published = d.published))) ∧
     (∀ t w, d.pubNext = some (t, w) → completes (exec (.publishPointWrite p) s) (fun u =>
       (u.dk p).tlogRead = t ∧ (u.dk p).published = w ∧ (u.dk p).pubNext = none ∧
       u.mem = ((s.putRoot p 16 (leBytes 4 t)).putRoot p 4 (leBytes 4 w)).mem)) ∧
     (∀ r, s.req i = some r → r.kind = .prefetch → (∀ l, l < r.nLines → r.lineDone l = true) →
       completes (exec (.prefetchFill i) s) (fun u => u.req i = none ∧ storedNone s u ∧
         ∀ e ∈ (u.core r.core).prefetch, e.id = i → e.filled = true ∧ e.data = Mem.bytes r.stored (r.addr.toNat % 64) 128)) ∧
     (∀ e t inst dst ws, (s.core c).prefetch.find? (fun e => decide (e.id = i)) = some e → e.filled = true →
       e.waits = (t, inst, dst) :: ws →
       completes (exec (.prefetchServe c i) s) (fun u =>
         (if s.takesData { core := c, ctx := t, inst := inst } = true then
           stored s u c dst ((List.range 128).map (fun j => e.data.getD j 0)) else storedNone s u) ∧
         (ws = [] → ∀ y ∈ (u.core c).prefetch, y.id ≠ i) ∧
         (ws ≠ [] → ∀ y ∈ (u.core c).prefetch, y.id = i → y.waits = ws) ∧
         ((s.thr c t).inst = inst → (s.thr c t).st = .ready → (u.thr c t).reads = (s.thr c t).reads - 1)))) ∧
  (∀ (f : Fn) (p : PartId) (o : SlotId) (rq : List Byte) (s : State),
     let va := wAt rq 0
     let dst := wAt rq 24
     let vr := (slotRequest s f p o 1 64).1.devRead p va 32
     (mayStart s f p o → asks s f p o 1 64 rq →
       ((s.dk p).snap ≠ none → completes (exec (.indexSnapshotCommit f p o) s) (fun u =>
         (u.losw p o).state = 4 ∧ (u.losw p o).error = 0x02A3 ∧ (u.dk p).snap = (s.dk p).snap)) ∧
       ((s.dk p).snap = none → leAt rq 16 4 = 0 → zeroAt rq 20 4 = true → zeroAt rq 32 32 = true → (wAt rq 8).toNat % 32 = 0 →
         aSpace dst = 2 → s.inAlloc p va 32 = true → s.inAlloc p dst 4096 = true → vr.2.2 = false →
         (s.dk p).vrecOk vr.2.1 = true → (vr.1.degreeOk p vr.2.1).2 = true → s.queriesOf p = [] →
         completes (exec (.indexSnapshotCommit f p o) s) (fun u =>
           (u.losw p o).state = (if s.pwr.brownout then 6 else 2) ∧ (u.losw p o).op = 1 ∧
           ∃ q, (u.dk p).snap = some q ∧ q.slot = o ∧ q.vrec = vr.2.1 ∧ q.dst = dst ∧ q.wrote = false))) ∧
     (∀ q, (s.dk p).snap = some q → (∀ n ∈ q.units, ∀ x ∈ (s.ns p).staging, x.lu ≠ n) →
       (q.wrote = true → completes (exec (.snapshotPublish p) s) (fun u => (u.dk p).snap = none ∧
         (u.dk p).active = leAt q.vrec 0 4 ∧ (u.losw p q.slot).state = 3 ∧
         Tab.get (fun _ => []) (u.dk p).vrec (leAt q.vrec 0 4 % 4) = q.vrec)) ∧
       (q.wrote = false → (s.ns p).takesWrite = true →
         completes (exec (.snapshotPublish p) s) (fun u => ∃ q', (u.dk p).snap = some q' ∧ q'.wrote = true ∧ q'.slot = q.slot)) ∧
       (q.wrote = false → (s.ns p).takesWrite = false → completes (exec (.snapshotPublish p) s) (fun u =>
         (u.dk p).snap = none ∧ (u.losw p q.slot).state = 4 ∧ (u.losw p q.slot).error = 0x02A2))))

/-- R18, R188, R191 to R193, R377: the Desk takes ready slots of a ring in order; each of the four reserves refills by
its rate up to its cap; with a request of the fabric alone waiting, it is refused with the first test that it fails and
counted, or admitted as a live query and counted. -/
def Obligations.DeskAdmits : Prop :=
  ∀ (p : PartId) (s : State),
    (ringLog2 s p ≠ 0 → (s.part p).reset = none →
      let n := 2 ^ ringLog2 s p
      let slot (h : Nat) := addA (s.deskW p 3) (64 + 64 * (h % n))
      let r := s.readBy p (slot (s.dk p).ringHead) 64
      let ready : Prop := s.inAlloc p (slot (s.dk p).ringHead) 64 = true ∧ r.2.2 = false ∧
        leAt r.2.1 56 8 = ((s.dk p).ringHead + 1) % 2 ^ 64
      completes (exec (.ringPoll p) s) (fun u => ∃ l : List (List Byte), l.length ≤ n ∧
        (u.dk p).intake = (s.dk p).intake ++ l ∧
        ((s.dk p).ringHead < 2 ^ 64 → (u.dk p).ringHead = ((s.dk p).ringHead + l.length) % 2 ^ 64) ∧
        (ready → l.head? = some r.2.1) ∧ (¬ ready → u.deskP = s.deskP ∧ ((∀ i, s.zeroingPiece i = false) → u.mem = s.mem)))) ∧
    completes (exec .reserveRefill s) (fun u => ∀ q, q < 16 →
      (u.dk q).bCore = min (s.rsvCap q 0) ((s.dk q).bCore + s.rsvRate q 0) ∧
      (u.dk q).b0 = min (s.rsvCap q 1) ((s.dk q).b0 + s.rsvRate q 1) ∧
      (u.dk q).b1 = min (s.rsvCap q 2) ((s.dk q).b1 + s.rsvRate q 2) ∧
      (u.dk q).b2 = min (s.rsvCap q 3) ((s.dk q).b2 + s.rsvRate q 3)) ∧
    (∀ m r, s.pickSq 0 = none → s.pickSq 1 = none → (∀ q, (s.dk q).intake = []) → s.desk.fabric = m :: r → m.node ≠ s.node →
      m.dst < 16 →
      let src := Src.fabric m.node m.part
      let code := s.admitCode m.dst src m.bytes (decide (m.bytes.length < 64))
      completes (exec .admitNext s) (fun u => u.desk.fabric = r ∧
        (code ≠ 0 → (∀ t, u.query t = s.query t) ∧ counted s u (deskCnt m.dst 1) 1) ∧
        (code = 0 → counted s u (deskCnt m.dst 0) 1 ∧ ∃ tag x, u.query tag = some x ∧ x.part = m.dst ∧ x.src = src ∧
          x.req = m.bytes ∧ x.stage = .admitted ∧ x.busy = false ∧ x.err = 0 ∧ ∀ t, t ≠ tag → u.query t = s.query t)))

/-- R17, R21, R22, R152, R196, R197: a work item held for a core enters its queue once it fits; a query that is neither
busy nor failed starts its next stage (a walk goes to as many distinct cores as its class asks for); a query that has
failed, or has reached its report, is completed and no longer live. -/
def Obligations.DeskRunsQueries : Prop :=
  ∀ (p : PartId) (c : CoreId) (q : Nat) (x : Query) (s : State),
    (s.coreOwner c = some p.val → s.takesItems c = true →
      ∀ b r, takeHeld (s.core c) c (s.dk p).held false false = some (b, r) →
      completes (exec (.workItemRelease c) s) (fun u => (u.core c).workq = (s.core c).workq ++ [b] ∧ (u.dk p).held = r ∧
        (c.val, b) ∈ (s.dk p).held ∧
        ((u.core c).workq.filter (fun x => itemRt x == itemRt b)).length ≤ if itemRt b then 16 else 48)) ∧
    (s.query q = some x →
      (x.busy = true ∨ x.err ≠ 0 ∨ x.stage = .report → goesTo (exec (.queryStageAdvance q) s) s) ∧
      (x.busy = false → x.err = 0 → x.stage = .admitted →
        (clFlag x.cls 2 = true → bit (leAt x.req 2 2) 0 = false →
          completes (exec (.queryStageAdvance q) s) (fun u => ∃ y, u.query q = some { x with stage := .encode, busy := true } ∧
            (u.dk x.part).ready = (s.dk x.part).ready ++ [y] ∧ y.tags = [q] ∧ y.model = bAt x.cls 4 ∧ y.layer = 0)) ∧
        (clFlag x.cls 2 = false → clSearch x.cls ≠ 0 → isHome x = false →
          ((s.takers x.part).length < clFan x.cls → goesTo (exec (.queryStageAdvance q) s) s) ∧
          (clFan x.cls ≤ (s.takers x.part).length → completes (exec (.queryStageAdvance q) s) (fun u =>
            ∃ y, u.query q = some y ∧ y.stage = .search ∧ y.busy = true ∧ y.waiting = y.fan ∧ y.fan.length = clFan x.cls ∧ y.fan.Nodup ∧
              ∀ d ∈ y.fan, d ∈ s.takers x.part)))) ∧
      (x.err ≠ 0 → completes (exec (.queryComplete q) s) (fun u => u.query q = none ∧
        (x.part < 16 → counted s u (deskCnt x.part 3) 1))) ∧
      (x.err = 0 → x.stage = .report → x.busy = false →
        completes (exec (.queryComplete q) s) (fun u => u.query q = none)))

/-- R201 to R204: a partition with no step under way takes its first ready step, one of a real-time query before any
other; at the boundary before a MATRIX layer every core of the partition gets its item; after the last layer the step
ends, and a query that it served goes on, a ranking one once the lists that it awaits are sealed (the model's choice, log
entry 94). A generative round takes the requests that fit, in the order of admission. -/
def Obligations.ModelSteps : Prop :=
  ∀ (p : PartId) (s : State),
    let d := s.dk p
    (d.step = none → d.pendCfg = false → (s.part p).reset = none →
      (d.ready = [] → goesTo (exec (.modelStepStart p) s) s) ∧
      (d.ready ≠ [] → (∀ x ∈ d.ready, s.planOf p x.model ≠ []) →
        completes (exec (.modelStepStart p) s) (fun u => ∃ x ∈ d.ready, ∃ y, (u.dk p).step = some y ∧
        y.model = x.model ∧ y.plan = s.planOf p x.model ∧ (plGen y.plan = true → counted s u (deskCnt p 5) 1) ∧ y.tags = x.tags ∧ y.layer = 0 ∧ y.begun = false ∧ (u.dk p).stepNo = d.stepNo + 1 ∧
        ((∃ z ∈ d.ready, z.rt = true) → x.rt = true) ∧ (u.dk p).ready.length + 1 = d.ready.length))) ∧
    (∀ x q y, d.step = some x → x.left = [] →
      (x.begun = false → x.wreq = [] → x.todo = [] → x.poison = false → s.stepQuery x = some (q, y) → lyKind (plLayer x.plan x.layer) = 0 →
        completes (exec (.layerStart p) s) (fun u => ∃ z, (u.dk p).step = some z ∧ z.begun = true ∧ z.layer = x.layer ∧
          z.left = s.coresOf p)) ∧
      (x.begun = false → x.wreq ≠ [] ∨ x.todo ≠ [] → completes (exec (.layerStart p) s) (fun u =>
        (u.dk p).step = some x ∧ (u.dk p).held = d.held ∧ ∀ c, u.core c = s.core c)) ∧
      (x.begun = true → x.failed = 0 → plLayers x.plan ≤ x.layer + 1 → plGen x.plan = false →
        completes (exec (.layerStart p) s) (fun u => (u.dk p).step = none ∧
          ∀ t z, t ∈ x.all → s.query t = some z → u.query t = some { z with
            busy := decide (z.stage = .rank ∧ z.waiting ≠ []), qvec := if z.stage = .encode then leAt (plLayer x.plan (plLayers x.plan - 1)) 44 4 else z.qvec }))) ∧
    (∀ g x, d.gens = [g] → 0 < g.chunks → d.ready = [] → d.step = none → s.query g.tag = some x →
      completes (exec (.generativeRound p) s) (fun u =>
        ∃ y, (u.dk p).ready = [y] ∧ y.model = bAt x.cls 5 ∧ y.decode = [] ∧ y.chunks = [g.tag] ∧ y.tags = [g.tag] ∧ y.rt = clRt x.cls))

/-- R215 to R218, R229 to R234, R371: a controller's read of a good line answers its 64 bytes, an error that the code
corrects being counted; a poisoned line answers poison; a scrub read counts itself and changes no byte, and one of a
module's window is left out while a command of the module runs; once a piece is zeroed, all of it reads 0, unpoisoned,
and the other pieces are as they were. -/
def Obligations.TierReads : Prop :=
  ∀ (i l errs : Nat) (piece : PieceId) (r : Req) (s : State),
    let good (g o : Nat) := Tab.get (fun _ => false) s.memBad (physKey g o / 64) = false
    ((s.reach i).req i = some r → readsTier r.kind = true → l < r.nLines → r.lineDone l = false →
      ∀ g o, s.locate r.part (r.lineAddr l) = some (.phys g o) → s.zeroingPiece g = false →
        s.mapBad r.part (r.lineAddr l) = false → (s.reach i).lineWaits i r l = false →
        errs ≤ (if g < 48 then 2 else 1) →
        completes (exec (.tierRead i l errs) s) (fun u => u.mem = s.mem ∧
          (good g o → u.memBad = s.memBad ∧
            (errs ≠ 0 → (u.reg (ctlP g + 0x80)).toNat = min (2 ^ 64 - 1) ((s.reg (ctlP g + 0x80)).toNat + 1))) ∧
          ∃ q, u.req i = some q ∧ q.lineDone l = true ∧
            (∀ j, j < 64 → Mem.rd q.stored (64 * l + j) = Mem.rd s.mem (physKey g (o / 64 * 64) + j)) ∧
            (good g o ↔ Tab.get (fun _ => false) q.storedBad l = false))) ∧
    (l * 64 < s.pieceCap piece → s.zeroingPiece piece = false → good piece (l * 64) → errs ≤ (if piece.val < 48 then 2 else 1) →
      (s.windowLine piece l = none → completes (exec (.scrubRead piece l errs) s) (fun u => u.mem = s.mem ∧
        u.memBad = s.memBad ∧ counted s u (ctlP piece + 0x90) 1)) ∧
      (∀ w, s.windowLine piece l = some w →
        ((s.car (piece - 48)).run = none → completes (exec (.scrubRead piece l errs) s) (fun u => u.mem = s.mem ∧
          u.memBad = s.memBad ∧ counted s u (ctlP piece + 0x90) 1)) ∧
        ((s.car (piece - 48)).run ≠ none → goesTo (exec (.scrubRead piece l errs) s) s))) ∧
    (s.zeroingPiece piece = true → completes (exec (.pieceZeroingDone piece) s) (fun u => u.zeroingPiece piece = false ∧
      let lo := physKey piece 0
      let hi := if piece.val < 48 then lo + 2 ^ 33 else lo + 2 ^ 38
      (∀ b, Mem.rd u.mem b = if lo ≤ b ∧ b < hi then 0 else Mem.rd s.mem b) ∧
      (∀ b, Tab.get (fun _ => false) u.memBad b = if lo / 64 ≤ b ∧ b < hi / 64 then false else Tab.get (fun _ => false) s.memBad b)))

/-- R89, R92, R230, R235, R236: a full line of a WRA whose source has not changed is written in its place and clears its
poison, no other byte changing; an ATOM of space 2 on a good line takes the old value and writes the new one; BAR2 reads
and writes the window's bytes, and an access that the window does not allow is unsupported or dropped and counted. -/
def Obligations.TierWrites : Prop :=
  ∀ (i l : Nat) (f : Fn) (x : BitVec 36) (n : Nat) (data : List Byte) (r : Req) (s : State),
    ((s.reach i).req i = some r → r.canWrite l = true → r.range = none → r.addr.toNat % 64 = 0 → r.len % 64 = 0 →
      ∀ g o, s.locate r.part (r.lineAddr l) = some (.phys g o) → s.zeroingPiece g = false →
        s.mapBad r.part (r.lineAddr l) = false → (s.reach i).lineWaits i r l = false →
        (s.reach i).halfRead r.part (r.lineAddr l) = false →
        let new := s.scr r.core (r.loc + 64 * l) 64
        Mem.bytes r.old (64 * l) 64 = new → (Core.words (64 * l) 64).any (fun w => Tab.get (fun _ => false) r.oldBad w) = false →
        (((s.core r.core).check (r.loc + 64 * l) 64).2.1 || ((s.core r.core).check (r.loc + 64 * l) 64).2.2) = false →
        completes (exec (.tierWrite i l) s) (fun u => (∃ q, u.req i = some q ∧ q.lineDone l = true) ∧
          Tab.get (fun _ => false) u.memBad (physKey g o / 64) = false ∧
          ∀ b, Mem.rd u.mem b = if physKey g o ≤ b ∧ b < physKey g o + 64 then new.getD (b - physKey g o) 0 else Mem.rd s.mem b)) ∧
    (s.req i = some r → r.kind = .atom → r.answered = false → s.lineWaits i r 0 = false → r.addr.toNat % 8 = 0 → ∀ g o, s.locate r.part r.addr = some (.phys g o) →
      s.zeroingPiece g = false →
      Tab.get (fun _ => false) s.memBad (physKey g o / 64) = false → (s.peek r.part r.addr 8).2 = false →
      let old : Word := BitVec.ofNat 64 (leNat (s.peek r.part r.addr 8).1)
      completes (exec (.tierAtom i 0) s) (fun u => (∃ q, u.req i = some q ∧ q.answered = true ∧ q.b = old ∧ q.code = r.code) ∧
        u.mem = match atomNew r.op old r.a r.b with
          | some w => Mem.putBytes s.mem (physKey g o) (leBytes 8 w.toNat)
          | none => s.mem)) ∧
    (match s.bar2 f x n with
      | some (p, a) => completes (exec (.bar2Read f x n) s) (fun u => u.resp.bytes = (s.peek p a n).1 ∧
          ((s.peek p a n).2 = true → u.resp.poison = true) ∧
          (s.unitsAt p a n = [] → u.resp.poison = (s.peek p a n).2) ∧ u.resp.ur = false ∧ u.mem = s.mem)
      | none => goesTo (exec (.bar2Read f x n) s) { s with resp := { ur := true } }) ∧
    (match s.bar2 f x data.length with
      | some (p, a) => a.toNat % 64 + data.length ≤ 64 → ∀ g o, s.locate p a = some (.phys g o) → s.mapBad p a = false →
          completes (exec (.bar2Write f x data) s) (fun u => ∀ b, Mem.rd u.mem b =
            if physKey g o ≤ b ∧ b < physKey g o + data.length then data.getD (b - physKey g o) 0 else Mem.rd s.mem b)
      | none => f ≠ .sp → completes (exec (.bar2Write f x data) s) (fun u => u.mem = s.mem ∧ counted s u (viewP (fnIdx f) + 0x618) 1))

/-- R218, R223 to R227, R237: at a period's end the access counts of a UNIFIED partition halve (the model's choice, log entry
95: the periods of PERIOD_US follow one another from CLK_TIME 0); the copy of a promotion that
nothing wrote meanwhile puts the page in its tier 0 slot and is counted; a batch is one at a time and needs a UNIFIED
view. -/
def Obligations.Migration : Prop :=
  ∀ (f : Fn) (p : PartId) (o : SlotId) (rq : List Byte) (s : State),
    let x := s.tp p
    let period := 100 * min 10000 (max 100 (fld (s.reg 0x9040) 4 16))
    let e := (slotRequest s f p o 4 16).1.devRead p (wAt rq 0) (16 * leAt rq 8 4)
    (s.unified p = false → goesTo (exec (.migrationPeriod p) s) s) ∧
    (x.periodAt.toNat / period = s.clk.toNat / period → goesTo (exec (.migrationPeriod p) s) s) ∧
    (s.unified p = true → x.periodAt.toNat / period < s.clk.toNat / period →
      Tab.wf (fun _ => 0) x.pcnt = true → Tab.wf (fun _ => 0) x.xcnt = true →
      completes (exec (.migrationPeriod p) s) (fun u => (x.move ≠ none ∨ x.batch ≠ none → u.mem = s.mem) ∧
        (∀ g, Tab.get (fun _ => 0) (u.tp p).pcnt g = Tab.get (fun _ => 0) x.pcnt g / 2) ∧
        (∀ g, Tab.get (fun _ => 0) (u.tp p).xcnt g = Tab.get (fun _ => 0) x.xcnt g / 2))) ∧
    (∀ m, x.move = some m → m.ext = false → m.dst = 0 → m.dirty = Tab.empty → x.batch = none → x.moveQ = [] →
      completes (exec (.moveCopyDone p) s) (fun u => (u.tp p).move = none ∧ (u.page p m.num).res = 0 ∧
        (u.page p m.num).slot = m.slot ∧ counted s u (0x9300 + p * 0x40 + 0x20) 1)) ∧
    (mayStart s f p o → asks s f p o 4 16 rq →
      (s.unified p = false → completes (exec (.migrationBatch f p o) s) (fun u =>
        (u.losw p o).state = 4 ∧ (u.losw p o).error = 0x0413)) ∧
      (s.unified p = true → x.batch ≠ none → completes (exec (.migrationBatch f p o) s) (fun u =>
        (u.losw p o).state = 4 ∧ (u.losw p o).error = 0x0412)) ∧
      (∀ n todo, n = leAt rq 8 4 → s.unified p = true → x.batch = none → x.move ≠ none → 0 < n → n ≤ 4096 →
        zeroAt rq 12 4 = true → (wAt rq 0).toNat % 16 = 0 → s.inAlloc p (wAt rq 0) (16 * n) = true →
        e.2.2 = false → batchEntries (s.uSize p) ((List.range n).map (fun i => (e.2.1.drop (16 * i)).take 16)) = some todo →
        completes (exec (.migrationBatch f p o) s) (fun u => (u.losw p o).state = 2 ∧ (u.losw p o).op = 4 ∧
          ∃ b, (u.tp p).batch = some b ∧ b.slot = o ∧ b.todo = todo)))

/-- R247, R250, R252: a block of a ranged read whose lines are there, and ahead of which none of its pair, channel or
partition waits, decodes into its elements, poison-marked where the block is invalid or one of its lines is poisoned; a
block of a ranged WRA whose source is good is formed by the encoder with the partition's table; without such a table
every stored line of the write becomes poisoned. R246, R257 to R259: a table load runs for tables that the partition
owns on every target, one load at a time; each target in turn takes the tables unless a block in it names one of them; a
change of a table's owner unloads it. -/
def Obligations.ExpandersAndMoulds : Prop :=
  (∀ (i b : Nat) (r : Req) (s : State),
     (∀ g, s.req i = some r → r.inExpander b = some g → s.blksAhead i r g b = 0 →
       grants (s.blkExp r b) (s.expander (s.blkExp r b)).lastDec r.part (s.decWaits (s.blkExp r b)) = true →
       let d := s.decodeBlock (s.blkExp r b) r.part g.rate g.ofmt (r.blkBytes g b)
       let bad := (r.blkLines g b).any (fun l => Tab.get (fun _ => false) r.storedBad l)
       completes (exec (.expanderBlockDecode i b) s) (fun u => u.mem = s.mem ∧ ∃ q, u.req i = some q ∧
         Tab.get (fun _ => false) q.blocks b = true ∧
         ∀ k, k < g.outBytes → (Tab.get (fun _ => false) q.outBad (b * g.outBytes + k) = true ↔ bad = true ∨ d = none) ∧
           (∀ e, d = some e → e.length = g.outBytes → Mem.rd q.out (b * g.outBytes + k) = e.getD k 0))) ∧
     (let t := s.reach i
      ∀ g n, t.req i = some r → r.kind = .wra → r.rng = some g → r.blks = some n → b < n.2 →
       Tab.get (fun _ => false) r.blocks b = false →
       let x := t.blkExp r b
       let srcs := (List.range (g.outBytes / 64)).map (fun k => t.srcLine r (b * (g.outBytes / 64) + k))
       grants x (t.expander x).lastEnc r.part (t.encWaits x) = true →
       (s.ownsMould x r.part g.mould = false → completes (exec (.expanderBlockEncode i b) s) (fun u =>
         counted s u (expP x + 0x190) 1 ∧ ∃ q, u.req i = some q ∧
           ∀ l, l < r.nLines → Tab.get (fun _ => false) q.storedBad l = true)) ∧
       (∀ tb, s.ownsMould x r.part g.mould = true → (s.expander x).table g.gen g.mould = some tb → g.resid = false →
         (∀ y ∈ srcs, y.2 = false) →
         let e := encodeBlock g.rate g.mould g.gen tb ((elems g.ofmt (srcs.flatMap (·.1))).map (encElem g.ofmt))
         completes (exec (.expanderBlockEncode i b) s) (fun u => u.mem = s.mem ∧ ∃ q, u.req i = some q ∧
           Tab.get (fun _ => false) q.blocks b = true ∧ q.storedBad = r.storedBad ∧
           ∀ k, k < e.1.length → Mem.rd q.stored (r.blkOff b + k) = e.1.getD k 0)))) ∧
  (∀ (f : Fn) (p : PartId) (o : SlotId) (x : ExpId) (k : Fin 4) (v : Word) (rq : List Byte) (s : State),
     (mayStart s f p o → asks s f p o 8 32 rq →
       let a := wAt rq 0
       let ts := maskBits (leAt rq 8 4) 32
       let xs := maskBits (leAt rq 12 4) 20
       let n := 128 * ts.length
       let r := (slotRequest s f p o 8 32).1.devRead p a (n + 64)
       let im := r.2.1
       let tbs := (List.range ts.length).map (fun k => (im.drop (128 * k)).take 128)
       ts ≠ [] → xs ≠ [] → leAt rq 12 4 < 2 ^ 20 → bAt rq 16 < 2 → zeroAt rq 17 15 = true → a.toNat % 64 = 0 →
       s.inAlloc p a (n + 64) = true →
       (s.mload p ≠ none → completes (exec (.mouldTableLoad f p o) s) (fun u =>
         (u.losw p o).state = 4 ∧ (u.losw p o).error = 0x0504 ∧ u.mload p = s.mload p)) ∧
       (s.mload p = none → (∃ y ∈ xs, ∃ t ∈ ts, s.ownsMould y p t = false) →
         completes (exec (.mouldTableLoad f p o) s) (fun u => (u.losw p o).state = 4 ∧ (u.losw p o).error = 0x0502)) ∧
       (s.mload p = none → (∀ y ∈ xs, ∀ t ∈ ts, s.ownsMould y p t = true) → r.2.2 = false →
         leAt im n 4 = crc32c (im.take n) → zeroAt im (n + 4) 60 = true → (∀ t ∈ tbs, goodMould t = true) →
         completes (exec (.mouldTableLoad f p o) s) (fun u => (u.losw p o).state = 2 ∧ (u.losw p o).total = xs.length ∧
           ∃ m, u.mload p = some m ∧ m.slot = o ∧ m.bank = bAt rq 16 ∧ m.tables = ts.zip tbs ∧ m.targets = xs ∧ m.idx = 0))) ∧
     (∀ m y, s.mload p = some m → m.targets[m.idx]? = some y →
       ((∃ t ∈ m.tables, s.tableBusy y m.bank t.1 = true) → completes (exec (.mouldInstall p) s) (fun u =>
         u.mload p = none ∧ (u.losw p m.slot).state = 4 ∧ (u.losw p m.slot).error = 0x0501)) ∧
       ((∀ t ∈ m.tables, s.tableBusy y m.bank t.1 = false) → (m.tables.map (·.1)).Nodup →
         completes (exec (.mouldInstall p) s) (fun u =>
           (∀ t ∈ m.tables, Tab.get (fun _ => none) (u.expander y).tables (m.bank * 32 + t.1) = some t.2) ∧
           (if m.idx + 1 = m.targets.length then u.mload p = none ∧ (u.losw p m.slot).state = 3
             else ∃ m', u.mload p = some m' ∧ m'.idx = m.idx + 1)))) ∧
     (fnIsVf f = false → s.seesPage f (expPage x) = true → completes (exec (.mouldOwnerWrite f x k v) s) (fun u =>
       let a := expP x + 0x40 + k.val * 8
       u.reg a = v &&& 0x8F8F8F8F8F8F8F8F ∧
       ∀ b bank, b < 8 → bank < 2 → Tab.get (fun _ => none) (u.expander x).tables (bank * 32 + 8 * k.val + b) =
         if fld (s.reg a) (8 * b) 8 = fld (u.reg a) (8 * b) 8 then
           Tab.get (fun _ => none) (s.expander x).tables (bank * 32 + 8 * k.val + b) else none)))

/-- R264, R265, R268 to R272, R275, R280, R281: an enabled Carrel channel takes the ready commands of its ring in order;
the units perform the one under way, and on a good module each record of a SCAN or SELECT is scored (or passed) or
filtered; a command that ends is counted by its outcome and the next taken one starts; a cancelled query has no command
left. -/
def Obligations.CarrelCommands : Prop :=
  ∀ (f : Fn) (m : ModId) (p : PartId) (q : Nat) (v : Word) (s : State), s.chanOwner m = some p.val →
    let x := s.car m
    let ctl := s.inForce (carP m + 0x48)
    (ctl.getLsbD 0 = false → goesTo (exec (.carrelRingPoll m) s) s) ∧
    (ctl.getLsbD 0 = true → s.isCarrel m = true →
      let n := 2 ^ fld ctl 8 5
      let a := addA (BitVec.ofNat 64 (fld (s.inForce (carP m + 0x40)) 6 44 * 64)) (64 + 64 * (x.head % n))
      completes (exec (.carrelRingPoll m) s) (fun u => ∃ k, k ≤ n ∧ (u.car m).head = x.head + k ∧
        (s.inAlloc p a 64 = true → (s.devRead p a 64).2.2 = false → caSeq (s.devRead p a 64).2.1 = (x.head + 1) % 2 ^ 64 → 0 < k))) ∧
    (∀ c, x.run = some c → c.done = false → s.pwr.brownout = false →
      (caOp c.bytes = 1 → completes (exec (.scan m [] 0) s) (fun u => ∃ d, (u.car m).run = some d ∧ d.done = true ∧
        d.bytes = c.bytes ∧ u.mem = s.mem ∧ (c.ver = [] → (∀ l, Tab.get (fun _ => false) s.memBad l = false) → d.scored + d.filtered = caN c.bytes))) ∧
      (caOp c.bytes = 2 → completes (exec (.select m [] 0) s) (fun u => ∃ d, (u.car m).run = some d ∧ d.done = true ∧
        d.bytes = c.bytes ∧ u.mem = s.mem ∧ (c.ver = [] → (∀ l, Tab.get (fun _ => false) s.memBad l = false) → d.passed + d.filtered = caN c.bytes))) ∧
      (caOp c.bytes = 3 → completes (exec (.rowsum m [] 0) s) (fun u => ∃ d, (u.car m).run = some d ∧ d.done = true ∧
        d.bytes = c.bytes ∧ u.mem = s.mem))) ∧
    (∀ c, x.run = some c → c.done = true → completes (exec (.carrelComplete m) s) (fun u =>
      (u.car m).lastSeq = caSeq c.bytes % 2 ^ 32 ∧ (u.car m).run.map (·.bytes) = x.taken.head?.map (·.bytes) ∧ (u.car m).taken = x.taken.tail ∧
      ((∀ k, k < 4 → Tab.get (fun _ => []) x.found k = []) → c.status = 0 → counted s u (carP m + 0x80) 1) ∧
      (c.status ≠ 0 → counted s u (carP m + 0x88) 1))) ∧
    (q ≠ 0 → completes (exec (.carrelCancel m q) s) (fun u => (∀ c ∈ (u.car m).taken, caTag c.bytes ≠ q) ∧
      ∀ c, (u.car m).run = some c → caTag c.bytes ≠ q)) ∧
    (s.seesCarrel f m = true → completes (exec (.carrelEnableWrite f m v) s) (fun u =>
      (u.reg (carP m + 0x48)).getLsbD 0 = v.getLsbD 0 ∧
      (fnIsVf f = true → fld (u.reg (carP m + 0x48)) 16 5 = fld (s.reg (carP m + 0x48)) 16 5)))

/-- R285, R286, R290 to R297: a Gather unit takes the ready requests of a ring in order; the oldest batch starts when
its partition has none in progress: one that fails a check is finished with that status, another begins, and is finished
at once when all its rows are this node's; its completion ends it. -/
def Obligations.GatherBatches : Prop :=
  ∀ (p : PartId) (g : Nat) (s : State), s.guOf p = some g →
    let x := s.gu p
    let cfg := s.inForce (guCfg g p)
    let n := 2 ^ fld cfg 8 5
    let a := addA (BitVec.ofNat 64 (fld (s.inForce (guCfg g p + 8)) 6 44 * 64)) (64 + 64 * (x.head % n))
    ((s.part p).reset = none → completes (exec (.gatherRingPoll p) s) (fun u => ∃ k, k ≤ n ∧ (u.gu p).head = x.head + k ∧
      (s.inAlloc p a 64 = true → (s.devRead p a 64).2.2 = false → leAt (s.devRead p a 64).2.1 56 8 = (x.head + 1) % 2 ^ 64 →
        0 < k))) ∧
    (∀ b r, x.queue = b :: r → s.guMayStart g p b.bytes = true → b.remote = [] →
      let d := x.table (gbTable b.bytes)
      let us := uniqueRows d (s.gbIndices p b.bytes)
      let fails (op : Instr) (code : Nat) := completes (exec op s) (fun u =>
        ((∀ i, s.zeroingPiece i = false) → u.mem = s.mem) ∧ (u.gu p).queue = r ∧
        ∃ y, (u.gu p).cur = some y ∧ y.done = true ∧ y.status = code)
      let begins (op : Instr) (k count : Nat) := completes (exec op s) (fun u => (u.gu p).queue = r ∧
        counted s u (guCnt g p k) count ∧ ∃ y, (u.gu p).cur = some y ∧ y.begun = true ∧ y.unique = us.length ∧ y.done = true)
      (gbOp b.bytes ≠ 2 →
        (s.gbCheck p b.bytes ≠ 0 → fails (.lookup p) (s.gbCheck p b.bytes)) ∧
        (s.gbCheck p b.bytes = 0 → gbPool b.bytes = false → s.membersThere p b.epoch d us = false → fails (.lookup p) 0x0709) ∧
        (s.gbCheck p b.bytes = 0 → gbPool b.bytes = false → (∀ y ∈ us, rowOwner d y.2 = tdMember d) →
          begins (.lookup p) 0 (gbN b.bytes))) ∧
      (gbOp b.bytes = 2 →
        (s.gbCheck p b.bytes ≠ 0 → fails (.update p) (s.gbCheck p b.bytes)) ∧
        (s.gbCheck p b.bytes = 0 → s.membersThere p b.epoch d us = false → fails (.update p) 0x0709) ∧
        (s.gbCheck p b.bytes = 0 → tdMode d ≠ 2 → (∀ y ∈ us, rowOwner d y.2 = tdMember d) →
          begins (.update p) 0x18 us.length))) ∧
    (∀ b, x.cur = some b →
      (b.done = true → completes (exec (.gatherBatchComplete p) s) (fun u => (u.gu p).cur = none ∧ (u.gu p).queue = x.queue)) ∧
      (b.done = false → goesTo (exec (.gatherBatchComplete p) s) s))

/-- R295, R298, R299: the oldest row request of another member is answered and changes no byte; a row that arrives joins
the batch that asked for it; a gradient for another version of the table is dropped and counted, one for this version is
applied and counted. The end of a hot period (the model's choice, log entry 95: the
periods of HOT_PERIOD_US follow one another from CLK_TIME 0) halves every count of the unit's partitions. R300, R301: a table
replacement is one at a time; one without extents is ready at once; it is committed once no batch names the table: the
descriptor is installed and the held batches go on; what is held longer than TABLE_HOLD_US fails or is dropped. -/
def Obligations.SharedRowsAndTables : Prop :=
  (∀ (g : GuId) (k : Bool) (m : Msg) (rest : List (Bool × Msg)) (s : State),
     let x := s.gu m.dst
     let t := bAt m.bytes 0 % 32
     let c := if bit (bAt m.bytes 0) 5 then 1 else 0
     let d := x.table t
     let period := 100 * min 100000 (max 100 (fld (s.reg (guP g + 0x48)) 16 20))
     (takeFirst (isRow 2) s.gather = some ((k, m), rest) → m.node ≠ s.node →
       completes (exec .rowReq s) (fun u => u.gather = rest ∧
         ((∀ i, s.zeroingPiece i = false) → u.mem = s.mem) ∧ u.gus = s.gus)) ∧
     (takeFirst (isRow 3) s.gather = some ((k, m), rest) → ∀ b y, x.cur = some b →
       b.remote.find? (fun z => decide (z.2.2.2 = leAt m.bytes 16 4)) = some y →
       completes (exec .rowData s) (fun u => u.gather = rest ∧ ∃ b', (u.gu m.dst).cur = some b' ∧
         (∃ z, b'.rows = b.rows ++ [z] ∧ z.1 = y.1 ∧ z.2.1 = y.2.1) ∧ ∀ z ∈ b'.remote, z.2.2.2 ≠ leAt m.bytes 16 4)) ∧
     (takeFirst (fun z : Bool × Msg => z.1) s.gather = some ((k, m), rest) → m.dst < 16 →
       ∀ h, s.guOf m.dst = some h → x.holds t = false →
       (d = [] ∨ leAt m.bytes 4 4 ≠ tdVersion d → completes (exec .gradientApply s) (fun u => u.gather = rest ∧ u.mem = s.mem ∧
         counted s u (guCnt h m.dst 0x28) 1)) ∧
       (d ≠ [] → leAt m.bytes 4 4 = tdVersion d → tdOpt d ≠ 0 → leAt m.bytes 2 2 = tdDim d → leAt m.bytes 8 8 < 2 ^ tdLog2 d c →
         ¬(c = 1 ∧ tdMode d = 1) → completes (exec .gradientApply s) (fun u => u.gather = rest ∧
           counted s u (guCnt h m.dst 0x18) 1))) ∧
     completes (exec (.hotPeriodExpiry g) s) (fun u => u.mem = s.mem ∧ ∀ p : PartId,
       (s.guOf p ≠ some g.val → u.gu p = s.gu p) ∧
       (s.guOf p = some g.val → Tab.wf z0 (s.gu p).sketch = true → (s.gu p).hotAt.toNat / period < s.clk.toNat / period →
         ∀ j, Tab.get z0 (u.gu p).sketch j = Tab.get z0 (s.gu p).sketch j / 2))) ∧
  (∀ (f : Fn) (p : PartId) (o : SlotId) (rq : List Byte) (s : State),
     let x := s.gu p
     let da := wAt rq 8
     let dr := (slotRequest s f p o 2 32).1.devRead p da 128
     let desc := dr.2.1
     (mayStart s f p o → asks s f p o 2 32 rq →
       (x.repl ≠ none → completes (exec (.tableReplace f p o) s) (fun u =>
         (u.losw p o).state = 4 ∧ (u.losw p o).error = 0x0707 ∧ (u.gu p).repl = x.repl)) ∧
       (x.repl = none → bAt rq 0 < 32 → zeroAt rq 1 7 = true → da.toNat % 64 = 0 → s.inAlloc p da 128 = true → leAt rq 24 4 = 0 →
         zeroAt rq 28 4 = true → dr.2.2 = false → tdValid desc = false →
         completes (exec (.tableReplace f p o) s) (fun u => (u.losw p o).state = 2 ∧ (u.losw p o).total = 1 ∧
           ∃ r, (u.gu p).repl = some r ∧ r.slot = o ∧ r.table = bAt rq 0 ∧ r.desc = desc))) ∧
     (∀ r, x.repl = some r →
       ((∃ b ∈ x.queue ++ x.cur.toList, gbTable b.bytes = r.table) → goesTo (exec (.tableReplaceCommit p) s) s) ∧
       ((∀ b ∈ x.queue ++ x.cur.toList, gbTable b.bytes ≠ r.table) → completes (exec (.tableReplaceCommit p) s) (fun u =>
         (u.gu p).table r.table = (if tdValid r.desc then r.desc else []) ∧ (u.gu p).repl = none ∧
         (u.gu p).queue = x.heldB ++ x.queue ∧ (u.gu p).heldB = [] ∧ (u.losw p r.slot).state = 3 ∧
         (∀ t, t ≠ r.table → (u.gu p).table t = x.table t)))) ∧
     (∀ b bs, x.heldB = b :: bs → x.heldG = [] →
       (s.heldTooLong p b.since = true → completes (exec (.tableHoldExpiry p) s) (fun u => (u.gu p).heldB = bs ∧
         (u.gu p).queue = x.queue)) ∧
       (s.heldTooLong p b.since = false → goesTo (exec (.tableHoldExpiry p) s) s)) ∧
     (∀ m r g, x.heldB = [] → x.heldG = m :: r → s.guOf p = some g →
       (s.heldTooLong p m.since = true → completes (exec (.tableHoldExpiry p) s) (fun u =>
         (u.gu p).heldG = r ∧ counted s u (guCnt g p 0x28) 1 ∧ u.mem = s.mem)) ∧
       (s.heldTooLong p m.since = false → goesTo (exec (.tableHoldExpiry p) s) s)))

/-- R311, R313, R315, R329: a WRA's line of tier 2 enters staging in its place of the unit; a unit that is staged,
unmapped or of an unformatted namespace is served at once and one in flash waits for its codeword, which, as the oldest
read of its LUN, serves it, counts what was lost and queues what had to be recovered for rewriting. -/
def Obligations.ArchiveReadsAndWrites : Prop :=
  ∀ (i l k lu o : Nat) (r : Req) (ls : List Nat) (q : CwOutcome) (s : State),
    let s' := s.reach i
    let p := r.part
    let n := s.ns p
    let served (u : State) (lost : Bool) := ∃ x, u.req i = some x ∧ ∀ m ∈ ls, x.lineDone m = true ∧
      (∀ j, j < 64 → Mem.rd x.stored (64 * m + j) = (n.unit lu).1.getD ((r.lineAddr m).toNat % 4096 + j) 0) ∧
      Tab.get (fun _ => false) x.storedBad m = ((n.unit lu).2 || lost)
    let inFlash := n.formatted = true ∧ (∀ x ∈ n.staging, x.lu ≠ lu) ∧ (n.cw lu).isSome = true
    (s'.req i = some r → s.locate p (r.lineAddr l) = some (.arch o) → s.mapBad p (r.lineAddr l) = false → r.canWrite l = true →
      s'.lineWaits i r l = false → s'.halfRead p (r.lineAddr l) = false → r.range = none → r.addr.toNat % 64 = 0 → r.len % 64 = 0 →
      n.formatted = true → n.mounted = true → n.readOnly = false → n.holdsWrite (o / 4096) = false →
      s.stageRoom p (o / 4096) = true →
      (n.unit (o / 4096)).1.length = 4096 →
      let new := s.scr r.core (r.loc + 64 * l) 64
      Mem.bytes r.old (64 * l) 64 = new → (Core.words (64 * l) 64).any (fun w => Tab.get (fun _ => false) r.oldBad w) = false →
      (((s.core r.core).check (r.loc + 64 * l) 64).2.1 || ((s.core r.core).check (r.loc + 64 * l) 64).2.2) = false →
      completes (exec (.archiveWrite i l) s) (fun u => (∃ x, u.req i = some x ∧ x.lineDone l = true) ∧ u.mem = s.mem ∧
        ∀ b, b < 4096 → ((u.ns p).unit (o / 4096)).1.getD b 0 =
          if o % 4096 ≤ b ∧ b < o % 4096 + 64 then new.getD (b - o % 4096) 0 else (n.unit (o / 4096)).1.getD b 0)) ∧
    (s'.unitRead i k = some (r, lu, ls) → (n.unit lu).1.length = 4096 → p < 16 → s'.lineWaits i r (ls.headD 0) = false →
      s.mapBad p (r.lineAddr (ls.headD 0)) = false →
      (¬inFlash → completes (exec (.archiveRead i k) s) (fun u => u.mem = s.mem ∧ served u false ∧ counted s u (arcCnt p 0x00) 1) ∧
        completes (exec (.codewordReadDone i k q) s) (fun u => u = s)) ∧
      (inFlash → completes (exec (.archiveRead i k) s) (fun u => u.reqs = s'.reqs ∧ u.mem = s.mem) ∧
        (s'.oldestAt i r (ls.headD 0) (s.cwLun p (Tab.get z0 n.map lu - 1)) = true → completes (exec (.codewordReadDone i k q) s) (fun u => u.mem = s.mem ∧ served u (decide (q = .lost)) ∧
          counted s u (arcCnt p 0x38) (if q = .lost then 1 else 0) ∧ counted s u (arcCnt p 0x30) (if q = .rebuilt then 1 else 0) ∧
          (q = .rebuilt → (u.ns p).rewrite = n.rewrite ++ [Tab.get z0 n.map lu - 1])))))

/-- R312, R317 to R319: an open stripe whose time has come is programmed with PAD codewords; a programmed stripe's
codewords are in flash; a journal page is programmed when its time has come and its records then take effect, the staged
version of a unit leaving; once CKPT_S has passed, or the journal area is half full, a checkpoint takes the map. R320, R321, R323: after the idle time a mounted namespace may
collect; a collection stripe copies the victim's valid units; a victim that nothing names is erased; an erase frees the
superblock and counts it. -/
def Obligations.StripesJournalCollection : Prop :=
  (∀ (p : PartId) (x : Staged) (s : State),
     let n := s.ns p
     let rows := s.sbRows p
     (n.staging = [x] → n.again = [] → x.seq = 0 → x.waits = false → s.unitBusy p x.lu = false → n.runs = true → n.jFull = false →
       s.hostHeld p = false → n.seq ≠ 0 → s.stripeTicks ≤ (s.clk - x.since).toNat →
       ∀ b r n1, n.takeRow true false rows = some (b, r, n1) → (n1.sb b).st ≠ .closed →
       completes (exec (.stripeCloseExpiry p) s) (fun u =>
         (u.ns p).flying = n.flying ++ [{ sb := b, row := r, host := true, units := [⟨x.lu, n.seq, if x.bad then 2 else 0, x.data⟩] }] ∧
         (u.ns p).seq = n.seq + 1 ∧ (u.ns p).staging = [{ x with seq := n.seq }] ∧
         counted s u (arcCnt p 0x78) 59 ∧ counted s u (arcCnt p 0x08) 1)) ∧
     (∀ st rest, n.flying = st :: rest → st.sum = false → completes (exec (.stripeProgramDone p []) s) (fun u =>
       (∃ more, (u.ns p).flying = rest ++ more) ∧
       ∀ i, i < st.units.length → Tab.get (fun _ => none) (u.ns p).cws ((st.sb * rows + st.row) * 60 + i) = st.units[i]?)) ∧
     (n.stopped = false → n.jFull = false → n.jOpen ≠ [] →
       (s.journalTicks ≤ (s.clk - n.jAt).toNat → completes (exec (.journalCloseExpiry p) s) (fun u =>
         (u.ns p).jFlying = n.jFlying ++ [n.jOpen.take 1023] ∧ (u.ns p).jOpen = n.jOpen.drop 1023 ∧ (u.ns p).map = n.map)) ∧
       ((s.clk - n.jAt).toNat < s.journalTicks → goesTo (exec (.journalCloseExpiry p) s) s)) ∧
     (∀ lu cw seq, n.jFlying = [[⟨1, 0, lu, cw, seq⟩]] → (∀ c, n.cw lu = some c → c.seq ≤ seq) → n.discard = none →
       n.journal.length < 8191 → completes (exec (.journalProgramDone p) s) (fun u =>
         (∃ g, (u.ns p).journal = n.journal ++ [g] ∧ g.seq = n.jSeq ∧ g.recs = [⟨1, 0, lu, cw, seq⟩]) ∧
         (∀ k, Tab.get z0 (u.ns p).map k = if k = lu then cw + 1 else Tab.get z0 n.map k) ∧
         (∀ y, seq ≠ 0 → n.staging = [y] → y.lu = lu → y.seq = seq → (u.ns p).staging = []))) ∧
     (if n.runs = true ∧ (s.ckptTicks ≤ (s.clk - n.ckptAt).toNat ∨ 8192 ≤ n.journal.length) then
       completes (exec (.checkpointRound p) s) (fun u =>
         (u.ns p).ckpt = n.map ∧ (u.ns p).ckptRound = n.ckptRound + 1 ∧ (u.ns p).journal.length = 1 ∧ (u.ns p).map = n.map)
       else goesTo (exec (.checkpointRound p) s) s)) ∧
  (∀ (p : PartId) (bad : List Nat) (s : State),
     let n := s.ns p
     let rows := s.sbRows p
     (if n.mounted = true ∧ s.idleTicks ≤ (s.clk - n.idleAt).toNat then completes (exec (.collectionIdleExpiry p) s) (fun u => (u.ns p).idle = true ∧ (u.ns p).map = n.map)
       else goesTo (exec (.collectionIdleExpiry p) s) s) ∧
     (∀ v cw c b r n1, n.runs = true → n.victim = some v → s.victimNow p = some v → n.toCopy (n.validOf rows v) = [cw] →
       n.named cw = some c → n.takeRow false n.staticMv rows = some (b, r, n1) → (n1.sb b).st ≠ .closed →
       completes (exec (.collect p bad) s) (fun u =>
         (u.ns p).flying = n.flying ++
           [{ sb := b, row := r, host := false, units := [{ c with flags := if cw ∈ bad ∨ c.flags / 2 % 2 = 1 then 2 else 0 }] }] ∧
         (u.ns p).map = n.map ∧ counted s u (arcCnt p 0x10) 1)) ∧
     (∀ v, n.runs = true → n.victim = some v → s.victimNow p = some v → n.erasing = none →
       n.validOf rows v = [] → n.settled rows v = true →
       completes (exec (.collect p bad) s) (fun u => (u.ns p).erasing = some v ∧ (u.ns p).victim = none)) ∧
     (∀ v, n.format = none → n.erasing = some v → completes (exec (.eraseDone p []) s) (fun u => (u.ns p).erasing = none ∧
       ((u.ns p).sb v).erases = (n.sb v).erases + 1 ∧
       (n.staging = [] → n.again = [] → n.discard = none → v ∉ n.colSb → ((u.ns p).sb v).st = .free) ∧
       counted s u (arcCnt p 0x18) 1)))

/-- R324 to R331: a discard takes its range out of staging and runs until its record is durable; a second secure discard
is refused; a secure discard is accepted when its record is durable, and what its range held before then reads as
unmapped; a flush with nothing staged is done at once. A format needs a physical function and a partition without cores;
it leaves the namespace unformatted until the last of its block rows has been erased, and formatted then. What waits for
flash programs shows PAUSED in a brown-out. -/
def Obligations.DiscardFlushFormat : Prop :=
  ∀ (f : Fn) (p : PartId) (o : SlotId) (rq : List Byte) (s : State), mayStart s f p o →
    let n := s.ns p
    let running := if s.pwr.brownout then 6 else 2
    let failed (op : Instr) (code : Nat) := completes (exec op s) (fun u => (u.losw p o).state = 4 ∧ (u.losw p o).error = code ∧
      (u.ns p).map = n.map ∧ (u.ns p).staging = n.staging)
    (asks s f p o 3 32 rq →
      (s.discardRange p rq = none → failed (.discard f p o) 0x0801 ∧ failed (.secureDiscard f p o) 0x0801) ∧
      (∀ lo hi, s.discardRange p rq = some (lo, hi) →
        (n.formatted = false → failed (.discard f p o) 0x0805 ∧ failed (.secureDiscard f p o) 0x0805) ∧
        (n.formatted = true → bit (bAt rq 16) 0 = false → (∀ y ∈ n.flushes, y.1 ≠ o.val) →
          completes (exec (.discard f p o) s) (fun u => (u.losw p o).state = running ∧
            (o.val, lo, hi - lo) ∈ (u.ns p).plain ∧ ∀ x ∈ (u.ns p).staging, x.waits = true ∨ x.lu < lo ∨ hi ≤ x.lu)) ∧
        (n.formatted = true → bit (bAt rq 16) 0 = true →
          (n.discard ≠ none → failed (.secureDiscard f p o) 0x0802) ∧
          (n.discard = none → completes (exec (.secureDiscard f p o) s) (fun u => (u.losw p o).state = 1 ∧
            ∃ d, (u.ns p).discard = some d ∧ d.slot = o ∧ d.lo = lo ∧ d.hi = hi ∧ d.seq = n.seq ∧ d.accepted = false))))) ∧
    (∀ d, n.discard = some d → d.accepted = false → d.begun = true → n.runs = true →
      completes (exec (.discardAccept p) s) (fun u =>
        (∀ k, d.lo ≤ k → k < d.hi → (∀ w, n.cw k = some w → w.seq < d.seq) → Tab.get z0 (u.ns p).map k = 0) ∧
        (n.discardSet (s.sbRows p) d = [] → d.notErased = 0 → (u.ns p).discard = none ∧ (u.losw p d.slot).state = 3))) ∧
    (asks s f p o 9 16 rq →
      (zeroAt rq 0 16 = true → n.formatted = true →
        let us := (n.staging.filter (fun x => !x.waits)).map (fun x => (x.lu, if x.seq = 0 then n.seq else x.seq))
        (us = [] → completes (exec (.collectionFlush f p o) s) (fun u => (u.losw p o).state = 3 ∧
          (n.staging = [] → (u.ns p).staging = []))) ∧
        (us ≠ [] → completes (exec (.collectionFlush f p o) s) (fun u => (u.losw p o).state = running ∧
          (u.losw p o).total = us.length ∧ (o.val, us) ∈ (u.ns p).flushes)))) ∧
    (asks s f p o 10 16 rq →
      (fnIsVf f = true → failed (.flashFormat f p o) 0x0804) ∧
      (fnIsVf f = false → s.coresOf p ≠ [] → failed (.flashFormat f p o) 0x0804) ∧
      (fnIsVf f = false → s.coresOf p = [] → s.flashOf p ≠ [] → leAt rq 0 4 = sumNat ((s.flashOf p).map (2 ^ ·)) →
        bAt rq 4 = 0 → bAt rq 5 = 0 → zeroAt rq 6 10 = true →
        (n.format ≠ none → failed (.flashFormat f p o) 0x0801) ∧
        (n.format = none → completes (exec (.flashFormat f p o) s) (fun u => (u.losw p o).state = running ∧
          (u.losw p o).total = (s.lunIds p).length * (s.fcGeom p).2 * s.planes p ∧ (u.ns p).formatted = false ∧
          ∃ x, (u.ns p).format = some x ∧ x.slot = o ∧ x.spare = 2 ∧ x.head = 10 ∧ x.row = 0)))) ∧
    (∀ x bad, n.format = some x → x.busy = true → completes (exec (.eraseDone p bad) s) (fun u =>
      if x.row + 1 < (s.fcGeom p).2 then (u.ns p).formatted = n.formatted ∧ ∃ y, (u.ns p).format = some y ∧ y.row = x.row + 1 ∧
        y.slot = x.slot
      else (u.losw p x.slot).state = 3 ∧ (u.ns p).formatted = true ∧ (u.ns p).mounted = true ∧ (u.ns p).map = Tab.empty ∧
        (u.ns p).format = none ∧ (u.ns p).chans = s.flashOf p))

/-- R205 to R208, R345: an operation on a record of this node that finds the expected value and follows R206 writes the
new record with its STAMP, one that does not changes no byte; a reply ends the request that it answers; an expired
hand-off becomes ORPHAN; a state claim takes an ORPHAN of the expected sequence. -/
def Obligations.OwnershipRecords : Prop :=
  ∀ (x : OwnReq) (f : Fn) (p : PartId) (o : SlotId) (rq : List Byte) (s : State),
    let cur (a : Word) := (s.devRead p a 16).2.1
    let out (u : State) (q : Nat) := (Tab.get (fun _ => none) u.desk.stateOut q).map (·.1)
    let still (u : State) : Prop := (∀ i, s.zeroingPiece i = false) → u.mem = s.mem
    let fits (q : Nat) (a : Word) := a.toNat % 16 = 0 ∧ s.inAlloc q a 16 = true ∧ (s.devRead q a 16).2.2 = false
    (x.node = s.node → x.hold = p →
      (¬fits p x.addr → completes (exec (.ownershipOp (some x)) s) (fun u => still u ∧ out u x.part = some 0x0116)) ∧
      (fits p x.addr → cur x.addr ≠ n128 x.exp ∨ ownAllowed x.part s.node (cur x.addr) (n128 x.new) = false →
        completes (exec (.ownershipOp (some x)) s) (fun u => still u ∧ out u x.part = some 0x0114)) ∧
      (fits p x.addr → cur x.addr = n128 x.exp → ownAllowed x.part s.node (cur x.addr) (n128 x.new) = true →
        s.desk.handoff.length < 4096 → ∀ i k, s.locate p x.addr = some (.phys i k) → bAt (n128 x.new) 0 ≠ 0 →
        completes (exec (.ownershipOp (some x)) s) (fun u => out u x.part = some 0 ∧
          (u.peek p x.addr 16).1 = (n128 x.new).take 12 ++ leBytes 4 (s.clk.toNat % 2 ^ 32)))) ∧
    (∀ m rest e, s.desk.stateRep = m :: rest →
      s.desk.awaiting.find? (fun e => decide (e.1 = leAt m.bytes 32 8 ∧ e.2.1 = m.dst)) = some e →
      completes (exec .stateReplyReceive s) (fun u => u.desk.stateRep = rest ∧ u.desk.awaiting = s.desk.awaiting.erase e ∧
        out u m.dst = some (if bAt m.bytes 1 = 0 then 0 else 0x0100 + bAt m.bytes 1))) ∧
    (∀ a t n k toP toN i q, s.desk.handoff = [(p.val, a, t)] → s.locate p a = some (.phys i q) → a.toNat % 16 = 0 →
      (s.devRead p a 16).2.2 = false → ownOf (cur a) = .handoff n k toP toN →
      (t < s.clk → completes (exec .handoffSweep s) (fun u => u.desk.handoff = [] ∧ bAt (u.peek p a 16).1 0 = 3 ∧
        ownSeq (u.peek p a 16).1 = seqNext (ownSeq (cur a)))) ∧
      (¬t < s.clk → goesTo (exec .handoffSweep s) s)) ∧
    (mayStart s f p o → asks s f p o 0x0C 16 rq → zeroAt rq 12 4 = true → let a := wAt rq 0
      let r := (((slotRequest s f p o 0x0C 16).1.loswRun p o 1 false).devRead p a 16).2
      let there := a.toNat % 16 = 0 ∧ s.inAlloc p a 16 = true ∧ r.2 = false
      (¬there ∨ ownOf r.1 ≠ .orphan ∨ ownSeq r.1 ≠ leAt rq 8 4 → completes (exec (.stateClaim f p o) s) (fun u =>
        (u.losw p o).state = 4 ∧ (u.losw p o).error = 0x0114 ∧ still u)) ∧
      (there → ownOf r.1 = .orphan → ownSeq r.1 = leAt rq 8 4 → ∀ i k, s.locate p a = some (.phys i k) →
        completes (exec (.stateClaim f p o) s) (fun u => (u.losw p o).state = 3 ∧ bAt (u.peek p a 16).1 0 = 1 ∧
          ownSeq (u.peek p a 16).1 = seqNext (leAt rq 8 4))))

/-- R189, R199 to R201, R210 to R212: a DESK_COMMIT that breaks a rule sets ERR_STATUS bit 1 and the partition's bit of
DESK_CFG_ERR; an accepted one waits for a step boundary, at which its classes, models and words take effect; R387: a
bulk scan of a class without a search, of an RT class or of one with too many results fails. -/
def Obligations.DeskConfiguration : Prop :=
  ∀ (f : Fn) (p : PartId) (o : SlotId) (rq : List Byte) (s : State),
    let d := s.dk p
    let words (u : State) := (List.range 8).map (fun k => Tab.get regReset u.force (0x4100 + p * 0x40 + k * 8))
    (s.seesPage f ⟨.desk, 0, 0x4000⟩ = false → goesTo (exec (.deskCommit f p) s) (s.access f)) ∧
    (s.seesPage f ⟨.desk, 0, 0x4000⟩ = true →
      (s.deskCheck p = none → completes (exec (.deskCommit f p) s) (fun u => (u.reg 0x4010).getLsbD 1 = true ∧
        (u.reg 0x4050).getLsbD (16 + p) = true ∧ u.deskP = s.deskP ∧ u.force = s.force)) ∧
      (∀ cs ms, s.deskCheck p = some (cs, ms) → completes (exec (.deskCommit f p) s) (fun u => words u = words s ∧
        (u.dk p).pendCfg = true ∧ (u.dk p).pendClasses = cs ∧ (u.dk p).pendModels = ms ∧ (u.dk p).classes = d.classes ∧
        (u.dk p).pendWords = (List.range 8).map (s.deskStaged p)))) ∧
    ((d.pendCfg = false ∨ d.step ≠ none) → goesTo (exec (.deskConfigEffect p) s) s) ∧
    (d.pendCfg = true → d.step = none → d.pendWords.length = 8 → completes (exec (.deskConfigEffect p) s) (fun u =>
      (u.dk p).pendCfg = false ∧ (u.dk p).classes = d.pendClasses ∧ (u.dk p).models = d.pendModels ∧ words u = d.pendWords)) ∧
    (mayStart s f p o → asks s f p o 5 128 rq → let c := d.classes.getD (leAt rq 0 2) []
      ((zeroAt rq 68 60 = false ∨ leAt rq 64 4 = 0 ∨
          leAt rq 0 2 < nClasses s p ∧ clFlag c 0 = true ∧ (clSearch c = 0 ∨ clRt c = true ∨ 8188 < clK c)) →
        completes (exec (.bulkScan f p o) s) (fun u => (u.losw p o).state = 4 ∧ (u.losw p o).error = 0x0A04 ∧
          u.desk.queries = s.desk.queries)) ∧
      (zeroAt rq 68 60 = true → leAt rq 64 4 ≠ 0 → clSearch c ≠ 0 → clRt c = false → clK c ≤ 8188 →
        (slotRequest s f p o 5 128).1.admitCode p (.bulk p o) (rq.take 64) false = 0 → completes (exec (.bulkScan f p o) s) (fun u =>
          (u.losw p o).state = 2 ∧ (u.losw p o).total = leAt rq 64 4 ∧ ∃ tag x, u.query tag = some x ∧ x.src = .bulk p o)))

/-- R333, R361, R370, R378, R393, R408, R429, R482: a COMMIT of a page that its function sees puts every staged value of
the page in force where the page's check accepts them, and otherwise leaves all of them staged and says why in
ERR_STATUS. -/
def Obligations.CommitsTakeEffectTogether : Prop :=
  ∀ (f : Fn) (c : CoreId) (x : ExpId) (m : ModId) (g : GuId) (q : PortId) (s : State),
    let sees (k : Page) := s.seesPage f k = true
    let only (b : Bool) : Commit := if b then .ok else .invalid
    let col : Page := ⟨.collator, c, colP c⟩
    let ws := (List.range 64).map (fun l => s.reg (colP c + 0x200 + l * 8))
    (sees ⟨.core, c, coreP c⟩ →
      ((s.core c).resetting = true → completes (exec (.coreCommit f c) s) (fun u => refusedWith s u ⟨.core, c, coreP c⟩ 3)) ∧
      ((s.core c).resetting = false → commitDoes s (exec (.coreCommit f c) s) ⟨.core, c, coreP c⟩
        (if s.quiesced ⟨.core, c, coreP c⟩ then .ok else .notQuiesced))) ∧
    (sees col → commitDoes s (exec (.collatorCommit f c) s) col
      (if s.quiesced col = false then .notQuiesced else only (ws.all goodList && decide (listsUsed ws ≤ 4096)))) ∧
    (sees ⟨.tier, 0, 0x9000⟩ → commitDoes s (exec (.tierCommit f) s) ⟨.tier, 0, 0x9000⟩ (only ((List.range 16).all (tierOk s)))) ∧
    (sees (expPage x) → commitDoes s (exec (.expanderCommit f x) s) (expPage x) (only (s.rangesOk x))) ∧
    (sees ⟨.carrel, m, carP m⟩ → s.isCarrel m = true → let w := s.reg (carP m + 0x48)
      commitDoes s (exec (.carrelCommit f m) s) ⟨.carrel, m, carP m⟩ (if (s.car m).run ≠ none then .notQuiesced
        else only (decide (6 ≤ fld w 8 5 ∧ fld w 8 5 ≤ 16 ∧ 4 ≤ fld w 16 5 ∧ fld w 16 5 ≤ 16)))) ∧
    (sees ⟨.gu, g, guP g⟩ → commitDoes s (exec (.guCommit f g) s) ⟨.gu, g, guP g⟩ (only (s.guOk g))) ∧
    (sees ⟨.archive, 1, 0x61000⟩ → commitDoes s (exec (.archiveCommit f) s) ⟨.archive, 1, 0x61000⟩ (only ((List.range 16).all (fun p =>
      let new := fld (s.reg (0x61040 + p * 8)) 0 13
      decide (16 ≤ new ∧ new ≤ 4096 ∧ (new = fld (s.inForce (0x61040 + p * 8)) 0 13 ∨ s.coresOf p = []) ∧
        (s.flashOf p = [] ∨ s.quota p 1 + s.arcReserve p new ≤ sumNat ((s.chansOf p).map s.chanCap))))))) ∧
    (sees ⟨.link, 0, 0x90000⟩ → commitDoes s (exec (.linkCommit f) s) ⟨.link, 0, 0x90000⟩
      (only ((List.range 16).all (fun p =>
      decide (6 ≤ fld (s.reg (tlRing p + 8)) 8 5 ∧ fld (s.reg (tlRing p + 8)) 8 5 ≤ 16))))) ∧
    (∀ b, f = .pf b → let k : Page := ⟨.host, portIdx b, viewP (1 + portIdx b)⟩
      sees k → commitDoes s (exec (.hostCommit f) s) k (only (s.bindOk (portIdx b)))) ∧
    (sees partPage → commitDoes s (exec (.partCommit f) s) partPage s.partCheck) ∧
    (sees powPage → commitDoes s (exec (.powerCommit f) s) powPage s.powerCheck) ∧
    (sees rcPage → commitDoes s (exec (.rollcallCommit f) s) rcPage (only s.rcOk)) ∧
    (sees ⟨.tp, 2 * q, tpP q⟩ →
      (s.portBusy q = true → completes (exec (.portCommit f q) s) (fun u => refusedWith s u ⟨.tp, 2 * q, tpP q⟩ 3)) ∧
      (s.portBusy q = false → (∃ v, v < 8 ∧ (fld (s.reg (shapeA q v)) 24 24 < 256 ∨ fld (s.reg (policeA q v)) 24 24 < 256)) →
        completes (exec (.portCommit f q) s) (fun u => refusedWith s u ⟨.tp, 2 * q, tpP q⟩ 1)) ∧
      (s.portBusy q = false → (∀ v, v < 8 → 256 ≤ fld (s.reg (shapeA q v)) 24 24 ∧ 256 ≤ fld (s.reg (policeA q v)) 24 24) →
        completes (exec (.portCommit f q) s) (fun u => ∀ v, v < 8 → u.inForce (shapeA q v) = s.reg (shapeA q v) ∧
          u.inForce (policeA q v) = s.reg (policeA q v))))

/-- R338, R341 to R344, R350, R353, R354: a port that is not UP sends nothing while its slots pass, and slot 17 is left
empty; with nothing queued a link flit goes out, and a channel that alone is eligible sends its first flit under the next LSEQ, which stays
in the replay buffer; a replay starts at the oldest flit, and 16 of them in vain take the port down; a gate entry
follows its time. R345, R355, R358: the send ring's ready descriptors are taken in order; no send starts in a reset of its partition; the
oldest is checked, then sent to
its member's node over the port that serves it, or copied within the chip; its completion is written once its last flit
has left. -/
def Obligations.LinkEgressAndSends : Prop :=
  (∀ (q : PortId) (s : State),
     let x := s.port q
     let idle (v : Nat) := x.lq v = [] ∧ x.fq v = []
     (s.portUp q = false → goesTo (exec (.replayTimeout q) s) s ∧ completes (exec (.egressSlot q) s) (fun u =>
       (u.port q).slot = (x.slot + 1) % 18 ∧ (u.port q).replay = x.replay ∧ (u.port q).localQ = x.localQ ∧
       (u.port q).fwdQ = x.fwdQ ∧ u.resp = s.resp ∧ ∀ k : PortId, k ≠ q → u.port k = s.port k)) ∧
     (s.portUp q = true → x.slot = 17 → completes (exec (.egressSlot q) s) (fun u => (u.port q).slot = 0 ∧ u.resp.bytes = [] ∧
       (u.port q).replay = x.replay ∧ (u.port q).localQ = x.localQ)) ∧
     (s.portUp q = true → x.slot < 17 → x.resend = 0 →
       ((∀ v, v < 8 → idle v) → completes (exec (.egressSlot q) s) (fun u => (u.port q).slot = x.slot + 1 ∧
         (u.port q).txSeq = x.txSeq ∧ (u.port q).replay = x.replay ∧ u.resp.bytes = flitBytes
           { linkFlit with ack := x.rxSeq, nak := x.nak, crVc := x.dueCredits.1, crCount := x.dueCredits.2 } false)) ∧
       (∀ c f r, c < 8 → c ≠ 7 → x.lq c = f :: r → x.fq c = [] → (∀ h ∈ f :: r, s.nodeFenced h.flit.dstNode = false) →
         (∀ v, v < 8 → v ≠ c → idle v) → s.eligible q c = true →
         completes (exec (.egressSlot q) s) (fun u => (u.port q).slot = x.slot + 1 ∧ (u.port q).lq c = r ∧
           (u.port q).txSeq = (x.txSeq + 1) % 4096 ∧ (u.port q).replay = x.replay ++ [(f.stomp, { f.flit with lseq := x.txSeq })] ∧
           counted s u (vcCnt q c 0) 1))) ∧
     (s.portUp q = true →
       (x.replay = [] → goesTo (exec (.replayTimeout q) s) s) ∧
       (x.replay ≠ [] → x.fails < 16 → completes (exec (.replayTimeout q) s) (fun u => (u.port q).resend = x.replay.length ∧
         (u.port q).replay = x.replay ∧ counted s u (tpCnt q 3) 1)) ∧
       (x.replay ≠ [] → 16 ≤ x.fails → completes (exec (.replayTimeout q) s) (fun u => (u.port q).state = 1 ∧ (u.port q).replay = []))) ∧
     (s.gatesOn q = false ∨ 0 < x.gateLeft → goesTo (exec (.gateEntryExpiry q) s) s) ∧
     (s.gatesOn q = true → x.gateLeft ≤ 0 → x.gclWait = none → let e := if x.gate + 1 < x.gateN then x.gate + 1 else 0
       completes (exec (.gateEntryExpiry q) s) (fun u => (u.port q).gate = e ∧
         (u.port q).gateLeft = x.gateLeft + gclCycles (s.gclOper q e))) ∧
     (x.gclWait = none → goesTo (exec (.gclSwitch q) s) s) ∧
     (∀ l, x.gclWait = some l →
       (s.gatesOn q = true → 0 < x.gateLeft ∨ x.gate + 1 < x.gateN → goesTo (exec (.gclSwitch q) s) s) ∧
       (s.gatesOn q = false ∨ x.gateLeft ≤ 0 ∧ x.gateN ≤ x.gate + 1 → completes (exec (.gclSwitch q) s) (fun u =>
         (u.port q).gclWait = none ∧ (u.port q).gateN = l.length ∧ (u.port q).gate = 0)))) ∧
  (∀ (p : PartId) (d : List Byte) (rest : List (List Byte)) (s : State),
     let x := s.linkP' p
     let c := s.inForce (tlRing p + 8)
     let n := 2 ^ fld c 8 5
     let a := addA (BitVec.ofNat 64 (fld (s.inForce (tlRing p)) 6 44 * 64)) (64 + 64 * (x.head % n))
     (c.getLsbD 0 = false ∨ (s.part p).reset ≠ none → goesTo (exec (.sendRingPoll p) s) s) ∧
     (c.getLsbD 0 = true → (s.part p).reset = none → x.head < 2 ^ 64 → completes (exec (.sendRingPoll p) s) (fun u =>
       ∃ l : List (List Byte), l.length ≤ n ∧ (u.linkP' p).queue = x.queue ++ l ∧ (u.linkP' p).head = (x.head + l.length) % 2 ^ 64 ∧
         (s.inAlloc p a 64 = true → (s.devRead p a 64).2.2 = false → leAt (s.devRead p a 64).2.1 56 8 = (x.head + 1) % 2 ^ 64 →
           l.head? = some (s.devRead p a 64).2.1))) ∧
     (x.cur ≠ none ∨ x.queue = [] → goesTo (exec (.put p) s) s) ∧
     (x.cur = none → x.queue = d :: rest → (s.part p).reset ≠ none ∨ s.sendHeld d = true → goesTo (exec (.put p) s) s) ∧
     (x.cur = none → x.queue = d :: rest → (s.part p).reset = none → s.sendHeld d = false →
       let ends (code : Nat) := completes (exec (.put p) s) (fun u => (u.linkP' p).queue = rest ∧
         (u.linkP' p).cur = some ⟨d, code, 0, 0, 8⟩ ∧ ((∀ i, s.zeroingPiece i = false) → u.mem = s.mem) ∧ u.ports = s.ports)
       let src := (s.sendSrc p d).2
       (sendValid d = false → ends 0x0901) ∧
       (sendValid d = true → s.inAlloc p (wAt d 32) 16 = false → ends 0x0902) ∧
       (sendValid d = true → s.inAlloc p (wAt d 32) 16 = true → src = none → ends 0x0902) ∧
       (∀ b, sendValid d = true → s.inAlloc p (wAt d 32) 16 = true → src = some b →
         (memberEntry (s.part p).curMap (leAt d 2 2) = none → ends 0x0904) ∧
         (∀ dn dp, memberEntry (s.part p).curMap (leAt d 2 2) = some (dn, dp) →
           (dn = s.node → b.any (·.2) = true → sdComp d = 0 → completes (exec (.put p) s) (fun u =>
             (u.linkP' p).queue = rest ∧ (u.linkP' p).cur = some ⟨d, 0x0903, 0, 0, 8⟩ ∧ u.ports = s.ports)) ∧
           (dn = s.node → b.any (·.2) = false → sdComp d = 0 → d.length = 64 → s.inAlloc dp (wAt d 16) (sdBytes d) = true → (wAt d 16).toNat % 64 + sdBytes d ≤ 64 →
             (s.unified dp = true → s.mapLineBad dp (aOff (wAt d 16) / MiB2) = none) →
             ∀ i k, s.locate dp (wAt d 16) = some (.phys i k) → completes (exec (.put p) s) (fun u => (u.linkP' p).queue = rest ∧
               (u.linkP' p).cur = some ⟨d, 0, 0, 0, 8⟩ ∧ Mem.bytes u.mem (physKey i k) (sdBytes d) = b.map (·.1))) ∧
           (dn ≠ s.node → (∀ q, s.route dn = some q → s.vcOwner q 4 ≠ some p.val) → ends 0x0904) ∧
           (∀ q, dn ≠ s.node → s.route dn = some q → s.vcOwner q 4 = some p.val → sdComp d = 0 → b.any (·.2) = false → d.length = 64 →
             completes (exec (.put p) s) (fun u => (u.linkP' p).queue = rest ∧ ∃ fs, fs.length = (16 + sdBytes d + 235) / 236 ∧
               (u.port q).lq 4 = (s.port q).lq 4 ++ fs ∧
               (u.linkP' p).cur = some ⟨d, 0, fs.length, ((s.port q).lq 4).length + fs.length, q⟩))))) ∧
     (∀ t, x.cur = some t →
       (t.ahead ≠ 0 → goesTo (exec (.sendComplete p) s) s) ∧
       (t.ahead = 0 → completes (exec (.sendComplete p) s) (fun u => (u.linkP' p).cur = none ∧
         ∀ i k, s.inAlloc p (wAt t.desc 32) 16 = true → (wAt t.desc 32).toNat % 16 = 0 → s.mapBad p (wAt t.desc 32) = false →
           s.locate p (wAt t.desc 32) = some (.phys i k) → (u.peek p (wAt t.desc 32) 16).1 = sendCompl t))))

/-- R343, R344, R346, R347, R356, R359, R363: a flit whose CRC fails is asked for again; a good one frees what it
acknowledges and returns credits; a Roll Call message in order reaches Roll Call and one out of order does not; a
message for a partition that does not own its channel is dropped and counted. A port's reset leaves of each channel the
abort flit of the message it had begun, and nothing else. Training, a waiting owner and the histograms, one sample in
HIST_PERIOD cycles, do what their rules say. -/
def Obligations.LinkIngress : Prop :=
  ∀ (f : Fn) (q : PortId) (v : Fin 8) (x : Flit) (lanes : BitVec 4) (partner : BitVec 10) (s : State),
    let y := s.port q
    let page : Page := ⟨.tp, 2 * q + 1, tpP q + 0x1000⟩
    let bin (n : Nat) := tpP q + 0x1100 + v * 0x100 + 8 * n
    (s.portUp q = false → goesTo (exec (.flitReceive q x .good) s) s) ∧
    (s.portUp q = true →
      completes (exec (.flitReceive q x .failed) s) (fun u => (u.port q).nak = true ∧ (u.port q).dropping = true ∧
        (u.port q).rxSeq = y.rxSeq ∧ counted s u (tpCnt q 2) 1) ∧
      (x.nak = false → x.link = true →
        completes (exec (.flitReceive q x .good) s) (fun u => (u.port q).rxSeq = y.rxSeq ∧
          (∀ a g b, y.replay = a ++ g :: b → g.2.lseq = x.ack → (∀ h ∈ a, h.2.lseq ≠ x.ack) → (u.port q).replay = b) ∧
          Tab.get (fun _ => 64) (u.port q).credits x.crVc = min 64 (Tab.get (fun _ => 64) y.credits x.crVc + x.crCount))) ∧
      (x.nak = false → x.link = false → x.lseq = y.rxSeq → y.rxSeq < 4096 → completes (exec (.flitReceive q x .good) s) (fun u =>
        u.rc = s.rc ∧ (u.port q).rxSeq = y.rxSeq ∧ (u.port q).rx = y.rx)) ∧
      (x.nak = false → x.link = false → x.lseq = (y.rxSeq + 1) % 4096 → s.portFenced q = false → s.nodeFenced x.srcNode = false →
        x.first = true → x.last = true → x.dstNode = s.node → y.rxOf x.vc = none →
        (x.vc = 5 → x.comp = 0 → x.len ≠ 0 → 1 ≤ bAt (x.payload.take x.len) 0 → bAt (x.payload.take x.len) 0 ≤ 5 →
          completes (exec (.flitReceive q x .good) s) (fun u => u.rc.queue = s.rc.queue ++ [(q.val, x.payload.take x.len)] ∧
            (u.port q).rxSeq = x.lseq ∧ counted s u (vcCnt q 5 8) 1)) ∧
        (x.vc < 5 → s.chOwner q x.vc ≠ some x.dstPart → completes (exec (.flitReceive q x .good) s) (fun u =>
          u.desk = s.desk ∧ u.gather = s.gather ∧ u.mem = s.mem ∧ (u.port q).rxSeq = x.lseq ∧ counted s u (tpCnt q 8) 1)))) ∧
    (y.state ≠ 1 ∨ s.elecFence q = true → goesTo (exec (.linkTrainingDone q lanes partner) s) s) ∧
    (y.state = 1 → s.elecFence q = false → completes (exec (.linkTrainingDone q lanes partner) s) (fun u =>
      let z := u.port q
      z.state = 2 ∧ z.lanes = lanes.toNat ∧ z.partner = partner.toNat ∧ z.slot = 0 ∧ z.txSeq = 0 ∧ z.rxSeq = 4095 ∧ z.replay = [])) ∧
    (s.seesPage f ⟨.tp, 2 * q, tpP q⟩ = true → completes (exec (.linkPortReset f q) s) (fun u => (u.port q).replay = [] ∧
      (u.port q).state = (if s.elecFence q then 0 else 1) ∧
      ((u.port q).lq v).map (·.flit) = (if y.busyVc v = 1 then ((y.lq v).head?.map (fun w => abortOf w.flit)).toList else []) ∧
      ((u.port q).fq v).map (·.flit) = if 2 ≤ y.busyVc v then ((s.begun q v).map abortOf).toList else [])) ∧
    (∀ b, b < 256 → Tab.get (fun _ => none) y.ownWait v = some b →
      (s.vcBusy q v = true → goesTo (exec (.vcOwnerChange q v) s) s) ∧
      (s.vcBusy q v = false → completes (exec (.vcOwnerChange q v) s) (fun u =>
        u.vcOwner q v = (if 128 ≤ b then some (b % 16) else none) ∧ Tab.get (fun _ => none) (u.port q).ownWait v = none))) ∧
    (y.cyc < y.histAt + s.histPeriod q → goesTo (exec (.histSample q) s) s) ∧
    (y.histAt + s.histPeriod q ≤ y.cyc → completes (exec (.histSample q) s) (fun u => u.port q = { y with histAt := y.cyc } ∧
      (∀ k : PortId, k ≠ q → u.port k = s.port k) ∧ counted s u (bin (histBin ((y.lq v).length + (y.fq v).length))) 1 ∧
      (y.lq v = [] → y.fq v = [] → counted s u (bin 16) 1) ∧
      (∀ w r, y.lq v = w :: r → y.fq v = [] → y.busyVc v = 0 → counted s u (bin (16 + histBin (y.cyc - w.since))) 1))) ∧
    (s.seesPage f page = true → completes (exec (.histClear f q) s) (fun u => ∀ n, n < 32 → u.reg (bin n) = 0)) ∧
    (s.seesPage f page = false → goesTo (exec (.histClear f q) s) (s.access f))

/-- R394, R396 to R403, R408, R409: once HB_US has passed, a HEARTBEAT leaves on every UP port ahead of its other Roll
Call flits, and one that arrives stamps its port; a port whose partner has been silent too long is LOST, its node fenced
and recorded where no other port reaches it; a LOST notice of an unfenced partner does the same in CHIP mode; the fence
registers take what software writes. R395, R404 to R406: a poll, taken after the messages that have arrived, finds the
word's arrivals; a child's ARRIVE is taken once for its generation, and a generation that both have completed is released
by the root, or sent on to the parent once its port is UP; the parent's RELEASE ends it; an ABORT of a partner aborts the
context. A message for no valid context only leaves the queue. -/
def Obligations.MembershipAndBarriers : Prop :=
  (∀ (f : Fn) (q : PortId) (i : Fin 16) (v : Word) (s : State),
     let hb := (s.rc.hbSeq + 1) % 2 ^ 32
     let lostNow (u : State) (n inc : Nat) := u.rc.handled = s.rc.handled ++ [(n, inc)] ∧ u.nodeFenced n = true ∧
       (u.reg 0x80C0).getLsbD 63 = true ∧ counted s u 0x8410 1
     ((s.clk - s.rc.hbAt).toNat < s.hbUs * 100 → goesTo (exec .heartbeatSend s) s) ∧
     (s.hbUs * 100 ≤ (s.clk - s.rc.hbAt).toNat → completes (exec .heartbeatSend s) (fun u =>
       u.rc.hbSeq = hb ∧ u.rc.hbAt = s.clk ∧ ∀ k, k < 8 →
       (s.portUp k = false → u.port k = s.port k) ∧
       (s.portUp k = true → (u.port k).lq 5 = (s.port k).mine (s.ctlFlit k (s.heartbeat k hb)) :: (s.port k).lq 5))) ∧
     (∀ k bs r, s.rc.queue = (k, bs) :: r →
       (bAt bs 0 ≠ 1 → goesTo (exec .heartbeatReceive s) s) ∧
       (bAt bs 0 = 1 → completes (exec .heartbeatReceive s) (fun u => u.rc.queue = r ∧
         Tab.get (fun _ => none) u.rc.lastHb k = some s.clk ∧ Tab.get z0 u.rc.inc k = leAt bs 8 3 ∧ counted s u 0x8408 1)) ∧
       (bAt bs 0 = 2 → let n := leAt bs 2 2 % 1024
         completes (exec .lost s) (fun u => u.rc.queue = r ∧ counted s u 0x8418 1 ∧
           (s.nodeFenced (s.port k).partner = true ∨ n = s.node ∨ (n, leAt bs 4 3) ∈ s.rc.handled ∨ s.faultMode = true →
             u.rc.handled = s.rc.handled ∧ u.parts = s.parts) ∧
           (s.nodeFenced (s.port k).partner = false → n ≠ s.node → (n, leAt bs 4 3) ∉ s.rc.handled → s.faultMode = false →
             lostNow u n (leAt bs 4 3))))) ∧
     (∀ t, Tab.get (fun _ => none) s.rc.lastHb q = some t → let old := s.missLimit * s.hbUs * 100
       (s.portLost q = true ∨ (s.clk - t).toNat < old → goesTo (exec (.heartbeatMiss q) s) s) ∧
       (s.portLost q = false → old ≤ (s.clk - t).toNat → let n := (s.port q).partner
         completes (exec (.heartbeatMiss q) s) (fun u => u.portLost q = true ∧
           (n < 1024 → s.nodeFenced n = false → (∀ k ∈ s.portsTo n, k = q.val ∨ s.portLost k = true) →
             lostNow u n (Tab.get z0 s.rc.inc q)) ∧
           ((∃ k ∈ s.portsTo n, k ≠ q.val ∧ s.portLost k = false) → u.rc.handled = s.rc.handled)))) ∧
     (s.seesPage f rcPage = false → goesTo (exec (.portFenceWrite f v) s) (s.access f)) ∧
     (s.seesPage f rcPage = true →
       completes (exec (.portFenceWrite f v) s) (fun u => ∀ k, k < 8 → u.elecFence k = v.getLsbD k ∧
         (u.reg 0x8048).getLsbD (8 + k) = v.getLsbD (8 + k) ∧ u.portLost k = (s.portLost k && !v.getLsbD (16 + k))) ∧
       goesTo (exec (.nodeFenceWrite f i v) s) ((s.access f).setReg (0x8100 + 8 * i) v))) ∧
  (∀ (b : Fin 16) (s : State),
     let x := s.bar b
     let t := s.readBy (s.barPart b) (s.barWord b) 8
     let n := leAt t.2.1 0 8
     let reached := t.2.2 = false ∧ (x.gen + 1) * s.barLocal b ≤ n
     let released (u : State) := u.bar b = { gen := (x.gen + 1) % 2 ^ 32 } ∧ counted s u 0x8428 1
     let kids (l : List Nat) := ∀ k ∈ s.barKids b, k ∈ l
     let polls := s.barRuns b = true ∧ s.rc.queue = []
     (s.barRuns b = false ∨ s.rc.queue ≠ [] ∨ x.localOk = false ∧ s.barWordOk b = false → goesTo (exec (.barrierPoll b) s) s) ∧
     (x.localOk = true → ¬kids x.arrived ∨ x.sent = true → goesTo (exec (.barrierPoll b) s) s) ∧
     (polls → x.localOk = true → kids x.arrived → x.sent = false →
       completes (exec (.barrierPoll b) s) (fun u => u.bar b = { x with sent := s.portUp (s.barParent b) })) ∧
     (polls → x.localOk = false → s.barWordOk b = true → ¬reached → goesTo (exec (.barrierPoll b) s) t.1) ∧
     (polls → x.localOk = false → s.barWordOk b = true → reached →
       completes (exec (.barrierPoll b) s) (fun u =>
         (¬kids x.arrived ∨ x.sent = true → u.bar b = { x with localOk := true }) ∧
         (kids x.arrived → x.sent = false → s.barParent b = 8 → released u) ∧
         (kids x.arrived → x.sent = false → s.barParent b ≠ 8 →
           (u.bar b).sent = s.portUp (s.barParent b) ∧ (u.bar b).gen = x.gen))) ∧
     (∀ q bs r, s.rc.queue = (q, bs) :: r → let s0 := { s with rc := { s.rc with queue := r } }
       (bAt bs 0 = 3 →
         (16 ≤ bAt bs 1 → goesTo (exec .arrive s) s0) ∧
         (bAt bs 1 = b.val → s.barRuns b = false ∨ q ∉ s.barKids b ∨ leAt bs 4 4 ≠ x.gen ∨ q ∈ x.arrived → goesTo (exec .arrive s) s0) ∧
         (bAt bs 1 = b.val → s.barRuns b = true → q ∈ s.barKids b → leAt bs 4 4 = x.gen → q ∉ x.arrived →
           completes (exec .arrive s) (fun u => u.rc.queue = r ∧
             (¬kids (x.arrived ++ [q]) ∨ x.localOk = false ∨ x.sent = true → u.bar b = { x with arrived := x.arrived ++ [q] }) ∧
             (kids (x.arrived ++ [q]) → x.localOk = true → x.sent = false → s.barParent b = 8 → released u) ∧
             (kids (x.arrived ++ [q]) → x.localOk = true → x.sent = false → s.barParent b ≠ 8 →
               (u.bar b).sent = s.portUp (s.barParent b))))) ∧
       (bAt bs 0 = 4 → bAt bs 1 = b.val →
         (s.barRuns b = false ∨ s.barParent b ≠ q ∨ leAt bs 4 4 ≠ x.gen ∨ x.sent = false → goesTo (exec .release s) s0) ∧
         (s.barRuns b = true → s.barParent b = q → leAt bs 4 4 = x.gen → x.sent = true → completes (exec .release s) (fun u =>
           u.rc.queue = r ∧ released u))) ∧
       (bAt bs 0 = 5 → bAt bs 1 = b.val →
         (q ∉ s.barPorts b ∨ leAt bs 4 4 ≠ x.gen → goesTo (exec .abort s) s0) ∧
         (s.barRuns b = true → q ∈ s.barPorts b → leAt bs 4 4 = x.gen → completes (exec .abort s) (fun u =>
           u.rc.queue = r ∧ (u.bar b).aborted = true ∧ (u.bar b).gen = x.gen ∧ counted s u 0x8430 1)))))

/-- R364, R373, R376, R380, R391: a doorbell of an enabled queue sets its index and any other is ignored and counted; a write
of a queue's base enables it where the queue lies in the partition, with its indices at 0; an expired coalescing timer
of a queue with IEN sends the queue's vector, or sets its pending bit where the vector may not go. R369, R388: PERST# gives
the registers of a port's functions and their configuration spaces their reset values, HOST_VF_BIND apart, and clears
their queues; a function-level reset of an unbound VF, or of a physical function and with it its VFs, resets the
configuration space, masks the vectors and disables the queues; one of a bound VF starts a reset of its partition, and one
of a VF that is not enabled does nothing. -/
def Obligations.HostPorts : Prop :=
  (∀ (f : Fn) (q : Fin 16) (v : BitVec 16) (w : Word) (s : State),
     (s.queueView f = none → goesTo (exec (.sqTailWrite f q v) s) (s.access f) ∧ goesTo (exec (.cqHeadWrite f q v) s) (s.access f) ∧
       goesTo (exec (.queueEnableWrite f false q w) s) (s.access f) ∧ goesTo (exec (.queueEnableWrite f true q w) s) (s.access f)) ∧
     (∀ k, s.queueView f = some k →
       let bad (u : State) := u.hosts = s.hosts ∧ counted s u (viewP k + 0x608) 1 ∧ (u.reg (viewP k + 0x10)).getLsbD 2 = true
       let fits (a : Nat) := qOn (s.reg a) = true ∧ v.toNat < ringSize (s.reg (a + 8))
       (fits (sqReg k q) → completes (exec (.sqTailWrite f q v) s) (fun u => Tab.get z0 (u.host k).sqTail q = v.toNat ∧ u.regs = s.regs)) ∧
       (¬fits (sqReg k q) → completes (exec (.sqTailWrite f q v) s) bad) ∧
       (fits (cqReg k q) → completes (exec (.cqHeadWrite f q v) s) (fun u => Tab.get z0 (u.host k).cqHead q = v.toNat ∧ u.regs = s.regs)) ∧
       (¬fits (cqReg k q) → completes (exec (.cqHeadWrite f q v) s) bad) ∧
       (∀ cq, let a := if cq then cqReg k q else sqReg k q
         let base : Word := BitVec.ofNat 64 (fld w 6 44 * 64)
         let inside := ∃ p, s.fnPart f = some p ∧ s.inAlloc p base ((if cq then 32 else 64) * ringSize (s.reg (a + 8))) = true
         (w.getLsbD 0 = false → completes (exec (.queueEnableWrite f cq q w) s) (fun u => u.reg a = base)) ∧
         (w.getLsbD 0 = true → qOn (s.reg a) = true → goesTo (exec (.queueEnableWrite f cq q w) s) (s.access f)) ∧
         (w.getLsbD 0 = true → qOn (s.reg a) = false → inside → completes (exec (.queueEnableWrite f cq q w) s) (fun u =>
           u.reg a = base ||| 1 ∧
           (cq = false → Tab.get z0 (u.host k).sqTail q = 0 ∧ Tab.get z0 (u.host k).sqHead q = 0) ∧
           (cq = true → Tab.get z0 (u.host k).cqTail q = 0 ∧ Tab.get z0 (u.host k).cqHead q = 0 ∧ Tab.get z0 (u.host k).rsv q = 0 ∧
             Tab.get (fun _ => false) (u.host k).phase q = false))) ∧
         (w.getLsbD 0 = true → qOn (s.reg a) = false → ¬inside → completes (exec (.queueEnableWrite f cq q w) s) (fun u =>
           u.reg a = base ∧ (u.reg (viewP k + 0x10)).getLsbD 1 = true ∧ u.hosts = s.hosts)))) ∧
     (let k := fnIdx f
      let n := fld (s.reg (cqReg k q + 8)) 8 6
      let timer (u : State) := Tab.get (fun _ => none) (u.host k).timer q
      let wait := fld (s.reg (cqReg k q + 8)) 24 8 * 100
      (timer s = none → goesTo (exec (.cqTimerExpiry f q) s) s) ∧
      (∀ t, timer s = some t → (s.clk - t).toNat < wait → goesTo (exec (.cqTimerExpiry f q) s) s) ∧
      let ien := (s.reg (cqReg k q + 8)).getLsbD 14
      (ien = false → goesTo (exec (.cqTimerExpiry f q) s) s) ∧
      (∀ t, timer s = some t → wait ≤ (s.clk - t).toNat → ien = true → completes (exec (.cqTimerExpiry f q) s) (fun u =>
        Tab.get z0 (u.host k).agg q = 0 ∧ timer u = none ∧
        (if s.msixGo k n then u.msix = (k, n) :: s.msix
         else u.msix = s.msix ∧ (u.reg (msixPba k)).getLsbD n = true))))) ∧
  (∀ (b : HPort) (f : Fn) (s : State),
     let i := portIdx b
     completes (exec (.perst b) s) (fun u => (∀ n, n < 16 → u.reg (bindA i n) = s.reg (bindA i n)) ∧
       ∀ k ∈ (1 + i) :: (List.range 16).map (fun n => 3 + 16 * i + n), (u.host k).sqTail = Tab.empty ∧ (u.host k).cqTail = Tab.empty ∧
         (∀ o, 0x200 ≤ o → o < 0x800 → u.reg (viewP k + o) = regReset (viewP k + o)) ∧
         ∀ o, o < 0x200 → u.cfg k o = regReset (cfgP k + 0x40 + o)) ∧
     (f = .sp ∨ s.fnThere f = false → goesTo (exec (.flr f) s) s) ∧
     (f ≠ .sp → s.fnThere f = true →
       let again (u : State) (h : Fn) := let k := fnIdx h
         (∀ v, v < 64 → (u.reg (msixCtl k v)).getLsbD 32 = true) ∧ u.reg (msixPba k) = 0 ∧
         (∀ q, q < 16 → qOn (u.reg (sqReg k q)) = false ∧ qOn (u.reg (cqReg k q)) = false) ∧
         ∀ o, o < 0x200 → u.cfg k o = regReset (cfgP k + 0x40 + o)
       (s.fnPart f = none → completes (exec (.flr f) s) (fun u => u.parts = s.parts ∧ again u f ∧
         ∀ c n, f = .pf c → again u (.vf c n))) ∧
       (∀ p, s.fnPart f = some p → s.coresOf p = [] → (s.part p).reset = none →
         completes (exec (.flr f) s) (fun u => u.parts = s.parts ∧ again u f)) ∧
       (∀ p, s.fnPart f = some p → s.coresOf p ≠ [] → (s.part p).reset = none → completes (exec (.flr f) s) (fun u =>
         (∃ r, (u.part p).reset = some r ∧ r.step = 2 ∧ r.flrs = [fnIdx f]) ∧ (u.losw p 30).op = 7 ∧ (u.losw p 30).state = 2))))

/-- R372, R381 to R383, R388 to R390, R393: PART_RESET starts a reset of each partition named that has cores; its steps
kill what runs, end every query and await the programs issued, after which the slot is DONE and the event logged; a
composition change needs a physical function, the next epoch and no live item of the epoch before. -/
def Obligations.PartitionsResetAndCompose : Prop :=
  ∀ (f : Fn) (p : PartId) (o : SlotId) (v : BitVec 16) (rq : List Byte) (s : State),
    (s.seesPage f partPage = false → goesTo (exec (.partResetWrite f v) s) (s.access f) ∧
      goesTo (exec (.partRunWrite f v) s) (s.access f)) ∧
    (s.seesPage f partPage = true →
      goesTo (exec (.partRunWrite f v) s) ((s.access f).setField 0xD0C0 0 16 v.toNat) ∧
      completes (exec (.partResetWrite f v) s) (fun u => ∀ k, k < 16 →
        (v.getLsbD k = false ∨ s.coresOf k = [] ∧ (s.part k).reset = none → u.part k = s.part k) ∧
        (v.getLsbD k = true → s.coresOf k ≠ [] → (s.part k).reset = none →
          (∃ r, (u.part k).reset = some r ∧ r.step = 2 ∧ r.flrs = [] ∧ r.t0 = s.clk) ∧
          (u.losw k 30).op = 7 ∧ (u.losw k 30).state = 2 ∧ (u.losw k 30).prog = 1 ∧ (u.losw k 30).total = 7))) ∧
    ((s.part p).reset = none → goesTo (exec (.partitionReset p) s) s ∧ goesTo (exec (.partResetDone p) s) s) ∧
    (∀ r, (s.part p).reset = some r →
      (r.step = 7 → goesTo (exec (.partitionReset p) s) s) ∧
      (r.step = 2 → completes (exec (.partitionReset p) s) (fun u => (u.dk p).step = none ∧ (u.dk p).held = [] ∧
        ∃ r', (u.part p).reset = some r' ∧ r'.killed = s.groupsToKill p ∧ (r'.step = 3 ∨ r'.step = 7))) ∧
      (r.step = 3 → s.writesOut p = true → goesTo (exec (.partitionReset p) s) s) ∧
      (r.step = 3 → s.writesOut p = false → completes (exec (.partitionReset p) s) (fun u =>
        (∀ q x, u.query q = some x → x.part ≠ p) ∧
        (u.losw p 30).state = (if s.pwr.brownout then 6 else (s.losw p 30).state) ∧
        ∃ r', (u.part p).reset = some r' ∧ r'.step = 7 ∧ r'.aborted = (s.queriesOf p).length ∧ r'.killed = r.killed)) ∧
      (s.resetEnds p r = false → goesTo (exec (.partResetDone p) s) s) ∧
      (s.resetEnds p r = true → (s.part p).compWait = [] → completes (exec (.partResetDone p) s) (fun u =>
        (u.part p).reset = none ∧ (u.losw p 30).state = 3 ∧
        ∃ q, u.log.queue = putEvent q ⟨0x0A20, 2, some p.val, [], s.clk⟩ ∧
          (s.inAlloc p (s.lopArea p 30) 16 = false → q = s.log.queue)))) ∧
    (mayStart s f p o → asks s f p o 6 32 rq →
      let x := s.part p
      let a := wAt rq 0
      let rd := ((slotRequest s f p o 6 32).1.devRead p a 256).2
      let e := rd.1
      let failed (code : Nat) := completes (exec (.compositionChange f p o) s) (fun u => (u.losw p o).state = 4 ∧
        (u.losw p o).error = code ∧ (u.part p).epoch = x.epoch ∧ (u.part p).curMap = x.curMap)
      (fnIsVf f = true → failed 0x0A05) ∧
      (fnIsVf f = false → x.reset ≠ none → completes (exec (.compositionChange f p o) s) (fun u => (u.losw p o).state = 1 ∧
        (u.part p).compWait = x.compWait ++ [(o.val, rq)])) ∧
      (fnIsVf f = false → x.reset = none →
        (zeroAt rq 10 22 = false ∨ bAt rq 8 ≠ (x.epoch + 1) % 256 ∨ a.toNat % 64 ≠ 0 ∨ s.inAlloc p a 256 = false → failed 0x0A03) ∧
        (zeroAt rq 10 22 = true → bAt rq 8 = (x.epoch + 1) % 256 → a.toNat % 64 = 0 → s.inAlloc p a 256 = true →
          rd.2 = false → (∀ m, m < 64 → bits (leAt e (4 * m) 4) 14 17 = 0) → bAt rq 9 = 0xFF →
          (s.prevLive p ≠ 0 → failed 0x0A02) ∧
          (s.prevLive p = 0 → completes (exec (.compositionChange f p o) s) (fun u => (u.losw p o).state = 3 ∧
            (u.part p).epoch = (x.epoch + 1) % 256 ∧ (u.part p).prevMap = x.curMap ∧ (u.part p).self = 0xFF ∧
            ∀ m, m < 64 → Tab.get z0 (u.part p).curMap m = leAt e (4 * m) 4)))))

/-- R413, R414, R416, R421 to R423, R430: the target voltage moves in steps of 5 mV towards what the cores need; a core
runs at its new frequency at once where that is lower, and else once the target and READ_VOUT allow it; a core's droop
begins below its level and ends above it; a region is lowered in steps of 100 MHz while it reads 95 °C or more and raised
below 93 °C, and the chip trips at 105 °C; in each slot at most PER_SLOT cores are ungated, the restarts of 16 times as
many engines are taken, and a slot in which one waits is counted once. -/
def Obligations.FrequencyHeatAndWakeUp : Prop :=
  ∀ (x : CoreMv) (n : Nat) (deg : List Nat) (r : Fin 36) (s : State),
    let c := x.core
    let mv := x.mv.toNat
    let w := s.pwr
    let need := mvFor (s.coreFreq c)
    let slow := Tab.get z0 w.freq c = 0 ∨ (s.runFreq c < s.coreFreq c ∧ (w.target < need ∨ mv < need))
    let droops := s.coreClocked c = true ∧ s.below mv s.droopPct = true
    let hot := Tab.get (fun _ => false) w.hot
    let droop := Tab.get (fun _ => false) w.droop c
    let low := Tab.get z0 w.lowered r
    let top := (s.enabledCores.filter (fun d => decide (regionOf d = r.val))).foldl (fun m d => max m (s.runFreq d)) 8
    let k := if w.brownout then 0 else s.perSlot
    (slow → goesTo (exec (.freqChangeDone x) s) s) ∧
    (¬slow → completes (exec (.freqChangeDone x) s) (fun u => u.runFreq c = s.coreFreq c ∧ Tab.get z0 u.pwr.freq c = 0)) ∧
    goesTo (exec (.vidStep true) s) (if w.target < s.needMv then { s with pwr := { w with target := w.target + 5 } } else s) ∧
    goesTo (exec (.vidStep false) s) (if s.needMv < w.target then { s with pwr := { w with target := w.target - 5 } } else s) ∧
    (¬droops → goesTo (exec (.droopDetect x) s) s) ∧
    (droops → completes (exec (.droopDetect x) s) (fun u => Tab.get (fun _ => false) u.pwr.droop c = true)) ∧
    (droop = false ∨ s.above mv s.droopPct = false → goesTo (exec (.droopRecover x n) s) s) ∧
    (droop = true → s.above mv s.droopPct = true → completes (exec (.droopRecover x n) s) (fun u =>
      Tab.get (fun _ => false) u.pwr.droop c = false ∧
      (w.brownout = false → counted s u 0x2048 n) ∧
      (w.brownout = true → ∃ k, counted s u 0x2048 k ∧ k ≤ if Tab.get (fun _ => false) w.early c then n else 0))) ∧
    (s.powered = false → goesTo (exec (.thermalSample deg) s) s ∧ goesTo (exec (.throttleStep r) s) s ∧
      goesTo (exec .ungateSlot s) s ∧ goesTo (exec .engineRestartSlot s) s) ∧
    (s.powered = true →
      completes (exec (.thermalSample deg) s) (fun u => (∀ d, d < 36 → deg.getD d 0 ≤ u.pwr.tj) ∧
        (u.pwr.tj = 0 ∨ ∃ d, d < 36 ∧ u.pwr.tj = deg.getD d 0) ∧ u.pwr.tripped = decide (105 ≤ u.pwr.tj) ∧
        ∀ d, d < 36 → Tab.get z0 u.pwr.deg d = deg.getD d 0 ∧ Tab.get (fun _ => false) u.pwr.hot d =
          if hot d then decide (93 ≤ deg.getD d 0) else decide (95 ≤ deg.getD d 0)) ∧
      (105 ≤ w.tj → completes (exec (.throttleStep r) s) (fun u => u.pwr.tripped = true)) ∧
      (w.tj < 105 → let d := Tab.get z0 w.deg r
        completes (exec (.throttleStep r) s) (fun u => Tab.get z0 u.pwr.lowered r =
          if 95 ≤ d then (if 8 + low < top then low + 1 else low) else if d < 93 then low - 1 else low)) ∧
      (w.supply = false → w.rstLow = false → completes (exec .ungateSlot s) (fun u => u.pwr.ungateQ = w.ungateQ.drop k ∧
        (∀ d ∈ w.ungateQ.take k, Tab.get (fun _ => false) u.pwr.ungated d = true ∧ (u.core d).zeroing = true) ∧
        counted s u 0x1220 (if w.ungateQ.length ≤ k ∨ w.rampAt = some (s.clk / 25, true) then 0 else 1))) ∧
      completes (exec .engineRestartSlot s) (fun u => u.pwr.restartQ = w.restartQ.drop (16 * k) ∧
        counted s u 0x1220 (if w.restartQ.length ≤ 16 * k ∨ w.rampAt = some (s.clk / 25, false) then 0 else 1)))

/-- R330, R385, R417 to R420: below the warning level the brown-out stops new flash programs and pauses the operations
that wait for them; its end, above that level plus 1 %, lets them go on unless PWR_OK has fallen, and queues every engine's
restart; below the reset level the main islands lose their state while the always-on island, the flash, the meter and the
log keep theirs, until a voltage above the warning level plus 1 % releases them into step 3. -/
def Obligations.BrownoutAndSupplyReset : Prop :=
  ∀ (ns : Nat) (mv : BitVec 10) (s : State),
    let w := s.pwr
    let may := s.powered = true ∧ w.brownout = false ∧ w.supply = false ∧ w.rstLow = false
    (¬may ∨ s.below mv.toNat s.warnPct = false → goesTo (exec (.pwrBrownout mv) s) s) ∧
    (may → s.below mv.toNat s.warnPct = true → completes (exec (.pwrBrownout mv) s) (fun u => u.pwr.brownout = true ∧
      u.pwr.sense = mv.toNat ∧ u.log.queue = putEvent s.log.queue ⟨0x0C20, 4, none, [], s.clk⟩ ∧ counted s u 0x1200 1 ∧
      ∀ p, p < 16 → (u.ns p).stopped = true ∧ (u.ns p).map = (s.ns p).map ∧
        ∀ o, o < 32 → (u.losw p o).state = if s.flashOp p o then 6 else (s.losw p o).state)) ∧
    (w.brownout = false ∨ s.above mv.toNat (s.warnPct - 1) = false → goesTo (exec (.brownoutEnd ns mv) s) s) ∧
    (w.brownout = true → s.above mv.toNat (s.warnPct - 1) = true → completes (exec (.brownoutEnd ns mv) s) (fun u =>
      u.pwr.brownout = false ∧ counted s u 0x1208 (ns / 1000) ∧ (∀ e ∈ s.allEngines, e ∈ u.pwr.restartQ) ∧
      (w.shutdown = true → u.arc = s.arc ∧ ∀ p o, u.losw p o = s.losw p o) ∧
      (w.shutdown = false → ∀ p, p < 16 → (u.ns p).stopped = false ∧ ∀ o, o < 32 →
        (u.losw p o).state = if (s.losw p o).state = 6 then 2 else (s.losw p o).state))) ∧
    (s.powered = false ∨ w.supply = true ∨ s.below mv.toNat s.resetPct = false → goesTo (exec (.pwrSupplyReset mv) s) s) ∧
    (s.powered = true → w.supply = false → s.below mv.toNat s.resetPct = true → completes (exec (.pwrSupplyReset mv) s) (fun u =>
      u.pwr.supply = true ∧ u.pwr.cause = 2 ∧ u.pwr.phase = 0 ∧ u.pwr.sense = mv.toNat ∧ u.clk = 0 ∧ u.cores = Tab.empty ∧ u.mem = Tab.empty ∧ u.desk = {} ∧
      u.meter = s.meter ∧ u.log.recs = s.log.recs ∧ counted s u 0x1210 1 ∧
      (∀ a, alwaysOn a = false → u.reg a = regReset a) ∧ (∀ a, alwaysOn a = true → a ≠ 0x1210 → u.reg a = s.reg a) ∧
      ∀ p, p < 16 → (u.ns p).cws = (s.ns p).cws ∧ (u.ns p).mounted = false)) ∧
    (w.supply = false → goesTo (exec .supplyResetRelease s) s) ∧
    (w.supply = true → completes (exec .supplyResetRelease s) (fun u => u.pwr.supply = false ∧
      u.pwr.senseAt = s.clk ∧ s.above u.pwr.sense (s.warnPct - 1) = true ∧
      (w.rstLow = true → u.pwr.phase = w.phase) ∧ (w.rstLow = false → u.pwr.phase = 3 ∧ u.pwr.ungateQ = s.enabledCores)))

/-- R411, R412, R424 to R427, R498: power-on gives every register its reset value; PWR_OK starts the steps and its fall
stops the flash; the loss of the standby rails leaves only what is stored; CHIP_RST_N and RST_CMD reset every island but
the always-on one with CLK_TIME running on, and start-up enters at step 3, or at step 2 in recovery mode; each step of
start-up leads to the next, to recovery where no slot boots. -/
def Obligations.ResetKindsAndStartUp : Prop :=
  ∀ (f : Fn) (ns : Nat) (key : BitVec 16) (x : StartReport) (s : State),
    let w := s.pwr
    let fresh (u : State) := u.cores = Tab.empty ∧ u.mem = Tab.empty ∧ u.desk = {} ∧ u.clk = s.clk
    let again := if s.colo.recovery then 2 else 3
    let held := w.rstLow = true ∨ w.supply = true
    (w.standby = true → goesTo (exec .powerOn s) s) ∧
    (w.standby = false → completes (exec .powerOn s) (fun u => (∀ a, u.reg a = regReset a) ∧ u.cores = Tab.empty ∧ u.mem = Tab.empty ∧
      u.pwr = { cause := if w.tripped then 5 else 1 } ∧ u.colo.nor = s.colo.nor ∧ u.log.pcc = (s.log.pcc + 1) % 2 ^ 24)) ∧
    (w.standby = false ∨ w.pwrOk = true ∨ w.tripped = true → goesTo (exec .pwrOkRise s) s) ∧
    (w.standby = true → w.pwrOk = false → w.tripped = false → completes (exec .pwrOkRise s) (fun u =>
      u.pwr.pwrOk = true ∧ u.pwr.phase = 1 ∧ u.pwr.t0 = s.clk)) ∧
    (s.powered = false → goesTo (exec .pwrOkFall s) s ∧ goesTo (exec (.startupStepDone x) s) s) ∧
    (s.powered = true → completes (exec .pwrOkFall s) (fun u => u.pwr.pwrOk = false ∧ u.pwr.shutdown = true ∧
      (s.log.writing = none → ∃ i, u.log.writing = some (i, false) ∧ i.clean = true) ∧
      (s.log.writing ≠ none → u.log.writing = s.log.writing ∧ u.log.due = some true) ∧ ∀ p, p < 16 → (u.ns p).stopped = true)) ∧
    (w.standby = false → goesTo (exec .standbyLoss s) s) ∧
    (w.standby = true → completes (exec .standbyLoss s) (fun u => u.pwr.standby = false ∧ u.mem = Tab.empty ∧ u.cores = Tab.empty ∧
      (∀ a, u.reg a = regReset a) ∧ u.colo.nor = s.colo.nor ∧ u.colo.fwSvn = s.colo.fwSvn ∧ u.log.recs = [] ∧ u.meter.running = false ∧
      ∀ p, p < 16 → (u.ns p).cws = (s.ns p).cws)) ∧
    (s.powered = false ∨ w.rstLow = true ∨ ns < 100 → goesTo (exec (.chipRstNAssert ns) s) s) ∧
    (s.powered = true → w.rstLow = false → 1000 ≤ ns → completes (exec (.chipRstNAssert ns) s) (fun u =>
      fresh u ∧ u.pwr.rstLow = true ∧ u.pwr.cause = 3)) ∧
    (w.rstLow = false → goesTo (exec .chipRstNRelease s) s) ∧
    (w.rstLow = true → completes (exec .chipRstNRelease s) (fun u => u.pwr.rstLow = false ∧
      u.pwr.phase = if s.powered = true ∧ w.supply = false then again else w.phase)) ∧
    (fnIsVf f = true ∨ s.seesPage f rstPage = false ∨ key ≠ 0xC41B ∨ s.powered = false ∨ held →
      goesTo (exec (.rstCmd f key) s) (s.access f)) ∧
    (fnIsVf f = false → s.seesPage f rstPage = true → key = 0xC41B → s.powered = true → ¬held →
      completes (exec (.rstCmd f key) s) (fun u => u.mem = Tab.empty ∧ u.desk = {} ∧ u.clk = s.clk ∧ u.pwr.cause = 4 ∧
        u.pwr.phase = again)) ∧
    (s.powered = true → ¬held →
      (w.phase = 3 ∧ w.ungateQ ≠ [] ∨ w.phase ∈ [0, 9, 15] → goesTo (exec (.startupStepDone x) s) s) ∧
      (w.phase ∈ [1, 4, 5, 6, 7, 8] → completes (exec (.startupStepDone x) s) (fun u => u.pwr.phase = w.phase + 1 ∧
        (w.phase = 4 → ∀ h, h < 6 → u.reg (hcP h + 0x40) =
          if h ∈ x.stackFail then putFld (s.reg (hcP h + 0x40)) 8 8 0 else s.reg (hcP h + 0x40)))) ∧
      (w.phase = 2 → completes (exec (.startupStepDone x) s) (fun u => u.pwr.phase = if u.colo.recovery then 15 else 3)) ∧
      (w.phase = 3 → w.ungateQ = [] → completes (exec (.startupStepDone x) s) (fun u => u.pwr.ungated = Tab.empty ∧
        u.pwr.phase = if s.colo.recovery then 15 else 4)))

/-- R40: CLK_TIME is 0 after a power-on and after a supply reset; a chip, host-port, partition, core or link-port reset
leaves it, in each of its commands, and it then advances as before. -/
def Obligations.ClockOverResets : Prop :=
  ∀ (f : Fn) (b : HPort) (ns : Nat) (mv : BitVec 10) (key : BitVec 16) (s : State),
    (s.pwr.standby = false → completes (exec .powerOn s) (fun u => u.clk = 0)) ∧
    (s.powered = true → s.pwr.supply = false → s.below mv.toNat s.resetPct = true →
      completes (exec (.pwrSupplyReset mv) s) (fun u => u.clk = 0)) ∧
    (∀ (i : Instr) (u : State), (i = .chipRstNAssert ns ∨ i = .chipRstNRelease ∨ i = .rstCmd f key ∨
        i = .perst b ∨ i = .flr f ∨ (∃ v, i = .partResetWrite f v) ∨ (∃ p, i = .partitionReset p) ∨
        (∃ p, i = .partResetDone p) ∨ (∃ c, i = .coreSoftReset f c) ∨ (∃ c, i = .coreResetReady c) ∨ (∃ q, i = .linkPortReset f q)) →
      exec i s = .next u → u.clk = s.clk ∧ (u.pending = [] → goesTo (step u) { u with clk := s.clk + 1 }))

/-- R438, R442, R443, R445: an extension hashes the register's value and the 48 bytes of COLO_EXTEND; a push stages 2
KiB for the slot that is not in force, one at a time and while no stage runs; a stage that finds a bad push, or an image
that fails, ends with its error; one whose images verify, in two parts, writes the directory in a third and leads it to
the other slot. What COLO_LOSW shows when a second stage is started is the model's choice (log entry 98). -/
def Obligations.ColophonFirmware : Prop :=
  ∀ (f : Fn) (v : BitVec 3) (n : BitVec 14) (ok : Bool) (s : State),
    let c := s.colo
    let window := (List.range 256).flatMap (fun k => leBytes 8 (s.reg (0x7800 + 8 * k)).toNat)
    let ext := (List.range 6).flatMap (fun k => leBytes 8 (s.reg (0x7300 + 8 * k)).toNat)
    let k := 1 - s.dir.2.2
    let start := exec (.firmwareStage f none) s
    let next := exec (.firmwareStage f (some ok)) s
    let failed (o : Host.Outcome State Fault Refusal) (code : Nat) := completes o (fun u => u.colo.losw.state = 4 ∧
      u.colo.losw.error = code ∧ u.colo.nor = c.nor ∧ u.colo.losw.op = 0x0B ∧ u.colo.stage = none)
    (s.seesPage f coloPage = false → goesTo (exec (.mrExtend f v) s) (s.access f) ∧ goesTo (exec (.push f n) s) (s.access f) ∧
      goesTo start (s.access f)) ∧
    (s.seesPage f coloPage = true →
      (v.toNat < 6 ∨ (∀ b, f ≠ .pf b) → goesTo (exec (.mrExtend f v) s) (s.access f)) ∧
      (∀ b, f = .pf b → 6 ≤ v.toNat → completes (exec (.mrExtend f v) s) (fun u => ∀ i, u.mr i =
        if i = v.toNat then Config.sha384 (s.mr i ++ ext) else s.mr i)) ∧
      (c.pushing ≠ none ∨ c.stage ≠ none → completes (exec (.push f n) s) (fun u => u.colo = c ∧ counted s u 0x7418 1)) ∧
      (c.pushing = none → c.stage = none → completes (exec (.push f n) s) (fun u => u.colo.nor = c.nor ∧
        u.colo.pushing = if 12287 < n.toNat then none else some (n.toNat, window))) ∧
      (fnIsVf f = false →
        (c.stage ≠ none → completes start (fun u => u.colo = { c with losw := { c.losw with state := 4, error := 0x0D07 } })) ∧
        (c.stage = none → c.pushBad = true → failed start 0x0D06) ∧
        (c.stage = none → c.pushBad = false → completes start (fun u => u.colo.stage = some 0 ∧ u.colo.nor = c.nor ∧
          u.colo.losw.op = 0x0B ∧ u.colo.losw.state = 2 ∧ u.colo.losw.prog = 0 ∧ u.colo.losw.total = 3)))) ∧
    (fnIsVf f = true → goesTo start (s.access f)) ∧
    (c.stage = none → goesTo next s) ∧
    (∀ j, c.stage = some j → j < 2 → let code := s.coloCheck (decide (j = 1)) k
      (code ≠ 0 → failed next code ∧ completes next (fun u => counted s u 0x7408 1)) ∧
      (code = 0 → completes next (fun u => u.colo.stage = some (j + 1) ∧ u.colo.nor = c.nor ∧ u.colo.losw.state = 2 ∧
        u.colo.losw.prog = j + 1 ∧ counted s u 0x7400 1))) ∧
    (c.stage = some 2 →
      (ok = false → failed next 0x0D06) ∧
      (ok = true → s.dir.1 = some 0 → s.dir.2.1 + 1 < 2 ^ 32 → s.dir.2.2 < 2 → completes next (fun u =>
        u.colo.stage = none ∧ u.colo.losw.state = 3 ∧ u.colo.losw.prog = 3 ∧ u.dir = (some 1, s.dir.2.1 + 1, k)))) ∧
    (c.pushing = none → goesTo (exec (.pushDone ok) s) s) ∧
    (∀ o bs, c.pushing = some (o, bs) → completes (exec (.pushDone ok) s) (fun u => u.colo.pushing = none ∧
      (ok = true → u.colo.nor = Mem.putBytes c.nor (slotBase k + o * 2048) bs ∧ u.colo.pushBad = c.pushBad) ∧
      (ok = false → u.colo.pushBad = true)))

/-- R439 to R441: Colophon takes SPDM requests in phases 9 and 15 only, and counts them; a request before its place in
the connection is answered with an error; the others are answered with what they ask for, within the bounds the chip
gives: a certificate portion longer than DataTransferSize, and a signature of SLH-DSA, go into chunks. The last chunk of a
large request brings the response that the request has on its own. The places of the Flags and of the algorithms' bits are
the model's choice (log entry 19). -/
def Obligations.ColophonSpdm : Prop :=
  ∀ (b : HPort) (base hash sign : Bool) (last : Option SpdmReq) (slot n len : Nat) (data : List Byte) (s : State),
    let x := s.spdm b
    let alone : SpdmReq → Instr := fun
      | .getVersion => .getVersion b
      | .getCapabilities => .getCapabilities b
      | .negotiateAlgorithms base hash => .negotiateAlgorithms b base hash
      | .getDigests => .getDigests b
      | .getCertificate slot off len => .getCertificate b slot off len
      | .challenge slot nonce => .challenge b slot nonce
      | .getMeasurements index sign nonce => .getMeasurements b index sign nonce
      | .getPqCert off len => .getPqCert b off len
      | .getPqSig => .getPqSig b
    let ops := [(0, Instr.getVersion b), (1, .getCapabilities b), (2, .negotiateAlgorithms b base hash), (3, .getDigests b),
      (3, .getCertificate b slot n len), (3, .challenge b slot data), (3, .getMeasurements b n sign data),
      (2, .chunkSend b last data), (2, .chunkGet b n), (3, .getPqCert b n len), (3, .getPqSig b)]
    let ready (k : Nat) := (s.pwr.phase = 9 ∨ s.pwr.phase = 15) ∧ k ≤ x.state
    let answers (op : Instr) (code : Nat) (d : List Byte) := completes (exec op s) (fun u =>
      u.resp = { bytes := Config.spdmBody code d } ∧ counted s u 0x7410 1)
    let errs (op : Instr) (code : Nat) := completes (exec op s) (fun u => u.resp = { status := code } ∧ counted s u 0x7410 1)
    let st (op : Instr) (k : Nat) := completes (exec op s) (fun u => (u.spdm b).state = k)
    (∀ q ∈ ops, (s.pwr.phase ≠ 9 → s.pwr.phase ≠ 15 → goesTo (exec q.2 s) s) ∧
      ((s.pwr.phase = 9 ∨ s.pwr.phase = 15) → x.state < q.1 → errs q.2 unexpectedRequest)) ∧
    (ready 0 → answers (.getVersion b) 0x84 [] ∧ st (.getVersion b) 1) ∧
    (ready 1 → answers (.getCapabilities b) 0xE1 (leBytes 4 spdmFlags ++ leBytes 4 4096) ∧ st (.getCapabilities b) (max 2 x.state)) ∧
    (ready 2 →
      (base = true → hash = true → answers (.negotiateAlgorithms b base hash) 0xE3 (leBytes 4 8 ++ leBytes 4 2 ++ leBytes 4 4) ∧
        st (.negotiateAlgorithms b base hash) 3) ∧
      (base = false ∨ hash = false → errs (.negotiateAlgorithms b base hash) invalidRequest) ∧
      (last = none → answers (.chunkSend b last data) 0x85 [] ∧
        completes (exec (.chunkSend b last data) s) (fun u => (u.spdm b).gather = x.gather ++ data)) ∧
      (∀ r, last = some r → ∃ t, exec (alone r) s = .next t ∧ completes (exec (.chunkSend b last data) s) (fun u =>
        u.resp = { t.resp with bytes := Config.spdmBody 0x85 t.resp.bytes } ∧ (u.spdm b).state = (t.spdm b).state ∧
        counted s u 0x7410 1)) ∧
      (let c := (x.large.drop (4084 * n)).take 4084
       (c = [] → errs (.chunkGet b n) invalidRequest) ∧ (c ≠ [] → answers (.chunkGet b n) 0x86 c))) ∧
    (ready 3 →
      let part := (Config.rsaChain.drop n).take len
      let long (op : Instr) (bs : List Byte) := completes (exec op s) (fun u => u.resp.status = largeResponse ∧ (u.spdm b).large = bs)
      answers (.getDigests b) 0x81 (Config.sha384 Config.rsaChain) ∧
      (slot = 0 → n ≤ Config.rsaChain.length → 8 + part.length ≤ 4096 → answers (.getCertificate b slot n len) 0x82 part) ∧
      (slot = 0 → n ≤ Config.rsaChain.length → 4096 < 8 + part.length →
        long (.getCertificate b slot n len) (Config.spdmBody 0x82 part)) ∧
      (Config.rsaChain.length < n → errs (.getCertificate b slot n len) invalidRequest) ∧
      (slot ≠ 0 → errs (.getCertificate b slot n len) invalidRequest ∧ errs (.challenge b slot data) invalidRequest) ∧
      (slot = 0 → completes (exec (.challenge b slot data) s) (fun u => (u.spdm b).signed ≠ none ∧
        ∃ g, u.resp = { bytes := Config.spdmBody 0x83 (Config.sha384 Config.rsaChain ++ g) })) ∧
      (∀ m, s.measurement n = some m →
        (sign = false → answers (.getMeasurements b n sign data) 0xE0 m) ∧
        (sign = true → completes (exec (.getMeasurements b n sign data) s) (fun u => (u.spdm b).signed ≠ none ∧
          ∃ g, u.resp = { bytes := Config.spdmBody 0xE0 (m ++ g) }))) ∧
      (s.measurement n = none → errs (.getMeasurements b n sign data) invalidRequest) ∧
      (len ≤ 4000 → answers (.getPqCert b n len) 0x7E
        (leBytes 4 Config.slhChain.length ++ (Config.slhChain.drop n).take len)) ∧
      (4000 < len → errs (.getPqCert b n len) invalidRequest) ∧
      (x.signed = none → errs (.getPqSig b) invalidRequest) ∧
      (∀ m, x.signed = some m → long (.getPqSig b) (fit 16224 (Config.slhSign Config.deviceSecret m))))

/-- R449 to R457, R461 to R463: a running meter takes increments one by one, up to 64 bits (32 for CONFIG_SEQ),
integrates energy and cuts records under rising numbers, one being signed at a time; the last 64 are held; the mirror
page shows what the meter holds. R457 to R460: a powered and running meter answers an I²C command whose CRC is right,
with the bytes asked for or the code that the command gives; a change of configuration breaks the seal and a token of
the approved keys restores it. A meter that does not run starts from a slot whose firmware verifies, the one last committed
before the other (the order is the model's choice, log entry 98). -/
def Obligations.MeterCountsAndCommands : Prop :=
  (∀ (uj : Nat) (slot : Bool) (s : State),
     let m := s.meter
     let sat (n : Nat) : Word := BitVec.ofNat 64 (min n (2 ^ 64 - 1))
     (m.running = false → ∀ op ∈ [Instr.meterIncrement, .energySample uj, .meterIntervalExpiry, .recordCut, .mirrorRefresh],
       goesTo (exec op s) s) ∧
     (m.running = true →
       (∀ k n r, m.arriving = (k, n) :: r → completes (exec .meterIncrement s) (fun u => u.meter.arriving = r ∧
         (∀ j, Tab.get z0 u.meter.totals j = if j = k then min (if k % 8 = 7 then 2 ^ 32 - 1 else 2 ^ 64 - 1) (Tab.get z0 m.totals k + n)
           else Tab.get z0 m.totals j))) ∧
       goesTo (exec (.energySample uj) s) { s with meter := { m with energy := m.energy + uj } } ∧
       goesTo (exec .meterIntervalExpiry s) { s with meter := { m with due := m.due ++ [0] } } ∧
       (∀ fl r, m.signing = none → m.due = fl :: r → completes (exec .recordCut s) (fun u => u.meter.seq = m.seq + 1 ∧
         u.meter.due = r ∧ u.meter.gap = false ∧ u.meter.totals = m.totals ∧
         ∃ b, u.meter.signing = some b ∧ leAt b 0 4 = 0x47534D54 ∧
           leAt b 8 8 = (m.seq + 1) % 2 ^ 64 ∧ leAt b 6 2 = (fl + (if m.gap then 1 else 0) + if m.unsealed then 2 else 0) % 2 ^ 16)) ∧
       (m.signing ≠ none ∨ m.due = [] → goesTo (exec .recordCut s) s) ∧
       completes (exec .mirrorRefresh s) (fun u => u.reg 0x6048 = sat m.seq ∧
         u.reg 0x6050 = sat (m.energy / 1000) ∧ u.reg 0x6058 = sat m.interval ∧
         ∀ p, p < 16 → (∀ k, k < 7 → u.reg (0x6100 + p * 0x40 + 8 * k) = sat (m.total p k)) ∧
           u.reg (0x6138 + p * 0x40) = sat (Tab.get z0 m.est p / 1000))) ∧
     (m.signing = none → goesTo (exec .recordSigningDone s) s) ∧
     (∀ b, m.signing = some b → completes (exec .recordSigningDone s) (fun u => u.meter.ring.length ≤ 64 ∧
       ∃ g, u.meter.ring.getLast? = some (leAt b 8 8, b ++ g) ∧ g.length = 16608)) ∧
     completes (exec .energyApportion s) (fun u => u.meter.totals = m.totals ∧ u.meter.energy = m.energy ∧ u.meter.estFrom = m.energy ∧
       ∀ p, p < 16 → Tab.get z0 m.est p ≤ Tab.get z0 u.meter.est p) ∧
     let k := if slot then 1 else 0
     (m.running = true ∨ s.pwr.standby = false ∨ m.boots k = false → goesTo (exec (.meterStart slot) s) s) ∧
     (m.running = false → s.pwr.standby = true → m.boots k = true → completes (exec (.meterStart slot) s) (fun u =>
       u.meter.running = true ∧ u.meter.slot = k ∧ u.meter.pcc = m.pcc + 1 ∧ u.meter.totals = m.totals))) ∧
  (∀ (crc : Bool) (seq : Word) (n len chain : Nat) (i : BitVec 16) (a : Byte) (fo : BitVec 32) (data : List Byte) (s : State),
     let m := s.meter
     let ops := [Instr.status crc, .readRecord crc seq n len, .readCert crc chain n len, .cut crc, .writeConfig crc i a,
       .fwPush crc fo data, .fwCommit crc, .reseal crc data]
     let tells (op : Instr) (code : Nat) (d : List Byte) := completes (exec op s) (fun u => u.resp = { bytes := d, status := code } ∧ u.meter = m)
     let broken (u : State) := u.meter.sealed = false ∧ u.meter.sealCnt = m.sealCnt + 1 ∧ u.meter.due = m.due ++ [8] ∧ u.resp = {}
     let img := m.image (1 - m.slot)
     let verdict := img.check (fun t => decide (t = 1 ∨ t = 2)) (0x80000 - 17344) Config.approvalDigest (fun g => decide (1 < g)) m.svn
     let key := Config.approvalDigest (bAt data 0)
     (∀ op ∈ ops, (s.pwr.standby = false → goesTo (exec op s) { s with resp := {} }) ∧
       (s.pwr.standby = true → m.running = false → tells op 0x0E07 []) ∧
       (s.pwr.standby = true → m.running = true → crc = false → tells op 0x0E02 [])) ∧
     (s.pwr.standby = true → m.running = true → crc = true →
       (∃ d, d.length = 28 ∧ leAt d 1 4 = m.sealCnt % 2 ^ 32 ∧ tells (.status crc) 0 d) ∧
       (len = 0 ∨ 4096 < len ∨ 17696 < n + len → tells (.readRecord crc seq n len) 0x0E01 []) ∧
       (0 < len → len ≤ 4096 → n + len ≤ 17696 →
         ((∀ r ∈ m.ring, r.1 ≠ seq.toNat) → tells (.readRecord crc seq n len) 0x0E06 []) ∧
         (∀ r, m.ring.find? (fun r => decide (r.1 = seq.toNat)) = some r → tells (.readRecord crc seq n len) 0 ((r.2.drop n).take len))) ∧
       (1 < chain → tells (.readCert crc chain n len) 0x0E01 []) ∧
       (chain ≤ 1 → tells (.readCert crc chain n len) 0
         (((if chain = 0 then Config.meterRsaChain else Config.meterSlhChain).drop n).take len)) ∧
       goesTo (exec (.cut crc) s) { s with meter := { m with due := m.due ++ [16] }, resp := {} } ∧
       (let good := 10 ≤ i.toNat ∧ i.toNat ≤ 3600 ∧ 0x08 ≤ a.toNat ∧ a.toNat ≤ 0x77
        (¬good → tells (.writeConfig crc i a) 0x0E01 []) ∧
        (good → i.toNat = m.interval → a.toNat = m.addr → tells (.writeConfig crc i a) 0 []) ∧
        (good → i.toNat ≠ m.interval ∨ a.toNat ≠ m.addr → completes (exec (.writeConfig crc i a) s) (fun u =>
          u.meter.interval = i.toNat ∧ u.meter.addr = a.toNat ∧ broken u))) ∧
       (2048 < data.length ∨ 0x80000 < fo.toNat + data.length → tells (.fwPush crc fo data) 0x0E01 []) ∧
       (data.length ≤ 2048 → fo.toNat + data.length ≤ 0x80000 → goesTo (exec (.fwPush crc fo data) s) { s with
         meter := { m with slots := Mem.putBytes m.slots ((1 - m.slot) * 0x80000 + fo.toNat) data }, resp := {} }) ∧
       (verdict = 0x0D04 → tells (.fwCommit crc) 0x0E01 []) ∧
       (img.svn ≤ 64 → img.minSvn ≤ 64 →
         (verdict = 0x0D03 → tells (.fwCommit crc) 0x0E05 []) ∧
         (verdict = 0x0D01 ∨ verdict = 0x0D02 ∨ verdict = 0x0D05 → tells (.fwCommit crc) 0x0E03 []) ∧
         (verdict = 0 → completes (exec (.fwCommit crc) s) (fun u => u.meter.slot = 1 - m.slot ∧ u.meter.running = false ∧ broken u))) ∧
       (data.length ≠ 16717 → tells (.reseal crc data) 0x0E01 []) ∧
       (data.length = 16717 → bAt data 0 < 2 → leAt data 1 8 = Config.serial.toNat →
         (data.drop 13).take 48 = Config.sha384 m.config → (data.drop 61).take 48 = Config.sha384 (m.image m.slot).header →
         Config.rsaVerify (key.take 48) (data.take 109) ((data.drop 109).take 384) = true →
         Config.slhVerify (key.drop 48) (data.take 109) ((data.drop 493).take 16224) = true →
         (leAt data 9 4 ≠ m.sealCnt → tells (.reseal crc data) 0x0E04 []) ∧
         (leAt data 9 4 = m.sealCnt → completes (exec (.reseal crc data) s) (fun u => u.meter.sealed = true ∧
           u.meter.sealCnt = m.sealCnt ∧ u.resp = {})))))

/-- R464 to R470: the log takes its queue's oldest event: below MIN_SEV, or with an empty bucket, it is only counted,
else it becomes a record under the next number; a bucket refills to BURST and then leaves its summary; a persistence
starts in each 600 s of CLK_TIME (counted from CLK_TIME 0, log entry 95), writes one image at a time into the next slot and
tries once more where it does not read back. R465, R471 to R473: each
second of the always-on island counts; a cursor goes to the first record of its function or to the end, and an advance
shows the next one and how many were lost; a clear with the key, by a physical function, leaves one record of itself. -/
def Obligations.AccessionLog : Prop :=
  (∀ (code : BitVec 16) (ok : Bool) (s : State),
     let l := s.log
     let tot (u : State) (k : Nat) := Tab.get z0 u.log.totals k = min (2 ^ 64 - 1) (Tab.get z0 l.totals k + 1)
     let recorded (u : State) (cd : Nat) (p : LogRec → Prop) := ∃ x, u.log.recs = l.recs ++ [x] ∧ x.num = l.next ∧
       u.log.next = l.next + 1 ∧ x.bytes.length = 32 ∧ leAt x.bytes 0 2 = cd % 2 ^ 16 ∧ leAt x.bytes 4 4 = l.opSec % 2 ^ 32 ∧ p x
     let bucket := l.buckets.find? (fun b => decide (b.code = code.toNat))
     let image (clean : Bool) : LogImage := ⟨l.imgSeq + 1, clean, l.recs, l.totals, l.next⟩
     let sum (b : Bucket) (x : LogRec) := bAt x.bytes 3 = 1 ∧ leAt x.bytes 16 4 = b.supp % 2 ^ 32
     (l.queue = [] → goesTo (exec .logEventTake s) s) ∧
     (∀ e r, l.queue = e :: r →
       (e.sev < s.logMinSev → completes (exec .logEventTake s) (fun u => u.log.queue = r ∧ u.log.recs = l.recs ∧ tot u 17)) ∧
       (∀ b rest, s.logMinSev ≤ e.sev → l.takeBucket e.code s.logBurst = some (b, rest) →
         (b.tokens = 0 → completes (exec .logEventTake s) (fun u => u.log.queue = r ∧ u.log.recs = l.recs ∧ tot u 16)) ∧
         (0 < b.tokens → l.recs.length < 4096 → completes (exec .logEventTake s) (fun u => u.log.queue = r ∧
           recorded u e.code (fun x => x.sev = e.sev ∧ x.part = e.part ∧ bAt x.bytes 3 = 0))))) ∧
     (bucket = none → goesTo (exec (.logTokenRefill code) s) s ∧ goesTo (exec (.logSummaryTimeout code) s) s) ∧
     (∀ b, bucket = some b →
       let full := 100000000 ≤ s.since b.since * s.logRate
       let old := 6000000000 ≤ s.since b.suppAt
       (s.logBurst ≤ b.tokens ∧ b.supp = 0 ∨ b.tokens < s.logBurst ∧ ¬full → goesTo (exec (.logTokenRefill code) s) s) ∧
       (s.logBurst ≤ b.tokens → b.supp ≠ 0 → l.recs.length < 4096 → completes (exec (.logTokenRefill code) s) (fun u =>
         recorded u code.toNat (sum b))) ∧
       (full → b.tokens < s.logBurst → b.supp = 0 ∨ b.tokens + 1 < s.logBurst → completes (exec (.logTokenRefill code) s) (fun u =>
         u.log.recs = l.recs ∧
         u.log.buckets.find? (fun x => decide (x.code = code.toNat)) = some { b with
           tokens := b.tokens + 1, since := b.since + 100000000 / s.logRate })) ∧
       (full → b.tokens + 1 = s.logBurst → b.supp ≠ 0 → l.recs.length < 4096 → completes (exec (.logTokenRefill code) s) (fun u =>
         recorded u code.toNat (sum b))) ∧
       (b.supp = 0 ∨ ¬old → goesTo (exec (.logSummaryTimeout code) s) s) ∧
       (b.supp ≠ 0 → old → l.recs.length < 4096 → completes (exec (.logSummaryTimeout code) s) (fun u => recorded u code.toNat (sum b)))) ∧
     let due := s.pwr.standby = true ∧ l.persistAt.toNat / 60000000000 < s.clk.toNat / 60000000000
     (¬due → goesTo (exec .logPersist s) s) ∧
     (due → l.writing ≠ none → completes (exec .logPersist s) (fun u => u.log.writing = l.writing ∧
       u.log.due = some (l.due.getD false) ∧ u.log.persistAt = s.clk)) ∧
     (l.writing = none → goesTo (exec (.logPersistWriteDone ok) s) s ∧ (due → completes (exec .logPersist s) (fun u =>
       u.log.writing = some (image false, false) ∧ u.log.slot = (l.slot + 1) % 32 ∧ u.log.persistAt = s.clk))) ∧
     (∀ i again, l.writing = some (i, again) → let next (u : State) := u.log.writing = l.due.map (fun c => (image c, false)) ∧ u.log.due = none
       (ok = true → completes (exec (.logPersistWriteDone ok) s) (fun u => next u ∧ Tab.get (fun _ => none) u.log.images l.slot = some i)) ∧
       (ok = false → again = false → completes (exec (.logPersistWriteDone ok) s) (fun u => u.log.writing = some (i, true) ∧
         u.log.slot = (l.slot + 1) % 32)) ∧
       (ok = false → again = true → completes (exec (.logPersistWriteDone ok) s) (fun u => next u ∧
         u.log.queue = putEvent l.queue ⟨0x0F22, 5, none, [], s.clk⟩)))) ∧
  (∀ (f : Fn) (atEnd : Bool) (key : BitVec 16) (s : State),
     let l := s.log
     let k := fnIdx f
     let c := l.cursor k
     (s.pwr.standby = false → goesTo (exec .opSecondsTick s) s) ∧
     (s.pwr.standby = true → goesTo (exec .opSecondsTick s) { s with log :=
       { l with opSec := l.opSec + 1, opSaved := if (l.opSec + 1) % 600 = 0 then l.opSec + 1 else l.opSaved } }) ∧
     (s.seesPage f logPage = false → goesTo (exec (.logCursor f atEnd) s) (s.access f) ∧
       goesTo (exec (.logWindowAdvance f) s) (s.access f) ∧ goesTo (exec (.logClear f key) s) (s.access f)) ∧
     (s.seesPage f logPage = true →
       completes (exec (.logCursor f atEnd) s) (fun u => u.log.recs = l.recs ∧ (u.log.cursor k).skipped = 0 ∧
         (u.log.cursor k).shown = s.nextRec k (if atEnd then l.next else 0) ∧ ∀ j, j ≠ k → u.log.cursor j = l.cursor j) ∧
       (c.shown = none → goesTo (exec (.logWindowAdvance f) s) (s.access f)) ∧
       (c.shown ≠ none → completes (exec (.logWindowAdvance f) s) (fun u => u.log.recs = l.recs ∧
         (u.log.cursor k).shown = s.nextRec k c.next ∧ (u.log.cursor k).skipped = c.lost ∧ (u.log.cursor k).lost = 0)) ∧
       ((∀ b, f ≠ .pf b) ∨ key ≠ 0xC1EA → goesTo (exec (.logClear f key) s) (s.access f)) ∧
       (∀ b, f = .pf b → key = 0xC1EA → completes (exec (.logClear f key) s) (fun u => ∃ x, u.log.recs = [x] ∧
         x.num = l.next ∧ leAt x.bytes 0 2 = 0x0F20 ∧ leAt x.bytes 20 4 = l.recs.length % 2 ^ 32 ∧
         (l.writing = none → ∃ i, u.log.writing = some (i, false) ∧ i.recs = [x]) ∧
         (l.writing ≠ none → u.log.due = some (l.due.getD false))))))

/-- R476, R478, R479, R484, R485: a read of BAR0 that is not of a 4- or 8-byte word is an Unsupported Request, counted;
a read of the low half of a 64-bit register latches its high half for the function; QUIESCE_REQ takes what is written to
a page that its function sees; a write changes the writable bits of its register alone and clears the W1C bits written
as 1. R364, R365, R426 (offsets from 2^24 on, where the model puts a function's configuration space, log entry 96): a
request is retried until start-up has ended, a read gives the words of the space and a write changes their writable bits
alone, but for Initiate Function Level Reset, which is an FLR. -/
def Obligations.RegisterAccess : Prop :=
  ∀ (f : Fn) (off : BitVec 25) (page : BitVec 24) (size : Nat) (q : Bool) (v : Word) (s : State),
    let o := off.toNat
    let a := o / 8 * 8
    let r := if o % 8 = 0 then s.conflicts f o else s
    let w := r.readWord f a
    let latch (u : State) := Tab.get (fun _ => none) u.latch (fnIdx f)
    let half := if size = 8 then 2 ^ 64 - 1 else (2 ^ 32 - 1) * 2 ^ (32 * (o % 8 / 4))
    let x : Word := if size = 8 then v else (v &&& 0xFFFFFFFF#64) <<< (32 * (o % 8 / 4))
    (o < cfgBase → badShape o size = true →
      completes (exec (.latchedLowRead f off size) s) (fun u => u.resp = { ur := true } ∧ counted s u 0xC0 1) ∧
      completes (exec (.registerWrite f off size v) s) (fun u => counted s u 0xC0 1 ∧ u.force = s.force ∧ u.parts = s.parts)) ∧
    (o < cfgBase → badShape o size = false →
      (size = 8 → completes (exec (.latchedLowRead f off size) s) (fun u => u.resp = { bytes := leBytes 8 w.toNat } ∧
        u.regs = r.regs ∧ latch u = none)) ∧
      (size = 4 → o % 8 = 0 → completes (exec (.latchedLowRead f off size) s) (fun u => u.resp = { bytes := leBytes 4 w.toNat } ∧
        u.regs = r.regs ∧ latch u = if twoRegs a then none else some (a, w))) ∧
      (∀ x, size = 4 → o % 8 = 4 → latch s = some (a, x) → completes (exec (.latchedLowRead f off size) s) (fun u =>
        u.resp = { bytes := leBytes 4 (x.toNat / 2 ^ 32) } ∧ u.regs = s.regs ∧ latch u = none)) ∧
      ((∀ c : CoreId, a ≠ coreP c + 0x88) → r.regs = s.regs)) ∧
    (∀ p, pageOf (keyOf f page.toNat) = some p →
      (s.seesPage f p = false → goesTo (exec (.quiesceReqWrite f page q) s) (s.access f)) ∧
      (s.seesPage f p = true → completes (exec (.quiesceReqWrite f page q) s) (fun u =>
        u.reg (p.base + 8) = putFld (s.reg (p.base + 8)) 1 1 (if q then 1 else 0) ∧ ∀ b, b ≠ p.base + 8 → u.reg b = s.reg b))) ∧
    (o < cfgBase → badShape o size = false → isLosw o = false →
      (s.sees f a = false → goesTo (exec (.registerWrite f off size v) s) (s.access f)) ∧
      (s.sees f a = true → breaksPartial o size = true →
        completes (exec (.registerWrite f off size v) s) (fun u => counted s u 0xC0 1 ∧ u.force = s.force)) ∧
      (∀ p, s.sees f a = true → breaksPartial o size = false → pageOf (keyOf f a) = some p →
        p.ty ∉ [PTy.host, .tp, .rollcall, .core, .carrel] → (p.ty = .archive → keyOf f a - p.base ≠ 0x48) →
        (p.ty = .exp → keyOf f a - p.base < 0x40 ∨ 0x60 ≤ keyOf f a - p.base) → 0x20 ≤ keyOf f a - p.base →
        let m := s.writable f p (keyOf f a) (keyOf f a - p.base) half
        completes (exec (.registerWrite f off size v) s) (fun u => u.force = s.force ∧ (∀ b, b ≠ keyOf f a → u.reg b = s.reg b) ∧
          u.reg (keyOf f a) = ((s.reg (keyOf f a) &&& ~~~(w64 m.1)) ||| (x &&& w64 m.1)) &&& ~~~(x &&& w64 m.2)))) ∧
    (o < cfgBase → badShape o size = false → isLosw o = true → s.seesLosw f o = true →
      let l (u : State) := u.losw (loswPart o) (loswSlot o)
      (o % 16 = 8 → size = 8 → completes (exec (.registerWrite f off size v) s) (fun u => (l u).req = v ∧ u.regs = s.regs)) ∧
      (o % 16 = 0 → size = 8 → v.toNat % 2 ^ 56 = 0 → lopAssigned (v.toNat / 2 ^ 56) = false → mayStart s f (loswPart o) (loswSlot o) →
        completes (exec (.registerWrite f off size v) s) (fun u => (l u).state = 4 ∧ (l u).op = v.toNat / 2 ^ 56 ∧
          (l u).error = if fnIsVf f = true ∧ v.toNat / 2 ^ 56 = 0x0B then 0x0A05 else 0x0A04))) ∧
    (cfgBase ≤ o →
      let k := fnIdx f
      let c := o - cfgBase
      let w := s.cfg k (c / 8 * 8)
      let there := f ≠ .sp ∧ s.fnThere f = true
      let ready := there ∧ s.cfgReady f = true ∧ cfgShape c size = true
      let answers (x : Resp) := goesTo (exec (.latchedLowRead f off size) s) { s with resp := x }
      (¬there ∨ s.cfgReady f = true ∧ cfgShape c size = false → answers { ur := true }) ∧
      (there → s.cfgReady f = false → answers { crs := true }) ∧
      (ready → answers { bytes := leBytes size (w.toNat / 2 ^ (8 * (c % 8))) }) ∧
      (¬ready → goesTo (exec (.registerWrite f off size v) s) s) ∧
      (ready → c < 0xFC0 → ∀ r, rowOf (cfgP k + 0x40 + c / 8 * 8) = some r →
        (c / 8 * 8 = 0x58 ∧ x.getLsbD 15 = true → ∃ t, exec (.flr f) t = exec (.registerWrite f off size v) s ∧ t.resp = s.resp ∧
          t.parts = s.parts ∧ t.hosts = s.hosts ∧ ∀ b, b ≠ cfgP k + 0x98 → t.reg b = s.reg b) ∧
        (¬(c / 8 * 8 = 0x58 ∧ x.getLsbD 15 = true) → completes (exec (.registerWrite f off size v) s) (fun u =>
          u.cfg k (c / 8 * 8) = ((w &&& ~~~(w64 (r.rw &&& half))) ||| (x &&& w64 half &&& w64 r.rw)) &&& ~~~(x &&& w64 half &&& w64 r.wc) ∧
          ∀ b, b < 0xFC0 → b ≠ c / 8 * 8 → u.cfg k b = s.cfg k b))))

/-- A step with a command at the front of the queue is that command's effect on the state with the queue's rest. R41:
with no command waiting a step only advances CLK_TIME (log entry 2: the model's choice of what passes in such a step).
-/
def Obligations.StepRunsTheQueue : Prop :=
  (∀ (c : Instr) (rest : List Instr) (s : State),
     step { s with pending := c :: rest } = exec c { s with pending := rest }) ∧
  (∀ s : State, s.pending = [] → goesTo (step s) { s with clk := s.clk + 1 })

/-- The frame of the thread and hart instructions. The frame of the commands of cores, engines, Collator and index. The
frame of the commands of the Desk, Gather, Carrel and Expanders. -/
def Obligations.FrameOfCoreSide : Prop :=
  (∀ (i : Instr) (l : List StatePart) (s t : State), threadTouches i = some l → exec i s = .next t → onlyParts l s t) ∧
  (∀ (i : Instr) (l : List StatePart) (s t : State), coreTouches i = some l → exec i s = .next t → onlyParts l s t) ∧
  (∀ (i : Instr) (l : List StatePart) (s t : State), deskTouches i = some l → exec i s = .next t → onlyParts l s t)

/-- The frame of the commands of the tiers and the Archive Controller. The frame of the commands of links, Roll Call,
host ports and partitions. The frame of the commands of the log, Colophon, the meter, power and the registers. -/
def Obligations.FrameOfTierLinkService : Prop :=
  (∀ (i : Instr) (l : List StatePart) (s t : State), tierTouches i = some l → exec i s = .next t → onlyParts l s t) ∧
  (∀ (i : Instr) (l : List StatePart) (s t : State), linkTouches i = some l → exec i s = .next t → onlyParts l s t) ∧
  (∀ (i : Instr) (l : List StatePart) (s t : State), serviceTouches i = some l → exec i s = .next t → onlyParts l s t)

/-- Every command, and the tick of an empty queue, keeps the tiers' memory in its canonical form (the model's own
invariant: no two entries for one byte, addresses rising, no entry that reads as an unlisted byte does). -/
def Obligations.MemoryStaysCanonical : Prop := ∀ (s t : State), memOk s → step s = .next t → memOk t

/-- R413, R426, R431: every step leaves RST_STATUS.PHASE at 0 to 9 or 15, RST_CAUSE.CAUSE at 1 to 5 and the supply's
target at a multiple of 5 mV from 650 to 850 mV. -/
def Obligations.PowerStaysLegal : Prop := ∀ (s t : State), powerOk s → step s = .next t → powerOk t

/-- R432, R437, R446: no step clears a fuse: FW_SVN, KEY_REVOKE, SEAL_COUNT and METER_SVN only rise, over every reset
too. -/
def Obligations.FusesOnlyRise : Prop := ∀ (s t : State), step s = .next t → fusesRise s t

/-- R12, R39, R52, R481, R482: the machine just after power-on (log entry 1) meets the invariants; its queue is empty,
CLK_TIME is 0, and registers and staged values in force are at the reset values of their tables: harts HALTED, counters
0. -/
def Obligations.ResetStartsLegal : Prop :=
  memOk State.reset ∧ powerOk State.reset ∧ State.reset.pending = [] ∧ State.reset.clk = 0 ∧
  (∀ a, State.reset.reg a = regReset a ∧ State.reset.inForce a = regReset a) ∧
  (∀ c : CoreId, regReset (coreP c + 0x48) = 0xF00 ∧ regReset (coreP c + 0x80) = 0 ∧ regReset (coreP c + 0xA0) = 0) ∧
  (∀ (c : CoreId) (t : CtxId), (State.reset.thr c t).st = .free ∧ ∀ i, (State.reset.thr c t).r i = 0)
end

