-- ==== Sys2Proof/Laws/Tab.lean ====
section
/-! SUPPORT. Laws of the canonical tables and memories: a read after a write, and that every write keeps the canonical
form. -/

namespace Sys2Proof

namespace Tab
variable {α : Type}

theorem lookup_erase (l : List (Nat × α)) (k j : Nat) :
    lookup (erase l k) j = if j = k then none else lookup l j := by
  induction l with
  | nil => simp [erase, lookup]
  | cons c r ih =>
    obtain ⟨i, v⟩ := c
    unfold erase at ih ⊢
    by_cases h : i = k
    · subst h
      simp only [List.filter_cons, bne_self_eq_false, Bool.false_eq_true, if_false, ih, lookup]
      by_cases hj : j = i
      · simp [hj]
      · simp [hj, Ne.symm hj]
    · simp only [List.filter_cons, bne_iff_ne, ne_eq, h, not_false_eq_true, if_true, lookup, ih]
      by_cases hj : i = j
      · subst hj; simp [h]
      · simp [hj]

theorem lookup_insert (l : List (Nat × α)) (k j : Nat) (v : α) (h : lookup l k = none) :
    lookup (insert l k v) j = if j = k then some v else lookup l j := by
  induction l with
  | nil => simp [insert, lookup, eq_comm]
  | cons c r ih =>
    obtain ⟨i, w⟩ := c
    have hi : i ≠ k := by
      intro e; subst e; simp [lookup] at h
    have hr : lookup r k = none := by simpa [lookup, hi] using h
    unfold insert
    split
    · simp only [lookup, eq_comm]
    · simp only [lookup, ih hr]
      by_cases hj : i = j
      · subst hj; simp [hi]
      · simp [hj]

/-- A read after a write: the value written at its key, the old value at every other. -/
theorem get_set [DecidableEq α] (d : Nat → α) (t : Tab α) (k j : Nat) (v : α) :
    get d (set d t k v) j = if j = k then v else get d t j := by
  have he : lookup (erase t.cells k) k = none := by simp [lookup_erase]
  unfold get set
  split
  · rename_i h
    simp only [lookup_erase]
    by_cases hj : j = k
    · subst hj; simp [h]
    · simp [hj]
  · simp only [lookup_insert _ _ _ _ he, lookup_erase]
    by_cases hj : j = k <;> simp [hj]

@[simp] theorem get_set_same [DecidableEq α] (d : Nat → α) (t : Tab α) (k : Nat) (v : α) : get d (set d t k v) k = v := by
  simp [get_set]

theorem get_set_other [DecidableEq α] (d : Nat → α) (t : Tab α) (k j : Nat) (v : α) (h : j ≠ k) :
    get d (set d t k v) j = get d t j := by
  simp [get_set, h]

@[simp] theorem get_empty (d : Nat → α) (k : Nat) : get d ⟨[]⟩ k = d k := rfl

theorem mem_insert {l : List (Nat × α)} {k : Nat} {v : α} {c : Nat × α} (h : c ∈ insert l k v) : c = (k, v) ∨ c ∈ l := by
  induction l with
  | nil => simpa [insert] using h
  | cons a r ih =>
    obtain ⟨i, w⟩ := a
    unfold insert at h
    split at h
    · simpa using h
    · simp only [List.mem_cons] at h ⊢
      rcases h with h | h
      · exact .inr (.inl h)
      · rcases ih h with h | h
        · exact .inl h
        · exact .inr (.inr h)

theorem insert_sorted {l : List (Nat × α)} {k : Nat} {v : α} (h : l.Pairwise (fun a b => a.1 < b.1))
    (hk : ∀ c ∈ l, c.1 ≠ k) : (insert l k v).Pairwise (fun a b => a.1 < b.1) := by
  induction l with
  | nil => simp [insert]
  | cons a r ih =>
    obtain ⟨i, w⟩ := a
    have hi := List.pairwise_cons.1 h
    unfold insert
    split
    · rename_i hlt
      refine List.pairwise_cons.2 ⟨?_, h⟩
      intro c hc
      rcases List.mem_cons.1 hc with e | e
      · subst e; exact hlt
      · exact lt_trans hlt (hi.1 c e)
    · rename_i hge
      refine List.pairwise_cons.2 ⟨?_, ih hi.2 (fun c hc => hk c (List.mem_cons_of_mem _ hc))⟩
      intro c hc
      rcases mem_insert hc with e | e
      · subst e
        have := hk (i, w) (List.mem_cons_self ..)
        simp only [ne_eq] at this
        show i < k
        omega
      · exact hi.1 c e

/-- A table that lists a part of a canonical one is canonical. -/
theorem wf_of_sublist [DecidableEq α] {d : Nat → α} {t : Tab α} {l : List (Nat × α)} (h : wf d t = true) (hl : l.Sublist t.cells) :
    wf d ⟨l⟩ = true := by
  simp only [wf, Bool.and_eq_true, decide_eq_true_eq, List.all_eq_true] at h ⊢
  exact ⟨h.1.sublist hl, fun c hc => h.2 c (hl.subset hc)⟩

theorem wf_filter [DecidableEq α] {d : Nat → α} {t : Tab α} (p : Nat × α → Bool) (h : wf d t = true) : wf d ⟨t.cells.filter p⟩ = true :=
  wf_of_sublist h List.filter_sublist

/-- Every write keeps the canonical form. -/
theorem wf_set [DecidableEq α] {d : Nat → α} {t : Tab α} (k : Nat) (v : α) (h : wf d t = true) : wf d (set d t k v) = true := by
  have he : wf d ⟨erase t.cells k⟩ = true := wf_of_sublist h List.filter_sublist
  unfold set
  split
  · exact he
  · rename_i hv
    simp only [wf, Bool.and_eq_true, decide_eq_true_eq, List.all_eq_true] at he ⊢
    refine ⟨insert_sorted he.1 ?_, ?_⟩
    · intro c hc
      have := (List.mem_filter.1 hc).2
      simpa using this
    · intro c hc
      rcases mem_insert hc with e | e
      · subst e; exact hv
      · exact he.2 c e

@[simp] theorem wf_empty [DecidableEq α] (d : Nat → α) : wf d (empty : Tab α) = true := by simp [wf, empty]
@[simp] theorem wf_nil [DecidableEq α] (d : Nat → α) : wf d (⟨[]⟩ : Tab α) = true := by simp [wf]

end Tab

namespace Mem

theorem rd_wr (m : Mem) (a b : Nat) (v : Byte) : rd (wr m a v) b = if b = a then v else rd m b := Tab.get_set ..

theorem wf_wr {m : Mem} (a : Nat) (v : Byte) (h : wf m = true) : wf (wr m a v) = true := Tab.wf_set a v h

theorem wf_putBytes {m : Mem} (a : Nat) (bs : List Byte) (h : wf m = true) : wf (putBytes m a bs) = true := by
  induction bs generalizing m a with
  | nil => exact h
  | cons b r ih => exact ih (a + 1) (wf_wr a b h)

theorem wf_putLe {m : Mem} (a n v : Nat) (h : wf m = true) : wf (putLe m a n v) = true := wf_putBytes a _ h

/-- The byte at `j` after the bytes `bs` have been written from `a` on. -/
theorem rd_putBytes (m : Mem) (a : Nat) (bs : List Byte) (j : Nat) :
    rd (putBytes m a bs) j = if a ≤ j ∧ j < a + bs.length then bs.getD (j - a) 0 else rd m j := by
  induction bs generalizing m a with
  | nil =>
    have h : ¬ (a ≤ j ∧ j < a + ([] : List Byte).length) := by simp only [List.length_nil]; omega
    rw [if_neg h]; rfl
  | cons b r ih =>
    rw [putBytes, ih, rd_wr]
    by_cases hj : j = a
    · subst hj
      simp
    · by_cases h : a + 1 ≤ j ∧ j < a + 1 + r.length
      · have h1 : a ≤ j ∧ j < a + (b :: r).length := by simp only [List.length_cons]; omega
        have h2 : j - a = (j - (a + 1)) + 1 := by omega
        rw [if_pos h, if_pos h1, h2]
        simp
      · have h1 : ¬ (a ≤ j ∧ j < a + (b :: r).length) := by simp only [List.length_cons]; omega
        rw [if_neg h, if_neg h1, if_neg hj]

/-- A write leaves every byte outside it alone. -/
theorem rd_putBytes_out (m : Mem) (a : Nat) (bs : List Byte) (j : Nat) (h : j < a ∨ a + bs.length ≤ j) :
    rd (putBytes m a bs) j = rd m j := by
  rw [rd_putBytes, if_neg (by omega)]

end Mem

end Sys2Proof
end

