-- ==== Sys2Proof/Laws/Keeps.lean ====
section
/-! SUPPORT. What no operation of the model undoes: the queue stays, the memory stays canonical, the power manager's values
stay legal, and the fuses only rise. One lemma per shared operation, in the files Keeps*.lean. -/

namespace Sys2Proof.Machine

/-- What every operation keeps. -/
def keeps (b s : State) : Prop :=
  s.pending = b.pending ∧ (memOk b → memOk s) ∧ (powerOk b → powerOk s) ∧ fusesRise b s

theorem keeps_refl (s : State) : keeps s s := ⟨rfl, id, id, by simp, by simp, le_refl _, le_refl _⟩

/-- Bits of `x` that `y` has and bits of `y` that `z` has. -/
theorem within_trans {w : Nat} {x y z : BitVec w} (h1 : x &&& ~~~y = 0) (h2 : y &&& ~~~z = 0) : x &&& ~~~z = 0 := by
  ext i hi
  have e1 := congrArg (fun v => v.getLsbD i) h1
  have e2 := congrArg (fun v => v.getLsbD i) h2
  simp [hi] at e1 e2 ⊢
  exact fun h => e2 (e1 h)

/-- A state that differs from `s` in none of the parts that `keeps` speaks of. -/
theorem keeps_mk {b s : State} {v1 : Nat} {v2 : Resp} {v3 : List (Nat × Nat)} {v4 : Tab Word} {v5 : Word} {v6 : Nat} {v7 : Tab Word} {v8 : Tab Word} {v9 : Tab (Option (Nat × Word))} {v10 : Tab Core} {v11 : Tab (Option Req)} {v12 : Desk} {v13 : Tab DeskPart} {v14 : List Merge} {v15 : Tab Part} {v17 : Tab Bool} {v18 : Tab Bool} {v19 : Tab TierPart} {v20 : Tab Expander} {v21 : Tab (Option MLoad)} {v22 : Tab Carrel} {v23 : Tab GuPart} {v24 : List (Bool × Msg)} {v25 : Tab Ns} {v26 : Tab (Option Nat)} {v27 : Tab LinkPort} {v28 : Tab LinkPart} {v29 : RollCall} {v30 : Tab HostFn} {v34 : Log}
    (h : keeps b s) : keeps b (State.mk s.pending v1 v2 v3 v4 v5 v6 v7 v8 v9 v10 v11 v12 v13 v14 v15 s.mem v17 v18 v19 v20 v21 v22 v23 v24 v25 v26 v27 v28 v29 v30 s.pwr s.colo s.meter v34) := h

/-- A state that differs from `s` in these parts too, each of them kept. -/
theorem keeps_by {b s t : State} (h : keeps b s) (h1 : t.pending = s.pending) (h2 : memOk s → memOk t) (h3 : powerOk s → powerOk t)
    (h4 : fusesRise s t) : keeps b t := by
  obtain ⟨a1, a2, a3, a4, a5, a6, a7⟩ := h
  obtain ⟨c1, c2, c3, c4⟩ := h4
  exact ⟨h1.trans a1, fun m => h2 (a2 m), fun m => h3 (a3 m), within_trans a4 c1, within_trans a5 c2, a6.trans c3, a7.trans c4⟩

theorem fusesRise_refl (s : State) : fusesRise s s := ⟨by simp, by simp, le_refl _, le_refl _⟩

/-- The same where the parts are replaced, each of them kept. -/
theorem keeps_mk' {b s : State} {v1 : Nat} {v2 : Resp} {v3 : List (Nat × Nat)} {v4 : Tab Word} {v5 : Word} {v6 : Nat} {v7 : Tab Word} {v8 : Tab Word} {v9 : Tab (Option (Nat × Word))} {v10 : Tab Core} {v11 : Tab (Option Req)} {v12 : Desk} {v13 : Tab DeskPart} {v14 : List Merge} {v15 : Tab Part} {v16 : Mem} {v17 : Tab Bool} {v18 : Tab Bool} {v19 : Tab TierPart} {v20 : Tab Expander} {v21 : Tab (Option MLoad)} {v22 : Tab Carrel} {v23 : Tab GuPart} {v24 : List (Bool × Msg)} {v25 : Tab Ns} {v26 : Tab (Option Nat)} {v27 : Tab LinkPort} {v28 : Tab LinkPart} {v29 : RollCall} {v30 : Tab HostFn} {v31 : Power} {v32 : Colophon} {v33 : Meter} {v34 : Log}
    (h2 : memOk s → Mem.wf v16 = true) (h3 : powerOk s → powerOk (State.mk s.pending v1 v2 v3 v4 v5 v6 v7 v8 v9 v10 v11 v12 v13 v14 v15 v16 v17 v18 v19 v20 v21 v22 v23 v24 v25 v26 v27 v28 v29 v30 v31 v32 v33 v34))
    (h4 : fusesRise s (State.mk s.pending v1 v2 v3 v4 v5 v6 v7 v8 v9 v10 v11 v12 v13 v14 v15 v16 v17 v18 v19 v20 v21 v22 v23 v24 v25 v26 v27 v28 v29 v30 v31 v32 v33 v34)) (h : keeps b s) : keeps b (State.mk s.pending v1 v2 v3 v4 v5 v6 v7 v8 v9 v10 v11 v12 v13 v14 v15 v16 v17 v18 v19 v20 v21 v22 v23 v24 v25 v26 v27 v28 v29 v30 v31 v32 v33 v34) :=
  keeps_by h rfl h2 h3 h4

theorem keeps_foldl {α : Type} {b : State} {f : State → α → State} (l : List α) {s : State}
    (hf : ∀ s x, keeps b s → keeps b (f s x)) (h : keeps b s) : keeps b (l.foldl f s) := by
  induction l generalizing s with
  | nil => exact h
  | cons x r ih => exact ih (hf s x h)

/-- A fold whose accumulator carries the state with something else. -/
theorem keeps_foldl_fst {α β : Type} {b : State} {f : State × β → α → State × β} (l : List α) {s : State × β}
    (hf : ∀ s x, keeps b s.1 → keeps b (f s x).1) (h : keeps b s.1) : keeps b (l.foldl f s).1 := by
  induction l generalizing s with
  | nil => exact h
  | cons x r ih => exact ih (hf s x h)

theorem keeps_foldl_snd {α β : Type} {b : State} {f : β × State → α → β × State} (l : List α) {s : β × State}
    (hf : ∀ s x, keeps b s.2 → keeps b (f s x).2) (h : keeps b s.2) : keeps b (l.foldl f s).2 := by
  induction l generalizing s with
  | nil => exact h
  | cons x r ih => exact ih (hf s x h)

theorem keeps_fst {α : Type} {b y : State} {x : State × α} {z : α} (e : x = (y, z)) (h : keeps b x.1) : keeps b y := by
  subst e; exact h
theorem keeps_snd {α : Type} {b y : State} {x : α × State} {z : α} (e : x = (z, y)) (h : keeps b x.2) : keeps b y := by
  subst e; exact h
theorem keeps_trd {α β : Type} {b y : State} {x : α × β × State} {z : α} {w : β} (e : x = (z, w, y)) (h : keeps b x.2.2) : keeps b y := by
  subst e; exact h

/-- Setting bits clears none. -/
theorem or_keeps {w : Nat} (x y : BitVec w) : x &&& ~~~(x ||| y) = 0 := by
  ext i
  simp
  exact fun h h' => by simp [h] at h'

theorem keeps_trans {a b s : State} (h : keeps a b) (h' : keeps b s) : keeps a s := by
  obtain ⟨c1, c2, c3, c4⟩ := h'
  exact keeps_by h c1 c2 c3 c4

end Sys2Proof.Machine
end

