-- ==== Sys2Proof/Laws/KeepsRegs.lean ====
section
/-! SUPPORT. What the operations of Machine/Regs.lean keep. -/

namespace Sys2Proof.Machine

set_option linter.unreachableTactic false
set_option linter.unusedTactic false
set_option linter.unusedVariables false

theorem State.setReg_keeps {B0 : State} (s : State) (a : Nat) (w : Word) (hk0 : keeps B0 s) :
    keeps B0 (State.setReg s a w) := by
  unfold State.setReg
  repeat' (first | with_reducible assumption | ((with_reducible refine keeps_foldl _ ?_ ?_); intro _ _ _) | ((with_reducible refine keeps_foldl_fst _ ?_ ?_); intro _ _ _) | ((with_reducible refine keeps_foldl_snd _ ?_ ?_); intro _ _ _) | intro _ | (with_reducible refine keeps_fst (by assumption) ?_) | (with_reducible refine keeps_snd (by assumption) ?_) | (with_reducible refine keeps_trd (by assumption) ?_) | split | dsimp only | fail_if_no_progress with_reducible apply keeps_mk | (fail_if_no_progress ((with_reducible refine keeps_mk' ?x1 ?x2 ?x3 ?_); (case x1 => first | exact fun h => h | exact fun h => Mem.wf_putBytes _ _ h | exact fun h => Tab.wf_filter _ h); (case x2 => exact fun h => h); (case x3 => exact fusesRise_refl _))))

theorem State.setForce_keeps {B0 : State} (s : State) (a : Nat) (w : Word) (hk0 : keeps B0 s) :
    keeps B0 (State.setForce s a w) := by
  unfold State.setForce
  repeat' (first | with_reducible assumption | ((with_reducible refine keeps_foldl _ ?_ ?_); intro _ _ _) | ((with_reducible refine keeps_foldl_fst _ ?_ ?_); intro _ _ _) | ((with_reducible refine keeps_foldl_snd _ ?_ ?_); intro _ _ _) | intro _ | (with_reducible refine keeps_fst (by assumption) ?_) | (with_reducible refine keeps_snd (by assumption) ?_) | (with_reducible refine keeps_trd (by assumption) ?_) | split | dsimp only | fail_if_no_progress with_reducible apply keeps_mk | (fail_if_no_progress ((with_reducible refine keeps_mk' ?x1 ?x2 ?x3 ?_); (case x1 => first | exact fun h => h | exact fun h => Mem.wf_putBytes _ _ h | exact fun h => Tab.wf_filter _ h); (case x2 => exact fun h => h); (case x3 => exact fusesRise_refl _))))

theorem State.applyStaged_keeps {B0 : State} (s : State) (p : Page) (hk0 : keeps B0 s) :
    keeps B0 (State.applyStaged s p) := by
  unfold State.applyStaged
  repeat' (first | with_reducible assumption | with_reducible apply State.setForce_keeps | ((with_reducible refine keeps_foldl _ ?_ ?_); intro _ _ _) | ((with_reducible refine keeps_foldl_fst _ ?_ ?_); intro _ _ _) | ((with_reducible refine keeps_foldl_snd _ ?_ ?_); intro _ _ _) | intro _ | (with_reducible refine keeps_fst (by assumption) ?_) | (with_reducible refine keeps_snd (by assumption) ?_) | (with_reducible refine keeps_trd (by assumption) ?_) | split | dsimp only | fail_if_no_progress with_reducible apply keeps_mk | (fail_if_no_progress ((with_reducible refine keeps_mk' ?x1 ?x2 ?x3 ?_); (case x1 => first | exact fun h => h | exact fun h => Mem.wf_putBytes _ _ h | exact fun h => Tab.wf_filter _ h); (case x2 => exact fun h => h); (case x3 => exact fusesRise_refl _))))

theorem State.bump_keeps {B0 : State} (s : State) (a : Nat) (n : Nat) (hk0 : keeps B0 s) :
    keeps B0 (State.bump s a n) := by
  unfold State.bump
  repeat' (first | with_reducible assumption | with_reducible apply State.setReg_keeps | ((with_reducible refine keeps_foldl _ ?_ ?_); intro _ _ _) | ((with_reducible refine keeps_foldl_fst _ ?_ ?_); intro _ _ _) | ((with_reducible refine keeps_foldl_snd _ ?_ ?_); intro _ _ _) | intro _ | (with_reducible refine keeps_fst (by assumption) ?_) | (with_reducible refine keeps_snd (by assumption) ?_) | (with_reducible refine keeps_trd (by assumption) ?_) | split | dsimp only | fail_if_no_progress with_reducible apply keeps_mk | (fail_if_no_progress ((with_reducible refine keeps_mk' ?x1 ?x2 ?x3 ?_); (case x1 => first | exact fun h => h | exact fun h => Mem.wf_putBytes _ _ h | exact fun h => Tab.wf_filter _ h); (case x2 => exact fun h => h); (case x3 => exact fusesRise_refl _))))

theorem State.setField_keeps {B0 : State} (s : State) (a : Nat) (lo : Nat) (n : Nat) (v : Nat) (hk0 : keeps B0 s) :
    keeps B0 (State.setField s a lo n v) := by
  unfold State.setField
  repeat' (first | with_reducible assumption | with_reducible apply State.setReg_keeps | ((with_reducible refine keeps_foldl _ ?_ ?_); intro _ _ _) | ((with_reducible refine keeps_foldl_fst _ ?_ ?_); intro _ _ _) | ((with_reducible refine keeps_foldl_snd _ ?_ ?_); intro _ _ _) | intro _ | (with_reducible refine keeps_fst (by assumption) ?_) | (with_reducible refine keeps_snd (by assumption) ?_) | (with_reducible refine keeps_trd (by assumption) ?_) | split | dsimp only | fail_if_no_progress with_reducible apply keeps_mk | (fail_if_no_progress ((with_reducible refine keeps_mk' ?x1 ?x2 ?x3 ?_); (case x1 => first | exact fun h => h | exact fun h => Mem.wf_putBytes _ _ h | exact fun h => Tab.wf_filter _ h); (case x2 => exact fun h => h); (case x3 => exact fusesRise_refl _))))

theorem State.access_keeps {B0 : State} (s : State) (f : Fn) (hk0 : keeps B0 s) :
    keeps B0 (State.access s f) := by
  unfold State.access
  repeat' (first | with_reducible assumption | ((with_reducible refine keeps_foldl _ ?_ ?_); intro _ _ _) | ((with_reducible refine keeps_foldl_fst _ ?_ ?_); intro _ _ _) | ((with_reducible refine keeps_foldl_snd _ ?_ ?_); intro _ _ _) | intro _ | (with_reducible refine keeps_fst (by assumption) ?_) | (with_reducible refine keeps_snd (by assumption) ?_) | (with_reducible refine keeps_trd (by assumption) ?_) | split | dsimp only | fail_if_no_progress with_reducible apply keeps_mk | (fail_if_no_progress ((with_reducible refine keeps_mk' ?x1 ?x2 ?x3 ?_); (case x1 => first | exact fun h => h | exact fun h => Mem.wf_putBytes _ _ h | exact fun h => Tab.wf_filter _ h); (case x2 => exact fun h => h); (case x3 => exact fusesRise_refl _))))

theorem State.sendMsix_keeps {B0 : State} (s : State) (k : Nat) (v : Nat) (hk0 : keeps B0 s) :
    keeps B0 (State.sendMsix s k v) := by
  unfold State.sendMsix
  repeat' (first | with_reducible assumption | with_reducible apply State.bump_keeps | with_reducible apply State.setReg_keeps | ((with_reducible refine keeps_foldl _ ?_ ?_); intro _ _ _) | ((with_reducible refine keeps_foldl_fst _ ?_ ?_); intro _ _ _) | ((with_reducible refine keeps_foldl_snd _ ?_ ?_); intro _ _ _) | intro _ | (with_reducible refine keeps_fst (by assumption) ?_) | (with_reducible refine keeps_snd (by assumption) ?_) | (with_reducible refine keeps_trd (by assumption) ?_) | split | dsimp only | fail_if_no_progress with_reducible apply keeps_mk | (fail_if_no_progress ((with_reducible refine keeps_mk' ?x1 ?x2 ?x3 ?_); (case x1 => first | exact fun h => h | exact fun h => Mem.wf_putBytes _ _ h | exact fun h => Tab.wf_filter _ h); (case x2 => exact fun h => h); (case x3 => exact fusesRise_refl _))))

theorem State.signal_keeps {B0 : State} (s : State) (p : Page) (hk0 : keeps B0 s) :
    keeps B0 (State.signal s p) := by
  unfold State.signal
  repeat' (first | with_reducible assumption | with_reducible apply State.sendMsix_keeps | ((with_reducible refine keeps_foldl _ ?_ ?_); intro _ _ _) | ((with_reducible refine keeps_foldl_fst _ ?_ ?_); intro _ _ _) | ((with_reducible refine keeps_foldl_snd _ ?_ ?_); intro _ _ _) | intro _ | (with_reducible refine keeps_fst (by assumption) ?_) | (with_reducible refine keeps_snd (by assumption) ?_) | (with_reducible refine keeps_trd (by assumption) ?_) | split | dsimp only | fail_if_no_progress with_reducible apply keeps_mk | (fail_if_no_progress ((with_reducible refine keeps_mk' ?x1 ?x2 ?x3 ?_); (case x1 => first | exact fun h => h | exact fun h => Mem.wf_putBytes _ _ h | exact fun h => Tab.wf_filter _ h); (case x2 => exact fun h => h); (case x3 => exact fusesRise_refl _))))

theorem State.setIrqOut_keeps {B0 : State} (s : State) (base : Nat) (w : Word) (hk0 : keeps B0 s) :
    keeps B0 (State.setIrqOut s base w) := by
  unfold State.setIrqOut
  repeat' (first | with_reducible assumption | ((with_reducible refine keeps_foldl _ ?_ ?_); intro _ _ _) | ((with_reducible refine keeps_foldl_fst _ ?_ ?_); intro _ _ _) | ((with_reducible refine keeps_foldl_snd _ ?_ ?_); intro _ _ _) | intro _ | (with_reducible refine keeps_fst (by assumption) ?_) | (with_reducible refine keeps_snd (by assumption) ?_) | (with_reducible refine keeps_trd (by assumption) ?_) | split | dsimp only | fail_if_no_progress with_reducible apply keeps_mk | (fail_if_no_progress ((with_reducible refine keeps_mk' ?x1 ?x2 ?x3 ?_); (case x1 => first | exact fun h => h | exact fun h => Mem.wf_putBytes _ _ h | exact fun h => Tab.wf_filter _ h); (case x2 => exact fun h => h); (case x3 => exact fusesRise_refl _))))

theorem State.signalBits_keeps {B0 : State} (s : State) (p : Page) (m : Word) (hk0 : keeps B0 s) :
    keeps B0 (State.signalBits s p m) := by
  unfold State.signalBits
  repeat' (first | with_reducible assumption | with_reducible apply State.setIrqOut_keeps | with_reducible apply State.signal_keeps | ((with_reducible refine keeps_foldl _ ?_ ?_); intro _ _ _) | ((with_reducible refine keeps_foldl_fst _ ?_ ?_); intro _ _ _) | ((with_reducible refine keeps_foldl_snd _ ?_ ?_); intro _ _ _) | intro _ | (with_reducible refine keeps_fst (by assumption) ?_) | (with_reducible refine keeps_snd (by assumption) ?_) | (with_reducible refine keeps_trd (by assumption) ?_) | split | dsimp only | fail_if_no_progress with_reducible apply keeps_mk | (fail_if_no_progress ((with_reducible refine keeps_mk' ?x1 ?x2 ?x3 ?_); (case x1 => first | exact fun h => h | exact fun h => Mem.wf_putBytes _ _ h | exact fun h => Tab.wf_filter _ h); (case x2 => exact fun h => h); (case x3 => exact fusesRise_refl _))))

theorem State.setIrq_keeps {B0 : State} (s : State) (base : Nat) (b : Nat) (hk0 : keeps B0 s) :
    keeps B0 (State.setIrq s base b) := by
  unfold State.setIrq
  repeat' (first | with_reducible assumption | with_reducible apply State.signalBits_keeps | with_reducible apply State.setReg_keeps | ((with_reducible refine keeps_foldl _ ?_ ?_); intro _ _ _) | ((with_reducible refine keeps_foldl_fst _ ?_ ?_); intro _ _ _) | ((with_reducible refine keeps_foldl_snd _ ?_ ?_); intro _ _ _) | intro _ | (with_reducible refine keeps_fst (by assumption) ?_) | (with_reducible refine keeps_snd (by assumption) ?_) | (with_reducible refine keeps_trd (by assumption) ?_) | split | dsimp only | fail_if_no_progress with_reducible apply keeps_mk | (fail_if_no_progress ((with_reducible refine keeps_mk' ?x1 ?x2 ?x3 ?_); (case x1 => first | exact fun h => h | exact fun h => Mem.wf_putBytes _ _ h | exact fun h => Tab.wf_filter _ h); (case x2 => exact fun h => h); (case x3 => exact fusesRise_refl _))))

theorem State.setErr_keeps {B0 : State} (s : State) (base : Nat) (b : Nat) (hk0 : keeps B0 s) :
    keeps B0 (State.setErr s base b) := by
  unfold State.setErr
  repeat' (first | with_reducible assumption | with_reducible apply State.setIrq_keeps | with_reducible apply State.setReg_keeps | ((with_reducible refine keeps_foldl _ ?_ ?_); intro _ _ _) | ((with_reducible refine keeps_foldl_fst _ ?_ ?_); intro _ _ _) | ((with_reducible refine keeps_foldl_snd _ ?_ ?_); intro _ _ _) | intro _ | (with_reducible refine keeps_fst (by assumption) ?_) | (with_reducible refine keeps_snd (by assumption) ?_) | (with_reducible refine keeps_trd (by assumption) ?_) | split | dsimp only | fail_if_no_progress with_reducible apply keeps_mk | (fail_if_no_progress ((with_reducible refine keeps_mk' ?x1 ?x2 ?x3 ?_); (case x1 => first | exact fun h => h | exact fun h => Mem.wf_putBytes _ _ h | exact fun h => Tab.wf_filter _ h); (case x2 => exact fun h => h); (case x3 => exact fusesRise_refl _))))

theorem State.commit_keeps {B0 : State} (s : State) (f : Fn) (p : Page) (check : State → Commit) (after : State → State) (h_after : ∀ s, keeps B0 s → keeps B0 (after s)) (hk0 : keeps B0 s) :
    keeps B0 (State.commit s f p check after) := by
  unfold State.commit
  repeat' (first | with_reducible assumption | with_reducible apply State.applyStaged_keeps | with_reducible apply State.setErr_keeps | apply h_after | ((with_reducible refine keeps_foldl _ ?_ ?_); intro _ _ _) | ((with_reducible refine keeps_foldl_fst _ ?_ ?_); intro _ _ _) | ((with_reducible refine keeps_foldl_snd _ ?_ ?_); intro _ _ _) | intro _ | (with_reducible refine keeps_fst (by assumption) ?_) | (with_reducible refine keeps_snd (by assumption) ?_) | (with_reducible refine keeps_trd (by assumption) ?_) | split | dsimp only | fail_if_no_progress with_reducible apply keeps_mk | (fail_if_no_progress ((with_reducible refine keeps_mk' ?x1 ?x2 ?x3 ?_); (case x1 => first | exact fun h => h | exact fun h => Mem.wf_putBytes _ _ h | exact fun h => Tab.wf_filter _ h); (case x2 => exact fun h => h); (case x3 => exact fusesRise_refl _))))

theorem State.badAccess_keeps {B0 : State} (s : State) (f : Fn) (off : Nat) (hk0 : keeps B0 s) :
    keeps B0 (State.badAccess s f off) := by
  unfold State.badAccess
  repeat' (first | with_reducible assumption | with_reducible apply State.setErr_keeps | with_reducible apply State.bump_keeps | ((with_reducible refine keeps_foldl _ ?_ ?_); intro _ _ _) | ((with_reducible refine keeps_foldl_fst _ ?_ ?_); intro _ _ _) | ((with_reducible refine keeps_foldl_snd _ ?_ ?_); intro _ _ _) | intro _ | (with_reducible refine keeps_fst (by assumption) ?_) | (with_reducible refine keeps_snd (by assumption) ?_) | (with_reducible refine keeps_trd (by assumption) ?_) | split | dsimp only | fail_if_no_progress with_reducible apply keeps_mk | (fail_if_no_progress ((with_reducible refine keeps_mk' ?x1 ?x2 ?x3 ?_); (case x1 => first | exact fun h => h | exact fun h => Mem.wf_putBytes _ _ h | exact fun h => Tab.wf_filter _ h); (case x2 => exact fun h => h); (case x3 => exact fusesRise_refl _))))

end Sys2Proof.Machine
end

