-- ==== Sys2Proof/Laws/KeepsOps.lean ====
section
/-! SUPPORT. What the operations of Machine/Ops.lean keep. -/

namespace Sys2Proof.Machine

set_option linter.unreachableTactic false
set_option linter.unusedTactic false
set_option linter.unusedVariables false

theorem State.setCore_keeps {B0 : State} (s : State) (c : Nat) (k : Core) (hk0 : keeps B0 s) :
    keeps B0 (State.setCore s c k) := by
  unfold State.setCore
  repeat' (first | with_reducible assumption | ((with_reducible refine keeps_foldl _ ?_ ?_); intro _ _ _) | ((with_reducible refine keeps_foldl_fst _ ?_ ?_); intro _ _ _) | ((with_reducible refine keeps_foldl_snd _ ?_ ?_); intro _ _ _) | intro _ | (with_reducible refine keeps_fst (by assumption) ?_) | (with_reducible refine keeps_snd (by assumption) ?_) | (with_reducible refine keeps_trd (by assumption) ?_) | split | dsimp only | fail_if_no_progress with_reducible apply keeps_mk | (fail_if_no_progress ((with_reducible refine keeps_mk' ?x1 ?x2 ?x3 ?_); (case x1 => first | exact fun h => h | exact fun h => Mem.wf_putBytes _ _ h | exact fun h => Tab.wf_filter _ h); (case x2 => exact fun h => h); (case x3 => exact fusesRise_refl _))))

theorem State.modCore_keeps {B0 : State} (s : State) (c : Nat) (f : Core → Core) (hk0 : keeps B0 s) :
    keeps B0 (State.modCore s c f) := by
  unfold State.modCore
  repeat' (first | with_reducible assumption | with_reducible apply State.setCore_keeps | ((with_reducible refine keeps_foldl _ ?_ ?_); intro _ _ _) | ((with_reducible refine keeps_foldl_fst _ ?_ ?_); intro _ _ _) | ((with_reducible refine keeps_foldl_snd _ ?_ ?_); intro _ _ _) | intro _ | (with_reducible refine keeps_fst (by assumption) ?_) | (with_reducible refine keeps_snd (by assumption) ?_) | (with_reducible refine keeps_trd (by assumption) ?_) | split | dsimp only | fail_if_no_progress with_reducible apply keeps_mk | (fail_if_no_progress ((with_reducible refine keeps_mk' ?x1 ?x2 ?x3 ?_); (case x1 => first | exact fun h => h | exact fun h => Mem.wf_putBytes _ _ h | exact fun h => Tab.wf_filter _ h); (case x2 => exact fun h => h); (case x3 => exact fusesRise_refl _))))

theorem State.setThr_keeps {B0 : State} (s : State) (c : Nat) (t : Nat) (x : Thread) (hk0 : keeps B0 s) :
    keeps B0 (State.setThr s c t x) := by
  unfold State.setThr
  repeat' (first | with_reducible assumption | with_reducible apply State.modCore_keeps | ((with_reducible refine keeps_foldl _ ?_ ?_); intro _ _ _) | ((with_reducible refine keeps_foldl_fst _ ?_ ?_); intro _ _ _) | ((with_reducible refine keeps_foldl_snd _ ?_ ?_); intro _ _ _) | intro _ | (with_reducible refine keeps_fst (by assumption) ?_) | (with_reducible refine keeps_snd (by assumption) ?_) | (with_reducible refine keeps_trd (by assumption) ?_) | split | dsimp only | fail_if_no_progress with_reducible apply keeps_mk | (fail_if_no_progress ((with_reducible refine keeps_mk' ?x1 ?x2 ?x3 ?_); (case x1 => first | exact fun h => h | exact fun h => Mem.wf_putBytes _ _ h | exact fun h => Tab.wf_filter _ h); (case x2 => exact fun h => h); (case x3 => exact fusesRise_refl _))))

theorem State.modThr_keeps {B0 : State} (s : State) (c : Nat) (t : Nat) (f : Thread → Thread) (hk0 : keeps B0 s) :
    keeps B0 (State.modThr s c t f) := by
  unfold State.modThr
  repeat' (first | with_reducible assumption | with_reducible apply State.setThr_keeps | ((with_reducible refine keeps_foldl _ ?_ ?_); intro _ _ _) | ((with_reducible refine keeps_foldl_fst _ ?_ ?_); intro _ _ _) | ((with_reducible refine keeps_foldl_snd _ ?_ ?_); intro _ _ _) | intro _ | (with_reducible refine keeps_fst (by assumption) ?_) | (with_reducible refine keeps_snd (by assumption) ?_) | (with_reducible refine keeps_trd (by assumption) ?_) | split | dsimp only | fail_if_no_progress with_reducible apply keeps_mk | (fail_if_no_progress ((with_reducible refine keeps_mk' ?x1 ?x2 ?x3 ?_); (case x1 => first | exact fun h => h | exact fun h => Mem.wf_putBytes _ _ h | exact fun h => Tab.wf_filter _ h); (case x2 => exact fun h => h); (case x3 => exact fusesRise_refl _))))

theorem State.modGrp_keeps {B0 : State} (s : State) (c : Nat) (g : Nat) (f : Group → Group) (hk0 : keeps B0 s) :
    keeps B0 (State.modGrp s c g f) := by
  unfold State.modGrp
  repeat' (first | with_reducible assumption | with_reducible apply State.modCore_keeps | ((with_reducible refine keeps_foldl _ ?_ ?_); intro _ _ _) | ((with_reducible refine keeps_foldl_fst _ ?_ ?_); intro _ _ _) | ((with_reducible refine keeps_foldl_snd _ ?_ ?_); intro _ _ _) | intro _ | (with_reducible refine keeps_fst (by assumption) ?_) | (with_reducible refine keeps_snd (by assumption) ?_) | (with_reducible refine keeps_trd (by assumption) ?_) | split | dsimp only | fail_if_no_progress with_reducible apply keeps_mk | (fail_if_no_progress ((with_reducible refine keeps_mk' ?x1 ?x2 ?x3 ?_); (case x1 => first | exact fun h => h | exact fun h => Mem.wf_putBytes _ _ h | exact fun h => Tab.wf_filter _ h); (case x2 => exact fun h => h); (case x3 => exact fusesRise_refl _))))

theorem State.noteCore_keeps {B0 : State} (s : State) (c : Nat) (hk0 : keeps B0 s) :
    keeps B0 (State.noteCore s c) := by
  unfold State.noteCore
  repeat' (first | with_reducible assumption | ((with_reducible refine keeps_foldl _ ?_ ?_); intro _ _ _) | ((with_reducible refine keeps_foldl_fst _ ?_ ?_); intro _ _ _) | ((with_reducible refine keeps_foldl_snd _ ?_ ?_); intro _ _ _) | intro _ | (with_reducible refine keeps_fst (by assumption) ?_) | (with_reducible refine keeps_snd (by assumption) ?_) | (with_reducible refine keeps_trd (by assumption) ?_) | split | dsimp only | fail_if_no_progress with_reducible apply keeps_mk | (fail_if_no_progress ((with_reducible refine keeps_mk' ?x1 ?x2 ?x3 ?_); (case x1 => first | exact fun h => h | exact fun h => Mem.wf_putBytes _ _ h | exact fun h => Tab.wf_filter _ h); (case x2 => exact fun h => h); (case x3 => exact fusesRise_refl _))))

theorem State.noteFreq_keeps {B0 : State} (s : State) (hk0 : keeps B0 s) :
    keeps B0 (State.noteFreq s) := by
  unfold State.noteFreq
  repeat' (first | with_reducible assumption | with_reducible apply State.noteCore_keeps | ((with_reducible refine keeps_foldl _ ?_ ?_); intro _ _ _) | ((with_reducible refine keeps_foldl_fst _ ?_ ?_); intro _ _ _) | ((with_reducible refine keeps_foldl_snd _ ?_ ?_); intro _ _ _) | intro _ | (with_reducible refine keeps_fst (by assumption) ?_) | (with_reducible refine keeps_snd (by assumption) ?_) | (with_reducible refine keeps_trd (by assumption) ?_) | split | dsimp only | fail_if_no_progress with_reducible apply keeps_mk | (fail_if_no_progress ((with_reducible refine keeps_mk' ?x1 ?x2 ?x3 ?_); (case x1 => first | exact fun h => h | exact fun h => Mem.wf_putBytes _ _ h | exact fun h => Tab.wf_filter _ h); (case x2 => exact fun h => h); (case x3 => exact fusesRise_refl _))))

theorem State.writeScr_keeps {B0 : State} (s : State) (c : Nat) (a : Nat) (bs : List Byte) (hk0 : keeps B0 s) :
    keeps B0 (State.writeScr s c a bs) := by
  unfold State.writeScr
  repeat' (first | with_reducible assumption | with_reducible apply State.modCore_keeps | ((with_reducible refine keeps_foldl _ ?_ ?_); intro _ _ _) | ((with_reducible refine keeps_foldl_fst _ ?_ ?_); intro _ _ _) | ((with_reducible refine keeps_foldl_snd _ ?_ ?_); intro _ _ _) | intro _ | (with_reducible refine keeps_fst (by assumption) ?_) | (with_reducible refine keeps_snd (by assumption) ?_) | (with_reducible refine keeps_trd (by assumption) ?_) | split | dsimp only | fail_if_no_progress with_reducible apply keeps_mk | (fail_if_no_progress ((with_reducible refine keeps_mk' ?x1 ?x2 ?x3 ?_); (case x1 => first | exact fun h => h | exact fun h => Mem.wf_putBytes _ _ h | exact fun h => Tab.wf_filter _ h); (case x2 => exact fun h => h); (case x3 => exact fusesRise_refl _))))

theorem State.fresh_keeps {B0 : State} (s : State) (hk0 : keeps B0 s) :
    keeps B0 (State.fresh s).2 := by
  unfold State.fresh
  repeat' (first | with_reducible assumption | ((with_reducible refine keeps_foldl _ ?_ ?_); intro _ _ _) | ((with_reducible refine keeps_foldl_fst _ ?_ ?_); intro _ _ _) | ((with_reducible refine keeps_foldl_snd _ ?_ ?_); intro _ _ _) | intro _ | (with_reducible refine keeps_fst (by assumption) ?_) | (with_reducible refine keeps_snd (by assumption) ?_) | (with_reducible refine keeps_trd (by assumption) ?_) | split | dsimp only | fail_if_no_progress with_reducible apply keeps_mk | (fail_if_no_progress ((with_reducible refine keeps_mk' ?x1 ?x2 ?x3 ?_); (case x1 => first | exact fun h => h | exact fun h => Mem.wf_putBytes _ _ h | exact fun h => Tab.wf_filter _ h); (case x2 => exact fun h => h); (case x3 => exact fusesRise_refl _))))

theorem State.logEv_keeps {B0 : State} (s : State) (code : Nat) (sev : Nat) (part : Option Nat) (data : List Byte) (hk0 : keeps B0 s) :
    keeps B0 (State.logEv s code sev part data) := by
  unfold State.logEv
  repeat' (first | with_reducible assumption | ((with_reducible refine keeps_foldl _ ?_ ?_); intro _ _ _) | ((with_reducible refine keeps_foldl_fst _ ?_ ?_); intro _ _ _) | ((with_reducible refine keeps_foldl_snd _ ?_ ?_); intro _ _ _) | intro _ | (with_reducible refine keeps_fst (by assumption) ?_) | (with_reducible refine keeps_snd (by assumption) ?_) | (with_reducible refine keeps_trd (by assumption) ?_) | split | dsimp only | fail_if_no_progress with_reducible apply keeps_mk | (fail_if_no_progress ((with_reducible refine keeps_mk' ?x1 ?x2 ?x3 ?_); (case x1 => first | exact fun h => h | exact fun h => Mem.wf_putBytes _ _ h | exact fun h => Tab.wf_filter _ h); (case x2 => exact fun h => h); (case x3 => exact fusesRise_refl _))))

theorem State.meterAdd_keeps {B0 : State} (s : State) (p : Nat) (k : Nat) (n : Nat) (hk0 : keeps B0 s) :
    keeps B0 (State.meterAdd s p k n) := by
  unfold State.meterAdd
  repeat' (first | with_reducible assumption | ((with_reducible refine keeps_foldl _ ?_ ?_); intro _ _ _) | ((with_reducible refine keeps_foldl_fst _ ?_ ?_); intro _ _ _) | ((with_reducible refine keeps_foldl_snd _ ?_ ?_); intro _ _ _) | intro _ | (with_reducible refine keeps_fst (by assumption) ?_) | (with_reducible refine keeps_snd (by assumption) ?_) | (with_reducible refine keeps_trd (by assumption) ?_) | split | dsimp only | fail_if_no_progress with_reducible apply keeps_mk | (fail_if_no_progress ((with_reducible refine keeps_mk' ?x1 ?x2 ?x3 ?_); (case x1 => first | exact fun h => h | exact fun h => Mem.wf_putBytes _ _ h | exact fun h => Tab.wf_filter _ h); (case x2 => exact fun h => h); (case x3 => exact fusesRise_refl _))))

theorem State.waitCycles_keeps {B0 : State} (s : State) (a : Nat) (hk0 : keeps B0 s) :
    keeps B0 (State.waitCycles s a) := by
  unfold State.waitCycles
  repeat' (first | with_reducible assumption | with_reducible apply State.bump_keeps | ((with_reducible refine keeps_foldl _ ?_ ?_); intro _ _ _) | ((with_reducible refine keeps_foldl_fst _ ?_ ?_); intro _ _ _) | ((with_reducible refine keeps_foldl_snd _ ?_ ?_); intro _ _ _) | intro _ | (with_reducible refine keeps_fst (by assumption) ?_) | (with_reducible refine keeps_snd (by assumption) ?_) | (with_reducible refine keeps_trd (by assumption) ?_) | split | dsimp only | fail_if_no_progress with_reducible apply keeps_mk | (fail_if_no_progress ((with_reducible refine keeps_mk' ?x1 ?x2 ?x3 ?_); (case x1 => first | exact fun h => h | exact fun h => Mem.wf_putBytes _ _ h | exact fun h => Tab.wf_filter _ h); (case x2 => exact fun h => h); (case x3 => exact fusesRise_refl _))))

theorem State.waitUpTo_keeps {B0 : State} (s : State) (a : Nat) (n : Nat) (hk0 : keeps B0 s) :
    keeps B0 (State.waitUpTo s a n) := by
  unfold State.waitUpTo
  repeat' (first | with_reducible assumption | with_reducible apply State.bump_keeps | ((with_reducible refine keeps_foldl _ ?_ ?_); intro _ _ _) | ((with_reducible refine keeps_foldl_fst _ ?_ ?_); intro _ _ _) | ((with_reducible refine keeps_foldl_snd _ ?_ ?_); intro _ _ _) | intro _ | (with_reducible refine keeps_fst (by assumption) ?_) | (with_reducible refine keeps_snd (by assumption) ?_) | (with_reducible refine keeps_trd (by assumption) ?_) | split | dsimp only | fail_if_no_progress with_reducible apply keeps_mk | (fail_if_no_progress ((with_reducible refine keeps_mk' ?x1 ?x2 ?x3 ?_); (case x1 => first | exact fun h => h | exact fun h => Mem.wf_putBytes _ _ h | exact fun h => Tab.wf_filter _ h); (case x2 => exact fun h => h); (case x3 => exact fusesRise_refl _))))

theorem State.modPart_keeps {B0 : State} (s : State) (p : Nat) (f : Part → Part) (hk0 : keeps B0 s) :
    keeps B0 (State.modPart s p f) := by
  unfold State.modPart
  repeat' (first | with_reducible assumption | ((with_reducible refine keeps_foldl _ ?_ ?_); intro _ _ _) | ((with_reducible refine keeps_foldl_fst _ ?_ ?_); intro _ _ _) | ((with_reducible refine keeps_foldl_snd _ ?_ ?_); intro _ _ _) | intro _ | (with_reducible refine keeps_fst (by assumption) ?_) | (with_reducible refine keeps_snd (by assumption) ?_) | (with_reducible refine keeps_trd (by assumption) ?_) | split | dsimp only | fail_if_no_progress with_reducible apply keeps_mk | (fail_if_no_progress ((with_reducible refine keeps_mk' ?x1 ?x2 ?x3 ?_); (case x1 => first | exact fun h => h | exact fun h => Mem.wf_putBytes _ _ h | exact fun h => Tab.wf_filter _ h); (case x2 => exact fun h => h); (case x3 => exact fusesRise_refl _))))

theorem State.modDk_keeps {B0 : State} (s : State) (p : Nat) (f : DeskPart → DeskPart) (hk0 : keeps B0 s) :
    keeps B0 (State.modDk s p f) := by
  unfold State.modDk
  repeat' (first | with_reducible assumption | ((with_reducible refine keeps_foldl _ ?_ ?_); intro _ _ _) | ((with_reducible refine keeps_foldl_fst _ ?_ ?_); intro _ _ _) | ((with_reducible refine keeps_foldl_snd _ ?_ ?_); intro _ _ _) | intro _ | (with_reducible refine keeps_fst (by assumption) ?_) | (with_reducible refine keeps_snd (by assumption) ?_) | (with_reducible refine keeps_trd (by assumption) ?_) | split | dsimp only | fail_if_no_progress with_reducible apply keeps_mk | (fail_if_no_progress ((with_reducible refine keeps_mk' ?x1 ?x2 ?x3 ?_); (case x1 => first | exact fun h => h | exact fun h => Mem.wf_putBytes _ _ h | exact fun h => Tab.wf_filter _ h); (case x2 => exact fun h => h); (case x3 => exact fusesRise_refl _))))

theorem State.modStep_keeps {B0 : State} (s : State) (p : Nat) (f : Step → Step) (hk0 : keeps B0 s) :
    keeps B0 (State.modStep s p f) := by
  unfold State.modStep
  repeat' (first | with_reducible assumption | with_reducible apply State.modDk_keeps | ((with_reducible refine keeps_foldl _ ?_ ?_); intro _ _ _) | ((with_reducible refine keeps_foldl_fst _ ?_ ?_); intro _ _ _) | ((with_reducible refine keeps_foldl_snd _ ?_ ?_); intro _ _ _) | intro _ | (with_reducible refine keeps_fst (by assumption) ?_) | (with_reducible refine keeps_snd (by assumption) ?_) | (with_reducible refine keeps_trd (by assumption) ?_) | split | dsimp only | fail_if_no_progress with_reducible apply keeps_mk | (fail_if_no_progress ((with_reducible refine keeps_mk' ?x1 ?x2 ?x3 ?_); (case x1 => first | exact fun h => h | exact fun h => Mem.wf_putBytes _ _ h | exact fun h => Tab.wf_filter _ h); (case x2 => exact fun h => h); (case x3 => exact fusesRise_refl _))))

theorem State.modDesk_keeps {B0 : State} (s : State) (f : Desk → Desk) (hk0 : keeps B0 s) :
    keeps B0 (State.modDesk s f) := by
  unfold State.modDesk
  repeat' (first | with_reducible assumption | ((with_reducible refine keeps_foldl _ ?_ ?_); intro _ _ _) | ((with_reducible refine keeps_foldl_fst _ ?_ ?_); intro _ _ _) | ((with_reducible refine keeps_foldl_snd _ ?_ ?_); intro _ _ _) | intro _ | (with_reducible refine keeps_fst (by assumption) ?_) | (with_reducible refine keeps_snd (by assumption) ?_) | (with_reducible refine keeps_trd (by assumption) ?_) | split | dsimp only | fail_if_no_progress with_reducible apply keeps_mk | (fail_if_no_progress ((with_reducible refine keeps_mk' ?x1 ?x2 ?x3 ?_); (case x1 => first | exact fun h => h | exact fun h => Mem.wf_putBytes _ _ h | exact fun h => Tab.wf_filter _ h); (case x2 => exact fun h => h); (case x3 => exact fusesRise_refl _))))

theorem State.setQuery_keeps {B0 : State} (s : State) (q : Nat) (x : Option Query) (hk0 : keeps B0 s) :
    keeps B0 (State.setQuery s q x) := by
  unfold State.setQuery
  repeat' (first | with_reducible assumption | with_reducible apply State.modDesk_keeps | ((with_reducible refine keeps_foldl _ ?_ ?_); intro _ _ _) | ((with_reducible refine keeps_foldl_fst _ ?_ ?_); intro _ _ _) | ((with_reducible refine keeps_foldl_snd _ ?_ ?_); intro _ _ _) | intro _ | (with_reducible refine keeps_fst (by assumption) ?_) | (with_reducible refine keeps_snd (by assumption) ?_) | (with_reducible refine keeps_trd (by assumption) ?_) | split | dsimp only | fail_if_no_progress with_reducible apply keeps_mk | (fail_if_no_progress ((with_reducible refine keeps_mk' ?x1 ?x2 ?x3 ?_); (case x1 => first | exact fun h => h | exact fun h => Mem.wf_putBytes _ _ h | exact fun h => Tab.wf_filter _ h); (case x2 => exact fun h => h); (case x3 => exact fusesRise_refl _))))

theorem State.modQuery_keeps {B0 : State} (s : State) (q : Nat) (f : Query → Query) (hk0 : keeps B0 s) :
    keeps B0 (State.modQuery s q f) := by
  unfold State.modQuery
  repeat' (first | with_reducible assumption | with_reducible apply State.setQuery_keeps | ((with_reducible refine keeps_foldl _ ?_ ?_); intro _ _ _) | ((with_reducible refine keeps_foldl_fst _ ?_ ?_); intro _ _ _) | ((with_reducible refine keeps_foldl_snd _ ?_ ?_); intro _ _ _) | intro _ | (with_reducible refine keeps_fst (by assumption) ?_) | (with_reducible refine keeps_snd (by assumption) ?_) | (with_reducible refine keeps_trd (by assumption) ?_) | split | dsimp only | fail_if_no_progress with_reducible apply keeps_mk | (fail_if_no_progress ((with_reducible refine keeps_mk' ?x1 ?x2 ?x3 ?_); (case x1 => first | exact fun h => h | exact fun h => Mem.wf_putBytes _ _ h | exact fun h => Tab.wf_filter _ h); (case x2 => exact fun h => h); (case x3 => exact fusesRise_refl _))))

theorem State.failQuery_keeps {B0 : State} (s : State) (q : Nat) (code : Nat) (hk0 : keeps B0 s) :
    keeps B0 (State.failQuery s q code) := by
  unfold State.failQuery
  repeat' (first | with_reducible assumption | with_reducible apply State.modQuery_keeps | ((with_reducible refine keeps_foldl _ ?_ ?_); intro _ _ _) | ((with_reducible refine keeps_foldl_fst _ ?_ ?_); intro _ _ _) | ((with_reducible refine keeps_foldl_snd _ ?_ ?_); intro _ _ _) | intro _ | (with_reducible refine keeps_fst (by assumption) ?_) | (with_reducible refine keeps_snd (by assumption) ?_) | (with_reducible refine keeps_trd (by assumption) ?_) | split | dsimp only | fail_if_no_progress with_reducible apply keeps_mk | (fail_if_no_progress ((with_reducible refine keeps_mk' ?x1 ?x2 ?x3 ?_); (case x1 => first | exact fun h => h | exact fun h => Mem.wf_putBytes _ _ h | exact fun h => Tab.wf_filter _ h); (case x2 => exact fun h => h); (case x3 => exact fusesRise_refl _))))

theorem State.deskFault_keeps {B0 : State} (s : State) (c : Nat) (x : Group) (code : Nat) (hk0 : keeps B0 s) :
    keeps B0 (State.deskFault s c x code) := by
  unfold State.deskFault
  repeat' (first | with_reducible assumption | with_reducible apply State.failQuery_keeps | with_reducible apply State.modStep_keeps | ((with_reducible refine keeps_foldl _ ?_ ?_); intro _ _ _) | ((with_reducible refine keeps_foldl_fst _ ?_ ?_); intro _ _ _) | ((with_reducible refine keeps_foldl_snd _ ?_ ?_); intro _ _ _) | intro _ | (with_reducible refine keeps_fst (by assumption) ?_) | (with_reducible refine keeps_snd (by assumption) ?_) | (with_reducible refine keeps_trd (by assumption) ?_) | split | dsimp only | fail_if_no_progress with_reducible apply keeps_mk | (fail_if_no_progress ((with_reducible refine keeps_mk' ?x1 ?x2 ?x3 ?_); (case x1 => first | exact fun h => h | exact fun h => Mem.wf_putBytes _ _ h | exact fun h => Tab.wf_filter _ h); (case x2 => exact fun h => h); (case x3 => exact fusesRise_refl _))))

theorem State.layerGdone_keeps {B0 : State} (s : State) (c : Nat) (x : Group) (hk0 : keeps B0 s) :
    keeps B0 (State.layerGdone s c x) := by
  unfold State.layerGdone
  repeat' (first | with_reducible assumption | with_reducible apply State.modStep_keeps | ((with_reducible refine keeps_foldl _ ?_ ?_); intro _ _ _) | ((with_reducible refine keeps_foldl_fst _ ?_ ?_); intro _ _ _) | ((with_reducible refine keeps_foldl_snd _ ?_ ?_); intro _ _ _) | intro _ | (with_reducible refine keeps_fst (by assumption) ?_) | (with_reducible refine keeps_snd (by assumption) ?_) | (with_reducible refine keeps_trd (by assumption) ?_) | split | dsimp only | fail_if_no_progress with_reducible apply keeps_mk | (fail_if_no_progress ((with_reducible refine keeps_mk' ?x1 ?x2 ?x3 ?_); (case x1 => first | exact fun h => h | exact fun h => Mem.wf_putBytes _ _ h | exact fun h => Tab.wf_filter _ h); (case x2 => exact fun h => h); (case x3 => exact fusesRise_refl _))))

theorem State.setReq_keeps {B0 : State} (s : State) (i : Nat) (r : Option Req) (hk0 : keeps B0 s) :
    keeps B0 (State.setReq s i r) := by
  unfold State.setReq
  repeat' (first | with_reducible assumption | ((with_reducible refine keeps_foldl _ ?_ ?_); intro _ _ _) | ((with_reducible refine keeps_foldl_fst _ ?_ ?_); intro _ _ _) | ((with_reducible refine keeps_foldl_snd _ ?_ ?_); intro _ _ _) | intro _ | (with_reducible refine keeps_fst (by assumption) ?_) | (with_reducible refine keeps_snd (by assumption) ?_) | (with_reducible refine keeps_trd (by assumption) ?_) | split | dsimp only | fail_if_no_progress with_reducible apply keeps_mk | (fail_if_no_progress ((with_reducible refine keeps_mk' ?x1 ?x2 ?x3 ?_); (case x1 => first | exact fun h => h | exact fun h => Mem.wf_putBytes _ _ h | exact fun h => Tab.wf_filter _ h); (case x2 => exact fun h => h); (case x3 => exact fusesRise_refl _))))

theorem State.newReq_keeps {B0 : State} (s : State) (r : Req) (hk0 : keeps B0 s) :
    keeps B0 (State.newReq s r).2 := by
  unfold State.newReq
  repeat' (first | with_reducible assumption | with_reducible apply State.setReq_keeps | ((with_reducible refine keeps_foldl _ ?_ ?_); intro _ _ _) | ((with_reducible refine keeps_foldl_fst _ ?_ ?_); intro _ _ _) | ((with_reducible refine keeps_foldl_snd _ ?_ ?_); intro _ _ _) | intro _ | (with_reducible refine keeps_fst (by assumption) ?_) | (with_reducible refine keeps_snd (by assumption) ?_) | (with_reducible refine keeps_trd (by assumption) ?_) | split | dsimp only | fail_if_no_progress with_reducible apply keeps_mk | (fail_if_no_progress ((with_reducible refine keeps_mk' ?x1 ?x2 ?x3 ?_); (case x1 => first | exact fun h => h | exact fun h => Mem.wf_putBytes _ _ h | exact fun h => Tab.wf_filter _ h); (case x2 => exact fun h => h); (case x3 => exact fusesRise_refl _))))

theorem State.wakeIf_keeps {B0 : State} (s : State) (c : Nat) (p : Thread → Bool) (f : Thread → Thread) (hk0 : keeps B0 s) :
    keeps B0 (State.wakeIf s c p f) := by
  unfold State.wakeIf
  repeat' (first | with_reducible assumption | with_reducible apply State.setThr_keeps | ((with_reducible refine keeps_foldl _ ?_ ?_); intro _ _ _) | ((with_reducible refine keeps_foldl_fst _ ?_ ?_); intro _ _ _) | ((with_reducible refine keeps_foldl_snd _ ?_ ?_); intro _ _ _) | intro _ | (with_reducible refine keeps_fst (by assumption) ?_) | (with_reducible refine keeps_snd (by assumption) ?_) | (with_reducible refine keeps_trd (by assumption) ?_) | split | dsimp only | fail_if_no_progress with_reducible apply keeps_mk | (fail_if_no_progress ((with_reducible refine keeps_mk' ?x1 ?x2 ?x3 ?_); (case x1 => first | exact fun h => h | exact fun h => Mem.wf_putBytes _ _ h | exact fun h => Tab.wf_filter _ h); (case x2 => exact fun h => h); (case x3 => exact fusesRise_refl _))))

theorem State.wakeUnit_keeps {B0 : State} (s : State) (c : Nat) (hk0 : keeps B0 s) :
    keeps B0 (State.wakeUnit s c) := by
  unfold State.wakeUnit
  repeat' (first | with_reducible assumption | with_reducible apply State.wakeIf_keeps | ((with_reducible refine keeps_foldl _ ?_ ?_); intro _ _ _) | ((with_reducible refine keeps_foldl_fst _ ?_ ?_); intro _ _ _) | ((with_reducible refine keeps_foldl_snd _ ?_ ?_); intro _ _ _) | intro _ | (with_reducible refine keeps_fst (by assumption) ?_) | (with_reducible refine keeps_snd (by assumption) ?_) | (with_reducible refine keeps_trd (by assumption) ?_) | split | dsimp only | fail_if_no_progress with_reducible apply keeps_mk | (fail_if_no_progress ((with_reducible refine keeps_mk' ?x1 ?x2 ?x3 ?_); (case x1 => first | exact fun h => h | exact fun h => Mem.wf_putBytes _ _ h | exact fun h => Tab.wf_filter _ h); (case x2 => exact fun h => h); (case x3 => exact fusesRise_refl _))))

theorem State.gsig_keeps {B0 : State} (s : State) (c : Nat) (g : Nat) (hk0 : keeps B0 s) :
    keeps B0 (State.gsig s c g) := by
  unfold State.gsig
  repeat' (first | with_reducible assumption | with_reducible apply State.wakeIf_keeps | with_reducible apply State.modGrp_keeps | ((with_reducible refine keeps_foldl _ ?_ ?_); intro _ _ _) | ((with_reducible refine keeps_foldl_fst _ ?_ ?_); intro _ _ _) | ((with_reducible refine keeps_foldl_snd _ ?_ ?_); intro _ _ _) | intro _ | (with_reducible refine keeps_fst (by assumption) ?_) | (with_reducible refine keeps_snd (by assumption) ?_) | (with_reducible refine keeps_trd (by assumption) ?_) | split | dsimp only | fail_if_no_progress with_reducible apply keeps_mk | (fail_if_no_progress ((with_reducible refine keeps_mk' ?x1 ?x2 ?x3 ?_); (case x1 => first | exact fun h => h | exact fun h => Mem.wf_putBytes _ _ h | exact fun h => Tab.wf_filter _ h); (case x2 => exact fun h => h); (case x3 => exact fusesRise_refl _))))

theorem State.closeLists_keeps {B0 : State} (s : State) (c : Nat) (g : Nat) (hk0 : keeps B0 s) :
    keeps B0 (State.closeLists s c g) := by
  unfold State.closeLists
  repeat' (first | with_reducible assumption | with_reducible apply State.modCore_keeps | ((with_reducible refine keeps_foldl _ ?_ ?_); intro _ _ _) | ((with_reducible refine keeps_foldl_fst _ ?_ ?_); intro _ _ _) | ((with_reducible refine keeps_foldl_snd _ ?_ ?_); intro _ _ _) | intro _ | (with_reducible refine keeps_fst (by assumption) ?_) | (with_reducible refine keeps_snd (by assumption) ?_) | (with_reducible refine keeps_trd (by assumption) ?_) | split | dsimp only | fail_if_no_progress with_reducible apply keeps_mk | (fail_if_no_progress ((with_reducible refine keeps_mk' ?x1 ?x2 ?x3 ?_); (case x1 => first | exact fun h => h | exact fun h => Mem.wf_putBytes _ _ h | exact fun h => Tab.wf_filter _ h); (case x2 => exact fun h => h); (case x3 => exact fusesRise_refl _))))

theorem State.freeGroup_keeps {B0 : State} (s : State) (c : Nat) (g : Nat) (hk0 : keeps B0 s) :
    keeps B0 (State.freeGroup s c g) := by
  unfold State.freeGroup
  repeat' (first | with_reducible assumption | with_reducible apply State.modCore_keeps | with_reducible apply State.closeLists_keeps | ((with_reducible refine keeps_foldl _ ?_ ?_); intro _ _ _) | ((with_reducible refine keeps_foldl_fst _ ?_ ?_); intro _ _ _) | ((with_reducible refine keeps_foldl_snd _ ?_ ?_); intro _ _ _) | intro _ | (with_reducible refine keeps_fst (by assumption) ?_) | (with_reducible refine keeps_snd (by assumption) ?_) | (with_reducible refine keeps_trd (by assumption) ?_) | split | dsimp only | fail_if_no_progress with_reducible apply keeps_mk | (fail_if_no_progress ((with_reducible refine keeps_mk' ?x1 ?x2 ?x3 ?_); (case x1 => first | exact fun h => h | exact fun h => Mem.wf_putBytes _ _ h | exact fun h => Tab.wf_filter _ h); (case x2 => exact fun h => h); (case x3 => exact fusesRise_refl _))))

theorem State.tryFree_keeps {B0 : State} (s : State) (c : Nat) (g : Nat) (hk0 : keeps B0 s) :
    keeps B0 (State.tryFree s c g) := by
  unfold State.tryFree
  repeat' (first | with_reducible assumption | with_reducible apply State.freeGroup_keeps | ((with_reducible refine keeps_foldl _ ?_ ?_); intro _ _ _) | ((with_reducible refine keeps_foldl_fst _ ?_ ?_); intro _ _ _) | ((with_reducible refine keeps_foldl_snd _ ?_ ?_); intro _ _ _) | intro _ | (with_reducible refine keeps_fst (by assumption) ?_) | (with_reducible refine keeps_snd (by assumption) ?_) | (with_reducible refine keeps_trd (by assumption) ?_) | split | dsimp only | fail_if_no_progress with_reducible apply keeps_mk | (fail_if_no_progress ((with_reducible refine keeps_mk' ?x1 ?x2 ?x3 ?_); (case x1 => first | exact fun h => h | exact fun h => Mem.wf_putBytes _ _ h | exact fun h => Tab.wf_filter _ h); (case x2 => exact fun h => h); (case x3 => exact fusesRise_refl _))))

theorem State.dropHeld_keeps {B0 : State} (s : State) (c : Nat) (g : Nat) (hk0 : keeps B0 s) :
    keeps B0 (State.dropHeld s c g) := by
  unfold State.dropHeld
  repeat' (first | with_reducible assumption | with_reducible apply State.wakeUnit_keeps | with_reducible apply State.bump_keeps | with_reducible apply State.modCore_keeps | ((with_reducible refine keeps_foldl _ ?_ ?_); intro _ _ _) | ((with_reducible refine keeps_foldl_fst _ ?_ ?_); intro _ _ _) | ((with_reducible refine keeps_foldl_snd _ ?_ ?_); intro _ _ _) | intro _ | (with_reducible refine keeps_fst (by assumption) ?_) | (with_reducible refine keeps_snd (by assumption) ?_) | (with_reducible refine keeps_trd (by assumption) ?_) | split | dsimp only | fail_if_no_progress with_reducible apply keeps_mk | (fail_if_no_progress ((with_reducible refine keeps_mk' ?x1 ?x2 ?x3 ?_); (case x1 => first | exact fun h => h | exact fun h => Mem.wf_putBytes _ _ h | exact fun h => Tab.wf_filter _ h); (case x2 => exact fun h => h); (case x3 => exact fusesRise_refl _))))

theorem State.killGroup_keeps {B0 : State} (s : State) (c : Nat) (g : Nat) (hk0 : keeps B0 s) :
    keeps B0 (State.killGroup s c g) := by
  unfold State.killGroup
  repeat' (first | with_reducible assumption | with_reducible apply State.tryFree_keeps | with_reducible apply State.modThr_keeps | with_reducible apply State.modGrp_keeps | with_reducible apply State.closeLists_keeps | with_reducible apply State.bump_keeps | with_reducible apply State.dropHeld_keeps | ((with_reducible refine keeps_foldl _ ?_ ?_); intro _ _ _) | ((with_reducible refine keeps_foldl_fst _ ?_ ?_); intro _ _ _) | ((with_reducible refine keeps_foldl_snd _ ?_ ?_); intro _ _ _) | intro _ | (with_reducible refine keeps_fst (by assumption) ?_) | (with_reducible refine keeps_snd (by assumption) ?_) | (with_reducible refine keeps_trd (by assumption) ?_) | split | dsimp only | fail_if_no_progress with_reducible apply keeps_mk | (fail_if_no_progress ((with_reducible refine keeps_mk' ?x1 ?x2 ?x3 ?_); (case x1 => first | exact fun h => h | exact fun h => Mem.wf_putBytes _ _ h | exact fun h => Tab.wf_filter _ h); (case x2 => exact fun h => h); (case x3 => exact fusesRise_refl _))))

theorem State.releaseHandles_keeps {B0 : State} (s : State) (c : Nat) (h : Nat) (hk0 : keeps B0 s) :
    keeps B0 (State.releaseHandles s c h) := by
  unfold State.releaseHandles
  repeat' (first | with_reducible assumption | with_reducible apply State.modDk_keeps | with_reducible apply State.modCore_keeps | ((with_reducible refine keeps_foldl _ ?_ ?_); intro _ _ _) | ((with_reducible refine keeps_foldl_fst _ ?_ ?_); intro _ _ _) | ((with_reducible refine keeps_foldl_snd _ ?_ ?_); intro _ _ _) | intro _ | (with_reducible refine keeps_fst (by assumption) ?_) | (with_reducible refine keeps_snd (by assumption) ?_) | (with_reducible refine keeps_trd (by assumption) ?_) | split | dsimp only | fail_if_no_progress with_reducible apply keeps_mk | (fail_if_no_progress ((with_reducible refine keeps_mk' ?x1 ?x2 ?x3 ?_); (case x1 => first | exact fun h => h | exact fun h => Mem.wf_putBytes _ _ h | exact fun h => Tab.wf_filter _ h); (case x2 => exact fun h => h); (case x3 => exact fusesRise_refl _))))

theorem State.haltHart_keeps {B0 : State} (s : State) (c : Nat) (h : Nat) (hk0 : keeps B0 s) :
    keeps B0 (State.haltHart s c h) := by
  unfold State.haltHart
  repeat' (first | with_reducible assumption | with_reducible apply State.wakeUnit_keeps | with_reducible apply State.releaseHandles_keeps | with_reducible apply State.modThr_keeps | with_reducible apply State.setField_keeps | ((with_reducible refine keeps_foldl _ ?_ ?_); intro _ _ _) | ((with_reducible refine keeps_foldl_fst _ ?_ ?_); intro _ _ _) | ((with_reducible refine keeps_foldl_snd _ ?_ ?_); intro _ _ _) | intro _ | (with_reducible refine keeps_fst (by assumption) ?_) | (with_reducible refine keeps_snd (by assumption) ?_) | (with_reducible refine keeps_trd (by assumption) ?_) | split | dsimp only | fail_if_no_progress with_reducible apply keeps_mk | (fail_if_no_progress ((with_reducible refine keeps_mk' ?x1 ?x2 ?x3 ?_); (case x1 => first | exact fun h => h | exact fun h => Mem.wf_putBytes _ _ h | exact fun h => Tab.wf_filter _ h); (case x2 => exact fun h => h); (case x3 => exact fusesRise_refl _))))

theorem State.recordFault_keeps {B0 : State} (s : State) (c : Nat) (ctx : Nat) (grp : Nat) (code : Nat) (pc : BitVec 16) (addr : Word) (hk0 : keeps B0 s) :
    keeps B0 (State.recordFault s c ctx grp code pc addr) := by
  unfold State.recordFault
  repeat' (first | with_reducible assumption | with_reducible apply State.setReg_keeps | ((with_reducible refine keeps_foldl _ ?_ ?_); intro _ _ _) | ((with_reducible refine keeps_foldl_fst _ ?_ ?_); intro _ _ _) | ((with_reducible refine keeps_foldl_snd _ ?_ ?_); intro _ _ _) | intro _ | (with_reducible refine keeps_fst (by assumption) ?_) | (with_reducible refine keeps_snd (by assumption) ?_) | (with_reducible refine keeps_trd (by assumption) ?_) | split | dsimp only | fail_if_no_progress with_reducible apply keeps_mk | (fail_if_no_progress ((with_reducible refine keeps_mk' ?x1 ?x2 ?x3 ?_); (case x1 => first | exact fun h => h | exact fun h => Mem.wf_putBytes _ _ h | exact fun h => Tab.wf_filter _ h); (case x2 => exact fun h => h); (case x3 => exact fusesRise_refl _))))

theorem State.groupFault_keeps {B0 : State} (s : State) (c : Nat) (g : Nat) (ctx : Nat) (code : Nat) (pc : BitVec 16) (addr : Word) (hk0 : keeps B0 s) :
    keeps B0 (State.groupFault s c g ctx code pc addr) := by
  unfold State.groupFault
  repeat' (first | with_reducible assumption | with_reducible apply State.killGroup_keeps | with_reducible apply State.deskFault_keeps | with_reducible apply State.recordFault_keeps | with_reducible apply State.modGrp_keeps | with_reducible apply State.bump_keeps | ((with_reducible refine keeps_foldl _ ?_ ?_); intro _ _ _) | ((with_reducible refine keeps_foldl_fst _ ?_ ?_); intro _ _ _) | ((with_reducible refine keeps_foldl_snd _ ?_ ?_); intro _ _ _) | intro _ | (with_reducible refine keeps_fst (by assumption) ?_) | (with_reducible refine keeps_snd (by assumption) ?_) | (with_reducible refine keeps_trd (by assumption) ?_) | split | dsimp only | fail_if_no_progress with_reducible apply keeps_mk | (fail_if_no_progress ((with_reducible refine keeps_mk' ?x1 ?x2 ?x3 ?_); (case x1 => first | exact fun h => h | exact fun h => Mem.wf_putBytes _ _ h | exact fun h => Tab.wf_filter _ h); (case x2 => exact fun h => h); (case x3 => exact fusesRise_refl _))))

theorem State.hartFault_keeps {B0 : State} (s : State) (c : Nat) (h : Nat) (code : Nat) (pc : BitVec 16) (addr : Word) (hk0 : keeps B0 s) :
    keeps B0 (State.hartFault s c h code pc addr) := by
  unfold State.hartFault
  repeat' (first | with_reducible assumption | with_reducible apply State.haltHart_keeps | with_reducible apply State.modCore_keeps | with_reducible apply State.setField_keeps | with_reducible apply State.recordFault_keeps | with_reducible apply State.bump_keeps | ((with_reducible refine keeps_foldl _ ?_ ?_); intro _ _ _) | ((with_reducible refine keeps_foldl_fst _ ?_ ?_); intro _ _ _) | ((with_reducible refine keeps_foldl_snd _ ?_ ?_); intro _ _ _) | intro _ | (with_reducible refine keeps_fst (by assumption) ?_) | (with_reducible refine keeps_snd (by assumption) ?_) | (with_reducible refine keeps_trd (by assumption) ?_) | split | dsimp only | fail_if_no_progress with_reducible apply keeps_mk | (fail_if_no_progress ((with_reducible refine keeps_mk' ?x1 ?x2 ?x3 ?_); (case x1 => first | exact fun h => h | exact fun h => Mem.wf_putBytes _ _ h | exact fun h => Tab.wf_filter _ h); (case x2 => exact fun h => h); (case x3 => exact fusesRise_refl _))))

theorem State.faultWith_keeps {B0 : State} (s : State) (c : Nat) (t : Nat) (held : Option Nat) (ord : Nat) (code : Nat) (pc : BitVec 16) (addr : Word) (hk0 : keeps B0 s) :
    keeps B0 (State.faultWith s c t held ord code pc addr) := by
  unfold State.faultWith
  repeat' (first | with_reducible assumption | with_reducible apply State.groupFault_keeps | with_reducible apply State.modCore_keeps | with_reducible apply State.setThr_keeps | with_reducible apply State.hartFault_keeps | ((with_reducible refine keeps_foldl _ ?_ ?_); intro _ _ _) | ((with_reducible refine keeps_foldl_fst _ ?_ ?_); intro _ _ _) | ((with_reducible refine keeps_foldl_snd _ ?_ ?_); intro _ _ _) | intro _ | (with_reducible refine keeps_fst (by assumption) ?_) | (with_reducible refine keeps_snd (by assumption) ?_) | (with_reducible refine keeps_trd (by assumption) ?_) | split | dsimp only | fail_if_no_progress with_reducible apply keeps_mk | (fail_if_no_progress ((with_reducible refine keeps_mk' ?x1 ?x2 ?x3 ?_); (case x1 => first | exact fun h => h | exact fun h => Mem.wf_putBytes _ _ h | exact fun h => Tab.wf_filter _ h); (case x2 => exact fun h => h); (case x3 => exact fusesRise_refl _))))

theorem State.faultThread_keeps {B0 : State} (s : State) (c : Nat) (t : Nat) (code : Nat) (pc : BitVec 16) (addr : Word) (hk0 : keeps B0 s) :
    keeps B0 (State.faultThread s c t code pc addr) := by
  unfold State.faultThread
  repeat' (first | with_reducible assumption | with_reducible apply State.faultWith_keeps | ((with_reducible refine keeps_foldl _ ?_ ?_); intro _ _ _) | ((with_reducible refine keeps_foldl_fst _ ?_ ?_); intro _ _ _) | ((with_reducible refine keeps_foldl_snd _ ?_ ?_); intro _ _ _) | intro _ | (with_reducible refine keeps_fst (by assumption) ?_) | (with_reducible refine keeps_snd (by assumption) ?_) | (with_reducible refine keeps_trd (by assumption) ?_) | split | dsimp only | fail_if_no_progress with_reducible apply keeps_mk | (fail_if_no_progress ((with_reducible refine keeps_mk' ?x1 ?x2 ?x3 ?_); (case x1 => first | exact fun h => h | exact fun h => Mem.wf_putBytes _ _ h | exact fun h => Tab.wf_filter _ h); (case x2 => exact fun h => h); (case x3 => exact fusesRise_refl _))))

theorem State.modTp_keeps {B0 : State} (s : State) (p : Nat) (f : TierPart → TierPart) (hk0 : keeps B0 s) :
    keeps B0 (State.modTp s p f) := by
  unfold State.modTp
  repeat' (first | with_reducible assumption | ((with_reducible refine keeps_foldl _ ?_ ?_); intro _ _ _) | ((with_reducible refine keeps_foldl_fst _ ?_ ?_); intro _ _ _) | ((with_reducible refine keeps_foldl_snd _ ?_ ?_); intro _ _ _) | intro _ | (with_reducible refine keeps_fst (by assumption) ?_) | (with_reducible refine keeps_snd (by assumption) ?_) | (with_reducible refine keeps_trd (by assumption) ?_) | split | dsimp only | fail_if_no_progress with_reducible apply keeps_mk | (fail_if_no_progress ((with_reducible refine keeps_mk' ?x1 ?x2 ?x3 ?_); (case x1 => first | exact fun h => h | exact fun h => Mem.wf_putBytes _ _ h | exact fun h => Tab.wf_filter _ h); (case x2 => exact fun h => h); (case x3 => exact fusesRise_refl _))))

theorem State.modNs_keeps {B0 : State} (s : State) (p : Nat) (f : Ns → Ns) (hk0 : keeps B0 s) :
    keeps B0 (State.modNs s p f) := by
  unfold State.modNs
  repeat' (first | with_reducible assumption | ((with_reducible refine keeps_foldl _ ?_ ?_); intro _ _ _) | ((with_reducible refine keeps_foldl_fst _ ?_ ?_); intro _ _ _) | ((with_reducible refine keeps_foldl_snd _ ?_ ?_); intro _ _ _) | intro _ | (with_reducible refine keeps_fst (by assumption) ?_) | (with_reducible refine keeps_snd (by assumption) ?_) | (with_reducible refine keeps_trd (by assumption) ?_) | split | dsimp only | fail_if_no_progress with_reducible apply keeps_mk | (fail_if_no_progress ((with_reducible refine keeps_mk' ?x1 ?x2 ?x3 ?_); (case x1 => first | exact fun h => h | exact fun h => Mem.wf_putBytes _ _ h | exact fun h => Tab.wf_filter _ h); (case x2 => exact fun h => h); (case x3 => exact fusesRise_refl _))))

theorem State.countPage_keeps {B0 : State} (s : State) (p : Nat) (g : Nat) (n : Nat) (hk0 : keeps B0 s) :
    keeps B0 (State.countPage s p g n) := by
  unfold State.countPage
  repeat' (first | with_reducible assumption | with_reducible apply State.modTp_keeps | ((with_reducible refine keeps_foldl _ ?_ ?_); intro _ _ _) | ((with_reducible refine keeps_foldl_fst _ ?_ ?_); intro _ _ _) | ((with_reducible refine keeps_foldl_snd _ ?_ ?_); intro _ _ _) | intro _ | (with_reducible refine keeps_fst (by assumption) ?_) | (with_reducible refine keeps_snd (by assumption) ?_) | (with_reducible refine keeps_trd (by assumption) ?_) | split | dsimp only | fail_if_no_progress with_reducible apply keeps_mk | (fail_if_no_progress ((with_reducible refine keeps_mk' ?x1 ?x2 ?x3 ?_); (case x1 => first | exact fun h => h | exact fun h => Mem.wf_putBytes _ _ h | exact fun h => Tab.wf_filter _ h); (case x2 => exact fun h => h); (case x3 => exact fusesRise_refl _))))

theorem State.countAccess_keeps {B0 : State} (s : State) (p : Nat) (a : Word) (n : Nat) (hk0 : keeps B0 s) :
    keeps B0 (State.countAccess s p a n) := by
  unfold State.countAccess
  repeat' (first | with_reducible assumption | with_reducible apply State.countPage_keeps | ((with_reducible refine keeps_foldl _ ?_ ?_); intro _ _ _) | ((with_reducible refine keeps_foldl_fst _ ?_ ?_); intro _ _ _) | ((with_reducible refine keeps_foldl_snd _ ?_ ?_); intro _ _ _) | intro _ | (with_reducible refine keeps_fst (by assumption) ?_) | (with_reducible refine keeps_snd (by assumption) ?_) | (with_reducible refine keeps_trd (by assumption) ?_) | split | dsimp only | fail_if_no_progress with_reducible apply keeps_mk | (fail_if_no_progress ((with_reducible refine keeps_mk' ?x1 ?x2 ?x3 ?_); (case x1 => first | exact fun h => h | exact fun h => Mem.wf_putBytes _ _ h | exact fun h => Tab.wf_filter _ h); (case x2 => exact fun h => h); (case x3 => exact fusesRise_refl _))))

theorem State.meterRead_keeps {B0 : State} (s : State) (p : Nat) (a : Word) (n : Nat) (hk0 : keeps B0 s) :
    keeps B0 (State.meterRead s p a n) := by
  unfold State.meterRead
  repeat' (first | with_reducible assumption | with_reducible apply State.meterAdd_keeps | ((with_reducible refine keeps_foldl _ ?_ ?_); intro _ _ _) | ((with_reducible refine keeps_foldl_fst _ ?_ ?_); intro _ _ _) | ((with_reducible refine keeps_foldl_snd _ ?_ ?_); intro _ _ _) | intro _ | (with_reducible refine keeps_fst (by assumption) ?_) | (with_reducible refine keeps_snd (by assumption) ?_) | (with_reducible refine keeps_trd (by assumption) ?_) | split | dsimp only | fail_if_no_progress with_reducible apply keeps_mk | (fail_if_no_progress ((with_reducible refine keeps_mk' ?x1 ?x2 ?x3 ?_); (case x1 => first | exact fun h => h | exact fun h => Mem.wf_putBytes _ _ h | exact fun h => Tab.wf_filter _ h); (case x2 => exact fun h => h); (case x3 => exact fusesRise_refl _))))

theorem State.poisonRead_keeps {B0 : State} (s : State) (p : Nat) (hk0 : keeps B0 s) :
    keeps B0 (State.poisonRead s p) := by
  unfold State.poisonRead
  repeat' (first | with_reducible assumption | with_reducible apply State.bump_keeps | ((with_reducible refine keeps_foldl _ ?_ ?_); intro _ _ _) | ((with_reducible refine keeps_foldl_fst _ ?_ ?_); intro _ _ _) | ((with_reducible refine keeps_foldl_snd _ ?_ ?_); intro _ _ _) | intro _ | (with_reducible refine keeps_fst (by assumption) ?_) | (with_reducible refine keeps_snd (by assumption) ?_) | (with_reducible refine keeps_trd (by assumption) ?_) | split | dsimp only | fail_if_no_progress with_reducible apply keeps_mk | (fail_if_no_progress ((with_reducible refine keeps_mk' ?x1 ?x2 ?x3 ?_); (case x1 => first | exact fun h => h | exact fun h => Mem.wf_putBytes _ _ h | exact fun h => Tab.wf_filter _ h); (case x2 => exact fun h => h); (case x3 => exact fusesRise_refl _))))

theorem State.reportBad_keeps {B0 : State} (s : State) (p : Option Nat) (tier : Nat) (inst : Nat) (piece : Nat) (cause : Nat) (line : Nat) (hk0 : keeps B0 s) :
    keeps B0 (State.reportBad s p tier inst piece cause line) := by
  unfold State.reportBad
  repeat' (first | with_reducible assumption | with_reducible apply State.logEv_keeps | ((with_reducible refine keeps_foldl _ ?_ ?_); intro _ _ _) | ((with_reducible refine keeps_foldl_fst _ ?_ ?_); intro _ _ _) | ((with_reducible refine keeps_foldl_snd _ ?_ ?_); intro _ _ _) | intro _ | (with_reducible refine keeps_fst (by assumption) ?_) | (with_reducible refine keeps_snd (by assumption) ?_) | (with_reducible refine keeps_trd (by assumption) ?_) | split | dsimp only | fail_if_no_progress with_reducible apply keeps_mk | (fail_if_no_progress ((with_reducible refine keeps_mk' ?x1 ?x2 ?x3 ?_); (case x1 => first | exact fun h => h | exact fun h => Mem.wf_putBytes _ _ h | exact fun h => Tab.wf_filter _ h); (case x2 => exact fun h => h); (case x3 => exact fusesRise_refl _))))

theorem State.uncorr_keeps {B0 : State} (s : State) (i : Nat) (o : Nat) (scrub : Bool) (hk0 : keeps B0 s) :
    keeps B0 (State.uncorr s i o scrub) := by
  unfold State.uncorr
  repeat' (first | with_reducible assumption | with_reducible apply State.reportBad_keeps | with_reducible apply State.bump_keeps | ((with_reducible refine keeps_foldl _ ?_ ?_); intro _ _ _) | ((with_reducible refine keeps_foldl_fst _ ?_ ?_); intro _ _ _) | ((with_reducible refine keeps_foldl_snd _ ?_ ?_); intro _ _ _) | intro _ | (with_reducible refine keeps_fst (by assumption) ?_) | (with_reducible refine keeps_snd (by assumption) ?_) | (with_reducible refine keeps_trd (by assumption) ?_) | split | dsimp only | fail_if_no_progress with_reducible apply keeps_mk | (fail_if_no_progress ((with_reducible refine keeps_mk' ?x1 ?x2 ?x3 ?_); (case x1 => first | exact fun h => h | exact fun h => Mem.wf_putBytes _ _ h | exact fun h => Tab.wf_filter _ h); (case x2 => exact fun h => h); (case x3 => exact fusesRise_refl _))))

theorem State.fcRead_keeps {B0 : State} (s : State) (c : Nat) (n : Nat) (hk0 : keeps B0 s) :
    keeps B0 (State.fcRead s c n) := by
  unfold State.fcRead
  repeat' (first | with_reducible assumption | with_reducible apply State.bump_keeps | ((with_reducible refine keeps_foldl _ ?_ ?_); intro _ _ _) | ((with_reducible refine keeps_foldl_fst _ ?_ ?_); intro _ _ _) | ((with_reducible refine keeps_foldl_snd _ ?_ ?_); intro _ _ _) | intro _ | (with_reducible refine keeps_fst (by assumption) ?_) | (with_reducible refine keeps_snd (by assumption) ?_) | (with_reducible refine keeps_trd (by assumption) ?_) | split | dsimp only | fail_if_no_progress with_reducible apply keeps_mk | (fail_if_no_progress ((with_reducible refine keeps_mk' ?x1 ?x2 ?x3 ?_); (case x1 => first | exact fun h => h | exact fun h => Mem.wf_putBytes _ _ h | exact fun h => Tab.wf_filter _ h); (case x2 => exact fun h => h); (case x3 => exact fusesRise_refl _))))

theorem State.fcProg_keeps {B0 : State} (s : State) (c : Nat) (n : Nat) (hk0 : keeps B0 s) :
    keeps B0 (State.fcProg s c n) := by
  unfold State.fcProg
  repeat' (first | with_reducible assumption | with_reducible apply State.bump_keeps | ((with_reducible refine keeps_foldl _ ?_ ?_); intro _ _ _) | ((with_reducible refine keeps_foldl_fst _ ?_ ?_); intro _ _ _) | ((with_reducible refine keeps_foldl_snd _ ?_ ?_); intro _ _ _) | intro _ | (with_reducible refine keeps_fst (by assumption) ?_) | (with_reducible refine keeps_snd (by assumption) ?_) | (with_reducible refine keeps_trd (by assumption) ?_) | split | dsimp only | fail_if_no_progress with_reducible apply keeps_mk | (fail_if_no_progress ((with_reducible refine keeps_mk' ?x1 ?x2 ?x3 ?_); (case x1 => first | exact fun h => h | exact fun h => Mem.wf_putBytes _ _ h | exact fun h => Tab.wf_filter _ h); (case x2 => exact fun h => h); (case x3 => exact fusesRise_refl _))))

theorem State.mapLook_keeps {B0 : State} (s : State) (p : Nat) (lu : Nat) (hk0 : keeps B0 s) :
    keeps B0 (State.mapLook s p lu) := by
  unfold State.mapLook
  repeat' (first | with_reducible assumption | with_reducible apply State.bump_keeps | with_reducible apply State.waitCycles_keeps | with_reducible apply State.modNs_keeps | ((with_reducible refine keeps_foldl _ ?_ ?_); intro _ _ _) | ((with_reducible refine keeps_foldl_fst _ ?_ ?_); intro _ _ _) | ((with_reducible refine keeps_foldl_snd _ ?_ ?_); intro _ _ _) | intro _ | (with_reducible refine keeps_fst (by assumption) ?_) | (with_reducible refine keeps_snd (by assumption) ?_) | (with_reducible refine keeps_trd (by assumption) ?_) | split | dsimp only | fail_if_no_progress with_reducible apply keeps_mk | (fail_if_no_progress ((with_reducible refine keeps_mk' ?x1 ?x2 ?x3 ?_); (case x1 => first | exact fun h => h | exact fun h => Mem.wf_putBytes _ _ h | exact fun h => Tab.wf_filter _ h); (case x2 => exact fun h => h); (case x3 => exact fusesRise_refl _))))

theorem State.flashRead_keeps {B0 : State} (s : State) (p : Nat) (cw : Nat) (q : CwOutcome) (hk0 : keeps B0 s) :
    keeps B0 (State.flashRead s p cw q) := by
  unfold State.flashRead
  repeat' (first | with_reducible assumption | with_reducible apply State.modNs_keeps | with_reducible apply State.bump_keeps | with_reducible apply State.fcRead_keeps | ((with_reducible refine keeps_foldl _ ?_ ?_); intro _ _ _) | ((with_reducible refine keeps_foldl_fst _ ?_ ?_); intro _ _ _) | ((with_reducible refine keeps_foldl_snd _ ?_ ?_); intro _ _ _) | intro _ | (with_reducible refine keeps_fst (by assumption) ?_) | (with_reducible refine keeps_snd (by assumption) ?_) | (with_reducible refine keeps_trd (by assumption) ?_) | split | dsimp only | fail_if_no_progress with_reducible apply keeps_mk | (fail_if_no_progress ((with_reducible refine keeps_mk' ?x1 ?x2 ?x3 ?_); (case x1 => first | exact fun h => h | exact fun h => Mem.wf_putBytes _ _ h | exact fun h => Tab.wf_filter _ h); (case x2 => exact fun h => h); (case x3 => exact fusesRise_refl _))))

theorem State.fetchUnit_keeps {B0 : State} (s : State) (p : Nat) (lu : Nat) (hk0 : keeps B0 s) :
    keeps B0 (State.fetchUnit s p lu).1 := by
  unfold State.fetchUnit
  repeat' (first | with_reducible assumption | with_reducible apply State.flashRead_keeps | with_reducible apply State.mapLook_keeps | ((with_reducible refine keeps_foldl _ ?_ ?_); intro _ _ _) | ((with_reducible refine keeps_foldl_fst _ ?_ ?_); intro _ _ _) | ((with_reducible refine keeps_foldl_snd _ ?_ ?_); intro _ _ _) | intro _ | (with_reducible refine keeps_fst (by assumption) ?_) | (with_reducible refine keeps_snd (by assumption) ?_) | (with_reducible refine keeps_trd (by assumption) ?_) | split | dsimp only | fail_if_no_progress with_reducible apply keeps_mk | (fail_if_no_progress ((with_reducible refine keeps_mk' ?x1 ?x2 ?x3 ?_); (case x1 => first | exact fun h => h | exact fun h => Mem.wf_putBytes _ _ h | exact fun h => Tab.wf_filter _ h); (case x2 => exact fun h => h); (case x3 => exact fusesRise_refl _))))

theorem State.t2Seen_keeps {B0 : State} (s : State) (p : Nat) (hk0 : keeps B0 s) :
    keeps B0 (State.t2Seen s p) := by
  unfold State.t2Seen
  repeat' (first | with_reducible assumption | with_reducible apply State.modNs_keeps | ((with_reducible refine keeps_foldl _ ?_ ?_); intro _ _ _) | ((with_reducible refine keeps_foldl_fst _ ?_ ?_); intro _ _ _) | ((with_reducible refine keeps_foldl_snd _ ?_ ?_); intro _ _ _) | intro _ | (with_reducible refine keeps_fst (by assumption) ?_) | (with_reducible refine keeps_snd (by assumption) ?_) | (with_reducible refine keeps_trd (by assumption) ?_) | split | dsimp only | fail_if_no_progress with_reducible apply keeps_mk | (fail_if_no_progress ((with_reducible refine keeps_mk' ?x1 ?x2 ?x3 ?_); (case x1 => first | exact fun h => h | exact fun h => Mem.wf_putBytes _ _ h | exact fun h => Tab.wf_filter _ h); (case x2 => exact fun h => h); (case x3 => exact fusesRise_refl _))))

theorem State.readUnit_keeps {B0 : State} (s : State) (p : Nat) (lu : Nat) (hk0 : keeps B0 s) :
    keeps B0 (State.readUnit s p lu).1 := by
  unfold State.readUnit
  repeat' (first | with_reducible assumption | with_reducible apply State.fetchUnit_keeps | with_reducible apply State.bump_keeps | ((with_reducible refine keeps_foldl _ ?_ ?_); intro _ _ _) | ((with_reducible refine keeps_foldl_fst _ ?_ ?_); intro _ _ _) | ((with_reducible refine keeps_foldl_snd _ ?_ ?_); intro _ _ _) | intro _ | (with_reducible refine keeps_fst (by assumption) ?_) | (with_reducible refine keeps_snd (by assumption) ?_) | (with_reducible refine keeps_trd (by assumption) ?_) | split | dsimp only | fail_if_no_progress with_reducible apply keeps_mk | (fail_if_no_progress ((with_reducible refine keeps_mk' ?x1 ?x2 ?x3 ?_); (case x1 => first | exact fun h => h | exact fun h => Mem.wf_putBytes _ _ h | exact fun h => Tab.wf_filter _ h); (case x2 => exact fun h => h); (case x3 => exact fusesRise_refl _))))

theorem State.readUnits_keeps {B0 : State} (s : State) (p : Nat) (a : Word) (n : Nat) (hk0 : keeps B0 s) :
    keeps B0 (State.readUnits s p a n).1 := by
  unfold State.readUnits
  repeat' (first | with_reducible assumption | with_reducible apply State.t2Seen_keeps | with_reducible apply State.readUnit_keeps | ((with_reducible refine keeps_foldl _ ?_ ?_); intro _ _ _) | ((with_reducible refine keeps_foldl_fst _ ?_ ?_); intro _ _ _) | ((with_reducible refine keeps_foldl_snd _ ?_ ?_); intro _ _ _) | intro _ | (with_reducible refine keeps_fst (by assumption) ?_) | (with_reducible refine keeps_snd (by assumption) ?_) | (with_reducible refine keeps_trd (by assumption) ?_) | split | dsimp only | fail_if_no_progress with_reducible apply keeps_mk | (fail_if_no_progress ((with_reducible refine keeps_mk' ?x1 ?x2 ?x3 ?_); (case x1 => first | exact fun h => h | exact fun h => Mem.wf_putBytes _ _ h | exact fun h => Tab.wf_filter _ h); (case x2 => exact fun h => h); (case x3 => exact fusesRise_refl _))))

theorem State.reportLoc_keeps {B0 : State} (s : State) (p : Nat) (z0 : Option Loc) (hk0 : keeps B0 s) :
    keeps B0 (State.reportLoc s p z0) := by
  unfold State.reportLoc
  repeat' (first | with_reducible assumption | with_reducible apply State.reportBad_keeps | with_reducible apply State.uncorr_keeps | ((with_reducible refine keeps_foldl _ ?_ ?_); intro _ _ _) | ((with_reducible refine keeps_foldl_fst _ ?_ ?_); intro _ _ _) | ((with_reducible refine keeps_foldl_snd _ ?_ ?_); intro _ _ _) | intro _ | (with_reducible refine keeps_fst (by assumption) ?_) | (with_reducible refine keeps_snd (by assumption) ?_) | (with_reducible refine keeps_trd (by assumption) ?_) | split | dsimp only | fail_if_no_progress with_reducible apply keeps_mk | (fail_if_no_progress ((with_reducible refine keeps_mk' ?x1 ?x2 ?x3 ?_); (case x1 => first | exact fun h => h | exact fun h => Mem.wf_putBytes _ _ h | exact fun h => Tab.wf_filter _ h); (case x2 => exact fun h => h); (case x3 => exact fusesRise_refl _))))

theorem State.reportLine_keeps {B0 : State} (s : State) (p : Nat) (a : Word) (first : Bool) (hk0 : keeps B0 s) :
    keeps B0 (State.reportLine s p a first) := by
  unfold State.reportLine
  repeat' (first | with_reducible assumption | with_reducible apply State.reportLoc_keeps | ((with_reducible refine keeps_foldl _ ?_ ?_); intro _ _ _) | ((with_reducible refine keeps_foldl_fst _ ?_ ?_); intro _ _ _) | ((with_reducible refine keeps_foldl_snd _ ?_ ?_); intro _ _ _) | intro _ | (with_reducible refine keeps_fst (by assumption) ?_) | (with_reducible refine keeps_snd (by assumption) ?_) | (with_reducible refine keeps_trd (by assumption) ?_) | split | dsimp only | fail_if_no_progress with_reducible apply keeps_mk | (fail_if_no_progress ((with_reducible refine keeps_mk' ?x1 ?x2 ?x3 ?_); (case x1 => first | exact fun h => h | exact fun h => Mem.wf_putBytes _ _ h | exact fun h => Tab.wf_filter _ h); (case x2 => exact fun h => h); (case x3 => exact fusesRise_refl _))))

theorem State.cacheIn_keeps {B0 : State} (s : State) (p : Nat) (g : Nat) (hk0 : keeps B0 s) :
    keeps B0 (State.cacheIn s p g) := by
  unfold State.cacheIn
  repeat' (first | with_reducible assumption | with_reducible apply State.modTp_keeps | ((with_reducible refine keeps_foldl _ ?_ ?_); intro _ _ _) | ((with_reducible refine keeps_foldl_fst _ ?_ ?_); intro _ _ _) | ((with_reducible refine keeps_foldl_snd _ ?_ ?_); intro _ _ _) | intro _ | (with_reducible refine keeps_fst (by assumption) ?_) | (with_reducible refine keeps_snd (by assumption) ?_) | (with_reducible refine keeps_trd (by assumption) ?_) | split | dsimp only | fail_if_no_progress with_reducible apply keeps_mk | (fail_if_no_progress ((with_reducible refine keeps_mk' ?x1 ?x2 ?x3 ?_); (case x1 => first | exact fun h => h | exact fun h => Mem.wf_putBytes _ _ h | exact fun h => Tab.wf_filter _ h); (case x2 => exact fun h => h); (case x3 => exact fusesRise_refl _))))

theorem State.translate_keeps {B0 : State} (s : State) (p : Nat) (g : Nat) (hk0 : keeps B0 s) :
    keeps B0 (State.translate s p g) := by
  unfold State.translate
  repeat' (first | with_reducible assumption | with_reducible apply State.cacheIn_keeps | with_reducible apply State.uncorr_keeps | with_reducible apply State.bump_keeps | ((with_reducible refine keeps_foldl _ ?_ ?_); intro _ _ _) | ((with_reducible refine keeps_foldl_fst _ ?_ ?_); intro _ _ _) | ((with_reducible refine keeps_foldl_snd _ ?_ ?_); intro _ _ _) | intro _ | (with_reducible refine keeps_fst (by assumption) ?_) | (with_reducible refine keeps_snd (by assumption) ?_) | (with_reducible refine keeps_trd (by assumption) ?_) | split | dsimp only | fail_if_no_progress with_reducible apply keeps_mk | (fail_if_no_progress ((with_reducible refine keeps_mk' ?x1 ?x2 ?x3 ?_); (case x1 => first | exact fun h => h | exact fun h => Mem.wf_putBytes _ _ h | exact fun h => Tab.wf_filter _ h); (case x2 => exact fun h => h); (case x3 => exact fusesRise_refl _))))

theorem State.translateAll_keeps {B0 : State} (s : State) (p : Nat) (a : Word) (n : Nat) (hk0 : keeps B0 s) :
    keeps B0 (State.translateAll s p a n) := by
  unfold State.translateAll
  repeat' (first | with_reducible assumption | with_reducible apply State.translate_keeps | ((with_reducible refine keeps_foldl _ ?_ ?_); intro _ _ _) | ((with_reducible refine keeps_foldl_fst _ ?_ ?_); intro _ _ _) | ((with_reducible refine keeps_foldl_snd _ ?_ ?_); intro _ _ _) | intro _ | (with_reducible refine keeps_fst (by assumption) ?_) | (with_reducible refine keeps_snd (by assumption) ?_) | (with_reducible refine keeps_trd (by assumption) ?_) | split | dsimp only | fail_if_no_progress with_reducible apply keeps_mk | (fail_if_no_progress ((with_reducible refine keeps_mk' ?x1 ?x2 ?x3 ?_); (case x1 => first | exact fun h => h | exact fun h => Mem.wf_putBytes _ _ h | exact fun h => Tab.wf_filter _ h); (case x2 => exact fun h => h); (case x3 => exact fusesRise_refl _))))

theorem State.modCar_keeps {B0 : State} (s : State) (m : Nat) (f : Carrel → Carrel) (hk0 : keeps B0 s) :
    keeps B0 (State.modCar s m f) := by
  unfold State.modCar
  repeat' (first | with_reducible assumption | ((with_reducible refine keeps_foldl _ ?_ ?_); intro _ _ _) | ((with_reducible refine keeps_foldl_fst _ ?_ ?_); intro _ _ _) | ((with_reducible refine keeps_foldl_snd _ ?_ ?_); intro _ _ _) | intro _ | (with_reducible refine keeps_fst (by assumption) ?_) | (with_reducible refine keeps_snd (by assumption) ?_) | (with_reducible refine keeps_trd (by assumption) ?_) | split | dsimp only | fail_if_no_progress with_reducible apply keeps_mk | (fail_if_no_progress ((with_reducible refine keeps_mk' ?x1 ?x2 ?x3 ?_); (case x1 => first | exact fun h => h | exact fun h => Mem.wf_putBytes _ _ h | exact fun h => Tab.wf_filter _ h); (case x2 => exact fun h => h); (case x3 => exact fusesRise_refl _))))

theorem State.yieldAt_keeps {B0 : State} (s : State) (i : Nat) (o : Nat) (hk0 : keeps B0 s) :
    keeps B0 (State.yieldAt s i o) := by
  unfold State.yieldAt
  repeat' (first | with_reducible assumption | with_reducible apply State.bump_keeps | ((with_reducible refine keeps_foldl _ ?_ ?_); intro _ _ _) | ((with_reducible refine keeps_foldl_fst _ ?_ ?_); intro _ _ _) | ((with_reducible refine keeps_foldl_snd _ ?_ ?_); intro _ _ _) | intro _ | (with_reducible refine keeps_fst (by assumption) ?_) | (with_reducible refine keeps_snd (by assumption) ?_) | (with_reducible refine keeps_trd (by assumption) ?_) | split | dsimp only | fail_if_no_progress with_reducible apply keeps_mk | (fail_if_no_progress ((with_reducible refine keeps_mk' ?x1 ?x2 ?x3 ?_); (case x1 => first | exact fun h => h | exact fun h => Mem.wf_putBytes _ _ h | exact fun h => Tab.wf_filter _ h); (case x2 => exact fun h => h); (case x3 => exact fusesRise_refl _))))

theorem State.yieldLines_keeps {B0 : State} (s : State) (p : Nat) (a : Word) (n : Nat) (hk0 : keeps B0 s) :
    keeps B0 (State.yieldLines s p a n) := by
  unfold State.yieldLines
  repeat' (first | with_reducible assumption | with_reducible apply State.yieldAt_keeps | ((with_reducible refine keeps_foldl _ ?_ ?_); intro _ _ _) | ((with_reducible refine keeps_foldl_fst _ ?_ ?_); intro _ _ _) | ((with_reducible refine keeps_foldl_snd _ ?_ ?_); intro _ _ _) | intro _ | (with_reducible refine keeps_fst (by assumption) ?_) | (with_reducible refine keeps_snd (by assumption) ?_) | (with_reducible refine keeps_trd (by assumption) ?_) | split | dsimp only | fail_if_no_progress with_reducible apply keeps_mk | (fail_if_no_progress ((with_reducible refine keeps_mk' ?x1 ?x2 ?x3 ?_); (case x1 => first | exact fun h => h | exact fun h => Mem.wf_putBytes _ _ h | exact fun h => Tab.wf_filter _ h); (case x2 => exact fun h => h); (case x3 => exact fusesRise_refl _))))

theorem State.keepBurst_keeps {B0 : State} (s : State) (i : Nat) (o : Nat) (hk0 : keeps B0 s) :
    keeps B0 (State.keepBurst s i o) := by
  unfold State.keepBurst
  repeat' (first | with_reducible assumption | with_reducible apply State.modCar_keeps | ((with_reducible refine keeps_foldl _ ?_ ?_); intro _ _ _) | ((with_reducible refine keeps_foldl_fst _ ?_ ?_); intro _ _ _) | ((with_reducible refine keeps_foldl_snd _ ?_ ?_); intro _ _ _) | intro _ | (with_reducible refine keeps_fst (by assumption) ?_) | (with_reducible refine keeps_snd (by assumption) ?_) | (with_reducible refine keeps_trd (by assumption) ?_) | split | dsimp only | fail_if_no_progress with_reducible apply keeps_mk | (fail_if_no_progress ((with_reducible refine keeps_mk' ?x1 ?x2 ?x3 ?_); (case x1 => first | exact fun h => h | exact fun h => Mem.wf_putBytes _ _ h | exact fun h => Tab.wf_filter _ h); (case x2 => exact fun h => h); (case x3 => exact fusesRise_refl _))))

theorem State.modLosw_keeps {B0 : State} (s : State) (p : Nat) (o : Nat) (f : Losw → Losw) (hk0 : keeps B0 s) :
    keeps B0 (State.modLosw s p o f) := by
  unfold State.modLosw
  repeat' (first | with_reducible assumption | with_reducible apply State.modPart_keeps | ((with_reducible refine keeps_foldl _ ?_ ?_); intro _ _ _) | ((with_reducible refine keeps_foldl_fst _ ?_ ?_); intro _ _ _) | ((with_reducible refine keeps_foldl_snd _ ?_ ?_); intro _ _ _) | intro _ | (with_reducible refine keeps_fst (by assumption) ?_) | (with_reducible refine keeps_snd (by assumption) ?_) | (with_reducible refine keeps_trd (by assumption) ?_) | split | dsimp only | fail_if_no_progress with_reducible apply keeps_mk | (fail_if_no_progress ((with_reducible refine keeps_mk' ?x1 ?x2 ?x3 ?_); (case x1 => first | exact fun h => h | exact fun h => Mem.wf_putBytes _ _ h | exact fun h => Tab.wf_filter _ h); (case x2 => exact fun h => h); (case x3 => exact fusesRise_refl _))))

theorem State.loswFail_keeps {B0 : State} (s : State) (p : Nat) (o : Nat) (code : Nat) (hk0 : keeps B0 s) :
    keeps B0 (State.loswFail s p o code) := by
  unfold State.loswFail
  repeat' (first | with_reducible assumption | with_reducible apply State.modLosw_keeps | ((with_reducible refine keeps_foldl _ ?_ ?_); intro _ _ _) | ((with_reducible refine keeps_foldl_fst _ ?_ ?_); intro _ _ _) | ((with_reducible refine keeps_foldl_snd _ ?_ ?_); intro _ _ _) | intro _ | (with_reducible refine keeps_fst (by assumption) ?_) | (with_reducible refine keeps_snd (by assumption) ?_) | (with_reducible refine keeps_trd (by assumption) ?_) | split | dsimp only | fail_if_no_progress with_reducible apply keeps_mk | (fail_if_no_progress ((with_reducible refine keeps_mk' ?x1 ?x2 ?x3 ?_); (case x1 => first | exact fun h => h | exact fun h => Mem.wf_putBytes _ _ h | exact fun h => Tab.wf_filter _ h); (case x2 => exact fun h => h); (case x3 => exact fusesRise_refl _))))

theorem State.loswDone_keeps {B0 : State} (s : State) (p : Nat) (o : Nat) (hk0 : keeps B0 s) :
    keeps B0 (State.loswDone s p o) := by
  unfold State.loswDone
  repeat' (first | with_reducible assumption | with_reducible apply State.modLosw_keeps | ((with_reducible refine keeps_foldl _ ?_ ?_); intro _ _ _) | ((with_reducible refine keeps_foldl_fst _ ?_ ?_); intro _ _ _) | ((with_reducible refine keeps_foldl_snd _ ?_ ?_); intro _ _ _) | intro _ | (with_reducible refine keeps_fst (by assumption) ?_) | (with_reducible refine keeps_snd (by assumption) ?_) | (with_reducible refine keeps_trd (by assumption) ?_) | split | dsimp only | fail_if_no_progress with_reducible apply keeps_mk | (fail_if_no_progress ((with_reducible refine keeps_mk' ?x1 ?x2 ?x3 ?_); (case x1 => first | exact fun h => h | exact fun h => Mem.wf_putBytes _ _ h | exact fun h => Tab.wf_filter _ h); (case x2 => exact fun h => h); (case x3 => exact fusesRise_refl _))))

theorem State.loswAbort_keeps {B0 : State} (s : State) (p : Nat) (o : Nat) (hk0 : keeps B0 s) :
    keeps B0 (State.loswAbort s p o) := by
  unfold State.loswAbort
  repeat' (first | with_reducible assumption | with_reducible apply State.modLosw_keeps | ((with_reducible refine keeps_foldl _ ?_ ?_); intro _ _ _) | ((with_reducible refine keeps_foldl_fst _ ?_ ?_); intro _ _ _) | ((with_reducible refine keeps_foldl_snd _ ?_ ?_); intro _ _ _) | intro _ | (with_reducible refine keeps_fst (by assumption) ?_) | (with_reducible refine keeps_snd (by assumption) ?_) | (with_reducible refine keeps_trd (by assumption) ?_) | split | dsimp only | fail_if_no_progress with_reducible apply keeps_mk | (fail_if_no_progress ((with_reducible refine keeps_mk' ?x1 ?x2 ?x3 ?_); (case x1 => first | exact fun h => h | exact fun h => Mem.wf_putBytes _ _ h | exact fun h => Tab.wf_filter _ h); (case x2 => exact fun h => h); (case x3 => exact fusesRise_refl _))))

theorem State.loswRun_keeps {B0 : State} (s : State) (p : Nat) (o : Nat) (total : Nat) (partial_ : Bool) (hk0 : keeps B0 s) :
    keeps B0 (State.loswRun s p o total partial_) := by
  unfold State.loswRun
  repeat' (first | with_reducible assumption | with_reducible apply State.modLosw_keeps | ((with_reducible refine keeps_foldl _ ?_ ?_); intro _ _ _) | ((with_reducible refine keeps_foldl_fst _ ?_ ?_); intro _ _ _) | ((with_reducible refine keeps_foldl_snd _ ?_ ?_); intro _ _ _) | intro _ | (with_reducible refine keeps_fst (by assumption) ?_) | (with_reducible refine keeps_snd (by assumption) ?_) | (with_reducible refine keeps_trd (by assumption) ?_) | split | dsimp only | fail_if_no_progress with_reducible apply keeps_mk | (fail_if_no_progress ((with_reducible refine keeps_mk' ?x1 ?x2 ?x3 ?_); (case x1 => first | exact fun h => h | exact fun h => Mem.wf_putBytes _ _ h | exact fun h => Tab.wf_filter _ h); (case x2 => exact fun h => h); (case x3 => exact fusesRise_refl _))))

theorem State.loswProg_keeps {B0 : State} (s : State) (p : Nat) (o : Nat) (n : Nat) (hk0 : keeps B0 s) :
    keeps B0 (State.loswProg s p o n) := by
  unfold State.loswProg
  repeat' (first | with_reducible assumption | with_reducible apply State.modLosw_keeps | ((with_reducible refine keeps_foldl _ ?_ ?_); intro _ _ _) | ((with_reducible refine keeps_foldl_fst _ ?_ ?_); intro _ _ _) | ((with_reducible refine keeps_foldl_snd _ ?_ ?_); intro _ _ _) | intro _ | (with_reducible refine keeps_fst (by assumption) ?_) | (with_reducible refine keeps_snd (by assumption) ?_) | (with_reducible refine keeps_trd (by assumption) ?_) | split | dsimp only | fail_if_no_progress with_reducible apply keeps_mk | (fail_if_no_progress ((with_reducible refine keeps_mk' ?x1 ?x2 ?x3 ?_); (case x1 => first | exact fun h => h | exact fun h => Mem.wf_putBytes _ _ h | exact fun h => Tab.wf_filter _ h); (case x2 => exact fun h => h); (case x3 => exact fusesRise_refl _))))

theorem State.lopAccept_keeps {B0 : State} (s : State) (f : Fn) (p : Nat) (o : Nat) (op : Nat) (body : State → State) (h_body : ∀ s, keeps B0 s → keeps B0 (body s)) (hk0 : keeps B0 s) :
    keeps B0 (State.lopAccept s f p o op body) := by
  unfold State.lopAccept
  repeat' (first | with_reducible assumption | with_reducible apply State.modLosw_keeps | with_reducible apply State.bump_keeps | apply h_body | ((with_reducible refine keeps_foldl _ ?_ ?_); intro _ _ _) | ((with_reducible refine keeps_foldl_fst _ ?_ ?_); intro _ _ _) | ((with_reducible refine keeps_foldl_snd _ ?_ ?_); intro _ _ _) | intro _ | (with_reducible refine keeps_fst (by assumption) ?_) | (with_reducible refine keeps_snd (by assumption) ?_) | (with_reducible refine keeps_trd (by assumption) ?_) | split | dsimp only | fail_if_no_progress with_reducible apply keeps_mk | (fail_if_no_progress ((with_reducible refine keeps_mk' ?x1 ?x2 ?x3 ?_); (case x1 => first | exact fun h => h | exact fun h => Mem.wf_putBytes _ _ h | exact fun h => Tab.wf_filter _ h); (case x2 => exact fun h => h); (case x3 => exact fusesRise_refl _))))

theorem State.lopInvalid_keeps {B0 : State} (s : State) (f : Fn) (p : Nat) (o : Nat) (op : Nat) (hk0 : keeps B0 s) :
    keeps B0 (State.lopInvalid s f p o op) := by
  unfold State.lopInvalid
  repeat' (first | with_reducible assumption | with_reducible apply State.loswFail_keeps | with_reducible apply State.lopAccept_keeps | ((with_reducible refine keeps_foldl _ ?_ ?_); intro _ _ _) | ((with_reducible refine keeps_foldl_fst _ ?_ ?_); intro _ _ _) | ((with_reducible refine keeps_foldl_snd _ ?_ ?_); intro _ _ _) | intro _ | (with_reducible refine keeps_fst (by assumption) ?_) | (with_reducible refine keeps_snd (by assumption) ?_) | (with_reducible refine keeps_trd (by assumption) ?_) | split | dsimp only | fail_if_no_progress with_reducible apply keeps_mk | (fail_if_no_progress ((with_reducible refine keeps_mk' ?x1 ?x2 ?x3 ?_); (case x1 => first | exact fun h => h | exact fun h => Mem.wf_putBytes _ _ h | exact fun h => Tab.wf_filter _ h); (case x2 => exact fun h => h); (case x3 => exact fusesRise_refl _))))

end Sys2Proof.Machine
end

