-- ==== Sys2Proof/Laws/KeepsOperands.lean ====
section
/-! SUPPORT. What the operations of Machine/Operands.lean keep. -/

namespace Sys2Proof.Machine

set_option linter.unreachableTactic false
set_option linter.unusedTactic false
set_option linter.unusedVariables false

theorem State.adv_keeps {B0 : State} (s : State) (c : Nat) (t : Nat) (f : Thread → Thread) (hk0 : keeps B0 s) :
    keeps B0 (State.adv s c t f) := by
  unfold State.adv
  repeat' (first | with_reducible assumption | with_reducible apply State.modThr_keeps | ((with_reducible refine keeps_foldl _ ?_ ?_); intro _ _ _) | ((with_reducible refine keeps_foldl_fst _ ?_ ?_); intro _ _ _) | ((with_reducible refine keeps_foldl_snd _ ?_ ?_); intro _ _ _) | intro _ | (with_reducible refine keeps_fst (by assumption) ?_) | (with_reducible refine keeps_snd (by assumption) ?_) | (with_reducible refine keeps_trd (by assumption) ?_) | split | dsimp only | fail_if_no_progress with_reducible apply keeps_mk | (fail_if_no_progress ((with_reducible refine keeps_mk' ?x1 ?x2 ?x3 ?_); (case x1 => first | exact fun h => h | exact fun h => Mem.wf_putBytes _ _ h | exact fun h => Tab.wf_filter _ h); (case x2 => exact fun h => h); (case x3 => exact fusesRise_refl _))))

theorem State.retire_keeps {B0 : State} (s : State) (c : Nat) (t : Nat) (rd : Reg) (w : Word) (hk0 : keeps B0 s) :
    keeps B0 (State.retire s c t rd w) := by
  unfold State.retire
  repeat' (first | with_reducible assumption | with_reducible apply State.adv_keeps | ((with_reducible refine keeps_foldl _ ?_ ?_); intro _ _ _) | ((with_reducible refine keeps_foldl_fst _ ?_ ?_); intro _ _ _) | ((with_reducible refine keeps_foldl_snd _ ?_ ?_); intro _ _ _) | intro _ | (with_reducible refine keeps_fst (by assumption) ?_) | (with_reducible refine keeps_snd (by assumption) ?_) | (with_reducible refine keeps_trd (by assumption) ?_) | split | dsimp only | fail_if_no_progress with_reducible apply keeps_mk | (fail_if_no_progress ((with_reducible refine keeps_mk' ?x1 ?x2 ?x3 ?_); (case x1 => first | exact fun h => h | exact fun h => Mem.wf_putBytes _ _ h | exact fun h => Tab.wf_filter _ h); (case x2 => exact fun h => h); (case x3 => exact fusesRise_refl _))))

theorem State.waitIn_keeps {B0 : State} (s : State) (c : Nat) (t : Nat) (st : TState) (w : Wait) (hk0 : keeps B0 s) :
    keeps B0 (State.waitIn s c t st w) := by
  unfold State.waitIn
  repeat' (first | with_reducible assumption | with_reducible apply State.modThr_keeps | ((with_reducible refine keeps_foldl _ ?_ ?_); intro _ _ _) | ((with_reducible refine keeps_foldl_fst _ ?_ ?_); intro _ _ _) | ((with_reducible refine keeps_foldl_snd _ ?_ ?_); intro _ _ _) | intro _ | (with_reducible refine keeps_fst (by assumption) ?_) | (with_reducible refine keeps_snd (by assumption) ?_) | (with_reducible refine keeps_trd (by assumption) ?_) | split | dsimp only | fail_if_no_progress with_reducible apply keeps_mk | (fail_if_no_progress ((with_reducible refine keeps_mk' ?x1 ?x2 ?x3 ?_); (case x1 => first | exact fun h => h | exact fun h => Mem.wf_putBytes _ _ h | exact fun h => Tab.wf_filter _ h); (case x2 => exact fun h => h); (case x3 => exact fusesRise_refl _))))

theorem State.trap_keeps {B0 : State} (s : State) (c : Nat) (t : Nat) (code : Nat) (addr : Nat) (hk0 : keeps B0 s) :
    keeps B0 (State.trap s c t code addr) := by
  unfold State.trap
  repeat' (first | with_reducible assumption | with_reducible apply State.faultThread_keeps | ((with_reducible refine keeps_foldl _ ?_ ?_); intro _ _ _) | ((with_reducible refine keeps_foldl_fst _ ?_ ?_); intro _ _ _) | ((with_reducible refine keeps_foldl_snd _ ?_ ?_); intro _ _ _) | intro _ | (with_reducible refine keeps_fst (by assumption) ?_) | (with_reducible refine keeps_snd (by assumption) ?_) | (with_reducible refine keeps_trd (by assumption) ?_) | split | dsimp only | fail_if_no_progress with_reducible apply keeps_mk | (fail_if_no_progress ((with_reducible refine keeps_mk' ?x1 ?x2 ?x3 ?_); (case x1 => first | exact fun h => h | exact fun h => Mem.wf_putBytes _ _ h | exact fun h => Tab.wf_filter _ h); (case x2 => exact fun h => h); (case x3 => exact fusesRise_refl _))))

theorem State.issued_keeps {B0 : State} (s : State) (c : Nat) (t : Nat) (hk0 : keeps B0 s) :
    keeps B0 (State.issued s c t) := by
  unfold State.issued
  repeat' (first | with_reducible assumption | with_reducible apply State.bump_keeps | with_reducible apply State.modThr_keeps | ((with_reducible refine keeps_foldl _ ?_ ?_); intro _ _ _) | ((with_reducible refine keeps_foldl_fst _ ?_ ?_); intro _ _ _) | ((with_reducible refine keeps_foldl_snd _ ?_ ?_); intro _ _ _) | intro _ | (with_reducible refine keeps_fst (by assumption) ?_) | (with_reducible refine keeps_snd (by assumption) ?_) | (with_reducible refine keeps_trd (by assumption) ?_) | split | dsimp only | fail_if_no_progress with_reducible apply keeps_mk | (fail_if_no_progress ((with_reducible refine keeps_mk' ?x1 ?x2 ?x3 ?_); (case x1 => first | exact fun h => h | exact fun h => Mem.wf_putBytes _ _ h | exact fun h => Tab.wf_filter _ h); (case x2 => exact fun h => h); (case x3 => exact fusesRise_refl _))))

theorem State.endThread_keeps {B0 : State} (s : State) (c : Nat) (t : Nat) (hk0 : keeps B0 s) :
    keeps B0 (State.endThread s c t) := by
  unfold State.endThread
  repeat' (first | with_reducible assumption | with_reducible apply State.tryFree_keeps | with_reducible apply State.modGrp_keeps | with_reducible apply State.setThr_keeps | ((with_reducible refine keeps_foldl _ ?_ ?_); intro _ _ _) | ((with_reducible refine keeps_foldl_fst _ ?_ ?_); intro _ _ _) | ((with_reducible refine keeps_foldl_snd _ ?_ ?_); intro _ _ _) | intro _ | (with_reducible refine keeps_fst (by assumption) ?_) | (with_reducible refine keeps_snd (by assumption) ?_) | (with_reducible refine keeps_trd (by assumption) ?_) | split | dsimp only | fail_if_no_progress with_reducible apply keeps_mk | (fail_if_no_progress ((with_reducible refine keeps_mk' ?x1 ?x2 ?x3 ?_); (case x1 => first | exact fun h => h | exact fun h => Mem.wf_putBytes _ _ h | exact fun h => Tab.wf_filter _ h); (case x2 => exact fun h => h); (case x3 => exact fusesRise_refl _))))

theorem State.endContext_keeps {B0 : State} (s : State) (c : Nat) (t : Nat) (hk0 : keeps B0 s) :
    keeps B0 (State.endContext s c t) := by
  unfold State.endContext
  repeat' (first | with_reducible assumption | with_reducible apply State.endThread_keeps | with_reducible apply State.haltHart_keeps | ((with_reducible refine keeps_foldl _ ?_ ?_); intro _ _ _) | ((with_reducible refine keeps_foldl_fst _ ?_ ?_); intro _ _ _) | ((with_reducible refine keeps_foldl_snd _ ?_ ?_); intro _ _ _) | intro _ | (with_reducible refine keeps_fst (by assumption) ?_) | (with_reducible refine keeps_snd (by assumption) ?_) | (with_reducible refine keeps_trd (by assumption) ?_) | split | dsimp only | fail_if_no_progress with_reducible apply keeps_mk | (fail_if_no_progress ((with_reducible refine keeps_mk' ?x1 ?x2 ?x3 ?_); (case x1 => first | exact fun h => h | exact fun h => Mem.wf_putBytes _ _ h | exact fun h => Tab.wf_filter _ h); (case x2 => exact fun h => h); (case x3 => exact fusesRise_refl _))))

theorem State.settle_keeps {B0 : State} (s : State) (c : Nat) (t : Nat) (hk0 : keeps B0 s) :
    keeps B0 (State.settle s c t) := by
  unfold State.settle
  repeat' (first | with_reducible assumption | with_reducible apply State.endContext_keeps | with_reducible apply State.setThr_keeps | ((with_reducible refine keeps_foldl _ ?_ ?_); intro _ _ _) | ((with_reducible refine keeps_foldl_fst _ ?_ ?_); intro _ _ _) | ((with_reducible refine keeps_foldl_snd _ ?_ ?_); intro _ _ _) | intro _ | (with_reducible refine keeps_fst (by assumption) ?_) | (with_reducible refine keeps_snd (by assumption) ?_) | (with_reducible refine keeps_trd (by assumption) ?_) | split | dsimp only | fail_if_no_progress with_reducible apply keeps_mk | (fail_if_no_progress ((with_reducible refine keeps_mk' ?x1 ?x2 ?x3 ?_); (case x1 => first | exact fun h => h | exact fun h => Mem.wf_putBytes _ _ h | exact fun h => Tab.wf_filter _ h); (case x2 => exact fun h => h); (case x3 => exact fusesRise_refl _))))

theorem State.tagFreed_keeps {B0 : State} (s : State) (c : Nat) (hk0 : keeps B0 s) :
    keeps B0 (State.tagFreed s c) := by
  unfold State.tagFreed
  repeat' (first | with_reducible assumption | with_reducible apply State.wakeIf_keeps | ((with_reducible refine keeps_foldl _ ?_ ?_); intro _ _ _) | ((with_reducible refine keeps_foldl_fst _ ?_ ?_); intro _ _ _) | ((with_reducible refine keeps_foldl_snd _ ?_ ?_); intro _ _ _) | intro _ | (with_reducible refine keeps_fst (by assumption) ?_) | (with_reducible refine keeps_snd (by assumption) ?_) | (with_reducible refine keeps_trd (by assumption) ?_) | split | dsimp only | fail_if_no_progress with_reducible apply keeps_mk | (fail_if_no_progress ((with_reducible refine keeps_mk' ?x1 ?x2 ?x3 ?_); (case x1 => first | exact fun h => h | exact fun h => Mem.wf_putBytes _ _ h | exact fun h => Tab.wf_filter _ h); (case x2 => exact fun h => h); (case x3 => exact fusesRise_refl _))))

theorem State.choose_keeps {B0 : State} (s : State) (l : List Nat) (hk0 : keeps B0 s) :
    keeps B0 (State.choose s l).2 := by
  unfold State.choose
  repeat' (first | with_reducible assumption | ((with_reducible refine keeps_foldl _ ?_ ?_); intro _ _ _) | ((with_reducible refine keeps_foldl_fst _ ?_ ?_); intro _ _ _) | ((with_reducible refine keeps_foldl_snd _ ?_ ?_); intro _ _ _) | intro _ | (with_reducible refine keeps_fst (by assumption) ?_) | (with_reducible refine keeps_snd (by assumption) ?_) | (with_reducible refine keeps_trd (by assumption) ?_) | split | dsimp only | fail_if_no_progress with_reducible apply keeps_mk | (fail_if_no_progress ((with_reducible refine keeps_mk' ?x1 ?x2 ?x3 ?_); (case x1 => first | exact fun h => h | exact fun h => Mem.wf_putBytes _ _ h | exact fun h => Tab.wf_filter _ h); (case x2 => exact fun h => h); (case x3 => exact fusesRise_refl _))))

end Sys2Proof.Machine
end

