-- ==== Sys2Proof/Laws/KeepsExpand.lean ====
section
/-! SUPPORT. What the operations of Machine/Expand.lean keep. -/

namespace Sys2Proof.Machine

set_option linter.unreachableTactic false
set_option linter.unusedTactic false
set_option linter.unusedVariables false

theorem State.modExp_keeps {B0 : State} (s : State) (x : Nat) (f : Expander → Expander) (hk0 : keeps B0 s) :
    keeps B0 (State.modExp s x f) := by
  unfold State.modExp
  repeat' (first | with_reducible assumption | ((with_reducible refine keeps_foldl _ ?_ ?_); intro _ _ _) | ((with_reducible refine keeps_foldl_fst _ ?_ ?_); intro _ _ _) | ((with_reducible refine keeps_foldl_snd _ ?_ ?_); intro _ _ _) | intro _ | (with_reducible refine keeps_fst (by assumption) ?_) | (with_reducible refine keeps_snd (by assumption) ?_) | (with_reducible refine keeps_trd (by assumption) ?_) | split | dsimp only | fail_if_no_progress with_reducible apply keeps_mk | (fail_if_no_progress ((with_reducible refine keeps_mk' ?x1 ?x2 ?x3 ?_); (case x1 => first | exact fun h => h | exact fun h => Mem.wf_putBytes _ _ h | exact fun h => Tab.wf_filter _ h); (case x2 => exact fun h => h); (case x3 => exact fusesRise_refl _))))

theorem State.escapeStall_keeps {B0 : State} (s : State) (x : Nat) (p : Nat) (stored : List Byte) (valid : Bool) (waits : Bool) (hk0 : keeps B0 s) :
    keeps B0 (State.escapeStall s x p stored valid waits) := by
  unfold State.escapeStall
  repeat' (first | with_reducible assumption | with_reducible apply State.bump_keeps | ((with_reducible refine keeps_foldl _ ?_ ?_); intro _ _ _) | ((with_reducible refine keeps_foldl_fst _ ?_ ?_); intro _ _ _) | ((with_reducible refine keeps_foldl_snd _ ?_ ?_); intro _ _ _) | intro _ | (with_reducible refine keeps_fst (by assumption) ?_) | (with_reducible refine keeps_snd (by assumption) ?_) | (with_reducible refine keeps_trd (by assumption) ?_) | split | dsimp only | fail_if_no_progress with_reducible apply keeps_mk | (fail_if_no_progress ((with_reducible refine keeps_mk' ?x1 ?x2 ?x3 ?_); (case x1 => first | exact fun h => h | exact fun h => Mem.wf_putBytes _ _ h | exact fun h => Tab.wf_filter _ h); (case x2 => exact fun h => h); (case x3 => exact fusesRise_refl _))))

theorem State.countDecode_keeps {B0 : State} (s : State) (x : Nat) (stored : List Byte) (valid : Bool) (bad : Bool) (hk0 : keeps B0 s) :
    keeps B0 (State.countDecode s x stored valid bad) := by
  unfold State.countDecode
  repeat' (first | with_reducible assumption | with_reducible apply State.bump_keeps | ((with_reducible refine keeps_foldl _ ?_ ?_); intro _ _ _) | ((with_reducible refine keeps_foldl_fst _ ?_ ?_); intro _ _ _) | ((with_reducible refine keeps_foldl_snd _ ?_ ?_); intro _ _ _) | intro _ | (with_reducible refine keeps_fst (by assumption) ?_) | (with_reducible refine keeps_snd (by assumption) ?_) | (with_reducible refine keeps_trd (by assumption) ?_) | split | dsimp only | fail_if_no_progress with_reducible apply keeps_mk | (fail_if_no_progress ((with_reducible refine keeps_mk' ?x1 ?x2 ?x3 ?_); (case x1 => first | exact fun h => h | exact fun h => Mem.wf_putBytes _ _ h | exact fun h => Tab.wf_filter _ h); (case x2 => exact fun h => h); (case x3 => exact fusesRise_refl _))))

end Sys2Proof.Machine
end

