-- ==== Sys2Proof/Laws/KeepsFlash.lean ====
section
/-! SUPPORT. What the operations of Machine/Flash.lean keep. -/

namespace Sys2Proof.Machine

set_option linter.unreachableTactic false
set_option linter.unusedTactic false
set_option linter.unusedVariables false

theorem State.queueWait_keeps {B0 : State} (s : State) (p : Nat) (a : Word) (hk0 : keeps B0 s) :
    keeps B0 (State.queueWait s p a) := by
  unfold State.queueWait
  repeat' (first | with_reducible assumption | with_reducible apply State.waitCycles_keeps | ((with_reducible refine keeps_foldl _ ?_ ?_); intro _ _ _) | ((with_reducible refine keeps_foldl_fst _ ?_ ?_); intro _ _ _) | ((with_reducible refine keeps_foldl_snd _ ?_ ?_); intro _ _ _) | intro _ | (with_reducible refine keeps_fst (by assumption) ?_) | (with_reducible refine keeps_snd (by assumption) ?_) | (with_reducible refine keeps_trd (by assumption) ?_) | split | dsimp only | fail_if_no_progress with_reducible apply keeps_mk | (fail_if_no_progress ((with_reducible refine keeps_mk' ?x1 ?x2 ?x3 ?_); (case x1 => first | exact fun h => h | exact fun h => Mem.wf_putBytes _ _ h | exact fun h => Tab.wf_filter _ h); (case x2 => exact fun h => h); (case x3 => exact fusesRise_refl _))))

theorem State.placeWaits_keeps {B0 : State} (s : State) (p : Nat) (t : Nat) (l : Option Loc) (hk0 : keeps B0 s) :
    keeps B0 (State.placeWaits s p t l) := by
  unfold State.placeWaits
  repeat' (first | with_reducible assumption | with_reducible apply State.waitCycles_keeps | ((with_reducible refine keeps_foldl _ ?_ ?_); intro _ _ _) | ((with_reducible refine keeps_foldl_fst _ ?_ ?_); intro _ _ _) | ((with_reducible refine keeps_foldl_snd _ ?_ ?_); intro _ _ _) | intro _ | (with_reducible refine keeps_fst (by assumption) ?_) | (with_reducible refine keeps_snd (by assumption) ?_) | (with_reducible refine keeps_trd (by assumption) ?_) | split | dsimp only | fail_if_no_progress with_reducible apply keeps_mk | (fail_if_no_progress ((with_reducible refine keeps_mk' ?x1 ?x2 ?x3 ?_); (case x1 => first | exact fun h => h | exact fun h => Mem.wf_putBytes _ _ h | exact fun h => Tab.wf_filter _ h); (case x2 => exact fun h => h); (case x3 => exact fusesRise_refl _))))

theorem State.blockWaits_keeps {B0 : State} (s : State) (p : Nat) (a : Word) (n : Nat) (hk0 : keeps B0 s) :
    keeps B0 (State.blockWaits s p a n) := by
  unfold State.blockWaits
  repeat' (first | with_reducible assumption | with_reducible apply State.placeWaits_keeps | ((with_reducible refine keeps_foldl _ ?_ ?_); intro _ _ _) | ((with_reducible refine keeps_foldl_fst _ ?_ ?_); intro _ _ _) | ((with_reducible refine keeps_foldl_snd _ ?_ ?_); intro _ _ _) | intro _ | (with_reducible refine keeps_fst (by assumption) ?_) | (with_reducible refine keeps_snd (by assumption) ?_) | (with_reducible refine keeps_trd (by assumption) ?_) | split | dsimp only | fail_if_no_progress with_reducible apply keeps_mk | (fail_if_no_progress ((with_reducible refine keeps_mk' ?x1 ?x2 ?x3 ?_); (case x1 => first | exact fun h => h | exact fun h => Mem.wf_putBytes _ _ h | exact fun h => Tab.wf_filter _ h); (case x2 => exact fun h => h); (case x3 => exact fusesRise_refl _))))

theorem State.zeroed_keeps {B0 : State} (s : State) (i : Nat) (hk0 : keeps B0 s) :
    keeps B0 (State.zeroed s i) := by
  unfold State.zeroed
  repeat' (first | with_reducible assumption | ((with_reducible refine keeps_foldl _ ?_ ?_); intro _ _ _) | ((with_reducible refine keeps_foldl_fst _ ?_ ?_); intro _ _ _) | ((with_reducible refine keeps_foldl_snd _ ?_ ?_); intro _ _ _) | intro _ | (with_reducible refine keeps_fst (by assumption) ?_) | (with_reducible refine keeps_snd (by assumption) ?_) | (with_reducible refine keeps_trd (by assumption) ?_) | split | dsimp only | fail_if_no_progress with_reducible apply keeps_mk | (fail_if_no_progress ((with_reducible refine keeps_mk' ?x1 ?x2 ?x3 ?_); (case x1 => first | exact fun h => h | exact fun h => Mem.wf_putBytes _ _ h | exact fun h => Tab.wf_filter _ h); (case x2 => exact fun h => h); (case x3 => exact fusesRise_refl _))))

theorem State.awaitZero_keeps {B0 : State} (s : State) (p : Nat) (a : Word) (n : Nat) (hk0 : keeps B0 s) :
    keeps B0 (State.awaitZero s p a n) := by
  unfold State.awaitZero
  repeat' (first | with_reducible assumption | with_reducible apply State.zeroed_keeps | ((with_reducible refine keeps_foldl _ ?_ ?_); intro _ _ _) | ((with_reducible refine keeps_foldl_fst _ ?_ ?_); intro _ _ _) | ((with_reducible refine keeps_foldl_snd _ ?_ ?_); intro _ _ _) | intro _ | (with_reducible refine keeps_fst (by assumption) ?_) | (with_reducible refine keeps_snd (by assumption) ?_) | (with_reducible refine keeps_trd (by assumption) ?_) | split | dsimp only | fail_if_no_progress with_reducible apply keeps_mk | (fail_if_no_progress ((with_reducible refine keeps_mk' ?x1 ?x2 ?x3 ?_); (case x1 => first | exact fun h => h | exact fun h => Mem.wf_putBytes _ _ h | exact fun h => Tab.wf_filter _ h); (case x2 => exact fun h => h); (case x3 => exact fusesRise_refl _))))

theorem State.memberProgs_keeps {B0 : State} (s : State) (p : Nat) (b : Nat) (n : Nat) (hk0 : keeps B0 s) :
    keeps B0 (State.memberProgs s p b n) := by
  unfold State.memberProgs
  repeat' (first | with_reducible assumption | with_reducible apply State.fcProg_keeps | ((with_reducible refine keeps_foldl _ ?_ ?_); intro _ _ _) | ((with_reducible refine keeps_foldl_fst _ ?_ ?_); intro _ _ _) | ((with_reducible refine keeps_foldl_snd _ ?_ ?_); intro _ _ _) | intro _ | (with_reducible refine keeps_fst (by assumption) ?_) | (with_reducible refine keeps_snd (by assumption) ?_) | (with_reducible refine keeps_trd (by assumption) ?_) | split | dsimp only | fail_if_no_progress with_reducible apply keeps_mk | (fail_if_no_progress ((with_reducible refine keeps_mk' ?x1 ?x2 ?x3 ?_); (case x1 => first | exact fun h => h | exact fun h => Mem.wf_putBytes _ _ h | exact fun h => Tab.wf_filter _ h); (case x2 => exact fun h => h); (case x3 => exact fusesRise_refl _))))

theorem State.launch_keeps {B0 : State} (s : State) (p : Nat) (st : Stripe) (again : Bool) (hk0 : keeps B0 s) :
    keeps B0 (State.launch s p st again) := by
  unfold State.launch
  repeat' (first | with_reducible assumption | with_reducible apply State.modNs_keeps | with_reducible apply State.bump_keeps | with_reducible apply State.memberProgs_keeps | ((with_reducible refine keeps_foldl _ ?_ ?_); intro _ _ _) | ((with_reducible refine keeps_foldl_fst _ ?_ ?_); intro _ _ _) | ((with_reducible refine keeps_foldl_snd _ ?_ ?_); intro _ _ _) | intro _ | (with_reducible refine keeps_fst (by assumption) ?_) | (with_reducible refine keeps_snd (by assumption) ?_) | (with_reducible refine keeps_trd (by assumption) ?_) | split | dsimp only | fail_if_no_progress with_reducible apply keeps_mk | (fail_if_no_progress ((with_reducible refine keeps_mk' ?x1 ?x2 ?x3 ?_); (case x1 => first | exact fun h => h | exact fun h => Mem.wf_putBytes _ _ h | exact fun h => Tab.wf_filter _ h); (case x2 => exact fun h => h); (case x3 => exact fusesRise_refl _))))

theorem State.launchSum_keeps {B0 : State} (s : State) (p : Nat) (b : Nat) (hk0 : keeps B0 s) :
    keeps B0 (State.launchSum s p b) := by
  unfold State.launchSum
  repeat' (first | with_reducible assumption | with_reducible apply State.launch_keeps | ((with_reducible refine keeps_foldl _ ?_ ?_); intro _ _ _) | ((with_reducible refine keeps_foldl_fst _ ?_ ?_); intro _ _ _) | ((with_reducible refine keeps_foldl_snd _ ?_ ?_); intro _ _ _) | intro _ | (with_reducible refine keeps_fst (by assumption) ?_) | (with_reducible refine keeps_snd (by assumption) ?_) | (with_reducible refine keeps_trd (by assumption) ?_) | split | dsimp only | fail_if_no_progress with_reducible apply keeps_mk | (fail_if_no_progress ((with_reducible refine keeps_mk' ?x1 ?x2 ?x3 ?_); (case x1 => first | exact fun h => h | exact fun h => Mem.wf_putBytes _ _ h | exact fun h => Tab.wf_filter _ h); (case x2 => exact fun h => h); (case x3 => exact fusesRise_refl _))))

theorem State.enter_keeps {B0 : State} (s : State) (p : Nat) (st : Stripe) (again : Bool) (hk0 : keeps B0 s) :
    keeps B0 (State.enter s p st again) := by
  unfold State.enter
  repeat' (first | with_reducible assumption | with_reducible apply State.launchSum_keeps | with_reducible apply State.launch_keeps | ((with_reducible refine keeps_foldl _ ?_ ?_); intro _ _ _) | ((with_reducible refine keeps_foldl_fst _ ?_ ?_); intro _ _ _) | ((with_reducible refine keeps_foldl_snd _ ?_ ?_); intro _ _ _) | intro _ | (with_reducible refine keeps_fst (by assumption) ?_) | (with_reducible refine keeps_snd (by assumption) ?_) | (with_reducible refine keeps_trd (by assumption) ?_) | split | dsimp only | fail_if_no_progress with_reducible apply keeps_mk | (fail_if_no_progress ((with_reducible refine keeps_mk' ?x1 ?x2 ?x3 ?_); (case x1 => first | exact fun h => h | exact fun h => Mem.wf_putBytes _ _ h | exact fun h => Tab.wf_filter _ h); (case x2 => exact fun h => h); (case x3 => exact fusesRise_refl _))))

theorem State.closeSb_keeps {B0 : State} (s : State) (p : Nat) (b : Nat) (hk0 : keeps B0 s) :
    keeps B0 (State.closeSb s p b) := by
  unfold State.closeSb
  repeat' (first | with_reducible assumption | with_reducible apply State.launchSum_keeps | with_reducible apply State.launch_keeps | with_reducible apply State.modNs_keeps | ((with_reducible refine keeps_foldl _ ?_ ?_); intro _ _ _) | ((with_reducible refine keeps_foldl_fst _ ?_ ?_); intro _ _ _) | ((with_reducible refine keeps_foldl_snd _ ?_ ?_); intro _ _ _) | intro _ | (with_reducible refine keeps_fst (by assumption) ?_) | (with_reducible refine keeps_snd (by assumption) ?_) | (with_reducible refine keeps_trd (by assumption) ?_) | split | dsimp only | fail_if_no_progress with_reducible apply keeps_mk | (fail_if_no_progress ((with_reducible refine keeps_mk' ?x1 ?x2 ?x3 ?_); (case x1 => first | exact fun h => h | exact fun h => Mem.wf_putBytes _ _ h | exact fun h => Tab.wf_filter _ h); (case x2 => exact fun h => h); (case x3 => exact fusesRise_refl _))))

theorem State.relaunch_keeps {B0 : State} (s : State) (p : Nat) (z0 : Nat) (hk0 : keeps B0 s) :
    keeps B0 (State.relaunch s p z0) := by
  induction z0 generalizing s  with
  | zero => unfold State.relaunch; assumption
  | succ n ih => 
    unfold State.relaunch
    repeat' (first | with_reducible assumption | with_reducible apply State.launch_keeps | with_reducible apply State.modNs_keeps | with_reducible apply ih | ((with_reducible refine keeps_foldl _ ?_ ?_); intro _ _ _) | ((with_reducible refine keeps_foldl_fst _ ?_ ?_); intro _ _ _) | ((with_reducible refine keeps_foldl_snd _ ?_ ?_); intro _ _ _) | intro _ | (with_reducible refine keeps_fst (by assumption) ?_) | (with_reducible refine keeps_snd (by assumption) ?_) | (with_reducible refine keeps_trd (by assumption) ?_) | split | dsimp only | fail_if_no_progress with_reducible apply keeps_mk | (fail_if_no_progress ((with_reducible refine keeps_mk' ?x1 ?x2 ?x3 ?_); (case x1 => first | exact fun h => h | exact fun h => Mem.wf_putBytes _ _ h | exact fun h => Tab.wf_filter _ h); (case x2 => exact fun h => h); (case x3 => exact fusesRise_refl _))))

theorem State.formStripes_keeps {B0 : State} (s : State) (p : Nat) (close : Bool) (z0 : Nat) (hk0 : keeps B0 s) :
    keeps B0 (State.formStripes s p close z0) := by
  induction z0 generalizing s  with
  | zero => unfold State.formStripes; assumption
  | succ n ih => 
    unfold State.formStripes
    repeat' (first | with_reducible assumption | with_reducible apply State.enter_keeps | with_reducible apply State.modNs_keeps | with_reducible apply State.waitCycles_keeps | with_reducible apply ih | ((with_reducible refine keeps_foldl _ ?_ ?_); intro _ _ _) | ((with_reducible refine keeps_foldl_fst _ ?_ ?_); intro _ _ _) | ((with_reducible refine keeps_foldl_snd _ ?_ ?_); intro _ _ _) | intro _ | (with_reducible refine keeps_fst (by assumption) ?_) | (with_reducible refine keeps_snd (by assumption) ?_) | (with_reducible refine keeps_trd (by assumption) ?_) | split | dsimp only | fail_if_no_progress with_reducible apply keeps_mk | (fail_if_no_progress ((with_reducible refine keeps_mk' ?x1 ?x2 ?x3 ?_); (case x1 => first | exact fun h => h | exact fun h => Mem.wf_putBytes _ _ h | exact fun h => Tab.wf_filter _ h); (case x2 => exact fun h => h); (case x3 => exact fusesRise_refl _))))

theorem State.letIn_keeps {B0 : State} (s : State) (p : Nat) (hk0 : keeps B0 s) :
    keeps B0 (State.letIn s p) := by
  unfold State.letIn
  repeat' (first | with_reducible assumption | with_reducible apply State.modNs_keeps | ((with_reducible refine keeps_foldl _ ?_ ?_); intro _ _ _) | ((with_reducible refine keeps_foldl_fst _ ?_ ?_); intro _ _ _) | ((with_reducible refine keeps_foldl_snd _ ?_ ?_); intro _ _ _) | intro _ | (with_reducible refine keeps_fst (by assumption) ?_) | (with_reducible refine keeps_snd (by assumption) ?_) | (with_reducible refine keeps_trd (by assumption) ?_) | split | dsimp only | fail_if_no_progress with_reducible apply keeps_mk | (fail_if_no_progress ((with_reducible refine keeps_mk' ?x1 ?x2 ?x3 ?_); (case x1 => first | exact fun h => h | exact fun h => Mem.wf_putBytes _ _ h | exact fun h => Tab.wf_filter _ h); (case x2 => exact fun h => h); (case x3 => exact fusesRise_refl _))))

theorem State.fillStripes_keeps {B0 : State} (s : State) (p : Nat) (close : Bool) (hk0 : keeps B0 s) :
    keeps B0 (State.fillStripes s p close) := by
  unfold State.fillStripes
  repeat' (first | with_reducible assumption | with_reducible apply State.formStripes_keeps | with_reducible apply State.relaunch_keeps | with_reducible apply State.letIn_keeps | ((with_reducible refine keeps_foldl _ ?_ ?_); intro _ _ _) | ((with_reducible refine keeps_foldl_fst _ ?_ ?_); intro _ _ _) | ((with_reducible refine keeps_foldl_snd _ ?_ ?_); intro _ _ _) | intro _ | (with_reducible refine keeps_fst (by assumption) ?_) | (with_reducible refine keeps_snd (by assumption) ?_) | (with_reducible refine keeps_trd (by assumption) ?_) | split | dsimp only | fail_if_no_progress with_reducible apply keeps_mk | (fail_if_no_progress ((with_reducible refine keeps_mk' ?x1 ?x2 ?x3 ?_); (case x1 => first | exact fun h => h | exact fun h => Mem.wf_putBytes _ _ h | exact fun h => Tab.wf_filter _ h); (case x2 => exact fun h => h); (case x3 => exact fusesRise_refl _))))

theorem State.readTo_keeps {B0 : State} (s : State) (p : Nat) (a : Word) (n : Nat) (hk0 : keeps B0 s) :
    keeps B0 (State.readTo s p a n).1 := by
  unfold State.readTo
  repeat' (first | with_reducible assumption | with_reducible apply State.readUnits_keeps | with_reducible apply State.yieldLines_keeps | with_reducible apply State.translateAll_keeps | with_reducible apply State.blockWaits_keeps | with_reducible apply State.awaitZero_keeps | ((with_reducible refine keeps_foldl _ ?_ ?_); intro _ _ _) | ((with_reducible refine keeps_foldl_fst _ ?_ ?_); intro _ _ _) | ((with_reducible refine keeps_foldl_snd _ ?_ ?_); intro _ _ _) | intro _ | (with_reducible refine keeps_fst (by assumption) ?_) | (with_reducible refine keeps_snd (by assumption) ?_) | (with_reducible refine keeps_trd (by assumption) ?_) | split | dsimp only | fail_if_no_progress with_reducible apply keeps_mk | (fail_if_no_progress ((with_reducible refine keeps_mk' ?x1 ?x2 ?x3 ?_); (case x1 => first | exact fun h => h | exact fun h => Mem.wf_putBytes _ _ h | exact fun h => Tab.wf_filter _ h); (case x2 => exact fun h => h); (case x3 => exact fusesRise_refl _))))

theorem State.readBy_keeps {B0 : State} (s : State) (p : Nat) (a : Word) (n : Nat) (hk0 : keeps B0 s) :
    keeps B0 (State.readBy s p a n).1 := by
  unfold State.readBy
  repeat' (first | with_reducible assumption | with_reducible apply State.poisonRead_keeps | with_reducible apply State.reportLine_keeps | with_reducible apply State.countAccess_keeps | with_reducible apply State.readTo_keeps | ((with_reducible refine keeps_foldl _ ?_ ?_); intro _ _ _) | ((with_reducible refine keeps_foldl_fst _ ?_ ?_); intro _ _ _) | ((with_reducible refine keeps_foldl_snd _ ?_ ?_); intro _ _ _) | intro _ | (with_reducible refine keeps_fst (by assumption) ?_) | (with_reducible refine keeps_snd (by assumption) ?_) | (with_reducible refine keeps_trd (by assumption) ?_) | split | dsimp only | fail_if_no_progress with_reducible apply keeps_mk | (fail_if_no_progress ((with_reducible refine keeps_mk' ?x1 ?x2 ?x3 ?_); (case x1 => first | exact fun h => h | exact fun h => Mem.wf_putBytes _ _ h | exact fun h => Tab.wf_filter _ h); (case x2 => exact fun h => h); (case x3 => exact fusesRise_refl _))))

theorem State.devRead_keeps {B0 : State} (s : State) (p : Nat) (a : Word) (n : Nat) (hk0 : keeps B0 s) :
    keeps B0 (State.devRead s p a n).1 := by
  unfold State.devRead
  repeat' (first | with_reducible assumption | with_reducible apply State.meterRead_keeps | with_reducible apply State.readBy_keeps | ((with_reducible refine keeps_foldl _ ?_ ?_); intro _ _ _) | ((with_reducible refine keeps_foldl_fst _ ?_ ?_); intro _ _ _) | ((with_reducible refine keeps_foldl_snd _ ?_ ?_); intro _ _ _) | intro _ | (with_reducible refine keeps_fst (by assumption) ?_) | (with_reducible refine keeps_snd (by assumption) ?_) | (with_reducible refine keeps_trd (by assumption) ?_) | split | dsimp only | fail_if_no_progress with_reducible apply keeps_mk | (fail_if_no_progress ((with_reducible refine keeps_mk' ?x1 ?x2 ?x3 ?_); (case x1 => first | exact fun h => h | exact fun h => Mem.wf_putBytes _ _ h | exact fun h => Tab.wf_filter _ h); (case x2 => exact fun h => h); (case x3 => exact fusesRise_refl _))))

theorem State.noteWrite_keeps {B0 : State} (s : State) (p : Nat) (a : Word) (hk0 : keeps B0 s) :
    keeps B0 (State.noteWrite s p a) := by
  unfold State.noteWrite
  repeat' (first | with_reducible assumption | with_reducible apply State.modTp_keeps | ((with_reducible refine keeps_foldl _ ?_ ?_); intro _ _ _) | ((with_reducible refine keeps_foldl_fst _ ?_ ?_); intro _ _ _) | ((with_reducible refine keeps_foldl_snd _ ?_ ?_); intro _ _ _) | intro _ | (with_reducible refine keeps_fst (by assumption) ?_) | (with_reducible refine keeps_snd (by assumption) ?_) | (with_reducible refine keeps_trd (by assumption) ?_) | split | dsimp only | fail_if_no_progress with_reducible apply keeps_mk | (fail_if_no_progress ((with_reducible refine keeps_mk' ?x1 ?x2 ?x3 ?_); (case x1 => first | exact fun h => h | exact fun h => Mem.wf_putBytes _ _ h | exact fun h => Tab.wf_filter _ h); (case x2 => exact fun h => h); (case x3 => exact fusesRise_refl _))))

theorem State.fillAt_keeps {B0 : State} (s : State) (p : Nat) (a : Word) (n : Nat) (k : Nat) (hk0 : keeps B0 s) :
    keeps B0 (State.fillAt s p a n k) := by
  unfold State.fillAt
  repeat' (first | with_reducible assumption | with_reducible apply State.modNs_keeps | with_reducible apply State.reportLoc_keeps | with_reducible apply State.fetchUnit_keeps | ((with_reducible refine keeps_foldl _ ?_ ?_); intro _ _ _) | ((with_reducible refine keeps_foldl_fst _ ?_ ?_); intro _ _ _) | ((with_reducible refine keeps_foldl_snd _ ?_ ?_); intro _ _ _) | intro _ | (with_reducible refine keeps_fst (by assumption) ?_) | (with_reducible refine keeps_snd (by assumption) ?_) | (with_reducible refine keeps_trd (by assumption) ?_) | split | dsimp only | fail_if_no_progress with_reducible apply keeps_mk | (fail_if_no_progress ((with_reducible refine keeps_mk' ?x1 ?x2 ?x3 ?_); (case x1 => first | exact fun h => h | exact fun h => Mem.wf_putBytes _ _ h | exact fun h => Tab.wf_filter _ h); (case x2 => exact fun h => h); (case x3 => exact fusesRise_refl _))))

theorem State.fillFor_keeps {B0 : State} (s : State) (p : Nat) (a : Word) (n : Nat) (hk0 : keeps B0 s) :
    keeps B0 (State.fillFor s p a n) := by
  unfold State.fillFor
  repeat' (first | with_reducible assumption | with_reducible apply State.t2Seen_keeps | with_reducible apply State.fillAt_keeps | ((with_reducible refine keeps_foldl _ ?_ ?_); intro _ _ _) | ((with_reducible refine keeps_foldl_fst _ ?_ ?_); intro _ _ _) | ((with_reducible refine keeps_foldl_snd _ ?_ ?_); intro _ _ _) | intro _ | (with_reducible refine keeps_fst (by assumption) ?_) | (with_reducible refine keeps_snd (by assumption) ?_) | (with_reducible refine keeps_trd (by assumption) ?_) | split | dsimp only | fail_if_no_progress with_reducible apply keeps_mk | (fail_if_no_progress ((with_reducible refine keeps_mk' ?x1 ?x2 ?x3 ?_); (case x1 => first | exact fun h => h | exact fun h => Mem.wf_putBytes _ _ h | exact fun h => Tab.wf_filter _ h); (case x2 => exact fun h => h); (case x3 => exact fusesRise_refl _))))

theorem State.putLoc_keeps {B0 : State} (s : State) (p : Nat) (l : Option Loc) (bs : List Byte) (bad : Bool) (hk0 : keeps B0 s) :
    keeps B0 (State.putLoc s p l bs bad) := by
  unfold State.putLoc
  repeat' (first | with_reducible assumption | with_reducible apply State.modNs_keeps | with_reducible apply State.waitCycles_keeps | with_reducible apply State.bump_keeps | with_reducible apply State.keepBurst_keeps | ((with_reducible refine keeps_foldl _ ?_ ?_); intro _ _ _) | ((with_reducible refine keeps_foldl_fst _ ?_ ?_); intro _ _ _) | ((with_reducible refine keeps_foldl_snd _ ?_ ?_); intro _ _ _) | intro _ | (with_reducible refine keeps_fst (by assumption) ?_) | (with_reducible refine keeps_snd (by assumption) ?_) | (with_reducible refine keeps_trd (by assumption) ?_) | split | dsimp only | fail_if_no_progress with_reducible apply keeps_mk | (fail_if_no_progress ((with_reducible refine keeps_mk' ?x1 ?x2 ?x3 ?_); (case x1 => first | exact fun h => h | exact fun h => Mem.wf_putBytes _ _ h | exact fun h => Tab.wf_filter _ h); (case x2 => exact fun h => h); (case x3 => exact fusesRise_refl _))))

theorem State.writeLine_keeps {B0 : State} (s : State) (p : Nat) (a : Word) (bs : List Byte) (bad : Bool) (hk0 : keeps B0 s) :
    keeps B0 (State.writeLine s p a bs bad) := by
  unfold State.writeLine
  repeat' (first | with_reducible assumption | with_reducible apply State.putLoc_keeps | with_reducible apply State.noteWrite_keeps | ((with_reducible refine keeps_foldl _ ?_ ?_); intro _ _ _) | ((with_reducible refine keeps_foldl_fst _ ?_ ?_); intro _ _ _) | ((with_reducible refine keeps_foldl_snd _ ?_ ?_); intro _ _ _) | intro _ | (with_reducible refine keeps_fst (by assumption) ?_) | (with_reducible refine keeps_snd (by assumption) ?_) | (with_reducible refine keeps_trd (by assumption) ?_) | split | dsimp only | fail_if_no_progress with_reducible apply keeps_mk | (fail_if_no_progress ((with_reducible refine keeps_mk' ?x1 ?x2 ?x3 ?_); (case x1 => first | exact fun h => h | exact fun h => Mem.wf_putBytes _ _ h | exact fun h => Tab.wf_filter _ h); (case x2 => exact fun h => h); (case x3 => exact fusesRise_refl _))))

theorem State.countDrops_keeps {B0 : State} (s : State) (p : Nat) (a : Word) (n : Nat) (hk0 : keeps B0 s) :
    keeps B0 (State.countDrops s p a n) := by
  unfold State.countDrops
  repeat' (first | with_reducible assumption | with_reducible apply State.bump_keeps | ((with_reducible refine keeps_foldl _ ?_ ?_); intro _ _ _) | ((with_reducible refine keeps_foldl_fst _ ?_ ?_); intro _ _ _) | ((with_reducible refine keeps_foldl_snd _ ?_ ?_); intro _ _ _) | intro _ | (with_reducible refine keeps_fst (by assumption) ?_) | (with_reducible refine keeps_snd (by assumption) ?_) | (with_reducible refine keeps_trd (by assumption) ?_) | split | dsimp only | fail_if_no_progress with_reducible apply keeps_mk | (fail_if_no_progress ((with_reducible refine keeps_mk' ?x1 ?x2 ?x3 ?_); (case x1 => first | exact fun h => h | exact fun h => Mem.wf_putBytes _ _ h | exact fun h => Tab.wf_filter _ h); (case x2 => exact fun h => h); (case x3 => exact fusesRise_refl _))))

theorem State.devWriteLines_keeps {B0 : State} (s : State) (p : Nat) (a : Word) (bs : List Byte) (bad : Nat → Bool) (hk0 : keeps B0 s) :
    keeps B0 (State.devWriteLines s p a bs bad) := by
  unfold State.devWriteLines
  repeat' (first | with_reducible assumption | with_reducible apply State.fillStripes_keeps | with_reducible apply State.writeLine_keeps | with_reducible apply State.fillFor_keeps | with_reducible apply State.countDrops_keeps | with_reducible apply State.countAccess_keeps | with_reducible apply State.yieldLines_keeps | with_reducible apply State.translateAll_keeps | with_reducible apply State.blockWaits_keeps | with_reducible apply State.awaitZero_keeps | ((with_reducible refine keeps_foldl _ ?_ ?_); intro _ _ _) | ((with_reducible refine keeps_foldl_fst _ ?_ ?_); intro _ _ _) | ((with_reducible refine keeps_foldl_snd _ ?_ ?_); intro _ _ _) | intro _ | (with_reducible refine keeps_fst (by assumption) ?_) | (with_reducible refine keeps_snd (by assumption) ?_) | (with_reducible refine keeps_trd (by assumption) ?_) | split | dsimp only | fail_if_no_progress with_reducible apply keeps_mk | (fail_if_no_progress ((with_reducible refine keeps_mk' ?x1 ?x2 ?x3 ?_); (case x1 => first | exact fun h => h | exact fun h => Mem.wf_putBytes _ _ h | exact fun h => Tab.wf_filter _ h); (case x2 => exact fun h => h); (case x3 => exact fusesRise_refl _))))

theorem State.devWrite_keeps {B0 : State} (s : State) (p : Nat) (a : Word) (bs : List Byte) (bad : Bool) (hk0 : keeps B0 s) :
    keeps B0 (State.devWrite s p a bs bad) := by
  unfold State.devWrite
  repeat' (first | with_reducible assumption | with_reducible apply State.devWriteLines_keeps | ((with_reducible refine keeps_foldl _ ?_ ?_); intro _ _ _) | ((with_reducible refine keeps_foldl_fst _ ?_ ?_); intro _ _ _) | ((with_reducible refine keeps_foldl_snd _ ?_ ?_); intro _ _ _) | intro _ | (with_reducible refine keeps_fst (by assumption) ?_) | (with_reducible refine keeps_snd (by assumption) ?_) | (with_reducible refine keeps_trd (by assumption) ?_) | split | dsimp only | fail_if_no_progress with_reducible apply keeps_mk | (fail_if_no_progress ((with_reducible refine keeps_mk' ?x1 ?x2 ?x3 ?_); (case x1 => first | exact fun h => h | exact fun h => Mem.wf_putBytes _ _ h | exact fun h => Tab.wf_filter _ h); (case x2 => exact fun h => h); (case x3 => exact fusesRise_refl _))))

theorem State.lopStart_keeps {B0 : State} (s : State) (f : Fn) (p : Nat) (o : Nat) (op : Nat) (pfOnly : Bool) (nbytes : Nat) (body : State → List Byte → State) (h_body : ∀ s x, keeps B0 s → keeps B0 (body s x)) (hk0 : keeps B0 s) :
    keeps B0 (State.lopStart s f p o op pfOnly nbytes body) := by
  unfold State.lopStart
  repeat' (first | with_reducible assumption | with_reducible apply State.devRead_keeps | with_reducible apply State.loswFail_keeps | with_reducible apply State.lopAccept_keeps | apply h_body | ((with_reducible refine keeps_foldl _ ?_ ?_); intro _ _ _) | ((with_reducible refine keeps_foldl_fst _ ?_ ?_); intro _ _ _) | ((with_reducible refine keeps_foldl_snd _ ?_ ?_); intro _ _ _) | intro _ | (with_reducible refine keeps_fst (by assumption) ?_) | (with_reducible refine keeps_snd (by assumption) ?_) | (with_reducible refine keeps_trd (by assumption) ?_) | split | dsimp only | fail_if_no_progress with_reducible apply keeps_mk | (fail_if_no_progress ((with_reducible refine keeps_mk' ?x1 ?x2 ?x3 ?_); (case x1 => first | exact fun h => h | exact fun h => Mem.wf_putBytes _ _ h | exact fun h => Tab.wf_filter _ h); (case x2 => exact fun h => h); (case x3 => exact fusesRise_refl _))))

end Sys2Proof.Machine
end

