-- ==== Sys2Proof/Laws/KeepsThreadMem.lean ====
section
/-! SUPPORT. What the operations of Machine/ThreadMem.lean keep. -/

namespace Sys2Proof.Machine

set_option linter.unreachableTactic false
set_option linter.unusedTactic false
set_option linter.unusedVariables false

theorem State.scrUse_keeps {B0 : State} (s : State) (c : Nat) (t : Nat) (a : Nat) (n : Nat) (ok : State → State) (h_ok : ∀ s, keeps B0 s → keeps B0 (ok s)) (hk0 : keeps B0 s) :
    keeps B0 (State.scrUse s c t a n ok) := by
  unfold State.scrUse
  repeat' (first | with_reducible assumption | with_reducible apply State.trap_keeps | with_reducible apply State.bump_keeps | apply h_ok | ((with_reducible refine keeps_foldl _ ?_ ?_); intro _ _ _) | ((with_reducible refine keeps_foldl_fst _ ?_ ?_); intro _ _ _) | ((with_reducible refine keeps_foldl_snd _ ?_ ?_); intro _ _ _) | intro _ | (with_reducible refine keeps_fst (by assumption) ?_) | (with_reducible refine keeps_snd (by assumption) ?_) | (with_reducible refine keeps_trd (by assumption) ?_) | split | dsimp only | fail_if_no_progress with_reducible apply keeps_mk | (fail_if_no_progress ((with_reducible refine keeps_mk' ?x1 ?x2 ?x3 ?_); (case x1 => first | exact fun h => h | exact fun h => Mem.wf_putBytes _ _ h | exact fun h => Tab.wf_filter _ h); (case x2 => exact fun h => h); (case x3 => exact fusesRise_refl _))))

theorem State.atomLocal_keeps {B0 : State} (s : State) (c : Nat) (t : Nat) (op : Nat) (rd : Reg) (a : Nat) (rb : Word) (hk0 : keeps B0 s) :
    keeps B0 (State.atomLocal s c t op rd a rb) := by
  unfold State.atomLocal
  repeat' (first | with_reducible assumption | with_reducible apply State.retire_keeps | with_reducible apply State.writeScr_keeps | with_reducible apply State.scrUse_keeps | with_reducible apply State.trap_keeps | ((with_reducible refine keeps_foldl _ ?_ ?_); intro _ _ _) | ((with_reducible refine keeps_foldl_fst _ ?_ ?_); intro _ _ _) | ((with_reducible refine keeps_foldl_snd _ ?_ ?_); intro _ _ _) | intro _ | (with_reducible refine keeps_fst (by assumption) ?_) | (with_reducible refine keeps_snd (by assumption) ?_) | (with_reducible refine keeps_trd (by assumption) ?_) | split | dsimp only | fail_if_no_progress with_reducible apply keeps_mk | (fail_if_no_progress ((with_reducible refine keeps_mk' ?x1 ?x2 ?x3 ?_); (case x1 => first | exact fun h => h | exact fun h => Mem.wf_putBytes _ _ h | exact fun h => Tab.wf_filter _ h); (case x2 => exact fun h => h); (case x3 => exact fusesRise_refl _))))

theorem State.pfJoin_keeps {B0 : State} (s : State) (c : Nat) (t : Nat) (d : Nat) (e : PfEntry) (hk0 : keeps B0 s) :
    keeps B0 (State.pfJoin s c t d e) := by
  unfold State.pfJoin
  repeat' (first | with_reducible assumption | with_reducible apply State.bump_keeps | with_reducible apply State.modCore_keeps | ((with_reducible refine keeps_foldl _ ?_ ?_); intro _ _ _) | ((with_reducible refine keeps_foldl_fst _ ?_ ?_); intro _ _ _) | ((with_reducible refine keeps_foldl_snd _ ?_ ?_); intro _ _ _) | intro _ | (with_reducible refine keeps_fst (by assumption) ?_) | (with_reducible refine keeps_snd (by assumption) ?_) | (with_reducible refine keeps_trd (by assumption) ?_) | split | dsimp only | fail_if_no_progress with_reducible apply keeps_mk | (fail_if_no_progress ((with_reducible refine keeps_mk' ?x1 ?x2 ?x3 ?_); (case x1 => first | exact fun h => h | exact fun h => Mem.wf_putBytes _ _ h | exact fun h => Tab.wf_filter _ h); (case x2 => exact fun h => h); (case x3 => exact fusesRise_refl _))))

theorem State.tagWait_keeps {B0 : State} (s : State) (c : Nat) (t : Nat) (hk0 : keeps B0 s) :
    keeps B0 (State.tagWait s c t) := by
  unfold State.tagWait
  repeat' (first | with_reducible assumption | with_reducible apply State.waitIn_keeps | with_reducible apply State.waitCycles_keeps | ((with_reducible refine keeps_foldl _ ?_ ?_); intro _ _ _) | ((with_reducible refine keeps_foldl_fst _ ?_ ?_); intro _ _ _) | ((with_reducible refine keeps_foldl_snd _ ?_ ?_); intro _ _ _) | intro _ | (with_reducible refine keeps_fst (by assumption) ?_) | (with_reducible refine keeps_snd (by assumption) ?_) | (with_reducible refine keeps_trd (by assumption) ?_) | split | dsimp only | fail_if_no_progress with_reducible apply keeps_mk | (fail_if_no_progress ((with_reducible refine keeps_mk' ?x1 ?x2 ?x3 ?_); (case x1 => first | exact fun h => h | exact fun h => Mem.wf_putBytes _ _ h | exact fun h => Tab.wf_filter _ h); (case x2 => exact fun h => h); (case x3 => exact fusesRise_refl _))))

end Sys2Proof.Machine
end

