-- ==== Sys2Proof/Laws/KeepsThreadGroup.lean ====
section
/-! SUPPORT. What the operations of Machine/ThreadGroup.lean keep. -/

namespace Sys2Proof.Machine

set_option linter.unreachableTactic false
set_option linter.unusedTactic false
set_option linter.unusedVariables false

theorem State.startThread_keeps {B0 : State} (s : State) (c : Nat) (n : Nat) (g : Nat) (pc : BitVec 16) (g1 : Word) (spec : Bool) (hop : Nat) (hk0 : keeps B0 s) :
    keeps B0 (State.startThread s c n g pc g1 spec hop) := by
  unfold State.startThread
  repeat' (first | with_reducible assumption | with_reducible apply State.modGrp_keeps | with_reducible apply State.setThr_keeps | ((with_reducible refine keeps_foldl _ ?_ ?_); intro _ _ _) | ((with_reducible refine keeps_foldl_fst _ ?_ ?_); intro _ _ _) | ((with_reducible refine keeps_foldl_snd _ ?_ ?_); intro _ _ _) | intro _ | (with_reducible refine keeps_fst (by assumption) ?_) | (with_reducible refine keeps_snd (by assumption) ?_) | (with_reducible refine keeps_trd (by assumption) ?_) | split | dsimp only | fail_if_no_progress with_reducible apply keeps_mk | (fail_if_no_progress ((with_reducible refine keeps_mk' ?x1 ?x2 ?x3 ?_); (case x1 => first | exact fun h => h | exact fun h => Mem.wf_putBytes _ _ h | exact fun h => Tab.wf_filter _ h); (case x2 => exact fun h => h); (case x3 => exact fusesRise_refl _))))

theorem State.markDone_keeps {B0 : State} (s : State) (c : Nat) (g : Nat) (hk0 : keeps B0 s) :
    keeps B0 (State.markDone s c g) := by
  unfold State.markDone
  repeat' (first | with_reducible assumption | with_reducible apply State.tryFree_keeps | with_reducible apply State.modCore_keeps | with_reducible apply State.modGrp_keeps | ((with_reducible refine keeps_foldl _ ?_ ?_); intro _ _ _) | ((with_reducible refine keeps_foldl_fst _ ?_ ?_); intro _ _ _) | ((with_reducible refine keeps_foldl_snd _ ?_ ?_); intro _ _ _) | intro _ | (with_reducible refine keeps_fst (by assumption) ?_) | (with_reducible refine keeps_snd (by assumption) ?_) | (with_reducible refine keeps_trd (by assumption) ?_) | split | dsimp only | fail_if_no_progress with_reducible apply keeps_mk | (fail_if_no_progress ((with_reducible refine keeps_mk' ?x1 ?x2 ?x3 ?_); (case x1 => first | exact fun h => h | exact fun h => Mem.wf_putBytes _ _ h | exact fun h => Tab.wf_filter _ h); (case x2 => exact fun h => h); (case x3 => exact fusesRise_refl _))))

end Sys2Proof.Machine
end

