-- ==== Sys2Proof/Laws/KeepsTier.lean ====
section
/-! SUPPORT. What the operations of Machine/Tier.lean keep. -/

namespace Sys2Proof.Machine

set_option linter.unreachableTactic false
set_option linter.unusedTactic false
set_option linter.unusedVariables false

theorem State.freeLine_keeps {B0 : State} (s : State) (hk0 : keeps B0 s) :
    keeps B0 (State.freeLine s).2 := by
  unfold State.freeLine
  repeat' (first | with_reducible assumption | ((with_reducible refine keeps_foldl _ ?_ ?_); intro _ _ _) | ((with_reducible refine keeps_foldl_fst _ ?_ ?_); intro _ _ _) | ((with_reducible refine keeps_foldl_snd _ ?_ ?_); intro _ _ _) | intro _ | (with_reducible refine keeps_fst (by assumption) ?_) | (with_reducible refine keeps_snd (by assumption) ?_) | (with_reducible refine keeps_trd (by assumption) ?_) | split | dsimp only | fail_if_no_progress with_reducible apply keeps_mk | (fail_if_no_progress ((with_reducible refine keeps_mk' ?x1 ?x2 ?x3 ?_); (case x1 => first | exact fun h => h | exact fun h => Mem.wf_putBytes _ _ h | exact fun h => Tab.wf_filter _ h); (case x2 => exact fun h => h); (case x3 => exact fusesRise_refl _))))

theorem State.findBad_keeps {B0 : State} (s : State) (i : Nat) (k : Nat) (o : Nat) (scrub : Bool) (hk0 : keeps B0 s) :
    keeps B0 (State.findBad s i k o scrub) := by
  unfold State.findBad
  repeat' (first | with_reducible assumption | with_reducible apply State.bump_keeps | with_reducible apply State.uncorr_keeps | ((with_reducible refine keeps_foldl _ ?_ ?_); intro _ _ _) | ((with_reducible refine keeps_foldl_fst _ ?_ ?_); intro _ _ _) | ((with_reducible refine keeps_foldl_snd _ ?_ ?_); intro _ _ _) | intro _ | (with_reducible refine keeps_fst (by assumption) ?_) | (with_reducible refine keeps_snd (by assumption) ?_) | (with_reducible refine keeps_trd (by assumption) ?_) | split | dsimp only | fail_if_no_progress with_reducible apply keeps_mk | (fail_if_no_progress ((with_reducible refine keeps_mk' ?x1 ?x2 ?x3 ?_); (case x1 => first | exact fun h => h | exact fun h => Mem.wf_putBytes _ _ h | exact fun h => Tab.wf_filter _ h); (case x2 => exact fun h => h); (case x3 => exact fusesRise_refl _))))

theorem State.freeDevs_keeps {B0 : State} (s : State) (n : Nat) (hk0 : keeps B0 s) :
    keeps B0 (State.freeDevs s n).2 := by
  unfold State.freeDevs
  repeat' (first | with_reducible assumption | with_reducible apply State.choose_keeps | ((with_reducible refine keeps_foldl _ ?_ ?_); intro _ _ _) | ((with_reducible refine keeps_foldl_fst _ ?_ ?_); intro _ _ _) | ((with_reducible refine keeps_foldl_snd _ ?_ ?_); intro _ _ _) | intro _ | (with_reducible refine keeps_fst (by assumption) ?_) | (with_reducible refine keeps_snd (by assumption) ?_) | (with_reducible refine keeps_trd (by assumption) ?_) | split | dsimp only | fail_if_no_progress with_reducible apply keeps_mk | (fail_if_no_progress ((with_reducible refine keeps_mk' ?x1 ?x2 ?x3 ?_); (case x1 => first | exact fun h => h | exact fun h => Mem.wf_putBytes _ _ h | exact fun h => Tab.wf_filter _ h); (case x2 => exact fun h => h); (case x3 => exact fusesRise_refl _))))

theorem State.corrected_keeps {B0 : State} (s : State) (i : Nat) (o : Nat) (hk0 : keeps B0 s) :
    keeps B0 (State.corrected s i o) := by
  unfold State.corrected
  repeat' (first | with_reducible assumption | with_reducible apply State.yieldAt_keeps | with_reducible apply State.bump_keeps | ((with_reducible refine keeps_foldl _ ?_ ?_); intro _ _ _) | ((with_reducible refine keeps_foldl_fst _ ?_ ?_); intro _ _ _) | ((with_reducible refine keeps_foldl_snd _ ?_ ?_); intro _ _ _) | intro _ | (with_reducible refine keeps_fst (by assumption) ?_) | (with_reducible refine keeps_snd (by assumption) ?_) | (with_reducible refine keeps_trd (by assumption) ?_) | split | dsimp only | fail_if_no_progress with_reducible apply keeps_mk | (fail_if_no_progress ((with_reducible refine keeps_mk' ?x1 ?x2 ?x3 ?_); (case x1 => first | exact fun h => h | exact fun h => Mem.wf_putBytes _ _ h | exact fun h => Tab.wf_filter _ h); (case x2 => exact fun h => h); (case x3 => exact fusesRise_refl _))))

theorem State.unbounded_keeps {B0 : State} (s : State) (i : Nat) (k : Nat) (o : Nat) (errs : Nat) (scrub : Bool) (cases : Nat) (hk0 : keeps B0 s) :
    keeps B0 (State.unbounded s i k o errs scrub cases) := by
  unfold State.unbounded
  repeat' (first | with_reducible assumption | with_reducible apply State.corrected_keeps | with_reducible apply State.putBytes_keeps | with_reducible apply State.freeDevs_keeps | with_reducible apply State.freeLine_keeps | with_reducible apply State.findBad_keeps | ((with_reducible refine keeps_foldl _ ?_ ?_); intro _ _ _) | ((with_reducible refine keeps_foldl_fst _ ?_ ?_); intro _ _ _) | ((with_reducible refine keeps_foldl_snd _ ?_ ?_); intro _ _ _) | intro _ | (with_reducible refine keeps_fst (by assumption) ?_) | (with_reducible refine keeps_snd (by assumption) ?_) | (with_reducible refine keeps_trd (by assumption) ?_) | split | dsimp only | fail_if_no_progress with_reducible apply keeps_mk | (fail_if_no_progress ((with_reducible refine keeps_mk' ?x1 ?x2 ?x3 ?_); (case x1 => first | exact fun h => h | exact fun h => Mem.wf_putBytes _ _ h | exact fun h => Tab.wf_filter _ h); (case x2 => exact fun h => h); (case x3 => exact fusesRise_refl _))))

theorem State.lineRead_keeps {B0 : State} (s : State) (i : Nat) (o : Nat) (errs : Nat) (scrub : Bool) (hk0 : keeps B0 s) :
    keeps B0 (State.lineRead s i o errs scrub) := by
  unfold State.lineRead
  repeat' (first | with_reducible assumption | with_reducible apply State.unbounded_keeps | with_reducible apply State.corrected_keeps | with_reducible apply State.findBad_keeps | ((with_reducible refine keeps_foldl _ ?_ ?_); intro _ _ _) | ((with_reducible refine keeps_foldl_fst _ ?_ ?_); intro _ _ _) | ((with_reducible refine keeps_foldl_snd _ ?_ ?_); intro _ _ _) | intro _ | (with_reducible refine keeps_fst (by assumption) ?_) | (with_reducible refine keeps_snd (by assumption) ?_) | (with_reducible refine keeps_trd (by assumption) ?_) | split | dsimp only | fail_if_no_progress with_reducible apply keeps_mk | (fail_if_no_progress ((with_reducible refine keeps_mk' ?x1 ?x2 ?x3 ?_); (case x1 => first | exact fun h => h | exact fun h => Mem.wf_putBytes _ _ h | exact fun h => Tab.wf_filter _ h); (case x2 => exact fun h => h); (case x3 => exact fusesRise_refl _))))

theorem State.failMap_keeps {B0 : State} (s : State) (r : Req) (hk0 : keeps B0 s) :
    keeps B0 (State.failMap s r) := by
  unfold State.failMap
  repeat' (first | with_reducible assumption | with_reducible apply State.failQuery_keeps | ((with_reducible refine keeps_foldl _ ?_ ?_); intro _ _ _) | ((with_reducible refine keeps_foldl_fst _ ?_ ?_); intro _ _ _) | ((with_reducible refine keeps_foldl_snd _ ?_ ?_); intro _ _ _) | intro _ | (with_reducible refine keeps_fst (by assumption) ?_) | (with_reducible refine keeps_snd (by assumption) ?_) | (with_reducible refine keeps_trd (by assumption) ?_) | split | dsimp only | fail_if_no_progress with_reducible apply keeps_mk | (fail_if_no_progress ((with_reducible refine keeps_mk' ?x1 ?x2 ?x3 ?_); (case x1 => first | exact fun h => h | exact fun h => Mem.wf_putBytes _ _ h | exact fun h => Tab.wf_filter _ h); (case x2 => exact fun h => h); (case x3 => exact fusesRise_refl _))))

theorem State.lineCame_keeps {B0 : State} (s : State) (r : Req) (l : Nat) (hk0 : keeps B0 s) :
    keeps B0 (State.lineCame s r l).1 := by
  unfold State.lineCame
  repeat' (first | with_reducible assumption | with_reducible apply State.modExp_keeps | ((with_reducible refine keeps_foldl _ ?_ ?_); intro _ _ _) | ((with_reducible refine keeps_foldl_fst _ ?_ ?_); intro _ _ _) | ((with_reducible refine keeps_foldl_snd _ ?_ ?_); intro _ _ _) | intro _ | (with_reducible refine keeps_fst (by assumption) ?_) | (with_reducible refine keeps_snd (by assumption) ?_) | (with_reducible refine keeps_trd (by assumption) ?_) | split | dsimp only | fail_if_no_progress with_reducible apply keeps_mk | (fail_if_no_progress ((with_reducible refine keeps_mk' ?x1 ?x2 ?x3 ?_); (case x1 => first | exact fun h => h | exact fun h => Mem.wf_putBytes _ _ h | exact fun h => Tab.wf_filter _ h); (case x2 => exact fun h => h); (case x3 => exact fusesRise_refl _))))

theorem State.serveLine_keeps {B0 : State} (s : State) (i : Nat) (r : Req) (l : Nat) (g : Nat) (o : Nat) (errs : Nat) (hk0 : keeps B0 s) :
    keeps B0 (State.serveLine s i r l g o errs) := by
  unfold State.serveLine
  repeat' (first | with_reducible assumption | with_reducible apply State.setReq_keeps | with_reducible apply State.poisonRead_keeps | with_reducible apply State.meterAdd_keeps | with_reducible apply State.countAccess_keeps | with_reducible apply State.lineRead_keeps | with_reducible apply State.yieldAt_keeps | ((with_reducible refine keeps_foldl _ ?_ ?_); intro _ _ _) | ((with_reducible refine keeps_foldl_fst _ ?_ ?_); intro _ _ _) | ((with_reducible refine keeps_foldl_snd _ ?_ ?_); intro _ _ _) | intro _ | (with_reducible refine keeps_fst (by assumption) ?_) | (with_reducible refine keeps_snd (by assumption) ?_) | (with_reducible refine keeps_trd (by assumption) ?_) | split | dsimp only | fail_if_no_progress with_reducible apply keeps_mk | (fail_if_no_progress ((with_reducible refine keeps_mk' ?x1 ?x2 ?x3 ?_); (case x1 => first | exact fun h => h | exact fun h => Mem.wf_putBytes _ _ h | exact fun h => Tab.wf_filter _ h); (case x2 => exact fun h => h); (case x3 => exact fusesRise_refl _))))

theorem State.finishHalf_keeps {B0 : State} (s : State) (p : Nat) (a : Word) (n : Nat) (hk0 : keeps B0 s) :
    keeps B0 (State.finishHalf s p a n) := by
  unfold State.finishHalf
  repeat' (first | with_reducible assumption | with_reducible apply State.setReq_keeps | with_reducible apply State.serveLine_keeps | with_reducible apply State.lineCame_keeps | ((with_reducible refine keeps_foldl _ ?_ ?_); intro _ _ _) | ((with_reducible refine keeps_foldl_fst _ ?_ ?_); intro _ _ _) | ((with_reducible refine keeps_foldl_snd _ ?_ ?_); intro _ _ _) | intro _ | (with_reducible refine keeps_fst (by assumption) ?_) | (with_reducible refine keeps_snd (by assumption) ?_) | (with_reducible refine keeps_trd (by assumption) ?_) | split | dsimp only | fail_if_no_progress with_reducible apply keeps_mk | (fail_if_no_progress ((with_reducible refine keeps_mk' ?x1 ?x2 ?x3 ?_); (case x1 => first | exact fun h => h | exact fun h => Mem.wf_putBytes _ _ h | exact fun h => Tab.wf_filter _ h); (case x2 => exact fun h => h); (case x3 => exact fusesRise_refl _))))

theorem State.writeReqLine_keeps {B0 : State} (s : State) (i : Nat) (r : Req) (l : Nat) (hk0 : keeps B0 s) :
    keeps B0 (State.writeReqLine s i r l) := by
  unfold State.writeReqLine
  repeat' (first | with_reducible assumption | with_reducible apply State.setReq_keeps | with_reducible apply State.failMap_keeps | with_reducible apply State.writeLine_keeps | with_reducible apply State.fillAt_keeps | with_reducible apply State.countAccess_keeps | with_reducible apply State.translateAll_keeps | ((with_reducible refine keeps_foldl _ ?_ ?_); intro _ _ _) | ((with_reducible refine keeps_foldl_fst _ ?_ ?_); intro _ _ _) | ((with_reducible refine keeps_foldl_snd _ ?_ ?_); intro _ _ _) | intro _ | (with_reducible refine keeps_fst (by assumption) ?_) | (with_reducible refine keeps_snd (by assumption) ?_) | (with_reducible refine keeps_trd (by assumption) ?_) | split | dsimp only | fail_if_no_progress with_reducible apply keeps_mk | (fail_if_no_progress ((with_reducible refine keeps_mk' ?x1 ?x2 ?x3 ?_); (case x1 => first | exact fun h => h | exact fun h => Mem.wf_putBytes _ _ h | exact fun h => Tab.wf_filter _ h); (case x2 => exact fun h => h); (case x3 => exact fusesRise_refl _))))

theorem State.writeReqLines_keeps {B0 : State} (s : State) (i : Nat) (ls : List Nat) (hk0 : keeps B0 s) :
    keeps B0 (State.writeReqLines s i ls) := by
  unfold State.writeReqLines
  repeat' (first | with_reducible assumption | with_reducible apply State.writeReqLine_keeps | ((with_reducible refine keeps_foldl _ ?_ ?_); intro _ _ _) | ((with_reducible refine keeps_foldl_fst _ ?_ ?_); intro _ _ _) | ((with_reducible refine keeps_foldl_snd _ ?_ ?_); intro _ _ _) | intro _ | (with_reducible refine keeps_fst (by assumption) ?_) | (with_reducible refine keeps_snd (by assumption) ?_) | (with_reducible refine keeps_trd (by assumption) ?_) | split | dsimp only | fail_if_no_progress with_reducible apply keeps_mk | (fail_if_no_progress ((with_reducible refine keeps_mk' ?x1 ?x2 ?x3 ?_); (case x1 => first | exact fun h => h | exact fun h => Mem.wf_putBytes _ _ h | exact fun h => Tab.wf_filter _ h); (case x2 => exact fun h => h); (case x3 => exact fusesRise_refl _))))

theorem State.scrubWindow_keeps {B0 : State} (s : State) (g : Nat) (line : Nat) (w : Nat) (errs : Nat) (hk0 : keeps B0 s) :
    keeps B0 (State.scrubWindow s g line w errs) := by
  unfold State.scrubWindow
  repeat' (first | with_reducible assumption | with_reducible apply State.uncorr_keeps | with_reducible apply State.bump_keeps | ((with_reducible refine keeps_foldl _ ?_ ?_); intro _ _ _) | ((with_reducible refine keeps_foldl_fst _ ?_ ?_); intro _ _ _) | ((with_reducible refine keeps_foldl_snd _ ?_ ?_); intro _ _ _) | intro _ | (with_reducible refine keeps_fst (by assumption) ?_) | (with_reducible refine keeps_snd (by assumption) ?_) | (with_reducible refine keeps_trd (by assumption) ?_) | split | dsimp only | fail_if_no_progress with_reducible apply keeps_mk | (fail_if_no_progress ((with_reducible refine keeps_mk' ?x1 ?x2 ?x3 ?_); (case x1 => first | exact fun h => h | exact fun h => Mem.wf_putBytes _ _ h | exact fun h => Tab.wf_filter _ h); (case x2 => exact fun h => h); (case x3 => exact fusesRise_refl _))))

theorem State.putMap_keeps {B0 : State} (s : State) (p : Nat) (gs : List Nat) (hk0 : keeps B0 s) :
    keeps B0 (State.putMap s p gs) := by
  unfold State.putMap
  repeat' (first | with_reducible assumption | with_reducible apply State.putBytes_keeps | ((with_reducible refine keeps_foldl _ ?_ ?_); intro _ _ _) | ((with_reducible refine keeps_foldl_fst _ ?_ ?_); intro _ _ _) | ((with_reducible refine keeps_foldl_snd _ ?_ ?_); intro _ _ _) | intro _ | (with_reducible refine keeps_fst (by assumption) ?_) | (with_reducible refine keeps_snd (by assumption) ?_) | (with_reducible refine keeps_trd (by assumption) ?_) | split | dsimp only | fail_if_no_progress with_reducible apply keeps_mk | (fail_if_no_progress ((with_reducible refine keeps_mk' ?x1 ?x2 ?x3 ?_); (case x1 => first | exact fun h => h | exact fun h => Mem.wf_putBytes _ _ h | exact fun h => Tab.wf_filter _ h); (case x2 => exact fun h => h); (case x3 => exact fusesRise_refl _))))

theorem State.startMove_keeps {B0 : State} (s : State) (p : Nat) (m : Move) {t : State} (e : s.startMove p m = some t)
    (hk0 : keeps B0 s) : keeps B0 t := by
  unfold State.startMove at e
  split at e
  · cases e
    exact State.putMap_keeps _ _ _ (State.modTp_keeps _ _ _ hk0)
  · dsimp only at e
    split at e
    · cases e
    · cases e
      exact State.putMap_keeps _ _ _ (State.modTp_keeps _ _ _ (State.choose_keeps _ _ hk0))

theorem State.nextMove_keeps {B0 : State} (s : State) (p : Nat) (l : List Move) (hk0 : keeps B0 s) : keeps B0 (s.nextMove p l) := by
  induction l with
  | nil =>
    unfold State.nextMove
    with_reducible apply State.modTp_keeps
    assumption
  | cons m r ih =>
    unfold State.nextMove
    split
    · rename_i e
      split at e
      · with_reducible apply State.modTp_keeps
        exact State.startMove_keeps s p m e hk0
      · cases e
    · exact ih

theorem State.applyPin_keeps {B0 : State} (s : State) (p : Nat) (num : Nat) (target : Nat) (flags : Nat) (hk0 : keeps B0 s) :
    keeps B0 (State.applyPin s p num target flags) := by
  unfold State.applyPin
  repeat' (first | with_reducible assumption | with_reducible apply State.putMap_keeps | with_reducible apply State.modTp_keeps | ((with_reducible refine keeps_foldl _ ?_ ?_); intro _ _ _) | ((with_reducible refine keeps_foldl_fst _ ?_ ?_); intro _ _ _) | ((with_reducible refine keeps_foldl_snd _ ?_ ?_); intro _ _ _) | intro _ | (with_reducible refine keeps_fst (by assumption) ?_) | (with_reducible refine keeps_snd (by assumption) ?_) | (with_reducible refine keeps_trd (by assumption) ?_) | split | dsimp only | fail_if_no_progress with_reducible apply keeps_mk | (fail_if_no_progress ((with_reducible refine keeps_mk' ?x1 ?x2 ?x3 ?_); (case x1 => first | exact fun h => h | exact fun h => Mem.wf_putBytes _ _ h | exact fun h => Tab.wf_filter _ h); (case x2 => exact fun h => h); (case x3 => exact fusesRise_refl _))))

theorem State.batchRun_keeps {B0 : State} (s : State) (p : Nat) (b : Batch) (z0 : List (Nat × Nat × Nat)) (hk0 : keeps B0 s) :
    keeps B0 (State.batchRun s p b z0) := by
  induction z0 generalizing s  with
  | nil => unfold State.batchRun; assumption
  | cons a r ih => 
    unfold State.batchRun
    repeat' (first | with_reducible assumption | with_reducible apply State.loswProg_keeps | with_reducible apply State.applyPin_keeps | with_reducible apply State.loswFail_keeps | with_reducible apply State.loswDone_keeps | with_reducible apply State.modTp_keeps | (with_reducible refine State.startMove_keeps _ _ (by assumption) ?_) | (with_reducible refine State.startMove_keeps _ _ _ (by assumption) ?_) | (with_reducible refine keeps_ite_none (by assumption) ?_) | with_reducible apply ih | ((with_reducible refine keeps_foldl _ ?_ ?_); intro _ _ _) | ((with_reducible refine keeps_foldl_fst _ ?_ ?_); intro _ _ _) | ((with_reducible refine keeps_foldl_snd _ ?_ ?_); intro _ _ _) | intro _ | (with_reducible refine keeps_fst (by assumption) ?_) | (with_reducible refine keeps_snd (by assumption) ?_) | (with_reducible refine keeps_trd (by assumption) ?_) | split | dsimp only | fail_if_no_progress with_reducible apply keeps_mk | (fail_if_no_progress ((with_reducible refine keeps_mk' ?x1 ?x2 ?x3 ?_); (case x1 => first | exact fun h => h | exact fun h => Mem.wf_putBytes _ _ h | exact fun h => Tab.wf_filter _ h); (case x2 => exact fun h => h); (case x3 => exact fusesRise_refl _))))

theorem State.afterMove_keeps {B0 : State} (s : State) (p : Nat) (hk0 : keeps B0 s) :
    keeps B0 (State.afterMove s p) := by
  unfold State.afterMove
  repeat' (first | with_reducible assumption | with_reducible apply State.nextMove_keeps | with_reducible apply State.batchRun_keeps | ((with_reducible refine keeps_foldl _ ?_ ?_); intro _ _ _) | ((with_reducible refine keeps_foldl_fst _ ?_ ?_); intro _ _ _) | ((with_reducible refine keeps_foldl_snd _ ?_ ?_); intro _ _ _) | intro _ | (with_reducible refine keeps_fst (by assumption) ?_) | (with_reducible refine keeps_snd (by assumption) ?_) | (with_reducible refine keeps_trd (by assumption) ?_) | split | dsimp only | fail_if_no_progress with_reducible apply keeps_mk | (fail_if_no_progress ((with_reducible refine keeps_mk' ?x1 ?x2 ?x3 ?_); (case x1 => first | exact fun h => h | exact fun h => Mem.wf_putBytes _ _ h | exact fun h => Tab.wf_filter _ h); (case x2 => exact fun h => h); (case x3 => exact fusesRise_refl _))))

theorem State.copySubs_keeps {B0 : State} (s : State) (p : Nat) (st : Nat) (so : Nat) (dt : Nat) (d0 : Nat) (subs : List Nat) (hk0 : keeps B0 s) :
    keeps B0 (State.copySubs s p st so dt d0 subs) := by
  unfold State.copySubs
  repeat' (first | with_reducible assumption | with_reducible apply State.fillStripes_keeps | with_reducible apply State.putLoc_keeps | with_reducible apply State.poisonRead_keeps | with_reducible apply State.reportLoc_keeps | with_reducible apply State.readUnit_keeps | with_reducible apply State.placeWaits_keeps | ((with_reducible refine keeps_foldl _ ?_ ?_); intro _ _ _) | ((with_reducible refine keeps_foldl_fst _ ?_ ?_); intro _ _ _) | ((with_reducible refine keeps_foldl_snd _ ?_ ?_); intro _ _ _) | intro _ | (with_reducible refine keeps_fst (by assumption) ?_) | (with_reducible refine keeps_snd (by assumption) ?_) | (with_reducible refine keeps_trd (by assumption) ?_) | split | dsimp only | fail_if_no_progress with_reducible apply keeps_mk | (fail_if_no_progress ((with_reducible refine keeps_mk' ?x1 ?x2 ?x3 ?_); (case x1 => first | exact fun h => h | exact fun h => Mem.wf_putBytes _ _ h | exact fun h => Tab.wf_filter _ h); (case x2 => exact fun h => h); (case x3 => exact fusesRise_refl _))))

theorem State.commitMove_keeps {B0 : State} (s : State) (p : Nat) (m : Move) (hk0 : keeps B0 s) :
    keeps B0 (State.commitMove s p m) := by
  unfold State.commitMove
  repeat' (first | with_reducible assumption | with_reducible apply State.modTp_keeps | with_reducible apply State.copySubs_keeps | with_reducible apply State.bump_keeps | ((with_reducible refine keeps_foldl _ ?_ ?_); intro _ _ _) | ((with_reducible refine keeps_foldl_fst _ ?_ ?_); intro _ _ _) | ((with_reducible refine keeps_foldl_snd _ ?_ ?_); intro _ _ _) | intro _ | (with_reducible refine keeps_fst (by assumption) ?_) | (with_reducible refine keeps_snd (by assumption) ?_) | (with_reducible refine keeps_trd (by assumption) ?_) | split | dsimp only | fail_if_no_progress with_reducible apply keeps_mk | (fail_if_no_progress ((with_reducible refine keeps_mk' ?x1 ?x2 ?x3 ?_); (case x1 => first | exact fun h => h | exact fun h => Mem.wf_putBytes _ _ h | exact fun h => Tab.wf_filter _ h); (case x2 => exact fun h => h); (case x3 => exact fusesRise_refl _))))

theorem State.abandonMove_keeps {B0 : State} (s : State) (p : Nat) (m : Move) (hk0 : keeps B0 s) :
    keeps B0 (State.abandonMove s p m) := by
  unfold State.abandonMove
  repeat' (first | with_reducible assumption | with_reducible apply State.afterMove_keeps | with_reducible apply State.loswFail_keeps | with_reducible apply State.logEv_keeps | with_reducible apply State.bump_keeps | with_reducible apply State.putMap_keeps | with_reducible apply State.modTp_keeps | ((with_reducible refine keeps_foldl _ ?_ ?_); intro _ _ _) | ((with_reducible refine keeps_foldl_fst _ ?_ ?_); intro _ _ _) | ((with_reducible refine keeps_foldl_snd _ ?_ ?_); intro _ _ _) | intro _ | (with_reducible refine keeps_fst (by assumption) ?_) | (with_reducible refine keeps_snd (by assumption) ?_) | (with_reducible refine keeps_trd (by assumption) ?_) | split | dsimp only | fail_if_no_progress with_reducible apply keeps_mk | (fail_if_no_progress ((with_reducible refine keeps_mk' ?x1 ?x2 ?x3 ?_); (case x1 => first | exact fun h => h | exact fun h => Mem.wf_putBytes _ _ h | exact fun h => Tab.wf_filter _ h); (case x2 => exact fun h => h); (case x3 => exact fusesRise_refl _))))

theorem State.newMap_keeps {B0 : State} (s : State) (p : Nat) (hk0 : keeps B0 s) :
    keeps B0 (State.newMap s p) := by
  unfold State.newMap
  repeat' (first | with_reducible assumption | with_reducible apply State.putMap_keeps | with_reducible apply State.modTp_keeps | ((with_reducible refine keeps_foldl _ ?_ ?_); intro _ _ _) | ((with_reducible refine keeps_foldl_fst _ ?_ ?_); intro _ _ _) | ((with_reducible refine keeps_foldl_snd _ ?_ ?_); intro _ _ _) | intro _ | (with_reducible refine keeps_fst (by assumption) ?_) | (with_reducible refine keeps_snd (by assumption) ?_) | (with_reducible refine keeps_trd (by assumption) ?_) | split | dsimp only | fail_if_no_progress with_reducible apply keeps_mk | (fail_if_no_progress ((with_reducible refine keeps_mk' ?x1 ?x2 ?x3 ?_); (case x1 => first | exact fun h => h | exact fun h => Mem.wf_putBytes _ _ h | exact fun h => Tab.wf_filter _ h); (case x2 => exact fun h => h); (case x3 => exact fusesRise_refl _))))

end Sys2Proof.Machine
end

