-- ==== Sys2Proof/Laws/KeepsAdmit.lean ====
section
/-! SUPPORT. What the operations of Machine/Admit.lean keep. -/

namespace Sys2Proof.Machine

set_option linter.unreachableTactic false
set_option linter.unusedTactic false
set_option linter.unusedVariables false

theorem State.sendItem_keeps {B0 : State} (s : State) (p : Nat) (c : Nat) (b : List Byte) (hk0 : keeps B0 s) :
    keeps B0 (State.sendItem s p c b) := by
  unfold State.sendItem
  repeat' (first | with_reducible assumption | with_reducible apply State.modDk_keeps | with_reducible apply State.wakeUnit_keeps | with_reducible apply State.modCore_keeps | ((with_reducible refine keeps_foldl _ ?_ ?_); intro _ _ _) | ((with_reducible refine keeps_foldl_fst _ ?_ ?_); intro _ _ _) | ((with_reducible refine keeps_foldl_snd _ ?_ ?_); intro _ _ _) | intro _ | (with_reducible refine keeps_fst (by assumption) ?_) | (with_reducible refine keeps_snd (by assumption) ?_) | (with_reducible refine keeps_trd (by assumption) ?_) | split | dsimp only | fail_if_no_progress with_reducible apply keeps_mk | (fail_if_no_progress ((with_reducible refine keeps_mk' ?x1 ?x2 ?x3 ?_); (case x1 => first | exact fun h => h | exact fun h => Mem.wf_putBytes _ _ h | exact fun h => Tab.wf_filter _ h); (case x2 => exact fun h => h); (case x3 => exact fusesRise_refl _))))

theorem State.rsvFull_keeps {B0 : State} (s : State) (p : Nat) (hk0 : keeps B0 s) :
    keeps B0 (State.rsvFull s p) := by
  unfold State.rsvFull
  repeat' (first | with_reducible assumption | with_reducible apply State.modDk_keeps | ((with_reducible refine keeps_foldl _ ?_ ?_); intro _ _ _) | ((with_reducible refine keeps_foldl_fst _ ?_ ?_); intro _ _ _) | ((with_reducible refine keeps_foldl_snd _ ?_ ?_); intro _ _ _) | intro _ | (with_reducible refine keeps_fst (by assumption) ?_) | (with_reducible refine keeps_snd (by assumption) ?_) | (with_reducible refine keeps_trd (by assumption) ?_) | split | dsimp only | fail_if_no_progress with_reducible apply keeps_mk | (fail_if_no_progress ((with_reducible refine keeps_mk' ?x1 ?x2 ?x3 ?_); (case x1 => first | exact fun h => h | exact fun h => Mem.wf_putBytes _ _ h | exact fun h => Tab.wf_filter _ h); (case x2 => exact fun h => h); (case x3 => exact fusesRise_refl _))))

theorem State.ringTake_keeps {B0 : State} (s : State) (p : Nat) (base : Word) (size : Nat) (z0 : Nat) (hk0 : keeps B0 s) :
    keeps B0 (State.ringTake s p base size z0) := by
  induction z0 generalizing s  with
  | zero => unfold State.ringTake; assumption
  | succ n ih => 
    unfold State.ringTake
    repeat' (first | with_reducible assumption | with_reducible apply State.devWrite_keeps | with_reducible apply State.modDk_keeps | with_reducible apply State.meterRead_keeps | with_reducible apply State.readBy_keeps | with_reducible apply ih | ((with_reducible refine keeps_foldl _ ?_ ?_); intro _ _ _) | ((with_reducible refine keeps_foldl_fst _ ?_ ?_); intro _ _ _) | ((with_reducible refine keeps_foldl_snd _ ?_ ?_); intro _ _ _) | intro _ | (with_reducible refine keeps_fst (by assumption) ?_) | (with_reducible refine keeps_snd (by assumption) ?_) | (with_reducible refine keeps_trd (by assumption) ?_) | split | dsimp only | fail_if_no_progress with_reducible apply keeps_mk | (fail_if_no_progress ((with_reducible refine keeps_mk' ?x1 ?x2 ?x3 ?_); (case x1 => first | exact fun h => h | exact fun h => Mem.wf_putBytes _ _ h | exact fun h => Tab.wf_filter _ h); (case x2 => exact fun h => h); (case x3 => exact fusesRise_refl _))))

theorem State.pickSq_keeps {B0 : State} (s : State) (b : Nat) {t : Nat × Nat × State} (e : s.pickSq b = some t)
    (hk0 : keeps B0 s) : keeps B0 t.2.2 := by
  unfold State.pickSq at e
  dsimp only at e
  split at e
  · cases e
  · split at e
    · cases e
    · cases e
      with_reducible apply State.modDesk_keeps
      assumption

theorem State.complete_keeps {B0 : State} (s : State) (x : Query) (comp : List Byte) (rec_ : List Byte) (quiet : Bool) (hk0 : keeps B0 s) :
    keeps B0 (State.complete s x comp rec_ quiet) := by
  unfold State.complete
  repeat' (first | with_reducible assumption | with_reducible apply State.carWrite_keeps | with_reducible apply State.sendMsg_keeps | with_reducible apply State.postCq_keeps | ((with_reducible refine keeps_foldl _ ?_ ?_); intro _ _ _) | ((with_reducible refine keeps_foldl_fst _ ?_ ?_); intro _ _ _) | ((with_reducible refine keeps_foldl_snd _ ?_ ?_); intro _ _ _) | intro _ | (with_reducible refine keeps_fst (by assumption) ?_) | (with_reducible refine keeps_snd (by assumption) ?_) | (with_reducible refine keeps_trd (by assumption) ?_) | split | dsimp only | fail_if_no_progress with_reducible apply keeps_mk | (fail_if_no_progress ((with_reducible refine keeps_mk' ?x1 ?x2 ?x3 ?_); (case x1 => first | exact fun h => h | exact fun h => Mem.wf_putBytes _ _ h | exact fun h => Tab.wf_filter _ h); (case x2 => exact fun h => h); (case x3 => exact fusesRise_refl _))))

theorem State.refuse_keeps {B0 : State} (s : State) (x : Query) (code : Nat) (hk0 : keeps B0 s) :
    keeps B0 (State.refuse s x code) := by
  unfold State.refuse
  repeat' (first | with_reducible assumption | with_reducible apply State.complete_keeps | with_reducible apply State.loswFail_keeps | with_reducible apply State.bump_keeps | ((with_reducible refine keeps_foldl _ ?_ ?_); intro _ _ _) | ((with_reducible refine keeps_foldl_fst _ ?_ ?_); intro _ _ _) | ((with_reducible refine keeps_foldl_snd _ ?_ ?_); intro _ _ _) | intro _ | (with_reducible refine keeps_fst (by assumption) ?_) | (with_reducible refine keeps_snd (by assumption) ?_) | (with_reducible refine keeps_trd (by assumption) ?_) | split | dsimp only | fail_if_no_progress with_reducible apply keeps_mk | (fail_if_no_progress ((with_reducible refine keeps_mk' ?x1 ?x2 ?x3 ?_); (case x1 => first | exact fun h => h | exact fun h => Mem.wf_putBytes _ _ h | exact fun h => Tab.wf_filter _ h); (case x2 => exact fun h => h); (case x3 => exact fusesRise_refl _))))

theorem State.readOwned_keeps {B0 : State} (s : State) (x : Query) (poison : Bool) (admitted : Bool) (hk0 : keeps B0 s) :
    keeps B0 (State.readOwned s x poison admitted) := by
  unfold State.readOwned
  repeat' (first | with_reducible assumption | with_reducible apply State.meterRead_keeps | with_reducible apply State.readBy_keeps | ((with_reducible refine keeps_foldl _ ?_ ?_); intro _ _ _) | ((with_reducible refine keeps_foldl_fst _ ?_ ?_); intro _ _ _) | ((with_reducible refine keeps_foldl_snd _ ?_ ?_); intro _ _ _) | intro _ | (with_reducible refine keeps_fst (by assumption) ?_) | (with_reducible refine keeps_snd (by assumption) ?_) | (with_reducible refine keeps_trd (by assumption) ?_) | split | dsimp only | fail_if_no_progress with_reducible apply keeps_mk | (fail_if_no_progress ((with_reducible refine keeps_mk' ?x1 ?x2 ?x3 ?_); (case x1 => first | exact fun h => h | exact fun h => Mem.wf_putBytes _ _ h | exact fun h => Tab.wf_filter _ h); (case x2 => exact fun h => h); (case x3 => exact fusesRise_refl _))))

theorem State.enterQuery_keeps {B0 : State} (s0 : State) (x : Query) (poison : Bool) (hk0 : keeps B0 s0) :
    keeps B0 (State.enterQuery s0 x poison) := by
  unfold State.enterQuery
  repeat' (first | with_reducible assumption | with_reducible apply State.repin_keeps | with_reducible apply State.meterAdd_keeps | with_reducible apply State.bump_keeps | with_reducible apply State.modDesk_keeps | with_reducible apply State.setQuery_keeps | with_reducible apply State.modDk_keeps | with_reducible apply State.refuse_keeps | with_reducible apply State.readOwned_keeps | ((with_reducible refine keeps_foldl _ ?_ ?_); intro _ _ _) | ((with_reducible refine keeps_foldl_fst _ ?_ ?_); intro _ _ _) | ((with_reducible refine keeps_foldl_snd _ ?_ ?_); intro _ _ _) | intro _ | (with_reducible refine keeps_fst (by assumption) ?_) | (with_reducible refine keeps_snd (by assumption) ?_) | (with_reducible refine keeps_trd (by assumption) ?_) | split | dsimp only | fail_if_no_progress with_reducible apply keeps_mk | (fail_if_no_progress ((with_reducible refine keeps_mk' ?x1 ?x2 ?x3 ?_); (case x1 => first | exact fun h => h | exact fun h => Mem.wf_putBytes _ _ h | exact fun h => Tab.wf_filter _ h); (case x2 => exact fun h => h); (case x3 => exact fusesRise_refl _))))

theorem State.takeSq_keeps {B0 : State} (s : State) (k : Nat) (q : Nat) (hk0 : keeps B0 s) :
    keeps B0 (State.takeSq s k q) := by
  unfold State.takeSq
  repeat' (first | with_reducible assumption | with_reducible apply State.enterQuery_keeps | with_reducible apply State.meterRead_keeps | with_reducible apply State.bump_keeps | with_reducible apply State.modHost_keeps | with_reducible apply State.readBy_keeps | ((with_reducible refine keeps_foldl _ ?_ ?_); intro _ _ _) | ((with_reducible refine keeps_foldl_fst _ ?_ ?_); intro _ _ _) | ((with_reducible refine keeps_foldl_snd _ ?_ ?_); intro _ _ _) | intro _ | (with_reducible refine keeps_fst (by assumption) ?_) | (with_reducible refine keeps_snd (by assumption) ?_) | (with_reducible refine keeps_trd (by assumption) ?_) | split | dsimp only | fail_if_no_progress with_reducible apply keeps_mk | (fail_if_no_progress ((with_reducible refine keeps_mk' ?x1 ?x2 ?x3 ?_); (case x1 => first | exact fun h => h | exact fun h => Mem.wf_putBytes _ _ h | exact fun h => Tab.wf_filter _ h); (case x2 => exact fun h => h); (case x3 => exact fusesRise_refl _))))

theorem State.turn_keeps {B0 : State} (s : State) (k : Nat) {t : State} (e : s.turn k = some t) (hk0 : keeps B0 s) : keeps B0 t := by
  have pick : ∀ b, (s.pickSq b).map (fun x => x.2.2.takeSq x.1 x.2.1) = some t → keeps B0 t := by
    intro b e
    rw [Option.map_eq_some_iff] at e
    obtain ⟨x, hx, e⟩ := e
    subst e
    exact State.takeSq_keeps _ _ _ (State.pickSq_keeps s b hx hk0)
  unfold State.turn at e
  split at e
  · exact pick _ e
  · exact pick _ e
  · split at e
    · cases e
    · cases e
      with_reducible apply State.enterQuery_keeps
      with_reducible apply keeps_mk
      with_reducible apply State.modDesk_keeps
      assumption
  · dsimp only at e
    split at e
    · cases e
    · split at e
      · cases e
      · cases e
        with_reducible apply State.enterQuery_keeps
        split
        · with_reducible apply State.meterRead_keeps
          with_reducible apply State.modDk_keeps
          with_reducible apply keeps_mk
          assumption
        · with_reducible apply State.modDk_keeps
          with_reducible apply keeps_mk
          assumption

theorem State.sendFan_keeps {B0 : State} (s : State) (q : Nat) (x : Query) (kind : Nat) (cols : Nat) (fan : List Nat) (hk0 : keeps B0 s) :
    keeps B0 (State.sendFan s q x kind cols fan) := by
  unfold State.sendFan
  repeat' (first | with_reducible assumption | with_reducible apply State.sendItem_keeps | with_reducible apply State.modQuery_keeps | ((with_reducible refine keeps_foldl _ ?_ ?_); intro _ _ _) | ((with_reducible refine keeps_foldl_fst _ ?_ ?_); intro _ _ _) | ((with_reducible refine keeps_foldl_snd _ ?_ ?_); intro _ _ _) | intro _ | (with_reducible refine keeps_fst (by assumption) ?_) | (with_reducible refine keeps_snd (by assumption) ?_) | (with_reducible refine keeps_trd (by assumption) ?_) | split | dsimp only | fail_if_no_progress with_reducible apply keeps_mk | (fail_if_no_progress ((with_reducible refine keeps_mk' ?x1 ?x2 ?x3 ?_); (case x1 => first | exact fun h => h | exact fun h => Mem.wf_putBytes _ _ h | exact fun h => Tab.wf_filter _ h); (case x2 => exact fun h => h); (case x3 => exact fusesRise_refl _))))

theorem State.fanOut_keeps {B0 : State} (s : State) (q : Nat) (x : Query) (hk0 : keeps B0 s) :
    keeps B0 (State.fanOut s q x) := by
  unfold State.fanOut
  repeat' (first | with_reducible assumption | with_reducible apply State.sendMsg_keeps | with_reducible apply State.modQuery_keeps | ((with_reducible refine keeps_foldl _ ?_ ?_); intro _ _ _) | ((with_reducible refine keeps_foldl_fst _ ?_ ?_); intro _ _ _) | ((with_reducible refine keeps_foldl_snd _ ?_ ?_); intro _ _ _) | intro _ | (with_reducible refine keeps_fst (by assumption) ?_) | (with_reducible refine keeps_snd (by assumption) ?_) | (with_reducible refine keeps_trd (by assumption) ?_) | split | dsimp only | fail_if_no_progress with_reducible apply keeps_mk | (fail_if_no_progress ((with_reducible refine keeps_mk' ?x1 ?x2 ?x3 ?_); (case x1 => first | exact fun h => h | exact fun h => Mem.wf_putBytes _ _ h | exact fun h => Tab.wf_filter _ h); (case x2 => exact fun h => h); (case x3 => exact fusesRise_refl _))))

theorem State.collectLists_keeps {B0 : State} (s : State) (q : Nat) (x : Query) (ss : List MSrc) (hk0 : keeps B0 s) :
    keeps B0 (State.collectLists s q x ss) := by
  unfold State.collectLists
  repeat' (first | with_reducible assumption | with_reducible apply State.askMerge_keeps | with_reducible apply State.failQuery_keeps | with_reducible apply State.checkSrc_keeps | with_reducible apply State.mergeNext_keeps | with_reducible apply State.modQuery_keeps | ((with_reducible refine keeps_foldl _ ?_ ?_); intro _ _ _) | ((with_reducible refine keeps_foldl_fst _ ?_ ?_); intro _ _ _) | ((with_reducible refine keeps_foldl_snd _ ?_ ?_); intro _ _ _) | intro _ | (with_reducible refine keeps_fst (by assumption) ?_) | (with_reducible refine keeps_snd (by assumption) ?_) | (with_reducible refine keeps_trd (by assumption) ?_) | split | dsimp only | fail_if_no_progress with_reducible apply keeps_mk | (fail_if_no_progress ((with_reducible refine keeps_mk' ?x1 ?x2 ?x3 ?_); (case x1 => first | exact fun h => h | exact fun h => Mem.wf_putBytes _ _ h | exact fun h => Tab.wf_filter _ h); (case x2 => exact fun h => h); (case x3 => exact fusesRise_refl _))))

theorem State.collectBulk_keeps {B0 : State} (s : State) (q : Nat) (x : Query) (p : Nat) (o : Nat) (hk0 : keeps B0 s) :
    keeps B0 (State.collectBulk s q x p o) := by
  unfold State.collectBulk
  repeat' (first | with_reducible assumption | with_reducible apply State.collectLists_keeps | ((with_reducible refine keeps_foldl _ ?_ ?_); intro _ _ _) | ((with_reducible refine keeps_foldl_fst _ ?_ ?_); intro _ _ _) | ((with_reducible refine keeps_foldl_snd _ ?_ ?_); intro _ _ _) | intro _ | (with_reducible refine keeps_fst (by assumption) ?_) | (with_reducible refine keeps_snd (by assumption) ?_) | (with_reducible refine keeps_trd (by assumption) ?_) | split | dsimp only | fail_if_no_progress with_reducible apply keeps_mk | (fail_if_no_progress ((with_reducible refine keeps_mk' ?x1 ?x2 ?x3 ?_); (case x1 => first | exact fun h => h | exact fun h => Mem.wf_putBytes _ _ h | exact fun h => Tab.wf_filter _ h); (case x2 => exact fun h => h); (case x3 => exact fusesRise_refl _))))

theorem State.readyStep_keeps {B0 : State} (s : State) (p : Nat) (x : Step) (hk0 : keeps B0 s) :
    keeps B0 (State.readyStep s p x) := by
  unfold State.readyStep
  repeat' (first | with_reducible assumption | with_reducible apply State.modDk_keeps | ((with_reducible refine keeps_foldl _ ?_ ?_); intro _ _ _) | ((with_reducible refine keeps_foldl_fst _ ?_ ?_); intro _ _ _) | ((with_reducible refine keeps_foldl_snd _ ?_ ?_); intro _ _ _) | intro _ | (with_reducible refine keeps_fst (by assumption) ?_) | (with_reducible refine keeps_snd (by assumption) ?_) | (with_reducible refine keeps_trd (by assumption) ?_) | split | dsimp only | fail_if_no_progress with_reducible apply keeps_mk | (fail_if_no_progress ((with_reducible refine keeps_mk' ?x1 ?x2 ?x3 ?_); (case x1 => first | exact fun h => h | exact fun h => Mem.wf_putBytes _ _ h | exact fun h => Tab.wf_filter _ h); (case x2 => exact fun h => h); (case x3 => exact fusesRise_refl _))))

theorem State.startStage_keeps {B0 : State} (s : State) (q : Nat) (x : Query) (g : Stage) (hk0 : keeps B0 s) :
    keeps B0 (State.startStage s q x g) := by
  unfold State.startStage
  repeat' (first | with_reducible assumption | with_reducible apply State.modDk_keeps | with_reducible apply State.collectLists_keeps | with_reducible apply State.collectBulk_keeps | with_reducible apply State.sendFan_keeps | with_reducible apply State.fanOut_keeps | with_reducible apply State.readyStep_keeps | with_reducible apply State.modQuery_keeps | ((with_reducible refine keeps_foldl _ ?_ ?_); intro _ _ _) | ((with_reducible refine keeps_foldl_fst _ ?_ ?_); intro _ _ _) | ((with_reducible refine keeps_foldl_snd _ ?_ ?_); intro _ _ _) | intro _ | (with_reducible refine keeps_fst (by assumption) ?_) | (with_reducible refine keeps_snd (by assumption) ?_) | (with_reducible refine keeps_trd (by assumption) ?_) | split | dsimp only | fail_if_no_progress with_reducible apply keeps_mk | (fail_if_no_progress ((with_reducible refine keeps_mk' ?x1 ?x2 ?x3 ?_); (case x1 => first | exact fun h => h | exact fun h => Mem.wf_putBytes _ _ h | exact fun h => Tab.wf_filter _ h); (case x2 => exact fun h => h); (case x3 => exact fusesRise_refl _))))

theorem State.endQuery_keeps {B0 : State} (s : State) (q : Nat) (x : Query) (failed : Bool) (hk0 : keeps B0 s) :
    keeps B0 (State.endQuery s q x failed) := by
  unfold State.endQuery
  repeat' (first | with_reducible assumption | with_reducible apply State.repin_keeps | with_reducible apply State.carCancel_keeps | with_reducible apply State.modDk_keeps | with_reducible apply State.setQuery_keeps | ((with_reducible refine keeps_foldl _ ?_ ?_); intro _ _ _) | ((with_reducible refine keeps_foldl_fst _ ?_ ?_); intro _ _ _) | ((with_reducible refine keeps_foldl_snd _ ?_ ?_); intro _ _ _) | intro _ | (with_reducible refine keeps_fst (by assumption) ?_) | (with_reducible refine keeps_snd (by assumption) ?_) | (with_reducible refine keeps_trd (by assumption) ?_) | split | dsimp only | fail_if_no_progress with_reducible apply keeps_mk | (fail_if_no_progress ((with_reducible refine keeps_mk' ?x1 ?x2 ?x3 ?_); (case x1 => first | exact fun h => h | exact fun h => Mem.wf_putBytes _ _ h | exact fun h => Tab.wf_filter _ h); (case x2 => exact fun h => h); (case x3 => exact fusesRise_refl _))))

theorem State.countLate_keeps {B0 : State} (s : State) (x : Query) (hk0 : keeps B0 s) :
    keeps B0 (State.countLate s x) := by
  unfold State.countLate
  repeat' (first | with_reducible assumption | with_reducible apply State.bump_keeps | ((with_reducible refine keeps_foldl _ ?_ ?_); intro _ _ _) | ((with_reducible refine keeps_foldl_fst _ ?_ ?_); intro _ _ _) | ((with_reducible refine keeps_foldl_snd _ ?_ ?_); intro _ _ _) | intro _ | (with_reducible refine keeps_fst (by assumption) ?_) | (with_reducible refine keeps_snd (by assumption) ?_) | (with_reducible refine keeps_trd (by assumption) ?_) | split | dsimp only | fail_if_no_progress with_reducible apply keeps_mk | (fail_if_no_progress ((with_reducible refine keeps_mk' ?x1 ?x2 ?x3 ?_); (case x1 => first | exact fun h => h | exact fun h => Mem.wf_putBytes _ _ h | exact fun h => Tab.wf_filter _ h); (case x2 => exact fun h => h); (case x3 => exact fusesRise_refl _))))

theorem State.endFailed_keeps {B0 : State} (s : State) (q : Nat) (x : Query) (code : Nat) (quiet : Bool) (hk0 : keeps B0 s) :
    keeps B0 (State.endFailed s q x code quiet) := by
  unfold State.endFailed
  repeat' (first | with_reducible assumption | with_reducible apply State.complete_keeps | with_reducible apply State.loswFail_keeps | with_reducible apply State.endQuery_keeps | with_reducible apply State.countLate_keeps | with_reducible apply State.bump_keeps | ((with_reducible refine keeps_foldl _ ?_ ?_); intro _ _ _) | ((with_reducible refine keeps_foldl_fst _ ?_ ?_); intro _ _ _) | ((with_reducible refine keeps_foldl_snd _ ?_ ?_); intro _ _ _) | intro _ | (with_reducible refine keeps_fst (by assumption) ?_) | (with_reducible refine keeps_snd (by assumption) ?_) | (with_reducible refine keeps_trd (by assumption) ?_) | split | dsimp only | fail_if_no_progress with_reducible apply keeps_mk | (fail_if_no_progress ((with_reducible refine keeps_mk' ?x1 ?x2 ?x3 ?_); (case x1 => first | exact fun h => h | exact fun h => Mem.wf_putBytes _ _ h | exact fun h => Tab.wf_filter _ h); (case x2 => exact fun h => h); (case x3 => exact fusesRise_refl _))))

theorem State.endOk_keeps {B0 : State} (s : State) (q : Nat) (x : Query) (hk0 : keeps B0 s) :
    keeps B0 (State.endOk s q x) := by
  unfold State.endOk
  repeat' (first | with_reducible assumption | with_reducible apply State.complete_keeps | with_reducible apply State.loswDone_keeps | with_reducible apply State.endQuery_keeps | with_reducible apply State.countLate_keeps | with_reducible apply State.meterAdd_keeps | with_reducible apply State.bump_keeps | with_reducible apply State.carWrite_keeps | with_reducible apply State.endFailed_keeps | ((with_reducible refine keeps_foldl _ ?_ ?_); intro _ _ _) | ((with_reducible refine keeps_foldl_fst _ ?_ ?_); intro _ _ _) | ((with_reducible refine keeps_foldl_snd _ ?_ ?_); intro _ _ _) | intro _ | (with_reducible refine keeps_fst (by assumption) ?_) | (with_reducible refine keeps_snd (by assumption) ?_) | (with_reducible refine keeps_trd (by assumption) ?_) | split | dsimp only | fail_if_no_progress with_reducible apply keeps_mk | (fail_if_no_progress ((with_reducible refine keeps_mk' ?x1 ?x2 ?x3 ?_); (case x1 => first | exact fun h => h | exact fun h => Mem.wf_putBytes _ _ h | exact fun h => Tab.wf_filter _ h); (case x2 => exact fun h => h); (case x3 => exact fusesRise_refl _))))

end Sys2Proof.Machine
end

