-- ==== Sys2Proof/Laws/KeepsPart.lean ====
section
/-! SUPPORT. What the operations of Machine/Part.lean keep. -/

namespace Sys2Proof.Machine

set_option linter.unreachableTactic false
set_option linter.unusedTactic false
set_option linter.unusedVariables false

theorem State.changeComp_keeps {B0 : State} (s : State) (p : Nat) (o : Nat) (b : List Byte) (hk0 : keeps B0 s) :
    keeps B0 (State.changeComp s p o b) := by
  unfold State.changeComp
  repeat' (first | with_reducible assumption | with_reducible apply State.loswDone_keeps | with_reducible apply State.loswProg_keeps | with_reducible apply State.modPart_keeps | with_reducible apply State.loswRun_keeps | with_reducible apply State.devRead_keeps | with_reducible apply State.loswFail_keeps | ((with_reducible refine keeps_foldl _ ?_ ?_); intro _ _ _) | ((with_reducible refine keeps_foldl_fst _ ?_ ?_); intro _ _ _) | ((with_reducible refine keeps_foldl_snd _ ?_ ?_); intro _ _ _) | intro _ | (with_reducible refine keeps_fst (by assumption) ?_) | (with_reducible refine keeps_snd (by assumption) ?_) | (with_reducible refine keeps_trd (by assumption) ?_) | split | dsimp only | fail_if_no_progress with_reducible apply keeps_mk | (fail_if_no_progress ((with_reducible refine keeps_mk' ?x1 ?x2 ?x3 ?_); (case x1 => first | exact fun h => h | exact fun h => Mem.wf_putBytes _ _ h | exact fun h => Tab.wf_filter _ h); (case x2 => exact fun h => h); (case x3 => exact fusesRise_refl _))))

theorem State.maskVectors_keeps {B0 : State} (s : State) (k : Nat) (hk0 : keeps B0 s) :
    keeps B0 (State.maskVectors s k) := by
  unfold State.maskVectors
  repeat' (first | with_reducible assumption | with_reducible apply State.setReg_keeps | with_reducible apply State.setField_keeps | ((with_reducible refine keeps_foldl _ ?_ ?_); intro _ _ _) | ((with_reducible refine keeps_foldl_fst _ ?_ ?_); intro _ _ _) | ((with_reducible refine keeps_foldl_snd _ ?_ ?_); intro _ _ _) | intro _ | (with_reducible refine keeps_fst (by assumption) ?_) | (with_reducible refine keeps_snd (by assumption) ?_) | (with_reducible refine keeps_trd (by assumption) ?_) | split | dsimp only | fail_if_no_progress with_reducible apply keeps_mk | (fail_if_no_progress ((with_reducible refine keeps_mk' ?x1 ?x2 ?x3 ?_); (case x1 => first | exact fun h => h | exact fun h => Mem.wf_putBytes _ _ h | exact fun h => Tab.wf_filter _ h); (case x2 => exact fun h => h); (case x3 => exact fusesRise_refl _))))

theorem State.disableQueues_keeps {B0 : State} (s : State) (k : Nat) (hk0 : keeps B0 s) :
    keeps B0 (State.disableQueues s k) := by
  unfold State.disableQueues
  repeat' (first | with_reducible assumption | with_reducible apply State.setField_keeps | ((with_reducible refine keeps_foldl _ ?_ ?_); intro _ _ _) | ((with_reducible refine keeps_foldl_fst _ ?_ ?_); intro _ _ _) | ((with_reducible refine keeps_foldl_snd _ ?_ ?_); intro _ _ _) | intro _ | (with_reducible refine keeps_fst (by assumption) ?_) | (with_reducible refine keeps_snd (by assumption) ?_) | (with_reducible refine keeps_trd (by assumption) ?_) | split | dsimp only | fail_if_no_progress with_reducible apply keeps_mk | (fail_if_no_progress ((with_reducible refine keeps_mk' ?x1 ?x2 ?x3 ?_); (case x1 => first | exact fun h => h | exact fun h => Mem.wf_putBytes _ _ h | exact fun h => Tab.wf_filter _ h); (case x2 => exact fun h => h); (case x3 => exact fusesRise_refl _))))

theorem State.requestReset_keeps {B0 : State} (s : State) (p : Nat) (flr : Option Nat) (hk0 : keeps B0 s) :
    keeps B0 (State.requestReset s p flr) := by
  unfold State.requestReset
  repeat' (first | with_reducible assumption | with_reducible apply State.loswProg_keeps | with_reducible apply State.loswRun_keeps | with_reducible apply State.modLosw_keeps | with_reducible apply State.linkReset_keeps | with_reducible apply State.disableQueues_keeps | with_reducible apply State.modPart_keeps | ((with_reducible refine keeps_foldl _ ?_ ?_); intro _ _ _) | ((with_reducible refine keeps_foldl_fst _ ?_ ?_); intro _ _ _) | ((with_reducible refine keeps_foldl_snd _ ?_ ?_); intro _ _ _) | intro _ | (with_reducible refine keeps_fst (by assumption) ?_) | (with_reducible refine keeps_snd (by assumption) ?_) | (with_reducible refine keeps_trd (by assumption) ?_) | split | dsimp only | fail_if_no_progress with_reducible apply keeps_mk | (fail_if_no_progress ((with_reducible refine keeps_mk' ?x1 ?x2 ?x3 ?_); (case x1 => first | exact fun h => h | exact fun h => Mem.wf_putBytes _ _ h | exact fun h => Tab.wf_filter _ h); (case x2 => exact fun h => h); (case x3 => exact fusesRise_refl _))))

theorem State.killCore_keeps {B0 : State} (s : State) (c : Nat) (hk0 : keeps B0 s) :
    keeps B0 (State.killCore s c) := by
  unfold State.killCore
  repeat' (first | with_reducible assumption | with_reducible apply State.modCore_keeps | with_reducible apply State.endThread_keeps | with_reducible apply State.bump_keeps | with_reducible apply State.killGroup_keeps | ((with_reducible refine keeps_foldl _ ?_ ?_); intro _ _ _) | ((with_reducible refine keeps_foldl_fst _ ?_ ?_); intro _ _ _) | ((with_reducible refine keeps_foldl_snd _ ?_ ?_); intro _ _ _) | intro _ | (with_reducible refine keeps_fst (by assumption) ?_) | (with_reducible refine keeps_snd (by assumption) ?_) | (with_reducible refine keeps_trd (by assumption) ?_) | split | dsimp only | fail_if_no_progress with_reducible apply keeps_mk | (fail_if_no_progress ((with_reducible refine keeps_mk' ?x1 ?x2 ?x3 ?_); (case x1 => first | exact fun h => h | exact fun h => Mem.wf_putBytes _ _ h | exact fun h => Tab.wf_filter _ h); (case x2 => exact fun h => h); (case x3 => exact fusesRise_refl _))))

theorem State.abortLops_keeps {B0 : State} (s : State) (p : Nat) (hk0 : keeps B0 s) :
    keeps B0 (State.abortLops s p) := by
  unfold State.abortLops
  repeat' (first | with_reducible assumption | with_reducible apply State.modNs_keeps | with_reducible apply State.setMload_keeps | with_reducible apply State.modTp_keeps | with_reducible apply State.modDk_keeps | with_reducible apply State.bump_keeps | with_reducible apply State.loswAbort_keeps | ((with_reducible refine keeps_foldl _ ?_ ?_); intro _ _ _) | ((with_reducible refine keeps_foldl_fst _ ?_ ?_); intro _ _ _) | ((with_reducible refine keeps_foldl_snd _ ?_ ?_); intro _ _ _) | intro _ | (with_reducible refine keeps_fst (by assumption) ?_) | (with_reducible refine keeps_snd (by assumption) ?_) | (with_reducible refine keeps_trd (by assumption) ?_) | split | dsimp only | fail_if_no_progress with_reducible apply keeps_mk | (fail_if_no_progress ((with_reducible refine keeps_mk' ?x1 ?x2 ?x3 ?_); (case x1 => first | exact fun h => h | exact fun h => Mem.wf_putBytes _ _ h | exact fun h => Tab.wf_filter _ h); (case x2 => exact fun h => h); (case x3 => exact fusesRise_refl _))))

theorem State.resetKill_keeps {B0 : State} (s : State) (p : Nat) (r : ResetRun) (hk0 : keeps B0 s) :
    keeps B0 (State.resetKill s p r) := by
  unfold State.resetKill
  repeat' (first | with_reducible assumption | with_reducible apply State.loswProg_keeps | with_reducible apply State.modPart_keeps | with_reducible apply State.modDesk_keeps | with_reducible apply State.barReset_keeps | with_reducible apply State.guReset_keeps | with_reducible apply State.abortLops_keeps | with_reducible apply State.carReset_keeps | with_reducible apply State.modDk_keeps | with_reducible apply State.killCore_keeps | ((with_reducible refine keeps_foldl _ ?_ ?_); intro _ _ _) | ((with_reducible refine keeps_foldl_fst _ ?_ ?_); intro _ _ _) | ((with_reducible refine keeps_foldl_snd _ ?_ ?_); intro _ _ _) | intro _ | (with_reducible refine keeps_fst (by assumption) ?_) | (with_reducible refine keeps_snd (by assumption) ?_) | (with_reducible refine keeps_trd (by assumption) ?_) | split | dsimp only | fail_if_no_progress with_reducible apply keeps_mk | (fail_if_no_progress ((with_reducible refine keeps_mk' ?x1 ?x2 ?x3 ?_); (case x1 => first | exact fun h => h | exact fun h => Mem.wf_putBytes _ _ h | exact fun h => Tab.wf_filter _ h); (case x2 => exact fun h => h); (case x3 => exact fusesRise_refl _))))

theorem State.resetIrqs_keeps {B0 : State} (s : State) (p : Nat) (hk0 : keeps B0 s) :
    keeps B0 (State.resetIrqs s p) := by
  unfold State.resetIrqs
  repeat' (first | with_reducible assumption | with_reducible apply State.zeroRegs_keeps | with_reducible apply State.setIrqOut_keeps | with_reducible apply State.maskVectors_keeps | ((with_reducible refine keeps_foldl _ ?_ ?_); intro _ _ _) | ((with_reducible refine keeps_foldl_fst _ ?_ ?_); intro _ _ _) | ((with_reducible refine keeps_foldl_snd _ ?_ ?_); intro _ _ _) | intro _ | (with_reducible refine keeps_fst (by assumption) ?_) | (with_reducible refine keeps_snd (by assumption) ?_) | (with_reducible refine keeps_trd (by assumption) ?_) | split | dsimp only | fail_if_no_progress with_reducible apply keeps_mk | (fail_if_no_progress ((with_reducible refine keeps_mk' ?x1 ?x2 ?x3 ?_); (case x1 => first | exact fun h => h | exact fun h => Mem.wf_putBytes _ _ h | exact fun h => Tab.wf_filter _ h); (case x2 => exact fun h => h); (case x3 => exact fusesRise_refl _))))

theorem State.resetBuckets_keeps {B0 : State} (s : State) (p : Nat) (hk0 : keeps B0 s) :
    keeps B0 (State.resetBuckets s p) := by
  unfold State.resetBuckets
  repeat' (first | with_reducible assumption | with_reducible apply State.rsvFull_keeps | with_reducible apply State.modHost_keeps | ((with_reducible refine keeps_foldl _ ?_ ?_); intro _ _ _) | ((with_reducible refine keeps_foldl_fst _ ?_ ?_); intro _ _ _) | ((with_reducible refine keeps_foldl_snd _ ?_ ?_); intro _ _ _) | intro _ | (with_reducible refine keeps_fst (by assumption) ?_) | (with_reducible refine keeps_snd (by assumption) ?_) | (with_reducible refine keeps_trd (by assumption) ?_) | split | dsimp only | fail_if_no_progress with_reducible apply keeps_mk | (fail_if_no_progress ((with_reducible refine keeps_mk' ?x1 ?x2 ?x3 ?_); (case x1 => first | exact fun h => h | exact fun h => Mem.wf_putBytes _ _ h | exact fun h => Tab.wf_filter _ h); (case x2 => exact fun h => h); (case x3 => exact fusesRise_refl _))))

theorem State.resetQueries_keeps {B0 : State} (s : State) (p : Nat) (r : ResetRun) (hk0 : keeps B0 s) :
    keeps B0 (State.resetQueries s p r) := by
  unfold State.resetQueries
  repeat' (first | with_reducible assumption | with_reducible apply State.disableQueues_keeps | with_reducible apply State.endFailed_keeps | ((with_reducible refine keeps_foldl _ ?_ ?_); intro _ _ _) | ((with_reducible refine keeps_foldl_fst _ ?_ ?_); intro _ _ _) | ((with_reducible refine keeps_foldl_snd _ ?_ ?_); intro _ _ _) | intro _ | (with_reducible refine keeps_fst (by assumption) ?_) | (with_reducible refine keeps_snd (by assumption) ?_) | (with_reducible refine keeps_trd (by assumption) ?_) | split | dsimp only | fail_if_no_progress with_reducible apply keeps_mk | (fail_if_no_progress ((with_reducible refine keeps_mk' ?x1 ?x2 ?x3 ?_); (case x1 => first | exact fun h => h | exact fun h => Mem.wf_putBytes _ _ h | exact fun h => Tab.wf_filter _ h); (case x2 => exact fun h => h); (case x3 => exact fusesRise_refl _))))

theorem State.resetDrained_keeps {B0 : State} (s : State) (p : Nat) (hk0 : keeps B0 s) :
    keeps B0 (State.resetDrained s p) := by
  unfold State.resetDrained
  repeat' (first | with_reducible assumption | with_reducible apply State.modLosw_keeps | with_reducible apply State.loswProg_keeps | with_reducible apply State.modPart_keeps | with_reducible apply State.resetQueries_keeps | with_reducible apply State.resetBuckets_keeps | with_reducible apply State.resetIrqs_keeps | ((with_reducible refine keeps_foldl _ ?_ ?_); intro _ _ _) | ((with_reducible refine keeps_foldl_fst _ ?_ ?_); intro _ _ _) | ((with_reducible refine keeps_foldl_snd _ ?_ ?_); intro _ _ _) | intro _ | (with_reducible refine keeps_fst (by assumption) ?_) | (with_reducible refine keeps_snd (by assumption) ?_) | (with_reducible refine keeps_trd (by assumption) ?_) | split | dsimp only | fail_if_no_progress with_reducible apply keeps_mk | (fail_if_no_progress ((with_reducible refine keeps_mk' ?x1 ?x2 ?x3 ?_); (case x1 => first | exact fun h => h | exact fun h => Mem.wf_putBytes _ _ h | exact fun h => Tab.wf_filter _ h); (case x2 => exact fun h => h); (case x3 => exact fusesRise_refl _))))

theorem Power.moved_same (w : Power) (c : Nat) (free : Bool) :
    (w.moved c free).phase = w.phase ∧ (w.moved c free).cause = w.cause ∧ (w.moved c free).target = w.target := by
  unfold Power.moved
  split
  · exact ⟨rfl, rfl, rfl⟩
  · split <;> exact ⟨rfl, rfl, rfl⟩

theorem State.coreGate_keeps {B0 : State} (s : State) (c : Nat) (free : Bool) (hk0 : keeps B0 s) : keeps B0 (s.coreGate c free) := by
  have h1 : keeps B0 { s with pwr := s.pwr.moved c free } := by
    refine keeps_by hk0 rfl (fun m => m) (fun m => ?_) (fusesRise_refl _)
    obtain ⟨e1, e2, e3⟩ := Power.moved_same s.pwr c free
    unfold powerOk at *
    rw [e1, e2, e3]
    exact m
  unfold State.coreGate
  exact State.noteCore_keeps _ _ h1

theorem State.coreMoved_keeps {B0 : State} (s : State) (c : Nat) (hk0 : keeps B0 s) : keeps B0 (s.coreMoved c) := by
  have h1 := State.ownerChange_keeps s c hk0
  unfold State.coreMoved
  exact State.coreGate_keeps _ _ _ h1

theorem State.chanMoved_keeps {B0 : State} (s : State) (m : Nat) (old : Option Nat) (hk0 : keeps B0 s) :
    keeps B0 (s.chanMoved m old) := by
  unfold State.chanMoved
  split
  · exact hk0
  · exact State.modCar_keeps _ _ _ (State.carReset_keeps _ _ _ hk0)

theorem State.nsLost_keeps {B0 : State} (s : State) (p : Nat) (hk0 : keeps B0 s) :
    keeps B0 (State.nsLost s p) := by
  unfold State.nsLost
  repeat' (first | with_reducible assumption | with_reducible apply State.modNs_keeps | with_reducible apply State.loswAbort_keeps | ((with_reducible refine keeps_foldl _ ?_ ?_); intro _ _ _) | ((with_reducible refine keeps_foldl_fst _ ?_ ?_); intro _ _ _) | ((with_reducible refine keeps_foldl_snd _ ?_ ?_); intro _ _ _) | intro _ | (with_reducible refine keeps_fst (by assumption) ?_) | (with_reducible refine keeps_snd (by assumption) ?_) | (with_reducible refine keeps_trd (by assumption) ?_) | split | dsimp only | fail_if_no_progress with_reducible apply keeps_mk | (fail_if_no_progress ((with_reducible refine keeps_mk' ?x1 ?x2 ?x3 ?_); (case x1 => first | exact fun h => h | exact fun h => Mem.wf_putBytes _ _ h | exact fun h => Tab.wf_filter _ h); (case x2 => exact fun h => h); (case x3 => exact fusesRise_refl _))))

theorem State.partApply_keeps {B0 : State} (t : State) (s : State) (hk0 : keeps B0 s) :
    keeps B0 (State.partApply t s) := by
  unfold State.partApply
  repeat' (first | with_reducible assumption | with_reducible apply State.meterAdd_keeps | with_reducible apply State.nsLost_keeps | with_reducible apply State.chanMoved_keeps | with_reducible apply State.coreMoved_keeps | ((with_reducible refine keeps_foldl _ ?_ ?_); intro _ _ _) | ((with_reducible refine keeps_foldl_fst _ ?_ ?_); intro _ _ _) | ((with_reducible refine keeps_foldl_snd _ ?_ ?_); intro _ _ _) | intro _ | (with_reducible refine keeps_fst (by assumption) ?_) | (with_reducible refine keeps_snd (by assumption) ?_) | (with_reducible refine keeps_trd (by assumption) ?_) | split | dsimp only | fail_if_no_progress with_reducible apply keeps_mk | (fail_if_no_progress ((with_reducible refine keeps_mk' ?x1 ?x2 ?x3 ?_); (case x1 => first | exact fun h => h | exact fun h => Mem.wf_putBytes _ _ h | exact fun h => Tab.wf_filter _ h); (case x2 => exact fun h => h); (case x3 => exact fusesRise_refl _))))

end Sys2Proof.Machine
end

