-- ==== Sys2Proof/Laws/KeepsRollCall.lean ====
section
/-! SUPPORT. What the operations of Machine/RollCall.lean keep. -/

namespace Sys2Proof.Machine

set_option linter.unreachableTactic false
set_option linter.unusedTactic false
set_option linter.unusedVariables false

theorem State.setElec_keeps {B0 : State} (s : State) (q : Nat) (on : Bool) (hk0 : keeps B0 s) :
    keeps B0 (State.setElec s q on) := by
  unfold State.setElec
  repeat' (first | with_reducible assumption | with_reducible apply State.modPort_keeps | with_reducible apply State.portLeavesUp_keeps | with_reducible apply State.setField_keeps | ((with_reducible refine keeps_foldl _ ?_ ?_); intro _ _ _) | ((with_reducible refine keeps_foldl_fst _ ?_ ?_); intro _ _ _) | ((with_reducible refine keeps_foldl_snd _ ?_ ?_); intro _ _ _) | intro _ | (with_reducible refine keeps_fst (by assumption) ?_) | (with_reducible refine keeps_snd (by assumption) ?_) | (with_reducible refine keeps_trd (by assumption) ?_) | split | dsimp only | fail_if_no_progress with_reducible apply keeps_mk | (fail_if_no_progress ((with_reducible refine keeps_mk' ?x1 ?x2 ?x3 ?_); (case x1 => first | exact fun h => h | exact fun h => Mem.wf_putBytes _ _ h | exact fun h => Tab.wf_filter _ h); (case x2 => exact fun h => h); (case x3 => exact fusesRise_refl _))))

theorem State.gatherLost_keeps {B0 : State} (s : State) (p : Nat) (n : Nat) (hk0 : keeps B0 s) :
    keeps B0 (State.gatherLost s p n) := by
  unfold State.gatherLost
  repeat' (first | with_reducible assumption | with_reducible apply State.guLost_keeps | ((with_reducible refine keeps_foldl _ ?_ ?_); intro _ _ _) | ((with_reducible refine keeps_foldl_fst _ ?_ ?_); intro _ _ _) | ((with_reducible refine keeps_foldl_snd _ ?_ ?_); intro _ _ _) | intro _ | (with_reducible refine keeps_fst (by assumption) ?_) | (with_reducible refine keeps_snd (by assumption) ?_) | (with_reducible refine keeps_trd (by assumption) ?_) | split | dsimp only | fail_if_no_progress with_reducible apply keeps_mk | (fail_if_no_progress ((with_reducible refine keeps_mk' ?x1 ?x2 ?x3 ?_); (case x1 => first | exact fun h => h | exact fun h => Mem.wf_putBytes _ _ h | exact fun h => Tab.wf_filter _ h); (case x2 => exact fun h => h); (case x3 => exact fusesRise_refl _))))

theorem State.nodeLost_keeps {B0 : State} (s : State) (n : Nat) (inc : Nat) (by_ : Nat) (from_ : Option Nat) (hk0 : keeps B0 s) :
    keeps B0 (State.nodeLost s n inc by_ from_) := by
  unfold State.nodeLost
  repeat' (first | with_reducible assumption | with_reducible apply State.logEv_keeps | with_reducible apply State.setIrq_keeps | with_reducible apply State.bump_keeps | with_reducible apply State.barAbortPort_keeps | with_reducible apply State.requestReset_keeps | with_reducible apply State.gatherLost_keeps | with_reducible apply State.sendCtl_keeps | with_reducible apply State.setReg_keeps | with_reducible apply State.setElec_keeps | ((with_reducible refine keeps_foldl _ ?_ ?_); intro _ _ _) | ((with_reducible refine keeps_foldl_fst _ ?_ ?_); intro _ _ _) | ((with_reducible refine keeps_foldl_snd _ ?_ ?_); intro _ _ _) | intro _ | (with_reducible refine keeps_fst (by assumption) ?_) | (with_reducible refine keeps_snd (by assumption) ?_) | (with_reducible refine keeps_trd (by assumption) ?_) | split | dsimp only | fail_if_no_progress with_reducible apply keeps_mk | (fail_if_no_progress ((with_reducible refine keeps_mk' ?x1 ?x2 ?x3 ?_); (case x1 => first | exact fun h => h | exact fun h => Mem.wf_putBytes _ _ h | exact fun h => Tab.wf_filter _ h); (case x2 => exact fun h => h); (case x3 => exact fusesRise_refl _))))

theorem State.fencePorts_keeps {B0 : State} (s : State) (v : Word) (hk0 : keeps B0 s) :
    keeps B0 (State.fencePorts s v) := by
  unfold State.fencePorts
  repeat' (first | with_reducible assumption | with_reducible apply State.barAbortPort_keeps | with_reducible apply State.setField_keeps | with_reducible apply State.setElec_keeps | ((with_reducible refine keeps_foldl _ ?_ ?_); intro _ _ _) | ((with_reducible refine keeps_foldl_fst _ ?_ ?_); intro _ _ _) | ((with_reducible refine keeps_foldl_snd _ ?_ ?_); intro _ _ _) | intro _ | (with_reducible refine keeps_fst (by assumption) ?_) | (with_reducible refine keeps_snd (by assumption) ?_) | (with_reducible refine keeps_trd (by assumption) ?_) | split | dsimp only | fail_if_no_progress with_reducible apply keeps_mk | (fail_if_no_progress ((with_reducible refine keeps_mk' ?x1 ?x2 ?x3 ?_); (case x1 => first | exact fun h => h | exact fun h => Mem.wf_putBytes _ _ h | exact fun h => Tab.wf_filter _ h); (case x2 => exact fun h => h); (case x3 => exact fusesRise_refl _))))

end Sys2Proof.Machine
end

