-- ==== Sys2Proof/Laws/KeepsColophon.lean ====
section
/-! SUPPORT. What the operations of Machine/Colophon.lean keep. -/

namespace Sys2Proof.Machine

set_option linter.unreachableTactic false
set_option linter.unusedTactic false
set_option linter.unusedVariables false

theorem State.modColo_keeps {B0 : State} (s : State) (f : Colophon → Colophon) (h : fusesRise s (s.modColo f)) (hk0 : keeps B0 s) :
    keeps B0 (s.modColo f) := keeps_by hk0 rfl (fun m => m) (fun m => m) h

/-- A change of Colophon that leaves both fuses alone. -/
theorem State.modColo_keeps' {B0 : State} (s : State) (f : Colophon → Colophon) (h1 : (f s.colo).fwSvn = s.colo.fwSvn)
    (h2 : (f s.colo).revoke = s.colo.revoke) (hk0 : keeps B0 s) : keeps B0 (s.modColo f) := by
  refine State.modColo_keeps s f ⟨?_, ?_, le_refl _, le_refl _⟩ hk0
  · show s.colo.fwSvn &&& ~~~(f s.colo).fwSvn = 0
    rw [h1]
    simp
  · show s.colo.revoke &&& ~~~(f s.colo).revoke = 0
    rw [h2]
    simp

theorem State.coloVerify_keeps {B0 : State} (s : State) (svc : Bool) (k : Nat) (hk0 : keeps B0 s) :
    keeps B0 (State.coloVerify s svc k).1 := by
  unfold State.coloVerify
  repeat' (first | with_reducible assumption | with_reducible apply State.bump_keeps | ((with_reducible refine keeps_foldl _ ?_ ?_); intro _ _ _) | ((with_reducible refine keeps_foldl_fst _ ?_ ?_); intro _ _ _) | ((with_reducible refine keeps_foldl_snd _ ?_ ?_); intro _ _ _) | intro _ | (with_reducible refine keeps_fst (by assumption) ?_) | (with_reducible refine keeps_snd (by assumption) ?_) | (with_reducible refine keeps_trd (by assumption) ?_) | split | dsimp only | fail_if_no_progress with_reducible apply keeps_mk | (fail_if_no_progress ((with_reducible refine keeps_mk' ?x1 ?x2 ?x3 ?_); (case x1 => first | exact fun h => h | exact fun h => Mem.wf_putBytes _ _ h | exact fun h => Tab.wf_filter _ h); (case x2 => exact fun h => h); (case x3 => exact fusesRise_refl _))))

theorem State.extend_keeps {B0 : State} (s : State) (i : Nat) (d : List Byte) (hk0 : keeps B0 s) : keeps B0 (s.extend i d) :=
  State.modColo_keeps' s _ rfl rfl hk0

theorem State.stageLosw_keeps {B0 : State} (s : State) (f : Losw → Losw) (hk0 : keeps B0 s) : keeps B0 (s.stageLosw f) :=
  State.modColo_keeps' s _ rfl rfl hk0

theorem State.stageFail_keeps {B0 : State} (s : State) (code : Nat) (hk0 : keeps B0 s) :
    keeps B0 (State.stageFail s code) := by
  unfold State.stageFail
  repeat' (first | with_reducible assumption | with_reducible apply State.stageLosw_keeps | (with_reducible refine State.modColo_keeps' _ _ rfl rfl ?_) | ((with_reducible refine keeps_foldl _ ?_ ?_); intro _ _ _) | ((with_reducible refine keeps_foldl_fst _ ?_ ?_); intro _ _ _) | ((with_reducible refine keeps_foldl_snd _ ?_ ?_); intro _ _ _) | intro _ | (with_reducible refine keeps_fst (by assumption) ?_) | (with_reducible refine keeps_snd (by assumption) ?_) | (with_reducible refine keeps_trd (by assumption) ?_) | split | dsimp only | fail_if_no_progress with_reducible apply keeps_mk | (fail_if_no_progress ((with_reducible refine keeps_mk' ?x1 ?x2 ?x3 ?_); (case x1 => first | exact fun h => h | exact fun h => Mem.wf_putBytes _ _ h | exact fun h => Tab.wf_filter _ h); (case x2 => exact fun h => h); (case x3 => exact fusesRise_refl _))))

theorem State.stageStart_keeps {B0 : State} (s : State) (hk0 : keeps B0 s) :
    keeps B0 (State.stageStart s) := by
  unfold State.stageStart
  repeat' (first | with_reducible assumption | with_reducible apply State.stageFail_keeps | with_reducible apply State.stageLosw_keeps | (with_reducible refine State.modColo_keeps' _ _ rfl rfl ?_) | ((with_reducible refine keeps_foldl _ ?_ ?_); intro _ _ _) | ((with_reducible refine keeps_foldl_fst _ ?_ ?_); intro _ _ _) | ((with_reducible refine keeps_foldl_snd _ ?_ ?_); intro _ _ _) | intro _ | (with_reducible refine keeps_fst (by assumption) ?_) | (with_reducible refine keeps_snd (by assumption) ?_) | (with_reducible refine keeps_trd (by assumption) ?_) | split | dsimp only | fail_if_no_progress with_reducible apply keeps_mk | (fail_if_no_progress ((with_reducible refine keeps_mk' ?x1 ?x2 ?x3 ?_); (case x1 => first | exact fun h => h | exact fun h => Mem.wf_putBytes _ _ h | exact fun h => Tab.wf_filter _ h); (case x2 => exact fun h => h); (case x3 => exact fusesRise_refl _))))

theorem State.stageVerify_keeps {B0 : State} (s : State) (n : Nat) (hk0 : keeps B0 s) :
    keeps B0 (State.stageVerify s n) := by
  unfold State.stageVerify
  repeat' (first | with_reducible assumption | with_reducible apply State.stageFail_keeps | with_reducible apply State.stageLosw_keeps | with_reducible apply State.coloVerify_keeps | (with_reducible refine State.modColo_keeps' _ _ rfl rfl ?_) | ((with_reducible refine keeps_foldl _ ?_ ?_); intro _ _ _) | ((with_reducible refine keeps_foldl_fst _ ?_ ?_); intro _ _ _) | ((with_reducible refine keeps_foldl_snd _ ?_ ?_); intro _ _ _) | intro _ | (with_reducible refine keeps_fst (by assumption) ?_) | (with_reducible refine keeps_snd (by assumption) ?_) | (with_reducible refine keeps_trd (by assumption) ?_) | split | dsimp only | fail_if_no_progress with_reducible apply keeps_mk | (fail_if_no_progress ((with_reducible refine keeps_mk' ?x1 ?x2 ?x3 ?_); (case x1 => first | exact fun h => h | exact fun h => Mem.wf_putBytes _ _ h | exact fun h => Tab.wf_filter _ h); (case x2 => exact fun h => h); (case x3 => exact fusesRise_refl _))))

theorem State.stageWrite_keeps {B0 : State} (s : State) (ok : Bool) (hk0 : keeps B0 s) :
    keeps B0 (State.stageWrite s ok) := by
  unfold State.stageWrite
  repeat' (first | with_reducible assumption | with_reducible apply State.logEv_keeps | with_reducible apply State.extend_keeps | with_reducible apply State.putBytes_keeps | with_reducible apply State.stageFail_keeps | with_reducible apply State.stageLosw_keeps | (with_reducible refine State.modColo_keeps' _ _ rfl rfl ?_) | ((with_reducible refine keeps_foldl _ ?_ ?_); intro _ _ _) | ((with_reducible refine keeps_foldl_fst _ ?_ ?_); intro _ _ _) | ((with_reducible refine keeps_foldl_snd _ ?_ ?_); intro _ _ _) | intro _ | (with_reducible refine keeps_fst (by assumption) ?_) | (with_reducible refine keeps_snd (by assumption) ?_) | (with_reducible refine keeps_trd (by assumption) ?_) | split | dsimp only | fail_if_no_progress with_reducible apply keeps_mk | (fail_if_no_progress ((with_reducible refine keeps_mk' ?x1 ?x2 ?x3 ?_); (case x1 => first | exact fun h => h | exact fun h => Mem.wf_putBytes _ _ h | exact fun h => Tab.wf_filter _ h); (case x2 => exact fun h => h); (case x3 => exact fusesRise_refl _))))

theorem State.bootFail_keeps {B0 : State} (s : State) (code : Nat) (hk0 : keeps B0 s) :
    keeps B0 (State.bootFail s code).1 := by
  unfold State.bootFail
  repeat' (first | with_reducible assumption | with_reducible apply State.logEv_keeps | ((with_reducible refine keeps_foldl _ ?_ ?_); intro _ _ _) | ((with_reducible refine keeps_foldl_fst _ ?_ ?_); intro _ _ _) | ((with_reducible refine keeps_foldl_snd _ ?_ ?_); intro _ _ _) | intro _ | (with_reducible refine keeps_fst (by assumption) ?_) | (with_reducible refine keeps_snd (by assumption) ?_) | (with_reducible refine keeps_trd (by assumption) ?_) | split | dsimp only | fail_if_no_progress with_reducible apply keeps_mk | (fail_if_no_progress ((with_reducible refine keeps_mk' ?x1 ?x2 ?x3 ?_); (case x1 => first | exact fun h => h | exact fun h => Mem.wf_putBytes _ _ h | exact fun h => Tab.wf_filter _ h); (case x2 => exact fun h => h); (case x3 => exact fusesRise_refl _))))

theorem State.bootGood_keeps {B0 : State} (s : State) (k : Nat) (hk0 : keeps B0 s) : keeps B0 (s.bootGood k) := by
  unfold State.bootGood
  exact State.modColo_keeps' _ _ rfl rfl (State.extend_keeps _ _ _ (State.extend_keeps _ _ _ hk0))

theorem State.trySlot_keeps {B0 : State} (s : State) (k : Nat) (hk0 : keeps B0 s) : keeps B0 (s.trySlot k).1 := by
  have h1 := State.coloVerify_keeps s false k hk0
  have h2 := State.coloVerify_keeps (s.coloVerify false k).1 true k h1
  unfold State.trySlot
  dsimp only
  split
  · exact State.bootFail_keeps _ _ h1
  · split
    · exact State.bootFail_keeps _ _ h2
    · exact State.bootGood_keeps _ _ h2

theorem State.bootOther_keeps {B0 : State} (s : State) (k : Nat) (hk0 : keeps B0 s) : keeps B0 (s.bootOther k) := by
  have h1 := State.trySlot_keeps s k hk0
  unfold State.bootOther
  generalize s.trySlot k = q at h1
  dsimp only
  split
  · exact h1
  · exact State.logEv_keeps _ _ _ _ _ (State.logEv_keeps _ _ _ _ _ (State.modColo_keeps' _ _ rfl rfl h1))

theorem State.bootSlots_keeps {B0 : State} (s : State) (hk0 : keeps B0 s) : keeps B0 s.bootSlots := by
  have h1 := State.trySlot_keeps s s.dir.2.2 hk0
  unfold State.bootSlots
  dsimp only
  split
  · exact h1
  · exact State.bootOther_keeps _ _ h1

theorem State.burn_keeps {B0 : State} (s : State) (good : Colophon → Colophon)
    (h : ∀ s : State, fusesRise s (s.modColo good)) (hk0 : keeps B0 s) : keeps B0 (s.burn good) := by
  have h1 : keeps B0 { s with free := s.free + 1 } := keeps_mk hk0
  unfold State.burn
  dsimp only
  split
  · exact State.logEv_keeps _ _ _ _ _ (State.modColo_keeps _ _ (h _) h1)
  · exact State.logEv_keeps _ _ _ _ _ h1

theorem State.burnFuses_keeps {B0 : State} (s : State) (hk0 : keeps B0 s) : keeps B0 s.burnFuses := by
  unfold State.burnFuses
  split
  · exact hk0
  · extract_lets a b s1 s2
    have h1 : keeps B0 s1 := keeps_foldl _ (fun s i h => State.burn_keeps s _
      (fun s => ⟨or_keeps _ _, by simp [State.modColo], le_refl _, le_refl _⟩) h) hk0
    have h2 : keeps B0 s2 := by
      refine keeps_foldl _ (fun s g h => ?_) h1
      split
      · exact State.burn_keeps s _ (fun s => ⟨by simp [State.modColo], or_keeps _ _, le_refl _, le_refl _⟩) h
      · exact h
    clear_value s1 s2
    exact State.modColo_keeps' _ _ rfl rfl h2

theorem State.modSpdm_keeps {B0 : State} (s : State) (b : HPort) (f : Spdm → Spdm) (hk0 : keeps B0 s) : keeps B0 (s.modSpdm b f) :=
  State.modColo_keeps' s _ rfl rfl hk0

theorem State.spdmError_keeps {B0 : State} (s : State) (code : Nat) (hk0 : keeps B0 s) :
    keeps B0 (State.spdmError s code) := by
  unfold State.spdmError
  repeat' (first | with_reducible assumption | ((with_reducible refine keeps_foldl _ ?_ ?_); intro _ _ _) | ((with_reducible refine keeps_foldl_fst _ ?_ ?_); intro _ _ _) | ((with_reducible refine keeps_foldl_snd _ ?_ ?_); intro _ _ _) | intro _ | (with_reducible refine keeps_fst (by assumption) ?_) | (with_reducible refine keeps_snd (by assumption) ?_) | (with_reducible refine keeps_trd (by assumption) ?_) | split | dsimp only | fail_if_no_progress with_reducible apply keeps_mk | (fail_if_no_progress ((with_reducible refine keeps_mk' ?x1 ?x2 ?x3 ?_); (case x1 => first | exact fun h => h | exact fun h => Mem.wf_putBytes _ _ h | exact fun h => Tab.wf_filter _ h); (case x2 => exact fun h => h); (case x3 => exact fusesRise_refl _))))

theorem State.spdmAnswer_keeps {B0 : State} (s : State) (b : HPort) (code : Nat) (req : List Byte) (data : List Byte) (hk0 : keeps B0 s) :
    keeps B0 (State.spdmAnswer s b code req data) := by
  unfold State.spdmAnswer
  repeat' (first | with_reducible assumption | with_reducible apply State.modSpdm_keeps | ((with_reducible refine keeps_foldl _ ?_ ?_); intro _ _ _) | ((with_reducible refine keeps_foldl_fst _ ?_ ?_); intro _ _ _) | ((with_reducible refine keeps_foldl_snd _ ?_ ?_); intro _ _ _) | intro _ | (with_reducible refine keeps_fst (by assumption) ?_) | (with_reducible refine keeps_snd (by assumption) ?_) | (with_reducible refine keeps_trd (by assumption) ?_) | split | dsimp only | fail_if_no_progress with_reducible apply keeps_mk | (fail_if_no_progress ((with_reducible refine keeps_mk' ?x1 ?x2 ?x3 ?_); (case x1 => first | exact fun h => h | exact fun h => Mem.wf_putBytes _ _ h | exact fun h => Tab.wf_filter _ h); (case x2 => exact fun h => h); (case x3 => exact fusesRise_refl _))))

theorem State.spdmLarge_keeps {B0 : State} (s : State) (b : HPort) (r : List Byte) (hk0 : keeps B0 s) :
    keeps B0 (State.spdmLarge s b r) := by
  unfold State.spdmLarge
  repeat' (first | with_reducible assumption | with_reducible apply State.spdmError_keeps | with_reducible apply State.modSpdm_keeps | ((with_reducible refine keeps_foldl _ ?_ ?_); intro _ _ _) | ((with_reducible refine keeps_foldl_fst _ ?_ ?_); intro _ _ _) | ((with_reducible refine keeps_foldl_snd _ ?_ ?_); intro _ _ _) | intro _ | (with_reducible refine keeps_fst (by assumption) ?_) | (with_reducible refine keeps_snd (by assumption) ?_) | (with_reducible refine keeps_trd (by assumption) ?_) | split | dsimp only | fail_if_no_progress with_reducible apply keeps_mk | (fail_if_no_progress ((with_reducible refine keeps_mk' ?x1 ?x2 ?x3 ?_); (case x1 => first | exact fun h => h | exact fun h => Mem.wf_putBytes _ _ h | exact fun h => Tab.wf_filter _ h); (case x2 => exact fun h => h); (case x3 => exact fusesRise_refl _))))

theorem State.spdmSigned_keeps {B0 : State} (s : State) (b : HPort) (code : Nat) (req : List Byte) (data : List Byte) (hk0 : keeps B0 s) :
    keeps B0 (State.spdmSigned s b code req data) := by
  unfold State.spdmSigned
  repeat' (first | with_reducible assumption | with_reducible apply State.modSpdm_keeps | with_reducible apply State.spdmAnswer_keeps | ((with_reducible refine keeps_foldl _ ?_ ?_); intro _ _ _) | ((with_reducible refine keeps_foldl_fst _ ?_ ?_); intro _ _ _) | ((with_reducible refine keeps_foldl_snd _ ?_ ?_); intro _ _ _) | intro _ | (with_reducible refine keeps_fst (by assumption) ?_) | (with_reducible refine keeps_snd (by assumption) ?_) | (with_reducible refine keeps_trd (by assumption) ?_) | split | dsimp only | fail_if_no_progress with_reducible apply keeps_mk | (fail_if_no_progress ((with_reducible refine keeps_mk' ?x1 ?x2 ?x3 ?_); (case x1 => first | exact fun h => h | exact fun h => Mem.wf_putBytes _ _ h | exact fun h => Tab.wf_filter _ h); (case x2 => exact fun h => h); (case x3 => exact fusesRise_refl _))))

theorem State.answerVersion_keeps {B0 : State} (s : State) (b : HPort) (hk0 : keeps B0 s) :
    keeps B0 (State.answerVersion s b) := by
  unfold State.answerVersion
  repeat' (first | with_reducible assumption | with_reducible apply State.spdmAnswer_keeps | with_reducible apply State.modSpdm_keeps | ((with_reducible refine keeps_foldl _ ?_ ?_); intro _ _ _) | ((with_reducible refine keeps_foldl_fst _ ?_ ?_); intro _ _ _) | ((with_reducible refine keeps_foldl_snd _ ?_ ?_); intro _ _ _) | intro _ | (with_reducible refine keeps_fst (by assumption) ?_) | (with_reducible refine keeps_snd (by assumption) ?_) | (with_reducible refine keeps_trd (by assumption) ?_) | split | dsimp only | fail_if_no_progress with_reducible apply keeps_mk | (fail_if_no_progress ((with_reducible refine keeps_mk' ?x1 ?x2 ?x3 ?_); (case x1 => first | exact fun h => h | exact fun h => Mem.wf_putBytes _ _ h | exact fun h => Tab.wf_filter _ h); (case x2 => exact fun h => h); (case x3 => exact fusesRise_refl _))))

theorem State.answerCapabilities_keeps {B0 : State} (s : State) (b : HPort) (hk0 : keeps B0 s) :
    keeps B0 (State.answerCapabilities s b) := by
  unfold State.answerCapabilities
  repeat' (first | with_reducible assumption | with_reducible apply State.modSpdm_keeps | with_reducible apply State.spdmAnswer_keeps | ((with_reducible refine keeps_foldl _ ?_ ?_); intro _ _ _) | ((with_reducible refine keeps_foldl_fst _ ?_ ?_); intro _ _ _) | ((with_reducible refine keeps_foldl_snd _ ?_ ?_); intro _ _ _) | intro _ | (with_reducible refine keeps_fst (by assumption) ?_) | (with_reducible refine keeps_snd (by assumption) ?_) | (with_reducible refine keeps_trd (by assumption) ?_) | split | dsimp only | fail_if_no_progress with_reducible apply keeps_mk | (fail_if_no_progress ((with_reducible refine keeps_mk' ?x1 ?x2 ?x3 ?_); (case x1 => first | exact fun h => h | exact fun h => Mem.wf_putBytes _ _ h | exact fun h => Tab.wf_filter _ h); (case x2 => exact fun h => h); (case x3 => exact fusesRise_refl _))))

theorem State.answerAlgorithms_keeps {B0 : State} (s : State) (b : HPort) (base : Bool) (hash : Bool) (hk0 : keeps B0 s) :
    keeps B0 (State.answerAlgorithms s b base hash) := by
  unfold State.answerAlgorithms
  repeat' (first | with_reducible assumption | with_reducible apply State.spdmError_keeps | with_reducible apply State.modSpdm_keeps | with_reducible apply State.spdmAnswer_keeps | ((with_reducible refine keeps_foldl _ ?_ ?_); intro _ _ _) | ((with_reducible refine keeps_foldl_fst _ ?_ ?_); intro _ _ _) | ((with_reducible refine keeps_foldl_snd _ ?_ ?_); intro _ _ _) | intro _ | (with_reducible refine keeps_fst (by assumption) ?_) | (with_reducible refine keeps_snd (by assumption) ?_) | (with_reducible refine keeps_trd (by assumption) ?_) | split | dsimp only | fail_if_no_progress with_reducible apply keeps_mk | (fail_if_no_progress ((with_reducible refine keeps_mk' ?x1 ?x2 ?x3 ?_); (case x1 => first | exact fun h => h | exact fun h => Mem.wf_putBytes _ _ h | exact fun h => Tab.wf_filter _ h); (case x2 => exact fun h => h); (case x3 => exact fusesRise_refl _))))

theorem State.answerDigests_keeps {B0 : State} (s : State) (b : HPort) (hk0 : keeps B0 s) :
    keeps B0 (State.answerDigests s b) := by
  unfold State.answerDigests
  repeat' (first | with_reducible assumption | with_reducible apply State.spdmAnswer_keeps | ((with_reducible refine keeps_foldl _ ?_ ?_); intro _ _ _) | ((with_reducible refine keeps_foldl_fst _ ?_ ?_); intro _ _ _) | ((with_reducible refine keeps_foldl_snd _ ?_ ?_); intro _ _ _) | intro _ | (with_reducible refine keeps_fst (by assumption) ?_) | (with_reducible refine keeps_snd (by assumption) ?_) | (with_reducible refine keeps_trd (by assumption) ?_) | split | dsimp only | fail_if_no_progress with_reducible apply keeps_mk | (fail_if_no_progress ((with_reducible refine keeps_mk' ?x1 ?x2 ?x3 ?_); (case x1 => first | exact fun h => h | exact fun h => Mem.wf_putBytes _ _ h | exact fun h => Tab.wf_filter _ h); (case x2 => exact fun h => h); (case x3 => exact fusesRise_refl _))))

theorem State.answerCertificate_keeps {B0 : State} (s : State) (b : HPort) (slot : Nat) (off : Nat) (len : Nat) (hk0 : keeps B0 s) :
    keeps B0 (State.answerCertificate s b slot off len) := by
  unfold State.answerCertificate
  repeat' (first | with_reducible assumption | with_reducible apply State.spdmAnswer_keeps | with_reducible apply State.spdmLarge_keeps | with_reducible apply State.spdmError_keeps | ((with_reducible refine keeps_foldl _ ?_ ?_); intro _ _ _) | ((with_reducible refine keeps_foldl_fst _ ?_ ?_); intro _ _ _) | ((with_reducible refine keeps_foldl_snd _ ?_ ?_); intro _ _ _) | intro _ | (with_reducible refine keeps_fst (by assumption) ?_) | (with_reducible refine keeps_snd (by assumption) ?_) | (with_reducible refine keeps_trd (by assumption) ?_) | split | dsimp only | fail_if_no_progress with_reducible apply keeps_mk | (fail_if_no_progress ((with_reducible refine keeps_mk' ?x1 ?x2 ?x3 ?_); (case x1 => first | exact fun h => h | exact fun h => Mem.wf_putBytes _ _ h | exact fun h => Tab.wf_filter _ h); (case x2 => exact fun h => h); (case x3 => exact fusesRise_refl _))))

theorem State.answerChallenge_keeps {B0 : State} (s : State) (b : HPort) (slot : Nat) (nonce : List Byte) (hk0 : keeps B0 s) :
    keeps B0 (State.answerChallenge s b slot nonce) := by
  unfold State.answerChallenge
  repeat' (first | with_reducible assumption | with_reducible apply State.spdmSigned_keeps | with_reducible apply State.spdmError_keeps | ((with_reducible refine keeps_foldl _ ?_ ?_); intro _ _ _) | ((with_reducible refine keeps_foldl_fst _ ?_ ?_); intro _ _ _) | ((with_reducible refine keeps_foldl_snd _ ?_ ?_); intro _ _ _) | intro _ | (with_reducible refine keeps_fst (by assumption) ?_) | (with_reducible refine keeps_snd (by assumption) ?_) | (with_reducible refine keeps_trd (by assumption) ?_) | split | dsimp only | fail_if_no_progress with_reducible apply keeps_mk | (fail_if_no_progress ((with_reducible refine keeps_mk' ?x1 ?x2 ?x3 ?_); (case x1 => first | exact fun h => h | exact fun h => Mem.wf_putBytes _ _ h | exact fun h => Tab.wf_filter _ h); (case x2 => exact fun h => h); (case x3 => exact fusesRise_refl _))))

theorem State.answerMeasurements_keeps {B0 : State} (s : State) (b : HPort) (index : Nat) (sign : Bool) (nonce : List Byte) (hk0 : keeps B0 s) :
    keeps B0 (State.answerMeasurements s b index sign nonce) := by
  unfold State.answerMeasurements
  repeat' (first | with_reducible assumption | with_reducible apply State.spdmAnswer_keeps | with_reducible apply State.spdmSigned_keeps | with_reducible apply State.spdmError_keeps | ((with_reducible refine keeps_foldl _ ?_ ?_); intro _ _ _) | ((with_reducible refine keeps_foldl_fst _ ?_ ?_); intro _ _ _) | ((with_reducible refine keeps_foldl_snd _ ?_ ?_); intro _ _ _) | intro _ | (with_reducible refine keeps_fst (by assumption) ?_) | (with_reducible refine keeps_snd (by assumption) ?_) | (with_reducible refine keeps_trd (by assumption) ?_) | split | dsimp only | fail_if_no_progress with_reducible apply keeps_mk | (fail_if_no_progress ((with_reducible refine keeps_mk' ?x1 ?x2 ?x3 ?_); (case x1 => first | exact fun h => h | exact fun h => Mem.wf_putBytes _ _ h | exact fun h => Tab.wf_filter _ h); (case x2 => exact fun h => h); (case x3 => exact fusesRise_refl _))))

theorem State.answerPqCert_keeps {B0 : State} (s : State) (b : HPort) (off : Nat) (len : Nat) (hk0 : keeps B0 s) :
    keeps B0 (State.answerPqCert s b off len) := by
  unfold State.answerPqCert
  repeat' (first | with_reducible assumption | with_reducible apply State.spdmAnswer_keeps | with_reducible apply State.spdmError_keeps | ((with_reducible refine keeps_foldl _ ?_ ?_); intro _ _ _) | ((with_reducible refine keeps_foldl_fst _ ?_ ?_); intro _ _ _) | ((with_reducible refine keeps_foldl_snd _ ?_ ?_); intro _ _ _) | intro _ | (with_reducible refine keeps_fst (by assumption) ?_) | (with_reducible refine keeps_snd (by assumption) ?_) | (with_reducible refine keeps_trd (by assumption) ?_) | split | dsimp only | fail_if_no_progress with_reducible apply keeps_mk | (fail_if_no_progress ((with_reducible refine keeps_mk' ?x1 ?x2 ?x3 ?_); (case x1 => first | exact fun h => h | exact fun h => Mem.wf_putBytes _ _ h | exact fun h => Tab.wf_filter _ h); (case x2 => exact fun h => h); (case x3 => exact fusesRise_refl _))))

theorem State.answerPqSig_keeps {B0 : State} (s : State) (b : HPort) (hk0 : keeps B0 s) :
    keeps B0 (State.answerPqSig s b) := by
  unfold State.answerPqSig
  repeat' (first | with_reducible assumption | with_reducible apply State.spdmLarge_keeps | with_reducible apply State.spdmError_keeps | ((with_reducible refine keeps_foldl _ ?_ ?_); intro _ _ _) | ((with_reducible refine keeps_foldl_fst _ ?_ ?_); intro _ _ _) | ((with_reducible refine keeps_foldl_snd _ ?_ ?_); intro _ _ _) | intro _ | (with_reducible refine keeps_fst (by assumption) ?_) | (with_reducible refine keeps_snd (by assumption) ?_) | (with_reducible refine keeps_trd (by assumption) ?_) | split | dsimp only | fail_if_no_progress with_reducible apply keeps_mk | (fail_if_no_progress ((with_reducible refine keeps_mk' ?x1 ?x2 ?x3 ?_); (case x1 => first | exact fun h => h | exact fun h => Mem.wf_putBytes _ _ h | exact fun h => Tab.wf_filter _ h); (case x2 => exact fun h => h); (case x3 => exact fusesRise_refl _))))

theorem State.spdmServe_keeps {B0 : State} (s : State) (b : HPort) (r : SpdmReq) (hk0 : keeps B0 s) :
    keeps B0 (State.spdmServe s b r) := by
  unfold State.spdmServe
  repeat' (first | with_reducible assumption | with_reducible apply State.answerPqSig_keeps | with_reducible apply State.answerPqCert_keeps | with_reducible apply State.answerMeasurements_keeps | with_reducible apply State.answerChallenge_keeps | with_reducible apply State.answerCertificate_keeps | with_reducible apply State.answerDigests_keeps | with_reducible apply State.answerAlgorithms_keeps | with_reducible apply State.answerCapabilities_keeps | with_reducible apply State.answerVersion_keeps | with_reducible apply State.spdmError_keeps | ((with_reducible refine keeps_foldl _ ?_ ?_); intro _ _ _) | ((with_reducible refine keeps_foldl_fst _ ?_ ?_); intro _ _ _) | ((with_reducible refine keeps_foldl_snd _ ?_ ?_); intro _ _ _) | intro _ | (with_reducible refine keeps_fst (by assumption) ?_) | (with_reducible refine keeps_snd (by assumption) ?_) | (with_reducible refine keeps_trd (by assumption) ?_) | split | dsimp only | fail_if_no_progress with_reducible apply keeps_mk | (fail_if_no_progress ((with_reducible refine keeps_mk' ?x1 ?x2 ?x3 ?_); (case x1 => first | exact fun h => h | exact fun h => Mem.wf_putBytes _ _ h | exact fun h => Tab.wf_filter _ h); (case x2 => exact fun h => h); (case x3 => exact fusesRise_refl _))))

end Sys2Proof.Machine
end

