-- ==== Sys2Proof/Laws/KeepsMeter.lean ====
section
/-! SUPPORT. What the operations of Machine/Meter.lean keep. -/

namespace Sys2Proof.Machine

set_option linter.unreachableTactic false
set_option linter.unusedTactic false
set_option linter.unusedVariables false

theorem State.modMeter_keeps {B0 : State} (s : State) (f : Meter → Meter) (h : fusesRise s (s.modMeter f)) (hk0 : keeps B0 s) :
    keeps B0 (s.modMeter f) := keeps_by hk0 rfl (fun m => m) (fun m => m) h

/-- A change of the meter that leaves both fuses alone. -/
theorem State.modMeter_keeps' {B0 : State} (s : State) (f : Meter → Meter) (h1 : (f s.meter).sealCnt = s.meter.sealCnt)
    (h2 : (f s.meter).svn = s.meter.svn) (hk0 : keeps B0 s) : keeps B0 (s.modMeter f) := by
  refine State.modMeter_keeps s f ⟨by simp [State.modMeter], by simp [State.modMeter], ?_, ?_⟩ hk0
  · show s.meter.sealCnt ≤ (f s.meter).sealCnt
    rw [h1]
  · show s.meter.svn ≤ (f s.meter).svn
    rw [h2]

theorem State.cutNext_keeps {B0 : State} (s : State) (hk0 : keeps B0 s) : keeps B0 s.cutNext := by
  have h1 : keeps B0 { s with free := s.free + 1 } := keeps_mk hk0
  unfold State.cutNext
  dsimp only
  split
  · exact State.modMeter_keeps _ _ ⟨by simp [State.modMeter], by simp [State.modMeter], le_refl _, le_max_left _ _⟩ h1
  · exact hk0

theorem State.breakSeal_keeps {B0 : State} (s : State) (hk0 : keeps B0 s) : keeps B0 s.breakSeal := by
  unfold State.breakSeal
  exact State.logEv_keeps _ _ _ _ _ (State.modMeter_keeps s _ ⟨by simp [State.modMeter], by simp [State.modMeter], Nat.le_succ _, le_refl _⟩ hk0)

theorem State.i2c_keeps {B0 : State} (s : State) (status : Nat) (data : List Byte) (hk0 : keeps B0 s) :
    keeps B0 (State.i2c s status data) := by
  unfold State.i2c
  repeat' (first | with_reducible assumption | ((with_reducible refine keeps_foldl _ ?_ ?_); intro _ _ _) | ((with_reducible refine keeps_foldl_fst _ ?_ ?_); intro _ _ _) | ((with_reducible refine keeps_foldl_snd _ ?_ ?_); intro _ _ _) | intro _ | (with_reducible refine keeps_fst (by assumption) ?_) | (with_reducible refine keeps_snd (by assumption) ?_) | (with_reducible refine keeps_trd (by assumption) ?_) | split | dsimp only | fail_if_no_progress with_reducible apply keeps_mk | (fail_if_no_progress ((with_reducible refine keeps_mk' ?x1 ?x2 ?x3 ?_); (case x1 => first | exact fun h => h | exact fun h => Mem.wf_putBytes _ _ h | exact fun h => Tab.wf_filter _ h); (case x2 => exact fun h => h); (case x3 => exact fusesRise_refl _))))

theorem State.meterLost_keeps {B0 : State} (s : State) (hk0 : keeps B0 s) : keeps B0 s.meterLost :=
  State.modMeter_keeps' s _ rfl rfl hk0

end Sys2Proof.Machine
end

