-- ==== Sys2Proof/Laws/State.lean ====
section
/-! SUPPORT. Every field of the state after every update of it, so that no proof unfolds a record; and what the state
right after reset is. -/

namespace Sys2Proof.Machine

/-! ### State.access -/

@[simp] theorem State.access_pending (s : State) (f : Fn) : (s.access f).pending = s.pending := rfl
@[simp] theorem State.access_free (s : State) (f : Fn) : (s.access f).free = s.free := rfl
@[simp] theorem State.access_resp (s : State) (f : Fn) : (s.access f).resp = s.resp := rfl
@[simp] theorem State.access_msix (s : State) (f : Fn) : (s.access f).msix = s.msix := rfl
@[simp] theorem State.access_clk (s : State) (f : Fn) : (s.access f).clk = s.clk := rfl
@[simp] theorem State.access_nextId (s : State) (f : Fn) : (s.access f).nextId = s.nextId := rfl
@[simp] theorem State.access_irqSent (s : State) (f : Fn) : (s.access f).irqSent = s.irqSent := rfl
@[simp] theorem State.access_badBlks (s : State) (f : Fn) : (s.access f).badBlks = s.badBlks := rfl
@[simp] theorem State.access_regs (s : State) (f : Fn) : (s.access f).regs = s.regs := rfl
@[simp] theorem State.access_force (s : State) (f : Fn) : (s.access f).force = s.force := rfl
@[simp] theorem State.access_latch (s : State) (f : Fn) : (s.access f).latch = Tab.set (fun _ => none) s.latch (fnIdx f) none := rfl
@[simp] theorem State.access_cores (s : State) (f : Fn) : (s.access f).cores = s.cores := rfl
@[simp] theorem State.access_reqs (s : State) (f : Fn) : (s.access f).reqs = s.reqs := rfl
@[simp] theorem State.access_desk (s : State) (f : Fn) : (s.access f).desk = s.desk := rfl
@[simp] theorem State.access_deskP (s : State) (f : Fn) : (s.access f).deskP = s.deskP := rfl
@[simp] theorem State.access_merges (s : State) (f : Fn) : (s.access f).merges = s.merges := rfl
@[simp] theorem State.access_parts (s : State) (f : Fn) : (s.access f).parts = s.parts := rfl
@[simp] theorem State.access_mem (s : State) (f : Fn) : (s.access f).mem = s.mem := rfl
@[simp] theorem State.access_memBad (s : State) (f : Fn) : (s.access f).memBad = s.memBad := rfl
@[simp] theorem State.access_zeroing (s : State) (f : Fn) : (s.access f).zeroing = s.zeroing := rfl
@[simp] theorem State.access_tierP (s : State) (f : Fn) : (s.access f).tierP = s.tierP := rfl
@[simp] theorem State.access_exps (s : State) (f : Fn) : (s.access f).exps = s.exps := rfl
@[simp] theorem State.access_mloads (s : State) (f : Fn) : (s.access f).mloads = s.mloads := rfl
@[simp] theorem State.access_carrel (s : State) (f : Fn) : (s.access f).carrel = s.carrel := rfl
@[simp] theorem State.access_gus (s : State) (f : Fn) : (s.access f).gus = s.gus := rfl
@[simp] theorem State.access_gather (s : State) (f : Fn) : (s.access f).gather = s.gather := rfl
@[simp] theorem State.access_arc (s : State) (f : Fn) : (s.access f).arc = s.arc := rfl
@[simp] theorem State.access_ports (s : State) (f : Fn) : (s.access f).ports = s.ports := rfl
@[simp] theorem State.access_linkP (s : State) (f : Fn) : (s.access f).linkP = s.linkP := rfl
@[simp] theorem State.access_rc (s : State) (f : Fn) : (s.access f).rc = s.rc := rfl
@[simp] theorem State.access_hosts (s : State) (f : Fn) : (s.access f).hosts = s.hosts := rfl
@[simp] theorem State.access_pwr (s : State) (f : Fn) : (s.access f).pwr = s.pwr := rfl
@[simp] theorem State.access_colo (s : State) (f : Fn) : (s.access f).colo = s.colo := rfl
@[simp] theorem State.access_meter (s : State) (f : Fn) : (s.access f).meter = s.meter := rfl
@[simp] theorem State.access_log (s : State) (f : Fn) : (s.access f).log = s.log := rfl

/-! ### State.setReg -/

@[simp] theorem State.setReg_pending (s : State) (a : Nat) (w : Word) : (s.setReg a w).pending = s.pending := rfl
@[simp] theorem State.setReg_free (s : State) (a : Nat) (w : Word) : (s.setReg a w).free = s.free := rfl
@[simp] theorem State.setReg_resp (s : State) (a : Nat) (w : Word) : (s.setReg a w).resp = s.resp := rfl
@[simp] theorem State.setReg_msix (s : State) (a : Nat) (w : Word) : (s.setReg a w).msix = s.msix := rfl
@[simp] theorem State.setReg_clk (s : State) (a : Nat) (w : Word) : (s.setReg a w).clk = s.clk := rfl
@[simp] theorem State.setReg_nextId (s : State) (a : Nat) (w : Word) : (s.setReg a w).nextId = s.nextId := rfl
@[simp] theorem State.setReg_irqSent (s : State) (a : Nat) (w : Word) : (s.setReg a w).irqSent = s.irqSent := rfl
@[simp] theorem State.setReg_badBlks (s : State) (a : Nat) (w : Word) : (s.setReg a w).badBlks = s.badBlks := rfl
@[simp] theorem State.setReg_regs (s : State) (a : Nat) (w : Word) : (s.setReg a w).regs = Tab.set regReset s.regs a w := rfl
@[simp] theorem State.setReg_force (s : State) (a : Nat) (w : Word) : (s.setReg a w).force = s.force := rfl
@[simp] theorem State.setReg_latch (s : State) (a : Nat) (w : Word) : (s.setReg a w).latch = s.latch := rfl
@[simp] theorem State.setReg_cores (s : State) (a : Nat) (w : Word) : (s.setReg a w).cores = s.cores := rfl
@[simp] theorem State.setReg_reqs (s : State) (a : Nat) (w : Word) : (s.setReg a w).reqs = s.reqs := rfl
@[simp] theorem State.setReg_desk (s : State) (a : Nat) (w : Word) : (s.setReg a w).desk = s.desk := rfl
@[simp] theorem State.setReg_deskP (s : State) (a : Nat) (w : Word) : (s.setReg a w).deskP = s.deskP := rfl
@[simp] theorem State.setReg_merges (s : State) (a : Nat) (w : Word) : (s.setReg a w).merges = s.merges := rfl
@[simp] theorem State.setReg_parts (s : State) (a : Nat) (w : Word) : (s.setReg a w).parts = s.parts := rfl
@[simp] theorem State.setReg_mem (s : State) (a : Nat) (w : Word) : (s.setReg a w).mem = s.mem := rfl
@[simp] theorem State.setReg_memBad (s : State) (a : Nat) (w : Word) : (s.setReg a w).memBad = s.memBad := rfl
@[simp] theorem State.setReg_zeroing (s : State) (a : Nat) (w : Word) : (s.setReg a w).zeroing = s.zeroing := rfl
@[simp] theorem State.setReg_tierP (s : State) (a : Nat) (w : Word) : (s.setReg a w).tierP = s.tierP := rfl
@[simp] theorem State.setReg_exps (s : State) (a : Nat) (w : Word) : (s.setReg a w).exps = s.exps := rfl
@[simp] theorem State.setReg_mloads (s : State) (a : Nat) (w : Word) : (s.setReg a w).mloads = s.mloads := rfl
@[simp] theorem State.setReg_carrel (s : State) (a : Nat) (w : Word) : (s.setReg a w).carrel = s.carrel := rfl
@[simp] theorem State.setReg_gus (s : State) (a : Nat) (w : Word) : (s.setReg a w).gus = s.gus := rfl
@[simp] theorem State.setReg_gather (s : State) (a : Nat) (w : Word) : (s.setReg a w).gather = s.gather := rfl
@[simp] theorem State.setReg_arc (s : State) (a : Nat) (w : Word) : (s.setReg a w).arc = s.arc := rfl
@[simp] theorem State.setReg_ports (s : State) (a : Nat) (w : Word) : (s.setReg a w).ports = s.ports := rfl
@[simp] theorem State.setReg_linkP (s : State) (a : Nat) (w : Word) : (s.setReg a w).linkP = s.linkP := rfl
@[simp] theorem State.setReg_rc (s : State) (a : Nat) (w : Word) : (s.setReg a w).rc = s.rc := rfl
@[simp] theorem State.setReg_hosts (s : State) (a : Nat) (w : Word) : (s.setReg a w).hosts = s.hosts := rfl
@[simp] theorem State.setReg_pwr (s : State) (a : Nat) (w : Word) : (s.setReg a w).pwr = s.pwr := rfl
@[simp] theorem State.setReg_colo (s : State) (a : Nat) (w : Word) : (s.setReg a w).colo = s.colo := rfl
@[simp] theorem State.setReg_meter (s : State) (a : Nat) (w : Word) : (s.setReg a w).meter = s.meter := rfl
@[simp] theorem State.setReg_log (s : State) (a : Nat) (w : Word) : (s.setReg a w).log = s.log := rfl

/-! ### State.setForce -/

@[simp] theorem State.setForce_pending (s : State) (a : Nat) (w : Word) : (s.setForce a w).pending = s.pending := rfl
@[simp] theorem State.setForce_free (s : State) (a : Nat) (w : Word) : (s.setForce a w).free = s.free := rfl
@[simp] theorem State.setForce_resp (s : State) (a : Nat) (w : Word) : (s.setForce a w).resp = s.resp := rfl
@[simp] theorem State.setForce_msix (s : State) (a : Nat) (w : Word) : (s.setForce a w).msix = s.msix := rfl
@[simp] theorem State.setForce_clk (s : State) (a : Nat) (w : Word) : (s.setForce a w).clk = s.clk := rfl
@[simp] theorem State.setForce_nextId (s : State) (a : Nat) (w : Word) : (s.setForce a w).nextId = s.nextId := rfl
@[simp] theorem State.setForce_irqSent (s : State) (a : Nat) (w : Word) : (s.setForce a w).irqSent = s.irqSent := rfl
@[simp] theorem State.setForce_badBlks (s : State) (a : Nat) (w : Word) : (s.setForce a w).badBlks = s.badBlks := rfl
@[simp] theorem State.setForce_regs (s : State) (a : Nat) (w : Word) : (s.setForce a w).regs = s.regs := rfl
@[simp] theorem State.setForce_force (s : State) (a : Nat) (w : Word) : (s.setForce a w).force = Tab.set regReset s.force a w := rfl
@[simp] theorem State.setForce_latch (s : State) (a : Nat) (w : Word) : (s.setForce a w).latch = s.latch := rfl
@[simp] theorem State.setForce_cores (s : State) (a : Nat) (w : Word) : (s.setForce a w).cores = s.cores := rfl
@[simp] theorem State.setForce_reqs (s : State) (a : Nat) (w : Word) : (s.setForce a w).reqs = s.reqs := rfl
@[simp] theorem State.setForce_desk (s : State) (a : Nat) (w : Word) : (s.setForce a w).desk = s.desk := rfl
@[simp] theorem State.setForce_deskP (s : State) (a : Nat) (w : Word) : (s.setForce a w).deskP = s.deskP := rfl
@[simp] theorem State.setForce_merges (s : State) (a : Nat) (w : Word) : (s.setForce a w).merges = s.merges := rfl
@[simp] theorem State.setForce_parts (s : State) (a : Nat) (w : Word) : (s.setForce a w).parts = s.parts := rfl
@[simp] theorem State.setForce_mem (s : State) (a : Nat) (w : Word) : (s.setForce a w).mem = s.mem := rfl
@[simp] theorem State.setForce_memBad (s : State) (a : Nat) (w : Word) : (s.setForce a w).memBad = s.memBad := rfl
@[simp] theorem State.setForce_zeroing (s : State) (a : Nat) (w : Word) : (s.setForce a w).zeroing = s.zeroing := rfl
@[simp] theorem State.setForce_tierP (s : State) (a : Nat) (w : Word) : (s.setForce a w).tierP = s.tierP := rfl
@[simp] theorem State.setForce_exps (s : State) (a : Nat) (w : Word) : (s.setForce a w).exps = s.exps := rfl
@[simp] theorem State.setForce_mloads (s : State) (a : Nat) (w : Word) : (s.setForce a w).mloads = s.mloads := rfl
@[simp] theorem State.setForce_carrel (s : State) (a : Nat) (w : Word) : (s.setForce a w).carrel = s.carrel := rfl
@[simp] theorem State.setForce_gus (s : State) (a : Nat) (w : Word) : (s.setForce a w).gus = s.gus := rfl
@[simp] theorem State.setForce_gather (s : State) (a : Nat) (w : Word) : (s.setForce a w).gather = s.gather := rfl
@[simp] theorem State.setForce_arc (s : State) (a : Nat) (w : Word) : (s.setForce a w).arc = s.arc := rfl
@[simp] theorem State.setForce_ports (s : State) (a : Nat) (w : Word) : (s.setForce a w).ports = s.ports := rfl
@[simp] theorem State.setForce_linkP (s : State) (a : Nat) (w : Word) : (s.setForce a w).linkP = s.linkP := rfl
@[simp] theorem State.setForce_rc (s : State) (a : Nat) (w : Word) : (s.setForce a w).rc = s.rc := rfl
@[simp] theorem State.setForce_hosts (s : State) (a : Nat) (w : Word) : (s.setForce a w).hosts = s.hosts := rfl
@[simp] theorem State.setForce_pwr (s : State) (a : Nat) (w : Word) : (s.setForce a w).pwr = s.pwr := rfl
@[simp] theorem State.setForce_colo (s : State) (a : Nat) (w : Word) : (s.setForce a w).colo = s.colo := rfl
@[simp] theorem State.setForce_meter (s : State) (a : Nat) (w : Word) : (s.setForce a w).meter = s.meter := rfl
@[simp] theorem State.setForce_log (s : State) (a : Nat) (w : Word) : (s.setForce a w).log = s.log := rfl

/-! ### State.setCore -/

@[simp] theorem State.setCore_pending (s : State) (c : Nat) (k : Core) : (s.setCore c k).pending = s.pending := rfl
@[simp] theorem State.setCore_free (s : State) (c : Nat) (k : Core) : (s.setCore c k).free = s.free := rfl
@[simp] theorem State.setCore_resp (s : State) (c : Nat) (k : Core) : (s.setCore c k).resp = s.resp := rfl
@[simp] theorem State.setCore_msix (s : State) (c : Nat) (k : Core) : (s.setCore c k).msix = s.msix := rfl
@[simp] theorem State.setCore_clk (s : State) (c : Nat) (k : Core) : (s.setCore c k).clk = s.clk := rfl
@[simp] theorem State.setCore_nextId (s : State) (c : Nat) (k : Core) : (s.setCore c k).nextId = s.nextId := rfl
@[simp] theorem State.setCore_irqSent (s : State) (c : Nat) (k : Core) : (s.setCore c k).irqSent = s.irqSent := rfl
@[simp] theorem State.setCore_badBlks (s : State) (c : Nat) (k : Core) : (s.setCore c k).badBlks = s.badBlks := rfl
@[simp] theorem State.setCore_regs (s : State) (c : Nat) (k : Core) : (s.setCore c k).regs = s.regs := rfl
@[simp] theorem State.setCore_force (s : State) (c : Nat) (k : Core) : (s.setCore c k).force = s.force := rfl
@[simp] theorem State.setCore_latch (s : State) (c : Nat) (k : Core) : (s.setCore c k).latch = s.latch := rfl
@[simp] theorem State.setCore_cores (s : State) (c : Nat) (k : Core) : (s.setCore c k).cores = Tab.set (fun _ => {}) s.cores c k := rfl
@[simp] theorem State.setCore_reqs (s : State) (c : Nat) (k : Core) : (s.setCore c k).reqs = s.reqs := rfl
@[simp] theorem State.setCore_desk (s : State) (c : Nat) (k : Core) : (s.setCore c k).desk = s.desk := rfl
@[simp] theorem State.setCore_deskP (s : State) (c : Nat) (k : Core) : (s.setCore c k).deskP = s.deskP := rfl
@[simp] theorem State.setCore_merges (s : State) (c : Nat) (k : Core) : (s.setCore c k).merges = s.merges := rfl
@[simp] theorem State.setCore_parts (s : State) (c : Nat) (k : Core) : (s.setCore c k).parts = s.parts := rfl
@[simp] theorem State.setCore_mem (s : State) (c : Nat) (k : Core) : (s.setCore c k).mem = s.mem := rfl
@[simp] theorem State.setCore_memBad (s : State) (c : Nat) (k : Core) : (s.setCore c k).memBad = s.memBad := rfl
@[simp] theorem State.setCore_zeroing (s : State) (c : Nat) (k : Core) : (s.setCore c k).zeroing = s.zeroing := rfl
@[simp] theorem State.setCore_tierP (s : State) (c : Nat) (k : Core) : (s.setCore c k).tierP = s.tierP := rfl
@[simp] theorem State.setCore_exps (s : State) (c : Nat) (k : Core) : (s.setCore c k).exps = s.exps := rfl
@[simp] theorem State.setCore_mloads (s : State) (c : Nat) (k : Core) : (s.setCore c k).mloads = s.mloads := rfl
@[simp] theorem State.setCore_carrel (s : State) (c : Nat) (k : Core) : (s.setCore c k).carrel = s.carrel := rfl
@[simp] theorem State.setCore_gus (s : State) (c : Nat) (k : Core) : (s.setCore c k).gus = s.gus := rfl
@[simp] theorem State.setCore_gather (s : State) (c : Nat) (k : Core) : (s.setCore c k).gather = s.gather := rfl
@[simp] theorem State.setCore_arc (s : State) (c : Nat) (k : Core) : (s.setCore c k).arc = s.arc := rfl
@[simp] theorem State.setCore_ports (s : State) (c : Nat) (k : Core) : (s.setCore c k).ports = s.ports := rfl
@[simp] theorem State.setCore_linkP (s : State) (c : Nat) (k : Core) : (s.setCore c k).linkP = s.linkP := rfl
@[simp] theorem State.setCore_rc (s : State) (c : Nat) (k : Core) : (s.setCore c k).rc = s.rc := rfl
@[simp] theorem State.setCore_hosts (s : State) (c : Nat) (k : Core) : (s.setCore c k).hosts = s.hosts := rfl
@[simp] theorem State.setCore_pwr (s : State) (c : Nat) (k : Core) : (s.setCore c k).pwr = s.pwr := rfl
@[simp] theorem State.setCore_colo (s : State) (c : Nat) (k : Core) : (s.setCore c k).colo = s.colo := rfl
@[simp] theorem State.setCore_meter (s : State) (c : Nat) (k : Core) : (s.setCore c k).meter = s.meter := rfl
@[simp] theorem State.setCore_log (s : State) (c : Nat) (k : Core) : (s.setCore c k).log = s.log := rfl

/-! ### State.setThr -/

@[simp] theorem State.setThr_pending (s : State) (c t : Nat) (x : Thread) : (s.setThr c t x).pending = s.pending := rfl
@[simp] theorem State.setThr_free (s : State) (c t : Nat) (x : Thread) : (s.setThr c t x).free = s.free := rfl
@[simp] theorem State.setThr_resp (s : State) (c t : Nat) (x : Thread) : (s.setThr c t x).resp = s.resp := rfl
@[simp] theorem State.setThr_msix (s : State) (c t : Nat) (x : Thread) : (s.setThr c t x).msix = s.msix := rfl
@[simp] theorem State.setThr_clk (s : State) (c t : Nat) (x : Thread) : (s.setThr c t x).clk = s.clk := rfl
@[simp] theorem State.setThr_nextId (s : State) (c t : Nat) (x : Thread) : (s.setThr c t x).nextId = s.nextId := rfl
@[simp] theorem State.setThr_irqSent (s : State) (c t : Nat) (x : Thread) : (s.setThr c t x).irqSent = s.irqSent := rfl
@[simp] theorem State.setThr_badBlks (s : State) (c t : Nat) (x : Thread) : (s.setThr c t x).badBlks = s.badBlks := rfl
@[simp] theorem State.setThr_regs (s : State) (c t : Nat) (x : Thread) : (s.setThr c t x).regs = s.regs := rfl
@[simp] theorem State.setThr_force (s : State) (c t : Nat) (x : Thread) : (s.setThr c t x).force = s.force := rfl
@[simp] theorem State.setThr_latch (s : State) (c t : Nat) (x : Thread) : (s.setThr c t x).latch = s.latch := rfl
@[simp] theorem State.setThr_cores (s : State) (c t : Nat) (x : Thread) : (s.setThr c t x).cores = Tab.set (fun _ => {}) s.cores c ((s.core c).setThr t x) := rfl
@[simp] theorem State.setThr_reqs (s : State) (c t : Nat) (x : Thread) : (s.setThr c t x).reqs = s.reqs := rfl
@[simp] theorem State.setThr_desk (s : State) (c t : Nat) (x : Thread) : (s.setThr c t x).desk = s.desk := rfl
@[simp] theorem State.setThr_deskP (s : State) (c t : Nat) (x : Thread) : (s.setThr c t x).deskP = s.deskP := rfl
@[simp] theorem State.setThr_merges (s : State) (c t : Nat) (x : Thread) : (s.setThr c t x).merges = s.merges := rfl
@[simp] theorem State.setThr_parts (s : State) (c t : Nat) (x : Thread) : (s.setThr c t x).parts = s.parts := rfl
@[simp] theorem State.setThr_mem (s : State) (c t : Nat) (x : Thread) : (s.setThr c t x).mem = s.mem := rfl
@[simp] theorem State.setThr_memBad (s : State) (c t : Nat) (x : Thread) : (s.setThr c t x).memBad = s.memBad := rfl
@[simp] theorem State.setThr_zeroing (s : State) (c t : Nat) (x : Thread) : (s.setThr c t x).zeroing = s.zeroing := rfl
@[simp] theorem State.setThr_tierP (s : State) (c t : Nat) (x : Thread) : (s.setThr c t x).tierP = s.tierP := rfl
@[simp] theorem State.setThr_exps (s : State) (c t : Nat) (x : Thread) : (s.setThr c t x).exps = s.exps := rfl
@[simp] theorem State.setThr_mloads (s : State) (c t : Nat) (x : Thread) : (s.setThr c t x).mloads = s.mloads := rfl
@[simp] theorem State.setThr_carrel (s : State) (c t : Nat) (x : Thread) : (s.setThr c t x).carrel = s.carrel := rfl
@[simp] theorem State.setThr_gus (s : State) (c t : Nat) (x : Thread) : (s.setThr c t x).gus = s.gus := rfl
@[simp] theorem State.setThr_gather (s : State) (c t : Nat) (x : Thread) : (s.setThr c t x).gather = s.gather := rfl
@[simp] theorem State.setThr_arc (s : State) (c t : Nat) (x : Thread) : (s.setThr c t x).arc = s.arc := rfl
@[simp] theorem State.setThr_ports (s : State) (c t : Nat) (x : Thread) : (s.setThr c t x).ports = s.ports := rfl
@[simp] theorem State.setThr_linkP (s : State) (c t : Nat) (x : Thread) : (s.setThr c t x).linkP = s.linkP := rfl
@[simp] theorem State.setThr_rc (s : State) (c t : Nat) (x : Thread) : (s.setThr c t x).rc = s.rc := rfl
@[simp] theorem State.setThr_hosts (s : State) (c t : Nat) (x : Thread) : (s.setThr c t x).hosts = s.hosts := rfl
@[simp] theorem State.setThr_pwr (s : State) (c t : Nat) (x : Thread) : (s.setThr c t x).pwr = s.pwr := rfl
@[simp] theorem State.setThr_colo (s : State) (c t : Nat) (x : Thread) : (s.setThr c t x).colo = s.colo := rfl
@[simp] theorem State.setThr_meter (s : State) (c t : Nat) (x : Thread) : (s.setThr c t x).meter = s.meter := rfl
@[simp] theorem State.setThr_log (s : State) (c t : Nat) (x : Thread) : (s.setThr c t x).log = s.log := rfl

/-! ### State.modPart -/

@[simp] theorem State.modPart_pending (s : State) (p : Nat) (f : Part → Part) : (s.modPart p f).pending = s.pending := rfl
@[simp] theorem State.modPart_free (s : State) (p : Nat) (f : Part → Part) : (s.modPart p f).free = s.free := rfl
@[simp] theorem State.modPart_resp (s : State) (p : Nat) (f : Part → Part) : (s.modPart p f).resp = s.resp := rfl
@[simp] theorem State.modPart_msix (s : State) (p : Nat) (f : Part → Part) : (s.modPart p f).msix = s.msix := rfl
@[simp] theorem State.modPart_clk (s : State) (p : Nat) (f : Part → Part) : (s.modPart p f).clk = s.clk := rfl
@[simp] theorem State.modPart_nextId (s : State) (p : Nat) (f : Part → Part) : (s.modPart p f).nextId = s.nextId := rfl
@[simp] theorem State.modPart_irqSent (s : State) (p : Nat) (f : Part → Part) : (s.modPart p f).irqSent = s.irqSent := rfl
@[simp] theorem State.modPart_badBlks (s : State) (p : Nat) (f : Part → Part) : (s.modPart p f).badBlks = s.badBlks := rfl
@[simp] theorem State.modPart_regs (s : State) (p : Nat) (f : Part → Part) : (s.modPart p f).regs = s.regs := rfl
@[simp] theorem State.modPart_force (s : State) (p : Nat) (f : Part → Part) : (s.modPart p f).force = s.force := rfl
@[simp] theorem State.modPart_latch (s : State) (p : Nat) (f : Part → Part) : (s.modPart p f).latch = s.latch := rfl
@[simp] theorem State.modPart_cores (s : State) (p : Nat) (f : Part → Part) : (s.modPart p f).cores = s.cores := rfl
@[simp] theorem State.modPart_reqs (s : State) (p : Nat) (f : Part → Part) : (s.modPart p f).reqs = s.reqs := rfl
@[simp] theorem State.modPart_desk (s : State) (p : Nat) (f : Part → Part) : (s.modPart p f).desk = s.desk := rfl
@[simp] theorem State.modPart_deskP (s : State) (p : Nat) (f : Part → Part) : (s.modPart p f).deskP = s.deskP := rfl
@[simp] theorem State.modPart_merges (s : State) (p : Nat) (f : Part → Part) : (s.modPart p f).merges = s.merges := rfl
@[simp] theorem State.modPart_parts (s : State) (p : Nat) (f : Part → Part) : (s.modPart p f).parts = Tab.set (fun _ => {}) s.parts p (f (s.part p)) := rfl
@[simp] theorem State.modPart_mem (s : State) (p : Nat) (f : Part → Part) : (s.modPart p f).mem = s.mem := rfl
@[simp] theorem State.modPart_memBad (s : State) (p : Nat) (f : Part → Part) : (s.modPart p f).memBad = s.memBad := rfl
@[simp] theorem State.modPart_zeroing (s : State) (p : Nat) (f : Part → Part) : (s.modPart p f).zeroing = s.zeroing := rfl
@[simp] theorem State.modPart_tierP (s : State) (p : Nat) (f : Part → Part) : (s.modPart p f).tierP = s.tierP := rfl
@[simp] theorem State.modPart_exps (s : State) (p : Nat) (f : Part → Part) : (s.modPart p f).exps = s.exps := rfl
@[simp] theorem State.modPart_mloads (s : State) (p : Nat) (f : Part → Part) : (s.modPart p f).mloads = s.mloads := rfl
@[simp] theorem State.modPart_carrel (s : State) (p : Nat) (f : Part → Part) : (s.modPart p f).carrel = s.carrel := rfl
@[simp] theorem State.modPart_gus (s : State) (p : Nat) (f : Part → Part) : (s.modPart p f).gus = s.gus := rfl
@[simp] theorem State.modPart_gather (s : State) (p : Nat) (f : Part → Part) : (s.modPart p f).gather = s.gather := rfl
@[simp] theorem State.modPart_arc (s : State) (p : Nat) (f : Part → Part) : (s.modPart p f).arc = s.arc := rfl
@[simp] theorem State.modPart_ports (s : State) (p : Nat) (f : Part → Part) : (s.modPart p f).ports = s.ports := rfl
@[simp] theorem State.modPart_linkP (s : State) (p : Nat) (f : Part → Part) : (s.modPart p f).linkP = s.linkP := rfl
@[simp] theorem State.modPart_rc (s : State) (p : Nat) (f : Part → Part) : (s.modPart p f).rc = s.rc := rfl
@[simp] theorem State.modPart_hosts (s : State) (p : Nat) (f : Part → Part) : (s.modPart p f).hosts = s.hosts := rfl
@[simp] theorem State.modPart_pwr (s : State) (p : Nat) (f : Part → Part) : (s.modPart p f).pwr = s.pwr := rfl
@[simp] theorem State.modPart_colo (s : State) (p : Nat) (f : Part → Part) : (s.modPart p f).colo = s.colo := rfl
@[simp] theorem State.modPart_meter (s : State) (p : Nat) (f : Part → Part) : (s.modPart p f).meter = s.meter := rfl
@[simp] theorem State.modPart_log (s : State) (p : Nat) (f : Part → Part) : (s.modPart p f).log = s.log := rfl

/-! ### State.modDk -/

@[simp] theorem State.modDk_pending (s : State) (p : Nat) (f : DeskPart → DeskPart) : (s.modDk p f).pending = s.pending := rfl
@[simp] theorem State.modDk_free (s : State) (p : Nat) (f : DeskPart → DeskPart) : (s.modDk p f).free = s.free := rfl
@[simp] theorem State.modDk_resp (s : State) (p : Nat) (f : DeskPart → DeskPart) : (s.modDk p f).resp = s.resp := rfl
@[simp] theorem State.modDk_msix (s : State) (p : Nat) (f : DeskPart → DeskPart) : (s.modDk p f).msix = s.msix := rfl
@[simp] theorem State.modDk_clk (s : State) (p : Nat) (f : DeskPart → DeskPart) : (s.modDk p f).clk = s.clk := rfl
@[simp] theorem State.modDk_nextId (s : State) (p : Nat) (f : DeskPart → DeskPart) : (s.modDk p f).nextId = s.nextId := rfl
@[simp] theorem State.modDk_irqSent (s : State) (p : Nat) (f : DeskPart → DeskPart) : (s.modDk p f).irqSent = s.irqSent := rfl
@[simp] theorem State.modDk_badBlks (s : State) (p : Nat) (f : DeskPart → DeskPart) : (s.modDk p f).badBlks = s.badBlks := rfl
@[simp] theorem State.modDk_regs (s : State) (p : Nat) (f : DeskPart → DeskPart) : (s.modDk p f).regs = s.regs := rfl
@[simp] theorem State.modDk_force (s : State) (p : Nat) (f : DeskPart → DeskPart) : (s.modDk p f).force = s.force := rfl
@[simp] theorem State.modDk_latch (s : State) (p : Nat) (f : DeskPart → DeskPart) : (s.modDk p f).latch = s.latch := rfl
@[simp] theorem State.modDk_cores (s : State) (p : Nat) (f : DeskPart → DeskPart) : (s.modDk p f).cores = s.cores := rfl
@[simp] theorem State.modDk_reqs (s : State) (p : Nat) (f : DeskPart → DeskPart) : (s.modDk p f).reqs = s.reqs := rfl
@[simp] theorem State.modDk_desk (s : State) (p : Nat) (f : DeskPart → DeskPart) : (s.modDk p f).desk = s.desk := rfl
@[simp] theorem State.modDk_deskP (s : State) (p : Nat) (f : DeskPart → DeskPart) : (s.modDk p f).deskP = Tab.set (fun _ => {}) s.deskP p (f (s.dk p)) := rfl
@[simp] theorem State.modDk_merges (s : State) (p : Nat) (f : DeskPart → DeskPart) : (s.modDk p f).merges = s.merges := rfl
@[simp] theorem State.modDk_parts (s : State) (p : Nat) (f : DeskPart → DeskPart) : (s.modDk p f).parts = s.parts := rfl
@[simp] theorem State.modDk_mem (s : State) (p : Nat) (f : DeskPart → DeskPart) : (s.modDk p f).mem = s.mem := rfl
@[simp] theorem State.modDk_memBad (s : State) (p : Nat) (f : DeskPart → DeskPart) : (s.modDk p f).memBad = s.memBad := rfl
@[simp] theorem State.modDk_zeroing (s : State) (p : Nat) (f : DeskPart → DeskPart) : (s.modDk p f).zeroing = s.zeroing := rfl
@[simp] theorem State.modDk_tierP (s : State) (p : Nat) (f : DeskPart → DeskPart) : (s.modDk p f).tierP = s.tierP := rfl
@[simp] theorem State.modDk_exps (s : State) (p : Nat) (f : DeskPart → DeskPart) : (s.modDk p f).exps = s.exps := rfl
@[simp] theorem State.modDk_mloads (s : State) (p : Nat) (f : DeskPart → DeskPart) : (s.modDk p f).mloads = s.mloads := rfl
@[simp] theorem State.modDk_carrel (s : State) (p : Nat) (f : DeskPart → DeskPart) : (s.modDk p f).carrel = s.carrel := rfl
@[simp] theorem State.modDk_gus (s : State) (p : Nat) (f : DeskPart → DeskPart) : (s.modDk p f).gus = s.gus := rfl
@[simp] theorem State.modDk_gather (s : State) (p : Nat) (f : DeskPart → DeskPart) : (s.modDk p f).gather = s.gather := rfl
@[simp] theorem State.modDk_arc (s : State) (p : Nat) (f : DeskPart → DeskPart) : (s.modDk p f).arc = s.arc := rfl
@[simp] theorem State.modDk_ports (s : State) (p : Nat) (f : DeskPart → DeskPart) : (s.modDk p f).ports = s.ports := rfl
@[simp] theorem State.modDk_linkP (s : State) (p : Nat) (f : DeskPart → DeskPart) : (s.modDk p f).linkP = s.linkP := rfl
@[simp] theorem State.modDk_rc (s : State) (p : Nat) (f : DeskPart → DeskPart) : (s.modDk p f).rc = s.rc := rfl
@[simp] theorem State.modDk_hosts (s : State) (p : Nat) (f : DeskPart → DeskPart) : (s.modDk p f).hosts = s.hosts := rfl
@[simp] theorem State.modDk_pwr (s : State) (p : Nat) (f : DeskPart → DeskPart) : (s.modDk p f).pwr = s.pwr := rfl
@[simp] theorem State.modDk_colo (s : State) (p : Nat) (f : DeskPart → DeskPart) : (s.modDk p f).colo = s.colo := rfl
@[simp] theorem State.modDk_meter (s : State) (p : Nat) (f : DeskPart → DeskPart) : (s.modDk p f).meter = s.meter := rfl
@[simp] theorem State.modDk_log (s : State) (p : Nat) (f : DeskPart → DeskPart) : (s.modDk p f).log = s.log := rfl

/-! ### State.modDesk -/

@[simp] theorem State.modDesk_pending (s : State) (f : Desk → Desk) : (s.modDesk f).pending = s.pending := rfl
@[simp] theorem State.modDesk_free (s : State) (f : Desk → Desk) : (s.modDesk f).free = s.free := rfl
@[simp] theorem State.modDesk_resp (s : State) (f : Desk → Desk) : (s.modDesk f).resp = s.resp := rfl
@[simp] theorem State.modDesk_msix (s : State) (f : Desk → Desk) : (s.modDesk f).msix = s.msix := rfl
@[simp] theorem State.modDesk_clk (s : State) (f : Desk → Desk) : (s.modDesk f).clk = s.clk := rfl
@[simp] theorem State.modDesk_nextId (s : State) (f : Desk → Desk) : (s.modDesk f).nextId = s.nextId := rfl
@[simp] theorem State.modDesk_irqSent (s : State) (f : Desk → Desk) : (s.modDesk f).irqSent = s.irqSent := rfl
@[simp] theorem State.modDesk_badBlks (s : State) (f : Desk → Desk) : (s.modDesk f).badBlks = s.badBlks := rfl
@[simp] theorem State.modDesk_regs (s : State) (f : Desk → Desk) : (s.modDesk f).regs = s.regs := rfl
@[simp] theorem State.modDesk_force (s : State) (f : Desk → Desk) : (s.modDesk f).force = s.force := rfl
@[simp] theorem State.modDesk_latch (s : State) (f : Desk → Desk) : (s.modDesk f).latch = s.latch := rfl
@[simp] theorem State.modDesk_cores (s : State) (f : Desk → Desk) : (s.modDesk f).cores = s.cores := rfl
@[simp] theorem State.modDesk_reqs (s : State) (f : Desk → Desk) : (s.modDesk f).reqs = s.reqs := rfl
@[simp] theorem State.modDesk_desk (s : State) (f : Desk → Desk) : (s.modDesk f).desk = f s.desk := rfl
@[simp] theorem State.modDesk_deskP (s : State) (f : Desk → Desk) : (s.modDesk f).deskP = s.deskP := rfl
@[simp] theorem State.modDesk_merges (s : State) (f : Desk → Desk) : (s.modDesk f).merges = s.merges := rfl
@[simp] theorem State.modDesk_parts (s : State) (f : Desk → Desk) : (s.modDesk f).parts = s.parts := rfl
@[simp] theorem State.modDesk_mem (s : State) (f : Desk → Desk) : (s.modDesk f).mem = s.mem := rfl
@[simp] theorem State.modDesk_memBad (s : State) (f : Desk → Desk) : (s.modDesk f).memBad = s.memBad := rfl
@[simp] theorem State.modDesk_zeroing (s : State) (f : Desk → Desk) : (s.modDesk f).zeroing = s.zeroing := rfl
@[simp] theorem State.modDesk_tierP (s : State) (f : Desk → Desk) : (s.modDesk f).tierP = s.tierP := rfl
@[simp] theorem State.modDesk_exps (s : State) (f : Desk → Desk) : (s.modDesk f).exps = s.exps := rfl
@[simp] theorem State.modDesk_mloads (s : State) (f : Desk → Desk) : (s.modDesk f).mloads = s.mloads := rfl
@[simp] theorem State.modDesk_carrel (s : State) (f : Desk → Desk) : (s.modDesk f).carrel = s.carrel := rfl
@[simp] theorem State.modDesk_gus (s : State) (f : Desk → Desk) : (s.modDesk f).gus = s.gus := rfl
@[simp] theorem State.modDesk_gather (s : State) (f : Desk → Desk) : (s.modDesk f).gather = s.gather := rfl
@[simp] theorem State.modDesk_arc (s : State) (f : Desk → Desk) : (s.modDesk f).arc = s.arc := rfl
@[simp] theorem State.modDesk_ports (s : State) (f : Desk → Desk) : (s.modDesk f).ports = s.ports := rfl
@[simp] theorem State.modDesk_linkP (s : State) (f : Desk → Desk) : (s.modDesk f).linkP = s.linkP := rfl
@[simp] theorem State.modDesk_rc (s : State) (f : Desk → Desk) : (s.modDesk f).rc = s.rc := rfl
@[simp] theorem State.modDesk_hosts (s : State) (f : Desk → Desk) : (s.modDesk f).hosts = s.hosts := rfl
@[simp] theorem State.modDesk_pwr (s : State) (f : Desk → Desk) : (s.modDesk f).pwr = s.pwr := rfl
@[simp] theorem State.modDesk_colo (s : State) (f : Desk → Desk) : (s.modDesk f).colo = s.colo := rfl
@[simp] theorem State.modDesk_meter (s : State) (f : Desk → Desk) : (s.modDesk f).meter = s.meter := rfl
@[simp] theorem State.modDesk_log (s : State) (f : Desk → Desk) : (s.modDesk f).log = s.log := rfl

/-! ### State.setReq -/

@[simp] theorem State.setReq_pending (s : State) (i : Nat) (r : Option Req) : (s.setReq i r).pending = s.pending := rfl
@[simp] theorem State.setReq_free (s : State) (i : Nat) (r : Option Req) : (s.setReq i r).free = s.free := rfl
@[simp] theorem State.setReq_resp (s : State) (i : Nat) (r : Option Req) : (s.setReq i r).resp = s.resp := rfl
@[simp] theorem State.setReq_msix (s : State) (i : Nat) (r : Option Req) : (s.setReq i r).msix = s.msix := rfl
@[simp] theorem State.setReq_clk (s : State) (i : Nat) (r : Option Req) : (s.setReq i r).clk = s.clk := rfl
@[simp] theorem State.setReq_nextId (s : State) (i : Nat) (r : Option Req) : (s.setReq i r).nextId = s.nextId := rfl
@[simp] theorem State.setReq_irqSent (s : State) (i : Nat) (r : Option Req) : (s.setReq i r).irqSent = s.irqSent := rfl
@[simp] theorem State.setReq_badBlks (s : State) (i : Nat) (r : Option Req) : (s.setReq i r).badBlks = s.badBlks := rfl
@[simp] theorem State.setReq_regs (s : State) (i : Nat) (r : Option Req) : (s.setReq i r).regs = s.regs := rfl
@[simp] theorem State.setReq_force (s : State) (i : Nat) (r : Option Req) : (s.setReq i r).force = s.force := rfl
@[simp] theorem State.setReq_latch (s : State) (i : Nat) (r : Option Req) : (s.setReq i r).latch = s.latch := rfl
@[simp] theorem State.setReq_cores (s : State) (i : Nat) (r : Option Req) : (s.setReq i r).cores = s.cores := rfl
@[simp] theorem State.setReq_reqs (s : State) (i : Nat) (r : Option Req) : (s.setReq i r).reqs = Tab.set (fun _ => none) s.reqs i r := rfl
@[simp] theorem State.setReq_desk (s : State) (i : Nat) (r : Option Req) : (s.setReq i r).desk = s.desk := rfl
@[simp] theorem State.setReq_deskP (s : State) (i : Nat) (r : Option Req) : (s.setReq i r).deskP = s.deskP := rfl
@[simp] theorem State.setReq_merges (s : State) (i : Nat) (r : Option Req) : (s.setReq i r).merges = s.merges := rfl
@[simp] theorem State.setReq_parts (s : State) (i : Nat) (r : Option Req) : (s.setReq i r).parts = s.parts := rfl
@[simp] theorem State.setReq_mem (s : State) (i : Nat) (r : Option Req) : (s.setReq i r).mem = s.mem := rfl
@[simp] theorem State.setReq_memBad (s : State) (i : Nat) (r : Option Req) : (s.setReq i r).memBad = s.memBad := rfl
@[simp] theorem State.setReq_zeroing (s : State) (i : Nat) (r : Option Req) : (s.setReq i r).zeroing = s.zeroing := rfl
@[simp] theorem State.setReq_tierP (s : State) (i : Nat) (r : Option Req) : (s.setReq i r).tierP = s.tierP := rfl
@[simp] theorem State.setReq_exps (s : State) (i : Nat) (r : Option Req) : (s.setReq i r).exps = s.exps := rfl
@[simp] theorem State.setReq_mloads (s : State) (i : Nat) (r : Option Req) : (s.setReq i r).mloads = s.mloads := rfl
@[simp] theorem State.setReq_carrel (s : State) (i : Nat) (r : Option Req) : (s.setReq i r).carrel = s.carrel := rfl
@[simp] theorem State.setReq_gus (s : State) (i : Nat) (r : Option Req) : (s.setReq i r).gus = s.gus := rfl
@[simp] theorem State.setReq_gather (s : State) (i : Nat) (r : Option Req) : (s.setReq i r).gather = s.gather := rfl
@[simp] theorem State.setReq_arc (s : State) (i : Nat) (r : Option Req) : (s.setReq i r).arc = s.arc := rfl
@[simp] theorem State.setReq_ports (s : State) (i : Nat) (r : Option Req) : (s.setReq i r).ports = s.ports := rfl
@[simp] theorem State.setReq_linkP (s : State) (i : Nat) (r : Option Req) : (s.setReq i r).linkP = s.linkP := rfl
@[simp] theorem State.setReq_rc (s : State) (i : Nat) (r : Option Req) : (s.setReq i r).rc = s.rc := rfl
@[simp] theorem State.setReq_hosts (s : State) (i : Nat) (r : Option Req) : (s.setReq i r).hosts = s.hosts := rfl
@[simp] theorem State.setReq_pwr (s : State) (i : Nat) (r : Option Req) : (s.setReq i r).pwr = s.pwr := rfl
@[simp] theorem State.setReq_colo (s : State) (i : Nat) (r : Option Req) : (s.setReq i r).colo = s.colo := rfl
@[simp] theorem State.setReq_meter (s : State) (i : Nat) (r : Option Req) : (s.setReq i r).meter = s.meter := rfl
@[simp] theorem State.setReq_log (s : State) (i : Nat) (r : Option Req) : (s.setReq i r).log = s.log := rfl

/-! ### State.modTp -/

@[simp] theorem State.modTp_pending (s : State) (p : Nat) (f : TierPart → TierPart) : (s.modTp p f).pending = s.pending := rfl
@[simp] theorem State.modTp_free (s : State) (p : Nat) (f : TierPart → TierPart) : (s.modTp p f).free = s.free := rfl
@[simp] theorem State.modTp_resp (s : State) (p : Nat) (f : TierPart → TierPart) : (s.modTp p f).resp = s.resp := rfl
@[simp] theorem State.modTp_msix (s : State) (p : Nat) (f : TierPart → TierPart) : (s.modTp p f).msix = s.msix := rfl
@[simp] theorem State.modTp_clk (s : State) (p : Nat) (f : TierPart → TierPart) : (s.modTp p f).clk = s.clk := rfl
@[simp] theorem State.modTp_nextId (s : State) (p : Nat) (f : TierPart → TierPart) : (s.modTp p f).nextId = s.nextId := rfl
@[simp] theorem State.modTp_irqSent (s : State) (p : Nat) (f : TierPart → TierPart) : (s.modTp p f).irqSent = s.irqSent := rfl
@[simp] theorem State.modTp_badBlks (s : State) (p : Nat) (f : TierPart → TierPart) : (s.modTp p f).badBlks = s.badBlks := rfl
@[simp] theorem State.modTp_regs (s : State) (p : Nat) (f : TierPart → TierPart) : (s.modTp p f).regs = s.regs := rfl
@[simp] theorem State.modTp_force (s : State) (p : Nat) (f : TierPart → TierPart) : (s.modTp p f).force = s.force := rfl
@[simp] theorem State.modTp_latch (s : State) (p : Nat) (f : TierPart → TierPart) : (s.modTp p f).latch = s.latch := rfl
@[simp] theorem State.modTp_cores (s : State) (p : Nat) (f : TierPart → TierPart) : (s.modTp p f).cores = s.cores := rfl
@[simp] theorem State.modTp_reqs (s : State) (p : Nat) (f : TierPart → TierPart) : (s.modTp p f).reqs = s.reqs := rfl
@[simp] theorem State.modTp_desk (s : State) (p : Nat) (f : TierPart → TierPart) : (s.modTp p f).desk = s.desk := rfl
@[simp] theorem State.modTp_deskP (s : State) (p : Nat) (f : TierPart → TierPart) : (s.modTp p f).deskP = s.deskP := rfl
@[simp] theorem State.modTp_merges (s : State) (p : Nat) (f : TierPart → TierPart) : (s.modTp p f).merges = s.merges := rfl
@[simp] theorem State.modTp_parts (s : State) (p : Nat) (f : TierPart → TierPart) : (s.modTp p f).parts = s.parts := rfl
@[simp] theorem State.modTp_mem (s : State) (p : Nat) (f : TierPart → TierPart) : (s.modTp p f).mem = s.mem := rfl
@[simp] theorem State.modTp_memBad (s : State) (p : Nat) (f : TierPart → TierPart) : (s.modTp p f).memBad = s.memBad := rfl
@[simp] theorem State.modTp_zeroing (s : State) (p : Nat) (f : TierPart → TierPart) : (s.modTp p f).zeroing = s.zeroing := rfl
@[simp] theorem State.modTp_tierP (s : State) (p : Nat) (f : TierPart → TierPart) : (s.modTp p f).tierP = Tab.set (fun _ => {}) s.tierP p (f (s.tp p)) := rfl
@[simp] theorem State.modTp_exps (s : State) (p : Nat) (f : TierPart → TierPart) : (s.modTp p f).exps = s.exps := rfl
@[simp] theorem State.modTp_mloads (s : State) (p : Nat) (f : TierPart → TierPart) : (s.modTp p f).mloads = s.mloads := rfl
@[simp] theorem State.modTp_carrel (s : State) (p : Nat) (f : TierPart → TierPart) : (s.modTp p f).carrel = s.carrel := rfl
@[simp] theorem State.modTp_gus (s : State) (p : Nat) (f : TierPart → TierPart) : (s.modTp p f).gus = s.gus := rfl
@[simp] theorem State.modTp_gather (s : State) (p : Nat) (f : TierPart → TierPart) : (s.modTp p f).gather = s.gather := rfl
@[simp] theorem State.modTp_arc (s : State) (p : Nat) (f : TierPart → TierPart) : (s.modTp p f).arc = s.arc := rfl
@[simp] theorem State.modTp_ports (s : State) (p : Nat) (f : TierPart → TierPart) : (s.modTp p f).ports = s.ports := rfl
@[simp] theorem State.modTp_linkP (s : State) (p : Nat) (f : TierPart → TierPart) : (s.modTp p f).linkP = s.linkP := rfl
@[simp] theorem State.modTp_rc (s : State) (p : Nat) (f : TierPart → TierPart) : (s.modTp p f).rc = s.rc := rfl
@[simp] theorem State.modTp_hosts (s : State) (p : Nat) (f : TierPart → TierPart) : (s.modTp p f).hosts = s.hosts := rfl
@[simp] theorem State.modTp_pwr (s : State) (p : Nat) (f : TierPart → TierPart) : (s.modTp p f).pwr = s.pwr := rfl
@[simp] theorem State.modTp_colo (s : State) (p : Nat) (f : TierPart → TierPart) : (s.modTp p f).colo = s.colo := rfl
@[simp] theorem State.modTp_meter (s : State) (p : Nat) (f : TierPart → TierPart) : (s.modTp p f).meter = s.meter := rfl
@[simp] theorem State.modTp_log (s : State) (p : Nat) (f : TierPart → TierPart) : (s.modTp p f).log = s.log := rfl

/-! ### State.modNs -/

@[simp] theorem State.modNs_pending (s : State) (p : Nat) (f : Ns → Ns) : (s.modNs p f).pending = s.pending := rfl
@[simp] theorem State.modNs_free (s : State) (p : Nat) (f : Ns → Ns) : (s.modNs p f).free = s.free := rfl
@[simp] theorem State.modNs_resp (s : State) (p : Nat) (f : Ns → Ns) : (s.modNs p f).resp = s.resp := rfl
@[simp] theorem State.modNs_msix (s : State) (p : Nat) (f : Ns → Ns) : (s.modNs p f).msix = s.msix := rfl
@[simp] theorem State.modNs_clk (s : State) (p : Nat) (f : Ns → Ns) : (s.modNs p f).clk = s.clk := rfl
@[simp] theorem State.modNs_nextId (s : State) (p : Nat) (f : Ns → Ns) : (s.modNs p f).nextId = s.nextId := rfl
@[simp] theorem State.modNs_irqSent (s : State) (p : Nat) (f : Ns → Ns) : (s.modNs p f).irqSent = s.irqSent := rfl
@[simp] theorem State.modNs_badBlks (s : State) (p : Nat) (f : Ns → Ns) : (s.modNs p f).badBlks = s.badBlks := rfl
@[simp] theorem State.modNs_regs (s : State) (p : Nat) (f : Ns → Ns) : (s.modNs p f).regs = s.regs := rfl
@[simp] theorem State.modNs_force (s : State) (p : Nat) (f : Ns → Ns) : (s.modNs p f).force = s.force := rfl
@[simp] theorem State.modNs_latch (s : State) (p : Nat) (f : Ns → Ns) : (s.modNs p f).latch = s.latch := rfl
@[simp] theorem State.modNs_cores (s : State) (p : Nat) (f : Ns → Ns) : (s.modNs p f).cores = s.cores := rfl
@[simp] theorem State.modNs_reqs (s : State) (p : Nat) (f : Ns → Ns) : (s.modNs p f).reqs = s.reqs := rfl
@[simp] theorem State.modNs_desk (s : State) (p : Nat) (f : Ns → Ns) : (s.modNs p f).desk = s.desk := rfl
@[simp] theorem State.modNs_deskP (s : State) (p : Nat) (f : Ns → Ns) : (s.modNs p f).deskP = s.deskP := rfl
@[simp] theorem State.modNs_merges (s : State) (p : Nat) (f : Ns → Ns) : (s.modNs p f).merges = s.merges := rfl
@[simp] theorem State.modNs_parts (s : State) (p : Nat) (f : Ns → Ns) : (s.modNs p f).parts = s.parts := rfl
@[simp] theorem State.modNs_mem (s : State) (p : Nat) (f : Ns → Ns) : (s.modNs p f).mem = s.mem := rfl
@[simp] theorem State.modNs_memBad (s : State) (p : Nat) (f : Ns → Ns) : (s.modNs p f).memBad = s.memBad := rfl
@[simp] theorem State.modNs_zeroing (s : State) (p : Nat) (f : Ns → Ns) : (s.modNs p f).zeroing = s.zeroing := rfl
@[simp] theorem State.modNs_tierP (s : State) (p : Nat) (f : Ns → Ns) : (s.modNs p f).tierP = s.tierP := rfl
@[simp] theorem State.modNs_exps (s : State) (p : Nat) (f : Ns → Ns) : (s.modNs p f).exps = s.exps := rfl
@[simp] theorem State.modNs_mloads (s : State) (p : Nat) (f : Ns → Ns) : (s.modNs p f).mloads = s.mloads := rfl
@[simp] theorem State.modNs_carrel (s : State) (p : Nat) (f : Ns → Ns) : (s.modNs p f).carrel = s.carrel := rfl
@[simp] theorem State.modNs_gus (s : State) (p : Nat) (f : Ns → Ns) : (s.modNs p f).gus = s.gus := rfl
@[simp] theorem State.modNs_gather (s : State) (p : Nat) (f : Ns → Ns) : (s.modNs p f).gather = s.gather := rfl
@[simp] theorem State.modNs_arc (s : State) (p : Nat) (f : Ns → Ns) : (s.modNs p f).arc = Tab.set (fun _ => {}) s.arc p ((f (s.ns p)).timed (s.ns p) s.clk) := rfl
@[simp] theorem State.modNs_ports (s : State) (p : Nat) (f : Ns → Ns) : (s.modNs p f).ports = s.ports := rfl
@[simp] theorem State.modNs_linkP (s : State) (p : Nat) (f : Ns → Ns) : (s.modNs p f).linkP = s.linkP := rfl
@[simp] theorem State.modNs_rc (s : State) (p : Nat) (f : Ns → Ns) : (s.modNs p f).rc = s.rc := rfl
@[simp] theorem State.modNs_hosts (s : State) (p : Nat) (f : Ns → Ns) : (s.modNs p f).hosts = s.hosts := rfl
@[simp] theorem State.modNs_pwr (s : State) (p : Nat) (f : Ns → Ns) : (s.modNs p f).pwr = s.pwr := rfl
@[simp] theorem State.modNs_colo (s : State) (p : Nat) (f : Ns → Ns) : (s.modNs p f).colo = s.colo := rfl
@[simp] theorem State.modNs_meter (s : State) (p : Nat) (f : Ns → Ns) : (s.modNs p f).meter = s.meter := rfl
@[simp] theorem State.modNs_log (s : State) (p : Nat) (f : Ns → Ns) : (s.modNs p f).log = s.log := rfl

/-! ### State.modExp -/

@[simp] theorem State.modExp_pending (s : State) (x : Nat) (f : Expander → Expander) : (s.modExp x f).pending = s.pending := rfl
@[simp] theorem State.modExp_free (s : State) (x : Nat) (f : Expander → Expander) : (s.modExp x f).free = s.free := rfl
@[simp] theorem State.modExp_resp (s : State) (x : Nat) (f : Expander → Expander) : (s.modExp x f).resp = s.resp := rfl
@[simp] theorem State.modExp_msix (s : State) (x : Nat) (f : Expander → Expander) : (s.modExp x f).msix = s.msix := rfl
@[simp] theorem State.modExp_clk (s : State) (x : Nat) (f : Expander → Expander) : (s.modExp x f).clk = s.clk := rfl
@[simp] theorem State.modExp_nextId (s : State) (x : Nat) (f : Expander → Expander) : (s.modExp x f).nextId = s.nextId := rfl
@[simp] theorem State.modExp_irqSent (s : State) (x : Nat) (f : Expander → Expander) : (s.modExp x f).irqSent = s.irqSent := rfl
@[simp] theorem State.modExp_badBlks (s : State) (x : Nat) (f : Expander → Expander) : (s.modExp x f).badBlks = s.badBlks := rfl
@[simp] theorem State.modExp_regs (s : State) (x : Nat) (f : Expander → Expander) : (s.modExp x f).regs = s.regs := rfl
@[simp] theorem State.modExp_force (s : State) (x : Nat) (f : Expander → Expander) : (s.modExp x f).force = s.force := rfl
@[simp] theorem State.modExp_latch (s : State) (x : Nat) (f : Expander → Expander) : (s.modExp x f).latch = s.latch := rfl
@[simp] theorem State.modExp_cores (s : State) (x : Nat) (f : Expander → Expander) : (s.modExp x f).cores = s.cores := rfl
@[simp] theorem State.modExp_reqs (s : State) (x : Nat) (f : Expander → Expander) : (s.modExp x f).reqs = s.reqs := rfl
@[simp] theorem State.modExp_desk (s : State) (x : Nat) (f : Expander → Expander) : (s.modExp x f).desk = s.desk := rfl
@[simp] theorem State.modExp_deskP (s : State) (x : Nat) (f : Expander → Expander) : (s.modExp x f).deskP = s.deskP := rfl
@[simp] theorem State.modExp_merges (s : State) (x : Nat) (f : Expander → Expander) : (s.modExp x f).merges = s.merges := rfl
@[simp] theorem State.modExp_parts (s : State) (x : Nat) (f : Expander → Expander) : (s.modExp x f).parts = s.parts := rfl
@[simp] theorem State.modExp_mem (s : State) (x : Nat) (f : Expander → Expander) : (s.modExp x f).mem = s.mem := rfl
@[simp] theorem State.modExp_memBad (s : State) (x : Nat) (f : Expander → Expander) : (s.modExp x f).memBad = s.memBad := rfl
@[simp] theorem State.modExp_zeroing (s : State) (x : Nat) (f : Expander → Expander) : (s.modExp x f).zeroing = s.zeroing := rfl
@[simp] theorem State.modExp_tierP (s : State) (x : Nat) (f : Expander → Expander) : (s.modExp x f).tierP = s.tierP := rfl
@[simp] theorem State.modExp_exps (s : State) (x : Nat) (f : Expander → Expander) : (s.modExp x f).exps = Tab.set (fun _ => {}) s.exps x (f (s.expander x)) := rfl
@[simp] theorem State.modExp_mloads (s : State) (x : Nat) (f : Expander → Expander) : (s.modExp x f).mloads = s.mloads := rfl
@[simp] theorem State.modExp_carrel (s : State) (x : Nat) (f : Expander → Expander) : (s.modExp x f).carrel = s.carrel := rfl
@[simp] theorem State.modExp_gus (s : State) (x : Nat) (f : Expander → Expander) : (s.modExp x f).gus = s.gus := rfl
@[simp] theorem State.modExp_gather (s : State) (x : Nat) (f : Expander → Expander) : (s.modExp x f).gather = s.gather := rfl
@[simp] theorem State.modExp_arc (s : State) (x : Nat) (f : Expander → Expander) : (s.modExp x f).arc = s.arc := rfl
@[simp] theorem State.modExp_ports (s : State) (x : Nat) (f : Expander → Expander) : (s.modExp x f).ports = s.ports := rfl
@[simp] theorem State.modExp_linkP (s : State) (x : Nat) (f : Expander → Expander) : (s.modExp x f).linkP = s.linkP := rfl
@[simp] theorem State.modExp_rc (s : State) (x : Nat) (f : Expander → Expander) : (s.modExp x f).rc = s.rc := rfl
@[simp] theorem State.modExp_hosts (s : State) (x : Nat) (f : Expander → Expander) : (s.modExp x f).hosts = s.hosts := rfl
@[simp] theorem State.modExp_pwr (s : State) (x : Nat) (f : Expander → Expander) : (s.modExp x f).pwr = s.pwr := rfl
@[simp] theorem State.modExp_colo (s : State) (x : Nat) (f : Expander → Expander) : (s.modExp x f).colo = s.colo := rfl
@[simp] theorem State.modExp_meter (s : State) (x : Nat) (f : Expander → Expander) : (s.modExp x f).meter = s.meter := rfl
@[simp] theorem State.modExp_log (s : State) (x : Nat) (f : Expander → Expander) : (s.modExp x f).log = s.log := rfl

/-! ### State.modCar -/

@[simp] theorem State.modCar_pending (s : State) (m : Nat) (f : Carrel → Carrel) : (s.modCar m f).pending = s.pending := rfl
@[simp] theorem State.modCar_free (s : State) (m : Nat) (f : Carrel → Carrel) : (s.modCar m f).free = s.free := rfl
@[simp] theorem State.modCar_resp (s : State) (m : Nat) (f : Carrel → Carrel) : (s.modCar m f).resp = s.resp := rfl
@[simp] theorem State.modCar_msix (s : State) (m : Nat) (f : Carrel → Carrel) : (s.modCar m f).msix = s.msix := rfl
@[simp] theorem State.modCar_clk (s : State) (m : Nat) (f : Carrel → Carrel) : (s.modCar m f).clk = s.clk := rfl
@[simp] theorem State.modCar_nextId (s : State) (m : Nat) (f : Carrel → Carrel) : (s.modCar m f).nextId = s.nextId := rfl
@[simp] theorem State.modCar_irqSent (s : State) (m : Nat) (f : Carrel → Carrel) : (s.modCar m f).irqSent = s.irqSent := rfl
@[simp] theorem State.modCar_badBlks (s : State) (m : Nat) (f : Carrel → Carrel) : (s.modCar m f).badBlks = s.badBlks := rfl
@[simp] theorem State.modCar_regs (s : State) (m : Nat) (f : Carrel → Carrel) : (s.modCar m f).regs = s.regs := rfl
@[simp] theorem State.modCar_force (s : State) (m : Nat) (f : Carrel → Carrel) : (s.modCar m f).force = s.force := rfl
@[simp] theorem State.modCar_latch (s : State) (m : Nat) (f : Carrel → Carrel) : (s.modCar m f).latch = s.latch := rfl
@[simp] theorem State.modCar_cores (s : State) (m : Nat) (f : Carrel → Carrel) : (s.modCar m f).cores = s.cores := rfl
@[simp] theorem State.modCar_reqs (s : State) (m : Nat) (f : Carrel → Carrel) : (s.modCar m f).reqs = s.reqs := rfl
@[simp] theorem State.modCar_desk (s : State) (m : Nat) (f : Carrel → Carrel) : (s.modCar m f).desk = s.desk := rfl
@[simp] theorem State.modCar_deskP (s : State) (m : Nat) (f : Carrel → Carrel) : (s.modCar m f).deskP = s.deskP := rfl
@[simp] theorem State.modCar_merges (s : State) (m : Nat) (f : Carrel → Carrel) : (s.modCar m f).merges = s.merges := rfl
@[simp] theorem State.modCar_parts (s : State) (m : Nat) (f : Carrel → Carrel) : (s.modCar m f).parts = s.parts := rfl
@[simp] theorem State.modCar_mem (s : State) (m : Nat) (f : Carrel → Carrel) : (s.modCar m f).mem = s.mem := rfl
@[simp] theorem State.modCar_memBad (s : State) (m : Nat) (f : Carrel → Carrel) : (s.modCar m f).memBad = s.memBad := rfl
@[simp] theorem State.modCar_zeroing (s : State) (m : Nat) (f : Carrel → Carrel) : (s.modCar m f).zeroing = s.zeroing := rfl
@[simp] theorem State.modCar_tierP (s : State) (m : Nat) (f : Carrel → Carrel) : (s.modCar m f).tierP = s.tierP := rfl
@[simp] theorem State.modCar_exps (s : State) (m : Nat) (f : Carrel → Carrel) : (s.modCar m f).exps = s.exps := rfl
@[simp] theorem State.modCar_mloads (s : State) (m : Nat) (f : Carrel → Carrel) : (s.modCar m f).mloads = s.mloads := rfl
@[simp] theorem State.modCar_carrel (s : State) (m : Nat) (f : Carrel → Carrel) : (s.modCar m f).carrel = Tab.set (fun _ => {}) s.carrel m (f (s.car m)) := rfl
@[simp] theorem State.modCar_gus (s : State) (m : Nat) (f : Carrel → Carrel) : (s.modCar m f).gus = s.gus := rfl
@[simp] theorem State.modCar_gather (s : State) (m : Nat) (f : Carrel → Carrel) : (s.modCar m f).gather = s.gather := rfl
@[simp] theorem State.modCar_arc (s : State) (m : Nat) (f : Carrel → Carrel) : (s.modCar m f).arc = s.arc := rfl
@[simp] theorem State.modCar_ports (s : State) (m : Nat) (f : Carrel → Carrel) : (s.modCar m f).ports = s.ports := rfl
@[simp] theorem State.modCar_linkP (s : State) (m : Nat) (f : Carrel → Carrel) : (s.modCar m f).linkP = s.linkP := rfl
@[simp] theorem State.modCar_rc (s : State) (m : Nat) (f : Carrel → Carrel) : (s.modCar m f).rc = s.rc := rfl
@[simp] theorem State.modCar_hosts (s : State) (m : Nat) (f : Carrel → Carrel) : (s.modCar m f).hosts = s.hosts := rfl
@[simp] theorem State.modCar_pwr (s : State) (m : Nat) (f : Carrel → Carrel) : (s.modCar m f).pwr = s.pwr := rfl
@[simp] theorem State.modCar_colo (s : State) (m : Nat) (f : Carrel → Carrel) : (s.modCar m f).colo = s.colo := rfl
@[simp] theorem State.modCar_meter (s : State) (m : Nat) (f : Carrel → Carrel) : (s.modCar m f).meter = s.meter := rfl
@[simp] theorem State.modCar_log (s : State) (m : Nat) (f : Carrel → Carrel) : (s.modCar m f).log = s.log := rfl

/-! ### State.modGu -/

@[simp] theorem State.modGu_pending (s : State) (p : Nat) (f : GuPart → GuPart) : (s.modGu p f).pending = s.pending := rfl
@[simp] theorem State.modGu_free (s : State) (p : Nat) (f : GuPart → GuPart) : (s.modGu p f).free = s.free := rfl
@[simp] theorem State.modGu_resp (s : State) (p : Nat) (f : GuPart → GuPart) : (s.modGu p f).resp = s.resp := rfl
@[simp] theorem State.modGu_msix (s : State) (p : Nat) (f : GuPart → GuPart) : (s.modGu p f).msix = s.msix := rfl
@[simp] theorem State.modGu_clk (s : State) (p : Nat) (f : GuPart → GuPart) : (s.modGu p f).clk = s.clk := rfl
@[simp] theorem State.modGu_nextId (s : State) (p : Nat) (f : GuPart → GuPart) : (s.modGu p f).nextId = s.nextId := rfl
@[simp] theorem State.modGu_irqSent (s : State) (p : Nat) (f : GuPart → GuPart) : (s.modGu p f).irqSent = s.irqSent := rfl
@[simp] theorem State.modGu_badBlks (s : State) (p : Nat) (f : GuPart → GuPart) : (s.modGu p f).badBlks = s.badBlks := rfl
@[simp] theorem State.modGu_regs (s : State) (p : Nat) (f : GuPart → GuPart) : (s.modGu p f).regs = s.regs := rfl
@[simp] theorem State.modGu_force (s : State) (p : Nat) (f : GuPart → GuPart) : (s.modGu p f).force = s.force := rfl
@[simp] theorem State.modGu_latch (s : State) (p : Nat) (f : GuPart → GuPart) : (s.modGu p f).latch = s.latch := rfl
@[simp] theorem State.modGu_cores (s : State) (p : Nat) (f : GuPart → GuPart) : (s.modGu p f).cores = s.cores := rfl
@[simp] theorem State.modGu_reqs (s : State) (p : Nat) (f : GuPart → GuPart) : (s.modGu p f).reqs = s.reqs := rfl
@[simp] theorem State.modGu_desk (s : State) (p : Nat) (f : GuPart → GuPart) : (s.modGu p f).desk = s.desk := rfl
@[simp] theorem State.modGu_deskP (s : State) (p : Nat) (f : GuPart → GuPart) : (s.modGu p f).deskP = s.deskP := rfl
@[simp] theorem State.modGu_merges (s : State) (p : Nat) (f : GuPart → GuPart) : (s.modGu p f).merges = s.merges := rfl
@[simp] theorem State.modGu_parts (s : State) (p : Nat) (f : GuPart → GuPart) : (s.modGu p f).parts = s.parts := rfl
@[simp] theorem State.modGu_mem (s : State) (p : Nat) (f : GuPart → GuPart) : (s.modGu p f).mem = s.mem := rfl
@[simp] theorem State.modGu_memBad (s : State) (p : Nat) (f : GuPart → GuPart) : (s.modGu p f).memBad = s.memBad := rfl
@[simp] theorem State.modGu_zeroing (s : State) (p : Nat) (f : GuPart → GuPart) : (s.modGu p f).zeroing = s.zeroing := rfl
@[simp] theorem State.modGu_tierP (s : State) (p : Nat) (f : GuPart → GuPart) : (s.modGu p f).tierP = s.tierP := rfl
@[simp] theorem State.modGu_exps (s : State) (p : Nat) (f : GuPart → GuPart) : (s.modGu p f).exps = s.exps := rfl
@[simp] theorem State.modGu_mloads (s : State) (p : Nat) (f : GuPart → GuPart) : (s.modGu p f).mloads = s.mloads := rfl
@[simp] theorem State.modGu_carrel (s : State) (p : Nat) (f : GuPart → GuPart) : (s.modGu p f).carrel = s.carrel := rfl
@[simp] theorem State.modGu_gus (s : State) (p : Nat) (f : GuPart → GuPart) : (s.modGu p f).gus = Tab.set (fun _ => {}) s.gus p (f (s.gu p)) := rfl
@[simp] theorem State.modGu_gather (s : State) (p : Nat) (f : GuPart → GuPart) : (s.modGu p f).gather = s.gather := rfl
@[simp] theorem State.modGu_arc (s : State) (p : Nat) (f : GuPart → GuPart) : (s.modGu p f).arc = s.arc := rfl
@[simp] theorem State.modGu_ports (s : State) (p : Nat) (f : GuPart → GuPart) : (s.modGu p f).ports = s.ports := rfl
@[simp] theorem State.modGu_linkP (s : State) (p : Nat) (f : GuPart → GuPart) : (s.modGu p f).linkP = s.linkP := rfl
@[simp] theorem State.modGu_rc (s : State) (p : Nat) (f : GuPart → GuPart) : (s.modGu p f).rc = s.rc := rfl
@[simp] theorem State.modGu_hosts (s : State) (p : Nat) (f : GuPart → GuPart) : (s.modGu p f).hosts = s.hosts := rfl
@[simp] theorem State.modGu_pwr (s : State) (p : Nat) (f : GuPart → GuPart) : (s.modGu p f).pwr = s.pwr := rfl
@[simp] theorem State.modGu_colo (s : State) (p : Nat) (f : GuPart → GuPart) : (s.modGu p f).colo = s.colo := rfl
@[simp] theorem State.modGu_meter (s : State) (p : Nat) (f : GuPart → GuPart) : (s.modGu p f).meter = s.meter := rfl
@[simp] theorem State.modGu_log (s : State) (p : Nat) (f : GuPart → GuPart) : (s.modGu p f).log = s.log := rfl

/-! ### State.modPort -/

@[simp] theorem State.modPort_pending (s : State) (q : Nat) (f : LinkPort → LinkPort) : (s.modPort q f).pending = s.pending := rfl
@[simp] theorem State.modPort_free (s : State) (q : Nat) (f : LinkPort → LinkPort) : (s.modPort q f).free = s.free := rfl
@[simp] theorem State.modPort_resp (s : State) (q : Nat) (f : LinkPort → LinkPort) : (s.modPort q f).resp = s.resp := rfl
@[simp] theorem State.modPort_msix (s : State) (q : Nat) (f : LinkPort → LinkPort) : (s.modPort q f).msix = s.msix := rfl
@[simp] theorem State.modPort_clk (s : State) (q : Nat) (f : LinkPort → LinkPort) : (s.modPort q f).clk = s.clk := rfl
@[simp] theorem State.modPort_nextId (s : State) (q : Nat) (f : LinkPort → LinkPort) : (s.modPort q f).nextId = s.nextId := rfl
@[simp] theorem State.modPort_irqSent (s : State) (q : Nat) (f : LinkPort → LinkPort) : (s.modPort q f).irqSent = s.irqSent := rfl
@[simp] theorem State.modPort_badBlks (s : State) (q : Nat) (f : LinkPort → LinkPort) : (s.modPort q f).badBlks = s.badBlks := rfl
@[simp] theorem State.modPort_regs (s : State) (q : Nat) (f : LinkPort → LinkPort) : (s.modPort q f).regs = s.regs := rfl
@[simp] theorem State.modPort_force (s : State) (q : Nat) (f : LinkPort → LinkPort) : (s.modPort q f).force = s.force := rfl
@[simp] theorem State.modPort_latch (s : State) (q : Nat) (f : LinkPort → LinkPort) : (s.modPort q f).latch = s.latch := rfl
@[simp] theorem State.modPort_cores (s : State) (q : Nat) (f : LinkPort → LinkPort) : (s.modPort q f).cores = s.cores := rfl
@[simp] theorem State.modPort_reqs (s : State) (q : Nat) (f : LinkPort → LinkPort) : (s.modPort q f).reqs = s.reqs := rfl
@[simp] theorem State.modPort_desk (s : State) (q : Nat) (f : LinkPort → LinkPort) : (s.modPort q f).desk = s.desk := rfl
@[simp] theorem State.modPort_deskP (s : State) (q : Nat) (f : LinkPort → LinkPort) : (s.modPort q f).deskP = s.deskP := rfl
@[simp] theorem State.modPort_merges (s : State) (q : Nat) (f : LinkPort → LinkPort) : (s.modPort q f).merges = s.merges := rfl
@[simp] theorem State.modPort_parts (s : State) (q : Nat) (f : LinkPort → LinkPort) : (s.modPort q f).parts = s.parts := rfl
@[simp] theorem State.modPort_mem (s : State) (q : Nat) (f : LinkPort → LinkPort) : (s.modPort q f).mem = s.mem := rfl
@[simp] theorem State.modPort_memBad (s : State) (q : Nat) (f : LinkPort → LinkPort) : (s.modPort q f).memBad = s.memBad := rfl
@[simp] theorem State.modPort_zeroing (s : State) (q : Nat) (f : LinkPort → LinkPort) : (s.modPort q f).zeroing = s.zeroing := rfl
@[simp] theorem State.modPort_tierP (s : State) (q : Nat) (f : LinkPort → LinkPort) : (s.modPort q f).tierP = s.tierP := rfl
@[simp] theorem State.modPort_exps (s : State) (q : Nat) (f : LinkPort → LinkPort) : (s.modPort q f).exps = s.exps := rfl
@[simp] theorem State.modPort_mloads (s : State) (q : Nat) (f : LinkPort → LinkPort) : (s.modPort q f).mloads = s.mloads := rfl
@[simp] theorem State.modPort_carrel (s : State) (q : Nat) (f : LinkPort → LinkPort) : (s.modPort q f).carrel = s.carrel := rfl
@[simp] theorem State.modPort_gus (s : State) (q : Nat) (f : LinkPort → LinkPort) : (s.modPort q f).gus = s.gus := rfl
@[simp] theorem State.modPort_gather (s : State) (q : Nat) (f : LinkPort → LinkPort) : (s.modPort q f).gather = s.gather := rfl
@[simp] theorem State.modPort_arc (s : State) (q : Nat) (f : LinkPort → LinkPort) : (s.modPort q f).arc = s.arc := rfl
@[simp] theorem State.modPort_ports (s : State) (q : Nat) (f : LinkPort → LinkPort) : (s.modPort q f).ports = Tab.set (fun _ => {}) s.ports q (f (s.port q)) := rfl
@[simp] theorem State.modPort_linkP (s : State) (q : Nat) (f : LinkPort → LinkPort) : (s.modPort q f).linkP = s.linkP := rfl
@[simp] theorem State.modPort_rc (s : State) (q : Nat) (f : LinkPort → LinkPort) : (s.modPort q f).rc = s.rc := rfl
@[simp] theorem State.modPort_hosts (s : State) (q : Nat) (f : LinkPort → LinkPort) : (s.modPort q f).hosts = s.hosts := rfl
@[simp] theorem State.modPort_pwr (s : State) (q : Nat) (f : LinkPort → LinkPort) : (s.modPort q f).pwr = s.pwr := rfl
@[simp] theorem State.modPort_colo (s : State) (q : Nat) (f : LinkPort → LinkPort) : (s.modPort q f).colo = s.colo := rfl
@[simp] theorem State.modPort_meter (s : State) (q : Nat) (f : LinkPort → LinkPort) : (s.modPort q f).meter = s.meter := rfl
@[simp] theorem State.modPort_log (s : State) (q : Nat) (f : LinkPort → LinkPort) : (s.modPort q f).log = s.log := rfl

/-! ### State.modLp -/

@[simp] theorem State.modLp_pending (s : State) (p : Nat) (f : LinkPart → LinkPart) : (s.modLp p f).pending = s.pending := rfl
@[simp] theorem State.modLp_free (s : State) (p : Nat) (f : LinkPart → LinkPart) : (s.modLp p f).free = s.free := rfl
@[simp] theorem State.modLp_resp (s : State) (p : Nat) (f : LinkPart → LinkPart) : (s.modLp p f).resp = s.resp := rfl
@[simp] theorem State.modLp_msix (s : State) (p : Nat) (f : LinkPart → LinkPart) : (s.modLp p f).msix = s.msix := rfl
@[simp] theorem State.modLp_clk (s : State) (p : Nat) (f : LinkPart → LinkPart) : (s.modLp p f).clk = s.clk := rfl
@[simp] theorem State.modLp_nextId (s : State) (p : Nat) (f : LinkPart → LinkPart) : (s.modLp p f).nextId = s.nextId := rfl
@[simp] theorem State.modLp_irqSent (s : State) (p : Nat) (f : LinkPart → LinkPart) : (s.modLp p f).irqSent = s.irqSent := rfl
@[simp] theorem State.modLp_badBlks (s : State) (p : Nat) (f : LinkPart → LinkPart) : (s.modLp p f).badBlks = s.badBlks := rfl
@[simp] theorem State.modLp_regs (s : State) (p : Nat) (f : LinkPart → LinkPart) : (s.modLp p f).regs = s.regs := rfl
@[simp] theorem State.modLp_force (s : State) (p : Nat) (f : LinkPart → LinkPart) : (s.modLp p f).force = s.force := rfl
@[simp] theorem State.modLp_latch (s : State) (p : Nat) (f : LinkPart → LinkPart) : (s.modLp p f).latch = s.latch := rfl
@[simp] theorem State.modLp_cores (s : State) (p : Nat) (f : LinkPart → LinkPart) : (s.modLp p f).cores = s.cores := rfl
@[simp] theorem State.modLp_reqs (s : State) (p : Nat) (f : LinkPart → LinkPart) : (s.modLp p f).reqs = s.reqs := rfl
@[simp] theorem State.modLp_desk (s : State) (p : Nat) (f : LinkPart → LinkPart) : (s.modLp p f).desk = s.desk := rfl
@[simp] theorem State.modLp_deskP (s : State) (p : Nat) (f : LinkPart → LinkPart) : (s.modLp p f).deskP = s.deskP := rfl
@[simp] theorem State.modLp_merges (s : State) (p : Nat) (f : LinkPart → LinkPart) : (s.modLp p f).merges = s.merges := rfl
@[simp] theorem State.modLp_parts (s : State) (p : Nat) (f : LinkPart → LinkPart) : (s.modLp p f).parts = s.parts := rfl
@[simp] theorem State.modLp_mem (s : State) (p : Nat) (f : LinkPart → LinkPart) : (s.modLp p f).mem = s.mem := rfl
@[simp] theorem State.modLp_memBad (s : State) (p : Nat) (f : LinkPart → LinkPart) : (s.modLp p f).memBad = s.memBad := rfl
@[simp] theorem State.modLp_zeroing (s : State) (p : Nat) (f : LinkPart → LinkPart) : (s.modLp p f).zeroing = s.zeroing := rfl
@[simp] theorem State.modLp_tierP (s : State) (p : Nat) (f : LinkPart → LinkPart) : (s.modLp p f).tierP = s.tierP := rfl
@[simp] theorem State.modLp_exps (s : State) (p : Nat) (f : LinkPart → LinkPart) : (s.modLp p f).exps = s.exps := rfl
@[simp] theorem State.modLp_mloads (s : State) (p : Nat) (f : LinkPart → LinkPart) : (s.modLp p f).mloads = s.mloads := rfl
@[simp] theorem State.modLp_carrel (s : State) (p : Nat) (f : LinkPart → LinkPart) : (s.modLp p f).carrel = s.carrel := rfl
@[simp] theorem State.modLp_gus (s : State) (p : Nat) (f : LinkPart → LinkPart) : (s.modLp p f).gus = s.gus := rfl
@[simp] theorem State.modLp_gather (s : State) (p : Nat) (f : LinkPart → LinkPart) : (s.modLp p f).gather = s.gather := rfl
@[simp] theorem State.modLp_arc (s : State) (p : Nat) (f : LinkPart → LinkPart) : (s.modLp p f).arc = s.arc := rfl
@[simp] theorem State.modLp_ports (s : State) (p : Nat) (f : LinkPart → LinkPart) : (s.modLp p f).ports = s.ports := rfl
@[simp] theorem State.modLp_linkP (s : State) (p : Nat) (f : LinkPart → LinkPart) : (s.modLp p f).linkP = Tab.set (fun _ => {}) s.linkP p (f (s.linkP' p)) := rfl
@[simp] theorem State.modLp_rc (s : State) (p : Nat) (f : LinkPart → LinkPart) : (s.modLp p f).rc = s.rc := rfl
@[simp] theorem State.modLp_hosts (s : State) (p : Nat) (f : LinkPart → LinkPart) : (s.modLp p f).hosts = s.hosts := rfl
@[simp] theorem State.modLp_pwr (s : State) (p : Nat) (f : LinkPart → LinkPart) : (s.modLp p f).pwr = s.pwr := rfl
@[simp] theorem State.modLp_colo (s : State) (p : Nat) (f : LinkPart → LinkPart) : (s.modLp p f).colo = s.colo := rfl
@[simp] theorem State.modLp_meter (s : State) (p : Nat) (f : LinkPart → LinkPart) : (s.modLp p f).meter = s.meter := rfl
@[simp] theorem State.modLp_log (s : State) (p : Nat) (f : LinkPart → LinkPart) : (s.modLp p f).log = s.log := rfl

/-! ### State.modBar -/

@[simp] theorem State.modBar_pending (s : State) (b : Nat) (f : Barrier → Barrier) : (s.modBar b f).pending = s.pending := rfl
@[simp] theorem State.modBar_free (s : State) (b : Nat) (f : Barrier → Barrier) : (s.modBar b f).free = s.free := rfl
@[simp] theorem State.modBar_resp (s : State) (b : Nat) (f : Barrier → Barrier) : (s.modBar b f).resp = s.resp := rfl
@[simp] theorem State.modBar_msix (s : State) (b : Nat) (f : Barrier → Barrier) : (s.modBar b f).msix = s.msix := rfl
@[simp] theorem State.modBar_clk (s : State) (b : Nat) (f : Barrier → Barrier) : (s.modBar b f).clk = s.clk := rfl
@[simp] theorem State.modBar_nextId (s : State) (b : Nat) (f : Barrier → Barrier) : (s.modBar b f).nextId = s.nextId := rfl
@[simp] theorem State.modBar_irqSent (s : State) (b : Nat) (f : Barrier → Barrier) : (s.modBar b f).irqSent = s.irqSent := rfl
@[simp] theorem State.modBar_badBlks (s : State) (b : Nat) (f : Barrier → Barrier) : (s.modBar b f).badBlks = s.badBlks := rfl
@[simp] theorem State.modBar_regs (s : State) (b : Nat) (f : Barrier → Barrier) : (s.modBar b f).regs = s.regs := rfl
@[simp] theorem State.modBar_force (s : State) (b : Nat) (f : Barrier → Barrier) : (s.modBar b f).force = s.force := rfl
@[simp] theorem State.modBar_latch (s : State) (b : Nat) (f : Barrier → Barrier) : (s.modBar b f).latch = s.latch := rfl
@[simp] theorem State.modBar_cores (s : State) (b : Nat) (f : Barrier → Barrier) : (s.modBar b f).cores = s.cores := rfl
@[simp] theorem State.modBar_reqs (s : State) (b : Nat) (f : Barrier → Barrier) : (s.modBar b f).reqs = s.reqs := rfl
@[simp] theorem State.modBar_desk (s : State) (b : Nat) (f : Barrier → Barrier) : (s.modBar b f).desk = s.desk := rfl
@[simp] theorem State.modBar_deskP (s : State) (b : Nat) (f : Barrier → Barrier) : (s.modBar b f).deskP = s.deskP := rfl
@[simp] theorem State.modBar_merges (s : State) (b : Nat) (f : Barrier → Barrier) : (s.modBar b f).merges = s.merges := rfl
@[simp] theorem State.modBar_parts (s : State) (b : Nat) (f : Barrier → Barrier) : (s.modBar b f).parts = s.parts := rfl
@[simp] theorem State.modBar_mem (s : State) (b : Nat) (f : Barrier → Barrier) : (s.modBar b f).mem = s.mem := rfl
@[simp] theorem State.modBar_memBad (s : State) (b : Nat) (f : Barrier → Barrier) : (s.modBar b f).memBad = s.memBad := rfl
@[simp] theorem State.modBar_zeroing (s : State) (b : Nat) (f : Barrier → Barrier) : (s.modBar b f).zeroing = s.zeroing := rfl
@[simp] theorem State.modBar_tierP (s : State) (b : Nat) (f : Barrier → Barrier) : (s.modBar b f).tierP = s.tierP := rfl
@[simp] theorem State.modBar_exps (s : State) (b : Nat) (f : Barrier → Barrier) : (s.modBar b f).exps = s.exps := rfl
@[simp] theorem State.modBar_mloads (s : State) (b : Nat) (f : Barrier → Barrier) : (s.modBar b f).mloads = s.mloads := rfl
@[simp] theorem State.modBar_carrel (s : State) (b : Nat) (f : Barrier → Barrier) : (s.modBar b f).carrel = s.carrel := rfl
@[simp] theorem State.modBar_gus (s : State) (b : Nat) (f : Barrier → Barrier) : (s.modBar b f).gus = s.gus := rfl
@[simp] theorem State.modBar_gather (s : State) (b : Nat) (f : Barrier → Barrier) : (s.modBar b f).gather = s.gather := rfl
@[simp] theorem State.modBar_arc (s : State) (b : Nat) (f : Barrier → Barrier) : (s.modBar b f).arc = s.arc := rfl
@[simp] theorem State.modBar_ports (s : State) (b : Nat) (f : Barrier → Barrier) : (s.modBar b f).ports = s.ports := rfl
@[simp] theorem State.modBar_linkP (s : State) (b : Nat) (f : Barrier → Barrier) : (s.modBar b f).linkP = s.linkP := rfl
@[simp] theorem State.modBar_rc (s : State) (b : Nat) (f : Barrier → Barrier) : (s.modBar b f).rc = { s.rc with bars := Tab.set (fun _ => {}) s.rc.bars b (f (s.bar b)) } := rfl
@[simp] theorem State.modBar_hosts (s : State) (b : Nat) (f : Barrier → Barrier) : (s.modBar b f).hosts = s.hosts := rfl
@[simp] theorem State.modBar_pwr (s : State) (b : Nat) (f : Barrier → Barrier) : (s.modBar b f).pwr = s.pwr := rfl
@[simp] theorem State.modBar_colo (s : State) (b : Nat) (f : Barrier → Barrier) : (s.modBar b f).colo = s.colo := rfl
@[simp] theorem State.modBar_meter (s : State) (b : Nat) (f : Barrier → Barrier) : (s.modBar b f).meter = s.meter := rfl
@[simp] theorem State.modBar_log (s : State) (b : Nat) (f : Barrier → Barrier) : (s.modBar b f).log = s.log := rfl

/-! ### State.modHost -/

@[simp] theorem State.modHost_pending (s : State) (k : Nat) (f : HostFn → HostFn) : (s.modHost k f).pending = s.pending := rfl
@[simp] theorem State.modHost_free (s : State) (k : Nat) (f : HostFn → HostFn) : (s.modHost k f).free = s.free := rfl
@[simp] theorem State.modHost_resp (s : State) (k : Nat) (f : HostFn → HostFn) : (s.modHost k f).resp = s.resp := rfl
@[simp] theorem State.modHost_msix (s : State) (k : Nat) (f : HostFn → HostFn) : (s.modHost k f).msix = s.msix := rfl
@[simp] theorem State.modHost_clk (s : State) (k : Nat) (f : HostFn → HostFn) : (s.modHost k f).clk = s.clk := rfl
@[simp] theorem State.modHost_nextId (s : State) (k : Nat) (f : HostFn → HostFn) : (s.modHost k f).nextId = s.nextId := rfl
@[simp] theorem State.modHost_irqSent (s : State) (k : Nat) (f : HostFn → HostFn) : (s.modHost k f).irqSent = s.irqSent := rfl
@[simp] theorem State.modHost_badBlks (s : State) (k : Nat) (f : HostFn → HostFn) : (s.modHost k f).badBlks = s.badBlks := rfl
@[simp] theorem State.modHost_regs (s : State) (k : Nat) (f : HostFn → HostFn) : (s.modHost k f).regs = s.regs := rfl
@[simp] theorem State.modHost_force (s : State) (k : Nat) (f : HostFn → HostFn) : (s.modHost k f).force = s.force := rfl
@[simp] theorem State.modHost_latch (s : State) (k : Nat) (f : HostFn → HostFn) : (s.modHost k f).latch = s.latch := rfl
@[simp] theorem State.modHost_cores (s : State) (k : Nat) (f : HostFn → HostFn) : (s.modHost k f).cores = s.cores := rfl
@[simp] theorem State.modHost_reqs (s : State) (k : Nat) (f : HostFn → HostFn) : (s.modHost k f).reqs = s.reqs := rfl
@[simp] theorem State.modHost_desk (s : State) (k : Nat) (f : HostFn → HostFn) : (s.modHost k f).desk = s.desk := rfl
@[simp] theorem State.modHost_deskP (s : State) (k : Nat) (f : HostFn → HostFn) : (s.modHost k f).deskP = s.deskP := rfl
@[simp] theorem State.modHost_merges (s : State) (k : Nat) (f : HostFn → HostFn) : (s.modHost k f).merges = s.merges := rfl
@[simp] theorem State.modHost_parts (s : State) (k : Nat) (f : HostFn → HostFn) : (s.modHost k f).parts = s.parts := rfl
@[simp] theorem State.modHost_mem (s : State) (k : Nat) (f : HostFn → HostFn) : (s.modHost k f).mem = s.mem := rfl
@[simp] theorem State.modHost_memBad (s : State) (k : Nat) (f : HostFn → HostFn) : (s.modHost k f).memBad = s.memBad := rfl
@[simp] theorem State.modHost_zeroing (s : State) (k : Nat) (f : HostFn → HostFn) : (s.modHost k f).zeroing = s.zeroing := rfl
@[simp] theorem State.modHost_tierP (s : State) (k : Nat) (f : HostFn → HostFn) : (s.modHost k f).tierP = s.tierP := rfl
@[simp] theorem State.modHost_exps (s : State) (k : Nat) (f : HostFn → HostFn) : (s.modHost k f).exps = s.exps := rfl
@[simp] theorem State.modHost_mloads (s : State) (k : Nat) (f : HostFn → HostFn) : (s.modHost k f).mloads = s.mloads := rfl
@[simp] theorem State.modHost_carrel (s : State) (k : Nat) (f : HostFn → HostFn) : (s.modHost k f).carrel = s.carrel := rfl
@[simp] theorem State.modHost_gus (s : State) (k : Nat) (f : HostFn → HostFn) : (s.modHost k f).gus = s.gus := rfl
@[simp] theorem State.modHost_gather (s : State) (k : Nat) (f : HostFn → HostFn) : (s.modHost k f).gather = s.gather := rfl
@[simp] theorem State.modHost_arc (s : State) (k : Nat) (f : HostFn → HostFn) : (s.modHost k f).arc = s.arc := rfl
@[simp] theorem State.modHost_ports (s : State) (k : Nat) (f : HostFn → HostFn) : (s.modHost k f).ports = s.ports := rfl
@[simp] theorem State.modHost_linkP (s : State) (k : Nat) (f : HostFn → HostFn) : (s.modHost k f).linkP = s.linkP := rfl
@[simp] theorem State.modHost_rc (s : State) (k : Nat) (f : HostFn → HostFn) : (s.modHost k f).rc = s.rc := rfl
@[simp] theorem State.modHost_hosts (s : State) (k : Nat) (f : HostFn → HostFn) : (s.modHost k f).hosts = Tab.set (fun _ => {}) s.hosts k (f (s.host k)) := rfl
@[simp] theorem State.modHost_pwr (s : State) (k : Nat) (f : HostFn → HostFn) : (s.modHost k f).pwr = s.pwr := rfl
@[simp] theorem State.modHost_colo (s : State) (k : Nat) (f : HostFn → HostFn) : (s.modHost k f).colo = s.colo := rfl
@[simp] theorem State.modHost_meter (s : State) (k : Nat) (f : HostFn → HostFn) : (s.modHost k f).meter = s.meter := rfl
@[simp] theorem State.modHost_log (s : State) (k : Nat) (f : HostFn → HostFn) : (s.modHost k f).log = s.log := rfl

/-! ### State.modLog -/

@[simp] theorem State.modLog_pending (s : State) (f : Log → Log) : (s.modLog f).pending = s.pending := rfl
@[simp] theorem State.modLog_free (s : State) (f : Log → Log) : (s.modLog f).free = s.free := rfl
@[simp] theorem State.modLog_resp (s : State) (f : Log → Log) : (s.modLog f).resp = s.resp := rfl
@[simp] theorem State.modLog_msix (s : State) (f : Log → Log) : (s.modLog f).msix = s.msix := rfl
@[simp] theorem State.modLog_clk (s : State) (f : Log → Log) : (s.modLog f).clk = s.clk := rfl
@[simp] theorem State.modLog_nextId (s : State) (f : Log → Log) : (s.modLog f).nextId = s.nextId := rfl
@[simp] theorem State.modLog_irqSent (s : State) (f : Log → Log) : (s.modLog f).irqSent = s.irqSent := rfl
@[simp] theorem State.modLog_badBlks (s : State) (f : Log → Log) : (s.modLog f).badBlks = s.badBlks := rfl
@[simp] theorem State.modLog_regs (s : State) (f : Log → Log) : (s.modLog f).regs = s.regs := rfl
@[simp] theorem State.modLog_force (s : State) (f : Log → Log) : (s.modLog f).force = s.force := rfl
@[simp] theorem State.modLog_latch (s : State) (f : Log → Log) : (s.modLog f).latch = s.latch := rfl
@[simp] theorem State.modLog_cores (s : State) (f : Log → Log) : (s.modLog f).cores = s.cores := rfl
@[simp] theorem State.modLog_reqs (s : State) (f : Log → Log) : (s.modLog f).reqs = s.reqs := rfl
@[simp] theorem State.modLog_desk (s : State) (f : Log → Log) : (s.modLog f).desk = s.desk := rfl
@[simp] theorem State.modLog_deskP (s : State) (f : Log → Log) : (s.modLog f).deskP = s.deskP := rfl
@[simp] theorem State.modLog_merges (s : State) (f : Log → Log) : (s.modLog f).merges = s.merges := rfl
@[simp] theorem State.modLog_parts (s : State) (f : Log → Log) : (s.modLog f).parts = s.parts := rfl
@[simp] theorem State.modLog_mem (s : State) (f : Log → Log) : (s.modLog f).mem = s.mem := rfl
@[simp] theorem State.modLog_memBad (s : State) (f : Log → Log) : (s.modLog f).memBad = s.memBad := rfl
@[simp] theorem State.modLog_zeroing (s : State) (f : Log → Log) : (s.modLog f).zeroing = s.zeroing := rfl
@[simp] theorem State.modLog_tierP (s : State) (f : Log → Log) : (s.modLog f).tierP = s.tierP := rfl
@[simp] theorem State.modLog_exps (s : State) (f : Log → Log) : (s.modLog f).exps = s.exps := rfl
@[simp] theorem State.modLog_mloads (s : State) (f : Log → Log) : (s.modLog f).mloads = s.mloads := rfl
@[simp] theorem State.modLog_carrel (s : State) (f : Log → Log) : (s.modLog f).carrel = s.carrel := rfl
@[simp] theorem State.modLog_gus (s : State) (f : Log → Log) : (s.modLog f).gus = s.gus := rfl
@[simp] theorem State.modLog_gather (s : State) (f : Log → Log) : (s.modLog f).gather = s.gather := rfl
@[simp] theorem State.modLog_arc (s : State) (f : Log → Log) : (s.modLog f).arc = s.arc := rfl
@[simp] theorem State.modLog_ports (s : State) (f : Log → Log) : (s.modLog f).ports = s.ports := rfl
@[simp] theorem State.modLog_linkP (s : State) (f : Log → Log) : (s.modLog f).linkP = s.linkP := rfl
@[simp] theorem State.modLog_rc (s : State) (f : Log → Log) : (s.modLog f).rc = s.rc := rfl
@[simp] theorem State.modLog_hosts (s : State) (f : Log → Log) : (s.modLog f).hosts = s.hosts := rfl
@[simp] theorem State.modLog_pwr (s : State) (f : Log → Log) : (s.modLog f).pwr = s.pwr := rfl
@[simp] theorem State.modLog_colo (s : State) (f : Log → Log) : (s.modLog f).colo = s.colo := rfl
@[simp] theorem State.modLog_meter (s : State) (f : Log → Log) : (s.modLog f).meter = s.meter := rfl
@[simp] theorem State.modLog_log (s : State) (f : Log → Log) : (s.modLog f).log = f s.log := rfl

/-! ### State.modColo -/

@[simp] theorem State.modColo_pending (s : State) (f : Colophon → Colophon) : (s.modColo f).pending = s.pending := rfl
@[simp] theorem State.modColo_free (s : State) (f : Colophon → Colophon) : (s.modColo f).free = s.free := rfl
@[simp] theorem State.modColo_resp (s : State) (f : Colophon → Colophon) : (s.modColo f).resp = s.resp := rfl
@[simp] theorem State.modColo_msix (s : State) (f : Colophon → Colophon) : (s.modColo f).msix = s.msix := rfl
@[simp] theorem State.modColo_clk (s : State) (f : Colophon → Colophon) : (s.modColo f).clk = s.clk := rfl
@[simp] theorem State.modColo_nextId (s : State) (f : Colophon → Colophon) : (s.modColo f).nextId = s.nextId := rfl
@[simp] theorem State.modColo_irqSent (s : State) (f : Colophon → Colophon) : (s.modColo f).irqSent = s.irqSent := rfl
@[simp] theorem State.modColo_badBlks (s : State) (f : Colophon → Colophon) : (s.modColo f).badBlks = s.badBlks := rfl
@[simp] theorem State.modColo_regs (s : State) (f : Colophon → Colophon) : (s.modColo f).regs = s.regs := rfl
@[simp] theorem State.modColo_force (s : State) (f : Colophon → Colophon) : (s.modColo f).force = s.force := rfl
@[simp] theorem State.modColo_latch (s : State) (f : Colophon → Colophon) : (s.modColo f).latch = s.latch := rfl
@[simp] theorem State.modColo_cores (s : State) (f : Colophon → Colophon) : (s.modColo f).cores = s.cores := rfl
@[simp] theorem State.modColo_reqs (s : State) (f : Colophon → Colophon) : (s.modColo f).reqs = s.reqs := rfl
@[simp] theorem State.modColo_desk (s : State) (f : Colophon → Colophon) : (s.modColo f).desk = s.desk := rfl
@[simp] theorem State.modColo_deskP (s : State) (f : Colophon → Colophon) : (s.modColo f).deskP = s.deskP := rfl
@[simp] theorem State.modColo_merges (s : State) (f : Colophon → Colophon) : (s.modColo f).merges = s.merges := rfl
@[simp] theorem State.modColo_parts (s : State) (f : Colophon → Colophon) : (s.modColo f).parts = s.parts := rfl
@[simp] theorem State.modColo_mem (s : State) (f : Colophon → Colophon) : (s.modColo f).mem = s.mem := rfl
@[simp] theorem State.modColo_memBad (s : State) (f : Colophon → Colophon) : (s.modColo f).memBad = s.memBad := rfl
@[simp] theorem State.modColo_zeroing (s : State) (f : Colophon → Colophon) : (s.modColo f).zeroing = s.zeroing := rfl
@[simp] theorem State.modColo_tierP (s : State) (f : Colophon → Colophon) : (s.modColo f).tierP = s.tierP := rfl
@[simp] theorem State.modColo_exps (s : State) (f : Colophon → Colophon) : (s.modColo f).exps = s.exps := rfl
@[simp] theorem State.modColo_mloads (s : State) (f : Colophon → Colophon) : (s.modColo f).mloads = s.mloads := rfl
@[simp] theorem State.modColo_carrel (s : State) (f : Colophon → Colophon) : (s.modColo f).carrel = s.carrel := rfl
@[simp] theorem State.modColo_gus (s : State) (f : Colophon → Colophon) : (s.modColo f).gus = s.gus := rfl
@[simp] theorem State.modColo_gather (s : State) (f : Colophon → Colophon) : (s.modColo f).gather = s.gather := rfl
@[simp] theorem State.modColo_arc (s : State) (f : Colophon → Colophon) : (s.modColo f).arc = s.arc := rfl
@[simp] theorem State.modColo_ports (s : State) (f : Colophon → Colophon) : (s.modColo f).ports = s.ports := rfl
@[simp] theorem State.modColo_linkP (s : State) (f : Colophon → Colophon) : (s.modColo f).linkP = s.linkP := rfl
@[simp] theorem State.modColo_rc (s : State) (f : Colophon → Colophon) : (s.modColo f).rc = s.rc := rfl
@[simp] theorem State.modColo_hosts (s : State) (f : Colophon → Colophon) : (s.modColo f).hosts = s.hosts := rfl
@[simp] theorem State.modColo_pwr (s : State) (f : Colophon → Colophon) : (s.modColo f).pwr = s.pwr := rfl
@[simp] theorem State.modColo_colo (s : State) (f : Colophon → Colophon) : (s.modColo f).colo = f s.colo := rfl
@[simp] theorem State.modColo_meter (s : State) (f : Colophon → Colophon) : (s.modColo f).meter = s.meter := rfl
@[simp] theorem State.modColo_log (s : State) (f : Colophon → Colophon) : (s.modColo f).log = s.log := rfl

/-! ### State.modMeter -/

@[simp] theorem State.modMeter_pending (s : State) (f : Meter → Meter) : (s.modMeter f).pending = s.pending := rfl
@[simp] theorem State.modMeter_free (s : State) (f : Meter → Meter) : (s.modMeter f).free = s.free := rfl
@[simp] theorem State.modMeter_resp (s : State) (f : Meter → Meter) : (s.modMeter f).resp = s.resp := rfl
@[simp] theorem State.modMeter_msix (s : State) (f : Meter → Meter) : (s.modMeter f).msix = s.msix := rfl
@[simp] theorem State.modMeter_clk (s : State) (f : Meter → Meter) : (s.modMeter f).clk = s.clk := rfl
@[simp] theorem State.modMeter_nextId (s : State) (f : Meter → Meter) : (s.modMeter f).nextId = s.nextId := rfl
@[simp] theorem State.modMeter_irqSent (s : State) (f : Meter → Meter) : (s.modMeter f).irqSent = s.irqSent := rfl
@[simp] theorem State.modMeter_badBlks (s : State) (f : Meter → Meter) : (s.modMeter f).badBlks = s.badBlks := rfl
@[simp] theorem State.modMeter_regs (s : State) (f : Meter → Meter) : (s.modMeter f).regs = s.regs := rfl
@[simp] theorem State.modMeter_force (s : State) (f : Meter → Meter) : (s.modMeter f).force = s.force := rfl
@[simp] theorem State.modMeter_latch (s : State) (f : Meter → Meter) : (s.modMeter f).latch = s.latch := rfl
@[simp] theorem State.modMeter_cores (s : State) (f : Meter → Meter) : (s.modMeter f).cores = s.cores := rfl
@[simp] theorem State.modMeter_reqs (s : State) (f : Meter → Meter) : (s.modMeter f).reqs = s.reqs := rfl
@[simp] theorem State.modMeter_desk (s : State) (f : Meter → Meter) : (s.modMeter f).desk = s.desk := rfl
@[simp] theorem State.modMeter_deskP (s : State) (f : Meter → Meter) : (s.modMeter f).deskP = s.deskP := rfl
@[simp] theorem State.modMeter_merges (s : State) (f : Meter → Meter) : (s.modMeter f).merges = s.merges := rfl
@[simp] theorem State.modMeter_parts (s : State) (f : Meter → Meter) : (s.modMeter f).parts = s.parts := rfl
@[simp] theorem State.modMeter_mem (s : State) (f : Meter → Meter) : (s.modMeter f).mem = s.mem := rfl
@[simp] theorem State.modMeter_memBad (s : State) (f : Meter → Meter) : (s.modMeter f).memBad = s.memBad := rfl
@[simp] theorem State.modMeter_zeroing (s : State) (f : Meter → Meter) : (s.modMeter f).zeroing = s.zeroing := rfl
@[simp] theorem State.modMeter_tierP (s : State) (f : Meter → Meter) : (s.modMeter f).tierP = s.tierP := rfl
@[simp] theorem State.modMeter_exps (s : State) (f : Meter → Meter) : (s.modMeter f).exps = s.exps := rfl
@[simp] theorem State.modMeter_mloads (s : State) (f : Meter → Meter) : (s.modMeter f).mloads = s.mloads := rfl
@[simp] theorem State.modMeter_carrel (s : State) (f : Meter → Meter) : (s.modMeter f).carrel = s.carrel := rfl
@[simp] theorem State.modMeter_gus (s : State) (f : Meter → Meter) : (s.modMeter f).gus = s.gus := rfl
@[simp] theorem State.modMeter_gather (s : State) (f : Meter → Meter) : (s.modMeter f).gather = s.gather := rfl
@[simp] theorem State.modMeter_arc (s : State) (f : Meter → Meter) : (s.modMeter f).arc = s.arc := rfl
@[simp] theorem State.modMeter_ports (s : State) (f : Meter → Meter) : (s.modMeter f).ports = s.ports := rfl
@[simp] theorem State.modMeter_linkP (s : State) (f : Meter → Meter) : (s.modMeter f).linkP = s.linkP := rfl
@[simp] theorem State.modMeter_rc (s : State) (f : Meter → Meter) : (s.modMeter f).rc = s.rc := rfl
@[simp] theorem State.modMeter_hosts (s : State) (f : Meter → Meter) : (s.modMeter f).hosts = s.hosts := rfl
@[simp] theorem State.modMeter_pwr (s : State) (f : Meter → Meter) : (s.modMeter f).pwr = s.pwr := rfl
@[simp] theorem State.modMeter_colo (s : State) (f : Meter → Meter) : (s.modMeter f).colo = s.colo := rfl
@[simp] theorem State.modMeter_meter (s : State) (f : Meter → Meter) : (s.modMeter f).meter = f s.meter := rfl
@[simp] theorem State.modMeter_log (s : State) (f : Meter → Meter) : (s.modMeter f).log = s.log := rfl

/-! ### State.modPwr -/

@[simp] theorem State.modPwr_pending (s : State) (f : Power → Power) : (s.modPwr f).pending = s.pending := rfl
@[simp] theorem State.modPwr_free (s : State) (f : Power → Power) : (s.modPwr f).free = s.free := rfl
@[simp] theorem State.modPwr_resp (s : State) (f : Power → Power) : (s.modPwr f).resp = s.resp := rfl
@[simp] theorem State.modPwr_msix (s : State) (f : Power → Power) : (s.modPwr f).msix = s.msix := rfl
@[simp] theorem State.modPwr_clk (s : State) (f : Power → Power) : (s.modPwr f).clk = s.clk := rfl
@[simp] theorem State.modPwr_nextId (s : State) (f : Power → Power) : (s.modPwr f).nextId = s.nextId := rfl
@[simp] theorem State.modPwr_irqSent (s : State) (f : Power → Power) : (s.modPwr f).irqSent = s.irqSent := rfl
@[simp] theorem State.modPwr_badBlks (s : State) (f : Power → Power) : (s.modPwr f).badBlks = s.badBlks := rfl
@[simp] theorem State.modPwr_regs (s : State) (f : Power → Power) : (s.modPwr f).regs = s.regs := rfl
@[simp] theorem State.modPwr_force (s : State) (f : Power → Power) : (s.modPwr f).force = s.force := rfl
@[simp] theorem State.modPwr_latch (s : State) (f : Power → Power) : (s.modPwr f).latch = s.latch := rfl
@[simp] theorem State.modPwr_cores (s : State) (f : Power → Power) : (s.modPwr f).cores = s.cores := rfl
@[simp] theorem State.modPwr_reqs (s : State) (f : Power → Power) : (s.modPwr f).reqs = s.reqs := rfl
@[simp] theorem State.modPwr_desk (s : State) (f : Power → Power) : (s.modPwr f).desk = s.desk := rfl
@[simp] theorem State.modPwr_deskP (s : State) (f : Power → Power) : (s.modPwr f).deskP = s.deskP := rfl
@[simp] theorem State.modPwr_merges (s : State) (f : Power → Power) : (s.modPwr f).merges = s.merges := rfl
@[simp] theorem State.modPwr_parts (s : State) (f : Power → Power) : (s.modPwr f).parts = s.parts := rfl
@[simp] theorem State.modPwr_mem (s : State) (f : Power → Power) : (s.modPwr f).mem = s.mem := rfl
@[simp] theorem State.modPwr_memBad (s : State) (f : Power → Power) : (s.modPwr f).memBad = s.memBad := rfl
@[simp] theorem State.modPwr_zeroing (s : State) (f : Power → Power) : (s.modPwr f).zeroing = s.zeroing := rfl
@[simp] theorem State.modPwr_tierP (s : State) (f : Power → Power) : (s.modPwr f).tierP = s.tierP := rfl
@[simp] theorem State.modPwr_exps (s : State) (f : Power → Power) : (s.modPwr f).exps = s.exps := rfl
@[simp] theorem State.modPwr_mloads (s : State) (f : Power → Power) : (s.modPwr f).mloads = s.mloads := rfl
@[simp] theorem State.modPwr_carrel (s : State) (f : Power → Power) : (s.modPwr f).carrel = s.carrel := rfl
@[simp] theorem State.modPwr_gus (s : State) (f : Power → Power) : (s.modPwr f).gus = s.gus := rfl
@[simp] theorem State.modPwr_gather (s : State) (f : Power → Power) : (s.modPwr f).gather = s.gather := rfl
@[simp] theorem State.modPwr_arc (s : State) (f : Power → Power) : (s.modPwr f).arc = s.arc := rfl
@[simp] theorem State.modPwr_ports (s : State) (f : Power → Power) : (s.modPwr f).ports = s.ports := rfl
@[simp] theorem State.modPwr_linkP (s : State) (f : Power → Power) : (s.modPwr f).linkP = s.linkP := rfl
@[simp] theorem State.modPwr_rc (s : State) (f : Power → Power) : (s.modPwr f).rc = s.rc := rfl
@[simp] theorem State.modPwr_hosts (s : State) (f : Power → Power) : (s.modPwr f).hosts = s.hosts := rfl
@[simp] theorem State.modPwr_pwr (s : State) (f : Power → Power) : (s.modPwr f).pwr = f s.pwr := rfl
@[simp] theorem State.modPwr_colo (s : State) (f : Power → Power) : (s.modPwr f).colo = s.colo := rfl
@[simp] theorem State.modPwr_meter (s : State) (f : Power → Power) : (s.modPwr f).meter = s.meter := rfl
@[simp] theorem State.modPwr_log (s : State) (f : Power → Power) : (s.modPwr f).log = s.log := rfl

/-! ### What is read back -/

theorem State.setReg_reg (s : State) (a b : Nat) (w : Word) : (s.setReg a w).reg b = if b = a then w else s.reg b :=
  Tab.get_set ..
@[simp] theorem State.setReg_reg_same (s : State) (a : Nat) (w : Word) : (s.setReg a w).reg a = w := Tab.get_set_same ..
theorem State.setForce_get (s : State) (a b : Nat) (w : Word) :
    Tab.get regReset (s.setForce a w).force b = if b = a then w else Tab.get regReset s.force b := Tab.get_set ..
@[simp] theorem State.setForce_reg (s : State) (a b : Nat) (w : Word) : (s.setForce a w).reg b = s.reg b := rfl
@[simp] theorem State.access_reg (s : State) (f : Fn) (b : Nat) : (s.access f).reg b = s.reg b := rfl
@[simp] theorem State.access_inForce (s : State) (f : Fn) (b : Nat) : (s.access f).inForce b = s.inForce b := rfl
theorem State.modPart_part (s : State) (p q : Nat) (f : Part → Part) :
    (s.modPart p f).part q = if q = p then f (s.part p) else s.part q := Tab.get_set ..
theorem State.modDk_dk (s : State) (p q : Nat) (f : DeskPart → DeskPart) :
    (s.modDk p f).dk q = if q = p then f (s.dk p) else s.dk q := Tab.get_set ..
theorem State.modTp_tp (s : State) (p q : Nat) (f : TierPart → TierPart) :
    (s.modTp p f).tp q = if q = p then f (s.tp p) else s.tp q := Tab.get_set ..
theorem State.modNs_ns (s : State) (p q : Nat) (f : Ns → Ns) :
    (s.modNs p f).ns q = if q = p then (f (s.ns p)).timed (s.ns p) s.clk else s.ns q := Tab.get_set ..
theorem State.modGu_gu (s : State) (p q : Nat) (f : GuPart → GuPart) : (s.modGu p f).gu q = if q = p then f (s.gu p) else s.gu q :=
  Tab.get_set ..
theorem State.modExp_expander (s : State) (x y : Nat) (f : Expander → Expander) :
    (s.modExp x f).expander y = if y = x then f (s.expander x) else s.expander y := Tab.get_set ..
theorem State.modCar_car (s : State) (m n : Nat) (f : Carrel → Carrel) :
    (s.modCar m f).car n = if n = m then f (s.car m) else s.car n := Tab.get_set ..
theorem State.modPort_port (s : State) (q r : Nat) (f : LinkPort → LinkPort) :
    (s.modPort q f).port r = if r = q then f (s.port q) else s.port r := Tab.get_set ..
theorem State.modBar_bar (s : State) (b d : Nat) (f : Barrier → Barrier) :
    (s.modBar b f).bar d = if d = b then f (s.bar b) else s.bar d := Tab.get_set ..
theorem State.modHost_host (s : State) (k j : Nat) (f : HostFn → HostFn) :
    (s.modHost k f).host j = if j = k then f (s.host k) else s.host j := Tab.get_set ..
theorem State.setCore_core (s : State) (c d : Nat) (k : Core) : (s.setCore c k).core d = if d = c then k else s.core d :=
  Tab.get_set ..
theorem Core.setThr_thr (k : Core) (t u : Nat) (x : Thread) : (k.setThr t x).thr u = if u = t then x else k.thr u :=
  Tab.get_set ..
theorem State.setThr_thr (s : State) (c t d u : Nat) (x : Thread) :
    (s.setThr c t x).thr d u = if d = c ∧ u = t then x else s.thr d u := by
  unfold State.thr State.setThr State.modCore
  rw [State.setCore_core]
  by_cases h : d = c
  · subst h
    simp [Core.setThr_thr]
  · simp [h]

/-! ### Reset -/

theorem State.reset_mem : Mem.wf State.reset.mem = true := rfl
theorem State.reset_pending : State.reset.pending = [] := rfl

end Sys2Proof.Machine
end

