-- ==== Sys2Proof/Laws/Thread.lean ====
section
/-! SUPPORT. What the operations on one context read and write, in the words of the claims. -/

namespace Sys2Proof.Machine

@[simp] theorem core_setCore (s : State) (c d : Nat) (k : Core) : (s.setCore c k).core d = if d = c then k else s.core d := by
  simp only [State.core, State.setCore, Tab.get_set]
@[simp] theorem core_modCore (s : State) (c d : Nat) (f : Core → Core) :
    (s.modCore c f).core d = if d = c then f (s.core c) else s.core d := core_setCore s c d _
theorem thr_setThr (s : State) (c t d v : Nat) (x : Thread) :
    (s.setThr c t x).thr d v = if d = c ∧ v = t then x else s.thr d v := by
  simp only [State.thr, State.setThr, core_modCore]
  by_cases h : d = c
  · subst h; simp only [if_true, true_and, Core.setThr, Core.thr, Tab.get_set]
  · simp [h]
@[simp] theorem reg_setReg (s : State) (a b : Nat) (w : Word) : (s.setReg a w).reg b = if b = a then w else s.reg b := by
  simp only [State.reg, State.setReg, Tab.get_set]
@[simp] theorem reg_setCore (s : State) (c a : Nat) (k : Core) : (s.setCore c k).reg a = s.reg a := rfl
@[simp] theorem core_setReg (s : State) (a c : Nat) (w : Word) : (s.setReg a w).core c = s.core c := rfl
@[simp] theorem core_bump (s : State) (a n c : Nat) : (s.bump a n).core c = s.core c := rfl
@[simp] theorem thr_bump (s : State) (a n c t : Nat) : (s.bump a n).thr c t = s.thr c t := rfl

/-- What a change of one context leaves alone. -/
theorem onlyThread_modThr (s : State) (c t : Nat) (f : Thread → Thread) : onlyThread s (s.modThr c t f) c t := by
  refine ⟨⟨_, _, rfl⟩, fun d => ?_, fun d v h => ?_, fun a _ => rfl⟩
  · simp only [State.modThr, State.setThr, core_modCore]
    by_cases h : d = c
    · subst h; simp [Core.setThr]
    · simp [h]
  · rw [State.modThr, thr_setThr]; rw [if_neg]; tauto

theorem onlyThread_bump (s : State) (c t : Nat) : onlyThread s (s.bump (coreP c + 0x80) 1) c t := by
  refine ⟨⟨_, _, rfl⟩, fun d => rfl, fun d v h => rfl, fun a h => ?_⟩
  simp [State.bump, h]

theorem onlyThread_issued (s : State) (c t : Nat) : onlyThread s (s.issued c t) c t := by
  unfold State.issued; split
  · exact onlyThread_modThr ..
  · exact onlyThread_bump ..

theorem onlyThread_trans {s u w : State} {c t : Nat} (h : onlyThread s u c t) (k : onlyThread u w c t) : onlyThread s w c t := by
  obtain ⟨⟨k1, r1, rfl⟩, h2, h3, h4⟩ := h
  obtain ⟨⟨k2, r2, rfl⟩, k2', k3, k4⟩ := k
  exact ⟨⟨k2, r2, rfl⟩, fun d => (k2' d).trans (h2 d), fun d v e => (k3 d v e).trans (h3 d v e),
    fun a e => (k4 a e).trans (h4 a e)⟩

/-- A context that issues differs only in what it waited for. -/
theorem thr_issued (s : State) (c t : Nat) : ((s.issued c t).thr c t) = { s.thr c t with wait := ((s.issued c t).thr c t).wait } := by
  unfold State.issued; split
  · rw [State.modThr, thr_setThr]; simp
  · simp [thr_bump]

theorem setR_r (x : Thread) (rd i : Reg) (w : Word) : (x.setR rd w).r i = if i = 0 then 0 else if i = rd then w else x.r i := by
  unfold Thread.setR Thread.r
  by_cases h : i = 0
  · simp [h]
  · by_cases g : i = rd
    · subst g; simp [h]
    · by_cases z : rd = 0
      · simp [h, z]
      · simp only [h, g, z, if_false]
        rw [Tab.get_set, if_neg (fun e => g (Fin.ext e))]

theorem setR_rest (x : Thread) (rd : Reg) (w : Word) : { x.setR rd w with g := ⟨[]⟩ } = { x with g := ⟨[]⟩ } := by
  unfold Thread.setR; split <;> rfl

@[simp] theorem pc_setR (x : Thread) (rd : Reg) (w : Word) : (x.setR rd w).pc = x.pc := by
  unfold Thread.setR; split <;> rfl

/-- A register write with a new PC, in the words of the claims. -/
theorem regWrote_of {s w : State} {c t : Nat} (h : w.thr c t = (s.issued c t).thr c t) (rd : Reg) (v : Word) (pc : BitVec 16) :
    regWrote s (w.modThr c t (fun x => { x.setR rd v with pc := pc })) c t rd v pc := by
  have e : (w.modThr c t (fun x => { x.setR rd v with pc := pc })).thr c t = { (w.thr c t).setR rd v with pc := pc } := by
    rw [State.modThr, thr_setThr, if_pos ⟨rfl, rfl⟩]
  refine ⟨?_, fun i => ?_, ?_⟩
  · rw [e]
  · rw [e]
    have := setR_r (w.thr c t) rd i v
    rw [show (s.thr c t).r i = (w.thr c t).r i by rw [h, thr_issued]; rfl]
    exact this
  · rw [e, h, thr_issued]
    unfold Thread.setR; split <;> rfl

theorem wrote_of (s : State) (c t : Nat) (rd : Reg) (v : Word) (pc : BitVec 16) :
    wrote s ((s.issued c t).modThr c t (fun x => { x.setR rd v with pc := pc })) c t rd v pc :=
  ⟨regWrote_of rfl rd v pc, onlyThread_trans (onlyThread_issued ..) (onlyThread_modThr ..)⟩

theorem issue_eq {s : State} {c t : Nat} (h : canIssue s c t) {defer : Bool} (hd : defer = false ∨ (s.thr c t).spec = false)
    (act : State → Outc) : issue c t s true defer act = act (s.issued c t) := by
  unfold issue
  rw [h.1, h.2]
  rcases hd with hd | hd <;> simp [hd]

theorem r_issued (s : State) (c t : Nat) (i : Reg) : ((s.issued c t).thr c t).r i = (s.thr c t).r i := by rw [thr_issued]; rfl
theorem pc_issued (s : State) (c t : Nat) : ((s.issued c t).thr c t).pc = (s.thr c t).pc := by rw [thr_issued]

theorem issueR_wrote {s : State} {c t : Nat} (h : canIssue s c t) (rd : Reg) (v : Thread → Word) (w : Word)
    (hv : v ((s.issued c t).thr c t) = w) :
    completes (issueR c t s true rd v) (fun u => wrote s u c t rd w ((s.thr c t).pc + 1)) := by
  unfold issueR
  rw [issue_eq h (.inl rfl)]
  refine ⟨_, rfl, ?_⟩
  have := wrote_of s c t rd w ((s.thr c t).pc + 1)
  rw [hv]
  have e : (s.issued c t).retire c t rd w = (s.issued c t).modThr c t (fun x => { x.setR rd w with pc := (s.thr c t).pc + 1 }) := by
    unfold State.retire State.adv State.modThr
    dsimp only
    rw [pc_issued]
  rw [e]; exact this


theorem adv_eq {s w : State} {c t : Nat} (h : w.thr c t = (s.issued c t).thr c t) (rd : Reg) (v : Word) :
    w.retire c t rd v = w.modThr c t (fun x => { x.setR rd v with pc := (s.thr c t).pc + 1 }) := by
  unfold State.retire State.adv State.modThr
  dsimp only
  rw [h, pc_issued]

theorem regWrote_retire {s w : State} {c t : Nat} (h : w.thr c t = (s.issued c t).thr c t) (rd : Reg) (v : Word) :
    regWrote s (w.retire c t rd v) c t rd v ((s.thr c t).pc + 1) := by
  rw [adv_eq h]; exact regWrote_of h rd v _

theorem adv_id (w : State) (c t : Nat) : w.adv c t id = w.retire c t 0 0 := rfl

@[simp] theorem scr_modThr (s : State) (c t d a : Nat) (f : Thread → Thread) : scrByte (s.modThr c t f) d a = scrByte s d a := by
  unfold scrByte State.modThr State.setThr
  rw [core_modCore]; split
  · rename_i h; subst h; rfl
  · rfl
theorem scr_retire (s : State) (c t d a : Nat) (rd : Reg) (v : Word) : scrByte (s.retire c t rd v) d a = scrByte s d a := scr_modThr ..
theorem scr_issued (s : State) (c t d a : Nat) : scrByte (s.issued c t) d a = scrByte s d a := by
  unfold State.issued; split
  · exact scr_modThr ..
  · rfl
theorem core_modThr (s : State) (c t d : Nat) (f : Thread → Thread) :
    { (s.modThr c t f).core d with threads := ⟨[]⟩ } = { s.core d with threads := ⟨[]⟩ } := (onlyThread_modThr s c t f).2.1 d
theorem core_issued (s : State) (c t d : Nat) :
    { (s.issued c t).core d with threads := ⟨[]⟩ } = { s.core d with threads := ⟨[]⟩ } := (onlyThread_issued s c t).2.1 d
theorem scratch_issued (s : State) (c t d : Nat) : ((s.issued c t).core d).scratch = (s.core d).scratch := by
  have h := congrArg Core.scratch (core_issued s c t d)
  exact h
theorem check_issued (s : State) (c t d a n : Nat) : ((s.issued c t).core d).check a n = (s.core d).check a n := by
  have h := core_issued s c t d
  have h1 := congrArg Core.ecc h
  have h2 := congrArg Core.poison h
  simp only at h1 h2
  simp only [Core.check, h1, h2]
theorem mem_issued (s : State) (c t : Nat) : (s.issued c t).mem = s.mem := by unfold State.issued; split <;> rfl
theorem reg_issued (s : State) (c t a : Nat) (h : a ≠ coreP c + 0x80) : (s.issued c t).reg a = s.reg a :=
  (onlyThread_issued s c t).2.2.2 a h
theorem force_issued (s : State) (c t : Nat) : (s.issued c t).force = s.force := by unfold State.issued; split <;> rfl
theorem inForce_issued (s : State) (c t a : Nat) (h : a ≠ coreP c + 0x80) : (s.issued c t).inForce a = s.inForce a := by
  unfold State.inForce; rw [reg_issued s c t a h, force_issued]
@[simp] theorem mem_modThr (s : State) (c t : Nat) (f : Thread → Thread) : (s.modThr c t f).mem = s.mem := rfl
@[simp] theorem mem_retire (s : State) (c t : Nat) (rd : Reg) (v : Word) : (s.retire c t rd v).mem = s.mem := rfl
@[simp] theorem mem_modCore (s : State) (c : Nat) (f : Core → Core) : (s.modCore c f).mem = s.mem := rfl
@[simp] theorem mem_bump (s : State) (a n : Nat) : (s.bump a n).mem = s.mem := rfl
@[simp] theorem mem_writeScr (s : State) (c a : Nat) (bs : List Byte) : (s.writeScr c a bs).mem = s.mem := rfl
@[simp] theorem reg_modThr (s : State) (c t a : Nat) (f : Thread → Thread) : (s.modThr c t f).reg a = s.reg a := rfl
@[simp] theorem reg_retire (s : State) (c t a : Nat) (rd : Reg) (v : Word) : (s.retire c t rd v).reg a = s.reg a := rfl
@[simp] theorem reg_modCore (s : State) (c a : Nat) (f : Core → Core) : (s.modCore c f).reg a = s.reg a := rfl
theorem codeRegion_issued (s : State) (c t : Nat) : (s.issued c t).codeRegion c = s.codeRegion c := by
  unfold State.codeRegion; rw [inForce_issued s c t _ (by omega)]
theorem codeBarred_issued (s : State) (c t a n : Nat) : (s.issued c t).codeBarred c t a n = s.codeBarred c t a n := by
  unfold State.codeBarred State.inCode; rw [codeRegion_issued]
@[simp] theorem length_leBytes (n v : Nat) : (leBytes n v).length = n := by
  induction n generalizing v with
  | zero => rfl
  | succ n ih => simp [leBytes, ih]
theorem scr_writeScr (s : State) (c a : Nat) (bs : List Byte) (d b : Nat) :
    scrByte (s.writeScr c a bs) d b = if d = c ∧ a ≤ b ∧ b < a + bs.length then bs.getD (b - a) 0 else scrByte s d b := by
  unfold scrByte State.writeScr
  rw [core_modCore]
  by_cases h : d = c
  · subst h; simp only [if_true, true_and]; exact Mem.rd_putBytes ..
  · simp [h]
theorem thr_modCore (s : State) (c d t : Nat) (f : Core → Core) (h : (f (s.core c)).threads = (s.core c).threads) :
    (s.modCore c f).thr d t = s.thr d t := by
  unfold State.thr Core.thr
  rw [core_modCore]; split
  · rename_i e; subst e; rw [h]
  · rfl

theorem toNat_bump (s : State) (a n : Nat) : ((s.bump a n).reg a).toNat = min (2 ^ 64 - 1) ((s.reg a).toNat + n) := by
  rw [State.bump, reg_setReg, if_pos rfl, BitVec.toNat_ofNat, Nat.mod_eq_of_lt]
  exact lt_of_le_of_lt (min_le_left _ _) (by norm_num)
theorem scr_modCore (s : State) (c d b : Nat) (f : Core → Core) (h : (f (s.core c)).scratch = (s.core c).scratch) :
    scrByte (s.modCore c f) d b = scrByte s d b := by
  unfold scrByte
  rw [core_modCore]; split
  · rename_i e; subst e; rw [h]
  · rfl
theorem thr_writeScr (s : State) (c a d t : Nat) (bs : List Byte) : (s.writeScr c a bs).thr d t = s.thr d t :=
  thr_modCore s c d t (·.write a bs) rfl
theorem scrMask_eq (w : Word) : scrMask w = w.toNat % 2 ^ 22 := by
  simp [scrMask, fld, BitVec.extractLsb'_toNat]
theorem notBarred {s : State} {c t a n : Nat} (h : 8192 ≤ t ∨ ¬ s.inCode c a n = true) : s.codeBarred c t a n = false := by
  unfold State.codeBarred isHart
  rcases h with h | h <;> simp [h]

@[simp] theorem req_setReq (s : State) (i j : Nat) (r : Option Req) : (s.setReq i r).req j = if j = i then r else s.req j := by
  simp only [State.req, State.setReq, Tab.get_set]
@[simp] theorem req_modThr (s : State) (c t i : Nat) (f : Thread → Thread) : (s.modThr c t f).req i = s.req i := rfl
theorem req_newReq (s : State) (r : Req) : (s.newReq r).2.req s.nextId = some r := by
  show (({ s with nextId := s.nextId + 1 } : State).setReq s.nextId (some r)).req s.nextId = _
  rw [req_setReq, if_pos rfl]
@[simp] theorem thr_newReq (s : State) (r : Req) (c t : Nat) : (s.newReq r).2.thr c t = s.thr c t := rfl
@[simp] theorem scr_newReq (s : State) (r : Req) (c a : Nat) : scrByte (s.newReq r).2 c a = scrByte s c a := rfl
@[simp] theorem mem_newReq (s : State) (r : Req) : (s.newReq r).2.mem = s.mem := rfl
@[simp] theorem fst_newReq (s : State) (r : Req) : (s.newReq r).1 = s.nextId := rfl
theorem thr_modThr (s : State) (c t : Nat) (f : Thread → Thread) : (s.modThr c t f).thr c t = f (s.thr c t) := by
  rw [State.modThr, thr_setThr, if_pos ⟨rfl, rfl⟩]
theorem goneTo_modThr {s w : State} {c t : Nat} (h : w.thr c t = (s.issued c t).thr c t) (f : Thread → Thread) (pc : BitVec 16)
    (h1 : (f (w.thr c t)).pc = pc) (h2 : (f (w.thr c t)).g = (w.thr c t).g) : goneTo s (w.modThr c t f) c t pc := by
  refine ⟨by rw [thr_modThr, h1], fun i => ?_⟩
  rw [thr_modThr, ← r_issued s c t, ← h]; unfold Thread.r; rw [h2]
theorem storedNone_of {s w : State} {c t : Nat} (h1 : ∀ d b, scrByte w d b = scrByte (s.issued c t) d b) (h2 : w.mem = (s.issued c t).mem) :
    storedNone s w := ⟨fun d b => by rw [h1, scr_issued], by rw [h2, mem_issued]⟩
theorem st_issued (s : State) (c t : Nat) : ((s.issued c t).thr c t).st = (s.thr c t).st := by rw [thr_issued]
theorem reads_issued (s : State) (c t : Nat) : ((s.issued c t).thr c t).reads = (s.thr c t).reads := by rw [thr_issued]
theorem writes_issued (s : State) (c t : Nat) : ((s.issued c t).thr c t).writes = (s.thr c t).writes := by rw [thr_issued]
theorem group_issued (s : State) (c t : Nat) : ((s.issued c t).thr c t).group = (s.thr c t).group := by rw [thr_issued]
theorem spec_issued (s : State) (c t : Nat) : ((s.issued c t).thr c t).spec = (s.thr c t).spec := by rw [thr_issued]
theorem hop_issued (s : State) (c t : Nat) : ((s.issued c t).thr c t).hop = (s.thr c t).hop := by rw [thr_issued]
theorem thr_wait (s : State) (c t : Nat) (a : TState) (b : Wait) : (s.waitIn c t a b).thr c t = { s.thr c t with st := a, wait := b } := thr_modThr ..
theorem thr_set (s : State) (c t : Nat) (x : Thread) : (s.setThr c t x).thr c t = x := by rw [thr_setThr, if_pos ⟨rfl, rfl⟩]
theorem r_of_g {x y : Thread} (h : x.g = y.g) (i : Reg) : x.r i = y.r i := by unfold Thread.r; rw [h]
theorem thr_modGrp (s : State) (c d t g : Nat) (f : Group → Group) : (s.modGrp c g f).thr d t = s.thr d t := thr_modCore _ _ _ _ _ rfl
theorem grp_modGrp (s : State) (c d g h : Nat) (f : Group → Group) :
    (s.modGrp c g f).grp d h = if d = c ∧ h = g then f (s.grp c g) else s.grp d h := by
  unfold State.modGrp State.grp
  rw [core_modCore]
  by_cases e : d = c
  · subst e; simp [Core.grp, Core.setGrp, Tab.get_set]
  · simp [e]
theorem grp_modThr (s : State) (c t d g : Nat) (f : Thread → Thread) : (s.modThr c t f).grp d g = s.grp d g := by
  have h := congrArg Core.groups (core_modThr s c t d f)
  exact congrArg (fun m => Tab.get (fun _ => ({} : Group)) m g) h
theorem grp_retire (s : State) (c t d g : Nat) (rd : Reg) (v : Word) : (s.retire c t rd v).grp d g = s.grp d g := grp_modThr ..
theorem grp_issued (s : State) (c t d g : Nat) : (s.issued c t).grp d g = s.grp d g := by
  have h := congrArg Core.groups (core_issued s c t d)
  exact congrArg (fun m => Tab.get (fun _ => ({} : Group)) m g) h
theorem thr_foldl {α : Type} (c t : Nat) (f : State → α → State) (hf : ∀ s x, (f s x).thr c t = s.thr c t) (l : List α) (s : State) :
    (l.foldl f s).thr c t = s.thr c t := by
  induction l generalizing s with
  | nil => rfl
  | cons x r ih => rw [List.foldl_cons, ih, hf]
theorem thr_wakeIf (s : State) (c d t : Nat) (p : Thread → Bool) (f : Thread → Thread) (h : p (s.thr d t) = false) :
    (s.wakeIf c p f).thr d t = s.thr d t := by
  unfold State.wakeIf
  generalize (s.core c).threads.keys = l
  induction l generalizing s with
  | nil => rfl
  | cons x r ih =>
    rw [List.foldl_cons]
    have e : (if p (s.thr c x) = true then s.setThr c x (f (s.thr c x)) else s).thr d t = s.thr d t := by
      split
      · rename_i hp
        rw [thr_setThr]; split
        · rename_i q; obtain ⟨rfl, rfl⟩ := q; simp [h] at hp
        · rfl
      · rfl
    rw [ih _ (by rw [e]; exact h)]; exact e
theorem grp_wakeIf (s : State) (c d g : Nat) (p : Thread → Bool) (f : Thread → Thread) : (s.wakeIf c p f).grp d g = s.grp d g := by
  unfold State.wakeIf
  generalize (s.core c).threads.keys = l
  induction l generalizing s with
  | nil => rfl
  | cons x r ih =>
    rw [List.foldl_cons, ih]
    dsimp only
    split
    · exact grp_modThr s c x d g (fun _ => f (s.thr c x))
    · rfl
theorem scr_setThr (s : State) (c t d a : Nat) (x : Thread) : scrByte (s.setThr c t x) d a = scrByte s d a := scr_modThr s c t d a (fun _ => x)
theorem scr_wakeIf (s : State) (c d a : Nat) (p : Thread → Bool) (f : Thread → Thread) : scrByte (s.wakeIf c p f) d a = scrByte s d a := by
  unfold State.wakeIf
  generalize (s.core c).threads.keys = l
  induction l generalizing s with
  | nil => rfl
  | cons x r ih =>
    rw [List.foldl_cons, ih]
    dsimp only
    split
    · exact scr_setThr ..
    · rfl
theorem mem_wakeIf (s : State) (c : Nat) (p : Thread → Bool) (f : Thread → Thread) : (s.wakeIf c p f).mem = s.mem := by
  unfold State.wakeIf
  generalize (s.core c).threads.keys = l
  induction l generalizing s with
  | nil => rfl
  | cons x r ih =>
    rw [List.foldl_cons, ih]
    dsimp only
    split <;> rfl
theorem scr_modGrp (s : State) (c g d a : Nat) (f : Group → Group) : scrByte (s.modGrp c g f) d a = scrByte s d a := scr_modCore _ _ _ _ _ rfl
theorem mem_modGrp (s : State) (c g : Nat) (f : Group → Group) : (s.modGrp c g f).mem = s.mem := rfl
theorem ready_of {s : State} {c t : Nat} (h : canIssue s c t) : (s.thr c t).st = .ready := by
  have := h.1; unfold State.mayIssue at this; simp at this; exact this.1.1
theorem wrote_retire (s : State) (c t : Nat) (rd : Reg) (v : Word) : wrote s ((s.issued c t).retire c t rd v) c t rd v ((s.thr c t).pc + 1) := by
  rw [adv_eq rfl]; exact wrote_of ..
end Sys2Proof.Machine
end

