-- ==== Sys2Proof/WellFormed.lean ====
section
/-! DEFINITION. Which operands a sender may give a command: what the types of Syntax.lean leave wider than the hardware's
own fields. A term that is not well formed spells nothing that could reach the chip. -/

namespace Sys2Proof

/-- The header fields of a flit lie within their widths (R340), and its payload is what its LEN names. -/
def Flit.wf (x : Flit) : Bool :=
  decide (x.vc < 8 ∧ x.comp < 4 ∧ x.epoch < 256 ∧ x.dstNode < 1024 ∧ x.dstPart < 16 ∧ x.srcNode < 1024 ∧ x.srcPart < 16 ∧
    x.hops < 256 ∧ x.lseq < 4096 ∧ x.ack < 4096 ∧ x.crVc < 8 ∧ x.crCount < 256 ∧ x.msgFlits < 65536) &&
  decide (x.payload.length = x.len ∧ x.len ≤ 236)

/-- A record of 16 bytes at a node of the 1,024 (R205, R347). -/
def OwnReq.wf (r : OwnReq) : Bool := decide (r.node < 1024 ∧ r.addr.toNat % 16 = 0)

/-- What training can find (R214, R215, R306, R338). -/
def StartReport.wf (r : StartReport) : Bool :=
  r.stackFail.all (fun h => decide (h < 6)) && r.modules.all (fun m => decide (m.1 < 12)) && r.ports.all (fun q => decide (q.1 < 8)) &&
  r.flash.all (fun c => decide (c.1 < 32)) && r.flashFail.all (fun c => decide (c < 32)) && r.parts.all (fun x => decide (x.part < 16))

/-- LUNs of a stripe group (R308). -/
def lunsWf (l : List Nat) : Bool := l.all (fun m => decide (m < 16))

def Instr.wf : Instr → Bool
  | .bar2Read _ _ n => decide (0 < n ∧ n ≤ 4096)
  | .bar2Write _ _ d => decide (0 < d.length ∧ d.length ≤ 4096)
  | .flitReceive _ x _ => x.wf
  | .ownershipOp (some r) => r.wf
  | .stripeProgramDone _ fs => lunsWf fs
  | .eraseDone _ fs => lunsWf fs
  | .thermalSample d => decide (d.length = 36)
  | .startupStepDone r => r.wf
  | .challenge _ _ n => decide (n.length = 32)
  | .getMeasurements _ _ g n => decide (n.length = if g then 32 else 0)
  | .scan _ bad _ => bad.all (fun a => decide (a < 2 ^ 38))
  | .select _ bad _ => bad.all (fun a => decide (a < 2 ^ 38))
  | .rowsum _ bad _ => bad.all (fun a => decide (a < 2 ^ 38))
  | _ => true

end Sys2Proof
end

