-- ==== Sys2Proof/Tests/Slice0.lean ====
section
/-! SUPPORT. Tests: for each statement states and operands that meet its hypotheses, the ill-formed terms that WellFormed
refuses, and values worked out by hand. -/

open Sys2Proof Sys2Proof.Machine

namespace Sys2Proof.Tests

set_option Elab.async false

/-- On either part some core is enabled (R2, R3): at most 16 of 144 are fused off. -/
theorem an_enabled_core : ∃ c : Fin 17, Config.coreEnabled c = true := by
  by_contra h
  have len (l r : List Nat) : (Config.takeOff l r).length = l.length := by
    induction l generalizing r with
    | nil => rfl
    | cons k ks ih => simp [Config.takeOff, ih]
  have h2 : Finset.range 17 ⊆ Config.fusedOff.toFinset := by
    intro n hn
    have lt : n < 17 := Finset.mem_range.mp hn
    have q : ¬ Config.coreEnabled n = true := fun e => h ⟨⟨n, lt⟩, e⟩
    have l2 : n < 144 := by omega
    simp only [Config.coreEnabled, l2, decide_true, Bool.true_and, Bool.not_eq_true, Bool.not_eq_false', Bool.and_eq_true] at q
    exact List.mem_toFinset.mpr (List.contains_iff_mem.mp q.2)
  have h3 := (Finset.card_le_card h2).trans (List.toFinset_card_le Config.fusedOff)
  simp [Config.fusedOff, len] at h3

/-- A machine past start-up whose partition 0 is enabled and owns every core, every pair, every module and flash channel,
with quotas. -/
def base : State :=
  { State.reset with
    regs := Tab.set regReset State.reset.regs 0xD0C0 1
    force := ⟨[(0x9108, 0x0000800000000100#64), (0x9110, 0x0000010000000100#64), (partSlice 0 0, BitVec.allOnes 64),
      (partSlice 0 1, BitVec.allOnes 64), (partSlice 0 2, 0xFFFF#64), (partSlice 0 3, 0xFFFFFFFFFFFF#64),
      (partSlice 0 4, 0xFFFFFFFF00000FFF#64)]⟩
    pwr := { pwrOk := true, phase := 9 } }

/-- The same with core `c` awake, holding `k`, with registers of its pages in force. -/
def lone (c : Fin 17) (k : Core) (ws : List (Nat × Word) := []) : State :=
  { base with
    force := ws.foldl (fun t w => Tab.set regReset t (coreP c + w.1) w.2) base.force
    cores := Tab.set (fun _ => ({} : Core)) Tab.empty c k
    pwr := { pwrOk := true, phase := 9, ungated := Tab.set (fun _ => false) Tab.empty c true } }

/-- A ready thread with g1, g2 and g3. -/
def ready (a b d : Word) : Thread := ((({ st := .ready } : Thread).setR 1 a).setR 2 b).setR 3 d

/-- A core with one context and one group. -/
def coreWith (t : Nat) (x : Thread) (g : Group) : Core :=
  { threads := Tab.set (fun _ => ({} : Thread)) Tab.empty t x, groups := Tab.set (fun _ => ({} : Group)) Tab.empty 0 g }

theorem core_lone (c : Fin 17) (k : Core) (ws : List (Nat × Word)) : (lone c k ws).core c = k := by
  unfold lone State.core; exact Tab.get_set_same ..

theorem ready_lone (c : Fin 17) (k : Core) (ws : List (Nat × Word)) (h : Config.coreEnabled c = true)
    (hz : k.zeroing = false) (hr : k.resetting = false) : (lone c k ws).coreReady c = true := by
  unfold State.coreReady State.coreClocked
  rw [core_lone, h, hz, hr]
  simp [lone]

/-- On some core context `t` of `k` may issue, and `P` holds of that machine. -/
def hosts (t : Nat) (k : Core) (ws : List (Nat × Word)) (P : State → Nat → Prop) : Prop :=
  ∃ c : Fin 17, canIssue (lone c k ws) c t ∧ P (lone c k ws) c

theorem hosts_of {t : Nat} {k : Core} {ws : List (Nat × Word)} {P : State → Nat → Prop}
    (hk : (k.thr t).st = .ready ∧ (k.thr t).marked = false ∧ k.zeroing = false ∧ k.resetting = false)
    (h : ∀ c : Fin 17, (lone c k ws).fetchOk c t = true ∧ P (lone c k ws) c) : hosts t k ws P := by
  obtain ⟨c, e⟩ := an_enabled_core
  refine ⟨c, ⟨?_, (h c).1⟩, (h c).2⟩
  unfold State.mayIssue State.thr
  rw [ready_lone c k ws e hk.2.2.1 hk.2.2.2, core_lone, hk.1, hk.2.1]; rfl

/-- Some core that is READY holds `k`, and `P` holds of that machine. -/
def awake (k : Core) (ws : List (Nat × Word)) (P : State → Nat → Prop) : Prop :=
  ∃ c : Fin 17, Config.coreEnabled c = true ∧ (lone c k ws).coreReady c = true ∧ P (lone c k ws) c

theorem awake_of {k : Core} {ws : List (Nat × Word)} {P : State → Nat → Prop} (hk : k.zeroing = false ∧ k.resetting = false)
    (h : ∀ c : Fin 17, P (lone c k ws) c) : awake k ws P := by
  obtain ⟨c, e⟩ := an_enabled_core
  exact ⟨c, e, ready_lone c k ws e hk.1 hk.2, h c⟩

def top : Core := coreWith 8191 (ready 0x3FFFC0 0x3FFF80 0x3FFFF8) {}
def mid : Core := coreWith 0 (ready 0x10000 0x10040 0x10080) {}
def hart : Core := coreWith 8192 (ready 0 0x40 8) {}

theorem witness_ArithmeticResults : hosts 8191 top [] (fun _ _ => (63#18).toNat < 64) :=
  hosts_of (by decide) (by decide +kernel)

theorem witness_ControlFlow : hosts 0 mid [] (fun _ _ => (255#18).toNat < 256) :=
  hosts_of (by decide) (by decide +kernel)

theorem witness_LoadsAndStores :
    hosts 8191 top [] (fun s c => ((s.thr c 8191).r 3 + (0#15).signExtend 64).toNat % 2 ^ 22 % 2 ^ 3 = 0 ∧
      (s.core c).check 0x3FFFF8 8 = (0, false, false) ∧ s.inCode c 0x3FFFF8 8 = false ∧
      ((s.thr c 8191).r 1).toNat % 2 ^ 22 % 64 = 0 ∧ ((s.thr c 8191).r 2).toNat % 2 ^ 22 % 64 = 0 ∧ s.inCode c 0x3FFFC0 64 = false) ∧
    hosts 0 mid [] (fun s c => s.inCode c 0x10000 8 = false ∧ s.inCode c 0xFFF8 8 = true) ∧
    hosts 8192 hart [] (fun s c => ((s.thr c 8192).r 1 + (7#15).signExtend 64).toNat % 2 ^ 22 % 2 ^ 0 = 0) := by
  refine ⟨hosts_of (by decide) ?_, hosts_of (by decide) ?_, hosts_of (by decide) ?_⟩ <;> decide +kernel

theorem witness_RemoteAndAtomic :
    hosts 8191 top [] (fun s c => (s.thr c 8191).spec = false ∧ (s.thr c 8191).writes < 255 ∧
      ((s.thr c 8191).r 3).toNat % 2 ^ 30 % 8 = 0 ∧ (s.core c).check 0x3FFFF8 8 = (0, false, false) ∧ s.inCode c 0x3FFFF8 8 = false ∧
      (s.issued c 8191).coreAlloc c ((s.thr c 8191).r 3) 8 = true) ∧
    hosts 0 (coreWith 0 { ready 8 0 0 with writes := 254 } {}) [] (fun s c => (s.thr c 0).writes < 255) := by
  refine ⟨hosts_of (by decide) ?_, hosts_of (by decide) ?_⟩ <;> decide +kernel

theorem witness_WaitsAndEnd :
    hosts 0 (coreWith 0 { ready 0 0 0 with reads := 255, writes := 1 } {}) [] (fun s c => (s.thr c 0).marked = false ∧
      ¬ (s.thr c 0).reads ≤ (254#18).toNat ∧ (s.thr c 0).reads ≤ (255#18).toNat ∧ 0 < (s.thr c 0).reads + (s.thr c 0).writes) ∧
    hosts 8192 hart [] (fun s c => (s.thr c 8192).reads = 0 ∧ (s.thr c 8192).writes = 0 ∧ (s.thr c 8192).spec = false) := by
  refine ⟨hosts_of (by decide) ?_, hosts_of (by decide) ?_⟩ <;> decide +kernel

theorem witness_TierAccessIssues :
    hosts 8191 (coreWith 8191 { ready 0x3FFF00 0x1000 0 with reads := 254 } {}) [] (fun s c =>
      let w := s.issued c 8191
      w.coreAlloc c 0x1000 (max 1 (storedLen (w.rangeFor ((w.coreOwner c).getD 16) 0x1000) 0x1000 256)) = true ∧
      0x3FFF00 + 256 ≤ 0x400000 ∧ w.tagUsable c (!isHart 8191 && (w.grp c 0).rt) = true ∧
      s.inCode c 0x3FFF00 256 = false ∧ (s.thr c 8191).reads < 255 ∧ (w.core c).pfMatch 0x1000 256 = none ∧
      (s.thr c 8191).writes < 255 ∧ (s.thr c 8191).spec = false) := by
  exact hosts_of (by decide) (by decide +kernel)

theorem witness_UnitOpcodes :
    hosts 0 mid [(0x3000 + 0x200 + 63 * 8, 0x201)] (fun s c => 0x10000 % 64 = 0 ∧ (s.core c).check 0x10000 64 = (0, false, false) ∧
      (((s.issued c 0).core c).eng (((s.issued c 0).core c).pickEngine 16)).depth < 16 ∧ (16#14).toNat ≤ 16 ∧
      (63#14).toNat < 64 ∧ lcK ((s.issued c 0).listCfg c 63) ≠ 0 ∧ (((s.issued c 0).core c).list 63).isOpen = false) ∧
    hosts 0 (coreWith 0 (ready 5 0 0) { live := true, desc := Mem.ofBytes (zeros 16 ++ [0, 0x10, 12, 0] ++ zeros 20 ++ [1]) }) []
      (fun s c => (s.issued c 0).badArea c (((s.core c).grp 0).f 16 2 * 64) (max 1 (2 ^ (((s.core c).grp 0).f 18 1 % 32) / 8)) = false ∧
        ((s.issued c 0).core c).setLost (((s.core c).grp 0).f 16 2 * 64) (visitedBit 1 5 12) = false ∧ (s.thr c 0).spec = false ∧
        (s.core c).testBit (((s.core c).grp 0).f 16 2 * 64) (visitedBit 1 5 12) = false ∧ (s.core c).held = []) ∧
    hosts 0 { coreWith 0 (ready 5 0 0) { live := true, desc := Mem.ofBytes (zeros 16 ++ [0, 0x10, 12, 0] ++ zeros 20 ++ [1]) } with
      held := [(0, 1, visitedBit 1 5 12)] } [] (fun s c => ∃ h ∈ ((s.issued c 0).core c).held, h.1 = 0 ∧ h.2.2 = visitedBit 1 5 12) := by
  refine ⟨hosts_of (by decide) ?_, hosts_of (by decide) ?_, hosts_of (by decide) ?_⟩
  · decide +kernel
  · decide +kernel
  · intro c
    refine ⟨by revert c; decide +kernel, (0, 1, visitedBit 1 5 12), ?_, rfl, rfl⟩
    revert c; decide +kernel

/-- List 63, K = 1, best is highest, open for group 0. -/
def listed (es : List (Word × F32)) : Core :=
  { coreWith 0 (ready 9 0x3F800000 0) { live := true } with
    lists := Tab.set (fun _ => ({} : ColList)) Tab.empty 63 { isOpen := true, cfg := 0x201, entries := es } }

theorem witness_CollatorInsert :
    hosts 0 (listed []) [(0x3000 + 0x200 + 63 * 8, 0x201)] (fun s c => (63#14).toNat < 64 ∧ lcK ((s.issued c 0).listCfg c 63) ≠ 0 ∧
      ((s.core c).list 63).isOpen = true ∧ ((s.core c).list 63).owner = (s.thr c 0).group ∧ isNaN32 0x3F800000#32 = false ∧
      (s.core c).dead 63 9 = false ∧ ((s.core c).list 63).entries.length < lcK ((s.core c).list 63).cfg) ∧
    hosts 0 (listed [(4, 0x3F800000)]) [(0x3000 + 0x200 + 63 * 8, 0x201)] (fun s c =>
      lcK ((s.core c).list 63).cfg ≤ ((s.core c).list 63).entries.length ∧
      better true 0x3F800000#32 (kth ((s.core c).list 63).entries) = false ∧
      better true 0x3F800001#32 (kth ((s.core c).list 63).entries) = true) := by
  refine ⟨hosts_of (by decide) ?_, hosts_of (by decide) ?_⟩ <;> decide +kernel

/-- A live group with one live thread. -/
def grp1 : Group := { live := true, desc := Mem.ofBytes (zeros 25 ++ [7, 1]) }
def inGroup : Core := coreWith 0 (ready 0 0x20 5) grp1
def hartG : Core :=
  { coreWith 8192 (ready 0 63 5) grp1 with
    workq := [zeros 64]
    handles := Tab.set (fun _ => none) Tab.empty 63 (some (0, zeros 64)) }

theorem witness_GroupEventsAndWork :
    hosts 0 inGroup [] (fun s c => (s.thr c 0).spec = false ∧ (s.thr c 0).group < 1024 ∧ (s.grp c 0).live = true ∧
      (63#15).toNat < 64 ∧ (63#15).toNat % 2 ^ 0 = 0 ∧
      (∀ i, i < 8 → grpRo (16 + i) = false) ∧ (∀ i, i < 1 → grpRo (25 + i) = false) ∧ ¬ (25 ≤ 24 ∧ 24 < 25 + 1) ∧
      (∀ i, i < 8 → grpRo (56 + i) = false) ∧ (∃ i, i < 1 ∧ grpRo (35 + i) = true)) ∧
    hosts 8192 hartG [] (fun s c => ((s.thr c 8192).r 1).toNat % 2 ^ 22 % 64 = 0 ∧ (s.core c).workq = [zeros 64] ∧
      Tab.get (fun _ => none) (s.core c).handles 0 = none ∧ Tab.get (fun _ => none) (s.core c).handles 63 = some (0, zeros 64) ∧
      ((s.thr c 8192).r 2).toNat = 63 ∧ (s.grp c 1023).live = false) ∧
    hosts 8195 (coreWith 8195 (ready 64 0 0) {}) [] (fun s c => (s.core c).workq = [] ∧
      Tab.get (fun _ => none) (s.core c).handles 64 = none) := by
  refine ⟨hosts_of (by decide) ?_, hosts_of (by decide) ?_, hosts_of (by decide) ?_⟩ <;> decide +kernel

theorem witness_GroupFieldsGuarded :
    hosts 0 inGroup [] (fun s c => (s.thr c 0).spec = false ∧ (s.grp c 0).live = true ∧ (s.grp c 0).liveThreads ≠ 0 ∧
      0 < 64 ∧ 35 % 2 ^ 0 = 0 ∧ (15 < 16 ∨ 26 ≤ 15 ∧ 15 < 36) ∧ (35 < 16 ∨ 26 ≤ 35 ∧ 35 < 36)) ∧
    hosts 8192 hartG [] (fun s c => ((s.thr c 8192).r 1).toNat = 0 ∧ (s.thr c 8192).spec = false) := by
  refine ⟨hosts_of (by decide) ?_, hosts_of (by decide) ?_⟩ <;> decide +kernel

theorem witness_SpawnDoneKill :
    hosts 0 inGroup [] (fun s c => (s.thr c 0).group < 1024 ∧ (s.grp c 0).live = true ∧ (s.grp c 0).killed = false ∧
      (s.thr c 8191).st = .free) ∧
    hosts 8192 hartG [] (fun s c => ((s.thr c 8192).r 1).toNat < 1024 ∧ (s.grp c 0).live = true ∧ (s.grp c 0).killed = false ∧
      (s.grp c 0).liveThreads ≠ 0) := by
  refine ⟨hosts_of (by decide) ?_, hosts_of (by decide) ?_⟩ <;> decide +kernel

/-- Every context taken: a spawn finds none. -/
theorem witness_SpawnFull : ∀ n, n < 8192 →
    (({ threads := ⟨(List.range 8192).map (fun t => (t, ready 1 0 0))⟩ } : Core).thr n).st ≠ .free := by
  have key : ∀ (l : List Nat) (n : Nat), n ∈ l →
      (Tab.get (fun _ => ({} : Thread)) ⟨l.map (fun t => (t, ready 1 0 0))⟩ n) = ready 1 0 0 := by
    intro l n h
    induction l with
    | nil => simp at h
    | cons a l ih =>
      by_cases e : a = n
      · subst e; simp [Tab.get, Tab.lookup]
      · have : n ∈ l := by simpa [Ne.symm e] using h
        have q := ih this
        simpa [Tab.get, Tab.lookup, e] using q
  intro n h
  unfold Core.thr
  rw [key _ _ (List.mem_range.mpr h)]
  decide

theorem witness_HopOpcodes :
    hosts 0 inGroup [] (fun s c => (s.grp c 0).hops < min 4 (Mem.le (s.grp c 0).desc 25 1 % 8) ∧ (s.thr c 0).spec = false ∧
      (s.grp c 0).hops = 0) ∧
    hosts 0 (coreWith 0 (ready 0 0 0) { grp1 with hops := 4 }) [] (fun s c => ¬ (s.grp c 0).hops < min 4 (Mem.le (s.grp c 0).desc 25 1 % 8) ∧
      (s.grp c 0).hops ≠ 0 ∧ (s.core c).faults = []) := by
  refine ⟨hosts_of (by decide) ?_, hosts_of (by decide) ?_⟩ <;> decide +kernel

/-- A heap of 64 entries at line 0x400, just past the code region. -/
def heaped (h : List HeapEntry) : Core :=
  coreWith 0 (ready 7 0x3F800000 0x7FC00000) { grp1 with desc := Mem.ofBytes (zeros 20 ++ [0, 4, 6]), heap := h }

theorem witness_HeapOpcodes :
    hosts 0 (heaped []) [] (fun s c => (s.thr c 0).spec = false ∧ isNaN32 (((s.thr c 0).r 2).extractLsb' 0 32) = false ∧
      isNaN32 (((s.thr c 0).r 3).extractLsb' 0 32) = true ∧ (s.grp c 0).heap = [] ∧
      (s.issued c 0).badArea c (Mem.le (s.grp c 0).desc 20 2 * 64) (2 ^ (Mem.le (s.grp c 0).desc 22 1 % 32) * 16) = false) ∧
    hosts 0 (heaped (List.replicate 64 ⟨1, 0x3F800000, 0⟩)) [] (fun s c =>
      2 ^ (Mem.le (s.grp c 0).desc 22 1 % 32) ≤ (s.grp c 0).heap.length ∧ (s.grp c 0).heap ≠ []) := by
  refine ⟨hosts_of (by decide) ?_, hosts_of (by decide) ?_⟩ <;> decide +kernel

theorem witness_CodeRegion :
    hosts 0 (coreWith 0 { ready 0xFFF8 0x10000 0 with pc := 16383 } {}) [] (fun s c =>
      0 + 4 * (s.thr c 0).pc.toNat + 4 ≤ 65536 ∧ ((s.thr c 0).r 1).toNat % 2 ^ 22 % 8 = 0 ∧ 0xFFF8 < 65536 ∧ 0 < 0xFFF8 + 8 ∧
      0xFFC0 % 64 = 0 ∧ ((s.thr c 0).r 2).toNat % 64 = 0 ∧ (2#14).toNat ≤ 2 ∧ (s.thr c 0).spec = false) ∧
    (16384 = (16384#16).toNat ∧ ¬ 0 + 4 * (16384#16).toNat + 4 ≤ 65536) ∧
    hosts 8192 hartG [] (fun s c => ((s.thr c 8192).r 1).toNat % 2 ^ 22 = 0) := by
  refine ⟨hosts_of (by decide) ?_, by decide, hosts_of (by decide) ?_⟩ <;> decide +kernel

/-- A thread at a word with two bits in error and a poisoned one. -/
def damaged : Core :=
  { coreWith 0 (ready 0x10000 0x10008 0x10001) {} with
    ecc := Tab.set (fun _ => 0) Tab.empty 0x2000 2
    poison := Tab.set (fun _ => false) Tab.empty 0x2001 true }

theorem witness_ThreadTraps :
    hosts 0 damaged [] (fun s c => 14 ≤ (14#14).toNat ∧ 3 ≤ (3#14).toNat ∧ 9 ≤ (9#14).toNat ∧ 64 ≤ (64#18).toNat ∧
      ((s.thr c 0).r 3).toNat % 2 ^ 22 % 2 ≠ 0 ∧ (((s.core c).strike 0x10000 0).check 0x10000 8).2.1 = true ∧
      (((s.core c).strike 0x10008 1).check 0x10008 8).2.1 = false ∧ (((s.core c).strike 0x10008 1).check 0x10008 8).2.2 = true ∧
      ((s.thr c 0).r 3).toNat % 2 ^ 22 % 64 ≠ 0 ∧ ((s.thr c 0).r 2).toNat % 2 ^ 22 % 64 ≠ 0 ∧
      ((s.thr c 0).r 1).toNat % 2 ^ 22 % 64 = 0) := by
  exact hosts_of (by decide) (by decide +kernel)

theorem witness_FaultEntry :
    (let s := lone 0 inGroup; (s.thr 0 0).spec = false ∧ (s.grp 0 0).live = true ∧ (s.grp 0 0).killed = false ∧
      (s.grp 0 0).liveThreads ≠ 0 ∧ (s.grp 0 0).f 32 4 = 0) ∧
    (let s := lone 0 (coreWith 8191 { ready 0 0 0 with spec := true, hop := 1 } { grp1 with desc := Mem.ofBytes (zeros 26 ++ [1, 0, 0, 0, 0, 0, 1]) });
      (s.thr 0 8191).spec = true ∧ (s.grp 0 0).f 32 4 ≠ 0) := by
  decide +kernel

/-- `base` with one request under way. -/
def under (s : State) (r : Req) : State := { s with reqs := Tab.set (fun _ => none) Tab.empty 7 (some r) }

def lined : Req := { kind := .rda, ctx := 1, loc := 0x3FFFF8, len := 8, addr := 0x38, reached := true, lines := Tab.set (fun _ => false) Tab.empty 0 true }

theorem witness_TierAccessesReturn :
    (let s := lone 0 (coreWith 0 { ready 1 2 3 with marked := true } {})
     (s.thr 0 0).marked = true ∧ (s.thr 0 0).st ≠ .free ∧ (s.thr 0 0).wait = .none) ∧
    (let s := under (lone 0 (coreWith 1 (ready 1 2 3) {})) lined
     s.req 7 = some lined ∧ 0 < lined.nDest ∧ Tab.get (fun _ => false) lined.written 0 = false ∧
       ((List.range ((lined.destLine 0).2.2 - (lined.destLine 0).2.1)).filterMap
         (fun o => s.dataAt lined ((lined.destLine 0).2.1 + o))).length = (lined.destLine 0).2.2 - (lined.destLine 0).2.1 ∧
       s.takesData lined = true) ∧
    (let r := { lined with kind := .wra, loc := 0x10000, len := 64, addr := 0 }
     let s := under (lone 0 (coreWith 1 (ready 1 2 3) {})) r
     s.req 7 = some r ∧ r.nLines = 1 ∧ r.lineDone 0 = true ∧ (s.thr r.core r.ctx).inst = r.inst ∧ (s.thr r.core r.ctx).st = .ready) := by
  decide +kernel

theorem witness_RemoteAccesses :
    awake (coreWith 1 (ready 1 2 3) {}) [] (fun s c =>
      let r : Req := { kind := .ratom, part := 0, ctx := 1, addr := BitVec.ofNat 64 (c * 2 ^ 22 + 0x3FFFF8), size := 8 }
      (under s r).req 7 = some r ∧ r.answered = false ∧ (under s r).remoteAhead 7 r = false ∧ r.addr.toNat / 2 ^ 22 % 256 = c ∧
      (under s r).coreOwner c = some r.part ∧ (under s r).inCode c 0x3FFFF8 8 = false ∧
      ((under s r).core c).check 0x3FFFF8 8 = (0, false, false) ∧ (under s r).coreOwner c ≠ some 15) ∧
    (let r : Req := { kind := .rload, ctx := 1, answered := true, code := 0 }
     let s := under (lone 0 (coreWith 1 { ready 1 2 3 with st := .waitUnit } {})) r
     s.req 7 = some r ∧ s.sameThread r = true ∧ (s.thr 0 1).marked = false ∧ (s.thr 0 1).st ≠ .faulted) := by
  exact ⟨awake_of (by decide) (by decide +kernel), by decide +kernel⟩

theorem witness_CoreControl :
    (∃ c : Fin 17, (lone c (coreWith 0 (ready 1 2 3) {})).seesPage (.pf .A) ⟨.core, c, coreP c⟩ = true) ∧
    (∃ c : Fin 17, (lone c { zeroing := true }).coreClocked c = true ∧ ((lone c { zeroing := true }).core c).zeroing = true) := by
  obtain ⟨c, e⟩ := an_enabled_core
  have up : ∀ c : Fin 17, (lone c (coreWith 0 (ready 1 2 3) {})).reaches (.pf .A) ⟨.core, c, coreP c⟩ = true := by decide +kernel
  refine ⟨⟨c, ?_⟩, ⟨c, ?_, congrArg Core.zeroing (core_lone c { zeroing := true } [])⟩⟩
  · unfold State.seesPage; rw [up c]; simp [e, fnIsVf]
  · unfold State.coreClocked; rw [e]; simp [lone]

/-- A SCORE descriptor of no candidates, int8, DIM 1, with its query. -/
def score0 : List Byte := leBytes 8 (2 ^ 13 + 2 ^ 40) ++ leBytes 4 1 ++ leBytes 4 0 ++ leBytes 4 0x10000 ++ leBytes 4 0x10040 ++ zeros 40
def desc0 (b : List Byte) : QDesc :=
  { bytes := b, ctx := 0, pc := 0, group := 0, gen := 0, spec := false, hop := 0, epoch := 0, seq := 5, ord := 0 }
def engined (e : Engine) : Core := { coreWith 0 { ready 0 0 0 with st := .waitEngine, wait := .engine 1 (15 + 5 * 16) } grp1 with
  engines := Tab.set (fun _ => ({} : Engine)) Tab.empty 15 e }

theorem witness_DescriptorsRunAndEnd :
    awake (engined { queue := [desc0 score0] }) [(0x3000 + 0x200, 0x1)] (fun s c => s.engPaused c 15 = false ∧
      ((s.core c).eng 15).queue = [desc0 score0] ∧ ((s.core c).eng 15).run = none ∧
      s.descCheck c ((s.core c).eng 15) (desc0 score0) = 0 ∧ s.foreignList c (s.descList c (desc0 score0)) (some 0) = false) ∧
    awake (engined { queue := [desc0 (zeros 64)] }) [] (fun s c => s.descCheck c ((s.core c).eng 15) (desc0 (zeros 64)) ≠ 0) ∧
    awake (engined { run := some { d := desc0 score0 } }) [] (fun s c => ((s.core c).eng 15).run = some { d := desc0 score0 } ∧
      ({ d := desc0 score0 } : Running).ended = true ∧ s.engPaused c 15 = false ∧
      (s.thr c 0).st = .waitEngine ∧ (s.thr c 0).wait = .engine 1 (15 + (desc0 score0).seq * 16)) ∧
    EFmt.int8.isInt = true := by
  refine ⟨awake_of (by decide) ?_, awake_of (by decide) ?_, awake_of (by decide) ?_, rfl⟩ <;> decide +kernel

def running (o : Bool) : Core :=
  { engined { run := some { d := desc0 score0, list := 63, toList := true, out := [(9, 0)] } } with
    lists := Tab.set (fun _ => ({} : ColList)) Tab.empty 63 { isOpen := o, cfg := 0x04000201, sealing := true } }

theorem witness_CollatorTakesAndSeals :
    awake (running true) [] (fun s c => ∃ r, ((s.core c).eng 15).run = some r ∧ r.out = [(9, 0)] ∧ r.d.spec = false ∧
      (s.core c).colTurn 15 = true ∧ s.reachesList c r.list r.d.ctx r.d.group r.d.gen = true) ∧
    awake (running false) [] (fun s c => ∃ r, ((s.core c).eng 15).run = some r ∧ r.out = [(9, 0)] ∧ (s.core c).colTurn 15 = true ∧
      s.reachesList c r.list r.d.ctx r.d.group r.d.gen = false) ∧
    awake (running true) [] (fun s c => ((s.core c).list 63).isOpen = true ∧ ((s.core c).list 63).sealing = true ∧
      ((s.core c).list 63).reopen = none ∧
      s.badArea c (lcLine ((s.core c).list 63).cfg * 64) (64 + 16 * lcK ((s.core c).list 63).cfg) = false ∧
      (s.grp c 0).done = false ∧ (s.grp c 0).killed = false) ∧
    (∃ l : ColList, l.entries.length ≤ lcK l.cfg ∧ lcK l.cfg < 65536) := by
  refine ⟨awake_of (by decide) ?_, awake_of (by decide) ?_, awake_of (by decide) ?_, ⟨{ cfg := 0x201, entries := [(7, 0)] }, by decide⟩⟩
  · intro c
    refine ⟨_, by rw [core_lone]; rfl, rfl, rfl, ?_, ?_⟩ <;> (revert c; decide +kernel)
  · intro c
    refine ⟨_, by rw [core_lone]; rfl, rfl, ?_, ?_⟩ <;> (revert c; decide +kernel)
  · decide +kernel

def q0 : Query := { part := 0, cidx := 0, cls := zeros 64, epoch := 0, version := 0, publish := 0, t0 := 0, src := .ring 0, cq := 0, cqGen := 0,
                    sqHead := 0, req := zeros 64, reqAddr := 0, stage := .search, busy := true, fan := [0], waiting := [0], recs := [], members := [],
                    remote := [], record := [], err := 0, wcet := 0 }
def asked (s : State) (q : Query) : State := { s with desk := { s.desk with queries := Tab.set (fun _ => none) Tab.empty 3 (some q) } }

theorem witness_ReportsAndMerges :
    (let x : Report := { tag := 3, line := some 4 }
     let s := asked (lone 0 { freed := [x] }) { q0 with recs := [(1, 9)] }
     (s.core 0).freed = [x] ∧ s.query 3 = some { q0 with recs := [(1, 9)] } ∧ q0.stage = .search ∧ x.kind = 0 ∧ q0.waiting = [0] ∧
       (s.dk q0.part).gens.any (fun g => decide (g.tag = 3)) = false ∧ (s.dk q0.part).step = none) ∧
    (let x : Report := { tag := 3, kind := 1 }
     let s := asked (lone 0 { freed := [x] }) q0
     (s.core 0).freed = [x] ∧ s.query 3 = some q0 ∧ x.failed = false ∧ q0.stage ≠ .rank ∧ x.kind = 1) ∧
    (∀ d : Bool, let x : Report := { tag := 3, kind := 1, step := 1029, failed := true, done := d }
     let y : Step := { model := 1, tags := [3], cols := 1, rt := true, layer := 5, left := [0] }
     let s := asked { lone 0 { freed := [x] } with deskP := Tab.set (fun _ => {}) Tab.empty 0 { step := some y, stepNo := 1 } } q0
     (s.core 0).freed = [x] ∧ s.query 3 = some q0 ∧ s.stepPart 0 x.kind x.step = some 0 ∧ (s.dk 0).step = some y) ∧
    (let m : Merge := { part := 0, tag := 3, srcs := [.held (zeros 64)], kOut := 1, dedup := false, dest := none, bulk := none }
     let s := { asked base q0 with merges := [m] }
     s.query m.tag = some q0 ∧ ((s.nextMerge []).checkSrcs 0 m.srcs).2.1 ≠ 0) ∧
    (let m : Merge := { part := 0, tag := 3, srcs := [], kOut := 1, dedup := false, dest := none, bulk := none }
     let s := ({ asked base q0 with merges := [m] } : State).modDesk (fun d => { d with mergeQ := [m] })
     s.desk.mergeQ = [m] ∧ ((s.nextMerge []).checkSrcs 0 m.srcs).2.1 = 0 ∧ agree ((s.nextMerge []).checkSrcs 0 m.srcs).2.2 = true) := by
  decide +kernel

/-- Values in force, bytes in the tiers, the Desk's state of partition 0. -/
def inR (s : State) (ws : List (Nat × Word)) : State := { s with regs := ws.foldl (fun t w => Tab.set regReset t w.1 w.2) s.regs }
def inF (s : State) (ws : List (Nat × Word)) : State := { s with force := ws.foldl (fun t w => Tab.set regReset t w.1 w.2) s.force }
def holding (s : State) (a : Word) (bs : List Byte) : State := s.devWrite 0 a bs
def desked (s : State) (d : DeskPart) : State := { s with deskP := Tab.set (fun _ => {}) Tab.empty 0 d }
/-- A long-operation request of partition 0 in slot 0, at 0x1000. -/
def wants (s : State) (bs : List Byte) : State :=
  (holding s 0x1000 bs).modPart 0 (fun x => { x with losw := Tab.set (fun _ => {}) x.losw 0 { req := 0x1000 } })
def formatted (s : State) : State := s.modNs 0 (fun n => { n with formatted := true, mounted := true, cap := 0x100000 })

/-- A tombstone log of four records at 0x3000 with one written, an empty index root at 0x2000. -/
def logged : State := holding (holding (inF base [(0x4108, 0x2000)]) 0x2000 (leBytes 4 1 ++ zeros 16 ++ leBytes 4 4 ++ leBytes 8 0x3000)) 0x3000
  (leBytes 4 7 ++ leBytes 4 0)
def vrec1 : List Byte := let r := leBytes 4 1 ++ zeros 24; r ++ leBytes 4 (crc32c r)
def commits : List Byte := leBytes 8 0x4000 ++ zeros 16 ++ leBytes 8 (2 ^ 49) ++ zeros 32
def pfe : PfEntry := { id := 7, stale := false, addr := 0, filled := true, data := zeros 128, bad := (false, false), waits := [(1, 0, 0x2000)] }

theorem witness_PublicationAndSnapshots :
    (let s := logged
     (s.dk 0).pubNext = none ∧ s.idxRoot 0 ≠ 0 ∧ s.inAlloc 0 (s.idxRoot 0) 256 = true ∧
     (let r := s.devRead 0 (s.idxRoot 0) 64;
      r.2.2 = false ∧ (s.dk 0).published < leAt r.2.1 0 4 ∧
      (r.1.readLog 0 (wAt r.2.1 24) (leAt r.2.1 20 4) (leAt r.2.1 0 4) (leAt r.2.1 20 4) 0 0).2.2.2 = .done)) ∧
    ((desked base { pubNext := some (1, 1) }).dk 0).pubNext = some (1, 1) ∧
    (let r : Req := { kind := .prefetch, ctx := 1, len := 128, lines := Tab.set (fun _ => false) (Tab.set (fun _ => false) Tab.empty 0 true) 1 true }
     let s := under base r
     s.req 7 = some r ∧ (List.range r.nLines).all r.lineDone = true) ∧
    (let s := lone 0 { prefetch := [pfe] }
     (s.core 0).prefetch.find? (fun e => decide (e.id = 7)) = some pfe ∧ pfe.waits = [(1, 0, 0x2000)]) ∧
    (let s := holding (wants base commits) 0x4000 vrec1
     let vr := (slotRequest s (.pf .A) 0 0 1 64).1.devRead 0 0x4000 32
     (s.dk 0).snap = none ∧ mayStart s (.pf .A) 0 0 ∧ asks s (.pf .A) 0 0 1 64 commits ∧ s.inAlloc 0 0x4000 32 = true ∧
     s.inAlloc 0 (2 ^ 49) 4096 = true ∧ vr.2.2 = false ∧ (s.dk 0).vrecOk vr.2.1 = true ∧ (vr.1.degreeOk 0 vr.2.1).2 = true ∧
     s.queriesOf 0 = []) ∧
    (∀ w : Bool, let q : Snap := ⟨0, vrec1, 2 ^ 49, [], w⟩
     let s := formatted (desked base { snap := some q })
     (s.dk 0).snap = some q ∧ q.units = [] ∧ q.wrote = w ∧ (s.ns 0).takesWrite = true) ∧
    ((desked base { snap := some ⟨0, vrec1, 2 ^ 49, [], false⟩ }).ns 0).takesWrite = false := by
  unfold mayStart asks
  decide +kernel

theorem witness_DeskAdmits :
    (let s := inF base [(0x4118, 0x8000), (0x4120, 0x200)]
     ringLog2 s 0 ≠ 0 ∧ (s.part 0).reset = none ∧ (s.dk 0).ringHead < 2 ^ 64) ∧
    (let s := holding (inF base [(0x4118, 0x8000), (0x4120, 0x200)]) 0x8040 (zeros 56 ++ leBytes 8 1)
     s.inAlloc 0 0x8040 64 = true ∧ (s.readBy 0 0x8040 64).2.2 = false ∧ leAt (s.readBy 0 0x8040 64).2.1 56 8 = 1) ∧
    (let m : Msg := ⟨1, 0, 15, 0, 0, zeros 96⟩
     let s := { base with desk := { base.desk with fabric := [m] } }
     (s.pickSq 0).isNone = true ∧ (s.pickSq 1).isNone = true ∧ (∀ q : Fin 16, (s.dk q).intake = []) ∧ m.node ≠ s.node ∧ m.dst < 16 ∧
       s.admitCode m.dst (.fabric 1 0) m.bytes (decide (m.bytes.length < 64)) ≠ 0) ∧
    (let m : Msg := ⟨1, 0, 0, 0, 0, zeros 4 ++ leBytes 4 1 ++ zeros 88⟩
     let s := desked (inF base [(0x4120, 0x10000000001)]) { classes := [leBytes 2 1 ++ leBytes 2 4 ++ zeros 60] }
     let s := { s with desk := { s.desk with fabric := [m] } }
     s.admitCode 0 (.fabric 1 0) m.bytes (decide (m.bytes.length < 64)) = 0) := by
  decide +kernel

/-- A query that another node asked, admitted, of a class with these flags and a fan-out of `n`. -/
def qAdm (flags n : Nat) : Query :=
  { q0 with stage := .admitted, busy := false, req := zeros 96, cls := leBytes 2 flags ++ leBytes 2 4 ++ zeros 2 ++ leBytes 1 n ++ zeros 57 }

theorem witness_DeskRunsQueries :
    awake {} [] (fun s c => let t := desked s { held := [(c, zeros 64)] }
      t.coreOwner c = some 0 ∧ t.takesItems c = true ∧ takeHeld (t.core c) c (t.dk 0).held false false = some (zeros 64, [])) ∧
    awake {} [] (fun s c => let t := asked s (qAdm 0x9 1)
      t.query 3 = some (qAdm 0x9 1) ∧ clFlag (qAdm 0x9 1).cls 2 = false ∧ clSearch (qAdm 0x9 1).cls ≠ 0 ∧ isHome (qAdm 0x9 1) = false ∧
      clFan (qAdm 0x9 1).cls ≤ (t.takers 0).length ∧ c ∈ t.takers 0) ∧
    (let t := asked base (qAdm 0x9 145)
     t.query 3 = some (qAdm 0x9 145) ∧ (t.takers 0).length < clFan (qAdm 0x9 145).cls) ∧
    ((asked base (qAdm 0x5 1)).query 3 = some (qAdm 0x5 1) ∧ clFlag (qAdm 0x5 1).cls 2 = true ∧ bit (leAt (qAdm 0x5 1).req 2 2) 0 = false) ∧
    (asked base { q0 with err := 0x105 }).query 3 = some { q0 with err := 0x105 } ∧
    (asked base { q0 with stage := .report, busy := false }).query 3 = some { q0 with stage := .report, busy := false } := by
  refine ⟨awake_of (by decide) (by decide +kernel), ?_, ⟨by decide +kernel, ?_⟩, by decide +kernel, by decide +kernel, by decide +kernel⟩
  · obtain ⟨c, e⟩ := an_enabled_core
    have rdy := ready_lone c {} [] e rfl rfl
    have own : ∀ c : Fin 17, (c : Nat) ∈ (asked (lone c {}) (qAdm 0x9 1)).coresOf 0 ∧
      ((asked (lone c {}) (qAdm 0x9 1)).reg (coreP c + 8)).getLsbD 1 = false := by decide +kernel
    have h : (c : Nat) ∈ (asked (lone c {}) (qAdm 0x9 1)).takers 0 := by
      unfold State.takers
      rw [List.mem_filter]
      refine ⟨(own c).1, ?_⟩
      rw [(own c).2]
      have : (asked (lone c {}) (qAdm 0x9 1)).coreReady c = (lone c {}).coreReady c := rfl
      rw [this, rdy]; rfl
    refine ⟨c, e, rdy, ?_, by decide, by decide, by decide, ?_, h⟩
    · exact Tab.get_set_same ..
    · have : clFan (qAdm 0x9 1).cls = 1 := by decide
      rw [this]; exact List.length_pos_of_mem h
  · have h : ∀ t : State, (t.takers 0).length ≤ 144 := fun t =>
      le_trans (List.length_filter_le ..) (le_trans (List.length_filter_le ..) (by simp))
    exact lt_of_le_of_lt (h _) (by decide)

def step0 (plan : List Byte) (layer : Nat) (b : Bool) : Step := { model := 1, plan := plan, tags := [3], cols := 1, rt := true, layer := layer, begun := b }
/-- A plan of one MATRIX layer. -/
def plan1 : List Byte := leBytes 4 1 ++ zeros 60 ++ zeros 64
/-- A partition with model 1, a query and a step under way, or ready. -/
def modelled (d : DeskPart) : State := asked (desked base { d with models := [([], []), (zeros 64, plan1)] }) q0
def stepping (x : Step) (r : List Step) : State := modelled { step := some x, ready := r }

theorem witness_ModelSteps :
    (let s := modelled { ready := [step0 plan1 0 false, { step0 plan1 0 false with rt := false }] }
     (s.dk 0).step = none ∧ (s.dk 0).pendCfg = false ∧ (s.part 0).reset = none ∧ (s.dk 0).ready ≠ [] ∧
       ∀ x ∈ (s.dk 0).ready, s.planOf 0 x.model ≠ []) ∧
    (let x := step0 plan1 0 false
     let s := stepping x []
     (s.dk 0).step = some x ∧ x.left = [] ∧ x.wreq = [] ∧ x.todo = [] ∧ x.poison = false ∧ s.stepQuery x = some (3, q0) ∧
       lyKind (plLayer x.plan x.layer) = 0) ∧
    (let x := { step0 plan1 0 false with wreq := [9] }
     ((stepping x []).dk 0).step = some x ∧ x.left = [] ∧ x.begun = false) ∧
    (let x := step0 plan1 0 true
     ((stepping x []).dk 0).step = some x ∧ x.failed = 0 ∧ plLayers x.plan ≤ x.layer + 1 ∧ plGen x.plan = false ∧ 3 ∈ x.all ∧
       (stepping x []).query 3 = some q0) ∧
    (let s := asked (desked base { gens := [⟨3, 2, 1⟩] }) q0
     (s.dk 0).gens = [⟨3, 2, 1⟩] ∧ (s.dk 0).ready = [] ∧ (s.dk 0).step = none ∧ s.query 3 = some q0) := by
  decide +kernel

/-- A read and a write of tier 0 under way, with the scratch's copy of the write's source. -/
def reading : Req := { kind := .rda, ctx := 1, addr := 0x40, len := 64 }
def writing : Req := { kind := .wra, ctx := 1, loc := 0x10000, addr := 0x40, len := 64, blocks := Tab.set (fun _ => false) Tab.empty 0 true }
def damagedLine : State := { base with memBad := Tab.set (fun _ => false) Tab.empty (physKey 0 64 / 64) true }

theorem witness_TierReads :
    (let s := under base reading
     let t := s.reach 7
     ∃ r, t.req 7 = some r ∧ readsTier r.kind = true ∧ 0 < r.nLines ∧ r.lineDone 0 = false ∧ s.mapBad 0 (r.lineAddr 0) = false ∧
     t.lineWaits 7 r 0 = false ∧ s.locate 0 (r.lineAddr 0) = some (.phys 0 64) ∧ s.zeroingPiece 0 = false ∧
     Tab.get (fun _ => false) s.memBad (physKey 0 64 / 64) = false) ∧
    (damagedLine.locate 0 0x40 = some (.phys 0 64) ∧ Tab.get (fun _ => false) damagedLine.memBad (physKey 0 64 / 64) = true) ∧
    (1 * 64 < base.pieceCap 0 ∧ base.zeroingPiece 0 = false ∧ base.windowLine 0 1 = none) ∧
    ({ base with zeroing := Tab.set (fun _ => false) Tab.empty 59 true } : State).zeroingPiece 59 = true := by
  refine ⟨⟨{ reading with reached := true }, ?_⟩, ?_, ?_, ?_⟩ <;> decide +kernel

theorem witness_TierWrites :
    (let s := under base writing
     let t := s.reach 7
     ∃ r, t.req 7 = some r ∧ r.canWrite 0 = true ∧ r.range = none ∧ r.addr.toNat % 64 = 0 ∧ r.len % 64 = 0 ∧
     s.locate 0 (r.lineAddr 0) = some (.phys 0 64) ∧ s.zeroingPiece 0 = false ∧ s.mapBad 0 (r.lineAddr 0) = false ∧
     t.lineWaits 7 r 0 = false ∧ t.halfRead 0 (r.lineAddr 0) = false ∧ Mem.bytes r.old 0 64 = s.scr 0 0x10000 64 ∧
     (Core.words 0 64).any (fun w => Tab.get (fun _ => false) r.oldBad w) = false ∧ (s.core 0).check 0x10000 64 = (0, false, false)) ∧
    (let r : Req := { kind := .atom, ctx := 1, addr := 0x40, size := 8, op := 1, a := 5 }
     let s := under base r
     s.req 7 = some r ∧ r.answered = false ∧ s.lineWaits 7 r 0 = false ∧ s.locate 0 r.addr = some (.phys 0 64) ∧
     Tab.get (fun _ => false) s.memBad (physKey 0 64 / 64) = false ∧ (s.peek 0 r.addr 8).2 = false) ∧
    (let s := inR base [(0x9C00, 1)]
     s.bar2 (.pf .A) 0x7C 4 = some (0, 0x7C) ∧ s.locate 0 0x7C = some (.phys 0 0x7C) ∧ s.mapBad 0 0x7C = false ∧
     s.unitsAt 0 0x7C 4 = [] ∧ (s.bar2 (.pf .A) 0xFFC 4).isSome = true ∧ (s.bar2 (.pf .A) 0xFFD 4).isNone = true) := by
  refine ⟨⟨{ writing with reached := true }, ?_⟩, ?_, ?_⟩ <;> decide +kernel

/-- A request of slot 0 at 0x1000 of the space of a UNIFIED partition, whose pages start in tier 1. -/
def uni : State := inF base [(0x9100, 0x40004000004001)]
def wantsAt (s : State) (a : Word) (bs : List Byte) : State :=
  (holding s a bs).modPart 0 (fun x => { x with losw := Tab.set (fun _ => {}) x.losw 0 { req := a } })
def space3 (n : Nat) : Word := BitVec.ofNat 64 (3 * 2 ^ 48 + n)
def batch1 : List Byte := leBytes 8 (space3 0x8000).toNat ++ leBytes 4 1 ++ zeros 4
def late (s : State) : State := { s with clk := 0x100000000 }
def pageMove : Move := { ext := false, num := 5, dst := 0, slot := 2 }
def tiered (s : State) (x : TierPart) : State := { s with tierP := Tab.set (fun _ => {}) Tab.empty 0 x }

theorem witness_Migration :
    (base.unified 0 = false ∧ (let s := late (tiered uni { pcnt := Tab.set z0 Tab.empty 3 9 })
      let period := 100 * min 10000 (max 100 (fld (s.reg 0x9040) 4 16))
      s.unified 0 = true ∧ Tab.wf z0 (s.tp 0).pcnt = true ∧ (s.tp 0).periodAt.toNat / period < s.clk.toNat / period ∧
      (base.tp 0).periodAt.toNat / period = base.clk.toNat / period)) ∧
    (let s := tiered uni { move := some pageMove }
     (s.tp 0).move = some pageMove ∧ (s.tp 0).batch = none ∧ (s.tp 0).moveQ = []) ∧
    (mayStart (wants base (batch1)) (.pf .A) 0 0 ∧ asks (wants base batch1) (.pf .A) 0 0 4 16 batch1 ∧ (wants base batch1).unified 0 = false) ∧
    (let s := wantsAt (tiered uni { base1 := 64, batch := some ⟨3, [], false⟩ }) (space3 0x1000) batch1
     mayStart s (.pf .A) 0 0 ∧ asks s (.pf .A) 0 0 4 16 batch1 ∧ s.unified 0 = true ∧ (s.tp 0).batch ≠ none) ∧
    (let s := wantsAt (holding (tiered uni { base1 := 64, move := some pageMove }) (space3 0x8000) (leBytes 8 (space3 0).toNat ++ leBytes 4 1 ++ zeros 4)) (space3 0x1000) batch1
     mayStart s (.pf .A) 0 0 ∧ asks s (.pf .A) 0 0 4 16 batch1 ∧ s.unified 0 = true ∧ (s.tp 0).batch = none ∧ (s.tp 0).move ≠ none ∧
     s.inAlloc 0 (wAt batch1 0) 16 = true ∧
     (let e := (slotRequest s (.pf .A) 0 0 4 16).1.devRead 0 (wAt batch1 0) 16
      e.2.2 = false ∧ (batchEntries (s.uSize 0) [(e.2.1.drop 0).take 16]).isSome = true)) := by
  unfold mayStart asks
  refine ⟨?_, ?_, ?_, ?_, ?_⟩ <;> decide +kernel

def tru (l : List Nat) : Tab Bool := l.foldl (fun t k => Tab.set (fun _ => false) t k true) Tab.empty
/-- A read and a write of one block of a compression range of 8:1 blocks of fp32. -/
def rangedRead : Req := { kind := .rda, ctx := 1, addr := 0, len := 128, reached := true, range := some (3, 1), lines := tru [0, 1, 2] }
def rangedWrite : Req := { kind := .wra, ctx := 1, loc := 0x10000, addr := 0, len := 128, reached := true, range := some (3, 1) }
/-- A table whose first code is 1.0. -/
def mould1 : List Byte := leBytes 2 0x3C00 ++ zeros 126
/-- Tables 0 to 7 of Expander 0 are partition 0's, and table 0 of bank 0 is loaded. -/
def moulded : State := (inR base [(expP 0 + 0x40, 0x8080808080808080)]).modExp 0 (fun e => { e with tables := Tab.set (fun _ => none) e.tables 0 (some mould1) })
def loads (ts : Nat) : List Byte := leBytes 8 0x4000 ++ leBytes 4 ts ++ leBytes 4 1 ++ zeros 16
def image1 : List Byte := mould1 ++ leBytes 4 (crc32c mould1) ++ zeros 60
def mload1 : MLoad := ⟨0, 0, [(0, mould1)], [0, 1], 0⟩

theorem witness_ExpandersAndMoulds :
    (let s := under base rangedRead
     s.req 7 = some rangedRead ∧ (rangedRead.inExpander 0).isSome = true ∧ (∀ g ∈ rangedRead.inExpander 0, s.blksAhead 7 rangedRead g 0 = 0) ∧
       grants (s.blkExp rangedRead 0) (s.expander (s.blkExp rangedRead 0)).lastDec 0 (s.decWaits (s.blkExp rangedRead 0)) = true) ∧
    (let s := under base rangedWrite
     (s.reach 7).req 7 = some rangedWrite ∧
       grants ((s.reach 7).blkExp rangedWrite 0) ((s.reach 7).expander ((s.reach 7).blkExp rangedWrite 0)).lastEnc 0 ((s.reach 7).encWaits ((s.reach 7).blkExp rangedWrite 0)) = true ∧ rangedWrite.rng.isSome = true ∧ (rangedWrite.blks.map (·.2)) = some 1 ∧
     ∀ g ∈ rangedWrite.rng, s.ownsMould (s.blkExp rangedWrite 0) 0 g.mould = false) ∧
    (let s := under moulded rangedWrite
     ∀ g ∈ rangedWrite.rng, s.ownsMould (s.blkExp rangedWrite 0) 0 g.mould = true ∧
       (s.expander (s.blkExp rangedWrite 0)).table g.gen g.mould = some mould1 ∧ g.resid = false ∧
       (∀ y ∈ (List.range (g.outBytes / 64)).map (fun k => s.srcLine rangedWrite k), y.2 = false)) ∧
    (let s := holding (wants moulded (loads 1)) 0x4000 image1
     mayStart s (.pf .A) 0 0 ∧ asks s (.pf .A) 0 0 8 32 (loads 1) ∧ maskBits (leAt (loads 1) 8 4) 32 = [0] ∧ maskBits (leAt (loads 1) 12 4) 20 = [0] ∧
     s.inAlloc 0 0x4000 192 = true ∧ s.mload 0 = none ∧ s.ownsMould 0 0 0 = true ∧ ((slotRequest s (.pf .A) 0 0 8 32).1.devRead 0 0x4000 192).2 = (image1, false) ∧
     leAt image1 128 4 = crc32c (image1.take 128) ∧ goodMould mould1 = true ∧ bAt (loads 1) 16 < 2) ∧
    (moulded.ownsMould 0 0 8 = false ∧ maskBits (leAt (loads 256) 8 4) 32 = [8]) ∧
    ((base.setMload 0 (some mload1)).mload 0 = some mload1 ∧ mload1.targets[mload1.idx]? = some 0 ∧
      (base.setMload 0 (some mload1)).tableBusy 0 0 0 = false) ∧
    (let s := under base { rangedRead with stored := Mem.ofBytes (zeros 192) }
     s.tableBusy 0 0 0 = true) ∧
    (fnIsVf (.pf .A) = false ∧ base.seesPage (.pf .A) (expPage 0) = true) := by
  unfold mayStart asks
  decide +kernel

def car0 (op : Nat) (done : Bool) : CarCmd := { bytes := leBytes 1 op ++ zeros 63, opnd := zeros 64, done := done }
/-- Module 0 is a Carrel module, its channel enabled with a ring of four slots at 0x8000. -/
def carrelled (x : Carrel) : State :=
  let s := inR (inF base [(carP 0 + 0x48, 0x201), (carP 0 + 0x40, 0x8000)]) [(mcP 0 + 0x40, 2), (carP 0 + 0x48, 0x201)]
  { s with carrel := Tab.set (fun _ => ({} : Carrel)) Tab.empty 0 x }

theorem witness_CarrelCommands :
    (base.chanOwner 0 = some 0 ∧ (base.inForce (carP 0 + 0x48)).getLsbD 0 = false) ∧
    (let s := holding (carrelled {}) 0x8040 (leBytes 1 1 ++ zeros 55 ++ leBytes 8 1)
     s.chanOwner 0 = some 0 ∧ (s.inForce (carP 0 + 0x48)).getLsbD 0 = true ∧ s.isCarrel 0 = true ∧ s.inAlloc 0 0x8040 64 = true ∧
       (s.devRead 0 0x8040 64).2.2 = false ∧ caSeq (s.devRead 0 0x8040 64).2.1 = 1 ∧ s.seesCarrel (.pf .A) 0 = true) ∧
    (∀ op ∈ [1, 2, 3], ∀ d : Bool, let s := carrelled { run := some (car0 op d) }
     (s.car 0).run = some (car0 op d) ∧ (car0 op d).done = d ∧ s.pwr.brownout = false ∧ caOp (car0 op d).bytes = op) := by
  decide +kernel

/-- Partition 0 has Gather unit 0. -/
def gathered (x : GuPart) : State :=
  let s := inF base [(guCfg 0 0, 0x80201), (guCfg 0 0 + 8, 0x8000)]
  { s with gus := Tab.set (fun _ => {}) s.gus 0 x }
/-- A batch of one index at 0x4000, its output at 0x6000; an update's gradients at `data`. -/
def gb (op data : Nat) : GBatch :=
  { bytes := leBytes 1 op ++ zeros 3 ++ leBytes 4 1 ++ leBytes 8 0x4000 ++ leBytes 8 data ++ zeros 8 ++ leBytes 8 0x6000 ++ zeros 24
    epoch := 0, since := 0, remote := [], rows := [], begun := false, done := false, status := 0, unique := 0, nremote := 0, layer := false }
/-- A table of one component of 2^10 rows of 16 fp32, SGD, in `n` shards. -/
def table1 (n : Nat) : List Byte := leBytes 1 0x13 ++ leBytes 1 9 ++ leBytes 2 16 ++ leBytes 1 10 ++ zeros 2 ++ leBytes 1 n ++ zeros 16 ++
  leBytes 8 0x100000 ++ zeros 24 ++ leBytes 4 1 ++ zeros 68
def ofTable (d : List Byte) (x : GuPart) : GuPart := { x with tables := Tab.set (fun _ => []) Tab.empty 0 d }

theorem witness_GatherBatches :
    (let s := holding (gathered {}) 0x8040 (zeros 56 ++ leBytes 8 1)
     s.guOf 0 = some 0 ∧ (s.part 0).reset = none ∧ s.inAlloc 0 0x8040 64 = true ∧ (s.devRead 0 0x8040 64).2.2 = false ∧ leAt (s.devRead 0 0x8040 64).2.1 56 8 = 1) ∧
    (∀ b ∈ [gb 1 0, gb 2 0x5000], let s := gathered (ofTable (table1 1) { queue := [b] })
     (s.gu 0).queue = [b] ∧ s.guMayStart 0 0 b.bytes = true ∧ b.remote = [] ∧ s.gbCheck 0 b.bytes = 0 ∧ gbPool b.bytes = false ∧
     tdMode (table1 1) ≠ 2 ∧ uniqueRows (table1 1) (s.gbIndices 0 b.bytes) ≠ [] ∧
     (uniqueRows (table1 1) (s.gbIndices 0 b.bytes)).all (fun y => decide (rowOwner (table1 1) y.2 = tdMember (table1 1))) = true) ∧
    (∀ b ∈ [gb 1 0, gb 2 0x5000], let s := gathered { queue := [b] }
     s.guMayStart 0 0 b.bytes = true ∧ s.gbCheck 0 b.bytes = 0x0702) ∧
    (∀ b ∈ [gb 1 0, gb 2 0x5000], let s := gathered (ofTable ((table1 2).set 62 1) { queue := [b] })
     s.guMayStart 0 0 b.bytes = true ∧ s.gbCheck 0 b.bytes = 0 ∧
     s.membersThere 0 b.epoch ((table1 2).set 62 1) (uniqueRows ((table1 2).set 62 1) (s.gbIndices 0 b.bytes)) = false) ∧
    (∀ d : Bool, ((gathered { cur := some { gb 1 0 with done := d } }).gu 0).cur = some { gb 1 0 with done := d }) := by
  decide +kernel

def rowMsg (op : Nat) : Msg := ⟨1, 0, 0, 0, 0, leBytes 1 op ++ zeros 15 ++ leBytes 4 9 ++ zeros 44⟩
/-- A gradient for row 0 of table 0, of this version of it. -/
def gradMsg (v : Nat) : Msg := ⟨1, 0, 0, 0, 0, zeros 2 ++ leBytes 2 16 ++ leBytes 4 v ++ zeros 72⟩
def heard (s : State) (k : Bool) (m : Msg) : State := { s with gather := [(k, m)] }
def repl1 : Repl := ⟨0, 0, zeros 128, true⟩
def replaces : List Byte := zeros 8 ++ leBytes 8 0x4000 ++ zeros 16

theorem witness_SharedRowsAndTables :
    (takeFirst (isRow 2) (heard base false (rowMsg 2)).gather = some ((false, rowMsg 2), []) ∧ (rowMsg 2).node ≠ base.node) ∧
    (let b := { gb 1 0 with remote := [(0, 5, 1, 9)] }
     let s := heard (gathered { cur := some b }) false (rowMsg 3)
     takeFirst (isRow 3) s.gather = some ((false, rowMsg 3), []) ∧ (s.gu 0).cur = some b ∧
       b.remote.find? (fun z => decide (z.2.2.2 = leAt (rowMsg 3).bytes 16 4)) = some (0, 5, 1, 9)) ∧
    (∀ v ∈ [1, 2], let s := heard (gathered (ofTable (table1 1) {})) true (gradMsg v)
     takeFirst (fun z : Bool × Msg => z.1) s.gather = some ((true, gradMsg v), []) ∧ s.guOf 0 = some 0 ∧ (s.gu 0).holds 0 = false ∧
       (s.gu 0).table 0 = table1 1 ∧ leAt (gradMsg v).bytes 4 4 = v ∧ tdVersion (table1 1) = 1 ∧ tdOpt (table1 1) ≠ 0 ∧
       leAt (gradMsg v).bytes 2 2 = tdDim (table1 1) ∧ leAt (gradMsg v).bytes 8 8 < 2 ^ tdLog2 (table1 1) 0) ∧
    (let s := late (gathered { sketch := Tab.set z0 Tab.empty 5 9 })
     let period := 100 * min 100000 (max 100 (fld (s.reg (guP 0 + 0x48)) 16 20))
     s.guOf 0 = some 0 ∧ Tab.wf z0 (s.gu 0).sketch = true ∧ s.guOf 1 = none ∧ (s.gu 0).hotAt.toNat / period < s.clk.toNat / period) ∧
    (let s := wants base replaces
     mayStart s (.pf .A) 0 0 ∧ asks s (.pf .A) 0 0 2 32 replaces ∧ (s.gu 0).repl = none ∧ s.inAlloc 0 0x4000 128 = true ∧ ((slotRequest s (.pf .A) 0 0 2 32).1.devRead 0 0x4000 128).2.2 = false ∧
       tdValid ((slotRequest s (.pf .A) 0 0 2 32).1.devRead 0 0x4000 128).2.1 = false) ∧
    (let s := gathered { repl := some repl1 }
     (s.gu 0).repl = some repl1 ∧ (s.gu 0).queue ++ (s.gu 0).cur.toList = []) ∧
    (let s := gathered { repl := some repl1, queue := [gb 1 0] }
     ∃ b ∈ (s.gu 0).queue ++ (s.gu 0).cur.toList, gbTable b.bytes = repl1.table) ∧
    (let s := gathered { heldB := [gb 1 0] }
     (s.gu 0).heldB = [gb 1 0] ∧ (s.gu 0).heldG = [] ∧ s.heldTooLong 0 0 = false ∧ ({ s with clk := 0x100000000 } : State).heldTooLong 0 0 = true) ∧
    (let s := gathered { heldG := [gradMsg 1] }
     (s.gu 0).heldB = [] ∧ (s.gu 0).heldG = [gradMsg 1] ∧ s.guOf 0 = some 0 ∧ s.heldTooLong 0 (gradMsg 1).since = false ∧
       ({ s with clk := 0x100000000 } : State).heldTooLong 0 (gradMsg 1).since = true) := by
  unfold mayStart asks
  refine ⟨?_, ?_, ?_, ?_, ?_, ?_, ⟨gb 1 0, ?_, ?_⟩, ?_, ?_⟩ <;> decide +kernel

def nsd (s : State) (n : Ns) : State := s.modNs 0 (fun _ => n)
def ns1 : Ns := { formatted := true, mounted := true, cap := 0x100000, dataSb := 8 }
/-- A read and a write of logical unit 3 of tier 2 under way. -/
def tier2 (n : Nat) : Word := BitVec.ofNat 64 (2 * 2 ^ 48 + n)
def readT2 : Req := { kind := .rda, ctx := 1, addr := tier2 0x3000, len := 64, reached := true }
def writeT2 : Req := { kind := .wra, ctx := 1, loc := 0x10000, addr := tier2 0x3000, len := 64, reached := true, blocks := tru [0] }
def cw3 (d : List Byte) : Codeword := ⟨3, 1, 0, d⟩
def inFlash (d : List Byte) : Ns := { ns1 with map := Tab.set z0 Tab.empty 3 1, cws := Tab.set (fun _ => none) Tab.empty 0 (some (cw3 d)) }
/-- Staging room for a unit. -/
def roomy (s : State) : State := inF s [(0x61040, 16)]

theorem witness_ArchiveReadsAndWrites :
    (let s := nsd (roomy (under base writeT2)) ns1
     (s.reach 7).req 7 = some writeT2 ∧ s.locate 0 (writeT2.lineAddr 0) = some (.arch 0x3000) ∧ s.mapBad 0 (writeT2.lineAddr 0) = false ∧
     writeT2.canWrite 0 = true ∧ (s.reach 7).lineWaits 7 writeT2 0 = false ∧ (s.reach 7).halfRead 0 (writeT2.lineAddr 0) = false ∧
     writeT2.range = none ∧ s.ns 0 = ns1 ∧ ns1.holdsWrite 3 = false ∧ s.stageRoom 0 3 = true ∧
     Mem.bytes writeT2.old 0 64 = s.scr 0 0x10000 64 ∧ (s.core 0).check 0x10000 64 = (0, false, false)) ∧
    (let s := nsd (under base readT2) ns1
     (s.reach 7).unitRead 7 0 = some (readT2, 3, [0]) ∧ (s.reach 7).lineWaits 7 readT2 0 = false ∧ s.ns 0 = ns1 ∧ ns1.cw 3 = none) ∧
    (let s := nsd (under base readT2) (inFlash (zeros 4096))
     (s.reach 7).unitRead 7 0 = some (readT2, 3, [0]) ∧ (s.ns 0).staging = [] ∧
     (s.reach 7).oldestAt 7 readT2 0 (s.cwLun 0 0) = true ∧ ((s.ns 0).cw 3).isSome = true) ∧
    (ns1.unit 3).1.length = 4096 ∧ ((inFlash (zeros 4096)).unit 3).1.length = 4096 := by
  refine ⟨by decide +kernel, by decide +kernel, by decide +kernel, ?_, ?_⟩
  · exact List.length_replicate
  · exact List.length_replicate

def staged3 (q : Nat) : Staged := { lu := 3, data := [], bad := false, seq := q }
def stripe0 : Stripe := { sb := 0, row := 0, host := true, units := [cw3 []] }
def jrec3 : JRec := ⟨1, 0, 3, 7, 4⟩
/-- Channel 0 holds one target of one LUN with 1,024 blocks of 64 pages in each of two planes. -/
def flashed : State := inR base [(fcP 0 + 0x40, 0x40000402101)]

theorem witness_StripesJournalCollection :
    (let n := { ns1 with staging := [staged3 0] }
     let s := late (nsd flashed n)
     s.ns 0 = n ∧ n.again = [] ∧ s.unitBusy 0 3 = false ∧ n.runs = true ∧ n.jFull = false ∧ s.hostHeld 0 = false ∧ n.seq ≠ 0 ∧
       s.stripeTicks ≤ (s.clk - (staged3 0).since).toNat ∧
       ∀ y ∈ n.takeRow true false (s.sbRows 0), (y.2.2.sb y.1).st ≠ .closed) ∧
    (({ ns1 with staging := [staged3 0] } : Ns).takeRow true false (flashed.sbRows 0)).isSome = true ∧
    ((nsd base { ns1 with flying := [stripe0] }).ns 0).flying = [stripe0] ∧
    (let s := late (nsd base { ns1 with jOpen := [jrec3] })
     (s.ns 0).stopped = false ∧ (s.ns 0).jFull = false ∧ (s.ns 0).jOpen ≠ [] ∧ s.journalTicks ≤ (s.clk - (s.ns 0).jAt).toNat ∧
       (base.clk - (s.ns 0).jAt).toNat < base.journalTicks) ∧
    (let n := ((nsd base { inFlash [] with jFlying := [[jrec3]], staging := [staged3 4] }).ns 0)
     n.jFlying = [[jrec3]] ∧ n.cw 3 = some (cw3 []) ∧ (cw3 []).seq ≤ jrec3.seq ∧ n.discard = none ∧ n.journal.length < 8191 ∧
       n.staging = [staged3 4] ∧ jrec3.seq ≠ 0) ∧
    (((nsd base ns1).ns 0).runs = true ∧ (base.ns 0).runs = false ∧
      (let s : State := { nsd base ns1 with clk := 0x1000000000 }; s.ckptTicks ≤ (s.clk - (s.ns 0).ckptAt).toNat) ∧
      ¬ base.ckptTicks ≤ (base.clk - (base.ns 0).ckptAt).toNat) ∧
    ((late (nsd base ns1)).idleTicks ≤ ((late (nsd base ns1)).clk - ns1.idleAt).toNat ∧ ¬ base.idleTicks ≤ (base.clk - ns1.idleAt).toNat) ∧
    (let n := { inFlash [] with victim := some 0, staticMv := true }
     let s := nsd flashed n
     s.ns 0 = n ∧ n.runs = true ∧ s.victimNow 0 = some 0 ∧ n.toCopy (n.validOf (s.sbRows 0) 0) = [0] ∧ n.named 0 = some (cw3 []) ∧
       (n.takeRow false n.staticMv (s.sbRows 0)).isSome = true ∧
       ∀ y ∈ n.takeRow false n.staticMv (s.sbRows 0), (y.2.2.sb y.1).st ≠ .closed) ∧
    (let s := nsd base { ns1 with victim := some 1, staticMv := true }
     let n := s.ns 0
     n.runs = true ∧ n.victim = some 1 ∧ s.victimNow 0 = some 1 ∧ n.erasing = none ∧ n.validOf (s.sbRows 0) 1 = [] ∧
       n.settled (s.sbRows 0) 1 = true) ∧
    (let n := (nsd base { ns1 with erasing := some 1 }).ns 0
     n.erasing = some 1 ∧ n.format = none ∧ n.staging = [] ∧ n.again = [] ∧ n.discard = none ∧ 1 ∉ n.colSb) := by
  refine ⟨?_, ?_, ?_, ?_, ?_, ?_, ?_, ?_, ?_, ?_⟩ <;> decide +kernel

/-- VFs 0 to 15 of port A are enabled. -/
def vfs : List (Nat × Word) := [(cfgP 1 + 0x1A8, 1), (cfgP 1 + 0x1B0, 16)]
/-- A discard of units 2 to 4 with these FLAGS. -/
def discards (fl : Nat) : List Byte := leBytes 8 (tier2 0x2000).toNat ++ leBytes 8 0x3000 ++ leBytes 1 fl ++ zeros 15
def sdisc : SDiscard := { slot := 0, lo := 2, hi := 5, seq := 9, accepted := false, size := 3, todo := [], done := 0, notErased := 0, atAccept := 0, begun := true }
/-- Partition 0 has flash channels and no core. -/
def coreless : State := inF base [(partSlice 0 0, 0), (partSlice 0 1, 0), (partSlice 0 2, 0)]
def formats : List Byte := leBytes 4 0xFFFFFFFF ++ zeros 12
def format1 : Format := { slot := 0, spare := 2, head := 10 }

theorem witness_DiscardFlushFormat :
    (∀ fl ∈ [0, 1], ∀ d ∈ [none, some sdisc], let s := nsd (wants base (discards fl)) { ns1 with discard := d }
     mayStart s (.pf .A) 0 0 ∧ asks s (.pf .A) 0 0 3 32 (discards fl) ∧ s.discardRange 0 (discards fl) = some (2, 5) ∧ (s.ns 0).formatted = true ∧
       (s.ns 0).flushes = [] ∧ bit (bAt (discards fl) 16) 0 = decide (fl = 1) ∧ (s.ns 0).discard = d) ∧
    (let s := wants base (discards 0)
     s.discardRange 0 (discards 0) = none ∧ asks s (.pf .A) 0 0 3 32 (discards 0)) ∧
    (let s := nsd (wants base (discards 0)) { cap := 5 }
     s.discardRange 0 (discards 0) = some (2, 5) ∧ (s.ns 0).formatted = false) ∧
    (let n := (nsd base { ns1 with discard := some sdisc }).ns 0
     n.runs = true ∧ n.discard = some sdisc ∧ sdisc.accepted = false ∧ sdisc.begun = true ∧ n.discardSet (base.sbRows 0) sdisc = [] ∧ sdisc.notErased = 0) ∧
    (let s := nsd (wants base (zeros 16)) { ns1 with staging := [staged3 0] }
     asks s (.pf .A) 0 0 9 16 (zeros 16) ∧ (s.ns 0).formatted = true ∧ 
       ((s.ns 0).staging.filter (fun x => !x.waits)).map (fun x => (x.lu, if x.seq = 0 then (s.ns 0).seq else x.seq)) = [(3, 1)] ∧ s.coresOf 0 ≠ [] ∧ asks s (.pf .A) 0 0 10 16 (zeros 16)) ∧
    (let s := nsd (wants base (zeros 16)) ns1
     asks s (.pf .A) 0 0 9 16 (zeros 16) ∧ (s.ns 0).staging = []) ∧
    (let s := wants coreless formats
     mayStart s (.pf .A) 0 0 ∧ asks s (.pf .A) 0 0 10 16 formats ∧ s.coresOf 0 = [] ∧ s.flashOf 0 ≠ [] ∧ leAt formats 0 4 = sumNat ((s.flashOf 0).map (2 ^ ·)) ∧
       bAt formats 4 = 0 ∧ bAt formats 5 = 0 ∧ zeroAt formats 6 10 = true ∧ (s.ns 0).format = none) ∧
    (let s := nsd (wants coreless formats) { ns1 with format := some format1 }
     asks s (.pf .A) 0 0 10 16 formats ∧ (s.ns 0).format ≠ none) ∧
    (∀ n ∈ [0, 1023], let s := nsd flashed { format := some { format1 with row := n } }
     (s.ns 0).format = some { format1 with row := n } ∧ format1.busy = true ∧ (s.fcGeom 0).2 = 1024) ∧
    (let s := inR (inF (wants base formats) [(bindA 0 0, 0x80)]) vfs
     mayStart s (.vf .A 0) 0 0 ∧ asks s (.vf .A 0) 0 0 10 16 formats ∧ fnIsVf (.vf .A 0) = true) := by
  unfold mayStart asks
  refine ⟨?_, ?_, ?_, ?_, ?_, ?_, ?_, ?_, ?_, ?_⟩ <;> decide +kernel

/-- Past start-up, nothing configured. -/
def started : State := { State.reset with pwr := { pwrOk := true, phase := 9 } }
/-- Ownership records, as numbers: UNUSED; OWNED by partition 0 of node 0 with SEQ 1; ORPHAN with SEQ 5. -/
def rec128 (b : List Byte) : BitVec 128 := BitVec.ofNat 128 (leNat b)
def owned1 : List Byte := ownRec 1 0 0 0 0 1 0
def orphan5 : List Byte := ownRec 3 0 0 0 0 5 0
def handed : List Byte := ownRec 2 0 1 0 1 3 0
def asksOwn (old new : List Byte) : OwnReq := ⟨0, 0, 0, 0x4000, rec128 old, rec128 new⟩
def reply1 : Msg := ⟨1, 0, 0, 0, 0, zeros 32 ++ leBytes 8 77 ++ zeros 40⟩
def claim5 : List Byte := leBytes 8 0x4000 ++ leBytes 4 5 ++ zeros 4
def waiting (t : Nat) : State :=
  let s := holding base 0x4000 handed
  { s with clk := 100, desk := { s.desk with handoff := [(0, 0x4000, BitVec.ofNat 64 t)] } }

theorem witness_OwnershipRecords :
    (let x := asksOwn (zeros 16) owned1
     x.node = base.node ∧ x.hold = (0 : PartId) ∧ x.addr.toNat % 16 = 0 ∧ base.inAlloc 0 x.addr 16 = true ∧ (base.devRead 0 x.addr 16).2.2 = false ∧
     (base.devRead 0 x.addr 16).2.1 = n128 x.exp ∧ ownAllowed x.part base.node (base.devRead 0 x.addr 16).2.1 (n128 x.new) = true ∧
     base.desk.handoff.length < 4096 ∧ base.locate 0 x.addr = some (.phys 32 0) ∧ bAt (n128 x.new) 0 ≠ 0) ∧
    (let x := asksOwn owned1 owned1
     (base.devRead 0 x.addr 16).2.1 ≠ n128 x.exp) ∧
    (let x := asksOwn (zeros 16) orphan5
     (base.devRead 0 x.addr 16).2.1 = n128 x.exp ∧ ownAllowed x.part base.node (base.devRead 0 x.addr 16).2.1 (n128 x.new) = false) ∧
    (base.inAlloc 0 (tier2 0) 16 = true ∧ base.inAlloc 0 (space3 0) 16 = false) ∧
    (let s := { base with desk := { base.desk with stateRep := [reply1], awaiting := [(77, 0, 0)] } }
     s.desk.awaiting.find? (fun e => decide (e.1 = leAt reply1.bytes 32 8 ∧ e.2.1 = reply1.dst)) = some (77, 0, 0)) ∧
    (∀ t ∈ [99, 100], let s := waiting t
     s.desk.handoff = [(0, 0x4000, BitVec.ofNat 64 t)] ∧ s.locate 0 0x4000 = some (.phys 32 0) ∧ (s.devRead 0 0x4000 16).2.2 = false ∧
     ownOf (s.devRead 0 0x4000 16).2.1 = .handoff 0 1 0 1 ∧ (BitVec.ofNat 64 t < s.clk ↔ t = 99)) ∧
    (let s := holding (wants base claim5) 0x4000 orphan5
     mayStart s (.pf .A) 0 0 ∧ asks s (.pf .A) 0 0 0x0C 16 claim5 ∧ zeroAt claim5 12 4 = true ∧ s.inAlloc 0 (wAt claim5 0) 16 = true ∧
     (let r := (((slotRequest s (.pf .A) 0 0 0x0C 16).1.loswRun 0 0 1 false).devRead 0 0x4000 16).2
      wAt claim5 0 = 0x4000 ∧ r.2 = false ∧ ownOf r.1 = .orphan ∧ ownSeq r.1 = 5) ∧
     s.locate 0 (wAt claim5 0) = some (.phys 32 0)) ∧
    (let s := wants base claim5
     mayStart s (.pf .A) 0 0 ∧ asks s (.pf .A) 0 0 0x0C 16 claim5 ∧ ownOf (((slotRequest s (.pf .A) 0 0 0x0C 16).1.loswRun 0 0 1 false).devRead 0 0x4000 16).2.1 ≠ .orphan) := by
  unfold mayStart asks
  refine ⟨?_, ?_, ?_, ?_, ?_, ?_, ?_, ?_⟩ <;> decide +kernel

/-- A bulk scan of one request of class 0. -/
def bulk1 (n : Nat) : List Byte := zeros 4 ++ leBytes 4 1 ++ zeros 56 ++ leBytes 4 n ++ zeros 60
def bulked (flags n : Nat) : State :=
  wants (desked (inF base [(0x4120, 1)]) { active := 1, classes := [leBytes 2 flags ++ leBytes 2 4 ++ zeros 60] }) (bulk1 n)

theorem witness_DeskConfiguration :
    State.reset.seesPage (.pf .A) ⟨.desk, 0, 0x4000⟩ = false ∧ base.seesPage (.pf .A) ⟨.desk, 0, 0x4000⟩ = true ∧
    (base.deskCheck 0).isNone = true ∧
    ((inR base [(0x4120, 0x100000600), (0x4138, 0x100000000)]).deskCheck 0).isSome = true ∧
    (let d := (desked base { pendCfg := true, pendWords := List.replicate 8 0 }).dk 0
     d.pendCfg = true ∧ d.step = none ∧ d.pendWords.length = 8) ∧
    (base.dk 0).pendCfg = false ∧
    (let s := bulked 0x9 1
     mayStart s (.pf .A) 0 0 ∧ asks s (.pf .A) 0 0 5 128 (bulk1 1) ∧ zeroAt (bulk1 1) 68 60 = true ∧ clSearch ((s.dk 0).classes.getD 0 []) ≠ 0 ∧
     clRt ((s.dk 0).classes.getD 0 []) = false ∧ clK ((s.dk 0).classes.getD 0 []) ≤ 8188 ∧ (slotRequest s (.pf .A) 0 0 5 128).1.admitCode 0 (.bulk 0 0) ((bulk1 1).take 64) false = 0) ∧
    (let s := bulked 0x9 0
     asks s (.pf .A) 0 0 5 128 (bulk1 0) ∧ leAt (bulk1 0) 64 4 = 0) ∧
    (let s := bulked 0xB 1
     asks s (.pf .A) 0 0 5 128 (bulk1 1) ∧ 0 < nClasses s 0 ∧ clFlag ((s.dk 0).classes.getD 0 []) 0 = true ∧ clRt ((s.dk 0).classes.getD 0 []) = true) := by
  unfold mayStart asks
  decide +kernel

theorem started_power : started.powerCheck = .ok := by
  have h : ∀ c : Fin 144, started.rtCore c = false := by decide +kernel
  have h1 : ((List.range 144).any (fun c => decide (started.freqNew c < started.coreFreq c) && started.rtCore c)) = false := by
    rw [List.any_eq_false]
    intro c hc
    have := h ⟨c, List.mem_range.mp hc⟩
    simp only at this
    simp [this]
  unfold State.powerCheck
  dsimp only
  rw [h1, if_neg (by decide +kernel)]
  rfl

theorem witness_CommitsTakeEffectTogether :
    (∃ c : Fin 17, started.seesPage (.pf .A) ⟨.core, c, coreP c⟩ = true ∧ started.seesPage (.pf .A) ⟨.collator, c, colP c⟩ = true ∧
      (started.core c).resetting = false) ∧
    (∃ c : Fin 17, (started.setCore c { resetting := true }).seesPage (.pf .A) ⟨.core, c, coreP c⟩ = true ∧
      ((started.setCore c { resetting := true }).core c).resetting = true) ∧
    (∀ c : Fin 17, let s := inR started [(coreP c + 8, 2), (colP c + 8, 2)]
      s.quiesced ⟨.core, c, coreP c⟩ = true ∧ s.quiesced ⟨.collator, c, colP c⟩ = true ∧ started.quiesced ⟨.core, c, coreP c⟩ = false) ∧
    (started.seesPage (.pf .A) ⟨.tier, 0, 0x9000⟩ = true ∧ (List.range 16).all (tierOk started) = true ∧ (List.range 16).all (tierOk base) = false) ∧
    (started.seesPage (.pf .A) (expPage 0) = true ∧ started.rangesOk 0 = true ∧ (inR started [(rangeA 0 0, 1)]).rangesOk 0 = false) ∧
    (let s := inR started [(mcP 0 + 0x40, 2)]
     s.seesPage (.pf .A) ⟨.carrel, 0, carP 0⟩ = true ∧ s.isCarrel 0 = true ∧ (s.car 0).run = none) ∧
    ((carrelled { run := some (car0 1 false) }).car 0).run ≠ none ∧
    (started.seesPage (.pf .A) ⟨.gu, 0, guP 0⟩ = true ∧ started.guOk 0 = true ∧ (inR started [(guCfg 0 0, 1)]).guOk 0 = false) ∧
    started.seesPage (.pf .A) ⟨.archive, 1, 0x61000⟩ = true ∧ started.seesPage (.pf .A) ⟨.link, 0, 0x90000⟩ = true ∧
    (started.seesPage (.pf .A) ⟨.host, 0, viewP 1⟩ = true ∧ started.bindOk 0 = true ∧
      (inR started [(bindA 0 0, 0x80), (bindA 0 1, 0x80)]).bindOk 0 = false) ∧
    (started.seesPage (.pf .A) partPage = true ∧ started.partCheck = .ok ∧ base.partCheck = .invalid) ∧
    (started.seesPage (.pf .A) rcPage = true ∧ started.rcOk = true ∧ (inR started [(0x8040, 0)]).rcOk = false) ∧
    (started.seesPage (.pf .A) ⟨.tp, 0, tpP 0⟩ = true ∧ started.portBusy 0 = false ∧
      (∀ v, v < 8 → 256 ≤ fld (started.reg (shapeA 0 v)) 24 24 ∧ 256 ≤ fld (started.reg (policeA 0 v)) 24 24) ∧
      fld ((inR started [(shapeA 0 0, 0xFF000000)]).reg (shapeA 0 0)) 24 24 = 255 ∧
      (started.modPort 0 (fun x => { x with gclWait := some [0] })).portBusy 0 = true) := by
  obtain ⟨c, e⟩ := an_enabled_core
  have up : ∀ c : Fin 17, started.reaches (.pf .A) ⟨.core, c, coreP c⟩ = true ∧ started.reaches (.pf .A) ⟨.collator, c, colP c⟩ = true ∧
      (started.setCore c { resetting := true }).reaches (.pf .A) ⟨.core, c, coreP c⟩ = true := by decide +kernel
  refine ⟨⟨c, ?_, ?_, rfl⟩, ⟨c, ?_, congrArg Core.resetting (Tab.get_set_same ..)⟩, ?_⟩
  · unfold State.seesPage; rw [(up c).1]; simp [e, fnIsVf]
  · unfold State.seesPage; rw [(up c).2.1]; simp [e, fnIsVf]
  · unfold State.seesPage; rw [(up c).2.2]; simp [e, fnIsVf]
  and_intros <;> decide +kernel

theorem witness_PowerCommit : started.seesPage (.pf .A) powPage = true ∧ started.powerCheck = .ok ∧
    (inR started [(0x1040, 0)]).powerCheck = .invalid := ⟨by decide +kernel, started_power, by decide +kernel⟩

def resetAt (n : Nat) : ResetRun := { step := n, t0 := 0, flrs := [] }
def inReset (n : Nat) : State := base.modPart 0 (fun x => { x with reset := some (resetAt n) })
def linked (x : LinkPort) : State := (inR base [(0x8048, 0)]).modPort 0 (fun _ => { x with state := 2 })
/-- A BULK flit of one whole message. -/
def flit4 : Flit := { linkFlit with link := false, vc := 4, first := true, last := true, len := 8, payload := zeros 8 }
def fwd4 : Fwd := { port := 8, stomp := false, flit := flit4 }
def queued4 : LinkPort := { localQ := Tab.set (fun _ => []) Tab.empty 4 [fwd4], shape := Tab.set (fun _ => 0) Tab.empty 4 1000000 }
/-- A send of 64 bytes from 0x4000 to member `m`'s 0x5000, completed at 0x6000. -/
def send1 (m : Nat) : List Byte :=
  zeros 2 ++ leBytes 2 m ++ leBytes 4 64 ++ leBytes 8 0x4000 ++ leBytes 8 0x5000 ++ zeros 8 ++ leBytes 8 0x6000 ++ zeros 24
def badSend : List Byte := leBytes 1 255 ++ (send1 1).tail
/-- The send is the partition's oldest; member 1 is this node's partition 0, member 2 is node 5's. -/
def sends (s : State) (d : List Byte) : State :=
  (s.modLp 0 (fun _ => { queue := [d] })).modPart 0 (fun x => { x with
    curMap := Tab.set z0 (Tab.set z0 x.curMap 1 (2 ^ 31)) 2 (2 ^ 31 + 5) })
/-- Node 5 is reached over port 0, whose BULK channel partition 0 owns. -/
def routed (s : State) : State := inF (inR s [(0x90800, 0x800000)]) [(tpP 0 + 0x48, 0x8000000000)]
def sending (n : Nat) : Send := ⟨send1 1, 0, 1, n, 0⟩

theorem witness_LinkEgressAndSends :
    (base.portUp 0 = false ∧ (linked {}).portUp 0 = true ∧ ((linked { slot := 17 }).port 0).slot = 17) ∧
    (∀ v : Fin 8, ((linked {}).port 0).lq v = [] ∧ ((linked {}).port 0).fq v = []) ∧
    (let s := linked queued4
     (s.port 0).slot < 17 ∧ (s.port 0).resend = 0 ∧ (s.port 0).lq 4 = [fwd4] ∧ (s.port 0).fq 4 = [] ∧ s.eligible 0 4 = true ∧ s.nodeFenced fwd4.flit.dstNode = false ∧
       ∀ v : Fin 8, v ≠ 4 → (s.port 0).lq v = [] ∧ (s.port 0).fq v = []) ∧
    (∀ n ∈ [15, 16], let x := (linked { replay := [(false, flit4)], fails := n }).port 0
     x.replay ≠ [] ∧ x.fails = n) ∧
    (base.gatesOn 0 = false ∧ (let s := inR (linked { gateN := 2 }) [(tpP 0 + 0x50, 1)]; s.gatesOn 0 = true ∧ (s.port 0).gateLeft ≤ 0 ∧
      (s.port 0).gclWait = none)) ∧
    (let s := linked { gclWait := some [0] }
     (s.port 0).gclWait = some [0] ∧ s.gatesOn 0 = false) ∧
    (let s := inR (linked { gclWait := some [0], gateLeft := 1 }) [(tpP 0 + 0x50, 1)]
     s.gatesOn 0 = true ∧ 0 < (s.port 0).gateLeft) ∧
    (let s := holding (inF base [(tlRing 0, 0x8000), (tlRing 0 + 8, 0x201)]) 0x8040 (zeros 56 ++ leBytes 8 1)
     (s.inForce (tlRing 0 + 8)).getLsbD 0 = true ∧ (s.part 0).reset = none ∧ (s.linkP' 0).head < 2 ^ 64 ∧ s.inAlloc 0 0x8040 64 = true ∧ (s.devRead 0 0x8040 64).2.2 = false ∧
       leAt (s.devRead 0 0x8040 64).2.1 56 8 = 1) ∧
    (sendValid badSend = false ∧ ∀ m ∈ [1, 2, 3], sendValid (send1 m) = true ∧ ((sends base (send1 m)).linkP' 0).queue = [send1 m] ∧
      ((sends base (send1 m)).part 0).reset = none ∧ (sends base (send1 m)).sendHeld (send1 m) = false) ∧
    (((sends (inReset 2) (send1 1)).part 0).reset ≠ none ∧ ((sends (inReset 2) (send1 1)).linkP' 0).queue = [send1 1]) ∧
    (base.inAlloc 0 0x6000 16 = true ∧ ((routed (sends base (send1 2))).sendSrc 0 (send1 2)).2 = some (List.replicate 64 (0, false))) ∧
    (let s := sends base (send1 3)
     memberEntry (s.part 0).curMap 3 = none) ∧
    (let s := sends base (send1 1)
     memberEntry (s.part 0).curMap 1 = some (0, 0) ∧ s.node = 0 ∧ (s.sendSrc 0 (send1 1)).2 = some (List.replicate 64 (0, false)) ∧ s.inAlloc 0 0x5000 64 = true ∧ s.unified 0 = false ∧ s.locate 0 0x5000 = some (.phys 40 0)) ∧
    (let s := sends base (send1 2)
     memberEntry (s.part 0).curMap 2 = some (5, 0) ∧ s.route 5 = none) ∧
    (let s := routed (sends base (send1 2))
     s.route 5 = some 0 ∧ s.vcOwner 0 4 = some 0 ∧ sdComp (send1 2) = 0 ∧ (send1 2).length = 64) ∧
    (∀ n ∈ [0, 1], ((base.modLp 0 (fun _ => { cur := some (sending n) })).linkP' 0).cur = some (sending n)) := by
  and_intros <;> decide +kernel

/-- A Roll Call flit of 16 bytes, and a whole message on channel 0. -/
def flit5 : Flit := { linkFlit with link := false, vc := 5, first := true, last := true, len := 16, payload := leBytes 1 1 ++ zeros 15 }
def flit0 : Flit := { flit4 with vc := 0, dstPart := 3 }
def ackFlit : Flit := { linkFlit with ack := 9, crVc := 2, crCount := 3 }

theorem witness_LinkIngress :
    (base.portUp 0 = false ∧ (linked {}).portUp 0 = true) ∧
    (let y := (linked { replay := [(false, { flit4 with lseq := 8 }), (false, { flit4 with lseq := 9 }), (false, { flit4 with lseq := 10 })] }).port 0
     ackFlit.link = true ∧ ackFlit.nak = false ∧ y.replay = [(false, { flit4 with lseq := 8 })] ++ (false, { flit4 with lseq := 9 }) ::
       [(false, { flit4 with lseq := 10 })]) ∧
    ({ flit5 with lseq := 4095 }.lseq = ((linked {}).port 0).rxSeq ∧ ((linked {}).port 0).rxSeq < 4096) ∧
    (let s := linked {}
     flit5.lseq = ((s.port 0).rxSeq + 1) % 4096 ∧ s.portFenced 0 = false ∧ s.nodeFenced flit5.srcNode = false ∧ flit5.dstNode = s.node ∧
       (s.port 0).rxOf 5 = none ∧ flit5.comp = 0 ∧ bAt (flit5.payload.take flit5.len) 0 = 1 ∧
       (s.port 0).rxOf 0 = none ∧ flit0.vc < 5 ∧ s.chOwner 0 0 ≠ some flit0.dstPart) ∧
    (let s := (inR base [(0x8048, 0)]).modPort 0 (fun _ => { state := 1 })
     (s.port 0).state = 1 ∧ s.elecFence 0 = false) ∧
    ((base.port 0).state ≠ 1) ∧
    (base.seesPage (.pf .A) ⟨.tp, 0, tpP 0⟩ = true ∧ base.seesPage (.pf .A) ⟨.tp, 1, tpP 0 + 0x1000⟩ = true ∧
      State.reset.seesPage (.pf .A) ⟨.tp, 1, tpP 0 + 0x1000⟩ = false) ∧
    (let y : LinkPort := { ownWait := Tab.set (fun _ => none) Tab.empty 2 (some 0x83) }
     Tab.get (fun _ => none) ((linked y).port 0).ownWait 2 = some 0x83 ∧ (linked y).vcBusy 0 2 = false ∧
     (linked { y with inMsg := Tab.set z0 Tab.empty 2 1 }).vcBusy 0 2 = true) ∧
    (∀ n ∈ [0, 1, 2, 10], let y : LinkPort := { queued4 with inMsg := Tab.set z0 Tab.empty 4 n, fwdQ := Tab.set (fun _ => []) Tab.empty 4 [{ fwd4 with port := 0 }] }
     ((linked y).port 0).busyVc 4 = n ∧ ((linked y).port 0).lq 4 = [fwd4] ∧ (n = 2 → (linked y).begun 0 4 = some flit4)) ∧
    (let y : LinkPort := { queued4 with cyc := 100000, histAt := 300 }
     (((linked y).port 0).histAt + (linked y).histPeriod 0 ≤ ((linked y).port 0).cyc ∧ ((linked y).port 0).lq 4 = [fwd4] ∧
       ((linked y).port 0).fq 4 = [] ∧ ((linked y).port 0).busyVc 4 = 0 ∧ ((linked y).port 0).lq 3 = [] ∧ ((linked y).port 0).fq 3 = []) ∧
     ((linked { y with cyc := 555 }).port 0).cyc < ((linked { y with cyc := 555 }).port 0).histAt + (linked y).histPeriod 0) := by
  and_intros <;> decide +kernel

/-- A Roll Call message of these first bytes waits from port `k`. -/
def rolls (s : State) (k : Nat) (bs : List Byte) : State := { s with rc := { s.rc with queue := [(k, bs ++ zeros 8)] } }
/-- Barrier context 0 in force: partition 0's, parent `p`, child port 1, one local arrival, its word at 0x4000; and its state. -/
def barrier (p : Nat) (x : Barrier) : State :=
  (inR (inF base [(barCfg 0, BitVec.ofNat 64 (1 + p * 2 ^ 8 + 2 ^ 17 + 2 ^ 32))]) [(barCfg 0 + 8, 0x4000)]).modBar 0 (fun _ => x)
def silent (n : Nat) : State :=
  { linked { partner := 5 } with clk := BitVec.ofNat 64 n, rc := { base.rc with lastHb := Tab.set (fun _ => none) Tab.empty 0 (some 0) } }

theorem witness_MembershipAndBarriers :
    ((linked {}).portUp 0 = true ∧ (linked {}).portUp 1 = false) ∧
    ((base.clk - base.rc.hbAt).toNat < base.hbUs * 100 ∧
      let s : State := { base with clk := BitVec.ofNat 64 (base.hbUs * 100) }
      s.hbUs * 100 ≤ (s.clk - s.rc.hbAt).toNat) ∧
    (bAt (leBytes 1 1 ++ zeros 8) 0 = 1 ∧ (rolls base 0 (leBytes 1 1)).rc.queue = [(0, leBytes 1 1 ++ zeros 8)]) ∧
    (let bs := leBytes 1 2 ++ zeros 1 ++ leBytes 2 6 ++ leBytes 3 7
     let s := rolls (inF (linked { partner := 5 }) [(0x8040, 1)]) 0 bs
     s.rc.queue = [(0, bs ++ zeros 8)] ∧ bAt bs 0 = 2 ∧ leAt bs 2 2 % 1024 = 6 ∧ s.nodeFenced (s.port 0).partner = false ∧ 6 ≠ s.node ∧
       s.rc.handled = [] ∧ s.faultMode = true ∧ (inF s [(0x8040, 0)]).faultMode = false) ∧
    (let old := base.missLimit * base.hbUs * 100
     (∀ n ∈ [0, old - 1, old], Tab.get (fun _ => none) (silent n).rc.lastHb 0 = some 0 ∧ ((silent n).clk - 0).toNat = n) ∧ 0 < old ∧
     (silent old).portLost 0 = false ∧ ((silent old).port 0).partner = 5 ∧ (silent old).nodeFenced 5 = false ∧ (silent old).portsTo 5 = [0]) ∧
    (let s := (silent 9999999).modPort 1 (fun _ => { partner := 5 })
     let s := { s with rc := { s.rc with lastHb := Tab.set (fun _ => none) s.rc.lastHb 1 (some 0) } }
     1 ∈ s.portsTo 5 ∧ s.portLost 1 = false) ∧
    (base.seesPage (.pf .A) rcPage = true ∧ State.reset.seesPage (.pf .A) rcPage = false) ∧
    (∀ p ∈ [8, 2], let s := holding (barrier p { arrived := [1] }) 0x4000 (leBytes 8 1)
     s.barRuns 0 = true ∧ s.rc.queue = [] ∧ (s.bar 0).localOk = false ∧ s.barWordOk 0 = true ∧ (s.readBy (s.barPart 0) (s.barWord 0) 8).2.2 = false ∧
       ((s.bar 0).gen + 1) * s.barLocal 0 ≤ leAt (s.readBy (s.barPart 0) (s.barWord 0) 8).2.1 0 8 ∧
       s.barKids 0 = [1] ∧ (s.bar 0).sent = false ∧ s.barParent 0 = p) ∧
    (∀ l ∈ [[], [1]], let s := barrier 2 { localOk := true, arrived := l }
     s.barRuns 0 = true ∧ s.rc.queue = [] ∧ (s.bar 0).localOk = true ∧ s.barKids 0 = [1] ∧ (s.bar 0).arrived = l ∧ (s.bar 0).sent = false) ∧
    (rolls (barrier 8 {}) 0 (leBytes 1 1)).rc.queue ≠ [] ∧
    (let s := barrier 8 {}
     s.rc.queue = [] ∧ s.barWordOk 0 = true ∧ leAt (s.readBy (s.barPart 0) (s.barWord 0) 8).2.1 0 8 < ((s.bar 0).gen + 1) * s.barLocal 0) ∧
    (∀ p ∈ [8, 2], ∀ l : Bool, let bs := leBytes 1 3 ++ zeros 1
     let s := rolls (barrier p { localOk := l }) 1 bs
     s.rc.queue = [(1, bs ++ zeros 8)] ∧ bAt (bs ++ zeros 8) 0 = 3 ∧ bAt (bs ++ zeros 8) 1 = 0 ∧ s.barRuns 0 = true ∧ 1 ∈ s.barKids 0 ∧
       leAt (bs ++ zeros 8) 4 4 = (s.bar 0).gen ∧ 1 ∉ (s.bar 0).arrived ∧ (s.bar 0).localOk = l ∧ s.barParent 0 = p) ∧
    (let s := rolls (barrier 2 { sent := true }) 2 (leBytes 1 4)
     s.barRuns 0 = true ∧ s.barParent 0 = 2 ∧ (s.bar 0).sent = true ∧ bAt (leBytes 1 4 ++ zeros 8) 0 = 4 ∧ leAt (leBytes 1 4 ++ zeros 8) 4 4 = (s.bar 0).gen) ∧
    (let s := rolls (barrier 2 {}) 2 (leBytes 1 5)
     s.barRuns 0 = true ∧ 2 ∈ s.barPorts 0 ∧ bAt (leBytes 1 5 ++ zeros 8) 0 = 5) := by
  and_intros <;> decide +kernel

def vf0 : Fn := .vf .A 0
/-- VF 0 of port A is enabled and partition 0's, with queue 0 of both kinds as the words say. -/
def bound (ws : List (Nat × Word)) : State := inR (inF base [(bindA 0 0, 0x80)]) (vfs ++ ws)

/-- The coalescing timer of VF 0's first completion queue runs since 0. -/
def timed : State := { base with hosts := Tab.set (fun _ => {}) Tab.empty 3 { timer := Tab.set (fun _ => none) Tab.empty 0 (some 0) } }

theorem witness_HostPorts :
    (base.queueView (.pf .A) = none ∧ (bound []).queueView vf0 = some 3) ∧
    (let s := bound [(sqReg 3 0, 0x8001), (cqReg 3 0, 0x9001)]
     qOn (s.reg (sqReg 3 0)) = true ∧ 15 < ringSize (s.reg (sqReg 3 0 + 8)) ∧ ¬ 16 < ringSize (s.reg (sqReg 3 0 + 8)) ∧
     qOn (s.reg (cqReg 3 0)) = true ∧ 15 < ringSize (s.reg (cqReg 3 0 + 8)) ∧ ¬ 16 < ringSize (s.reg (cqReg 3 0 + 8))) ∧
    (let s := bound []
     qOn (s.reg (sqReg 3 0)) = false ∧ s.fnPart vf0 = some 0 ∧ s.inAlloc 0 0x8000 (64 * ringSize (s.reg (sqReg 3 0 + 8))) = true ∧
       s.inAlloc 0 (space3 0) 64 = false) ∧
    (∀ w ∈ [0, 2 ^ 32], let s := inR (late timed) [(cqReg 3 0 + 8, 0x4000), (cfgP 3 + 0x40, 2 ^ 34), (cfgP 3 + 0xB0, 2 ^ 31), (msixCtl 3 0, BitVec.ofNat 64 w)]
     Tab.get (fun _ => none) (s.host 3).timer 0 = some 0 ∧ fld (s.reg (cqReg 3 0 + 8)) 24 8 * 100 ≤ (s.clk - 0).toNat ∧
       (s.reg (cqReg 3 0 + 8)).getLsbD 14 = true ∧ (timed.reg (cqReg 3 0 + 8)).getLsbD 14 = false ∧
       s.msixGo 3 (fld (s.reg (cqReg 3 0 + 8)) 8 6) = decide (w = 0)) ∧
    (let s := inR timed [(cqReg 3 0 + 8, 0x1000000)]
     Tab.get (fun _ => none) (s.host 3).timer 0 = some 0 ∧ (s.clk - 0).toNat < fld (s.reg (cqReg 3 0 + 8)) 24 8 * 100) ∧
    Tab.get (fun _ => none) (base.host 3).timer 0 = none ∧
    (base.fnPart (.pf .A) = none ∧ (bound []).fnPart vf0 = some 0 ∧ (bound []).coresOf 0 ≠ [] ∧ ((bound []).part 0).reset = none) ∧
    (base.fnThere vf0 = false ∧ base.fnThere (.pf .A) = true ∧ (bound []).fnThere vf0 = true) ∧
    (let s := inR (inF base [(bindA 0 0, 0x81)]) vfs
     s.fnThere vf0 = true ∧ s.fnPart vf0 = some 1 ∧ s.coresOf 1 = [] ∧ (s.part 1).reset = none) := by
  and_intros <;> decide +kernel

def compose1 (e : Nat) : List Byte := leBytes 8 0x4000 ++ leBytes 1 e ++ leBytes 1 255 ++ zeros 22

theorem witness_PartitionsResetAndCompose :
    (State.reset.seesPage (.pf .A) partPage = false ∧ base.seesPage (.pf .A) partPage = true) ∧
    (base.coresOf 0 ≠ [] ∧ (base.part 0).reset = none ∧ base.coresOf 1 = []) ∧
    (∀ n ∈ [2, 3, 7], ((inReset n).part 0).reset = some (resetAt n)) ∧
    ((inReset 3).writesOut 0 = false ∧ (under (inReset 3) writing).writesOut 0 = true) ∧
    ((inReset 7).resetEnds 0 (resetAt 7) = true ∧ ((inReset 7).part 0).compWait = [] ∧ (inReset 3).resetEnds 0 (resetAt 3) = false ∧
      base.inAlloc 0 (base.lopArea 0 30) 16 = true ∧ (inF base [(qReg 0 1, 0)]).inAlloc 0 ((inF base [(qReg 0 1, 0)]).lopArea 0 30) 16 = false) ∧
    (∀ d : Bool, let s := { inReset 3 with pwr := { base.pwr with brownout := d } }
     s.pwr.brownout = d ∧ s.writesOut 0 = false) ∧
    (let s := wants base (compose1 1)
     mayStart s (.pf .A) 0 0 ∧ asks s (.pf .A) 0 0 6 32 (compose1 1) ∧ (s.part 0).reset = none ∧ zeroAt (compose1 1) 10 22 = true ∧
       bAt (compose1 1) 8 = ((s.part 0).epoch + 1) % 256 ∧ s.inAlloc 0 0x4000 256 = true ∧
       (let rd := ((slotRequest s (.pf .A) 0 0 6 32).1.devRead 0 0x4000 256).2
        rd.2 = false ∧ ∀ m : Fin 64, bits (leAt rd.1 (4 * m) 4) 14 17 = 0) ∧ bAt (compose1 1) 9 = 0xFF ∧ s.prevLive 0 = 0) ∧
    (let s := asked (wants base (compose1 1)) { q0 with epoch := 255 }
     s.prevLive 0 ≠ 0) ∧
    (let s := wants base (compose1 2)
     asks s (.pf .A) 0 0 6 32 (compose1 2) ∧ bAt (compose1 2) 8 ≠ ((s.part 0).epoch + 1) % 256) ∧
    (let s := wants (inReset 7) (compose1 1)
     mayStart s (.pf .A) 0 0 ∧ asks s (.pf .A) 0 0 6 32 (compose1 1) ∧ (s.part 0).reset ≠ none) ∧
    (let s := wants (bound []) (compose1 1)
     mayStart s vf0 0 0 ∧ asks s vf0 0 0 6 32 (compose1 1) ∧ fnIsVf vf0 = true) := by
  unfold mayStart asks
  and_intros <;> decide +kernel

def powering (s : State) (w : Power) : State := { s with pwr := w }
def pw0 : Power := { pwrOk := true, phase := 9 }
def live : State := powering started { pw0 with sense := 740 }

/-- Core 0 still runs at its old 6.3 GHz, with the target at its highest. -/
def changing : State := powering base { pw0 with target := 850, freq := Tab.set z0 Tab.empty 0 63 }
/-- The command completes and leaves the queue empty. -/
def goes (i : Instr) (s : State) : Bool :=
  match exec i s with
  | .next u => u.pending.isEmpty
  | _ => false

theorem mvFor_pos (f : Nat) : 0 < mvFor f := by unfold mvFor; omega
theorem mvFor_le (f : Nat) : mvFor f ≤ 850 := by unfold mvFor; omega

theorem witness_FrequencyHeatAndWakeUp :
    (Tab.get z0 base.pwr.freq 0 = 0) ∧
    (Tab.get z0 changing.pwr.freq 0 ≠ 0 ∧ ¬ changing.pwr.target < mvFor (changing.coreFreq 0) ∧ ¬ (850#10).toNat < mvFor (changing.coreFreq 0)) ∧
    (let s := powering base { pw0 with freq := Tab.set z0 Tab.empty 0 7 }
     s.runFreq 0 < s.coreFreq 0 ∧ (0#10).toNat < mvFor (s.coreFreq 0)) ∧
    (State.reset.coreClocked 0 = false) ∧ (∃ c : Fin 17, (lone c {}).coreClocked c = true ∧ (lone c {}).below 0 (lone c {}).droopPct = true ∧
      (lone c {}).below 850 (lone c {}).droopPct = false) ∧
    (∀ b : Bool, let s := powering base { pw0 with droop := tru [0], brownout := b, early := tru [0] }
     Tab.get (fun _ => false) s.pwr.droop 0 = true ∧ s.above 850 s.droopPct = true ∧ s.above 0 s.droopPct = false ∧ s.pwr.brownout = b ∧
       Tab.get (fun _ => false) s.pwr.early 0 = true) ∧
    (State.reset.powered = false ∧ base.powered = true ∧ base.pwr.supply = false ∧ base.pwr.rstLow = false) ∧
    (∀ t ∈ [104, 105], (powering base { pw0 with tj := t }).powered = true) ∧
    (∀ d ∈ [92, 93, 94, 95], let s := powering base { pw0 with tj := 95, deg := Tab.set z0 Tab.empty 0 d, lowered := Tab.set z0 Tab.empty 0 1 }
     s.powered = true ∧ s.pwr.tj < 105 ∧ Tab.get z0 s.pwr.deg 0 = d ∧ Tab.get z0 s.pwr.lowered 0 = 1) ∧
    (∀ b : Bool, let s := powering base { pw0 with ungateQ := [0, 1, 2], restartQ := [0], rampAt := some (0, b) }
     s.powered = true ∧ s.pwr.ungateQ = [0, 1, 2] ∧ s.pwr.restartQ = [0] ∧ s.pwr.rampAt = some (0, b) ∧ s.clk = 0) := by
  refine ⟨by decide +kernel, ⟨by decide +kernel, ?_, ?_⟩, ⟨?_, mvFor_pos _⟩, ?_, ?_, by decide +kernel, by decide +kernel, by decide +kernel, by decide +kernel, by decide +kernel⟩
  · have := mvFor_le (changing.coreFreq 0)
    have h2 : changing.pwr.target = 850 := rfl
    omega
  · have := mvFor_le (changing.coreFreq 0)
    simp only [BitVec.toNat_ofNat]; omega
  · exact lt_of_eq_of_lt (by decide +kernel) (Nat.lt_of_lt_of_le (by decide) (Nat.le_max_left 8 _) : 7 < _)
  · unfold State.coreClocked; simp [State.reset]
  · obtain ⟨c, e⟩ := an_enabled_core
    have h : ∀ c : Fin 17, (lone c {}).below 0 (lone c {}).droopPct = true ∧ (lone c {}).below 850 (lone c {}).droopPct = false := by
      decide +kernel
    refine ⟨c, ?_, h c⟩
    unfold State.coreClocked; rw [e]; simp [lone]

theorem witness_BrownoutAndSupplyReset :
    (let s := base
     s.powered = true ∧ s.pwr.brownout = false ∧ s.pwr.supply = false ∧ s.pwr.rstLow = false ∧ s.below 0 s.warnPct = true ∧
       s.below 750 s.warnPct = false ∧ s.below 0 s.resetPct = true ∧ s.below 750 s.resetPct = false) ∧
    (∀ d : Bool, let s := powering base { pw0 with brownout := true, shutdown := d }
     s.pwr.brownout = true ∧ s.pwr.shutdown = d ∧ s.above 750 (s.warnPct - 1) = true ∧ s.above 0 (s.warnPct - 1) = false) ∧
    (∀ n ∈ [1, 2, 3], ∀ l : Bool, let s := powering base { pw0 with supply := true, phase := n, rstLow := l }
     s.pwr.supply = true ∧ s.pwr.rstLow = l) := by
  decide +kernel

theorem witness_ResetKindsAndStartUp :
    (State.reset.pwr.standby = true ∧ State.reset.pwr.pwrOk = false ∧ State.reset.pwr.tripped = false ∧ State.reset.powered = false) ∧
    ((powering base { standby := false }).pwr.standby = false) ∧
    (base.powered = true ∧ base.pwr.rstLow = false ∧ base.pwr.supply = false ∧ base.seesPage (.pf .A) rstPage = true ∧
      State.reset.seesPage (.pf .A) rstPage = false) ∧
    (powering base { pw0 with rstLow := true }).pwr.rstLow = true ∧
    (∀ n ∈ [1, 2, 3, 4, 5, 6, 7, 8, 9], let s := powering base { pw0 with phase := n }
     s.powered = true ∧ ¬ (s.pwr.rstLow = true ∨ s.pwr.supply = true) ∧ s.pwr.phase = n ∧ s.pwr.ungateQ = []) ∧
    (powering base { pw0 with phase := 3, ungateQ := [0] }).pwr.ungateQ ≠ [] := by
  decide +kernel

theorem witness_ClockOverResets :
    (powering base { standby := false }).pwr.standby = false ∧
    (base.powered = true ∧ base.pwr.supply = false ∧ base.below 0 base.resetPct = true) ∧
    (∀ i ∈ [Instr.chipRstNAssert 1000, .chipRstNRelease, .perst .A, .flr (.pf .A), .partResetWrite (.pf .A) 1, .partitionReset 0,
      .partResetDone 0, .coreResetReady 0, .linkPortReset (.pf .A) 0], goes i base = true) := by
  decide +kernel

/-- A boot NOR whose first directory copy names slot 0. -/
def dir0 : Mem := let b := leBytes 4 1 ++ [0]; Mem.ofBytes (b ++ zeros 3 ++ leBytes 4 (crc32c b))
/-- Past start-up, with a firmware stage that has verified `j` images, or none. -/
def staging (j : Option Nat) : State := { base with colo := { base.colo with stage := j } }

theorem witness_ColophonFirmware :
    (State.reset.seesPage (.pf .A) coloPage = false ∧ base.seesPage (.pf .A) coloPage = true ∧ fnIsVf (.pf .A) = false) ∧
    (base.colo.pushing = none ∧ base.colo.stage = none) ∧
    (let s := { base with colo := { base.colo with pushing := some (12287, zeros 8), pushBad := true } }
     s.colo.pushing = some (12287, zeros 8) ∧ s.colo.pushBad = true ∧ s.colo.stage = none) ∧
    (base.colo.pushBad = false ∧ ∀ j ∈ [0, 1], (staging (some j)).colo.stage = some j ∧
      (staging (some j)).coloCheck (decide (j = 1)) (1 - (staging (some j)).dir.2.2) = 0x0D04) ∧
    (let s := { staging (some 2) with colo := { (staging (some 2)).colo with nor := dir0 } }
     s.colo.stage = some 2 ∧ s.dir.1 = some 0 ∧ s.dir.2.1 + 1 < 2 ^ 32 ∧ s.dir.2.2 < 2) := by
  decide +kernel

def asksFor : List SpdmReq := [.getVersion, .getCapabilities, .negotiateAlgorithms true true, .getDigests, .getCertificate 0 0 64,
  .challenge 0 (zeros 32), .getMeasurements 0 true (zeros 32), .getPqCert 0 64, .getPqSig]

theorem witness_ColophonSpdm :
    (State.reset.pwr.phase ≠ 9 ∧ State.reset.pwr.phase ≠ 15) ∧
    (∀ k ∈ [0, 1, 2, 3], let s := base.modSpdm .A (fun _ => { state := k })
     s.pwr.phase = 9 ∧ (s.spdm .A).state = k) ∧
    ((base.measurement 0).isSome = true ∧ (base.measurement 9).isNone = true) ∧
    (let s := base.modSpdm .A (fun _ => { state := 3, large := [1], signed := some [1] })
     (s.spdm .A).signed = some [1] ∧ ((s.spdm .A).large.drop (4084 * 0)).take 4084 = [1] ∧ ((s.spdm .A).large.drop (4084 * 1)).take 4084 = []) ∧
    (0 ≤ Config.rsaChain.length ∧ 8 + ((Config.rsaChain.drop 0).take 4088).length ≤ 4096) := by
  refine ⟨by decide +kernel, by decide +kernel, by decide +kernel, by decide +kernel, Nat.zero_le _, ?_⟩
  have := List.length_take_le 4088 (Config.rsaChain.drop 0)
  omega

def metered (m : Meter) : State := { base with meter := { m with running := true } }

theorem witness_MeterCountsAndCommands :
    (base.meter.running = false ∧ (metered {}).meter.running = true ∧ base.pwr.standby = true ∧
      (powering base { standby := false }).pwr.standby = false) ∧
    (metered { arriving := [(7, 5)] }).meter.arriving = [(7, 5)] ∧
    ((metered { due := [8] }).meter.signing = none ∧ (metered { due := [8] }).meter.due = [8]) ∧
    (metered { signing := some (zeros 1088) }).meter.signing = some (zeros 1088) ∧
    (((metered { ring := [(1, zeros 8)] }).meter.ring.find? (fun r => decide (r.1 = (1#64).toNat))) = some (1, zeros 8) ∧
      ∀ r ∈ (metered { ring := [(1, zeros 8)] }).meter.ring, r.1 ≠ (2#64).toNat) ∧
    (10 ≤ (60#16).toNat ∧ (60#16).toNat = (metered {}).meter.interval ∧ (0x5A#8).toNat = (metered {}).meter.addr ∧ ¬ 10 ≤ (9#16).toNat) ∧
    (({} : Meter).boots 0 = false ∧ ({} : Meter).boots 1 = false) ∧
    (let m := (metered {}).meter
     (m.image (1 - m.slot)).check (fun t => decide (t = 1 ∨ t = 2)) (0x80000 - 17344) Config.approvalDigest (fun g => decide (1 < g)) m.svn = 0x0D04) := by
  decide +kernel

def logging (l : Log) : State := { base with log := l }
def ev1 (v : Nat) : Event := ⟨0x0420, v, none, zeros 16, 0⟩
def bk (t n : Nat) : Bucket := { code := 0x0420, tokens := t, supp := n }
def rec1 (n : Nat) : LogRec := ⟨n, 4, none, zeros 32⟩
def img1 : LogImage := ⟨1, false, [], Tab.empty, 0⟩

theorem witness_AccessionLog :
    ((logging {}).log.queue = [] ∧ (logging { queue := [ev1 0] }).logMinSev = 1 ∧ (ev1 0).sev < 1) ∧
    (∀ t ∈ [0, 1], let s := logging { queue := [ev1 4], buckets := [bk t 0] }
     s.logMinSev ≤ (ev1 4).sev ∧ s.log.takeBucket (ev1 4).code s.logBurst = some (bk t 0, [])) ∧
    (let s := late (logging { buckets := [bk 0 0] })
     s.log.buckets.find? (fun b => decide (b.code = (0x0420#16).toNat)) = some (bk 0 0) ∧ (bk 0 0).tokens < s.logBurst ∧
       100000000 ≤ s.since (bk 0 0).since * s.logRate ∧ ¬ 100000000 ≤ base.since (bk 0 0).since * base.logRate ∧
       s.log.buckets.find? (fun b => decide (b.code = (1#16).toNat)) = none) ∧
    (let s := late (logging { buckets := [bk 63 5] })
     (bk (s.logBurst - 1) 5).tokens + 1 = s.logBurst ∧ (bk s.logBurst 5).supp ≠ 0 ∧ s.log.recs.length < 4096 ∧
       ¬ 6000000000 ≤ s.since (bk 63 5).suppAt ∧ 6000000000 ≤ ({ s with clk := 6000000000 } : State).since (bk 63 5).suppAt) ∧
    (∀ d ∈ [none, some true], ∀ g : Bool, (logging { writing := some (img1, g), due := d }).log.writing = some (img1, g) ∧
      (logging {}).log.writing = none ∧ base.pwr.standby = true) ∧
    (let s : State := { logging {} with clk := 60000000000 }
     s.log.persistAt.toNat / 60000000000 < s.clk.toNat / 60000000000 ∧ ¬ base.log.persistAt.toNat / 60000000000 < base.clk.toNat / 60000000000) ∧
    (let s := logging { buckets := [bk 64 5] }
     s.logBurst ≤ (bk 64 5).tokens ∧ s.log.buckets.find? (fun b => decide (b.code = (0x0420#16).toNat)) = some (bk 64 5)) ∧
    (State.reset.seesPage (.pf .A) logPage = false ∧ base.seesPage (.pf .A) logPage = true) ∧
    (let s := logging { recs := [rec1 0], cursors := Tab.set (fun _ => {}) Tab.empty 1 { shown := some (rec1 0), next := 1 } }
     (s.log.cursor (fnIdx (.pf .A))).shown ≠ none ∧ (s.log.cursor 2).shown = none) := by
  decide +kernel

theorem witness_RegisterAccess :
    (badShape 2 4 = true ∧ badShape 0x9040 8 = false ∧ badShape 0x9044 4 = false) ∧
    (let s := { base with latch := Tab.set (fun _ => none) Tab.empty 1 (some (0x9040, 5)) }
     Tab.get (fun _ => none) s.latch (fnIdx (.pf .A)) = some (0x9044 / 8 * 8, 5) ∧ 0x9044 % 8 = 4) ∧
    (pageOf (keyOf (.pf .A) 0x9008)).isSome = true ∧
    (∀ p ∈ pageOf (keyOf (.pf .A) 0x9008), base.seesPage (.pf .A) p = true ∧ State.reset.seesPage (.pf .A) p = false) ∧
    (isLosw 0x9040 = false ∧ base.sees (.pf .A) 0x9040 = true ∧ State.reset.sees (.pf .A) 0x9040 = false ∧ breaksPartial 0x9040 8 = false ∧
      breaksPartial 0x7300 4 = true ∧ badShape 0x7300 4 = false ∧ base.sees (.pf .A) 0x7300 = true) ∧
    (∀ p ∈ pageOf (keyOf (.pf .A) 0x9040), p.ty = .tier ∧ 0x20 ≤ keyOf (.pf .A) 0x9040 - p.base) ∧
    (isLosw 0xE008 = true ∧ isLosw 0xE000 = true ∧ base.seesLosw (.pf .A) 0xE000 = true ∧ badShape 0xE000 8 = false ∧
      lopAssigned 7 = false ∧ mayStart base (.pf .A) (loswPart 0xE000) (loswSlot 0xE000)) ∧
    (cfgBase + 0x98 < 2 ^ 25 ∧ base.fnThere (.pf .A) = true ∧ base.cfgReady (.pf .A) = true ∧ State.reset.cfgReady (.pf .A) = false ∧
      base.fnThere (.vf .A 0) = false ∧ cfgShape 0x58 4 = true ∧ cfgShape 0x5A 4 = false) ∧
    ((rowOf (cfgP 1 + 0x40 + 0x58)).isSome = true ∧ (rowOf (cfgP 1 + 0x40 + 0x168)).isSome = true) := by
  unfold mayStart
  and_intros <;> decide +kernel

/-- The command completes. -/
def ok (i : Instr) (s : State) : Bool :=
  match exec i s with
  | .next _ => true
  | _ => false

theorem witness_StepRunsTheQueue : State.reset.pending = [] ∧ ok (.vidStep true) State.reset = true := by decide +kernel

theorem witness_FrameOfCoreSide :
    (threadTouches (.addi 0 0 1 2 3)).isSome = true ∧ ok (.addi 0 0 1 2 3) base = true ∧
    (coreTouches (.contextFree 0 0)).isSome = true ∧ ok (.contextFree 0 0) base = true ∧
    (deskTouches (.modelStepStart 0)).isSome = true ∧ ok (.modelStepStart 0) base = true := by
  refine ⟨?_, ?_, ?_, ?_, ?_, ?_⟩ <;> decide +kernel

theorem witness_FrameOfTierLinkService :
    (tierTouches (.migrationPeriod 0)).isSome = true ∧ ok (.migrationPeriod 0) base = true ∧
    (linkTouches (.egressSlot 0)).isSome = true ∧ ok (.egressSlot 0) (linked {}) = true ∧
    (serviceTouches (.vidStep true)).isSome = true ∧ ok (.vidStep true) base = true := by
  refine ⟨?_, ?_, ?_, ?_, ?_, ?_⟩ <;> decide +kernel

/-- A step goes on from a state that meets the invariants, with and without a command. -/
theorem witness_MemoryStaysCanonical : memOk (holding base 0x4000 [1]) ∧
    ∃ t, step { holding base 0x4000 [1] with pending := [Instr.vidStep true] } = .next t := by
  unfold memOk
  exact ⟨by decide +kernel, _, rfl⟩
theorem witness_PowerStaysLegal : powerOk base ∧ ∃ t, step { base with pending := [Instr.vidStep true] } = .next t := by
  unfold powerOk
  exact ⟨by decide +kernel, _, rfl⟩
theorem witness_FusesOnlyRise : ∃ t, step { base with pending := [] } = .next t := ⟨_, rfl⟩

/-! ### Ill-formed terms are refused -/

theorem test_wf_bar2 : (Instr.bar2Read (.pf .A) 0 0).wf = false ∧ (Instr.bar2Read (.pf .A) 0 4097).wf = false ∧
    (Instr.bar2Read (.pf .A) 0 4096).wf = true ∧ (Instr.bar2Write (.pf .A) 0 []).wf = false ∧ (Instr.bar2Write (.pf .A) 0 [1]).wf = true := by
  decide +kernel

theorem test_wf_flit : flit5.wf = true ∧
    (∀ x ∈ [{ flit5 with vc := 8 }, { flit5 with comp := 4 }, { flit5 with epoch := 256 }, { flit5 with dstNode := 1024 },
      { flit5 with dstPart := 16 }, { flit5 with srcNode := 1024 }, { flit5 with srcPart := 16 }, { flit5 with hops := 256 },
      { flit5 with lseq := 4096 }, { flit5 with ack := 4096 }, { flit5 with crVc := 8 }, { flit5 with crCount := 256 },
      { flit5 with msgFlits := 65536 }, { flit5 with len := 17 }, { flit5 with len := 237, payload := zeros 237 }],
      (Instr.flitReceive 0 x .good).wf = false) := by
  decide +kernel

theorem test_wf_own : (Instr.ownershipOp (some ⟨0, 1024, 0, 0, 0, 0⟩)).wf = false ∧ (Instr.ownershipOp (some ⟨0, 0, 0, 8, 0, 0⟩)).wf = false ∧
    (Instr.ownershipOp (some ⟨0, 1023, 0, 16, 0, 0⟩)).wf = true := by
  decide +kernel

theorem test_wf_flash : (Instr.stripeProgramDone 0 [16]).wf = false ∧ (Instr.eraseDone 0 [16]).wf = false ∧
    (Instr.eraseDone 0 [15]).wf = true := by
  decide +kernel

theorem test_wf_thermal : (Instr.thermalSample (List.replicate 35 0)).wf = false ∧
    (Instr.thermalSample (List.replicate 36 0)).wf = true := by
  decide +kernel

def report0 : StartReport := { stackFail := [], modules := [], ports := [], flash := [], flashFail := [], parts := [] }
theorem test_wf_report : report0.wf = true ∧ { report0 with stackFail := [6] }.wf = false ∧
    { report0 with flashFail := [32] }.wf = false := by
  decide +kernel

theorem test_wf_spdm : (Instr.challenge .A 0 (zeros 31)).wf = false ∧ (Instr.challenge .A 0 (zeros 32)).wf = true ∧
    (Instr.getMeasurements .A 0 true []).wf = false ∧ (Instr.getMeasurements .A 0 false (zeros 32)).wf = false := by
  decide +kernel

theorem test_wf_carrel : (∀ f ∈ [Instr.scan, .select, .rowsum], (f 0 [2 ^ 38] 0).wf = false ∧ (f 0 [2 ^ 38 - 1] 0).wf = true) := by
  decide +kernel

/-! ### Values worked out by hand -/

theorem test_alu_wraps : aluOp 0 (BitVec.allOnes 64) 2 = some 1 ∧ aluOp 1 0 1 = some (BitVec.allOnes 64) := by decide
theorem test_alu_signs : aluOp 7 0x8000000000000000 0x4F = some 0xFFFF000000000000 ∧ aluOp 8 (BitVec.allOnes 64) 1 = some 1 ∧
    aluOp 9 (BitVec.allOnes 64) 1 = some 0 ∧ aluOp 10 (BitVec.allOnes 64) 1 = some (BitVec.allOnes 64) := by decide
theorem test_mul_high : mulOp 1 (BitVec.allOnes 64) (BitVec.allOnes 64) = some 0xFFFFFFFFFFFFFFFE ∧
    mulOp 2 (BitVec.allOnes 64) (BitVec.allOnes 64) = some 0 ∧ mulOp 2 (BitVec.allOnes 64) 1 = some (BitVec.allOnes 64) := by decide
/-- 0.1 + 0.2, the subnormal half of the smallest normal, and the default NaN of infinity times zero. -/
theorem test_fp32 : fadd 0x3DCCCCCD 0x3E4CCCCD = 0x3E99999A ∧ fmul 0x00800000 0x3F000000 = 0x00400000 ∧
    fmul 0x7F800000 0 = 0x7FC00000 := by decide +kernel
/-- A tie goes to even, and what is out of range saturates. -/
theorem test_convert : convert (fv 0x3F808000) .bf16 0 = (0x3F80, false) ∧ convert (fv 0x3F818000) .bf16 0 = (0x3F82, false) ∧
    convert (fv 0x447A0000) .e4m3 0 = (0x7E, true) ∧ convert (fv 0x43000000) .int8 0 = (127, true) := by decide +kernel
/-- The check value of CRC-32C: the digits 1 to 9. -/
theorem test_crc32c : crc32c ((List.range 9).map (fun k => BitVec.ofNat 8 (0x31 + k))) = 0xE3069283 := by decide +kernel
/-- The square root of 2 rounds to 0x3FB504F3. -/
theorem test_exp2 : 0x3FB504F3#32 ∈ exp2Cands 0x3F000000 ∧ 0x3FB504F9#32 ∉ exp2Cands 0x3F000000 := by decide +kernel
theorem test_hist_bins : histBin 0 = 0 ∧ histBin 1 = 1 ∧ histBin 2 = 2 ∧ histBin 3 = 2 ∧ histBin 4 = 3 ∧ histBin 16384 = 15 ∧
    histBin 65536 = 15 := by decide +kernel
/-- Writing what an unlisted byte reads as takes the entry away. -/
theorem test_mem_zero : Mem.putBytes (Mem.ofBytes [1, 2, 3]) 1 [0] = Mem.ofBytes [1, 0, 3] := by decide +kernel

/-! ### One step on small states -/

/-- g0 stays 0 when it is a destination, and the PC goes on. -/
def wroteG0 : Thread := (((lone 0 mid).issued 0 0).retire 0 0 0 7).thr 0 0
theorem test_g0_stays_zero : wroteG0.r 0 = 0 ∧ wroteG0.r 1 = 0x10000 ∧ wroteG0.pc = 1 := by
  refine ⟨?_, ?_, ?_⟩ <;> decide +kernel
/-- A byte written over BAR2 is the byte that the window then shows. -/
theorem test_bar2_byte : (match exec (.bar2Write (.pf .A) 0x7D [0xAB]) (inR base [(0x9C00, 1)]) with
    | .next u => (u.peek 0 0x7C 4).1
    | _ => []) = [0, 0xAB, 0, 0] := by decide +kernel
/-- Decoding: the table gives no bits, so no word spells a command. -/
theorem test_no_bits : decodeTableWord 32 0xFFFFFFFF = none ∧ (State.reset.withFetchWord 32 1) = State.reset := by decide +kernel

end Sys2Proof.Tests
end

section
/-! SUPPORT. The register pages of the cores, the value in force of a register whose staged value is in effect, and the
contexts at reset (O60). -/

namespace Sys2Proof.Machine

/-- The first page of a core's four holds its CORE registers (R483). -/
theorem pageOf_coreP (c : CoreId) {o : Nat} (ho : o < 0x1000) : pageOf (coreP c + o) = some ⟨.core, c, coreP c⟩ := by
  have hc := c.isLt
  have hlow : 0x100000 ≤ coreP c + o := by unfold coreP; omega
  have htop : coreP c + o < 0x340000 := by unfold coreP; omega
  have hpage : (coreP c + o - 0x100000) % 0x4000 / 0x1000 = 0 := by unfold coreP; omega
  have hinst : (coreP c + o - 0x100000) / 0x4000 = c := by unfold coreP; omega
  have hbase : (coreP c + o) / 0x1000 * 0x1000 = coreP c := by unfold coreP; omega
  have hpast : ∀ k ≤ 0x100000, ¬ coreP c + o < k := fun k hk => by omega
  simp [pageOf, hpast, htop, hpage, hinst, hbase]

/-- Past the header a CORE page's registers are those of the core's table, one table for every core. -/
theorem rowOf_coreP (c : CoreId) {o : Nat} (hhdr : 0x40 ≤ o) (ho : o < 0x1000) :
    rowOf (coreP c + o) = (rowsOf .core).find? (·.has o) := by
  have hoff : coreP c + o - coreP c = o := by omega
  simp only [rowOf, pageOf_coreP c ho, hoff, if_neg (Nat.not_lt.2 hhdr), rowsAt]

/-- A register past the header resets to the value of its row; one that the core's table leaves out, as it does its
counters, to 0 (R481). -/
theorem regReset_coreP (c : CoreId) (o : Nat) (hhdr : 0x40 ≤ o) (ho : o < 0x1000) :
    regReset (coreP c + o) = BitVec.ofNat 64 (((rowsOf .core).find? (·.has o)).elim 0 Row.rst) := by
  rw [regReset, rowOf_coreP c hhdr ho]
  cases (rowsOf .core).find? (·.has o) <;> rfl

/-- Where the staged fields in force equal their staging copies, the register in force is the one that software reads
(R482). -/
theorem inForce_eq_reg {s : State} {a : Nat} (h : Tab.get regReset s.force a = s.reg a) : s.inForce a = s.reg a := by
  unfold State.inForce
  rw [h, ← BitVec.and_or_distrib_left, BitVec.not_or_self, BitVec.and_allOnes]

theorem reset_reg (a : Nat) : State.reset.reg a = regReset a := Tab.get_empty regReset a

theorem reset_inForce (a : Nat) : State.reset.inForce a = regReset a :=
  (inForce_eq_reg rfl).trans (reset_reg a)

theorem reset_powerOk : powerOk State.reset := by
  unfold powerOk
  decide

/-- Every context starts as one that nothing has been written to. -/
theorem reset_thr (c t : Nat) : State.reset.thr c t = {} := rfl

/-- The registers of a context that nothing has been written to read as 0. -/
theorem Thread.empty_r (i : Reg) : ({} : Thread).r i = 0 := by
  unfold Thread.r
  split
  · rfl
  · exact Tab.get_empty zeroW i.val

/-- Settles O60: at reset (log entries 1 and 3) no register, value in force or context is listed, so each reads as its
default. -/
theorem resetStartsLegal : Obligations.ResetStartsLegal := by
  unfold Obligations.ResetStartsLegal
  refine ⟨State.reset_mem, reset_powerOk, State.reset_pending, rfl, fun a => ⟨reset_reg a, reset_inForce a⟩,
    fun c => ⟨?_, ?_, ?_⟩, fun c t => ?_⟩
  · exact regReset_coreP c 0x48 (by decide) (by decide)
  · exact regReset_coreP c 0x80 (by decide) (by decide)
  · exact regReset_coreP c 0xA0 (by decide) (by decide)
  · rw [reset_thr]
    exact ⟨rfl, Thread.empty_r⟩

end Sys2Proof.Machine
end

section
/-! SUPPORT. Why a refused request of the fabric need not leave the queries alone (O24). -/

namespace Sys2Proof.Machine

/-- A counter one below its greatest value saturates at any count (R12). -/
theorem State.bump_saturates {s : State} {a n : Nat} (h : (s.reg a).toNat = 2 ^ 64 - 2) (hn : 1 ≤ n) :
    s.bump a n = s.setReg a (BitVec.allOnes 64) := by
  have hmin : min (2 ^ 64 - 1) ((s.reg a).toNat + n) = 2 ^ 64 - 1 := by omega
  rw [State.bump, hmin]
  rfl

theorem State.waitCycles_saturates {s : State} {a : Nat} (h : (s.reg a).toNat = 2 ^ 64 - 2) :
    s.waitCycles a = ({ s with free := s.free + 1 } : State).setReg a (BitVec.allOnes 64) :=
  State.bump_saturates h (Nat.le_add_right ..)

theorem State.enterQuery_refused {s : State} {x : Query} {poison : Bool} (h : s.admitCode x.part x.src x.req poison ≠ 0) :
    s.enterQuery x poison = (s.readOwned x poison false).refuse x (s.admitCode x.part x.src x.req poison) := by
  simp [State.enterQuery, h]

/-- A request that passes the tests before it is refused for its ownership record (R192, R208). -/
theorem State.admitCode_of_owned {s : State} {p : Nat} {src : Src} {r : List Byte} {poison : Bool}
    (hfirst : s.firstCode p src r poison = 0) (hflag : bit (leAt r 2 2) 1 = true) (hown : s.checkOwned p (wAt r 32) ≠ 0) :
    s.admitCode p src r poison = s.checkOwned p (wAt r 32) := by
  simp [State.admitCode, hfirst, hflag, hown]

/-- The tier number whose TIER_Tt_QWAIT_CNT of partition 0, counted from TIER_T0_QWAIT_CNT, would lie at TL_NODE. -/
def strayTier : Nat := (0x90040 - 0x9300) / 8

/-- A query of partition 0 that awaits member 0 of its map. -/
def strayHome : Query :=
  { part := 0, cidx := 0, cls := [], epoch := 0, version := 0, publish := 0, t0 := 0, src := .ring 0, cq := 0, cqGen := 0
    sqHead := 0, req := zeros 64, reqAddr := 0, stage := .search, busy := true, fan := [], waiting := [], recs := [], members := [0]
    remote := [], record := [], err := 0, wcet := 0 }

/-- Node 1023 asks for class 0 with an ownership record at the start of the UNIFIED space. -/
def strayAsk : Msg :=
  ⟨1023, 0, 0, 0, 0, leBytes 2 0 ++ leBytes 2 2 ++ leBytes 4 1 ++ zeros 24 ++ leBytes 8 (3 * 2 ^ 48) ++ zeros 56⟩

/-- TL_NODE names node 1022 and is one below its greatest value; the map of partition 0 puts extent 0 in `strayTier`; the
request waits, or the Desk has taken it. -/
def stray (taken : Bool) : State :=
  { State.reset with
    free := if taken then 1 else 0
    regs := ⟨[(0xD0C0, 1), (0x90040, 0xFFFFFFFFFFFFFFFE)]⟩
    force := ⟨[(0x4120, 1), (0x9100, 1), (0x9110, 0x0000010000000000), (partSlice 0 0, 1)]⟩
    tierP := ⟨[(0, { ext := ⟨[(0, some (strayTier, 0))]⟩ })]⟩
    parts := ⟨[(0, { curMap := ⟨[(0, 2 ^ 31 + 1023)]⟩ })]⟩
    deskP := ⟨[(0, { classes := [leBytes 2 1 ++ zeros 62] })]⟩
    desk := { queries := ⟨[(5, some strayHome)]⟩, fabric := if taken then [] else [strayAsk] } }

/-- The address of the ownership record that the request names. -/
def strayRecord : Word := wAt strayAsk.bytes 32

/-- The query that the request would become. -/
def strayQuery : Query := (stray true).newQuery 0 0 (.fabric 1023 0) 0 0 strayAsk.bytes (Config.freeWord 0)

/-- The read of the record has waited, and has counted that at TL_NODE: the chip is node 1023. -/
def strayWaited (taken : Bool) : State :=
  ({ stray taken with free := (stray taken).free + 1 } : State).setReg 0x90040 (BitVec.allOnes 64)

theorem stray_waits (taken : Bool) :
    ((stray taken).awaitZero 0 strayRecord 16).blockWaits 0 strayRecord 16 = strayWaited taken := by
  have hzero : (stray taken).awaitZero 0 strayRecord 16 = stray taken := by cases taken <;> rfl
  have hwaits : (stray taken).blockWaits 0 strayRecord 16 = (stray taken).waitCycles 0x90040 := by cases taken <;> rfl
  rw [hzero, hwaits, State.waitCycles_saturates rfl]
  rfl

theorem stray_readTo (taken : Bool) : (stray taken).readTo 0 strayRecord 16 =
    (((strayWaited taken).translateAll 0 strayRecord 16).yieldLines 0 strayRecord 16).readUnits 0 strayRecord 16 := by
  rw [State.readTo, stray_waits]

/-- The namespace of partition 0 is unformatted, so the record reads poisoned (R208, R329). -/
theorem stray_checkOwned (taken : Bool) : (stray taken).checkOwned 0 strayRecord = 0x0116 := by
  rw [State.checkOwned, State.readBy, stray_readTo]
  revert taken
  decide +kernel

theorem stray_firstCode : ∀ taken, (stray taken).firstCode 0 (.fabric 1023 0) strayAsk.bytes false = 0 := by
  decide +kernel

theorem stray_admitCode (taken : Bool) : (stray taken).admitCode 0 (.fabric 1023 0) strayAsk.bytes false = 0x0116 := by
  have hown : (stray taken).checkOwned 0 (wAt strayAsk.bytes 32) = 0x0116 := stray_checkOwned taken
  rw [State.admitCode_of_owned (stray_firstCode taken) (by decide +kernel) (by rw [hown]; decide), hown]

theorem stray_enterQuery :
    (stray true).enterQuery strayQuery false = ((stray true).readBy 0 strayRecord 16).1.refuse strayQuery 0x0116 := by
  have hcode : (stray true).admitCode strayQuery.part strayQuery.src strayQuery.req false = 0x0116 := stray_admitCode true
  have hread : (stray true).readOwned strayQuery false false = ((stray true).readBy 0 strayRecord 16).1 := rfl
  rw [State.enterQuery_refused (by rw [hcode]; decide), hcode, hread]

/-- The refusal comes back to this chip, where the query that awaits node 1023 takes it for its member's error code. -/
theorem stray_homeFails : (((stray true).enterQuery strayQuery false).query 5).map Query.err = some 0x0116 := by
  rw [stray_enterQuery, State.readBy, stray_readTo]
  decide +kernel

theorem exec_admitNext_stray : exec .admitNext (stray false) =
    .next (((stray true).enterQuery strayQuery false).modDesk (fun d => { d with rot := 2 })) := rfl

/-- Refutes O24: nothing bounds the tier that a partition's map names, so the wait counter of a read at a stray tier can lie
at TL_NODE; the refusal of another node's query, which R208 read an ownership record for, is then sent to this chip itself and
fails a query that awaits that node. -/
theorem not_deskAdmits : ¬ Obligations.DeskAdmits := by
  intro h
  obtain ⟨-, -, hadmit⟩ := h 0 (stray false)
  have hintake : ∀ q, ((stray false).dk q).intake = [] := by
    intro q
    cases q <;> rfl
  obtain ⟨u, hu, -, hrefused, -⟩ := hadmit strayAsk [] rfl rfl hintake rfl (by decide +kernel) (by decide)
  obtain ⟨hqueries, -⟩ := hrefused (by
    intro hcode
    exact absurd ((stray_admitCode false).symm.trans hcode) (by decide))
  cases exec_admitNext_stray.symm.trans hu
  have hkept : (((stray true).enterQuery strayQuery false).query 5).map Query.err = some 0 :=
    congrArg (Option.map Query.err) (hqueries 5)
  rw [stray_homeFails] at hkept
  exact absurd hkept (by decide)

end Sys2Proof.Machine
end

section
/-! SUPPORT. What the Desk's queries and the registers below the TIER page see of the other blocks' operations: nothing. One
lemma per operation, in the order of the model's files, up to what the completion of a query does (O25). -/

namespace Sys2Proof.Machine

/-- A fold of steps that leave `g` alone leaves it alone. -/
theorem foldl_unchanged {σ α β : Type} (g : σ → β) {f : σ → α → σ} (h : ∀ s x, g (f s x) = g s) (l : List α) (s : σ) :
    g (l.foldl f s) = g s := by
  induction l generalizing s with
  | nil => rfl
  | cons x r ih => exact (ih (f s x)).trans (h s x)

/-- The Desk's own state and the registers below the TIER page, its counters among them. -/
def State.deskSide (s : State) : Desk × (Fin 0x9000 → Word) := (s.desk, fun a => s.reg a)

/-- A state that differs in neither the Desk nor the registers. -/
theorem State.deskSide_congr {s t : State} (hdesk : t.desk = s.desk) (hregs : t.regs = s.regs) : t.deskSide = s.deskSide := by
  simp only [State.deskSide, State.reg, hdesk, hregs]

theorem State.query_of_deskSide {s t : State} (h : t.deskSide = s.deskSide) (q : Nat) : t.query q = s.query q :=
  congrArg (fun x : Desk × (Fin 0x9000 → Word) => Tab.get (fun _ => none) x.1.queries q) h

theorem State.reg_of_deskSide {s t : State} (h : t.deskSide = s.deskSide) {a : Nat} (ha : a < 0x9000) : t.reg a = s.reg a :=
  congrFun (congrArg Prod.snd h) ⟨a, ha⟩

/-! ### Updates of one part -/

@[simp] theorem State.deskSide_free (s : State) (n : Nat) : ({ s with free := n } : State).deskSide = s.deskSide := rfl
@[simp] theorem State.deskSide_mems (s : State) (m : Mem) (b z : Tab Bool) :
    ({ s with mem := m, memBad := b, zeroing := z } : State).deskSide = s.deskSide := rfl
@[simp] theorem State.setCore_deskSide (s : State) (c : Nat) (k : Core) : (s.setCore c k).deskSide = s.deskSide := rfl
@[simp] theorem State.modCore_deskSide (s : State) (c : Nat) (f : Core → Core) : (s.modCore c f).deskSide = s.deskSide := rfl
@[simp] theorem State.setThr_deskSide (s : State) (c t : Nat) (x : Thread) : (s.setThr c t x).deskSide = s.deskSide := rfl
@[simp] theorem State.modGrp_deskSide (s : State) (c g : Nat) (f : Group → Group) : (s.modGrp c g f).deskSide = s.deskSide := rfl
@[simp] theorem State.modPart_deskSide (s : State) (p : Nat) (f : Part → Part) : (s.modPart p f).deskSide = s.deskSide := rfl
@[simp] theorem State.modDk_deskSide (s : State) (p : Nat) (f : DeskPart → DeskPart) : (s.modDk p f).deskSide = s.deskSide := rfl
@[simp] theorem State.modTp_deskSide (s : State) (p : Nat) (f : TierPart → TierPart) : (s.modTp p f).deskSide = s.deskSide := rfl
@[simp] theorem State.modNs_deskSide (s : State) (p : Nat) (f : Ns → Ns) : (s.modNs p f).deskSide = s.deskSide := rfl
@[simp] theorem State.modCar_deskSide (s : State) (m : Nat) (f : Carrel → Carrel) : (s.modCar m f).deskSide = s.deskSide := rfl
@[simp] theorem State.modPort_deskSide (s : State) (q : Nat) (f : LinkPort → LinkPort) : (s.modPort q f).deskSide = s.deskSide := rfl
@[simp] theorem State.modHost_deskSide (s : State) (k : Nat) (f : HostFn → HostFn) : (s.modHost k f).deskSide = s.deskSide := rfl
@[simp] theorem State.logEv_deskSide (s : State) (code sev : Nat) (part : Option Nat) (data : List Byte) :
    (s.logEv code sev part data).deskSide = s.deskSide := rfl
@[simp] theorem State.meterAdd_deskSide (s : State) (p k n : Nat) : (s.meterAdd p k n).deskSide = s.deskSide := rfl
@[simp] theorem State.loswFail_deskSide (s : State) (p o code : Nat) : (s.loswFail p o code).deskSide = s.deskSide := rfl
@[simp] theorem State.loswDone_deskSide (s : State) (p o : Nat) : (s.loswDone p o).deskSide = s.deskSide := rfl

/-! ### Counters: those of every other block lie above -/

theorem State.setReg_deskSide (s : State) {a : Nat} (w : Word) (h : 0x9000 ≤ a) : (s.setReg a w).deskSide = s.deskSide := by
  have hreg : ∀ b : Fin 0x9000, (s.setReg a w).reg b = s.reg b := fun b => by
    rw [State.setReg_reg, if_neg (by omega)]
  simp only [State.deskSide, State.setReg_desk, hreg]

theorem State.bump_deskSide (s : State) {a : Nat} (n : Nat) (h : 0x9000 ≤ a) : (s.bump a n).deskSide = s.deskSide :=
  s.setReg_deskSide _ h

@[simp] theorem State.bump_tierCnt_deskSide (s : State) (p k n : Nat) : (s.bump (0x9300 + p * 0x40 + k) n).deskSide = s.deskSide :=
  s.bump_deskSide n (by omega)
@[simp] theorem State.bump_arcCnt_deskSide (s : State) (p k n : Nat) : (s.bump (arcCnt p k) n).deskSide = s.deskSide :=
  s.bump_deskSide n (by unfold arcCnt; omega)
@[simp] theorem State.bump_fcP_deskSide (s : State) (c k n : Nat) : (s.bump (fcP c + k) n).deskSide = s.deskSide :=
  s.bump_deskSide n (by unfold fcP; omega)
@[simp] theorem State.bump_carP_deskSide (s : State) (m k n : Nat) : (s.bump (carP m + k) n).deskSide = s.deskSide :=
  s.bump_deskSide n (by unfold carP mcP; omega)
@[simp] theorem State.bump_ctlP_deskSide (s : State) (i k n : Nat) : (s.bump (ctlP i + k) n).deskSide = s.deskSide :=
  s.bump_deskSide n (by unfold ctlP hcP mcP; split <;> omega)
@[simp] theorem State.bump_expP_deskSide (s : State) (k n : Nat) : (s.bump (expP 19 + k) n).deskSide = s.deskSide :=
  s.bump_deskSide n ((by decide : 0x9000 ≤ expP 19).trans (Nat.le_add_right ..))
@[simp] theorem State.bump_viewP_deskSide (s : State) (v k n : Nat) : (s.bump (viewP v + k) n).deskSide = s.deskSide :=
  s.bump_deskSide n (by unfold viewP viewKey; omega)

@[simp] theorem State.waitCycles_tierCnt_deskSide (s : State) (p k : Nat) :
    (s.waitCycles (0x9300 + p * 0x40 + k)).deskSide = s.deskSide := by simp [State.waitCycles]
@[simp] theorem State.waitCycles_arcCnt_deskSide (s : State) (p k : Nat) : (s.waitCycles (arcCnt p k)).deskSide = s.deskSide := by
  simp [State.waitCycles]

/-! ### Cores -/

@[simp] theorem State.wakeIf_deskSide (s : State) (c : Nat) (p : Thread → Bool) (f : Thread → Thread) :
    (s.wakeIf c p f).deskSide = s.deskSide :=
  foldl_unchanged State.deskSide (fun s t => by dsimp only; split <;> rfl) _ s

@[simp] theorem State.wakeUnit_deskSide (s : State) (c : Nat) : (s.wakeUnit c).deskSide = s.deskSide := s.wakeIf_deskSide ..

@[simp] theorem State.gsig_deskSide (s : State) (c g : Nat) : (s.gsig c g).deskSide = s.deskSide := by simp [State.gsig]

/-! ### Reads of the tiers -/

@[simp] theorem State.fcRead_deskSide (s : State) (c n : Nat) : (s.fcRead c n).deskSide = s.deskSide := by simp [State.fcRead]
@[simp] theorem State.fcProg_deskSide (s : State) (c n : Nat) : (s.fcProg c n).deskSide = s.deskSide := by simp [State.fcProg]

@[simp] theorem State.mapLook_deskSide (s : State) (p lu : Nat) : (s.mapLook p lu).deskSide = s.deskSide := by
  unfold State.mapLook
  extract_lets n l s0 s1 s2
  have hloaded : s1.deskSide = s.deskSide := by simp [s1, s0, apply_ite State.deskSide]
  split
  · exact hloaded
  · exact (s1.bump_arcCnt_deskSide p 0x20 1).trans hloaded

@[simp] theorem State.flashRead_deskSide (s : State) (p cw : Nat) (q : CwOutcome) : (s.flashRead p cw q).deskSide = s.deskSide := by
  unfold State.flashRead
  extract_lets c retries s1
  have hdirect : s1.deskSide = s.deskSide := by simp [s1]
  clear_value s1
  have hstripe (k : State → Nat → Nat) (b : State → Nat) : ((List.range 16).foldl (fun s m =>
      if m = b s then s else s.fcRead (k s m) 1) s1).deskSide = s.deskSide :=
    (foldl_unchanged State.deskSide (fun s m => by simp [apply_ite State.deskSide]) _ s1).trans hdirect
  cases q with
  | hard => simp [hdirect]
  | retried m => simp [hdirect]
  | rebuilt => simpa using hstripe _ _
  | lost => simpa using hstripe _ _

@[simp] theorem State.fetchUnit_deskSide (s : State) (p lu : Nat) : (s.fetchUnit p lu).1.deskSide = s.deskSide := by
  unfold State.fetchUnit
  split
  · rfl
  · dsimp only
    split <;> simp

@[simp] theorem State.t2Seen_deskSide (s : State) (p : Nat) : (s.t2Seen p).deskSide = s.deskSide := rfl

@[simp] theorem State.reportBad_deskSide (s : State) (p : Option Nat) (tier inst piece cause line : Nat) :
    (s.reportBad p tier inst piece cause line).deskSide = s.deskSide := rfl

@[simp] theorem State.uncorr_deskSide (s : State) (i o : Nat) (scrub : Bool) : (s.uncorr i o scrub).deskSide = s.deskSide := by
  simp [State.uncorr]

@[simp] theorem State.reportLoc_deskSide (s : State) (p : Nat) (l : Option Loc) : (s.reportLoc p l).deskSide = s.deskSide := by
  rcases l with _ | ⟨i, o⟩ | o <;> simp [State.reportLoc]

@[simp] theorem State.cacheIn_deskSide (s : State) (p g : Nat) : (s.cacheIn p g).deskSide = s.deskSide := by
  unfold State.cacheIn
  dsimp only
  rw [State.modTp_deskSide]
  split
  · rfl
  · exact foldl_unchanged (fun x : State × Nat => x.1.deskSide) (fun x q => by dsimp only; split <;> rfl) _ _

@[simp] theorem State.translate_deskSide (s : State) (p g : Nat) : (s.translate p g).deskSide = s.deskSide := by
  unfold State.translate
  split
  · rfl
  · dsimp only
    split <;> simp

@[simp] theorem State.translateAll_deskSide (s : State) (p : Nat) (a : Word) (n : Nat) :
    (s.translateAll p a n).deskSide = s.deskSide := by
  unfold State.translateAll
  split
  · rfl
  · exact foldl_unchanged State.deskSide (fun s j => s.translate_deskSide ..) _ s

@[simp] theorem State.yieldAt_deskSide (s : State) (i o : Nat) : (s.yieldAt i o).deskSide = s.deskSide := by
  unfold State.yieldAt
  split
  · rfl
  · dsimp only
    split <;> simp

@[simp] theorem State.yieldLines_deskSide (s : State) (p : Nat) (a : Word) (n : Nat) :
    (s.yieldLines p a n).deskSide = s.deskSide :=
  foldl_unchanged State.deskSide (fun s l => by split <;> simp) _ s

@[simp] theorem State.countAccess_deskSide (s : State) (p : Nat) (a : Word) (n : Nat) :
    (s.countAccess p a n).deskSide = s.deskSide := by
  unfold State.countAccess
  split
  · rfl
  · exact foldl_unchanged State.deskSide (fun s j => s.modTp_deskSide ..) _ s

@[simp] theorem State.placeWaits_deskSide (s : State) (p t : Nat) (l : Option Loc) :
    (s.placeWaits p t l).deskSide = s.deskSide := by
  unfold State.placeWaits
  split <;> simp

@[simp] theorem State.blockWaits_deskSide (s : State) (p : Nat) (a : Word) (n : Nat) :
    (s.blockWaits p a n).deskSide = s.deskSide :=
  foldl_unchanged State.deskSide (fun s l => by simp [apply_ite State.deskSide]) _ s

@[simp] theorem State.zeroed_deskSide (s : State) (i : Nat) : (s.zeroed i).deskSide = s.deskSide := rfl

@[simp] theorem State.awaitZero_deskSide (s : State) (p : Nat) (a : Word) (n : Nat) : (s.awaitZero p a n).deskSide = s.deskSide :=
  foldl_unchanged State.deskSide (fun s l => by split <;> simp [apply_ite State.deskSide]) _ s

/-! ### Writes of the tiers -/

@[simp] theorem State.memberProgs_deskSide (s : State) (p b n : Nat) : (s.memberProgs p b n).deskSide = s.deskSide :=
  foldl_unchanged State.deskSide (fun s _ => s.fcProg_deskSide ..) _ s

@[simp] theorem State.launch_deskSide (s : State) (p : Nat) (st : Stripe) (again : Bool) :
    (s.launch p st again).deskSide = s.deskSide := by
  unfold State.launch
  dsimp only
  split <;> simp

@[simp] theorem State.enter_deskSide (s : State) (p : Nat) (st : Stripe) (again : Bool) :
    (s.enter p st again).deskSide = s.deskSide := by
  simp [State.enter, State.launchSum, apply_ite State.deskSide]

@[simp] theorem State.relaunch_deskSide (s : State) (p k : Nat) : (s.relaunch p k).deskSide = s.deskSide := by
  induction k generalizing s with
  | zero => rfl
  | succ k ih =>
    unfold State.relaunch
    dsimp only
    split
    · rfl
    · split
      · rfl
      · split
        · simp [ih]
        · split <;> simp [ih]

@[simp] theorem State.formStripes_deskSide (s : State) (p : Nat) (close : Bool) (fuel : Nat) :
    (s.formStripes p close fuel).deskSide = s.deskSide := by
  induction fuel generalizing s with
  | zero => rfl
  | succ k ih =>
    unfold State.formStripes
    dsimp only
    split
    · rfl
    · split
      · simp
      · split
        · simp
        · split <;> simp [ih]

@[simp] theorem State.letIn_deskSide (s : State) (p : Nat) : (s.letIn p).deskSide = s.deskSide := by
  unfold State.letIn
  split <;> rfl

@[simp] theorem State.fillStripes_deskSide (s : State) (p : Nat) (close : Bool) : (s.fillStripes p close).deskSide = s.deskSide := by
  simp [State.fillStripes]

@[simp] theorem State.noteWrite_deskSide (s : State) (p : Nat) (a : Word) : (s.noteWrite p a).deskSide = s.deskSide := by
  unfold State.noteWrite
  split <;> rfl

@[simp] theorem State.fillAt_deskSide (s : State) (p : Nat) (a : Word) (n k : Nat) : (s.fillAt p a n k).deskSide = s.deskSide := by
  unfold State.fillAt
  split
  · rfl
  · split
    · dsimp only
      split
      · rfl
      · split <;> simp
    · rfl

@[simp] theorem State.fillFor_deskSide (s : State) (p : Nat) (a : Word) (n : Nat) : (s.fillFor p a n).deskSide = s.deskSide := by
  unfold State.fillFor
  split
  · rfl
  · exact foldl_unchanged State.deskSide (fun s j => s.fillAt_deskSide ..) _ _

@[simp] theorem State.keepBurst_deskSide (s : State) (i o : Nat) : (s.keepBurst i o).deskSide = s.deskSide := by
  unfold State.keepBurst
  split <;> rfl

@[simp] theorem State.putLoc_deskSide (s : State) (p : Nat) (l : Option Loc) (bs : List Byte) (bad : Bool) :
    (s.putLoc p l bs bad).deskSide = s.deskSide := by
  rcases l with _ | ⟨i, o⟩ | o
  · rfl
  · simp only [State.putLoc]
    split
    · simp
    · split <;> simp
  · simp only [State.putLoc]
    split
    · rfl
    · split <;> simp

@[simp] theorem State.writeLine_deskSide (s : State) (p : Nat) (a : Word) (bs : List Byte) (bad : Bool) :
    (s.writeLine p a bs bad).deskSide = s.deskSide := by
  unfold State.writeLine
  split <;> simp

@[simp] theorem State.countDrops_deskSide (s : State) (p : Nat) (a : Word) (n : Nat) : (s.countDrops p a n).deskSide = s.deskSide := by
  unfold State.countDrops
  split
  · split <;> simp
  · rfl

@[simp] theorem State.devWrite_deskSide (s : State) (p : Nat) (a : Word) (bs : List Byte) (bad : Bool) :
    (s.devWrite p a bs bad).deskSide = s.deskSide := by
  have hlines (s : State) (l : List (Nat × Nat × List Byte)) : (l.foldl (fun s l =>
      s.writeLine p (BitVec.ofNat 64 l.2.1) l.2.2 bad) s).deskSide = s.deskSide :=
    foldl_unchanged State.deskSide (fun s l => s.writeLine_deskSide ..) l s
  simp [State.devWrite, State.devWriteLines, hlines]

end Sys2Proof.Machine
end

section
/-! SUPPORT. What the end of a query sees of the channels, the host ports, the link and the index root (O25). -/

namespace Sys2Proof.Machine

/-! ### Carrel channels -/

@[simp] theorem State.carWrite_deskSide (s : State) (p : Nat) (d : Bool × Word) (ps : List (List Byte × Bool)) :
    (s.carWrite p d ps).deskSide = s.deskSide :=
  foldl_unchanged (fun x : State × Nat => x.1.deskSide) (fun x y => by simp [apply_ite State.deskSide]) ps (s, 0)

@[simp] theorem State.carFinish_deskSide (s : State) (m p : Nat) (c : CarCmd) (status units : Nat)
    (out : List (List Byte × Bool)) : (s.carFinish m p c status units out).deskSide = s.deskSide := by
  simp [State.carFinish, apply_ite State.deskSide]

@[simp] theorem State.winQueue_deskSide (s : State) (m p : Nat) : (s.winQueue m p).deskSide = s.deskSide := by
  simp [State.winQueue, apply_ite State.deskSide]

@[simp] theorem State.carNext_deskSide (s : State) (m : Nat) : (s.carNext m).deskSide = s.deskSide := by
  unfold State.carNext
  split <;> simp

@[simp] theorem State.carStopped_deskSide (s : State) (m p : Nat) (c : CarCmd) : (s.carStopped m p c).1.deskSide = s.deskSide := by
  unfold State.carStopped
  split <;> simp

@[simp] theorem State.carCancel_deskSide (s : State) (m q : Nat) : (s.carCancel m q).deskSide = s.deskSide := by
  unfold State.carCancel
  split
  · rfl
  · next p _ =>
    have hfinished (s : State) (l : List CarCmd) : (l.foldl (fun s c => s.carFinish m p c 0x0605 0 []) s).deskSide = s.deskSide :=
      foldl_unchanged State.deskSide (fun s c => s.carFinish_deskSide ..) l s
    split
    · rfl
    · dsimp only
      split
      · simp [hfinished]
      · split <;> simp [hfinished]

/-! ### Completion queues -/

@[simp] theorem State.sendMsix_deskSide (s : State) (k v : Nat) : (s.sendMsix k v).deskSide = s.deskSide := by
  unfold State.sendMsix
  split
  · exact s.setReg_deskSide _ (by unfold msixPba viewP viewKey; omega)
  · exact State.bump_viewP_deskSide _ k 0x620 1

@[simp] theorem State.cqSignal_deskSide (s : State) (k q : Nat) : (s.cqSignal k q).deskSide = s.deskSide := by
  simp [State.cqSignal, apply_ite State.deskSide]

@[simp] theorem State.cqWritten_deskSide (s : State) (k q : Nat) : (s.cqWritten k q).deskSide = s.deskSide := by
  simp [State.cqWritten, apply_ite State.deskSide]

@[simp] theorem State.postCq_deskSide (s : State) (p k q gen sq head : Nat) (comp : List Byte) (quiet : Bool) :
    (s.postCq p k q gen sq head comp quiet).deskSide = s.deskSide := by
  simp [State.postCq, apply_ite State.deskSide]

/-! ### The index root -/

@[simp] theorem State.syncTombs_deskSide (s : State) (p : Nat) : (s.syncTombs p).deskSide = s.deskSide :=
  foldl_unchanged State.deskSide (fun s _ => s.modCore_deskSide ..) _ s

@[simp] theorem State.repin_deskSide (s : State) (p : Nat) : (s.repin p).deskSide = s.deskSide := by
  simp [State.repin, State.setPin, State.putRoot, apply_ite State.deskSide]

/-! ### The link -/

@[simp] theorem State.countDecode_deskSide (s : State) (bs : List Byte) (valid bad : Bool) :
    (s.countDecode 19 bs valid bad).deskSide = s.deskSide := by
  simp [State.countDecode, apply_ite State.deskSide]

@[simp] theorem State.escapeStall_deskSide (s : State) (p : Nat) (bs : List Byte) (valid waits : Bool) :
    (s.escapeStall 19 p bs valid waits).deskSide = s.deskSide := by
  simp [State.escapeStall, apply_ite State.deskSide, Nat.add_assoc]

@[simp] theorem State.linkDecode_deskSide (s : State) (p comp : Nat) (bs : List Byte) :
    (s.linkDecode p comp bs).1.deskSide = s.deskSide := by
  unfold State.linkDecode
  split
  · rfl
  · exact foldl_unchanged (fun x : State × List (Byte × Bool) => x.1.deskSide) (fun x k => by simp) _ _

@[simp] theorem State.linkEncode_deskSide (s : State) (p comp mould gen : Nat) (bs : List Byte) :
    (s.linkEncode p comp mould gen bs).1.deskSide = s.deskSide := by
  unfold State.linkEncode
  split <;> simp

@[simp] theorem State.payloads_deskSide (s : State) (vc p : Nat) (bs : List Byte) : (s.payloads vc p bs).1.deskSide = s.deskSide := by
  simp [State.payloads, apply_ite State.deskSide, apply_ite Prod.fst]

end Sys2Proof.Machine
end

section
/-! SUPPORT. Queries: how one is read after a change of it, what of the Desk a RESULT message can reach, and how a query
ends (R22, R23, R152). -/

namespace Sys2Proof.Machine

/-! ### Reading a query after a change -/

theorem State.setQuery_query (s : State) (q t : Nat) (x : Option Query) :
    (s.setQuery q x).query t = if t = q then x else s.query t := Tab.get_set ..

theorem State.modQuery_query_same {s : State} {q : Nat} {x : Query} (f : Query → Query) (h : s.query q = some x) :
    (s.modQuery q f).query q = some (f x) := by
  simp [State.modQuery, h, State.setQuery_query]

/-- No change of a query makes one live. -/
theorem State.modQuery_query_none {s : State} {q : Nat} (t : Nat) (f : Query → Query) (h : s.query q = none) :
    (s.modQuery t f).query q = none := by
  unfold State.modQuery
  split
  · next x hx =>
    have hne : q ≠ t := by
      rintro rfl
      simp [h] at hx
    rw [State.setQuery_query, if_neg hne, h]
  · exact h

@[simp] theorem State.modQuery_reg (s : State) (t : Nat) (f : Query → Query) (a : Nat) : (s.modQuery t f).reg a = s.reg a := by
  unfold State.modQuery
  split <;> rfl

@[simp] theorem State.modQuery_deskP (s : State) (t : Nat) (f : Query → Query) : (s.modQuery t f).deskP = s.deskP := by
  unfold State.modQuery
  split <;> rfl

/-! ### Counters -/

theorem State.bump_reg_other (s : State) {a b : Nat} (n : Nat) (h : b ≠ a) : (s.bump a n).reg b = s.reg b := by
  rw [State.bump, State.setReg_reg, if_neg h]

theorem counted_bump (s : State) (a n : Nat) : counted s (s.bump a n) a n := by
  unfold counted
  rw [State.bump, State.setReg_reg_same, BitVec.toNat_ofNat]
  omega

/-! ### What stays of an ended query -/

/-- Query `q` is not live after the change if it was not before, and no register below the TIER page has changed. -/
def staysEnded (q : Nat) (s u : State) : Prop := (s.query q = none → u.query q = none) ∧ ∀ a < 0x9000, u.reg a = s.reg a

theorem staysEnded_of_deskSide {q : Nat} {s u : State} (h : u.deskSide = s.deskSide) : staysEnded q s u :=
  ⟨(State.query_of_deskSide h q).trans, fun _ => State.reg_of_deskSide h⟩

theorem staysEnded_refl (q : Nat) (s : State) : staysEnded q s s := ⟨id, fun _ _ => rfl⟩

theorem staysEnded_trans {q : Nat} {s t u : State} (h : staysEnded q s t) (h' : staysEnded q t u) : staysEnded q s u :=
  ⟨h'.1 ∘ h.1, fun a ha => (h'.2 a ha).trans (h.2 a ha)⟩

theorem State.modQuery_staysEnded (s : State) (q t : Nat) (f : Query → Query) : staysEnded q s (s.modQuery t f) :=
  ⟨State.modQuery_query_none t f, fun a _ => s.modQuery_reg t f a⟩

theorem State.askMerge_staysEnded (s : State) (q : Nat) (m : Merge) : staysEnded q s (s.askMerge m) := by
  unfold State.askMerge
  split <;> exact ⟨id, fun _ _ => rfl⟩

theorem State.mergeNext_staysEnded (s : State) (q t : Nat) : staysEnded q s (s.mergeNext t) := by
  unfold State.mergeNext
  split
  · exact staysEnded_refl ..
  · split
    · exact staysEnded_refl ..
    · split
      · exact s.modQuery_staysEnded ..
      · exact staysEnded_trans (s.modQuery_staysEnded ..) (State.askMerge_staysEnded ..)

/-- A RESULT message changes queries that are live, and counts nothing (R152). -/
theorem State.takeResult_staysEnded (s : State) (q : Nat) (m : Msg) : staysEnded q s (s.takeResult m) := by
  unfold State.takeResult
  dsimp only
  split
  · exact staysEnded_refl ..
  · split
    · exact staysEnded_refl ..
    · split
      · exact staysEnded_refl ..
      · split
        · exact staysEnded_trans (staysEnded_trans (s.modQuery_staysEnded ..) (State.modQuery_staysEnded ..))
            (State.modQuery_staysEnded ..)
        · exact staysEnded_trans (staysEnded_trans (s.modQuery_staysEnded ..) (State.modQuery_staysEnded ..))
            (State.mergeNext_staysEnded ..)

theorem State.sendHere_result_staysEnded (s : State) (q : Nat) (m : Msg) (ps : List (Nat × List Byte)) :
    staysEnded q s (s.sendHere 1 m ps) := by
  unfold State.sendHere
  extract_lets d
  have hdecoded : d.1.deskSide = s.deskSide :=
    foldl_unchanged (fun x : State × List (Byte × Bool) => x.1.deskSide) (fun x y => by simp) ps (s, [])
  split
  · exact staysEnded_of_deskSide hdecoded
  · exact staysEnded_trans (staysEnded_of_deskSide hdecoded) (State.takeResult_staysEnded ..)

theorem State.sendMsg_result_staysEnded (s : State) (q p epoch dn dp : Nat) (bs : List Byte) :
    staysEnded q s (s.sendMsg 1 p epoch dn dp bs) := by
  unfold State.sendMsg
  dsimp only
  split
  · exact staysEnded_trans (staysEnded_of_deskSide (s.payloads_deskSide ..)) (State.sendHere_result_staysEnded ..)
  · split
    · exact staysEnded_refl ..
    · split
      · exact staysEnded_refl ..
      · exact staysEnded_of_deskSide (by simp)

/-- A completion, wherever it goes, makes no query live and counts nothing at the Desk (R22). -/
theorem State.complete_staysEnded (s : State) (q : Nat) (x : Query) (comp rec_ : List Byte) (quiet : Bool) :
    staysEnded q s (s.complete x comp rec_ quiet) := by
  unfold State.complete
  split
  · exact staysEnded_of_deskSide (s.postCq_deskSide ..)
  · exact s.sendMsg_result_staysEnded ..
  · dsimp only
    split
    · exact staysEnded_of_deskSide (s.carWrite_deskSide ..)
    · exact staysEnded_refl ..
  · exact staysEnded_refl ..

/-! ### The end of a query -/

theorem State.endQuery_deskSide (s : State) (q : Nat) (x : Query) (failed : Bool) :
    (s.endQuery q x failed).deskSide = (s.setQuery q none).deskSide := by
  have hcancelled (s : State) (l : List Nat) :
      (l.foldl (fun s m => if s.isCarrel m then s.carCancel m q else s) s).deskSide = s.deskSide :=
    foldl_unchanged State.deskSide (fun s m => by simp [apply_ite State.deskSide]) l s
  simp [State.endQuery, apply_ite State.deskSide, hcancelled]

theorem State.endQuery_query (s : State) (q : Nat) (x : Query) (failed : Bool) : (s.endQuery q x failed).query q = none := by
  rw [State.query_of_deskSide (s.endQuery_deskSide q x failed), State.setQuery_query, if_pos rfl]

theorem State.endQuery_reg (s : State) (q : Nat) (x : Query) (failed : Bool) {a : Nat} (ha : a < 0x9000) :
    (s.endQuery q x failed).reg a = s.reg a :=
  State.reg_of_deskSide (s.endQuery_deskSide q x failed) ha

/-- What a failed query leaves: its end, then its completion. -/
theorem State.endFailed_staysEnded (s : State) (q : Nat) (x : Query) (code : Nat) (quiet : Bool) :
    staysEnded q (((s.bump (deskCnt x.part 3) 1).countLate x).endQuery q x true) (s.endFailed q x code quiet) := by
  unfold State.endFailed
  dsimp only
  split
  · exact staysEnded_of_deskSide (State.loswFail_deskSide ..)
  · exact State.complete_staysEnded ..

theorem State.endFailed_query (s : State) (q : Nat) (x : Query) (code : Nat) (quiet : Bool) :
    (s.endFailed q x code quiet).query q = none :=
  (s.endFailed_staysEnded q x code quiet).1 (State.endQuery_query ..)

/-- RT_OVERRUN is counted beside the count of failed queries. -/
theorem State.countLate_reg_failed (s : State) (x : Query) : (s.countLate x).reg (deskCnt x.part 3) = s.reg (deskCnt x.part 3) := by
  unfold State.countLate
  split
  · exact s.bump_reg_other 1 (by unfold deskCnt; omega)
  · rfl

theorem State.endFailed_counted (s : State) (q : Nat) (x : Query) (code : Nat) (quiet : Bool) (hpart : x.part < 16) :
    counted s (s.endFailed q x code quiet) (deskCnt x.part 3) 1 := by
  have hlow : deskCnt x.part 3 < 0x9000 := by unfold deskCnt; omega
  have hkept : (s.endFailed q x code quiet).reg (deskCnt x.part 3) = (s.bump (deskCnt x.part 3) 1).reg (deskCnt x.part 3) :=
    calc (s.endFailed q x code quiet).reg (deskCnt x.part 3)
      _ = _ := (s.endFailed_staysEnded q x code quiet).2 _ hlow
      _ = _ := State.endQuery_reg _ q x true hlow
      _ = _ := State.countLate_reg_failed _ x
  unfold counted
  rw [hkept]
  exact counted_bump ..

theorem State.endOk_query (s : State) (q : Nat) (x : Query) : (s.endOk q x).query q = none := by
  unfold State.endOk
  extract_lets place s1 s2 s3
  have hended : s3.query q = none := State.endQuery_query ..
  clear_value s3
  split
  · exact s.endFailed_query ..
  · split
    · exact (State.query_of_deskSide (s3.loswDone_deskSide ..) q).trans hended
    · exact (s3.complete_staysEnded q x _ _ _).1 hended

end Sys2Proof.Machine
end

section
/-! SUPPORT. Work items, the choice of cores and the stages of a query; the Desk takes queries through their stages and
completes them (O25). -/

namespace Sys2Proof.Machine

/-! ### Work items (R196, R197) -/

@[simp] theorem State.wakeUnit_deskP (s : State) (c : Nat) : (s.wakeUnit c).deskP = s.deskP :=
  foldl_unchanged State.deskP (fun s t => by dsimp only; split <;> rfl) _ s

/-- Waking contexts leaves the work queues alone. -/
theorem State.wakeUnit_workq (s : State) (c d : Nat) : ((s.wakeUnit c).core d).workq = (s.core d).workq := by
  refine foldl_unchanged (fun s : State => (s.core d).workq) (fun s t => ?_) _ s
  dsimp only
  split
  · rw [State.setThr, State.modCore, State.setCore_core]
    split
    · next h => rw [h]; rfl
    · rfl
  · rfl

/-- The item that `takeHeld` finds was held for the core, and fits its queue. -/
theorem takeHeld_some {k : Core} {c : Nat} {l r : List (Nat × List Byte)} {rt be : Bool} {b : List Byte}
    (h : takeHeld k c l rt be = some (b, r)) : (c, b) ∈ l ∧ k.itemFits b = true := by
  induction l generalizing rt be r with
  | nil => simp [takeHeld] at h
  | cons x l ih =>
    rw [takeHeld] at h
    by_cases htaken : x.1 = c ∧ (if itemRt x.2 then !rt else !be) = true ∧ k.itemFits x.2 = true
    · rw [if_pos htaken] at h
      obtain ⟨rfl, -, hfits⟩ := htaken
      cases h
      exact ⟨List.mem_cons_self, hfits⟩
    · rw [if_neg htaken] at h
      obtain ⟨⟨b', r'⟩, hrest, heq⟩ := Option.map_eq_some_iff.1 h
      cases heq
      obtain ⟨hmem, hfits⟩ := ih hrest
      exact ⟨List.mem_cons_of_mem _ hmem, hfits⟩

/-- An item that fits leaves its kind within its share of the queue (R197). -/
theorem itemFits_length {k : Core} {b : List Byte} (h : k.itemFits b = true) :
    ((k.workq ++ [b]).filter (fun x => itemRt x == itemRt b)).length ≤ if itemRt b then 16 else 48 := by
  have hroom : (k.workq.filter (fun x => itemRt x == itemRt b)).length < if itemRt b then 16 else 48 := of_decide_eq_true h
  simpa using hroom

/-- The state after a held item has entered the queue of its core. -/
def State.released (s : State) (p c : Nat) (b : List Byte) (r : List (Nat × List Byte)) : State :=
  ((s.modDk p (fun d => { d with held := r })).modCore c (fun k => { k with workq := k.workq ++ [b] })).wakeUnit c

theorem State.released_workq (s : State) (p c : Nat) (b : List Byte) (r : List (Nat × List Byte)) :
    ((s.released p c b r).core c).workq = (s.core c).workq ++ [b] := by
  rw [State.released, State.wakeUnit_workq, State.modCore, State.setCore_core, if_pos rfl]
  rfl

theorem State.released_held (s : State) (p c : Nat) (b : List Byte) (r : List (Nat × List Byte)) :
    ((s.released p c b r).dk p).held = r := by
  have hdesk : (s.released p c b r).dk p = (s.modDk p (fun d => { d with held := r })).dk p := by
    simp [State.released, State.dk, State.modCore]
  rw [hdesk, State.modDk_dk, if_pos rfl]

theorem exec_workItemRelease {s : State} {p : PartId} {c : CoreId} {b : List Byte} {r : List (Nat × List Byte)}
    (hown : s.coreOwner c = some p.val) (htakes : s.takesItems c = true)
    (hheld : takeHeld (s.core c) c (s.dk p).held false false = some (b, r)) :
    exec (.workItemRelease c) s = .next (s.released p c b r) := by
  change execWorkItemRelease c s = _
  simp only [execWorkItemRelease, hown, htakes, hheld]
  rfl

theorem State.sendItem_deskSide (s : State) (p c : Nat) (b : List Byte) : (s.sendItem p c b).deskSide = s.deskSide := by
  simp [State.sendItem, apply_ite State.deskSide]

/-! ### The choice of cores (R17) -/

/-- `pickCores` chooses distinct cores of the list, as many as asked where there are enough. -/
theorem pickCores_spec {n : Nat} (k : Nat) {l : List Nat} (hlen : n ≤ l.length) (hl : l.Nodup) :
    (pickCores n k l).length = n ∧ (pickCores n k l).Nodup ∧ ∀ d ∈ pickCores n k l, d ∈ l := by
  induction n generalizing k l with
  | zero => simp [pickCores]
  | succ n ih =>
    have hpos : Config.freePick k % l.length < l.length := Nat.mod_lt _ (by omega)
    have hpick := List.getElem?_eq_getElem hpos
    have hmem : l[Config.freePick k % l.length] ∈ l := List.getElem_mem hpos
    unfold pickCores
    rw [hpick]
    generalize l[Config.freePick k % l.length] = c at hmem
    obtain ⟨hlength, hnodup, hsub⟩ := ih (k + 1) (l := l.erase c) (by rw [List.length_erase_of_mem hmem]; omega) (hl.erase c)
    refine ⟨by simp [hlength], List.nodup_cons.2 ⟨fun hc => ?_, hnodup⟩, fun d hd => ?_⟩
    · exact (hl.mem_erase_iff.1 (hsub c hc)).1 rfl
    · rcases List.mem_cons.1 hd with rfl | hd
      · exact hmem
      · exact List.mem_of_mem_erase (hsub d hd)

theorem State.takers_nodup (s : State) (p : Nat) : (s.takers p).Nodup := (List.nodup_range.filter _).filter _

/-- The query that a fan-out has begun for. -/
theorem State.sendFan_query {s : State} {q : Nat} {y : Query} (x : Query) (kind cols : Nat) (fan : List Nat)
    (h : s.query q = some y) :
    (s.sendFan q x kind cols fan).query q = some { y with fan := fan, waiting := fan, recs := [], busy := true } := by
  unfold State.sendFan
  extract_lets s1
  have hsent (l : List (Nat × Nat)) : (l.foldl (fun s j =>
      s.sendItem x.part j.2 (workItem x q kind j.1 fan.length 0 x.reqAddr 0 0 cols x.qvec)) s1).deskSide = s1.deskSide :=
    foldl_unchanged State.deskSide (fun s j => s.sendItem_deskSide ..) l s1
  rw [State.query_of_deskSide (hsent _)]
  exact State.modQuery_query_same _ h

/-! ### Stages (R17) -/

theorem exec_queryStageAdvance_rests {s : State} {q : Nat} {x : Query} (hq : s.query q = some x)
    (h : x.busy = true ∨ x.err ≠ 0 ∨ x.stage = .report) : exec (.queryStageAdvance q) s = .next s := by
  change execQueryStageAdvance q s = _
  simp only [execQueryStageAdvance, hq]
  exact if_pos h

theorem exec_queryStageAdvance_starts {s : State} {q : Nat} {x : Query} (hq : s.query q = some x) (hbusy : x.busy = false)
    (herr : x.err = 0) (hstage : x.stage ≠ .report) : exec (.queryStageAdvance q) s = .next (s.startStage q x x.nextStage) := by
  change execQueryStageAdvance q s = _
  simp [execQueryStageAdvance, hq, hbusy, herr, hstage]

theorem Query.nextStage_encode {x : Query} (hstage : x.stage = .admitted) (hencodes : clFlag x.cls 2 = true)
    (hraw : bit (leAt x.req 2 2) 0 = false) : x.nextStage = .encode := by
  simp [Query.nextStage, hstage, hencodes, hraw]

theorem Query.nextStage_search {x : Query} (hstage : x.stage = .admitted) (hencodes : clFlag x.cls 2 = false) :
    x.nextStage = .search := by
  simp [Query.nextStage, hstage, hencodes]

theorem State.startStage_encode_query {s : State} {q : Nat} {x : Query} (hq : s.query q = some x) :
    (s.startStage q x .encode).query q = some { x with stage := .encode, busy := true } :=
  State.modQuery_query_same _ (State.modQuery_query_same _ hq)

theorem State.startStage_encode_ready (s : State) (q : Nat) (x : Query) :
    ((s.startStage q x .encode).dk x.part).ready = (s.dk x.part).ready ++ [newStep (bAt x.cls 4) [q] 1 (clRt x.cls)] := by
  simp only [State.startStage, State.readyStep]
  rw [State.modDk_dk, if_pos rfl]
  simp [State.dk]

theorem State.startStage_search_waits {s : State} (q : Nat) {x : Query} (hsearch : clSearch x.cls ≠ 0)
    (hfew : (s.takers x.part).length < clFan x.cls) : s.startStage q x .search = s := by
  simp [State.startStage, hsearch, hfew]

/-- A walk asked by another node goes to FANOUT distinct cores that take items. -/
theorem State.startStage_search_query {s : State} {q : Nat} {x : Query} (hq : s.query q = some x) (hsearch : clSearch x.cls ≠ 0)
    (hhome : isHome x = false) (henough : clFan x.cls ≤ (s.takers x.part).length) :
    ∃ k, (s.startStage q x .search).query q = some { x with
      stage := .search, busy := true, recs := [],
      fan := pickCores (clFan x.cls) k (s.takers x.part), waiting := pickCores (clFan x.cls) k (s.takers x.part) } := by
  let s1 := s.modQuery q (fun x => { x with stage := .search })
  have hstart : s.startStage q x .search =
      { s1 with free := s1.free + clFan x.cls }.sendFan q x 0 1 (pickCores (clFan x.cls) s1.free (s.takers x.part)) := by
    simp only [State.startStage, if_neg hsearch, if_neg (Nat.not_lt.2 henough), hhome, Bool.false_eq_true, if_false, s1]
  have hstaged : ({ s1 with free := s1.free + clFan x.cls } : State).query q = some { x with stage := .search } :=
    State.modQuery_query_same _ hq
  rw [hstart]
  exact ⟨s1.free, State.sendFan_query x 0 1 _ hstaged⟩

/-! ### Completion (R22, R23) -/

theorem exec_queryComplete_failed {s : State} {q : Nat} {x : Query} (hq : s.query q = some x) (herr : x.err ≠ 0) :
    exec (.queryComplete q) s = .next (s.endFailed q x x.err false) := by
  change execQueryComplete q s = _
  simp [execQueryComplete, hq, herr]

theorem exec_queryComplete_done {s : State} {q : Nat} {x : Query} (hq : s.query q = some x) (herr : x.err = 0)
    (hstage : x.stage = .report) (hbusy : x.busy = false) : exec (.queryComplete q) s = .next (s.endOk q x) := by
  change execQueryComplete q s = _
  simp [execQueryComplete, hq, herr, hstage, hbusy]

/-- Settles O25: each command by its one equation, and what it leaves of the query by what the other blocks' operations leave
of the Desk. -/
theorem deskRunsQueries : Obligations.DeskRunsQueries := by
  unfold Obligations.DeskRunsQueries
  intro p c q x s
  refine ⟨fun hown htakes b r hheld => ?_, fun hq => ⟨exec_queryStageAdvance_rests hq, fun hbusy herr hstage => ⟨?_, ?_⟩, ?_, ?_⟩⟩
  · obtain ⟨hmem, hfits⟩ := takeHeld_some hheld
    refine ⟨_, exec_workItemRelease hown htakes hheld, State.released_workq .., State.released_held .., hmem, ?_⟩
    rw [State.released_workq]
    exact itemFits_length hfits
  · intro hencodes hraw
    refine ⟨_, exec_queryStageAdvance_starts hq hbusy herr (by simp [hstage]), newStep (bAt x.cls 4) [q] 1 (clRt x.cls), ?_⟩
    rw [Query.nextStage_encode hstage hencodes hraw]
    exact ⟨State.startStage_encode_query hq, State.startStage_encode_ready .., rfl, rfl, rfl⟩
  · intro hencodes hsearch hhome
    have hstarts := exec_queryStageAdvance_starts hq hbusy herr (by simp [hstage])
    rw [Query.nextStage_search hstage hencodes] at hstarts
    refine ⟨fun hfew => ?_, fun henough => ?_⟩
    · rw [State.startStage_search_waits q hsearch hfew] at hstarts
      exact hstarts
    · obtain ⟨k, hquery⟩ := State.startStage_search_query hq hsearch hhome henough
      obtain ⟨hlength, hnodup, hsub⟩ := pickCores_spec k henough (s.takers_nodup x.part)
      exact ⟨_, hstarts, _, hquery, rfl, rfl, rfl, hlength, hnodup, hsub⟩
  · intro herr
    exact ⟨_, exec_queryComplete_failed hq herr, s.endFailed_query .., s.endFailed_counted q x x.err false⟩
  · intro herr hstage hbusy
    exact ⟨_, exec_queryComplete_done hq herr hstage hbusy, s.endOk_query q x⟩

end Sys2Proof.Machine
end

section
/-! SUPPORT. What the operations of cores, threads, engines and tiers do to CLK_TIME: nothing (R40). One lemma per operation, in
the order of the model's files (O48). In a function of several steps each step is made opaque (clear_value) once its CLK_TIME
is known, so that the next is not checked by unfolding it. -/

namespace Sys2Proof.Machine

/-- A fold of steps that leave CLK_TIME alone leaves it alone. -/
@[simp] theorem State.foldl_clk {α : Type} {f : State → α → State} (h : ∀ s x, (f s x).clk = s.clk) (l : List α) (s : State) :
    (l.foldl f s).clk = s.clk := foldl_unchanged State.clk h l s

/-- The same where the state is carried with something else. -/
@[simp] theorem State.foldl_fst_clk {α β : Type} {f : State × β → α → State × β} (h : ∀ x y, (f x y).1.clk = x.1.clk)
    (l : List α) (x : State × β) : (l.foldl f x).1.clk = x.1.clk := foldl_unchanged (fun x => x.1.clk) h l x

/-! ### Registers, cores and groups -/

@[simp] theorem State.bump_clk (s : State) (a n : Nat) : (s.bump a n).clk = s.clk := by simp [State.bump]
@[simp] theorem State.setField_clk (s : State) (a lo n v : Nat) : (s.setField a lo n v).clk = s.clk := by simp [State.setField]

@[simp] theorem State.sendMsix_clk (s : State) (k v : Nat) : (s.sendMsix k v).clk = s.clk := by
  unfold State.sendMsix
  split <;> simp

@[simp] theorem State.setIrqOut_clk (s : State) (base : Nat) (w : Word) : (s.setIrqOut base w).clk = s.clk := rfl
@[simp] theorem State.modCore_clk (s : State) (c : Nat) (f : Core → Core) : (s.modCore c f).clk = s.clk := rfl
@[simp] theorem State.modGrp_clk (s : State) (c g : Nat) (f : Group → Group) : (s.modGrp c g f).clk = s.clk := rfl

@[simp] theorem State.logEv_clk (s : State) (code sev : Nat) (part : Option Nat) (data : List Byte) :
    (s.logEv code sev part data).clk = s.clk := rfl

@[simp] theorem State.meterAdd_clk (s : State) (p k n : Nat) : (s.meterAdd p k n).clk = s.clk := rfl
@[simp] theorem State.waitCycles_clk (s : State) (a : Nat) : (s.waitCycles a).clk = s.clk := by simp [State.waitCycles]

/-! ### Queries, lists and handles -/

@[simp] theorem State.setQuery_clk (s : State) (q : Nat) (x : Option Query) : (s.setQuery q x).clk = s.clk := rfl

@[simp] theorem State.modQuery_clk (s : State) (q : Nat) (f : Query → Query) : (s.modQuery q f).clk = s.clk := by
  unfold State.modQuery
  split <;> rfl

@[simp] theorem State.failQuery_clk (s : State) (q code : Nat) : (s.failQuery q code).clk = s.clk := s.modQuery_clk ..

@[simp] theorem State.wakeIf_clk (s : State) (c : Nat) (p : Thread → Bool) (f : Thread → Thread) :
    (s.wakeIf c p f).clk = s.clk :=
  foldl_unchanged State.clk (fun s t => by dsimp only; split <;> rfl) _ s

@[simp] theorem State.wakeUnit_clk (s : State) (c : Nat) : (s.wakeUnit c).clk = s.clk := s.wakeIf_clk ..
@[simp] theorem State.gsig_clk (s : State) (c g : Nat) : (s.gsig c g).clk = s.clk := (State.wakeIf_clk ..).trans rfl

@[simp] theorem State.closeLists_clk (s : State) (c g : Nat) : (s.closeLists c g).clk = s.clk :=
  foldl_unchanged State.clk (fun s _ => by rfl) _ s

@[simp] theorem State.freeGroup_clk (s : State) (c g : Nat) : (s.freeGroup c g).clk = s.clk := s.closeLists_clk c g

@[simp] theorem State.tryFree_clk (s : State) (c g : Nat) : (s.tryFree c g).clk = s.clk := by
  unfold State.tryFree
  dsimp only
  split <;> simp

@[simp] theorem State.dropHeld_clk (s : State) (c g : Nat) : (s.dropHeld c g).clk = s.clk := by simp [State.dropHeld]

@[simp] theorem State.killGroup_clk (s : State) (c g : Nat) : (s.killGroup c g).clk = s.clk := by
  unfold State.killGroup
  extract_lets x s1 s2 s3 s4
  have hdropped : s1.clk = s.clk := by simp [s1, apply_ite State.clk]
  clear_value s1
  have hclosed : s3.clk = s.clk := (s1.closeLists_clk c g).trans hdropped
  clear_value s3
  have hmarked : s4.clk = s.clk := (foldl_unchanged State.clk (fun s t => by rfl) _ s3).trans hclosed
  clear_value s4
  split
  · rfl
  · exact (s4.tryFree_clk c g).trans hmarked

@[simp] theorem State.releaseHandles_clk (s : State) (c h : Nat) : (s.releaseHandles c h).clk = s.clk := by
  unfold State.releaseHandles
  dsimp only
  split <;> rfl

/-! ### Reads of the tiers -/

@[simp] theorem State.countPage_clk (s : State) (p g n : Nat) : (s.countPage p g n).clk = s.clk := rfl

@[simp] theorem State.countAccess_clk (s : State) (p : Nat) (a : Word) (n : Nat) : (s.countAccess p a n).clk = s.clk := by
  unfold State.countAccess
  split
  · rfl
  · exact foldl_unchanged State.clk (fun s j => s.countPage_clk ..) _ s

@[simp] theorem State.meterRead_clk (s : State) (p : Nat) (a : Word) (n : Nat) : (s.meterRead p a n).clk = s.clk := by
  unfold State.meterRead
  split <;> rfl

@[simp] theorem State.poisonRead_clk (s : State) (p : Nat) : (s.poisonRead p).clk = s.clk := by simp [State.poisonRead]

@[simp] theorem State.reportBad_clk (s : State) (p : Option Nat) (tier inst piece cause line : Nat) :
    (s.reportBad p tier inst piece cause line).clk = s.clk := rfl

@[simp] theorem State.uncorr_clk (s : State) (i o : Nat) (scrub : Bool) : (s.uncorr i o scrub).clk = s.clk := by
  simp [State.uncorr]

@[simp] theorem State.fcRead_clk (s : State) (c n : Nat) : (s.fcRead c n).clk = s.clk := by simp [State.fcRead]
@[simp] theorem State.fcProg_clk (s : State) (c n : Nat) : (s.fcProg c n).clk = s.clk := by simp [State.fcProg]

@[simp] theorem State.mapLook_clk (s : State) (p lu : Nat) : (s.mapLook p lu).clk = s.clk := by
  simp [State.mapLook, apply_ite State.clk]

@[simp] theorem State.flashRead_clk (s : State) (p cw : Nat) (q : CwOutcome) : (s.flashRead p cw q).clk = s.clk := by
  unfold State.flashRead
  split <;> simp [apply_ite State.clk]

@[simp] theorem State.fetchUnit_clk (s : State) (p lu : Nat) : (s.fetchUnit p lu).1.clk = s.clk := by
  unfold State.fetchUnit
  split
  · rfl
  · dsimp only
    split <;> simp

@[simp] theorem State.t2Seen_clk (s : State) (p : Nat) : (s.t2Seen p).clk = s.clk := rfl

@[simp] theorem State.readUnit_clk (s : State) (p lu : Nat) : (s.readUnit p lu).1.clk = s.clk := by
  unfold State.readUnit
  dsimp only
  split <;> simp

@[simp] theorem State.readUnits_clk (s : State) (p : Nat) (a : Word) (n : Nat) : (s.readUnits p a n).1.clk = s.clk := by
  unfold State.readUnits
  split <;> simp

@[simp] theorem State.reportLoc_clk (s : State) (p : Nat) (l : Option Loc) : (s.reportLoc p l).clk = s.clk := by
  unfold State.reportLoc
  split <;> simp

@[simp] theorem State.reportLine_clk (s : State) (p : Nat) (a : Word) (first : Bool) :
    (s.reportLine p a first).clk = s.clk := by
  unfold State.reportLine
  split
  · rfl
  · split <;> simp [apply_ite State.clk]

@[simp] theorem State.cacheIn_clk (s : State) (p g : Nat) : (s.cacheIn p g).clk = s.clk := by
  simp [State.cacheIn, apply_ite State.clk]

@[simp] theorem State.translate_clk (s : State) (p g : Nat) : (s.translate p g).clk = s.clk := by
  unfold State.translate
  split
  · rfl
  · dsimp only
    split <;> simp

@[simp] theorem State.translateAll_clk (s : State) (p : Nat) (a : Word) (n : Nat) : (s.translateAll p a n).clk = s.clk := by
  unfold State.translateAll
  split
  · rfl
  · exact foldl_unchanged State.clk (fun s j => s.translate_clk ..) _ s

@[simp] theorem State.yieldAt_clk (s : State) (i o : Nat) : (s.yieldAt i o).clk = s.clk := by
  unfold State.yieldAt
  split
  · rfl
  · dsimp only
    split <;> simp

@[simp] theorem State.yieldLines_clk (s : State) (p : Nat) (a : Word) (n : Nat) : (s.yieldLines p a n).clk = s.clk :=
  foldl_unchanged State.clk (fun s l => by split <;> simp) _ s

@[simp] theorem State.keepBurst_clk (s : State) (i o : Nat) : (s.keepBurst i o).clk = s.clk := by
  unfold State.keepBurst
  split <;> rfl

/-! ### Slots, contexts and lanes -/

@[simp] theorem State.modLosw_clk (s : State) (p o : Nat) (f : Losw → Losw) : (s.modLosw p o f).clk = s.clk := rfl
@[simp] theorem State.loswFail_clk (s : State) (p o code : Nat) : (s.loswFail p o code).clk = s.clk := rfl
@[simp] theorem State.loswDone_clk (s : State) (p o : Nat) : (s.loswDone p o).clk = s.clk := rfl
@[simp] theorem State.loswAbort_clk (s : State) (p o : Nat) : (s.loswAbort p o).clk = s.clk := rfl

@[simp] theorem State.loswRun_clk (s : State) (p o total : Nat) (partial_ : Bool) :
    (s.loswRun p o total partial_).clk = s.clk := rfl

@[simp] theorem State.loswProg_clk (s : State) (p o n : Nat) : (s.loswProg p o n).clk = s.clk := rfl
@[simp] theorem State.endThread_clk (s : State) (c t : Nat) : (s.endThread c t).clk = s.clk := by simp [State.endThread]
@[simp] theorem State.choose_clk (s : State) (l : List Nat) : (s.choose l).2.clk = s.clk := rfl

theorem State.clk_of_choose {s s1 : State} {l : List Nat} {o : Option Nat} (h : s.choose l = (o, s1)) : s1.clk = s.clk := by
  rw [← s.choose_clk l, h]

@[simp] theorem State.escapeStall_clk (s : State) (x p : Nat) (stored : List Byte) (valid waits : Bool) :
    (s.escapeStall x p stored valid waits).clk = s.clk := by
  unfold State.escapeStall
  split <;> simp

@[simp] theorem State.countDecode_clk (s : State) (x : Nat) (stored : List Byte) (valid bad : Bool) :
    (s.countDecode x stored valid bad).clk = s.clk := by simp [State.countDecode, apply_ite State.clk]

/-! ### Waits for the tiers -/

@[simp] theorem State.placeWaits_clk (s : State) (p t : Nat) (l : Option Loc) : (s.placeWaits p t l).clk = s.clk := by
  unfold State.placeWaits
  split <;> simp

@[simp] theorem State.blockWaits_clk (s : State) (p : Nat) (a : Word) (n : Nat) : (s.blockWaits p a n).clk = s.clk :=
  foldl_unchanged State.clk (fun s l => by simp [apply_ite State.clk]) _ s

@[simp] theorem State.zeroed_clk (s : State) (i : Nat) : (s.zeroed i).clk = s.clk := rfl

@[simp] theorem State.awaitZero_clk (s : State) (p : Nat) (a : Word) (n : Nat) : (s.awaitZero p a n).clk = s.clk :=
  foldl_unchanged State.clk (fun s l => by split <;> simp [apply_ite State.clk]) _ s

/-! ### Stripes and writes of the tiers -/

@[simp] theorem State.memberProgs_clk (s : State) (p b n : Nat) : (s.memberProgs p b n).clk = s.clk :=
  foldl_unchanged State.clk (fun s _ => s.fcProg_clk ..) _ s

@[simp] theorem State.launch_clk (s : State) (p : Nat) (st : Stripe) (again : Bool) : (s.launch p st again).clk = s.clk := by
  simp [State.launch, apply_ite State.clk]

@[simp] theorem State.launchSum_clk (s : State) (p b : Nat) : (s.launchSum p b).clk = s.clk := by
  unfold State.launchSum
  dsimp only
  split <;> simp

@[simp] theorem State.enter_clk (s : State) (p : Nat) (st : Stripe) (again : Bool) : (s.enter p st again).clk = s.clk := by
  unfold State.enter
  dsimp only
  split <;> simp

@[simp] theorem State.closeSb_clk (s : State) (p b : Nat) : (s.closeSb p b).clk = s.clk := by simp [State.closeSb]

@[simp] theorem State.relaunch_clk (s : State) (p k : Nat) : (s.relaunch p k).clk = s.clk := by
  induction k generalizing s with
  | zero => rfl
  | succ k ih =>
    unfold State.relaunch
    dsimp only
    split
    · rfl
    · split
      · rfl
      · split
        · simp [ih]
        · split <;> simp [ih]

@[simp] theorem State.formStripes_clk (s : State) (p : Nat) (close : Bool) (fuel : Nat) :
    (s.formStripes p close fuel).clk = s.clk := by
  induction fuel generalizing s with
  | zero => rfl
  | succ k ih =>
    unfold State.formStripes
    dsimp only
    split
    · rfl
    · split
      · simp
      · split
        · simp
        · split <;> simp [ih]

@[simp] theorem State.letIn_clk (s : State) (p : Nat) : (s.letIn p).clk = s.clk := by
  unfold State.letIn
  split <;> rfl

@[simp] theorem State.fillStripes_clk (s : State) (p : Nat) (close : Bool) : (s.fillStripes p close).clk = s.clk := by
  simp [State.fillStripes]

@[simp] theorem State.readTo_clk (s : State) (p : Nat) (a : Word) (n : Nat) : (s.readTo p a n).1.clk = s.clk := by
  simp [State.readTo]

@[simp] theorem State.readBy_clk (s : State) (p : Nat) (a : Word) (n : Nat) : (s.readBy p a n).1.clk = s.clk := by
  unfold State.readBy
  dsimp only
  split <;> simp

@[simp] theorem State.devRead_clk (s : State) (p : Nat) (a : Word) (n : Nat) : (s.devRead p a n).1.clk = s.clk := by
  simp [State.devRead]

@[simp] theorem State.noteWrite_clk (s : State) (p : Nat) (a : Word) : (s.noteWrite p a).clk = s.clk := by
  unfold State.noteWrite
  split <;> rfl

@[simp] theorem State.fillAt_clk (s : State) (p : Nat) (a : Word) (n k : Nat) : (s.fillAt p a n k).clk = s.clk := by
  unfold State.fillAt
  split
  · rfl
  · split
    · dsimp only
      split
      · rfl
      · split <;> simp
    · rfl

@[simp] theorem State.fillFor_clk (s : State) (p : Nat) (a : Word) (n : Nat) : (s.fillFor p a n).clk = s.clk := by
  unfold State.fillFor
  split
  · rfl
  · exact (foldl_unchanged State.clk (fun s j => s.fillAt_clk ..) _ _).trans rfl

@[simp] theorem State.putLoc_clk (s : State) (p : Nat) (l : Option Loc) (bs : List Byte) (bad : Bool) :
    (s.putLoc p l bs bad).clk = s.clk := by
  unfold State.putLoc
  split <;> simp [apply_ite State.clk]

@[simp] theorem State.writeLine_clk (s : State) (p : Nat) (a : Word) (bs : List Byte) (bad : Bool) :
    (s.writeLine p a bs bad).clk = s.clk := by
  unfold State.writeLine
  split <;> simp

@[simp] theorem State.countDrops_clk (s : State) (p : Nat) (a : Word) (n : Nat) : (s.countDrops p a n).clk = s.clk := by
  unfold State.countDrops
  split <;> simp [apply_ite State.clk]

@[simp] theorem State.devWriteLines_clk (s : State) (p : Nat) (a : Word) (bs : List Byte) (bad : Nat → Bool) :
    (s.devWriteLines p a bs bad).clk = s.clk := by simp [State.devWriteLines]

@[simp] theorem State.devWrite_clk (s : State) (p : Nat) (a : Word) (bs : List Byte) (bad : Bool) :
    (s.devWrite p a bs bad).clk = s.clk := s.devWriteLines_clk ..

/-! ### Engines and core resets -/

@[simp] theorem State.descRecord_clk (s : State) (c : Nat) (r : Running) : (s.descRecord c r).clk = s.clk := by
  unfold State.descRecord
  dsimp only
  split <;> rfl

@[simp] theorem State.descStatus_clk (s : State) (c e seq status : Nat) : (s.descStatus c e seq status).clk = s.clk := by
  simp [State.descStatus]

@[simp] theorem State.queueFreed_clk (s : State) (c : Nat) : (s.queueFreed c).clk = s.clk := s.wakeIf_clk ..

@[simp] theorem State.engCycles_clk (s : State) (c e : Nat) (r : Running) : (s.engCycles c e r).clk = s.clk := by
  simp [State.engCycles]

@[simp] theorem State.dropDescs_clk (s : State) (c e status : Nat) (count : Bool) (p : QDesc → Bool) :
    (s.dropDescs c e status count p).clk = s.clk := by
  unfold State.dropDescs
  dsimp only
  split <;> simp [apply_ite State.clk]

@[simp] theorem State.zeroRegs_clk (s : State) (l : List Nat) : (s.zeroRegs l).clk = s.clk :=
  foldl_unchanged State.clk (fun s _ => s.setReg_clk ..) l s

@[simp] theorem State.stopCore_clk (s : State) (c : Nat) : (s.stopCore c).clk = s.clk := by simp [State.stopCore]
@[simp] theorem State.abortEngine_clk (s : State) (c e : Nat) : (s.abortEngine c e).clk = s.clk := by simp [State.abortEngine]
@[simp] theorem State.resetCore_clk (s : State) (c : Nat) : (s.resetCore c).clk = s.clk := by simp [State.resetCore]

end Sys2Proof.Machine
end

section
/-! SUPPORT. What the operations of the other blocks do to CLK_TIME: nothing (R40). One lemma per operation (O48). -/

namespace Sys2Proof.Machine

/-! ### Merges, messages and completion queues -/

@[simp] theorem State.askMerge_clk (s : State) (m : Merge) : (s.askMerge m).clk = s.clk := by
  unfold State.askMerge
  split <;> rfl

@[simp] theorem State.mergeNext_clk (s : State) (q : Nat) : (s.mergeNext q).clk = s.clk := by
  unfold State.mergeNext
  split <;> simp [apply_ite State.clk]

@[simp] theorem State.takeResult_clk (s : State) (m : Msg) : (s.takeResult m).clk = s.clk := by
  unfold State.takeResult
  dsimp only
  split
  · rfl
  · split <;> simp [apply_ite State.clk]

@[simp] theorem State.putBytes_clk (s : State) (p : Nat) (a : Word) (bs : List Byte) : (s.putBytes p a bs).clk = s.clk := by
  unfold State.putBytes
  split <;> simp

@[simp] theorem State.deliverMsg_clk (s : State) (vc : Nat) (m : Msg) : (s.deliverMsg vc m).clk = s.clk := by
  unfold State.deliverMsg
  split <;> simp [apply_ite State.clk]

@[simp] theorem State.linkEncode_clk (s : State) (p comp mould gen : Nat) (bs : List Byte) :
    (s.linkEncode p comp mould gen bs).1.clk = s.clk := by
  unfold State.linkEncode
  split <;> simp

@[simp] theorem State.payloads_clk (s : State) (vc p : Nat) (bs : List Byte) : (s.payloads vc p bs).1.clk = s.clk := by
  unfold State.payloads
  dsimp only
  split <;> simp

@[simp] theorem State.linkDecode_clk (s : State) (p comp : Nat) (bs : List Byte) : (s.linkDecode p comp bs).1.clk = s.clk := by
  unfold State.linkDecode
  split
  · rfl
  · simp

@[simp] theorem State.sendHere_clk (s : State) (vc : Nat) (m : Msg) (ps : List (Nat × List Byte)) :
    (s.sendHere vc m ps).clk = s.clk := by
  unfold State.sendHere
  dsimp only
  split <;> simp

@[simp] theorem State.sendMsg_clk (s : State) (vc p epoch dn dp : Nat) (bs : List Byte) :
    (s.sendMsg vc p epoch dn dp bs).clk = s.clk := by
  unfold State.sendMsg
  split
  · simp
  · split
    · rfl
    · split <;> simp

@[simp] theorem State.cqSignal_clk (s : State) (k q : Nat) : (s.cqSignal k q).clk = s.clk := by
  unfold State.cqSignal
  dsimp only
  split <;> simp

@[simp] theorem State.cqWritten_clk (s : State) (k q : Nat) : (s.cqWritten k q).clk = s.clk := by
  simp [State.cqWritten, apply_ite State.clk]

@[simp] theorem State.postCq_clk (s : State) (p k q gen sq head : Nat) (comp : List Byte) (quiet : Bool) :
    (s.postCq p k q gen sq head comp quiet).clk = s.clk := by simp [State.postCq, apply_ite State.clk]

/-! ### Flash -/

@[simp] theorem State.updLife_clk (s : State) (p : Nat) : (s.updLife p).clk = s.clk :=
  (foldl_unchanged State.clk (fun s t => by split <;> rfl) _ _).trans rfl

@[simp] theorem State.retireBlock_clk (s : State) (p sb k : Nat) (unerased : Bool) :
    (s.retireBlock p sb k unerased).clk = s.clk := by simp [State.retireBlock, apply_ite State.clk]

@[simp] theorem State.programAgain_clk (s : State) (p : Nat) (st : Stripe) : (s.programAgain p st).clk = s.clk := by
  simp [State.programAgain, apply_ite State.clk]

@[simp] theorem State.programEnd_clk (s : State) (p : Nat) (fails : List Nat) : (s.programEnd p fails).clk = s.clk := by
  unfold State.programEnd
  split <;> simp [apply_ite State.clk]

@[simp] theorem State.flushDone_clk (s : State) (p : Nat) (done : List (Nat × Nat)) : (s.flushDone p done).clk = s.clk := by
  simp [State.flushDone, apply_ite State.clk]

@[simp] theorem State.pageLuns_clk (s : State) (p : Nat) : (s.pageLuns p).1.clk = s.clk := by
  unfold State.pageLuns
  dsimp only
  split
  next h => exact State.clk_of_choose h
  next h =>
    have hfirst := State.clk_of_choose h
    split <;> next h' => simp [State.clk_of_choose h', hfirst]

@[simp] theorem State.ckptPages_clk (s : State) (p : Nat) : (s.ckptPages p).clk = s.clk := by
  unfold State.ckptPages
  split
  next h => simp [State.clk_of_choose h]
  next h => exact State.clk_of_choose h

@[simp] theorem State.ckptRound_clk (s : State) (p : Nat) : (s.ckptRound p).clk = s.clk := by simp [State.ckptRound]

@[simp] theorem State.journalEnd_clk (s : State) (p : Nat) : (s.journalEnd p).clk = s.clk := by
  unfold State.journalEnd
  split
  · rfl
  · extract_lets l n n1 maps d n2 s1 s2
    have hpage : l.1.clk = s.clk := s.pageLuns_clk p
    clear_value l n2
    have hdone : s1.clk = s.clk :=
      (foldl_unchanged State.clk (fun s d => by simp) _ _).trans ((State.modNs_clk ..).trans hpage)
    clear_value s1
    simp [s2, hdone, apply_ite State.clk]

@[simp] theorem State.wearCheck_clk (s : State) (p : Nat) : (s.wearCheck p).clk = s.clk := by
  unfold State.wearCheck
  dsimp only
  split
  · rfl
  · split <;> simp

@[simp] theorem State.discardArea_clk (s : State) (p : Nat) (d : SDiscard) : (s.discardArea p d).clk = s.clk :=
  s.devWrite_clk ..

@[simp] theorem State.discardEnd_clk (s : State) (p : Nat) : (s.discardEnd p).clk = s.clk := by
  unfold State.discardEnd
  split
  · split
    · extract_lets s1
      have harea : s1.clk = s.clk := (State.modNs_clk ..).trans (s.discardArea_clk ..)
      clear_value s1
      split
      · exact (s1.loswDone_clk ..).trans harea
      · exact (s1.loswFail_clk ..).trans harea
    · rfl
  · rfl

@[simp] theorem State.eraseEnd_clk (s : State) (p : Nat) (fails : List Nat) : (s.eraseEnd p fails).clk = s.clk := by
  unfold State.eraseEnd
  split
  · rfl
  · extract_lets ks s0 s1 s2 s3
    have herased : s1.clk = s.clk :=
      (foldl_unchanged State.clk (fun s k => by simp [apply_ite State.clk]) ks s0).trans rfl
    clear_value s1
    have hcounted : s2.clk = s.clk := herased
    clear_value s2
    have hdiscard : s3.clk = s.clk := by
      dsimp only [s3]
      split <;> simp [hcounted, apply_ite State.clk]
    simp [hdiscard]

/-! ### Mould loads, Carrel channels, Gather and the index -/

@[simp] theorem State.setMload_clk (s : State) (p : Nat) (m : Option MLoad) : (s.setMload p m).clk = s.clk := rfl

@[simp] theorem State.carWrite_clk (s : State) (p : Nat) (d : Bool × Word) (ps : List (List Byte × Bool)) :
    (s.carWrite p d ps).clk = s.clk :=
  foldl_unchanged (fun x : State × Nat => x.1.clk) (fun x y => by simp [apply_ite State.clk]) ps (s, 0)

@[simp] theorem State.carFinish_clk (s : State) (m p : Nat) (c : CarCmd) (status units : Nat) (out : List (List Byte × Bool)) :
    (s.carFinish m p c status units out).clk = s.clk := by simp [State.carFinish, apply_ite State.clk]

@[simp] theorem State.winQueue_clk (s : State) (m p : Nat) : (s.winQueue m p).clk = s.clk := by
  unfold State.winQueue
  split <;> simp

@[simp] theorem State.carNext_clk (s : State) (m : Nat) : (s.carNext m).clk = s.clk := by
  unfold State.carNext
  split <;> simp

@[simp] theorem State.carStopped_clk (s : State) (m p : Nat) (c : CarCmd) : (s.carStopped m p c).1.clk = s.clk := by
  unfold State.carStopped
  split <;> simp

@[simp] theorem State.carCancel_clk (s : State) (m q : Nat) : (s.carCancel m q).clk = s.clk := by
  unfold State.carCancel
  split
  · rfl
  · split
    · rfl
    · extract_lets x mine s1 s2
      have hended : s2.clk = s.clk := (foldl_unchanged State.clk (fun s c => s.carFinish_clk ..) mine s1).trans rfl
      clear_value s2
      split
      · exact hended
      · split <;> simp [hended]

@[simp] theorem State.carReset_clk (s : State) (m : Nat) (p : Option Nat) : (s.carReset m p).clk = s.clk := by
  unfold State.carReset
  dsimp only
  split <;> simp

@[simp] theorem State.guReset_clk (s : State) (p : Nat) : (s.guReset p).clk = s.clk := rfl

@[simp] theorem State.putRoot_clk (s : State) (p off : Nat) (bs : List Byte) : (s.putRoot p off bs).clk = s.clk :=
  s.devWrite_clk ..

@[simp] theorem State.syncTombs_clk (s : State) (p : Nat) : (s.syncTombs p).clk = s.clk :=
  foldl_unchanged State.clk (fun s c => by rfl) _ s

@[simp] theorem State.setPin_clk (s : State) (p v : Nat) : (s.setPin p v).clk = s.clk := (State.syncTombs_clk ..).trans rfl

@[simp] theorem State.repin_clk (s : State) (p : Nat) : (s.repin p).clk = s.clk := by
  unfold State.repin
  dsimp only
  split <;> simp

/-! ### The end of a query -/

@[simp] theorem State.rsvFull_clk (s : State) (p : Nat) : (s.rsvFull p).clk = s.clk := rfl

@[simp] theorem State.complete_clk (s : State) (x : Query) (comp rec_ : List Byte) (quiet : Bool) :
    (s.complete x comp rec_ quiet).clk = s.clk := by
  unfold State.complete
  split <;> simp [apply_ite State.clk]

@[simp] theorem State.endQuery_clk (s : State) (q : Nat) (x : Query) (failed : Bool) : (s.endQuery q x failed).clk = s.clk := by
  simp [State.endQuery, apply_ite State.clk]

@[simp] theorem State.countLate_clk (s : State) (x : Query) : (s.countLate x).clk = s.clk := by
  unfold State.countLate
  split <;> simp

@[simp] theorem State.endFailed_clk (s : State) (q : Nat) (x : Query) (code : Nat) (quiet : Bool) :
    (s.endFailed q x code quiet).clk = s.clk := by
  unfold State.endFailed
  split <;> simp

/-! ### Link ports -/

@[simp] theorem State.freePlace_clk (s : State) (q v : Nat) : (s.freePlace q v).clk = s.clk := by
  unfold State.freePlace
  split <;> rfl

@[simp] theorem State.sendPassed_clk (s : State) (q n : Nat) : (s.sendPassed q n).clk = s.clk :=
  foldl_unchanged State.clk (fun s p => by split <;> simp [apply_ite State.clk]) _ s

@[simp] theorem State.endForward_clk (s : State) (q : Nat) (m : RxMsg) : (s.endForward q m).clk = s.clk := by
  unfold State.endForward
  split <;> rfl

@[simp] theorem State.dropRest_clk (s : State) (k q v : Nat) : (s.dropRest k q v).clk = s.clk := by
  unfold State.dropRest
  split <;> simp [apply_ite State.clk]

@[simp] theorem State.freePlaces_clk (s : State) (v : Nat) (ws : List Fwd) : (s.freePlaces v ws).clk = s.clk :=
  foldl_unchanged State.clk (fun s w => by split <;> simp) ws s

@[simp] theorem State.dropBegun_clk (s : State) (q v : Nat) : (s.dropBegun q v).clk = s.clk := by
  unfold State.dropBegun
  dsimp only
  split <;> simp [apply_ite State.clk]

@[simp] theorem State.dropRx_clk (s : State) (q : Nat) : (s.dropRx q).clk = s.clk :=
  foldl_unchanged State.clk (fun s v => by split <;> simp) _ s

@[simp] theorem State.abortSend_clk (s : State) (q : Nat) (whole : Bool) : (s.abortSend q whole).clk = s.clk :=
  foldl_unchanged State.clk (fun s p => by split <;> simp [apply_ite State.clk]) _ s

@[simp] theorem State.portLeavesUp_clk (s : State) (q st : Nat) : (s.portLeavesUp q st).clk = s.clk := by
  simp [State.portLeavesUp]

@[simp] theorem State.writeSend_clk (s : State) (p : Nat) (c : Send) : (s.writeSend p c).clk = s.clk := by
  unfold State.writeSend
  dsimp only
  split <;> simp

@[simp] theorem State.emptyVc_clk (s : State) (q v : Nat) : (s.emptyVc q v).clk = s.clk := by simp [State.emptyVc]

@[simp] theorem State.resetVc_clk (s : State) (p q v : Nat) : (s.resetVc p q v).clk = s.clk := by
  unfold State.resetVc
  dsimp only
  split <;> simp [apply_ite State.clk]

@[simp] theorem State.linkReset_clk (s : State) (p : Nat) : (s.linkReset p).clk = s.clk := by
  simp [State.linkReset, apply_ite State.clk]

/-! ### Barriers -/

@[simp] theorem State.sendCtl_clk (s : State) (q : Nat) (bs : List Byte) : (s.sendCtl q bs).clk = s.clk := by
  unfold State.sendCtl
  split <;> rfl

@[simp] theorem State.barWrite_clk (s : State) (b off : Nat) (bs : List Byte) : (s.barWrite b off bs).clk = s.clk := by
  unfold State.barWrite
  split <;> simp

@[simp] theorem State.barSignal_clk (s : State) (b : Nat) : (s.barSignal b).clk = s.clk := by
  simp [State.barSignal, apply_ite State.clk]

@[simp] theorem State.barAbort_clk (s : State) (b : Nat) (but : Option Nat) : (s.barAbort b but).clk = s.clk := by
  simp [State.barAbort, apply_ite State.clk]

@[simp] theorem State.barReset_clk (s : State) (p : Nat) : (s.barReset p).clk = s.clk :=
  foldl_unchanged State.clk (fun s b => by split <;> simp) _ s

/-! ### Partition resets -/

@[simp] theorem State.changeComp_clk (s : State) (p o : Nat) (b : List Byte) : (s.changeComp p o b).clk = s.clk := by
  simp [State.changeComp, apply_ite State.clk]

@[simp] theorem State.maskVectors_clk (s : State) (k : Nat) : (s.maskVectors k).clk = s.clk :=
  (State.setReg_clk ..).trans (foldl_unchanged State.clk (fun s _ => s.setField_clk ..) _ s)

@[simp] theorem State.disableQueues_clk (s : State) (k : Nat) : (s.disableQueues k).clk = s.clk :=
  foldl_unchanged State.clk (fun s _ => (State.setField_clk ..).trans (s.setField_clk ..)) _ s

@[simp] theorem State.requestReset_clk (s : State) (p : Nat) (flr : Option Nat) : (s.requestReset p flr).clk = s.clk := by
  unfold State.requestReset
  split
  · dsimp only
    split
    · exact (foldl_unchanged State.clk (fun s k => s.disableQueues_clk k) _ _).trans rfl
    · rfl
  · simp [apply_ite State.clk]

@[simp] theorem State.killCore_clk (s : State) (c : Nat) : (s.killCore c).clk = s.clk := by simp [State.killCore]

@[simp] theorem State.abortLops_clk (s : State) (p : Nat) : (s.abortLops p).clk = s.clk := by
  have haborted (l : List Nat) : (l.foldl (fun s o => s.loswAbort p o) s).clk = s.clk :=
    foldl_unchanged State.clk (fun s o => s.loswAbort_clk p o) l s
  unfold State.abortLops
  extract_lets slots s1 s2
  have hmove : s2.clk = s.clk := by simp [s2, s1, haborted, apply_ite State.clk, -List.foldl_append]
  clear_value s2
  simp [hmove]

@[simp] theorem State.resetKill_clk (s : State) (p : Nat) (r : ResetRun) : (s.resetKill p r).clk = s.clk := by
  simp [State.resetKill, apply_ite State.clk]

@[simp] theorem State.resetIrqs_clk (s : State) (p : Nat) : (s.resetIrqs p).clk = s.clk :=
  calc (s.resetIrqs p).clk
    _ = (List.foldl (fun s a => s.setIrqOut (a - 0x18) 0) (s.zeroRegs _) _).clk :=
      foldl_unchanged State.clk (fun s k => s.maskVectors_clk k) _ _
    _ = (s.zeroRegs _).clk := foldl_unchanged State.clk (fun s _ => s.setIrqOut_clk ..) _ _
    _ = s.clk := s.zeroRegs_clk _

@[simp] theorem State.resetBuckets_clk (s : State) (p : Nat) : (s.resetBuckets p).clk = s.clk :=
  (foldl_unchanged State.clk (fun s _ => s.modHost_clk ..) _ _).trans (s.rsvFull_clk p)

@[simp] theorem State.resetQueries_clk (s : State) (p : Nat) (r : ResetRun) : (s.resetQueries p r).clk = s.clk :=
  calc (s.resetQueries p r).clk
    _ = _ := foldl_unchanged State.clk (fun s k => s.disableQueues_clk k) _ _
    _ = s.clk := foldl_unchanged State.clk (fun s q => by split <;> simp) _ s

@[simp] theorem State.resetDrained_clk (s : State) (p : Nat) : (s.resetDrained p).clk = s.clk := by
  unfold State.resetDrained
  split <;> simp

/-! ### Host ports and functions -/

@[simp] theorem State.pendSources_clk (s : State) (b : HPort) : (s.pendSources b).clk = s.clk :=
  foldl_unchanged State.clk (fun s a => by
    dsimp only
    split <;> simp [apply_ite State.clk]) _ s

@[simp] theorem State.hostTrain_clk (s : State) (b : HPort) : (s.hostTrain b).clk = s.clk := rfl
@[simp] theorem State.fnReset_clk (s : State) (k : Nat) : (s.fnReset k).clk = s.clk := by simp [State.fnReset]

@[simp] theorem State.flr_clk (s : State) (f : Fn) : (s.flr f).clk = s.clk := by
  unfold State.flr
  dsimp only
  split
  · rfl
  · simp
  · split
    · rfl
    · split <;> simp [apply_ite State.clk]

/-! ### The log -/

@[simp] theorem State.moveCursors_clk (s : State) (new : LogRec) (old : Option LogRec) : (s.moveCursors new old).clk = s.clk :=
  foldl_unchanged State.clk (fun s _ => s.modLog_clk _) _ s

@[simp] theorem State.placeRec_clk (s : State) (code sev : Nat) (part : Option Nat) (summary : Bool) (data : List Byte) :
    (s.placeRec code sev part summary data).clk = s.clk := by simp [State.placeRec, apply_ite State.clk]

@[simp] theorem State.takeEvent_clk (s : State) (e : Event) : (s.takeEvent e).clk = s.clk := by
  unfold State.takeEvent
  dsimp only
  split <;> simp [apply_ite State.clk]

@[simp] theorem State.logPowerOn_clk (s : State) : s.logPowerOn.clk = s.clk := by
  unfold State.logPowerOn
  dsimp only
  split <;> simp [apply_ite State.clk]

end Sys2Proof.Machine
end

section
/-! SUPPORT. Resets, command by command: those that zero CLK_TIME and those that leave it to count on (R40, O48), and what a step
runs (R41, O54). -/

namespace Sys2Proof.Machine

/-! ### The power manager and the island resets -/

@[simp] theorem State.senseNow_clk (s : State) (mv : Nat) : (s.senseNow mv).clk = s.clk := rfl

@[simp] theorem State.programsEnd_clk (s : State) (p : Nat) : (s.programsEnd p).clk = s.clk := by
  simp [State.programsEnd, apply_ite State.clk]

@[simp] theorem State.afterReset_clk (s : State) (chip : Bool) : (s.afterReset chip).clk = s.clk := by
  unfold State.afterReset
  split <;> rfl

@[simp] theorem State.stopFlash_clk (s : State) : s.stopFlash.clk = s.clk :=
  foldl_unchanged State.clk (fun s _ => s.modNs_clk ..) _ s

/-- CLK_TIME after the islands start anew: it runs on, or is 0. -/
@[simp] theorem State.islandsReset_clk (s : State) (clock counters : Bool) :
    (s.islandsReset clock counters).clk = if clock then s.clk else 0 := rfl

@[simp] theorem State.chipReset_clk (s : State) (cause : Nat) : (s.chipReset cause).clk = s.clk := by simp [State.chipReset]

/-! ### A step (R41) -/

theorem step_of_cons (c : Instr) (rest : List Instr) (s : State) :
    step { s with pending := c :: rest } = exec c { s with pending := rest } := rfl

theorem step_of_empty {s : State} (h : s.pending = []) : step s = .next { s with clk := s.clk + 1 } := by
  simp [step, h]

/-! ### Resets that zero CLK_TIME (R40) -/

theorem exec_powerOn_clk {s : State} (hoff : s.pwr.standby = false) : completes (exec .powerOn s) (fun u => u.clk = 0) := by
  change completes (execPowerOn s) _
  simp [completes, execPowerOn, hoff]

theorem exec_pwrSupplyReset_clk {mv : BitVec 10} {s : State} (hpowered : s.powered = true) (hsupply : s.pwr.supply = false)
    (hlow : s.below mv.toNat s.resetPct = true) : completes (exec (.pwrSupplyReset mv) s) (fun u => u.clk = 0) := by
  change completes (execPwrSupplyReset mv s) _
  simp [completes, execPwrSupplyReset, hpowered, hsupply, hlow]

/-! ### Resets that leave CLK_TIME (R40) -/

theorem exec_chipRstNAssert_clk (ns : Nat) (s : State) :
    completes (exec (.chipRstNAssert ns) s) (fun u => u.clk = s.clk) := by
  change completes (execChipRstNAssert ns s) _
  unfold execChipRstNAssert
  split
  · exact ⟨_, rfl, rfl⟩
  · dsimp only
    split <;> exact ⟨_, rfl, by simp [apply_ite State.clk]⟩

theorem exec_chipRstNRelease_clk (s : State) : completes (exec .chipRstNRelease s) (fun u => u.clk = s.clk) := by
  change completes (execChipRstNRelease s) _
  unfold execChipRstNRelease
  split
  · exact ⟨_, rfl, rfl⟩
  · exact ⟨_, rfl, by simp [apply_ite State.clk]⟩

theorem exec_rstCmd_clk (f : Fn) (key : BitVec 16) (s : State) :
    completes (exec (.rstCmd f key) s) (fun u => u.clk = s.clk) := by
  change completes (execRstCmd f key s) _
  unfold execRstCmd
  dsimp only
  split
  · exact ⟨_, rfl, s.access_clk f⟩
  · exact ⟨_, rfl, by simp⟩

theorem exec_perst_clk (b : HPort) (s : State) : completes (exec (.perst b) s) (fun u => u.clk = s.clk) := by
  refine ⟨_, rfl, (State.pendSources_clk ..).trans ?_⟩
  split
  · exact (State.hostTrain_clk ..).trans (State.foldl_clk (fun s _ => s.modHost_clk ..) _ _)
  · exact State.foldl_clk (fun s _ => s.modHost_clk ..) _ _

theorem exec_flr_clk (f : Fn) (s : State) : completes (exec (.flr f) s) (fun u => u.clk = s.clk) :=
  ⟨_, rfl, s.flr_clk f⟩

theorem exec_partResetWrite_clk (f : Fn) (v : BitVec 16) (s : State) :
    completes (exec (.partResetWrite f v) s) (fun u => u.clk = s.clk) := by
  change completes (execPartResetWrite f v s) _
  unfold execPartResetWrite
  dsimp only
  split
  · exact ⟨_, rfl, s.access_clk f⟩
  · exact ⟨_, rfl, by simp [apply_ite State.clk]⟩

theorem exec_partitionReset_clk (p : PartId) (s : State) :
    completes (exec (.partitionReset p) s) (fun u => u.clk = s.clk) := by
  change completes (execPartitionReset p s) _
  unfold execPartitionReset
  split
  · exact ⟨_, rfl, rfl⟩
  · split
    · exact ⟨_, rfl, rfl⟩
    · exact ⟨_, rfl, by simp [apply_ite State.clk]⟩

theorem exec_partResetDone_clk (p : PartId) (s : State) :
    completes (exec (.partResetDone p) s) (fun u => u.clk = s.clk) := by
  change completes (execPartResetDone p s) _
  unfold execPartResetDone
  split
  · exact ⟨_, rfl, rfl⟩
  · split
    · exact ⟨_, rfl, rfl⟩
    · refine ⟨_, rfl, (State.foldl_clk (fun s c => s.changeComp_clk ..) _ _).trans ?_⟩
      refine (State.modPart_clk ..).trans ((State.logEv_clk ..).trans ?_)
      refine (State.loswDone_clk ..).trans ((State.loswProg_clk ..).trans ?_)
      split
      · exact s.devWrite_clk ..
      · rfl

theorem exec_coreSoftReset_clk (f : Fn) (c : CoreId) (s : State) :
    completes (exec (.coreSoftReset f c) s) (fun u => u.clk = s.clk) := by
  change completes (execCoreSoftReset f c s) _
  unfold execCoreSoftReset
  dsimp only
  split
  · exact ⟨_, rfl, s.access_clk f⟩
  · exact ⟨_, rfl, by simp⟩

theorem exec_coreResetReady_clk (c : CoreId) (s : State) :
    completes (exec (.coreResetReady c) s) (fun u => u.clk = s.clk) :=
  ⟨_, rfl, s.modCore_clk ..⟩

theorem exec_linkPortReset_clk (f : Fn) (q : PortId) (s : State) :
    completes (exec (.linkPortReset f q) s) (fun u => u.clk = s.clk) := by
  change completes (execLinkPortReset f q s) _
  unfold execLinkPortReset
  dsimp only
  split
  · exact ⟨_, rfl, s.access_clk f⟩
  · exact ⟨_, rfl, by simp⟩

/-- What holds of the next state that a command completes with holds of the one it went to. -/
theorem completes_next {o : Host.Outcome State Fault Refusal} {post : State → Prop} {u : State} (h : completes o post)
    (hu : o = .next u) : post u := by
  obtain ⟨t, ht, hpost⟩ := h
  obtain rfl : t = u := by simpa [ht] using hu
  exact hpost

/-- Settles O54: both clauses are the two equations of a step. -/
theorem stepRunsTheQueue : Obligations.StepRunsTheQueue := by
  unfold Obligations.StepRunsTheQueue
  exact ⟨step_of_cons, fun _ hempty => step_of_empty hempty⟩

/-- Settles O48: power-on and supply reset start the always-on island's clock anew; each command of the other resets
completes with CLK_TIME as it was, from which an empty queue advances it. -/
theorem clockOverResets : Obligations.ClockOverResets := by
  unfold Obligations.ClockOverResets
  refine fun f b ns mv key s => ⟨exec_powerOn_clk, exec_pwrSupplyReset_clk, fun i u hreset hnext => ?_⟩
  have hkept : completes (exec i s) (fun u => u.clk = s.clk) := by
    rcases hreset with rfl | rfl | rfl | rfl | rfl | ⟨v, rfl⟩ | ⟨p, rfl⟩ | ⟨p, rfl⟩ | ⟨c, rfl⟩ | ⟨c, rfl⟩ | ⟨q, rfl⟩
    · exact exec_chipRstNAssert_clk ns s
    · exact exec_chipRstNRelease_clk s
    · exact exec_rstCmd_clk f key s
    · exact exec_perst_clk b s
    · exact exec_flr_clk f s
    · exact exec_partResetWrite_clk f v s
    · exact exec_partitionReset_clk p s
    · exact exec_partResetDone_clk p s
    · exact exec_coreSoftReset_clk f c s
    · exact exec_coreResetReady_clk c s
    · exact exec_linkPortReset_clk f q s
  have hclk : u.clk = s.clk := completes_next hkept hnext
  refine ⟨hclk, fun hempty => ?_⟩
  rw [← hclk]
  exact step_of_empty hempty

end Sys2Proof.Machine
end

section
/-! SUPPORT. How an instruction issues, which operations leave every byte of the scratches and of the tiers alone, and how
loads and stores of scratch complete (O3). -/

namespace Sys2Proof.Machine

/-! ### Issue (R47, R61, R80) -/

theorem issue_legal {s : State} {c t : Nat} (h : canIssue s c t) {legal defer : Bool} (hlegal : legal = true)
    (hdefer : defer = false ∨ (s.thr c t).spec = false) (act : State → Outc) :
    issue c t s legal defer act = act (s.issued c t) := by
  subst hlegal
  exact issue_eq h hdefer act

theorem issue_illegal {s : State} {c t : Nat} (h : canIssue s c t) {legal : Bool} (hillegal : legal = false) (defer : Bool)
    (act : State → Outc) : issue c t s legal defer act = .next ((s.issued c t).trap c t 0x0280 0) := by
  simp [issue, h.1, h.2, hillegal]

theorem issue_outside {s : State} {c t : Nat} (hmay : s.mayIssue c t = true) (hout : s.fetchOk c t = false) (legal defer : Bool)
    (act : State → Outc) : issue c t s legal defer act = .next (s.trap c t 0x0280 0) := by
  simp [issue, hmay, hout]

/-! ### Bytes -/

/-- The scratch of every core, and the tiers' memory. -/
def State.stores (s : State) : (Nat → Mem) × Mem := (fun d => (s.core d).scratch, s.mem)

theorem storedNone_of_stores {s u : State} (h : u.stores = s.stores) : storedNone s u := by
  obtain ⟨hscr, hmem⟩ := Prod.ext_iff.1 h
  exact ⟨fun d b => congrArg (fun m : Mem => Mem.rd m b) (congrFun hscr d), hmem⟩

/-- A write of scratch between operations that store nothing. -/
theorem stored_of_stores {s w u : State} {c a : Nat} {bs : List Byte} (hw : w.stores = s.stores)
    (hu : u.stores = (w.writeScr c a bs).stores) : stored s u c a bs := by
  obtain ⟨hbytes, hmem⟩ := storedNone_of_stores hu
  obtain ⟨hbytes', hmem'⟩ := storedNone_of_stores hw
  refine ⟨fun d b => ?_, hmem.trans hmem'⟩
  rw [hbytes, scr_writeScr, hbytes']

theorem State.scratch_of_stores {s u : State} (h : u.stores = s.stores) (d : Nat) : (u.core d).scratch = (s.core d).scratch :=
  congrFun (congrArg Prod.fst h) d

theorem State.modCore_stores_congr {s : State} {c : Nat} {f g : Core → Core} (h : (f (s.core c)).scratch = (g (s.core c)).scratch) :
    (s.modCore c f).stores = (s.modCore c g).stores := by
  refine Prod.ext (funext fun d => ?_) rfl
  simp only [State.stores, core_modCore]
  split
  · exact h
  · rfl

theorem State.modCore_stores {s : State} {c : Nat} {f : Core → Core} (h : (f (s.core c)).scratch = (s.core c).scratch) :
    (s.modCore c f).stores = s.stores := by
  refine Prod.ext (funext fun d => ?_) rfl
  simp only [State.stores, core_modCore]
  split
  · rename_i hd
    subst hd
    exact h
  · rfl

@[simp] theorem State.bump_stores (s : State) (a n : Nat) : (s.bump a n).stores = s.stores := rfl
@[simp] theorem State.setReg_stores (s : State) (a : Nat) (w : Word) : (s.setReg a w).stores = s.stores := rfl
@[simp] theorem State.setField_stores (s : State) (a lo n v : Nat) : (s.setField a lo n v).stores = s.stores := rfl
@[simp] theorem State.setReq_stores (s : State) (i : Nat) (r : Option Req) : (s.setReq i r).stores = s.stores := rfl
@[simp] theorem State.newReq_stores (s : State) (r : Req) : (s.newReq r).2.stores = s.stores := rfl
@[simp] theorem State.setThr_stores (s : State) (c t : Nat) (x : Thread) : (s.setThr c t x).stores = s.stores :=
  State.modCore_stores rfl
@[simp] theorem State.modThr_stores (s : State) (c t : Nat) (f : Thread → Thread) : (s.modThr c t f).stores = s.stores :=
  s.setThr_stores c t _
@[simp] theorem State.modGrp_stores (s : State) (c g : Nat) (f : Group → Group) : (s.modGrp c g f).stores = s.stores :=
  State.modCore_stores rfl
@[simp] theorem State.adv_stores (s : State) (c t : Nat) (f : Thread → Thread) : (s.adv c t f).stores = s.stores := s.modThr_stores ..
@[simp] theorem State.retire_stores (s : State) (c t : Nat) (rd : Reg) (w : Word) : (s.retire c t rd w).stores = s.stores :=
  s.modThr_stores ..
@[simp] theorem State.waitIn_stores (s : State) (c t : Nat) (st : TState) (w : Wait) : (s.waitIn c t st w).stores = s.stores :=
  s.modThr_stores ..
@[simp] theorem State.issued_stores (s : State) (c t : Nat) : (s.issued c t).stores = s.stores := by
  unfold State.issued
  split
  · exact s.modThr_stores ..
  · rfl

/-! ### Scratch words (R60, R72) -/

theorem scrUse_clean {w : State} {c t a n k : Nat} (h : (w.core c).check a n = (k, false, false)) (ok : State → State) :
    w.scrUse c t a n ok = ok (w.bump (coreP c + 0x98) k) := by
  simp [State.scrUse, h]

/-- What the words of `[a, a + n)` meet depends on the bit errors and the poison marks alone. -/
theorem check_congr {k k' : Core} {a n : Nat} (hecc : ∀ w, Tab.get (fun _ => 0) k'.ecc w = Tab.get (fun _ => 0) k.ecc w)
    (hpoison : k'.poison = k.poison) : k'.check a n = k.check a n := by
  simp only [Core.check, hecc, hpoison]

theorem check_strike_none (k : Core) (b a n : Nat) : (k.strike b 0).check a n = k.check a n :=
  check_congr (fun w => by
    rw [Core.strike, Tab.get_set, Nat.add_zero]
    split
    · next hw => rw [hw]
    · rfl) rfl

/-- An aligned access of at most 8 bytes lies in one word. -/
theorem words_aligned {a : Nat} (z : Fin 4) (h : a % 2 ^ z.val = 0) : Core.words a (2 ^ z.val) = [a / 8] := by
  have hone : (a + 2 ^ z.val - 1) / 8 + 1 - a / 8 = 1 := by
    fin_cases z <;> simp at h ⊢ <;> omega
  simp [Core.words, hone]

/-- One bit error strikes a word that held none and no poison mark: it is a single one. -/
theorem check_strike_one {k : Core} {a : Nat} (z : Fin 4) (halign : a % 2 ^ z.val = 0)
    (hclean : k.check a (2 ^ z.val) = (0, false, false)) : (k.strike a 1).check a (2 ^ z.val) = (1, false, false) := by
  have hword := words_aligned z halign
  simp only [Core.check, hword, Prod.mk.injEq, List.any_cons, List.any_nil, Bool.or_false, decide_eq_false_iff_not,
    List.length_eq_zero_iff, List.filter_eq_nil_iff, List.mem_singleton, forall_eq, decide_eq_true_eq] at hclean ⊢
  obtain ⟨hone, htwo, hpoison⟩ := hclean
  have hzero : Tab.get (fun _ => 0) k.ecc (a / 8) = 0 := by omega
  simp [Core.strike, hzero, hpoison]

/-! ### Loads and stores (R60, R84, R85, R91) -/

/-- What of a core does not depend on its contexts is as it was after one of them changes. -/
theorem modThr_coreField {β : Type} (g : Core → β) (hg : ∀ k x, g { k with threads := x } = g k) (s : State) (c t d : Nat)
    (f : Thread → Thread) : g ((s.modThr c t f).core d) = g (s.core d) := by
  rw [← hg _ ⟨[]⟩, core_modThr s c t d f, hg]

theorem issued_coreField {β : Type} (g : Core → β) (hg : ∀ k x, g { k with threads := x } = g k) (s : State) (c t d : Nat) :
    g ((s.issued c t).core d) = g (s.core d) := by
  rw [← hg _ ⟨[]⟩, core_issued s c t d, hg]

/-- LD of an aligned address: the word is struck, read and used. -/
theorem exec_ld {s : State} {c : CoreId} {t : CtxId} (h : canIssue s c t) (rd ra : Reg) (z : Fin 4) (sx : Bool) (off : BitVec 15)
    (seu : Nat) {a n : Nat} (ha : ((s.thr c t).r ra + off.signExtend 64).toNat % 2 ^ 22 = a) (hn : 2 ^ z.val = n) :
    exec (.ld c t rd ra z sx off seu) s =
      .next (if a % n ≠ 0 then (s.issued c t).trap c t 0x0282 a
        else ((s.issued c t).modCore c (·.strike a seu)).scrUse c t a n
          (fun s => s.retire c t rd (loadExt sx n (s.scrLe c a n)))) := by
  change execLd c t rd ra z sx off seu s = _
  refine (issue_legal h rfl (.inl rfl) _).trans ?_
  simp only [r_issued, scrMask_eq, imm, sizeOf, ha, hn, apply_ite Host.Outcome.next]

theorem exec_st {s : State} {c : CoreId} {t : CtxId} (h : canIssue s c t) (rb ra : Reg) (z : Fin 4) (off : BitVec 15)
    {a n : Nat} (ha : ((s.thr c t).r ra + off.signExtend 64).toNat % 2 ^ 22 = a) (hn : 2 ^ z.val = n) :
    exec (.st c t rb ra z false off) s =
      .next (if a % n ≠ 0 then (s.issued c t).trap c t 0x0282 a
        else if s.codeBarred c t a n then (s.issued c t).trap c t 0x0281 a
        else ((s.issued c t).writeScr c a (leBytes n ((s.thr c t).r rb).toNat)).retire c t 0 0) := by
  change execSt c t rb ra z false off s = _
  refine (issue_legal h rfl (.inl rfl) _).trans ?_
  simp only [r_issued, scrMask_eq, imm, sizeOf, ha, hn, codeBarred_issued, adv_id,
    apply_ite Host.Outcome.next]

theorem exec_lcopy {s : State} {c : CoreId} {t : CtxId} (h : canIssue s c t) (ra rb : Reg) {dst src : Nat}
    (hdst : ((s.thr c t).r ra).toNat % 2 ^ 22 = dst) (hsrc : ((s.thr c t).r rb).toNat % 2 ^ 22 = src) :
    exec (.lcopy c t 0 ra rb 0) s =
      .next (if src % 64 ≠ 0 then (s.issued c t).trap c t 0x0282 src
        else if dst % 64 ≠ 0 then (s.issued c t).trap c t 0x0282 dst
        else if s.codeBarred c t dst 64 then (s.issued c t).trap c t 0x0281 dst
        else if ((s.core c).check src 64).2.1 then
          ((s.issued c t).bump (coreP c + 0x98) ((s.core c).check src 64).1).trap c t 0x0285 src
        else (((s.issued c t).bump (coreP c + 0x98) ((s.core c).check src 64).1).modCore c (·.copyLine src dst)).retire c t 0 0) := by
  change execLcopy c t 0 ra rb 0 s = _
  refine (issue_legal h (decide_eq_true ⟨rfl, rfl⟩) (.inl rfl) _).trans ?_
  simp only [r_issued, scrMask_eq, hdst, hsrc,
    codeBarred_issued, check_issued, adv_id, apply_ite Host.Outcome.next]

theorem exec_lzero {s : State} {c : CoreId} {t : CtxId} (h : canIssue s c t) (ra : Reg) {dst : Nat}
    (hdst : ((s.thr c t).r ra).toNat % 2 ^ 22 = dst) :
    exec (.lzero c t 0 ra 0 0) s =
      .next (if dst % 64 ≠ 0 then (s.issued c t).trap c t 0x0282 dst
        else if s.codeBarred c t dst 64 then (s.issued c t).trap c t 0x0281 dst
        else ((s.issued c t).writeScr c dst (zeros 64)).retire c t 0 0) := by
  change execLzero c t 0 ra 0 0 s = _
  refine (issue_legal h (decide_eq_true ⟨rfl, rfl, rfl⟩) (.inl rfl) _).trans ?_
  simp only [r_issued, scrMask_eq, hdst,
    codeBarred_issued, adv_id, apply_ite Host.Outcome.next]

/-- An aligned LD whose word holds no double-bit error and no mark takes its bytes; the single-bit errors are counted. -/
theorem exec_ld_completes {s : State} {c : CoreId} {t : CtxId} (h : canIssue s c t) (rd ra : Reg) (z : Fin 4) (sx : Bool)
    (off : BitVec 15) (seu : Nat) {a n k : Nat} (ha : ((s.thr c t).r ra + off.signExtend 64).toNat % 2 ^ 22 = a)
    (hn : 2 ^ z.val = n) (halign : a % n = 0) (hcheck : ((s.core c).strike a seu).check a n = (k, false, false)) :
    completes (exec (.ld c t rd ra z sx off seu) s) (fun u =>
      regWrote s u c t rd (loadExt sx n (Mem.le (s.core c).scratch a n)) ((s.thr c t).pc + 1) ∧ storedNone s u ∧
      counted s u (coreP c + 0x98) k) := by
  have hstruck : ((((s.issued c t).modCore c (·.strike a seu)).core c).check a n) = (k, false, false) := by
    have hecc : ((s.issued c t).core c).ecc = (s.core c).ecc := issued_coreField Core.ecc (fun _ _ => rfl) s c t c
    have hpoison : ((s.issued c t).core c).poison = (s.core c).poison := issued_coreField Core.poison (fun _ _ => rfl) s c t c
    rw [core_modCore, if_pos rfl, ← hcheck]
    exact check_congr (fun w => by simp only [Core.strike, hecc]) hpoison
  have hstores : ((s.issued c t).modCore c (·.strike a seu)).stores = s.stores :=
    (State.modCore_stores rfl).trans (s.issued_stores c t)
  rw [exec_ld h rd ra z sx off seu ha hn, if_neg (not_not.2 halign), scrUse_clean hstruck]
  simp only [State.scrLe, core_bump, State.scratch_of_stores hstores]
  refine ⟨_, rfl, ?_, ?_, ?_⟩
  · refine regWrote_retire ?_ rd _
    rw [thr_bump]
    exact thr_modCore _ _ _ _ _ rfl
  · exact storedNone_of_stores (by simpa using hstores)
  · rw [counted, reg_retire, toNat_bump, reg_modCore, reg_issued _ _ _ _ (by omega)]

/-- Settles O3: each form by its equation. -/
theorem loadsAndStores : Obligations.LoadsAndStores := by
  unfold Obligations.LoadsAndStores
  refine ⟨fun c t r ra z sx off s h => ?_, fun c t ra rb s h => ?_⟩
  · intro x n a halign
    refine ⟨fun hclean => ⟨?_, ?_⟩, fun hcode => ?_⟩
    · obtain ⟨u, hu, hwrote, hnone, -⟩ :=
        exec_ld_completes h r ra z sx off 0 rfl rfl halign ((check_strike_none ..).trans hclean)
      exact ⟨u, hu, hwrote, hnone⟩
    · obtain ⟨u, hu, hwrote, hnone, hcount⟩ := exec_ld_completes h r ra z sx off 1 rfl rfl halign (check_strike_one z halign hclean)
      exact ⟨u, hu, hwrote, hnone, hcount⟩
    · rw [exec_st (a := a) (n := n) h r ra z off rfl rfl, if_neg (not_not.2 halign), if_neg (by simp [notBarred hcode])]
      exact ⟨_, rfl, regWrote_retire (thr_writeScr ..) 0 0, stored_of_stores (s.issued_stores c t) (State.retire_stores ..)⟩
  · intro x dst src hdst hcode
    refine ⟨fun hsrc hcheck => ?_, ?_⟩
    · have hread : ((s.core c).check src 64).2.1 = false := congrArg (·.2.1) hcheck
      rw [exec_lcopy (dst := dst) (src := src) h ra rb rfl rfl, if_neg (not_not.2 hsrc), if_neg (not_not.2 hdst),
        if_neg (by simp [notBarred hcode]), if_neg (by simp [hread])]
      refine ⟨_, rfl, regWrote_retire ((thr_modCore _ _ _ _ _ rfl).trans (thr_bump ..)) 0 0, ?_⟩
      refine stored_of_stores (w := (s.issued c t).bump _ _) (s.issued_stores c t)
        ((State.retire_stores ..).trans (State.modCore_stores_congr ?_))
      simp only [Core.copyLine, Core.write, core_bump, scratch_issued]
    · rw [exec_lzero (dst := dst) h ra rfl, if_neg (not_not.2 hdst), if_neg (by simp [notBarred hcode])]
      exact ⟨_, rfl, regWrote_retire (thr_writeScr ..) 0 0, stored_of_stores (s.issued_stores c t) (State.retire_stores ..)⟩

end Sys2Proof.Machine
end

section
/-! SUPPORT. What the Walker's operations on groups and contexts leave alone: the scratches, the tiers' memory and the requests
under way, the registers but for their own counters, the other contexts and the groups (R48 to R55, R70, R98, R105). -/

namespace Sys2Proof.Machine

/-! ### Bytes and requests -/

/-- The bytes of scratch and tiers, and the requests under way. -/
def State.still (s : State) : ((Nat → Mem) × Mem) × Tab (Option Req) := (s.stores, s.reqs)

theorem State.stores_of_still {s u : State} (h : u.still = s.still) : u.stores = s.stores := congrArg Prod.fst h

theorem storedNone_of_still {s u : State} (h : u.still = s.still) : storedNone s u := storedNone_of_stores (State.stores_of_still h)

theorem State.req_of_still {s u : State} (h : u.still = s.still) (i : Nat) : u.req i = s.req i :=
  congrArg (fun x : ((Nat → Mem) × Mem) × Tab (Option Req) => Tab.get (fun _ => none) x.2 i) h

theorem State.modCore_still {s : State} {c : Nat} {f : Core → Core} (h : (f (s.core c)).scratch = (s.core c).scratch) :
    (s.modCore c f).still = s.still := Prod.ext (State.modCore_stores h) rfl

@[simp] theorem State.free_still (s : State) (n : Nat) : ({ s with free := n } : State).still = s.still := rfl
@[simp] theorem State.bump_still (s : State) (a n : Nat) : (s.bump a n).still = s.still := rfl
@[simp] theorem State.setReg_still (s : State) (a : Nat) (w : Word) : (s.setReg a w).still = s.still := rfl
@[simp] theorem State.setField_still (s : State) (a lo n v : Nat) : (s.setField a lo n v).still = s.still := rfl
@[simp] theorem State.modDk_still (s : State) (p : Nat) (f : DeskPart → DeskPart) : (s.modDk p f).still = s.still := rfl
@[simp] theorem State.setThr_still (s : State) (c t : Nat) (x : Thread) : (s.setThr c t x).still = s.still :=
  State.modCore_still rfl
@[simp] theorem State.modThr_still (s : State) (c t : Nat) (f : Thread → Thread) : (s.modThr c t f).still = s.still :=
  s.setThr_still c t _
@[simp] theorem State.modGrp_still (s : State) (c g : Nat) (f : Group → Group) : (s.modGrp c g f).still = s.still :=
  State.modCore_still rfl

@[simp] theorem State.wakeIf_still (s : State) (c : Nat) (p : Thread → Bool) (f : Thread → Thread) :
    (s.wakeIf c p f).still = s.still :=
  foldl_unchanged State.still (fun s t => by dsimp only; split <;> simp) _ s

@[simp] theorem State.wakeUnit_still (s : State) (c : Nat) : (s.wakeUnit c).still = s.still := s.wakeIf_still ..

@[simp] theorem State.closeLists_still (s : State) (c g : Nat) : (s.closeLists c g).still = s.still :=
  foldl_unchanged State.still (fun _ _ => State.modCore_still rfl) _ s

@[simp] theorem State.freeGroup_still (s : State) (c g : Nat) : (s.freeGroup c g).still = s.still :=
  (State.modCore_still rfl).trans (s.closeLists_still c g)

@[simp] theorem State.tryFree_still (s : State) (c g : Nat) : (s.tryFree c g).still = s.still := by
  unfold State.tryFree
  dsimp only
  split <;> simp

/-- The core after its group's shadow lists are emptied. -/
def Core.clearShadows (k : Core) (g : Nat) : Core :=
  (k.ownLists g).foldl (fun k l => k.setList l { k.list l with shadow := (k.list l).shadow.map (fun _ => {}), dropHops := [] }) k

theorem State.dropHeld_eq (s : State) (c g : Nat) : s.dropHeld c g =
    (((s.modCore c (fun k => { k.clearShadows g with
      held := (k.clearShadows g).held.filter (fun h => decide (h.1 ≠ g))
      faults := (k.clearShadows g).faults.filter (fun h => decide (h.group ≠ g)) })).bump (colP c + 0xB8)
        ((((s.core c).ownLists g).map (fun l => ((s.core c).list l).shadowCount)).foldl (· + ·) 0)).wakeUnit c) := rfl

theorem Core.clearShadows_scratch (k : Core) (g : Nat) : (k.clearShadows g).scratch = k.scratch :=
  foldl_unchanged Core.scratch (fun _ _ => by rfl) _ k

theorem Core.clearShadows_groups (k : Core) (g : Nat) : (k.clearShadows g).groups = k.groups :=
  foldl_unchanged Core.groups (fun _ _ => by rfl) _ k

theorem Core.clearShadows_threads (k : Core) (g : Nat) : (k.clearShadows g).threads = k.threads :=
  foldl_unchanged Core.threads (fun _ _ => by rfl) _ k

@[simp] theorem State.dropHeld_still (s : State) (c g : Nat) : (s.dropHeld c g).still = s.still := by
  rw [State.dropHeld_eq, State.wakeUnit_still, State.bump_still]
  exact State.modCore_still ((s.core c).clearShadows_scratch g)

@[simp] theorem State.killGroup_still (s : State) (c g : Nat) : (s.killGroup c g).still = s.still := by
  unfold State.killGroup
  extract_lets x s1 s2 s3 s4
  have hmarked : s4.still = s3.still := foldl_unchanged State.still (fun s t => s.modThr_still ..) _ s3
  have hdropped : s1.still = s.still := by simp [s1, apply_ite State.still]
  split
  · rfl
  · rw [State.tryFree_still, hmarked, State.modGrp_still, State.closeLists_still, hdropped]

@[simp] theorem State.releaseHandles_still (s : State) (c h : Nat) : (s.releaseHandles c h).still = s.still := by
  unfold State.releaseHandles
  dsimp only
  split
  · exact (State.modDk_still ..).trans (State.modCore_still rfl)
  · exact State.modCore_still rfl

@[simp] theorem State.haltHart_still (s : State) (c h : Nat) : (s.haltHart c h).still = s.still := by simp [State.haltHart]

@[simp] theorem State.recordFault_still (s : State) (c ctx grp code : Nat) (pc : BitVec 16) (addr : Word) :
    (s.recordFault c ctx grp code pc addr).still = s.still := by
  unfold State.recordFault
  extract_lets a
  split
  · rfl
  · rw [State.setReg_still, State.setReg_still]

@[simp] theorem State.failQuery_still (s : State) (q code : Nat) : (s.failQuery q code).still = s.still := by
  unfold State.failQuery State.modQuery
  split <;> rfl

@[simp] theorem State.deskFault_still (s : State) (c : Nat) (x : Group) (code : Nat) : (s.deskFault c x code).still = s.still := by
  unfold State.deskFault
  split
  · rfl
  · simp

@[simp] theorem State.layerGdone_still (s : State) (c : Nat) (x : Group) : (s.layerGdone c x).still = s.still := by
  unfold State.layerGdone
  split <;> rfl

@[simp] theorem State.groupFault_still (s : State) (c g ctx code : Nat) (pc : BitVec 16) (addr : Word) :
    (s.groupFault c g ctx code pc addr).still = s.still := by simp [State.groupFault, apply_ite State.still]

@[simp] theorem State.hartFault_still (s : State) (c h code : Nat) (pc : BitVec 16) (addr : Word) :
    (s.hartFault c h code pc addr).still = s.still := by
  simp only [State.hartFault, State.haltHart_still]
  exact (State.modCore_still rfl).trans (by simp)

@[simp] theorem State.faultWith_still (s : State) (c t : Nat) (held : Option Nat) (ord code : Nat) (pc : BitVec 16) (addr : Word) :
    (s.faultWith c t held ord code pc addr).still = s.still := by
  unfold State.faultWith
  dsimp only
  split
  · simp
  · split
    · exact (State.modCore_still rfl).trans (s.setThr_still ..)
    · simp

@[simp] theorem State.trap_still (s : State) (c t code addr : Nat) : (s.trap c t code addr).still = s.still := s.faultWith_still ..

@[simp] theorem State.endThread_still (s : State) (c t : Nat) : (s.endThread c t).still = s.still := by simp [State.endThread]

@[simp] theorem State.endContext_still (s : State) (c t : Nat) : (s.endContext c t).still = s.still := by
  simp [State.endContext, apply_ite State.still]

@[simp] theorem State.settle_still (s : State) (c t : Nat) : (s.settle c t).still = s.still := by
  unfold State.settle
  dsimp only
  split <;> simp [apply_ite State.still]

@[simp] theorem State.tagFreed_still (s : State) (c : Nat) : (s.tagFreed c).still = s.still := s.wakeIf_still ..

@[simp] theorem State.gsig_still (s : State) (c g : Nat) : (s.gsig c g).still = s.still := by simp [State.gsig]

@[simp] theorem State.markDone_still (s : State) (c g : Nat) : (s.markDone c g).still = s.still := by
  simp only [State.markDone, State.tryFree_still]
  exact (foldl_unchanged State.still (fun _ _ => State.modCore_still rfl) _ _).trans (s.modGrp_still ..)

@[simp] theorem State.issued_still (s : State) (c t : Nat) : (s.issued c t).still = s.still := by
  simp [State.issued, apply_ite State.still]

/-! ### Registers -/

@[simp] theorem State.setThr_reg (s : State) (c t a : Nat) (x : Thread) : (s.setThr c t x).reg a = s.reg a := rfl
@[simp] theorem State.modGrp_reg (s : State) (c g a : Nat) (f : Group → Group) : (s.modGrp c g f).reg a = s.reg a := rfl
@[simp] theorem State.modDk_reg (s : State) (p a : Nat) (f : DeskPart → DeskPart) : (s.modDk p f).reg a = s.reg a := rfl

@[simp] theorem State.wakeIf_reg (s : State) (c a : Nat) (p : Thread → Bool) (f : Thread → Thread) :
    (s.wakeIf c p f).reg a = s.reg a :=
  foldl_unchanged (fun s : State => s.reg a) (fun s t => by dsimp only; split <;> rfl) _ s

@[simp] theorem State.wakeUnit_reg (s : State) (c a : Nat) : (s.wakeUnit c).reg a = s.reg a := s.wakeIf_reg ..

@[simp] theorem State.closeLists_reg (s : State) (c g a : Nat) : (s.closeLists c g).reg a = s.reg a :=
  foldl_unchanged (fun s : State => s.reg a) (fun _ _ => by rfl) _ s

@[simp] theorem State.freeGroup_reg (s : State) (c g a : Nat) : (s.freeGroup c g).reg a = s.reg a := s.closeLists_reg c g a

@[simp] theorem State.tryFree_reg (s : State) (c g a : Nat) : (s.tryFree c g).reg a = s.reg a := by
  unfold State.tryFree
  dsimp only
  split <;> simp

theorem State.dropHeld_reg (s : State) (c g : Nat) {a : Nat} (h : a ≠ colP c + 0xB8) : (s.dropHeld c g).reg a = s.reg a := by
  simp only [State.dropHeld, State.wakeUnit_reg, State.bump_reg_other _ _ h, reg_modCore]

/-- The counters of a kill are those of squashed hops and of dropped entries. -/
theorem State.killGroup_reg (s : State) (c g : Nat) {a : Nat} (hwalk : a ≠ walkP c + 0x88) (hcol : a ≠ colP c + 0xB8) :
    (s.killGroup c g).reg a = s.reg a := by
  unfold State.killGroup
  extract_lets x s1 s2 s3 s4
  have hdropped : s1.reg a = s.reg a := by
    simp only [s1, apply_ite (fun s : State => s.reg a), State.bump_reg_other _ _ hwalk, s.dropHeld_reg c g hcol, ite_self]
  clear_value s1
  have hclosed : s3.reg a = s.reg a := (State.closeLists_reg s1 c g a).trans hdropped
  clear_value s3
  have hmarked : s4.reg a = s.reg a := (foldl_unchanged (fun s : State => s.reg a) (fun s t => by rfl) _ s3).trans hclosed
  clear_value s4
  split
  · rfl
  · exact (State.tryFree_reg ..).trans hmarked

@[simp] theorem State.releaseHandles_reg (s : State) (c h a : Nat) : (s.releaseHandles c h).reg a = s.reg a := by
  unfold State.releaseHandles
  dsimp only
  split <;> rfl

@[simp] theorem State.deskFault_reg (s : State) (c : Nat) (x : Group) (code a : Nat) : (s.deskFault c x code).reg a = s.reg a := by
  unfold State.deskFault
  split
  · rfl
  · unfold State.failQuery State.modQuery
    split <;> rfl

/-! ### Contexts -/

/-- A property of a context that waking keeps. -/
theorem State.wakeIf_thr_induct {P : Thread → Prop} {s : State} {c d t : Nat} {p : Thread → Bool} {f : Thread → Thread}
    (hf : ∀ x, P x → p x = true → P (f x)) (h : P (s.thr d t)) : P ((s.wakeIf c p f).thr d t) := by
  unfold State.wakeIf
  generalize (s.core c).threads.keys = l
  induction l generalizing s with
  | nil => exact h
  | cons i r ih =>
    refine ih ?_
    dsimp only
    split
    · rename_i hp
      rw [thr_setThr]
      split
      · rename_i heq
        obtain ⟨rfl, rfl⟩ := heq
        exact hf _ h hp
      · exact h
    · exact h

theorem State.wakeUnit_thr (s : State) (c d t : Nat) (h : (s.thr d t).st ≠ .waitUnit) : (s.wakeUnit c).thr d t = s.thr d t :=
  thr_wakeIf _ _ _ _ _ _ (by simp [h])

@[simp] theorem State.closeLists_thr (s : State) (c g d t : Nat) : (s.closeLists c g).thr d t = s.thr d t :=
  thr_foldl d t _ (fun s _ => thr_modCore s c d t _ rfl) _ s

@[simp] theorem State.freeGroup_thr (s : State) (c g d t : Nat) : (s.freeGroup c g).thr d t = s.thr d t :=
  (thr_modCore _ c d t _ rfl).trans (s.closeLists_thr c g d t)

@[simp] theorem State.tryFree_thr (s : State) (c g d t : Nat) : (s.tryFree c g).thr d t = s.thr d t := by
  unfold State.tryFree
  dsimp only
  split <;> simp

@[simp] theorem State.modDk_thr (s : State) (p d t : Nat) (f : DeskPart → DeskPart) : (s.modDk p f).thr d t = s.thr d t := rfl

@[simp] theorem State.releaseHandles_thr (s : State) (c h d t : Nat) : (s.releaseHandles c h).thr d t = s.thr d t := by
  unfold State.releaseHandles
  dsimp only
  split
  · rw [State.modDk_thr, thr_modCore _ _ _ _ _ rfl]
  · rw [thr_modCore _ _ _ _ _ rfl]

/-! ### Groups -/

theorem grp_modCore (s : State) (c d g : Nat) (f : Core → Core) (h : (f (s.core c)).groups = (s.core c).groups) :
    (s.modCore c f).grp d g = s.grp d g := by
  unfold State.grp Core.grp
  rw [core_modCore]
  split
  · rename_i hd
    rw [hd, h]
  · rfl

@[simp] theorem State.bump_grp (s : State) (a n d g : Nat) : (s.bump a n).grp d g = s.grp d g := rfl
@[simp] theorem State.setReg_grp (s : State) (a d g : Nat) (w : Word) : (s.setReg a w).grp d g = s.grp d g := rfl
@[simp] theorem State.setField_grp (s : State) (a lo n v d g : Nat) : (s.setField a lo n v).grp d g = s.grp d g := rfl

@[simp] theorem State.setThr_grp (s : State) (c t d g : Nat) (x : Thread) : (s.setThr c t x).grp d g = s.grp d g :=
  grp_modThr s c t d g (fun _ => x)

@[simp] theorem State.wakeUnit_grp (s : State) (c d g : Nat) : (s.wakeUnit c).grp d g = s.grp d g := grp_wakeIf ..

@[simp] theorem State.closeLists_grp (s : State) (c g d h : Nat) : (s.closeLists c g).grp d h = s.grp d h :=
  foldl_unchanged (fun s : State => s.grp d h) (fun s _ => grp_modCore s c d h _ rfl) _ s

@[simp] theorem State.dropHeld_grp (s : State) (c g d h : Nat) : (s.dropHeld c g).grp d h = s.grp d h := by
  rw [State.dropHeld_eq, State.wakeUnit_grp, State.bump_grp]
  exact grp_modCore s c d h _ ((s.core c).clearShadows_groups g)

@[simp] theorem State.modDk_grp (s : State) (p d g : Nat) (f : DeskPart → DeskPart) : (s.modDk p f).grp d g = s.grp d g := rfl

@[simp] theorem State.releaseHandles_grp (s : State) (c h d g : Nat) : (s.releaseHandles c h).grp d g = s.grp d g := by
  unfold State.releaseHandles
  dsimp only
  split
  · rw [State.modDk_grp, grp_modCore _ _ _ _ _ rfl]
  · rw [grp_modCore _ _ _ _ _ rfl]

@[simp] theorem State.deskFault_core (s : State) (c d : Nat) (x : Group) (code : Nat) : (s.deskFault c x code).core d = s.core d := by
  unfold State.deskFault
  split
  · rfl
  · unfold State.failQuery State.modQuery
    split <;> rfl

@[simp] theorem State.recordFault_core (s : State) (c d ctx grp code : Nat) (pc : BitVec 16) (addr : Word) :
    (s.recordFault c ctx grp code pc addr).core d = s.core d := by
  unfold State.recordFault
  extract_lets a
  split
  · rfl
  · rw [core_setReg, core_setReg]

/-- A group with a live thread stays (R55). -/
theorem State.tryFree_of_liveThreads {s : State} {c g : Nat} (h : (s.grp c g).liveThreads ≠ 0) : s.tryFree c g = s := by
  simp [State.tryFree, h]

end Sys2Proof.Machine
end

section
/-! SUPPORT. What the kill of a group does to the group, its contexts and its lists, and what a fault then does to its thread,
group and core (R49, R52, R70, R71, R105, R139; O10, O16). -/

namespace Sys2Proof

/-- A key that a table does not list reads as an unlisted one. -/
theorem Tab.get_of_not_mem {α : Type} {d : Nat → α} {t : Tab α} {k : Nat} (h : k ∉ t.keys) : t.get d k = d k := by
  obtain ⟨l⟩ := t
  unfold Tab.get
  induction l with
  | nil => rfl
  | cons e r ih =>
    obtain ⟨j, v⟩ := e
    simp only [Tab.keys, List.map_cons, List.mem_cons, not_or] at h ih
    simpa [Tab.lookup, Ne.symm h.1] using ih h.2

namespace Machine

/-! ### Marking -/

/-- The contexts of a list are marked. -/
def State.markAll (s : State) (c : Nat) (l : List Nat) : State :=
  l.foldl (fun s t => s.modThr c t (fun y => { y with marked := true })) s

theorem State.markAll_thr (s : State) (c n : Nat) (l : List Nat) :
    (s.markAll c l).thr c n = if n ∈ l then { s.thr c n with marked := true } else s.thr c n := by
  unfold State.markAll
  induction l generalizing s with
  | nil => rfl
  | cons i r ih =>
    rw [List.foldl_cons, ih, State.modThr, thr_setThr]
    by_cases hi : n = i
    · subst hi
      simp
    · simp [hi]

theorem State.markAll_grp (s : State) (c d g : Nat) (l : List Nat) : (s.markAll c l).grp d g = s.grp d g :=
  foldl_unchanged (fun s : State => s.grp d g) (fun s t => grp_modThr s c t d g _) l s

/-- The members of a group are its contexts that are not FREE. -/
theorem Core.mem_members {k : Core} {g n : Nat} :
    n ∈ k.members g ↔ n < 8192 ∧ (k.thr n).group = g ∧ (k.thr n).st ≠ .free := by
  simp only [Core.members, List.mem_filter, Bool.and_eq_true, decide_eq_true_eq]
  constructor
  · rintro ⟨-, ⟨hn, hg⟩, hst⟩
    exact ⟨hn, hg, hst⟩
  · rintro ⟨hn, hg, hst⟩
    refine ⟨by_contra fun hkey => hst ?_, ⟨hn, hg⟩, hst⟩
    exact congrArg Thread.st (Tab.get_of_not_mem (d := fun _ => ({} : Thread)) hkey)

/-! ### Killing -/

/-- A killed group before its contexts are marked: what its hops hold is dropped, and its lists are closed. -/
def State.killOpen (s : State) (c g : Nat) : State :=
  ((if (s.grp c g).hops = 0 then s else (s.dropHeld c g).bump (walkP c + 0x88) 1).closeLists c g).modGrp c g
    (fun x => { x with killed := true, hops := 0 })

theorem State.killGroup_eq {s : State} {c g : Nat} (hlive : (s.grp c g).live = true) (hkilled : (s.grp c g).killed = false) :
    s.killGroup c g = ((s.killOpen c g).markAll c (((s.killOpen c g).core c).members g)).tryFree c g := by
  unfold State.killGroup
  exact if_neg (by simp [hlive, hkilled])

theorem State.killGroup_dead {s : State} {c g : Nat} (h : (s.grp c g).live = false ∨ (s.grp c g).killed = true) :
    s.killGroup c g = s := by
  unfold State.killGroup
  exact if_pos (by rcases h with h | h <;> simp [h])

theorem State.killOpen_grp (s : State) (c g : Nat) : (s.killOpen c g).grp c g = { s.grp c g with killed := true, hops := 0 } := by
  rw [State.killOpen, grp_modGrp, if_pos ⟨rfl, rfl⟩, State.closeLists_grp]
  split
  · rfl
  · rw [State.bump_grp, State.dropHeld_grp]

/-- A group with a live thread is killed and not yet freed. -/
theorem State.killGroup_live {s : State} {c g : Nat} (hlive : (s.grp c g).live = true) (hkilled : (s.grp c g).killed = false)
    (hthreads : (s.grp c g).liveThreads ≠ 0) :
    s.killGroup c g = (s.killOpen c g).markAll c (((s.killOpen c g).core c).members g) := by
  rw [State.killGroup_eq hlive hkilled, State.tryFree_of_liveThreads]
  rw [State.markAll_grp, State.killOpen_grp]
  exact hthreads

theorem State.killGroup_grp {s : State} {c g : Nat} (hlive : (s.grp c g).live = true) (hkilled : (s.grp c g).killed = false)
    (hthreads : (s.grp c g).liveThreads ≠ 0) : (s.killGroup c g).grp c g = { s.grp c g with killed := true, hops := 0 } := by
  rw [State.killGroup_live hlive hkilled hthreads, State.markAll_grp, State.killOpen_grp]

/-- What waking for a place in the hold store keeps of a context, the kill of its group keeps until it marks it. -/
theorem State.killOpen_thr_induct {P : Thread → Prop} {s : State} {c g d n : Nat}
    (hP : ∀ x, P x → x.st = .waitUnit → P x.wakeReissue) (h : P (s.thr d n)) : P ((s.killOpen c g).thr d n) := by
  rw [State.killOpen, thr_modGrp, State.closeLists_thr]
  split
  · exact h
  · rw [thr_bump, State.dropHeld_eq]
    refine State.wakeIf_thr_induct (fun x hx hp => hP x hx (by simp at hp; exact hp.1)) ?_
    rw [thr_bump, thr_modCore _ _ _ _ _ ((s.core c).clearShadows_threads g)]
    exact h

theorem State.killOpen_thr (s : State) (c g d n : Nat) (h : (s.thr d n).st ≠ .waitUnit) : (s.killOpen c g).thr d n = s.thr d n := by
  have := State.killOpen_thr_induct (P := fun x => x = s.thr d n) (s := s) (c := c) (g := g) (d := d) (n := n)
    (fun x hx hst => absurd (hx ▸ hst) h) rfl
  exact this

/-- The contexts of a killed group are marked. -/
theorem State.killGroup_marks {s : State} {c g n : Nat} (hlive : (s.grp c g).live = true) (hkilled : (s.grp c g).killed = false)
    (hn : n < 8192) (hg : (s.thr c n).group = g) (hst : (s.thr c n).st ≠ .free) : ((s.killGroup c g).thr c n).marked = true := by
  have hmember : n ∈ ((s.killOpen c g).core c).members g := by
    refine Core.mem_members.2 ⟨hn, ?_⟩
    exact State.killOpen_thr_induct (P := fun x => x.group = g ∧ x.st ≠ .free) (fun x hx _ => ⟨hx.1, by simp [Thread.wakeReissue]⟩)
      ⟨hg, hst⟩
  rw [State.killGroup_eq hlive hkilled, State.tryFree_thr, State.markAll_thr, if_pos hmember]

/-- A context that is not in WAIT_UNIT can only be marked by a kill. -/
theorem State.killGroup_thr (s : State) (c g n : Nat) (h : (s.thr c n).st ≠ .waitUnit) :
    ∃ m, (s.killGroup c g).thr c n = { s.thr c n with marked := m } := by
  by_cases hdead : (s.grp c g).live = false ∨ (s.grp c g).killed = true
  · exact ⟨(s.thr c n).marked, by rw [State.killGroup_dead hdead]⟩
  · simp only [not_or, Bool.not_eq_false, Bool.not_eq_true] at hdead
    rw [State.killGroup_eq hdead.1 hdead.2, State.tryFree_thr, State.markAll_thr, State.killOpen_thr _ _ _ _ _ h]
    split
    · exact ⟨true, rfl⟩
    · exact ⟨_, rfl⟩

/-- A hart belongs to no group: no kill marks it. -/
theorem State.killGroup_thr_hart (s : State) (c g n : Nat) (h : (s.thr c n).st ≠ .waitUnit) (hhart : 8192 ≤ n) :
    (s.killGroup c g).thr c n = s.thr c n := by
  by_cases hdead : (s.grp c g).live = false ∨ (s.grp c g).killed = true
  · rw [State.killGroup_dead hdead]
  · simp only [not_or, Bool.not_eq_false, Bool.not_eq_true] at hdead
    rw [State.killGroup_eq hdead.1 hdead.2, State.tryFree_thr, State.markAll_thr, State.killOpen_thr _ _ _ _ _ h,
      if_neg (fun hm => absurd (Core.mem_members.1 hm).1 (by omega))]

end Machine
end Sys2Proof
end

section
/-! SUPPORT. Little-endian fields of memories and of group descriptors after a write of one, and the bits of a register after a
write of a field. -/

namespace Sys2Proof

theorem leNat_leBytes (n v : Nat) : leNat (leBytes n v) = v % 256 ^ n := by
  induction n generalizing v with
  | zero => simp [leBytes, leNat, Nat.mod_one]
  | succ n ih =>
    rw [leBytes, leNat, ih, BitVec.toNat_ofNat, pow_succ' 256]
    exact (Nat.mod_mul ..).symm

theorem getLsbD_putFld (w : Word) (lo n v i : Nat) (hi : i < 64) :
    (putFld w lo n v).getLsbD i = if lo ≤ i ∧ i < lo + n then v.testBit (i - lo) else w.getLsbD i := by
  have hmask : (BitVec.ofNat 64 (2 ^ n - 1) <<< lo).getLsbD i = decide (lo ≤ i ∧ i < lo + n) := by
    simp only [BitVec.getLsbD_shiftLeft, BitVec.getLsbD_ofNat, Nat.testBit_two_pow_sub_one, ← Bool.decide_and, decide_eq_decide,
      ← decide_not]
    omega
  have hval : (BitVec.ofNat 64 v <<< lo).getLsbD i = (decide (lo ≤ i) && v.testBit (i - lo)) := by
    by_cases hlo : lo ≤ i
    · have hsub : i - lo < 64 := by omega
      simp [BitVec.getLsbD_shiftLeft, BitVec.getLsbD_ofNat, hi, hlo, hsub, not_lt.2 hlo, -BitVec.getLsbD_eq_getElem]
    · simp [BitVec.getLsbD_shiftLeft, hlo, not_le.1 hlo, -BitVec.getLsbD_eq_getElem]
  simp only [putFld, BitVec.getLsbD_or, BitVec.getLsbD_and, BitVec.getLsbD_not, hmask, hval, hi, decide_true, Bool.true_and]
  split
  · rename_i h
    simp [h]
  · rename_i h
    simp [h]

namespace Mem

theorem bytes_congr {m m' : Mem} {a : Nat} {n : Nat} (h : ∀ i, a ≤ i → i < a + n → rd m i = rd m' i) :
    bytes m a n = bytes m' a n := by
  induction n generalizing a with
  | zero => rfl
  | succ n ih =>
    rw [bytes, bytes, h a le_rfl (by omega), ih (fun i hlo hhi => h i (by omega) (by omega))]

theorem bytes_putBytes_same (m : Mem) (a : Nat) (bs : List Byte) : bytes (putBytes m a bs) a bs.length = bs := by
  induction bs generalizing m a with
  | nil => rfl
  | cons b r ih =>
    rw [List.length_cons, bytes, rd_putBytes]
    have htail : bytes (putBytes m a (b :: r)) (a + 1) r.length = r := ih (wr m a b) (a + 1)
    simp [htail]

theorem bytes_putBytes_out (m : Mem) (a : Nat) (bs : List Byte) {b n : Nat} (h : b + n ≤ a ∨ a + bs.length ≤ b) :
    bytes (putBytes m a bs) b n = bytes m b n :=
  bytes_congr (fun i hlo hhi => rd_putBytes_out m a bs i (by omega))

end Mem

namespace Machine

/-- A field of a group descriptor after it is written. -/
theorem Group.setF_f (g : Group) (o n v : Nat) : (g.setF o n v).f o n = v % 256 ^ n := by
  have h := Mem.bytes_putBytes_same g.desc o (leBytes n v)
  rw [length_leBytes] at h
  rw [Group.setF, Group.f, Mem.le, Mem.putLe, h, leNat_leBytes]

/-- A field of a group descriptor after another is written. -/
theorem Group.setF_f_other (g : Group) (o n v : Nat) {p k : Nat} (h : p + k ≤ o ∨ o + n ≤ p) : (g.setF o n v).f p k = g.f p k := by
  rw [Group.setF, Group.f, Mem.le, Mem.putLe, Mem.bytes_putBytes_out _ _ _ (by rwa [length_leBytes]), Group.f, Mem.le]

end Machine
end Sys2Proof
end

section
/-! SUPPORT. What a fault does to its thread, its group and its core, and how a hart halts (R52, R70, R71, R90); O16 and O10. -/

namespace Sys2Proof.Machine

/-! ### CORE_FAULT_INFO and CORE_FAULT_ADDR (R52, R70) -/

theorem State.recordFault_info (s : State) (c ctx grp code : Nat) (pc : BitVec 16) (addr : Word) :
    (s.recordFault c ctx grp code pc addr).reg (coreP c + 0x58) =
      if (s.reg (coreP c + 0x58)).getLsbD 47 then s.reg (coreP c + 0x58)
      else BitVec.ofNat 64 (code + ctx * 2 ^ 16 + grp * 2 ^ 32 + 2 ^ 47 + pc.toNat * 2 ^ 48) := by
  unfold State.recordFault
  extract_lets a
  split
  · rfl
  · rw [State.setReg_reg, if_neg (by omega), State.setReg_reg, if_pos rfl]

theorem State.recordFault_addr (s : State) (c ctx grp code : Nat) (pc : BitVec 16) (addr : Word) :
    (s.recordFault c ctx grp code pc addr).reg (coreP c + 0x60) =
      if (s.reg (coreP c + 0x58)).getLsbD 47 then s.reg (coreP c + 0x60) else addr := by
  unfold State.recordFault
  extract_lets a
  split
  · rfl
  · rw [State.setReg_reg, if_pos rfl]

theorem State.recordFault_reg (s : State) (c ctx grp code : Nat) (pc : BitVec 16) (addr : Word) {a : Nat}
    (hinfo : a ≠ coreP c + 0x58) (haddr : a ≠ coreP c + 0x60) : (s.recordFault c ctx grp code pc addr).reg a = s.reg a := by
  unfold State.recordFault
  extract_lets b
  split
  · rfl
  · rw [State.setReg_reg, if_neg haddr, State.setReg_reg, if_neg hinfo]

theorem State.recordFault_grp (s : State) (c ctx grp code : Nat) (pc : BitVec 16) (addr : Word) (d g : Nat) :
    (s.recordFault c ctx grp code pc addr).grp d g = s.grp d g := congrArg (Core.grp · g) (s.recordFault_core c d ctx grp code pc addr)

theorem State.recordFault_thr (s : State) (c ctx grp code : Nat) (pc : BitVec 16) (addr : Word) (d t : Nat) :
    (s.recordFault c ctx grp code pc addr).thr d t = s.thr d t := congrArg (Core.thr · t) (s.recordFault_core c d ctx grp code pc addr)

theorem State.deskFault_grp (s : State) (c : Nat) (x : Group) (code d g : Nat) : (s.deskFault c x code).grp d g = s.grp d g :=
  congrArg (Core.grp · g) (s.deskFault_core c d x code)

theorem State.deskFault_thr (s : State) (c : Nat) (x : Group) (code d t : Nat) : (s.deskFault c x code).thr d t = s.thr d t :=
  congrArg (Core.thr · t) (s.deskFault_core c d x code)

/-! ### A committed fault of a group (R70) -/

/-- A committed fault of a live group before the group is killed: counted, the first of its group recorded, and told to the
Desk. -/
def State.noteFault (s : State) (c g ctx code : Nat) (pc : BitVec 16) (addr : Word) : State :=
  (if (s.grp c g).f 32 4 = 0 then
      ((s.bump (coreP c + 0xA0) 1).modGrp c g (·.setF 32 4 (code + ctx * 2 ^ 16))).recordFault c ctx g code pc addr
    else s.bump (coreP c + 0xA0) 1).deskFault c (s.grp c g) code

theorem State.groupFault_live {s : State} {c g : Nat} (h : (s.grp c g).live = true) (ctx code : Nat) (pc : BitVec 16) (addr : Word) :
    s.groupFault c g ctx code pc addr = (s.noteFault c g ctx code pc addr).killGroup c g := by
  unfold State.groupFault
  exact if_neg (by simp [h])

theorem State.groupFault_dead {s : State} {c g : Nat} (h : (s.grp c g).live = false) (ctx code : Nat) (pc : BitVec 16) (addr : Word) :
    s.groupFault c g ctx code pc addr = s.bump (coreP c + 0xA0) 1 := by
  unfold State.groupFault
  exact if_pos (by simp [h])

theorem State.noteFault_thr (s : State) (c g ctx code : Nat) (pc : BitVec 16) (addr : Word) (d t : Nat) :
    (s.noteFault c g ctx code pc addr).thr d t = s.thr d t := by
  rw [State.noteFault, State.deskFault_thr]
  split
  · rw [State.recordFault_thr, thr_modGrp, thr_bump]
  · rw [thr_bump]

theorem State.noteFault_grp (s : State) (c g ctx code : Nat) (pc : BitVec 16) (addr : Word) :
    (s.noteFault c g ctx code pc addr).grp c g =
      if (s.grp c g).f 32 4 = 0 then (s.grp c g).setF 32 4 (code + ctx * 2 ^ 16) else s.grp c g := by
  rw [State.noteFault, State.deskFault_grp]
  split
  · rw [State.recordFault_grp, grp_modGrp, if_pos ⟨rfl, rfl⟩, State.bump_grp]
  · rw [State.bump_grp]

theorem State.noteFault_counts (s : State) (c g ctx code : Nat) (pc : BitVec 16) (addr : Word) :
    counted s (s.noteFault c g ctx code pc addr) (coreP c + 0xA0) 1 := by
  rw [counted, State.noteFault, State.deskFault_reg]
  split
  · rw [State.recordFault_reg _ _ _ _ _ _ _ (by omega) (by omega), State.modGrp_reg]
    exact counted_bump ..
  · exact counted_bump ..

/-- A fault that is not the first of its group is not recorded. -/
theorem State.noteFault_reg_later {s : State} {c g : Nat} (h : (s.grp c g).f 32 4 ≠ 0) (ctx code : Nat) (pc : BitVec 16) (addr : Word)
    {a : Nat} (ha : a ≠ coreP c + 0xA0) : (s.noteFault c g ctx code pc addr).reg a = s.reg a := by
  rw [State.noteFault, State.deskFault_reg, if_neg h, State.bump_reg_other _ _ ha]

/-- Where the fault of context `ctx` of group `grp` leaves CORE_FAULT_INFO and CORE_FAULT_ADDR. -/
def faultTold (s u : State) (c ctx grp code : Nat) (pc : BitVec 16) (addr : Word) : Prop :=
  if (s.reg (coreP c + 0x58)).getLsbD 47 then
    u.reg (coreP c + 0x58) = s.reg (coreP c + 0x58) ∧ u.reg (coreP c + 0x60) = s.reg (coreP c + 0x60)
  else
    u.reg (coreP c + 0x58) = BitVec.ofNat 64 (code + ctx * 2 ^ 16 + grp * 2 ^ 32 + 2 ^ 47 + pc.toNat * 2 ^ 48) ∧
      u.reg (coreP c + 0x60) = addr

/-- A record of the fault, with nothing before or after it that touches the two registers. -/
theorem faultTold_of_recordFault {s v u : State} {c ctx grp code : Nat} {pc : BitVec 16} {addr : Word}
    (hv : ∀ o, o = 0x58 ∨ o = 0x60 → v.reg (coreP c + o) = s.reg (coreP c + o))
    (hu : ∀ o, o = 0x58 ∨ o = 0x60 → u.reg (coreP c + o) = (v.recordFault c ctx grp code pc addr).reg (coreP c + o)) :
    faultTold s u c ctx grp code pc addr := by
  unfold faultTold
  rw [hu _ (.inl rfl), hu _ (.inr rfl), State.recordFault_info, State.recordFault_addr, hv _ (.inl rfl), hv _ (.inr rfl)]
  split
  · exact ⟨rfl, rfl⟩
  · exact ⟨rfl, rfl⟩

theorem faultTold_congr {s s' u u' : State} {c ctx grp code : Nat} {pc : BitVec 16} {addr : Word}
    (hs : ∀ o, o < 0x80 → s'.reg (coreP c + o) = s.reg (coreP c + o)) (hu : ∀ o, o < 0x80 → u'.reg (coreP c + o) = u.reg (coreP c + o))
    (h : faultTold s u c ctx grp code pc addr) : faultTold s' u' c ctx grp code pc addr := by
  unfold faultTold
  rw [hs _ (by omega), hs _ (by omega), hu _ (by omega), hu _ (by omega)]
  exact h

theorem State.noteFault_told {s : State} {c g : Nat} (h : (s.grp c g).f 32 4 = 0) (ctx code : Nat) (pc : BitVec 16) (addr : Word) :
    faultTold s (s.noteFault c g ctx code pc addr) c ctx g code pc addr := by
  refine faultTold_of_recordFault (v := (s.bump (coreP c + 0xA0) 1).modGrp c g (·.setF 32 4 (code + ctx * 2 ^ 16)))
    (fun o ho => ?_) (fun o _ => ?_)
  · rw [State.modGrp_reg, State.bump_reg_other _ _ (by omega)]
  · rw [State.noteFault, State.deskFault_reg, if_pos h]

/-- A kill counts in the WALKER and COLLATOR pages alone. -/
theorem State.killGroup_reg_core (s : State) (c g : Nat) {o : Nat} (ho : o < 0x1000) :
    (s.killGroup c g).reg (coreP c + o) = s.reg (coreP c + o) :=
  s.killGroup_reg c g (by unfold walkP; omega) (by unfold colP; omega)

theorem State.groupFault_counts (s : State) (c g ctx code : Nat) (pc : BitVec 16) (addr : Word) :
    counted s (s.groupFault c g ctx code pc addr) (coreP c + 0xA0) 1 := by
  by_cases hlive : (s.grp c g).live = true
  · rw [State.groupFault_live hlive, counted, State.killGroup_reg_core _ _ _ (by omega)]
    exact s.noteFault_counts ..
  · rw [State.groupFault_dead (by simpa using hlive)]
    exact counted_bump ..

/-- The first committed fault of a live group is recorded. -/
theorem State.groupFault_told {s : State} {c g : Nat} (hlive : (s.grp c g).live = true) (hfirst : (s.grp c g).f 32 4 = 0)
    (ctx code : Nat) (pc : BitVec 16) (addr : Word) : faultTold s (s.groupFault c g ctx code pc addr) c ctx g code pc addr := by
  rw [State.groupFault_live hlive]
  exact faultTold_congr (fun _ _ => rfl) (fun o ho => State.killGroup_reg_core _ _ _ (by omega))
    (State.noteFault_told hfirst ctx code pc addr)

/-- A later one leaves the registers below the core's counters as they are. -/
theorem State.groupFault_later {s : State} {c g : Nat} (hlive : (s.grp c g).live = true) (hlater : (s.grp c g).f 32 4 ≠ 0)
    (ctx code : Nat) (pc : BitVec 16) (addr : Word) {o : Nat} (ho : o < 0x80) :
    (s.groupFault c g ctx code pc addr).reg (coreP c + o) = s.reg (coreP c + o) := by
  rw [State.groupFault_live hlive, State.killGroup_reg_core _ _ _ (by omega), State.noteFault_reg_later hlater _ _ _ _ (by omega)]

/-- A committed fault leaves every context that is not in WAIT_UNIT as it is, but for a mark. -/
theorem State.groupFault_thr (s : State) (c g ctx code : Nat) (pc : BitVec 16) (addr : Word) (n : Nat) (h : (s.thr c n).st ≠ .waitUnit) :
    ∃ m, (s.groupFault c g ctx code pc addr).thr c n = { s.thr c n with marked := m } := by
  by_cases hlive : (s.grp c g).live = true
  · rw [State.groupFault_live hlive, ← s.noteFault_thr c g ctx code pc addr c n]
    exact State.killGroup_thr _ _ _ _ (by rwa [State.noteFault_thr])
  · rw [State.groupFault_dead (by simpa using hlive)]
    exact ⟨_, rfl⟩

/-! ### Harts (R52, R90) -/

theorem State.haltHart_reg (s : State) (c h : Nat) {a : Nat} (ha : a ≠ coreP c + 0x48) : (s.haltHart c h).reg a = s.reg a := by
  rw [State.haltHart, State.wakeUnit_reg, State.releaseHandles_reg, reg_modThr, State.setField, State.setReg_reg, if_neg ha,
    State.setField, State.setReg_reg, if_neg ha]

/-- A one-bit field of a register that is set. -/
theorem State.setField_bit (s : State) (a k : Nat) (b : Bool) {i : Nat} (hi : i < 64) :
    ((s.setField a k 1 b.toNat).reg a).getLsbD i = if i = k then b else (s.reg a).getLsbD i := by
  rw [State.setField, State.setReg_reg_same, getLsbD_putFld _ _ _ _ _ hi]
  by_cases hk : i = k
  · subst hk
    cases b <;> simp
  · rw [if_neg hk, if_neg (by omega)]

/-- RUN and HALTED of a hart that halts. -/
theorem State.haltHart_ctrl (s : State) (c h : Nat) {i : Nat} (hi : i < 64) :
    ((s.haltHart c h).reg (coreP c + 0x48)).getLsbD i =
      if i = 8 + h then true else if i = h then false else (s.reg (coreP c + 0x48)).getLsbD i := by
  rw [State.haltHart, State.wakeUnit_reg, State.releaseHandles_reg, reg_modThr]
  have hrun := State.setField_bit s (coreP c + 0x48) h false hi
  exact (State.setField_bit _ _ _ true hi).trans (congrArg (fun b => if i = 8 + h then true else b) hrun)

@[simp] theorem State.setField_thr (s : State) (a lo n v c t : Nat) : (s.setField a lo n v).thr c t = s.thr c t := rfl

theorem State.haltHart_thr_self (s : State) (c h : Nat) :
    (s.haltHart c h).thr c (8192 + h) = { ({} : Thread) with inst := (s.thr c (8192 + h)).inst + 1 } := by
  have hfreed : (((((s.setField (coreP c + 0x48) h 1 0).setField (coreP c + 0x48) (8 + h) 1 1).modThr c (8192 + h)
      (fun x => { ({} : Thread) with inst := x.inst + 1 })).releaseHandles c h).thr c (8192 + h)) =
      { ({} : Thread) with inst := (s.thr c (8192 + h)).inst + 1 } := by
    rw [State.releaseHandles_thr, thr_modThr, State.setField_thr, State.setField_thr]
  rw [State.haltHart, State.wakeUnit_thr _ _ _ _ (by rw [hfreed]; simp), hfreed]

theorem State.haltHart_thr_other (s : State) (c h d n : Nat) (hn : n ≠ 8192 + h) (hst : (s.thr d n).st ≠ .waitUnit) :
    (s.haltHart c h).thr d n = s.thr d n := by
  have hkept : (((((s.setField (coreP c + 0x48) h 1 0).setField (coreP c + 0x48) (8 + h) 1 1).modThr c (8192 + h)
      (fun x => { ({} : Thread) with inst := x.inst + 1 })).releaseHandles c h).thr d n) = s.thr d n := by
    rw [State.releaseHandles_thr, State.modThr, thr_setThr, if_neg (fun h => hn h.2), State.setField_thr, State.setField_thr]
  rw [State.haltHart, State.wakeUnit_thr _ _ _ _ (by rw [hkept]; exact hst), hkept]

theorem State.haltHart_grp (s : State) (c h d g : Nat) : (s.haltHart c h).grp d g = s.grp d g := by
  rw [State.haltHart, State.wakeUnit_grp, State.releaseHandles_grp, grp_modThr, State.setField_grp, State.setField_grp]

/-! ### Faults (R52, R70, R71) -/

/-- The thread stops in FAULTED. -/
def State.stopThread (s : State) (c t : Nat) : State := s.modThr c t (fun x => { x with st := .faulted, wait := .none })

theorem State.stopThread_thr (s : State) (c t n : Nat) :
    (s.stopThread c t).thr c n = if n = t then { s.thr c t with st := .faulted, wait := .none } else s.thr c n := by
  rw [State.stopThread, State.modThr, thr_setThr]
  simp

theorem State.stopThread_grp (s : State) (c t d g : Nat) : (s.stopThread c t).grp d g = s.grp d g := grp_modThr ..
theorem State.stopThread_reg (s : State) (c t a : Nat) : (s.stopThread c t).reg a = s.reg a := rfl

theorem State.trap_hart (s : State) {c t : Nat} (h : 8192 ≤ t) (code addr : Nat) :
    s.trap c t code addr = s.hartFault c (t - 8192) code (s.thr c t).pc (BitVec.ofNat 64 addr) := by
  simp [State.trap, State.faultThread, State.faultWith, isHart, h]

theorem State.trap_committed {s : State} {c t : Nat} (ht : t < 8192) (hspec : (s.thr c t).spec = false) (code addr : Nat) :
    s.trap c t code addr =
      (s.stopThread c t).groupFault c (s.thr c t).group t code (s.thr c t).pc (BitVec.ofNat 64 addr) := by
  simp [State.trap, State.faultThread, State.faultWith, isHart, not_le.2 ht, hspec, State.stopThread, State.modThr]

theorem State.trap_speculating {s : State} {c t : Nat} (ht : t < 8192) (hspec : (s.thr c t).spec = true) (code addr : Nat) :
    s.trap c t code addr = (s.stopThread c t).modCore c (fun k => { k with
      faults := k.faults ++ [⟨(s.thr c t).group, (s.thr c t).hop, t, code, (s.thr c t).pc, BitVec.ofNat 64 addr, 2 * s.nextId⟩] }) := by
  simp [State.trap, State.faultThread, State.faultWith, isHart, not_le.2 ht, hspec, State.stopThread, State.modThr]

/-- A thread that faults stops with its registers and PC as they are. -/
theorem State.trap_thr {s : State} {c t : Nat} (ht : t < 8192) (code addr : Nat) :
    ∃ m, (s.trap c t code addr).thr c t = { s.thr c t with st := .faulted, wait := .none, marked := m } := by
  have hstopped := s.stopThread_thr c t t
  rw [if_pos rfl] at hstopped
  cases hspec : (s.thr c t).spec
  · obtain ⟨m, hm⟩ := State.groupFault_thr (s.stopThread c t) c (s.thr c t).group t code (s.thr c t).pc (BitVec.ofNat 64 addr) t
      (by rw [hstopped]; simp)
    exact ⟨m, by rw [State.trap_committed ht hspec, hm, hstopped]⟩
  · exact ⟨(s.thr c t).marked, by rw [State.trap_speculating ht hspec, thr_modCore _ _ _ _ _ rfl, hstopped]⟩

/-- A committed fault of a live group, until the group is killed. -/
theorem State.groupFault_noted {s : State} {c g : Nat} (hlive : (s.grp c g).live = true) (hkilled : (s.grp c g).killed = false)
    (hthreads : (s.grp c g).liveThreads ≠ 0) (ctx code : Nat) (pc : BitVec 16) (addr : Word) :
    ((s.noteFault c g ctx code pc addr).grp c g).live = true ∧ ((s.noteFault c g ctx code pc addr).grp c g).killed = false ∧
      ((s.noteFault c g ctx code pc addr).grp c g).liveThreads ≠ 0 := by
  rw [State.noteFault_grp]
  split
  · refine ⟨hlive, hkilled, ?_⟩
    rw [Group.liveThreads, Group.setF_f_other _ _ _ _ (by omega)]
    exact hthreads
  · exact ⟨hlive, hkilled, hthreads⟩

/-- The group of a committed fault is killed, and the first fault of it recorded. -/
theorem State.groupFault_grp {s : State} {c g : Nat} (hlive : (s.grp c g).live = true) (hkilled : (s.grp c g).killed = false)
    (hthreads : (s.grp c g).liveThreads ≠ 0) (ctx code : Nat) (pc : BitVec 16) (addr : Word) :
    (s.groupFault c g ctx code pc addr).grp c g =
      { (if (s.grp c g).f 32 4 = 0 then (s.grp c g).setF 32 4 (code + ctx * 2 ^ 16) else s.grp c g) with killed := true, hops := 0 } := by
  obtain ⟨hlive', hkilled', hthreads'⟩ := State.groupFault_noted hlive hkilled hthreads ctx code pc addr
  rw [State.groupFault_live hlive, State.killGroup_grp hlive' hkilled' hthreads', State.noteFault_grp]

/-- Every live context of the group of a committed fault is marked. -/
theorem State.groupFault_marks {s : State} {c g n : Nat} (hlive : (s.grp c g).live = true) (hkilled : (s.grp c g).killed = false)
    (hthreads : (s.grp c g).liveThreads ≠ 0) (ctx code : Nat) (pc : BitVec 16) (addr : Word) (hn : n < 8192)
    (hg : (s.thr c n).group = g) (hst : (s.thr c n).st ≠ .free) : ((s.groupFault c g ctx code pc addr).thr c n).marked = true := by
  obtain ⟨hlive', hkilled', -⟩ := State.groupFault_noted hlive hkilled hthreads ctx code pc addr
  rw [State.groupFault_live hlive]
  exact State.killGroup_marks hlive' hkilled' hn (by rwa [State.noteFault_thr]) (by rwa [State.noteFault_thr])

/-- The state in which a faulting hart halts. -/
def State.hartDown (s : State) (c h code : Nat) (pc : BitVec 16) (addr : Word) : State :=
  ((((s.bump (coreP c + 0xA0) 1).recordFault c (8192 + h) 0 code pc addr).setField (coreP c + 0x48) (16 + h) 1 1).modCore c
    (fun k => { k with hartDown := h :: k.hartDown.erase h }))

theorem State.hartFault_eq (s : State) (c h code : Nat) (pc : BitVec 16) (addr : Word) :
    s.hartFault c h code pc addr = (s.hartDown c h code pc addr).haltHart c h := rfl

theorem State.hartDown_reg (s : State) (c h code : Nat) (pc : BitVec 16) (addr : Word) {a : Nat} (ha : a ≠ coreP c + 0x48) :
    (s.hartDown c h code pc addr).reg a = ((s.bump (coreP c + 0xA0) 1).recordFault c (8192 + h) 0 code pc addr).reg a := by
  rw [State.hartDown, reg_modCore, State.setField, State.setReg_reg, if_neg ha]

theorem State.hartDown_thr (s : State) (c h code : Nat) (pc : BitVec 16) (addr : Word) (d n : Nat) :
    (s.hartDown c h code pc addr).thr d n = s.thr d n := by
  rw [State.hartDown, thr_modCore _ _ _ _ _ rfl, State.setField_thr, State.recordFault_thr, thr_bump]

theorem State.hartDown_grp (s : State) (c h code : Nat) (pc : BitVec 16) (addr : Word) (d g : Nat) :
    (s.hartDown c h code pc addr).grp d g = s.grp d g := by
  rw [State.hartDown, grp_modCore _ _ _ _ _ rfl, State.setField_grp, State.recordFault_grp, State.bump_grp]

theorem State.hartFault_grp (s : State) (c h code : Nat) (pc : BitVec 16) (addr : Word) (d g : Nat) :
    (s.hartFault c h code pc addr).grp d g = s.grp d g := by
  rw [State.hartFault_eq, State.haltHart_grp, State.hartDown_grp]

/-- RUN, HALTED and HART_FAULT of a hart that faults. -/
theorem State.hartFault_ctrl (s : State) (c code : Nat) (pc : BitVec 16) (addr : Word) {h : Nat} (hh : h < 4) :
    ((s.hartFault c h code pc addr).reg (coreP c + 0x48)).getLsbD h = false ∧
    ((s.hartFault c h code pc addr).reg (coreP c + 0x48)).getLsbD (8 + h) = true ∧
    ((s.hartFault c h code pc addr).reg (coreP c + 0x48)).getLsbD (16 + h) = true := by
  have hdown : ((s.hartDown c h code pc addr).reg (coreP c + 0x48)).getLsbD (16 + h) = true := by
    rw [State.hartDown, reg_modCore]
    exact (State.setField_bit _ _ _ true (by omega)).trans (if_pos rfl)
  rw [State.hartFault_eq, State.haltHart_ctrl _ _ _ (by omega), State.haltHart_ctrl _ _ _ (by omega),
    State.haltHart_ctrl _ _ _ (by omega)]
  refine ⟨?_, if_pos rfl, ?_⟩
  · rw [if_neg (by omega), if_pos rfl]
  · rw [if_neg (by omega), if_neg (by omega), hdown]

theorem State.hartFault_counts (s : State) (c h code : Nat) (pc : BitVec 16) (addr : Word) :
    counted s (s.hartFault c h code pc addr) (coreP c + 0xA0) 1 := by
  rw [counted, State.hartFault_eq, State.haltHart_reg _ _ _ (by omega), State.hartDown_reg _ _ _ _ _ _ (by omega),
    State.recordFault_reg _ _ _ _ _ _ _ (by omega) (by omega)]
  exact counted_bump ..

theorem State.hartFault_told (s : State) (c h code : Nat) (pc : BitVec 16) (addr : Word) :
    faultTold s (s.hartFault c h code pc addr) c (8192 + h) 0 code pc addr := by
  refine faultTold_of_recordFault (v := s.bump (coreP c + 0xA0) 1) (fun o ho => ?_) (fun o ho => ?_)
  · rw [State.bump_reg_other _ _ (by omega)]
  · rw [State.hartFault_eq, State.haltHart_reg _ _ _ (by omega), State.hartDown_reg _ _ _ _ _ _ (by omega)]

theorem State.hartFault_thr (s : State) (c h code : Nat) (pc : BitVec 16) (addr : Word) {n : Nat} (hn : n < 8192)
    (hst : (s.thr c n).st ≠ .waitUnit) : (s.hartFault c h code pc addr).thr c n = s.thr c n := by
  rw [State.hartFault_eq, State.haltHart_thr_other _ _ _ _ _ (by omega) (by rwa [State.hartDown_thr]), State.hartDown_thr]

/-- Settles O16: a fault at PC by its three cases, a committed one, one held with a hop, and a hart's. -/
theorem faultEntry : Obligations.FaultEntry := by
  unfold Obligations.FaultEntry
  intro c t code addr s x g u info told
  refine ⟨storedNone_of_still (s.trap_still ..), fun ht => ?_, fun ht => ?_⟩
  · obtain ⟨m, hm⟩ := State.trap_thr (s := s) (c := c) ht code.toNat addr
    refine ⟨by rw [hm], by rw [hm], fun i => r_of_g (by rw [hm]) i, fun hspec => ?_, fun hspec => ?_⟩
    · have htrap : u = _ := State.trap_committed ht hspec code.toNat addr
      have hgrp : (s.stopThread c t).grp c x.group = g := s.stopThread_grp ..
      have hcounts := (s.stopThread c t).groupFault_counts c x.group t code.toNat x.pc (BitVec.ofNat 64 addr)
      rw [counted, ← htrap, State.stopThread_reg] at hcounts
      refine ⟨hcounts, fun hlive hkilled hthreads => ?_⟩
      rw [← hgrp] at hlive hkilled hthreads
      have hgroup := State.groupFault_grp hlive hkilled hthreads t code.toNat x.pc (BitVec.ofNat 64 addr)
      rw [← htrap, hgrp] at hgroup
      refine ⟨?_, by rw [hgroup], fun n hn hg hst => ?_, fun hfirst => ⟨?_, ?_⟩, fun hlater => ⟨?_, ?_⟩⟩
      · rw [hgroup]
        split <;> exact hgrp ▸ hlive
      · rw [htrap]
        refine State.groupFault_marks hlive hkilled hthreads _ _ _ _ hn ?_ ?_
        · rw [s.stopThread_thr]; split
          · rfl
          · exact hg
        · rw [s.stopThread_thr]; split
          · simp
          · exact hst
      · rw [hgroup, if_pos hfirst]
        exact Group.setF_f g 32 4 _
      · have htold := State.groupFault_told hlive (by rw [hgrp]; exact hfirst) t code.toNat x.pc (BitVec.ofNat 64 addr)
        rw [← htrap] at htold
        exact faultTold_congr (fun o _ => (s.stopThread_reg c t _).symm) (fun _ _ => rfl) htold
      · rw [hgroup, if_neg hlater]
        rfl
      · rw [htrap, State.groupFault_later hlive (by rw [hgrp]; exact hlater) _ _ _ _ (by omega), State.stopThread_reg]
    · have htrap : u = _ := State.trap_speculating ht hspec code.toNat addr
      refine ⟨fun a => ?_, fun h => ?_, ⟨x.group, x.hop, t, code.toNat, x.pc, BitVec.ofNat 64 addr, 2 * s.nextId⟩, ?_, rfl, rfl, rfl,
        rfl, rfl, rfl⟩
      · rw [htrap, reg_modCore, State.stopThread_reg]
      · rw [htrap, grp_modCore _ _ _ _ _ rfl, State.stopThread_grp]
      · rw [htrap, core_modCore, if_pos rfl]
        exact congrArg (· ++ _) (modThr_coreField Core.faults (fun _ _ => rfl) s c t c (fun x => { x with st := .faulted, wait := .none }))
  · have htrap : u = _ := State.trap_hart s ht code.toNat addr
    have hctx : 8192 + (t.val - 8192) = t.val := by omega
    obtain ⟨hrun, hhalted, hfault⟩ := s.hartFault_ctrl c code.toNat x.pc (BitVec.ofNat 64 addr) (h := t.val - 8192) (by omega)
    have htold := s.hartFault_told c (t.val - 8192) code.toNat x.pc (BitVec.ofNat 64 addr)
    rw [← htrap] at hrun hhalted hfault htold
    rw [hctx] at htold
    refine ⟨hrun, hhalted, hfault, ?_, htold, fun h => ?_, fun n hn hst => ?_⟩
    · rw [htrap]
      exact s.hartFault_counts ..
    · rw [htrap]
      exact s.hartFault_grp ..
    · rw [htrap]
      exact s.hartFault_thr _ _ _ _ _ hn hst

/-! ### GST of a Desk or Hardware field (R54) -/

theorem State.grpNamed_issued (s : State) (c t : Nat) (ra : Reg) : (s.issued c t).grpNamed c t ra = s.grpNamed c t ra := by
  simp only [State.grpNamed, r_issued, group_issued, grp_issued]

theorem State.grpNamed_of {s : State} {c t g : Nat} {ra : Reg}
    (hg : g = if t < 8192 then (s.thr c t).group else ((s.thr c t).r ra).toNat) (hlt : g < 1024) (hlive : (s.grp c g).live = true) :
    s.grpNamed c t ra = some g := by
  have hname : (if isHart t = true then ((s.thr c t).r ra).toNat else (s.thr c t).group) = g := by
    rw [hg]
    by_cases ht : t < 8192
    · simp [isHart, ht, not_le.2 ht]
    · simp [isHart, ht, not_lt.1 ht]
  simp only [State.grpNamed, hname]
  exact if_pos ⟨hlt, hlive⟩

/-- A GST that reaches a Desk or Hardware field raises GROUP_RO. -/
theorem exec_gst_ro {s : State} {c : CoreId} {t : CtxId} (h : canIssue s c t) (hspec : (s.thr c t).spec = false) (rb ra : Reg)
    (z : Fin 4) (off : BitVec 15) {g : Nat} (hnamed : s.grpNamed c t ra = some g) (hoff : off.toNat < 64)
    (halign : off.toNat % sizeOf z = 0) {i : Nat} (hi : i < sizeOf z) (hro : grpRo (off.toNat + i) = true) :
    exec (.gst c t rb ra z off) s = .next ((s.issued c t).trap c t 0x0286 0) := by
  have hany : (List.range (sizeOf z)).any (fun i => grpRo (off.toNat + i)) = true :=
    List.any_eq_true.2 ⟨i, List.mem_range.2 hi, hro⟩
  change execGst c t rb ra z off s = _
  unfold execGst
  refine (issue_legal h rfl (.inr hspec) _).trans ?_
  simp only [State.grpNamed_issued, hnamed]
  rw [if_neg (not_or.2 ⟨not_le.2 hoff, not_not.2 halign⟩), if_pos hany]

/-- A committed fault changes no byte of its group's descriptor but FAULT. -/
theorem State.groupFault_desc {s : State} {c g : Nat} (hlive : (s.grp c g).live = true) (hthreads : (s.grp c g).liveThreads ≠ 0)
    (ctx code : Nat) (pc : BitVec 16) (addr : Word) {i : Nat} (hi : ¬(32 ≤ i ∧ i < 36)) :
    Mem.rd ((s.groupFault c g ctx code pc addr).grp c g).desc i = Mem.rd (s.grp c g).desc i := by
  have hset (x : Group) (v : Nat) : Mem.rd (x.setF 32 4 v).desc i = Mem.rd x.desc i :=
    Mem.rd_putBytes_out _ _ _ _ (by rw [length_leBytes]; omega)
  cases hkilled : (s.grp c g).killed
  · rw [State.groupFault_grp hlive hkilled hthreads]
    split
    · exact hset ..
    · rfl
  · have hdead : ((s.noteFault c g ctx code pc addr).grp c g).killed = true := by
      rw [State.noteFault_grp]
      split <;> exact hkilled
    rw [State.groupFault_live hlive, State.killGroup_dead (.inr hdead), State.noteFault_grp]
    split
    · exact hset ..
    · rfl

/-- Settles O10: the GST traps, and neither a thread's fault nor a hart's writes a byte of the group but FAULT. -/
theorem groupFieldsGuarded : Obligations.GroupFieldsGuarded := by
  unfold Obligations.GroupFieldsGuarded
  intro c t ra rb z off g b s h x n o u hspec hg hlt hlive hthreads hoff halign hlo hhi hfield
  refine ⟨exec_gst_ro h hspec rb ra z off (State.grpNamed_of hg hlt hlive) hoff halign (i := b - o)
    (Nat.sub_lt_left_of_lt_add hlo hhi) ?_, fun i hi => ?_⟩
  · rw [grpRo, decide_eq_true_eq]
    omega
  · rw [← grp_issued s c t c g]
    by_cases ht : t.val < 8192
    · have htrap : u = _ := State.trap_committed ht ((spec_issued s c t).trans hspec) 0x0286 0
      rw [if_pos ht] at hg
      have hgroup : ((s.issued c t).thr c t).group = g := (group_issued s c t).trans hg.symm
      have hgrp : ((s.issued c t).stopThread c t).grp c g = s.grp c g := by rw [State.stopThread_grp, grp_issued]
      rw [htrap, hgroup, State.groupFault_desc (by rw [hgrp, hlive]) (by rw [hgrp]; exact hthreads ht) _ _ _ _ hi, hgrp, grp_issued]
    · have htrap : u = _ := State.trap_hart (s.issued c t) (not_lt.1 ht) 0x0286 0
      rw [htrap, State.hartFault_grp]

end Sys2Proof.Machine
end

section
/-! SUPPORT. Which words and accesses of a context raise which fault, and where it may fetch and store (R59 to R61, R70, R72, R80,
R91); O15 and O14. -/

namespace Sys2Proof.Machine

/-! ### Words that encode no instruction (R80, R85) -/

theorem aluOp_unassigned {fn : BitVec 14} (h : 14 ≤ fn.toNat) (a b : Word) : aluOp fn a b = none := by
  obtain ⟨k, hk⟩ := Nat.exists_eq_add_of_le' h
  simp only [aluOp, hk]

theorem mulOp_unassigned {fn : BitVec 14} (h : 3 ≤ fn.toNat) (a b : Word) : mulOp fn a b = none := by
  obtain ⟨k, hk⟩ := Nat.exists_eq_add_of_le' h
  simp only [mulOp, hk]

theorem fpuOp_unassigned {fn : BitVec 14} (h : 9 ≤ fn.toNat) (a b : Word) : fpuOp fn a b = none := by
  obtain ⟨k, hk⟩ := Nat.exists_eq_add_of_le' h
  simp only [fpuOp, hk]

theorem issueR_illegal {s : State} {c t : Nat} (h : canIssue s c t) {legal : Bool} (hillegal : legal = false) (rd : Reg)
    (v : Thread → Word) : issueR c t s legal rd v = .next ((s.issued c t).trap c t 0x0280 0) := by
  unfold issueR
  exact issue_illegal h hillegal _ _

/-! ### Reads of scratch that fault (R60, R72) -/

theorem scrUse_lost {w : State} {c t a n : Nat} (h : ((w.core c).check a n).2.1 = true) (ok : State → State) :
    w.scrUse c t a n ok = (w.bump (coreP c + 0x98) ((w.core c).check a n).1).trap c t 0x0285 a := by
  simp [State.scrUse, h]

theorem scrUse_poisoned {w : State} {c t a n : Nat} (hread : ((w.core c).check a n).2.1 = false) (h : ((w.core c).check a n).2.2 = true)
    (ok : State → State) : w.scrUse c t a n ok = (w.bump (coreP c + 0x98) ((w.core c).check a n).1).trap c t 0x0284 a := by
  simp [State.scrUse, hread, h]

/-- What an LD meets in the word that is struck as it reads. -/
theorem check_struck (s : State) (c t a n seu : Nat) :
    (((s.issued c t).modCore c (·.strike a seu)).core c).check a n = ((s.core c).strike a seu).check a n := by
  have hecc : ((s.issued c t).core c).ecc = (s.core c).ecc := issued_coreField Core.ecc (fun _ _ => rfl) s c t c
  have hpoison : ((s.issued c t).core c).poison = (s.core c).poison := issued_coreField Core.poison (fun _ _ => rfl) s c t c
  rw [core_modCore, if_pos rfl]
  exact check_congr (fun w => by simp only [Core.strike, hecc]) hpoison

/-- Settles O15: the illegal words by the form that has none, the accesses by the equations of LD, ST, LCOPY and LZERO. -/
theorem threadTraps : Obligations.ThreadTraps := by
  unfold Obligations.ThreadTraps
  intro c t r ra rb z sx off k fn seu s h x n a dst src raises hit faults
  have hcheck := check_struck s c t a n seu
  refine ⟨fun hfn => ?_, fun hfn => ?_, fun hfn => ?_, fun hk => ?_, fun halign => ⟨?_, ?_⟩, fun halign hlost => ?_,
    fun halign hread hmarked => ?_, fun hsrc => ?_, fun hsrc hdst => ?_, fun hdst => ?_⟩
  · change execAlu c t r ra rb fn s = _
    exact issueR_illegal h (by rw [aluOp_unassigned hfn]; rfl) _ _
  · change execMul c t r ra rb fn s = _
    exact issueR_illegal h (by rw [mulOp_unassigned hfn]; rfl) _ _
  · change execFpu c t r ra rb fn s = _
    exact issueR_illegal h (by rw [fpuOp_unassigned hfn]; rfl) _ _
  · have hlegal : decide (k.toNat < 64) = false := decide_eq_false (not_lt.2 hk)
    simp only [raises, goesTo, exec, execShli, execShri, execSrai, issueR_illegal h hlegal, and_self]
  · exact (exec_ld (a := a) (n := n) h r ra z sx off seu rfl rfl).trans (by rw [if_pos halign])
  · exact (exec_st (a := a) (n := n) h r ra z off rfl rfl).trans (by rw [if_pos halign])
  · refine (exec_ld (a := a) (n := n) h r ra z sx off seu rfl rfl).trans ?_
    rw [if_neg (not_not.2 halign), scrUse_lost (by rw [hcheck]; exact hlost), hcheck]
  · refine (exec_ld (a := a) (n := n) h r ra z sx off seu rfl rfl).trans ?_
    rw [if_neg (not_not.2 halign), scrUse_poisoned (by rw [hcheck]; exact hread) (by rw [hcheck]; exact hmarked), hcheck]
  · exact (exec_lcopy (dst := dst) (src := src) h ra rb rfl rfl).trans (by rw [if_pos hsrc])
  · exact (exec_lcopy (dst := dst) (src := src) h ra rb rfl rfl).trans (by rw [if_neg (not_not.2 hsrc), if_pos hdst])
  · exact (exec_lzero (dst := dst) h ra rfl).trans (by rw [if_pos hdst])

/-! ### The code region (R61) -/

/-- Every instruction of a context outside the code region raises ILLEGAL_INSTRUCTION at its fetch. -/
theorem exec_outside {s : State} {c : CoreId} {t : CtxId} {i : Instr} (hi : issuedBy i = some (c, t)) (hmay : s.mayIssue c t = true)
    (hout : s.fetchOk c t = false) : exec i s = .next (s.trap c t 0x0280 0) := by
  cases i <;> simp only [issuedBy, reduceCtorEq, Option.some.injEq, Prod.mk.injEq] at hi
  all_goals
    obtain ⟨rfl, rfl⟩ := hi
    simp only [exec, execAlu, execMul, execFpu, execAddi, execAndi, execOri, execXori, execShli, execShri, execSrai, execSlti, execLui,
      execBeq, execBne, execBlt, execBge, execBltu, execBgeu, execJal, execJalr, execEndT, execYield, execLd, execSt, execLcopy,
      execLzero, execRld, execRst, execAtom, execFence, execRda, execWra, execWaitr, execEsub, execEwait, execCins, execVts, execHash,
      execHpush, execHpop, execGwait, execGsig, execGld, execGst, execGdone, execGkill, execSpecb, execSpecc, execSpecx, execSpawn,
      execWqtake, execGnew, issueR, issueBr]
    exact issue_outside hmay hout _ _ _

/-- CORE_CODE in force: the first byte and the end of the code region. -/
theorem State.codeRegion_eq (s : State) (c : Nat) : s.codeRegion c =
    ((s.inForce (coreP c + 0x40)).toNat % 64 * 65536,
      (s.inForce (coreP c + 0x40)).toNat % 64 * 65536 + ((s.inForce (coreP c + 0x40)).toNat / 64 % 4 + 1) * 65536) := by
  simp [State.codeRegion, fld, BitVec.extractLsb'_toNat, Nat.shiftRight_eq_div_pow]

theorem State.codeBarred_of_reached {s : State} {c t a n : Nat} (ht : t < 8192) (hlo : a < (s.codeRegion c).2)
    (hhi : (s.codeRegion c).1 < a + n) : s.codeBarred c t a n = true := by
  simp [State.codeBarred, State.inCode, isHart, not_le.2 ht, hlo, hhi]

/-- An ATOM of space 0. -/
theorem exec_atom_local {s : State} {c : CoreId} {t : CtxId} (h : canIssue s c t) (hspec : (s.thr c t).spec = false) (rd ra rb : Reg)
    {fn : BitVec 14} (hop : fn.toNat ≤ 2) (halign : ((s.thr c t).r ra).toNat % 8 = 0) :
    exec (.atom c t rd ra rb fn) s = .next ((s.issued c t).atomLocal c t fn.toNat rd (((s.thr c t).r ra).toNat % 2 ^ 22)
      ((s.thr c t).r rb)) := by
  have hop4 : fn.toNat % 4 = fn.toNat := Nat.mod_eq_of_lt (by omega)
  have hspace : fn.toNat / 4 = 0 := Nat.div_eq_of_lt (by omega)
  change execAtom c t rd ra rb fn s = _
  unfold execAtom
  refine (issue_legal h (decide_eq_true ⟨by omega, by omega⟩) (.inr hspec) _).trans ?_
  simp only [r_issued, scrMask_eq, hop4, hspace, if_true]
  rw [if_neg (not_not.2 halign)]

/-- Settles O14: outside the region every fetch faults; inside it a thread's store faults, and a hart's goes on. -/
theorem codeRegion : Obligations.CodeRegion := by
  unfold Obligations.CodeRegion
  intro c t rd ra rb z off op s hmay x w base size reached fetches n a dst refused
  have hregion : s.codeRegion c = (base, base + size) := s.codeRegion_eq c
  have hfetch : s.fetchOk c t = true ↔ fetches := by
    simp only [State.fetchOk, hregion, decide_eq_true_eq]
    exact Iff.rfl
  have hissue : canIssue s c t ↔ fetches := ⟨fun h => hfetch.1 h.2, fun h => ⟨hmay, hfetch.2 h⟩⟩
  have hnone (addr : Nat) : storedNone s ((s.issued c t).trap c t 0x0281 addr) :=
    storedNone_of_still ((State.trap_still ..).trans (s.issued_still c t))
  have hbarred (ht : t.val < 8192) {addr len : Nat} (hreach : reached addr len) : s.codeBarred c t addr len = true :=
    State.codeBarred_of_reached ht (by rw [hregion]; exact hreach.1) (by rw [hregion]; exact hreach.2)
  refine ⟨hissue, fun i hi hout => exec_outside hi hmay ?_, fun hin ht => ⟨fun halign hreach => ⟨?_, hnone a⟩, fun hdst hreach => ⟨⟨?_, hnone dst⟩,
    fun hsrc => ⟨?_, hnone dst⟩⟩, fun hop hspec halign hreach => ⟨?_, hnone dst⟩⟩, fun hin ht halign hreach => ?_⟩
  · exact eq_false_of_ne_true (fun hok => hout (hfetch.1 hok))
  · exact (exec_st (a := a) (n := n) (hissue.2 hin) rb ra z off rfl rfl).trans
      (by rw [if_neg (not_not.2 halign), if_pos (hbarred ht hreach)])
  · exact (exec_lzero (dst := dst) (hissue.2 hin) ra rfl).trans (by rw [if_neg (not_not.2 hdst), if_pos (hbarred ht hreach)])
  · have hline : ((s.thr c t).r rb).toNat % 2 ^ 22 % 64 = 0 := (Nat.mod_mod_of_dvd _ (by norm_num)).trans hsrc
    exact (exec_lcopy (dst := dst) (hissue.2 hin) ra rb rfl rfl).trans
      (by rw [if_neg (not_not.2 hline), if_neg (not_not.2 hdst), if_pos (hbarred ht hreach)])
  · refine (exec_atom_local (hissue.2 hin) hspec rd ra rb hop halign).trans ?_
    rw [State.atomLocal, codeBarred_issued, if_pos (hbarred ht hreach)]
  · rw [exec_st (a := a) (n := n) (hissue.2 hin) rb ra z off rfl rfl, if_neg (not_not.2 halign), if_neg (by simp [notBarred (.inl ht)])]
    exact ⟨_, rfl, stored_of_stores (s.issued_stores c t) (State.retire_stores ..)⟩

end Sys2Proof.Machine
end

section
/-! SUPPORT. Accesses that leave a core: remote loads and stores, ATOMs, RDA and WRA (R56, R61, R62, R84, R87 to R89, R92, R179); O4
and O6. -/

namespace Sys2Proof.Machine

/-! ### Remote accesses and ATOMs (R62, R87, R92) -/

theorem remoteMask_eq (a : Word) : remoteMask a = BitVec.ofNat 64 (a.toNat % 2 ^ 30) := by
  simp [remoteMask, fld, BitVec.extractLsb'_toNat]

theorem toNat_remoteMask (a : Word) : (remoteMask a).toNat = a.toNat % 2 ^ 30 := by
  rw [remoteMask_eq, BitVec.toNat_ofNat]
  exact Nat.mod_eq_of_lt ((Nat.mod_lt _ (by positivity)).trans (by norm_num))

/-- The state of a context whose access `q` has left and which waits for its answer. -/
def State.sendWait (s : State) (c t : Nat) (q : Req) : State := (s.newReq q).2.waitIn c t .waitUnit (.access s.nextId)

theorem exec_rld {s : State} {c : CoreId} {t : CtxId} (h : canIssue s c t) (rd ra : Reg) (z : Fin 4) (sx : Bool) (off : BitVec 15)
    {far : Word} (hfar : (s.thr c t).r ra + off.signExtend 64 = far) (halign : far.toNat % 2 ^ 30 % 2 ^ z.val = 0) :
    exec (.rld c t rd ra z sx off) s = .next ((s.issued c t).sendWait c t
      { (s.issued c t).accessOf c t .rload rd (remoteMask far) with size := 2 ^ z.val, sx := sx }) := by
  change execRld c t rd ra z sx off s = _
  unfold execRld
  refine (issue_legal h rfl (.inl rfl) _).trans ?_
  simp only [r_issued, imm, hfar]
  exact if_neg (not_not.2 (by rw [toNat_remoteMask]; exact halign))

theorem exec_rst {s : State} {c : CoreId} {t : CtxId} (h : canIssue s c t) (hspec : (s.thr c t).spec = false) (rb ra : Reg) (z : Fin 4)
    (off : BitVec 15) {far : Word} (hfar : (s.thr c t).r ra + off.signExtend 64 = far) (halign : far.toNat % 2 ^ 30 % 2 ^ z.val = 0)
    (hwrites : (s.thr c t).writes < 255) :
    exec (.rst c t rb ra z false off) s = .next (((s.issued c t).newReq
      { (s.issued c t).accessOf c t .rstore 0 (remoteMask far) with size := 2 ^ z.val, a := (s.thr c t).r rb }).2.adv c t
        (fun x => { x with writes := x.writes + 1 })) := by
  change execRst c t rb ra z false off s = _
  unfold execRst
  refine (issue_legal h rfl (.inr hspec) _).trans ?_
  simp only [r_issued, imm, hfar, writes_issued]
  exact (if_neg (not_not.2 (by rw [toNat_remoteMask]; exact halign))).trans (if_neg (not_le.2 hwrites))

/-- The access of an ATOM of space 1. -/
def State.atomReq (s : State) (c t op : Nat) (rd ra rb : Reg) : Req :=
  { s.accessOf c t .ratom rd (remoteMask ((s.thr c t).r ra)) with size := 8, op := op, a := (s.thr c t).r rb, b := (s.thr c t).r rd }

theorem exec_atom_remote {s : State} {c : CoreId} {t : CtxId} (h : canIssue s c t) (hspec : (s.thr c t).spec = false) (rd ra rb : Reg)
    {fn : BitVec 14} {op : Nat} (hop : op ≤ 2) (hfn : fn.toNat = 4 + op) (halign : ((s.thr c t).r ra).toNat % 8 = 0) :
    exec (.atom c t rd ra rb fn) s = .next ((s.issued c t).sendWait c t ((s.issued c t).atomReq c t op rd ra rb)) := by
  have hop4 : fn.toNat % 4 = op := by omega
  have hspace : fn.toNat / 4 = 1 := by omega
  change execAtom c t rd ra rb fn s = _
  unfold execAtom
  refine (issue_legal h (decide_eq_true ⟨by omega, by omega⟩) (.inr hspec) _).trans ?_
  simp only [hop4, hspace, if_true]
  rw [if_neg (not_not.2 (by rw [r_issued]; exact halign)), if_neg (by omega)]
  rfl

theorem exec_atom_tier {s : State} {c : CoreId} {t : CtxId} (h : canIssue s c t) (hspec : (s.thr c t).spec = false) (rd ra rb : Reg)
    {fn : BitVec 14} {op : Nat} (hop : op ≤ 2) (hfn : fn.toNat = 8 + op) {a : Word} (ha : ((s.issued c t).thr c t).r ra = a)
    (halign : a.toNat % 8 = 0) (halloc : (s.issued c t).coreAlloc c a 8 = true) :
    exec (.atom c t rd ra rb fn) s = .next (((s.issued c t).prefetchDrop c a 8).sendWait c t
      { (s.issued c t).atomReq c t op rd ra rb with kind := .atom, addr := a }) := by
  have hop4 : fn.toNat % 4 = op := by omega
  have hspace : fn.toNat / 4 = 2 := by omega
  subst ha
  change execAtom c t rd ra rb fn s = _
  unfold execAtom
  refine (issue_legal h (decide_eq_true ⟨by omega, by omega⟩) (.inr hspec) _).trans ?_
  simp only [hop4, hspace]
  rw [if_neg (not_not.2 halign), if_neg (by omega), if_neg (by omega), if_neg (by simp [halloc])]
  rfl

theorem State.sendWait_thr (s : State) (c t : Nat) (q : Req) :
    (s.sendWait c t q).thr c t = { s.thr c t with st := .waitUnit, wait := .access s.nextId } := by
  rw [State.sendWait, thr_wait, thr_newReq]
theorem State.sendWait_req (s : State) (c t : Nat) (q : Req) : (s.sendWait c t q).req s.nextId = some q := by
  rw [State.sendWait, State.waitIn, req_modThr, req_newReq]
theorem State.sendWait_stores (s : State) (c t : Nat) (q : Req) : (s.sendWait c t q).stores = s.stores := by
  rw [State.sendWait, State.waitIn_stores, State.newReq_stores]

/-- A context waits for its access, which is under way; nothing is stored. -/
theorem State.sendWait_waits {s w : State} {c t : Nat} (hthr : w.thr c t = (s.issued c t).thr c t) (hid : w.nextId = (s.issued c t).nextId)
    (hstores : w.stores = s.stores) (q : Req) :
    (w.sendWait c t q).req (s.issued c t).nextId = some q ∧
      (goneTo s (w.sendWait c t q) c t (s.thr c t).pc ∧ ((w.sendWait c t q).thr c t).st = .waitUnit ∧
        ((w.sendWait c t q).thr c t).wait = .access (s.issued c t).nextId) ∧ storedNone s (w.sendWait c t q) := by
  refine ⟨by rw [← hid, State.sendWait_req], ⟨⟨?_, fun i => ?_⟩, ?_, ?_⟩, storedNone_of_stores (by rw [State.sendWait_stores, hstores])⟩ <;>
    rw [State.sendWait_thr, hthr]
  · simp only [pc_issued]
  · rw [← r_issued s c t]
    simp only [Thread.r]
  · rw [hid]

theorem State.prefetchDrop_thr (s : State) (c : Nat) (a : Word) (n d t : Nat) : (s.prefetchDrop c a n).thr d t = s.thr d t :=
  thr_modCore s c d t _ rfl
theorem State.prefetchDrop_stores (s : State) (c : Nat) (a : Word) (n : Nat) : (s.prefetchDrop c a n).stores = s.stores :=
  State.modCore_stores rfl

/-- The word that an ATOM of space 0 reads is returned, and what it leaves is stored. -/
theorem State.atomLocal_stored {s : State} {c t op a : Nat} {rd : Reg} {v : Word} (hclean : clean s c a 8)
    (hcode : 8192 ≤ t ∨ ¬ s.inCode c a 8 = true) :
    let u := (s.issued c t).atomLocal c t op rd a v
    let old : Word := BitVec.ofNat 64 (Mem.le (s.core c).scratch a 8)
    regWrote s u c t rd old ((s.thr c t).pc + 1) ∧
      match atomNew op old v ((s.thr c t).r rd) with
      | some w => stored s u c a (leBytes 8 w.toNat)
      | none => storedNone s u := by
  intro u old
  have hchecked : ((s.issued c t).core c).check a 8 = (0, false, false) := by rw [check_issued]; exact hclean
  have hbarred : (s.issued c t).codeBarred c t a 8 = false := by rw [codeBarred_issued, notBarred hcode]
  have hread : BitVec.ofNat 64 (((s.issued c t).bump (coreP c + 0x98) 0).scrLe c a 8) = old := by
    rw [State.scrLe, core_bump, scratch_issued]
  cases hnew : atomNew op old v ((s.thr c t).r rd) with
  | some w =>
    have hu : u = (((s.issued c t).bump (coreP c + 0x98) 0).writeScr c a (leBytes 8 w.toNat)).retire c t rd old := by
      simp only [u, State.atomLocal, hbarred, scrUse_clean hchecked, hread, thr_bump, r_issued, hnew, Bool.false_eq_true, if_false]
    rw [hu]
    refine ⟨regWrote_retire (by rw [thr_writeScr, thr_bump]) rd _, stored_of_stores (w := (s.issued c t).bump (coreP c + 0x98) 0) ?_ ?_⟩
    · rw [State.bump_stores, State.issued_stores]
    · rw [State.retire_stores]
  | none =>
    have hu : u = ((s.issued c t).bump (coreP c + 0x98) 0).retire c t rd old := by
      simp only [u, State.atomLocal, hbarred, scrUse_clean hchecked, hread, thr_bump, r_issued, hnew, Bool.false_eq_true, if_false]
    rw [hu]
    refine ⟨regWrote_retire (by rw [thr_bump]) rd _, storedNone_of_stores ?_⟩
    rw [State.retire_stores, State.bump_stores, State.issued_stores]

/-- What an ATOM leaves, by its operation (R87). -/
theorem atomNew_elim {op : Fin 3} {old v d : Word} {P : Word → Prop} {Q : Prop}
    (h : match atomNew op old v d with | some w => P w | none => Q) :
    match op.val with | 0 => P v | 1 => P (old + v) | _ => if old = d then P v else Q := by
  match op, h with
  | 0, h => exact h
  | 1, h => exact h
  | 2, h =>
    change if old = d then P v else Q
    split <;> rename_i heq
    · simpa only [atomNew, if_pos heq] using h
    · simpa only [atomNew, if_neg heq] using h

theorem toNat_ofNat14 {k : Nat} (h : k < 2 ^ 14) : (BitVec.ofNat 14 k).toNat = k := by
  rw [BitVec.toNat_ofNat, Nat.mod_eq_of_lt h]

/-- Settles O4: an access that leaves is a request of its context, with the operands as they are now; an ATOM of space 0 is a read and
a write of scratch in one step. -/
theorem remoteAndAtomic : Obligations.RemoteAndAtomic := by
  unfold Obligations.RemoteAndAtomic
  intro c t r ra rb z sx off op s h hspec x w n far a waits
  have hop := op.isLt
  refine ⟨fun halign => ⟨?_, fun hwrites => ?_⟩, fun halign => ?_⟩
  · rw [exec_rld h r ra z sx off rfl halign, ← remoteMask_eq]
    obtain ⟨hreq, hwaits, hnone⟩ := State.sendWait_waits rfl rfl (State.issued_stores s c t)
      { w.accessOf c t .rload r (remoteMask far) with size := 2 ^ z.val, sx := sx }
    exact ⟨_, rfl, ⟨_, hreq, rfl, rfl, rfl, rfl, rfl, rfl, rfl⟩, hwaits, hnone⟩
  · rw [exec_rst h hspec r ra z off rfl halign hwrites, ← remoteMask_eq]
    refine ⟨_, rfl, ⟨_, (req_modThr ..).trans (req_newReq ..), rfl, rfl, rfl, rfl, rfl, rfl⟩, ?_, ?_, ?_⟩
    · exact goneTo_modThr (thr_newReq ..) _ _ (by rw [thr_newReq, pc_issued]) rfl
    · rw [State.adv, thr_modThr, thr_newReq, writes_issued]
    · exact storedNone_of_stores (by rw [State.adv_stores, State.newReq_stores, State.issued_stores])
  · intro l old
    refine ⟨?_, ?_, fun halloc => ?_⟩
    · intro hclean hcode
      have hfn : (BitVec.ofNat 14 op.val).toNat = op.val := toNat_ofNat14 (by omega)
      obtain ⟨hwrote, hstored⟩ := State.atomLocal_stored (t := t) (op := op.val) (rd := r) (v := x.r rb) hclean hcode
      rw [exec_atom_local h hspec r ra rb (by omega) halign, hfn]
      generalize w.atomLocal c t op.val r l (x.r rb) = u at hwrote hstored ⊢
      have hkept := atomNew_elim (P := fun v => stored s u c l (leBytes 8 v.toNat)) (Q := storedNone s u) hstored
      refine ⟨_, rfl, hwrote, ?_⟩
      exact hkept
    · rw [exec_atom_remote h hspec r ra rb (Nat.le_of_lt_succ hop) (toNat_ofNat14 (by omega)) halign, ← remoteMask_eq]
      obtain ⟨hreq, hwaits, hnone⟩ := State.sendWait_waits rfl rfl (State.issued_stores s c t) (w.atomReq c t op r ra rb)
      refine ⟨_, rfl, ⟨_, hreq, rfl, rfl, rfl, ?_, rfl, ?_, ?_⟩, hwaits, hnone⟩
      · exact congrArg remoteMask (r_issued s c t ra)
      · exact r_issued s c t rb
      · exact r_issued s c t r
    · rw [exec_atom_tier h hspec r ra rb (Nat.le_of_lt_succ hop) (toNat_ofNat14 (by omega)) (r_issued s c t ra) halign halloc]
      obtain ⟨hreq, hwaits, hnone⟩ := State.sendWait_waits (w := w.prefetchDrop c a 8) (State.prefetchDrop_thr ..) rfl
        ((State.prefetchDrop_stores ..).trans (State.issued_stores s c t)) { w.atomReq c t op r ra rb with kind := .atom, addr := a }
      exact ⟨_, rfl, ⟨_, hreq, rfl, rfl, rfl, rfl, rfl, r_issued s c t rb, r_issued s c t r⟩, hwaits, hnone⟩

/-! ### RDA and WRA (R88, R89, R179) -/

/-- The request of an RDA whose line range is `rg`. -/
def State.rdaReq (s : State) (c t : Nat) (a : Word) (d n : Nat) (rg : Option (Nat × Range)) : Req :=
  { s.accessOf c t .rda 0 a with loc := d, len := n, exp := (rg.map (·.1)).getD 0, range := rg.map (·.2.words) }

theorem exec_rda {s : State} {c : CoreId} {t : CtxId} (h : canIssue s c t) (ra rb : Reg) {fn : BitVec 14} (hfn : fn.toNat < 4096)
    {d n : Nat} {a : Word} {rg : Option (Nat × Range)} (hd : scrMask (((s.issued c t).thr c t).r ra) = d)
    (ha : ((s.issued c t).thr c t).r rb = a) (hn : fn.toNat + 1 = n)
    (hrg : (s.issued c t).rangeFor (((s.issued c t).coreOwner c).getD 16) a = rg)
    (halign : ¬ (d % 8 ≠ 0 ∨ 0x400000 < d + n)) (hcode : (s.issued c t).codeBarred c t d n = false)
    (halloc : (s.issued c t).coreAlloc c a (max 1 (storedLen rg a n)) = true) (hreads : (s.thr c t).reads < 255)
    (hmiss : ((s.issued c t).core c).pfMatch a n = none)
    (htag : (s.issued c t).tagUsable c (!isHart t && ((s.issued c t).grp c (s.thr c t).group).rt) = true) :
    exec (.rda c t 0 ra rb fn) s = .next (((s.issued c t).newReq ((s.issued c t).rdaReq c t a d n rg)).2.adv c t
      (fun x => { x with reads := x.reads + 1 })) := by
  subst hd ha hn hrg
  change execRda c t 0 ra rb fn s = _
  unfold execRda
  refine (issue_legal h (decide_eq_true ⟨rfl, hfn⟩) (.inl rfl) _).trans ?_
  dsimp only
  rw [if_neg halign, if_neg (by simp [hcode]), if_neg (by simp [halloc]), if_neg (by rw [reads_issued]; omega), hmiss]
  dsimp only
  rw [if_neg (by rw [group_issued, htag]; simp)]
  rfl

/-- The request of a WRA whose line range is `rg`. -/
def State.wraReq (s : State) (c t : Nat) (a : Word) (d n : Nat) (rg : Option (Nat × Range)) : Req :=
  { s.accessOf c t .wra 0 a with
    loc := d, len := n, exp := (rg.map (·.1)).getD 0, range := rg.map (·.2.words)
    old := Mem.ofBytes (s.scr c d n), oldBad := (s.core c).badWords d n }

/-- The state at which a WRA sends its lines. -/
def State.wraSource (s : State) (c : Nat) (a : Word) (d n : Nat) (rg : Option (Nat × Range)) : State :=
  (s.bump (coreP c + 0x98) ((s.core c).check d n).1).prefetchDrop c a (max 1 (storedLen rg a n))

theorem State.wraSource_thr (s : State) (c : Nat) (a : Word) (d n : Nat) (rg : Option (Nat × Range)) (e t : Nat) :
    (s.wraSource c a d n rg).thr e t = s.thr e t := by rw [State.wraSource, State.prefetchDrop_thr, thr_bump]
theorem State.wraSource_stores (s : State) (c : Nat) (a : Word) (d n : Nat) (rg : Option (Nat × Range)) :
    (s.wraSource c a d n rg).stores = s.stores := by rw [State.wraSource, State.prefetchDrop_stores, State.bump_stores]

theorem exec_wra {s : State} {c : CoreId} {t : CtxId} (h : canIssue s c t) (hspec : (s.thr c t).spec = false) (ra rb : Reg)
    {fn : BitVec 14} (hfn : fn.toNat < 4096) {d n : Nat} {a : Word} {rg : Option (Nat × Range)}
    (hd : scrMask (((s.issued c t).thr c t).r ra) = d) (ha : ((s.issued c t).thr c t).r rb = a) (hn : fn.toNat + 1 = n)
    (hrg : (s.issued c t).rangeFor (((s.issued c t).coreOwner c).getD 16) a = rg)
    (halign : ¬ (d % 64 ≠ 0 ∨ n % 64 ≠ 0 ∨ 0x400000 < d + n)) (halign' : a.toNat % 64 = 0)
    (halloc : (s.issued c t).coreAlloc c a (max 1 (storedLen rg a n)) = true) (hwrites : (s.thr c t).writes < 255)
    (htag : (s.issued c t).tagUsable c (!isHart t && ((s.issued c t).grp c (s.thr c t).group).rt) = true) :
    exec (.wra c t 0 ra rb fn) s = .next ((((s.issued c t).wraSource c a d n rg).newReq ((s.issued c t).wraReq c t a d n rg)).2.adv c t
      (fun x => { x with writes := x.writes + 1 })) := by
  subst hd ha hn hrg
  change execWra c t 0 ra rb fn s = _
  unfold execWra
  refine (issue_legal h (decide_eq_true ⟨rfl, hfn⟩) (.inr hspec) _).trans ?_
  dsimp only
  rw [if_neg halign, if_neg (not_not.2 halign'), if_neg (by simp [halloc]), if_neg (by rw [writes_issued]; omega),
    if_neg (by rw [group_issued, htag]; simp)]
  rfl

/-- Settles O6: the request takes the operands as they are now, and the context goes on. -/
theorem tierAccessIssues : Obligations.TierAccessIssues := by
  unfold Obligations.TierAccessIssues
  intro c t ra rb fn s h hfn x w d a n rg halloc hend htag
  have hd : scrMask ((w.thr c t).r ra) = d := by rw [r_issued, scrMask_eq]
  have ha : (w.thr c t).r rb = a := r_issued s c t rb
  refine ⟨fun halign hcode hreads hmiss => ?_, fun halign hlen halign' hwrites hspec => ?_⟩
  · have hbarred : w.codeBarred c t d n = false := by rw [codeBarred_issued, notBarred hcode]
    rw [exec_rda h ra rb hfn hd ha rfl rfl (by omega) hbarred halloc hreads hmiss htag]
    refine ⟨_, rfl, ⟨_, (req_modThr ..).trans (req_newReq ..), rfl, rfl, rfl, rfl, rfl, rfl, rfl⟩, ?_, ?_, ?_⟩
    · exact goneTo_modThr (thr_newReq ..) _ _ (by rw [thr_newReq, pc_issued]) rfl
    · rw [State.adv, thr_modThr, thr_newReq, reads_issued]
    · exact storedNone_of_stores (by rw [State.adv_stores, State.newReq_stores, State.issued_stores])
  · rw [exec_wra h hspec ra rb hfn hd ha rfl rfl (by omega) halign' halloc hwrites htag]
    have hthr : (w.wraSource c a d n rg).thr c t = w.thr c t := State.wraSource_thr ..
    refine ⟨_, rfl, ⟨_, (req_modThr ..).trans (req_newReq ..), rfl, rfl, rfl, rfl, rfl, rfl, ?_⟩, ?_, ?_, ?_⟩
    · simp only [State.wraReq, State.scr, scratch_issued, n]
    · exact goneTo_modThr ((thr_newReq ..).trans hthr) _ _ (by rw [thr_newReq, hthr, pc_issued]) rfl
    · rw [State.adv, thr_modThr, thr_newReq, hthr, writes_issued]
    · exact storedNone_of_stores (by rw [State.adv_stores, State.newReq_stores, State.wraSource_stores, State.issued_stores])

end Sys2Proof.Machine
end

section
/-! SUPPORT. Waits of a context and its end (R48, R88 to R90); O5. -/

namespace Sys2Proof.Machine

theorem exec_waitr {s : State} {c : CoreId} {t : CtxId} (h : canIssue s c t) {k : BitVec 18} (hk : k.toNat < 256) :
    exec (.waitr c t 0 0 k) s = .next (((s.issued c t).waitIn c t .waitRead (.reads k.toNat)).settle c t) := by
  change execWaitr c t 0 0 k s = _
  unfold execWaitr
  exact issue_legal h (decide_eq_true ⟨rfl, rfl, hk⟩) (.inl rfl) _

theorem exec_fence {s : State} {c : CoreId} {t : CtxId} (h : canIssue s c t) (hspec : (s.thr c t).spec = false) :
    exec (.fence c t 0 0 0 0) s = .next (((s.issued c t).waitIn c t .waitUnit .fence).settle c t) := by
  change execFence c t 0 0 0 0 s = _
  unfold execFence
  exact issue_legal h (decide_eq_true ⟨rfl, rfl, rfl, rfl⟩) (.inr hspec) _

theorem exec_endT {s : State} {c : CoreId} {t : CtxId} (h : canIssue s c t) :
    exec (.endT c t 0 0 0 0) s = .next (((s.issued c t).waitIn c t .waitRead .drain).settle c t) := by
  change execEndT c t 0 0 0 0 s = _
  unfold execEndT
  exact issue_legal h (decide_eq_true ⟨rfl, rfl, rfl, rfl⟩) (.inl rfl) _

/-- A wait that may be over at once: the context goes on or keeps waiting. -/
theorem State.settle_goneTo {s w : State} {c t : Nat} {st : TState} {wait : Wait} {ends : Prop} [Decidable ends]
    (hw : w.thr c t = { (s.issued c t).thr c t with st := st, wait := wait })
    (hsettle : w.settle c t = if ends then w.setThr c t (w.thr c t).complete else w) :
    if ends then goneTo s (w.settle c t) c t ((s.thr c t).pc + 1) ∧ ((w.settle c t).thr c t).st = .ready
    else goneTo s (w.settle c t) c t (s.thr c t).pc ∧ ((w.settle c t).thr c t).st = st := by
  rw [hsettle]
  split
  · rw [goneTo, thr_set, hw]
    exact ⟨⟨congrArg (· + 1) (pc_issued s c t), fun i => r_issued s c t i⟩, rfl⟩
  · rw [goneTo, hw]
    exact ⟨⟨pc_issued s c t, fun i => r_issued s c t i⟩, rfl⟩

theorem State.settle_reads {s : State} {c t n : Nat} (hst : (s.thr c t).st = .waitRead) (hwait : (s.thr c t).wait = .reads n) :
    s.settle c t = if (s.thr c t).reads ≤ n then s.setThr c t (s.thr c t).complete else s := by
  simp only [State.settle, hst, hwait]

theorem State.settle_fence {s : State} {c t : Nat} (hst : (s.thr c t).st = .waitUnit) (hwait : (s.thr c t).wait = .fence) :
    s.settle c t = if (s.thr c t).writes = 0 then s.setThr c t (s.thr c t).complete else s := by
  simp only [State.settle, hst, hwait]

theorem State.settle_drain {s : State} {c t : Nat} (hst : (s.thr c t).st = .waitRead) (hwait : (s.thr c t).wait = .drain) :
    s.settle c t = if (s.thr c t).reads = 0 ∧ (s.thr c t).writes = 0 then s.endContext c t else s := by
  simp only [State.settle, hst, hwait]

/-- A thread that ends leaves a FREE context: no register of an earlier thread is read by the next one. -/
theorem State.endThread_thr (s : State) (c t : Nat) :
    (s.endThread c t).thr c t = { ({} : Thread) with inst := (s.thr c t).inst + 1 } := by
  rw [State.endThread, State.tryFree_thr, thr_modGrp, thr_set]

theorem State.endContext_thr (s : State) (c : Nat) (t : CtxId) :
    (s.endContext c t).thr c t = { ({} : Thread) with inst := (s.thr c t).inst + 1 } := by
  unfold State.endContext isHart
  split
  · rename_i hhart
    have ht : 8192 + (t.val - 8192) = t.val := by have := of_decide_eq_true hhart; omega
    have hhalted := s.haltHart_thr_self c (t.val - 8192)
    rwa [ht] at hhalted
  · exact s.endThread_thr c t

/-- The bits of CORE_HART_CTRL of a hart that has ended. -/
theorem State.endContext_ctrl (s : State) (c : Nat) {t : CtxId} (ht : 8192 ≤ t.val) :
    ((s.endContext c t).reg (coreP c + 0x48)).getLsbD (t.val - 8192) = false ∧
      ((s.endContext c t).reg (coreP c + 0x48)).getLsbD (8 + (t.val - 8192)) = true := by
  have hlt := t.isLt
  have hhart : isHart t.val = true := decide_eq_true ht
  rw [State.endContext, if_pos hhart, State.haltHart_ctrl _ _ _ (by omega), State.haltHart_ctrl _ _ _ (by omega)]
  exact ⟨by rw [if_neg (by omega), if_pos rfl], by rw [if_pos rfl]⟩

/-- Settles O5: each of the three enters its wait and is then settled at once. -/
theorem waitsAndEnd : Obligations.WaitsAndEnd := by
  unfold Obligations.WaitsAndEnd
  intro c t k s h hmarked x
  refine ⟨fun hk => ?_, fun hspec => ?_, fun hreads hwrites => ?_, fun hout => ?_⟩
  · rw [exec_waitr h hk]
    refine ⟨_, rfl, State.settle_goneTo (thr_wait ..) ?_⟩
    rw [State.settle_reads (by rw [thr_wait]) (by rw [thr_wait])]
    simp only [thr_wait, reads_issued, x]
  · rw [exec_fence h hspec]
    refine ⟨_, rfl, State.settle_goneTo (thr_wait ..) ?_⟩
    rw [State.settle_fence (by rw [thr_wait]) (by rw [thr_wait])]
    simp only [thr_wait, writes_issued, x]
  · rw [exec_endT h, State.settle_drain (by rw [thr_wait]) (by rw [thr_wait]),
      if_pos (by rw [thr_wait]; exact ⟨(reads_issued ..).trans hreads, (writes_issued ..).trans hwrites⟩)]
    refine ⟨_, rfl, ?_, fun i => ?_, State.endContext_ctrl _ c⟩
    · rw [State.endContext_thr]
    · rw [State.endContext_thr]
      exact ite_self _
  · rw [exec_endT h, State.settle_drain (by rw [thr_wait]) (by rw [thr_wait]), if_neg ?_]
    · exact ⟨_, rfl, congrArg Thread.st (thr_wait ..)⟩
    · rw [thr_wait]
      simp only [reads_issued, writes_issued]
      exact fun hnone => absurd hout (by simp only [x, hnone]; omega)

end Sys2Proof.Machine
end

section
/-! SUPPORT. The units that a thread drives: engines, the Collator, visited sets, hash (R64 to R69, R93 to R95); O7. -/

namespace Sys2Proof.Machine

/-! ### Engines (R94) -/

/-- The descriptor that ESUB hands to an engine. -/
def State.descAt (s : State) (c t a seq : Nat) : QDesc :=
  ⟨s.scr c a 64, t, (s.thr c t).pc, (s.thr c t).group, (s.grp c (s.thr c t).group).gen, (s.thr c t).spec, (s.thr c t).hop,
    (s.grp c (s.thr c t).group).specEpoch, seq, 2 * s.nextId + 1⟩

/-- The state after the engine `e` has taken the descriptor. -/
def State.submitted (s : State) (c t e a : Nat) : State :=
  ({ s with nextId := s.nextId + 1 } : State).modCore c
    (fun k => k.setEng e (((s.core c).eng e).accept (s.descAt c t a ((s.core c).eng e).seq)))

theorem State.submitted_thr (s : State) (c t e a d v : Nat) : (s.submitted c t e a).thr d v = s.thr d v := thr_modCore _ _ _ _ _ rfl

theorem State.submitted_eng (s : State) (c t e a : Nat) :
    ((s.submitted c t e a).core c).eng e = ((s.core c).eng e).accept (s.descAt c t a ((s.core c).eng e).seq) := by
  rw [State.submitted, core_modCore, if_pos rfl, Core.eng, Core.setEng, Tab.get_set, if_pos rfl]

theorem eng_retire (s : State) (c t d e : Nat) (rd : Reg) (v : Word) : ((s.retire c t rd v).core d).eng e = (s.core d).eng e := by
  have hengines := congrArg Core.engines (core_modThr s c t d (fun x => { x.setR rd v with pc := x.pc + 1 }))
  exact congrArg (fun m => Tab.get (fun _ => ({} : Engine)) m e) hengines

theorem scratch_retire (s : State) (c t d : Nat) (rd : Reg) (v : Word) :
    ((s.retire c t rd v).core d).scratch = (s.core d).scratch := by
  have hscratch := congrArg Core.scratch (core_modThr s c t d (fun x => { x.setR rd v with pc := x.pc + 1 }))
  exact hscratch

theorem exec_esub {s : State} {c : CoreId} {t : CtxId} (h : canIssue s c t) (rd ra : Reg) {fn : BitVec 14} (hfn : fn.toNat ≤ 16)
    {a e n : Nat} (ha : scrMask (((s.issued c t).thr c t).r ra) = a) (he : ((s.issued c t).core c).pickEngine fn.toNat = e)
    (halign : a % 64 = 0) (hclean : ((s.issued c t).core c).check a 64 = (n, false, false))
    (hdepth : (((s.issued c t).core c).eng e).depth < 16) :
    exec (.esub c t rd ra 0 fn) s = .next ((((s.issued c t).bump (coreP c + 0x98) n).submitted c t e a).retire c t rd
      (BitVec.ofNat 64 (e + (((s.issued c t).core c).eng e).seq * 16))) := by
  subst ha he
  change execEsub c t rd ra 0 fn s = _
  unfold execEsub
  refine (issue_legal h (decide_eq_true ⟨rfl, hfn⟩) (.inl rfl) _).trans ?_
  dsimp only
  rw [if_neg (not_not.2 halign), if_neg (not_le.2 hdepth), scrUse_clean hclean]
  rfl

/-- What EWAIT does with what its ticket shows. -/
def State.ewaited (s : State) (c t : Nat) (rd : Reg) (w : Word) : Option (Option Nat) → State
  | none => s.retire c t rd 0x10000
  | some (some st) => s.retire c t rd (BitVec.ofNat 64 st)
  | some none => s.waitIn c t .waitEngine (.engine rd.val (fld w 0 20))

theorem exec_ewait {s : State} {c : CoreId} {t : CtxId} (h : canIssue s c t) (rd ra : Reg) :
    exec (.ewait c t rd ra 0 0) s = .next ((s.issued c t).ewaited c t rd ((s.thr c t).r ra)
      (((s.issued c t).core c).ticket ((s.thr c t).r ra))) := by
  change execEwait c t rd ra 0 0 s = _
  unfold execEwait
  refine (issue_legal h (decide_eq_true ⟨rfl, rfl⟩) (.inl rfl) _).trans ?_
  rw [r_issued]
  dsimp only
  generalize ((s.issued c t).core c).ticket ((s.thr c t).r ra) = k
  rcases k with _ | _ | st <;> rfl

theorem State.ewaited_cases (s : State) (c t : Nat) (rd : Reg) (v : Word) (o : Option (Option Nat)) :
    let u := (s.issued c t).ewaited c t rd v o
    match o with
    | none => wrote s u c t rd 0x10000 ((s.thr c t).pc + 1)
    | some (some st) => wrote s u c t rd (BitVec.ofNat 64 st) ((s.thr c t).pc + 1)
    | some none => goneTo s u c t (s.thr c t).pc ∧ (u.thr c t).st = .waitEngine := by
  rcases o with _ | _ | st
  · exact wrote_retire ..
  · exact ⟨goneTo_modThr rfl _ _ (pc_issued ..) rfl, congrArg Thread.st (thr_wait ..)⟩
  · exact wrote_retire ..

/-! ### The Collator (R121, R140) -/

/-- The contexts of a core and which of its lists are open. -/
def State.listening (s : State) (c : Nat) : (Nat → Thread) × (Nat → Bool) :=
  (fun t => s.thr c t, fun l => ((s.core c).list l).isOpen)

theorem State.thr_of_listening {s u : State} {c : Nat} (h : u.listening c = s.listening c) (t : Nat) : u.thr c t = s.thr c t :=
  congrFun (congrArg Prod.fst h) t
theorem State.isOpen_of_listening {s u : State} {c : Nat} (h : u.listening c = s.listening c) (l : Nat) :
    ((u.core c).list l).isOpen = ((s.core c).list l).isOpen := congrFun (congrArg Prod.snd h) l

theorem State.modCore_listening {s : State} {c : Nat} {f : Core → Core} (hthr : (f (s.core c)).threads = (s.core c).threads)
    (hopen : ∀ l, ((f (s.core c)).list l).isOpen = ((s.core c).list l).isOpen) : (s.modCore c f).listening c = s.listening c := by
  unfold State.listening
  congr 1
  · exact funext fun t => thr_modCore s c c t f hthr
  · funext l
    rw [core_modCore, if_pos rfl, hopen]

@[simp] theorem State.bump_listening (s : State) (a n c : Nat) : (s.bump a n).listening c = s.listening c := rfl

theorem Core.setList_isOpen (k : Core) (l : Nat) {x : ColList} (h : x.isOpen = (k.list l).isOpen) (m : Nat) :
    ((k.setList l x).list m).isOpen = (k.list m).isOpen := by
  rw [Core.list, Core.setList, Tab.get_set]
  split
  · rename_i hm
    rw [h, hm]
  · rfl

theorem State.countTook_listening (s : State) (c : Nat) (r : Took) : (s.countTook c r).listening c = s.listening c := by
  cases r with
  | entered ev => cases ev <;> simp [State.countTook]
  | _ => simp [State.countTook]

/-- What the Collator takes reaches no context, and opens and closes no list. -/
theorem State.colTake_listening (s : State) (c l : Nat) (spec : Bool) (hop : Nat) (id : Word) (x : F32) :
    (s.colTake c l spec hop id x).1.listening c = s.listening c := by
  have hset (li : ColList) (hopen : li.isOpen = ((s.core c).list l).isOpen) :
      (s.modCore c (·.setList l li)).listening c = s.listening c :=
    State.modCore_listening rfl fun m => Core.setList_isOpen _ l hopen m
  unfold State.colTake
  dsimp only
  split
  · rw [State.bump_listening]
  · split
    · split
      · rw [State.bump_listening]
        exact hset _ rfl
      · exact hset _ rfl
    · rw [State.countTook_listening]
      exact hset _ rfl

theorem State.setEng_served_listening (s : State) (c e i : Nat) (x : Engine) :
    (s.modCore c (fun k => (k.setEng e x).served i)).listening c = s.listening c := State.modCore_listening rfl fun _ => rfl

theorem State.takeOldest_listening (s : State) (c e : Nat) : (s.takeOldest c e).listening c = s.listening c := by
  unfold State.takeOldest
  dsimp only
  split
  · rfl
  · split
    · rfl
    · split
      · rw [State.colTake_listening, State.setEng_served_listening]
      · rw [State.bump_listening, State.setEng_served_listening]

theorem State.serveAhead_listening (s : State) (c : Nat) : (s.serveAhead c).listening c = s.listening c :=
  foldl_unchanged (fun s => s.listening c) (fun s e => s.takeOldest_listening c e) _ s

theorem State.colTake_closed {s : State} {c l : Nat} (h : ((s.core c).list l).isOpen = false) (spec : Bool) (hop : Nat) (id : Word)
    (x : F32) : s.colTake c l spec hop id x = (s.bump (colP c + 0xA8) 1, false) := by
  simp [State.colTake, h]

theorem State.served_listening (s : State) (c i : Nat) : (s.modCore c (·.served i)).listening c = s.listening c :=
  State.modCore_listening rfl fun _ => rfl

theorem exec_cins_closed {s : State} {c : CoreId} {t : CtxId} (h : canIssue s c t) (rd ra rb : Reg) {fn : BitVec 14}
    (hfn : fn.toNat < 64) (hcfg : lcK ((s.issued c t).listCfg c fn.toNat) ≠ 0)
    (hclosed : (((s.issued c t).core c).list fn.toNat).isOpen = false) :
    exec (.cins c t rd ra rb fn) s = .next (((((s.issued c t).serveAhead c).modCore c (·.served 16)).bump (colP c + 0xA8) 1).retire
      c t rd 0) := by
  have hmod : fn.toNat % 64 = fn.toNat := Nat.mod_eq_of_lt hfn
  have hbit : bit fn.toNat 6 = false := by
    rw [bit, Nat.div_eq_of_lt (by omega)]
    rfl
  change execCins c t rd ra rb fn s = _
  unfold execCins
  rw [hbit]
  refine (issue_legal h (by simp; omega) (.inl rfl) _).trans ?_
  have hopen : (((((s.issued c t).serveAhead c).modCore c (·.served 16)).core c).list fn.toNat).isOpen = false := by
    have hkept := (State.served_listening ((s.issued c t).serveAhead c) c 16).trans ((s.issued c t).serveAhead_listening c)
    rw [State.isOpen_of_listening hkept, hclosed]
  simp only [hmod, State.foreignList, hclosed, hcfg, State.colTake_closed hopen, Bool.false_eq_true, if_false, decide_false, Bool.or_false,
    Bool.false_and]

/-! ### Visited sets (R66, R95) -/

theorem Core.testBit_setBit (k : Core) (base i : Nat) : (k.setBit base i).testBit base i = true := by
  have hlt : i % 8 < 8 := Nat.mod_lt _ (by decide)
  simp [Core.testBit, Core.setBit, Core.write, Mem.rd_putBytes, hlt]

/-- The bit `i` of the visited set of group `g` is taken, in scratch or in the hold store. -/
def Core.taken (k : Core) (g base i : Nat) : Bool := k.testBit base i || k.held.any (fun h => decide (h.1 = g ∧ h.2.2 = i))

theorem Core.taken_iff {k : Core} {g base i : Nat} :
    k.taken g base i = true ↔ k.testBit base i = true ∨ ∃ h ∈ k.held, h.1 = g ∧ h.2.2 = i := by
  simp [Core.taken]

theorem State.setRead_core (s : State) (c base i d : Nat) : (s.setRead c base i).core d = s.core d := rfl
theorem State.setRead_thr (s : State) (c base i d t : Nat) : (s.setRead c base i).thr d t = s.thr d t := rfl
theorem State.setRead_stores (s : State) (c base i : Nat) : (s.setRead c base i).stores = s.stores := State.bump_stores ..

theorem exec_vts {s : State} {c : CoreId} {t : CtxId} (h : canIssue s c t) (ht : t.val < 8192) (rd ra : Reg) {g : Group} {base i : Nat}
    (hg : (s.issued c t).grp c (s.thr c t).group = g) (hbase : g.f 16 2 * 64 = base)
    (hi : visitedBit (BitVec.ofNat 64 (g.f 40 8)) ((s.thr c t).r ra) (g.f 18 1 % 32) = i)
    (harea : (s.issued c t).badArea c base (max 1 (2 ^ (g.f 18 1 % 32) / 8)) = false)
    (hread : ((s.issued c t).core c).setLost base i = false) (hspec : ((s.issued c t).core c).taken (s.thr c t).group base i = true ∨
      (s.thr c t).spec = false) :
    exec (.vts c t rd ra 0 0) s = .next (if ((s.issued c t).core c).taken (s.thr c t).group base i = true
      then ((s.issued c t).setRead c base i).retire c t rd 1
      else (((s.issued c t).setRead c base i).modCore c (·.setBit base i)).retire c t rd 0) := by
  subst hg hbase hi
  have hhart : isHart t.val = false := decide_eq_false (not_le.2 ht)
  change execVts c t rd ra 0 0 s = _
  unfold execVts
  rw [hhart]
  refine (issue_legal h rfl (.inl rfl) _).trans ?_
  simp only [r_issued, group_issued, spec_issued, State.setRead_core, bits, pow_zero, Nat.div_one, Nat.reducePow]
  rw [if_neg (by simp [harea]), if_neg (by simpa using hread)]
  change (if Core.taken _ _ _ _ = true then _ else _) = _
  split
  · rfl
  · rename_i hfree
    rw [if_pos (by simpa [hfree] using hspec)]

/-- Settles O7: each unit's answer is written to RD, or the context waits for it. -/
theorem unitOpcodes : Obligations.UnitOpcodes := by
  unfold Obligations.UnitOpcodes
  intro c t rd ra rb fn s h x w k
  refine ⟨?_, ?_, fun hfn hcfg hclosed => ?_, ?_, fun hfn => ?_⟩
  · intro a e hfn halign hclean hdepth
    have hchecked : k.check a 64 = (0, false, false) := (check_issued ..).trans hclean
    rw [exec_esub h rd ra hfn (by rw [r_issued, scrMask_eq]) rfl halign hchecked hdepth]
    refine ⟨_, rfl, regWrote_retire ?_ rd _, ⟨(w.bump (coreP c + 0x98) 0).descAt c t a (k.eng e).seq, ?_, ?_, rfl, ?_⟩, ?_⟩
    · rw [State.submitted_thr, thr_bump]
    · rw [eng_retire, State.submitted_eng]
      rfl
    · simp only [State.descAt, State.scr, core_bump, w, scratch_issued]
    · exact pc_issued s c t
    · rw [eng_retire, State.submitted_eng]
      rfl
  · rw [exec_ewait h]
    refine ⟨_, rfl, ?_⟩
    exact State.ewaited_cases s c t rd (x.r ra) (k.ticket (x.r ra))
  · rw [exec_cins_closed h rd ra rb hfn hcfg hclosed]
    refine ⟨_, rfl, regWrote_retire ?_ rd _, ?_⟩
    · have hkept := (State.served_listening (w.serveAhead c) c 16).trans (w.serveAhead_listening c)
      rw [thr_bump, State.thr_of_listening hkept]
    · rw [counted, reg_retire, toNat_bump, reg_modCore]
  · intro ht g base b i set read harea hread
    have htaken : k.taken x.group base i = true ↔ set := Core.taken_iff
    have hg : w.grp c x.group = g := rfl
    have hcount (u : State) (hu : u.reg (coreP c + 0x98) = (w.setRead c base i).reg (coreP c + 0x98)) : read u := by
      unfold read
      rw [counted, hu, State.setRead, toNat_bump, reg_issued s c t _ (by omega)]
    have hexec := exec_vts h ht rd ra hg rfl rfl harea hread
    refine ⟨fun hset => ?_, fun hunset hspec => ?_⟩
    · rw [hexec (.inl (htaken.2 hset)), if_pos (htaken.2 hset)]
      refine ⟨_, rfl, regWrote_retire (State.setRead_thr ..) rd _, storedNone_of_stores ?_, hcount _ (reg_retire ..)⟩
      rw [State.retire_stores, State.setRead_stores, State.issued_stores]
    · rw [hexec (.inr hspec), if_neg (htaken.not.2 hunset)]
      refine ⟨_, rfl, regWrote_retire ?_ rd _, ?_, hcount _ ?_⟩
      · rw [thr_modCore _ _ _ _ _ rfl, State.setRead_thr]
      · rw [Core.testBit, scratch_retire, core_modCore, if_pos rfl]
        exact Core.testBit_setBit ..
      · rw [reg_retire, reg_modCore]
  · have hlegal : decide (fn.toNat < 64) = true := decide_eq_true hfn
    change completes (execHash c t rd ra rb fn s) _
    unfold execHash
    rw [hlegal]
    exact issueR_wrote h rd _ _ (by simp only [r_issued, x])

end Sys2Proof.Machine
end

section
/-! SUPPORT. Events and descriptors of groups, and the harts' work items (R53, R54, R96 to R100, R196); O9. -/

namespace Sys2Proof.Machine

/-! ### Events (R98) -/

theorem exec_gwait {s : State} {c : CoreId} {t : CtxId} (h : canIssue s c t) (ht : t.val < 8192) (rd ra : Reg) :
    exec (.gwait c t rd ra 0 0) s = .next (if ((s.thr c t).r ra).setWidth 16 = (s.grp c (s.thr c t).group).events
      then (s.issued c t).waitIn c t .sleep (.event rd.val)
      else (s.issued c t).retire c t rd ((s.grp c (s.thr c t).group).events.setWidth 64)) := by
  have hhart : isHart t.val = false := decide_eq_false (not_le.2 ht)
  change execGwait c t rd ra 0 0 s = _
  unfold execGwait
  rw [hhart]
  refine (issue_legal h rfl (.inl rfl) _).trans ?_
  simp only [r_issued, group_issued, grp_issued, apply_ite Host.Outcome.next]

theorem exec_gsig {s : State} {c : CoreId} {t : CtxId} (h : canIssue s c t) (hspec : (s.thr c t).spec = false) (ht : t.val < 8192)
    (rd : Reg) :
    exec (.gsig c t rd 0 0 0) s = .next (((s.issued c t).gsig c (s.thr c t).group).retire c t rd
      ((((s.issued c t).gsig c (s.thr c t).group).grp c (s.thr c t).group).events.setWidth 64)) := by
  have hhart : isHart t.val = false := decide_eq_false (not_le.2 ht)
  change execGsig c t rd 0 0 0 s = _
  unfold execGsig
  rw [hhart]
  refine (issue_legal h rfl (.inr hspec) _).trans ?_
  simp only [group_issued]

theorem State.gsig_events (s : State) (c g : Nat) : ((s.gsig c g).grp c g).events = (s.grp c g).events + 1 := by
  rw [State.gsig, grp_wakeIf, grp_modGrp, if_pos ⟨rfl, rfl⟩]

/-- GSIG wakes sleeping threads only. -/
theorem State.gsig_thr {s : State} {c t : Nat} (g : Nat) (hst : (s.thr c t).st ≠ .sleep) : (s.gsig c g).thr c t = s.thr c t := by
  rw [State.gsig, thr_wakeIf _ _ _ _ _ _ (by rw [thr_modGrp]; exact decide_eq_false fun hsleeps => hst hsleeps.1), thr_modGrp]

/-! ### Group descriptors (R53, R54, R97) -/

theorem exec_gld {s : State} {c : CoreId} {t : CtxId} (h : canIssue s c t) (rd ra : Reg) (z : Fin 4) (off : BitVec 15) {g : Nat}
    (hnamed : s.grpNamed c t ra = some g) (hoff : off.toNat < 64) (halign : off.toNat % sizeOf z = 0) :
    exec (.gld c t rd ra z off) s = .next ((s.issued c t).retire c t rd
      (BitVec.ofNat 64 ((s.grp c g).f off.toNat (sizeOf z)))) := by
  change execGld c t rd ra z off s = _
  unfold execGld
  refine (issue_legal h rfl (.inl rfl) _).trans ?_
  simp only [State.grpNamed_issued, hnamed, grp_issued]
  rw [if_neg (not_or.2 ⟨not_le.2 hoff, not_not.2 halign⟩)]

/-- A GST of fields that software may write, COL_LIST left out. -/
theorem exec_gst {s : State} {c : CoreId} {t : CtxId} (h : canIssue s c t) (hspec : (s.thr c t).spec = false) (rb ra : Reg)
    (z : Fin 4) (off : BitVec 15) {g : Nat} (hnamed : s.grpNamed c t ra = some g) (hoff : off.toNat < 64)
    (halign : off.toNat % sizeOf z = 0) (hrw : ∀ i, i < sizeOf z → grpRo (off.toNat + i) = false)
    (hlist : ¬(off.toNat ≤ 24 ∧ 24 < off.toNat + sizeOf z)) :
    exec (.gst c t rb ra z off) s = .next (((s.issued c t).modGrp c g
      (·.store off.toNat (leBytes (sizeOf z) ((s.thr c t).r rb).toNat))).retire c t 0 0) := by
  have hany : ¬(List.range (sizeOf z)).any (fun i => grpRo (off.toNat + i)) = true := by
    rw [List.any_eq_true]
    rintro ⟨i, hi, hro⟩
    rw [hrw i (List.mem_range.1 hi)] at hro
    cases hro
  change execGst c t rb ra z off s = _
  unfold execGst
  refine (issue_legal h rfl (.inr hspec) _).trans ?_
  simp only [State.grpNamed_issued, hnamed, r_issued, adv_id]
  rw [if_neg (not_or.2 ⟨not_le.2 hoff, not_not.2 halign⟩), if_neg hany, if_neg hlist]

/-- The descriptor's bytes after a store: reserved bits stay 0, and bit 0 of VISITED_SEED 1. -/
theorem Group.rd_store (g : Group) (o : Nat) (bs : List Byte) (b : Nat) :
    Mem.rd (g.store o bs).desc b = if o ≤ b ∧ b < o + bs.length
      then (bs.getD (b - o) 0 &&& grpMask b) ||| (if b = 40 then 1 else 0) else Mem.rd g.desc b := by
  rw [Group.store, Mem.rd_putBytes, List.length_map, List.length_zip, List.length_range, min_self]
  split
  · rename_i hb
    have hlt : b - o < bs.length := by omega
    have hat : o + (b - o) = b := by omega
    rw [List.getD_eq_getElem _ _ (by simpa using hlt), List.getD_eq_getElem _ _ hlt]
    simp only [List.getElem_map, List.getElem_zip, List.getElem_range, hat]
  · rfl

/-! ### Work items (R53, R100, R196) -/

theorem State.choose_mem (s : State) {l : List Nat} (h : l ≠ []) : ∃ n ∈ l, (s.choose l).1 = some n := by
  have hlt : Config.freePick s.free % l.length < l.length := Nat.mod_lt _ (List.length_pos_of_ne_nil h)
  exact ⟨_, List.getElem_mem hlt, List.getElem?_eq_getElem hlt⟩
theorem State.choose_thr (s : State) (l : List Nat) (c t : Nat) : (s.choose l).2.thr c t = s.thr c t := rfl
theorem State.choose_grp (s : State) (l : List Nat) (c g : Nat) : (s.choose l).2.grp c g = s.grp c g := rfl
theorem State.choose_stores (s : State) (l : List Nat) : (s.choose l).2.stores = s.stores := rfl

/-- The work item that handle `i` of the core holds, with its hart. -/
def Core.handle (k : Core) (i : Nat) : Option (Nat × List Byte) := Tab.get (fun _ => none) k.handles i

theorem Core.mem_freeHandles {k : Core} {i : Nat} : i ∈ k.freeHandles ↔ i < 64 ∧ k.handle i = none := by
  simp [Core.freeHandles, Core.handle]

theorem handles_issued (s : State) (c t d : Nat) : ((s.issued c t).core d).handles = (s.core d).handles := by
  have hhandles := congrArg Core.handles (core_issued s c t d)
  exact hhandles
theorem workq_issued (s : State) (c t d : Nat) : ((s.issued c t).core d).workq = (s.core d).workq := by
  have hworkq := congrArg Core.workq (core_issued s c t d)
  exact hworkq
theorem handles_modThr (s : State) (c t d : Nat) (f : Thread → Thread) : ((s.modThr c t f).core d).handles = (s.core d).handles := by
  have hhandles := congrArg Core.handles (core_modThr s c t d f)
  exact hhandles
theorem workq_modThr (s : State) (c t d : Nat) (f : Thread → Thread) : ((s.modThr c t f).core d).workq = (s.core d).workq := by
  have hworkq := congrArg Core.workq (core_modThr s c t d f)
  exact hworkq

/-- Waking contexts changes contexts only. -/
theorem State.wakeIf_rest (s : State) (c d : Nat) (p : Thread → Bool) (f : Thread → Thread) :
    { (s.wakeIf c p f).core d with threads := ⟨[]⟩ } = { s.core d with threads := ⟨[]⟩ } := by
  refine foldl_unchanged (fun s : State => { s.core d with threads := ⟨[]⟩ }) (fun s t => ?_) _ s
  dsimp only
  split
  · rw [State.setThr, core_modCore]
    split
    · next h => rw [h]; rfl
    · rfl
  · rfl

theorem State.wakeUnit_handles (s : State) (c d : Nat) : ((s.wakeUnit c).core d).handles = (s.core d).handles := by
  have hhandles := congrArg Core.handles (s.wakeIf_rest c d (fun x => decide (x.st = .waitUnit ∧ x.wait = .reissue)) Thread.wakeReissue)
  exact hhandles

/-- The state after hart `h` has taken the item `w` under handle `n`, with `q` left in the queue. -/
def State.itemTaken (s : State) (c a h n : Nat) (w : List Byte) (q : List (List Byte)) : State :=
  s.modCore c (fun k => { k.write a w with workq := q, handles := Tab.set (fun _ => none) k.handles n (some (h, w)) })

theorem State.itemTaken_thr (s : State) (c a h n : Nat) (w : List Byte) (q : List (List Byte)) (d t : Nat) :
    (s.itemTaken c a h n w q).thr d t = s.thr d t := thr_modCore _ _ _ _ _ rfl
theorem State.itemTaken_stores (s : State) (c a h n : Nat) (w : List Byte) (q : List (List Byte)) :
    (s.itemTaken c a h n w q).stores = (s.writeScr c a w).stores := State.modCore_stores_congr rfl
theorem State.itemTaken_workq (s : State) (c a h n : Nat) (w : List Byte) (q : List (List Byte)) :
    ((s.itemTaken c a h n w q).core c).workq = q := by
  rw [State.itemTaken, core_modCore, if_pos rfl]
theorem State.itemTaken_handle (s : State) (c a h n : Nat) (w : List Byte) (q : List (List Byte)) :
    ((s.itemTaken c a h n w q).core c).handle n = some (h, w) := by
  rw [State.itemTaken, core_modCore, if_pos rfl, Core.handle, Tab.get_set, if_pos rfl]

theorem exec_wqtake {s : State} {c : CoreId} {t : CtxId} (h : canIssue s c t) (ht : 8192 ≤ t.val) (rd ra : Reg)
    (halign : ((s.thr c t).r ra).toNat % 2 ^ 22 % 64 = 0) {w : List Byte} {q : List (List Byte)} (hq : (s.core c).workq = w :: q)
    {n : Nat} (hn : ((s.issued c t).choose (s.core c).freeHandles).1 = some n) :
    exec (.wqtake c t rd ra 0 0) s = .next ((((s.issued c t).choose (s.core c).freeHandles).2.itemTaken c
      (((s.thr c t).r ra).toNat % 2 ^ 22) (t.val - 8192) n w q).retire c t rd (BitVec.ofNat 64 n)) := by
  have hhart : isHart t.val = true := decide_eq_true ht
  have hfree : ((s.issued c t).core c).freeHandles = (s.core c).freeHandles := by simp only [Core.freeHandles, handles_issued]
  change execWqtake c t rd ra 0 0 s = _
  unfold execWqtake
  rw [hhart]
  refine (issue_legal h rfl (.inl rfl) _).trans ?_
  simp only [r_issued, scrMask_eq, workq_issued, hq, hfree, hn]
  rw [if_neg (not_not.2 halign)]
  rfl

theorem exec_wqtake_empty {s : State} {c : CoreId} {t : CtxId} (h : canIssue s c t) (ht : 8192 ≤ t.val) (rd ra : Reg)
    (halign : ((s.thr c t).r ra).toNat % 2 ^ 22 % 64 = 0) (hq : (s.core c).workq = []) :
    exec (.wqtake c t rd ra 0 0) s = .next ((s.issued c t).waitIn c t .waitUnit .reissue) := by
  have hhart : isHart t.val = true := decide_eq_true ht
  change execWqtake c t rd ra 0 0 s = _
  unfold execWqtake
  rw [hhart]
  refine (issue_legal h rfl (.inl rfl) _).trans ?_
  simp only [r_issued, scrMask_eq, workq_issued, hq]
  rw [if_neg (not_not.2 halign)]

/-- The group that GNEW makes of the item `w` in a descriptor whose last group was `x`. -/
def Group.ofItem (x : Group) (w : List Byte) : Group :=
  { gen := x.gen + 1, live := true, desc := Mem.putBytes (Mem.ofBytes (w.take 16)) 40 [1], kind := bAt w 16, step := leAt w 20 4 }

/-- The item's stamps, and VISITED_SEED 1. -/
theorem Group.rd_ofItem (x : Group) (w : List Byte) (b : Nat) :
    Mem.rd (x.ofItem w).desc b = if b = 40 then 1 else if b < 16 then w.getD b 0 else 0 := by
  have hstamps : Mem.rd (Mem.ofBytes (w.take 16)) b = if b < 16 then w.getD b 0 else 0 := by
    rw [Mem.ofBytes, Mem.rd_putBytes, List.length_take, Nat.sub_zero, List.getD_eq_getElem?_getD, List.getD_eq_getElem?_getD]
    by_cases hb : b < 16
    · rw [List.getElem?_take_of_lt hb, if_pos hb]
      split
      · rfl
      · rw [List.getElem?_eq_none (by omega)]
        rfl
    · rw [if_neg (by omega), if_neg hb]
      rfl
  rw [Group.ofItem, Mem.rd_putBytes, hstamps]
  by_cases hb : b = 40
  · simp [hb]
  · rw [if_neg (by simp only [List.length_singleton]; omega), if_neg hb]

/-- The state after GNEW has made group `g` of the item `w` of handle `h`. -/
def State.groupMade (s : State) (c g h : Nat) (w : List Byte) : State :=
  ((s.modGrp c g (·.ofItem w)).modCore c (fun k => { k with
    handles := Tab.set (fun _ => none) k.handles h none, sealed := Tab.set (fun _ => none) k.sealed g none })).wakeUnit c

theorem State.groupMade_thr {s : State} {d t : Nat} (hst : (s.thr d t).st ≠ .waitUnit) (c g h : Nat) (w : List Byte) :
    (s.groupMade c g h w).thr d t = s.thr d t := by
  have hkept (k : Core → Core) (hk : (k ((s.modGrp c g (·.ofItem w)).core c)).threads = ((s.modGrp c g (·.ofItem w)).core c).threads) :
      ((s.modGrp c g (·.ofItem w)).modCore c k).thr d t = s.thr d t := by rw [thr_modCore _ _ _ _ _ hk, thr_modGrp]
  rw [State.groupMade, State.wakeUnit_thr _ _ _ _ (by rw [hkept _ rfl]; exact hst), hkept _ rfl]

theorem State.groupMade_grp (s : State) (c g h : Nat) (w : List Byte) : (s.groupMade c g h w).grp c g = (s.grp c g).ofItem w := by
  rw [State.groupMade, State.wakeUnit_grp, grp_modCore _ _ _ _ _ rfl, grp_modGrp, if_pos ⟨rfl, rfl⟩]

theorem State.groupMade_handle (s : State) (c g h : Nat) (w : List Byte) : ((s.groupMade c g h w).core c).handle h = none := by
  rw [Core.handle, State.groupMade, State.wakeUnit_handles, core_modCore, if_pos rfl, Tab.get_set, if_pos rfl]

theorem State.groupMade_stores (s : State) (c g h : Nat) (w : List Byte) : (s.groupMade c g h w).stores = s.stores := by
  have hwoken (v : State) : (v.wakeUnit c).stores = v.stores := State.stores_of_still (State.wakeUnit_still ..)
  rw [State.groupMade, hwoken, State.modCore_stores rfl, State.modGrp_stores]

/-- The groups of a core that are not live. -/
def State.freeGroups (s : State) (c : Nat) : List Nat := (List.range 1024).filter (fun g => !(s.grp c g).live)

theorem State.mem_freeGroups {s : State} {c g : Nat} : g ∈ s.freeGroups c ↔ g < 1024 ∧ (s.grp c g).live = false := by
  simp [State.freeGroups]

theorem exec_gnew {s : State} {c : CoreId} {t : CtxId} (h : canIssue s c t) (ht : 8192 ≤ t.val) (rd ra : Reg) {i : Nat}
    (hi : ((s.thr c t).r ra).toNat = i) (hlt : i < 64) {w : List Byte} (hheld : (s.core c).handle i = some (t.val - 8192, w))
    {g : Nat} (hg : ((s.issued c t).choose ((s.issued c t).freeGroups c)).1 = some g) :
    exec (.gnew c t rd ra 0 0) s = .next ((((s.issued c t).choose ((s.issued c t).freeGroups c)).2.groupMade c g i w).retire c t rd
      (BitVec.ofNat 64 g)) := by
  have hhart : isHart t.val = true := decide_eq_true ht
  subst hi
  rw [Core.handle] at hheld
  change execGnew c t rd ra 0 0 s = _
  unfold execGnew
  rw [hhart]
  refine (issue_legal h rfl (.inl rfl) _).trans ?_
  simp only [r_issued, handles_issued, hheld]
  rw [if_neg (by omega)]
  rw [State.freeGroups] at hg
  simp only [hg]
  rfl

theorem exec_gnew_unheld {s : State} {c : CoreId} {t : CtxId} (h : canIssue s c t) (ht : 8192 ≤ t.val) (rd ra : Reg)
    (hheld : (s.core c).handle ((s.thr c t).r ra).toNat = none) :
    exec (.gnew c t rd ra 0 0) s = .next ((s.issued c t).retire c t rd failBit) := by
  have hhart : isHart t.val = true := decide_eq_true ht
  rw [Core.handle] at hheld
  change execGnew c t rd ra 0 0 s = _
  unfold execGnew
  rw [hhart]
  refine (issue_legal h rfl (.inl rfl) _).trans ?_
  simp only [r_issued, handles_issued, hheld]

/-- Settles O9: events and descriptors for a thread, work items and new groups for a hart. -/
theorem groupEventsAndWork : Obligations.GroupEventsAndWork := by
  unfold Obligations.GroupEventsAndWork
  constructor
  · intro c t rd ra rb z off s h ht x g n o
    refine ⟨?_, fun hspec => ?_, fun hlt hlive hoff halign => ?_⟩
    · rw [exec_gwait h ht]
      refine ⟨_, rfl, ?_⟩
      dsimp only
      split
      · exact ⟨goneTo_modThr rfl _ _ (pc_issued ..) rfl, congrArg Thread.st (thr_wait ..)⟩
      · exact wrote_retire ..
    · have hevents : ((s.issued c t).gsig c x.group |>.grp c x.group).events = g.events + 1 := by
        rw [State.gsig_events, grp_issued]
      rw [exec_gsig h hspec ht, hevents]
      refine ⟨_, rfl, regWrote_retire (State.gsig_thr _ ?_) rd _, ?_, storedNone_of_stores ?_⟩
      · rw [st_issued, ready_of h]
        decide
      · rw [grp_retire, hevents]
      · rw [State.retire_stores, State.stores_of_still (State.gsig_still ..), State.issued_stores]
    · have hnamed : s.grpNamed c t ra = some x.group := State.grpNamed_of (by rw [if_pos ht]) hlt hlive
      refine ⟨?_, fun hspec hrw hlist => ?_, fun hspec hro => ?_⟩
      · rw [exec_gld h rd ra z off hnamed hoff halign]
        exact ⟨_, rfl, wrote_retire ..⟩
      · rw [exec_gst h hspec rb ra z off hnamed hoff halign hrw hlist]
        refine ⟨_, rfl, regWrote_retire (thr_modGrp ..) 0 0, storedNone_of_stores ?_, fun b => ?_, fun d v hother => ?_⟩
        · rw [State.retire_stores, State.modGrp_stores, State.issued_stores]
        · rw [grp_retire, grp_modGrp, if_pos ⟨rfl, rfl⟩, grp_issued, Group.rd_store, length_leBytes]
          rfl
        · rw [grp_retire, grp_modGrp, if_neg hother, grp_issued]
      · obtain ⟨i, hi, hro⟩ := hro
        exact exec_gst_ro h hspec rb ra z off hnamed hoff halign hi hro
  · intro c t rd ra s h ht x a i held
    have hready : ((s.issued c t).thr c t).st ≠ .waitUnit := by
      rw [st_issued, ready_of h]
      decide
    refine ⟨fun halign => ⟨fun w q hq hfree => ?_, fun hq => ?_⟩, fun w hlt hheld hfree => ?_, fun hheld => ?_⟩
    · obtain ⟨m, hm, hnone⟩ := hfree
      obtain ⟨n, hn, hchosen⟩ := (s.issued c t).choose_mem (List.ne_nil_of_mem (Core.mem_freeHandles.2 ⟨hm, hnone⟩))
      obtain ⟨hlt, hfree⟩ := Core.mem_freeHandles.1 hn
      rw [exec_wqtake h ht rd ra halign hq hchosen]
      refine ⟨_, rfl, n, hlt, hfree, regWrote_retire ?_ rd _, stored_of_stores (State.issued_stores s c t) ?_, ?_, ?_⟩
      · rw [State.itemTaken_thr, State.choose_thr]
      · rw [State.retire_stores, State.itemTaken_stores]
        rfl
      · rw [State.retire, State.adv, workq_modThr, State.itemTaken_workq]
      · rw [State.retire, State.adv, handles_modThr]
        exact State.itemTaken_handle ..
    · rw [exec_wqtake_empty h ht rd ra halign hq]
      refine ⟨_, rfl, goneTo_modThr rfl _ _ (pc_issued ..) rfl, congrArg Thread.st (thr_wait ..), storedNone_of_stores ?_⟩
      rw [State.waitIn_stores, State.issued_stores]
    · obtain ⟨m, hm, hdead⟩ := hfree
      have hmem : m ∈ (s.issued c t).freeGroups c := State.mem_freeGroups.2 ⟨hm, by rw [grp_issued, hdead]⟩
      obtain ⟨g, hg, hchosen⟩ := (s.issued c t).choose_mem (List.ne_nil_of_mem hmem)
      obtain ⟨hglt, hgdead⟩ := State.mem_freeGroups.1 hg
      rw [grp_issued] at hgdead
      rw [exec_gnew h ht rd ra rfl hlt hheld hchosen]
      refine ⟨_, rfl, g, hglt, hgdead, regWrote_retire ?_ rd _, ?_, ?_, ?_, fun b => ?_, ?_, storedNone_of_stores ?_⟩
      · rw [State.groupMade_thr (by rw [State.choose_thr]; exact hready), State.choose_thr]
      · rw [grp_retire, State.groupMade_grp]
        rfl
      · rw [grp_retire, State.groupMade_grp]
        rfl
      · rw [grp_retire, State.groupMade_grp]
        rfl
      · rw [grp_retire, State.groupMade_grp, Group.rd_ofItem]
      · rw [State.retire, State.adv, handles_modThr]
        exact State.groupMade_handle ..
      · rw [State.retire_stores, State.groupMade_stores, State.choose_stores, State.issued_stores]
    · rw [exec_gnew_unheld h ht rd ra hheld]
      exact ⟨_, rfl, wrote_retire ..⟩

end Sys2Proof.Machine
end

section
/-! SUPPORT. Starting threads, and ending groups with their lists (R49, R55, R96, R99, R100, R139); O11. -/

namespace Sys2Proof.Machine

/-! ### Lists -/

/-- The lists `ls` of core `c` changed by `f`. -/
def State.mapLists (s : State) (c : Nat) (ls : List Nat) (f : ColList → ColList) : State :=
  ls.foldl (fun s l => s.modCore c (fun k => k.setList l (f (k.list l)))) s

theorem State.mapLists_list {f : ColList → ColList} (hf : ∀ x, f (f x) = f x) (s : State) (c : Nat) (ls : List Nat) (m : Nat) :
    ((s.mapLists c ls f).core c).list m = if m ∈ ls then f ((s.core c).list m) else (s.core c).list m := by
  unfold State.mapLists
  induction ls generalizing s with
  | nil => rfl
  | cons l r ih =>
    have hstep : (((s.modCore c (fun k => k.setList l (f (k.list l)))).core c).list m) =
        if m = l then f ((s.core c).list m) else (s.core c).list m := by
      rw [core_modCore, if_pos rfl, Core.list, Core.setList, Tab.get_set]
      split
      · rename_i hm
        rw [hm]
      · rfl
    rw [List.foldl_cons, ih, hstep]
    by_cases hm : m = l
    · simp [hm, hf]
    · simp [hm]

theorem State.mapLists_thr (s : State) (c : Nat) (ls : List Nat) (f : ColList → ColList) (d t : Nat) :
    (s.mapLists c ls f).thr d t = s.thr d t :=
  foldl_unchanged (fun s : State => s.thr d t) (fun _ _ => thr_modCore _ _ _ _ _ rfl) ls s
theorem State.mapLists_grp (s : State) (c : Nat) (ls : List Nat) (f : ColList → ColList) (d g : Nat) :
    (s.mapLists c ls f).grp d g = s.grp d g :=
  foldl_unchanged (fun s : State => s.grp d g) (fun _ _ => grp_modCore _ _ _ _ _ rfl) ls s

theorem State.closeLists_eq (s : State) (c g : Nat) : s.closeLists c g = s.mapLists c ((s.core c).ownLists g) (fun _ => {}) := rfl

theorem Core.mem_ownLists {k : Core} {g l : Nat} : l ∈ k.ownLists g ↔ l < 64 ∧ (k.list l).isOpen = true ∧ (k.list l).owner = g := by
  simp [Core.ownLists]

theorem lists_modThr (s : State) (c t d : Nat) (f : Thread → Thread) : ((s.modThr c t f).core d).lists = (s.core d).lists := by
  have hlists := congrArg Core.lists (core_modThr s c t d f)
  exact hlists
theorem lists_issued (s : State) (c t d : Nat) : ((s.issued c t).core d).lists = (s.core d).lists := by
  have hlists := congrArg Core.lists (core_issued s c t d)
  exact hlists
theorem lists_modGrp (s : State) (c g d : Nat) (f : Group → Group) : ((s.modGrp c g f).core d).lists = (s.core d).lists := by
  rw [State.modGrp, core_modCore]
  split
  · next h => rw [h]; rfl
  · rfl
theorem list_congr {j k : Core} (h : j.lists = k.lists) (l : Nat) : j.list l = k.list l := by rw [Core.list, h, Core.list]

theorem State.wakeUnit_lists (s : State) (c d : Nat) : ((s.wakeUnit c).core d).lists = (s.core d).lists := by
  have hlists := congrArg Core.lists (s.wakeIf_rest c d (fun x => decide (x.st = .waitUnit ∧ x.wait = .reissue)) Thread.wakeReissue)
  exact hlists

/-- Which lists are open, and for whom. -/
def Core.bindings (k : Core) (l : Nat) : Bool × Nat := ((k.list l).isOpen, (k.list l).owner)

theorem Core.bindings_setList (k : Core) (l : Nat) {x : ColList} (hopen : x.isOpen = (k.list l).isOpen)
    (howner : x.owner = (k.list l).owner) : (k.setList l x).bindings = k.bindings := by
  funext m
  rw [Core.bindings, Core.list, Core.setList, Tab.get_set]
  split
  · rename_i hm
    rw [hopen, howner, hm, Core.bindings]
  · rfl

theorem Core.bindings_clearShadows (k : Core) (g : Nat) : (k.clearShadows g).bindings = k.bindings :=
  foldl_unchanged Core.bindings (f := fun k l =>
    k.setList l { k.list l with shadow := (k.list l).shadow.map (fun _ => {}), dropHops := [] })
    (fun k l => Core.bindings_setList k l rfl rfl) _ k

theorem State.dropHeld_bindings (s : State) (c g : Nat) : ((s.dropHeld c g).core c).bindings = (s.core c).bindings := by
  have hlists (u : State) : ((u.wakeUnit c).core c).bindings = (u.core c).bindings := by
    funext l
    rw [Core.bindings, list_congr (State.wakeUnit_lists ..), Core.bindings]
  rw [State.dropHeld_eq, hlists, core_bump, core_modCore, if_pos rfl]
  exact Core.bindings_clearShadows ..

theorem Core.ownLists_congr {j k : Core} (h : j.bindings = k.bindings) (g : Nat) : j.ownLists g = k.ownLists g := by
  refine List.filter_congr fun l _ => ?_
  obtain ⟨hopen, howner⟩ := Prod.ext_iff.1 (congrFun h l)
  rw [show (j.list l).isOpen = (k.list l).isOpen from hopen, show (j.list l).owner = (k.list l).owner from howner]

/-- A kill closes the group's lists. -/
theorem State.killOpen_closes {s : State} {c g l : Nat} (hl : l ∈ (s.core c).ownLists g) :
    (((s.killOpen c g).core c).list l).isOpen = false := by
  have hown : l ∈ ((if (s.grp c g).hops = 0 then s else (s.dropHeld c g).bump (walkP c + 0x88) 1).core c).ownLists g := by
    split
    · exact hl
    · rwa [core_bump, Core.ownLists_congr (State.dropHeld_bindings s c g)]
  rw [State.killOpen, list_congr (lists_modGrp ..), State.closeLists_eq, State.mapLists_list (f := fun _ => {}) (fun _ => rfl), if_pos hown]

theorem State.markAll_lists (s : State) (c d : Nat) (l : List Nat) : ((s.markAll c l).core d).lists = (s.core d).lists :=
  foldl_unchanged (fun s : State => (s.core d).lists) (fun s t => lists_modThr s c t d _) l s

theorem State.killGroup_closes {s : State} {c g l : Nat} (hlive : (s.grp c g).live = true) (hkilled : (s.grp c g).killed = false)
    (hthreads : (s.grp c g).liveThreads ≠ 0) (hl : l ∈ (s.core c).ownLists g) :
    (((s.killGroup c g).core c).list l).isOpen = false := by
  rw [State.killGroup_live hlive hkilled hthreads, list_congr (State.markAll_lists ..), State.killOpen_closes hl]

/-! ### Ending a group (R55, R100) -/

/-- A list whose seal is asked for. -/
def ColList.seal (x : ColList) : ColList := { x with sealing := true }

/-- Marks the group done. -/
def State.groupDone (s : State) (c g : Nat) : State := s.modGrp c g (fun x => { x with done := true })

theorem State.markDone_eq {s : State} {c g : Nat} (hthreads : (s.grp c g).liveThreads ≠ 0) :
    s.markDone c g = (s.groupDone c g).mapLists c (((s.groupDone c g).core c).ownLists g) ColList.seal := by
  refine State.tryFree_of_liveThreads (s := (s.groupDone c g).mapLists c (((s.groupDone c g).core c).ownLists g) ColList.seal) ?_
  rw [State.mapLists_grp, State.groupDone, grp_modGrp, if_pos ⟨rfl, rfl⟩]
  exact hthreads

theorem State.markDone_thr {s : State} {c g : Nat} (hthreads : (s.grp c g).liveThreads ≠ 0) (d t : Nat) :
    (s.markDone c g).thr d t = s.thr d t := by
  rw [State.markDone_eq hthreads, State.mapLists_thr, State.groupDone, thr_modGrp]

theorem State.markDone_done {s : State} {c g : Nat} (hthreads : (s.grp c g).liveThreads ≠ 0) :
    ((s.markDone c g).grp c g).done = true := by
  rw [State.markDone_eq hthreads, State.mapLists_grp, State.groupDone, grp_modGrp, if_pos ⟨rfl, rfl⟩]

theorem State.markDone_seals {s : State} {c g l : Nat} (hthreads : (s.grp c g).liveThreads ≠ 0) (hl : l ∈ (s.core c).ownLists g) :
    (((s.markDone c g).core c).list l).sealing = true := by
  have hown : l ∈ ((s.groupDone c g).core c).ownLists g := by
    have hlist : ((s.groupDone c g).core c).list l = (s.core c).list l := list_congr (lists_modGrp ..) l
    rw [Core.mem_ownLists, hlist]
    exact Core.mem_ownLists.1 hl
  rw [State.markDone_eq hthreads, State.mapLists_list (f := ColList.seal) (fun _ => rfl), if_pos hown]
  rfl

theorem State.layerGdone_core (s : State) (c d : Nat) (x : Group) : (s.layerGdone c x).core d = s.core d := by
  unfold State.layerGdone
  split <;> rfl

/-- The Desk is told of the first GDONE of a group. -/
def State.gdoneTold (s : State) (c g : Nat) : State := if (s.grp c g).done then s else s.layerGdone c (s.grp c g)

theorem State.gdoneTold_core (s : State) (c g d : Nat) : (s.gdoneTold c g).core d = s.core d := by
  unfold State.gdoneTold
  split
  · rfl
  · exact State.layerGdone_core ..

theorem State.gdoneTold_stores (s : State) (c g : Nat) : (s.gdoneTold c g).stores = s.stores := by
  unfold State.gdoneTold
  split
  · rfl
  · exact State.stores_of_still (State.layerGdone_still ..)

theorem exec_gdone {s : State} {c : CoreId} {t : CtxId} (h : canIssue s c t) (ht : 8192 ≤ t.val) (ra : Reg) {g : Nat}
    (hg : ((s.thr c t).r ra).toNat = g) (hlt : g < 1024) (hlive : (s.grp c g).live = true) (hkilled : (s.grp c g).killed = false) :
    exec (.gdone c t 0 ra 0 0) s = .next ((((s.issued c t).gdoneTold c g).markDone c g).retire c t 0 0) := by
  have hhart : isHart t.val = true := decide_eq_true ht
  change execGdone c t 0 ra 0 0 s = _
  unfold execGdone
  rw [hhart]
  refine (issue_legal h rfl (.inl rfl) _).trans ?_
  simp only [r_issued, hg]
  rw [if_pos ⟨hlt, by rw [grp_issued, hlive], by rw [grp_issued, hkilled]; rfl⟩]
  rfl

theorem exec_gkill {s : State} {c : CoreId} {t : CtxId} (h : canIssue s c t) (ht : 8192 ≤ t.val) (ra : Reg) {g : Nat}
    (hg : ((s.thr c t).r ra).toNat = g) (hlt : g < 1024) :
    exec (.gkill c t 0 ra 0 0) s = .next (((s.issued c t).killGroup c g).retire c t 0 0) := by
  have hhart : isHart t.val = true := decide_eq_true ht
  change execGkill c t 0 ra 0 0 s = _
  unfold execGkill
  rw [hhart]
  refine (issue_legal h rfl (.inl rfl) _).trans ?_
  simp only [r_issued, hg]
  rw [if_pos hlt]
  rfl

/-- Issuing changes no context but for the wait of the one that issues. -/
theorem State.issued_thr (s : State) (c t n : Nat) : ∃ w, (s.issued c t).thr c n = { s.thr c n with wait := w } := by
  by_cases hn : n = t
  · subst hn
    exact ⟨_, thr_issued s c n⟩
  · exact ⟨_, (onlyThread_issued s c t).2.2.1 c n (.inr hn)⟩

/-! ### Starting a thread (R49, R96, R99) -/

/-- The FREE contexts of a core. -/
def State.freeContexts (s : State) (c : Nat) : List Nat := (List.range 8192).filter (fun n => decide ((s.thr c n).st = .free))

theorem State.mem_freeContexts {s : State} {c n : Nat} : n ∈ s.freeContexts c ↔ n < 8192 ∧ (s.thr c n).st = .free := by
  simp [State.freeContexts]

theorem Thread.r_setRn_one (x : Thread) (w : Word) (i : Reg) : (x.setRn 1 w).r i = if i = 1 then w else x.r i := by
  change (x.setR 1 w).r i = _
  rw [setR_r]
  split
  · rename_i hi
    subst hi
    rfl
  · rfl

theorem State.startThread_thr (s : State) (c n g : Nat) (pc : BitVec 16) (g1 : Word) (spec : Bool) (hop t : Nat) :
    (s.startThread c n g pc g1 spec hop).thr c t = if t = n
      then (({ ({} : Thread) with
        inst := (s.thr c n).inst, pc := pc, st := .ready, group := g, spec := spec, hop := hop } : Thread).setRn 1 g1)
      else s.thr c t := by
  rw [State.startThread, thr_modGrp, thr_setThr]
  simp only [true_and]

theorem State.startThread_live (s : State) (c n g : Nat) (pc : BitVec 16) (g1 : Word) (spec : Bool) (hop : Nat) :
    ((s.startThread c n g pc g1 spec hop).grp c g).liveThreads = ((s.grp c g).liveThreads + 1) % 65536 := by
  rw [State.startThread, grp_modGrp, if_pos ⟨rfl, rfl⟩, State.setThr_grp]
  exact Group.setF_f ..

/-- The group that a SPAWN names: a thread's own, or the one in a hart's RD. -/
def State.spawnGroup (s : State) (c t : Nat) (rd : Reg) : Nat := if t < 8192 then (s.thr c t).group else ((s.thr c t).r rd).toNat

theorem State.spawnGroup_eq (s : State) (c t : Nat) (rd : Reg) :
    (if isHart t = true then ((s.thr c t).r rd).toNat else (s.thr c t).group) = s.spawnGroup c t rd := by
  rw [State.spawnGroup]
  by_cases ht : t < 8192
  · rw [if_pos ht, if_neg (by simp [isHart, ht])]
  · rw [if_neg ht, if_pos (by simp [isHart, not_lt.1 ht])]

theorem exec_spawn {s : State} {c : CoreId} {t : CtxId} (h : canIssue s c t) (rd ra rb : Reg) {g : Nat}
    (hg : s.spawnGroup c t rd = g) (hlt : g < 1024) (hlive : (s.grp c g).live = true) (hkilled : (s.grp c g).killed = false) {n : Nat}
    (hn : ((s.issued c t).choose ((s.issued c t).freeContexts c)).1 = some n) :
    exec (.spawn c t rd ra rb 0) s = .next ((((s.issued c t).choose ((s.issued c t).freeContexts c)).2.startThread c n g
      (((s.thr c t).r ra).setWidth 16) ((s.thr c t).r rb) (s.thr c t).spec (s.thr c t).hop).retire c t rd (BitVec.ofNat 64 n)) := by
  rw [State.freeContexts] at hn
  change execSpawn c t rd ra rb 0 s = _
  unfold execSpawn
  refine (issue_legal h rfl (.inl rfl) _).trans ?_
  simp only [r_issued, group_issued, spec_issued, hop_issued, grp_issued, State.spawnGroup_eq, hg]
  rw [if_neg (by simp [hlt, hlive, hkilled]), hn]
  rfl

theorem exec_spawn_full {s : State} {c : CoreId} {t : CtxId} (h : canIssue s c t) (rd ra rb : Reg) {g : Nat}
    (hg : s.spawnGroup c t rd = g) (hlt : g < 1024) (hlive : (s.grp c g).live = true) (hkilled : (s.grp c g).killed = false)
    (hfull : (s.issued c t).freeContexts c = []) :
    exec (.spawn c t rd ra rb 0) s = .next (((s.issued c t).bump (coreP c + 0xC8) 1).retire c t rd failBit) := by
  rw [State.freeContexts] at hfull
  change execSpawn c t rd ra rb 0 s = _
  unfold execSpawn
  refine (issue_legal h rfl (.inl rfl) _).trans ?_
  simp only [r_issued, group_issued, grp_issued, State.spawnGroup_eq, hg]
  rw [if_neg (by simp [hlt, hlive, hkilled]), hfull]
  rfl

/-- Settles O11: a spawn claims a FREE context, GDONE seals the lists of the group and GKILL closes them. -/
theorem spawnDoneKill : Obligations.SpawnDoneKill := by
  unfold Obligations.SpawnDoneKill
  intro c t rd ra rb s h x gi g k e
  have hready : ((s.issued c t).thr c t).st = .ready := (st_issued ..).trans (ready_of h)
  have hst (n : Nat) : ((s.issued c t).thr c n).st = (s.thr c n).st := by
    obtain ⟨w, hw⟩ := s.issued_thr c t n
    rw [hw]
  have hown (l : Nat) (hl : l < 64) (hopen : ((s.core c).list l).isOpen = true) (howner : ((s.core c).list l).owner = k) :
      l ∈ ((s.issued c t).core c).ownLists k := by
    rw [Core.mem_ownLists, list_congr (lists_issued ..)]
    exact ⟨hl, hopen, howner⟩
  refine ⟨fun hlt hlive hkilled => ⟨fun hfree => ?_, fun hfull => ?_⟩, fun ht hlt hlive hkilled hthreads => ⟨?_, ?_⟩⟩
  · obtain ⟨m, hm, hmfree⟩ := hfree
    obtain ⟨n, hn, hchosen⟩ := (s.issued c t).choose_mem (List.ne_nil_of_mem (State.mem_freeContexts.2 ⟨hm, (hst m).trans hmfree⟩))
    obtain ⟨hlt', hnfree⟩ := State.mem_freeContexts.1 hn
    have hother : t.val ≠ n := fun htn => by
      have hstill := (hst n).symm.trans hnfree
      rw [← htn, ready_of h] at hstill
      cases hstill
    rw [exec_spawn h rd ra rb (g := gi) rfl hlt hlive hkilled hchosen]
    have hthr (i : Nat) := State.startThread_thr ((s.issued c t).choose ((s.issued c t).freeContexts c)).2 c n gi
      ((x.r ra).setWidth 16) (x.r rb) x.spec x.hop i
    have hlives := State.startThread_live ((s.issued c t).choose ((s.issued c t).freeContexts c)).2 c n gi
      ((x.r ra).setWidth 16) (x.r rb) x.spec x.hop
    rw [State.choose_grp, grp_issued] at hlives
    generalize ((s.issued c t).choose ((s.issued c t).freeContexts c)).2.startThread c n gi ((x.r ra).setWidth 16) (x.r rb) x.spec
      x.hop = v at hthr hlives ⊢
    have hstarted : (v.retire c t rd (BitVec.ofNat 64 n)).thr c n = _ :=
      ((onlyThread_modThr v c t _).2.2.1 c n (.inr hother.symm)).trans ((hthr n).trans (if_pos rfl))
    refine ⟨_, rfl, n, hlt', (hst n).symm.trans hnfree, regWrote_retire ?_ rd _, ?_, ?_, ?_, ?_, ?_, fun i => ?_, ?_⟩
    · rw [hthr, if_neg hother, State.choose_thr]
    · rw [hstarted]
      rfl
    · rw [hstarted]
      rfl
    · rw [hstarted]
      rfl
    · rw [hstarted]
      rfl
    · rw [hstarted]
      rfl
    · rw [hstarted, Thread.r_setRn_one]
      exact congrArg (ite _ _) (ite_self _)
    · rw [grp_retire, hlives]
  · have hnone : (s.issued c t).freeContexts c = [] :=
      List.eq_nil_iff_forall_not_mem.2 fun n hn => by
        obtain ⟨hlt', hnfree⟩ := State.mem_freeContexts.1 hn
        exact hfull n hlt' ((hst n).symm.trans hnfree)
    rw [exec_spawn_full h rd ra rb rfl hlt hlive hkilled hnone]
    refine ⟨_, rfl, regWrote_retire (thr_bump ..) rd _, ?_⟩
    rw [reg_retire, toNat_bump, reg_issued s c t _ (by omega)]
  · have hgrp : ((s.issued c t).gdoneTold c k).grp c k = e := by
      rw [State.grp, State.gdoneTold_core, ← State.grp, grp_issued]
    have hlive' : (((s.issued c t).gdoneTold c k).grp c k).liveThreads ≠ 0 := by rwa [hgrp]
    rw [exec_gdone h ht ra rfl hlt hlive hkilled]
    refine ⟨_, rfl, regWrote_retire ?_ 0 0, ?_, fun l hl hopen howner => ?_, storedNone_of_stores ?_⟩
    · rw [State.markDone_thr hlive', State.thr, State.gdoneTold_core, ← State.thr]
    · rw [grp_retire, State.markDone_done hlive']
    · rw [State.retire, State.adv, list_congr (lists_modThr ..)]
      refine State.markDone_seals hlive' ?_
      rw [State.gdoneTold_core]
      exact hown l hl hopen howner
    · rw [State.retire_stores, State.stores_of_still (State.markDone_still ..), State.gdoneTold_stores, State.issued_stores]
  · have hgrp : (s.issued c t).grp c k = e := grp_issued ..
    rw [exec_gkill h ht ra rfl hlt]
    refine ⟨_, rfl, regWrote_retire ?_ 0 0, ?_, ?_, fun l hl hopen howner => ?_, fun n hn hgroup hst' => ?_, storedNone_of_stores ?_⟩
    · exact State.killGroup_thr_hart _ _ _ _ (by rw [hready]; decide) ht
    · rw [grp_retire, State.killGroup_grp (by rw [hgrp, hlive]) (by rw [hgrp, hkilled]) (by rwa [hgrp])]
    · rw [grp_retire, State.killGroup_grp (by rw [hgrp, hlive]) (by rw [hgrp, hkilled]) (by rwa [hgrp])]
    · rw [State.retire, State.adv, list_congr (lists_modThr ..)]
      exact State.killGroup_closes (by rw [hgrp, hlive]) (by rw [hgrp, hkilled]) (by rwa [hgrp]) (hown l hl hopen howner)
    · have hgroup' : ((s.issued c t).thr c n).group = k := by
        obtain ⟨w, hw⟩ := s.issued_thr c t n
        rw [hw]
        exact hgroup
      have hmarked := State.killGroup_marks (s := s.issued c t) (by rw [hgrp, hlive]) (by rw [hgrp, hkilled]) hn hgroup'
        (by rw [hst]; exact hst')
      have hkept := (onlyThread_modThr ((s.issued c t).killGroup c k) c t (fun x => { x.setR 0 0 with pc := x.pc + 1 })).2.2.1 c n
        (.inr (by omega))
      exact (congrArg Thread.marked hkept).trans hmarked
    · rw [State.retire_stores, State.stores_of_still (State.killGroup_still ..), State.issued_stores]

end Sys2Proof.Machine
end

section
/-! SUPPORT. Freed contexts, and the data and acknowledgements that reach threads (R48 to R50, R88, R89); O17. -/

namespace Sys2Proof.Machine

theorem State.setReq_thr (s : State) (i : Nat) (q : Option Req) (c t : Nat) : (s.setReq i q).thr c t = s.thr c t := rfl

theorem State.reach_thr (s : State) (i c t : Nat) : (s.reach i).thr c t = s.thr c t := by
  unfold State.reach
  split
  · rfl
  · split
    · rfl
    · extract_lets thread rg r1 r2
      rw [State.setReq_thr]
      split
      · rw [thr_bump]
      · rfl

theorem State.reach_stores (s : State) (i : Nat) : (s.reach i).stores = s.stores := by
  unfold State.reach
  split
  · rfl
  · split
    · rfl
    · extract_lets thread rg r1 r2
      rw [State.setReq_stores]
      split
      · rw [State.bump_stores]
      · rfl

theorem exec_contextFree {s : State} {c : CoreId} {t : CtxId} (hmarked : (s.thr c t).marked = true) (hst : (s.thr c t).st ≠ .free)
    (hback : ∀ j, (s.thr c t).wait = .access j → s.req j = none) :
    exec (.contextFree c t) s =
      .next ((if (s.grp c (s.thr c t).group).killed then s.bump (coreP c + 0xA8) 1 else s).endThread c t) := by
  change execContextFree c t s = _
  unfold execContextFree
  refine if_neg ?_
  cases hw : (s.thr c t).wait with
  | access j => simp [hmarked, hst, hback j hw]
  | _ => simp [hmarked, hst]

/-- The core after line bytes `ds` are delivered: a write, but for the marks of the poisoned words. -/
theorem Core.deliver_scratch (k : Core) (a : Nat) (ds : List (Byte × Bool)) :
    (k.deliver a ds).scratch = (k.write a (ds.map (·.1))).scratch := by
  refine foldl_unchanged Core.scratch (fun k i => ?_) _ _
  split <;> rfl

theorem State.deliver_stores (s : State) (c a : Nat) (ds : List (Byte × Bool)) :
    (s.modCore c (·.deliver a ds)).stores = (s.writeScr c a (ds.map (·.1))).stores :=
  State.modCore_stores_congr (Core.deliver_scratch ..)

theorem State.readDone_still (s : State) (c t n : Nat) : (s.readDone c t n).still = s.still := by
  unfold State.readDone
  split
  · rw [State.settle_still, State.modThr_still]
  · rfl

theorem State.writeDone_still (s : State) (r : Req) : (s.writeDone r).still = s.still := by
  unfold State.writeDone
  split
  · rw [State.settle_still, State.modThr_still]
  · rfl

theorem State.bump_req (s : State) (a n i : Nat) : (s.bump a n).req i = s.req i := rfl

theorem State.rdaEnd_req (s : State) (i : Nat) (r : Req) : (s.rdaEnd i r).req i = none := by
  unfold State.rdaEnd
  dsimp only
  rw [State.req_of_still ((State.tagFreed_still ..).trans (State.readDone_still ..))]
  split
  · rw [State.bump_req, req_setReq, if_pos rfl]
  · rw [req_setReq, if_pos rfl]

theorem State.rdaEnd_stores (s : State) (i : Nat) (r : Req) : (s.rdaEnd i r).stores = s.stores := by
  unfold State.rdaEnd
  dsimp only
  rw [State.stores_of_still ((State.tagFreed_still ..).trans (State.readDone_still ..))]
  split
  · rw [State.bump_stores, State.setReq_stores]
  · rw [State.setReq_stores]

/-- The bytes of destination line `k` of a request, where they are there. -/
def State.lineData (s : State) (r : Req) (k : Nat) : List (Byte × Bool) :=
  (List.range ((r.destLine k).2.2 - (r.destLine k).2.1)).filterMap (fun o => s.dataAt r ((r.destLine k).2.1 + o))

/-- The request with destination line `k` written. -/
def Req.lineWritten (r : Req) (k : Nat) : Req := { r with written := Tab.set (fun _ => false) r.written k true }

/-- Every destination line of the request is written. -/
def Req.allWritten (r : Req) : Bool := (List.range r.nDest).all (fun k => Tab.get (fun _ => false) r.written k)

theorem Req.allWritten_lineWritten {r : Req} {k : Nat} :
    (r.lineWritten k).allWritten = true ↔ ∀ j, j < r.nDest → j ≠ k → Tab.get (fun _ => false) r.written j = true := by
  rw [Req.allWritten, List.all_eq_true]
  refine forall_congr' fun j => ?_
  rw [List.mem_range, Req.lineWritten, Tab.get_set]
  by_cases hj : j = k
  · simp [hj]
  · simp only [hj, if_false, ne_eq, not_false_eq_true, forall_const]
    rfl

/-- The core's scratch takes the line, if its thread does. -/
def State.lineDelivered (s : State) (r : Req) (k : Nat) : State :=
  if s.takesData r then s.modCore r.core (·.deliver (r.destLine k).1 (s.lineData r k)) else s

theorem exec_readDataReturn {s : State} {i k : Nat} {r : Req} (hreq : (s.reach i).req i = some r) (hkind : r.kind = .rda)
    (hk : k < r.nDest) (hnew : Tab.get (fun _ => false) r.written k = false)
    (hdata : ((s.reach i).lineData r k).length = (r.destLine k).2.2 - (r.destLine k).2.1) :
    exec (.readDataReturn i k) s = .next (if (r.lineWritten k).allWritten
      then ((s.reach i).lineDelivered r k).rdaEnd i r
      else ((s.reach i).lineDelivered r k).setReq i (some (r.lineWritten k))) := by
  change execReadDataReturn i k s = _
  unfold execReadDataReturn
  have hweight : decide (r.kind = .weight) = false := by
    rw [hkind]
    rfl
  have hready : ¬((r.kind ≠ .rda ∧ (!false) = true) ∨ r.nDest ≤ k ∨ Tab.get (fun _ => false) r.written k = true ∨
      ((s.reach i).lineData r k).length ≠ (r.destLine k).2.2 - (r.destLine k).2.1) := by
    simp [hkind, hk, hnew, hdata]
  simp only [hreq, hweight]
  refine (if_neg hready).trans ?_
  simp only [Bool.false_and, Bool.false_eq_true, if_false]
  change (if (!(r.lineWritten k).allWritten) = true then _ else _) = _
  cases (r.lineWritten k).allWritten
  · rfl
  · rfl

theorem exec_writeAck {s : State} {i : Nat} {r : Req} (hreq : (s.reach i).req i = some r) (hkind : r.kind = .wra)
    (hlines : ∀ l, l < r.nLines → r.lineDone l = true) :
    exec (.writeAck i) s = .next ((((s.reach i).setReq i none).writeDone r).tagFreed r.core) := by
  have hall : (List.range r.nLines).all r.lineDone = true := List.all_eq_true.2 fun l hl => hlines l (List.mem_range.1 hl)
  change execWriteAck i s = _
  unfold execWriteAck
  simp only [hreq]
  rw [if_pos ⟨hkind, hall⟩]

/-- A READY context has nothing to settle. -/
theorem State.settle_ready {s : State} {c t : Nat} (hst : (s.thr c t).st = .ready) : s.settle c t = s := by
  simp only [State.settle, hst]

theorem State.tagFreed_thr {s : State} {c t : Nat} (d : Nat) (hst : (s.thr c t).st ≠ .waitRead) : (s.tagFreed d).thr c t = s.thr c t :=
  thr_wakeIf _ _ _ _ _ _ (decide_eq_false fun hwaits => hst hwaits.1)

/-- One write of a READY thread is acknowledged. -/
theorem State.writeDone_thr {s : State} {r : Req} (hst : (s.thr r.core r.ctx).st = .ready) (hinst : (s.thr r.core r.ctx).inst = r.inst) :
    (s.writeDone r).thr r.core r.ctx = { s.thr r.core r.ctx with writes := (s.thr r.core r.ctx).writes - 1 } := by
  have hsame : s.sameThread r = true := by simp [State.sameThread, hst, hinst]
  rw [State.writeDone, if_pos hsame, State.settle_ready (by rw [thr_modThr]; exact hst), thr_modThr]

/-- Settles O17: a marked context is freed, a line that is there is written, and an acknowledgement takes one write off. -/
theorem tierAccessesReturn : Obligations.TierAccessesReturn := by
  unfold Obligations.TierAccessesReturn
  intro c t i k r s
  refine ⟨fun hmarked hst hback => ?_, fun hmarked => ?_, ?_, fun hreq hkind hlines => ?_⟩
  · rw [exec_contextFree hmarked hst hback]
    refine ⟨_, rfl, ?_, ?_, fun j => ?_, ?_⟩
    · rw [State.endThread_thr]
    · rw [State.endThread_thr]
    · rw [State.endThread_thr]
      exact ite_self _
    · refine storedNone_of_still ((State.endThread_still ..).trans ?_)
      split
      · rw [State.bump_still]
      · rfl
  · change execContextFree c t s = _
    unfold execContextFree
    simp only [hmarked]
    exact if_pos rfl
  · intro s' hreq hkind hk hnew d n ds hdata
    rw [exec_readDataReturn hreq hkind hk hnew hdata]
    have hdelivered (u : State) (hu : u.stores = (s'.lineDelivered r k).stores) :
        if s'.takesData r = true then stored s u r.core d.1 (ds.map (·.1)) else storedNone s u := by
      rw [State.lineDelivered] at hu
      split <;> rename_i htakes
      · rw [if_pos htakes, State.deliver_stores] at hu
        exact stored_of_stores (s.reach_stores i) hu
      · rw [if_neg htakes] at hu
        exact storedNone_of_stores (hu.trans (s.reach_stores i))
    split <;> rename_i hlast <;> rw [Req.allWritten_lineWritten] at hlast
    · refine ⟨_, rfl, hdelivered _ (State.rdaEnd_stores ..), ?_⟩
      rw [if_pos hlast, State.rdaEnd_req]
    · refine ⟨_, rfl, hdelivered _ (State.setReq_stores ..), ?_⟩
      rw [if_neg hlast]
      exact ⟨_, (req_setReq ..).trans (if_pos rfl), (Tab.get_set ..).trans (if_pos rfl)⟩
  · rw [exec_writeAck hreq hkind hlines]
    refine ⟨_, rfl, ?_, storedNone_of_stores ?_, fun hinst hst => ?_⟩
    · rw [State.req_of_still ((State.tagFreed_still ..).trans (State.writeDone_still ..)), req_setReq, if_pos rfl]
    · rw [State.stores_of_still ((State.tagFreed_still ..).trans (State.writeDone_still ..)), State.setReq_stores, State.reach_stores]
    · have hthr : ((s.reach i).setReq i none).thr r.core r.ctx = s.thr r.core r.ctx := by rw [State.setReq_thr, State.reach_thr]
      have hdone := State.writeDone_thr (s := (s.reach i).setReq i none) (r := r) (by rw [hthr, hst]) (by rw [hthr, hinst])
      rw [State.tagFreed_thr _ (by rw [hdone, hthr]; simp [hst]), hdone, hthr]

end Sys2Proof.Machine
end

section
/-! SUPPORT. Remote accesses at their target, and their answers (R60 to R62, R92); O18. -/

namespace Sys2Proof.Machine

theorem remote_eq (a : Word) : remote a = (a.toNat / 2 ^ 22 % 256, a.toNat % 2 ^ 22) := by
  simp [remote, fld, BitVec.extractLsb'_toNat, Nat.shiftRight_eq_div_pow]

/-! ### At the target -/

theorem setReq_reg (s : State) (i a : Nat) (q : Option Req) : (s.setReq i q).reg a = s.reg a := rfl

/-- A request that its target has answered. -/
def Req.answer (r : Req) (v : Word) (code : Nat) : Req := { r with answered := true, b := v, code := code }

theorem exec_remoteAccessAtTarget {s : State} {i : Nat} {r : Req} {tc : Nat} (hreq : s.req i = some r) (hremote : isRemote r.kind = true)
    (htc : (remote r.addr).1 = tc) (hnew : r.answered = false) (hahead : s.remoteAhead i r = false)
    (henabled : Config.coreEnabled tc = true) (howner : s.coreOwner tc = some r.part) (hready : s.coreReady tc = true) :
    exec (.remoteAccessAtTarget i) s =
      .next ((s.atTarget r).1.setReq i (some (r.answer (s.atTarget r).2.1 (s.atTarget r).2.2))) := by
  subst htc
  change execRemoteAccessAtTarget i s = _
  unfold execRemoteAccessAtTarget
  simp only [hreq]
  rw [if_neg (by simp [hremote, hnew, hahead]), if_neg (by simp [henabled]), if_neg (not_not.2 howner), if_neg (by simp [hready])]
  rfl

theorem exec_remoteAccessAtTarget_foreign {s : State} {i : Nat} {r : Req} {tc : Nat} (hreq : s.req i = some r)
    (hremote : isRemote r.kind = true) (htc : (remote r.addr).1 = tc) (hnew : r.answered = false) (hahead : s.remoteAhead i r = false)
    (henabled : Config.coreEnabled tc = true) (howner : s.coreOwner tc ≠ some r.part) :
    exec (.remoteAccessAtTarget i) s = .next ((s.bump (coreP tc + 0xC0) 1).setReq i (some (r.answer r.b 0x0283))) := by
  subst htc
  change execRemoteAccessAtTarget i s = _
  unfold execRemoteAccessAtTarget
  simp only [hreq]
  rw [if_neg (by simp [hremote, hnew, hahead]), if_neg (by simp [henabled]), if_pos howner]
  rfl

section
variable {s : State} {r : Req} {tc a : Nat} (hat : remote r.addr = (tc, a))
include hat

theorem State.atTarget_store (hkind : r.kind = .rstore) (hcode : 8192 ≤ r.ctx ∨ s.inCode tc a r.size = false) :
    s.atTarget r = (s.writeScr tc a (leBytes r.size r.a.toNat), 0, 0) := by
  simp only [State.atTarget, hkind, hat]
  refine if_neg ?_
  rintro ⟨hctx, hin⟩
  rcases hcode with hcode | hcode
  · omega
  · rw [hcode] at hin
    cases hin

theorem State.atTarget_load (hkind : r.kind = .rload) (hclean : clean s tc a r.size) :
    s.atTarget r = (s.bump (coreP tc + 0x98) 0, BitVec.ofNat 64 (Mem.le (s.core tc).scratch a r.size), 0) := by
  simp only [clean] at hclean
  simp [State.atTarget, hkind, hat, hclean, State.scrLe]

theorem State.atTarget_atom (hkind : r.kind = .ratom) (hsize : r.size = 8) (hcode : 8192 ≤ r.ctx ∨ s.inCode tc a r.size = false)
    (hclean : clean s tc a r.size) {old : Word} (hold : BitVec.ofNat 64 (Mem.le (s.core tc).scratch a r.size) = old) :
    (s.atTarget r).2 = (old, 0) ∧ match atomNew r.op old r.a r.b with
      | some w => stored s (s.atTarget r).1 tc a (leBytes 8 w.toNat)
      | none => storedNone s (s.atTarget r).1 := by
  have hopen : ¬(r.ctx < 8192 ∧ s.inCode tc a 8 = true) := by
    rintro ⟨hctx, hin⟩
    rcases hcode with hcode | hcode
    · omega
    · rw [hsize, hin] at hcode
      cases hcode
  rw [clean, hsize] at hclean
  rw [hsize] at hold
  cases hnew : atomNew r.op old r.a r.b with
  | some w =>
    have hdone : s.atTarget r = ((s.bump (coreP tc + 0x98) 0).writeScr tc a (leBytes 8 w.toNat), old, 0) := by
      simp [State.atTarget, hkind, hat, hopen, hsize, hclean, State.scrLe, hold, hnew]
    rw [hdone]
    exact ⟨rfl, stored_of_stores (s.bump_stores ..) rfl⟩
  | none =>
    have hdone : s.atTarget r = (s.bump (coreP tc + 0x98) 0, old, 0) := by
      simp [State.atTarget, hkind, hat, hopen, hsize, hclean, State.scrLe, hold, hnew]
    rw [hdone]
    exact ⟨rfl, storedNone_of_stores (s.bump_stores ..)⟩

end

/-! ### At the issuer -/

/-- A thread whose access faults stops. -/
theorem State.faultWith_faulted (s : State) {c t : Nat} (ht : t < 8192) (held : Option Nat) (ord code : Nat) (pc : BitVec 16)
    (addr : Word) : ((s.faultWith c t held ord code pc addr).thr c t).st = .faulted := by
  have hstopped := s.stopThread_thr c t t
  rw [if_pos rfl] at hstopped
  rw [State.faultWith, if_neg (by simp [isHart, ht])]
  cases held with
  | some h =>
    exact congrArg Thread.st ((thr_modCore (s.stopThread c t) _ _ _ _ rfl).trans hstopped)
  | none =>
    obtain ⟨m, hm⟩ := State.groupFault_thr (s.stopThread c t) c (s.thr c t).group t code pc addr t (by rw [hstopped]; simp)
    exact congrArg Thread.st (hm.trans (by rw [hstopped]))

/-- The value that an answer brings to RD. -/
def Req.value (r : Req) : Word := if r.kind = .rload then loadExt r.sx r.size r.b.toNat else r.b

section
variable {s : State} {i : Nat} {r : Req} (hreq : s.req i = some r) (hanswered : r.answered = true) (hsame : s.sameThread r = true)
include hreq hanswered hsame

theorem exec_remoteResponse_value (hmarked : (s.thr r.core r.ctx).marked = false) (hkind : r.kind = .rload ∨ r.kind = .ratom)
    (hcode : r.code = 0) :
    exec (.remoteResponse i) s = .next ((s.setReq i none).modThr r.core r.ctx (fun x => (x.setRn r.rd r.value).complete)) := by
  change execRemoteResponse i s = _
  unfold execRemoteResponse
  simp only [hreq]
  rcases hkind with hkind | hkind
  · simp [hkind, hanswered, hsame, hmarked, hcode, Req.value]
  · simp [hkind, hanswered, hsame, hmarked, hcode, Req.value]

theorem exec_remoteResponse_done (hkind : r.kind = .rstore) (hcode : r.code = 0) :
    exec (.remoteResponse i) s = .next ((s.setReq i none).writeDone r) := by
  change execRemoteResponse i s = _
  unfold execRemoteResponse
  simp only [hreq]
  simp [hkind, hanswered, hsame, hcode]

theorem exec_remoteResponse_fault (hmarked : (s.thr r.core r.ctx).marked = false)
    (hkind : r.kind = .rload ∨ r.kind = .rstore ∨ r.kind = .ratom) (hst : (s.thr r.core r.ctx).st ≠ .faulted) (hcode : r.code ≠ 0) :
    ∃ (v : State) (held : Option Nat) (ord : Nat), v.still = (s.setReq i none).still ∧
      exec (.remoteResponse i) s = .next (v.faultWith r.core r.ctx held ord r.code r.pc r.addr) := by
  change ∃ (v : State) (held : Option Nat) (ord : Nat), _ ∧ execRemoteResponse i s = _
  unfold execRemoteResponse
  simp only [hreq]
  rcases hkind with hkind | hkind | hkind
  · refine ⟨s.setReq i none, if (s.thr r.core r.ctx).spec then some (s.thr r.core r.ctx).hop else none, 2 * i + 1, rfl, ?_⟩
    simp [hkind, hanswered, hsame, hmarked, hcode]
  · refine ⟨(s.setReq i none).modThr r.core r.ctx (fun x => { x with writes := x.writes - 1 }), none, 0, State.modThr_still .., ?_⟩
    simp [hkind, hanswered, hsame, hmarked, hst, hcode]
  · refine ⟨s.setReq i none, if (s.thr r.core r.ctx).spec then some (s.thr r.core r.ctx).hop else none, 2 * i + 1, rfl, ?_⟩
    simp [hkind, hanswered, hsame, hmarked, hcode]

end

/-- Settles O18: at the target the access is performed or refused, and its answer completes the instruction or faults it. -/
theorem remoteAccesses : Obligations.RemoteAccesses := by
  unfold Obligations.RemoteAccesses
  intro i r s hreq hkind tc a old x
  have hat : remote r.addr = (tc, a) := remote_eq r.addr
  have htc : (remote r.addr).1 = tc := congrArg Prod.fst hat
  have hremote : isRemote r.kind = true := by rcases hkind with hkind | hkind | hkind <;> rw [hkind] <;> rfl
  have hanswer (v : State) (w : Word) (code : Nat) : (v.setReq i (some (r.answer w code))).req i = some (r.answer w code) :=
    (req_setReq ..).trans (if_pos rfl)
  refine ⟨fun hnew hahead henabled => ⟨fun howner hready hcode _ hclean hsize => ?_, fun howner => ?_⟩,
    fun hanswered hsame hmarked hst => ?_⟩
  · rw [exec_remoteAccessAtTarget hreq hremote htc hnew hahead henabled howner hready]
    rcases hkind with hkind | hkind | hkind
    · rw [State.atTarget_load hat hkind hclean]
      refine ⟨_, rfl, ⟨_, hanswer .., rfl, rfl, fun _ => rfl⟩, fun _ => storedNone_of_stores ?_, fun h => ?_, fun h => ?_⟩
      · rw [State.setReq_stores, State.bump_stores]
      · rw [hkind] at h
        cases h
      · rw [hkind] at h
        cases h
    · rw [State.atTarget_store hat hkind hcode]
      refine ⟨_, rfl, ⟨_, hanswer .., rfl, rfl, fun h => absurd hkind h⟩, fun h => ?_, fun _ => stored_of_stores (w := s) rfl ?_, fun h => ?_⟩
      · rw [hkind] at h
        cases h
      · rw [State.setReq_stores]
      · rw [hkind] at h
        cases h
    · obtain ⟨hanswered, hstored⟩ := State.atTarget_atom hat hkind (hsize hkind) hcode hclean (old := BitVec.ofNat 64 old) rfl
      rw [hanswered]
      generalize (s.atTarget r).1 = v at hstored ⊢
      refine ⟨_, rfl, ⟨_, hanswer .., rfl, rfl, fun _ => rfl⟩, fun h => ?_, fun h => ?_, fun _ => ?_⟩
      · rw [hkind] at h
        cases h
      · rw [hkind] at h
        cases h
      · exact hstored
  · rw [exec_remoteAccessAtTarget_foreign hreq hremote htc hnew hahead henabled howner]
    refine ⟨_, rfl, ⟨_, hanswer .., rfl, rfl⟩, storedNone_of_stores ?_, ?_⟩
    · rw [State.setReq_stores, State.bump_stores]
    · rw [setReq_reg, toNat_bump]
  · by_cases hcode : r.code = 0
    · by_cases hstore : r.kind = .rstore
      · rw [exec_remoteResponse_done hreq hanswered hsame hstore hcode]
        refine ⟨_, rfl, ?_, storedNone_of_stores ?_, fun _ h => absurd hstore h, fun _ _ hready => ?_, fun h => absurd hcode h⟩
        · rw [State.req_of_still (State.writeDone_still ..), req_setReq, if_pos rfl]
        · rw [State.stores_of_still (State.writeDone_still ..), State.setReq_stores]
        · have hinst : x.inst = r.inst := by
            simp only [State.sameThread, Bool.and_eq_true, decide_eq_true_eq] at hsame
            exact hsame.1
          rw [State.writeDone_thr (by rw [State.setReq_thr]; exact hready) (by rw [State.setReq_thr]; exact hinst), State.setReq_thr]
      · have hvalue : r.kind = .rload ∨ r.kind = .ratom := by
          rcases hkind with hkind | hkind | hkind
          · exact .inl hkind
          · exact absurd hkind hstore
          · exact .inr hkind
        rw [exec_remoteResponse_value hreq hanswered hsame hmarked hvalue hcode]
        refine ⟨_, rfl, ?_, storedNone_of_stores ?_, fun _ _ => ⟨?_, ?_, fun j => ?_⟩, fun _ h => absurd h hstore, fun h => absurd hcode h⟩
        · rw [req_modThr, req_setReq, if_pos rfl]
        · rw [State.stores_of_still (State.modThr_still ..), State.setReq_stores]
        · rw [thr_modThr, Thread.complete]
        · rw [thr_modThr, Thread.complete, State.setReq_thr, Thread.setRn, pc_setR]
        · rw [thr_modThr, State.setReq_thr, Thread.setRn]
          exact setR_r ..
    · obtain ⟨v, held, ord, hv, hexec⟩ := exec_remoteResponse_fault hreq hanswered hsame hmarked hkind hst hcode
      rw [hexec]
      refine ⟨_, rfl, ?_, ?_, fun h => absurd h hcode, fun h => absurd h hcode, fun _ hctx => State.faultWith_faulted _ hctx ..⟩
      · rw [State.req_of_still ((State.faultWith_still ..).trans hv), req_setReq, if_pos rfl]
      · refine storedNone_of_stores ?_
        rw [State.stores_of_still ((State.faultWith_still ..).trans hv), State.setReq_stores]

end Sys2Proof.Machine
end

section
/-! SUPPORT. Starts and stops of harts (R52); O19. -/

namespace Sys2Proof.Machine

/-- In a fold over a list that holds `h` once, the step of `h` makes `Q` of `P`, and the other steps keep both. -/
theorem foldl_at {σ : Type} {step : σ → Nat → σ} {P Q : σ → Prop} {h : Nat} {l : List Nat} (hmem : h ∈ l) (hnodup : l.Nodup)
    (hP : ∀ s k, k ∈ l → k ≠ h → P s → P (step s k)) (hstep : ∀ s, P s → Q (step s h))
    (hQ : ∀ s k, k ∈ l → k ≠ h → Q s → Q (step s k)) {s : σ} (hs : P s) : Q (l.foldl step s) := by
  obtain ⟨before, after, rfl⟩ := List.append_of_mem hmem
  obtain ⟨hother, -⟩ := List.nodup_cons.1 (List.nodup_middle.1 hnodup)
  rw [List.mem_append, not_or] at hother
  rw [List.foldl_append, List.foldl_cons]
  refine List.foldlRecOn (motive := Q) after step (hstep _ (List.foldlRecOn (motive := P) before step hs ?_)) ?_
  · exact fun s hs k hk => hP s k (by simp [hk]) (fun hkh => hother.1 (hkh ▸ hk)) hs
  · exact fun s hs k hk => hQ s k (by simp [hk]) (fun hkh => hother.2 (hkh ▸ hk)) hs

/-! ### CORE_HART_CTRL -/

/-- RUN and HALTED of a hart that starts. -/
theorem State.startHart_ctrl (s : State) (c h : Nat) {i : Nat} (hi : i < 64) :
    ((s.startHart c h).reg (coreP c + 0x48)).getLsbD i =
      if i = 8 + h then false else if i = h then true else (s.reg (coreP c + 0x48)).getLsbD i := by
  rw [State.startHart, reg_modThr, reg_modCore]
  have hrun := State.setField_bit s (coreP c + 0x48) h true hi
  exact (State.setField_bit _ _ _ false hi).trans (congrArg (fun b => if i = 8 + h then false else b) hrun)

theorem State.startHart_reg (s : State) (c h : Nat) {a : Nat} (ha : a ≠ coreP c + 0x48) : (s.startHart c h).reg a = s.reg a := by
  rw [State.startHart, reg_modThr, reg_modCore, State.setField, State.setReg_reg, if_neg ha, State.setField, State.setReg_reg, if_neg ha]

/-- A started hart is at CORE_HART_ENTRY. -/
theorem State.startHart_thr_self (s : State) (c h : Nat) :
    (s.startHart c h).thr c (8192 + h) = { ({} : Thread) with
      inst := (s.thr c (8192 + h)).inst + 1, pc := (s.reg (coreP c + 0x40)).extractLsb' 32 16, st := .ready } := by
  rw [State.startHart, thr_modThr, thr_modCore _ _ _ _ _ rfl, State.setField_thr, State.setField_thr]

theorem State.startHart_thr_other (s : State) (c h d n : Nat) (hn : n ≠ 8192 + h) : (s.startHart c h).thr d n = s.thr d n := by
  rw [State.startHart, State.modThr, thr_setThr, if_neg (fun h => hn h.2), thr_modCore _ _ _ _ _ rfl, State.setField_thr,
    State.setField_thr]

/-- The step of hart `h` in a write of `v` to CORE_HART_CTRL. -/
def State.hartRun (c : Nat) (v : BitVec 32) (s : State) (h : Nat) : State :=
  if v.getLsbD h && !(s.reg (coreP c + 0x48)).getLsbD h then s.startHart c h
  else if !v.getLsbD h && (s.reg (coreP c + 0x48)).getLsbD h then s.haltHart c h
  else s

theorem State.hartRun_bit (c : Nat) (v : BitVec 32) (s : State) {k i : Nat} (hi : i < 64) (hk : i ≠ k) (hk' : i ≠ 8 + k) :
    ((s.hartRun c v k).reg (coreP c + 0x48)).getLsbD i = (s.reg (coreP c + 0x48)).getLsbD i := by
  unfold State.hartRun
  split
  · rw [State.startHart_ctrl _ _ _ hi, if_neg hk', if_neg hk]
  · split
    · rw [State.haltHart_ctrl _ _ _ hi, if_neg hk', if_neg hk]
    · rfl

theorem State.hartRun_reg (c : Nat) (v : BitVec 32) (s : State) (k : Nat) {a : Nat} (ha : a ≠ coreP c + 0x48) :
    (s.hartRun c v k).reg a = s.reg a := by
  unfold State.hartRun
  split
  · exact State.startHart_reg _ _ _ ha
  · split
    · exact State.haltHart_reg _ _ _ ha
    · rfl

theorem State.hartRun_thr (c : Nat) (v : BitVec 32) (s : State) {k n : Nat} (hn : n ≠ 8192 + k) (hst : (s.thr c n).st ≠ .waitUnit) :
    (s.hartRun c v k).thr c n = s.thr c n := by
  unfold State.hartRun
  split
  · exact State.startHart_thr_other _ _ _ _ _ hn
  · split
    · exact State.haltHart_thr_other _ _ _ _ _ hn hst
    · rfl

/-- The state at which a write of CORE_HART_CTRL starts and stops harts: its HART_FAULT bits are cleared. -/
def State.hartFaultsCleared (s : State) (c : Nat) (v : BitVec 32) : State :=
  s.setField (coreP c + 0x48) 16 4 (fld (s.reg (coreP c + 0x48)) 16 4 &&& (15 - fld v 16 4))

theorem testBit_fld {m : Nat} (w : BitVec m) (lo n i : Nat) (hi : i < n) : (fld w lo n).testBit i = w.getLsbD (lo + i) := by
  rw [fld, ← BitVec.getLsbD, BitVec.getLsbD_extractLsb']
  simp [hi]

theorem State.hartFaultsCleared_bit (s : State) (c : Nat) (v : BitVec 32) {i : Nat} (hi : i < 64) :
    ((s.hartFaultsCleared c v).reg (coreP c + 0x48)).getLsbD i = if 16 ≤ i ∧ i < 20
      then (s.reg (coreP c + 0x48)).getLsbD i && !v.getLsbD i else (s.reg (coreP c + 0x48)).getLsbD i := by
  rw [State.hartFaultsCleared, State.setField, State.setReg_reg_same, getLsbD_putFld _ _ _ _ _ hi]
  split
  · rename_i hfault
    have hlt : fld v 16 4 < 2 ^ 4 := (v.extractLsb' 16 4).isLt
    have hsub : 15 - fld v 16 4 = 2 ^ 4 - (fld v 16 4 + 1) := by omega
    have hat : 16 + (i - 16) = i := by omega
    have hdec : i - 16 < 4 := by omega
    rw [Nat.testBit_land, hsub, Nat.testBit_two_pow_sub_succ hlt, testBit_fld _ _ _ _ hdec, testBit_fld _ _ _ _ hdec, hat]
    simp [hdec]
  · rfl

/-- The state after harts have started and stopped. -/
def State.hartsRun (c : Nat) (v : BitVec 32) (s : State) : State := (List.range 4).foldl (State.hartRun c v) s

theorem exec_hartRunWrite {f : Fn} {c : CoreId} {s : State} (hsees : s.seesPage f ⟨.core, c, coreP c⟩ = true) (v : BitVec 32) :
    exec (.hartRunWrite f c v) s = .next (((s.access f).hartFaultsCleared c v).hartsRun c v) := by
  have hsees' : (s.access f).seesPage f ⟨.core, c, coreP c⟩ = true := hsees
  change execHartRunWrite f c v s = _
  unfold execHartRunWrite
  dsimp only
  rw [if_neg (by simp [hsees'])]
  rfl

section
variable (c : Nat) (v : BitVec 32) (s : State)

theorem State.hartsRun_bit {i : Nat} (hi : 16 ≤ i) (hi' : i < 64) :
    ((s.hartsRun c v).reg (coreP c + 0x48)).getLsbD i = (s.reg (coreP c + 0x48)).getLsbD i := by
  refine List.foldlRecOn (motive := fun u : State => (u.reg (coreP c + 0x48)).getLsbD i = (s.reg (coreP c + 0x48)).getLsbD i) _ _ rfl ?_
  intro u hu k hk
  have := List.mem_range.1 hk
  rw [State.hartRun_bit c v u hi' (by omega) (by omega), hu]

/-- Hart `h` has started at `entry`. -/
def State.hartStarted (u : State) (c h : Nat) (entry : BitVec 16) : Prop :=
  (∃ n, u.thr c (8192 + h) = { ({} : Thread) with inst := n, pc := entry, st := .ready }) ∧
    (u.reg (coreP c + 0x48)).getLsbD h = true ∧ (u.reg (coreP c + 0x48)).getLsbD (8 + h) = false

/-- Hart `h` has halted. -/
def State.hartHalted (u : State) (c h : Nat) : Prop :=
  (u.thr c (8192 + h)).st = .free ∧
    (u.reg (coreP c + 0x48)).getLsbD h = false ∧ (u.reg (coreP c + 0x48)).getLsbD (8 + h) = true

/-- A halted hart whose RUN bit is written starts. -/
theorem State.hartsRun_starts {h : Nat} (hh : h < 4) (hv : v.getLsbD h = true)
    (hrun : (s.reg (coreP c + 0x48)).getLsbD h = false) :
    (s.hartsRun c v).hartStarted c h ((s.reg (coreP c + 0x40)).extractLsb' 32 16) := by
  refine foldl_at (h := h) (step := State.hartRun c v)
    (P := fun u : State => (u.reg (coreP c + 0x48)).getLsbD h = false ∧ u.reg (coreP c + 0x40) = s.reg (coreP c + 0x40))
    (Q := fun u : State => u.hartStarted c h ((s.reg (coreP c + 0x40)).extractLsb' 32 16))
    (List.mem_range.2 hh) List.nodup_range ?_ ?_ ?_ ⟨hrun, rfl⟩
  · rintro u k hk hkh ⟨hbit, hentry⟩
    have := List.mem_range.1 hk
    exact ⟨by rw [State.hartRun_bit c v u (by omega) (by omega) (by omega), hbit], by rw [State.hartRun_reg c v u k (by omega), hentry]⟩
  · rintro u ⟨hbit, hentry⟩
    rw [State.hartRun, if_pos (by simp [hv, hbit])]
    refine ⟨⟨_, by rw [State.startHart_thr_self, hentry]⟩, ?_, ?_⟩
    · rw [State.startHart_ctrl _ _ _ (by omega), if_neg (by omega), if_pos rfl]
    · rw [State.startHart_ctrl _ _ _ (by omega), if_pos rfl]
  · rintro u k hk hkh ⟨⟨n, hthr⟩, hbit, hbit'⟩
    have := List.mem_range.1 hk
    refine ⟨⟨n, ?_⟩, ?_, ?_⟩
    · rw [State.hartRun_thr c v u (by omega) (by rw [hthr]; simp), hthr]
    · rw [State.hartRun_bit c v u (by omega) (by omega) (by omega), hbit]
    · rw [State.hartRun_bit c v u (by omega) (by omega) (by omega), hbit']

/-- A running hart whose RUN bit is cleared halts. -/
theorem State.hartsRun_halts {h : Nat} (hh : h < 4) (hv : v.getLsbD h = false)
    (hrun : (s.reg (coreP c + 0x48)).getLsbD h = true) :
    (s.hartsRun c v).hartHalted c h := by
  refine foldl_at (h := h) (step := State.hartRun c v) (P := fun u : State => (u.reg (coreP c + 0x48)).getLsbD h = true)
    (Q := fun u : State => u.hartHalted c h)
    (List.mem_range.2 hh) List.nodup_range ?_ ?_ ?_ hrun
  · intro u k hk hkh hbit
    have := List.mem_range.1 hk
    rw [State.hartRun_bit c v u (by omega) (by omega) (by omega), hbit]
  · intro u hbit
    rw [State.hartRun, if_neg (by simp [hv]), if_pos (by simp [hv, hbit])]
    refine ⟨by rw [State.haltHart_thr_self], ?_, ?_⟩
    · rw [State.haltHart_ctrl _ _ _ (by omega), if_neg (by omega), if_pos rfl]
    · rw [State.haltHart_ctrl _ _ _ (by omega), if_pos rfl]
  · rintro u k hk hkh ⟨hst, hbit, hbit'⟩
    have := List.mem_range.1 hk
    refine ⟨?_, ?_, ?_⟩
    · rw [State.hartRun_thr c v u (by omega) (by rw [hst]; decide), hst]
    · rw [State.hartRun_bit c v u (by omega) (by omega) (by omega), hbit]
    · rw [State.hartRun_bit c v u (by omega) (by omega) (by omega), hbit']

end

end Sys2Proof.Machine
end

section
/-! SUPPORT. Core resets (R75, R94, R134, R139, R185); O19. -/

namespace Sys2Proof.Machine

/-! ### Engines, groups, contexts and counters -/

theorem State.wakeIf_engines (s : State) (c d : Nat) (p : Thread → Bool) (f : Thread → Thread) :
    ((s.wakeIf c p f).core d).engines = (s.core d).engines := by
  have hengines := congrArg Core.engines (s.wakeIf_rest c d p f)
  exact hengines

theorem engines_modCore (s : State) (c d : Nat) (f : Core → Core) (h : (f (s.core c)).engines = (s.core c).engines) :
    ((s.modCore c f).core d).engines = (s.core d).engines := by
  rw [core_modCore]
  split
  · next hd => rw [hd, h]
  · rfl

theorem State.closeLists_engines (s : State) (c g d : Nat) : ((s.closeLists c g).core d).engines = (s.core d).engines :=
  foldl_unchanged (fun s : State => (s.core d).engines) (fun s _ => engines_modCore s c d _ rfl) _ s

theorem State.freeGroup_engines (s : State) (c g d : Nat) : ((s.freeGroup c g).core d).engines = (s.core d).engines :=
  (engines_modCore _ c d _ rfl).trans (s.closeLists_engines c g d)

/-- A freed group is not live, and no other group changes. -/
theorem State.freeGroup_grp (s : State) (c g h : Nat) :
    (s.freeGroup c g).grp c h = if h = g then { gen := (s.grp c g).gen } else s.grp c h := by
  unfold State.freeGroup
  extract_lets x unsealed rec_ s1
  have hclosed : s1.grp c h = s.grp c h := State.closeLists_grp ..
  rw [← hclosed, State.grp, core_modCore, if_pos rfl]
  exact Tab.get_set ..

/-- A group that a core reset frees. -/
def State.groupEnded (s : State) (c g : Nat) : State := (s.modGrp c g (fun x => { x with killed := true, hops := 0 })).freeGroup c g

theorem State.groupEnded_live (s : State) (c g h : Nat) :
    ((s.groupEnded c g).grp c h).live = if h = g then false else (s.grp c h).live := by
  rw [State.groupEnded, State.freeGroup_grp]
  split
  · rfl
  · rename_i hother
    rw [grp_modGrp, if_neg (fun hsame => hother hsame.2)]

theorem State.groupEnded_still (s : State) (c g : Nat) : (s.groupEnded c g).still = s.still :=
  (State.freeGroup_still ..).trans (State.modGrp_still ..)

theorem State.groupEnded_engines (s : State) (c g d : Nat) : ((s.groupEnded c g).core d).engines = (s.core d).engines := by
  rw [State.groupEnded, State.freeGroup_engines, State.modGrp, engines_modCore _ _ _ _ rfl]

/-- The state after a core reset has freed the groups. -/
def State.groupsEnded (s : State) (c : Nat) : State := (s.core c).liveGroups.foldl (fun s g => s.groupEnded c g) s

theorem State.groupsEnded_live (s : State) (c g : Nat) : ((s.groupsEnded c).grp c g).live = false := by
  have hfold (l : List Nat) (u : State) (hlive : g ∈ l ∨ (u.grp c g).live = false) :
      ((l.foldl (fun s g => s.groupEnded c g) u).grp c g).live = false := by
    induction l generalizing u with
    | nil => exact hlive.resolve_left List.not_mem_nil
    | cons k r ih =>
      refine ih _ ?_
      rw [State.groupEnded_live]
      by_cases hg : g = k
      · exact .inr (if_pos hg)
      · rw [if_neg hg]
        exact hlive.imp_left fun hmem => (List.mem_cons.1 hmem).resolve_left hg
  refine hfold _ _ ?_
  by_cases hkey : g ∈ (s.core c).groups.keys
  · cases hlive : (s.grp c g).live
    · exact .inr rfl
    · exact .inl (List.mem_filter.2 ⟨hkey, hlive⟩)
  · exact .inr (congrArg Group.live (Tab.get_of_not_mem hkey))

/-- Every listed context changed by `f`. -/
theorem Core.mapThr_st {k : Core} {f : Thread → Thread} (hf : ∀ x, (f x).st = .free) (t : Nat) : ((k.mapThr f).thr t).st = .free := by
  have hfold (l : List Nat) (u : Core) (hfree : t ∈ l ∨ (u.thr t).st = .free) :
      ((l.foldl (fun k t => k.setThr t (f (k.thr t))) u).thr t).st = .free := by
    induction l generalizing u with
    | nil => exact hfree.resolve_left List.not_mem_nil
    | cons j r ih =>
      have hset : (u.setThr j (f (u.thr j))).thr t = if t = j then f (u.thr j) else u.thr t := Tab.get_set ..
      refine ih _ ?_
      rw [hset]
      by_cases ht : t = j
      · exact .inr (by rw [if_pos ht, hf])
      · rw [if_neg ht]
        exact hfree.imp_left fun hmem => (List.mem_cons.1 hmem).resolve_left ht
  refine hfold _ _ ?_
  by_cases hkey : t ∈ k.threads.keys
  · exact .inl hkey
  · exact .inr (congrArg Thread.st (Tab.get_of_not_mem hkey))

theorem Core.mapThr_rest (k : Core) (f : Thread → Thread) : { k.mapThr f with threads := ⟨[]⟩ } = { k with threads := ⟨[]⟩ } :=
  foldl_unchanged (fun k : Core => { k with threads := ⟨[]⟩ }) (fun _ _ => by rfl) _ k

theorem State.zeroRegs_reg (s : State) (l : List Nat) (a : Nat) : (s.zeroRegs l).reg a = if a ∈ l then 0 else s.reg a := by
  unfold State.zeroRegs
  induction l generalizing s with
  | nil => rfl
  | cons b r ih =>
    rw [List.foldl_cons, ih, State.setReg_reg]
    by_cases ha : a = b
    · simp [ha]
    · simp [ha]

theorem State.zeroRegs_core (s : State) (l : List Nat) (d : Nat) : (s.zeroRegs l).core d = s.core d :=
  foldl_unchanged (fun s : State => s.core d) (fun _ _ => by rfl) l s
theorem State.zeroRegs_still (s : State) (l : List Nat) : (s.zeroRegs l).still = s.still :=
  foldl_unchanged State.still (fun _ _ => by rfl) l s

theorem State.modDk_core (s : State) (p d : Nat) (f : DeskPart → DeskPart) : (s.modDk p f).core d = s.core d := rfl

theorem State.releaseHandles_engines (s : State) (c h d : Nat) : ((s.releaseHandles c h).core d).engines = (s.core d).engines := by
  unfold State.releaseHandles
  dsimp only
  split
  · rw [State.modDk_core, engines_modCore _ _ _ _ rfl]
  · rw [engines_modCore _ _ _ _ rfl]

/-! ### Stopping a core (R50, R75) -/

/-- The state in which every context of the core is stopped. -/
def State.contextsStopped (s : State) (c : Nat) : State := s.modCore c (fun k => k.mapThr (fun x => { ({} : Thread) with inst := x.inst + 1 }))

theorem State.contextsStopped_idle (s : State) (c t : Nat) : ((s.contextsStopped c).thr c t).st = .free := by
  rw [State.contextsStopped, State.thr, core_modCore, if_pos rfl]
  exact Core.mapThr_st (fun _ => rfl) t

theorem State.contextsStopped_grp (s : State) (c d g : Nat) : (s.contextsStopped c).grp d g = s.grp d g := by
  have hgroups := congrArg Core.groups ((s.core c).mapThr_rest (fun x => { ({} : Thread) with inst := x.inst + 1 }))
  exact grp_modCore s c d g _ hgroups

theorem State.contextsStopped_still (s : State) (c : Nat) : (s.contextsStopped c).still = s.still := by
  have hscratch := congrArg Core.scratch ((s.core c).mapThr_rest (fun x => { ({} : Thread) with inst := x.inst + 1 }))
  exact State.modCore_still hscratch

theorem State.contextsStopped_engines (s : State) (c d : Nat) : ((s.contextsStopped c).core d).engines = (s.core d).engines := by
  have hengines := congrArg Core.engines ((s.core c).mapThr_rest (fun x => { ({} : Thread) with inst := x.inst + 1 }))
  exact engines_modCore s c d _ hengines

/-- A running descriptor that ends writes a completion record (R122). -/
def Running.records (r : Running) : Bool := dStream r.d.bytes && cwBit r.d.bytes 41

/-- No engine of the core runs a descriptor that writes a record when it ends. -/
def State.noRecords (s : State) (c : Nat) : Prop := ∀ e r, ((s.core c).eng e).run = some r → r.records = false

/-- Where a reset of core `c` in state `s` stands before its lists are dropped: its contexts and groups are stopped, its
counters are zero, and its scratch holds what it held but for completion records. -/
structure State.Stopped (s u : State) (c : Nat) : Prop where
  idle : ∀ t, (u.thr c t).st = .free
  noGroup : ∀ g, (u.grp c g).live = false
  counters : ∀ k, k < 10 → u.reg (coreP c + 0x80 + 8 * k) = 0
  mem : u.mem = s.mem
  quiet : s.noRecords c → u.noRecords c ∧ u.stores = s.stores

theorem State.stopCore_eq (s : State) (c : Nat) : s.stopCore c =
    ((((s.groupsEnded c).contextsStopped c).setField (coreP c + 0x48) 0 4 0).setField (coreP c + 0x48) 8 4 15) := rfl

/-- The state after the handles of the core's harts are released. -/
def State.handlesReleased (s : State) (c : Nat) : State := (List.range 4).foldl (fun s h => s.releaseHandles c h) s

theorem State.handlesReleased_thr (s : State) (c d t : Nat) : (s.handlesReleased c).thr d t = s.thr d t :=
  foldl_unchanged (fun s : State => s.thr d t) (fun s h => s.releaseHandles_thr c h d t) _ s
theorem State.handlesReleased_grp (s : State) (c d g : Nat) : (s.handlesReleased c).grp d g = s.grp d g :=
  foldl_unchanged (fun s : State => s.grp d g) (fun s h => s.releaseHandles_grp c h d g) _ s
theorem State.handlesReleased_still (s : State) (c : Nat) : (s.handlesReleased c).still = s.still :=
  foldl_unchanged State.still (fun s h => s.releaseHandles_still c h) _ s
theorem State.handlesReleased_engines (s : State) (c d : Nat) : ((s.handlesReleased c).core d).engines = (s.core d).engines :=
  foldl_unchanged (fun s : State => (s.core d).engines) (fun s h => s.releaseHandles_engines c h d) _ s

theorem State.groupsEnded_still (s : State) (c : Nat) : (s.groupsEnded c).still = s.still :=
  foldl_unchanged State.still (fun s g => s.groupEnded_still c g) _ s
theorem State.groupsEnded_engines (s : State) (c d : Nat) : ((s.groupsEnded c).core d).engines = (s.core d).engines :=
  foldl_unchanged (fun s : State => (s.core d).engines) (fun s g => s.groupEnded_engines c g d) _ s

theorem State.setField_core (s : State) (a lo n v d : Nat) : (s.setField a lo n v).core d = s.core d := rfl

theorem State.stopCore_still (s : State) (c : Nat) : (s.stopCore c).still = s.still := by
  rw [State.stopCore_eq, State.setField_still, State.setField_still, State.contextsStopped_still, State.groupsEnded_still]
theorem State.stopCore_engines (s : State) (c d : Nat) : ((s.stopCore c).core d).engines = (s.core d).engines := by
  rw [State.stopCore_eq, State.setField_core, State.setField_core, State.contextsStopped_engines, State.groupsEnded_engines]

theorem State.noRecords_congr {s u : State} {c : Nat} (h : (u.core c).engines = (s.core c).engines) (hs : s.noRecords c) :
    u.noRecords c := by
  intro e r hrun
  rw [Core.eng, h] at hrun
  exact hs e r hrun

/-- The first part of a core reset. -/
theorem State.stopped_of_stopCore (s : State) (c : Nat) :
    State.Stopped s (((s.stopCore c).handlesReleased c).zeroRegs (coreCounters c)) c := by
  have hstill : (((s.stopCore c).handlesReleased c).zeroRegs (coreCounters c)).still = s.still := by
    rw [State.zeroRegs_still, State.handlesReleased_still, State.stopCore_still]
  refine ⟨fun t => ?_, fun g => ?_, fun k hk => ?_, ?_, fun hquiet => ⟨State.noRecords_congr ?_ hquiet, State.stores_of_still hstill⟩⟩
  · rw [State.thr, State.zeroRegs_core, ← State.thr, State.handlesReleased_thr, State.stopCore_eq, State.setField_thr, State.setField_thr,
      State.contextsStopped_idle]
  · rw [State.grp, State.zeroRegs_core, ← State.grp, State.handlesReleased_grp, State.stopCore_eq, State.setField_grp,
      State.setField_grp, State.contextsStopped_grp, State.groupsEnded_live]
  · rw [State.zeroRegs_reg, if_pos]
    simp only [coreCounters, List.mem_append, List.mem_map, List.mem_range]
    exact .inl (.inl (.inl ⟨k, hk, by omega⟩))
  · exact (storedNone_of_still hstill).2
  · rw [State.zeroRegs_core, State.handlesReleased_engines, State.stopCore_engines]

/-! ### Aborting descriptors (R94) -/

section
variable {s u : State} {c : Nat} (h : State.Stopped s u c)
include h

/-- A change that reaches neither contexts, groups nor scratch and starts no engine. -/
theorem State.Stopped.modCore {f : Core → Core} (hthr : (f (u.core c)).threads = (u.core c).threads)
    (hgrp : (f (u.core c)).groups = (u.core c).groups) (hscr : (f (u.core c)).scratch = (u.core c).scratch)
    (hrun : ∀ e r, ((f (u.core c)).eng e).run = some r → ((u.core c).eng e).run = some r) : State.Stopped s (u.modCore c f) c := by
  refine ⟨fun t => ?_, fun g => ?_, fun k hk => ?_, h.mem, fun hquiet => ⟨fun e r hr => ?_, ?_⟩⟩
  · rw [thr_modCore _ _ _ _ _ hthr, h.idle]
  · rw [grp_modCore _ _ _ _ _ hgrp, h.noGroup]
  · rw [reg_modCore, h.counters k hk]
  · rw [core_modCore, if_pos rfl] at hr
    exact (h.quiet hquiet).1 e r (hrun e r hr)
  · rw [State.modCore_stores hscr, (h.quiet hquiet).2]

/-- A change of engine `e` that does not start it. -/
theorem State.Stopped.setEng (e : Nat) {x : Core → Engine} (hx : ∀ r, (x (u.core c)).run = some r → ((u.core c).eng e).run = some r) :
    State.Stopped s (u.modCore c (fun k => k.setEng e (x k))) c := by
  refine h.modCore rfl rfl rfl fun d r hr => ?_
  rw [Core.eng, Core.setEng, Tab.get_set] at hr
  split at hr
  · next hd => exact hd ▸ hx r hr
  · exact hr

theorem State.Stopped.wake {p : Thread → Bool} (hp : ∀ x, x.st = .free → p x = false) (f : Thread → Thread) :
    State.Stopped s (u.wakeIf c p f) c := by
  refine ⟨fun t => ?_, fun g => ?_, fun k hk => ?_, ?_, fun hquiet => ⟨State.noRecords_congr ?_ (h.quiet hquiet).1, ?_⟩⟩
  · rw [thr_wakeIf _ _ _ _ _ _ (hp _ (h.idle t)), h.idle]
  · rw [grp_wakeIf, h.noGroup]
  · rw [State.wakeIf_reg, h.counters k hk]
  · rw [mem_wakeIf, h.mem]
  · rw [State.wakeIf_engines]
  · rw [State.stores_of_still (State.wakeIf_still ..), (h.quiet hquiet).2]

/-- The counters of the ENGINES page lie apart from those of the CORE page. -/
theorem State.Stopped.bump {a : Nat} (ha : engP c ≤ a) (n : Nat) : State.Stopped s (u.bump a n) c := by
  refine ⟨h.idle, h.noGroup, fun k hk => ?_, h.mem, fun hquiet => ⟨(h.quiet hquiet).1, ?_⟩⟩
  · rw [State.bump_reg_other _ _ (by unfold engP at ha; omega), h.counters k hk]
  · rw [State.bump_stores, (h.quiet hquiet).2]

theorem State.Stopped.descStatus (e seq status : Nat) : State.Stopped s (u.descStatus c e seq status) c := by
  have hlogged := h.setEng e (x := fun k => { k.eng e with
    log := (k.eng e).log.map (fun p => if p.1 = seq then (seq, some status) else p) }) (fun _ hr => hr)
  unfold State.descStatus
  dsimp only
  refine State.Stopped.wake (State.Stopped.bump hlogged ?_ 1) (fun x hx => ?_) _
  · omega
  · split
    · exact decide_eq_false (by simp [hx])
    · rfl

theorem State.Stopped.queueFreed : State.Stopped s (u.queueFreed c) c :=
  h.wake (fun x hx => by simp [hx]) _

/-- A record reaches scratch, where the descriptor asks for one. -/
theorem State.Stopped.descRecord {r : Running} (hr : s.noRecords c → r.records = false) : State.Stopped s (u.descRecord c r) c := by
  unfold State.descRecord
  dsimp only
  split
  · rename_i hrecords
    refine ⟨fun t => ?_, fun g => ?_, fun k hk => ?_, h.mem, fun hquiet => ?_⟩
    · rw [thr_writeScr, h.idle]
    · rw [State.writeScr, grp_modCore _ _ _ _ _ rfl, h.noGroup]
    · rw [State.writeScr, reg_modCore, h.counters k hk]
    · have hquiet' := hr hquiet
      rw [Running.records, hrecords] at hquiet'
      cases hquiet'
  · exact h

end

/-- Every descriptor of an engine is dropped. -/
theorem State.Stopped.dropDescs {s u : State} {c : Nat} (h : State.Stopped s u c) (e status : Nat) :
    State.Stopped s (u.dropDescs c e status false (fun _ => true)) c := by
  unfold State.dropDescs
  extract_lets x gone s1 idle s2
  have h1 : State.Stopped s s1 c := h.setEng e (x := fun _ => { x with queue := x.queue.filter (fun _ => !true) }) (fun _ hr => hr)
  have hidle : State.Stopped s idle c := h1.setEng e (x := fun k => { k.eng e with run := none }) (fun r hr => nomatch hr)
  clear_value s1 idle
  have h2 : State.Stopped s s2 c := by
    simp only [s2]
    split
    · rename_i r hrun
      exact (hidle.descRecord fun hquiet => (h.quiet hquiet).1 e r hrun).descStatus ..
    · exact h1
  clear_value s2
  exact (List.foldlRecOn (motive := fun v => State.Stopped s v c) gone _ h2 (fun v hv d _ => hv.descStatus ..)).queueFreed

theorem State.Stopped.abortEngine {s u : State} {c : Nat} (h : State.Stopped s u c) (e : Nat) : State.Stopped s (u.abortEngine c e) c :=
  (h.dropDescs e 0x0207).setEng e (x := fun k => { k.eng e with query := none, lut := none, bitmap := none }) (fun _ hr => hr)

/-- The state of a core reset before its lists are dropped. -/
def State.coreAborted (s : State) (c : Nat) : State :=
  let u := ((s.stopCore c).handlesReleased c).zeroRegs (coreCounters c)
  (u.core c).engines.keys.foldl (fun s e => s.abortEngine c e) u

theorem State.coreAborted_stopped (s : State) (c : Nat) : State.Stopped s (s.coreAborted c) c :=
  List.foldlRecOn (motive := fun v => State.Stopped s v c) _ _ (s.stopped_of_stopCore c) (fun _ hv e _ => hv.abortEngine e)

/-- What a core reset drops last. -/
def Core.dropped (k : Core) : Core :=
  { k with lists := Tab.empty, held := [], faults := [], prefetch := [], sealed := Tab.empty, hartDown := [], resetting := true }

theorem State.resetCore_eq (s : State) (c : Nat) : s.resetCore c = (s.coreAborted c).modCore c Core.dropped := rfl

theorem State.resetCore_core (s : State) (c : Nat) : (s.resetCore c).core c = ((s.coreAborted c).core c).dropped := by
  rw [State.resetCore_eq, core_modCore, if_pos rfl]

theorem State.resetCore_stopped (s : State) (c : Nat) : State.Stopped s (s.resetCore c) c := by
  have hstopped := s.coreAborted_stopped c
  rw [State.resetCore_eq]
  generalize s.coreAborted c = u at hstopped ⊢
  exact hstopped.modCore rfl rfl rfl (fun _ _ hr => hr)

theorem exec_coreSoftReset {f : Fn} {c : CoreId} {s : State} (hsees : s.seesPage f ⟨.core, c, coreP c⟩ = true) :
    exec (.coreSoftReset f c) s = .next ((s.access f).resetCore c) := by
  have hsees' : (s.access f).seesPage f ⟨.core, c, coreP c⟩ = true := hsees
  change execCoreSoftReset f c s = _
  unfold execCoreSoftReset
  dsimp only
  rw [if_neg (by simp [hsees'])]

end Sys2Proof.Machine
end

section
/-! SUPPORT. What a read of the tiers leaves alone: the cores, and, where no piece is being zeroed, the tiers' memory (R219, R223,
R228, R229, R371); and the end of a core's zeroing (R63); O19. -/

namespace Sys2Proof.Machine

/-! ### Reads of the tiers -/

/-- The cores, the tiers' memory and the pieces that are being zeroed. -/
def State.cells (s : State) : Tab Core × Mem × Tab Bool := (s.cores, s.mem, s.zeroing)

/-- A fold of steps that carry a state beside something else and leave `g` of the state alone. -/
theorem foldl_fst_unchanged {σ α β γ : Type} (g : σ → γ) {f : σ × β → α → σ × β} (h : ∀ x y, g (f x y).1 = g x.1) (l : List α)
    (x : σ × β) : g (l.foldl f x).1 = g x.1 := foldl_unchanged (fun x => g x.1) h l x

@[simp] theorem State.free_cells (s : State) (n : Nat) : ({ s with free := n } : State).cells = s.cells := rfl
@[simp] theorem State.bump_cells (s : State) (a n : Nat) : (s.bump a n).cells = s.cells := rfl
@[simp] theorem State.setReg_cells (s : State) (a : Nat) (w : Word) : (s.setReg a w).cells = s.cells := rfl
@[simp] theorem State.modTp_cells (s : State) (p : Nat) (f : TierPart → TierPart) : (s.modTp p f).cells = s.cells := rfl
@[simp] theorem State.modNs_cells (s : State) (p : Nat) (f : Ns → Ns) : (s.modNs p f).cells = s.cells := rfl
@[simp] theorem State.meterAdd_cells (s : State) (p k n : Nat) : (s.meterAdd p k n).cells = s.cells := rfl
@[simp] theorem State.waitCycles_cells (s : State) (a : Nat) : (s.waitCycles a).cells = s.cells := rfl
@[simp] theorem State.reportBad_cells (s : State) (p : Option Nat) (tier inst piece cause line : Nat) :
    (s.reportBad p tier inst piece cause line).cells = s.cells := rfl
@[simp] theorem State.uncorr_cells (s : State) (i o : Nat) (scrub : Bool) : (s.uncorr i o scrub).cells = s.cells := by
  rw [State.uncorr, State.reportBad_cells, State.bump_cells]
@[simp] theorem State.fcRead_cells (s : State) (c n : Nat) : (s.fcRead c n).cells = s.cells := by
  rw [State.fcRead, State.bump_cells, State.bump_cells]
@[simp] theorem State.t2Seen_cells (s : State) (p : Nat) : (s.t2Seen p).cells = s.cells := rfl
@[simp] theorem State.poisonRead_cells (s : State) (p : Nat) : (s.poisonRead p).cells = s.cells := rfl

theorem State.countAccess_cells (s : State) (p : Nat) (a : Word) (n : Nat) : (s.countAccess p a n).cells = s.cells := by
  unfold State.countAccess
  split
  · rfl
  · exact foldl_unchanged State.cells (fun s j => by rfl) _ s

theorem State.meterRead_cells (s : State) (p : Nat) (a : Word) (n : Nat) : (s.meterRead p a n).cells = s.cells := by
  unfold State.meterRead
  split <;> rw [State.meterAdd_cells]

theorem State.mapLook_cells (s : State) (p lu : Nat) : (s.mapLook p lu).cells = s.cells := by
  unfold State.mapLook
  extract_lets n l s0 s1 counted s2
  have hfree : s0.cells = s.cells := rfl
  have hloaded : s1.cells = s.cells := by
    simp only [s1]
    split
    · split
      · rw [State.waitCycles_cells, hfree]
      · exact hfree
    · rfl
  have hcounted : s2.cells = s1.cells := rfl
  split
  · exact hloaded
  · rw [State.modNs_cells, hcounted, hloaded]

theorem State.flashRead_cells (s : State) (p cw : Nat) (q : CwOutcome) : (s.flashRead p cw q).cells = s.cells := by
  unfold State.flashRead
  extract_lets c retries s1 s2
  have hread : s1.cells = s.cells := by rw [State.bump_cells, State.fcRead_cells]
  have hmembers : s2.cells = s1.cells :=
    foldl_unchanged State.cells (fun s m => by simp only [apply_ite State.cells, State.fcRead_cells, ite_self]) _ s1
  clear_value s1 s2
  split
  · rw [State.bump_cells, State.free_cells, hread]
  · rw [State.modNs_cells, hread]
  · split
    · rw [State.modNs_cells, State.bump_cells, hmembers, hread]
    · rw [State.bump_cells, hmembers, hread]

theorem State.fetchUnit_cells (s : State) (p lu : Nat) : (s.fetchUnit p lu).1.cells = s.cells := by
  unfold State.fetchUnit
  split
  · rfl
  · dsimp only
    split
    · exact State.mapLook_cells ..
    · rw [State.flashRead_cells, State.free_cells, State.mapLook_cells]

theorem State.readUnit_cells (s : State) (p lu : Nat) : (s.readUnit p lu).1.cells = s.cells := by
  unfold State.readUnit
  dsimp only
  split
  · rfl
  · exact State.fetchUnit_cells ..

theorem State.readUnits_cells (s : State) (p : Nat) (a : Word) (n : Nat) : (s.readUnits p a n).1.cells = s.cells := by
  unfold State.readUnits
  split
  · rfl
  · refine (foldl_fst_unchanged State.cells (fun x u => ?_) _ _).trans rfl
    exact State.readUnit_cells ..

theorem State.reportLoc_cells (s : State) (p : Nat) (l : Option Loc) : (s.reportLoc p l).cells = s.cells := by
  unfold State.reportLoc
  split <;> rfl

theorem State.reportLine_cells (s : State) (p : Nat) (a : Word) (first : Bool) : (s.reportLine p a first).cells = s.cells := by
  unfold State.reportLine
  split
  · rfl
  · split
    · simp only [apply_ite State.cells, State.reportLoc_cells, ite_self]
    · exact State.reportLoc_cells ..

theorem State.cacheIn_cells (s : State) (p g : Nat) : (s.cacheIn p g).cells = s.cells := by
  unfold State.cacheIn
  extract_lets sizes v s1
  have hevicted : s1.cells = s.cells := by
    simp only [s1]
    split
    · rfl
    · refine (foldl_fst_unchanged State.cells (fun acc q => ?_) _ _).trans rfl
      dsimp only
      split
      · rw [State.modTp_cells]
      · rfl
  rw [State.modTp_cells, hevicted]

theorem State.translate_cells (s : State) (p g : Nat) : (s.translate p g).cells = s.cells := by
  unfold State.translate
  split
  · rfl
  · dsimp only
    split
    · rw [State.uncorr_cells, State.bump_cells]
    · rw [State.cacheIn_cells, State.bump_cells]

theorem State.translateAll_cells (s : State) (p : Nat) (a : Word) (n : Nat) : (s.translateAll p a n).cells = s.cells := by
  unfold State.translateAll
  split
  · rfl
  · exact foldl_unchanged State.cells (fun s j => State.translate_cells ..) _ s

theorem State.yieldAt_cells (s : State) (i o : Nat) : (s.yieldAt i o).cells = s.cells := by
  unfold State.yieldAt
  split
  · rfl
  · dsimp only
    split <;> rfl

theorem State.yieldLines_cells (s : State) (p : Nat) (a : Word) (n : Nat) : (s.yieldLines p a n).cells = s.cells := by
  refine foldl_unchanged State.cells (fun s l => ?_) _ s
  split
  · exact State.yieldAt_cells ..
  · rfl

theorem State.placeWaits_cells (s : State) (p t : Nat) (l : Option Loc) : (s.placeWaits p t l).cells = s.cells := by
  unfold State.placeWaits
  split <;> rfl

theorem State.blockWaits_cells (s : State) (p : Nat) (a : Word) (n : Nat) : (s.blockWaits p a n).cells = s.cells :=
  foldl_unchanged State.cells (fun s l => by simp only [apply_ite State.cells, State.placeWaits_cells, ite_self]) _ s

theorem State.readBy_cells (s : State) (p : Nat) (a : Word) (n : Nat) : (s.readBy p a n).1.cells = (s.awaitZero p a n).cells := by
  have hread : (s.readTo p a n).1.cells = (s.awaitZero p a n).cells := by
    rw [State.readTo, State.readUnits_cells, State.yieldLines_cells, State.translateAll_cells, State.blockWaits_cells]
  unfold State.readBy
  extract_lets t s0 r s1 lost bad
  have hcounted : s1.cells = (s.awaitZero p a n).cells := (State.countAccess_cells ..).trans hread
  split
  · rw [State.poisonRead_cells, ← hcounted]
    exact foldl_unchanged State.cells (fun s l => State.reportLine_cells ..) _ s1
  · exact hcounted

/-- A read by a block of the chip waits for the pieces that are being zeroed, and changes nothing else of cores and tiers. -/
theorem State.devRead_cells (s : State) (p : Nat) (a : Word) (n : Nat) : (s.devRead p a n).1.cells = (s.awaitZero p a n).cells :=
  (State.meterRead_cells ..).trans (State.readBy_cells ..)

theorem State.awaitZero_cores (s : State) (p : Nat) (a : Word) (n : Nat) : (s.awaitZero p a n).cores = s.cores := by
  refine foldl_unchanged State.cores (fun s l => ?_) _ s
  split
  · split <;> rfl
  · rfl

theorem State.awaitZero_idle {s : State} (h : ∀ i, s.zeroingPiece i = false) (p : Nat) (a : Word) (n : Nat) : s.awaitZero p a n = s := by
  refine List.foldlRecOn (motive := fun u => u = s) _ _ rfl fun u hu l _ => ?_
  subst hu
  split
  · rw [h, if_neg Bool.false_ne_true]
  · rfl

/-! ### The end of zeroing (R63) -/

theorem State.loadAdj_cores (s : State) (c p v : Nat) : (s.loadAdj c p v).cores = s.cores := by
  unfold State.loadAdj
  dsimp only
  split
  · rfl
  · exact (congrArg Prod.fst (State.devRead_cells ..)).trans (State.awaitZero_cores ..)

theorem State.loadAdj_cells {s : State} (h : ∀ i, s.zeroingPiece i = false) (c p v : Nat) : (s.loadAdj c p v).cells = s.cells := by
  unfold State.loadAdj
  dsimp only
  split
  · rfl
  · rw [State.setReg_cells, State.devRead_cells, State.awaitZero_idle h]

/-- An entry of a table whose listed entries are set anew, each to what `f` gives it. -/
theorem get_foldl_set {α : Type} [DecidableEq α] (d f : Nat → α) (l : List Nat) (t : Tab α) (i : Nat) :
    Tab.get d (l.foldl (fun t j => Tab.set d t j (f j)) t) i = if i ∈ l then f i else Tab.get d t i := by
  induction l generalizing t with
  | nil => rfl
  | cons j r ih =>
    rw [List.foldl_cons, ih, Tab.get_set]
    by_cases hi : i = j
    · simp [hi]
    · simp [hi]

theorem Core.zero_thr (k : Core) (t : Nat) : ∃ n, k.zero.thr t = { ({} : Thread) with inst := n } := by
  rw [Core.thr, Core.zero, get_foldl_set]
  split
  · exact ⟨_, rfl⟩
  · rename_i hkey
    exact ⟨0, Tab.get_of_not_mem hkey⟩

theorem Core.zero_grp (k : Core) (g : Nat) : (k.zero.grp g).live = false := by
  rw [Core.grp, Core.zero, get_foldl_set]
  split
  · rfl
  · rename_i hkey
    exact congrArg Group.live (Tab.get_of_not_mem hkey)

/-- The state in which the core's stores are zero. -/
def State.coreZeroed (s : State) (c : Nat) : State := s.modCore c (fun k => { k.zero with zeroing := false })

theorem State.coreZeroed_core (s : State) (c : Nat) : (s.coreZeroed c).core c = { (s.core c).zero with zeroing := false } := by
  rw [State.coreZeroed, core_modCore, if_pos rfl]

/-- The step of hart `h` at the end of zeroing: it starts where its RUN bit is set. -/
def State.hartResume (c : Nat) (s : State) (h : Nat) : State := if (s.reg (coreP c + 0x48)).getLsbD h then s.startHart c h else s

/-- The state after the harts whose RUN bits are set have started. -/
def State.hartsResumed (s : State) (c : Nat) : State := (List.range 4).foldl (State.hartResume c) s

theorem State.startHart_grp (s : State) (c h d g : Nat) : (s.startHart c h).grp d g = s.grp d g := by
  rw [State.startHart, grp_modThr, grp_modCore _ _ _ _ _ rfl, State.setField_grp, State.setField_grp]

theorem State.startHart_still (s : State) (c h : Nat) : (s.startHart c h).still = s.still := by
  rw [State.startHart, State.modThr_still, State.modCore_still rfl, State.setField_still, State.setField_still]

theorem State.startHart_zeroing (s : State) (c h : Nat) :
    ((s.startHart c h).core c).zeroing = (s.core c).zeroing ∧ (s.startHart c h).zeroing = s.zeroing := by
  have hcore := congrArg Core.zeroing (core_modThr
    (((s.setField (coreP c + 0x48) h 1 1).setField (coreP c + 0x48) (8 + h) 1 0).modCore c
      (fun k => { k with hartDown := k.hartDown.erase h }))
    c (8192 + h) c (fun x => { ({} : Thread) with inst := x.inst + 1, pc := (s.reg (coreP c + 0x40)).extractLsb' 32 16, st := .ready }))
  refine ⟨hcore.trans ?_, ?_⟩
  · simp only [core_modCore, if_true, State.setField_core]
  · rw [State.startHart, State.modThr, State.setThr_zeroing, State.modCore, State.setCore_zeroing, State.setField, State.setReg_zeroing,
      State.setField, State.setReg_zeroing]

/-- A property that starting a hart keeps. -/
theorem State.hartsResumed_induct {P : State → Prop} {s : State} {c : Nat} (hstart : ∀ u h, P u → P (u.startHart c h)) (hs : P s) :
    P (s.hartsResumed c) := by
  refine List.foldlRecOn (motive := P) _ _ hs fun u hu h _ => ?_
  unfold State.hartResume
  split
  · exact hstart u h hu
  · exact hu

/-- Each hart is ready or free after zeroing, as its RUN bit says. -/
theorem State.hartsResumed_st {s : State} {c h : Nat} (hh : h < 4) (hfree : (s.thr c (8192 + h)).st = .free) :
    ((s.hartsResumed c).thr c (8192 + h)).st = if (s.reg (coreP c + 0x48)).getLsbD h then .ready else .free := by
  refine foldl_at (h := h) (step := State.hartResume c)
    (P := fun u : State => (u.thr c (8192 + h)).st = .free ∧ (u.reg (coreP c + 0x48)).getLsbD h = (s.reg (coreP c + 0x48)).getLsbD h)
    (Q := fun u : State => (u.thr c (8192 + h)).st = if (s.reg (coreP c + 0x48)).getLsbD h then .ready else .free)
    (List.mem_range.2 hh) List.nodup_range ?_ ?_ ?_ ⟨hfree, rfl⟩
  · rintro u k hk hkh ⟨hst, hbit⟩
    have := List.mem_range.1 hk
    unfold State.hartResume
    split
    · rw [State.startHart_thr_other _ _ _ _ _ (by omega), State.startHart_ctrl _ _ _ (by omega), if_neg (by omega), if_neg (by omega)]
      exact ⟨hst, hbit⟩
    · exact ⟨hst, hbit⟩
  · rintro u ⟨hst, hbit⟩
    rw [State.hartResume, hbit]
    split
    · rw [State.startHart_thr_self]
    · exact hst
  · intro u k hk hkh hst
    unfold State.hartResume
    split
    · rw [State.startHart_thr_other _ _ _ _ _ (by omega), hst]
    · exact hst

/-- The Desk's reloads: the tombstone store, and ADJ_BASE of the four slots. -/
def State.adjLoaded (s : State) (c p : Nat) (tombs : List (Nat × Nat)) : State :=
  (List.range 4).foldl (fun s v => s.loadAdj c p v) (s.modCore c (fun k => { k with tombs := tombs }))

theorem State.adjLoaded_core (s : State) (c p : Nat) (tombs : List (Nat × Nat)) :
    (s.adjLoaded c p tombs).core c = { s.core c with tombs := tombs } := by
  have hcores : (s.adjLoaded c p tombs).cores = (s.modCore c (fun k => { k with tombs := tombs })).cores :=
    foldl_unchanged State.cores (fun u v => u.loadAdj_cores c p v) _ _
  rw [State.core, hcores, ← State.core, core_modCore, if_pos rfl]

theorem State.adjLoaded_mem {s : State} (h : ∀ i, s.zeroingPiece i = false) (c p : Nat) (tombs : List (Nat × Nat)) :
    (s.adjLoaded c p tombs).mem = s.mem := by
  have hpair : ((s.adjLoaded c p tombs).mem, (s.adjLoaded c p tombs).zeroing) = (s.mem, s.zeroing) := by
    refine List.foldlRecOn (motive := fun u : State => (u.mem, u.zeroing) = (s.mem, s.zeroing)) _ _ rfl fun u hu v _ => ?_
    obtain ⟨-, hzeroing⟩ := Prod.ext_iff.1 hu
    have hidle : ∀ i, u.zeroingPiece i = false := fun i => by
      rw [State.zeroingPiece, show u.zeroing = s.zeroing from hzeroing]
      exact h i
    exact (congrArg Prod.snd (State.loadAdj_cells hidle c p v)).trans hu
  exact (Prod.ext_iff.1 hpair).1

/-- The end of zeroing: zeros, harts that run again, and the Desk's reloads, which reach the tombstone store and registers alone. -/
theorem exec_coreZeroingDone {c : CoreId} {s : State} (hzeroing : (s.core c).zeroing = true) (hclocked : s.coreClocked c = true) :
    ∃ u tombs, exec (.coreZeroingDone c) s = .next u ∧ u.core c = { ((s.coreZeroed c).hartsResumed c).core c with tombs := tombs } ∧
      ((∀ i, s.zeroingPiece i = false) → u.mem = s.mem) := by
  have hidle (hzero : ∀ i, s.zeroingPiece i = false) :
      ((s.coreZeroed c).hartsResumed c).mem = s.mem ∧ ∀ i, ((s.coreZeroed c).hartsResumed c).zeroingPiece i = false := by
    refine State.hartsResumed_induct (P := fun u => u.mem = s.mem ∧ ∀ i, u.zeroingPiece i = false) (fun u h hu => ⟨?_, fun i => ?_⟩)
      ⟨rfl, hzero⟩
    · exact (storedNone_of_still (u.startHart_still c h)).2.trans hu.1
    · rw [State.zeroingPiece, (u.startHart_zeroing c h).2]
      exact hu.2 i
  have hw : (List.range 4).foldl (fun s h => if (s.reg (coreP c + 0x48)).getLsbD h then s.startHart c h else s)
      (s.modCore c (fun k => { k.zero with zeroing := false })) = (s.coreZeroed c).hartsResumed c := rfl
  change ∃ u tombs, execCoreZeroingDone c s = _ ∧ _
  unfold execCoreZeroingDone
  rw [if_neg (by simp [hzeroing, hclocked])]
  dsimp only
  rw [hw]
  generalize (s.coreZeroed c).hartsResumed c = w at hidle ⊢
  split
  · exact ⟨w, (w.core c).tombs, rfl, rfl, fun hzero => (hidle hzero).1⟩
  · rename_i p hp
    refine ⟨_, (s.dk p).tombs, rfl, ?_, fun hzero => ?_⟩
    · exact w.adjLoaded_core c p (s.dk p).tombs
    · exact (State.adjLoaded_mem (hidle hzero).2 c p (s.dk p).tombs).trans (hidle hzero).1

/-- A core after zeroing: its stores are zero, and its contexts hold nothing. -/
structure Core.Zeroed (k : Core) : Prop where
  zeroing : k.zeroing = false
  scratch : k.scratch = Tab.empty
  regs : ∀ t i, (k.thr t).r i = 0
  idle : ∀ t, t < 8192 → (k.thr t).st = .free
  noGroup : ∀ g, (k.grp g).live = false

theorem Core.zeroed_zero (k : Core) : Core.Zeroed { k.zero with zeroing := false } := by
  have hthr (t : Nat) : ∃ n, ({ k.zero with zeroing := false } : Core).thr t = { ({} : Thread) with inst := n } := k.zero_thr t
  refine ⟨rfl, rfl, fun t i => ?_, fun t _ => ?_, k.zero_grp⟩
  · obtain ⟨n, hn⟩ := hthr t
    rw [hn]
    exact ite_self _
  · obtain ⟨n, hn⟩ := hthr t
    rw [hn]

theorem State.startHart_zeroed {s : State} {c : Nat} (hs : (s.core c).Zeroed) (h : Nat) : ((s.startHart c h).core c).Zeroed := by
  refine ⟨(s.startHart_zeroing c h).1.trans hs.zeroing, ?_, fun t i => ?_, fun t ht => ?_, fun g => ?_⟩
  · exact (State.scratch_of_stores (State.stores_of_still (s.startHart_still c h)) c).trans hs.scratch
  · change ((s.startHart c h).thr c t).r i = 0
    by_cases ht : t = 8192 + h
    · rw [ht, State.startHart_thr_self]
      exact ite_self _
    · rw [State.startHart_thr_other _ _ _ _ _ ht]
      exact hs.regs t i
  · change ((s.startHart c h).thr c t).st = .free
    rw [State.startHart_thr_other _ _ _ _ _ (by omega)]
    exact hs.idle t ht
  · change ((s.startHart c h).grp c g).live = false
    rw [State.startHart_grp]
    exact hs.noGroup g

theorem State.hartsResumed_zeroed (s : State) (c : Nat) : (((s.coreZeroed c).hartsResumed c).core c).Zeroed :=
  State.hartsResumed_induct (P := fun u => (u.core c).Zeroed) (fun _ h hu => State.startHart_zeroed hu h)
    (by rw [State.coreZeroed_core]; exact Core.zeroed_zero _)

/-! ### The CORE page -/

theorem exec_coreResetReady (c : CoreId) (s : State) :
    exec (.coreResetReady c) s = .next (s.modCore c (fun k => { k with resetting := false })) := rfl

/-- Settles O19: harts one at a time, a reset by what each of its parts stops, and the end of zeroing. -/
theorem coreControl : Obligations.CoreControl := by
  unfold Obligations.CoreControl
  intro f c v s a
  refine ⟨fun hsees => ⟨?_, ?_⟩, ?_, fun hzeroing hclocked => ?_⟩
  · have hkept (h : Fin 4) : (((s.access f).hartFaultsCleared c v).reg (coreP c + 0x48)).getLsbD h.val = (s.reg a).getLsbD h.val := by
      have hh := h.isLt
      rw [State.hartFaultsCleared_bit _ _ _ (by omega), if_neg (by omega)]
      rfl
    have hentry : ((s.access f).hartFaultsCleared c v).reg (coreP c + 0x40) = s.reg (coreP c + 0x40) := by
      rw [State.hartFaultsCleared, State.setField, State.setReg_reg, if_neg (by omega)]
      rfl
    rw [exec_hartRunWrite hsees]
    refine ⟨_, rfl, fun h => ⟨?_, fun hv hrun => ?_, fun hv hrun => ?_⟩⟩
    · have hh := h.isLt
      rw [State.hartsRun_bit c v _ (by omega) (by omega), State.hartFaultsCleared_bit _ _ _ (by omega), if_pos (by omega)]
      rfl
    · obtain ⟨⟨n, hthr⟩, hset, hclear⟩ := State.hartsRun_starts c v ((s.access f).hartFaultsCleared c v) h.isLt hv
        ((hkept h).trans hrun)
      rw [hthr, hentry]
      exact ⟨rfl, rfl, fun i => ite_self _, hset, hclear⟩
    · exact State.hartsRun_halts c v ((s.access f).hartFaultsCleared c v) h.isLt hv ((hkept h).trans hrun)
  · rw [exec_coreSoftReset hsees]
    have hstopped := (s.access f).resetCore_stopped c
    have hcore := (s.access f).resetCore_core c
    generalize (s.access f).resetCore c = u at hstopped hcore ⊢
    refine ⟨u, rfl, hstopped.idle, hstopped.noGroup, fun l => ?_, ?_, hstopped.counters, ?_, ?_, ?_, hstopped.mem, fun hquiet => ?_⟩
    · rw [hcore]
      rfl
    · rw [hcore]
      rfl
    · rw [hcore]
      rfl
    · rw [hcore]
      rfl
    · rw [hcore]
      rfl
    · exact storedNone_of_stores (hstopped.quiet hquiet).2
  · rw [exec_coreResetReady]
    refine ⟨_, rfl, ?_, fun t => thr_modCore _ _ _ _ _ rfl, storedNone_of_stores (State.modCore_stores rfl)⟩
    rw [core_modCore, if_pos rfl]
  · obtain ⟨u, tombs, hexec, hcore, hmem⟩ := exec_coreZeroingDone hzeroing hclocked
    have hzeroed := s.hartsResumed_zeroed c
    have hharts (h : Fin 4) := State.hartsResumed_st (s := s.coreZeroed c) (c := c) h.isLt (by
      rw [State.thr, State.coreZeroed_core]
      exact congrArg Thread.st ((s.core c).zero_thr _).choose_spec)
    generalize (s.coreZeroed c).hartsResumed c = w at hcore hzeroed hharts
    rw [hexec]
    refine ⟨u, rfl, ?_, fun b => ?_, fun t i => ?_, fun t ht => ?_, fun h => ?_, fun g => ?_, hmem⟩
    · rw [hcore]
      exact hzeroed.zeroing
    · rw [scrByte, hcore]
      exact congrArg (fun m : Mem => Mem.rd m b) hzeroed.scratch
    · rw [State.thr, hcore]
      exact hzeroed.regs t i
    · rw [State.thr, hcore]
      exact hzeroed.idle t ht
    · rw [State.thr, hcore]
      exact hharts h
    · rw [State.grp, hcore]
      exact hzeroed.noGroup g

end Sys2Proof.Machine
end

section
/-! SUPPORT. Arithmetic and control instructions: each writes what its operation gives, or goes where its condition says (R76 to
R78, R85, R90; O1, O2). -/

namespace Sys2Proof.Machine

/-! ### Operations (R77, R85) -/

theorem aluOp_legal {fn : BitVec 14} {a b v : Word} (h : aluOp fn a b = some v) : (aluOp fn 0 0).isSome = true := by
  have hsome : (aluOp fn 0 0).isSome = (aluOp fn a b).isSome := by
    unfold aluOp
    dsimp only
    split <;> simp only [Option.isSome_some, Option.isSome_none]
  rw [hsome, h]
  rfl

theorem mulOp_legal {fn : BitVec 14} {a b v : Word} (h : mulOp fn a b = some v) : (mulOp fn 0 0).isSome = true := by
  have hsome : (mulOp fn 0 0).isSome = (mulOp fn a b).isSome := by
    unfold mulOp
    split <;> simp only [Option.isSome_some, Option.isSome_none]
  rw [hsome, h]
  rfl

theorem fpuOp_legal {fn : BitVec 14} {a b v : Word} (h : fpuOp fn a b = some v) : (fpuOp fn 0 0).isSome = true := by
  have hsome : (fpuOp fn 0 0).isSome = (fpuOp fn a b).isSome := by
    unfold fpuOp
    split <;> simp only [Option.isSome_some, Option.isSome_none]
  rw [hsome, h]
  rfl

section
variable {s : State} {c : CoreId} {t : CtxId} (h : canIssue s c t)
include h

/-- A legal instruction that only writes a register writes what its operation gives of the registers as they are. -/
theorem issueR_completes {legal : Bool} (hlegal : legal = true) (rd : Reg) {v : Thread → Word} {w : Word}
    (hv : ∀ x : Thread, (∀ i, x.r i = (s.thr c t).r i) → v x = w) :
    completes (issueR c t s legal rd v) (fun u => wrote s u c t rd w ((s.thr c t).pc + 1)) := by
  subst hlegal
  exact issueR_wrote h rd v w (hv _ (r_issued s c t))

theorem exec_alu (rd ra rb : Reg) {fn : BitVec 14} {v : Word} (hop : aluOp fn ((s.thr c t).r ra) ((s.thr c t).r rb) = some v) :
    completes (exec (.alu c t rd ra rb fn) s) (fun u => wrote s u c t rd v ((s.thr c t).pc + 1)) := by
  change completes (execAlu c t rd ra rb fn s) _
  exact issueR_completes h (aluOp_legal hop) rd (fun x hx => by rw [hx, hx, hop, Option.getD_some])

theorem exec_mul (rd ra rb : Reg) {fn : BitVec 14} {v : Word} (hop : mulOp fn ((s.thr c t).r ra) ((s.thr c t).r rb) = some v) :
    completes (exec (.mul c t rd ra rb fn) s) (fun u => wrote s u c t rd v ((s.thr c t).pc + 1)) := by
  change completes (execMul c t rd ra rb fn s) _
  exact issueR_completes h (mulOp_legal hop) rd (fun x hx => by rw [hx, hx, hop, Option.getD_some])

theorem exec_fpu (rd ra : Reg) {rb : Reg} {fn : BitVec 14} {v : Word} (hrb : fn.toNat < 7 ∨ rb = 0)
    (hop : fpuOp fn ((s.thr c t).r ra) ((s.thr c t).r rb) = some v) :
    completes (exec (.fpu c t rd ra rb fn) s) (fun u => wrote s u c t rd v ((s.thr c t).pc + 1)) := by
  change completes (execFpu c t rd ra rb fn s) _
  have hlegal : ((fpuOp fn 0 0).isSome && (decide (fn.toNat < 7) || decide (rb = 0))) = true := by
    simpa only [fpuOp_legal hop, Bool.true_and, Bool.or_eq_true, decide_eq_true_eq] using hrb
  exact issueR_completes h hlegal rd (fun x hx => by rw [hx, hx, hop, Option.getD_some])

/-- A branch writes no register, and goes where its condition on the registers as they are says. -/
theorem issueBr_completes (off : BitVec 18) {taken : Thread → Bool} {p : Prop} [Decidable p]
    (hp : ∀ x : Thread, (∀ i, x.r i = (s.thr c t).r i) → (taken x = true ↔ p)) :
    completes (issueBr c t s off taken)
      (fun u => wrote s u c t 0 0 (if p then (s.thr c t).pc + off.setWidth 16 else (s.thr c t).pc + 1)) := by
  unfold issueBr
  rw [issue_eq h (.inl rfl)]
  refine ⟨_, rfl, ?_⟩
  simp only [State.modThr, hp _ (r_issued s c t), pc_issued]
  exact wrote_of s c t 0 0 _

end

/-- Settles O1: each form writes what its operation gives. -/
theorem arithmeticResults : Obligations.ArithmeticResults := by
  unfold Obligations.ArithmeticResults
  refine ⟨fun c t rd ra rb s h => ?_, fun c t rd ra k n s h => ?_, fun c t rd ra rb s h => ?_⟩
  · intro x a b alu mul
    have halu : ∀ {fn v}, aluOp fn a b = some v → alu fn v := fun hop => exec_alu h rd ra rb hop
    have hmul : ∀ {fn v}, mulOp fn a b = some v → mul fn v := fun hop => exec_mul h rd ra rb hop
    refine ⟨halu rfl, halu rfl, halu rfl, halu rfl, halu rfl, halu rfl, halu rfl, halu rfl, halu ?_, halu ?_, halu ?_, halu ?_,
      halu ?_, halu ?_, hmul ?_, hmul rfl, hmul rfl⟩
    · simp [aluOp, BitVec.slt_iff_toInt_lt]
    · simp [aluOp, BitVec.ult]
    · simp [aluOp, BitVec.slt_iff_toInt_lt]
    · simp [aluOp, BitVec.slt_iff_toInt_lt]
    · simp [aluOp, BitVec.ult]
    · simp [aluOp, BitVec.ult]
    · simp [mulOp, BitVec.ofNat_mul]
  · intro x a i u is
    refine ⟨?_, ?_, ?_, ?_, ?_, ?_, fun hk => ⟨?_, ?_, ?_⟩⟩
    · change completes (execAddi c t rd ra k s) _
      exact issueR_completes h rfl rd (fun y hy => congrArg (· + i) (hy ra))
    · change completes (execAndi c t rd ra k s) _
      exact issueR_completes h rfl rd (fun y hy => congrArg (· &&& u) (hy ra))
    · change completes (execOri c t rd ra k s) _
      exact issueR_completes h rfl rd (fun y hy => congrArg (· ||| u) (hy ra))
    · change completes (execXori c t rd ra k s) _
      exact issueR_completes h rfl rd (fun y hy => congrArg (· ^^^ u) (hy ra))
    · change completes (execSlti c t rd ra k s) _
      exact issueR_completes h rfl rd (fun y hy => by simp only [hy, BitVec.slt_iff_toInt_lt]; rfl)
    · change completes (execLui c t rd n s) _
      exact issueR_completes h rfl rd (fun y hy => rfl)
    · change completes (execShli c t rd ra k s) _
      exact issueR_completes h (decide_eq_true hk) rd (fun y hy => congrArg (fun z : Word => z <<< k.toNat) (hy ra))
    · change completes (execShri c t rd ra k s) _
      exact issueR_completes h (decide_eq_true hk) rd (fun y hy => congrArg (fun z : Word => z >>> k.toNat) (hy ra))
    · change completes (execSrai c t rd ra k s) _
      exact issueR_completes h (decide_eq_true hk) rd (fun y hy => congrArg (BitVec.sshiftRight · k.toNat) (hy ra))
  · intro x a b is
    have hop : ∀ {rb' fn v}, fn.toNat < 7 ∨ rb' = 0 → fpuOp fn (x.r ra) (x.r rb') = some v → is rb' fn v :=
      fun hrb hop => exec_fpu h rd ra hrb hop
    exact ⟨hop (.inl (by decide)) rfl, hop (.inl (by decide)) rfl, hop (.inl (by decide)) rfl, hop (.inl (by decide)) rfl,
      hop (.inl (by decide)) rfl, hop (.inl (by decide)) rfl, hop (.inl (by decide)) rfl, hop (.inr rfl) rfl, hop (.inr rfl) rfl⟩

/-- Settles O2: branches by their conditions, links by the register write that goes with the new PC. -/
theorem controlFlow : Obligations.ControlFlow := by
  unfold Obligations.ControlFlow
  intro c t rd ra rb k n s h x a b br
  refine ⟨?_, ?_, ?_, ?_, ?_, ?_, ?_, ?_, fun hk => ?_⟩
  · change completes (execBeq c t ra rb k s) _
    exact issueBr_completes h k (fun y hy => by simp [hy, x, a, b])
  · change completes (execBne c t ra rb k s) _
    exact issueBr_completes h k (fun y hy => by simp [hy, x, a, b])
  · change completes (execBlt c t ra rb k s) _
    exact issueBr_completes h k (fun y hy => by simp [hy, x, a, b, BitVec.slt_iff_toInt_lt])
  · change completes (execBge c t ra rb k s) _
    exact issueBr_completes h k (fun y hy => by simp [hy, x, a, b, BitVec.slt_eq_decide])
  · change completes (execBltu c t ra rb k s) _
    exact issueBr_completes h k (fun y hy => by simp [hy, x, a, b, BitVec.ult])
  · change completes (execBgeu c t ra rb k s) _
    exact issueBr_completes h k (fun y hy => by simp [hy, x, a, b, BitVec.ult])
  · change completes (execJal c t rd n s) _
    refine ⟨_, issue_eq h (.inl rfl) _, ?_⟩
    simp only [State.modThr, pc_issued]
    exact wrote_of s c t rd _ _
  · change completes (execJalr c t rd ra k s) _
    refine ⟨_, issue_eq h (.inl rfl) _, ?_⟩
    simp only [State.modThr, pc_issued, r_issued]
    exact wrote_of s c t rd _ _
  · change completes (execYield c t 0 0 k s) _
    refine ⟨_, issue_legal h (decide_eq_true ⟨rfl, rfl, hk⟩) (.inl rfl) _, ?_⟩
    exact wrote_retire s c t 0 0

end Sys2Proof.Machine
end

section
/-! SUPPORT. Engine descriptors as they end or are dropped: what of the core, of its contexts and of the stores they reach (R94, R122,
R131, R135). -/

namespace Sys2Proof.Machine

/-! ### What of a core an operation leaves alone -/

theorem modCore_coreField {β : Type} {g : Core → β} {s : State} {c : Nat} {f : Core → Core} (hf : g (f (s.core c)) = g (s.core c))
    (d : Nat) : g ((s.modCore c f).core d) = g (s.core d) := by
  rw [core_modCore]
  split
  · next hd => rw [hd, hf]
  · rfl

theorem wakeIf_coreField {β : Type} (g : Core → β) (hg : ∀ k x, g { k with threads := x } = g k) (s : State) (c d : Nat)
    (p : Thread → Bool) (f : Thread → Thread) : g ((s.wakeIf c p f).core d) = g (s.core d) :=
  foldl_unchanged (fun s : State => g (s.core d)) (fun s t => by
    dsimp only
    split
    · exact modThr_coreField g hg s c t d (fun _ => f (s.thr c t))
    · rfl) _ s

theorem Core.eng_setEng (k : Core) (e d : Nat) (x : Engine) : (k.setEng e x).eng d = if d = e then x else k.eng d := Tab.get_set ..

/-! ### The end of a descriptor (R94, R135) -/

/-- The counter of an engine that a descriptor's status is counted in. -/
def engEndCnt (c e status : Nat) : Nat := engP c + 0x100 + e * 0x40 + (if status = 0 then 0 else 8)

/-- The engine's log once submission `seq` has its status. -/
def Engine.logged (x : Engine) (seq status : Nat) : Engine :=
  { x with log := x.log.map (fun p => if p.1 = seq then (seq, some status) else p) }

/-- The context waits for the ticket. -/
def Thread.awaits (x : Thread) (ticket : Nat) : Bool :=
  match x.wait with
  | .engine _ tk => decide (x.st = .waitEngine ∧ tk = ticket)
  | _ => false

/-- The context goes on with the status that it waited for. -/
def Thread.answered (x : Thread) (status : Nat) : Thread :=
  match x.wait with
  | .engine rd _ => (x.setRn rd (BitVec.ofNat 64 status)).complete
  | _ => x

theorem State.descStatus_eq (s : State) (c e seq status : Nat) : s.descStatus c e seq status =
    ((s.modCore c (fun k => k.setEng e ((k.eng e).logged seq status))).bump (engEndCnt c e status) 1).wakeIf c
      (·.awaits (e + seq * 16)) (·.answered status) := rfl

section
variable (s : State) (c e seq status : Nat)

theorem State.descStatus_still : (s.descStatus c e seq status).still = s.still := by
  rw [State.descStatus_eq, State.wakeIf_still, State.bump_still]
  exact State.modCore_still rfl

theorem State.descStatus_coreField {β : Type} (g : Core → β) (hthr : ∀ k x, g { k with threads := x } = g k)
    (heng : ∀ k x, g { k with engines := x } = g k) (d : Nat) : g ((s.descStatus c e seq status).core d) = g (s.core d) := by
  rw [State.descStatus_eq, wakeIf_coreField g hthr, core_bump]
  exact modCore_coreField (heng ..) d

theorem State.descStatus_eng (d : Nat) : ((s.descStatus c e seq status).core c).eng d =
    if d = e then ((s.core c).eng e).logged seq status else (s.core c).eng d := by
  rw [State.descStatus_eq, wakeIf_coreField (fun k => k.eng d) (fun _ _ => rfl), core_bump, core_modCore, if_pos rfl, Core.eng_setEng]

theorem State.descStatus_reg (a : Nat) : (s.descStatus c e seq status).reg a = (s.bump (engEndCnt c e status) 1).reg a := by
  rw [State.descStatus_eq, State.wakeIf_reg]
  rfl

theorem State.descStatus_run (d : Nat) : (((s.descStatus c e seq status).core c).eng d).run = ((s.core c).eng d).run := by
  rw [State.descStatus_eng]
  split
  · next hd => rw [hd]; rfl
  · rfl

theorem Thread.awaits_of_st {x : Thread} (h : x.st ≠ .waitEngine) (ticket : Nat) : x.awaits ticket = false := by
  unfold Thread.awaits
  split
  · exact decide_eq_false (fun hst => h hst.1)
  · rfl

theorem State.descStatus_thr {t : Nat} (h : (s.thr c t).st ≠ .waitEngine) : (s.descStatus c e seq status).thr c t = s.thr c t := by
  have hlogged : ((s.modCore c (fun k => k.setEng e ((k.eng e).logged seq status))).bump (engEndCnt c e status) 1).thr c t = s.thr c t :=
    (thr_bump ..).trans (thr_modCore _ _ _ _ _ rfl)
  rw [State.descStatus_eq, thr_wakeIf _ _ _ _ _ _ (by rw [hlogged]; exact Thread.awaits_of_st h _), hlogged]

theorem State.queueFreed_thr {t : Nat} (h : (s.thr c t).st ≠ .waitEngine) : (s.queueFreed c).thr c t = s.thr c t :=
  thr_wakeIf _ _ _ _ _ _ (by simp [h])

theorem State.engCycles_core (r : Running) (d : Nat) : (s.engCycles c e r).core d = s.core d := rfl
theorem State.engCycles_thr (r : Running) (d t : Nat) : (s.engCycles c e r).thr d t = s.thr d t :=
  congrArg (Core.thr · t) (s.engCycles_core c e r d)
theorem State.engCycles_still (r : Running) : (s.engCycles c e r).still = s.still := rfl

end

/-! ### Completion records (R122) -/

/-- Where a descriptor's completion record goes. -/
def Running.recordAt (r : Running) : Nat :=
  if cwBit r.d.bytes 12 then up (w4 r.d.bytes 56 + 4 * dN r.d.bytes) 16 else w4 r.d.bytes 56

/-- A descriptor's completion record. -/
def Running.recordBytes (r : Running) : List Byte :=
  leBytes 4 r.scored ++ leBytes 4 r.filtered ++ leBytes 4 (sat32 r.accSat) ++ leBytes 4 r.failIndex

theorem State.descRecord_eq (s : State) (c : Nat) (r : Running) :
    s.descRecord c r = if r.records then s.writeScr c r.recordAt r.recordBytes else s := rfl

theorem State.descRecord_none {s : State} {c : Nat} {r : Running} (h : r.records = false) : s.descRecord c r = s := by
  simp [State.descRecord_eq, h]

theorem writeScr_coreField {β : Type} (g : Core → β) (hwrite : ∀ k a bs, g (k.write a bs) = g k) (s : State) (c a : Nat)
    (bs : List Byte) (d : Nat) : g ((s.writeScr c a bs).core d) = g (s.core d) := modCore_coreField (hwrite _ a bs) d

theorem State.descRecord_coreField {β : Type} (g : Core → β) (hwrite : ∀ k a bs, g (k.write a bs) = g k) (s : State) (c : Nat)
    (r : Running) (d : Nat) : g ((s.descRecord c r).core d) = g (s.core d) := by
  rw [State.descRecord_eq]
  split
  · exact writeScr_coreField g hwrite s c _ _ d
  · rfl

theorem State.descRecord_thr (s : State) (c : Nat) (r : Running) (d t : Nat) : (s.descRecord c r).thr d t = s.thr d t :=
  s.descRecord_coreField (Core.thr · t) (fun _ _ _ => rfl) c r d

theorem State.descRecord_mem (s : State) (c : Nat) (r : Running) : (s.descRecord c r).mem = s.mem := by
  rw [State.descRecord_eq]
  split
  · exact mem_writeScr ..
  · rfl

/-! ### Descriptors dropped (R94, R131) -/

/-- The running descriptor of engine `e` stops, counted or not. -/
def State.runStopped (s : State) (c e : Nat) (count : Bool) (r : Running) : State :=
  let u := s.modCore c (fun k => k.setEng e { k.eng e with run := none })
  if count then (u.bump (colP c + 0xB8) r.out.length).engCycles c e r else u

/-- Engine `e` without its queued descriptors that satisfy `p`. -/
def State.queueCut (s : State) (c e : Nat) (p : QDesc → Bool) : State :=
  s.modCore c (fun k => k.setEng e { (s.core c).eng e with queue := ((s.core c).eng e).queue.filter (fun d => !p d) })

/-- The running descriptor of engine `e` is dropped where it satisfies `p`. -/
def State.runDropped (s : State) (c e status : Nat) (count : Bool) (p : QDesc → Bool) : Option Running → State
  | some r => if p r.d then ((s.runStopped c e count r).descRecord c r).descStatus c e r.d.seq status else s
  | none => s

/-- The dropped descriptors `l` of a queue end. -/
def State.queueEnded (s : State) (c e status : Nat) (l : List QDesc) : State := l.foldl (fun s d => s.descStatus c e d.seq status) s

theorem State.dropDescs_eq (s : State) (c e status : Nat) (count : Bool) (p : QDesc → Bool) : s.dropDescs c e status count p =
    (((s.queueCut c e p).runDropped c e status count p ((s.core c).eng e).run).queueEnded c e status
      (((s.core c).eng e).queue.filter p)).queueFreed c := by
  unfold State.dropDescs State.queueCut
  generalize (s.core c).eng e = x
  obtain ⟨queue, run, seq, log, query, lut, bitmap⟩ := x
  cases run <;> rfl

section
variable (s : State) (c e status : Nat) (count : Bool)

theorem State.queueEnded_unchanged {β : Type} {obs : State → β}
    (h : ∀ (s : State) (seq : Nat), obs (s.descStatus c e seq status) = obs s) (l : List QDesc) :
    obs (s.queueEnded c e status l) = obs s := by
  have hone (s : State) (q : QDesc) : obs (s.descStatus c e q.seq status) = obs s := h s q.seq
  exact foldl_unchanged obs hone l s

theorem State.runStopped_coreField {β : Type} (g : Core → β) (heng : ∀ k x, g { k with engines := x } = g k) (r : Running) (d : Nat) :
    g ((s.runStopped c e count r).core d) = g (s.core d) := by
  have hidle : g ((s.modCore c (fun k => k.setEng e { k.eng e with run := none })).core d) = g (s.core d) := modCore_coreField (heng ..) d
  unfold State.runStopped
  dsimp only
  split
  · rw [State.engCycles_core, core_bump, hidle]
  · exact hidle

theorem State.runStopped_run (r : Running) (d : Nat) : (((s.runStopped c e count r).core c).eng d).run =
    if d = e then none else ((s.core c).eng d).run := by
  have hidle : (((s.modCore c (fun k => k.setEng e { k.eng e with run := none })).core c).eng d).run =
      if d = e then none else ((s.core c).eng d).run := by
    rw [core_modCore, if_pos rfl, Core.eng_setEng]
    split <;> rfl
  unfold State.runStopped
  dsimp only
  split
  · rw [State.engCycles_core, core_bump, hidle]
  · exact hidle

theorem State.runStopped_stores (r : Running) : (s.runStopped c e count r).stores = s.stores := by
  have hidle : (s.modCore c (fun k => k.setEng e { k.eng e with run := none })).stores = s.stores := State.modCore_stores rfl
  unfold State.runStopped
  dsimp only
  split
  · rw [State.stores_of_still (State.engCycles_still ..), State.bump_stores, hidle]
  · exact hidle

variable (p : QDesc → Bool)

/-- Dropping descriptors starts none. -/
theorem State.dropDescs_run {d : Nat} {r : Running} (h : (((s.dropDescs c e status count p).core c).eng d).run = some r) :
    ((s.core c).eng d).run = some r := by
  have hcut : (((s.queueCut c e p).core c).eng d).run = ((s.core c).eng d).run := by
    rw [State.queueCut, core_modCore, if_pos rfl, Core.eng_setEng]
    split
    · next hd => rw [hd]
    · rfl
  rw [State.dropDescs_eq, State.queueFreed, wakeIf_coreField (fun k => (k.eng d).run) (fun _ _ => rfl),
    State.queueEnded_unchanged _ _ _ _ (obs := fun s => ((s.core c).eng d).run) (fun s q => s.descStatus_run c e q status d)] at h
  rw [← hcut]
  cases hrun : ((s.core c).eng e).run with
  | none => rwa [hrun] at h
  | some x =>
    rw [hrun, State.runDropped] at h
    split at h
    · rw [State.descStatus_run, State.descRecord_coreField (fun k => (k.eng d).run) (fun _ _ _ => rfl), State.runStopped_run] at h
      split at h
      · cases h
      · exact h
    · exact h

theorem State.dropDescs_coreField {β : Type} (g : Core → β) (hthr : ∀ k x, g { k with threads := x } = g k)
    (heng : ∀ k x, g { k with engines := x } = g k) (hwrite : ∀ k a bs, g (k.write a bs) = g k) (d : Nat) :
    g ((s.dropDescs c e status count p).core d) = g (s.core d) := by
  have hcut : g ((s.queueCut c e p).core d) = g (s.core d) := modCore_coreField (heng ..) d
  rw [State.dropDescs_eq, State.queueFreed, wakeIf_coreField g hthr,
    State.queueEnded_unchanged _ _ _ _ (obs := fun s => g (s.core d)) (fun s q => s.descStatus_coreField c e q status g hthr heng d),
    ← hcut]
  cases ((s.core c).eng e).run with
  | none => rfl
  | some x =>
    rw [State.runDropped]
    split
    · rw [State.descStatus_coreField _ _ _ _ _ g hthr heng, State.descRecord_coreField g hwrite, State.runStopped_coreField _ _ _ _ g heng]
    · rfl

/-- Dropping descriptors reaches no context but those that wait for an engine. -/
theorem State.dropDescs_thr {t : Nat} (h : (s.thr c t).st ≠ .waitEngine) :
    (s.dropDescs c e status count p).thr c t = s.thr c t := by
  have hcut : (s.queueCut c e p).thr c t = s.thr c t := thr_modCore _ _ _ _ _ rfl
  have hrun : ((s.queueCut c e p).runDropped c e status count p ((s.core c).eng e).run).thr c t = s.thr c t := by
    cases ((s.core c).eng e).run with
    | none => exact hcut
    | some r =>
      rw [State.runDropped]
      split
      · have hrecord : (((s.queueCut c e p).runStopped c e count r).descRecord c r).thr c t = s.thr c t := by
          rw [State.descRecord_thr, ← hcut]
          exact State.runStopped_coreField _ _ _ _ (Core.thr · t) (fun _ _ => rfl) r c
        rw [State.descStatus_thr _ _ _ _ _ (by rw [hrecord]; exact h), hrecord]
      · exact hcut
  have hended : (((s.queueCut c e p).runDropped c e status count p ((s.core c).eng e).run).queueEnded c e status
      (((s.core c).eng e).queue.filter p)).thr c t = s.thr c t :=
    List.foldlRecOn (motive := fun v : State => v.thr c t = s.thr c t) _ _ hrun
      (fun v hv q _ => (v.descStatus_thr c e q.seq status (by rw [hv]; exact h)).trans hv)
  rw [State.dropDescs_eq, State.queueFreed_thr _ _ (by rw [hended]; exact h), hended]

/-- Dropping descriptors stores nothing but the record of the running one. -/
theorem State.dropDescs_stores (h : ∀ r, ((s.core c).eng e).run = some r → p r.d = true → r.records = false) :
    (s.dropDescs c e status count p).stores = s.stores := by
  have hcut : (s.queueCut c e p).stores = s.stores := State.modCore_stores rfl
  rw [State.dropDescs_eq, State.queueFreed, State.stores_of_still (State.wakeIf_still ..),
    State.queueEnded_unchanged _ _ _ _ (obs := State.stores) (fun s q => State.stores_of_still (s.descStatus_still c e q status)), ← hcut]
  cases hrun : ((s.core c).eng e).run with
  | none => rfl
  | some r =>
    rw [State.runDropped]
    split
    · next hp => rw [State.stores_of_still (State.descStatus_still ..), State.descRecord_none (h r hrun hp), State.runStopped_stores]
    · rfl

theorem State.dropDescs_mem : (s.dropDescs c e status count p).mem = s.mem := by
  have hended (u : State) (q : Nat) : (u.descStatus c e q status).mem = u.mem :=
    congrArg Prod.snd (State.stores_of_still (u.descStatus_still c e q status))
  have hcut : (s.queueCut c e p).mem = s.mem := mem_modCore ..
  rw [State.dropDescs_eq, State.queueFreed, mem_wakeIf, State.queueEnded_unchanged _ _ _ _ (obs := State.mem) hended, ← hcut]
  cases ((s.core c).eng e).run with
  | none => rfl
  | some r =>
    rw [State.runDropped]
    split
    · rw [hended, State.descRecord_mem]
      exact congrArg Prod.snd (State.runStopped_stores ..)
    · rfl

end

end Sys2Proof.Machine
end

section
/-! SUPPORT. Hops of speculation: how one opens, commits and is squashed (R101 to R103, R182, R183); O12. -/

namespace Sys2Proof.Machine

/-! ### Every context or request changed (R102, R103) -/

theorem Core.mapThr_same {k : Core} {f : Thread → Thread} {t : Nat} (h : f (k.thr t) = k.thr t) : (k.mapThr f).thr t = k.thr t :=
  List.foldlRecOn (motive := fun u : Core => u.thr t = k.thr t) _ _ rfl fun u hu j _ => by
    rw [Core.thr, Core.setThr, Tab.get_set, ← Core.thr, hu]
    split
    · next hj => rw [← hj, hu, h]
    · rfl

theorem Core.mapThr_coreField {β : Type} (g : Core → β) (hg : ∀ k x, g { k with threads := x } = g k) (k : Core)
    (f : Thread → Thread) : g (k.mapThr f) = g k := by
  rw [← hg _ ⟨[]⟩, k.mapThr_rest f, hg]

theorem State.mapReqs_cores (s : State) (f : Req → Req) : (s.mapReqs f).cores = s.cores :=
  foldl_unchanged State.cores (fun s i => by split <;> rfl) _ s

theorem State.mapReqs_stores (s : State) (f : Req → Req) : (s.mapReqs f).stores = s.stores :=
  foldl_unchanged State.stores (fun s i => by split <;> rfl) _ s

theorem State.mapReqs_core (s : State) (f : Req → Req) (d : Nat) : (s.mapReqs f).core d = s.core d :=
  congrArg (fun m => Tab.get (fun _ => ({} : Core)) m d) (s.mapReqs_cores f)

theorem retire_coreField {β : Type} (g : Core → β) (hg : ∀ k x, g { k with threads := x } = g k) (s : State) (c t d : Nat) (rd : Reg)
    (w : Word) : g ((s.retire c t rd w).core d) = g (s.core d) := modThr_coreField g hg s c t d _

/-! ### SPECB (R101) -/

theorem exec_specb {s : State} {c : CoreId} {t : CtxId} (h : canIssue s c t) (ht : t.val < 8192) (rd : Reg) :
    exec (.specb c t rd 0 0 0) s = .next (
      let gi := (s.thr c t).group
      let g := s.grp c gi
      if g.hops < g.deckle then
        ((s.issued c t).modGrp c gi (fun g => { g with hops := g.hops + 1 })).adv c t
          (fun x => { x.setR rd (BitVec.ofNat 64 (g.hops + 1)) with spec := true, hop := g.hops + 1 })
      else (s.issued c t).retire c t rd 0) := by
  change execSpecb c t rd 0 0 0 s = _
  have hthread : (decide ((0 : Reg) = 0 ∧ (0 : Reg) = 0 ∧ (0 : BitVec 14) = 0) && !isHart t) = true := by simp [isHart, ht]
  refine (issue_legal h hthread (.inl rfl) _).trans ?_
  simp only [group_issued, grp_issued, apply_ite Host.Outcome.next]

theorem specb_completes {s : State} {c : CoreId} {t : CtxId} (h : canIssue s c t) (ht : t.val < 8192) (rd : Reg) :
    let x := s.thr c t
    let g := s.grp c x.group
    completes (exec (.specb c t rd 0 0 0) s) (fun u =>
      if g.hops < min 4 (Mem.le g.desc 25 1 % 8) then
        (u.thr c t).pc = x.pc + 1 ∧ (u.thr c t).spec = true ∧ (u.thr c t).hop = g.hops + 1 ∧
        (∀ i, (u.thr c t).r i = if i = 0 then 0 else if i = rd then BitVec.ofNat 64 (g.hops + 1) else x.r i) ∧
        (u.grp c x.group).hops = g.hops + 1 ∧ storedNone s u
      else wrote s u c t rd 0 (x.pc + 1)) := by
  intro x g
  refine ⟨_, exec_specb h ht rd, ?_⟩
  change if g.hops < g.deckle then _ else _
  by_cases hfree : g.hops < g.deckle
  · rw [if_pos hfree]
    dsimp only
    rw [if_pos hfree, State.adv]
    refine ⟨?_, ?_, ?_, fun i => ?_, ?_, storedNone_of_stores ?_⟩
    · rw [thr_modThr, thr_modGrp, pc_issued]
    · rw [thr_modThr]
    · rw [thr_modThr]
    · rw [thr_modThr, thr_modGrp, ← r_issued s c t]
      exact setR_r ..
    · rw [grp_modThr, grp_modGrp, if_pos ⟨rfl, rfl⟩, grp_issued]
    · rw [State.modThr_stores, State.modGrp_stores, State.issued_stores]
  · rw [if_neg hfree]
    dsimp only
    rw [if_neg hfree]
    exact wrote_retire ..

/-! ### SPECC (R102, R148, R182) -/

theorem State.countTook_core (s : State) (c d : Nat) (r : Took) : (s.countTook c r).core d = s.core d := by
  cases r with
  | entered ev => cases ev <;> simp [State.countTook]
  | _ => simp [State.countTook]

theorem State.countTook_stores (s : State) (c : Nat) (r : Took) : (s.countTook c r).stores = s.stores := by
  cases r with
  | entered ev => cases ev <;> simp [State.countTook]
  | _ => simp [State.countTook]

/-- What of a state only a change of a core's lists can leave. -/
theorem State.publishShadow_listsOnly {β : Type} (g : Core → β) (hlists : ∀ k x, g { k with lists := x } = g k) (s : State)
    (c l d : Nat) : g ((s.publishShadow c l).core d) = g (s.core d) := by
  have hset (u : State) (x : Core → ColList) : g ((u.modCore c (fun k => k.setList l (x k))).core d) = g (u.core d) :=
    modCore_coreField (hlists ..) d
  unfold State.publishShadow
  extract_lets li
  split
  · exact hset ..
  · next h r hshadow =>
    extract_lets s1 s2
    have h1 : g (s1.core d) = g (s.core d) := foldl_unchanged (fun s : State => g (s.core d)) (fun u e => by
      dsimp only
      rw [State.countTook_core]
      exact hset ..) h.entries s
    simp only [core_bump]
    exact (hset ..).trans h1

theorem State.publishShadow_stores (s : State) (c l : Nat) : (s.publishShadow c l).stores = s.stores := by
  unfold State.publishShadow
  extract_lets li
  split
  · exact State.modCore_stores rfl
  · next h r hshadow =>
    extract_lets s1 s2
    have h1 : s1.stores = s.stores := foldl_unchanged State.stores (fun u e => by
      dsimp only
      rw [State.countTook_stores]
      exact State.modCore_stores rfl) h.entries s
    simp only [State.bump_stores]
    exact (State.modCore_stores rfl).trans h1

/-- What a thread sees of its core: itself, its group and the held faults. -/
def Core.seenBy (k : Core) (t g : Nat) : Thread × Group × List HeldFault := (k.thr t, k.grp g, k.faults)

theorem Core.setBits_seenBy (k : Core) (base t g : Nat) (l : List (Nat × Nat × Nat)) :
    (l.foldl (fun k h => k.setBit base h.2.2) k).seenBy t g = k.seenBy t g := foldl_unchanged (·.seenBy t g) (fun _ _ => by rfl) l k

theorem Core.setEngs_seenBy (k : Core) (x : Core → Nat → Engine) (t g : Nat) (l : List Nat) :
    (l.foldl (fun k e => k.setEng e (x k e)) k).seenBy t g = k.seenBy t g := foldl_unchanged (·.seenBy t g) (fun _ _ => by rfl) l k

/-- The group has one hop fewer, and the hold store places again. -/
def State.hopClosed (s : State) (c g : Nat) : State := (s.modGrp c g (fun x => { x with hops := x.hops - 1 })).wakeUnit c

theorem State.hopClosed_thr {s : State} {c t : Nat} (h : (s.thr c t).st ≠ .waitUnit) (g : Nat) :
    (s.hopClosed c g).thr c t = s.thr c t := by
  rw [State.hopClosed, State.wakeUnit_thr _ _ _ _ (by rw [thr_modGrp]; exact h), thr_modGrp]

theorem State.hopClosed_grp (s : State) (c g : Nat) :
    (s.hopClosed c g).grp c g = { s.grp c g with hops := (s.grp c g).hops - 1 } := by
  rw [State.hopClosed, State.wakeUnit_grp, grp_modGrp, if_pos ⟨rfl, rfl⟩]

theorem State.hopClosed_faults (s : State) (c g : Nat) : ((s.hopClosed c g).core c).faults = (s.core c).faults := by
  unfold State.hopClosed State.wakeUnit
  rw [wakeIf_coreField Core.faults (fun _ _ => rfl)]
  exact modCore_coreField (g := Core.faults) rfl c

theorem State.hopClosed_mem (s : State) (c g : Nat) : (s.hopClosed c g).mem = s.mem := mem_wakeIf ..

/-- The held faults of hop 1 of a group are taken, and those of its other hops move down. -/
def State.faultsMoved (s : State) (c g : Nat) : State :=
  s.modCore c (fun k =>
    let left := (k.faults.filter (fun h => !decide (h.group = g ∧ h.hop = 1))).map
      (fun h => if h.group = g then { h with hop := h.hop - 1 } else h)
    { k with faults := left })

/-- The faults of the hop that has just been committed are raised. -/
def State.hopFaulted (s : State) (c g : Nat) : State :=
  (byIssue ((s.core c).faults.filter (fun h => decide (h.group = g ∧ h.hop = 1)))).foldl
    (fun s h => s.groupFault c g h.ctx h.code h.pc h.addr) (s.faultsMoved c g)

theorem State.hopFaulted_none {s : State} {c g : Nat} (h : ∀ f ∈ (s.core c).faults, ¬(f.group = g ∧ f.hop = 1)) :
    s.hopFaulted c g = s.faultsMoved c g := by
  have hnone : (s.core c).faults.filter (fun h => decide (h.group = g ∧ h.hop = 1)) = [] :=
    List.filter_eq_nil_iff.2 fun f hf => by simpa using h f hf
  rw [State.hopFaulted, hnone]
  rfl

theorem State.faultsMoved_thr (s : State) (c g d t : Nat) : (s.faultsMoved c g).thr d t = s.thr d t := thr_modCore _ _ _ _ _ rfl
theorem State.faultsMoved_grp (s : State) (c g d h : Nat) : (s.faultsMoved c g).grp d h = s.grp d h := grp_modCore _ _ _ _ _ rfl
theorem State.faultsMoved_mem (s : State) (c g : Nat) : (s.faultsMoved c g).mem = s.mem := mem_modCore ..

/-- The commit of a hop that holds no fault, as a thread of the group sees it that is in no hop: the hop is closed, and the
thread itself and the tiers' memory are as they were. -/
theorem State.commitHop_seen {s : State} {c t g : Nat} (hst : (s.thr c t).st ≠ .waitUnit) (hspec : (s.thr c t).spec = false)
    (hfaults : ∀ f ∈ (s.core c).faults, ¬(f.group = g ∧ f.hop = 1)) :
    (s.commitHop c g).thr c t = s.thr c t ∧ (s.commitHop c g).grp c g = { s.grp c g with hops := (s.grp c g).hops - 1 } ∧
      (s.commitHop c g).mem = s.mem := by
  unfold State.commitHop
  extract_lets mine base due1 s0 s1 s2 s3 s4 down s5 s6 due s7
  have hbits : (s1.core c).seenBy t g = (s.core c).seenBy t g ∧ s1.mem = s.mem := by
    have hread : (s0.core c, s0.mem) = (s.core c, s.mem) :=
      foldl_unchanged (fun s : State => (s.core c, s.mem)) (fun _ _ => by rfl) due1 s
    obtain ⟨hcore, hmem⟩ := Prod.mk.inj hread
    refine ⟨?_, hmem⟩
    rw [← hcore, core_modCore, if_pos rfl]
    exact Core.setBits_seenBy ..
  clear_value s1
  have hlists : (s2.core c).seenBy t g = (s.core c).seenBy t g ∧ s2.mem = s.mem := by
    refine ⟨Eq.trans ?_ hbits.1, Eq.trans ?_ hbits.2⟩
    · exact foldl_unchanged (fun s : State => (s.core c).seenBy t g)
        (fun s l => s.publishShadow_listsOnly (·.seenBy t g) (fun _ _ => rfl) c l c) _ s1
    · exact foldl_unchanged State.mem (fun s l => congrArg Prod.snd (s.publishShadow_stores c l)) _ s1
  clear_value s2
  have hthreads : (s3.core c).seenBy t g = (s.core c).seenBy t g ∧ s3.mem = s.mem := by
    refine ⟨?_, hlists.2⟩
    have hself : (s2.core c).thr t = s.thr c t := congrArg (·.1) hlists.1
    rw [core_modCore, if_pos rfl, ← hlists.1]
    refine Prod.ext (Core.mapThr_same ?_) (Core.mapThr_coreField (fun k => (k.grp g, k.faults)) (fun _ _ => rfl) _ _)
    rw [hself, if_neg (fun h => by simp [hspec] at h)]
  clear_value s3
  have hreqs : (s4.core c).seenBy t g = (s.core c).seenBy t g ∧ s4.mem = s.mem :=
    ⟨(congrArg (·.seenBy t g) (s3.mapReqs_core _ c)).trans hthreads.1, (congrArg Prod.snd (s3.mapReqs_stores _)).trans hthreads.2⟩
  clear_value s4
  have hdescs : (s5.core c).seenBy t g = (s.core c).seenBy t g ∧ s5.mem = s.mem := by
    refine ⟨?_, hreqs.2⟩
    rw [core_modCore, if_pos rfl, ← hreqs.1]
    exact Core.setEngs_seenBy ..
  clear_value s5
  obtain ⟨hseen, hmem⟩ := hdescs
  change ((s5.hopClosed c g).hopFaulted c g).thr c t = _ ∧ ((s5.hopClosed c g).hopFaulted c g).grp c g = _ ∧
    ((s5.hopClosed c g).hopFaulted c g).mem = _
  have hthr : s5.thr c t = s.thr c t := congrArg (·.1) hseen
  have hgrp : s5.grp c g = s.grp c g := congrArg (·.2.1) hseen
  have hheld : (s5.core c).faults = (s.core c).faults := congrArg (·.2.2) hseen
  rw [State.hopFaulted_none (by rw [State.hopClosed_faults, hheld]; exact hfaults)]
  refine ⟨?_, ?_, ?_⟩
  · rw [State.faultsMoved_thr, State.hopClosed_thr (by rw [hthr]; exact hst), hthr]
  · rw [State.faultsMoved_grp, State.hopClosed_grp, hgrp]
  · rw [State.faultsMoved_mem, State.hopClosed_mem, hmem]

theorem exec_specc {s : State} {c : CoreId} {t : CtxId} (h : canIssue s c t) (ht : t.val < 8192) (hspec : (s.thr c t).spec = false)
    (rd : Reg) : exec (.specc c t rd 0 0 0) s = .next (
      if (s.grp c (s.thr c t).group).hops = 0 then (s.issued c t).retire c t rd 0
      else (((s.issued c t).retire c t rd 1).bump (walkP c + 0x80) 1).commitHop c (s.thr c t).group) := by
  change execSpecc c t rd 0 0 0 s = _
  have hthread : (decide ((0 : Reg) = 0 ∧ (0 : Reg) = 0 ∧ (0 : BitVec 14) = 0) && !isHart t) = true := by simp [isHart, ht]
  refine (issue_legal h hthread (.inr hspec) _).trans ?_
  simp only [group_issued, grp_issued, apply_ite Host.Outcome.next]

/-- SPECC commits hop 1 with its result written before. -/
theorem specc_commits {s : State} {c : CoreId} {t : CtxId} (h : canIssue s c t) (ht : t.val < 8192)
    (hspec : (s.thr c t).spec = false) (rd : Reg) (hopen : (s.grp c (s.thr c t).group).hops ≠ 0)
    (hfaults : ∀ f ∈ (s.core c).faults, ¬(f.group = (s.thr c t).group ∧ f.hop = 1)) :
    let x := s.thr c t
    let g := s.grp c x.group
    completes (exec (.specc c t rd 0 0 0) s) (fun u => (u.thr c t).pc = x.pc + 1 ∧
      (∀ i, (u.thr c t).r i = if i = 0 then 0 else if i = rd then 1 else x.r i) ∧
      (u.grp c x.group).hops = g.hops - 1 ∧ (u.grp c x.group).desc = g.desc ∧ u.mem = s.mem) := by
  intro x g
  have hwrote : regWrote s ((s.issued c t).retire c t rd 1) c t rd 1 (x.pc + 1) := regWrote_retire rfl rd 1
  obtain ⟨hpc, hreg, hrest⟩ := hwrote
  have hst : (((s.issued c t).retire c t rd 1).thr c t).st = .ready := (congrArg Thread.st hrest).trans (ready_of h)
  have hspec' : (((s.issued c t).retire c t rd 1).thr c t).spec = false := (congrArg Thread.spec hrest).trans hspec
  have hheld : (((s.issued c t).retire c t rd 1).core c).faults = (s.core c).faults :=
    (modThr_coreField Core.faults (fun _ _ => rfl) ..).trans (issued_coreField Core.faults (fun _ _ => rfl) ..)
  obtain ⟨hthr, hgrp, hmem⟩ := State.commitHop_seen (s := ((s.issued c t).retire c t rd 1).bump (walkP c + 0x80) 1) (c := c) (t := t)
    (g := x.group) (by rw [thr_bump, hst]; decide) (by rw [thr_bump, hspec']) (by rw [core_bump, hheld]; exact hfaults)
  rw [exec_specc h ht hspec, if_neg hopen]
  refine ⟨_, rfl, ?_, fun i => ?_, ?_, ?_, ?_⟩
  · rw [hthr, thr_bump, hpc]
  · rw [hthr, thr_bump, hreg]
  · rw [hgrp, State.bump_grp, grp_retire, grp_issued]
  · rw [hgrp, State.bump_grp, grp_retire, grp_issued]
  · rw [hmem, mem_bump, mem_retire, mem_issued]

/-! ### SPECX (R103) -/

/-- The descriptors that satisfy `p` of the state so far, dropped from every engine with the status of a squashed one. -/
def State.squashedDescs (s : State) (c : Nat) (p : State → QDesc → Bool) : State :=
  (List.range 16).foldl (fun s e => s.dropDescs c e 0x0206 true (p s)) s

section
variable (s : State) (c : Nat) (p : State → QDesc → Bool)

theorem State.squashedDescs_coreField {β : Type} (g : Core → β) (hthr : ∀ k x, g { k with threads := x } = g k)
    (heng : ∀ k x, g { k with engines := x } = g k) (hwrite : ∀ k a bs, g (k.write a bs) = g k) :
    g ((s.squashedDescs c p).core c) = g (s.core c) :=
  foldl_unchanged (fun s : State => g (s.core c)) (fun s e => s.dropDescs_coreField c e 0x0206 true (p s) g hthr heng hwrite c) _ s

theorem State.squashedDescs_mem : (s.squashedDescs c p).mem = s.mem :=
  foldl_unchanged State.mem (fun s e => s.dropDescs_mem c e 0x0206 true (p s)) _ s

theorem State.squashedDescs_thr {t : Nat} (h : (s.thr c t).st ≠ .waitEngine) : (s.squashedDescs c p).thr c t = s.thr c t :=
  List.foldlRecOn (motive := fun v : State => v.thr c t = s.thr c t) _ _ rfl
    fun v hv e _ => (v.dropDescs_thr c e 0x0206 true (p v) (by rw [hv]; exact h)).trans hv

/-- Only the running descriptors that are dropped can leave a completion record. -/
theorem State.squashedDescs_stores (h : ∀ e r, ((s.core c).eng e).run = some r → ∀ v, p v r.d = true → r.records = false) :
    (s.squashedDescs c p).stores = s.stores := by
  have hnoneStarted : (s.squashedDescs c p).stores = s.stores ∧
      ∀ e r, (((s.squashedDescs c p).core c).eng e).run = some r → ((s.core c).eng e).run = some r :=
    List.foldlRecOn (motive := fun v : State => v.stores = s.stores ∧
        ∀ e r, ((v.core c).eng e).run = some r → ((s.core c).eng e).run = some r) _ _ ⟨rfl, fun _ _ hr => hr⟩
      fun v ⟨hstores, hruns⟩ e _ =>
        ⟨(v.dropDescs_stores c e 0x0206 true (p v) fun r hr => h e r (hruns e r hr) v).trans hstores,
          fun d r hr => hruns d r (v.dropDescs_run c e 0x0206 true (p v) hr)⟩
  exact hnoneStarted.1

end

theorem Core.clearShadows_held (k : Core) (g : Nat) :
    ((k.clearShadows g).held, (k.clearShadows g).faults, (k.clearShadows g).engines) = (k.held, k.faults, k.engines) :=
  foldl_unchanged (fun k : Core => (k.held, k.faults, k.engines)) (fun _ _ => by rfl) _ k

/-- Nothing that the group held is left. -/
theorem State.dropHeld_held (s : State) (c g : Nat) :
    (((s.dropHeld c g).core c).held, ((s.dropHeld c g).core c).faults, ((s.dropHeld c g).core c).engines) =
      ((s.core c).held.filter (fun h => decide (h.1 ≠ g)), (s.core c).faults.filter (fun h => decide (h.group ≠ g)),
        (s.core c).engines) := by
  obtain ⟨hheld, hrest⟩ := Prod.mk.inj ((s.core c).clearShadows_held g)
  obtain ⟨hfaults, hengines⟩ := Prod.mk.inj hrest
  rw [State.dropHeld_eq, State.wakeUnit, wakeIf_coreField (fun k => (k.held, k.faults, k.engines)) (fun _ _ => rfl), core_bump,
    core_modCore, if_pos rfl]
  dsimp only
  rw [hheld, hfaults, hengines]

theorem Core.mapThr_scratch (k : Core) (f : Thread → Thread) : (k.mapThr f).scratch = k.scratch :=
  k.mapThr_coreField Core.scratch (fun _ _ => rfl) f

/-- What a squash of group `g` asks of a core: its group `g` itself, the entries and faults it holds, and its engines. -/
def Core.squashSide (k : Core) (g : Nat) : (Group × List (Nat × Nat × Nat) × List HeldFault) × Tab Engine :=
  ((k.grp g, k.held, k.faults), k.engines)

theorem Core.squashSide_setGrp (k : Core) (g : Nat) (x : Group) : (k.setGrp g x).squashSide g = ((x, k.held, k.faults), k.engines) := by
  have hself : (k.setGrp g x).grp g = x := (Tab.get_set ..).trans (if_pos rfl)
  exact congrArg (fun y => ((y, k.held, k.faults), k.engines)) hself

theorem squashSide_modGrp {s : State} {c g : Nat} {x : Group} {held : List (Nat × Nat × Nat)} {faults : List HeldFault}
    {engines : Tab Engine} (h : (s.core c).squashSide g = ((x, held, faults), engines)) (f : Group → Group) :
    ((s.modGrp c g f).core c).squashSide g = ((f x, held, faults), engines) := by
  obtain ⟨hside, rfl⟩ := Prod.mk.inj h
  obtain ⟨rfl, hrest⟩ := Prod.mk.inj hside
  obtain ⟨rfl, rfl⟩ := Prod.mk.inj hrest
  rw [State.modGrp, core_modCore, if_pos rfl, Core.squashSide_setGrp]

theorem State.dropHeld_squashSide (s : State) (c g : Nat) : ((s.dropHeld c g).core c).squashSide g =
    ((s.grp c g, (s.core c).held.filter (fun h => decide (h.1 ≠ g)), (s.core c).faults.filter (fun h => decide (h.group ≠ g))),
      (s.core c).engines) := by
  obtain ⟨hheld, hrest⟩ := Prod.mk.inj (s.dropHeld_held c g)
  obtain ⟨hfaults, hengines⟩ := Prod.mk.inj hrest
  have hgrp : ((s.dropHeld c g).core c).grp g = s.grp c g := s.dropHeld_grp c g c g
  rw [Core.squashSide, hgrp, hheld, hfaults, hengines]

theorem Core.squashSide_prefetch (k : Core) (x : List PfEntry) (g : Nat) :
    ({ k with prefetch := x } : Core).squashSide g = k.squashSide g := rfl

/-- A group whose hops are squashed: none is open, and its epoch is the next one. -/
def Group.squashed (g : Group) : Group := { g.setF 28 4 ((g.specEpoch + 1) % 2 ^ 32) with hops := 0 }

theorem Group.squashed_specEpoch (g : Group) : g.squashed.specEpoch = (Mem.le g.desc 28 4 + 1) % 2 ^ 32 :=
  (g.setF_f 28 4 _).trans (Nat.mod_mod ..)

/-- What group `g` holds is dropped, and its hops are squashed. -/
def State.epochRaised (s : State) (c g : Nat) : State :=
  ((s.dropHeld c g).modGrp c g (fun x => x.setF 28 4 ((x.specEpoch + 1) % 2 ^ 32))).modGrp c g (fun x => { x with hops := 0 })

theorem State.epochRaised_squashSide (s : State) (c g : Nat) : ((s.epochRaised c g).core c).squashSide g =
    (((s.grp c g).squashed, (s.core c).held.filter (fun h => decide (h.1 ≠ g)),
      (s.core c).faults.filter (fun h => decide (h.group ≠ g))), (s.core c).engines) :=
  squashSide_modGrp (squashSide_modGrp (s.dropHeld_squashSide c g) _) _

theorem State.epochRaised_stores (s : State) (c g : Nat) : (s.epochRaised c g).stores = s.stores := by
  rw [State.epochRaised, State.modGrp_stores, State.modGrp_stores, State.stores_of_still (State.dropHeld_still ..)]

theorem State.epochRaised_thr {s : State} {c t : Nat} (h : (s.thr c t).st ≠ .waitUnit) (g : Nat) :
    (s.epochRaised c g).thr c t = s.thr c t := by
  have hcleared : (s.modCore c (fun k => { k.clearShadows g with
      held := (k.clearShadows g).held.filter (fun h => decide (h.1 ≠ g))
      faults := (k.clearShadows g).faults.filter (fun h => decide (h.group ≠ g)) })).thr c t = s.thr c t :=
    thr_modCore _ _ _ _ _ ((s.core c).clearShadows_threads g)
  rw [State.epochRaised, thr_modGrp, thr_modGrp, State.dropHeld_eq,
    State.wakeUnit_thr _ _ _ _ (by rw [thr_bump, hcleared]; exact h), thr_bump, hcleared]

/-- The squash of a group, as a thread of it sees it that is ready and in no hop: the thread is as it was, and only dropped
descriptors that leave a completion record store anything. -/
theorem State.squash_seen {s : State} {c t g : Nat} (hst : (s.thr c t).st = .ready) (hspec : (s.thr c t).spec = false) :
    (s.squash c g).thr c t = s.thr c t ∧
      (((s.squash c g).core c).squashSide g).1 = (((s.epochRaised c g).core c).squashSide g).1 ∧ (s.squash c g).mem = s.mem ∧
      ((∀ e r, ((s.core c).eng e).run = some r → r.d.group = g → r.records = false) → (s.squash c g).stores = s.stores) := by
  unfold State.squash
  extract_lets s1 s2 s3 s4 s5
  have hraised : s2.thr c t = s.thr c t ∧ s2.stores = s.stores ∧
      (s2.core c).squashSide g = ((s.epochRaised c g).core c).squashSide g := by
    have hs2 : s2 = s.epochRaised c g := rfl
    rw [hs2]
    exact ⟨s.epochRaised_thr (by rw [hst]; decide) g, s.epochRaised_stores c g, rfl⟩
  clear_value s2
  have hmarked : s3.thr c t = s.thr c t ∧ s3.stores = s.stores ∧
      (s3.core c).squashSide g = ((s.epochRaised c g).core c).squashSide g := by
    obtain ⟨hthr, hstores, hside⟩ := hraised
    have hself : (s2.core c).thr t = s.thr c t := hthr
    refine ⟨?_, Eq.trans (State.modCore_stores (Core.mapThr_scratch ..)) hstores, Eq.trans ?_ hside⟩
    · rw [← hthr, State.thr, core_modCore, if_pos rfl]
      refine Core.mapThr_same ?_
      rw [hself, if_neg (fun h => by simp [hspec] at h)]
    · rw [core_modCore, if_pos rfl]
      exact (Core.squashSide_prefetch ..).trans (Core.mapThr_coreField (·.squashSide g) (fun _ _ => rfl) ..)
  clear_value s3
  have hreqs : s4.thr c t = s.thr c t ∧ s4.stores = s.stores ∧
      (s4.core c).squashSide g = ((s.epochRaised c g).core c).squashSide g := by
    obtain ⟨hthr, hstores, hside⟩ := hmarked
    exact ⟨(congrArg (·.thr t) (s3.mapReqs_core _ c)).trans hthr, (s3.mapReqs_stores _).trans hstores,
      (congrArg (·.squashSide g) (s3.mapReqs_core _ c)).trans hside⟩
  clear_value s4
  obtain ⟨hthr, hstores, hside⟩ := hreqs
  have hs5 : s5 = s4.squashedDescs c (fun v d => d.spec && decide (d.group = g ∧ d.gen = (v.grp c g).gen)) := rfl
  rw [thr_bump, core_bump, mem_bump, State.bump_stores, hs5]
  refine ⟨?_, ?_, ?_, fun hrecords => ?_⟩
  · rw [State.squashedDescs_thr _ _ _ (by rw [hthr, hst]; decide), hthr]
  · rw [← hside]
    exact s4.squashedDescs_coreField c _ (fun k => (k.squashSide g).1) (fun _ _ => rfl) (fun _ _ => rfl) (fun _ _ _ => rfl)
  · exact (s4.squashedDescs_mem c _).trans (congrArg Prod.snd hstores)
  · have hengines : (s4.core c).engines = (s.core c).engines := congrArg Prod.snd (hside.trans (s.epochRaised_squashSide c g))
    refine (s4.squashedDescs_stores c _ fun e r hr v hp => ?_).trans hstores
    have hr' : ((s.core c).eng e).run = some r := by rwa [Core.eng, hengines] at hr
    exact hrecords e r hr' (by simp at hp; exact hp.2.1)

theorem exec_specx {s : State} {c : CoreId} {t : CtxId} (h : canIssue s c t) (ht : t.val < 8192) (hspec : (s.thr c t).spec = false)
    (rd : Reg) : exec (.specx c t rd 0 0 0) s = .next (
      let s1 := (s.issued c t).squash c (s.thr c t).group
      s1.retire c t rd (BitVec.ofNat 64 (s1.grp c (s.thr c t).group).specEpoch)) := by
  change execSpecx c t rd 0 0 0 s = _
  have hthread : (decide ((0 : Reg) = 0 ∧ (0 : Reg) = 0 ∧ (0 : BitVec 14) = 0) && !isHart t) = true := by simp [isHart, ht]
  refine (issue_legal h hthread (.inr hspec) _).trans ?_
  simp only [group_issued]

/-- SPECX squashes the hops of its group, and its result is the new epoch. -/
theorem specx_squashes {s : State} {c : CoreId} {t : CtxId} (h : canIssue s c t) (ht : t.val < 8192)
    (hspec : (s.thr c t).spec = false) (rd : Reg) :
    let x := s.thr c t
    let g := s.grp c x.group
    completes (exec (.specx c t rd 0 0 0) s) (fun u =>
      regWrote s u c t rd (BitVec.ofNat 64 ((Mem.le g.desc 28 4 + 1) % 2 ^ 32)) (x.pc + 1) ∧
      (u.grp c x.group).hops = 0 ∧ Mem.le (u.grp c x.group).desc 28 4 = (Mem.le g.desc 28 4 + 1) % 2 ^ 32 ∧
      (∀ h ∈ (u.core c).held, h.1 ≠ x.group) ∧ (∀ f ∈ (u.core c).faults, f.group ≠ x.group) ∧ u.mem = s.mem ∧
      ((∀ e r, ((s.core c).eng e).run = some r → r.d.group = x.group → r.records = false) → storedNone s u)) := by
  intro x g
  have hst : ((s.issued c t).thr c t).st = .ready := (st_issued ..).trans (ready_of h)
  have hspec' : ((s.issued c t).thr c t).spec = false := by rw [thr_issued]; exact hspec
  obtain ⟨hthr, hside, hmem, hstores⟩ := State.squash_seen (c := c) (t := t) (g := x.group) hst hspec'
  rw [State.epochRaised_squashSide, grp_issued] at hside
  obtain ⟨hgrp, hrest⟩ := Prod.mk.inj hside
  obtain ⟨hheld, hfaults⟩ := Prod.mk.inj hrest
  have hgroup : ((s.issued c t).squash c x.group).grp c x.group = g.squashed := hgrp
  have hepoch : (((s.issued c t).squash c x.group).grp c x.group).specEpoch = (Mem.le g.desc 28 4 + 1) % 2 ^ 32 := by
    rw [hgroup, Group.squashed_specEpoch]
  rw [exec_specx h ht hspec]
  dsimp only
  refine ⟨_, rfl, ?_, ?_, ?_, fun e he => ?_, fun f hf => ?_, ?_, fun hrecords => ?_⟩
  · rw [hepoch]
    exact regWrote_retire hthr rd _
  · rw [grp_retire, hgroup]
    rfl
  · rw [grp_retire]
    exact hepoch
  · rw [retire_coreField Core.held (fun _ _ => rfl), hheld] at he
    simpa using (List.mem_filter.1 he).2
  · rw [retire_coreField Core.faults (fun _ _ => rfl), hfaults] at hf
    simpa using (List.mem_filter.1 hf).2
  · rw [mem_retire, hmem, mem_issued]
  · refine storedNone_of_stores ?_
    rw [State.retire_stores, hstores, State.issued_stores]
    intro e r hr
    rw [issued_coreField (fun k => (k.eng e).run) (fun _ _ => rfl)] at hr
    exact hrecords e r hr

/-- Settles O12: a hop opened, committed and squashed, each by the lemma on what a thread of the group sees of it. -/
theorem hopOpcodes : Obligations.HopOpcodes := by
  unfold Obligations.HopOpcodes
  intro c t rd s h ht x g records
  refine ⟨specb_completes h ht rd, fun hspec => ⟨fun hnone => ?_, specc_commits h ht hspec rd, specx_squashes h ht hspec rd⟩⟩
  rw [exec_specc h ht hspec, if_pos hnone]
  exact ⟨_, rfl, wrote_retire ..⟩

end Sys2Proof.Machine
end

section
/-! SUPPORT. A line of a WRA of a partition that is none of the chip's sixteen: filling the unit of the line before counts a flash read
in the register that holds the place of its own (R311, R315); O28. -/

namespace Sys2Proof.Machine

/-- A partition whose view register, `qReg strayPart 0`, lies at the read counter `fcP 0 + 0x80` of flash channel 0. -/
def strayPart : Nat := 0x2F7C

/-- Two lines of ones: the first ends space 2, the second begins space 3. -/
def strayWrite : Req :=
  { kind := .wra, part := strayPart, addr := 0x0002FFFFFFFFFFC0, len := 128, reached := true
    old := Mem.ofBytes (List.replicate 128 1) }

/-- The unit that the first line lies in, the last of space 2. -/
def strayUnit : Nat := 2 ^ 36 - 1

/-- The read counter is two below its bound; as the partition's view names no linear tier 1. -/
def strayHeld : State :=
  { State.reset with
    regs := ⟨[(fcP 0 + 0x80, 0xFFFFFFFFFFFFFFFD), (partSlice strayPart 4, 1)]⟩
    reqs := ⟨[(1, some strayWrite)]⟩
    cores := ⟨[(0, { scratch := Mem.ofBytes (List.replicate 128 1) })]⟩
    tierP := ⟨[(strayPart, { base1 := 1 })]⟩
    arc := ⟨[(strayPart, { formatted := true, map := ⟨[(strayUnit, 1)]⟩, cws := ⟨[(0, some ⟨strayUnit, 0, 0, zeros 4096⟩)]⟩ })]⟩ }

/-- The second line is translated and its access counted. -/
def strayBegun : State :=
  (({ strayHeld with free := strayHeld.free + 1 } : State).translateAll strayPart (strayWrite.lineAddr 1) 1).countAccess strayPart
    (strayWrite.lineAddr 1) 1

/-- The state in which the codeword of the first line's unit is read. -/
def strayLooked : State := strayBegun.mapLook strayPart strayUnit

/-- The codeword read with outcome `q`; `b`: a hard decision that corrects is counted. -/
def strayRead (q : CwOutcome) (b : Bool) : State :=
  let s := { strayLooked with free := strayLooked.free + 1 }
  match q with
  | .hard =>
    ({ (s.fcRead 0 1).bump (arcCnt strayPart 0x28) 0 with free := ((s.fcRead 0 1).bump (arcCnt strayPart 0x28) 0).free + 1 } : State).bump
      (fcP 0 + 0x98) (if b then 1 else 0)
  | q => s.flashRead strayPart 0 q

theorem strayLooked_flashRead (q : CwOutcome) :
    ∃ b, ({ strayLooked with free := strayLooked.free + 1 } : State).flashRead strayPart 0 q = strayRead q b := by
  cases q with
  | hard => exact ⟨Config.freeBit _, rfl⟩
  | retried | rebuilt | lost => exact ⟨false, rfl⟩

/-- The unit filled. -/
def strayFilled (q : CwOutcome) (b : Bool) : State :=
  if q = .lost then
    ((strayRead q b).reportLoc strayPart (some (.arch (2 ^ 48 - 64)))).modNs strayPart (fun n =>
      let m := n.stage strayUnit 0 [] false strayBegun.clk (strayBegun.stageRoom strayPart strayUnit)
      { m with staging := m.staging.map (fun x => if x.lu = strayUnit then { x with bad := true } else x) })
  else strayRead q b

/-- Once the unit is filled, tier 1 is linear over a channel of no capacity: the second line has no place. -/
theorem strayFilled_locate (q : CwOutcome) (b : Bool) : (strayFilled q b).locate strayPart (strayWrite.lineAddr 1) = none := by
  cases q with
  | retried n => revert n b; decide +kernel
  | hard | rebuilt | lost => revert b; decide +kernel

theorem strayFilled_mapBad (q : CwOutcome) (b : Bool) : (strayFilled q b).mapBad strayPart (strayWrite.lineAddr 1) = false ∧
    ((strayFilled q b).noteWrite strayPart (strayWrite.lineAddr 1)).mapBad strayPart (strayWrite.lineAddr 1) = false := by
  cases q with
  | retried n => revert n b; decide +kernel
  | hard | rebuilt | lost => revert b; decide +kernel

theorem strayFilled_mem (q : CwOutcome) (b : Bool) : (strayFilled q b).mem.cells = [] := by
  cases q with
  | retried n => revert n b; decide +kernel
  | hard | rebuilt | lost => revert b; decide +kernel

theorem strayFilled_writeLine (q : CwOutcome) (b : Bool) (bs : List Byte) (bad : Bool) :
    (strayFilled q b).writeLine strayPart (strayWrite.lineAddr 1) bs bad =
      (strayFilled q b).noteWrite strayPart (strayWrite.lineAddr 1) := by
  obtain ⟨hgood, -⟩ := strayFilled_mapBad q b
  rw [State.writeLine, hgood, strayFilled_locate]
  rfl

theorem Mem.eq_empty {m : Mem} (h : m.cells = []) : m = ⟨[]⟩ := by
  cases m
  exact congrArg Tab.mk h

theorem State.noteWrite_mem (s : State) (p : Nat) (a : Word) : (s.noteWrite p a).mem = s.mem := by
  unfold State.noteWrite
  split <;> rfl

theorem strayBegun_fetchUnit : strayBegun.fetchUnit strayPart strayUnit =
    (({ strayLooked with free := strayLooked.free + 1 } : State).flashRead strayPart 0 (freeOutcome strayLooked.free),
      decide (freeOutcome strayLooked.free = .lost)) := by
  have hformatted : (strayBegun.ns strayPart).formatted = true := by decide +kernel
  obtain ⟨cw, hcw⟩ : ∃ cw, (strayLooked.ns strayPart).cw strayUnit = some cw := Option.isSome_iff_exists.1 (by decide +kernel)
  have hmap : Tab.get (fun _ => 0) (strayLooked.ns strayPart).map strayUnit = 1 := by decide +kernel
  have hlook : strayBegun.mapLook strayPart strayUnit = strayLooked := rfl
  rw [State.fetchUnit, hformatted]
  dsimp only
  rw [hlook, hcw, hmap]
  rfl

theorem strayBegun_fillAt : ∃ q b, strayBegun.fillAt strayPart (addA (strayWrite.lineAddr 0) 0) 128 (strayWrite.lineUnitNo 1) =
    strayFilled q b := by
  obtain ⟨b, hb⟩ := strayLooked_flashRead (freeOutcome strayLooked.free)
  have hwhere : strayBegun.locate strayPart (addA (addA (strayWrite.lineAddr 0) 0)
      (4096 * strayWrite.lineUnitNo 1 - aOff (addA (strayWrite.lineAddr 0) 0))) =
      some (.arch (2 ^ 48 - 64)) := by decide +kernel
  refine ⟨freeOutcome strayLooked.free, b, ?_⟩
  have hunit : (2 ^ 48 - 64) / 4096 = strayUnit := by decide
  have htakes : (!(strayBegun.ns strayPart).takesWrite || (strayBegun.ns strayPart).isStaged strayUnit) = false := by decide +kernel
  rw [State.fillAt, if_neg (by decide +kernel), hwhere]
  dsimp only
  rw [hunit, htakes, strayBegun_fetchUnit, hb, strayFilled]
  by_cases hlost : freeOutcome strayLooked.free = .lost
  · simp only [hlost, decide_true, if_true, Bool.false_eq_true, if_false]
  · simp only [hlost, decide_false, if_false, Bool.false_eq_true]

theorem exec_strayHeld : exec (.tierWrite 1 1) strayHeld = .next (strayHeld.writeReqLine 1 strayWrite 1) := by
  have hreach : strayHeld.reach 1 = strayHeld := rfl
  have hreq : strayHeld.req 1 = some strayWrite := rfl
  have hplace : strayHeld.locate strayWrite.part (strayWrite.lineAddr 1) = some (.phys 48 0) := by decide +kernel
  have hlines : strayWrite.lineGroup 1 = [1] := by decide +kernel
  have hyield : strayHeld.yieldLines strayWrite.part (strayWrite.lineAddr 1) 1 = strayHeld := by
    have hline : linesOf (aOff (strayWrite.lineAddr 1)) 1 = [0] := by decide
    have haddr : addA (strayWrite.lineAddr 1) (0 * 64 - aOff (strayWrite.lineAddr 1)) = strayWrite.lineAddr 1 := by decide
    rw [State.yieldLines, hline, List.foldl_cons, List.foldl_nil, haddr, hplace]
    rfl
  change execTierWrite 1 1 strayHeld = _
  rw [execTierWrite, hreach, hreq]
  dsimp only
  rw [hplace]
  dsimp only
  rw [if_neg (by decide +kernel), if_neg (by decide +kernel), hlines, List.foldl_cons, List.foldl_nil, hyield, State.writeReqLines,
    List.foldl_cons, List.foldl_nil, hreq]

/-- Filling the first line's unit leaves the second line no place, so that nothing is written. -/
theorem strayHeld_writeReqLine : (strayHeld.writeReqLine 1 strayWrite 1).mem.cells = [] := by
  obtain ⟨q, b, hfill⟩ := strayBegun_fillAt
  have hline : strayHeld.wraLine strayWrite 1 = (0, List.replicate 64 1, false) := by decide +kernel
  have haddr : addA (strayWrite.lineAddr 1) 0 = strayWrite.lineAddr 1 := by decide
  have hlen : strayWrite.storedEnd - strayWrite.addr.toNat % 64 = 128 := by decide
  have hfirst : strayWrite.addr.toNat % 64 = 0 := by decide
  rw [State.writeReqLine, hline]
  dsimp only
  rw [haddr, hlen, hfirst]
  change (State.setReq (if ((strayBegun.fillAt strayPart (addA (strayWrite.lineAddr 0) 0) 128 (strayWrite.lineUnitNo 1)).writeLine
    strayPart (strayWrite.lineAddr 1) _ _).mapBad strayPart (strayWrite.lineAddr 1) then _ else
      ((strayBegun.fillAt strayPart (addA (strayWrite.lineAddr 0) 0) 128 (strayWrite.lineUnitNo 1)).writeLine
        strayPart (strayWrite.lineAddr 1) _ _)) 1 _).mem.cells = []
  obtain ⟨-, hgood⟩ := strayFilled_mapBad q b
  rw [hfill, strayFilled_writeLine, State.setReq_mem, if_neg (by rw [hgood]; decide), State.noteWrite_mem, strayFilled_mem]

/-- Refutes O28: nothing bounds the partition that a request names, so its view register can lie at a counter of flash reads;
where the line before lies in tier 2 and its unit is filled first, the count moves tier 1 under the second line, and that is written
nowhere. -/
theorem not_tierWrites : ¬ Obligations.TierWrites := by
  intro h
  obtain ⟨hwrite, -⟩ := h 1 1 .sp 0 0 [] strayWrite strayHeld
  obtain ⟨u, hu, -, -, hbytes⟩ := hwrite rfl (by decide +kernel) rfl rfl rfl 48 0 (by decide +kernel) (by decide +kernel)
    (by decide +kernel) (by decide +kernel) (by decide +kernel) (by decide +kernel) (by decide +kernel) (by decide +kernel)
  have hnone : u.mem = ⟨[]⟩ := by
    rw [← Host.Outcome.next.inj (exec_strayHeld.symm.trans hu)]
    exact Mem.eq_empty strayHeld_writeReqLine
  have hbyte := hbytes (physKey 48 0)
  rw [if_pos (by decide), hnone] at hbyte
  revert hbyte
  decide +kernel

end Sys2Proof.Machine
end

section
/-! SUPPORT. Engine descriptors as they start, run and end (R93, R94, R116, R117, R122, R130, R135), and the integer tiles of MATRIX
(R110, R111, R115); O20. -/

namespace Sys2Proof.Machine

/-! ### Integer accumulators (R111) -/

theorem accAdd_clamps (a : Int × Nat) (v : Int) : (accAdd a v).1 = max (-2147483648) (min 2147483647 (a.1 + v)) := by
  unfold accAdd
  dsimp only
  split
  · dsimp only; omega
  · split <;> dsimp only <;> omega

theorem accAdd_exact {a : Int × Nat} {v : Int} (hlow : -2147483648 ≤ a.1 + v) (hhigh : a.1 + v ≤ 2147483647) :
    accAdd a v = (a.1 + v, a.2) := by
  rw [accAdd, if_neg (by omega), if_neg (by omega)]

/-- A sum whose partial sums stay within 32 bits is exact. -/
theorem accAdd_sum_exact (term : Nat → Int) (n : Nat)
    (h : ∀ m, m ≤ n → -2147483648 ≤ ((List.range m).map term).sum ∧ ((List.range m).map term).sum ≤ 2147483647) :
    (List.range n).foldl (fun a t => accAdd a (term t)) ((0 : Int), 0) = (((List.range n).map term).sum, 0) := by
  induction n with
  | zero => rfl
  | succ n ih =>
    have hnext : ((List.range (n + 1)).map term).sum = ((List.range n).map term).sum + term n := by
      simp [List.range_succ]
    obtain ⟨hlow, hhigh⟩ := h (n + 1) (Nat.le_refl _)
    rw [hnext] at hlow hhigh
    rw [hnext, List.range_succ, List.foldl_concat, ih (fun m hm => h m (by omega))]
    exact accAdd_exact hlow hhigh

theorem tileAcc_exact {f : EFmt} (hint : f.isInt = true) (w x : List Byte) (i j n : Nat)
    (h : ∀ m, m ≤ n →
      -2147483648 ≤ ((List.range m).map fun t => intOf f (f.elem w (t * 16 + i)) * intOf f (f.elem x (t * 16 + j))).sum ∧
      ((List.range m).map fun t => intOf f (f.elem w (t * 16 + i)) * intOf f (f.elem x (t * 16 + j))).sum ≤ 2147483647) :
    tileAcc f n w x i j =
      (f32OfInt ((List.range n).map fun t => intOf f (f.elem w (t * 16 + i)) * intOf f (f.elem x (t * 16 + j))).sum, 0) := by
  rw [tileAcc, if_pos hint, accAdd_sum_exact _ n h]

/-! ### Results of an engine's units (R116, R117) -/

/-- The running descriptor after units with result `t`, the next unit being `n`. -/
def Running.after (r : Running) (n : Nat) (t : Strm) : Running :=
  { r with
    next := n, out := r.out ++ t.out.reverse, summary := t.sum, status := t.code, scored := r.scored + t.scored
    filtered := r.filtered + t.filtered, accSat := r.accSat + t.sat, failIndex := t.index, failAddr := t.addr }

/-- The results written to scratch, and the descriptor's progress. -/
def State.engWritten (s : State) (c e : Nat) (r : Running) (n : Nat) (t : Strm) : State :=
  (t.writes.reverse.foldl (fun s w => s.writeScr c w.1 w.2) s).modCore c (fun k => k.setEng e { k.eng e with run := some (r.after n t) })

/-- The engine's counters of the units. -/
def State.engCounted (s : State) (c e : Nat) (t : Strm) : State :=
  (((s.bump (engP c + 0x100 + e * 0x40 + 0x10) t.scored).bump (engP c + 0x100 + e * 0x40 + 0x18) t.filtered).bump
    (engP c + 0x100 + e * 0x40 + 0x20) t.sat).bump (coreP c + 0x98) t.corr

theorem State.engResult_eq (s : State) (c e : Nat) (r : Running) (n : Nat) (t : Strm) : s.engResult c e r n t =
    match s.coreOwner c with
    | some p => if t.scored = 0 then (s.engWritten c e r n t).engCounted c e t
      else ((s.engWritten c e r n t).engCounted c e t).meterAdd p 2 t.scored
    | none => (s.engWritten c e r n t).engCounted c e t := rfl

/-- What no meter holds, a result changes as the writes, the progress and the counters do. -/
theorem State.engResult_unmetered {β : Type} {obs : State → β} (hmeter : ∀ s p k n, obs (State.meterAdd s p k n) = obs s)
    (s : State) (c e : Nat) (r : Running) (n : Nat) (t : Strm) :
    obs (s.engResult c e r n t) = obs ((s.engWritten c e r n t).engCounted c e t) := by
  rw [State.engResult_eq]
  split
  · split
    · rfl
    · exact hmeter ..
  · rfl

section
variable (s : State) (c e : Nat) (r : Running) (n : Nat) (t : Strm)

theorem State.engCounted_core (d : Nat) : (s.engCounted c e t).core d = s.core d := by
  rw [State.engCounted, core_bump, core_bump, core_bump, core_bump]

theorem State.engWritten_eng : ((s.engWritten c e r n t).core c).eng e = { (s.core c).eng e with run := some (r.after n t) } := by
  have hwrite (s : State) (w : Nat × List Byte) : ((s.writeScr c w.1 w.2).core c).eng e = (s.core c).eng e :=
    writeScr_coreField (fun k => k.eng e) (fun _ _ _ => rfl) ..
  have hwrites := foldl_unchanged (fun s : State => (s.core c).eng e) hwrite t.writes.reverse s
  rw [State.engWritten, core_modCore, if_pos rfl, Core.eng_setEng, if_pos rfl, hwrites]

theorem State.engResult_eng : ((s.engResult c e r n t).core c).eng e = { (s.core c).eng e with run := some (r.after n t) } := by
  rw [State.engResult_unmetered (obs := fun s => (s.core c).eng e) (fun _ _ _ _ => rfl), State.engCounted_core, State.engWritten_eng]

theorem State.engResult_mem : (s.engResult c e r n t).mem = s.mem := by
  rw [State.engResult_unmetered (obs := State.mem) (fun _ _ _ _ => rfl), State.engCounted, mem_bump, mem_bump, mem_bump, mem_bump,
    State.engWritten, mem_modCore]
  exact foldl_unchanged State.mem (fun _ _ => mem_writeScr ..) _ s

theorem State.engWritten_reg (a : Nat) : (s.engWritten c e r n t).reg a = s.reg a := by
  rw [State.engWritten, reg_modCore]
  exact foldl_unchanged (fun s : State => s.reg a) (fun _ _ => reg_modCore ..) _ s

/-- The scores are counted. -/
theorem State.engResult_counted : counted s (s.engResult c e r n t) (engP c + 0x100 + e * 0x40 + 0x10) t.scored := by
  have hother : engP c + 0x100 + e * 0x40 + 0x10 ≠ coreP c + 0x98 := by
    unfold engP coreP
    omega
  have hscored := counted_bump (s.engWritten c e r n t) (engP c + 0x100 + e * 0x40 + 0x10) t.scored
  rw [counted, State.engWritten_reg] at hscored
  rw [counted, State.engResult_unmetered (obs := fun s => s.reg (engP c + 0x100 + e * 0x40 + 0x10)) (fun _ _ _ _ => rfl), State.engCounted,
    State.bump_reg_other _ _ hother, State.bump_reg_other _ _ (by omega), State.bump_reg_other _ _ (by omega), hscored]

end

/-- An engine that goes on leaves all as it was, or stores the result of some units. -/
theorem State.engRun_cases (s : State) (c e f : Nat) : s.engRun c e f = s ∨
    ∃ r n t, ((s.core c).eng e).run = some r ∧ s.engRun c e f = s.engResult c e r n t := by
  unfold State.engRun
  extract_lets k en
  split
  · exact .inl rfl
  · next r hrun =>
    split
    · exact .inl rfl
    · exact .inr ⟨r, _, _, hrun, rfl⟩

theorem State.engRun_ended {s : State} {c e : Nat} {r : Running} (hrun : ((s.core c).eng e).run = some r) (hended : r.ended = true)
    (f : Nat) : s.engRun c e f = s := by
  rw [State.engRun, hrun]
  exact if_pos hended

/-! ### A descriptor starts (R93, R94) -/

theorem Engine.logged_status (x : Engine) (seq status : Nat) : ∀ p ∈ (x.logged seq status).log, p.1 = seq → p.2 = some status := by
  intro p hp hseq
  obtain ⟨p', -, rfl⟩ := List.mem_map.1 hp
  split at hseq
  · next h => rw [if_pos h]
  · next h => exact absurd hseq h

/-- What stands of a descriptor `q` that runs: the queue behind it, the tiers' memory, and its scores counted. -/
def State.descRuns (s u : State) (c e : Nat) (q : QDesc) (rest : List QDesc) : Prop :=
  ((u.core c).eng e).queue = rest ∧ u.mem = s.mem ∧ ∃ r, ((u.core c).eng e).run = some r ∧ r.d = q ∧ r.toList = dToList q.bytes ∧
    counted s u (engP c + 0x100 + e * 0x40 + 0x10) r.scored

theorem State.descRuns_engResult {s u : State} {c e : Nat} {q : QDesc} {rest : List QDesc} {r : Running}
    (hqueue : ((u.core c).eng e).queue = rest) (hmem : u.mem = s.mem) (hd : r.d = q) (hlist : r.toList = dToList q.bytes)
    (hcount : counted s u (engP c + 0x100 + e * 0x40 + 0x10) r.scored) (n : Nat) (t : Strm) :
    s.descRuns (u.engResult c e r n t) c e q rest := by
  refine ⟨?_, ?_, r.after n t, ?_, hd, hlist, ?_⟩
  · rw [State.engResult_eng]
    exact hqueue
  · rw [State.engResult_mem, hmem]
  · rw [State.engResult_eng]
  · have hmore := u.engResult_counted c e r n t
    unfold counted at hcount hmore ⊢
    change _ = min _ (_ + (r.scored + t.scored))
    omega

theorem State.descRuns_engRun {s u : State} {c e : Nat} {q : QDesc} {rest : List QDesc} (h : s.descRuns u c e q rest) (f : Nat) :
    s.descRuns (u.engRun c e f) c e q rest := by
  obtain ⟨hqueue, hmem, r, hrun, hd, hlist, hcount⟩ := h
  obtain hsame | ⟨r', n, t, hrun', hresult⟩ := u.engRun_cases c e f
  · rw [hsame]
    exact ⟨hqueue, hmem, r, hrun, hd, hlist, hcount⟩
  · cases hrun.symm.trans hrun'
    rw [hresult]
    exact State.descRuns_engResult hqueue hmem hd hlist hcount n t

/-- The oldest descriptor has left the queue of engine `e`. -/
def State.descTaken (s : State) (c e : Nat) (rest : List QDesc) : State :=
  (s.modCore c (fun k => k.setEng e { (s.core c).eng e with queue := rest })).queueFreed c

section
variable (s : State) (c e : Nat) (rest : List QDesc)

theorem State.descTaken_still : (s.descTaken c e rest).still = s.still := by
  rw [State.descTaken, State.queueFreed, State.wakeIf_still]
  exact State.modCore_still rfl

theorem State.descTaken_reg (a : Nat) : (s.descTaken c e rest).reg a = s.reg a := by
  rw [State.descTaken, State.queueFreed, State.wakeIf_reg, reg_modCore]

theorem State.descTaken_eng : ((s.descTaken c e rest).core c).eng e = { (s.core c).eng e with queue := rest } := by
  rw [State.descTaken, State.queueFreed, wakeIf_coreField (fun k => k.eng e) (fun _ _ => rfl), core_modCore, if_pos rfl,
    Core.eng_setEng, if_pos rfl]

end

section
variable {s : State} {c : CoreId} {e : EngId} {q : QDesc} {rest : List QDesc} (hready : s.coreReady c = true)
  (hpaused : s.engPaused c e = false) (hqueue : ((s.core c).eng e).queue = q :: rest) (hidle : ((s.core c).eng e).run = none)
include hready hpaused hqueue hidle

/-- An idle engine that may run takes the oldest descriptor of its queue; one that fails a check ends. -/
theorem exec_descStart_failed (hcheck : s.descCheck c ((s.core c).eng e) q ≠ 0) : exec (.descStart c e) s =
    .next ((s.descTaken c e rest).descStatus c e q.seq (s.descCheck c ((s.core c).eng e) q)) := by
  have hmay : (!s.coreReady c || s.engPaused c e) = false := by rw [hready, hpaused]; rfl
  change execDescStart c e s = _
  unfold execDescStart
  rw [hmay]
  extract_lets en
  split
  · next q' rest' hq' hidle' =>
    obtain ⟨rfl, rfl⟩ := List.cons.inj (hqueue.symm.trans hq')
    rw [if_neg Bool.false_ne_true]
    exact if_pos hcheck
  · next hnone => exact absurd hidle (hnone _ _ hqueue)

/-- The resident operands that a descriptor loads first, and how their load went (R115, R119, R124). -/
def descLoad (k : Core) (en : Engine) (q : QDesc) : Engine × Strm :=
  if dStream q.bytes && cwBit q.bytes 40 then loadEng q.bytes k en else (en, {})

/-- The descriptor has begun: its operands are loaded. -/
def State.descBegun (s : State) (c e : Nat) (q : QDesc) (rest : List QDesc) : State :=
  ((s.descTaken c e rest).modCore c (fun k => k.setEng e { (descLoad (s.core c) ((s.core c).eng e) q).1 with queue := rest })).engResult c e
    { d := q, list := s.descList c q, toList := dToList q.bytes } 0 (descLoad (s.core c) ((s.core c).eng e) q).2

theorem exec_descStart_runs (hcheck : s.descCheck c ((s.core c).eng e) q = 0) (hlist : dToList q.bytes = false ∨
      s.foreignList c (s.descList c q) (if 8192 ≤ q.ctx then none else some q.group) = false) : exec (.descStart c e) s =
    .next (({ s.descBegun c e q rest with free := (s.descBegun c e q rest).free + 1 } : State).engRun c e
      (Config.freePick (s.descBegun c e q rest).free)) := by
  have hmay : (!s.coreReady c || s.engPaused c e) = false := by rw [hready, hpaused]; rfl
  have hown : ¬(dToList q.bytes && s.descGroup c q &&
      s.foreignList c (s.descList c q) (if isHart q.ctx then none else some q.group)) = true := by
    obtain hnone | hown := hlist
    · simp [hnone]
    · simp [isHart, hown]
  change execDescStart c e s = _
  unfold execDescStart
  rw [hmay]
  extract_lets en
  split
  · next q' rest' hq' hidle' =>
    obtain ⟨rfl, rfl⟩ := List.cons.inj (hqueue.symm.trans hq')
    rw [if_neg Bool.false_ne_true]
    exact (if_neg (not_not.2 hcheck)).trans (if_neg hown)
  · next hnone => exact absurd hidle (hnone _ _ hqueue)

theorem descStart_fails (hcheck : s.descCheck c ((s.core c).eng e) q ≠ 0) : completes (exec (.descStart c e) s) (fun u =>
    ((u.core c).eng e).queue = rest ∧ ((u.core c).eng e).run = none ∧ storedNone s u ∧
    (∀ p ∈ ((u.core c).eng e).log, p.1 = q.seq → p.2 = some (s.descCheck c ((s.core c).eng e) q)) ∧
    counted s u (engP c + 0x100 + e * 0x40 + 8) 1) := by
  have heng := (s.descTaken c e rest).descStatus_eng c e q.seq (s.descCheck c ((s.core c).eng e) q) e
  rw [if_pos rfl, State.descTaken_eng] at heng
  refine ⟨_, exec_descStart_failed hready hpaused hqueue hidle hcheck, ?_, ?_, ?_, ?_, ?_⟩
  · rw [heng]
    rfl
  · rw [heng]
    exact hidle
  · exact storedNone_of_still ((State.descStatus_still ..).trans (State.descTaken_still ..))
  · rw [heng]
    exact Engine.logged_status _ _ _
  · have hcount := counted_bump (s.descTaken c e rest) (engP c + 0x100 + e * 0x40 + 8) 1
    rw [counted, State.descTaken_reg] at hcount
    rw [counted, State.descStatus_reg, engEndCnt, if_neg hcheck]
    exact hcount

theorem descStart_runs (hcheck : s.descCheck c ((s.core c).eng e) q = 0) (hlist : dToList q.bytes = false ∨
      s.foreignList c (s.descList c q) (if 8192 ≤ q.ctx then none else some q.group) = false) :
    completes (exec (.descStart c e) s) (fun u => s.descRuns u c e q rest) := by
  refine ⟨_, exec_descStart_runs hready hpaused hqueue hidle hcheck hlist, State.descRuns_engRun ?_ _⟩
  have hbegun : s.descRuns (s.descBegun c e q rest) c e q rest := by
    refine State.descRuns_engResult ?_ ?_ rfl rfl ?_ _ _
    · rw [core_modCore, if_pos rfl, Core.eng_setEng, if_pos rfl]
    · exact congrArg Prod.snd (State.stores_of_still (s.descTaken_still c e rest))
    · rw [counted, reg_modCore, State.descTaken_reg]
      change _ = min _ (_ + 0)
      omega
  exact hbegun

end

/-! ### A descriptor ends (R94, R122, R135) -/

/-- Context `i` goes on where it satisfies `p`. -/
def State.wakeOne (s : State) (c : Nat) (p : Thread → Bool) (f : Thread → Thread) (i : Nat) : State :=
  if p (s.thr c i) then s.setThr c i (f (s.thr c i)) else s

section
variable {s : State} {c t : Nat} {p : Thread → Bool} {f : Thread → Thread}

theorem wakeOne_thr (i : Nat) : (s.wakeOne c p f i).thr c t = if i = t ∧ p (s.thr c t) then f (s.thr c t) else s.thr c t := by
  unfold State.wakeOne
  split
  · next hp =>
    rw [thr_setThr]
    by_cases hi : i = t
    · subst hi
      simp [hp]
    · simp [hi, Ne.symm hi]
  · next hp =>
    by_cases hi : i = t
    · subst hi
      simp [hp]
    · simp [hi]

theorem wakeOne_foldl_thr (hp : p (s.thr c t) = false) (l : List Nat) :
    (l.foldl (fun s i => s.wakeOne c p f i) s).thr c t = s.thr c t :=
  List.foldlRecOn (motive := fun v : State => v.thr c t = s.thr c t) l _ rfl
    fun v hv i _ => by rw [wakeOne_thr, hv, if_neg (fun h => by simp [hp] at h)]

/-- A context that waits is woken once. -/
theorem wakeOne_foldl_woken (hp : p (s.thr c t) = true) (hf : p (f (s.thr c t)) = false) {l : List Nat} (hmem : t ∈ l) :
    (l.foldl (fun s i => s.wakeOne c p f i) s).thr c t = f (s.thr c t) := by
  induction l generalizing s with
  | nil => cases hmem
  | cons i l ih =>
    rw [List.foldl_cons]
    by_cases hi : i = t
    · have hwoken : (s.wakeOne c p f i).thr c t = f (s.thr c t) := by rw [wakeOne_thr, if_pos ⟨hi, hp⟩]
      rw [wakeOne_foldl_thr (by rw [hwoken]; exact hf), hwoken]
    · have hkept : (s.wakeOne c p f i).thr c t = s.thr c t := by rw [wakeOne_thr, if_neg (fun h => hi h.1)]
      have hrest : t ∈ l := (List.mem_cons.1 hmem).resolve_left (fun h => hi h.symm)
      rw [ih (by rw [hkept]; exact hp) (by rw [hkept]; exact hf) hrest, hkept]

theorem wakeIf_thr (hfree : p {} = false) (hp : p (s.thr c t) = true) (hf : p (f (s.thr c t)) = false) :
    (s.wakeIf c p f).thr c t = f (s.thr c t) := by
  have hmem : t ∈ (s.core c).threads.keys := by
    by_contra hnot
    have hdefault : s.thr c t = {} := Tab.get_of_not_mem (d := fun _ => ({} : Thread)) hnot
    rw [hdefault, hfree] at hp
    exact Bool.false_ne_true hp
  exact wakeOne_foldl_woken hp hf hmem

end

/-- The running descriptor's summary goes to its list, where that is still its own. -/
def State.descSummed (s : State) (c : Nat) (r : Running) : State :=
  if r.toList && decide (dN r.d.bytes ≠ 0) then
    (if s.reachesList c r.list r.d.ctx r.d.group r.d.gen then s.colSummary c r.list r.d.spec r.d.hop r.summary
      else s.bump (colP c + 0xA8) 1)
  else s

theorem State.colSummary_coreField {β : Type} (g : Core → β) (hlists : ∀ k x, g { k with lists := x } = g k) (s : State) (c l : Nat)
    (spec : Bool) (hop : Nat) (a : Acct) (d : Nat) : g ((s.colSummary c l spec hop a).core d) = g (s.core d) := by
  have hset (x : ColList) : g ((s.modCore c (fun k => k.setList l x)).core d) = g (s.core d) := modCore_coreField (hlists ..) d
  unfold State.colSummary
  extract_lets li
  split
  · rw [core_bump]
  · split
    · split
      · rw [core_bump]
        exact hset _
      · exact hset _
    · rw [core_bump, core_bump]
      exact hset _

theorem State.colSummary_stores (s : State) (c l : Nat) (spec : Bool) (hop : Nat) (a : Acct) :
    (s.colSummary c l spec hop a).stores = s.stores := by
  have hset (x : ColList) : (s.modCore c (fun k => k.setList l x)).stores = s.stores := State.modCore_stores rfl
  unfold State.colSummary
  extract_lets li
  split
  · rw [State.bump_stores]
  · split
    · split
      · rw [State.bump_stores]
        exact hset _
      · exact hset _
    · rw [State.bump_stores, State.bump_stores]
      exact hset _

theorem State.descSummed_coreField {β : Type} (g : Core → β) (hlists : ∀ k x, g { k with lists := x } = g k) (s : State) (c : Nat)
    (r : Running) (d : Nat) : g ((s.descSummed c r).core d) = g (s.core d) := by
  unfold State.descSummed
  split
  · split
    · exact State.colSummary_coreField g hlists ..
    · rw [core_bump]
  · rfl

theorem State.descSummed_stores (s : State) (c : Nat) (r : Running) : (s.descSummed c r).stores = s.stores := by
  unfold State.descSummed
  split
  · split
    · exact State.colSummary_stores ..
    · rw [State.bump_stores]
  · rfl

/-- The engine is idle again, its summary, its cycles and its completion record being written. -/
def State.descLeft (s : State) (c e : Nat) (r : Running) : State :=
  (((s.descSummed c r).engCycles c e r).descRecord c r).modCore c (fun k => k.setEng e { k.eng e with run := none })

theorem exec_descComplete {s : State} {c : CoreId} {e : EngId} {r : Running} (hready : s.coreReady c = true)
    (hpaused : s.engPaused c e = false) (hrun : ((s.core c).eng e).run = some r) (hended : r.ended = true) (hout : r.out = [])
    (hpoison : r.status ≠ 0x0284) (hdouble : r.status ≠ 0x0285) :
    exec (.descComplete c e) s = .next ((s.descLeft c e r).descStatus c e r.d.seq r.status) := by
  have hmay : (!s.coreReady c || s.engPaused c e) = false := by rw [hready, hpaused]; rfl
  have hdone : (!r.ended || decide (r.out ≠ [])) = false := by simp [hended, hout]
  change execDescComplete c e s = _
  unfold execDescComplete
  rw [hrun]
  dsimp only
  rw [hmay, if_neg Bool.false_ne_true, State.engRun_ended hrun hended, hrun]
  dsimp only
  rw [hdone, if_neg Bool.false_ne_true, if_neg (by simp [hpoison, hdouble])]
  rfl

section
variable (s : State) (c e : Nat) (r : Running)

theorem State.descLeft_run : (((s.descLeft c e r).core c).eng e).run = none := by
  rw [State.descLeft, core_modCore, if_pos rfl, Core.eng_setEng, if_pos rfl]

theorem State.descLeft_thr (t : Nat) : (s.descLeft c e r).thr c t = s.thr c t := by
  have hsummed : (s.descSummed c r).thr c t = s.thr c t := s.descSummed_coreField (·.thr t) (fun _ _ => rfl) c r c
  rw [State.descLeft, thr_modCore _ _ _ _ _ rfl, State.descRecord_thr, State.engCycles_thr, hsummed]

theorem State.descLeft_stores : (s.descLeft c e r).stores = (((s.descSummed c r).engCycles c e r).descRecord c r).stores :=
  State.modCore_stores rfl

theorem State.descCounted_stores : ((s.descSummed c r).engCycles c e r).stores = s.stores := by
  rw [State.stores_of_still (State.engCycles_still ..), State.descSummed_stores]

/-- The completion record is all that the end of a descriptor stores. -/
theorem State.descLeft_stored {u : State} (hu : u.stores = (s.descLeft c e r).stores) :
    if r.records = true then stored s u c r.recordAt r.recordBytes else storedNone s u := by
  rw [State.descLeft_stores, State.descRecord_eq] at hu
  split
  · next h =>
    rw [if_pos h] at hu
    exact stored_of_stores (s.descCounted_stores c e r) hu
  · next h =>
    rw [if_neg h, State.descCounted_stores] at hu
    exact storedNone_of_stores hu

end

theorem Running.records_iff (r : Running) :
    r.records = true ↔ (cw r.d.bytes 0 3 = 0 ∨ cw r.d.bytes 0 3 = 2) ∧ cwBit r.d.bytes 41 = true := by
  simp [Running.records, dStream]

/-- A context that waits for the ticket goes on with its status. -/
theorem State.descStatus_answers {s : State} {c e seq status t rd : Nat} (hst : (s.thr c t).st = .waitEngine)
    (hwait : (s.thr c t).wait = .engine rd (e + seq * 16)) :
    (s.descStatus c e seq status).thr c t = ((s.thr c t).setRn rd (BitVec.ofNat 64 status)).complete := by
  have hlogged : ((s.modCore c (fun k => k.setEng e ((k.eng e).logged seq status))).bump (engEndCnt c e status) 1).thr c t = s.thr c t :=
    (thr_bump ..).trans (thr_modCore _ _ _ _ _ rfl)
  have hawaits : (s.thr c t).awaits (e + seq * 16) = true := by simp [Thread.awaits, hst, hwait]
  have hanswered : (s.thr c t).answered status = ((s.thr c t).setRn rd (BitVec.ofNat 64 status)).complete := by
    simp [Thread.answered, hwait]
  have hdone : ((s.thr c t).answered status).awaits (e + seq * 16) = false := by
    rw [hanswered]
    exact Thread.awaits_of_st (fun h => TState.noConfusion h) _
  rw [State.descStatus_eq, wakeIf_thr (Thread.awaits_of_st (fun h => TState.noConfusion h) _) (by rw [hlogged]; exact hawaits)
    (by rw [hlogged]; exact hdone), hlogged, hanswered]

theorem descComplete_ends {s : State} {c : CoreId} {e : EngId} {r : Running} (hready : s.coreReady c = true)
    (hpaused : s.engPaused c e = false) (hrun : ((s.core c).eng e).run = some r) (hended : r.ended = true) (hout : r.out = [])
    (hpoison : r.status ≠ 0x0284) (hdouble : r.status ≠ 0x0285) :
    completes (exec (.descComplete c e) s) (fun u => ((u.core c).eng e).run = none ∧
      (∀ p ∈ ((u.core c).eng e).log, p.1 = r.d.seq → p.2 = some r.status) ∧
      (if (cw r.d.bytes 0 3 = 0 ∨ cw r.d.bytes 0 3 = 2) ∧ cwBit r.d.bytes 41 = true then stored s u c r.recordAt r.recordBytes
        else storedNone s u) ∧
      (∀ t rd, (s.thr c t).st = .waitEngine → (s.thr c t).wait = .engine rd (e.val + r.d.seq * 16) →
        (u.thr c t).st = .ready ∧ (u.thr c t).pc = (s.thr c t).pc + 1 ∧
        ∀ i, (u.thr c t).r i = if i = 0 then 0 else if i = Fin.ofNat 16 rd then BitVec.ofNat 64 r.status else (s.thr c t).r i)) := by
  refine ⟨_, exec_descComplete hready hpaused hrun hended hout hpoison hdouble, ?_, ?_, ?_, fun t rd hst hwait => ?_⟩
  · rw [State.descStatus_run, State.descLeft_run]
  · rw [State.descStatus_eng, if_pos rfl]
    exact Engine.logged_status _ _ _
  · have hstored := s.descLeft_stored c e r (State.stores_of_still ((s.descLeft c e r).descStatus_still c e r.d.seq r.status))
    simpa only [Running.records_iff] using hstored
  · have hkept := s.descLeft_thr c e r t
    rw [State.descStatus_answers (by rw [hkept]; exact hst) (by rw [hkept]; exact hwait), hkept]
    exact ⟨rfl, congrArg (· + 1) (pc_setR ..), fun i => setR_r ..⟩

/-- Settles O20: descriptors start, run and end by the lemmas on what each leaves of its core, and a tile's accumulator is a sum
whose steps `accAdd_exact` and `accAdd_clamps` give. -/
theorem descriptorsRunAndEnd : Obligations.DescriptorsRunAndEnd := by
  unfold Obligations.DescriptorsRunAndEnd
  refine ⟨fun c e s hready hpaused => ⟨fun q rest hqueue hidle => ⟨?_, fun hcheck hlist => ?_⟩, fun r => ?_⟩,
    fun f w x i j n hint => ⟨?_, ?_⟩⟩
  · exact descStart_fails hready hpaused hqueue hidle
  · exact descStart_runs hready hpaused hqueue hidle hcheck hlist
  · exact descComplete_ends hready hpaused
  · exact tileAcc_exact hint w x i j n
  · exact accAdd_clamps

end Sys2Proof.Machine
end

section
/-! SUPPORT. The core Collator takes an entry of an engine's output queue and seals a list (R121, R137 to R142), and the bytes of
the record that it seals with (R144 to R146, R150, R151); O21. -/

namespace Sys2Proof.Machine

/-! ### Byte fields of lists -/

theorem leAt_append_left {a : List Byte} {off n : Nat} (h : off + n ≤ a.length) (b : List Byte) : leAt (a ++ b) off n = leAt a off n := by
  rw [leAt, List.drop_append_of_le_length (by omega), List.take_append_of_le_length (by rw [List.length_drop]; omega), leAt]

theorem leAt_append_right (a b : List Byte) (off n : Nat) : leAt (a ++ b) (a.length + off) n = leAt b off n := by
  rw [leAt, List.drop_length_add_append, leAt]

theorem leAt_leBytes (n v : Nat) (b : List Byte) : leAt (leBytes n v ++ b) 0 n = v % 256 ^ n := by
  rw [leAt_append_left (by simp), leAt, List.drop_zero, List.take_of_length_le (length_leBytes n v).le, leNat_leBytes]

theorem leAt_after_leBytes (m v : Nat) (b : List Byte) (n : Nat) : leAt (leBytes m v ++ b) m n = leAt b 0 n := by
  have hright := leAt_append_right (leBytes m v) b 0 n
  rwa [length_leBytes] at hright

/-- A field of the `i`-th of several rows of one width. -/
theorem leAt_flatMap {α : Type} {f : α → List Byte} {w : Nat} (hw : ∀ x, (f x).length = w) {off n : Nat} (hoff : off + n ≤ w)
    (l : List α) (i : Nat) (h : i < l.length) : leAt (l.flatMap f) (w * i + off) n = leAt (f l[i]) off n := by
  induction l generalizing i with
  | nil => cases h
  | cons x l ih =>
    cases i with
    | zero =>
      rw [List.flatMap_cons, Nat.mul_zero, Nat.zero_add, leAt_append_left (by rwa [hw]), List.getElem_cons_zero]
    | succ i =>
      have hrow : w * (i + 1) + off = (f x).length + (w * i + off) := by rw [hw]; ring
      rw [List.flatMap_cons, hrow, leAt_append_right, ih i (Nat.lt_of_succ_lt_succ h), List.getElem_cons_succ]

/-! ### Result records (R146, R150, R151) -/

theorem entryBytes_length (id : Word) (x : F32) (src : Nat) : (entryBytes id x src).length = 16 := by
  simp [entryBytes, zeros]

theorem entryBytes_id (id : Word) (x : F32) (src : Nat) : leAt (entryBytes id x src) 0 8 = id.toNat := by
  simp only [entryBytes, List.append_assoc]
  exact (leAt_leBytes ..).trans (Nat.mod_eq_of_lt id.isLt)

theorem entryBytes_score (id : Word) (x : F32) (src : Nat) : leAt (entryBytes id x src) 8 4 = x.toNat := by
  simp only [entryBytes, List.append_assoc]
  rw [leAt_after_leBytes, leAt_leBytes]
  exact Nat.mod_eq_of_lt x.isLt

/-- The entries of a list's record: its own in rank order, then fill entries up to K. -/
def ColList.rows (l : ColList) : List (Word × F32) :=
  l.entries ++ List.replicate (lcK l.cfg - l.entries.length) (BitVec.allOnes 64, fillScore (lcMax l.cfg))

/-- The bytes of one entry of a core list's record. -/
def listRow (e : Word × F32) : List Byte := entryBytes e.1 e.2 0

theorem listRow_length (e : Word × F32) : (listRow e).length = 16 := entryBytes_length ..

theorem ColList.rows_length {l : ColList} (h : l.entries.length ≤ lcK l.cfg) : l.rows.length = lcK l.cfg := by
  rw [ColList.rows, List.length_append, List.length_replicate]
  omega

theorem ColList.rows_entry (l : ColList) {i : Nat} (h : i < l.entries.length) (hrow : i < l.rows.length) : l.rows[i] = l.entries[i] :=
  List.getElem_append_left h

theorem ColList.rows_fill (l : ColList) {i : Nat} (h : l.entries.length ≤ i) (hrow : i < l.rows.length) :
    l.rows[i] = (BitVec.allOnes 64, fillScore (lcMax l.cfg)) := (List.getElem_append_right h).trans (List.getElem_replicate ..)

/-- A record is a header of 64 bytes, COUNT and K first, and its rows. -/
theorem ColList.record_eq (l : ColList) (tag core : Nat) : ∃ head : List Byte, head.length = 64 ∧
    leAt head 0 2 = l.entries.length % 2 ^ 16 ∧ leAt head 2 2 = lcK l.cfg % 2 ^ 16 ∧
    l.record tag core = head ++ l.rows.flatMap listRow := by
  have hrows : l.rows.flatMap listRow = (l.entries.map (fun e => (e.1, e.2, 0))).flatMap (fun e => entryBytes e.1 e.2.1 e.2.2) ++
      (List.replicate (lcK l.cfg - (l.entries.map (fun e => (e.1, e.2, 0))).length)
        (entryBytes (BitVec.allOnes 64) (fillScore (lcMax l.cfg)) 0)).flatten := by
    simp only [ColList.rows, List.flatMap_append, List.flatMap_map, List.flatMap_replicate, List.length_map]
    rfl
  refine ⟨_, ?_, ?_, ?_, by rw [hrows]; exact List.append_assoc ..⟩
  · simp [zeros]
  · simp only [List.append_assoc, List.length_map]
    exact leAt_leBytes ..
  · simp only [List.append_assoc]
    exact (leAt_after_leBytes ..).trans (leAt_leBytes ..)

/-- The ID and the score of the `i`-th row of a record. -/
theorem ColList.record_row {l : ColList} (tag core : Nat) {i : Nat} (h : i < l.rows.length) :
    leAt (l.record tag core) (64 + 16 * i) 8 = l.rows[i].1.toNat ∧ leAt (l.record tag core) (72 + 16 * i) 4 = l.rows[i].2.toNat := by
  obtain ⟨head, hhead, -, -, heq⟩ := l.record_eq tag core
  have hrow (off n : Nat) (hoff : off + n ≤ 16) :
      leAt (l.record tag core) (64 + (16 * i + off)) n = leAt (listRow l.rows[i]) off n := by
    rw [heq, ← hhead, leAt_append_right, leAt_flatMap listRow_length hoff]
  have hscore : 72 + 16 * i = 64 + (16 * i + 8) := by omega
  rw [hscore]
  exact ⟨(hrow 0 8 (by decide)).trans (entryBytes_id ..), (hrow 8 4 (by decide)).trans (entryBytes_score ..)⟩

theorem ColList.record_length {l : ColList} (tag core : Nat) (h : l.entries.length ≤ lcK l.cfg) :
    (l.record tag core).length = 64 + 16 * lcK l.cfg := by
  obtain ⟨head, hhead, -, -, heq⟩ := l.record_eq tag core
  have hlengths : l.rows.map (fun e => (listRow e).length) = List.replicate l.rows.length 16 := by
    simp only [listRow_length, List.map_const']
  rw [heq, List.length_append, hhead, List.length_flatMap, hlengths, List.sum_replicate_nat, l.rows_length h]
  ring

/-- COUNT and K of a record. -/
theorem ColList.record_counts {l : ColList} (tag core : Nat) (h : l.entries.length ≤ lcK l.cfg) (hk : lcK l.cfg < 65536) :
    leAt (l.record tag core) 0 2 = l.entries.length ∧ leAt (l.record tag core) 2 2 = lcK l.cfg := by
  obtain ⟨head, hhead, hcount, hsize, heq⟩ := l.record_eq tag core
  rw [heq, leAt_append_left (by omega), leAt_append_left (by omega), hcount, hsize]
  exact ⟨Nat.mod_eq_of_lt (by omega), Nat.mod_eq_of_lt hk⟩

/-! ### Taking an entry (R121, R142) -/

/-- What `take()` of R142 makes of an entry for list `l`. -/
def Core.took (k : Core) (l : Nat) (id : Word) (x : F32) : List (Word × F32) × Acct × Took :=
  takeEntry (k.list l).cfg true (k.dead l id) (k.list l).entries (k.list l).acct id x

/-- List `l` after it. -/
def Core.listTook (k : Core) (l : Nat) (id : Word) (x : F32) : ColList :=
  { k.list l with entries := (k.took l id x).1, acct := (k.took l id x).2.1 }

theorem State.colTake_open {s : State} {c l : Nat} (h : ((s.core c).list l).isOpen = true) (hop : Nat) (id : Word) (x : F32) :
    (s.colTake c l false hop id x).1 =
      (s.modCore c (·.setList l ((s.core c).listTook l id x))).countTook c ((s.core c).took l id x).2.2 := by
  simp [State.colTake, h, Core.listTook, Core.took]

theorem Core.list_setList (k : Core) (l m : Nat) (x : ColList) : (k.setList l x).list m = if m = l then x else k.list m := Tab.get_set ..

theorem Core.dead_congr {j k : Core} (hlists : j.lists = k.lists) (hgroups : j.groups = k.groups) (htombs : j.tombs = k.tombs) (l : Nat)
    (id : Word) : j.dead l id = k.dead l id := by
  unfold Core.dead Core.tombstoned Core.grp Core.list
  rw [hlists, hgroups, htombs]

/-- The engine's oldest entry has left its output queue, and the engine is the last in the Collator's order. -/
def State.entryLeft (s : State) (c e : Nat) (r : Running) (xs : List (Word × F32)) : State :=
  s.modCore c (fun k => (k.setEng e { (s.core c).eng e with run := some { r with out := xs } }).served e)

theorem State.takeOldest_eq {s : State} {c e : Nat} {r : Running} {x : Word × F32} {xs : List (Word × F32)}
    (hrun : ((s.core c).eng e).run = some r) (hout : r.out = x :: xs) : s.takeOldest c e =
      if s.reachesList c r.list r.d.ctx r.d.group r.d.gen then ((s.entryLeft c e r xs).colTake c r.list r.d.spec r.d.hop x.1 x.2).1
      else (s.entryLeft c e r xs).bump (colP c + 0xA8) 1 := by
  simp only [State.takeOldest, hrun, hout, State.entryLeft]

section
variable (s : State) (c e : Nat) (r : Running) (xs : List (Word × F32))

theorem State.entryLeft_stores : (s.entryLeft c e r xs).stores = s.stores := State.modCore_stores rfl

theorem State.entryLeft_run : (((s.entryLeft c e r xs).core c).eng e).run = some { r with out := xs } := by
  rw [State.entryLeft, core_modCore, if_pos rfl]
  exact congrArg Engine.run ((Core.eng_setEng ..).trans (if_pos rfl))

theorem State.entryLeft_list (l : Nat) : ((s.entryLeft c e r xs).core c).list l = (s.core c).list l :=
  modCore_coreField (g := fun k => k.list l) rfl c

theorem State.entryLeft_dead (l : Nat) (id : Word) : ((s.entryLeft c e r xs).core c).dead l id = (s.core c).dead l id := by
  rw [State.entryLeft, core_modCore, if_pos rfl]
  exact Core.dead_congr rfl rfl rfl l id

theorem State.entryLeft_took (l : Nat) (id : Word) (x : F32) :
    ((s.entryLeft c e r xs).core c).took l id x = (s.core c).took l id x := by
  rw [Core.took, State.entryLeft_list, State.entryLeft_dead, Core.took]

theorem State.entryLeft_listTook (l : Nat) (id : Word) (x : F32) :
    ((s.entryLeft c e r xs).core c).listTook l id x = (s.core c).listTook l id x := by
  rw [Core.listTook, State.entryLeft_took, State.entryLeft_list, Core.listTook]

end

/-- The cycles that a full output queue has stopped the engine are counted. -/
def State.queueWaited (s : State) (c e : Nat) (r : Running) : State :=
  if 8 ≤ r.out.length ∧ !r.ended then s.waitUpTo (engP c + 0x100 + e * 0x40 + 0x38) 16 else s

section
variable (s : State) (c e : Nat) (r : Running)

theorem State.queueWaited_core (d : Nat) : (s.queueWaited c e r).core d = s.core d := by
  unfold State.queueWaited
  split <;> rfl

theorem State.queueWaited_stores : (s.queueWaited c e r).stores = s.stores := by
  unfold State.queueWaited
  split <;> rfl

theorem State.queueWaited_reg {a : Nat} (h : a ≠ engP c + 0x100 + e * 0x40 + 0x38) : (s.queueWaited c e r).reg a = s.reg a := by
  unfold State.queueWaited
  split
  · exact State.bump_reg_other _ _ h
  · rfl

theorem State.queueWaited_reaches (l ctx g gen : Nat) :
    (s.queueWaited c e r).reachesList c l ctx g gen = s.reachesList c l ctx g gen := by
  simp only [State.reachesList, State.grp, State.queueWaited_core]
  rfl

end

theorem State.isOpen_of_reaches {s : State} {c l ctx g gen : Nat} (h : s.reachesList c l ctx g gen = true) :
    ((s.core c).list l).isOpen = true := (Bool.and_eq_true_iff.1 h).1

section
variable {s : State} {c : CoreId} {e : EngId} {r : Running} {x : Word × F32} {xs : List (Word × F32)}
  (hready : s.coreReady c = true) (hrun : ((s.core c).eng e).run = some r) (hout : r.out = x :: xs)
  (hturn : (s.core c).colTurn e = true)
include hready hrun hout hturn

/-- An engine whose turn it is has its oldest entry taken. -/
theorem exec_collatorTake : exec (.collatorTake c e) s = .next ((s.queueWaited c e r).takeOldest c e) := by
  have hmay : (!s.coreReady c || !(s.core c).colTurn e) = false := by rw [hready, hturn]; rfl
  change execCollatorTake c e s = _
  simp only [execCollatorTake, hrun, hout, reduceCtorEq, false_and, if_false, hmay, Bool.false_eq_true]
  simp only [State.queueWaited, hout]

theorem exec_collatorTake_inserts (hreach : s.reachesList c r.list r.d.ctx r.d.group r.d.gen = true) (hspec : r.d.spec = false) :
    exec (.collatorTake c e) s = .next ((((s.queueWaited c e r).entryLeft c e r xs).modCore c
      (·.setList r.list ((s.core c).listTook r.list x.1 x.2))).countTook c ((s.core c).took r.list x.1 x.2).2.2) := by
  have hcore := s.queueWaited_core c e r c
  have hopen : ((((s.queueWaited c e r).entryLeft c e r xs).core c).list r.list).isOpen = true := by
    rw [State.entryLeft_list, hcore, State.isOpen_of_reaches hreach]
  rw [exec_collatorTake hready hrun hout hturn, State.takeOldest_eq (by rw [hcore]; exact hrun) hout,
    if_pos (by rw [State.queueWaited_reaches, hreach]), hspec, State.colTake_open hopen, State.entryLeft_listTook, State.entryLeft_took,
    hcore]

theorem collatorTake_inserts (hreach : s.reachesList c r.list r.d.ctx r.d.group r.d.gen = true) (hspec : r.d.spec = false) :
    completes (exec (.collatorTake c e) s) (fun u => (∃ r', ((u.core c).eng e).run = some r' ∧ r'.out = xs) ∧
      ((u.core c).list r.list).entries = ((s.core c).took r.list x.1 x.2).1 ∧
      ((u.core c).list r.list).acct = ((s.core c).took r.list x.1 x.2).2.1 ∧ storedNone s u) := by
  refine ⟨_, exec_collatorTake_inserts hready hrun hout hturn hreach hspec, ?_⟩
  dsimp only
  rw [State.countTook_core, core_modCore, if_pos rfl, Core.list_setList, if_pos rfl]
  refine ⟨⟨_, State.entryLeft_run .., rfl⟩, rfl, rfl, storedNone_of_stores ?_⟩
  rw [State.countTook_stores, State.modCore_stores rfl, State.entryLeft_stores, State.queueWaited_stores]

theorem exec_collatorTake_drops (hreach : s.reachesList c r.list r.d.ctx r.d.group r.d.gen = false) :
    exec (.collatorTake c e) s = .next (((s.queueWaited c e r).entryLeft c e r xs).bump (colP c + 0xA8) 1) := by
  rw [exec_collatorTake hready hrun hout hturn, State.takeOldest_eq (by rw [State.queueWaited_core]; exact hrun) hout,
    if_neg (by rw [State.queueWaited_reaches, hreach]; decide)]

theorem collatorTake_drops (hreach : s.reachesList c r.list r.d.ctx r.d.group r.d.gen = false) :
    completes (exec (.collatorTake c e) s) (fun u => (∃ r', ((u.core c).eng e).run = some r' ∧ r'.out = xs) ∧ storedNone s u ∧
      counted s u (colP c + 0xA8) 1) := by
  have hwait : colP c + 0xA8 ≠ engP c + 0x100 + e * 0x40 + 0x38 := by
    unfold colP engP
    omega
  refine ⟨_, exec_collatorTake_drops hready hrun hout hturn hreach, ?_⟩
  dsimp only
  rw [core_bump]
  refine ⟨⟨_, State.entryLeft_run .., rfl⟩, storedNone_of_stores ?_, ?_⟩
  · rw [State.bump_stores, State.entryLeft_stores, State.queueWaited_stores]
  · rw [counted, toNat_bump, State.entryLeft, reg_modCore, State.queueWaited_reg _ _ _ _ hwait]

end

/-! ### Sealing a list (R138) -/

/-- A merge asked for at a seal reaches the Desk's side alone. -/
theorem State.bulkSeal_eq (s : State) (c tag a : Nat) : ∃ d m, s.bulkSeal c tag a = { s with desk := d, merges := m } := by
  unfold State.bulkSeal
  split
  · exact ⟨_, _, rfl⟩
  · split
    · unfold State.askMerge
      split <;> exact ⟨_, _, rfl⟩
    · exact ⟨_, _, rfl⟩

theorem State.gsig_reg (s : State) (c g a : Nat) : (s.gsig c g).reg a = s.reg a := by
  rw [State.gsig, State.wakeIf_reg, State.modGrp_reg]

theorem State.gsig_coreField {β : Type} (f : Core → β) (hthr : ∀ k x, f { k with threads := x } = f k)
    (hgrp : ∀ k x, f { k with groups := x } = f k) (s : State) (c g d : Nat) : f ((s.gsig c g).core d) = f (s.core d) := by
  rw [State.gsig, wakeIf_coreField f hthr]
  exact modCore_coreField (hgrp ..) d

theorem State.gsig_grp (s : State) (c g : Nat) : (s.gsig c g).grp c g = { s.grp c g with events := (s.grp c g).events + 1 } := by
  rw [State.gsig, grp_wakeIf, grp_modGrp, if_pos ⟨rfl, rfl⟩]

/-- A group that is neither done nor killed goes on (R55). -/
theorem State.tryFree_of_goes_on {s : State} {c g : Nat} (hdone : (s.grp c g).done = false) (hkilled : (s.grp c g).killed = false) :
    s.tryFree c g = s := by
  simp [State.tryFree, hdone, hkilled]

/-- Where the list's record goes. -/
def ColList.place (x : ColList) : Nat := lcLine x.cfg * 64

/-- Core `k` with list `l` of group `g` closed, its record standing at line `n`. -/
def Core.closed (k : Core) (l g n : Nat) : Core := { k.setList l {} with sealed := Tab.set (fun _ => none) k.sealed g (some n) }

theorem Core.closed_list (k : Core) (l g n : Nat) : (k.closed l g n).list l = {} := (Core.list_setList k l l {}).trans (if_pos rfl)

theorem Core.closed_sealed (k : Core) (l g n : Nat) : Tab.get (fun _ => none) (k.closed l g n).sealed g = some n :=
  (Tab.get_set ..).trans (if_pos rfl)

theorem grp_writeScr (s : State) (c a d g : Nat) (bs : List Byte) : (s.writeScr c a bs).grp d g = s.grp d g :=
  grp_modCore s c d g (·.write a bs) rfl

/-- The record that list `l` seals with. -/
def State.listRecord (s : State) (c l : Nat) : List Byte :=
  ((s.core c).list l).record ((s.grp c ((s.core c).list l).owner).f 0 4) c

/-- The record of list `l` stands at its line, and the list is closed. -/
def State.listWritten (s : State) (c l : Nat) : State :=
  let x := (s.core c).list l
  (s.writeScr c x.place (s.listRecord c l)).modCore c (·.closed l x.owner (x.place / 64))

/-- The seal is counted too, and the merge of a bulk scan asked for; the list's group is not signalled yet. -/
def State.listSealed (s : State) (c l : Nat) : State :=
  let x := (s.core c).list l
  (((s.listWritten c l).bump (colP c + 0xC0) 1).bump (colP c + 0xB8) x.shadowCount).bulkSeal c ((s.grp c x.owner).f 0 4) x.place

section
variable (s : State) (c l : Nat)

/-- But for what the Desk is asked, the seal is a write of scratch, a change of the core and two counts. -/
theorem State.listSealed_congr {β : Type} {obs : State → β}
    (hdesk : ∀ (s : State) d m, obs { s with desk := d, merges := m } = obs s) : obs (s.listSealed c l) =
      obs (((s.listWritten c l).bump (colP c + 0xC0) 1).bump (colP c + 0xB8) ((s.core c).list l).shadowCount) := by
  obtain ⟨d, m, heq⟩ := State.bulkSeal_eq _ _ _ _
  exact (congrArg obs heq).trans (hdesk ..)

theorem State.listSealed_core : (s.listSealed c l).core c =
    ((s.core c).write ((s.core c).list l).place (s.listRecord c l)).closed l ((s.core c).list l).owner
      (((s.core c).list l).place / 64) := by
  rw [s.listSealed_congr c l (obs := fun s => s.core c) (fun _ _ _ => rfl), core_bump, core_bump, State.listWritten, core_modCore,
    if_pos rfl, State.writeScr, core_modCore, if_pos rfl]

theorem State.listSealed_stores :
    (s.listSealed c l).stores = (s.writeScr c ((s.core c).list l).place (s.listRecord c l)).stores := by
  rw [s.listSealed_congr c l (obs := State.stores) (fun _ _ _ => rfl), State.bump_stores, State.bump_stores]
  exact State.modCore_stores rfl

theorem State.listSealed_counted : counted s (s.listSealed c l) (colP c + 0xC0) 1 := by
  rw [counted, s.listSealed_congr c l (obs := fun s => s.reg (colP c + 0xC0)) (fun _ _ _ => rfl), State.bump_reg_other _ _ (by omega)]
  exact counted_bump (s.listWritten c l) (colP c + 0xC0) 1

theorem State.listSealed_grp (g : Nat) : (s.listSealed c l).grp c g = s.grp c g := by
  rw [s.listSealed_congr c l (obs := fun s => s.grp c g) (fun _ _ _ => rfl), State.bump_grp, State.bump_grp, State.listWritten,
    grp_modCore _ _ _ _ _ rfl, grp_writeScr]

end

section
variable {s : State} {c : CoreId} {l : ListId} (hready : s.coreReady c = true) (hopen : ((s.core c).list l).isOpen = true)
  (hseal : ((s.core c).list l).sealing = true) (hreopen : ((s.core c).list l).reopen = none)
  (harea : s.badArea c ((s.core c).list l).place (64 + 16 * lcK ((s.core c).list l).cfg) = false)
include hready hopen hseal hreopen harea

theorem exec_listSeal : exec (.listSeal c l) s =
    .next (((s.listSealed c l).gsig c ((s.core c).list l).owner).tryFree c ((s.core c).list l).owner) := by
  have hmay : (!(s.coreReady c && ((s.core c).list l).isOpen && ((s.core c).list l).sealing)) = false := by
    rw [hready, hopen, hseal]
    rfl
  change execListSeal c l s = _
  unfold ColList.place at harea
  simp only [execListSeal, hmay, harea, hreopen, Bool.false_eq_true, if_false, State.listSealed, State.listWritten,
    State.listRecord, ColList.place, Core.closed]

theorem listSeal_seals (hdone : (s.grp c ((s.core c).list l).owner).done = false)
    (hkilled : (s.grp c ((s.core c).list l).owner).killed = false) :
    completes (exec (.listSeal c l) s) (fun u =>
      stored s u c ((s.core c).list l).place (s.listRecord c l) ∧ ((u.core c).list l).isOpen = false ∧
      (u.grp c ((s.core c).list l).owner).events = (s.grp c ((s.core c).list l).owner).events + 1 ∧
      Tab.get (fun _ => none) (u.core c).sealed ((s.core c).list l).owner = some (((s.core c).list l).place / 64) ∧
      counted s u (colP c + 0xC0) 1) := by
  have hexec := exec_listSeal hready hopen hseal hreopen harea
  have hkept := State.gsig_grp (s.listSealed c l) c ((s.core c).list l).owner
  rw [State.listSealed_grp] at hkept
  rw [State.tryFree_of_goes_on (by rw [hkept]; exact hdone) (by rw [hkept]; exact hkilled)] at hexec
  refine ⟨_, hexec, ?_, ?_, ?_, ?_, ?_⟩
  · refine stored_of_stores (w := s) rfl ?_
    rw [State.stores_of_still (State.gsig_still ..), State.listSealed_stores]
  · rw [State.gsig_coreField (fun k => (k.list l).isOpen) (fun _ _ => rfl) (fun _ _ => rfl), State.listSealed_core, Core.closed_list]
  · rw [hkept]
  · rw [State.gsig_coreField Core.sealed (fun _ _ => rfl) (fun _ _ => rfl), State.listSealed_core, Core.closed_sealed]
  · rw [counted, State.gsig_reg]
    exact State.listSealed_counted ..

end

/-- Settles O21: an entry is taken and a list sealed by the equations of the two commands, and the fields of a record are those of
its header and its rows. -/
theorem collatorTakesAndSeals : Obligations.CollatorTakesAndSeals := by
  unfold Obligations.CollatorTakesAndSeals
  refine ⟨fun c e l s hready => ⟨fun r x xs hrun hout hturn => ⟨?_, ?_⟩, ?_⟩, fun l tag core hfits hk => ?_⟩
  · exact collatorTake_inserts hready hrun hout hturn
  · exact collatorTake_drops hready hrun hout hturn
  · exact listSeal_seals hready
  · obtain ⟨hcount, hsize⟩ := l.record_counts tag core hfits hk
    have hrow (i : Nat) (hi : i < lcK l.cfg) := l.record_row tag core (hi.trans_eq (l.rows_length hfits).symm)
    refine ⟨l.record_length tag core hfits, hcount, hsize, fun i hi => ?_, fun i hlo hhi => ?_⟩
    · have hfields := hrow i (hi.trans_le hfits)
      rwa [l.rows_entry hi] at hfields
    · have hfields := hrow i hhi
      rwa [l.rows_fill hlo] at hfields

end Sys2Proof.Machine
end

section
/-! SUPPORT. What CINS does to an open list of its own group (R93, R121, R141, R142); O8. -/

namespace Sys2Proof.Machine

/-! ### Placing an entry (R141, R142) -/

/-- An entry is placed behind entries that it does not beat, and ahead of one that it beats. -/
theorem placeEntry_split (mx : Bool) (id : Word) (x : F32) (es : List (Word × F32)) : ∃ a b, es = a ++ b ∧
    placeEntry mx id x es = a ++ (id, x) :: b ∧ (∀ e ∈ a, better mx x e.2 = false) ∧ ∀ e ∈ b.head?, better mx x e.2 = true := by
  induction es with
  | nil => exact ⟨[], [], rfl, rfl, by simp, by simp⟩
  | cons e es ih =>
    rw [placeEntry]
    split
    · next hbeats => exact ⟨[], e :: es, rfl, rfl, by simp, by simpa using hbeats⟩
    · next hloses =>
      obtain ⟨a, b, hsplit, hplaced, hbefore, hbehind⟩ := ih
      exact ⟨e :: a, b, congrArg (e :: ·) hsplit, congrArg (e :: ·) hplaced,
        List.forall_mem_cons.2 ⟨Bool.eq_false_of_not_eq_true hloses, hbefore⟩, hbehind⟩

/-- Whether `take()` has entered the entry. -/
def Took.isEntered : Took → Bool
  | .entered _ => true
  | _ => false

section
variable {w : Word} {es : List (Word × F32)} {x : F32} (hnumber : isNaN32 x = false)
include hnumber

/-- A list with room, or whose last entry is beaten, takes the entry; of a full one the last entry drops out. -/
theorem takeEntry_enters (hroom : es.length < lcK w ∨ better (lcMax w) x (kth es) = true) (a : Acct) (id : Word) :
    (takeEntry w true false es a id x).1 = placeEntry (lcMax w) id x (if es.length < lcK w then es else es.dropLast) ∧
    (takeEntry w true false es a id x).2.2.isEntered = true := by
  by_cases hfull : es.length < lcK w
  · simp [takeEntry, hnumber, isFull, Nat.not_le.2 hfull, hfull, Took.isEntered]
  · have hbeats := hroom.resolve_left hfull
    simp [takeEntry, hnumber, isFull, Nat.not_lt.1 hfull, hfull, hbeats, Took.isEntered]

/-- A full list whose last entry is not beaten leaves the entry out. -/
theorem takeEntry_leaves (hfull : lcK w ≤ es.length) (hlast : better (lcMax w) x (kth es) = false) (dead : Bool) (a : Acct)
    (id : Word) : takeEntry w true dead es a id x = (es, a.leave w x, .left) := by
  simp [takeEntry, hnumber, isFull, hfull, hlast]

end

/-! ### The owners of lists (R121, R137) -/

/-- The groups for which a core's lists are open. -/
def State.listOwner (s : State) (c l : Nat) : Nat := ((s.core c).list l).owner

theorem State.setList_listOwner {s : State} {c l : Nat} {x : ColList} (h : x.owner = s.listOwner c l) (m : Nat) :
    (s.modCore c (·.setList l x)).listOwner c m = s.listOwner c m := by
  rw [State.listOwner, core_modCore, if_pos rfl, Core.list_setList]
  split
  · next hm => rw [hm, h]
  · rfl

@[simp] theorem State.bump_listOwner (s : State) (a n c m : Nat) : (s.bump a n).listOwner c m = s.listOwner c m := rfl

@[simp] theorem State.countTook_listOwner (s : State) (c : Nat) (r : Took) (m : Nat) :
    (s.countTook c r).listOwner c m = s.listOwner c m := by
  rw [State.listOwner, State.countTook_core, State.listOwner]

/-- What the Collator takes for a list leaves the list its group's. -/
theorem State.colTake_listOwner (s : State) (c l : Nat) (spec : Bool) (hop : Nat) (id : Word) (x : F32) (m : Nat) :
    (s.colTake c l spec hop id x).1.listOwner c m = s.listOwner c m := by
  unfold State.colTake
  dsimp only
  split
  · exact State.bump_listOwner ..
  · split
    · split
      · exact (State.bump_listOwner ..).trans (State.setList_listOwner (by rfl) m)
      · exact State.setList_listOwner (by rfl) m
    · exact (State.countTook_listOwner ..).trans (State.setList_listOwner (by rfl) m)

theorem State.takeOldest_listOwner (s : State) (c e m : Nat) : (s.takeOldest c e).listOwner c m = s.listOwner c m := by
  cases hrun : ((s.core c).eng e).run with
  | none => simp [State.takeOldest, hrun]
  | some r =>
    cases hout : r.out with
    | nil => simp [State.takeOldest, hrun, hout]
    | cons x xs =>
      have hleft : (s.entryLeft c e r xs).listOwner c m = s.listOwner c m :=
        congrArg ColList.owner (s.entryLeft_list c e r xs m)
      rw [State.takeOldest_eq hrun hout]
      split
      · exact (State.colTake_listOwner ..).trans hleft
      · exact (State.bump_listOwner ..).trans hleft

theorem State.serveAhead_listOwner (s : State) (c m : Nat) : (s.serveAhead c).listOwner c m = s.listOwner c m :=
  foldl_unchanged (fun s => s.listOwner c m) (fun s e => s.takeOldest_listOwner c e m) _ s

/-! ### CINS (R93, R121) -/

/-- The Collator has served the engines ahead of CINS, and then CINS. -/
def State.cinsServed (s : State) (c : Nat) : State := (s.serveAhead c).modCore c (·.served 16)

theorem State.cinsServed_listening (s : State) (c : Nat) : (s.cinsServed c).listening c = s.listening c :=
  (State.served_listening ..).trans (s.serveAhead_listening c)

theorem State.cinsServed_list (s : State) (c l : Nat) : ((s.cinsServed c).core c).list l = ((s.serveAhead c).core c).list l :=
  modCore_coreField (g := fun k => k.list l) rfl c

theorem State.cinsServed_dead (s : State) (c l : Nat) (id : Word) :
    ((s.cinsServed c).core c).dead l id = ((s.serveAhead c).core c).dead l id := by
  rw [State.cinsServed, core_modCore, if_pos rfl]
  exact Core.dead_congr rfl rfl rfl l id

theorem State.cinsServed_listOwner (s : State) (c l : Nat) : (s.cinsServed c).listOwner c l = s.listOwner c l :=
  (congrArg ColList.owner (s.cinsServed_list c l)).trans (s.serveAhead_listOwner c l)

/-- CINS of a thread that may use the list is the Collator's take of its operands. -/
theorem exec_cins_own {s : State} {c : CoreId} {t : CtxId} (h : canIssue s c t) (ht : t.val < 8192) (rd ra rb : Reg) {fn : BitVec 14}
    (hfn : fn.toNat < 64) (hown : (s.issued c t).foreignList c fn.toNat (some (s.thr c t).group) = false) :
    let r := ((s.issued c t).cinsServed c).colTake c fn.toNat (s.thr c t).spec (s.thr c t).hop ((s.thr c t).r ra)
      (f32 ((s.thr c t).r rb))
    exec (.cins c t rd ra rb fn) s = .next (r.1.retire c t rd (if r.2 then 1 else 0)) := by
  have hhart : isHart t.val = false := decide_eq_false (not_le.2 ht)
  have hmod : fn.toNat % 64 = fn.toNat := Nat.mod_eq_of_lt hfn
  have hbit : bit fn.toNat 6 = false := by
    rw [bit, Nat.div_eq_of_lt (by omega)]
    rfl
  change execCins c t rd ra rb fn s = _
  unfold execCins
  rw [hbit]
  refine (issue_legal h (by simp; omega) (.inl rfl) _).trans ?_
  simp only [hmod, hhart, group_issued, hown, spec_issued, hop_issued, r_issued, State.cinsServed, Bool.false_eq_true, if_false]
  rfl

theorem State.colTake_enters {s : State} {c l : Nat} (h : ((s.core c).list l).isOpen = true) (hop : Nat) (id : Word) (x : F32) :
    (s.colTake c l false hop id x).2 = ((s.core c).took l id x).2.2.isEntered := by
  simp only [State.colTake, h, Core.took, Bool.not_true, Bool.false_eq_true, if_false]
  rfl

theorem list_retire (s : State) (c t d l : Nat) (rd : Reg) (v : Word) : ((s.retire c t rd v).core d).list l = (s.core d).list l := by
  have hlists := congrArg Core.lists (core_modThr s c t d (fun x => { x.setR rd v with pc := x.pc + 1 }))
  exact congrArg (fun m => Tab.get (fun _ => ({} : ColList)) m l) hlists

theorem State.colTake_list {s : State} {c l : Nat} (h : ((s.core c).list l).isOpen = true) (hop : Nat) (id : Word) (x : F32) :
    ((s.colTake c l false hop id x).1.core c).list l = (s.core c).listTook l id x := by
  rw [State.colTake_open h, State.countTook_core, core_modCore, if_pos rfl, Core.list_setList, if_pos rfl]

/-- An open list of the thread's own group is not foreign to it. -/
theorem State.foreignList_own {s : State} {c l g : Nat} (hcfg : lcK (s.listCfg c l) ≠ 0) (howner : s.listOwner c l = g) :
    s.foreignList c l (some g) = false := by
  unfold State.listOwner at howner
  simp [State.foreignList, hcfg, howner]

/-- A thread's CINS at an open list of its own group answers whether `take()` of R142 enters the entry, and leaves the list as
`take()` does. -/
theorem cins_takes {s : State} {c : CoreId} {t : CtxId} (h : canIssue s c t) (ht : t.val < 8192) (rd ra rb : Reg) {fn : BitVec 14}
    (hfn : fn.toNat < 64) (hspec : (s.thr c t).spec = false) (hcfg : lcK ((s.issued c t).listCfg c fn.toNat) ≠ 0)
    (hopen : ((((s.issued c t).serveAhead c).core c).list fn.toNat).isOpen = true)
    (howner : ((((s.issued c t).serveAhead c).core c).list fn.toNat).owner = (s.thr c t).group) :
    completes (exec (.cins c t rd ra rb fn) s) (fun u =>
      let k := ((s.issued c t).serveAhead c).core c
      let tk := k.took fn.toNat ((s.thr c t).r ra) (((s.thr c t).r rb).extractLsb' 0 32)
      regWrote s u c t rd (if tk.2.2.isEntered then 1 else 0) ((s.thr c t).pc + 1) ∧
      ((u.core c).list fn.toNat).entries = tk.1 ∧ ((u.core c).list fn.toNat).acct = tk.2.1) := by
  have hown : (s.issued c t).foreignList c fn.toNat (some (s.thr c t).group) = false :=
    State.foreignList_own hcfg ((State.serveAhead_listOwner ..).symm.trans howner)
  have hserved : ((((s.issued c t).cinsServed c).core c).list fn.toNat).isOpen = true := by rw [State.cinsServed_list, hopen]
  have htook (id : Word) (x : F32) : (((s.issued c t).cinsServed c).core c).took fn.toNat id x =
      (((s.issued c t).serveAhead c).core c).took fn.toNat id x := by
    rw [Core.took, State.cinsServed_list, State.cinsServed_dead, Core.took]
  have hkept (hop : Nat) (id : Word) (x : F32) :=
    (State.colTake_listening ((s.issued c t).cinsServed c) c fn.toNat false hop id x).trans (State.cinsServed_listening ..)
  have hexec := exec_cins_own h ht rd ra rb hfn hown
  rw [hspec] at hexec
  refine ⟨_, hexec, ?_⟩
  dsimp only
  rw [list_retire, State.colTake_enters hserved, State.colTake_list hserved, Core.listTook, htook]
  exact ⟨regWrote_retire (State.thr_of_listening (hkept ..) t) rd _, rfl, rfl⟩

/-- Settles O8: the entry goes through `take()`, which places it in the ranking or leaves it out. -/
theorem collatorInsert : Obligations.CollatorInsert := by
  unfold Obligations.CollatorInsert
  intro c t rd ra rb fn s h hfn ht x w v l id sc mx k hspec hcfg hopen howner hnumber hdead
  obtain ⟨u, hnext, hwrote, hentries, hacct⟩ := cins_takes h ht rd ra rb hfn hspec hcfg hopen howner
  have htook : (v.core c).took fn.toNat id sc = takeEntry l.cfg true false l.entries l.acct id sc := by rw [Core.took, hdead]
  rw [htook] at hwrote hentries hacct
  refine ⟨u, hnext, fun hroom => ?_, fun ⟨hfull, hlast⟩ => ?_⟩
  · obtain ⟨hplaced, hentered⟩ := takeEntry_enters hnumber hroom l.acct id
    obtain ⟨a, b, hsplit, hinserted, hranked⟩ := placeEntry_split mx id sc (if l.entries.length < k then l.entries else l.entries.dropLast)
    rw [hentered] at hwrote
    exact ⟨hwrote, a, b, hsplit, hentries.trans (hplaced.trans hinserted), hranked⟩
  · have hleft := takeEntry_leaves hnumber hfull hlast false l.acct id
    rw [hleft] at hwrote hentries hacct
    exact ⟨hwrote, hentries, congrArg Acct.left hacct⟩

end Sys2Proof.Machine
end

section
/-! SUPPORT. The Desk takes the reports of freed groups (R152, R203), and the chip Collator performs a merge (R153 to R155): what
its reads of the sources leave alone, and what becomes of the query; O22. -/

namespace Sys2Proof.Machine

/-! ### Reads of the tiers -/

/-- The Desk's own state, its queries among it, and the chip Collator's queue. -/
def State.mergeSide (s : State) : Desk × List Merge := (s.desk, s.merges)

@[simp] theorem State.free_mergeSide (s : State) (n : Nat) : ({ s with free := n } : State).mergeSide = s.mergeSide := rfl
@[simp] theorem State.bump_mergeSide (s : State) (a n : Nat) : (s.bump a n).mergeSide = s.mergeSide := rfl
@[simp] theorem State.waitCycles_mergeSide (s : State) (a : Nat) : (s.waitCycles a).mergeSide = s.mergeSide := rfl
@[simp] theorem State.modTp_mergeSide (s : State) (p : Nat) (f : TierPart → TierPart) : (s.modTp p f).mergeSide = s.mergeSide := rfl
@[simp] theorem State.modNs_mergeSide (s : State) (p : Nat) (f : Ns → Ns) : (s.modNs p f).mergeSide = s.mergeSide := rfl
@[simp] theorem State.meterAdd_mergeSide (s : State) (p k n : Nat) : (s.meterAdd p k n).mergeSide = s.mergeSide := rfl
@[simp] theorem State.zeroed_mergeSide (s : State) (i : Nat) : (s.zeroed i).mergeSide = s.mergeSide := rfl
@[simp] theorem State.t2Seen_mergeSide (s : State) (p : Nat) : (s.t2Seen p).mergeSide = s.mergeSide := rfl
@[simp] theorem State.fcRead_mergeSide (s : State) (c n : Nat) : (s.fcRead c n).mergeSide = s.mergeSide := by
  rw [State.fcRead, State.bump_mergeSide, State.bump_mergeSide]
@[simp] theorem State.reportBad_mergeSide (s : State) (p : Option Nat) (tier inst piece cause line : Nat) :
    (s.reportBad p tier inst piece cause line).mergeSide = s.mergeSide := rfl
@[simp] theorem State.uncorr_mergeSide (s : State) (i o : Nat) (scrub : Bool) : (s.uncorr i o scrub).mergeSide = s.mergeSide := by
  rw [State.uncorr, State.reportBad_mergeSide, State.bump_mergeSide]
@[simp] theorem State.poisonRead_mergeSide (s : State) (p : Nat) : (s.poisonRead p).mergeSide = s.mergeSide := rfl

@[simp] theorem State.mapLook_mergeSide (s : State) (p lu : Nat) : (s.mapLook p lu).mergeSide = s.mergeSide := by
  unfold State.mapLook
  extract_lets n l s0 s1 s2
  have hloaded : s1.mergeSide = s.mergeSide := by
    simp only [s1]
    split
    · split <;> rfl
    · rfl
  split
  · exact hloaded
  · exact hloaded

@[simp] theorem State.flashRead_mergeSide (s : State) (p cw : Nat) (q : CwOutcome) : (s.flashRead p cw q).mergeSide = s.mergeSide := by
  unfold State.flashRead
  extract_lets c retries s1 s2
  have hread : s1.mergeSide = s.mergeSide := by rw [State.bump_mergeSide, State.fcRead_mergeSide]
  have hmembers : s2.mergeSide = s1.mergeSide :=
    foldl_unchanged State.mergeSide (fun s m => by simp only [apply_ite State.mergeSide, State.fcRead_mergeSide, ite_self]) _ s1
  clear_value s1 s2
  split
  · rw [State.bump_mergeSide, State.free_mergeSide, hread]
  · rw [State.modNs_mergeSide, hread]
  · split
    · rw [State.modNs_mergeSide, State.bump_mergeSide, hmembers, hread]
    · rw [State.bump_mergeSide, hmembers, hread]

@[simp] theorem State.fetchUnit_mergeSide (s : State) (p lu : Nat) : (s.fetchUnit p lu).1.mergeSide = s.mergeSide := by
  unfold State.fetchUnit
  split
  · rfl
  · dsimp only
    split
    · exact State.mapLook_mergeSide ..
    · rw [State.flashRead_mergeSide, State.free_mergeSide, State.mapLook_mergeSide]

@[simp] theorem State.readUnit_mergeSide (s : State) (p lu : Nat) : (s.readUnit p lu).1.mergeSide = s.mergeSide := by
  simp [State.readUnit, apply_ite Prod.fst, apply_ite State.mergeSide]

@[simp] theorem State.readUnits_mergeSide (s : State) (p : Nat) (a : Word) (n : Nat) : (s.readUnits p a n).1.mergeSide = s.mergeSide := by
  unfold State.readUnits
  split
  · rfl
  · refine (foldl_fst_unchanged State.mergeSide (fun x u => ?_) _ _).trans rfl
    exact State.readUnit_mergeSide ..

@[simp] theorem State.reportLoc_mergeSide (s : State) (p : Nat) (l : Option Loc) : (s.reportLoc p l).mergeSide = s.mergeSide := by
  rcases l with _ | ⟨i, o⟩ | o <;> simp [State.reportLoc]

@[simp] theorem State.reportLine_mergeSide (s : State) (p : Nat) (a : Word) (first : Bool) :
    (s.reportLine p a first).mergeSide = s.mergeSide := by
  unfold State.reportLine
  split
  · rfl
  · split <;> simp [apply_ite State.mergeSide]

@[simp] theorem State.cacheIn_mergeSide (s : State) (p g : Nat) : (s.cacheIn p g).mergeSide = s.mergeSide := by
  unfold State.cacheIn
  dsimp only
  rw [State.modTp_mergeSide]
  split
  · rfl
  · exact foldl_fst_unchanged State.mergeSide (fun x q => by simp [apply_ite State.mergeSide]) _ _

@[simp] theorem State.translate_mergeSide (s : State) (p g : Nat) : (s.translate p g).mergeSide = s.mergeSide := by
  unfold State.translate
  split
  · rfl
  · dsimp only
    split <;> simp

@[simp] theorem State.translateAll_mergeSide (s : State) (p : Nat) (a : Word) (n : Nat) :
    (s.translateAll p a n).mergeSide = s.mergeSide := by
  unfold State.translateAll
  split
  · rfl
  · exact foldl_unchanged State.mergeSide (fun s j => s.translate_mergeSide ..) _ s

@[simp] theorem State.yieldAt_mergeSide (s : State) (i o : Nat) : (s.yieldAt i o).mergeSide = s.mergeSide := by
  simp [State.yieldAt, apply_ite State.mergeSide]

@[simp] theorem State.yieldLines_mergeSide (s : State) (p : Nat) (a : Word) (n : Nat) : (s.yieldLines p a n).mergeSide = s.mergeSide :=
  foldl_unchanged State.mergeSide (fun s l => by split <;> simp) _ s

@[simp] theorem State.countAccess_mergeSide (s : State) (p : Nat) (a : Word) (n : Nat) :
    (s.countAccess p a n).mergeSide = s.mergeSide := by
  unfold State.countAccess
  split
  · rfl
  · exact foldl_unchanged State.mergeSide (fun s j => s.modTp_mergeSide ..) _ s

@[simp] theorem State.blockWaits_mergeSide (s : State) (p : Nat) (a : Word) (n : Nat) : (s.blockWaits p a n).mergeSide = s.mergeSide :=
  foldl_unchanged State.mergeSide (fun s l => by simp [State.placeWaits, apply_ite State.mergeSide]) _ s

@[simp] theorem State.awaitZero_mergeSide (s : State) (p : Nat) (a : Word) (n : Nat) : (s.awaitZero p a n).mergeSide = s.mergeSide :=
  foldl_unchanged State.mergeSide (fun s l => by split <;> simp [apply_ite State.mergeSide]) _ s

theorem State.readBy_mergeSide (s : State) (p : Nat) (a : Word) (n : Nat) : (s.readBy p a n).1.mergeSide = s.mergeSide := by
  have hreported (f : Nat → Word) (g : Nat → Bool) (l : List Nat) (t : State) :
      (l.foldl (fun s i => s.reportLine p (f i) (g i)) t).mergeSide = t.mergeSide :=
    foldl_unchanged State.mergeSide (fun s i => s.reportLine_mergeSide ..) l t
  unfold State.readBy
  dsimp only
  split <;> simp [State.readTo, hreported]

/-- A read by a block of the chip changes nothing else. -/
theorem State.devRead_mergeSide (s : State) (p : Nat) (a : Word) (n : Nat) : (s.devRead p a n).1.mergeSide = s.mergeSide := by
  refine Eq.trans ?_ (s.readBy_mergeSide p a n)
  simp only [State.devRead, State.meterRead]
  split <;> rfl

/-! ### The sources of a merge (R153) -/

theorem State.srcBytes_mergeSide (s : State) (p : Nat) (m : MSrc) (off n : Nat) : (s.srcBytes p m off n).1.mergeSide = s.mergeSide := by
  cases m with
  | scratch c a => simp only [State.srcBytes]; split <;> rfl
  | tier a =>
    simp only [State.srcBytes]
    split
    · exact s.devRead_mergeSide ..
    · rfl
  | held bs => rfl
  | absent => rfl

theorem State.checkSrc_mergeSide (s : State) (p : Nat) (m : MSrc) : (s.checkSrc p m).1.mergeSide = s.mergeSide := by
  have hhead := s.srcBytes_mergeSide p m 0 64
  unfold State.checkSrc
  split
  · rfl
  · split
    · next heq => rwa [heq] at hhead
    · next heq => rwa [heq] at hhead
    · next s1 h heq =>
      rw [heq] at hhead
      have hbody := (s1.srcBytes_mergeSide p m 64 (16 * recK h)).trans hhead
      split
      · exact hhead
      · split
        · next heq' => rwa [heq'] at hbody
        · next heq' => rwa [heq'] at hbody
        · next heq' =>
          rw [heq'] at hbody
          dsimp only
          split <;> exact hbody

/-- The checks of a merge's sources read the cores and the tiers, and leave the Desk and the Collator's queue alone. -/
theorem State.checkSrcs_mergeSide (s : State) (p : Nat) (l : List MSrc) : (s.checkSrcs p l).1.mergeSide = s.mergeSide := by
  induction l generalizing s with
  | nil => rfl
  | cons m l ih =>
    simp only [State.checkSrcs]
    split
    · exact s.checkSrc_mergeSide p m
    · exact (ih _).trans (s.checkSrc_mergeSide p m)

theorem State.query_of_mergeSide {s u : State} (h : u.mergeSide = s.mergeSide) (q : Nat) : u.query q = s.query q :=
  congrArg (fun x : Desk × List Merge => Tab.get (fun _ => none) x.1.queries q) h

theorem State.merges_of_mergeSide {s u : State} (h : u.mergeSide = s.mergeSide) : u.merges = s.merges := congrArg Prod.snd h

/-! ### What becomes of a merge's query (R152 to R155) -/

theorem State.bump_query (s : State) (a n q : Nat) : (s.bump a n).query q = s.query q := rfl

theorem State.nextMerge_query (s : State) (rest : List Merge) (q : Nat) : (s.nextMerge rest).query q = s.query q := by
  unfold State.nextMerge
  split <;> rfl

theorem State.nextMerge_merges_of_idle {s : State} (h : s.desk.mergeQ = []) (rest : List Merge) : (s.nextMerge rest).merges = rest := by
  simp only [State.nextMerge, h]

theorem State.nextMerge_merges_of_waiting {s : State} {w : Merge} {ws : List Merge} (h : s.desk.mergeQ = w :: ws) (rest : List Merge) :
    (s.nextMerge rest).merges = rest ++ [w] := by
  simp only [State.nextMerge, h]

theorem State.modQuery_merges (s : State) (t : Nat) (f : Query → Query) : (s.modQuery t f).merges = s.merges := by
  unfold State.modQuery
  split <;> rfl

theorem State.askMerge_query (s : State) (m : Merge) (q : Nat) : (s.askMerge m).query q = s.query q := by
  unfold State.askMerge
  split <;> rfl

/-- Whether the merge stage goes on or waits for records, the query keeps its own. -/
theorem State.mergeNext_record {s : State} {t : Nat} {q : Query} (h : s.query t = some q) :
    ∃ q', (s.mergeNext t).query t = some q' ∧ q'.record = q.record := by
  simp only [State.mergeNext, h]
  split
  · exact ⟨q, h, rfl⟩
  · split
    · exact ⟨_, State.modQuery_query_same _ h, rfl⟩
    · exact ⟨_, (State.askMerge_query ..).trans (State.modQuery_query_same _ h), rfl⟩

section
variable {s : State} {m : Merge} {r : List Merge} {q : Query} (hmerges : s.merges = m :: r) (hquery : s.query m.tag = some q)
  (hbulk : m.bulk = none) (hdest : m.dest = none)
include hmerges hquery hbulk hdest

/-- A merge whose source fails a check fails its query. -/
theorem exec_mergeRequest_fails (hcode : ((s.nextMerge r).checkSrcs m.part m.srcs).2.1 ≠ 0) :
    let a := (s.nextMerge r).checkSrcs m.part m.srcs
    exec .mergeRequest s =
      .next (((a.1.bump 0xA088 1).failQuery m.tag a.2.1).modQuery m.tag (fun q => { q with busy := false })) := by
  have hlive := (s.nextMerge_query r m.tag).trans hquery
  change execMergeRequest s = _
  simp only [execMergeRequest, hmerges, hlive, hbulk, hdest, ne_eq, hcode, not_false_eq_true, if_true]

/-- A merge whose sources pass the checks and agree gives its query the merged record. -/
theorem exec_mergeRequest_merges (hcode : ((s.nextMerge r).checkSrcs m.part m.srcs).2.1 = 0)
    (hagree : agree ((s.nextMerge r).checkSrcs m.part m.srcs).2.2 = true) :
    let a := (s.nextMerge r).checkSrcs m.part m.srcs
    let out := mergeRecords m.kOut m.dedup m.tag a.2.2
    let n := sumNat (a.2.2.map recCount)
    exec .mergeRequest s = .next ((((((a.1.bump 0xA080 1).bump 0xA090 n).bump 0xA098 out.2).bump 0xA0A0 (mergeCycles n m.kOut)).modQuery
      m.tag (fun q => { q with record := out.1 })).mergeNext m.tag) := by
  have hlive := (s.nextMerge_query r m.tag).trans hquery
  change execMergeRequest s = _
  simp only [execMergeRequest, hmerges, hlive, hbulk, hdest, hcode, hagree, ne_eq, not_true_eq_false, Bool.not_true, Bool.false_eq_true,
    if_false]

theorem mergeRequest_fails (hcode : ((s.nextMerge r).checkSrcs m.part m.srcs).2.1 ≠ 0) :
    completes (exec .mergeRequest s) (fun u => u.merges = (s.nextMerge r).merges ∧ ∃ q', u.query m.tag = some q' ∧
      q'.busy = false ∧ q'.err = if q.err = 0 then ((s.nextMerge r).checkSrcs m.part m.srcs).2.1 else q.err) := by
  have hside := (s.nextMerge r).checkSrcs_mergeSide m.part m.srcs
  refine ⟨_, exec_mergeRequest_fails hmerges hquery hbulk hdest hcode, ?_⟩
  generalize (s.nextMerge r).checkSrcs m.part m.srcs = a at hside ⊢
  have hlive : (a.1.bump 0xA088 1).query m.tag = some q := by
    rw [State.bump_query, State.query_of_mergeSide hside, State.nextMerge_query, hquery]
  refine ⟨?_, _, State.modQuery_query_same _ (State.modQuery_query_same _ hlive), rfl, ?_⟩
  · rw [State.modQuery_merges, State.failQuery, State.modQuery_merges]
    exact State.merges_of_mergeSide hside
  · split <;> rfl

theorem mergeRequest_merges (hcode : ((s.nextMerge r).checkSrcs m.part m.srcs).2.1 = 0)
    (hagree : agree ((s.nextMerge r).checkSrcs m.part m.srcs).2.2 = true) :
    completes (exec .mergeRequest s) (fun u => ∃ q', u.query m.tag = some q' ∧
      q'.record = (mergeRecords m.kOut m.dedup m.tag ((s.nextMerge r).checkSrcs m.part m.srcs).2.2).1) := by
  have hside := (s.nextMerge r).checkSrcs_mergeSide m.part m.srcs
  refine ⟨_, exec_mergeRequest_merges hmerges hquery hbulk hdest hcode hagree, ?_⟩
  generalize (s.nextMerge r).checkSrcs m.part m.srcs = a at hside ⊢
  refine State.mergeNext_record (State.modQuery_query_same (x := q) _ ?_)
  rw [State.bump_query, State.bump_query, State.bump_query, State.bump_query, State.query_of_mergeSide hside, State.nextMerge_query, hquery]

end

/-! ### Reports of freed groups (R152, R203) -/

/-- The Desk has taken the core's oldest report. -/
def State.reportTaken (s : State) (c : Nat) (rest : List Report) : State := s.modCore c (fun k => { k with freed := rest })

theorem State.reportTaken_freed (s : State) (c : Nat) (rest : List Report) : ((s.reportTaken c rest).core c).freed = rest := by
  rw [State.reportTaken, core_modCore, if_pos rfl]

/-- The query's stage awaits the report of a group that was not killed. -/
def Query.awaitsReport (q : Query) (x : Report) : Prop :=
  q.stage = .search ∧ x.kind = 0 ∨ q.stage = .rerank ∧ x.kind = 2 ∨ q.stage = .rank ∧ (x.kind = 1 ∨ x.kind = 3) ∧ x.step = q.step

theorem State.reportsFor_iff {s : State} {x : Report} {q : Query} (hquery : s.query x.tag = some q) (hfailed : x.failed = false) :
    s.reportsFor x = true ↔ q.awaitsReport x := by
  unfold State.reportsFor Query.awaitsReport
  rw [hquery]
  cases hstage : q.stage <;> simp [hstage, hfailed]

/-- The query goes on ranking whatever the report says: a generation of it is live, or the step in progress serves it. -/
def State.ranksOn (s : State) (p tag : Nat) : Bool :=
  (s.dk p).gens.any (fun g => decide (g.tag = tag)) || ((s.dk p).step.map (·.tags.contains tag)).getD false

theorem State.ranksOn_eq_false {s : State} {p tag : Nat} (hgens : (s.dk p).gens.any (fun g => decide (g.tag = tag)) = false)
    (hstep : ∀ y, (s.dk p).step = some y → tag ∉ y.tags) : s.ranksOn p tag = false := by
  rw [State.ranksOn, hgens]
  cases hy : (s.dk p).step with
  | none => rfl
  | some y => simpa using hstep y hy

/-- The query with core `c` struck off. -/
def Query.struckOff (q : Query) (c : Nat) (ranks : Bool) (line : Option Nat) : Query :=
  { q with
    waiting := q.waiting.erase c
    busy := q.busy && (ranks || decide (q.waiting.erase c ≠ []))
    recs := match line with
      | some n => q.recs ++ [(c, n)]
      | none => q.recs }

/-- A query that ranks no further is no longer busy once its last core is struck off. -/
theorem Query.struckOff_last {q : Query} {c : Nat} (h : q.waiting = [c]) (line : Option Nat) :
    (q.struckOff c false line).busy = false := by
  simp [Query.struckOff, h]

theorem State.shardDone_eq {s : State} {c tag : Nat} {q : Query} (hquery : s.query tag = some q) (hwaits : c ∈ q.waiting)
    (line : Option Nat) : s.shardDone c tag false line = s.setQuery tag (some (q.struckOff c (s.ranksOn q.part tag) line)) := by
  have hlisted : (!q.waiting.contains c) = false := by simpa using hwaits
  simp only [State.shardDone, hquery, hlisted, Bool.false_eq_true, if_false, false_and, State.modQuery]
  rfl

section
variable {s : State} {c : CoreId} {x : Report} {rest : List Report} (hfreed : (s.core c).freed = x :: rest)
include hfreed

/-- The report of a group that was not killed goes to the query that awaits it. -/
theorem exec_groupFreeReport_of_ok (hfailed : x.failed = false) : exec (.groupFreeReport c) s =
    .next (if (s.reportTaken c rest).reportsFor x then (s.reportTaken c rest).shardDone c x.tag false x.line
      else s.reportTaken c rest) := by
  change execGroupFreeReport c s = _
  simp only [execGroupFreeReport, hfreed]
  split
  · next hkilled => cases hkilled.symm.trans hfailed
  · rw [hfailed, apply_ite Host.Outcome.next]
    rfl

/-- The report of a killed layer group of the step in progress goes to the step. -/
theorem exec_groupFreeReport_of_layer {p : Nat} (hfailed : x.failed = true) (hstep : s.stepPart c x.kind x.step = some p) :
    exec (.groupFreeReport c) s = .next ((s.reportTaken c rest).layerLost p c x.done) := by
  have hstep' : (s.modCore c (fun k => { k with freed := rest })).stepPart c x.kind x.step = some p := hstep
  change execGroupFreeReport c s = _
  simp only [execGroupFreeReport, hfreed, hfailed, hstep']
  rfl

theorem groupFreeReport_strikes {q : Query} (hquery : s.query x.tag = some q) (hfailed : x.failed = false) (hawaits : q.awaitsReport x)
    (hwaits : c.val ∈ q.waiting) : completes (exec (.groupFreeReport c) s) (fun u => (u.core c).freed = rest ∧
      u.query x.tag = some (q.struckOff c (s.ranksOn q.part x.tag) x.line)) := by
  have htaken : (s.reportTaken c rest).query x.tag = some q := hquery
  rw [exec_groupFreeReport_of_ok hfreed hfailed, if_pos ((State.reportsFor_iff htaken hfailed).2 hawaits),
    State.shardDone_eq htaken hwaits]
  exact ⟨_, rfl, s.reportTaken_freed c rest, (State.setQuery_query ..).trans (if_pos rfl)⟩

theorem groupFreeReport_spares {q : Query} (hquery : s.query x.tag = some q) (hfailed : x.failed = false) (hawaits : ¬q.awaitsReport x) :
    completes (exec (.groupFreeReport c) s) (fun u => (u.core c).freed = rest ∧ ∀ t, u.query t = s.query t) := by
  have htaken : (s.reportTaken c rest).query x.tag = some q := hquery
  rw [exec_groupFreeReport_of_ok hfreed hfailed, if_neg ((State.reportsFor_iff htaken hfailed).not.2 hawaits)]
  exact ⟨_, rfl, s.reportTaken_freed c rest, fun t => rfl⟩

theorem groupFreeReport_loses_layer {p : Nat} {y : Step} (hfailed : x.failed = true) (hpart : s.stepPart c x.kind x.step = some p)
    (hstep : (s.dk p).step = some y) : completes (exec (.groupFreeReport c) s) (fun u => (u.core c).freed = rest ∧
      (∀ t, u.query t = s.query t) ∧ ∃ y', (u.dk p).step = some y' ∧ y'.failed = (if y.failed = 0 then 0x0111 else y.failed) ∧
        y'.left = if x.done then y.left else y.left.erase c.val) := by
  refine ⟨_, exec_groupFreeReport_of_layer hfreed hfailed hpart, s.reportTaken_freed c rest, fun t => rfl, ?_⟩
  have hlost : (((s.reportTaken c rest).layerLost p c x.done).dk p).step = (s.dk p).step.map (fun y => { y with
      left := if x.done then y.left else y.left.erase c.val, failed := if y.failed = 0 then 0x0111 else y.failed }) :=
    congrArg DeskPart.step ((Tab.get_set ..).trans (if_pos rfl))
  exact ⟨_, hlost.trans (congrArg _ hstep), rfl, rfl⟩

end

/-- Settles O22: a report goes to the query that awaits it or to the step in progress, and a merge's checks leave the Desk and its
queue as they are. -/
theorem reportsAndMerges : Obligations.ReportsAndMerges := by
  unfold Obligations.ReportsAndMerges
  refine fun c s => ⟨fun x rest q hfreed hquery => ⟨?_, ?_, ?_⟩, fun m r q hmerges hquery hbulk hdest => ⟨?_, ?_⟩⟩
  · intro hfailed hawaits hwaits
    obtain ⟨u, hnext, hrest, hstruck⟩ := groupFreeReport_strikes hfreed hquery hfailed hawaits hwaits
    refine ⟨u, hnext, hrest, _, hstruck, rfl, rfl, fun n hline => ?_, fun hgens hstep hlast => ?_⟩
    · rw [hline]
      rfl
    · rw [State.ranksOn_eq_false hgens hstep, Query.struckOff_last hlast]
  · exact groupFreeReport_spares hfreed hquery
  · exact fun p y => groupFreeReport_loses_layer hfreed
  · intro hcode
    obtain ⟨u, hnext, hqueue, hfails⟩ := mergeRequest_fails hmerges hquery hbulk hdest hcode
    exact ⟨u, hnext, fun hidle => hqueue.trans (State.nextMerge_merges_of_idle hidle r),
      fun w ws hwaiting => hqueue.trans (State.nextMerge_merges_of_waiting hwaiting r), hfails⟩
  · exact mergeRequest_merges hmerges hquery hbulk hdest

end Sys2Proof.Machine
end

section
/-! SUPPORT. What no access of the tiers reads or writes: the cores, the Desk, the long-operation slots and the power manager. An
access commutes with a change of them (R169, R175); O23. -/

namespace Sys2Proof.Machine

/-- The state with the cores, the Desk's state, the partitions' slots and the power manager of `t`. -/
def State.besides (s t : State) : State :=
  { s with cores := t.cores, desk := t.desk, deskP := t.deskP, parts := t.parts, pwr := t.pwr }

theorem State.besides_desk (s t : State) : (s.besides t).desk = t.desk := rfl
theorem State.besides_deskP (s t : State) : (s.besides t).deskP = t.deskP := rfl
theorem State.besides_parts (s t : State) : (s.besides t).parts = t.parts := rfl
theorem State.besides_pwr (s t : State) : (s.besides t).pwr = t.pwr := rfl
theorem State.besides_dk (s t : State) (p : Nat) : (s.besides t).dk p = t.dk p := rfl
@[simp] theorem State.besides_self (s : State) : s.besides s = s := rfl

/-! ### What an access reads

`(rfl)` and not `rfl`: as a rewrite that is not by definition, `simp` carries it into the decision of an `if` as well. -/

theorem State.besides_free (s t : State) : (s.besides t).free = s.free := (rfl)
theorem State.besides_clk (s t : State) : (s.besides t).clk = s.clk := (rfl)
theorem State.besides_mem (s t : State) : (s.besides t).mem = s.mem := (rfl)
@[simp] theorem State.besides_tp (s t : State) (p : Nat) : (s.besides t).tp p = s.tp p := (rfl)
@[simp] theorem State.besides_ns (s t : State) (p : Nat) : (s.besides t).ns p = s.ns p := (rfl)
@[simp] theorem State.besides_zeroingPiece (s t : State) (i : Nat) : (s.besides t).zeroingPiece i = s.zeroingPiece i := (rfl)
@[simp] theorem State.besides_unified (s t : State) (p : Nat) : (s.besides t).unified p = s.unified p := (rfl)
@[simp] theorem State.besides_page (s t : State) (p g : Nat) : (s.besides t).page p g = s.page p g := (rfl)
@[simp] theorem State.besides_locate (s t : State) (p : Nat) (a : Word) : (s.besides t).locate p a = s.locate p a := (rfl)
@[simp] theorem State.besides_tierOf (s t : State) (p : Nat) (a : Word) : (s.besides t).tierOf p a = s.tierOf p a := (rfl)
@[simp] theorem State.besides_cached (s t : State) (p g : Nat) : (s.besides t).cached p g = s.cached p g := (rfl)
@[simp] theorem State.besides_mapLineBad (s t : State) (p g : Nat) : (s.besides t).mapLineBad p g = s.mapLineBad p g := (rfl)
@[simp] theorem State.besides_mapBad (s t : State) (p : Nat) (a : Word) : (s.besides t).mapBad p a = s.mapBad p a := (rfl)
@[simp] theorem State.besides_scanAt (s t : State) (i o : Nat) : (s.besides t).scanAt i o = s.scanAt i o := (rfl)
@[simp] theorem State.besides_pieceOwner (s t : State) (i : Nat) : (s.besides t).pieceOwner i = s.pieceOwner i := (rfl)
@[simp] theorem State.besides_queueDepth (s t : State) (p k : Nat) : (s.besides t).queueDepth p k = s.queueDepth p k := (rfl)
@[simp] theorem State.besides_queueAhead (s t : State) (i l q : Nat) : (s.besides t).queueAhead i l q = s.queueAhead i l q := (rfl)
theorem State.besides_nextId (s t : State) : (s.besides t).nextId = s.nextId := (rfl)
@[simp] theorem State.besides_sbRows (s t : State) (p : Nat) : (s.besides t).sbRows p = s.sbRows p := (rfl)
@[simp] theorem State.besides_rowPlane (s t : State) (p r : Nat) : (s.besides t).rowPlane p r = s.rowPlane p r := (rfl)
@[simp] theorem State.besides_cwChan (s t : State) (p cw : Nat) : (s.besides t).cwChan p cw = s.cwChan p cw := (rfl)
@[simp] theorem State.besides_memberChan (s t : State) (p b m : Nat) : (s.besides t).memberChan p b m = s.memberChan p b m := (rfl)
@[simp] theorem State.besides_unitsAt (s t : State) (p : Nat) (a : Word) (n : Nat) : (s.besides t).unitsAt p a n = s.unitsAt p a n := (rfl)
@[simp] theorem State.besides_stripeUnits (s t : State) (p : Nat) : (s.besides t).stripeUnits p = s.stripeUnits p := (rfl)
@[simp] theorem State.besides_hostHeld (s t : State) (p : Nat) : (s.besides t).hostHeld p = s.hostHeld p := (rfl)
@[simp] theorem State.besides_stageRoom (s t : State) (p lu : Nat) : (s.besides t).stageRoom p lu = s.stageRoom p lu := (rfl)
@[simp] theorem State.besides_stageMax (s t : State) (p : Nat) : (s.besides t).stageMax p = s.stageMax p := (rfl)
@[simp] theorem State.besides_peek (s t : State) (p : Nat) (a : Word) (n : Nat) : (s.besides t).peek p a n = s.peek p a n := (rfl)
@[simp] theorem State.besides_lineBad (s t : State) (p : Nat) (a : Word) : (s.besides t).lineBad p a = s.lineBad p a := (rfl)

/-! ### Updates of one part -/

/-- A fold of steps that commute with the change commutes with it. -/
theorem foldl_besides {α : Type} {t : State} {f : State → α → State} (h : ∀ s x, f (s.besides t) x = (f s x).besides t)
    (l : List α) (s : State) : l.foldl f (s.besides t) = (l.foldl f s).besides t :=
  List.foldl_hom (fun s : State => s.besides t) (fun s x => h s x)

/-- The same of a fold that carries something else beside the state. -/
theorem foldl_besides_fst {α β : Type} {t : State} {f : State × β → α → State × β}
    (h : ∀ s y x, f (s.besides t, y) x = ((f (s, y) x).1.besides t, (f (s, y) x).2)) (l : List α) (s : State) (y : β) :
    l.foldl f (s.besides t, y) = ((l.foldl f (s, y)).1.besides t, (l.foldl f (s, y)).2) :=
  List.foldl_hom (fun x : State × β => (x.1.besides t, x.2)) (fun x z => h x.1 x.2 z) (init := (s, y))

theorem State.ite_besides (c : Prop) [Decidable c] (s u t : State) :
    (if c then s.besides t else u.besides t) = (if c then s else u).besides t := (apply_ite (fun s : State => s.besides t) c s u).symm

@[simp] theorem State.besides_set_free (s t : State) (n : Nat) :
    ({ s.besides t with free := n } : State) = ({ s with free := n } : State).besides t := rfl
@[simp] theorem State.bump_besides (s t : State) (a n : Nat) : (s.besides t).bump a n = (s.bump a n).besides t := rfl
@[simp] theorem State.modTp_besides (s t : State) (p : Nat) (f : TierPart → TierPart) :
    (s.besides t).modTp p f = (s.modTp p f).besides t := rfl
@[simp] theorem State.modNs_besides (s t : State) (p : Nat) (f : Ns → Ns) : (s.besides t).modNs p f = (s.modNs p f).besides t := rfl
@[simp] theorem State.waitCycles_besides (s t : State) (a : Nat) : (s.besides t).waitCycles a = (s.waitCycles a).besides t := rfl
@[simp] theorem State.fcRead_besides (s t : State) (c n : Nat) : (s.besides t).fcRead c n = (s.fcRead c n).besides t := by
  simp only [State.fcRead, bump_besides]
@[simp] theorem State.fcProg_besides (s t : State) (c n : Nat) : (s.besides t).fcProg c n = (s.fcProg c n).besides t := by
  simp only [State.fcProg, bump_besides]
@[simp] theorem State.t2Seen_besides (s t : State) (p : Nat) : (s.besides t).t2Seen p = (s.t2Seen p).besides t := rfl
@[simp] theorem State.zeroed_besides (s t : State) (i : Nat) : (s.besides t).zeroed i = (s.zeroed i).besides t := rfl
@[simp] theorem State.poisonRead_besides (s t : State) (p : Nat) : (s.besides t).poisonRead p = (s.poisonRead p).besides t := rfl
@[simp] theorem State.reportBad_besides (s t : State) (p : Option Nat) (tier inst piece cause line : Nat) :
    (s.besides t).reportBad p tier inst piece cause line = (s.reportBad p tier inst piece cause line).besides t := rfl
@[simp] theorem State.uncorr_besides (s t : State) (i o : Nat) (scrub : Bool) :
    (s.besides t).uncorr i o scrub = (s.uncorr i o scrub).besides t := by
  simp only [State.uncorr, bump_besides, besides_pieceOwner, reportBad_besides]

/-! ### Reads -/

@[simp] theorem State.awaitZero_besides (s t : State) (p : Nat) (a : Word) (n : Nat) :
    (s.besides t).awaitZero p a n = (s.awaitZero p a n).besides t := by
  refine foldl_besides (fun s l => ?_) _ s
  simp only [besides_locate]
  split
  · simp only [besides_zeroingPiece, zeroed_besides, ite_besides]
  · rfl

@[simp] theorem State.placeWaits_besides (s t : State) (p k : Nat) (l : Option Loc) :
    (s.besides t).placeWaits p k l = (s.placeWaits p k l).besides t := by
  simp [State.placeWaits, besides_nextId, ite_besides]

@[simp] theorem State.blockWaits_besides (s t : State) (p : Nat) (a : Word) (n : Nat) :
    (s.besides t).blockWaits p a n = (s.blockWaits p a n).besides t :=
  foldl_besides (fun s l => by simp [ite_besides]) _ s

@[simp] theorem State.cacheIn_besides (s t : State) (p g : Nat) : (s.besides t).cacheIn p g = (s.cacheIn p g).besides t := by
  simp only [State.cacheIn, besides_tp, besides_free, besides_set_free]
  rw [foldl_besides_fst (fun s y q => by simp only [modTp_besides, ite_besides]), ite_besides, modTp_besides]

@[simp] theorem State.translate_besides (s t : State) (p g : Nat) : (s.besides t).translate p g = (s.translate p g).besides t := by
  unfold State.translate
  simp only [besides_cached, bump_besides, besides_mapLineBad]
  split
  · rfl
  · split <;> simp

@[simp] theorem State.translateAll_besides (s t : State) (p : Nat) (a : Word) (n : Nat) :
    (s.besides t).translateAll p a n = (s.translateAll p a n).besides t := by
  unfold State.translateAll
  rw [besides_unified, foldl_besides (fun s j => s.translate_besides ..), ite_besides]

@[simp] theorem State.yieldAt_besides (s t : State) (i o : Nat) : (s.besides t).yieldAt i o = (s.yieldAt i o).besides t := by
  simp only [State.yieldAt, besides_scanAt, besides_free, besides_set_free, bump_besides, ite_besides]

@[simp] theorem State.yieldLines_besides (s t : State) (p : Nat) (a : Word) (n : Nat) :
    (s.besides t).yieldLines p a n = (s.yieldLines p a n).besides t := by
  refine foldl_besides (fun s l => ?_) _ s
  simp only [besides_locate]
  split <;> simp

@[simp] theorem State.countAccess_besides (s t : State) (p : Nat) (a : Word) (n : Nat) :
    (s.besides t).countAccess p a n = (s.countAccess p a n).besides t := by
  unfold State.countAccess
  dsimp only
  rw [besides_unified, foldl_besides (fun s j => by rfl), ite_besides]

@[simp] theorem State.mapLook_besides (s t : State) (p lu : Nat) : (s.besides t).mapLook p lu = (s.mapLook p lu).besides t := by
  unfold State.mapLook
  simp only [besides_ns, besides_set_free, besides_free, modNs_besides, waitCycles_besides, ite_besides, bump_besides]

@[simp] theorem State.flashRead_besides (s t : State) (p cw : Nat) (q : CwOutcome) :
    (s.besides t).flashRead p cw q = (s.flashRead p cw q).besides t := by
  unfold State.flashRead
  simp only [besides_cwChan, fcRead_besides, bump_besides, besides_free, besides_set_free, modNs_besides]
  split
  · rfl
  · rfl
  · rw [foldl_besides (fun s m => by simp only [besides_sbRows, besides_memberChan, fcRead_besides, ite_besides])]
    simp only [bump_besides, modNs_besides, ite_besides]

@[simp] theorem State.fetchUnit_besides (s t : State) (p lu : Nat) :
    (s.besides t).fetchUnit p lu = ((s.fetchUnit p lu).1.besides t, (s.fetchUnit p lu).2) := by
  unfold State.fetchUnit
  simp only [besides_ns, mapLook_besides]
  split
  · rfl
  · split
    · rfl
    · simp [besides_free]

theorem State.readUnit_besides (s t : State) (p lu : Nat) :
    (s.besides t).readUnit p lu = ((s.readUnit p lu).1.besides t, (s.readUnit p lu).2) := by
  unfold State.readUnit
  simp only [bump_besides, besides_ns, fetchUnit_besides]
  split <;> rfl

@[simp] theorem State.readUnits_besides (s t : State) (p : Nat) (a : Word) (n : Nat) :
    (s.besides t).readUnits p a n = ((s.readUnits p a n).1.besides t, (s.readUnits p a n).2) := by
  unfold State.readUnits
  rw [besides_unitsAt]
  split
  · rfl
  · exact foldl_besides_fst (fun s y u => by simp only [State.readUnit_besides]) _ (s.t2Seen p) []

@[simp] theorem State.reportLoc_besides (s t : State) (p : Nat) (l : Option Loc) :
    (s.besides t).reportLoc p l = (s.reportLoc p l).besides t := by
  rcases l with _ | ⟨i, o⟩ | o <;> rfl

@[simp] theorem State.reportLine_besides (s t : State) (p : Nat) (a : Word) (first : Bool) :
    (s.besides t).reportLine p a first = (s.reportLine p a first).besides t := by
  unfold State.reportLine
  simp only [besides_mapBad, besides_locate]
  split
  · rfl
  · split <;> simp [ite_besides]

@[simp] theorem State.readTo_besides (s t : State) (p : Nat) (a : Word) (n : Nat) :
    (s.besides t).readTo p a n = ((s.readTo p a n).1.besides t, (s.readTo p a n).2) := by
  simp [State.readTo]

theorem State.readBy_besides (s t : State) (p : Nat) (a : Word) (n : Nat) :
    (s.besides t).readBy p a n = ((s.readBy p a n).1.besides t, (s.readBy p a n).2) := by
  unfold State.readBy
  simp only [readTo_besides, besides_peek, besides_locate, besides_lineBad, countAccess_besides]
  rw [foldl_besides (fun s l => by simp)]
  split <;> rfl

/-- A read finds the same bytes and does the same beside a change of what it does not read. -/
theorem State.devRead_besides (s t : State) (p : Nat) (a : Word) (n : Nat) :
    (s.besides t).devRead p a n = ((s.devRead p a n).1.besides t, (s.devRead p a n).2) := by
  simp only [State.devRead, State.readBy_besides, State.meterRead, besides_tierOf]
  split <;> rfl

/-! ### Writes -/

@[simp] theorem State.countDrops_besides (s t : State) (p : Nat) (a : Word) (n : Nat) :
    (s.besides t).countDrops p a n = (s.countDrops p a n).besides t := by
  unfold State.countDrops
  simp only [besides_locate, besides_ns, bump_besides]
  split
  · rw [ite_besides]
  · rfl

@[simp] theorem State.fillAt_besides (s t : State) (p : Nat) (a : Word) (n k : Nat) :
    (s.besides t).fillAt p a n k = (s.fillAt p a n k).besides t := by
  unfold State.fillAt
  simp only [besides_mapBad, besides_locate]
  split
  · rfl
  · split
    · simp [besides_clk, ite_besides]
    · rfl

@[simp] theorem State.fillFor_besides (s t : State) (p : Nat) (a : Word) (n : Nat) :
    (s.besides t).fillFor p a n = (s.fillFor p a n).besides t := by
  unfold State.fillFor
  rw [besides_unitsAt]
  split
  · rfl
  · exact foldl_besides (fun s j => s.fillAt_besides ..) _ (s.t2Seen p)

@[simp] theorem State.keepBurst_besides (s t : State) (i o : Nat) : (s.besides t).keepBurst i o = (s.keepBurst i o).besides t := by
  unfold State.keepBurst
  rw [besides_scanAt]
  split <;> rfl

@[simp] theorem State.noteWrite_besides (s t : State) (p : Nat) (a : Word) : (s.besides t).noteWrite p a = (s.noteWrite p a).besides t := by
  simp [State.noteWrite, ite_besides]

@[simp] theorem State.putLoc_besides (s t : State) (p : Nat) (l : Option Loc) (bs : List Byte) (bad : Bool) :
    (s.besides t).putLoc p l bs bad = (s.putLoc p l bs bad).besides t := by
  unfold State.putLoc
  split
  · dsimp only
    rw [keepBurst_besides]
    split
    · rfl
    · split <;> rfl
  · simp [besides_clk, ite_besides]
  · rfl

@[simp] theorem State.writeLine_besides (s t : State) (p : Nat) (a : Word) (bs : List Byte) (bad : Bool) :
    (s.besides t).writeLine p a bs bad = (s.writeLine p a bs bad).besides t := by
  simp [State.writeLine, ite_besides]

@[simp] theorem State.memberProgs_besides (s t : State) (p b n : Nat) :
    (s.besides t).memberProgs p b n = (s.memberProgs p b n).besides t := by
  unfold State.memberProgs
  exact foldl_besides (fun s m => by simp) _ s

@[simp] theorem State.launch_besides (s t : State) (p : Nat) (st : Stripe) (again : Bool) :
    (s.besides t).launch p st again = (s.launch p st again).besides t := by
  unfold State.launch
  dsimp only
  rw [memberProgs_besides, bump_besides, bump_besides, ite_besides, modNs_besides]

@[simp] theorem State.launchSum_besides (s t : State) (p b : Nat) : (s.besides t).launchSum p b = (s.launchSum p b).besides t := by
  simp [State.launchSum, ite_besides]

@[simp] theorem State.enter_besides (s t : State) (p : Nat) (st : Stripe) (again : Bool) :
    (s.besides t).enter p st again = (s.enter p st again).besides t := by
  simp [State.enter, ite_besides]

@[simp] theorem State.relaunch_besides (s t : State) (p k : Nat) : (s.besides t).relaunch p k = (s.relaunch p k).besides t := by
  induction k generalizing s with
  | zero => rfl
  | succ k ih =>
    unfold State.relaunch
    simp only [besides_ns]
    split
    · rfl
    · split
      · rfl
      · split
        · simp [ih]
        · split <;> simp [ih]

@[simp] theorem State.formStripes_besides (s t : State) (p : Nat) (close : Bool) (fuel : Nat) :
    (s.besides t).formStripes p close fuel = (s.formStripes p close fuel).besides t := by
  induction fuel generalizing s with
  | zero => rfl
  | succ k ih =>
    unfold State.formStripes
    simp only [besides_ns, besides_stripeUnits, besides_hostHeld, besides_sbRows]
    split
    · rfl
    · split
      · simp
      · split
        · simp
        · split <;> simp [ih]

@[simp] theorem State.letIn_besides (s t : State) (p : Nat) : (s.besides t).letIn p = (s.letIn p).besides t := by
  simp [State.letIn, besides_clk, ite_besides]

@[simp] theorem State.fillStripes_besides (s t : State) (p : Nat) (close : Bool) :
    (s.besides t).fillStripes p close = (s.fillStripes p close).besides t := by
  simp [State.fillStripes]

/-- A write does the same beside a change of what it does not read. -/
theorem State.devWrite_besides (s t : State) (p : Nat) (a : Word) (bs : List Byte) (bad : Bool) :
    (s.besides t).devWrite p a bs bad = (s.devWrite p a bs bad).besides t := by
  simp only [State.devWrite, State.devWriteLines, awaitZero_besides, blockWaits_besides, translateAll_besides, yieldLines_besides,
    countAccess_besides, countDrops_besides, fillFor_besides]
  rw [foldl_besides (fun s l => by simp), fillStripes_besides]

end Sys2Proof.Machine
end

section
/-! SUPPORT. What a read or write of the tiers leaves alone: the parts beside it, and, of a read, the values in force, on which the
cores and the allocation of a partition hang (R216, R370, R482); O23. -/

namespace Sys2Proof.Machine

/-! ### Values in force over a read (R482) -/

@[simp] theorem State.bump_force (s : State) (a n : Nat) : (s.bump a n).force = s.force := rfl
@[simp] theorem State.waitCycles_force (s : State) (a : Nat) : (s.waitCycles a).force = s.force := rfl
@[simp] theorem State.zeroed_force (s : State) (i : Nat) : (s.zeroed i).force = s.force := rfl
@[simp] theorem State.t2Seen_force (s : State) (p : Nat) : (s.t2Seen p).force = s.force := rfl
@[simp] theorem State.fcRead_force (s : State) (c n : Nat) : (s.fcRead c n).force = s.force := by
  rw [State.fcRead, State.bump_force, State.bump_force]
@[simp] theorem State.reportBad_force (s : State) (p : Option Nat) (tier inst piece cause line : Nat) :
    (s.reportBad p tier inst piece cause line).force = s.force := rfl
@[simp] theorem State.uncorr_force (s : State) (i o : Nat) (scrub : Bool) : (s.uncorr i o scrub).force = s.force := by
  rw [State.uncorr, State.reportBad_force, State.bump_force]

@[simp] theorem State.awaitZero_force (s : State) (p : Nat) (a : Word) (n : Nat) : (s.awaitZero p a n).force = s.force :=
  foldl_unchanged State.force (fun s l => by split <;> simp [apply_ite State.force]) _ s

@[simp] theorem State.blockWaits_force (s : State) (p : Nat) (a : Word) (n : Nat) : (s.blockWaits p a n).force = s.force :=
  foldl_unchanged State.force (fun s l => by simp [State.placeWaits, apply_ite State.force]) _ s

@[simp] theorem State.cacheIn_force (s : State) (p g : Nat) : (s.cacheIn p g).force = s.force := by
  unfold State.cacheIn
  dsimp only
  rw [State.modTp_force]
  split
  · rfl
  · exact foldl_fst_unchanged State.force (fun x q => by simp [apply_ite State.force]) _ _

@[simp] theorem State.translate_force (s : State) (p g : Nat) : (s.translate p g).force = s.force := by
  unfold State.translate
  split
  · rfl
  · dsimp only
    split <;> simp

@[simp] theorem State.translateAll_force (s : State) (p : Nat) (a : Word) (n : Nat) : (s.translateAll p a n).force = s.force := by
  unfold State.translateAll
  split
  · rfl
  · exact foldl_unchanged State.force (fun s j => s.translate_force ..) _ s

@[simp] theorem State.yieldLines_force (s : State) (p : Nat) (a : Word) (n : Nat) : (s.yieldLines p a n).force = s.force :=
  foldl_unchanged State.force (fun s l => by split <;> simp [State.yieldAt, apply_ite State.force]) _ s

@[simp] theorem State.countAccess_force (s : State) (p : Nat) (a : Word) (n : Nat) : (s.countAccess p a n).force = s.force := by
  unfold State.countAccess
  split
  · rfl
  · exact foldl_unchanged State.force (fun s j => s.modTp_force ..) _ s

@[simp] theorem State.mapLook_force (s : State) (p lu : Nat) : (s.mapLook p lu).force = s.force := by
  unfold State.mapLook
  extract_lets n l s0 s1 s2
  have hloaded : s1.force = s.force := by
    simp only [s1]
    split
    · simp [s0, apply_ite State.force]
    · rfl
  have hcounted : s2.force = s1.force := rfl
  clear_value s1 s2
  split
  · exact hloaded
  · rw [State.modNs_force, hcounted, hloaded]

@[simp] theorem State.flashRead_force (s : State) (p cw : Nat) (q : CwOutcome) : (s.flashRead p cw q).force = s.force := by
  unfold State.flashRead
  extract_lets c retries s1 s2
  have hread : s1.force = s.force := by rw [State.bump_force, State.fcRead_force]
  have hmembers : s2.force = s1.force :=
    foldl_unchanged State.force (fun s m => by simp [apply_ite State.force]) _ s1
  clear_value s1 s2
  split
  · rw [State.bump_force, hread]
  · rw [State.modNs_force, hread]
  · split
    · rw [State.modNs_force, State.bump_force, hmembers, hread]
    · rw [State.bump_force, hmembers, hread]

@[simp] theorem State.readUnit_force (s : State) (p lu : Nat) : (s.readUnit p lu).1.force = s.force := by
  unfold State.readUnit State.fetchUnit
  dsimp only
  split
  · rfl
  · split
    · rfl
    · split <;> simp

@[simp] theorem State.readUnits_force (s : State) (p : Nat) (a : Word) (n : Nat) : (s.readUnits p a n).1.force = s.force := by
  unfold State.readUnits
  split
  · rfl
  · refine (foldl_fst_unchanged State.force (fun x u => ?_) _ _).trans rfl
    exact State.readUnit_force ..

@[simp] theorem State.reportLine_force (s : State) (p : Nat) (a : Word) (first : Bool) : (s.reportLine p a first).force = s.force := by
  have hreport (l : Option Loc) : (s.reportLoc p l).force = s.force := by
    rcases l with _ | ⟨i, o⟩ | o <;> rfl
  unfold State.reportLine
  split
  · rfl
  · split <;> simp [hreport, apply_ite State.force]

/-- A read changes no value in force. -/
@[simp] theorem State.devRead_force (s : State) (p : Nat) (a : Word) (n : Nat) : (s.devRead p a n).1.force = s.force := by
  have hmeter (u : State) : (u.meterRead p a n).force = u.force := by
    unfold State.meterRead
    split <;> rfl
  have hreported (f : Nat → Word) (g : Nat → Bool) (l : List Nat) (u : State) :
      (l.foldl (fun s i => s.reportLine p (f i) (g i)) u).force = u.force :=
    foldl_unchanged State.force (fun s i => s.reportLine_force ..) l u
  rw [State.devRead, hmeter]
  unfold State.readBy
  dsimp only
  split
  · exact (hreported ..).trans (by simp [State.readTo])
  · simp [State.readTo]

/-! ### What a read leaves alone -/

/-- A read changes none of what it does not read. -/
theorem State.devRead_self (s : State) (p : Nat) (a : Word) (n : Nat) : (s.devRead p a n).1 = (s.devRead p a n).1.besides s :=
  congrArg Prod.fst (s.devRead_besides s p a n)

@[simp] theorem State.devRead_desk (s : State) (p : Nat) (a : Word) (n : Nat) : (s.devRead p a n).1.desk = s.desk := by
  rw [State.devRead_self, State.besides_desk]
@[simp] theorem State.devRead_deskP (s : State) (p : Nat) (a : Word) (n : Nat) : (s.devRead p a n).1.deskP = s.deskP := by
  rw [State.devRead_self, State.besides_deskP]
@[simp] theorem State.devRead_parts (s : State) (p : Nat) (a : Word) (n : Nat) : (s.devRead p a n).1.parts = s.parts := by
  rw [State.devRead_self, State.besides_parts]
@[simp] theorem State.devRead_pwr (s : State) (p : Nat) (a : Word) (n : Nat) : (s.devRead p a n).1.pwr = s.pwr := by
  rw [State.devRead_self, State.besides_pwr]

/-- A field of the index root is written beside a change of what a write does not read. -/
theorem State.putRoot_besides (s t : State) (p off : Nat) (bs : List Byte) :
    (s.besides t).putRoot p off bs = (s.putRoot p off bs).besides t := s.devWrite_besides t p (addA (s.idxRoot p) off) bs false

theorem State.devWrite_self (s : State) (p : Nat) (a : Word) (bs : List Byte) (bad : Bool) :
    s.devWrite p a bs bad = (s.devWrite p a bs bad).besides s := by
  have h := s.devWrite_besides s p a bs bad
  rwa [State.besides_self] at h

@[simp] theorem State.devWrite_deskP (s : State) (p : Nat) (a : Word) (bs : List Byte) (bad : Bool) :
    (s.devWrite p a bs bad).deskP = s.deskP := by
  rw [State.devWrite_self, State.besides_deskP]
@[simp] theorem State.devWrite_parts (s : State) (p : Nat) (a : Word) (bs : List Byte) (bad : Bool) :
    (s.devWrite p a bs bad).parts = s.parts := by
  rw [State.devWrite_self, State.besides_parts]

/-! ### Registers of which every bit that is used is staged (R482) -/

/-- The staged bits of the register at `a`. -/
def stagedBits (a : Nat) : Word :=
  match rowOf a with
  | some r => BitVec.ofNat 64 r.st
  | none => 0

theorem State.inForce_eq (s : State) (a : Nat) :
    s.inForce a = (s.reg a &&& ~~~stagedBits a) ||| (Tab.get regReset s.force a &&& stagedBits a) := rfl

/-- A staged bit is the one in force. -/
theorem State.inForce_getLsbD_congr {s u : State} (h : u.force = s.force) {a i : Nat} (hi : (stagedBits a).getLsbD i = true) :
    (u.inForce a).getLsbD i = (s.inForce a).getLsbD i := by
  simp only [State.inForce_eq, BitVec.getLsbD_or, BitVec.getLsbD_and, BitVec.getLsbD_not, hi, h, Bool.not_true, Bool.and_false]

/-- So is a field of staged bits. -/
theorem State.inForce_fld_congr {s u : State} (h : u.force = s.force) {a lo n : Nat}
    (hst : ∀ i : Fin n, (stagedBits a).getLsbD (lo + i) = true) : fld (u.inForce a) lo n = fld (s.inForce a) lo n := by
  refine congrArg BitVec.toNat (BitVec.eq_of_getLsbD_eq fun i hi => ?_)
  rw [BitVec.getLsbD_extractLsb', BitVec.getLsbD_extractLsb', State.inForce_getLsbD_congr h (hst ⟨i, hi⟩)]

/-- The bits of slice `k` that name cores. -/
def coreBits (k : Nat) : Word := if k < 2 then BitVec.allOnes 64 else 0xFFFF

theorem staged_partSlice : ∀ (p : PartId) (k : Fin 3), stagedBits (partSlice p k) = coreBits k := by decide +kernel
theorem coreBits_core : ∀ c : Fin 144, (coreBits (c / 64)).getLsbD (c % 64) = true := by decide +kernel

/-- The cores of a partition are those that the slices in force give it. -/
theorem State.coresOf_congr {s u : State} (h : u.force = s.force) (p : PartId) : u.coresOf p = s.coresOf p := by
  refine List.filter_congr fun c hc => State.inForce_getLsbD_congr h ?_
  have hcore := List.mem_range.1 hc
  exact (congrArg (·.getLsbD (c % 64)) (staged_partSlice p ⟨c / 64, by omega⟩)).trans (coreBits_core ⟨c, hcore⟩)

theorem staged_unified : ∀ p : PartId, (stagedBits (qReg p 0)).getLsbD 0 = true := by decide +kernel
theorem staged_quota0 : ∀ (p : PartId) (i : Fin 17), (stagedBits (qReg p 1)).getLsbD (0 + i) = true := by decide +kernel
theorem staged_quota1 : ∀ (p : PartId) (i : Fin 21), (stagedBits (qReg p 1)).getLsbD (32 + i) = true := by decide +kernel
theorem staged_quota2 : ∀ (p : PartId) (i : Fin 22), (stagedBits (qReg p 2)).getLsbD (0 + i) = true := by decide +kernel
theorem staged_uSize : ∀ (p : PartId) (i : Fin 23), (stagedBits (qReg p 2)).getLsbD (32 + i) = true := by decide +kernel

/-- The allocation of a partition is the one in force (R216). -/
theorem State.inAlloc_congr {s u : State} (h : u.force = s.force) (p : PartId) (a : Word) (n : Nat) : u.inAlloc p a n = s.inAlloc p a n := by
  have hunified : u.unified p = s.unified p := State.inForce_getLsbD_congr h (staged_unified p)
  have husize : u.uSize p = s.uSize p := congrArg (· * MiB64) (State.inForce_fld_congr h (staged_uSize p))
  have hquota (k : Nat) : u.quota p k = s.quota p k := by
    unfold State.quota
    split
    · rw [State.inForce_fld_congr h (staged_quota0 p)]
    · rw [State.inForce_fld_congr h (staged_quota1 p)]
    · rw [State.inForce_fld_congr h (staged_quota2 p)]
  have hsize (k : Nat) : u.spaceSize p k = s.spaceSize p k := by simp only [State.spaceSize, hunified, husize, hquota]
  simp only [State.inAlloc, hsize]

end Sys2Proof.Machine
end

section
/-! SUPPORT. Samples of the tombstone log and the points that they publish (R169 to R172); O23. -/

namespace Sys2Proof.Machine

/-! ### Tombstone stores (R170) -/

@[simp] theorem State.syncTombs_deskP (s : State) (p : Nat) : (s.syncTombs p).deskP = s.deskP :=
  foldl_unchanged State.deskP (fun _ _ => by rfl) _ s
@[simp] theorem State.syncTombs_parts (s : State) (p : Nat) : (s.syncTombs p).parts = s.parts :=
  foldl_unchanged State.parts (fun _ _ => by rfl) _ s

theorem State.dk_of_deskP {s u : State} (h : u.deskP = s.deskP) (p : Nat) : u.dk p = s.dk p := congrArg (fun t => Tab.get _ t p) h

theorem State.syncTombs_tombs {s : State} {p c : Nat} (hc : c ∈ s.coresOf p) : ((s.syncTombs p).core c).tombs = (s.dk p).tombs := by
  have hfold (l : List Nat) (u : State) :
      ((l.foldl (fun s c => s.modCore c (fun k => { k with tombs := (s.dk p).tombs })) u).core c).tombs =
        if c ∈ l then (u.dk p).tombs else (u.core c).tombs := by
    induction l generalizing u with
    | nil => rfl
    | cons d r ih =>
      rw [List.foldl_cons, ih]
      have hdk : (u.modCore d (fun k => { k with tombs := (u.dk p).tombs })).dk p = u.dk p := rfl
      by_cases hr : c ∈ r
      · rw [if_pos hr, if_pos (List.mem_cons_of_mem d hr), hdk]
      · rw [if_neg hr, core_modCore]
        simp only [List.mem_cons, hr, or_false]
        split <;> rfl
  exact (hfold _ s).trans (if_pos hc)

/-! ### Reading the log (R169) -/

/-- What a read of the log leaves as it is: the values in force, and the partition's state at the Desk but for its tombstones. -/
def State.logSide (s : State) (p : Nat) : Tab Word × DeskPart := (s.force, { s.dk p with tombs := [] })

theorem State.devRead_logSide (s : State) (p : Nat) (a : Word) (n : Nat) : (s.devRead p a n).1.logSide p = s.logSide p := by
  rw [State.logSide, State.devRead_force, State.dk_of_deskP (s.devRead_deskP p a n), State.logSide]

theorem State.modDk_tombs_logSide (s : State) (p : Nat) (l : List (Nat × Nat)) :
    (s.modDk p (fun d => { d with tombs := l })).logSide p = s.logSide p := by
  rw [State.logSide, State.modDk_dk, if_pos rfl, State.modDk_force, State.logSide]

theorem State.bump_logSide (s : State) (p a n : Nat) : (s.bump a n).logSide p = s.logSide p := rfl

theorem State.readLog_logSide (s : State) (p : Nat) (base : Word) (cap written fuel r last : Nat) :
    (s.readLog p base cap written fuel r last).1.logSide p = s.logSide p := by
  induction fuel generalizing s r last with
  | zero => rfl
  | succ k ih =>
    have hread := s.devRead_logSide p (addA base (8 * (r % max 1 cap))) 8
    unfold State.readLog
    dsimp only
    split
    · rfl
    · split
      · exact hread
      · split
        · exact hread
        · split
          · exact hread
          · next l dup _ =>
            have hstored := (State.modDk_tombs_logSide _ p l).trans hread
            rw [ih]
            split
            · refine Eq.trans ?_ hstored
              exact foldl_unchanged (fun s : State => s.logSide p) (fun s c => s.bump_logSide ..) _ _
            · exact hstored

/-! ### A sample of WRITTEN (R169, R171) -/

/-- The records up to WRITTEN are delivered: every core has them, and TLOG_READ and PUBLISHED await their writing. -/
def State.logDelivered (s : State) (p t w : Nat) : State :=
  ((s.syncTombs p).modDk p (fun d => { d with pubHeld := false })).modDk p (fun d => { d with pubNext := some (t, w) })

theorem State.logDelivered_dk (s : State) (p t w : Nat) :
    (s.logDelivered p t w).dk p = { s.dk p with pubHeld := false, pubNext := some (t, w) } := by
  rw [State.logDelivered, State.modDk_dk, if_pos rfl, State.modDk_dk, if_pos rfl, State.dk_of_deskP (s.syncTombs_deskP p)]

theorem State.logDelivered_core (s : State) (p t w c : Nat) : ((s.logDelivered p t w).core c) = (s.syncTombs p).core c := rfl

section
variable {p : PartId} {s : State} (hnext : (s.dk p).pubNext = none) (hroot : s.idxRoot p ≠ 0)
  (hin : s.inAlloc p (s.idxRoot p) 256 = true) (hgood : (s.devRead p (s.idxRoot p) 64).2.2 = false)
include hnext hroot hin

theorem exec_publishSample_of_published (hw : leAt (s.devRead p (s.idxRoot p) 64).2.1 0 4 ≤ (s.dk p).published) :
    exec (.publishSample p) s = .next (s.devRead p (s.idxRoot p) 64).1 := by
  change execPublishSample p s = _
  unfold execPublishSample
  dsimp only
  rw [if_neg (not_or.2 ⟨not_not.2 hnext, not_or.2 ⟨hroot, by simp [hin]⟩⟩), if_pos (.inr hw)]

include hgood in
theorem exec_publishSample_of_done {w : Nat} (hw : leAt (s.devRead p (s.idxRoot p) 64).2.1 0 4 = w) (hnew : (s.dk p).published < w)
    {x : State × Nat × Nat × LogEnd}
    (hx : (s.devRead p (s.idxRoot p) 64).1.readLog p (wAt (s.devRead p (s.idxRoot p) 64).2.1 24)
      (leAt (s.devRead p (s.idxRoot p) 64).2.1 20 4) w (leAt (s.devRead p (s.idxRoot p) 64).2.1 20 4) (s.dk p).tlogRead
      (s.dk p).published = x) (hdone : x.2.2.2 = .done) :
    exec (.publishSample p) s = .next (x.1.logDelivered p x.2.1 w) := by
  change execPublishSample p s = _
  unfold execPublishSample
  dsimp only
  rw [if_neg (not_or.2 ⟨not_not.2 hnext, not_or.2 ⟨hroot, by simp [hin]⟩⟩), hw, if_neg (by simp [hgood, hnew]), hx, hdone]
  exact congrArg Host.Outcome.next (if_neg fun hsame => hnew.ne' hsame.1)

end

theorem exec_publishPointWrite {p : PartId} {s : State} {t w : Nat} (hnext : (s.dk p).pubNext = some (t, w)) :
    exec (.publishPointWrite p) s = .next (((s.putRoot p 16 (leBytes 4 t)).putRoot p 4 (leBytes 4 w)).besides
      (s.modDk p (fun d => { d with tlogRead := t, published := w, pubNext := none }))) := by
  change execPublishPointWrite p s = _
  unfold execPublishPointWrite
  rw [hnext]
  dsimp only
  rw [← State.putRoot_besides, ← State.putRoot_besides]
  rfl

/-- R169 to R172: a sample that finds every record good delivers those up to WRITTEN to the partition's cores. -/
theorem publishSample_delivers {p : PartId} {s : State} (hnext : (s.dk p).pubNext = none) (hroot : s.idxRoot p ≠ 0)
    (hin : s.inAlloc p (s.idxRoot p) 256 = true) :
    let r := s.devRead p (s.idxRoot p) 64
    let w := leAt r.2.1 0 4
    let x := r.1.readLog p (wAt r.2.1 24) (leAt r.2.1 20 4) w (leAt r.2.1 20 4) (s.dk p).tlogRead (s.dk p).published
    r.2.2 = false → (s.dk p).published < w → x.2.2.2 = .done → completes (exec (.publishSample p) s) (fun u =>
      (u.dk p).pubNext = some (x.2.1, w) ∧ (u.dk p).tombs = (x.1.dk p).tombs ∧
      (∀ c ∈ s.coresOf p, (u.core c).tombs = (u.dk p).tombs) ∧ (u.dk p).published = (s.dk p).published) := by
  intro r w x hgood hnew hdone
  have hside : x.1.logSide p = s.logSide p := (State.readLog_logSide ..).trans (s.devRead_logSide ..)
  have hforce : x.1.force = s.force := congrArg Prod.fst hside
  refine ⟨_, exec_publishSample_of_done (x := x) (w := w) hnext hroot hin hgood rfl hnew rfl hdone, ?_, ?_, fun c hc => ?_, ?_⟩
  · rw [State.logDelivered_dk]
  · rw [State.logDelivered_dk]
  · rw [State.logDelivered_dk, State.logDelivered_core, State.syncTombs_tombs (by rwa [State.coresOf_congr hforce])]
  · rw [State.logDelivered_dk]
    exact congrArg (fun x : Tab Word × DeskPart => x.2.published) hside

theorem publishPointWrite_publishes {p : PartId} {s : State} {t w : Nat} (hnext : (s.dk p).pubNext = some (t, w)) :
    completes (exec (.publishPointWrite p) s) (fun u =>
      (u.dk p).tlogRead = t ∧ (u.dk p).published = w ∧ (u.dk p).pubNext = none ∧
      u.mem = ((s.putRoot p 16 (leBytes 4 t)).putRoot p 4 (leBytes 4 w)).mem) := by
  refine ⟨_, exec_publishPointWrite hnext, ?_, ?_, ?_, State.besides_mem ..⟩ <;>
    rw [State.besides_dk, State.modDk_dk, if_pos rfl]

end Sys2Proof.Machine
end

section
/-! SUPPORT. The prefetch buffer: a block fills its entry, and the first RDA that waits is served (R178, R179); O23. -/

namespace Sys2Proof.Machine

/-! ### What leaves a prefetch buffer alone -/

theorem prefetch_modCore (s : State) (c d : Nat) (f : Core → Core) (h : (f (s.core c)).prefetch = (s.core c).prefetch) :
    ((s.modCore c f).core d).prefetch = (s.core d).prefetch := by
  rw [core_modCore]
  split
  · next hd => rw [hd, h]
  · rfl

theorem State.wakeIf_prefetch (s : State) (c d : Nat) (p : Thread → Bool) (f : Thread → Thread) :
    ((s.wakeIf c p f).core d).prefetch = (s.core d).prefetch := by
  have hprefetch := congrArg Core.prefetch (s.wakeIf_rest c d p f)
  exact hprefetch

theorem State.modThr_prefetch (s : State) (c t d : Nat) (f : Thread → Thread) :
    ((s.modThr c t f).core d).prefetch = (s.core d).prefetch := modThr_coreField Core.prefetch (fun _ _ => rfl) s c t d f

theorem State.setThr_prefetch (s : State) (c t d : Nat) (x : Thread) :
    ((s.setThr c t x).core d).prefetch = (s.core d).prefetch := s.modThr_prefetch c t d (fun _ => x)

theorem State.tryFree_prefetch (s : State) (c g d : Nat) : ((s.tryFree c g).core d).prefetch = (s.core d).prefetch := by
  have hclosed : ((s.closeLists c g).core d).prefetch = (s.core d).prefetch :=
    foldl_unchanged (fun s : State => (s.core d).prefetch) (fun s _ => prefetch_modCore s c d _ rfl) _ s
  unfold State.tryFree
  dsimp only
  split
  · exact (prefetch_modCore _ c d _ rfl).trans hclosed
  · rfl

theorem State.releaseHandles_prefetch (s : State) (c h d : Nat) : ((s.releaseHandles c h).core d).prefetch = (s.core d).prefetch := by
  unfold State.releaseHandles
  dsimp only
  split
  · rw [State.modDk_core, prefetch_modCore _ _ _ _ rfl]
  · rw [prefetch_modCore _ _ _ _ rfl]

theorem State.endContext_prefetch (s : State) (c t d : Nat) : ((s.endContext c t).core d).prefetch = (s.core d).prefetch := by
  unfold State.endContext
  split
  · rw [State.haltHart, State.wakeUnit, State.wakeIf_prefetch, State.releaseHandles_prefetch, State.modThr_prefetch,
      State.setField_core, State.setField_core]
  · rw [State.endThread, State.tryFree_prefetch]
    exact (prefetch_modCore _ c d _ rfl).trans (s.setThr_prefetch c t d _)

theorem State.settle_prefetch (s : State) (c t d : Nat) : ((s.settle c t).core d).prefetch = (s.core d).prefetch := by
  unfold State.settle
  dsimp only
  split
  · split
    · exact s.setThr_prefetch c t d _
    · rfl
  · split
    · exact s.endContext_prefetch c t d
    · rfl
  · exact s.setThr_prefetch c t d _
  · split
    · exact s.setThr_prefetch c t d _
    · rfl
  · rfl

theorem State.readDone_prefetch (s : State) (c t n d : Nat) : ((s.readDone c t n).core d).prefetch = (s.core d).prefetch := by
  unfold State.readDone
  split
  · rw [State.settle_prefetch, State.modThr_prefetch]
  · rfl

/-! ### Delivered bytes -/

/-- Delivered bytes change the scratch and the marks alone. -/
theorem Core.deliver_unchanged {β : Type} (g : Core → β) (hwrite : ∀ k a bs, g (Core.write k a bs) = g k)
    (hmark : ∀ k a n, g (Core.mark k a n) = g k) (k : Core) (a : Nat) (ds : List (Byte × Bool)) : g (k.deliver a ds) = g k :=
  (foldl_unchanged g (fun k i => by split <;> simp [hmark]) _ _).trans (hwrite ..)

theorem Core.deliver_prefetch (k : Core) (a : Nat) (ds : List (Byte × Bool)) : (k.deliver a ds).prefetch = k.prefetch :=
  Core.deliver_unchanged Core.prefetch (fun _ _ _ => rfl) (fun _ _ _ => rfl) k a ds

theorem Core.deliver_threads (k : Core) (a : Nat) (ds : List (Byte × Bool)) : (k.deliver a ds).threads = k.threads :=
  Core.deliver_unchanged Core.threads (fun _ _ _ => rfl) (fun _ _ _ => rfl) k a ds

/-- One read of a READY thread is complete. -/
theorem State.readDone_thr {s : State} {c t n : Nat} (hst : (s.thr c t).st = .ready) (hinst : (s.thr c t).inst = n) :
    (s.readDone c t n).thr c t = { s.thr c t with reads := (s.thr c t).reads - 1 } := by
  rw [State.readDone, if_pos ⟨hinst, by simp [hst]⟩, State.settle_ready (by rw [thr_modThr]; exact hst), thr_modThr]

/-! ### Fills (R178) -/

/-- The entries of a prefetch with the data of request `r`, which has the number `i`, in those that it is for. -/
def Req.fillEntry (r : Req) (i : Nat) (e : PfEntry) : PfEntry :=
  if e.id = i then { e with
    filled := true, data := Mem.bytes r.stored (r.addr.toNat % 64) 128
    bad := (Tab.get (fun _ => false) r.storedBad 0, Tab.get (fun _ => false) r.storedBad 1) } else e

theorem exec_prefetchFill {s : State} {i : Nat} {r : Req} (hreq : s.req i = some r) (hkind : r.kind = .prefetch)
    (hlines : ∀ l, l < r.nLines → r.lineDone l = true) : exec (.prefetchFill i) s =
    .next (((s.setReq i none).modCore r.core (fun k => { k with prefetch := k.prefetch.map (r.fillEntry i) })).tagFreed r.core) := by
  have hall : (List.range r.nLines).all r.lineDone = true := List.all_eq_true.2 fun l hl => hlines l (List.mem_range.1 hl)
  change execPrefetchFill i s = _
  unfold execPrefetchFill
  rw [hreq]
  exact if_neg (by simp [hkind, hall])

/-- R178: a prefetched block that has arrived fills its entry, and changes no byte. -/
theorem prefetchFill_fills {s : State} {i : Nat} {r : Req} (hreq : s.req i = some r) (hkind : r.kind = .prefetch)
    (hlines : ∀ l, l < r.nLines → r.lineDone l = true) :
    completes (exec (.prefetchFill i) s) (fun u => u.req i = none ∧ storedNone s u ∧
      ∀ e ∈ (u.core r.core).prefetch, e.id = i → e.filled = true ∧ e.data = Mem.bytes r.stored (r.addr.toNat % 64) 128) := by
  refine ⟨_, exec_prefetchFill hreq hkind hlines, ?_, storedNone_of_stores ?_, fun e he hid => ?_⟩
  · rw [State.req_of_still (State.tagFreed_still ..), State.req_of_still (State.modCore_still rfl), req_setReq, if_pos rfl]
  · rw [State.stores_of_still (State.tagFreed_still ..), State.modCore_stores rfl, State.setReq_stores]
  · rw [State.tagFreed, State.wakeIf_prefetch, core_modCore, if_pos rfl] at he
    obtain ⟨e', -, rfl⟩ := List.mem_map.1 he
    unfold Req.fillEntry at hid ⊢
    split
    · exact ⟨rfl, rfl⟩
    · next hother =>
      rw [if_neg hother] at hid
      exact absurd hid hother

/-! ### Serving (R179) -/

/-- The buffer once the first RDA that waits on entry `i` is served: `ws` wait on it still. -/
def servedEntries (i : Nat) (ws : List (Nat × Nat × Nat)) (l : List PfEntry) : List PfEntry :=
  if ws = [] then l.filter (fun x => decide (x.id ≠ i)) else l.map (fun x => if x.id = i then { x with waits := ws } else x)

/-- The data of an entry with the poison of its lines. -/
def PfEntry.bytes (e : PfEntry) : List (Byte × Bool) :=
  (List.range 128).map (fun j => (e.data.getD j 0, if j < 64 then e.bad.1 else e.bad.2))

theorem PfEntry.bytes_fst (e : PfEntry) : e.bytes.map (·.1) = (List.range 128).map (fun j => e.data.getD j 0) := by
  simp [PfEntry.bytes]

/-- The state in which the thread's scratch has the data of the entry, if the thread takes it. -/
def State.entryDelivered (s : State) (c t inst dst : Nat) (e : PfEntry) : State :=
  if s.takesData { core := c, ctx := t, inst := inst } then s.modCore c (·.deliver dst e.bytes) else s

theorem State.entryDelivered_prefetch (s : State) (c t inst dst d : Nat) (e : PfEntry) :
    ((s.entryDelivered c t inst dst e).core d).prefetch = (s.core d).prefetch := by
  unfold State.entryDelivered
  split
  · exact prefetch_modCore _ _ _ _ (Core.deliver_prefetch ..)
  · rfl

theorem State.entryDelivered_thr (s : State) (c t inst dst d v : Nat) (e : PfEntry) :
    (s.entryDelivered c t inst dst e).thr d v = s.thr d v := by
  unfold State.entryDelivered
  split
  · exact thr_modCore _ _ _ _ _ (Core.deliver_threads ..)
  · rfl

theorem exec_prefetchServe {c : CoreId} {i t inst dst : Nat} {s : State} {e : PfEntry} {ws : List (Nat × Nat × Nat)}
    (hfind : (s.core c).prefetch.find? (fun e => decide (e.id = i)) = some e) (hfilled : e.filled = true)
    (hwaits : e.waits = (t, inst, dst) :: ws) : exec (.prefetchServe c i) s =
    .next (((s.entryDelivered c t inst dst e).modCore c
      (fun k => { k with prefetch := servedEntries e.id ws k.prefetch })).readDone c t inst) := by
  change execPrefetchServe c i s = _
  unfold execPrefetchServe
  rw [hfind]
  dsimp only
  rw [hfilled, hwaits]
  rfl

/-- R179: the first RDA that waits on a filled entry takes the data, and leaves the entry to those behind it. -/
theorem prefetchServe_serves {c : CoreId} {i t inst dst : Nat} {s : State} {e : PfEntry} {ws : List (Nat × Nat × Nat)}
    (hfind : (s.core c).prefetch.find? (fun e => decide (e.id = i)) = some e) (hfilled : e.filled = true)
    (hwaits : e.waits = (t, inst, dst) :: ws) :
    completes (exec (.prefetchServe c i) s) (fun u =>
      (if s.takesData { core := c, ctx := t, inst := inst } = true then
        stored s u c dst ((List.range 128).map (fun j => e.data.getD j 0)) else storedNone s u) ∧
      (ws = [] → ∀ y ∈ (u.core c).prefetch, y.id ≠ i) ∧
      (ws ≠ [] → ∀ y ∈ (u.core c).prefetch, y.id = i → y.waits = ws) ∧
      ((s.thr c t).inst = inst → (s.thr c t).st = .ready → (u.thr c t).reads = (s.thr c t).reads - 1)) := by
  have hid : e.id = i := by
    have hnamed := List.find?_some hfind
    exact of_decide_eq_true hnamed
  rw [exec_prefetchServe hfind hfilled hwaits, hid]
  generalize hu : ((s.entryDelivered c t inst dst e).modCore c
    (fun k => { k with prefetch := servedEntries i ws k.prefetch })).readDone c t inst = u
  have hstores : u.stores = (s.entryDelivered c t inst dst e).stores := by
    rw [← hu, State.stores_of_still (State.readDone_still ..), State.modCore_stores rfl]
  have hleft : (u.core c).prefetch = servedEntries i ws (s.core c).prefetch := by
    rw [← hu, State.readDone_prefetch, core_modCore, if_pos rfl]
    exact congrArg (servedEntries i ws) (s.entryDelivered_prefetch ..)
  refine ⟨u, rfl, ?_, fun hlast y hy => ?_, fun hmore y hy hyid => ?_, fun hinst hst => ?_⟩
  · unfold State.entryDelivered at hstores
    split
    · next htakes =>
      rw [if_pos htakes, State.deliver_stores, PfEntry.bytes_fst] at hstores
      exact stored_of_stores rfl hstores
    · next hdrops =>
      rw [if_neg hdrops] at hstores
      exact storedNone_of_stores hstores
  · rw [hleft, servedEntries, if_pos hlast] at hy
    exact of_decide_eq_true (List.mem_filter.1 hy).2
  · rw [hleft, servedEntries, if_neg hmore] at hy
    obtain ⟨y', -, rfl⟩ := List.mem_map.1 hy
    split at hyid
    · next hsame => rw [if_pos hsame]
    · next hother => exact absurd hyid hother
  · have hthr : ((s.entryDelivered c t inst dst e).modCore c
        (fun k => { k with prefetch := servedEntries i ws k.prefetch })).thr c t = s.thr c t :=
      (thr_modCore _ _ _ _ _ rfl).trans (s.entryDelivered_thr ..)
    rw [← hu, State.readDone_thr (by rw [hthr, hst]) (by rw [hthr, hinst]), hthr]

end Sys2Proof.Machine
end

section
/-! SUPPORT. How a long operation starts (R384 to R386), and the snapshot commit (R161, R175 to R177); O23. -/

namespace Sys2Proof.Machine

/-! ### Slots (R384) -/

theorem State.modLosw_losw (s : State) (p o : Nat) (f : Losw → Losw) : (s.modLosw p o f).losw p o = f (s.losw p o) := by
  rw [State.losw, State.modLosw, State.modPart_part, if_pos rfl]
  exact Tab.get_set_same ..

theorem State.losw_of_parts {s u : State} (h : u.parts = s.parts) (p o : Nat) : u.losw p o = s.losw p o :=
  congrArg (fun t => Tab.get (fun _ => ({} : Losw)) (Tab.get (fun _ => ({} : Part)) t p).losw o) h

/-- An operation that waits for flash programs runs, or is paused while a brown-out holds it (R330, R385). -/
theorem State.loswRun_flash (s : State) (p o total : Nat) (partial_ : Bool) (h : (s.losw p o).flash = true) :
    ((s.loswRun p o total partial_).losw p o).state = (if s.pwr.brownout then 6 else 2) ∧
    ((s.loswRun p o total partial_).losw p o).op = (s.losw p o).op := by
  rw [State.loswRun, State.modLosw_losw]
  simp only [h, Bool.and_true, and_true]

/-- The start of an operation that a function may start, with a request that lies in the partition and reads good (R384 to
R386). -/
theorem lopStart_of_asks {s : State} {f : Fn} {p o op n : Nat} {bs : List Byte} (hmay : mayStart s f p o)
    (hasks : asks s f p o op n bs) (body : State → List Byte → State) :
    (s.access f).lopStart f p o op false n body = body (slotRequest s f p o op n).1 bs := by
  obtain ⟨hsp, hlive, hbound, hslot, hqueued, hrunning, hpaused⟩ := hmay
  obtain ⟨hin, halign, hread⟩ := hasks
  obtain ⟨hbytes, hgood⟩ := Prod.ext_iff.1 hread
  have haccept : ¬(f = .sp ∨ (!(s.access f).fnLive f) = true ∨ (fnIsVf f = true ∧ (s.access f).fnPart f ≠ some p)) := by
    rintro (h | h | ⟨hvf, hpart⟩)
    · exact hsp h
    · have hthere : (s.access f).fnLive f = true := hlive
      simp [hthere] at h
    · exact hpart (hbound hvf)
  have hfree : ¬(30 ≤ o ∨ ((s.access f).losw p o).state ∈ [1, 2, 6]) := by
    have hstate : (s.access f).losw p o = s.losw p o := rfl
    simp [hstate, hslot, hqueued, hrunning, hpaused]
  have hreq : (((s.access f).modLosw p o (fun l =>
      { l with op := op, state := 1, error := 0, prog := 0, total := 0, part := 0xFFFFFFFF })).losw p o).req = (s.losw p o).req := by
    rw [State.modLosw_losw]
    rfl
  unfold State.lopStart State.lopAccept
  dsimp only
  rw [if_neg haccept, if_neg hfree, if_neg (by simp), hreq, if_neg, if_neg]
  · exact congrArg (body _) hbytes
  · exact ne_true_of_eq_false hgood
  · have hwithin : ((s.access f).modLosw p o (fun l =>
        { l with op := op, state := 1, error := 0, prog := 0, total := 0, part := 0xFFFFFFFF })).inAlloc p (s.losw p o).req n = true := hin
    simp [hwithin, halign]

section
variable (s : State) (f : Fn) (p o op n : Nat)

theorem slotRequest_force : (slotRequest s f p o op n).1.force = s.force := State.devRead_force ..
theorem slotRequest_desk : (slotRequest s f p o op n).1.desk = s.desk := State.devRead_desk ..
theorem slotRequest_deskP : (slotRequest s f p o op n).1.deskP = s.deskP := State.devRead_deskP ..
theorem slotRequest_pwr : (slotRequest s f p o op n).1.pwr = s.pwr := State.devRead_pwr ..
theorem slotRequest_op : ((slotRequest s f p o op n).1.losw p o).op = op := by
  rw [slotRequest, State.losw_of_parts (State.devRead_parts ..), State.modLosw_losw]

end

/-! ### The conditions on a version record (R176) -/

/-- The header that is checked is read, and nothing that a read leaves alone changes. -/
theorem State.degreeOk_unchanged {β : Type} (g : State → β) (hread : ∀ (s : State) p a n, g (s.devRead p a n).1 = g s) (s : State)
    (p : Nat) (r : List Byte) : g (s.degreeOk p r).1 = g s := by
  unfold State.degreeOk
  dsimp only
  split
  · rfl
  · split
    · rfl
    · exact hread ..

/-! ### The start of a commit (R175, R176) -/

section
variable {f : Fn} {p : PartId} {o : SlotId} {rq : List Byte} {s : State} (hmay : mayStart s f p o) (hasks : asks s f p o 1 64 rq)
include hmay hasks

/-- A second commit is refused. -/
theorem indexSnapshotCommit_busy (hbusy : (s.dk p).snap ≠ none) : completes (exec (.indexSnapshotCommit f p o) s) (fun u =>
    (u.losw p o).state = 4 ∧ (u.losw p o).error = 0x02A3 ∧ (u.dk p).snap = (s.dk p).snap) := by
  have hdk : (slotRequest s f p o 1 64).1.dk p = s.dk p := State.dk_of_deskP (slotRequest_deskP ..) p
  have hexec : exec (.indexSnapshotCommit f p o) s = .next ((slotRequest s f p o 1 64).1.loswFail p o 0x02A3) := by
    refine (congrArg Host.Outcome.next (lopStart_of_asks hmay hasks _)).trans ?_
    dsimp only
    rw [if_pos (by rwa [hdk])]
  have hfailed := (slotRequest s f p o 1 64).1.modLosw_losw p o (fun l => { l with state := 4, error := 0x02A3 })
  refine ⟨_, hexec, ?_, ?_, congrArg DeskPart.snap hdk⟩
  · exact congrArg Losw.state hfailed
  · exact congrArg Losw.error hfailed

/-- A commit of a good version record with no extents awaits the writing of its record. -/
theorem indexSnapshotCommit_starts {va dst : Word} {vr : State × List Byte × Bool} (hva : wAt rq 0 = va) (hdst : wAt rq 24 = dst)
    (hvr : (slotRequest s f p o 1 64).1.devRead p va 32 = vr) (hidle : (s.dk p).snap = none) (hnone : leAt rq 16 4 = 0)
    (hzero : zeroAt rq 20 4 = true) (hzeros : zeroAt rq 32 32 = true) (halign : (wAt rq 8).toNat % 32 = 0) (hspace : aSpace dst = 2)
    (hin : s.inAlloc p va 32 = true) (hdstIn : s.inAlloc p dst 4096 = true) (hgood : vr.2.2 = false)
    (hvrec : (s.dk p).vrecOk vr.2.1 = true) (hdegree : (vr.1.degreeOk p vr.2.1).2 = true) (hqueries : s.queriesOf p = []) :
    completes (exec (.indexSnapshotCommit f p o) s) (fun u =>
      (u.losw p o).state = (if s.pwr.brownout then 6 else 2) ∧ (u.losw p o).op = 1 ∧
      ∃ q, (u.dk p).snap = some q ∧ q.slot = o ∧ q.vrec = vr.2.1 ∧ q.dst = dst ∧ q.wrote = false) := by
  have hdk : (slotRequest s f p o 1 64).1.dk p = s.dk p := State.dk_of_deskP (slotRequest_deskP ..) p
  have halloc (a : Word) (n : Nat) : (slotRequest s f p o 1 64).1.inAlloc p a n = s.inAlloc p a n :=
    State.inAlloc_congr (slotRequest_force ..) p a n
  have hlive : (slotRequest s f p o 1 64).1.queriesOf p = [] := by
    refine Eq.trans ?_ hqueries
    unfold State.queriesOf State.query
    rw [slotRequest_desk]
  have hexec : exec (.indexSnapshotCommit f p o) s = .next (((vr.1.degreeOk p vr.2.1).1.loswRun p o 0 false).modDk p
      (fun d => { d with snap := some ⟨o, vr.2.1, dst, [], false⟩ })) := by
    refine (congrArg Host.Outcome.next (lopStart_of_asks hmay hasks _)).trans ?_
    dsimp only
    rw [if_neg (by simp [hdk, hidle]), hva, hdst, hvr, hnone, if_neg (by simp [hzero, hzeros, halign, hspace, halloc, hin, hdstIn]),
      if_pos rfl, hlive, hdk, if_neg (by simp [hgood, hvrec, hdegree])]
    rfl
  have hpwr : (vr.1.degreeOk p vr.2.1).1.pwr = s.pwr := by
    rw [State.degreeOk_unchanged State.pwr State.devRead_pwr, ← hvr, State.devRead_pwr, slotRequest_pwr]
  have hop : ((vr.1.degreeOk p vr.2.1).1.losw p o).op = 1 := by
    rw [State.losw_of_parts (State.degreeOk_unchanged State.parts State.devRead_parts ..), ← hvr,
      State.losw_of_parts (State.devRead_parts ..), slotRequest_op]
  obtain ⟨hstate, hsame⟩ := (vr.1.degreeOk p vr.2.1).1.loswRun_flash p o 0 false (by simp [Losw.flash, hop])
  rw [hpwr] at hstate
  exact ⟨_, hexec, hstate, hsame.trans hop, _, congrArg DeskPart.snap ((State.modDk_dk ..).trans (if_pos rfl)), rfl, rfl, rfl, rfl⟩

end

/-! ### The steps of a commit (R177) -/

/-- No unit that the commit has written waits in staging: they are durable. -/
theorem snapUnits_durable {s : State} {p : Nat} {q : Snap} (h : ∀ n ∈ q.units, ∀ x ∈ (s.ns p).staging, x.lu ≠ n) :
    q.units.filter (fun u => (s.ns p).staging.any (fun x => decide (x.lu = u))) = [] :=
  List.filter_eq_nil_iff.2 fun n hn => by simpa using h n hn

/-- The slot's progress once every unit that the commit has written is durable. -/
def State.snapDurable (s : State) (p : Nat) (q : Snap) : State := s.loswProg p q.slot (s.losw p q.slot).total

/-- The commit point: the index root names the version ACTIVE, and so does the Desk. -/
def State.versionActive (s : State) (p : Nat) (q : Snap) : State :=
  ((s.putRoot p (64 + 32 * (vrVersion q.vrec % 4)) q.vrec).putRoot p 8 (leBytes 4 (vrVersion q.vrec))).modDk p (fun d => { d with
    active := vrVersion q.vrec, vrec := Tab.set (fun _ => []) d.vrec (vrVersion q.vrec % 4) q.vrec, snap := none })

/-- The partition's cores take the version's ADJ_BASE, and their prefetch buffers are emptied. -/
def State.versionTaken (s : State) (p v : Nat) : State :=
  (s.coresOf p).foldl (fun s c => (s.loadAdj c p v).modCore c Core.emptyPrefetch) s

/-- What the Desk holds of the index versions of a partition, and of its snapshot commit. -/
def State.versions (s : State) (p : Nat) : Nat × Tab (List Byte) × Option Snap :=
  ((s.dk p).active, (s.dk p).vrec, (s.dk p).snap)

theorem State.versions_of_deskP {s u : State} (h : u.deskP = s.deskP) (p : Nat) : u.versions p = s.versions p := by
  simp only [State.versions, State.dk_of_deskP h]

theorem State.putRoot_parts (s : State) (p off : Nat) (bs : List Byte) : (s.putRoot p off bs).parts = s.parts := s.devWrite_parts ..
theorem State.putRoot_deskP (s : State) (p off : Nat) (bs : List Byte) : (s.putRoot p off bs).deskP = s.deskP := s.devWrite_deskP ..

theorem State.loadAdj_unchanged {β : Type} (g : State → β) (hread : ∀ (s : State) p a n, g (s.devRead p a n).1 = g s)
    (hset : ∀ (s : State) a w, g (s.setReg a w) = g s) (s : State) (c p v : Nat) : g (s.loadAdj c p v) = g s := by
  unfold State.loadAdj
  dsimp only
  split
  · exact hset ..
  · exact (hset ..).trans (hread ..)

theorem State.versionTaken_parts (s : State) (p v : Nat) : (s.versionTaken p v).parts = s.parts := by
  refine foldl_unchanged State.parts (fun s c => ?_) _ s
  exact State.loadAdj_unchanged State.parts State.devRead_parts (fun _ _ _ => rfl) s c p v
theorem State.versionTaken_deskP (s : State) (p v : Nat) : (s.versionTaken p v).deskP = s.deskP := by
  refine foldl_unchanged State.deskP (fun s c => ?_) _ s
  exact State.loadAdj_unchanged State.deskP State.devRead_deskP (fun _ _ _ => rfl) s c p v

theorem State.repin_parts (s : State) (p : Nat) : (s.repin p).parts = s.parts := by
  unfold State.repin
  dsimp only
  split
  · rfl
  · rw [State.putRoot_parts, State.setPin, State.syncTombs_parts, State.modDk_parts]

theorem State.repin_versions (s : State) (p : Nat) : (s.repin p).versions p = s.versions p := by
  unfold State.repin
  dsimp only
  split
  · rfl
  · rw [State.versions_of_deskP (State.putRoot_deskP ..), State.setPin, State.versions_of_deskP (State.syncTombs_deskP ..),
      State.versions, State.modDk_dk, if_pos rfl, State.versions]

theorem State.versionActive_versions (s : State) (p : Nat) (q : Snap) : (s.versionActive p q).versions p =
    (vrVersion q.vrec, Tab.set (fun _ => []) (s.dk p).vrec (vrVersion q.vrec % 4) q.vrec, none) := by
  rw [State.versions, State.versionActive, State.modDk_dk, if_pos rfl, State.dk_of_deskP (State.putRoot_deskP ..),
    State.dk_of_deskP (State.putRoot_deskP ..)]

section
variable {p : PartId} {s : State} {q : Snap} (hsnap : (s.dk p).snap = some q)
  (hdurable : ∀ n ∈ q.units, ∀ x ∈ (s.ns p).staging, x.lu ≠ n)
include hsnap hdurable

theorem exec_snapshotPublish_of_record (hwrote : q.wrote = false) : exec (.snapshotPublish p) s = .next (if (s.ns p).takesWrite then
    ((s.snapDurable p q).devWrite p q.dst q.vrec).modDk p (fun d => { d with snap := some { q with wrote := true, units := unitsOf q.dst 32 } })
    else ((s.snapDurable p q).modDk p (fun d => { d with snap := none })).loswFail p q.slot 0x02A2) := by
  have hns (n : Nat) : (s.loswProg p q.slot n).ns p = s.ns p := rfl
  change execSnapshotPublish p s = _
  unfold execSnapshotPublish
  rw [hsnap]
  dsimp only
  rw [snapUnits_durable hdurable, hwrote, if_neg (not_not.2 rfl)]
  simp only [Bool.not_false, if_true, Bool.false_eq_true, if_false, hns]
  cases (s.ns p).takesWrite
  · rfl
  · rfl

theorem exec_snapshotPublish_of_wrote (hwrote : q.wrote = true) : exec (.snapshotPublish p) s =
    .next ((((s.versionActive p q).versionTaken p (vrVersion q.vrec % 4)).loswDone p q.slot).repin p) := by
  change execSnapshotPublish p s = _
  unfold execSnapshotPublish
  rw [hsnap]
  dsimp only
  rw [snapUnits_durable hdurable, hwrote, if_neg (not_not.2 rfl), if_neg (by decide), if_pos rfl]
  rfl

/-- The commit's extents are durable, and tier 2 cannot take the record. -/
theorem snapshotPublish_fails (hwrote : q.wrote = false) (hfull : (s.ns p).takesWrite = false) :
    completes (exec (.snapshotPublish p) s) (fun u => (u.dk p).snap = none ∧ (u.losw p q.slot).state = 4 ∧
      (u.losw p q.slot).error = 0x02A2) := by
  rw [exec_snapshotPublish_of_record hsnap hdurable hwrote, hfull, if_neg Bool.false_ne_true]
  have hended := (s.snapDurable p q).modDk_dk p p (fun d => { d with snap := none })
  have hfailed := ((s.snapDurable p q).modDk p (fun d => { d with snap := none })).modLosw_losw p q.slot
    (fun l => { l with state := 4, error := 0x02A2 })
  rw [if_pos rfl] at hended
  exact ⟨_, rfl, congrArg DeskPart.snap hended, congrArg Losw.state hfailed, congrArg Losw.error hfailed⟩

/-- The commit's extents are durable, and its record is written to tier 2. -/
theorem snapshotPublish_writes (hwrote : q.wrote = false) (htakes : (s.ns p).takesWrite = true) :
    completes (exec (.snapshotPublish p) s) (fun u => ∃ q', (u.dk p).snap = some q' ∧ q'.wrote = true ∧ q'.slot = q.slot) := by
  rw [exec_snapshotPublish_of_record hsnap hdurable hwrote, htakes, if_pos rfl]
  exact ⟨_, rfl, _, congrArg DeskPart.snap ((State.modDk_dk ..).trans (if_pos rfl)), rfl, rfl⟩

/-- The commit's record is durable: its version becomes ACTIVE and the operation ends. -/
theorem snapshotPublish_ends (hwrote : q.wrote = true) :
    completes (exec (.snapshotPublish p) s) (fun u => (u.dk p).snap = none ∧
      (u.dk p).active = leAt q.vrec 0 4 ∧ (u.losw p q.slot).state = 3 ∧
      Tab.get (fun _ => []) (u.dk p).vrec (leAt q.vrec 0 4 % 4) = q.vrec) := by
  rw [exec_snapshotPublish_of_wrote hsnap hdurable hwrote]
  generalize hu : (((s.versionActive p q).versionTaken p (vrVersion q.vrec % 4)).loswDone p q.slot).repin p = u
  have hversions : u.versions p = (vrVersion q.vrec, Tab.set (fun _ => []) (s.dk p).vrec (vrVersion q.vrec % 4) q.vrec, none) := by
    rw [← hu, State.repin_versions, ← s.versionActive_versions]
    exact State.versions_of_deskP (State.versionTaken_deskP ..) p
  have hdone : (u.losw p q.slot).state = 3 := by
    rw [← hu, State.losw_of_parts (State.repin_parts ..), State.loswDone, State.modLosw_losw]
  simp only [State.versions, Prod.mk.injEq] at hversions
  obtain ⟨hactive, hvrec, hnone⟩ := hversions
  refine ⟨u, rfl, hnone, hactive, hdone, ?_⟩
  rw [hvrec]
  exact Tab.get_set_same ..

end

/-- Settles O23: publication, the prefetch buffer and the snapshot commit, each command by its lemma. -/
theorem publicationAndSnapshots : Obligations.PublicationAndSnapshots := by
  unfold Obligations.PublicationAndSnapshots
  refine ⟨fun p c i s => ⟨fun hnext hroot hin => ?_, fun t w hnext => publishPointWrite_publishes hnext,
    fun r hreq hkind hlines => prefetchFill_fills hreq hkind hlines,
    fun e t inst dst ws hfind hfilled hwaits => prefetchServe_serves hfind hfilled hwaits⟩,
    fun f p o rq s => ⟨fun hmay hasks => ⟨indexSnapshotCommit_busy hmay hasks, ?_⟩,
      fun q hsnap hdurable => ⟨snapshotPublish_ends hsnap hdurable, snapshotPublish_writes hsnap hdurable,
        snapshotPublish_fails hsnap hdurable⟩⟩⟩
  · exact fun hgood => ⟨exec_publishSample_of_published hnext hroot hin, publishSample_delivers hnext hroot hin hgood⟩
  · exact indexSnapshotCommit_starts hmay hasks rfl rfl rfl

end Sys2Proof.Machine
end

section
/-! SUPPORT. A read of the tiers neither reads nor writes the latched words, so a commit checks the same after the access that
starts it (R479, R482); O38. -/

namespace Sys2Proof.Machine

/-- The state with other latched words. -/
def State.latched (s : State) (l : Tab (Option (Nat × Word))) : State := { s with latch := l }

theorem State.access_eq_latched (s : State) (f : Fn) :
    s.access f = s.latched (Tab.set (fun _ => none) s.latch (fnIdx f) none) := rfl

section
variable (s : State) (l : Tab (Option (Nat × Word)))

/-! ### What a read looks at

`(rfl)` for the reason given at `State.besides_free`. -/

theorem State.latched_free : (s.latched l).free = s.free := (rfl)
@[simp] theorem State.latched_tp (p : Nat) : (s.latched l).tp p = s.tp p := (rfl)
@[simp] theorem State.latched_ns (p : Nat) : (s.latched l).ns p = s.ns p := (rfl)
@[simp] theorem State.latched_zeroingPiece (i : Nat) : (s.latched l).zeroingPiece i = s.zeroingPiece i := (rfl)
@[simp] theorem State.latched_unified (p : Nat) : (s.latched l).unified p = s.unified p := (rfl)
@[simp] theorem State.latched_locate (p : Nat) (a : Word) : (s.latched l).locate p a = s.locate p a := (rfl)
@[simp] theorem State.latched_tierOf (p : Nat) (a : Word) : (s.latched l).tierOf p a = s.tierOf p a := (rfl)
@[simp] theorem State.latched_cached (p g : Nat) : (s.latched l).cached p g = s.cached p g := (rfl)
@[simp] theorem State.latched_mapLineBad (p g : Nat) : (s.latched l).mapLineBad p g = s.mapLineBad p g := (rfl)
@[simp] theorem State.latched_scanAt (i o : Nat) : (s.latched l).scanAt i o = s.scanAt i o := (rfl)
@[simp] theorem State.latched_queueDepth (p k : Nat) : (s.latched l).queueDepth p k = s.queueDepth p k := (rfl)
@[simp] theorem State.latched_queueAhead (i k q : Nat) : (s.latched l).queueAhead i k q = s.queueAhead i k q := (rfl)
theorem State.latched_nextId : (s.latched l).nextId = s.nextId := (rfl)
@[simp] theorem State.latched_sbRows (p : Nat) : (s.latched l).sbRows p = s.sbRows p := (rfl)
@[simp] theorem State.latched_cwChan (p cw : Nat) : (s.latched l).cwChan p cw = s.cwChan p cw := (rfl)
@[simp] theorem State.latched_memberChan (p b m : Nat) : (s.latched l).memberChan p b m = s.memberChan p b m := (rfl)
@[simp] theorem State.latched_unitsAt (p : Nat) (a : Word) (n : Nat) : (s.latched l).unitsAt p a n = s.unitsAt p a n := (rfl)
@[simp] theorem State.latched_peek (p : Nat) (a : Word) (n : Nat) : (s.latched l).peek p a n = s.peek p a n := (rfl)

/-! ### What a read does -/

theorem State.ite_latched (c : Prop) [Decidable c] (u : State) :
    (if c then s.latched l else u.latched l) = (if c then s else u).latched l := (apply_ite (fun s : State => s.latched l) c s u).symm

@[simp] theorem State.latched_set_free (n : Nat) :
    ({ s.latched l with free := n } : State) = ({ s with free := n } : State).latched l := rfl
@[simp] theorem State.bump_latched (a n : Nat) : (s.latched l).bump a n = (s.bump a n).latched l := rfl
@[simp] theorem State.modTp_latched (p : Nat) (f : TierPart → TierPart) : (s.latched l).modTp p f = (s.modTp p f).latched l := rfl
@[simp] theorem State.modNs_latched (p : Nat) (f : Ns → Ns) : (s.latched l).modNs p f = (s.modNs p f).latched l := rfl
@[simp] theorem State.waitCycles_latched (a : Nat) : (s.latched l).waitCycles a = (s.waitCycles a).latched l := rfl
@[simp] theorem State.fcRead_latched (c n : Nat) : (s.latched l).fcRead c n = (s.fcRead c n).latched l := rfl
@[simp] theorem State.t2Seen_latched (p : Nat) : (s.latched l).t2Seen p = (s.t2Seen p).latched l := rfl
@[simp] theorem State.zeroed_latched (i : Nat) : (s.latched l).zeroed i = (s.zeroed i).latched l := rfl
@[simp] theorem State.uncorr_latched (i o : Nat) (scrub : Bool) : (s.latched l).uncorr i o scrub = (s.uncorr i o scrub).latched l := rfl

end

/-- A fold of steps that the latched words do not bear on. -/
theorem foldl_latched {α : Type} {l : Tab (Option (Nat × Word))} {f : State → α → State}
    (h : ∀ s x, f (s.latched l) x = (f s x).latched l) (xs : List α) (s : State) :
    xs.foldl f (s.latched l) = (xs.foldl f s).latched l :=
  List.foldl_hom (fun s : State => s.latched l) (fun s x => h s x)

/-- The same of a fold that carries something else beside the state. -/
theorem foldl_latched_fst {α β : Type} {l : Tab (Option (Nat × Word))} {f : State × β → α → State × β}
    (h : ∀ s y x, f (s.latched l, y) x = ((f (s, y) x).1.latched l, (f (s, y) x).2)) (xs : List α) (s : State) (y : β) :
    xs.foldl f (s.latched l, y) = ((xs.foldl f (s, y)).1.latched l, (xs.foldl f (s, y)).2) :=
  List.foldl_hom (fun x : State × β => (x.1.latched l, x.2)) (fun x z => h x.1 x.2 z) (init := (s, y))

section
variable (s : State) (l : Tab (Option (Nat × Word))) (p : Nat) (a : Word) (n : Nat)

@[simp] theorem State.awaitZero_latched : (s.latched l).awaitZero p a n = (s.awaitZero p a n).latched l := by
  refine foldl_latched (fun s k => ?_) _ s
  rw [State.latched_locate]
  split
  · rw [State.latched_zeroingPiece, State.zeroed_latched, State.ite_latched]
  · rfl

@[simp] theorem State.blockWaits_latched : (s.latched l).blockWaits p a n = (s.blockWaits p a n).latched l :=
  foldl_latched (fun s k => by simp [State.placeWaits, State.latched_nextId, State.ite_latched]) _ s

@[simp] theorem State.cacheIn_latched (g : Nat) : (s.latched l).cacheIn p g = (s.cacheIn p g).latched l := by
  simp only [State.cacheIn, State.latched_tp, State.latched_free, State.latched_set_free]
  rw [foldl_latched_fst (fun s y q => by simp only [State.modTp_latched, State.ite_latched]), State.ite_latched, State.modTp_latched]

@[simp] theorem State.translate_latched (g : Nat) : (s.latched l).translate p g = (s.translate p g).latched l := by
  unfold State.translate
  simp only [State.latched_cached, State.bump_latched, State.latched_mapLineBad]
  split
  · rfl
  · split <;> simp

@[simp] theorem State.translateAll_latched : (s.latched l).translateAll p a n = (s.translateAll p a n).latched l := by
  unfold State.translateAll
  rw [State.latched_unified, foldl_latched (fun s j => s.translate_latched ..), State.ite_latched]

@[simp] theorem State.yieldLines_latched : (s.latched l).yieldLines p a n = (s.yieldLines p a n).latched l := by
  refine foldl_latched (fun s k => ?_) _ s
  rw [State.latched_locate]
  split
  · simp only [State.yieldAt, State.latched_scanAt, State.latched_free, State.latched_set_free, State.bump_latched, State.ite_latched]
  · rfl

@[simp] theorem State.mapLook_latched (lu : Nat) : (s.latched l).mapLook p lu = (s.mapLook p lu).latched l := by
  unfold State.mapLook
  simp only [State.latched_ns, State.latched_set_free, State.latched_free, State.modNs_latched, State.waitCycles_latched,
    State.ite_latched, State.bump_latched]

@[simp] theorem State.flashRead_latched (cw : Nat) (q : CwOutcome) : (s.latched l).flashRead p cw q = (s.flashRead p cw q).latched l := by
  unfold State.flashRead
  simp only [State.latched_cwChan, State.fcRead_latched, State.bump_latched, State.latched_free, State.latched_set_free,
    State.modNs_latched]
  split
  · rfl
  · rfl
  · rw [foldl_latched (fun s m => by simp only [State.latched_sbRows, State.latched_memberChan, State.fcRead_latched, State.ite_latched])]
    simp only [State.bump_latched, State.modNs_latched, State.ite_latched]

theorem State.readUnit_latched (lu : Nat) : (s.latched l).readUnit p lu = ((s.readUnit p lu).1.latched l, (s.readUnit p lu).2) := by
  unfold State.readUnit State.fetchUnit
  simp only [State.bump_latched, State.latched_ns, State.mapLook_latched]
  split
  · rfl
  · split
    · rfl
    · split
      · rfl
      · simp [State.latched_free]

theorem State.readTo_latched : (s.latched l).readTo p a n = ((s.readTo p a n).1.latched l, (s.readTo p a n).2) := by
  simp only [State.readTo, State.awaitZero_latched, State.blockWaits_latched, State.translateAll_latched, State.yieldLines_latched]
  unfold State.readUnits
  rw [State.latched_unitsAt]
  split
  · rfl
  · rw [State.t2Seen_latched]
    exact foldl_latched_fst (fun s y u => by rw [State.readUnit_latched]) _ (State.t2Seen _ p) []

/-- A read finds the same bytes whatever is latched. -/
theorem State.devRead_latched : ((s.latched l).devRead p a n).2 = (s.devRead p a n).2 := by
  simp only [State.devRead, State.readBy, State.readTo_latched, State.latched_peek]
  split <;> rfl

end

theorem State.readTable_latched (s : State) (l : Tab (Option (Nat × Word))) (p : Nat) (a : Word) (n k : Nat) :
    (s.latched l).readTable p a n k = s.readTable p a n k := by
  simp only [State.readTable, State.devRead_latched]
  rfl

theorem State.readPlan_latched (s : State) (l : Tab (Option (Nat × Word))) (p limit : Nat) (m : List Byte) :
    (s.latched l).readPlan p limit m = s.readPlan p limit m := by
  simp only [State.readPlan, State.devRead_latched]
  rfl

/-- The access that starts a commit does not bear on its check (R479). -/
theorem State.access_deskCheck (s : State) (f : Fn) (p : Nat) : (s.access f).deskCheck p = s.deskCheck p := by
  rw [State.access_eq_latched]
  simp only [State.deskCheck, State.readTable_latched, State.readPlan_latched]
  rfl

end Sys2Proof.Machine
end

section
/-! SUPPORT. DESK_COMMIT and the effect of what it accepts (R199, R201, R210 to R212), and the bulk scan (R387); O38. -/

namespace Sys2Proof.Machine

/-! ### ERR_STATUS and IRQ_STATUS (R379, R476, R477) -/

/-- An interrupt changes what a message of MSI-X changes. -/
theorem State.signalBits_unchanged {β : Type} (g : State → β) (hsend : ∀ (s : State) k v, g (s.sendMsix k v) = g s)
    (hout : ∀ (s : State) b w, g (s.setIrqOut b w) = g s) (s : State) (k : Page) (m : Word) : g (s.signalBits k m) = g s := by
  refine (foldl_unchanged g (fun s _ => ?_) _ _).trans (hout ..)
  unfold State.signal
  dsimp only
  split
  · rfl
  · split
    · split
      · exact hsend ..
      · rfl
    · rfl
    · exact hsend ..

theorem State.setIrq_unchanged {β : Type} (g : State → β) (hsend : ∀ (s : State) k v, g (s.sendMsix k v) = g s)
    (hout : ∀ (s : State) b w, g (s.setIrqOut b w) = g s) (s : State) (base b : Nat) :
    g (s.setIrq base b) = g (s.setReg (base + 0x18) (s.reg (base + 0x18) ||| (1#64 <<< b))) := by
  unfold State.setIrq
  dsimp only
  split
  · split
    · exact State.signalBits_unchanged g hsend hout ..
    · rfl
  · rfl

theorem State.setErr_unchanged {β : Type} (g : State → β) (hset : ∀ (s : State) a w, g (s.setReg a w) = g s)
    (hmsix : ∀ (s : State) l, g { s with msix := l } = g s) (hout : ∀ (s : State) b w, g (s.setIrqOut b w) = g s) (s : State)
    (base b : Nat) : g (s.setErr base b) = g s := by
  have hsend (s : State) (k v : Nat) : g (s.sendMsix k v) = g s := by
    unfold State.sendMsix
    split
    · exact hset ..
    · exact (hset ..).trans (hmsix ..)
  unfold State.setErr
  dsimp only
  split
  · rw [hset, hset]
  · rw [State.setIrq_unchanged g hsend hout, hset, hset, hset]

theorem State.setIrq_reg (s : State) (base b : Nat) {a : Nat} (hlow : a < 0x9000) (hother : a ≠ base + 0x18) :
    (s.setIrq base b).reg a = s.reg a := by
  have hirq := State.reg_of_deskSide (State.setIrq_unchanged State.deskSide State.sendMsix_deskSide (fun _ _ _ => rfl) s base b) hlow
  rw [hirq, State.setReg_reg, if_neg hother]

/-- Bit `b` of ERR_STATUS is set. -/
theorem State.setErr_bit (s : State) {base b : Nat} (hlow : base + 0x10 < 0x9000) (hb : b < 64) :
    ((s.setErr base b).reg (base + 0x10)).getLsbD b = true := by
  have hset : ((s.reg (base + 0x10) ||| (1#64 <<< b)).getLsbD b) = true := by
    simp [BitVec.getLsbD_or, BitVec.getLsbD_shiftLeft, hb, -BitVec.getLsbD_eq_getElem]
  unfold State.setErr
  dsimp only
  split
  · rwa [State.setReg_reg, if_neg (by omega), State.setReg_reg_same]
  · rwa [State.setIrq_reg _ _ _ hlow (by omega), State.setReg_reg, if_neg (by omega), State.setReg_reg_same]

/-- No other register below the TIER page changes but those of the page's header. -/
theorem State.setErr_reg (s : State) (base b : Nat) {a : Nat} (hlow : a < 0x9000) (hpast : base + 0x20 ≤ a) :
    (s.setErr base b).reg a = s.reg a := by
  unfold State.setErr
  dsimp only
  split
  · rw [State.setReg_reg, if_neg (by omega), State.setReg_reg, if_neg (by omega)]
  · rw [State.setIrq_reg _ _ _ hlow (by omega), State.setReg_reg, if_neg (by omega), State.setReg_reg, if_neg (by omega)]

/-! ### DESK_COMMIT (R199, R201, R210 to R212) -/

/-- A commit after its reads (R189, R201). -/
def State.commitRead (s : State) (p : Nat) : State := (s.commitReads p).foldl (fun s r => (s.devRead p r.1 r.2).1) s

theorem State.commitRead_force (s : State) (p : Nat) : (s.commitRead p).force = s.force :=
  foldl_unchanged State.force (fun s _ => s.devRead_force ..) _ s
theorem State.commitRead_deskP (s : State) (p : Nat) : (s.commitRead p).deskP = s.deskP :=
  foldl_unchanged State.deskP (fun s _ => s.devRead_deskP ..) _ s

/-- Word `k` of the Desk configuration of a partition in force (R211). -/
def State.cfgWord (s : State) (p k : Nat) : Word := Tab.get regReset s.force (0x4100 + p * 0x40 + k * 8)

section
variable {f : Fn} {p : PartId} {s : State}

theorem exec_deskCommit_of_hidden (hsees : s.seesPage f ⟨.desk, 0, 0x4000⟩ = false) : exec (.deskCommit f p) s = .next (s.access f) := by
  have haccess : (s.access f).seesPage f ⟨.desk, 0, 0x4000⟩ = false := hsees
  change execDeskCommit f p s = _
  unfold execDeskCommit
  dsimp only
  rw [haccess]
  rfl

theorem exec_deskCommit_of_sees (hsees : s.seesPage f ⟨.desk, 0, 0x4000⟩ = true) : exec (.deskCommit f p) s =
    match s.deskCheck p with
    | none => .next ((((s.access f).commitRead p).setField 0x4050 (16 + p) 1 1).setErr 0x4000 1)
    | some (cs, ms) => .next (((((s.access f).commitRead p).setField 0x4050 (16 + p) 1 0).setForce 0x4040 (s.reg 0x4040)).modDk p
        (fun d => { d with
          pendCfg := true, pendClasses := cs, pendModels := ms, pendWcet := cs.map (wcetOf (s.lowFreq p))
          pendWords := (List.range 8).map (s.deskStaged p), step := d.step.map (fun x => { x with old := true }) })) := by
  have haccess : (s.access f).seesPage f ⟨.desk, 0, 0x4000⟩ = true := hsees
  change execDeskCommit f p s = _
  unfold execDeskCommit
  dsimp only
  rw [haccess, State.access_deskCheck]
  rfl

/-- A commit that breaks a rule is refused, and says so. -/
theorem deskCommit_refused (hsees : s.seesPage f ⟨.desk, 0, 0x4000⟩ = true) (hcheck : s.deskCheck p = none) :
    completes (exec (.deskCommit f p) s) (fun u => (u.reg 0x4010).getLsbD 1 = true ∧
      (u.reg 0x4050).getLsbD (16 + p) = true ∧ u.deskP = s.deskP ∧ u.force = s.force) := by
  have hexec := exec_deskCommit_of_sees (p := p) hsees
  rw [hcheck] at hexec
  refine ⟨_, hexec, State.setErr_bit _ (by decide) (by decide), ?_, ?_, ?_⟩
  · have hbit : 16 + p.val < 64 := by omega
    rw [State.setErr_reg _ _ _ (by decide) (by decide), State.setField, State.setReg_reg_same, getLsbD_putFld _ _ _ _ _ hbit,
      if_pos ⟨le_rfl, Nat.lt_succ_self _⟩, Nat.sub_self]
    rfl
  · rw [State.setErr_unchanged State.deskP State.setReg_deskP (fun _ _ => rfl) (fun _ _ _ => rfl)]
    exact State.commitRead_deskP ..
  · rw [State.setErr_unchanged State.force State.setReg_force (fun _ _ => rfl) (fun _ _ _ => rfl)]
    exact State.commitRead_force ..

/-- An accepted commit waits for a step boundary. -/
theorem deskCommit_accepted {cs : List (List Byte)} {ms : List (List Byte × List Byte)}
    (hsees : s.seesPage f ⟨.desk, 0, 0x4000⟩ = true) (hcheck : s.deskCheck p = some (cs, ms)) :
    completes (exec (.deskCommit f p) s) (fun u => (∀ k, u.cfgWord p k = s.cfgWord p k) ∧
      (u.dk p).pendCfg = true ∧ (u.dk p).pendClasses = cs ∧ (u.dk p).pendModels = ms ∧ (u.dk p).classes = (s.dk p).classes ∧
      (u.dk p).pendWords = (List.range 8).map (s.deskStaged p)) := by
  have hexec := exec_deskCommit_of_sees (p := p) hsees
  rw [hcheck] at hexec
  have hread : (((s.access f).commitRead p).setField 0x4050 (16 + p) 1 0).force = s.force := State.commitRead_force ..
  have hclasses : (((s.access f).commitRead p).dk p).classes = (s.dk p).classes :=
    congrArg DeskPart.classes (State.dk_of_deskP (State.commitRead_deskP ..) p)
  refine ⟨_, hexec, fun k => ?_, ?_⟩
  · rw [State.cfgWord, State.modDk_force, State.setForce_get, if_neg (by omega), hread, State.cfgWord]
  · rw [State.modDk_dk, if_pos rfl]
    exact ⟨rfl, rfl, rfl, hclasses, rfl⟩

end

/-! ### The step boundary (R201, R211) -/

/-- Words that are put in force one behind the other. -/
theorem foldl_setForce_get (b : Nat) (l : List Word) (n : Nat) (s : State) (k : Nat) :
    Tab.get regReset (((List.range' n l.length).zip l).foldl (fun s x => s.setForce (b + x.1 * 8) x.2) s).force (b + k * 8) =
      if n ≤ k ∧ k < n + l.length then l.getD (k - n) 0 else Tab.get regReset s.force (b + k * 8) := by
  induction l generalizing n s with
  | nil =>
    rw [if_neg (by rw [List.length_nil]; omega)]
    rfl
  | cons w l ih =>
    rw [List.length_cons, List.range'_succ, List.zip_cons_cons, List.foldl_cons, ih, State.setForce_get]
    by_cases hfirst : k = n
    · subst hfirst
      rw [if_neg (by omega), if_pos rfl, if_pos ⟨le_rfl, by omega⟩, Nat.sub_self]
      rfl
    · rw [if_neg (by omega : ¬b + k * 8 = b + n * 8)]
      by_cases hin : n + 1 ≤ k ∧ k < n + 1 + l.length
      · have hsub : k - n = k - (n + 1) + 1 := by omega
        rw [if_pos hin, if_pos ⟨by omega, by omega⟩, hsub]
        rfl
      · rw [if_neg hin, if_neg (by omega)]

/-- What of the Desk's state for a partition its configuration sets. -/
def DeskPart.cfg (d : DeskPart) : Bool × List (List Byte) × List (List Byte × List Byte) := (d.pendCfg, d.classes, d.models)
/-- The same, with the values in force. -/
def State.cfgSide (s : State) (p : Nat) : Tab Word × Bool × List (List Byte) × List (List Byte × List Byte) := (s.force, (s.dk p).cfg)

theorem State.cfgSide_congr {s u : State} (hforce : u.force = s.force) (hdeskP : u.deskP = s.deskP) (p : Nat) :
    u.cfgSide p = s.cfgSide p := by
  simp only [State.cfgSide, hforce, State.dk_of_deskP hdeskP]

theorem State.modDk_cfgSide (s : State) (p : Nat) {f : DeskPart → DeskPart} (h : ∀ d, (f d).cfg = d.cfg) :
    (s.modDk p f).cfgSide p = s.cfgSide p := by
  simp only [State.cfgSide, State.modDk_force, State.modDk_dk, if_true, h]

theorem State.devRead_cfgSide (s : State) (p q : Nat) (a : Word) (n : Nat) : (s.devRead q a n).1.cfgSide p = s.cfgSide p :=
  State.cfgSide_congr (State.devRead_force ..) (State.devRead_deskP ..) p

theorem State.syncTombs_force (s : State) (p : Nat) : (s.syncTombs p).force = s.force :=
  foldl_unchanged State.force (fun _ _ => by rfl) _ s

/-- The Desk's copies of a root are no part of the configuration (R161). -/
theorem State.loadRoot_cfgSide (s : State) (p : Nat) : (s.loadRoot p).cfgSide p = s.cfgSide p := by
  have hadj (s : State) (c v : Nat) : (s.loadAdj c p v).cfgSide p = s.cfgSide p :=
    State.loadAdj_unchanged (fun s => s.cfgSide p) (fun s q a n => s.devRead_cfgSide p q a n) (fun _ _ _ => rfl) s c p v
  have hpin (s : State) (v : Nat) : (s.setPin p v).cfgSide p = s.cfgSide p :=
    (State.cfgSide_congr (State.syncTombs_force ..) (State.syncTombs_deskP ..) p).trans
      (State.modDk_cfgSide s p (by intro; rfl))
  unfold State.loadRoot
  extract_lets root r b vr s1 s2
  have hroot : s1.cfgSide p = s.cfgSide p :=
    (State.modDk_cfgSide _ p (by intro; rfl)).trans (State.devRead_cfgSide ..)
  have hloaded : s2.cfgSide p = s.cfgSide p :=
    (foldl_unchanged (fun s : State => s.cfgSide p) (fun s c => foldl_unchanged (fun s : State => s.cfgSide p)
      (fun s v => hadj s c v) _ s) _ s1).trans hroot
  split
  · exact State.modDk_cfgSide s p (by intro; rfl)
  · split
    · exact hloaded
    · exact (hpin ..).trans hloaded

theorem exec_deskConfigEffect_of_idle {p : PartId} {s : State} (h : (s.dk p).pendCfg = false ∨ (s.dk p).step ≠ none) :
    exec (.deskConfigEffect p) s = .next s := by
  change execDeskConfigEffect p s = _
  unfold execDeskConfigEffect
  dsimp only
  rw [if_pos (by simpa using h)]

/-- At a step boundary an accepted configuration takes effect. -/
theorem deskConfigEffect_applies {p : PartId} {s : State} (hpend : (s.dk p).pendCfg = true) (hstep : (s.dk p).step = none)
    (hwords : (s.dk p).pendWords.length = 8) : completes (exec (.deskConfigEffect p) s) (fun u =>
      (u.dk p).pendCfg = false ∧ (u.dk p).classes = (s.dk p).pendClasses ∧ (u.dk p).models = (s.dk p).pendModels ∧
      (List.range 8).map (u.cfgWord p) = (s.dk p).pendWords) := by
  change completes (execDeskConfigEffect p s) _
  unfold execDeskConfigEffect
  extract_lets d root ring had s1 w s2 s3 r
  have htaken : s2.cfgSide p = (s1.force, false, d.pendClasses, d.pendModels) := by
    refine (State.modDk_cfgSide _ p (by intro; rfl)).trans ?_
    have hd : s1.dk p = d := State.dk_of_deskP (foldl_unchanged State.deskP (fun s x => s.setForce_deskP ..) _ s) p
    rw [State.cfgSide, State.modDk_force, State.modDk_dk, if_pos rfl, hd]
    rfl
  have hrooted : s3.cfgSide p = (s1.force, false, d.pendClasses, d.pendModels) := by
    simp only [s3]
    split
    · rw [State.loadRoot_cfgSide, htaken]
    · exact htaken
  have hring : r.1.cfgSide p = s3.cfgSide p := State.devRead_cfgSide ..
  have hforce : (List.range 8).map (fun k => Tab.get regReset s1.force (0x4100 + p * 0x40 + k * 8)) = d.pendWords := by
    refine List.ext_getElem (by simp [d, hwords]) fun k hk hk' => ?_
    have hget := foldl_setForce_get (0x4100 + p * 0x40) d.pendWords 0 s k
    rw [if_pos (by omega), Nat.sub_zero, List.getD_eq_getElem _ _ hk', show d.pendWords.length = 8 from hwords,
      ← List.range_eq_range'] at hget
    rw [List.getElem_map, List.getElem_range]
    exact hget
  have happlied (u : State) (hu : u.cfgSide p = s3.cfgSide p) : (u.dk p).pendCfg = false ∧ (u.dk p).classes = d.pendClasses ∧
      (u.dk p).models = d.pendModels ∧ (List.range 8).map (u.cfgWord p) = d.pendWords := by
    have hside := hu.trans hrooted
    simp only [State.cfgSide, DeskPart.cfg, Prod.mk.injEq] at hside
    obtain ⟨hin, hcfg, hclasses, hmodels⟩ := hside
    rw [← hin] at hforce
    exact ⟨hcfg, hclasses, hmodels, hforce⟩
  rw [if_neg (by simp [d, hpend, hstep])]
  refine ⟨_, rfl, happlied _ ?_⟩
  split
  · split
    · exact (State.modDk_cfgSide r.1 p (by intro; rfl)).trans hring
    · exact State.modDk_cfgSide s3 p (by intro; rfl)
  · rfl

/-! ### Admission of a bulk scan (R192, R387) -/

theorem State.modLosw_stopped (s : State) (p q o : Nat) (g : Losw → Losw) : (s.modLosw p o g).stopped q = s.stopped q := by
  have hpart : ((s.modLosw p o g).part q).reset = (s.part q).reset ∧ ((s.modLosw p o g).part q).self = (s.part q).self := by
    rw [State.modLosw, State.modPart_part]
    split
    · next h => exact h ▸ ⟨rfl, rfl⟩
    · exact ⟨rfl, rfl⟩
  obtain ⟨hreset, hself⟩ := hpart
  unfold State.stopped State.partState
  rw [hreset, hself]
  rfl

theorem State.modLosw_checkOwned (s : State) (p q o : Nat) (g : Losw → Losw) (a : Word) :
    (s.modLosw p o g).checkOwned q a = s.checkOwned q a := by
  have hbesides := congrArg Prod.snd (s.readBy_besides (s.modLosw p o g) q a 16)
  have hread : ((s.modLosw p o g).readBy q a 16).2 = (s.readBy q a 16).2 := hbesides
  unfold State.checkOwned
  rw [hread]
  rfl

/-- The state of a long-operation slot does not bear on admission. -/
theorem State.modLosw_admitCode (s : State) (p q o : Nat) (g : Losw → Losw) (src : Src) (r : List Byte) (poison : Bool) :
    (s.modLosw p o g).admitCode q src r poison = s.admitCode q src r poison := by
  simp only [State.admitCode, State.firstCode, State.modLosw_stopped, State.modLosw_checkOwned]
  rfl

theorem State.readBy_parts (s : State) (p : Nat) (a : Word) (n : Nat) : (s.readBy p a n).1.parts = s.parts :=
  congrArg (fun x : State × List Byte × Bool => x.1.parts) (s.readBy_besides s p a n)

theorem State.readOwned_parts (s : State) (x : Query) (poison admitted : Bool) : (s.readOwned x poison admitted).parts = s.parts := by
  have hmeter (u : State) (p : Nat) (a : Word) (n : Nat) : (u.meterRead p a n).parts = u.parts := by
    unfold State.meterRead
    split <;> rfl
  unfold State.readOwned
  dsimp only
  split
  · split
    · rw [hmeter, State.readBy_parts]
    · exact State.readBy_parts ..
  · rfl

/-- A request that passes the tests becomes a live query, and the long-operation slots stay as they are. -/
theorem State.enterQuery_admitted {s : State} {x : Query} {poison : Bool} (h : s.admitCode x.part x.src x.req poison = 0) :
    (s.enterQuery x poison).parts = s.parts ∧ ∃ tag y, (s.enterQuery x poison).query tag = some y ∧ y.src = x.src := by
  unfold State.enterQuery
  extract_lets p code s0 s1 tag s2 s3
  have htaken : s1.parts = s.parts := by
    simp only [s1]
    split <;> exact State.readOwned_parts ..
  clear_value s1 tag
  have hparts : s3.parts = s1.parts := rfl
  have hquery : s3.query tag = some { x with ord := s1.nextId } := State.setQuery_query .. |>.trans (if_pos rfl)
  clear_value s3
  rw [if_neg (not_not.2 h)]
  refine ⟨by rw [State.repin_parts, hparts, htaken], tag, { x with ord := s1.nextId }, ?_, rfl⟩
  rw [State.query_of_deskSide (State.repin_deskSide ..), hquery]

/-! ### Bulk scan (R387) -/

section
variable {f : Fn} {p : PartId} {o : SlotId} {rq : List Byte} {s : State} (hmay : mayStart s f p o) (hasks : asks s f p o 5 128 rq)
include hmay hasks

theorem exec_bulkScan : exec (.bulkScan f p o) s = .next (
    let t := (slotRequest s f p o 5 128).1
    let c := (s.dk p).classes.getD (leAt rq 0 2) []
    let x := t.newQuery p (t.part p).epoch (.bulk p o) 0 0 (rq.take 64) (t.losw p o).req
    if zeroAt rq 68 60 = false ∨ leAt rq 64 4 = 0 then t.loswFail p o 0x0A04
    else if leAt rq 0 2 < nClasses s p ∧ clFlag c 0 = true ∧ (clSearch c = 0 ∨ clRt c = true ∨ 8188 < clK c) then t.loswFail p o 0x0A04
    else if t.admitCode p (.bulk p o) (rq.take 64) false ≠ 0 then t.enterQuery x false
    else (t.loswRun p o (leAt rq 64 4) true).enterQuery x false) := by
  have hclass : leAt (rq.take 64) 0 2 = leAt rq 0 2 := by
    simp [leAt, List.take_take]
  have hdk : (slotRequest s f p o 5 128).1.dk p = s.dk p := State.dk_of_deskP (slotRequest_deskP ..) p
  have hstaged : ∀ (p : PartId) (i : Fin 6), (stagedBits (0x4100 + p * 0x40 + 4 * 8)).getLsbD (0 + i) = true := by decide +kernel
  have hclasses : nClasses (slotRequest s f p o 5 128).1 p = nClasses s p :=
    State.inForce_fld_congr (slotRequest_force ..) (hstaged p)
  change execBulkScan f p o s = _
  unfold execBulkScan
  dsimp only
  rw [lopStart_of_asks hmay hasks, hclass, hdk, hclasses]
  simp only [Bool.or_eq_true, Bool.not_eq_true', decide_eq_true_eq]
  rfl

/-- A request that is no bulk scan, or of a class that takes none, fails at once. -/
theorem bulkScan_fails (hbad : zeroAt rq 68 60 = false ∨ leAt rq 64 4 = 0 ∨
      let c := (s.dk p).classes.getD (leAt rq 0 2) []
      leAt rq 0 2 < nClasses s p ∧ clFlag c 0 = true ∧ (clSearch c = 0 ∨ clRt c = true ∨ 8188 < clK c)) :
    completes (exec (.bulkScan f p o) s) (fun u => (u.losw p o).state = 4 ∧ (u.losw p o).error = 0x0A04 ∧
      u.desk.queries = s.desk.queries) := by
  have hfailed := (slotRequest s f p o 5 128).1.modLosw_losw p o (fun l => { l with state := 4, error := 0x0A04 })
  have hexec : exec (.bulkScan f p o) s = .next ((slotRequest s f p o 5 128).1.loswFail p o 0x0A04) := by
    rw [exec_bulkScan hmay hasks]
    dsimp only at hbad ⊢
    by_cases hrq : zeroAt rq 68 60 = false ∨ leAt rq 64 4 = 0
    · rw [if_pos hrq]
    · rw [if_neg hrq, if_pos ((or_assoc.2 hbad).resolve_left hrq)]
  exact ⟨_, hexec, congrArg Losw.state hfailed, congrArg Losw.error hfailed, congrArg Desk.queries (slotRequest_desk ..)⟩

/-- A bulk scan of a class that takes one runs, as a query of the partition. -/
theorem bulkScan_runs (hzero : zeroAt rq 68 60 = true) (hn : leAt rq 64 4 ≠ 0)
    (hsearch : clSearch ((s.dk p).classes.getD (leAt rq 0 2) []) ≠ 0) (hrt : clRt ((s.dk p).classes.getD (leAt rq 0 2) []) = false)
    (hk : clK ((s.dk p).classes.getD (leAt rq 0 2) []) ≤ 8188)
    (hcode : (slotRequest s f p o 5 128).1.admitCode p (.bulk p o) (rq.take 64) false = 0) :
    completes (exec (.bulkScan f p o) s) (fun u => (u.losw p o).state = 2 ∧ (u.losw p o).total = leAt rq 64 4 ∧
      ∃ tag x, u.query tag = some x ∧ x.src = .bulk p o) := by
  have hexec := exec_bulkScan hmay hasks
  have hclass : ¬(leAt rq 0 2 < nClasses s p ∧ clFlag ((s.dk p).classes.getD (leAt rq 0 2) []) 0 = true ∧
      (clSearch ((s.dk p).classes.getD (leAt rq 0 2) []) = 0 ∨ clRt ((s.dk p).classes.getD (leAt rq 0 2) []) = true ∨
        8188 < clK ((s.dk p).classes.getD (leAt rq 0 2) []))) := by
    rintro ⟨-, -, hnone | hreal | hmany⟩
    · exact hsearch hnone
    · exact Bool.noConfusion (hrt.symm.trans hreal)
    · omega
  dsimp only at hexec
  rw [if_neg (by simp [hzero, hn]), if_neg hclass, if_neg (not_not.2 hcode)] at hexec
  set t := (slotRequest s f p o 5 128).1
  have hrun : ((t.loswRun p o (leAt rq 64 4) true).losw p o) =
      { t.losw p o with total := leAt rq 64 4, part := o * 131072, state := 2 } := by
    have hop : (t.losw p o).flash = false := by simp [Losw.flash, t, slotRequest_op]
    rw [State.loswRun, State.modLosw_losw, hop, Bool.and_false]
    rfl
  obtain ⟨hparts, hquery⟩ := State.enterQuery_admitted (s := t.loswRun p o (leAt rq 64 4) true)
    (x := t.newQuery p (t.part p).epoch (.bulk p o) 0 0 (rq.take 64) (t.losw p o).req) (poison := false)
    ((State.modLosw_admitCode ..).trans hcode)
  have hslot := (State.losw_of_parts hparts p o).trans hrun
  exact ⟨_, hexec, congrArg Losw.state hslot, congrArg Losw.total hslot, hquery⟩

end

/-- Settles O38: DESK_COMMIT, its effect and the bulk scan, each by its lemmas. -/
theorem deskConfiguration : Obligations.DeskConfiguration := by
  unfold Obligations.DeskConfiguration
  intro f p o rq s
  refine ⟨exec_deskCommit_of_hidden, fun hsees => ⟨deskCommit_refused hsees, fun cs ms hcheck => ?_⟩,
    exec_deskConfigEffect_of_idle, deskConfigEffect_applies, fun hmay hasks => ⟨bulkScan_fails hmay hasks, ?_⟩⟩
  · obtain ⟨u, hexec, hwords, hkept⟩ := deskCommit_accepted hsees hcheck
    exact ⟨u, hexec, List.map_congr_left fun k _ => hwords k, hkept⟩
  · exact bulkScan_runs hmay hasks

end Sys2Proof.Machine
end

section
/-! SUPPORT. Where a record of 16 aligned bytes lies in tiers 0 and 1, and what leaves it there (R214, R216 to R219); O37. -/

namespace Sys2Proof.Machine

/-! ### Sixteen aligned bytes -/

theorem aOff_eq (a : Word) : aOff a = a.toNat % 2 ^ 48 := by
  simp [aOff, fld]

theorem aSpace_eq (a : Word) : aSpace a = a.toNat / 2 ^ 48 % 4 := by
  simp [aSpace, fld, Nat.shiftRight_eq_div_pow]

section
variable {a : Word} (ha : a.toNat % 16 = 0)
include ha

theorem aOff_aligned : aOff a % 16 = 0 := by
  rw [aOff_eq]
  omega

theorem aOff_addA {j : Nat} (hj : j < 16) : aOff (addA a j) = aOff a + j := by
  have hsum : (addA a j).toNat = a.toNat + j := by
    rw [addA, BitVec.toNat_add, BitVec.toNat_ofNat]
    omega
  rw [aOff_eq, aOff_eq, hsum]
  omega

theorem aSpace_addA {j : Nat} (hj : j < 16) : aSpace (addA a j) = aSpace a := by
  have hsum : (addA a j).toNat = a.toNat + j := by
    rw [addA, BitVec.toNat_add, BitVec.toNat_ofNat]
    omega
  rw [aSpace_eq, aSpace_eq, hsum]
  omega

/-- They lie in one line. -/
theorem linesOf_record : linesOf (aOff a) 16 = [aOff a / 64] := by
  have hoff := aOff_aligned ha
  have hline : (aOff a + 16 - 1) / 64 + 1 - aOff a / 64 = 1 := by omega
  rw [linesOf, if_neg (by decide), hline]
  simp [List.range_one]

end

theorem addA_line (a : Word) : addA a (aOff a / 64 * 64 - aOff a) = a := by
  have hzero : aOff a / 64 * 64 - aOff a = 0 := by omega
  rw [hzero, addA]
  simp

/-! ### Where they lie (R214, R217, R218) -/

theorem State.chanCap_aligned (s : State) (m : Nat) : s.chanCap m % 16 = 0 := by
  unfold State.chanCap
  dsimp only
  split <;> omega

/-- Tier 1 one channel behind the other (R217). -/
theorem State.linear_record {s : State} {i k j : Nat} (hj : j < 16) {ms : List Nat} {o : Nat} (ho : o % 16 = 0) :
    let next := fun (acc : Option Loc × Nat) (m : Nat) => match acc.1 with
      | some _ => acc
      | none => if acc.2 < s.chanCap m then (some (.phys (48 + m) acc.2), 0) else (none, acc.2 - s.chanCap m)
    (ms.foldl next (none, o)).1 = some (.phys i k) → (ms.foldl next (none, o + j)).1 = some (.phys i (k + j)) := by
  intro next
  have hfound (x : Loc) (n : Nat) (l : List Nat) : (l.foldl next (some x, n)).1 = some x := by
    induction l with
    | nil => rfl
    | cons m l ih => exact ih
  induction ms generalizing o with
  | nil => exact fun h => absurd h (by simp)
  | cons m l ih =>
    have hcap := s.chanCap_aligned m
    rw [List.foldl_cons, List.foldl_cons]
    by_cases hlow : o < s.chanCap m
    · have hhere : next (none, o) m = (some (.phys (48 + m) o), 0) := if_pos hlow
      have hthere : next (none, o + j) m = (some (.phys (48 + m) (o + j)), 0) := if_pos (by omega)
      rw [hhere, hthere, hfound, hfound]
      intro h
      injection h with h
      injection h with hi hk
      rw [hi, hk]
    · have hhere : next (none, o) m = (none, o - s.chanCap m) := if_neg hlow
      have hthere : next (none, o + j) m = (none, o - s.chanCap m + j) := by
        refine (if_neg (by omega)).trans ?_
        rw [show o + j - s.chanCap m = o - s.chanCap m + j by omega]
      rw [hhere, hthere]
      exact ih (by omega)

theorem State.place_record {s : State} {p t o i k j : Nat} (h : s.place p t o = some (.phys i k)) (ho : o % 16 = 0) (hj : j < 16) :
    s.place p t (o + j) = some (.phys i (k + j)) := by
  have hinter (ps : List Nat) (g : Nat) (hg : g = 512 ∨ g = 4096)
      (h : (if ps = [] then none else (ps[o / g % ps.length]?).map (fun i => Loc.phys i (o / g / ps.length * g + o % g))) =
        some (.phys i k)) :
      (if ps = [] then none else (ps[(o + j) / g % ps.length]?).map
        (fun i => Loc.phys i ((o + j) / g / ps.length * g + (o + j) % g))) = some (.phys i (k + j)) := by
    have hunit : (o + j) / g = o / g := by rcases hg with rfl | rfl <;> omega
    have hrest : (o + j) % g = o % g + j := by rcases hg with rfl | rfl <;> omega
    rw [hunit, hrest]
    split at h
    · cases h
    · next hps =>
      obtain ⟨x, hx, hloc⟩ := Option.map_eq_some_iff.1 h
      injection hloc with hi hk
      rw [if_neg hps, hx, Option.map_some, hi, ← hk, Nat.add_assoc]
  unfold State.place at h ⊢
  dsimp only at h ⊢
  split at h
  · exact hinter _ 512 (.inl rfl) h
  · split at h
    · next hlin =>
      rw [if_pos hlin]
      exact State.linear_record hj ho h
    · next hlin =>
      rw [if_neg hlin]
      exact hinter _ 4096 (.inr rfl) h
  · cases h

/-- A place in tier 0 or 1 is one of a tier below 2. -/
theorem State.place_tier {s : State} {p t o i k : Nat} (h : s.place p t o = some (.phys i k)) : t ≤ 1 := by
  unfold State.place at h
  dsimp only at h
  split at h
  · omega
  · omega
  · cases h

/-- Tiers 0 and 1 have places of pieces only. -/
theorem State.place_low {s : State} {p t o x : Nat} (ht : t ≤ 1) : s.place p t o ≠ some (.arch x) := by
  have hinter (ps : List Nat) (g : Nat) : (if ps = [] then none else (ps[o / g % ps.length]?).map
      (fun i => Loc.phys i (o / g / ps.length * g + o % g))) ≠ some (.arch x) := by
    split
    · exact fun h => nomatch h
    · cases ps[o / g % ps.length]? <;> exact fun h => nomatch h
  unfold State.place
  dsimp only
  split
  · exact hinter _ 512
  · split
    · refine List.foldlRecOn (motive := fun acc : Option Loc × Nat => acc.1 ≠ some (.arch x)) _ _ (fun h => nomatch h) fun acc hacc m _ => ?_
      split
      · exact hacc
      · split <;> exact fun h => nomatch h
    · exact hinter _ 4096
  · next h0 h1 => exact ((Nat.le_one_iff_eq_zero_or_eq_one.1 ht).elim h0 h1).elim

/-- Tier and offset of a device address. -/
def State.spot (s : State) (p : Nat) (a : Word) : Nat × Nat :=
  if aSpace a = 3 then ((s.page p (aOff a / MiB2)).res, (s.page p (aOff a / MiB2)).slot * MiB2 + aOff a % MiB2)
  else (aSpace a, aOff a)

theorem State.locate_eq (s : State) (p : Nat) (a : Word) : s.locate p a = s.place p (s.spot p a).1 (s.spot p a).2 := by
  unfold State.locate State.spot
  split <;> rfl

theorem State.tierOf_eq (s : State) (p : Nat) (a : Word) : s.tierOf p a = (s.spot p a).1 := by
  unfold State.tierOf State.spot
  split <;> rfl

theorem State.tier_of_place {s : State} {p i k : Nat} {a : Word} (h : s.locate p a = some (.phys i k)) : s.tierOf p a ≤ 1 := by
  rw [State.locate_eq] at h
  rw [State.tierOf_eq]
  exact State.place_tier h

theorem State.locate_low {s : State} {p x : Nat} {a : Word} (h : s.tierOf p a ≤ 1) : s.locate p a ≠ some (.arch x) := by
  rw [State.tierOf_eq] at h
  rw [State.locate_eq]
  exact State.place_low h

theorem State.spot_addA (s : State) (p : Nat) {a : Word} (ha : a.toNat % 16 = 0) {j : Nat} (hj : j < 16) :
    s.spot p (addA a j) = ((s.spot p a).1, (s.spot p a).2 + j) := by
  have hoff := aOff_aligned ha
  have hpage : (aOff a + j) / MiB2 = aOff a / MiB2 := by unfold MiB2; omega
  have hrest : (aOff a + j) % MiB2 = aOff a % MiB2 + j := by unfold MiB2; omega
  unfold State.spot
  rw [aSpace_addA ha hj, aOff_addA ha hj, hpage, hrest]
  split
  · rw [Nat.add_assoc]
  · rfl

theorem State.spot_aligned (s : State) (p : Nat) {a : Word} (ha : a.toNat % 16 = 0) : (s.spot p a).2 % 16 = 0 := by
  have hoff := aOff_aligned ha
  unfold State.spot
  split
  · unfold MiB2
    dsimp only
    omega
  · exact hoff

theorem State.locate_record {s : State} {p i k : Nat} {a : Word} (ha : a.toNat % 16 = 0) (h : s.locate p a = some (.phys i k)) {j : Nat}
    (hj : j < 16) : s.locate p (addA a j) = some (.phys i (k + j)) := by
  rw [State.locate_eq] at h ⊢
  rw [State.spot_addA s p ha hj]
  exact State.place_record h (s.spot_aligned p ha) hj

theorem physKey_add (i k j : Nat) : physKey i (k + j) = physKey i k + j := by
  unfold physKey
  split <;> omega

/-- The bytes of a record in tier 0 or 1. -/
theorem State.peek_record {s : State} {p i k : Nat} {a : Word} (ha : a.toNat % 16 = 0) (h : s.locate p a = some (.phys i k))
    (hdone : s.zeroingPiece i = false) : (s.peek p a 16).1 = Mem.bytes s.mem (physKey i k) 16 := by
  have hbyte (j : Nat) (hj : j < 16) : s.tierByte p (addA a j) = Mem.rd s.mem (physKey i k + j) := by
    rw [State.tierByte, State.locate_record ha h hj]
    dsimp only
    rw [hdone, if_neg Bool.false_ne_true, physKey_add]
  refine (List.map_congr_left fun j hj => hbyte j (List.mem_range.1 hj)).trans ?_
  rfl

/-! ### What places depend on (R216 to R219) -/

/-- What of the Tier block's state places the pages of a partition (R218). -/
def TierPart.maps (x : TierPart) : Tab (Option Nat) × Tab (Option (Nat × Nat)) × Nat := (x.t0, x.ext, x.base1)
/-- The registers that hold the capacities of the module channels. -/
def State.caps (s : State) : ModId → Word := fun m => s.reg (mcP m + 0x40)
/-- Where the bytes of a partition in tiers 0 and 1 lie, and what the pieces hold. -/
def State.site (s : State) (p : Nat) :
    (Tab Word × (ModId → Word)) × (Tab (Option Nat) × Tab (Option (Nat × Nat)) × Nat) × Mem × Tab Bool × Tab Bool :=
  ((s.force, s.caps), (s.tp p).maps, s.mem, s.memBad, s.zeroing)
/-- The same, with the pages whose entries the translation cache holds. -/
def State.reached (s : State) (p : Nat) := (s.site p, (s.tp p).xlate)

theorem staged_tierSlices : ∀ p : PartId, stagedBits (partSlice p 3) = 0xFFFFFFFFFFFF ∧ stagedBits (partSlice p 4) = 0xFFFFFFFF00000FFF := by
  decide +kernel
theorem staged_slice3 (p : PartId) (i : Fin 48) : (stagedBits (partSlice p 3)).getLsbD i = true := by
  rw [(staged_tierSlices p).1]
  revert i
  decide
theorem staged_slice4 (p : PartId) (i : Fin 12) : (stagedBits (partSlice p 4)).getLsbD i = true := by
  rw [(staged_tierSlices p).2]
  revert i
  decide
theorem staged_linear : ∀ p : PartId, (stagedBits (qReg p 0)).getLsbD 1 = true := by decide +kernel

theorem State.pairsOf_congr {s u : State} (h : u.force = s.force) (p : PartId) : u.pairsOf p = s.pairsOf p :=
  List.filter_congr fun i hi => State.inForce_getLsbD_congr h (staged_slice3 p ⟨i, List.mem_range.1 hi⟩)
theorem State.chansOf_congr {s u : State} (h : u.force = s.force) (p : PartId) : u.chansOf p = s.chansOf p :=
  List.filter_congr fun i hi => State.inForce_getLsbD_congr h (staged_slice4 p ⟨i, List.mem_range.1 hi⟩)

theorem State.chanCap_congr {s u : State} (h : u.caps = s.caps) {m : Nat} (hm : m < 12) : u.chanCap m = s.chanCap m := by
  have hreg : u.reg (mcP m + 0x40) = s.reg (mcP m + 0x40) := congrFun h ⟨m, hm⟩
  simp only [State.chanCap, hreg]

theorem State.place_congr {s u : State} (hforce : u.force = s.force) (hcaps : u.caps = s.caps) (p : PartId) (t o : Nat) :
    u.place p t o = s.place p t o := by
  have hlinear : u.t1Linear p = s.t1Linear p := State.inForce_getLsbD_congr hforce (staged_linear p)
  unfold State.place
  rw [State.pairsOf_congr hforce, State.chansOf_congr hforce, hlinear]
  split
  · rfl
  · dsimp only
    split
    · refine congrArg Prod.fst (List.foldl_ext _ _ _ fun acc m hm => ?_)
      rw [State.chanCap_congr hcaps (List.mem_range.1 (List.mem_filter.1 hm).1)]
    · rfl
  · rfl

/-- Tier and offset of an address hang on the map alone. -/
theorem State.spot_congr {s u : State} {p : Nat} (h : (u.tp p).maps = (s.tp p).maps) (a : Word) : u.spot p a = s.spot p a := by
  simp only [TierPart.maps, Prod.mk.injEq] at h
  obtain ⟨ht0, hext, hbase⟩ := h
  have hextent (x : Nat) : u.extent p x = s.extent p x := by simp only [State.extent, hext, hbase]
  have hpage (g : Nat) : (u.page p g).res = (s.page p g).res ∧ (u.page p g).slot = (s.page p g).slot := by
    simp only [State.page, ht0, hextent]
    split <;> exact ⟨rfl, rfl⟩
  simp only [State.spot, (hpage _).1, (hpage _).2]

theorem State.locate_of_site {s u : State} {p : PartId} (h : u.site p = s.site p) (a : Word) : u.locate p a = s.locate p a := by
  simp only [State.site, Prod.mk.injEq] at h
  obtain ⟨⟨hforce, hcaps⟩, hmaps, -⟩ := h
  rw [State.locate_eq, State.locate_eq, State.spot_congr hmaps, State.place_congr hforce hcaps]

theorem State.tierOf_of_site {s u : State} {p : PartId} (h : u.site p = s.site p) (a : Word) : u.tierOf p a = s.tierOf p a := by
  have hmaps : (u.tp p).maps = (s.tp p).maps := congrArg (fun x => x.2.1) h
  rw [State.tierOf_eq, State.tierOf_eq, State.spot_congr hmaps]

theorem State.zeroingPiece_of_site {s u : State} {p : Nat} (h : u.site p = s.site p) (i : Nat) : u.zeroingPiece i = s.zeroingPiece i :=
  congrArg (fun x : (Tab Word × (ModId → Word)) × _ × Mem × Tab Bool × Tab Bool => Tab.get (fun _ => false) x.2.2.2.2 i) h

theorem State.mem_of_site {s u : State} {p : Nat} (h : u.site p = s.site p) : u.mem = s.mem :=
  congrArg (fun x : (Tab Word × (ModId → Word)) × _ × Mem × Tab Bool × Tab Bool => x.2.2.1) h

theorem State.site_of_reached {s u : State} {p : Nat} (h : u.reached p = s.reached p) : u.site p = s.site p := congrArg Prod.fst h

theorem State.unified_congr {s u : State} (h : u.force = s.force) (p : PartId) : u.unified p = s.unified p :=
  State.inForce_getLsbD_congr h (staged_unified p)

/-- The poison of map entries (R219). -/
theorem State.mapLineBad_congr {s u : State} {p : PartId} (h : u.site p = s.site p) (g : Nat) : u.mapLineBad p g = s.mapLineBad p g := by
  simp only [State.site, Prod.mk.injEq] at h
  obtain ⟨⟨hforce, hcaps⟩, -, -, hbad, -⟩ := h
  have husize : u.uSize p = s.uSize p := congrArg (· * MiB64) (State.inForce_fld_congr hforce (staged_uSize p))
  have hquota : u.quota p 0 = s.quota p 0 := congrArg (· * MiB2) (State.inForce_fld_congr hforce (staged_quota0 p))
  simp only [State.mapLineBad, State.mapEntry, State.place_congr hforce hcaps, husize, hquota, hbad]

theorem State.mapBad_of_reached {s u : State} {p : PartId} (h : u.reached p = s.reached p) (a : Word) : u.mapBad p a = s.mapBad p a := by
  have hsite := State.site_of_reached h
  have hxlate : (u.tp p).xlate = (s.tp p).xlate := congrArg Prod.snd h
  have hunified : u.unified p = s.unified p := by
    simp only [State.site, Prod.mk.injEq] at hsite
    exact State.unified_congr hsite.1.1 p
  simp only [State.mapBad, State.cached, State.mapLineBad_congr hsite, hxlate, hunified]

/-! ### What keeps a place -/

/-- No capacity is held at `a`. -/
def offCaps (a : Nat) : Prop := ∀ m : ModId, mcP m + 0x40 ≠ a

theorem offCaps_tierCnt {p : PartId} {k : Nat} (hk : k < 0x40) : offCaps (0x9300 + p * 0x40 + k) := by
  intro m
  unfold mcP
  omega
theorem offCaps_arcCnt (p k : Nat) : offCaps (arcCnt p k) := by
  intro m
  unfold mcP arcCnt
  omega
theorem offCaps_fcP (c k : Nat) : offCaps (fcP c + k) := by
  intro m
  unfold mcP fcP
  omega

section
variable (s : State) (p : Nat)

theorem State.setReg_reached {a : Nat} (w : Word) (h : offCaps a) : (s.setReg a w).reached p = s.reached p := by
  have hcaps : (s.setReg a w).caps = s.caps := funext fun m => by
    rw [State.caps, State.setReg_reg, if_neg (h m)]
    rfl
  simp only [State.reached, State.site, hcaps]
  rfl

theorem State.bump_reached {a : Nat} (n : Nat) (h : offCaps a) : (s.bump a n).reached p = s.reached p := s.setReg_reached p _ h
theorem State.waitCycles_reached {a : Nat} (h : offCaps a) : (s.waitCycles a).reached p = s.reached p :=
  State.bump_reached _ p _ h

theorem State.modTp_reached (q : Nat) {f : TierPart → TierPart} (h : ∀ x, (f x).maps = x.maps ∧ (f x).xlate = x.xlate) :
    (s.modTp q f).reached p = s.reached p := by
  have hmaps : ((s.modTp q f).tp p).maps = (s.tp p).maps ∧ ((s.modTp q f).tp p).xlate = (s.tp p).xlate := by
    rw [State.modTp_tp]
    split
    · next hq => exact hq ▸ h _
    · exact ⟨rfl, rfl⟩
  simp only [State.reached, State.site, hmaps]
  rfl

@[simp] theorem State.modNs_reached (q : Nat) (f : Ns → Ns) : (s.modNs q f).reached p = s.reached p := rfl
@[simp] theorem State.bump_arcCnt_reached (q k n : Nat) : (s.bump (arcCnt q k) n).reached p = s.reached p :=
  s.bump_reached p n (offCaps_arcCnt q k)
@[simp] theorem State.waitCycles_arcCnt_reached (q k : Nat) : (s.waitCycles (arcCnt q k)).reached p = s.reached p :=
  s.waitCycles_reached p (offCaps_arcCnt q k)
@[simp] theorem State.fcProg_reached (c n : Nat) : (s.fcProg c n).reached p = s.reached p := by
  rw [State.fcProg, State.bump_reached _ _ _ (offCaps_fcP _ _), State.bump_reached _ _ _ (offCaps_fcP _ _)]

@[simp] theorem State.memberProgs_reached (q b n : Nat) : (s.memberProgs q b n).reached p = s.reached p :=
  foldl_unchanged (fun s : State => s.reached p) (fun s _ => s.fcProg_reached p ..) _ s

@[simp] theorem State.launch_reached (q : Nat) (st : Stripe) (again : Bool) : (s.launch q st again).reached p = s.reached p := by
  rw [State.launch, State.modNs_reached]
  split
  · rw [State.bump_arcCnt_reached, State.memberProgs_reached]
  · rw [State.bump_arcCnt_reached, State.bump_arcCnt_reached, State.memberProgs_reached]

@[simp] theorem State.enter_reached (q : Nat) (st : Stripe) (again : Bool) : (s.enter q st again).reached p = s.reached p := by
  simp [State.enter, State.launchSum, apply_ite (fun s : State => s.reached p)]

@[simp] theorem State.relaunch_reached (q k : Nat) : (s.relaunch q k).reached p = s.reached p := by
  induction k generalizing s with
  | zero => rfl
  | succ k ih =>
    unfold State.relaunch
    dsimp only
    split
    · rfl
    · split
      · rfl
      · split
        · simp [ih]
        · split <;> simp [ih]

@[simp] theorem State.formStripes_reached (q : Nat) (close : Bool) (fuel : Nat) :
    (s.formStripes q close fuel).reached p = s.reached p := by
  induction fuel generalizing s with
  | zero => rfl
  | succ k ih =>
    unfold State.formStripes
    dsimp only
    split
    · rfl
    · split
      · simp
      · split
        · simp
        · split <;> simp [ih]

/-- The programs of stripes leave tiers 0 and 1 alone. -/
theorem State.fillStripes_reached (q : Nat) (close : Bool) : (s.fillStripes q close).reached p = s.reached p := by
  have hlet : (s.letIn q).reached p = s.reached p := by
    unfold State.letIn
    split <;> rfl
  simp [State.fillStripes, hlet]

theorem State.noteWrite_reached (q : Nat) (a : Word) : (s.noteWrite q a).reached p = s.reached p := by
  unfold State.noteWrite
  split
  · rfl
  · exact s.modTp_reached p q (by intro; exact ⟨rfl, rfl⟩)

theorem State.keepBurst_reached (i o : Nat) : (s.keepBurst i o).reached p = s.reached p := by
  unfold State.keepBurst
  split <;> rfl

theorem State.yieldAt_reached (i o : Nat) : (s.yieldAt i o).reached p = s.reached p := by
  have hcar (m : Nat) {k : Nat} (hk : 0x40 < k ∧ k < 0x1000) : offCaps (carP m + k) := by
    intro n
    unfold carP mcP
    omega
  unfold State.yieldAt
  split
  · rfl
  · dsimp only
    split
    · rw [State.bump_reached _ _ _ (hcar _ (by decide)), State.bump_reached _ _ _ (hcar _ (by decide))]
      rfl
    · rfl

theorem State.yieldLines_reached (q : Nat) (a : Word) (n : Nat) : (s.yieldLines q a n).reached p = s.reached p := by
  refine foldl_unchanged (fun s : State => s.reached p) (fun s l => ?_) _ s
  split
  · exact s.yieldAt_reached ..
  · rfl

theorem State.countAccess_reached (q : Nat) (a : Word) (n : Nat) : (s.countAccess q a n).reached p = s.reached p := by
  unfold State.countAccess
  split
  · rfl
  · exact foldl_unchanged (fun s : State => s.reached p) (fun s j => s.modTp_reached p q (by intro; exact ⟨rfl, rfl⟩)) _ s

theorem State.meterRead_reached (q : Nat) (a : Word) (n : Nat) : (s.meterRead q a n).reached p = s.reached p := by
  unfold State.meterRead
  split <;> rfl

end

/-! ### Translation (R219) -/

theorem State.cacheIn_site (s : State) (p q g : Nat) : (s.cacheIn q g).site p = s.site p := by
  have hmod (s : State) (q : Nat) (f : TierPart → TierPart) (h : ∀ x, (f x).maps = x.maps) : (s.modTp q f).site p = s.site p := by
    have hmaps : ((s.modTp q f).tp p).maps = (s.tp p).maps := by
      rw [State.modTp_tp]
      split
      · next hq => exact hq ▸ h _
      · rfl
    simp only [State.site, hmaps]
    rfl
  unfold State.cacheIn
  dsimp only
  rw [hmod _ _ _ (by intro; rfl)]
  split
  · rfl
  · refine (foldl_fst_unchanged (fun s : State => s.site p) (fun x k => ?_) _ _).trans rfl
    dsimp only
    split
    · exact hmod _ _ _ (by intro; rfl)
    · rfl

theorem State.reportBad_reached (s : State) (p : Nat) (q : Option Nat) (t i c k l : Nat) :
    (s.reportBad q t i c k l).reached p = s.reached p := rfl

theorem State.uncorr_reached (s : State) (p i o : Nat) (scrub : Bool) : (s.uncorr i o scrub).reached p = s.reached p := by
  have hoff : offCaps (ctlP i + 0x88) := by
    intro m
    unfold ctlP hcP mcP
    split <;> omega
  rw [State.uncorr, State.reportBad_reached, State.bump_reached _ _ _ hoff]

theorem State.translate_site (s : State) (p : PartId) (g : Nat) : (s.translate p g).site p = s.site p := by
  have hmiss : (s.bump (0x9300 + p * 0x40 + 0x38) 1).site p = s.site p :=
    State.site_of_reached (s.bump_reached p 1 (offCaps_tierCnt (by decide)))
  unfold State.translate
  split
  · rfl
  · dsimp only
    split
    · exact (State.site_of_reached (State.uncorr_reached ..)).trans hmiss
    · exact (State.cacheIn_site ..).trans hmiss

theorem State.translateAll_site (s : State) (p : PartId) (a : Word) (n : Nat) : (s.translateAll p a n).site p = s.site p := by
  unfold State.translateAll
  split
  · rfl
  · exact foldl_unchanged (fun s : State => s.site p) (fun s j => s.translate_site p _) _ s

/-- An address that can be translated still can once its page has been. -/
theorem State.translate_mapBad {s : State} {p : PartId} {a : Word} (h : s.mapBad p a = false) :
    (s.translate p (aOff a / MiB2)).mapBad p a = false := by
  by_cases hcached : s.cached p (aOff a / MiB2) = true
  · rwa [State.translate, if_pos hcached]
  · have hforce : (s.translate p (aOff a / MiB2)).force = s.force := State.translate_force ..
    have hgood : (s.unified p && decide (aSpace a = 3) && (s.mapLineBad p (aOff a / MiB2)).isSome) = false := by
      simpa [State.mapBad, hcached] using h
    rw [State.mapBad, State.unified_congr hforce, State.mapLineBad_congr (State.translate_site ..), Bool.and_right_comm, hgood,
      Bool.false_and]

end Sys2Proof.Machine
end

section
/-! SUPPORT. A device read and a device write of a record that is at hand, and what a read leaves of the map (R218); O37. -/

namespace Sys2Proof.Machine

/-! ### Reading and writing a record -/

section
variable {s : State} {p : PartId} {a : Word} (ha : a.toNat % 16 = 0)
include ha

/-- A wait for zeroing leaves the place of the record; its piece is zeroed then. -/
theorem State.awaitZero_record : (s.awaitZero p a 16).locate p a = s.locate p a ∧ (s.awaitZero p a 16).tierOf p a = s.tierOf p a ∧
    ∀ i k, s.locate p a = some (.phys i k) → (s.awaitZero p a 16).zeroingPiece i = false := by
  rw [State.awaitZero, linesOf_record ha, List.foldl_cons, List.foldl_nil, addA_line]
  split
  · next j l hplace =>
    split
    · refine ⟨rfl, rfl, fun i k h => ?_⟩
      obtain ⟨rfl, -⟩ := Loc.phys.inj (Option.some.inj (hplace.symm.trans h))
      exact Tab.get_set_same ..
    · next hdone =>
      refine ⟨rfl, rfl, fun i k h => ?_⟩
      obtain ⟨rfl, -⟩ := Loc.phys.inj (Option.some.inj (hplace.symm.trans h))
      exact Bool.eq_false_of_not_eq_true hdone
  · next hno => exact ⟨rfl, rfl, fun i k h => absurd h (hno i k)⟩

theorem State.awaitZero_done {i k : Nat} (h : s.locate p a = some (.phys i k)) (hdone : s.zeroingPiece i = false) :
    s.awaitZero p a 16 = s := by
  rw [State.awaitZero, linesOf_record ha, List.foldl_cons, List.foldl_nil, addA_line, h]
  exact if_neg (ne_true_of_eq_false hdone)

section
variable (htier : s.tierOf p a ≤ 1)
include htier

theorem State.blockWaits_record : (s.blockWaits p a 16).reached p = s.reached p := by
  have hplaced (l : Option Loc) : (s.placeWaits p (s.tierOf p a) l).reached p = s.reached p := by
    unfold State.placeWaits
    split
    · exact State.waitCycles_reached _ p (offCaps_tierCnt (by omega))
    · rfl
  rw [State.blockWaits, linesOf_record ha, List.foldl_cons, List.foldl_nil]
  dsimp only
  rw [addA_line]
  simp only [apply_ite (fun s : State => s.reached p), hplaced, ite_self]

theorem State.unitsAt_record : s.unitsAt p a 16 = [] := by
  rw [State.unitsAt, linesOf_record ha]
  match h : s.locate p a with
  | some (.arch x) => exact absurd h (State.locate_low htier)
  | some (.phys i k) => simp [addA_line, h]
  | none => simp [addA_line, h]

/-- A read of a record of tier 0 or 1 waits, translates and yields: it leaves its place. -/
theorem State.readTo_record : (s.readTo p a 16).1.site p = (s.awaitZero p a 16).site p := by
  obtain ⟨-, htier', -⟩ := State.awaitZero_record (s := s) (p := p) ha
  rw [← htier'] at htier
  have hyielded : ((((s.awaitZero p a 16).blockWaits p a 16).translateAll p a 16).yieldLines p a 16).site p =
      (s.awaitZero p a 16).site p :=
    (State.site_of_reached (State.yieldLines_reached ..)).trans
      ((State.translateAll_site ..).trans (State.site_of_reached (State.blockWaits_record ha htier)))
  rw [← State.tierOf_of_site hyielded] at htier
  rw [State.readTo, State.readUnits, State.unitsAt_record ha htier]
  exact hyielded

end

theorem State.translateAll_record (h : s.mapBad p a = false) : (s.translateAll p a 16).mapBad p a = false := by
  have hpage : (aOff a + 16 - 1) / MiB2 + 1 - aOff a / MiB2 = 1 := by
    have hoff := aOff_aligned ha
    unfold MiB2
    omega
  unfold State.translateAll
  split
  · exact h
  · rw [hpage, List.range_one, List.foldl_cons, List.foldl_nil, Nat.add_zero]
    exact State.translate_mapBad h

end

/-- What a read that finds no poison leaves (R219, R223, R449). -/
theorem State.devRead_good {s : State} {p : Nat} {a : Word} {n : Nat} (hgood : (s.devRead p a n).2.2 = false) :
    (s.devRead p a n).1 = ((s.readTo p a n).1.countAccess p a (linesOf (aOff a) n).length).meterRead p a n ∧
    ((s.readTo p a n).1.peek p a n).2 = false := by
  unfold State.devRead State.readBy at hgood ⊢
  dsimp only at hgood ⊢
  split at hgood
  · cases hgood
  · next hno =>
    rw [if_neg hno]
    exact ⟨rfl, by simp_all⟩

/-- The record at `a` lies in tier 0 or 1, in a piece that is not being zeroed, and its address can be translated. -/
def State.atHand (s : State) (p : Nat) (a : Word) : Prop :=
  ∃ i k, s.locate p a = some (.phys i k) ∧ s.zeroingPiece i = false ∧ s.mapBad p a = false

/-- The record at `a` lies in tier 0 or 1 and holds `bs`. -/
def State.holds (s : State) (p : Nat) (a : Word) (bs : List Byte) : Prop :=
  ∃ i k, s.locate p a = some (.phys i k) ∧ s.zeroingPiece i = false ∧ Mem.bytes s.mem (physKey i k) 16 = bs

theorem State.holds_of_site {s u : State} {p : PartId} {a : Word} {bs : List Byte} (hsite : u.site p = s.site p) (h : s.holds p a bs) :
    u.holds p a bs := by
  obtain ⟨i, k, hplace, hdone, hbytes⟩ := h
  refine ⟨i, k, ?_, ?_, ?_⟩
  · rw [State.locate_of_site hsite, hplace]
  · rw [State.zeroingPiece_of_site hsite, hdone]
  · rw [State.mem_of_site hsite, hbytes]

section
variable {s : State} {p : PartId} {a : Word} (ha : a.toNat % 16 = 0)
include ha

theorem State.peek_of_holds {bs : List Byte} (h : s.holds p a bs) : (s.peek p a 16).1 = bs := by
  obtain ⟨i, k, hplace, hdone, hbytes⟩ := h
  rw [State.peek_record ha hplace hdone, hbytes]

/-- A record in tier 0 or 1 that reads good is at hand then. -/
theorem State.devRead_atHand {i k : Nat} (h : s.locate p a = some (.phys i k)) (hgood : (s.devRead p a 16).2.2 = false) :
    (s.devRead p a 16).1.atHand p a := by
  obtain ⟨hplace, -, hdone⟩ := State.awaitZero_record (s := s) (p := p) ha
  obtain ⟨hread, hclean⟩ := State.devRead_good hgood
  have hto := State.readTo_record ha (State.tier_of_place h)
  have hmap : (s.readTo p a 16).1.mapBad p a = false := by
    have hline : (s.readTo p a 16).1.lineBad p a = false := by
      simpa [State.peek, linesOf_record ha, addA_line] using hclean
    exact (Bool.or_eq_false_iff.1 hline).1
  have hkept : (s.devRead p a 16).1.reached p = (s.readTo p a 16).1.reached p := by
    rw [hread]
    exact (State.meterRead_reached ..).trans (State.countAccess_reached ..)
  have hsite := (State.site_of_reached hkept).trans hto
  refine ⟨i, k, ?_, ?_, ?_⟩
  · rw [State.locate_of_site hsite, hplace, h]
  · rw [State.zeroingPiece_of_site hsite, hdone i k h]
  · rw [State.mapBad_of_reached hkept, hmap]

theorem lineParts_record {bs : List Byte} (hlen : bs.length = 16) : lineParts a.toNat 17 bs = [(a.toNat, bs)] := by
  have hroom : bs.length ≤ 64 - a.toNat % 64 := by omega
  have hsome : bs ≠ [] := by
    rintro rfl
    cases hlen
  rw [lineParts, if_neg hsome]
  dsimp only
  rw [List.take_of_length_le hroom, List.drop_eq_nil_of_le hroom, lineParts, if_pos rfl]

/-- A record at hand that is written holds what was written. -/
theorem State.devWrite_holds (h : s.atHand p a) {bs : List Byte} (hlen : bs.length = 16) : (s.devWrite p a bs).holds p a bs := by
  obtain ⟨i, k, hplace, hdone, hmap⟩ := h
  have hwait := State.awaitZero_done ha hplace hdone
  have hqueued := State.blockWaits_record ha (State.tier_of_place hplace)
  have htranslated : ((s.blockWaits p a 16).translateAll p a 16).mapBad p a = false :=
    State.translateAll_record ha (by rwa [State.mapBad_of_reached hqueued])
  set t := (((s.blockWaits p a 16).translateAll p a 16).yieldLines p a 16).countAccess p a (linesOf (aOff a) 16).length with ht
  have hcounted : t.reached p = ((s.blockWaits p a 16).translateAll p a 16).reached p :=
    (State.countAccess_reached ..).trans (State.yieldLines_reached ..)
  have hsite : t.site p = s.site p :=
    (State.site_of_reached hcounted).trans ((State.translateAll_site ..).trans (State.site_of_reached hqueued))
  have hthere : t.locate p a = some (.phys i k) := (State.locate_of_site hsite a).trans hplace
  have hdrops : t.countDrops p a 16 = t := by rw [State.countDrops, hthere]
  have hfill : t.fillFor p a 16 = t := by rw [State.fillFor, State.unitsAt_record ha (State.tier_of_place hthere)]
  have hline : t.writeLine p a bs false = { ((t.noteWrite p a).keepBurst i k) with
      mem := Mem.putBytes ((t.noteWrite p a).keepBurst i k).mem (physKey i k) bs } := by
    rw [State.writeLine, State.mapBad_of_reached hcounted, htranslated, if_neg Bool.false_ne_true, hthere, State.putLoc]
    dsimp only
    rw [if_neg Bool.false_ne_true, if_neg (by omega)]
  have hwrite : s.devWrite p a bs = (t.writeLine p a bs false).fillStripes p false := by
    simp only [State.devWrite, State.devWriteLines, hlen, hwait, ← ht, hdrops, hfill, lineParts_record ha hlen]
    simp
  have hnoted : ((t.noteWrite p a).keepBurst i k).site p = s.site p :=
    (State.site_of_reached ((State.keepBurst_reached ..).trans (State.noteWrite_reached ..))).trans hsite
  rw [hwrite]
  refine State.holds_of_site (State.site_of_reached (State.fillStripes_reached ..)) ?_
  rw [hline]
  refine ⟨i, k, ?_, ?_, ?_⟩
  · exact (State.locate_of_site hnoted a).trans hplace
  · exact (State.zeroingPiece_of_site hnoted i).trans hdone
  · have hbytes := Mem.bytes_putBytes_same ((t.noteWrite p a).keepBurst i k).mem (physKey i k) bs
    rwa [hlen] at hbytes

end

/-! ### What a read leaves of the map (R218) -/

@[simp] theorem State.bump_tierP (s : State) (a n : Nat) : (s.bump a n).tierP = s.tierP := rfl
@[simp] theorem State.waitCycles_tierP (s : State) (a : Nat) : (s.waitCycles a).tierP = s.tierP := rfl
@[simp] theorem State.fcRead_tierP (s : State) (c n : Nat) : (s.fcRead c n).tierP = s.tierP := by
  rw [State.fcRead, State.bump_tierP, State.bump_tierP]

theorem State.mapLook_tierP (s : State) (p lu : Nat) : (s.mapLook p lu).tierP = s.tierP := by
  unfold State.mapLook
  extract_lets n l s0 s1 s2
  have hloaded : s1.tierP = s.tierP := by simp [s1, s0, apply_ite State.tierP]
  have hcounted : s2.tierP = s1.tierP := rfl
  clear_value s1 s2
  split
  · exact hloaded
  · rw [State.modNs_tierP, hcounted, hloaded]

theorem State.flashRead_tierP (s : State) (p cw : Nat) (q : CwOutcome) : (s.flashRead p cw q).tierP = s.tierP := by
  unfold State.flashRead
  extract_lets c retries s1 s2
  have hread : s1.tierP = s.tierP := by rw [State.bump_tierP, State.fcRead_tierP]
  have hmembers : s2.tierP = s1.tierP :=
    foldl_unchanged State.tierP (fun s m => by simp [apply_ite State.tierP]) _ s1
  clear_value s1 s2
  split
  · rw [State.bump_tierP, hread]
  · rw [State.modNs_tierP, hread]
  · split
    · rw [State.modNs_tierP, State.bump_tierP, hmembers, hread]
    · rw [State.bump_tierP, hmembers, hread]

theorem State.readUnit_tierP (s : State) (p lu : Nat) : (s.readUnit p lu).1.tierP = s.tierP := by
  unfold State.readUnit State.fetchUnit
  dsimp only
  split
  · rfl
  · split
    · rfl
    · split
      · exact State.mapLook_tierP ..
      · rw [State.flashRead_tierP, State.mapLook_tierP, State.bump_tierP]

theorem State.readUnits_tierP (s : State) (p : Nat) (a : Word) (n : Nat) : (s.readUnits p a n).1.tierP = s.tierP := by
  unfold State.readUnits
  split
  · rfl
  · refine (foldl_fst_unchanged State.tierP (fun x u => ?_) _ _).trans rfl
    exact State.readUnit_tierP ..

theorem State.reportLine_tierP (s : State) (p : Nat) (a : Word) (first : Bool) : (s.reportLine p a first).tierP = s.tierP := by
  have hreport (l : Option Loc) : (s.reportLoc p l).tierP = s.tierP := by rcases l with _ | ⟨i, o⟩ | o <;> rfl
  unfold State.reportLine
  split
  · rfl
  · split <;> simp [hreport, apply_ite State.tierP]

theorem State.awaitZero_tierP (s : State) (p : Nat) (a : Word) (n : Nat) : (s.awaitZero p a n).tierP = s.tierP :=
  foldl_unchanged State.tierP (fun s l => by split <;> simp [State.zeroed, apply_ite State.tierP]) _ s

theorem State.blockWaits_tierP (s : State) (p : Nat) (a : Word) (n : Nat) : (s.blockWaits p a n).tierP = s.tierP :=
  foldl_unchanged State.tierP (fun s l => by simp [State.placeWaits, apply_ite State.tierP]) _ s

/-- A read counts and caches; it moves no page. -/
theorem State.devRead_maps (s : State) (p : PartId) (a : Word) (n : Nat) : ((s.devRead p a n).1.tp p).maps = (s.tp p).maps := by
  have hsame {s u : State} (h : u.tierP = s.tierP) : (u.tp p).maps = (s.tp p).maps :=
    congrArg (fun t => (Tab.get (fun _ => ({} : TierPart)) t p).maps) h
  have hsite {s u : State} (h : u.site p = s.site p) : (u.tp p).maps = (s.tp p).maps := congrArg (fun x => x.2.1) h
  have hto : ((s.readTo p a n).1.tp p).maps = (s.tp p).maps := by
    rw [State.readTo, hsame (State.readUnits_tierP ..), hsite (State.site_of_reached (State.yieldLines_reached ..)),
      hsite (State.translateAll_site ..), hsame (State.blockWaits_tierP ..), hsame (State.awaitZero_tierP ..)]
  have hcounted (u : State) (k : Nat) : ((u.countAccess p a k).tp p).maps = (u.tp p).maps :=
    hsite (State.site_of_reached (State.countAccess_reached ..))
  have hreported (f : Nat → Word) (g : Nat → Bool) (l : List Nat) (u : State) :
      ((l.foldl (fun s i => s.reportLine p (f i) (g i)) u).tp p).maps = (u.tp p).maps :=
    hsame (foldl_unchanged State.tierP (fun s i => s.reportLine_tierP ..) l u)
  rw [State.devRead, hsite (State.site_of_reached (State.meterRead_reached ..))]
  unfold State.readBy
  dsimp only
  split
  · exact (hreported ..).trans ((hcounted ..).trans hto)
  · exact (hcounted ..).trans hto

end Sys2Proof.Machine
end

section
/-! SUPPORT. Ownership records: the rules of an operation, replies, the sweeper and the state claim (R205 to R209, R345); O37. -/

namespace Sys2Proof.Machine

/-! ### Records (R205) -/

theorem ownRec_stamped (st a n b m seq z t : Nat) : (ownRec st a n b m seq z).take 12 ++ leBytes 4 t = ownRec st a n b m seq t := by
  unfold ownRec
  rw [List.take_left' (by simp [zeros])]

theorem ownRec_length (st a n b m seq t : Nat) : (ownRec st a n b m seq t).length = 16 := by
  simp [ownRec, zeros]

theorem ownRec_state (st a n b m seq t : Nat) : bAt (ownRec st a n b m seq t) 0 = st % 256 := by
  simp [ownRec, leBytes, bAt]

theorem ownRec_seq (st a n b m seq t : Nat) : ownSeq (ownRec st a n b m seq t) = seq % 2 ^ 32 := by
  have hsplit : ownRec st a n b m seq t = (leBytes 1 st ++ leBytes 1 (a + 16 * b) ++ leBytes 2 n ++ leBytes 2 m ++ zeros 2) ++
      (leBytes 4 seq ++ leBytes 4 t) := by
    simp [ownRec]
  have hat := leAt_append_right (leBytes 1 st ++ leBytes 1 (a + 16 * b) ++ leBytes 2 n ++ leBytes 2 m ++ zeros 2)
    (leBytes 4 seq ++ leBytes 4 t) 0 4
  rw [show (leBytes 1 st ++ leBytes 1 (a + 16 * b) ++ leBytes 2 n ++ leBytes 2 m ++ zeros 2).length = 8 by simp [zeros]] at hat
  rw [ownSeq, hsplit, hat, leAt_leBytes]
  rfl

theorem seqNext_mod (n : Nat) : seqNext n % 2 ^ 32 = seqNext n := Nat.mod_mod _ _

theorem ownOf_of_zero {r : List Byte} (h : bAt r 0 = 0) : ownOf r ≠ .orphan := by
  have hkind : ownOf r = if !zeroAt r 6 2 then .invalid else if zeroAt r 0 16 then .unused else .invalid := by
    unfold ownOf
    rw [h]
    rfl
  rw [hkind]
  split
  · exact nofun
  · split <;> exact nofun

/-- A record that is an ORPHAN, read at an address of tier 0 or 1, has a place there. -/
theorem State.locate_of_orphan {s : State} {p : PartId} {a : Word} (ha : a.toNat % 16 = 0) (htier : s.tierOf p a ≤ 1)
    (horphan : ownOf (s.devRead p a 16).2.1 = .orphan) : ∃ i k, s.locate p a = some (.phys i k) := by
  match h : s.locate p a with
  | some (.phys i k) => exact ⟨i, k, rfl⟩
  | some (.arch x) => exact absurd h (State.locate_low htier)
  | none =>
    obtain ⟨hplace, -, -⟩ := State.awaitZero_record (s := s) (p := p) ha
    have hnowhere : (s.readTo p a 16).1.locate p a = none := by
      rw [State.locate_of_site (State.readTo_record ha htier), hplace, h]
    have hbytes : (s.devRead p a 16).2.1 = ((s.readTo p a 16).1.peek p a 16).1 := by
      unfold State.devRead State.readBy
      dsimp only
      split <;> rfl
    have hfirst : bAt (s.devRead p a 16).2.1 0 = 0 := by
      rw [hbytes]
      simp [bAt, State.peek, State.tierByte, addA, hnowhere]
    exact absurd horphan (ownOf_of_zero hfirst)

/-! ### Reads and writes of records (R205, R207) -/

/-- A read of a state with no zeroing under way leaves every byte of the tiers. -/
theorem State.devRead_idle {s : State} (h : ∀ i, s.zeroingPiece i = false) (p : Nat) (a : Word) (n : Nat) :
    (s.devRead p a n).1.mem = s.mem ∧ ∀ i, (s.devRead p a n).1.zeroingPiece i = false := by
  have hcells := s.devRead_cells p a n
  rw [State.awaitZero_idle h] at hcells
  simp only [State.cells, Prod.mk.injEq] at hcells
  obtain ⟨-, hmem, hzeroing⟩ := hcells
  exact ⟨hmem, fun i => (congrArg (fun t => Tab.get (fun _ => false) t i) hzeroing).trans (h i)⟩

theorem State.modDesk_site (s : State) (p : Nat) (f : Desk → Desk) : (s.modDesk f).site p = s.site p := rfl
theorem State.devWrite_desk (s : State) (p : Nat) (a : Word) (bs : List Byte) (bad : Bool) : (s.devWrite p a bs bad).desk = s.desk := by
  rw [State.devWrite_self, State.besides_desk]

/-- A record as it is written: with its STAMP (R205). -/
def State.stamped (s : State) (r : List Byte) : List Byte := r.take 12 ++ leBytes 4 (s.clk.toNat % 2 ^ 32)

theorem State.setOwn_eq (s : State) (q : Nat) (a : Word) {r : List Byte} (hused : bAt r 0 ≠ 0) :
    s.setOwn q a r = (s.devWrite q a (s.stamped r)).modDesk (fun d =>
      let rest := d.handoff.filter (fun e => decide ¬(e.1 = q ∧ e.2.1 = a))
      { d with handoff := if isHandoff (s.stamped r) then rest ++ [(q, a, addA s.clk s.handoffTicks)] else rest }) := by
  unfold State.setOwn
  rw [if_neg hused]
  rfl

/-- A record at hand that changes takes its STAMP. -/
theorem State.setOwn_holds {s : State} {p : PartId} {a : Word} (ha : a.toNat % 16 = 0) (h : s.atHand p a) {r : List Byte}
    (hlen : 12 ≤ r.length) (hused : bAt r 0 ≠ 0) : (s.setOwn p a r).holds p a (s.stamped r) := by
  have hstamped : (s.stamped r).length = 16 := by
    rw [State.stamped, List.length_append, List.length_take, length_leBytes]
    omega
  rw [State.setOwn_eq s p a hused]
  exact State.holds_of_site (State.modDesk_site ..) (State.devWrite_holds ha h hstamped)

/-- A record that is no hand-off has no place in the hand-off table (R207). -/
theorem State.setOwn_handoff (s : State) (q : Nat) (a : Word) {r : List Byte} (hused : bAt r 0 ≠ 0)
    (hno : isHandoff (s.stamped r) = false) :
    (s.setOwn q a r).desk.handoff = s.desk.handoff.filter (fun e => decide ¬(e.1 = q ∧ e.2.1 = a)) := by
  rw [State.setOwn_eq s q a hused, State.modDesk_desk, State.devWrite_desk]
  dsimp only
  rw [hno, if_neg Bool.false_ne_true]

/-! ### Operations (R206, R208) -/

section
variable {s : State} {q : Nat} {a : Word} {exp new : List Byte} {p n : Nat}

/-- The record that an operation names is there (R208). -/
def State.recordThere (s : State) (q : Nat) (a : Word) : Prop :=
  a.toNat % 16 = 0 ∧ s.inAlloc q a 16 = true ∧ (s.devRead q a 16).2.2 = false

theorem State.ownOp_absent (h : ¬s.recordThere q a) : (s.ownOp q a exp new p n).2.1 = 0x0116 ∧
    ((s.ownOp q a exp new p n).1 = s ∨ (s.ownOp q a exp new p n).1 = (s.devRead q a 16).1) := by
  unfold State.ownOp
  dsimp only
  split
  · exact ⟨rfl, .inl rfl⟩
  · next hin =>
    simp only [Bool.or_eq_true, decide_eq_true_eq, Bool.not_eq_true', not_or, not_not, Bool.not_eq_false] at hin
    have hbad : (s.devRead q a 16).2.2 = true := by
      by_contra hgood
      exact h ⟨hin.1, hin.2, Bool.eq_false_of_not_eq_true hgood⟩
    rw [hbad, if_pos rfl]
    exact ⟨rfl, .inr rfl⟩

theorem State.ownOp_refused (h : s.recordThere q a) (hno : (s.devRead q a 16).2.1 ≠ exp ∨ ownAllowed p n (s.devRead q a 16).2.1 new = false) :
    (s.ownOp q a exp new p n).2.1 = 0x0114 ∧ (s.ownOp q a exp new p n).1 = (s.devRead q a 16).1 := by
  obtain ⟨ha, hin, hgood⟩ := h
  unfold State.ownOp
  dsimp only
  rw [if_neg (by simp [ha, hin]), if_neg (by simp [hgood]), if_pos (by simpa using hno)]
  exact ⟨rfl, rfl⟩

theorem State.ownOp_done (h : s.recordThere q a) (hexp : (s.devRead q a 16).2.1 = exp)
    (hallowed : ownAllowed p n (s.devRead q a 16).2.1 new = true) (hroom : s.desk.handoff.length < 4096) :
    (s.ownOp q a exp new p n).2.1 = 0 ∧ (s.ownOp q a exp new p n).1 = (s.devRead q a 16).1.setOwn q a new := by
  obtain ⟨ha, hin, hgood⟩ := h
  unfold State.ownOp
  dsimp only
  rw [if_neg (by simp [ha, hin]), if_neg (by simp [hgood]), if_neg (by simp [hexp ▸ hallowed, hexp]),
    if_neg (by simp [State.devRead_desk, hroom])]
  exact ⟨rfl, rfl⟩

end

/-- What partition software learns of its last operation. -/
theorem State.ownOut_stateOut (s : State) (p code : Nat) (r : List Byte) :
    (Tab.get (fun _ => none) (s.ownOut p code r).desk.stateOut p).map (·.1) = some code := by
  have hout : Tab.get (fun _ => none) (s.ownOut p code r).desk.stateOut p = some (code, leNat r) := Tab.get_set_same ..
  rw [hout]
  rfl
theorem State.ownOut_site (s : State) (p q code : Nat) (r : List Byte) : (s.ownOut q code r).site p = s.site p := rfl
theorem State.ownOut_mem (s : State) (p code : Nat) (r : List Byte) : (s.ownOut p code r).mem = s.mem := rfl

section
variable {x : OwnReq} {s : State} (hhere : x.node = s.node)
include hhere

theorem exec_ownershipOp_here : exec (.ownershipOp (some x)) s = .next
    ((s.ownOp x.hold x.addr (n128 x.exp) (n128 x.new) x.part s.node).1.ownOut x.part
      (s.ownOp x.hold x.addr (n128 x.exp) (n128 x.new) x.part s.node).2.1
      (s.ownOp x.hold x.addr (n128 x.exp) (n128 x.new) x.part s.node).2.2) :=
  if_pos hhere

/-- An operation that fails says why and changes no byte. -/
theorem ownershipOp_fails {code : Nat} (hcode : (s.ownOp x.hold x.addr (n128 x.exp) (n128 x.new) x.part s.node).2.1 = code)
    (hstate : (s.ownOp x.hold x.addr (n128 x.exp) (n128 x.new) x.part s.node).1 = s ∨
      (s.ownOp x.hold x.addr (n128 x.exp) (n128 x.new) x.part s.node).1 = (s.devRead x.hold x.addr 16).1) :
    completes (exec (.ownershipOp (some x)) s) (fun u => ((∀ i, s.zeroingPiece i = false) → u.mem = s.mem) ∧
      (Tab.get (fun _ => none) u.desk.stateOut x.part).map (·.1) = some code) := by
  refine ⟨_, exec_ownershipOp_here hhere, fun hidle => ?_, ?_⟩
  · rw [State.ownOut_mem]
    obtain hsame | hread := hstate
    · rw [hsame]
    · rw [hread, (State.devRead_idle hidle ..).1]
  · rw [hcode]
    exact State.ownOut_stateOut ..

/-- An operation that finds the expected value and follows R206 writes the record with its STAMP. -/
theorem ownershipOp_writes (hthere : s.recordThere x.hold x.addr) (hexp : (s.devRead x.hold x.addr 16).2.1 = n128 x.exp)
    (hallowed : ownAllowed x.part s.node (s.devRead x.hold x.addr 16).2.1 (n128 x.new) = true) (hroom : s.desk.handoff.length < 4096)
    {i k : Nat} (hplace : s.locate x.hold x.addr = some (.phys i k)) (hused : bAt (n128 x.new) 0 ≠ 0) :
    completes (exec (.ownershipOp (some x)) s) (fun u => (Tab.get (fun _ => none) u.desk.stateOut x.part).map (·.1) = some 0 ∧
      (u.peek x.hold x.addr 16).1 = (n128 x.new).take 12 ++ leBytes 4 (s.clk.toNat % 2 ^ 32)) := by
  obtain ⟨hcode, hstate⟩ := State.ownOp_done hthere hexp hallowed hroom
  obtain ⟨ha, -, hgood⟩ := hthere
  have hheld := State.setOwn_holds ha (State.devRead_atHand ha hplace hgood) (r := n128 x.new) (by simp [n128]) hused
  rw [State.stamped, State.devRead_clk] at hheld
  refine ⟨_, exec_ownershipOp_here hhere, ?_, ?_⟩
  · rw [hcode]
    exact State.ownOut_stateOut ..
  · rw [hstate]
    exact State.peek_of_holds ha (State.holds_of_site (State.ownOut_site ..) hheld)

end

/-! ### Replies (R205, R345) -/

/-- A reply ends the request that it answers. -/
theorem stateReplyReceive_ends {s : State} {m : Msg} {rest : List Msg} {e : Nat × Nat × Nat} (hfirst : s.desk.stateRep = m :: rest)
    (hfind : s.desk.awaiting.find? (fun e => decide (e.1 = leAt m.bytes 32 8 ∧ e.2.1 = m.dst)) = some e) :
    completes (exec .stateReplyReceive s) (fun u => u.desk.stateRep = rest ∧ u.desk.awaiting = s.desk.awaiting.erase e ∧
      (Tab.get (fun _ => none) u.desk.stateOut m.dst).map (·.1) = some (if bAt m.bytes 1 = 0 then 0 else 0x0100 + bAt m.bytes 1)) := by
  change completes (execStateReplyReceive s) _
  unfold execStateReplyReceive
  rw [hfirst]
  dsimp only
  rw [State.modDesk_desk]
  dsimp only
  rw [hfind]
  exact ⟨_, rfl, rfl, rfl, State.ownOut_stateOut ..⟩

/-! ### The sweeper (R207) -/

/-- An ORPHAN record or a claimed one, once it has its STAMP. -/
theorem State.stamped_ownRec (s : State) (st a n b m seq z : Nat) :
    s.stamped (ownRec st a n b m seq z) = ownRec st a n b m seq (s.clk.toNat % 2 ^ 32) := ownRec_stamped ..

theorem offCaps_deskCnt (p : PartId) (k : Fin 16) : offCaps (deskCnt p k) := by
  intro m
  unfold mcP deskCnt
  omega

section
variable {s : State} {p : PartId} {a t : Word} {n k toP toN i o : Nat} (hplace : s.locate p a = some (.phys i o))
  (ha : a.toNat % 16 = 0) (hgood : (s.devRead p a 16).2.2 = false) (hown : ownOf (s.devRead p a 16).2.1 = .handoff n k toP toN)
include hplace ha hgood hown

theorem State.sweep_orphans : ((s.sweep (p, a, t)).peek p a 16).1 = ownRec 3 n k 0 0 (seqNext (ownSeq (s.devRead p a 16).2.1))
    (s.clk.toNat % 2 ^ 32) ∧
    (s.sweep (p, a, t)).desk.handoff = (s.desk.handoff.erase (p.val, a, t)).filter (fun e => decide ¬(e.1 = p.val ∧ e.2.1 = a)) := by
  set s0 := s.modDesk (fun d => { d with handoff := d.handoff.erase (p.val, a, t) }) with hs0
  have hbesides := congrArg Prod.snd (s.devRead_besides s0 p a 16)
  have hread : (s0.devRead p a 16).2 = (s.devRead p a 16).2 := hbesides
  have hhand : (s0.devRead p a 16).1.atHand p a := State.devRead_atHand ha (s := s0) hplace (by rw [hread, hgood])
  set r := ownRec 3 n k 0 0 (seqNext (ownSeq (s.devRead p a 16).2.1)) 0 with hr
  have hused : bAt r 0 ≠ 0 := by rw [ownRec_state]; decide
  have hsweep : ∃ u : State, s.sweep (p, a, t) = u ∧ u.site p = ((s0.devRead p a 16).1.setOwn p a r).site p ∧
      u.desk = ((s0.devRead p a 16).1.setOwn p a r).desk := by
    refine ⟨_, rfl, ?_⟩
    unfold State.sweep
    dsimp only
    rw [← hs0, hread, hown, hgood]
    dsimp only
    rw [← hr]
    generalize (s0.devRead p a 16).1.setOwn p a r = w
    exact ⟨State.site_of_reached (w.bump_reached p 1 (offCaps_deskCnt p 6)), rfl⟩
  obtain ⟨u, hu, hsite, hdesk⟩ := hsweep
  have hstamped : (s0.devRead p a 16).1.stamped r = ownRec 3 n k 0 0 (seqNext (ownSeq (s.devRead p a 16).2.1)) (s.clk.toNat % 2 ^ 32) := by
    rw [hr, State.stamped_ownRec, State.devRead_clk, hs0, State.modDesk_clk]
  have hheld := State.setOwn_holds ha hhand (r := r) (by rw [ownRec_length]; decide) hused
  rw [hstamped] at hheld
  rw [hu]
  refine ⟨State.peek_of_holds ha (State.holds_of_site hsite hheld), ?_⟩
  rw [hdesk, State.setOwn_handoff _ _ _ hused (by rw [hstamped, isHandoff, ownRec_state]; decide), State.devRead_desk, hs0]
  rfl

/-- An expired hand-off becomes ORPHAN. -/
theorem handoffSweep_orphans (honly : s.desk.handoff = [(p.val, a, t)]) (hlate : t < s.clk) :
    completes (exec .handoffSweep s) (fun u => u.desk.handoff = [] ∧ bAt (u.peek p a 16).1 0 = 3 ∧
      ownSeq (u.peek p a 16).1 = seqNext (ownSeq (s.devRead p a 16).2.1)) := by
  obtain ⟨hpeek, hleft⟩ := State.sweep_orphans (t := t) hplace ha hgood hown
  have hexec : exec .handoffSweep s = .next (s.sweep (p, a, t)) := by
    change execHandoffSweep s = _
    rw [execHandoffSweep, honly]
    simp [hlate]
  refine ⟨_, hexec, ?_, ?_, ?_⟩
  · rw [hleft, honly]
    simp
  · rw [hpeek, ownRec_state]
  · rw [hpeek, ownRec_seq, seqNext_mod]

end

theorem handoffSweep_waits {s : State} {q : Nat} {a t : Word} (honly : s.desk.handoff = [(q, a, t)]) (hearly : ¬t < s.clk) :
    exec .handoffSweep s = .next s := by
  change execHandoffSweep s = _
  rw [execHandoffSweep, honly]
  simp [hearly]

/-! ### The state claim (R209) -/

theorem State.modLosw_site (s : State) (p q o : Nat) (g : Losw → Losw) : (s.modLosw q o g).site p = s.site p := rfl

section
variable {f : Fn} {p : PartId} {o : SlotId} {rq : List Byte} {s : State} (hmay : mayStart s f p o) (hasks : asks s f p o 0x0C 16 rq)
  (hzero : zeroAt rq 12 4 = true)

/-- A state claim that runs, before it reads the record. -/
def claimStarted (s : State) (f : Fn) (p : PartId) (o : SlotId) : State := (slotRequest s f p o 0x0C 16).1.loswRun p o 1 false

theorem claimStarted_inAlloc (a : Word) (n : Nat) : (claimStarted s f p o).inAlloc p a n = s.inAlloc p a n :=
  State.inAlloc_congr (slotRequest_force ..) p a n

include hmay hasks hzero

theorem exec_stateClaim : exec (.stateClaim f p o) s = .next (
    let t := claimStarted s f p o
    let a := wAt rq 0
    let r := t.devRead p a 16
    if a.toNat % 16 ≠ 0 ∨ s.inAlloc p a 16 = false then t.loswFail p o 0x0114
    else if r.2.2 = true ∨ ownOf r.2.1 ≠ .orphan ∨ ownSeq r.2.1 ≠ leAt rq 8 4 then r.1.loswFail p o 0x0114
    else ((r.1.setOwn p a (ownRec 1 p (slotRequest s f p o 0x0C 16).1.node 0 0 (seqNext (ownSeq r.2.1)) 0)).loswProg p o 1).loswDone p o) := by
  have halloc := claimStarted_inAlloc (s := s) (f := f) (p := p) (o := o) (wAt rq 0) 16
  change execStateClaim f p o s = _
  unfold execStateClaim
  dsimp only
  rw [lopStart_of_asks hmay hasks, if_neg (by simp [hzero]), ← claimStarted, halloc]
  simp only [Bool.or_eq_true, Bool.not_eq_true', decide_eq_true_eq]

/-- A claim of a record that is not there, is no ORPHAN or has another sequence fails and changes no byte. -/
theorem stateClaim_fails (hno : ¬(claimStarted s f p o).recordThere p (wAt rq 0) ∨
      ownOf ((claimStarted s f p o).devRead p (wAt rq 0) 16).2.1 ≠ .orphan ∨
      ownSeq ((claimStarted s f p o).devRead p (wAt rq 0) 16).2.1 ≠ leAt rq 8 4) :
    completes (exec (.stateClaim f p o) s) (fun u => (u.losw p o).state = 4 ∧ (u.losw p o).error = 0x0114 ∧
      ((∀ i, s.zeroingPiece i = false) → u.mem = s.mem)) := by
  have hstarted (hidle : ∀ i, s.zeroingPiece i = false) :
      (claimStarted s f p o).mem = s.mem ∧ ∀ i, (claimStarted s f p o).zeroingPiece i = false :=
    State.devRead_idle (s := (s.access f).modLosw p o _) hidle p (s.losw p o).req 16
  have hfails (u : State) : ((u.loswFail p o 0x0114).losw p o).state = 4 ∧ ((u.loswFail p o 0x0114).losw p o).error = 0x0114 := by
    rw [State.loswFail, State.modLosw_losw]
    exact ⟨rfl, rfl⟩
  have hexec := exec_stateClaim hmay hasks hzero
  dsimp only at hexec
  by_cases hplace : (wAt rq 0).toNat % 16 ≠ 0 ∨ s.inAlloc p (wAt rq 0) 16 = false
  · rw [if_pos hplace] at hexec
    exact ⟨_, hexec, (hfails _).1, (hfails _).2, fun hidle => (hstarted hidle).1⟩
  · have hother : ((claimStarted s f p o).devRead p (wAt rq 0) 16).2.2 = true ∨
        ownOf ((claimStarted s f p o).devRead p (wAt rq 0) 16).2.1 ≠ .orphan ∨
        ownSeq ((claimStarted s f p o).devRead p (wAt rq 0) 16).2.1 ≠ leAt rq 8 4 := by
      obtain habsent | hother := hno
      · refine .inl (by_contra fun hgood => habsent ⟨?_, ?_, Bool.eq_false_of_not_eq_true hgood⟩)
        · exact not_not.1 fun h => hplace (.inl h)
        · rw [claimStarted_inAlloc]
          exact Bool.eq_true_of_not_eq_false fun h => hplace (.inr h)
      · exact .inr hother
    rw [if_neg hplace, if_pos hother] at hexec
    refine ⟨_, hexec, (hfails _).1, (hfails _).2, fun hidle => ?_⟩
    obtain ⟨hmem, hzeroing⟩ := hstarted hidle
    exact (State.devRead_idle hzeroing ..).1.trans hmem

/-- A claim takes an ORPHAN of the expected sequence. -/
theorem stateClaim_takes (hthere : (claimStarted s f p o).recordThere p (wAt rq 0))
    (horphan : ownOf ((claimStarted s f p o).devRead p (wAt rq 0) 16).2.1 = .orphan)
    (hseq : ownSeq ((claimStarted s f p o).devRead p (wAt rq 0) 16).2.1 = leAt rq 8 4) {i k : Nat}
    (hplace : s.locate p (wAt rq 0) = some (.phys i k)) : completes (exec (.stateClaim f p o) s) (fun u => (u.losw p o).state = 3 ∧
      bAt (u.peek p (wAt rq 0) 16).1 0 = 1 ∧ ownSeq (u.peek p (wAt rq 0) 16).1 = seqNext (leAt rq 8 4)) := by
  obtain ⟨ha, hin, hgood⟩ := hthere
  rw [claimStarted_inAlloc] at hin
  have hexec := exec_stateClaim hmay hasks hzero
  dsimp only at hexec
  rw [if_neg (by simp [ha, hin]), if_neg (by simp [hgood, horphan, hseq]), hseq] at hexec
  have htier : (claimStarted s f p o).tierOf p (wAt rq 0) ≤ 1 := by
    have hmaps : ((claimStarted s f p o).tp p).maps = (s.tp p).maps :=
      State.devRead_maps ((s.access f).modLosw p o _) p (s.losw p o).req 16
    have hlow := State.tier_of_place hplace
    rw [State.tierOf_eq] at hlow ⊢
    rwa [State.spot_congr hmaps]
  obtain ⟨j, l, hthere⟩ := State.locate_of_orphan ha htier horphan
  have hheld := State.setOwn_holds ha (State.devRead_atHand ha hthere hgood)
    (r := ownRec 1 p (slotRequest s f p o 0x0C 16).1.node 0 0 (seqNext (leAt rq 8 4)) 0) (by rw [ownRec_length]; decide)
    (by rw [ownRec_state]; decide)
  rw [State.stamped_ownRec] at hheld
  generalize ((claimStarted s f p o).devRead p (wAt rq 0) 16).1.setOwn p (wAt rq 0) _ = w at hexec hheld
  have hsite : ((w.loswProg p o 1).loswDone p o).site p = w.site p := by
    rw [State.loswDone, State.modLosw_site, State.loswProg, State.modLosw_site]
  have hpeek := State.peek_of_holds ha (State.holds_of_site hsite hheld)
  refine ⟨_, hexec, ?_, ?_, ?_⟩
  · rw [State.loswDone, State.modLosw_losw]
  · rw [hpeek, ownRec_state]
  · rw [hpeek, ownRec_seq, seqNext_mod]

end

/-- Settles O37: the operations by what they find, the reply, the sweeper and the state claim, each by its lemmas. -/
theorem ownershipRecords : Obligations.OwnershipRecords := by
  unfold Obligations.OwnershipRecords
  intro x f p o rq s
  refine ⟨fun hhere hhold => ?_, fun m rest e => stateReplyReceive_ends, ?_, fun hmay hasks hzero => ⟨?_, ?_⟩⟩
  · subst hhold
    refine ⟨fun habsent => ?_, fun hthere hno => ?_, fun hthere hexp hallowed hroom i k hplace hused =>
      ownershipOp_writes hhere hthere hexp hallowed hroom hplace hused⟩
    · obtain ⟨hcode, hstate⟩ := State.ownOp_absent habsent
      exact ownershipOp_fails hhere hcode hstate
    · obtain ⟨hcode, hstate⟩ := State.ownOp_refused hthere hno
      exact ownershipOp_fails hhere hcode (.inr hstate)
  · exact fun a t n k toP toN i q honly hplace ha hgood hown =>
      ⟨handoffSweep_orphans hplace ha hgood hown honly, handoffSweep_waits honly⟩
  · intro hno
    refine stateClaim_fails hmay hasks hzero ?_
    rwa [State.recordThere, claimStarted_inAlloc]
  · rintro ⟨ha, hin, hgood⟩ horphan hseq i k hplace
    refine stateClaim_takes hmay hasks hzero ⟨ha, ?_, hgood⟩ horphan hseq hplace
    rwa [claimStarted_inAlloc]

end Sys2Proof.Machine
end

section
/-! SUPPORT. A weight read of a partition that is none of the chip's sixteen, refused before it reaches its tier: reaching it
counts a refusal in the register that holds the partition's module channels (R217, R251, R260); O27. -/

namespace Sys2Proof.Machine

/-- A partition whose slice of module channels, `partSlice slicedPart 4`, lies at the refusal counter `expP 6 + 0x1A0` of the
Expander of module channel 0. -/
def slicedPart : Nat := 0x902

/-- A compressed weight read of one block, at the start of tier 1. -/
def slicedRead : Req :=
  { kind := .weight, part := slicedPart, addr := 0x0001000000000000, len := 64, op := 1, a := 0x0001000000000000, b := 256, exp := 6 }

/-- Module channel 0 alone is the partition's, and it holds a byte. -/
def slicedHeld : State :=
  { State.reset with
    regs := ⟨[(qReg slicedPart 0, 0x100000000), (partSlice slicedPart 4, 1)]⟩
    reqs := ⟨[(1, some { slicedRead with refused := true })]⟩
    mem := ⟨[(physKey 48 0, 0xAB)]⟩ }

/-- The read as it has reached its tier, where nothing refuses it. -/
def slicedReached : Req := { slicedRead with reached := true }

theorem slicedHeld_req : (slicedHeld.reach 1).req 1 = some slicedReached := by decide +kernel

/-- The refusal counted, the partition's module channel is channel 1, of which the read takes its line. -/
theorem exec_slicedHeld : exec (.tierRead 1 0 0) slicedHeld =
    .next (((slicedHeld.reach 1).lineCame slicedReached 0).1.serveLine 1 ((slicedHeld.reach 1).lineCame slicedReached 0).2 0 49 0 0) := by
  have hplace : (slicedHeld.reach 1).locate slicedReached.part (slicedReached.lineAddr 0) = some (.phys 49 0) := by decide +kernel
  have hpart : ((slicedHeld.reach 1).lineCame slicedReached 0).2.part = slicedReached.part := by decide +kernel
  have htranslate : (slicedHeld.reach 1).translateAll slicedReached.part (slicedReached.lineAddr 0) 1 = slicedHeld.reach 1 := by
    rw [State.translateAll, if_pos (by decide +kernel)]
  change execTierRead 1 0 0 slicedHeld = _
  rw [execTierRead, slicedHeld_req]
  dsimp only
  rw [if_neg (by decide +kernel), htranslate, if_neg (by decide +kernel), hpart, hplace]
  dsimp only
  rw [if_neg (by decide +kernel), if_neg (by decide +kernel)]

/-- Refutes O27: nothing bounds the partition that a request names, so its slice of module channels can lie at a counter of refusals,
and nothing keeps a request from being refused before it has reached its tier; reaching it then moves its line to another channel. -/
theorem not_tierReads : ¬ Obligations.TierReads := by
  intro h
  obtain ⟨hread, -⟩ := h 1 0 0 0 slicedReached slicedHeld
  obtain ⟨u, hu, -, -, q, hq, -, hbytes, -⟩ := hread slicedHeld_req rfl (by decide +kernel) (by decide +kernel) 48 0 (by decide +kernel)
    (by decide +kernel) (by decide +kernel) (by decide +kernel) (by decide)
  have hlost : (u.req 1).map (fun q => Mem.rd q.stored 0) = some 0 := by
    rw [← Host.Outcome.next.inj (exec_slicedHeld.symm.trans hu)]
    decide +kernel
  have hbyte : Mem.rd q.stored 0 = 0xAB := hbytes 0 (by decide)
  rw [hq] at hlost
  exact absurd ((Option.some.inj hlost).symm.trans hbyte) (by decide)

end Sys2Proof.Machine
end

section
/-! SUPPORT. What the programs of stripes reach, and with it the copy of a promotion (R221, R225, R312); O29. -/

namespace Sys2Proof.Machine

/-! ### The programs of stripes (R312, R336) -/

section
variable {β : Type} {g : State → β} (hfree : ∀ (s : State) (n : Nat), g { s with free := n } = g s)
  (hns : ∀ (s : State) q f, g (s.modNs q f) = g s) (harc : ∀ (s : State) q k n, g (s.bump (arcCnt q k) n) = g s)
  (hfc : ∀ (s : State) c k n, g (s.bump (fcP c + k) n) = g s)
include hns harc hfc

theorem State.launch_unchanged (s : State) (p : Nat) (st : Stripe) (again : Bool) : g (s.launch p st again) = g s := by
  have hprogs (b n : Nat) : g (s.memberProgs p b n) = g s :=
    foldl_unchanged g (fun s m => by rw [State.fcProg, hfc, hfc]) _ s
  rw [State.launch, hns]
  split
  · rw [harc, hprogs]
  · rw [harc, harc, hprogs]

theorem State.enter_unchanged (s : State) (p : Nat) (st : Stripe) (again : Bool) : g (s.enter p st again) = g s := by
  have hlaunch := State.launch_unchanged hns harc hfc
  simp [State.enter, State.launchSum, apply_ite g, hlaunch]

theorem State.relaunch_unchanged (s : State) (p k : Nat) : g (s.relaunch p k) = g s := by
  induction k generalizing s with
  | zero => rfl
  | succ k ih =>
    unfold State.relaunch
    dsimp only
    split
    · rfl
    · split
      · rfl
      · split
        · rw [ih, hns]
        · split
          · rfl
          · rw [ih, State.launch_unchanged hns harc hfc, hns]

include hfree

theorem State.formStripes_unchanged (s : State) (p : Nat) (close : Bool) (fuel : Nat) : g (s.formStripes p close fuel) = g s := by
  have hwait (s : State) (k : Nat) : g (s.waitCycles (arcCnt p k)) = g s := by rw [State.waitCycles, harc, hfree]
  induction fuel generalizing s with
  | zero => rfl
  | succ k ih =>
    unfold State.formStripes
    dsimp only
    split
    · rfl
    · split
      · exact hwait ..
      · split
        · exact hwait ..
        · split
          · rfl
          · rw [ih, State.enter_unchanged hns harc hfc, hns]

/-- Forming stripes changes namespaces and counts programs and waits. -/
theorem State.fillStripes_unchanged (s : State) (p : Nat) (close : Bool) : g (s.fillStripes p close) = g s := by
  have hlet : g (s.letIn p) = g s := by
    unfold State.letIn
    split
    · rfl
    · exact hns ..
  rw [State.fillStripes, State.formStripes_unchanged hfree hns harc hfc, State.relaunch_unchanged hns harc hfc, hlet]

end

/-! ### The copy of a promotion (R225) -/

/-- The counter of a partition's promoteCnt. -/
def promoteCnt (p : PartId) : Nat := 0x9300 + p * 0x40 + 0x20

/-- The maps of the Tier block, and how many promoteCnt it has counted for a partition. -/
def State.upSide (s : State) (p : PartId) : Tab TierPart × Word := (s.tierP, s.reg (promoteCnt p))

section
variable (s : State) (p : PartId)

theorem State.bump_upSide {a : Nat} (n : Nat) (h : promoteCnt p ≠ a) : (s.bump a n).upSide p = s.upSide p :=
  Prod.ext rfl (s.bump_reg_other n h)

theorem State.bump_ctlP_upSide (i k n : Nat) : (s.bump (ctlP i + k) n).upSide p = s.upSide p :=
  s.bump_upSide p n (by unfold promoteCnt ctlP hcP mcP; split <;> omega)

theorem State.bump_arcCnt_upSide (q k n : Nat) : (s.bump (arcCnt q k) n).upSide p = s.upSide p :=
  s.bump_upSide p n (by unfold promoteCnt arcCnt; omega)

theorem State.placeWaits_upSide {t : Nat} (ht : t ≤ 1) (l : Option Loc) : (s.placeWaits p t l).upSide p = s.upSide p := by
  unfold State.placeWaits
  split
  · exact State.bump_upSide _ p _ (by unfold promoteCnt; omega)
  · rfl

theorem State.reportLoc_upSide (q : Nat) (l : Option Loc) : (s.reportLoc q l).upSide p = s.upSide p := by
  have hreport (u : State) (r : Option Nat) (t i k c l : Nat) : (u.reportBad r t i k c l).upSide p = u.upSide p := rfl
  rcases l with _ | ⟨i, o⟩ | o
  · rfl
  · rw [State.reportLoc, State.uncorr, hreport, State.bump_ctlP_upSide]
  · exact hreport ..

theorem State.poisonRead_upSide : (s.poisonRead p).upSide p = s.upSide p := s.bump_upSide p 1 (by unfold promoteCnt; omega)

theorem State.putLoc_upSide (q : Nat) (l : Option Loc) (bs : List Byte) (bad : Bool) : (s.putLoc q l bs bad).upSide p = s.upSide p := by
  have hburst (i o : Nat) : (s.keepBurst i o).upSide p = s.upSide p := by
    unfold State.keepBurst
    split <;> rfl
  rcases l with _ | ⟨i, o⟩ | o
  · rfl
  · unfold State.putLoc
    dsimp only
    split
    · exact (State.bump_ctlP_upSide ..).trans (hburst i o)
    · split <;> exact hburst i o
  · have hwait : (s.waitCycles (arcCnt q 0x58)).upSide p = s.upSide p := State.bump_arcCnt_upSide _ p q 0x58 _
    unfold State.putLoc
    dsimp only
    split
    · rfl
    · change State.upSide (if _ then _ else _) p = _
      split
      · rfl
      · exact hwait

theorem State.fillStripes_upSide (q : Nat) (close : Bool) : (s.fillStripes q close).upSide p = s.upSide p :=
  State.fillStripes_unchanged (g := fun s => s.upSide p) (fun _ _ => rfl) (fun _ _ _ => rfl)
    (fun s q k n => s.bump_arcCnt_upSide p q k n) (fun s c k n => s.bump_upSide p n (by unfold promoteCnt fcP; omega)) s q close

/-- A copy from tier 1 to tier 0 moves no page by itself and counts no promotion. -/
theorem State.copySubs_upSide (so d0 : Nat) (subs : List Nat) : (s.copySubs p 1 so 0 d0 subs).upSide p = s.upSide p := by
  refine foldl_unchanged (fun s : State => s.upSide p) (fun s b => ?_) subs s
  have hwaits : ((s.placeWaits p 1 (s.place p 1 (so + b * 4096))).placeWaits p 0 (s.place p 0 (d0 + b * 4096))).upSide p =
      s.upSide p := (State.placeWaits_upSide _ p (by decide) _).trans (s.placeWaits_upSide p (by decide) _)
  dsimp only
  rw [State.fillStripes_upSide]
  refine (foldl_unchanged (fun s : State => s.upSide p) (fun s k => ?_) _ _).trans ?_
  · rw [State.putLoc_upSide, apply_ite (fun s : State => s.upSide p), State.poisonRead_upSide, State.reportLoc_upSide, ite_self]
  · split
    · next h => exact absurd h (State.place_low (by decide))
    · exact hwaits

/-- The map entries that the Tier block writes are bytes of its tier 0 (R218). -/
theorem State.putMap_unchanged {β : Type} (g : State → β) (hmem : ∀ (s : State) m, g { s with mem := m } = g s) (q : Nat)
    (gs : List Nat) : g (s.putMap q gs) = g s := by
  refine foldl_unchanged g (fun s x => ?_) gs s
  split
  · exact hmem ..
  · rfl

end

/-! ### A promotion ends (R225) -/

/-- A page with a copy in tier 0 is there (R218). -/
theorem State.page_of_t0 {s : State} {p n k : Nat} (h : Tab.get (fun _ => none) (s.tp p).t0 n = some k) :
    (s.page p n).res = 0 ∧ (s.page p n).slot = k := by
  simp only [State.page, h, and_self]

/-- The Tier block's state of a partition once page `m.num` has been copied to its slot of tier 0. -/
def TierPart.promoted (x : TierPart) (m : Move) : TierPart :=
  { x with
    t0 := Tab.set (fun _ => none) x.t0 m.num (some m.slot)
    since := (List.range 512).foldl (fun t b => Tab.set (fun _ => false) t (m.num * 512 + b) false) x.since }

section
variable {s : State} {p : PartId} {m : Move} (hext : m.ext = false) (hdst : m.dst = 0)
include hext hdst

theorem State.commitMove_promotes : ((s.commitMove p m).tp p = (s.tp p).promoted m) ∧
    counted s (s.commitMove p m) (promoteCnt p) 1 := by
  obtain ⟨t, hcommit, hside⟩ : ∃ t : State, s.commitMove p m =
      (t.modTp p (fun x => x.promoted m)).bump (promoteCnt p) 1 ∧ t.upSide p = s.upSide p := by
    refine ⟨s.copySubs p 1 ((s.extent p (m.num / 32)).2 * MiB64 + m.num % 32 * MiB2) 0 (m.slot * MiB2) (List.range 512), ?_,
      s.copySubs_upSide ..⟩
    unfold State.commitMove
    dsimp only
    rw [hext, hdst]
    rfl
  obtain ⟨htier, hreg⟩ := Prod.ext_iff.1 hside
  have htp : (t.modTp p (fun x => x.promoted m)).tp p = (s.tp p).promoted m := by
    rw [State.modTp_tp, if_pos rfl]
    exact congrArg (fun x => (Tab.get (fun _ => ({} : TierPart)) x p).promoted m) htier
  have hcounted := counted_bump (t.modTp p (fun x => x.promoted m)) (promoteCnt p) 1
  rw [hcommit]
  refine ⟨htp, ?_⟩
  have hsame : (t.modTp p (fun x => x.promoted m)).reg (promoteCnt p) = s.reg (promoteCnt p) := hreg
  rwa [counted, hsame] at hcounted

variable (hmove : (s.tp p).move = some m) (hclean : m.dirty = Tab.empty) (hbatch : (s.tp p).batch = none) (hqueue : (s.tp p).moveQ = [])
include hmove hclean hbatch hqueue

/-- Once the page is in tier 0, the move is over and no other starts. -/
theorem exec_moveCopyDone_promotes : ∃ u, exec (.moveCopyDone p) s = .next u ∧
    u.tp p = { (s.tp p).promoted m with move := none, batch := none, moveQ := [] } ∧ counted s u (promoteCnt p) 1 := by
  obtain ⟨htp, hcounted⟩ : (({ s with free := s.free + 1 } : State).commitMove p m).tp p = (s.tp p).promoted m ∧
      counted s (({ s with free := s.free + 1 } : State).commitMove p m) (promoteCnt p) 1 := State.commitMove_promotes hext hdst
  have hnone : ((s.tp p).promoted m).batch = none := hbatch
  generalize ht : ({ s with free := s.free + 1 } : State).commitMove p m = t at htp hcounted
  set e := (t.modTp p (fun x =>
    { x with move := none, batch := x.batch.map (fun b => { b with retry := false }) })).putMap p m.pages with he
  have hend : e.tp p = { (s.tp p).promoted m with move := none, batch := none } := by
    rw [he, State.putMap_unchanged _ (fun s => s.tp p) (fun _ _ => rfl), State.modTp_tp, if_pos rfl, htp]
    simp only [hnone, Option.map_none]
  have hreg : e.reg (promoteCnt p) = t.reg (promoteCnt p) :=
    State.putMap_unchanged _ (fun s => s.reg (promoteCnt p)) (fun _ _ => rfl) ..
  refine ⟨e.modTp p (fun x => { x with moveQ := [] }), ?_, ?_, ?_⟩
  · change execMoveCopyDone p s = _
    unfold execMoveCopyDone
    rw [hmove]
    dsimp only
    rw [hclean, hext, if_neg (by simp [Tab.empty]), ht, ← he, State.afterMove, hend]
    dsimp only
    rw [TierPart.promoted, hqueue, State.nextMove]
  · rw [State.modTp_tp, if_pos rfl, hend]
  · rw [counted, ← hreg] at hcounted
    exact hcounted

/-- The copy of a promotion that nothing wrote meanwhile puts the page in its slot of tier 0, and is counted. -/
theorem moveCopyDone_promotes : completes (exec (.moveCopyDone p) s) (fun u => (u.tp p).move = none ∧ (u.page p m.num).res = 0 ∧
    (u.page p m.num).slot = m.slot ∧ counted s u (promoteCnt p) 1) := by
  obtain ⟨u, hexec, hend, hcounted⟩ := exec_moveCopyDone_promotes hext hdst hmove hclean hbatch hqueue
  have ht0 : Tab.get (fun _ => none) (u.tp p).t0 m.num = some m.slot := by
    rw [hend]
    exact Tab.get_set_same ..
  obtain ⟨hres, hslot⟩ := State.page_of_t0 ht0
  exact ⟨u, hexec, by rw [hend], hres, hslot, hcounted⟩

end

end Sys2Proof.Machine
end

section
/-! SUPPORT. The end of a migration period, and the start of a batch (R223, R224, R227, R237); O29. -/

namespace Sys2Proof.Machine

/-! ### Access counts halve (R223) -/

/-- Every count listed is halved. -/
def halved (t : Tab Nat) : Tab Nat := t.keys.foldl (fun t k => Tab.set (fun _ => 0) t k (Tab.get (fun _ => 0) t k / 2)) t

theorem halved_get {t : Tab Nat} (h : Tab.wf (fun _ => 0) t = true) (n : Nat) :
    Tab.get (fun _ => 0) (halved t) n = Tab.get (fun _ => 0) t n / 2 := by
  have hkeys : t.keys.Nodup := by
    simp only [Tab.wf, Bool.and_eq_true, decide_eq_true_eq] at h
    exact List.pairwise_map.2 (h.1.imp fun hlt => hlt.ne)
  have honce (l : List Nat) (u : Tab Nat) (hl : l.Nodup) : Tab.get (fun _ => 0)
      (l.foldl (fun t k => Tab.set (fun _ => 0) t k (Tab.get (fun _ => 0) t k / 2)) u) n =
      if n ∈ l then Tab.get (fun _ => 0) u n / 2 else Tab.get (fun _ => 0) u n := by
    induction l generalizing u with
    | nil => simp
    | cons k l ih =>
      obtain ⟨hk, hl⟩ := List.nodup_cons.1 hl
      rw [List.foldl_cons, ih _ hl, Tab.get_set]
      by_cases hn : n = k
      · subst hn
        simp [hk]
      · simp [hn]
  have hunlisted (l : List (Nat × Nat)) (hn : n ∉ l.map Prod.fst) : Tab.lookup l n = none := by
    induction l with
    | nil => rfl
    | cons c l ih =>
      obtain ⟨hc, hl⟩ := not_or.1 (mt List.mem_cons.2 hn)
      rw [Tab.lookup, if_neg (Ne.symm hc), ih hl]
  rw [halved, honce _ _ hkeys]
  split
  · rfl
  · next hn => simp [Tab.get, hunlisted _ hn]

/-- The access counts of a partition's pages and extents (R223). -/
def TierPart.heat (x : TierPart) : Tab Nat × Tab Nat := (x.pcnt, x.xcnt)

section
variable {s t : State} {p : Nat}

theorem State.startMove_heat {m : Move} (h : s.startMove p m = some t) : (t.tp p).heat = (s.tp p).heat := by
  have hput (u : State) (gs : List Nat) : ((u.putMap p gs).tp p).heat = (u.tp p).heat :=
    u.putMap_unchanged (fun s => (s.tp p).heat) (fun _ _ => rfl) p gs
  have hmoved (u : State) (m : Move) : ((u.modTp p (fun x => { x with move := some m })).tp p).heat = (u.tp p).heat := by
    rw [State.modTp_tp, if_pos rfl]
    rfl
  unfold State.startMove at h
  split at h
  · cases h
    rw [hput, hmoved]
  · dsimp only at h
    split at h
    · cases h
    · cases h
      rw [hput, hmoved]
      rfl

/-- The start of a counter-driven move counts no access. -/
theorem State.nextMove_heat (l : List Move) : ((s.nextMove p l).tp p).heat = (s.tp p).heat := by
  have hqueued (u : State) (q : List Move) : ((u.modTp p (fun x => { x with moveQ := q })).tp p).heat = (u.tp p).heat := by
    rw [State.modTp_tp, if_pos rfl]
    rfl
  induction l with
  | nil => exact hqueued s []
  | cons m r ih =>
    unfold State.nextMove
    split
    · next u hstart =>
      split at hstart
      · exact (hqueued u r).trans (State.startMove_heat hstart)
      · cases hstart
    · exact ih

end

/-! ### The end of a period (R223, R224, R237) -/

section
variable {s : State} {p : PartId}

theorem periodEnds_eq : periodEnds s.clk (s.tp p).periodAt s.migTicks =
    decide ((s.tp p).periodAt.toNat / s.migTicks < s.clk.toNat / s.migTicks) := by
  have hticks : max 1 s.migTicks = s.migTicks := by
    unfold State.migTicks
    omega
  rw [periodEnds, hticks]

theorem exec_migrationPeriod_waits
    (h : s.unified p = false ∨ (s.tp p).periodAt.toNat / s.migTicks = s.clk.toNat / s.migTicks) :
    exec (.migrationPeriod p) s = .next s := by
  change execMigrationPeriod p s = _
  rw [execMigrationPeriod, periodEnds_eq, if_pos]
  rcases h with hlinear | hsame
  · simp [hlinear]
  · simp [hsame]

/-- The Tier block's state of a partition after a period that has chosen the moves `ms`. -/
def TierPart.cooled (x : TierPart) (clk : Word) (ms : List Move) : TierPart :=
  { x with pcnt := halved x.pcnt, xcnt := halved x.xcnt, periodAt := clk, moveQ := x.moveQ ++ ms }

theorem exec_migrationPeriod_ends (hunified : s.unified p = true)
    (hperiod : (s.tp p).periodAt.toNat / s.migTicks < s.clk.toNat / s.migTicks) :
    ∃ ms, exec (.migrationPeriod p) s = .next (if (s.tp p).move = none ∧ (s.tp p).batch = none
      then (s.modTp p (fun x => x.cooled s.clk ms)).nextMove p ((s.modTp p (fun x => x.cooled s.clk ms)).tp p).moveQ
      else s.modTp p (fun x => x.cooled s.clk ms)) := by
  refine ⟨if (s.reg 0x9040).getLsbD 0 ∧ (s.tp p).batch = none then s.chooseMoves p else [], ?_⟩
  change execMigrationPeriod p s = _
  rw [execMigrationPeriod, periodEnds_eq, if_neg (by simp [hunified, hperiod])]
  rfl

/-- At the end of a period the access counts halve; with a move or a batch under way none starts. -/
theorem migrationPeriod_halves (hunified : s.unified p = true)
    (hperiod : (s.tp p).periodAt.toNat / s.migTicks < s.clk.toNat / s.migTicks) (hpages : Tab.wf (fun _ => 0) (s.tp p).pcnt = true)
    (hexts : Tab.wf (fun _ => 0) (s.tp p).xcnt = true) :
    completes (exec (.migrationPeriod p) s) (fun u => ((s.tp p).move ≠ none ∨ (s.tp p).batch ≠ none → u.mem = s.mem) ∧
      (∀ n, Tab.get (fun _ => 0) (u.tp p).pcnt n = Tab.get (fun _ => 0) (s.tp p).pcnt n / 2) ∧
      (∀ n, Tab.get (fun _ => 0) (u.tp p).xcnt n = Tab.get (fun _ => 0) (s.tp p).xcnt n / 2)) := by
  obtain ⟨ms, hexec⟩ := exec_migrationPeriod_ends hunified hperiod
  rw [hexec]
  generalize hu : (if (s.tp p).move = none ∧ (s.tp p).batch = none then _ else _ : State) = u
  have hheat : (u.tp p).heat = (halved (s.tp p).pcnt, halved (s.tp p).xcnt) := by
    have hcooled : ((s.modTp p (fun x => x.cooled s.clk ms)).tp p).heat = (halved (s.tp p).pcnt, halved (s.tp p).xcnt) := by
      rw [State.modTp_tp, if_pos rfl]
      rfl
    rw [← hu]
    split
    · rw [State.nextMove_heat, hcooled]
    · exact hcooled
  obtain ⟨hp, hx⟩ := Prod.ext_iff.1 hheat
  refine ⟨u, rfl, fun hbusy => ?_, fun n => ?_, fun n => ?_⟩
  · rw [← hu, if_neg (by tauto)]
    rfl
  · exact (congrArg (Tab.get _ · n) hp).trans (halved_get hpages n)
  · exact (congrArg (Tab.get _ · n) hx).trans (halved_get hexts n)

end

/-! ### What a read leaves of the Tier block's work (R219, R223) -/

section
variable {β : Type} {g : TierPart → β} (hcache : ∀ x l, g { x with xlate := l } = g x)
  (hcount : ∀ x a b, g { x with pcnt := a, xcnt := b } = g x) (s : State) (p : Nat) (a : Word) (n : Nat)

theorem State.modTp_unchanged (q : Nat) {f : TierPart → TierPart} (h : ∀ x, g (f x) = g x) : g ((s.modTp q f).tp p) = g (s.tp p) := by
  rw [State.modTp_tp]
  split
  · next hq => exact hq ▸ h _
  · rfl

include hcache in
theorem State.translateAll_unchanged (q : Nat) : g ((s.translateAll q a n).tp p) = g (s.tp p) := by
  have hcached (s : State) (k : Nat) : g ((s.cacheIn q k).tp p) = g (s.tp p) := by
    unfold State.cacheIn
    dsimp only
    rw [State.modTp_unchanged _ _ _ (fun x => hcache x _)]
    split
    · rfl
    · refine (foldl_fst_unchanged (fun s : State => g (s.tp p)) (fun x k => ?_) _ _).trans rfl
      dsimp only
      split
      · exact State.modTp_unchanged _ _ _ (fun x => hcache x _)
      · rfl
  have hmissed (s : State) (c i o : Nat) : ((s.bump c 1).uncorr i o false).tp p = s.tp p := by
    rw [State.uncorr, State.reportBad]
    rfl
  have htranslated (s : State) (k : Nat) : g ((s.translate q k).tp p) = g (s.tp p) := by
    unfold State.translate
    split
    · rfl
    · dsimp only
      split
      · rw [hmissed]
      · exact hcached ..
  unfold State.translateAll
  split
  · rfl
  · exact foldl_unchanged (fun s : State => g (s.tp p)) (fun s k => htranslated s _) _ s

include hcount in
theorem State.countAccess_unchanged (q : Nat) : g ((s.countAccess q a n).tp p) = g (s.tp p) := by
  unfold State.countAccess
  split
  · rfl
  · exact foldl_unchanged (fun s : State => g (s.tp p)) (fun s k => s.modTp_unchanged p q (fun x => hcount x _ _)) _ s

include hcache hcount in
/-- A read caches pages and counts accesses: it leaves the rest of the Tier block's state. -/
theorem State.devRead_tp : g ((s.devRead p a n).1.tp p) = g (s.tp p) := by
  have hsame {s u : State} (h : u.tierP = s.tierP) : g (u.tp p) = g (s.tp p) :=
    congrArg (fun t => g (Tab.get (fun _ => ({} : TierPart)) t p)) h
  have hyielded (u : State) : (u.yieldLines p a n).tierP = u.tierP :=
    foldl_unchanged State.tierP (fun s l => by split <;> simp [State.yieldAt, apply_ite State.tierP]) _ u
  have hmetered (u : State) : (u.meterRead p a n).tierP = u.tierP := by
    unfold State.meterRead
    split <;> rfl
  have hto : g ((s.readTo p a n).1.tp p) = g (s.tp p) := by
    rw [State.readTo, hsame (State.readUnits_tierP ..), hsame (hyielded _), State.translateAll_unchanged hcache,
      hsame (State.blockWaits_tierP ..), hsame (State.awaitZero_tierP ..)]
  have hreported (f : Nat → Word) (b : Nat → Bool) (l : List Nat) (u : State) :
      g ((l.foldl (fun s i => s.reportLine p (f i) (b i)) u).tp p) = g (u.tp p) :=
    hsame (foldl_unchanged State.tierP (fun s i => s.reportLine_tierP ..) l u)
  rw [State.devRead, hsame (hmetered _)]
  unfold State.readBy
  dsimp only
  split
  · exact (hreported ..).trans ((State.countAccess_unchanged hcount ..).trans hto)
  · exact (State.countAccess_unchanged hcount ..).trans hto

end

/-- The move and the batch that a partition has under way (R225, R227). -/
def TierPart.work (x : TierPart) : Option Move × Option Batch := (x.move, x.batch)

theorem State.devRead_work (s : State) (p : Nat) (a : Word) (n : Nat) : ((s.devRead p a n).1.tp p).work = (s.tp p).work :=
  State.devRead_tp (g := TierPart.work) (fun _ _ => rfl) (fun _ _ _ => rfl) s p a n

/-! ### Batches (R227) -/

/-- An operation that waits for no flash program runs. -/
theorem State.loswRun_runs (s : State) (p o total : Nat) (partial_ : Bool) (h : (s.losw p o).flash = false) :
    ((s.loswRun p o total partial_).losw p o).state = 2 ∧ ((s.loswRun p o total partial_).losw p o).op = (s.losw p o).op := by
  rw [State.loswRun, State.modLosw_losw]
  simp [h]

theorem State.loswFail_fails (s : State) (p o code : Nat) :
    ((s.loswFail p o code).losw p o).state = 4 ∧ ((s.loswFail p o code).losw p o).error = code := by
  rw [State.loswFail, State.modLosw_losw]
  exact ⟨rfl, rfl⟩

section
variable {f : Fn} {p : PartId} {o : SlotId} {rq : List Byte} {s : State} (hmay : mayStart s f p o) (hasks : asks s f p o 4 16 rq)

theorem slotRequest_work : (((slotRequest s f p o 4 16).1.tp p).move = (s.tp p).move) ∧
    ((slotRequest s f p o 4 16).1.tp p).batch = (s.tp p).batch :=
  Prod.ext_iff.1 (State.devRead_work ((s.access f).modLosw p o _) p (s.losw p o).req 16)

include hmay hasks

/-- A batch needs a UNIFIED view. -/
theorem migrationBatch_linear (hlinear : s.unified p = false) : completes (exec (.migrationBatch f p o) s) (fun u =>
    (u.losw p o).state = 4 ∧ (u.losw p o).error = 0x0413) := by
  refine ⟨_, (congrArg Host.Outcome.next (lopStart_of_asks hmay hasks _)).trans ?_,
    State.loswFail_fails (slotRequest s f p o 4 16).1 ..⟩
  dsimp only
  rw [State.unified_congr (slotRequest_force ..), hlinear, if_pos (by decide)]

variable (hunified : s.unified p = true)
include hunified

/-- A second batch is refused. -/
theorem migrationBatch_busy (hbusy : (s.tp p).batch ≠ none) : completes (exec (.migrationBatch f p o) s) (fun u =>
    (u.losw p o).state = 4 ∧ (u.losw p o).error = 0x0412) := by
  refine ⟨_, (congrArg Host.Outcome.next (lopStart_of_asks hmay hasks _)).trans ?_,
    State.loswFail_fails (slotRequest s f p o 4 16).1 ..⟩
  dsimp only
  rw [State.unified_congr (slotRequest_force ..), hunified, if_neg (by decide), slotRequest_work.2, if_pos hbusy]

/-- A batch of good entries runs; it waits for the move that is under way. -/
theorem migrationBatch_begins {n : Nat} {e : State × List Byte × Bool} {todo : List (Nat × Nat × Nat)} (hn : n = leAt rq 8 4)
    (he : (slotRequest s f p o 4 16).1.devRead p (wAt rq 0) (16 * n) = e) (hidle : (s.tp p).batch = none) (hmoving : (s.tp p).move ≠ none)
    (hsome : 0 < n) (hmost : n ≤ 4096) (hzero : zeroAt rq 12 4 = true) (halign : (wAt rq 0).toNat % 16 = 0)
    (hin : s.inAlloc p (wAt rq 0) (16 * n) = true) (hgood : e.2.2 = false)
    (htodo : batchEntries (s.uSize p) ((List.range n).map (fun i => (e.2.1.drop (16 * i)).take 16)) = some todo) :
    completes (exec (.migrationBatch f p o) s) (fun u => (u.losw p o).state = 2 ∧ (u.losw p o).op = 4 ∧
      ∃ b, (u.tp p).batch = some b ∧ b.slot = o ∧ b.todo = todo) := by
  have husize : (slotRequest s f p o 4 16).1.uSize p = s.uSize p :=
    congrArg (· * MiB64) (State.inForce_fld_congr (slotRequest_force ..) (staged_uSize p))
  have halloc : (slotRequest s f p o 4 16).1.inAlloc p (wAt rq 0) (16 * n) = true := by
    rw [State.inAlloc_congr (slotRequest_force ..), hin]
  have hmove : (e.1.tp p).move ≠ none := by
    obtain ⟨hkept, -⟩ := Prod.ext_iff.1 ((slotRequest s f p o 4 16).1.devRead_work p (wAt rq 0) (16 * n))
    rw [← he]
    exact fun h => hmoving (slotRequest_work.1.symm.trans (hkept.symm.trans h))
  have hop : (e.1.losw p o).op = 4 := by
    rw [← he, State.losw_of_parts (State.devRead_parts ..), slotRequest_op]
  have hexec : exec (.migrationBatch f p o) s = .next ((e.1.loswRun p o
      ((todo.map (fun e => if e.2.1 = 2 then 32 else 1)).foldl (· + ·) 0) false).modTp p
      (fun x => { x with batch := some { slot := o.val, todo := todo } })) := by
    refine (congrArg Host.Outcome.next (lopStart_of_asks hmay hasks _)).trans ?_
    dsimp only
    rw [State.unified_congr (slotRequest_force ..), hunified, if_neg (by decide), slotRequest_work.2, if_neg (not_not.2 hidle), ← hn,
      if_neg (by simp [hzero, halign, halloc]; omega), he, husize, htodo, hgood]
    dsimp only
    rw [State.modTp_tp, if_pos rfl]
    exact congrArg Host.Outcome.next (if_neg hmove)
  obtain ⟨hstate, hsame⟩ := e.1.loswRun_runs p o ((todo.map (fun e => if e.2.1 = 2 then 32 else 1)).foldl (· + ·) 0) false
    (by simp [Losw.flash, hop])
  exact ⟨_, hexec, hstate, hsame.trans hop, _, congrArg TierPart.batch ((State.modTp_tp ..).trans (if_pos rfl)), rfl, rfl⟩

end

/-- Settles O29: periods, the end of a promotion and the start of a batch, each by its lemmas. -/
theorem migration : Obligations.Migration := by
  unfold Obligations.Migration
  intro f p o rq s x period e
  refine ⟨fun hlinear => exec_migrationPeriod_waits (.inl hlinear), fun hsame => exec_migrationPeriod_waits (.inr hsame),
    fun hunified hperiod => migrationPeriod_halves hunified hperiod,
    fun m hmove hext hdst hclean hbatch hqueue => moveCopyDone_promotes hext hdst hmove hclean hbatch hqueue,
    fun hmay hasks => ⟨migrationBatch_linear hmay hasks, migrationBatch_busy hmay hasks, ?_⟩⟩
  intro n todo hn hunified hidle hmoving hsome hmost hzero halign hin hgood htodo
  subst hn
  exact migrationBatch_begins hmay hasks hunified rfl rfl hidle hmoving hsome hmost hzero halign hin hgood htodo

end Sys2Proof.Machine
end

section
/-! SUPPORT. A mould-table load whose request lies in a tier that does not exist: reading the request counts a wait in the register that
holds the tables' owners (R219, R221, R246, R258); O30. -/

namespace Sys2Proof.Machine

-- One declaration after the other: each evaluation by the kernel that waits for those before it holds a thread and its stack.
set_option Elab.async false

/-! ### A load goes on (R258) -/

/-- The fields of a load's request are as R258 asks, and its image lies in the partition. -/
def goodLoad (s : State) (p : PartId) (rq : List Byte) : Prop :=
  maskBits (leAt rq 8 4) 32 ≠ [] ∧ maskBits (leAt rq 12 4) 20 ≠ [] ∧ leAt rq 12 4 < 2 ^ 20 ∧ bAt rq 16 < 2 ∧ zeroAt rq 17 15 = true ∧
  (wAt rq 0).toNat % 64 = 0 ∧ s.inAlloc p (wAt rq 0) (128 * (maskBits (leAt rq 8 4) 32).length + 64) = true

@[simp] theorem State.setMload_parts (s : State) (p : Nat) (m : Option MLoad) : (s.setMload p m).parts = s.parts := rfl

/-- A load that goes on is RUNNING, whatever it then writes. -/
theorem State.loswRun_devWrite_setMload (s : State) (p o n : Nat) (a : Word) (bs : List Byte) (m : Option MLoad)
    (h : (s.losw p o).op = 8) :
    ((((s.loswRun p o n true).devWrite p a bs).setMload p m).losw p o).state = 2 := by
  have hparts : (((s.loswRun p o n true).devWrite p a bs).setMload p m).parts = (s.loswRun p o n true).parts := by
    rw [State.setMload_parts, State.devWrite_parts]
  rw [State.losw_of_parts hparts]
  exact (s.loswRun_runs p o n true (by simp [Losw.flash, h])).1

/-- A load of tables that are the partition's once its request has been read runs, unless its image is bad. -/
theorem mouldTableLoad_owned {s : State} {f : Fn} {p : PartId} {o : SlotId} {rq : List Byte} (hmay : mayStart s f p o)
    (hasks : asks s f p o 8 32 rq) (hform : goodLoad s p rq) (hidle : (slotRequest s f p o 8 32).1.mload p = none)
    (howned : ∀ y ∈ maskBits (leAt rq 12 4) 20, ∀ t ∈ maskBits (leAt rq 8 4) 32, (slotRequest s f p o 8 32).1.ownsMould y p t = true) :
    completes (exec (.mouldTableLoad f p o) s) (fun u => (u.losw p o).state = 2 ∨ (u.losw p o).error = 0x0503) := by
  obtain ⟨hsome, htarget, htargets, hbank, hzero, halign, hin⟩ := hform
  have halloc := (State.inAlloc_congr (slotRequest_force s f p o 8 32) p _ _).trans hin
  have hall : (maskBits (leAt rq 12 4) 20).all (fun y =>
      (maskBits (leAt rq 8 4) 32).all ((slotRequest s f p o 8 32).1.ownsMould y p)) = true :=
    List.all_eq_true.2 fun y hy => List.all_eq_true.2 fun t ht => howned y hy t ht
  have hop (a : Word) (n : Nat) : (((slotRequest s f p o 8 32).1.devRead p a n).1.losw p o).op = 8 := by
    rw [State.losw_of_parts (State.devRead_parts ..), slotRequest_op]
  refine ⟨_, congrArg Host.Outcome.next (lopStart_of_asks hmay hasks _), ?_⟩
  dsimp only
  rw [if_neg (by simp [hsome, htarget, hzero, halign, halloc]; omega), if_neg (not_not.2 hidle), if_neg (by simp [hall])]
  split
  · exact .inr (State.loswFail_fails ..).2
  · exact .inl (State.loswRun_devWrite_setMload _ p o _ _ _ _ (hop ..))

/-! ### A request in a stray tier -/

/-- The tier number whose TIER_Tt_QWAIT_CNT of partition 15, counted from TIER_T0_QWAIT_CNT, would lie at word 0 of EXP_MOULD_OWNER of
HC0. -/
def ownerTier : Nat := (expP 0 + 0x40 - (0x9300 + 15 * 0x40)) / 8

/-- The start of the UNIFIED space. -/
def loadAt : Word := 3 * 2 ^ 48

/-- A load of table 0 into bank 0 of HC0, its image behind the request. -/
def strayLoad : List Byte := leBytes 8 (loadAt.toNat + 64) ++ leBytes 4 1 ++ leBytes 4 1 ++ zeros 16

/-- Tables 1 to 7 of HC0 are partition 15's and table 0 is partition 14's, the word of their owners being one below its greatest value;
the map of partition 15 puts extent 0 in `ownerTier`, where the request is staged. -/
def loadHeld : State :=
  { State.reset with
    regs := ⟨[(expP 0 + 0x40, 0xFFFFFFFFFFFFFFFE)]⟩
    force := ⟨[(qReg 15 0, 1), (qReg 15 2, 0x0000010000000000)]⟩
    parts := ⟨[(15, { losw := ⟨[(0, { req := loadAt })]⟩ })]⟩
    tierP := ⟨[(15, { ext := ⟨[(0, some (ownerTier, 0))]⟩ })]⟩
    arc := ⟨[(15, { formatted := true, staging := [{ lu := 0, data := strayLoad ++ zeros 4064, bad := false }] })]⟩ }

/-- The load is QUEUED. -/
def loadQueued : State :=
  (loadHeld.access (.pf .A)).modLosw 15 0 (fun l =>
    { l with op := 8, state := 1, error := 0, prog := 0, total := 0, part := 0xFFFFFFFF })

/-- The read of its request has waited, and has counted that at the owners of the tables: table 0 is partition 15's. -/
def loadWaited : State :=
  ({ loadQueued with free := loadQueued.free + 1 } : State).setReg (expP 0 + 0x40) (BitVec.allOnes 64)

theorem loadQueued_waits : (loadQueued.awaitZero 15 loadAt 32).blockWaits 15 loadAt 32 = loadWaited := by
  have hzero : loadQueued.awaitZero 15 loadAt 32 = loadQueued := rfl
  have hwaits : loadQueued.blockWaits 15 loadAt 32 = loadQueued.waitCycles (expP 0 + 0x40) := rfl
  rw [hzero, hwaits, State.waitCycles_saturates rfl]
  rfl

theorem slotRequest_loadHeld : (slotRequest loadHeld (.pf .A) 15 0 8 32).2 = (strayLoad, false) ∧
    (slotRequest loadHeld (.pf .A) 15 0 8 32).1.mload 15 = none ∧
    (slotRequest loadHeld (.pf .A) 15 0 8 32).1.ownsMould 0 15 0 = true := by
  have hrequest : slotRequest loadHeld (.pf .A) 15 0 8 32 = loadQueued.devRead 15 loadAt 32 := rfl
  rw [hrequest, State.devRead, State.readBy, State.readTo, loadQueued_waits]
  decide +kernel

theorem mayStart_loadHeld : mayStart loadHeld (.pf .A) 15 0 := by
  unfold mayStart
  decide +kernel

theorem asks_loadHeld : asks loadHeld (.pf .A) 15 0 8 32 strayLoad :=
  ⟨by decide +kernel, by decide +kernel, slotRequest_loadHeld.1⟩

theorem goodLoad_loadHeld : goodLoad loadHeld 15 strayLoad := by
  unfold goodLoad
  decide +kernel

theorem maskBits_strayLoad : maskBits (leAt strayLoad 8 4) 32 = [0] ∧ maskBits (leAt strayLoad 12 4) 20 = [0] := by decide +kernel

/-- Refutes O30: nothing bounds the tier that a partition's map names, so the wait counter of a read at a stray tier can lie at the
owners of the tables; reading the request of a load then gives the partition the table that it names, and the load is not denied. -/
theorem not_expandersAndMoulds : ¬ Obligations.ExpandersAndMoulds := by
  intro h
  obtain ⟨-, hmoulds⟩ := h
  obtain ⟨hload, -⟩ := hmoulds (.pf .A) 15 0 0 0 0 strayLoad loadHeld
  obtain ⟨htables, htargets⟩ := maskBits_strayLoad
  obtain ⟨-, hidle, howned⟩ := slotRequest_loadHeld
  obtain ⟨hsome, htarget, hmost, hbank, hzero, halign, hin⟩ := goodLoad_loadHeld
  obtain ⟨-, hdenied, -⟩ := hload mayStart_loadHeld asks_loadHeld hsome htarget hmost hbank hzero halign hin
  have hfree : loadHeld.mload (15 : PartId) = none := by decide +kernel
  have hother : loadHeld.ownsMould 0 (15 : PartId) 0 = false := by decide +kernel
  obtain ⟨u, hu, hstate, herror⟩ := hdenied hfree ⟨0, by simp [htargets], 0, by simp [htables], hother⟩
  obtain ⟨v, hv, hgoes⟩ := mouldTableLoad_owned (p := 15) (o := 0) mayStart_loadHeld asks_loadHeld goodLoad_loadHeld hidle (by
    rw [htables, htargets]
    intro y hy t ht
    rw [List.mem_singleton.1 hy, List.mem_singleton.1 ht]
    exact howned)
  cases hu.symm.trans hv
  rcases hgoes with hruns | hbad
  · exact absurd (hruns.symm.trans hstate) (by decide)
  · exact absurd (hbad.symm.trans herror) (by decide)

end Sys2Proof.Machine
end

section
/-! SUPPORT. What the commands of threads, cores, engines and the fabric keep: the queue, the memory's canonical form, the power manager's
legal values and the fuses. Each command by the lemmas of the operations that it is made of (O57, O58, O59). -/

namespace Sys2Proof.Machine

theorem keepsNext {B0 u : State} (h : keeps B0 u) : completes (.next u) (keeps B0) := ⟨u, rfl, h⟩
theorem keeps_id {B0 u : State} (h : keeps B0 u) : keeps B0 (id u) := h

theorem issue_keeps {B0 s : State} (c t : Nat) (legal defer : Bool) {act : State → Outc}
    (hact : ∀ u, keeps B0 u → completes (act u) (keeps B0)) (h : keeps B0 s) : completes (issue c t s legal defer act) (keeps B0) := by
  have hissued := State.issued_keeps s c t h
  unfold issue
  split
  · exact keepsNext h
  · split
    · exact keepsNext (State.trap_keeps _ _ _ _ _ h)
    · dsimp only
      split
      · exact keepsNext (State.trap_keeps _ _ _ _ _ hissued)
      · split
        · exact keepsNext (State.waitIn_keeps _ _ _ _ _ hissued)
        · exact hact _ hissued

theorem issueR_keeps {B0 s : State} (c t : Nat) (legal : Bool) (rd : Reg) (v : Thread → Word) (h : keeps B0 s) :
    completes (issueR c t s legal rd v) (keeps B0) :=
  issue_keeps c t legal false (fun _ hu => keepsNext (State.retire_keeps _ _ _ _ _ hu)) h

theorem issueBr_keeps {B0 s : State} (c t : Nat) (off : BitVec 18) (taken : Thread → Bool) (h : keeps B0 s) :
    completes (issueBr c t s off taken) (keeps B0) :=
  issue_keeps c t true false (fun _ hu => keepsNext (State.modThr_keeps _ _ _ _ hu)) h

theorem State.bindList_keeps {B0 : State} (s : State) (c t g l : Nat) (h : keeps B0 s) :
    completes (s.bindList c t g l) (keeps B0) := by
  unfold State.bindList
  repeat' (first | with_reducible (first | assumption | apply keepsNext | apply State.misuse_keeps | apply State.adv_keeps
                                         | apply State.waitIn_keeps | apply State.modCore_keeps | apply State.openList_keeps) | split
                                         | dsimp only)

theorem State.reopen_keeps {B0 : State} (s : State) (c g l t : Nat) (h : keeps B0 s) :
    completes (s.reopen c g l t) (keeps B0) := by
  unfold State.reopen
  repeat' (first | with_reducible (first | assumption | apply keepsNext | apply State.wakeUnit_keeps | apply State.setThr_keeps
                                         | apply State.misuse_keeps | apply State.modCore_keeps | apply State.openList_keeps) | split
                                         | dsimp only)

theorem State.spdmTake_keeps {B0 : State} (s : State) (least : Nat) (b : HPort) {body : State → State}
    (hbody : ∀ u, keeps B0 u → keeps B0 (body u)) (h : keeps B0 s) : completes (s.spdmTake least b body) (keeps B0) := by
  have hcounted := State.bump_keeps s 0x7410 1 h
  unfold State.spdmTake
  split
  · exact keepsNext h
  · dsimp only
    split
    · exact keepsNext (State.spdmError_keeps _ _ hcounted)
    · exact keepsNext (hbody _ hcounted)

theorem State.i2cTake_keeps {B0 : State} (s : State) (crc : Bool) {body : State → State}
    (hbody : ∀ u, keeps B0 u → keeps B0 (body u)) (h : keeps B0 s) : completes (s.i2cTake crc body) (keeps B0) := by
  unfold State.i2cTake
  split
  · exact keepsNext h
  · split
    · exact keepsNext (State.i2c_keeps _ _ _ h)
    · split
      · exact keepsNext (State.i2c_keeps _ _ _ h)
      · exact keepsNext (hbody _ h)


/-! ### Alu -/

theorem execAlu_keeps {c : CoreId} {t : CtxId} {rd ra rb : Reg} {fn : BitVec 14} {B0 s : State} (h : keeps B0 s) :
    completes (execAlu c t rd ra rb fn s) (keeps B0) :=
  issueR_keeps _ _ _ _ _ h

theorem execMul_keeps {c : CoreId} {t : CtxId} {rd ra rb : Reg} {fn : BitVec 14} {B0 s : State} (h : keeps B0 s) :
    completes (execMul c t rd ra rb fn s) (keeps B0) :=
  issueR_keeps _ _ _ _ _ h

theorem execFpu_keeps {c : CoreId} {t : CtxId} {rd ra rb : Reg} {fn : BitVec 14} {B0 s : State} (h : keeps B0 s) :
    completes (execFpu c t rd ra rb fn s) (keeps B0) :=
  issueR_keeps _ _ _ _ _ h

theorem execAddi_keeps {c : CoreId} {t : CtxId} {rd ra : Reg} {k : BitVec 18} {B0 s : State} (h : keeps B0 s) :
    completes (execAddi c t rd ra k s) (keeps B0) :=
  issueR_keeps _ _ _ _ _ h

theorem execAndi_keeps {c : CoreId} {t : CtxId} {rd ra : Reg} {k : BitVec 18} {B0 s : State} (h : keeps B0 s) :
    completes (execAndi c t rd ra k s) (keeps B0) :=
  issueR_keeps _ _ _ _ _ h

theorem execOri_keeps {c : CoreId} {t : CtxId} {rd ra : Reg} {k : BitVec 18} {B0 s : State} (h : keeps B0 s) :
    completes (execOri c t rd ra k s) (keeps B0) :=
  issueR_keeps _ _ _ _ _ h

theorem execXori_keeps {c : CoreId} {t : CtxId} {rd ra : Reg} {k : BitVec 18} {B0 s : State} (h : keeps B0 s) :
    completes (execXori c t rd ra k s) (keeps B0) :=
  issueR_keeps _ _ _ _ _ h

theorem execShli_keeps {c : CoreId} {t : CtxId} {rd ra : Reg} {k : BitVec 18} {B0 s : State} (h : keeps B0 s) :
    completes (execShli c t rd ra k s) (keeps B0) :=
  issueR_keeps _ _ _ _ _ h

theorem execShri_keeps {c : CoreId} {t : CtxId} {rd ra : Reg} {k : BitVec 18} {B0 s : State} (h : keeps B0 s) :
    completes (execShri c t rd ra k s) (keeps B0) :=
  issueR_keeps _ _ _ _ _ h

theorem execSrai_keeps {c : CoreId} {t : CtxId} {rd ra : Reg} {k : BitVec 18} {B0 s : State} (h : keeps B0 s) :
    completes (execSrai c t rd ra k s) (keeps B0) :=
  issueR_keeps _ _ _ _ _ h

theorem execSlti_keeps {c : CoreId} {t : CtxId} {rd ra : Reg} {k : BitVec 18} {B0 s : State} (h : keeps B0 s) :
    completes (execSlti c t rd ra k s) (keeps B0) :=
  issueR_keeps _ _ _ _ _ h

theorem execLui_keeps {c : CoreId} {t : CtxId} {rd : Reg} {k : BitVec 22} {B0 s : State} (h : keeps B0 s) :
    completes (execLui c t rd k s) (keeps B0) :=
  issueR_keeps _ _ _ _ _ h

theorem execBeq_keeps {c : CoreId} {t : CtxId} {ra rb : Reg} {off : BitVec 18} {B0 s : State} (h : keeps B0 s) :
    completes (execBeq c t ra rb off s) (keeps B0) :=
  issueBr_keeps _ _ _ _ h

theorem execBne_keeps {c : CoreId} {t : CtxId} {ra rb : Reg} {off : BitVec 18} {B0 s : State} (h : keeps B0 s) :
    completes (execBne c t ra rb off s) (keeps B0) :=
  issueBr_keeps _ _ _ _ h

theorem execBlt_keeps {c : CoreId} {t : CtxId} {ra rb : Reg} {off : BitVec 18} {B0 s : State} (h : keeps B0 s) :
    completes (execBlt c t ra rb off s) (keeps B0) :=
  issueBr_keeps _ _ _ _ h

theorem execBge_keeps {c : CoreId} {t : CtxId} {ra rb : Reg} {off : BitVec 18} {B0 s : State} (h : keeps B0 s) :
    completes (execBge c t ra rb off s) (keeps B0) :=
  issueBr_keeps _ _ _ _ h

theorem execBltu_keeps {c : CoreId} {t : CtxId} {ra rb : Reg} {off : BitVec 18} {B0 s : State} (h : keeps B0 s) :
    completes (execBltu c t ra rb off s) (keeps B0) :=
  issueBr_keeps _ _ _ _ h

theorem execBgeu_keeps {c : CoreId} {t : CtxId} {ra rb : Reg} {off : BitVec 18} {B0 s : State} (h : keeps B0 s) :
    completes (execBgeu c t ra rb off s) (keeps B0) :=
  issueBr_keeps _ _ _ _ h

theorem execJal_keeps {c : CoreId} {t : CtxId} {rd : Reg} {off : BitVec 22} {B0 s : State} (h : keeps B0 s) :
    completes (execJal c t rd off s) (keeps B0) := by
  unfold execJal
  repeat' (first | with_reducible (first | assumption | apply keepsNext | apply issue_keeps | apply State.modThr_keeps) | (intro _ _))

theorem execJalr_keeps {c : CoreId} {t : CtxId} {rd ra : Reg} {k : BitVec 18} {B0 s : State} (h : keeps B0 s) :
    completes (execJalr c t rd ra k s) (keeps B0) := by
  unfold execJalr
  repeat' (first | with_reducible (first | assumption | apply keepsNext | apply issue_keeps | apply State.modThr_keeps) | (intro _ _))

theorem execEndT_keeps {c : CoreId} {t : CtxId} {rd ra rb : Reg} {fn : BitVec 14} {B0 s : State} (h : keeps B0 s) :
    completes (execEndT c t rd ra rb fn s) (keeps B0) := by
  unfold execEndT
  repeat' (first | with_reducible (first | assumption | apply keepsNext | apply issue_keeps | apply State.waitIn_keeps
                                         | apply State.settle_keeps) | (intro _ _))

theorem execYield_keeps {c : CoreId} {t : CtxId} {rd ra : Reg} {k : BitVec 18} {B0 s : State} (h : keeps B0 s) :
    completes (execYield c t rd ra k s) (keeps B0) := by
  unfold execYield
  repeat' (first | with_reducible (first | assumption | apply keepsNext | apply issue_keeps | apply State.adv_keeps) | (intro _ _))

/-! ### ThreadMem -/

theorem execLd_keeps {c : CoreId} {t : CtxId} {rd ra : Reg} {size : Fin 4} {sx : Bool} {off : BitVec 15} {seu : Nat} {B0 s : State} (h : keeps B0 s) :
    completes (execLd c t rd ra size sx off seu s) (keeps B0) := by
  unfold execLd
  repeat' (first | with_reducible (first | assumption | apply keepsNext | apply issue_keeps | apply State.trap_keeps
                                         | apply State.modCore_keeps | apply State.scrUse_keeps | apply State.retire_keeps) | split
                                         | (intro _ _) | dsimp only)

theorem execSt_keeps {c : CoreId} {t : CtxId} {rb ra : Reg} {size : Fin 4} {sx : Bool} {off : BitVec 15} {B0 s : State} (h : keeps B0 s) :
    completes (execSt c t rb ra size sx off s) (keeps B0) := by
  unfold execSt
  repeat' (first | with_reducible (first | assumption | apply keepsNext | apply issue_keeps | apply State.trap_keeps
                                         | apply State.writeScr_keeps | apply State.adv_keeps) | split | (intro _ _) | dsimp only)

theorem execLcopy_keeps {c : CoreId} {t : CtxId} {rd ra rb : Reg} {hi : BitVec 13} {B0 s : State} (h : keeps B0 s) :
    completes (execLcopy c t rd ra rb hi s) (keeps B0) := by
  unfold execLcopy
  repeat' (first | with_reducible (first | assumption | apply keepsNext | apply issue_keeps | apply State.trap_keeps
                                         | apply State.bump_keeps | apply State.modCore_keeps | apply State.adv_keeps) | split | (intro _ _)
                                         | dsimp only)

theorem execLzero_keeps {c : CoreId} {t : CtxId} {rd ra rb : Reg} {hi : BitVec 13} {B0 s : State} (h : keeps B0 s) :
    completes (execLzero c t rd ra rb hi s) (keeps B0) := by
  unfold execLzero
  repeat' (first | with_reducible (first | assumption | apply keepsNext | apply issue_keeps | apply State.trap_keeps
                                         | apply State.writeScr_keeps | apply State.adv_keeps) | split | (intro _ _) | dsimp only)

theorem execRld_keeps {c : CoreId} {t : CtxId} {rd ra : Reg} {size : Fin 4} {sx : Bool} {off : BitVec 15} {B0 s : State} (h : keeps B0 s) :
    completes (execRld c t rd ra size sx off s) (keeps B0) := by
  unfold execRld
  repeat' (first | with_reducible (first | assumption | apply keepsNext | apply issue_keeps | apply State.trap_keeps
                                         | apply State.newReq_keeps | apply State.waitIn_keeps) | split | (intro _ _) | dsimp only)

theorem execRst_keeps {c : CoreId} {t : CtxId} {rb ra : Reg} {size : Fin 4} {sx : Bool} {off : BitVec 15} {B0 s : State} (h : keeps B0 s) :
    completes (execRst c t rb ra size sx off s) (keeps B0) := by
  unfold execRst
  repeat' (first | with_reducible (first | assumption | apply keepsNext | apply issue_keeps | apply State.trap_keeps
                                         | apply State.waitIn_keeps | apply State.newReq_keeps | apply State.adv_keeps) | split
                                         | (intro _ _) | dsimp only)

theorem execAtom_keeps {c : CoreId} {t : CtxId} {rd ra rb : Reg} {fn : BitVec 14} {B0 s : State} (h : keeps B0 s) :
    completes (execAtom c t rd ra rb fn s) (keeps B0) := by
  unfold execAtom
  repeat' (first | with_reducible (first | assumption | apply keepsNext | apply issue_keeps | apply State.newReq_keeps
                                         | apply State.waitIn_keeps | apply State.trap_keeps | apply State.atomLocal_keeps
                                         | apply State.prefetchDrop_keeps) | split | (intro _ _) | dsimp only)

theorem execFence_keeps {c : CoreId} {t : CtxId} {rd ra rb : Reg} {fn : BitVec 14} {B0 s : State} (h : keeps B0 s) :
    completes (execFence c t rd ra rb fn s) (keeps B0) := by
  unfold execFence
  repeat' (first | with_reducible (first | assumption | apply keepsNext | apply issue_keeps | apply State.waitIn_keeps
                                         | apply State.settle_keeps) | (intro _ _))

theorem execRda_keeps {c : CoreId} {t : CtxId} {rd ra rb : Reg} {fn : BitVec 14} {B0 s : State} (h : keeps B0 s) :
    completes (execRda c t rd ra rb fn s) (keeps B0) := by
  unfold execRda
  repeat' (first | with_reducible (first | assumption | apply keepsNext | apply issue_keeps | apply State.trap_keeps
                                         | apply State.waitIn_keeps | apply State.pfJoin_keeps | apply State.adv_keeps
                                         | apply State.tagWait_keeps | apply State.newReq_keeps) | split | (intro _ _) | dsimp only)

theorem execWra_keeps {c : CoreId} {t : CtxId} {rd ra rb : Reg} {fn : BitVec 14} {B0 s : State} (h : keeps B0 s) :
    completes (execWra c t rd ra rb fn s) (keeps B0) := by
  unfold execWra
  repeat' (first | with_reducible (first | assumption | apply keepsNext | apply issue_keeps | apply State.trap_keeps
                                         | apply State.waitIn_keeps | apply State.tagWait_keeps | apply State.bump_keeps
                                         | apply State.prefetchDrop_keeps | apply State.newReq_keeps | apply State.adv_keeps) | split
                                         | (intro _ _) | dsimp only)

theorem execWaitr_keeps {c : CoreId} {t : CtxId} {rd ra : Reg} {k : BitVec 18} {B0 s : State} (h : keeps B0 s) :
    completes (execWaitr c t rd ra k s) (keeps B0) := by
  unfold execWaitr
  repeat' (first | with_reducible (first | assumption | apply keepsNext | apply issue_keeps | apply State.waitIn_keeps
                                         | apply State.settle_keeps) | (intro _ _))

/-! ### ThreadUnit -/

theorem execEsub_keeps {c : CoreId} {t : CtxId} {rd ra rb : Reg} {fn : BitVec 14} {B0 s : State} (h : keeps B0 s) :
    completes (execEsub c t rd ra rb fn s) (keeps B0) := by
  unfold execEsub
  repeat' (first | with_reducible (first | assumption | apply keepsNext | apply issue_keeps | apply State.trap_keeps
                                         | apply State.waitIn_keeps | apply State.scrUse_keeps | apply State.modCore_keeps
                                         | apply State.retire_keeps) | split | (intro _ _) | dsimp only
                                         | fail_if_no_progress with_reducible apply keeps_mk)

theorem execEwait_keeps {c : CoreId} {t : CtxId} {rd ra rb : Reg} {fn : BitVec 14} {B0 s : State} (h : keeps B0 s) :
    completes (execEwait c t rd ra rb fn s) (keeps B0) := by
  unfold execEwait
  repeat' (first | with_reducible (first | assumption | apply keepsNext | apply issue_keeps | apply State.retire_keeps
                                         | apply State.waitIn_keeps) | split | (intro _ _) | dsimp only)

theorem execCins_keeps {c : CoreId} {t : CtxId} {rd ra rb : Reg} {fn : BitVec 14} {B0 s : State} (h : keeps B0 s) :
    completes (execCins c t rd ra rb fn s) (keeps B0) := by
  unfold execCins
  repeat' (first | with_reducible (first | assumption | apply keepsNext | apply issue_keeps | apply State.misused_keeps
                                         | apply State.serveAhead_keeps | apply State.modCore_keeps | apply State.colTake_keeps
                                         | apply State.retire_keeps) | split | (intro _ _) | dsimp only)

theorem execVts_keeps {c : CoreId} {t : CtxId} {rd ra rb : Reg} {fn : BitVec 14} {B0 s : State} (h : keeps B0 s) :
    completes (execVts c t rd ra rb fn s) (keeps B0) := by
  unfold execVts
  repeat' (first | with_reducible (first | assumption | apply keepsNext | apply issue_keeps | apply State.misused_keeps
                                         | apply State.setRead_keeps | apply State.retire_keeps | apply State.modCore_keeps
                                         | apply State.waitCycles_keeps | apply State.waitIn_keeps) | split | (intro _ _) | dsimp only
                                         | fail_if_no_progress with_reducible apply keeps_mk)

theorem execHpush_keeps {c : CoreId} {t : CtxId} {rd ra rb : Reg} {fn : BitVec 14} {B0 s : State} (h : keeps B0 s) :
    completes (execHpush c t rd ra rb fn s) (keeps B0) := by
  unfold execHpush
  repeat' (first | with_reducible (first | assumption | apply keepsNext | apply issue_keeps | apply State.misused_keeps
                                         | apply State.modGrp_keeps | apply State.bump_keeps | apply State.prefetchAfter_keeps
                                         | apply State.retire_keeps) | split | (intro _ _) | dsimp only)

theorem execHpop_keeps {c : CoreId} {t : CtxId} {rd ra rb : Reg} {fn : BitVec 14} {B0 s : State} (h : keeps B0 s) :
    completes (execHpop c t rd ra rb fn s) (keeps B0) := by
  unfold execHpop
  repeat' (first | with_reducible (first | assumption | apply keepsNext | apply issue_keeps | apply State.modThr_keeps
                                         | apply State.misused_keeps | apply State.modGrp_keeps | apply State.prefetchAfter_keeps
                                         | apply State.adv_keeps) | split | (intro _ _) | dsimp only
                                         | fail_if_no_progress with_reducible apply keeps_mk)

theorem execHash_keeps {c : CoreId} {t : CtxId} {rd ra rb : Reg} {fn : BitVec 14} {B0 s : State} (h : keeps B0 s) :
    completes (execHash c t rd ra rb fn s) (keeps B0) :=
  issueR_keeps _ _ _ _ _ h

/-! ### ThreadGroup -/

theorem execSpawn_keeps {c : CoreId} {t : CtxId} {rd ra rb : Reg} {fn : BitVec 14} {B0 s : State} (h : keeps B0 s) :
    completes (execSpawn c t rd ra rb fn s) (keeps B0) := by
  unfold execSpawn
  repeat' (first | with_reducible (first | assumption | apply keepsNext | apply issue_keeps | apply State.retire_keeps
                                         | apply State.choose_keeps | apply State.bump_keeps | apply State.startThread_keeps) | split
                                         | (intro _ _) | dsimp only)

theorem execGwait_keeps {c : CoreId} {t : CtxId} {rd ra rb : Reg} {hi : BitVec 13} {B0 s : State} (h : keeps B0 s) :
    completes (execGwait c t rd ra rb hi s) (keeps B0) := by
  unfold execGwait
  repeat' (first | with_reducible (first | assumption | apply keepsNext | apply issue_keeps | apply State.waitIn_keeps
                                         | apply State.retire_keeps) | split | (intro _ _) | dsimp only)

theorem execGsig_keeps {c : CoreId} {t : CtxId} {rd ra rb : Reg} {hi : BitVec 13} {B0 s : State} (h : keeps B0 s) :
    completes (execGsig c t rd ra rb hi s) (keeps B0) := by
  unfold execGsig
  repeat' (first | with_reducible (first | assumption | apply keepsNext | apply issue_keeps | apply State.gsig_keeps
                                         | apply State.retire_keeps) | (intro _ _))

theorem execGld_keeps {c : CoreId} {t : CtxId} {rd ra : Reg} {size : Fin 4} {off : BitVec 15} {B0 s : State} (h : keeps B0 s) :
    completes (execGld c t rd ra size off s) (keeps B0) := by
  unfold execGld
  repeat' (first | with_reducible (first | assumption | apply keepsNext | apply issue_keeps | apply State.retire_keeps
                                         | apply State.trap_keeps) | split | (intro _ _) | dsimp only)

theorem execGst_keeps {c : CoreId} {t : CtxId} {rb ra : Reg} {size : Fin 4} {off : BitVec 15} {B0 s : State} (h : keeps B0 s) :
    completes (execGst c t rb ra size off s) (keeps B0) := by
  unfold execGst
  repeat' (first | with_reducible (first | assumption | apply keepsNext | apply issue_keeps | apply State.adv_keeps | apply State.trap_keeps
                                         | apply State.waitIn_keeps | apply State.modGrp_keeps | apply State.bindList_keeps) | split
                                         | (intro _ _) | dsimp only)

theorem execWqtake_keeps {c : CoreId} {t : CtxId} {rd ra rb : Reg} {fn : BitVec 14} {B0 s : State} (h : keeps B0 s) :
    completes (execWqtake c t rd ra rb fn s) (keeps B0) := by
  unfold execWqtake
  repeat' (first | with_reducible (first | assumption | apply keepsNext | apply issue_keeps | apply State.trap_keeps
                                         | apply State.choose_keeps | apply State.modCore_keeps | apply State.retire_keeps
                                         | apply State.waitIn_keeps) | split | (intro _ _) | dsimp only)

theorem execGnew_keeps {c : CoreId} {t : CtxId} {rd ra rb : Reg} {fn : BitVec 14} {B0 s : State} (h : keeps B0 s) :
    completes (execGnew c t rd ra rb fn s) (keeps B0) := by
  unfold execGnew
  repeat' (first | with_reducible (first | assumption | apply keepsNext | apply issue_keeps | apply State.retire_keeps
                                         | apply State.choose_keeps | apply State.bump_keeps | apply State.modGrp_keeps
                                         | apply State.modCore_keeps | apply State.wakeUnit_keeps) | split | (intro _ _) | dsimp only)

theorem execGdone_keeps {c : CoreId} {t : CtxId} {rd ra rb : Reg} {hi : BitVec 13} {B0 s : State} (h : keeps B0 s) :
    completes (execGdone c t rd ra rb hi s) (keeps B0) := by
  unfold execGdone
  repeat' (first | with_reducible (first | assumption | apply keepsNext | apply issue_keeps | apply State.layerGdone_keeps
                                         | apply State.markDone_keeps | apply State.adv_keeps) | split | (intro _ _) | dsimp only)

theorem execGkill_keeps {c : CoreId} {t : CtxId} {rd ra rb : Reg} {hi : BitVec 13} {B0 s : State} (h : keeps B0 s) :
    completes (execGkill c t rd ra rb hi s) (keeps B0) := by
  unfold execGkill
  repeat' (first | with_reducible (first | assumption | apply keepsNext | apply issue_keeps | apply State.killGroup_keeps
                                         | apply State.adv_keeps) | split | (intro _ _) | dsimp only)

theorem execSpecb_keeps {c : CoreId} {t : CtxId} {rd ra rb : Reg} {fn : BitVec 14} {B0 s : State} (h : keeps B0 s) :
    completes (execSpecb c t rd ra rb fn s) (keeps B0) := by
  unfold execSpecb
  repeat' (first | with_reducible (first | assumption | apply keepsNext | apply issue_keeps | apply State.modGrp_keeps
                                         | apply State.adv_keeps | apply State.retire_keeps) | split | (intro _ _) | dsimp only)

theorem execSpecc_keeps {c : CoreId} {t : CtxId} {rd ra rb : Reg} {fn : BitVec 14} {B0 s : State} (h : keeps B0 s) :
    completes (execSpecc c t rd ra rb fn s) (keeps B0) := by
  unfold execSpecc
  repeat' (first | with_reducible (first | assumption | apply keepsNext | apply issue_keeps | apply State.retire_keeps
                                         | apply State.bump_keeps | apply State.commitHop_keeps) | split | (intro _ _) | dsimp only)

theorem execSpecx_keeps {c : CoreId} {t : CtxId} {rd ra rb : Reg} {fn : BitVec 14} {B0 s : State} (h : keeps B0 s) :
    completes (execSpecx c t rd ra rb fn s) (keeps B0) := by
  unfold execSpecx
  repeat' (first | with_reducible (first | assumption | apply keepsNext | apply issue_keeps | apply State.squash_keeps
                                         | apply State.retire_keeps) | (intro _ _))

/-! ### CoreEvents -/

theorem execContextFree_keeps {c : CoreId} {t : CtxId} {B0 s : State} (h : keeps B0 s) :
    completes (execContextFree c t s) (keeps B0) := by
  unfold execContextFree
  repeat' (first | with_reducible (first | assumption | apply keepsNext | apply State.bump_keeps | apply State.endThread_keeps) | split
                                         | dsimp only)

theorem execReadDataReturn_keeps {i : Nat} {k : Nat} {B0 s : State} (h : keeps B0 s) :
    completes (execReadDataReturn i k s) (keeps B0) := by
  unfold execReadDataReturn
  repeat' (first | with_reducible (first | assumption | apply keepsNext | apply State.reach_keeps | apply State.modCore_keeps
                                         | apply State.modStep_keeps | apply State.setReq_keeps | apply State.issueWeights_keeps
                                         | apply State.rdaEnd_keeps) | split | dsimp only)

theorem execWriteAck_keeps {i : Nat} {B0 s : State} (h : keeps B0 s) : completes (execWriteAck i s) (keeps B0) := by
  unfold execWriteAck
  repeat' (first | with_reducible (first | assumption | apply keepsNext | apply State.reach_keeps | apply State.setReq_keeps
                                         | apply State.writeDone_keeps | apply State.tagFreed_keeps) | split | dsimp only)

theorem execRemoteAccessAtTarget_keeps {i : Nat} {B0 s : State} (h : keeps B0 s) :
    completes (execRemoteAccessAtTarget i s) (keeps B0) := by
  unfold execRemoteAccessAtTarget
  repeat' (first | with_reducible (first | assumption | apply keepsNext | apply State.setReq_keeps | apply State.bump_keeps
                                         | apply State.atTarget_keeps) | split | dsimp only)

theorem execRemoteResponse_keeps {i : Nat} {B0 s : State} (h : keeps B0 s) : completes (execRemoteResponse i s) (keeps B0) := by
  have hgone := State.setReq_keeps s i none h
  unfold execRemoteResponse
  split
  · exact keepsNext h
  · dsimp only
    generalize s.setReq i none = s1 at hgone ⊢
    repeat' (first | with_reducible (first | assumption | apply keepsNext | apply State.modThr_keeps | apply State.faultWith_keeps
                                           | apply State.writeDone_keeps | apply State.setThr_keeps)
                                           | (with_reducible refine apply_ite (completes · _) ▸ ?_) | split)

theorem execHartRunWrite_keeps {f : Fn} {c : CoreId} {v : BitVec 32} {B0 s : State} (h : keeps B0 s) :
    completes (execHartRunWrite f c v s) (keeps B0) := by
  unfold execHartRunWrite
  repeat' (first | with_reducible (first | assumption | apply keepsNext | apply State.access_keeps | apply State.setField_keeps
                                         | apply State.startHart_keeps | apply State.haltHart_keeps)
                                         | (with_reducible refine keeps_foldl _ (fun _ _ _ => ?_) ?_) | split | dsimp only)

theorem execCoreCommit_keeps {f : Fn} {c : CoreId} {B0 s : State} (h : keeps B0 s) :
    completes (execCoreCommit f c s) (keeps B0) := by
  unfold execCoreCommit
  repeat' (first | with_reducible (first | assumption | apply keepsNext | apply State.access_keeps | apply State.setErr_keeps
                                         | apply State.commit_keeps) | split | dsimp only | apply keeps_id)

theorem execCoreSoftReset_keeps {f : Fn} {c : CoreId} {B0 s : State} (h : keeps B0 s) :
    completes (execCoreSoftReset f c s) (keeps B0) := by
  unfold execCoreSoftReset
  repeat' (first | with_reducible (first | assumption | apply keepsNext | apply State.access_keeps | apply State.resetCore_keeps) | split
                                         | dsimp only)

theorem execCoreResetReady_keeps {c : CoreId} {B0 s : State} (h : keeps B0 s) : completes (execCoreResetReady c s) (keeps B0) :=
  keepsNext (State.modCore_keeps _ _ _ h)

theorem execCoreZeroingDone_keeps {c : CoreId} {B0 s : State} (h : keeps B0 s) :
    completes (execCoreZeroingDone c s) (keeps B0) := by
  unfold execCoreZeroingDone
  repeat' (first | with_reducible (first | assumption | apply keepsNext | apply State.modCore_keeps | apply State.startHart_keeps
                                         | apply State.loadAdj_keeps) | (with_reducible refine keeps_foldl _ (fun _ _ _ => ?_) ?_) | split
                                         | dsimp only)

/-! ### Engine -/

theorem execDescStart_keeps {c : CoreId} {e : EngId} {B0 s : State} (h : keeps B0 s) :
    completes (execDescStart c e s) (keeps B0) := by
  unfold execDescStart
  repeat' (first | with_reducible (first | assumption | apply keepsNext | apply State.modCore_keeps | apply State.queueFreed_keeps
                                         | apply State.descStatus_keeps | apply State.misuse_keeps | apply State.engResult_keeps
                                         | apply State.engRun_keeps) | split | dsimp only
                                         | fail_if_no_progress with_reducible apply keeps_mk)

theorem execCollatorTake_keeps {c : CoreId} {e : EngId} {B0 s : State} (h : keeps B0 s) :
    completes (execCollatorTake c e s) (keeps B0) := by
  unfold execCollatorTake
  repeat' (first | with_reducible (first | assumption | apply keepsNext | apply State.engRun_keeps | apply State.waitUpTo_keeps
                                         | apply State.takeOldest_keeps) | split | dsimp only
                                         | fail_if_no_progress with_reducible apply keeps_mk)

theorem execDescComplete_keeps {c : CoreId} {e : EngId} {B0 s : State} (h : keeps B0 s) :
    completes (execDescComplete c e s) (keeps B0) := by
  unfold execDescComplete
  repeat' (first | with_reducible (first | assumption | apply keepsNext | apply State.engRun_keeps | apply State.colSummary_keeps
                                         | apply State.bump_keeps | apply State.engCycles_keeps | apply State.descRecord_keeps
                                         | apply State.modCore_keeps | apply State.descStatus_keeps | apply State.descFault_keeps) | split
                                         | dsimp only)

/-! ### Collator -/

theorem execListSeal_keeps {c : CoreId} {l : ListId} {B0 s : State} (h : keeps B0 s) :
    completes (execListSeal c l s) (keeps B0) := by
  unfold execListSeal
  repeat' (first | with_reducible (first | assumption | apply keepsNext | apply State.misuse_keeps | apply State.writeScr_keeps
                                         | apply State.modCore_keeps | apply State.bump_keeps | apply State.bulkSeal_keeps
                                         | apply State.gsig_keeps | apply State.reopen_keeps | apply State.tryFree_keeps) | split
                                         | dsimp only)

theorem execCollatorCommit_keeps {f : Fn} {c : CoreId} {B0 s : State} (h : keeps B0 s) :
    completes (execCollatorCommit f c s) (keeps B0) := by
  unfold execCollatorCommit
  repeat' (first | with_reducible (first | assumption | apply keepsNext | apply State.access_keeps | apply State.commit_keeps)
                                         | apply keeps_id)

theorem execGroupFreeReport_keeps {c : CoreId} {B0 s : State} (h : keeps B0 s) :
    completes (execGroupFreeReport c s) (keeps B0) := by
  unfold execGroupFreeReport
  repeat' (first | with_reducible (first | assumption | apply keepsNext | apply State.modCore_keeps | apply State.layerLost_keeps
                                         | apply State.shardDone_keeps) | split | dsimp only)

theorem execMergeRequest_keeps {B0 s : State} (h : keeps B0 s) : completes (execMergeRequest s) (keeps B0) := by
  unfold execMergeRequest
  split
  · exact keepsNext h
  · extract_lets s0 srcs a outOk code out n s1
    have hs0 : keeps B0 s0 := State.nextMerge_keeps s _ h
    split
    · exact keepsNext hs0
    · have ha : keeps B0 a.1 := State.checkSrcs_keeps _ _ _ hs0
      have hs1 : keeps B0 s1 := State.bump_keeps _ _ _ (State.bump_keeps _ _ _ (State.bump_keeps _ _ _ (State.bump_keeps _ _ _ ha)))
      clear_value s1 out code a
      split
      · exact keepsNext (State.modQuery_keeps _ _ _ (State.failQuery_keeps _ _ _ (State.bump_keeps _ _ _ ha)))
      · split
        · exact keepsNext (State.loswProg_keeps _ _ _ _ (State.devWrite_keeps _ _ _ _ _ hs1))
        · exact keepsNext (State.mergeNext_keeps _ _ (State.modQuery_keeps _ _ _ hs1))

end Sys2Proof.Machine
end

section
/-! SUPPORT. What the commands of the tiers, the Desk, the archive, the link, the host ports and the service processor keep (O57, O58, O59). -/

namespace Sys2Proof.Machine

/-! ### Tier -/

theorem execTierRead_keeps {i : Nat} {line : Nat} {errs : Nat} {B0 s : State} (h : keeps B0 s) :
    completes (execTierRead i line errs s) (keeps B0) := by
  unfold execTierRead
  repeat' (first | with_reducible (first | assumption | apply keepsNext | apply State.reach_keeps | apply State.translateAll_keeps
                                         | apply State.lineCame_keeps | apply State.failMap_keeps | apply State.poisonRead_keeps
                                         | apply State.setReq_keeps | apply State.queueWait_keeps | apply State.serveLine_keeps) | split
                                         | dsimp only)

theorem execTierWrite_keeps {i : Nat} {line : Nat} {B0 s : State} (h : keeps B0 s) :
    completes (execTierWrite i line s) (keeps B0) := by
  unfold execTierWrite
  repeat' (first | with_reducible (first | assumption | apply keepsNext | apply State.reach_keeps | apply State.queueWait_keeps
                                         | apply State.yieldLines_keeps | apply State.writeReqLines_keeps)
                                         | (with_reducible refine keeps_foldl _ (fun _ _ _ => ?_) ?_) | split | dsimp only)

theorem execTierAtom_keeps {i : Nat} {errs : Nat} {B0 s : State} (h : keeps B0 s) :
    completes (execTierAtom i errs s) (keeps B0) := by
  unfold execTierAtom
  split
  · exact keepsNext h
  case _ r _ =>
    have htranslated := State.translateAll_keeps s r.part r.addr 8 h
    have hread := State.readUnits_keeps _ r.part r.addr 8 htranslated
    extract_lets piece s0 t lost s1 s2 d v s3
    have hs1 : keeps B0 s1 := by
      simp only [s1]
      repeat' (first | with_reducible (first | assumption | apply State.meterAdd_keeps | apply State.lineRead_keeps
                                             | apply State.yieldAt_keeps | apply State.reportLoc_keeps) | split)
    have hs2 : keeps B0 s2 := State.countAccess_keeps _ _ _ _ hs1
    have hs3 : keeps B0 s3 := by
      simp only [s3]
      split
      · exact State.writeLine_keeps _ _ _ _ _ (State.countDrops_keeps _ _ _ _ hs2)
      · exact hs2
    clear_value piece s3 s2
    split
    · exact keepsNext h
    · split
      · exact keepsNext (State.queueWait_keeps _ _ _ h)
      · split
        · refine keepsNext (State.setReq_keeps _ _ _ (State.poisonRead_keeps _ _ ?_))
          split
          · exact State.failMap_keeps _ _ hs2
          · exact hs2
        · exact keepsNext (State.fillStripes_keeps _ _ _ (State.setReq_keeps _ _ _ hs3))

theorem execScrubRead_keeps {g : PieceId} {line : Nat} {errs : Nat} {B0 s : State} (h : keeps B0 s) :
    completes (execScrubRead g line errs s) (keeps B0) := by
  unfold execScrubRead
  repeat' (first | with_reducible (first | assumption | apply keepsNext | apply State.scrubWindow_keeps | apply State.yieldAt_keeps
                                         | apply State.bump_keeps | apply State.lineRead_keeps) | split)

theorem execPieceZeroingDone_keeps {g : PieceId} {B0 s : State} (h : keeps B0 s) :
    completes (execPieceZeroingDone g s) (keeps B0) := by
  unfold execPieceZeroingDone
  repeat' (first | with_reducible (first | assumption | apply keepsNext | apply State.zeroed_keeps) | split)

theorem execMigrationPeriod_keeps {p : PartId} {B0 s : State} (h : keeps B0 s) :
    completes (execMigrationPeriod p s) (keeps B0) := by
  unfold execMigrationPeriod
  repeat' (first | with_reducible (first | assumption | apply keepsNext | apply State.modTp_keeps | apply State.nextMove_keeps) | split)

theorem execMoveCopyDone_keeps {p : PartId} {B0 s : State} (h : keeps B0 s) : completes (execMoveCopyDone p s) (keeps B0) := by
  unfold execMoveCopyDone
  repeat' (first | with_reducible (first | assumption | apply keepsNext | apply State.abandonMove_keeps | apply State.commitMove_keeps
                                         | apply State.modTp_keeps | apply State.putMap_keeps | apply State.afterMove_keeps) | split
                                         | dsimp only | fail_if_no_progress with_reducible apply keeps_mk)

theorem execMigrationBatch_keeps {f : Fn} {p : PartId} {o : SlotId} {B0 s : State} (h : keeps B0 s) :
    completes (execMigrationBatch f p o s) (keeps B0) := by
  unfold execMigrationBatch
  repeat' (first | with_reducible (first | assumption | apply keepsNext | apply State.access_keeps | apply State.lopStart_keeps
                                         | apply State.loswFail_keeps | apply State.devRead_keeps | apply State.loswRun_keeps
                                         | apply State.modTp_keeps | apply State.afterMove_keeps) | split | (intro _ _ _) | dsimp only)

theorem execTierCommit_keeps {f : Fn} {B0 s : State} (h : keeps B0 s) : completes (execTierCommit f s) (keeps B0) := by
  unfold execTierCommit
  repeat' (first | with_reducible (first | assumption | apply keepsNext | apply State.access_keeps | apply State.commit_keeps
                                         | apply State.newMap_keeps) | (with_reducible refine keeps_foldl _ (fun _ _ _ => ?_) ?_)
                                         | (intro _ _))

theorem execBar2Read_keeps {f : Fn} {x : BitVec 36} {n : Nat} {B0 s : State} (h : keeps B0 s) :
    completes (execBar2Read f x n s) (keeps B0) := by
  unfold execBar2Read
  repeat' (first | with_reducible (first | assumption | apply keepsNext | apply State.devRead_keeps) | split
                                         | fail_if_no_progress with_reducible apply keeps_mk)

theorem execBar2Write_keeps {f : Fn} {x : BitVec 36} {data : List Byte} {B0 s : State} (h : keeps B0 s) :
    completes (execBar2Write f x data s) (keeps B0) := by
  unfold execBar2Write
  repeat' (first | with_reducible (first | assumption | apply keepsNext | apply State.bump_keeps | apply State.devWrite_keeps) | split)

/-! ### Archive -/

theorem execArchiveWrite_keeps {i : Nat} {line : Nat} {B0 s : State} (h : keeps B0 s) :
    completes (execArchiveWrite i line s) (keeps B0) := by
  unfold execArchiveWrite
  repeat' (first | with_reducible (first | assumption | apply keepsNext | apply State.reach_keeps | apply State.queueWait_keeps
                                         | apply State.waitCycles_keeps | apply State.countDrops_keeps | apply State.t2Seen_keeps
                                         | apply State.writeReqLines_keeps | apply State.fillStripes_keeps)
                                         | (with_reducible refine keeps_foldl _ (fun _ _ _ => ?_) ?_) | split | dsimp only)

theorem execStripeCloseExpiry_keeps {p : PartId} {B0 s : State} (h : keeps B0 s) :
    completes (execStripeCloseExpiry p s) (keeps B0) := by
  unfold execStripeCloseExpiry
  repeat' (first | with_reducible (first | assumption | apply keepsNext | apply State.fillStripes_keeps) | split)

theorem execStripeProgramDone_keeps {p : PartId} {fails : List Nat} {B0 s : State} (h : keeps B0 s) :
    completes (execStripeProgramDone p fails s) (keeps B0) :=
  keepsNext (State.programEnd_keeps _ _ _ h)

theorem execJournalCloseExpiry_keeps {p : PartId} {B0 s : State} (h : keeps B0 s) :
    completes (execJournalCloseExpiry p s) (keeps B0) := by
  unfold execJournalCloseExpiry
  repeat' (first | with_reducible (first | assumption | apply keepsNext | apply State.modNs_keeps) | split)

theorem execCheckpointRound_keeps {p : PartId} {B0 s : State} (h : keeps B0 s) :
    completes (execCheckpointRound p s) (keeps B0) := by
  unfold execCheckpointRound
  repeat' (first | with_reducible (first | assumption | apply keepsNext | apply State.ckptRound_keeps | apply State.modNs_keeps
                                         | apply State.fillStripes_keeps) | split)

theorem execJournalProgramDone_keeps {p : PartId} {B0 s : State} (h : keeps B0 s) : completes (execJournalProgramDone p s) (keeps B0) :=
  keepsNext (State.journalEnd_keeps _ _ h)

theorem execArchiveRead_keeps {i : Nat} {unit : Nat} {B0 s : State} (h : keeps B0 s) :
    completes (execArchiveRead i unit s) (keeps B0) := by
  unfold execArchiveRead
  repeat' (first | with_reducible (first | assumption | apply keepsNext | apply State.reach_keeps | apply State.translateAll_keeps
                                         | apply State.gotNothing_keeps | apply State.queueWait_keeps | apply State.t2Seen_keeps
                                         | apply State.mapLook_keeps | apply State.gotUnit_keeps) | split | dsimp only)

theorem execCodewordReadDone_keeps {i : Nat} {unit : Nat} {q : CwOutcome} {B0 s : State} (h : keeps B0 s) :
    completes (execCodewordReadDone i unit q s) (keeps B0) := by
  unfold execCodewordReadDone
  repeat' (first | with_reducible (first | assumption | apply keepsNext | apply State.reach_keeps | apply State.flashRead_keeps
                                         | apply State.gotUnit_keeps) | split | dsimp only)

theorem execCollectionIdleExpiry_keeps {p : PartId} {B0 s : State} (h : keeps B0 s) :
    completes (execCollectionIdleExpiry p s) (keeps B0) := by
  unfold execCollectionIdleExpiry
  repeat' (first | with_reducible (first | assumption | apply keepsNext | apply State.modNs_keeps) | split)

theorem execCollect_keeps {p : PartId} {bad : List Nat} {B0 s : State} (h : keeps B0 s) :
    completes (execCollect p bad s) (keeps B0) := by
  unfold execCollect
  repeat' (first | with_reducible (first | assumption | apply keepsNext | apply State.setVictim_keeps | apply State.modNs_keeps
                                         | apply State.fillStripes_keeps | apply State.colRead_keeps | apply State.enter_keeps)
                                         | (with_reducible refine keeps_foldl _ (fun _ _ _ => ?_) ?_) | split | dsimp only)

theorem execEraseDone_keeps {p : PartId} {fails : List Nat} {B0 s : State} (h : keeps B0 s) :
    completes (execEraseDone p fails s) (keeps B0) := by
  unfold execEraseDone
  repeat' (first | with_reducible (first | assumption | apply keepsNext | apply State.formatRow_keeps | apply State.eraseEnd_keeps) | split)

theorem execDiscard_keeps {f : Fn} {p : PartId} {o : SlotId} {B0 s : State} (h : keeps B0 s) :
    completes (execDiscard f p o s) (keeps B0) := by
  unfold execDiscard
  repeat' (first | with_reducible (first | assumption | apply keepsNext | apply State.access_keeps | apply State.discardOp_keeps))

theorem execSecureDiscard_keeps {f : Fn} {p : PartId} {o : SlotId} {B0 s : State} (h : keeps B0 s) :
    completes (execSecureDiscard f p o s) (keeps B0) := by
  unfold execSecureDiscard
  repeat' (first | with_reducible (first | assumption | apply keepsNext | apply State.access_keeps | apply State.discardOp_keeps))

theorem execDiscardAccept_keeps {p : PartId} {B0 s : State} (h : keeps B0 s) : completes (execDiscardAccept p s) (keeps B0) := by
  unfold execDiscardAccept
  repeat' (first | with_reducible (first | assumption | apply keepsNext | apply State.modNs_keeps | apply State.closeSb_keeps
                                         | apply State.flushDone_keeps | apply State.loswRun_keeps | apply State.discardArea_keeps
                                         | apply State.discardEnd_keeps | apply State.fillStripes_keeps)
                                         | (with_reducible refine keeps_foldl _ (fun _ _ _ => ?_) ?_) | split | dsimp only)

theorem execCollectionFlush_keeps {f : Fn} {p : PartId} {o : SlotId} {B0 s : State} (h : keeps B0 s) :
    completes (execCollectionFlush f p o s) (keeps B0) := by
  unfold execCollectionFlush
  repeat' (first | with_reducible (first | assumption | apply keepsNext | apply State.access_keeps | apply State.lopStart_keeps
                                         | apply State.loswFail_keeps | apply State.loswRun_keeps | apply State.loswDone_keeps
                                         | apply State.modNs_keeps | apply State.fillStripes_keeps) | split | (intro _ _ _))

theorem execFlashFormat_keeps {f : Fn} {p : PartId} {o : SlotId} {B0 s : State} (h : keeps B0 s) :
    completes (execFlashFormat f p o s) (keeps B0) := by
  unfold execFlashFormat
  repeat' (first | with_reducible (first | assumption | apply keepsNext | apply State.access_keeps | apply State.lopStart_keeps
                                         | apply State.loswFail_keeps | apply State.modNs_keeps | apply State.loswRun_keeps)
                                         | (with_reducible refine keeps_foldl _ (fun _ _ _ => ?_) ?_) | split | (intro _ _ _) | dsimp only
                                         | fail_if_no_progress with_reducible apply keeps_mk)

theorem execArchiveCommit_keeps {f : Fn} {B0 s : State} (h : keeps B0 s) : completes (execArchiveCommit f s) (keeps B0) := by
  unfold execArchiveCommit
  repeat' (first | with_reducible (first | assumption | apply keepsNext | apply State.access_keeps | apply State.commit_keeps)
                                         | apply keeps_id)

/-! ### Expander -/

theorem execExpanderBlockDecode_keeps {i : Nat} {b : Nat} {B0 s : State} (h : keeps B0 s) :
    completes (execExpanderBlockDecode i b s) (keeps B0) := by
  unfold execExpanderBlockDecode
  repeat' (first | with_reducible (first | assumption | apply keepsNext | apply State.countDecode_keeps | apply State.escapeStall_keeps
                                         | apply State.modExp_keeps | apply State.setReq_keeps) | split | dsimp only)

theorem execExpanderBlockEncode_keeps {i : Nat} {b : Nat} {B0 s : State} (h : keeps B0 s) :
    completes (execExpanderBlockEncode i b s) (keeps B0) := by
  unfold execExpanderBlockEncode
  repeat' (first | with_reducible (first | assumption | apply keepsNext | apply State.reach_keeps | apply State.modExp_keeps
                                         | apply State.setReq_keeps | apply State.bump_keeps | apply State.writeScr_keeps) | split
                                         | dsimp only | fail_if_no_progress with_reducible apply keeps_mk)

theorem execMouldTableLoad_keeps {f : Fn} {p : PartId} {o : SlotId} {B0 s : State} (h : keeps B0 s) :
    completes (execMouldTableLoad f p o s) (keeps B0) := by
  unfold execMouldTableLoad
  repeat' (first | with_reducible (first | assumption | apply keepsNext | apply State.access_keeps | apply State.lopStart_keeps
                                         | apply State.loswFail_keeps | apply State.devRead_keeps | apply State.loswRun_keeps
                                         | apply State.devWrite_keeps | apply State.setMload_keeps) | split | (intro _ _ _) | dsimp only)

theorem execMouldInstall_keeps {p : PartId} {B0 s : State} (h : keeps B0 s) : completes (execMouldInstall p s) (keeps B0) := by
  unfold execMouldInstall
  repeat' (first | with_reducible (first | assumption | apply keepsNext | apply State.devWrite_keeps | apply State.setMload_keeps
                                         | apply State.loswFail_keeps | apply State.modExp_keeps | apply State.bump_keeps
                                         | apply State.loswProg_keeps | apply State.loswDone_keeps) | split | dsimp only)

theorem execMouldOwnerWrite_keeps {f : Fn} {x : ExpId} {q : Fin 4} {v : Word} {B0 s : State} (h : keeps B0 s) :
    completes (execMouldOwnerWrite f x q v s) (keeps B0) := by
  unfold execMouldOwnerWrite
  repeat' (first | with_reducible (first | assumption | apply keepsNext | apply State.access_keeps | apply State.mouldOwners_keeps) | split
                                         | dsimp only)

theorem execExpanderCommit_keeps {f : Fn} {x : ExpId} {B0 s : State} (h : keeps B0 s) :
    completes (execExpanderCommit f x s) (keeps B0) := by
  unfold execExpanderCommit
  repeat' (first | with_reducible (first | assumption | apply keepsNext | apply State.access_keeps | apply State.commit_keeps)
                                         | apply keeps_id)

/-! ### Carrel -/

theorem execCarrelRingPoll_keeps {m : ModId} {B0 s : State} (h : keeps B0 s) : completes (execCarrelRingPoll m s) (keeps B0) := by
  unfold execCarrelRingPoll
  repeat' (first | with_reducible (first | assumption | apply keepsNext | apply State.carTake_keeps | apply State.carNext_keeps) | split
                                         | dsimp only)

theorem execScan_keeps {m : ModId} {bad : List Nat} {corr : Nat} {B0 s : State} (h : keeps B0 s) :
    completes (execScan m bad corr s) (keeps B0) :=
  keepsNext (State.carRun_keeps _ _ _ _ _ h)

theorem execSelect_keeps {m : ModId} {bad : List Nat} {corr : Nat} {B0 s : State} (h : keeps B0 s) :
    completes (execSelect m bad corr s) (keeps B0) :=
  keepsNext (State.carRun_keeps _ _ _ _ _ h)

theorem execRowsum_keeps {m : ModId} {bad : List Nat} {corr : Nat} {B0 s : State} (h : keeps B0 s) :
    completes (execRowsum m bad corr s) (keeps B0) :=
  keepsNext (State.carRun_keeps _ _ _ _ _ h)

theorem execCarrelComplete_keeps {m : ModId} {B0 s : State} (h : keeps B0 s) : completes (execCarrelComplete m s) (keeps B0) := by
  unfold execCarrelComplete
  repeat' (first | with_reducible (first | assumption | apply keepsNext | apply State.carReport_keeps | apply State.winQueue_keeps
                                         | apply State.meterAdd_keeps | apply State.carFinish_keeps | apply State.modCar_keeps
                                         | apply State.carNext_keeps) | (with_reducible refine keeps_foldl _ (fun _ _ _ => ?_) ?_) | split)

theorem execCarrelCancel_keeps {m : ModId} {q : Nat} {B0 s : State} (h : keeps B0 s) : completes (execCarrelCancel m q s) (keeps B0) :=
  keepsNext (State.carCancel_keeps _ _ _ h)

theorem execCarrelEnableWrite_keeps {f : Fn} {m : ModId} {v : Word} {B0 s : State} (h : keeps B0 s) :
    completes (execCarrelEnableWrite f m v s) (keeps B0) := by
  unfold execCarrelEnableWrite
  repeat' (first | with_reducible (first | assumption | apply keepsNext | apply State.access_keeps | apply State.setReg_keeps) | split
                                         | dsimp only)

theorem execCarrelCommit_keeps {f : Fn} {m : ModId} {B0 s : State} (h : keeps B0 s) :
    completes (execCarrelCommit f m s) (keeps B0) := by
  unfold execCarrelCommit
  repeat' (first | with_reducible (first | assumption | apply keepsNext | apply State.access_keeps | apply State.commit_keeps
                                         | apply State.carHead_keeps) | split | (intro _ _) | dsimp only)

/-! ### Gather -/

theorem execGatherRingPoll_keeps {p : PartId} {B0 s : State} (h : keeps B0 s) :
    completes (execGatherRingPoll p s) (keeps B0) := by
  unfold execGatherRingPoll
  repeat' (first | with_reducible (first | assumption | apply keepsNext | apply State.guTake_keeps) | split)

theorem execLookup_keeps {p : PartId} {B0 s : State} (h : keeps B0 s) : completes (execLookup p s) (keeps B0) := by
  unfold execLookup
  split
  · repeat' (first | with_reducible (first | assumption | apply keepsNext | apply State.guDone_keeps | apply State.scatter_keeps) | split)
  · split
    · exact keepsNext (State.guIdle_keeps _ _ _ h)
    · have hs0 := State.guStart_keeps _ _ _ (by assumption) h
      repeat' (first | with_reducible (first | assumption | apply keepsNext | apply State.guDone_keeps | apply State.scatter_keeps
                                             | apply State.modGu_keeps | apply State.fetchRows_keeps | apply State.guBump_keeps
                                             | apply State.devRead_keeps | refine keeps_foldl _ (fun _ _ _ => ?_) ?_) | split | dsimp only)

theorem execUpdate_keeps {p : PartId} {B0 s : State} (h : keeps B0 s) : completes (execUpdate p s) (keeps B0) := by
  unfold execUpdate
  split
  · repeat' (first | with_reducible (first | assumption | apply keepsNext | apply State.guDone_keeps | apply State.applyBatch_keeps)
                                           | split)
  · split
    · exact keepsNext (State.guIdle_keeps _ _ _ h)
    · have hs0 := State.guStart_keeps _ _ _ (by assumption) h
      repeat' (first | with_reducible (first | assumption | apply keepsNext | apply State.guDone_keeps | apply State.applyBatch_keeps
                                             | apply State.modGu_keeps | apply State.fetchRows_keeps | apply State.guBump_keeps
                                             | apply State.devRead_keeps) | split | dsimp only)

theorem execGatherBatchComplete_keeps {p : PartId} {B0 s : State} (h : keeps B0 s) :
    completes (execGatherBatchComplete p s) (keeps B0) := by
  unfold execGatherBatchComplete
  repeat' (first | with_reducible (first | assumption | apply keepsNext | apply State.guFinish_keeps | apply State.modGu_keeps) | split)

theorem execRowReq_keeps {B0 s : State} (h : keeps B0 s) : completes (execRowReq s) (keeps B0) := by
  unfold execRowReq
  repeat' (first | with_reducible (first | assumption | apply keepsNext | apply State.sendMsg_keeps | apply State.fetchRow_keeps) | split
                                         | dsimp only | fail_if_no_progress with_reducible apply keeps_mk)

theorem execRowData_keeps {B0 s : State} (h : keeps B0 s) : completes (execRowData s) (keeps B0) := by
  unfold execRowData
  repeat' (first | with_reducible (first | assumption | apply keepsNext | apply State.modGu_keeps) | split | dsimp only
                                         | fail_if_no_progress with_reducible apply keeps_mk)

theorem execGradientApply_keeps {B0 s : State} (h : keeps B0 s) : completes (execGradientApply s) (keeps B0) := by
  unfold execGradientApply
  repeat' (first | with_reducible (first | assumption | apply keepsNext | apply State.modGu_keeps | apply State.guBump_keeps
                                         | apply State.applyRow_keeps) | split | dsimp only
                                         | fail_if_no_progress with_reducible apply keeps_mk)

theorem execHotPeriodExpiry_keeps {g : GuId} {B0 s : State} (h : keeps B0 s) :
    completes (execHotPeriodExpiry g s) (keeps B0) := by
  unfold execHotPeriodExpiry
  repeat' (first | with_reducible (first | assumption | apply keepsNext | apply State.modGu_keeps)
                                         | (with_reducible refine keeps_foldl _ (fun _ _ _ => ?_) ?_))

theorem execTableReplace_keeps {f : Fn} {p : PartId} {o : SlotId} {B0 s : State} (h : keeps B0 s) :
    completes (execTableReplace f p o s) (keeps B0) := by
  unfold execTableReplace
  repeat' (first | with_reducible (first | assumption | apply keepsNext | apply State.access_keeps | apply State.lopStart_keeps
                                         | apply State.loswFail_keeps | apply State.devRead_keeps | apply State.copyExtent_keeps
                                         | apply State.loswRun_keeps | apply State.loswProg_keeps | apply State.modGu_keeps)
                                         | (with_reducible refine keeps_foldl _ (fun _ _ _ => ?_) ?_) | split | (intro _ _ _) | dsimp only)

theorem execTableReplaceCommit_keeps {p : PartId} {B0 s : State} (h : keeps B0 s) :
    completes (execTableReplaceCommit p s) (keeps B0) := by
  unfold execTableReplaceCommit
  repeat' (first | with_reducible (first | assumption | apply keepsNext | apply State.modGu_keeps | apply State.loswProg_keeps
                                         | apply State.loswDone_keeps) | split | dsimp only
                                         | fail_if_no_progress with_reducible apply keeps_mk)

theorem execTableHoldExpiry_keeps {p : PartId} {B0 s : State} (h : keeps B0 s) :
    completes (execTableHoldExpiry p s) (keeps B0) := by
  unfold execTableHoldExpiry
  repeat' (first | with_reducible (first | assumption | apply keepsNext | apply State.modGu_keeps | apply State.guFinish_keeps
                                         | apply State.guBump_keeps) | split | dsimp only)

theorem execGuCommit_keeps {f : Fn} {g : GuId} {B0 s : State} (h : keeps B0 s) : completes (execGuCommit f g s) (keeps B0) := by
  unfold execGuCommit
  repeat' (first | with_reducible (first | assumption | apply keepsNext | apply State.access_keeps | apply State.commit_keeps
                                         | apply State.loswAbort_keeps | apply State.guReset_keeps | apply State.modGu_keeps
                                         | apply State.devRead_keeps) | (with_reducible refine keeps_foldl _ (fun _ _ _ => ?_) ?_) | split
                                         | (intro _ _) | dsimp only)

/-! ### Index -/

theorem execPublishSample_keeps {p : PartId} {B0 s : State} (h : keeps B0 s) : completes (execPublishSample p s) (keeps B0) := by
  unfold execPublishSample
  repeat' (first | with_reducible (first | assumption | apply keepsNext | apply State.devRead_keeps | apply State.readLog_keeps
                                         | apply State.syncTombs_keeps | apply State.modDk_keeps | apply State.logEv_keeps
                                         | apply State.bump_keeps) | (with_reducible refine keeps_foldl _ (fun _ _ _ => ?_) ?_) | split
                                         | dsimp only)

theorem execPublishPointWrite_keeps {p : PartId} {B0 s : State} (h : keeps B0 s) :
    completes (execPublishPointWrite p s) (keeps B0) := by
  unfold execPublishPointWrite
  repeat' (first | with_reducible (first | assumption | apply keepsNext | apply State.modDk_keeps | apply State.putRoot_keeps) | split)

theorem execIndexSnapshotCommit_keeps {f : Fn} {p : PartId} {o : SlotId} {B0 s : State} (h : keeps B0 s) :
    completes (execIndexSnapshotCommit f p o s) (keeps B0) := by
  unfold execIndexSnapshotCommit
  repeat' (first | with_reducible (first | assumption | apply keepsNext | apply State.access_keeps | apply State.lopStart_keeps
                                         | apply State.loswFail_keeps | apply State.devRead_keeps | apply State.degreeOk_keeps
                                         | apply State.loswRun_keeps | apply State.persistAll_keeps | apply State.modDk_keeps) | split
                                         | (intro _ _ _) | dsimp only)

theorem execSnapshotPublish_keeps {p : PartId} {B0 s : State} (h : keeps B0 s) :
    completes (execSnapshotPublish p s) (keeps B0) := by
  unfold execSnapshotPublish
  repeat' (first | with_reducible (first | assumption | apply keepsNext | apply State.loswProg_keeps | apply State.modDk_keeps
                                         | apply State.loswFail_keeps | apply State.devWrite_keeps | apply State.putRoot_keeps
                                         | apply State.loadAdj_keeps | apply State.modCore_keeps | apply State.loswDone_keeps
                                         | apply State.repin_keeps) | (with_reducible refine keeps_foldl _ (fun _ _ _ => ?_) ?_) | split
                                         | dsimp only)

theorem execPrefetchFill_keeps {i : Nat} {B0 s : State} (h : keeps B0 s) : completes (execPrefetchFill i s) (keeps B0) := by
  unfold execPrefetchFill
  repeat' (first | with_reducible (first | assumption | apply keepsNext | apply State.setReq_keeps | apply State.modCore_keeps
                                         | apply State.tagFreed_keeps) | split)

theorem execPrefetchServe_keeps {c : CoreId} {k : Nat} {B0 s : State} (h : keeps B0 s) :
    completes (execPrefetchServe c k s) (keeps B0) := by
  unfold execPrefetchServe
  repeat' (first | with_reducible (first | assumption | apply keepsNext | apply State.modCore_keeps | apply State.readDone_keeps) | split)

/-! ### Admit -/

theorem execWorkItemRelease_keeps {c : CoreId} {B0 s : State} (h : keeps B0 s) :
    completes (execWorkItemRelease c s) (keeps B0) := by
  unfold execWorkItemRelease
  repeat' (first | with_reducible (first | assumption | apply keepsNext | apply State.modDk_keeps | apply State.modCore_keeps
                                         | apply State.wakeUnit_keeps) | split)

theorem execReserveRefill_keeps {B0 s : State} (h : keeps B0 s) : completes (execReserveRefill s) (keeps B0) := by
  unfold execReserveRefill
  repeat' (first | with_reducible (first | assumption | apply keepsNext | apply State.modDk_keeps)
                                         | (with_reducible refine keeps_foldl _ (fun _ _ _ => ?_) ?_))

theorem execRingPoll_keeps {p : PartId} {B0 s : State} (h : keeps B0 s) : completes (execRingPoll p s) (keeps B0) := by
  unfold execRingPoll
  repeat' (first | with_reducible (first | assumption | apply keepsNext | apply State.ringTake_keeps) | split)

theorem execAdmit_keeps {B0 s : State} (h : keeps B0 s) : completes (execAdmit s) (keeps B0) := by
  unfold execAdmit
  dsimp only
  split
  · exact keepsNext h
  case _ k t r heq =>
    obtain ⟨d, -, hd⟩ := List.mem_filterMap.1 (heq ▸ List.mem_cons_self : (k, t) ∈ _)
    obtain ⟨u, hu, hkt⟩ := Option.map_eq_some_iff.1 hd
    cases hkt
    exact keepsNext (State.modDesk_keeps _ _ (State.turn_keeps s _ hu h))

theorem execQueryStageAdvance_keeps {q : Nat} {B0 s : State} (h : keeps B0 s) :
    completes (execQueryStageAdvance q s) (keeps B0) := by
  unfold execQueryStageAdvance
  repeat' (first | with_reducible (first | assumption | apply keepsNext | apply State.startStage_keeps) | split)

theorem execQueryComplete_keeps {q : Nat} {B0 s : State} (h : keeps B0 s) : completes (execQueryComplete q s) (keeps B0) := by
  unfold execQueryComplete
  repeat' (first | with_reducible (first | assumption | apply keepsNext | apply State.endFailed_keeps | apply State.endOk_keeps) | split)

theorem execBulkScan_keeps {f : Fn} {p : PartId} {o : SlotId} {B0 s : State} (h : keeps B0 s) :
    completes (execBulkScan f p o s) (keeps B0) := by
  unfold execBulkScan
  repeat' (first | with_reducible (first | assumption | apply keepsNext | apply State.access_keeps | apply State.lopStart_keeps
                                         | apply State.loswFail_keeps | apply State.enterQuery_keeps | apply State.loswRun_keeps) | split
                                         | (intro _ _ _) | dsimp only)

/-! ### Models -/

theorem execModelStepStart_keeps {p : PartId} {B0 s : State} (h : keeps B0 s) :
    completes (execModelStepStart p s) (keeps B0) := by
  unfold execModelStepStart
  repeat' (first | with_reducible (first | assumption | apply keepsNext | apply State.modDk_keeps | apply State.failStep_keeps
                                         | apply State.bump_keeps | apply State.readWeights_keeps) | split | dsimp only
                                         | fail_if_no_progress with_reducible apply keeps_mk)

theorem execLayerStart_keeps {p : PartId} {B0 s : State} (h : keeps B0 s) : completes (execLayerStart p s) (keeps B0) := by
  unfold execLayerStart
  repeat' (first | with_reducible (first | assumption | apply keepsNext | apply State.boundary_keeps | apply State.failStep_keeps
                                         | apply State.endStep_keeps) | split)

theorem execGenerativeRound_keeps {p : PartId} {B0 s : State} (h : keeps B0 s) :
    completes (execGenerativeRound p s) (keeps B0) := by
  unfold execGenerativeRound
  repeat' (first | with_reducible (first | assumption | apply keepsNext | apply State.readyStep_keeps) | split | dsimp only)

/-! ### Owner -/

theorem execOwnershipOp_keeps {r : Option OwnReq} {B0 s : State} (h : keeps B0 s) :
    completes (execOwnershipOp r s) (keeps B0) := by
  unfold execOwnershipOp
  repeat' (first | with_reducible (first | assumption | apply keepsNext | apply State.ownOp_keeps | apply State.ownOut_keeps
                                         | apply State.modDesk_keeps | apply State.sendMsg_keeps) | split
                                         | fail_if_no_progress with_reducible apply keeps_mk)

theorem execStateReplyReceive_keeps {B0 s : State} (h : keeps B0 s) : completes (execStateReplyReceive s) (keeps B0) := by
  unfold execStateReplyReceive
  repeat' (first | with_reducible (first | assumption | apply keepsNext | apply State.modDesk_keeps | apply State.ownOut_keeps) | split
                                         | dsimp only)

theorem execHandoffSweep_keeps {B0 s : State} (h : keeps B0 s) : completes (execHandoffSweep s) (keeps B0) := by
  unfold execHandoffSweep
  repeat' (first | with_reducible (first | assumption | apply keepsNext | apply State.sweep_keeps)
                                         | (with_reducible refine keeps_foldl _ (fun _ _ _ => ?_) ?_))

theorem execStateClaim_keeps {f : Fn} {p : PartId} {o : SlotId} {B0 s : State} (h : keeps B0 s) :
    completes (execStateClaim f p o s) (keeps B0) := by
  unfold execStateClaim
  repeat' (first | with_reducible (first | assumption | apply keepsNext | apply State.access_keeps | apply State.lopStart_keeps
                                         | apply State.loswFail_keeps | apply State.loswRun_keeps | apply State.devRead_keeps
                                         | apply State.setOwn_keeps | apply State.loswProg_keeps | apply State.loswDone_keeps) | split
                                         | (intro _ _ _) | dsimp only)

/-! ### DeskCfg -/

theorem execDeskCommit_keeps {f : Fn} {p : PartId} {B0 s : State} (h : keeps B0 s) :
    completes (execDeskCommit f p s) (keeps B0) := by
  unfold execDeskCommit
  repeat' (first | with_reducible (first | assumption | apply keepsNext | apply State.access_keeps | apply State.devRead_keeps
                                         | apply State.setField_keeps | apply State.setErr_keeps | apply State.setForce_keeps
                                         | apply State.modDk_keeps) | (with_reducible refine keeps_foldl _ (fun _ _ _ => ?_) ?_) | split
                                         | dsimp only)

theorem execDeskConfigEffect_keeps {p : PartId} {B0 s : State} (h : keeps B0 s) :
    completes (execDeskConfigEffect p s) (keeps B0) := by
  unfold execDeskConfigEffect
  repeat' (first | with_reducible (first | assumption | apply keepsNext | apply State.setForce_keeps | apply State.modDk_keeps
                                         | apply State.rsvFull_keeps | apply State.loadRoot_keeps | apply State.devRead_keeps)
                                         | (with_reducible refine keeps_foldl _ (fun _ _ _ => ?_) ?_) | split | dsimp only)

/-! ### Link -/

theorem execGateEntryExpiry_keeps {q : PortId} {B0 s : State} (h : keeps B0 s) :
    completes (execGateEntryExpiry q s) (keeps B0) := by
  unfold execGateEntryExpiry
  repeat' (first | with_reducible (first | assumption | apply keepsNext | apply State.modPort_keeps) | split | dsimp only)

theorem execGclSwitch_keeps {q : PortId} {B0 s : State} (h : keeps B0 s) : completes (execGclSwitch q s) (keeps B0) := by
  unfold execGclSwitch
  repeat' (first | with_reducible (first | assumption | apply keepsNext | apply State.gclLoad_keeps | apply State.modPort_keeps) | split
                                         | dsimp only)

theorem execEgressSlot_keeps {q : PortId} {B0 s : State} (h : keeps B0 s) : completes (execEgressSlot q s) (keeps B0) := by
  unfold execEgressSlot
  repeat' (first | with_reducible (first | assumption | apply keepsNext | apply State.slotTime_keeps | apply State.slotWaits_keeps
                                         | apply State.purge_keeps | apply State.slotFlit_keeps) | split
                                         | fail_if_no_progress with_reducible apply keeps_mk)

theorem execFlitReceive_keeps {q : PortId} {x : Flit} {crc : Crc} {B0 s : State} (h : keeps B0 s) :
    completes (execFlitReceive q x crc s) (keeps B0) := by
  unfold execFlitReceive
  repeat' (first | with_reducible (first | assumption | apply keepsNext | apply State.bump_keeps | apply State.modPort_keeps
                                         | apply State.stompCopy_keeps | apply State.takeAck_keeps | apply State.freePlace_keeps
                                         | apply State.ingress_keeps) | split | dsimp only
                                         | fail_if_no_progress with_reducible apply keeps_mk)

theorem execReplayTimeout_keeps {q : PortId} {B0 s : State} (h : keeps B0 s) : completes (execReplayTimeout q s) (keeps B0) := by
  unfold execReplayTimeout
  repeat' (first | with_reducible (first | assumption | apply keepsNext | apply State.replayPort_keeps) | split)

theorem execLinkTrainingDone_keeps {q : PortId} {lanes : BitVec 4} {partner : BitVec 10} {B0 s : State} (h : keeps B0 s) :
    completes (execLinkTrainingDone q lanes partner s) (keeps B0) :=
  keepsNext (State.linkUp_keeps _ _ _ _ h)

theorem execHistSample_keeps {q : PortId} {B0 s : State} (h : keeps B0 s) : completes (execHistSample q s) (keeps B0) := by
  unfold execHistSample
  repeat' (first | with_reducible (first | assumption | apply keepsNext | apply State.bump_keeps | apply State.modPort_keeps)
                                         | (with_reducible refine keeps_foldl _ (fun _ _ _ => ?_) ?_) | split)

theorem execHistClear_keeps {f : Fn} {q : PortId} {B0 s : State} (h : keeps B0 s) :
    completes (execHistClear f q s) (keeps B0) := by
  unfold execHistClear
  repeat' (first | with_reducible (first | assumption | apply keepsNext | apply State.access_keeps | apply State.setReg_keeps)
                                         | (with_reducible refine keeps_foldl _ (fun _ _ _ => ?_) ?_) | split | dsimp only)

theorem execSendRingPoll_keeps {p : PartId} {B0 s : State} (h : keeps B0 s) : completes (execSendRingPoll p s) (keeps B0) := by
  unfold execSendRingPoll
  repeat' (first | with_reducible (first | assumption | apply keepsNext | apply State.lkTake_keeps) | split | dsimp only)

theorem execPut_keeps {p : PartId} {B0 s : State} (h : keeps B0 s) : completes (execPut p s) (keeps B0) := by
  unfold execPut
  repeat' (first | with_reducible (first | assumption | apply keepsNext | apply State.modLp_keeps | apply State.sendSrc_keeps
                                         | apply State.sendBody_keeps | apply State.putLocal_keeps | apply State.modPort_keeps)
                                         | (with_reducible refine keeps_fst (by assumption) ?_) | split | dsimp only)

theorem execSendComplete_keeps {p : PartId} {B0 s : State} (h : keeps B0 s) : completes (execSendComplete p s) (keeps B0) := by
  unfold execSendComplete
  repeat' (first | with_reducible (first | assumption | apply keepsNext | apply State.writeSend_keeps | apply State.modLp_keeps) | split)

theorem execVcOwnerChange_keeps {q : PortId} {v : Fin 8} {B0 s : State} (h : keeps B0 s) :
    completes (execVcOwnerChange q v s) (keeps B0) := by
  unfold execVcOwnerChange
  repeat' (first | with_reducible (first | assumption | apply keepsNext | apply State.setVcOwner_keeps) | split)

theorem execLinkCommit_keeps {f : Fn} {B0 s : State} (h : keeps B0 s) : completes (execLinkCommit f s) (keeps B0) := by
  unfold execLinkCommit
  repeat' (first | with_reducible (first | assumption | apply keepsNext | apply State.access_keeps | apply State.commit_keeps
                                         | apply State.ringHeader_keeps) | (with_reducible refine keeps_foldl _ (fun _ _ _ => ?_) ?_)
                                         | split | (intro _ _) | dsimp only)

theorem execPortCommit_keeps {f : Fn} {q : PortId} {B0 s : State} (h : keeps B0 s) :
    completes (execPortCommit f q s) (keeps B0) := by
  unfold execPortCommit
  repeat' (first | with_reducible (first | assumption | apply keepsNext | apply State.access_keeps | apply State.setErr_keeps
                                         | apply State.commit_keeps | apply State.portCommitted_keeps) | split | (intro _ _) | dsimp only)

theorem execLinkPortReset_keeps {f : Fn} {q : PortId} {B0 s : State} (h : keeps B0 s) :
    completes (execLinkPortReset f q s) (keeps B0) := by
  unfold execLinkPortReset
  repeat' (first | with_reducible (first | assumption | apply keepsNext | apply State.access_keeps | apply State.emptyVc_keeps
                                         | apply State.abortSend_keeps | apply State.portLeavesUp_keeps | apply State.modPort_keeps)
                                         | (with_reducible refine keeps_foldl _ (fun _ _ _ => ?_) ?_) | split | dsimp only)

/-! ### Barrier -/

theorem execBarrierPoll_keeps {b : Fin 16} {B0 s : State} (h : keeps B0 s) : completes (execBarrierPoll b s) (keeps B0) := by
  unfold execBarrierPoll
  repeat' (first | with_reducible (first | assumption | apply keepsNext | apply State.barArrive_keeps | apply State.readBy_keeps
                                         | apply State.modBar_keeps | apply State.barComplete_keeps) | split | dsimp only)

theorem execArrive_keeps {B0 s : State} (h : keeps B0 s) : completes (execArrive s) (keeps B0) := by
  unfold execArrive
  split
  · exact keepsNext h
  · have hs0 := State.takeCtl_keeps _ _ (by assumption) h
    repeat' (first | with_reducible (first | assumption | apply keepsNext | apply State.modBar_keeps | apply State.barComplete_keeps)
                                           | split | dsimp only)

theorem execRelease_keeps {B0 s : State} (h : keeps B0 s) : completes (execRelease s) (keeps B0) := by
  unfold execRelease
  split
  · exact keepsNext h
  · have hs0 := State.takeCtl_keeps _ _ (by assumption) h
    repeat' (first | with_reducible (first | assumption | apply keepsNext | apply State.barRelease_keeps) | split | dsimp only)

theorem execAbort_keeps {B0 s : State} (h : keeps B0 s) : completes (execAbort s) (keeps B0) := by
  unfold execAbort
  split
  · exact keepsNext h
  · have hs0 := State.takeCtl_keeps _ _ (by assumption) h
    repeat' (first | with_reducible (first | assumption | apply keepsNext | apply State.barAbort_keeps) | split | dsimp only)

/-! ### Part -/

theorem execCompositionChange_keeps {f : Fn} {p : PartId} {o : SlotId} {B0 s : State} (h : keeps B0 s) :
    completes (execCompositionChange f p o s) (keeps B0) := by
  unfold execCompositionChange
  repeat' (first | with_reducible (first | assumption | apply keepsNext | apply State.access_keeps | apply State.lopStart_keeps
                                         | apply State.modPart_keeps | apply State.changeComp_keeps) | split | (intro _ _))

theorem execPartitionReset_keeps {p : PartId} {B0 s : State} (h : keeps B0 s) :
    completes (execPartitionReset p s) (keeps B0) := by
  unfold execPartitionReset
  repeat' (first | with_reducible (first | assumption | apply keepsNext | apply State.resetKill_keeps | apply State.resetDrained_keeps)
                                         | split)

theorem execPartResetDone_keeps {p : PartId} {B0 s : State} (h : keeps B0 s) : completes (execPartResetDone p s) (keeps B0) := by
  unfold execPartResetDone
  repeat' (first | with_reducible (first | assumption | apply keepsNext | apply State.devWrite_keeps | apply State.loswProg_keeps
                                         | apply State.loswDone_keeps | apply State.logEv_keeps | apply State.modPart_keeps
                                         | apply State.changeComp_keeps) | (with_reducible refine keeps_foldl _ (fun _ _ _ => ?_) ?_)
                                         | split)

theorem execPartResetWrite_keeps {f : Fn} {v : BitVec 16} {B0 s : State} (h : keeps B0 s) :
    completes (execPartResetWrite f v s) (keeps B0) := by
  unfold execPartResetWrite
  repeat' (first | with_reducible (first | assumption | apply keepsNext | apply State.access_keeps | apply State.requestReset_keeps)
                                         | (with_reducible refine keeps_foldl _ (fun _ _ _ => ?_) ?_) | split | dsimp only)

theorem execPartRunWrite_keeps {f : Fn} {v : BitVec 16} {B0 s : State} (h : keeps B0 s) :
    completes (execPartRunWrite f v s) (keeps B0) := by
  unfold execPartRunWrite
  repeat' (first | with_reducible (first | assumption | apply keepsNext | apply State.access_keeps | apply State.setField_keeps) | split
                                         | dsimp only)

theorem execPartCommit_keeps {f : Fn} {B0 s : State} (h : keeps B0 s) : completes (execPartCommit f s) (keeps B0) := by
  unfold execPartCommit
  repeat' (first | with_reducible (first | assumption | apply keepsNext | apply State.access_keeps | apply State.commit_keeps
                                         | apply State.partApply_keeps))

/-! ### Host -/

theorem execSqTailWrite_keeps {f : Fn} {q : Fin 16} {v : BitVec 16} {B0 s : State} (h : keeps B0 s) :
    completes (execSqTailWrite f q v s) (keeps B0) := by
  unfold execSqTailWrite
  repeat' (first | with_reducible (first | assumption | apply keepsNext | apply State.access_keeps | apply State.badDoorbell_keeps
                                         | apply State.modHost_keeps) | split | dsimp only)

theorem execCqHeadWrite_keeps {f : Fn} {q : Fin 16} {v : BitVec 16} {B0 s : State} (h : keeps B0 s) :
    completes (execCqHeadWrite f q v s) (keeps B0) := by
  unfold execCqHeadWrite
  repeat' (first | with_reducible (first | assumption | apply keepsNext | apply State.access_keeps | apply State.badDoorbell_keeps
                                         | apply State.modHost_keeps) | split | dsimp only)

theorem execQueueEnableWrite_keeps {f : Fn} {cq : Bool} {q : Fin 16} {v : Word} {B0 s : State} (h : keeps B0 s) :
    completes (execQueueEnableWrite f cq q v s) (keeps B0) := by
  unfold execQueueEnableWrite
  repeat' (first | with_reducible (first | assumption | apply keepsNext | apply State.access_keeps | apply State.queueBase_keeps))

theorem execCqTimerExpiry_keeps {f : Fn} {q : Fin 16} {B0 s : State} (h : keeps B0 s) :
    completes (execCqTimerExpiry f q s) (keeps B0) := by
  unfold execCqTimerExpiry
  repeat' (first | with_reducible (first | assumption | apply keepsNext | apply State.cqSignal_keeps) | split)

theorem execHostCommit_keeps {f : Fn} {B0 s : State} (h : keeps B0 s) : completes (execHostCommit f s) (keeps B0) := by
  unfold execHostCommit
  repeat' (first | with_reducible (first | assumption | apply keepsNext | apply State.access_keeps | apply State.commit_keeps) | split
                                         | apply keeps_id)

theorem execPerst_keeps {b : HPort} {B0 s : State} (h : keeps B0 s) : completes (execPerst b s) (keeps B0) := by
  unfold execPerst
  refine keepsNext (State.pendSources_keeps _ _ ?_)
  have hcleared (t : Tab Word) (l : Tab (Option (Nat × Word))) (c : Tab Spdm) :
      keeps B0 { s with regs := t, latch := l, colo := { s.colo with spdm := c } } :=
    keeps_by h rfl id id (fusesRise_refl s)
  repeat' (first | with_reducible (first | apply State.hostTrain_keeps | apply State.modHost_keeps
                                         | refine keeps_foldl _ (fun _ _ _ => ?_) ?_) | assumption | split)

theorem execFlr_keeps {f : Fn} {B0 s : State} (h : keeps B0 s) : completes (execFlr f s) (keeps B0) :=
  keepsNext (State.flr_keeps _ _ h)

/-! ### RollCall -/

theorem execHeartbeatSend_keeps {B0 s : State} (h : keeps B0 s) : completes (execHeartbeatSend s) (keeps B0) := by
  unfold execHeartbeatSend
  repeat' (first | with_reducible (first | assumption | apply keepsNext | apply State.modPort_keeps | apply State.bump_keeps)
                                         | (with_reducible refine keeps_foldl _ (fun _ _ _ => ?_) ?_) | split
                                         | fail_if_no_progress with_reducible apply keeps_mk)

theorem execHeartbeatReceive_keeps {B0 s : State} (h : keeps B0 s) : completes (execHeartbeatReceive s) (keeps B0) := by
  unfold execHeartbeatReceive
  split
  · exact keepsNext h
  · exact keepsNext (State.bump_keeps _ _ _ (State.takeCtl_keeps _ _ (by assumption) h))

theorem execHeartbeatMiss_keeps {q : PortId} {B0 s : State} (h : keeps B0 s) : completes (execHeartbeatMiss q s) (keeps B0) := by
  unfold execHeartbeatMiss
  repeat' (first | with_reducible (first | assumption | apply keepsNext | apply State.setField_keeps | apply State.barAbortPort_keeps
                                         | apply State.nodeLost_keeps) | split | dsimp only)

theorem execLost_keeps {B0 s : State} (h : keeps B0 s) : completes (execLost s) (keeps B0) := by
  unfold execLost
  split
  · exact keepsNext h
  · have hs0 := State.setIrq_keeps _ 0x8000 2 (State.bump_keeps _ 0x8418 1 (State.takeCtl_keeps _ _ (by assumption) h))
    repeat' (first | with_reducible (first | assumption | apply keepsNext | apply State.logEv_keeps | apply State.nodeLost_keeps) | split
                                           | dsimp only)

theorem execPortFenceWrite_keeps {f : Fn} {v : Word} {B0 s : State} (h : keeps B0 s) :
    completes (execPortFenceWrite f v s) (keeps B0) := by
  unfold execPortFenceWrite
  repeat' (first | with_reducible (first | assumption | apply keepsNext | apply State.access_keeps | apply State.fencePorts_keeps) | split
                                         | dsimp only)

theorem execNodeFenceWrite_keeps {f : Fn} {i : Fin 16} {v : Word} {B0 s : State} (h : keeps B0 s) :
    completes (execNodeFenceWrite f i v s) (keeps B0) := by
  unfold execNodeFenceWrite
  repeat' (first | with_reducible (first | assumption | apply keepsNext | apply State.access_keeps | apply State.setReg_keeps) | split
                                         | dsimp only)

theorem execRollcallCommit_keeps {f : Fn} {B0 s : State} (h : keeps B0 s) : completes (execRollcallCommit f s) (keeps B0) := by
  unfold execRollcallCommit
  repeat' (first | with_reducible (first | assumption | apply keepsNext | apply State.access_keeps | apply State.barAbort_keeps
                                         | apply State.setErr_keeps | apply State.applyStaged_keeps)
                                         | (with_reducible refine keeps_foldl _ (fun _ _ _ => ?_) ?_) | split | dsimp only
                                         | fail_if_no_progress with_reducible apply keeps_mk)

/-! ### Log -/

theorem execLogEventTake_keeps {B0 s : State} (h : keeps B0 s) : completes (execLogEventTake s) (keeps B0) := by
  unfold execLogEventTake
  repeat' (first | with_reducible (first | assumption | apply keepsNext | apply State.modLog_keeps | apply State.takeEvent_keeps) | split)

theorem execLogTokenRefill_keeps {code : BitVec 16} {B0 s : State} (h : keeps B0 s) :
    completes (execLogTokenRefill code s) (keeps B0) := by
  unfold execLogTokenRefill
  repeat' (first | with_reducible (first | assumption | apply keepsNext | apply State.summary_keeps | apply State.modLog_keeps) | split)

theorem execLogSummaryTimeout_keeps {code : BitVec 16} {B0 s : State} (h : keeps B0 s) :
    completes (execLogSummaryTimeout code s) (keeps B0) := by
  unfold execLogSummaryTimeout
  repeat' (first | with_reducible (first | assumption | apply keepsNext | apply State.summary_keeps) | split)

theorem execLogPersist_keeps {B0 s : State} (h : keeps B0 s) : completes (execLogPersist s) (keeps B0) := by
  unfold execLogPersist
  repeat' (first | with_reducible (first | assumption | apply keepsNext | apply State.modLog_keeps | apply State.persistLog_keeps) | split)

theorem execLogPersistWriteDone_keeps {ok : Bool} {B0 s : State} (h : keeps B0 s) :
    completes (execLogPersistWriteDone ok s) (keeps B0) := by
  unfold execLogPersistWriteDone
  repeat' (first | with_reducible (first | assumption | apply keepsNext | apply State.modLog_keeps | apply State.persistNext_keeps
                                         | apply State.logEv_keeps) | split)

theorem execOpSecondsTick_keeps {B0 s : State} (h : keeps B0 s) : completes (execOpSecondsTick s) (keeps B0) := by
  unfold execOpSecondsTick
  repeat' (first | with_reducible (first | assumption | apply keepsNext | apply State.modLog_keeps) | split)

theorem execLogCursor_keeps {f : Fn} {atEnd : Bool} {B0 s : State} (h : keeps B0 s) :
    completes (execLogCursor f atEnd s) (keeps B0) := by
  unfold execLogCursor
  repeat' (first | with_reducible (first | assumption | apply keepsNext | apply State.access_keeps | apply State.arrive_keeps) | split
                                         | dsimp only)

theorem execLogWindowAdvance_keeps {f : Fn} {B0 s : State} (h : keeps B0 s) :
    completes (execLogWindowAdvance f s) (keeps B0) := by
  unfold execLogWindowAdvance
  repeat' (first | with_reducible (first | assumption | apply keepsNext | apply State.access_keeps | apply State.arrive_keeps) | split
                                         | dsimp only)

theorem execLogClear_keeps {f : Fn} {key : BitVec 16} {B0 s : State} (h : keeps B0 s) :
    completes (execLogClear f key s) (keeps B0) := by
  unfold execLogClear
  repeat' (first | with_reducible (first | assumption | apply keepsNext | apply State.access_keeps | apply State.modLog_keeps
                                         | apply State.takeEvent_keeps | apply State.persistLog_keeps) | split | dsimp only)

/-! ### Colophon -/

theorem execMrExtend_keeps {f : Fn} {v : BitVec 3} {B0 s : State} (h : keeps B0 s) :
    completes (execMrExtend f v s) (keeps B0) := by
  unfold execMrExtend
  repeat' (first | with_reducible (first | assumption | apply keepsNext | apply State.access_keeps | apply State.extend_keeps) | split
                                         | dsimp only)

theorem execPush_keeps {f : Fn} {off : BitVec 14} {B0 s : State} (h : keeps B0 s) : completes (execPush f off s) (keeps B0) := by
  unfold execPush
  repeat' (first | with_reducible (first | assumption | apply keepsNext | apply State.access_keeps | apply State.bump_keeps
                                         | apply State.modColo_keeps') | split | dsimp only)

theorem execPushDone_keeps {ok : Bool} {B0 s : State} (h : keeps B0 s) : completes (execPushDone ok s) (keeps B0) := by
  unfold execPushDone
  repeat' (first | with_reducible (first | assumption | apply keepsNext | apply State.modColo_keeps') | split | dsimp only
                                         | fail_if_no_progress with_reducible apply keeps_mk)

theorem execFirmwareStage_keeps {f : Fn} {part : Option Bool} {B0 s : State} (h : keeps B0 s) :
    completes (execFirmwareStage f part s) (keeps B0) := by
  unfold execFirmwareStage
  repeat' (first | with_reducible (first | assumption | apply keepsNext | apply State.access_keeps | apply State.stageStart_keeps
                                         | apply State.stageVerify_keeps | apply State.stageWrite_keeps) | split)

theorem execGetVersion_keeps {b : HPort} {B0 s : State} (h : keeps B0 s) : completes (execGetVersion b s) (keeps B0) := by
  unfold execGetVersion
  repeat' (first | with_reducible (first | assumption | apply keepsNext | apply State.spdmTake_keeps | apply State.answerVersion_keeps)
                                         | (intro _ _))

theorem execGetCapabilities_keeps {b : HPort} {B0 s : State} (h : keeps B0 s) :
    completes (execGetCapabilities b s) (keeps B0) := by
  unfold execGetCapabilities
  repeat' (first | with_reducible (first | assumption | apply keepsNext | apply State.spdmTake_keeps | apply State.answerCapabilities_keeps)
                                         | (intro _ _))

theorem execNegotiateAlgorithms_keeps {b : HPort} {base hash : Bool} {B0 s : State} (h : keeps B0 s) :
    completes (execNegotiateAlgorithms b base hash s) (keeps B0) := by
  unfold execNegotiateAlgorithms
  repeat' (first | with_reducible (first | assumption | apply keepsNext | apply State.spdmTake_keeps | apply State.answerAlgorithms_keeps)
                                         | (intro _ _))

theorem execGetDigests_keeps {b : HPort} {B0 s : State} (h : keeps B0 s) : completes (execGetDigests b s) (keeps B0) := by
  unfold execGetDigests
  repeat' (first | with_reducible (first | assumption | apply keepsNext | apply State.spdmTake_keeps | apply State.answerDigests_keeps)
                                         | (intro _ _))

theorem execGetCertificate_keeps {b : HPort} {slot off len : Nat} {B0 s : State} (h : keeps B0 s) :
    completes (execGetCertificate b slot off len s) (keeps B0) := by
  unfold execGetCertificate
  repeat' (first | with_reducible (first | assumption | apply keepsNext | apply State.spdmTake_keeps | apply State.answerCertificate_keeps)
                                         | (intro _ _))

theorem execChallenge_keeps {b : HPort} {slot : Nat} {nonce : List Byte} {B0 s : State} (h : keeps B0 s) :
    completes (execChallenge b slot nonce s) (keeps B0) := by
  unfold execChallenge
  repeat' (first | with_reducible (first | assumption | apply keepsNext | apply State.spdmTake_keeps | apply State.answerChallenge_keeps)
                                         | (intro _ _))

theorem execGetMeasurements_keeps {b : HPort} {index : Nat} {sign : Bool} {nonce : List Byte} {B0 s : State} (h : keeps B0 s) :
    completes (execGetMeasurements b index sign nonce s) (keeps B0) := by
  unfold execGetMeasurements
  repeat' (first | with_reducible (first | assumption | apply keepsNext | apply State.spdmTake_keeps | apply State.answerMeasurements_keeps)
                                         | (intro _ _))

theorem execGetPqCert_keeps {b : HPort} {off len : Nat} {B0 s : State} (h : keeps B0 s) :
    completes (execGetPqCert b off len s) (keeps B0) := by
  unfold execGetPqCert
  repeat' (first | with_reducible (first | assumption | apply keepsNext | apply State.spdmTake_keeps | apply State.answerPqCert_keeps)
                                         | (intro _ _))

theorem execGetPqSig_keeps {b : HPort} {B0 s : State} (h : keeps B0 s) : completes (execGetPqSig b s) (keeps B0) := by
  unfold execGetPqSig
  repeat' (first | with_reducible (first | assumption | apply keepsNext | apply State.spdmTake_keeps | apply State.answerPqSig_keeps)
                                         | (intro _ _))

theorem execChunkSend_keeps {b : HPort} {last : Option SpdmReq} {data : List Byte} {B0 s : State} (h : keeps B0 s) :
    completes (execChunkSend b last data s) (keeps B0) := by
  unfold execChunkSend
  repeat' (first | with_reducible (first | assumption | apply keepsNext | apply State.spdmTake_keeps | apply State.modSpdm_keeps
                                         | apply State.spdmServe_keeps) | split | (intro _ _)
                                         | fail_if_no_progress with_reducible apply keeps_mk)

theorem execChunkGet_keeps {b : HPort} {k : Nat} {B0 s : State} (h : keeps B0 s) : completes (execChunkGet b k s) (keeps B0) := by
  unfold execChunkGet
  repeat' (first | with_reducible (first | assumption | apply keepsNext | apply State.spdmTake_keeps | apply State.spdmError_keeps) | split
                                         | (intro _ _) | dsimp only | fail_if_no_progress with_reducible apply keeps_mk)

/-! ### Meter -/

theorem execMeterIncrement_keeps {B0 s : State} (h : keeps B0 s) : completes (execMeterIncrement s) (keeps B0) := by
  unfold execMeterIncrement
  repeat' (first | with_reducible (first | assumption | apply keepsNext | apply State.modMeter_keeps') | split | dsimp only)

theorem execEnergySample_keeps {uj : Nat} {B0 s : State} (h : keeps B0 s) : completes (execEnergySample uj s) (keeps B0) := by
  unfold execEnergySample
  repeat' (first | with_reducible (first | assumption | apply keepsNext | apply State.modMeter_keeps') | split | dsimp only)

theorem execEnergyApportion_keeps {B0 s : State} (h : keeps B0 s) : completes (execEnergyApportion s) (keeps B0) := by
  unfold execEnergyApportion
  repeat' (first | with_reducible (first | assumption | apply keepsNext | apply State.modMeter_keeps') | dsimp only)

theorem execRecordCut_keeps {B0 s : State} (h : keeps B0 s) : completes (execRecordCut s) (keeps B0) := by
  unfold execRecordCut
  repeat' (first | with_reducible (first | assumption | apply keepsNext | apply State.cutNext_keeps))

theorem execRecordSigningDone_keeps {B0 s : State} (h : keeps B0 s) : completes (execRecordSigningDone s) (keeps B0) := by
  unfold execRecordSigningDone
  repeat' (first | with_reducible (first | assumption | apply keepsNext | apply State.modMeter_keeps' | apply State.cutNext_keeps) | split
                                         | dsimp only)

theorem execMeterIntervalExpiry_keeps {B0 s : State} (h : keeps B0 s) : completes (execMeterIntervalExpiry s) (keeps B0) := by
  unfold execMeterIntervalExpiry
  repeat' (first | with_reducible (first | assumption | apply keepsNext | apply State.modMeter_keeps') | split | dsimp only)

theorem execMeterStart_keeps {slot : Bool} {B0 s : State} (h : keeps B0 s) : completes (execMeterStart slot s) (keeps B0) := by
  unfold execMeterStart
  repeat' (first | with_reducible (first | assumption | apply keepsNext | apply State.modMeter_keeps' | apply State.logEv_keeps) | split
                                         | dsimp only)

theorem execMirrorRefresh_keeps {B0 s : State} (h : keeps B0 s) : completes (execMirrorRefresh s) (keeps B0) := by
  unfold execMirrorRefresh
  repeat' (first | with_reducible (first | assumption | apply keepsNext | apply State.setReg_keeps)
                                         | (with_reducible refine keeps_foldl _ (fun _ _ _ => ?_) ?_) | split | dsimp only)

theorem execStatus_keeps {crc : Bool} {B0 s : State} (h : keeps B0 s) : completes (execStatus crc s) (keeps B0) := by
  unfold execStatus
  repeat' (first | with_reducible (first | assumption | apply keepsNext | apply State.i2cTake_keeps | apply State.i2c_keeps) | (intro _ _))

theorem execReadRecord_keeps {crc : Bool} {seq : Word} {off len : Nat} {B0 s : State} (h : keeps B0 s) :
    completes (execReadRecord crc seq off len s) (keeps B0) := by
  unfold execReadRecord
  repeat' (first | with_reducible (first | assumption | apply keepsNext | apply State.i2cTake_keeps | apply State.i2c_keeps) | split
                                         | (intro _ _))

theorem execReadCert_keeps {crc : Bool} {chain : Nat} {off len : Nat} {B0 s : State} (h : keeps B0 s) :
    completes (execReadCert crc chain off len s) (keeps B0) := by
  unfold execReadCert
  repeat' (first | with_reducible (first | assumption | apply keepsNext | apply State.i2cTake_keeps | apply State.i2c_keeps) | split
                                         | (intro _ _))

theorem execCut_keeps {crc : Bool} {B0 s : State} (h : keeps B0 s) : completes (execCut crc s) (keeps B0) := by
  unfold execCut
  repeat' (first | with_reducible (first | assumption | apply keepsNext | apply State.i2cTake_keeps | apply State.modMeter_keeps'
                                         | apply State.i2c_keeps) | (intro _ _) | dsimp only)

theorem execWriteConfig_keeps {crc : Bool} {interval : BitVec 16} {addr : Byte} {B0 s : State} (h : keeps B0 s) :
    completes (execWriteConfig crc interval addr s) (keeps B0) := by
  unfold execWriteConfig
  repeat' (first | with_reducible (first | assumption | apply keepsNext | apply State.i2cTake_keeps | apply State.i2c_keeps
                                         | apply State.modMeter_keeps' | apply State.breakSeal_keeps) | split | (intro _ _) | dsimp only)

theorem execFwPush_keeps {crc : Bool} {off : BitVec 32} {data : List Byte} {B0 s : State} (h : keeps B0 s) :
    completes (execFwPush crc off data s) (keeps B0) := by
  unfold execFwPush
  repeat' (first | with_reducible (first | assumption | apply keepsNext | apply State.i2cTake_keeps | apply State.i2c_keeps
                                         | apply State.modMeter_keeps') | split | (intro _ _) | dsimp only)

theorem execFwCommit_keeps {crc : Bool} {B0 s : State} (h : keeps B0 s) : completes (execFwCommit crc s) (keeps B0) := by
  unfold execFwCommit
  repeat' (first | with_reducible (first | assumption | apply keepsNext | apply State.i2cTake_keeps | apply State.i2c_keeps
                                         | apply State.modMeter_keeps' | apply State.breakSeal_keeps) | split | (intro _ _) | dsimp only)

theorem execReseal_keeps {crc : Bool} {token : List Byte} {B0 s : State} (h : keeps B0 s) :
    completes (execReseal crc token s) (keeps B0) := by
  unfold execReseal
  repeat' (first | with_reducible (first | assumption | apply keepsNext | apply State.i2cTake_keeps | apply State.i2c_keeps
                                         | apply State.modMeter_keeps' | apply State.logEv_keeps) | split | (intro _ _) | dsimp only)

/-! ### Power -/

theorem execPowerCommit_keeps {f : Fn} {B0 s : State} (h : keeps B0 s) : completes (execPowerCommit f s) (keeps B0) := by
  unfold execPowerCommit
  repeat' (first | with_reducible (first | assumption | apply keepsNext | apply State.access_keeps | apply State.commit_keeps
                                         | apply State.powerApply_keeps | apply State.noteFreq_keeps) | (intro _ _))

theorem execFreqChangeDone_keeps {x : CoreMv} {B0 s : State} (h : keeps B0 s) :
    completes (execFreqChangeDone x s) (keeps B0) := by
  unfold execFreqChangeDone
  repeat' (first | with_reducible (first | assumption | apply keepsNext | apply State.modPwr_keeps' | apply State.noteFreq_keeps) | split
                                         | dsimp only)

theorem State.needMv_bounds (s : State) : 650 ≤ s.needMv ∧ s.needMv ≤ 850 ∧ s.needMv % 5 = 0 := by
  unfold State.needMv mvFor
  omega

theorem execVidStep_keeps {up : Bool} {B0 s : State} (h : keeps B0 s) : completes (execVidStep up s) (keeps B0) := by
  obtain ⟨hleast, hmost, hstep⟩ := s.needMv_bounds
  have hmoves (t : Nat) (ht : powerOk s → 650 ≤ t ∧ t ≤ 850 ∧ t % 5 = 0) : keeps B0 (s.modPwr (fun w => { w with target := t })) :=
    State.modPwr_keeps s _ (fun m => ⟨m.1, m.2.1, ht m⟩) h
  unfold execVidStep
  dsimp only
  split
  · split
    · refine keepsNext (hmoves _ fun m => ?_)
      obtain ⟨-, -, hlow, hhigh, hfive⟩ := m
      omega
    · exact keepsNext h
  · split
    · refine keepsNext (hmoves _ fun m => ?_)
      obtain ⟨-, -, hlow, hhigh, hfive⟩ := m
      omega
    · exact keepsNext h

theorem execDroopDetect_keeps {x : CoreMv} {B0 s : State} (h : keeps B0 s) : completes (execDroopDetect x s) (keeps B0) := by
  unfold execDroopDetect
  repeat' (first | with_reducible (first | assumption | apply keepsNext | apply State.modPwr_keeps') | split | dsimp only)

theorem execDroopRecover_keeps {x : CoreMv} {cycles : Nat} {B0 s : State} (h : keeps B0 s) :
    completes (execDroopRecover x cycles s) (keeps B0) := by
  unfold execDroopRecover
  repeat' (first | with_reducible (first | assumption | apply keepsNext | apply State.modPwr_keeps' | apply State.bump_keeps) | split
                                         | dsimp only | fail_if_no_progress with_reducible apply keeps_mk)

theorem execPwrBrownout_keeps {mv : BitVec 10} {B0 s : State} (h : keeps B0 s) : completes (execPwrBrownout mv s) (keeps B0) := by
  unfold execPwrBrownout
  repeat' (first | with_reducible (first | assumption | apply keepsNext | apply State.senseNow_keeps | apply State.modPwr_keeps'
                                         | apply State.noteFreq_keeps | apply State.modNs_keeps | apply State.pauseOps_keeps
                                         | apply State.bump_keeps | apply State.logEv_keeps)
                                         | (with_reducible refine keeps_foldl _ (fun _ _ _ => ?_) ?_) | split | dsimp only)

theorem execBrownoutEnd_keeps {ns : Nat} {mv : BitVec 10} {B0 s : State} (h : keeps B0 s) :
    completes (execBrownoutEnd ns mv s) (keeps B0) := by
  unfold execBrownoutEnd
  repeat' (first | with_reducible (first | assumption | apply keepsNext | apply State.countStretch_keeps | apply State.bump_keeps
                                         | apply State.senseNow_keeps | apply State.modPwr_keeps' | apply State.resumeFlash_keeps
                                         | apply State.resumeOps_keeps) | (with_reducible refine keeps_foldl _ (fun _ _ _ => ?_) ?_) | split
                                         | dsimp only)

theorem execThermalSample_keeps {deg : List Nat} {B0 s : State} (h : keeps B0 s) :
    completes (execThermalSample deg s) (keeps B0) := by
  unfold execThermalSample
  repeat' (first | with_reducible (first | assumption | apply keepsNext | apply State.modPwr_keeps' | apply State.logEv_keeps
                                         | apply State.bump_keeps | apply State.trip_keeps)
                                         | (with_reducible refine keeps_foldl _ (fun _ _ _ => ?_) ?_) | split | dsimp only)

theorem execThrottleStep_keeps {r : Fin 36} {B0 s : State} (h : keeps B0 s) : completes (execThrottleStep r s) (keeps B0) := by
  unfold execThrottleStep
  repeat' (first | with_reducible (first | assumption | apply keepsNext | apply State.trip_keeps | apply State.modPwr_keeps'
                                         | apply State.noteFreq_keeps) | split | dsimp only)

theorem execUngateSlot_keeps {B0 s : State} (h : keeps B0 s) : completes (execUngateSlot s) (keeps B0) := by
  unfold execUngateSlot
  repeat' (first | with_reducible (first | assumption | apply keepsNext | apply State.modPwr_keeps' | apply State.ungate_keeps
                                         | apply State.countWait_keeps) | (with_reducible refine keeps_foldl _ (fun _ _ _ => ?_) ?_) | split
                                         | dsimp only)

theorem execEngineRestartSlot_keeps {B0 s : State} (h : keeps B0 s) : completes (execEngineRestartSlot s) (keeps B0) := by
  unfold execEngineRestartSlot
  repeat' (first | with_reducible (first | assumption | apply keepsNext | apply State.modPwr_keeps' | apply State.countWait_keeps) | split
                                         | dsimp only)

theorem execPwrSupplyReset_keeps {mv : BitVec 10} {B0 s : State} (h : keeps B0 s) : completes (execPwrSupplyReset mv s) (keeps B0) := by
  unfold execPwrSupplyReset
  split
  · exact keepsNext h
  · refine keepsNext (State.logEv_keeps _ _ _ _ _ (State.bump_keeps _ _ _ (State.senseNow_keeps _ _ ?_)))
    exact State.modPwr_keeps _ _ (fun m => ⟨Or.inl (Nat.zero_le 9), ⟨(by decide : 1 ≤ 2), (by decide : 2 ≤ 5)⟩, m.2.2⟩)
      (State.islandsReset_keeps s false false h)

theorem execSupplyResetRelease_keeps {B0 s : State} (h : keeps B0 s) : completes (execSupplyResetRelease s) (keeps B0) := by
  unfold execSupplyResetRelease
  repeat' (first | with_reducible (first | assumption | apply keepsNext | apply State.senseNow_keeps | apply State.modPwr_keeps'
                                         | apply State.afterReset_keeps) | split | dsimp only
                                         | fail_if_no_progress with_reducible apply keeps_mk)

theorem execChipRstNAssert_keeps {ns : Nat} {B0 s : State} (h : keeps B0 s) : completes (execChipRstNAssert ns s) (keeps B0) := by
  have hfree : keeps B0 (if ns < 1000 then { s with free := s.free + 1 } else s) := by
    split
    · exact h
    · exact h
  unfold execChipRstNAssert
  dsimp only
  split
  · exact keepsNext h
  · split
    · exact keepsNext hfree
    · have hreset := State.chipReset_keeps _ 3 (by decide) hfree
      generalize State.chipReset _ 3 = t at hreset ⊢
      exact keepsNext (State.modPwr_keeps' t _ rfl rfl rfl hreset)

theorem execChipRstNRelease_keeps {B0 s : State} (h : keeps B0 s) : completes (execChipRstNRelease s) (keeps B0) := by
  unfold execChipRstNRelease
  repeat' (first | with_reducible (first | assumption | apply keepsNext | apply State.modPwr_keeps' | apply State.afterReset_keeps) | split
                                         | dsimp only)

theorem execRstCmd_keeps {f : Fn} {key : BitVec 16} {B0 s : State} (h : keeps B0 s) : completes (execRstCmd f key s) (keeps B0) := by
  unfold execRstCmd
  dsimp only
  split
  · exact keepsNext (State.access_keeps s f h)
  · exact keepsNext (State.afterReset_keeps _ true (State.chipReset_keeps _ 4 (by decide) (State.access_keeps s f h)))

theorem causeAtStart : 1 ≤ ({} : Power).cause ∧ ({} : Power).cause ≤ 5 := by decide

theorem targetAtStart : 650 ≤ ({} : Power).target ∧ ({} : Power).target ≤ 850 ∧ ({} : Power).target % 5 = 0 := by decide

theorem execPowerOn_keeps {B0 s : State} (h : keeps B0 s) : completes (execPowerOn s) (keeps B0) := by
  unfold execPowerOn
  split
  · exact keepsNext h
  · refine keepsNext (State.logPowerOn_keeps _ (State.modMeter_keeps' _ _ rfl rfl ?_))
    refine keeps_by h rfl (fun _ => rfl) (fun _ => ⟨Or.inl (Nat.zero_le 9), ?_, targetAtStart⟩) (fusesRise_refl s)
    dsimp only
    split
    · decide
    · decide

theorem execPwrOkRise_keeps {B0 s : State} (h : keeps B0 s) : completes (execPwrOkRise s) (keeps B0) := by
  have hreset : keeps B0 (if s.pwr.shutdown then (s.islandsReset true false).setReg 0x2048 (s.reg 0x2048) else s) := by
    split
    · exact State.setReg_keeps _ _ _ (State.islandsReset_keeps s true false h)
    · exact h
  unfold execPwrOkRise
  split
  · exact keepsNext h
  · exact keepsNext (State.modPwr_keeps _ _ (fun m => ⟨Or.inl (show 1 ≤ 9 by decide), m.2⟩) hreset)

theorem execPwrOkFall_keeps {B0 s : State} (h : keeps B0 s) : completes (execPwrOkFall s) (keeps B0) := by
  unfold execPwrOkFall
  repeat' (first | with_reducible (first | assumption | apply keepsNext | apply State.modPwr_keeps' | apply State.closeFlash_keeps
                                         | apply State.modLog_keeps | apply State.persistLog_keeps | apply State.modMeter_keeps')
                                         | (with_reducible refine keeps_foldl _ (fun _ _ _ => ?_) ?_) | split | dsimp only)

theorem execStandbyLoss_keeps {B0 s : State} (h : keeps B0 s) : completes (execStandbyLoss s) (keeps B0) := by
  unfold execStandbyLoss
  split
  · exact keepsNext h
  · exact keepsNext (State.meterLost_keeps _
      (keeps_by h rfl (fun _ => rfl) (fun _ => ⟨Or.inl (Nat.zero_le 9), causeAtStart, targetAtStart⟩) (fusesRise_refl s)))

theorem State.phase_keeps {B0 : State} (s : State) (n : Nat) (hn : n ≤ 9 ∨ n = 15) (h : keeps B0 s) :
    keeps B0 (s.modPwr (fun w => { w with phase := n })) :=
  State.modPwr_keeps s _ (fun m => ⟨hn, m.2⟩) h

theorem execStartupStepDone_keeps {r : StartReport} {B0 s : State} (h : keeps B0 s) : completes (execStartupStepDone r s) (keeps B0) := by
  unfold execStartupStepDone
  dsimp only
  split
  · exact keepsNext h
  · split
    · exact keepsNext (State.phase_keeps _ 2 (by decide) (State.extend_keeps _ _ _ h))
    · have hboot := State.bootSlots_keeps s h
      split
      · exact keepsNext (State.phase_keeps _ 15 (by decide) (State.hostsTrain_keeps _ hboot))
      · have hstep3 := State.enterStep3_keeps _ hboot
        generalize s.bootSlots.enterStep3 = u at hstep3 ⊢
        exact keepsNext (State.modPwr_keeps' u (fun w => { w with t0 := s.pwr.t0 }) rfl rfl rfl hstep3)
    · split
      · exact keepsNext h
      · refine keepsNext (State.phase_keeps _ _ ?_ (State.modPwr_keeps' _ _ rfl rfl rfl h))
        split
        · decide
        · decide
    · exact keepsNext (State.phase_keeps _ 5 (by decide) (State.trainHbm_keeps _ _ h))
    · exact keepsNext (State.phase_keeps _ 6 (by decide) (State.trainModules_keeps _ _ h))
    · exact keepsNext (State.phase_keeps _ 7 (by decide) (State.trainPorts_keeps _ _ h))
    · exact keepsNext (State.phase_keeps _ 8 (by decide)
        (keeps_foldl _ (fun _ x hu => State.restorePart_keeps _ x hu) (State.trainFlash_keeps _ _ h)))
    · exact keepsNext (State.burnFuses_keeps _ (State.phase_keeps _ 9 (by decide) (State.modPwr_keeps' _ _ rfl rfl rfl h)))
    · exact keepsNext h

/-! ### Registers -/

theorem execLatchedLowRead_keeps {f : Fn} {off : BitVec 25} {size : Nat} {B0 s : State} (h : keeps B0 s) :
    completes (execLatchedLowRead f off size s) (keeps B0) := by
  unfold execLatchedLowRead
  repeat' (first | with_reducible (first | assumption | apply keepsNext | apply State.conflicts_keeps | apply State.badAccess_keeps
                                         | apply State.access_keeps) | split | dsimp only
                                         | fail_if_no_progress with_reducible apply keeps_mk)

theorem execQuiesceReqWrite_keeps {f : Fn} {off : BitVec 24} {v : Bool} {B0 s : State} (h : keeps B0 s) :
    completes (execQuiesceReqWrite f off v s) (keeps B0) := by
  unfold execQuiesceReqWrite
  repeat' (first | with_reducible (first | assumption | apply keepsNext | apply State.access_keeps | apply State.setField_keeps
                                         | apply State.wakeUnit_keeps) | split | dsimp only)

theorem State.actWrite_keeps {B0 s u : State} {f : Fn} {p : Page} {o : Nat} {x half : Word} (hu : s.actWrite f p o x half = some u)
    (h : keeps B0 s) : keeps B0 u := by
  unfold State.actWrite at hu
  dsimp only at hu
  split at hu
  · split at hu
    · cases hu
      split
      · exact State.fencePorts_keeps _ _ h
      · exact h
    · split at hu
      · cases hu
        exact State.setReg_keeps _ _ _ h
      · cases hu
  · split at hu
    · cases hu
      exact State.mouldOwners_keeps _ _ _ _ h
    · cases hu
  · split at hu
    · cases hu
      exact State.queueBase_keeps _ _ _ _ _ h
    · cases hu
  · cases hu

theorem execRegisterWrite_keeps {f : Fn} {off : BitVec 25} {size : Nat} {v : Word} {B0 s : State} (h : keeps B0 s) :
    completes (execRegisterWrite f off size v s) (keeps B0) := by
  have haccess := State.access_keeps s f h
  unfold execRegisterWrite
  split
  · exact keepsNext (State.cfgWrite_keeps _ _ _ _ _ h)
  · generalize s.access f = t at haccess
    dsimp only
    split
    · exact keepsNext (State.badAccess_keeps _ _ _ haccess)
    · split
      · repeat' (first | with_reducible (first | assumption | apply keepsNext | apply State.badAccess_keeps | apply State.modLosw_keeps
                                               | apply State.lopInvalid_keeps) | split)
      · split
        · exact keepsNext haccess
        · split
          · exact keepsNext (State.badAccess_keeps _ _ _ haccess)
          · split
            · exact keepsNext haccess
            · split
              · exact keepsNext (State.actWrite_keeps (by assumption) haccess)
              · exact keepsNext (State.afterWrite_keeps _ _ _ _ _ _ (State.setReg_keeps _ _ _ haccess))

end Sys2Proof.Machine
end

section
/-! SUPPORT. What every command and every step keep: the memory's canonical form, the power manager's legal values, the fuses (O57, O58, O59). -/

namespace Sys2Proof.Machine

/-- What every command keeps, command by command. -/
theorem exec_keeps (i : Instr) (s : State) : completes (exec i s) (keeps s) := by
  unfold exec
  cases i with
  | alu _ _ _ _ _ _ => exact execAlu_keeps (keeps_refl s)
  | mul _ _ _ _ _ _ => exact execMul_keeps (keeps_refl s)
  | fpu _ _ _ _ _ _ => exact execFpu_keeps (keeps_refl s)
  | addi _ _ _ _ _ => exact execAddi_keeps (keeps_refl s)
  | andi _ _ _ _ _ => exact execAndi_keeps (keeps_refl s)
  | ori _ _ _ _ _ => exact execOri_keeps (keeps_refl s)
  | xori _ _ _ _ _ => exact execXori_keeps (keeps_refl s)
  | shli _ _ _ _ _ => exact execShli_keeps (keeps_refl s)
  | shri _ _ _ _ _ => exact execShri_keeps (keeps_refl s)
  | srai _ _ _ _ _ => exact execSrai_keeps (keeps_refl s)
  | slti _ _ _ _ _ => exact execSlti_keeps (keeps_refl s)
  | lui _ _ _ _ => exact execLui_keeps (keeps_refl s)
  | beq _ _ _ _ _ => exact execBeq_keeps (keeps_refl s)
  | bne _ _ _ _ _ => exact execBne_keeps (keeps_refl s)
  | blt _ _ _ _ _ => exact execBlt_keeps (keeps_refl s)
  | bge _ _ _ _ _ => exact execBge_keeps (keeps_refl s)
  | bltu _ _ _ _ _ => exact execBltu_keeps (keeps_refl s)
  | bgeu _ _ _ _ _ => exact execBgeu_keeps (keeps_refl s)
  | jal _ _ _ _ => exact execJal_keeps (keeps_refl s)
  | jalr _ _ _ _ _ => exact execJalr_keeps (keeps_refl s)
  | endT _ _ _ _ _ _ => exact execEndT_keeps (keeps_refl s)
  | yield _ _ _ _ _ => exact execYield_keeps (keeps_refl s)
  | ld _ _ _ _ _ _ _ _ => exact execLd_keeps (keeps_refl s)
  | st _ _ _ _ _ _ _ => exact execSt_keeps (keeps_refl s)
  | lcopy _ _ _ _ _ _ => exact execLcopy_keeps (keeps_refl s)
  | lzero _ _ _ _ _ _ => exact execLzero_keeps (keeps_refl s)
  | rld _ _ _ _ _ _ _ => exact execRld_keeps (keeps_refl s)
  | rst _ _ _ _ _ _ _ => exact execRst_keeps (keeps_refl s)
  | atom _ _ _ _ _ _ => exact execAtom_keeps (keeps_refl s)
  | fence _ _ _ _ _ _ => exact execFence_keeps (keeps_refl s)
  | rda _ _ _ _ _ _ => exact execRda_keeps (keeps_refl s)
  | wra _ _ _ _ _ _ => exact execWra_keeps (keeps_refl s)
  | waitr _ _ _ _ _ => exact execWaitr_keeps (keeps_refl s)
  | esub _ _ _ _ _ _ => exact execEsub_keeps (keeps_refl s)
  | ewait _ _ _ _ _ _ => exact execEwait_keeps (keeps_refl s)
  | cins _ _ _ _ _ _ => exact execCins_keeps (keeps_refl s)
  | vts _ _ _ _ _ _ => exact execVts_keeps (keeps_refl s)
  | hpush _ _ _ _ _ _ => exact execHpush_keeps (keeps_refl s)
  | hpop _ _ _ _ _ _ => exact execHpop_keeps (keeps_refl s)
  | hash _ _ _ _ _ _ => exact execHash_keeps (keeps_refl s)
  | spawn _ _ _ _ _ _ => exact execSpawn_keeps (keeps_refl s)
  | gwait _ _ _ _ _ _ => exact execGwait_keeps (keeps_refl s)
  | gsig _ _ _ _ _ _ => exact execGsig_keeps (keeps_refl s)
  | gld _ _ _ _ _ _ => exact execGld_keeps (keeps_refl s)
  | gst _ _ _ _ _ _ => exact execGst_keeps (keeps_refl s)
  | wqtake _ _ _ _ _ _ => exact execWqtake_keeps (keeps_refl s)
  | gnew _ _ _ _ _ _ => exact execGnew_keeps (keeps_refl s)
  | gdone _ _ _ _ _ _ => exact execGdone_keeps (keeps_refl s)
  | gkill _ _ _ _ _ _ => exact execGkill_keeps (keeps_refl s)
  | specb _ _ _ _ _ _ => exact execSpecb_keeps (keeps_refl s)
  | specc _ _ _ _ _ _ => exact execSpecc_keeps (keeps_refl s)
  | specx _ _ _ _ _ _ => exact execSpecx_keeps (keeps_refl s)
  | contextFree _ _ => exact execContextFree_keeps (keeps_refl s)
  | readDataReturn _ _ => exact execReadDataReturn_keeps (keeps_refl s)
  | writeAck _ => exact execWriteAck_keeps (keeps_refl s)
  | remoteAccessAtTarget _ => exact execRemoteAccessAtTarget_keeps (keeps_refl s)
  | remoteResponse _ => exact execRemoteResponse_keeps (keeps_refl s)
  | hartRunWrite _ _ _ => exact execHartRunWrite_keeps (keeps_refl s)
  | coreCommit _ _ => exact execCoreCommit_keeps (keeps_refl s)
  | coreSoftReset _ _ => exact execCoreSoftReset_keeps (keeps_refl s)
  | coreZeroingDone _ => exact execCoreZeroingDone_keeps (keeps_refl s)
  | coreResetReady _ => exact execCoreResetReady_keeps (keeps_refl s)
  | descStart _ _ => exact execDescStart_keeps (keeps_refl s)
  | descComplete _ _ => exact execDescComplete_keeps (keeps_refl s)
  | collatorTake _ _ => exact execCollatorTake_keeps (keeps_refl s)
  | listSeal _ _ => exact execListSeal_keeps (keeps_refl s)
  | collatorCommit _ _ => exact execCollatorCommit_keeps (keeps_refl s)
  | groupFreeReport _ => exact execGroupFreeReport_keeps (keeps_refl s)
  | mergeRequest => exact execMergeRequest_keeps (keeps_refl s)
  | publishSample _ => exact execPublishSample_keeps (keeps_refl s)
  | publishPointWrite _ => exact execPublishPointWrite_keeps (keeps_refl s)
  | indexSnapshotCommit _ _ _ => exact execIndexSnapshotCommit_keeps (keeps_refl s)
  | snapshotPublish _ => exact execSnapshotPublish_keeps (keeps_refl s)
  | prefetchFill _ => exact execPrefetchFill_keeps (keeps_refl s)
  | prefetchServe _ _ => exact execPrefetchServe_keeps (keeps_refl s)
  | ringPoll _ => exact execRingPoll_keeps (keeps_refl s)
  | admitNext => exact execAdmit_keeps (keeps_refl s)
  | workItemRelease _ => exact execWorkItemRelease_keeps (keeps_refl s)
  | reserveRefill => exact execReserveRefill_keeps (keeps_refl s)
  | queryStageAdvance _ => exact execQueryStageAdvance_keeps (keeps_refl s)
  | queryComplete _ => exact execQueryComplete_keeps (keeps_refl s)
  | modelStepStart _ => exact execModelStepStart_keeps (keeps_refl s)
  | generativeRound _ => exact execGenerativeRound_keeps (keeps_refl s)
  | layerStart _ => exact execLayerStart_keeps (keeps_refl s)
  | ownershipOp _ => exact execOwnershipOp_keeps (keeps_refl s)
  | stateReplyReceive => exact execStateReplyReceive_keeps (keeps_refl s)
  | handoffSweep => exact execHandoffSweep_keeps (keeps_refl s)
  | stateClaim _ _ _ => exact execStateClaim_keeps (keeps_refl s)
  | deskCommit _ _ => exact execDeskCommit_keeps (keeps_refl s)
  | deskConfigEffect _ => exact execDeskConfigEffect_keeps (keeps_refl s)
  | tierRead _ _ _ => exact execTierRead_keeps (keeps_refl s)
  | tierWrite _ _ => exact execTierWrite_keeps (keeps_refl s)
  | tierAtom _ _ => exact execTierAtom_keeps (keeps_refl s)
  | scrubRead _ _ _ => exact execScrubRead_keeps (keeps_refl s)
  | migrationPeriod _ => exact execMigrationPeriod_keeps (keeps_refl s)
  | moveCopyDone _ => exact execMoveCopyDone_keeps (keeps_refl s)
  | migrationBatch _ _ _ => exact execMigrationBatch_keeps (keeps_refl s)
  | tierCommit _ => exact execTierCommit_keeps (keeps_refl s)
  | bar2Read _ _ _ => exact execBar2Read_keeps (keeps_refl s)
  | bar2Write _ _ _ => exact execBar2Write_keeps (keeps_refl s)
  | pieceZeroingDone _ => exact execPieceZeroingDone_keeps (keeps_refl s)
  | expanderBlockDecode _ _ => exact execExpanderBlockDecode_keeps (keeps_refl s)
  | expanderBlockEncode _ _ => exact execExpanderBlockEncode_keeps (keeps_refl s)
  | mouldTableLoad _ _ _ => exact execMouldTableLoad_keeps (keeps_refl s)
  | mouldInstall _ => exact execMouldInstall_keeps (keeps_refl s)
  | mouldOwnerWrite _ _ _ _ => exact execMouldOwnerWrite_keeps (keeps_refl s)
  | expanderCommit _ _ => exact execExpanderCommit_keeps (keeps_refl s)
  | carrelRingPoll _ => exact execCarrelRingPoll_keeps (keeps_refl s)
  | scan _ _ _ => exact execScan_keeps (keeps_refl s)
  | select _ _ _ => exact execSelect_keeps (keeps_refl s)
  | rowsum _ _ _ => exact execRowsum_keeps (keeps_refl s)
  | carrelComplete _ => exact execCarrelComplete_keeps (keeps_refl s)
  | carrelCancel _ _ => exact execCarrelCancel_keeps (keeps_refl s)
  | carrelEnableWrite _ _ _ => exact execCarrelEnableWrite_keeps (keeps_refl s)
  | carrelCommit _ _ => exact execCarrelCommit_keeps (keeps_refl s)
  | gatherRingPoll _ => exact execGatherRingPoll_keeps (keeps_refl s)
  | lookup _ => exact execLookup_keeps (keeps_refl s)
  | update _ => exact execUpdate_keeps (keeps_refl s)
  | gatherBatchComplete _ => exact execGatherBatchComplete_keeps (keeps_refl s)
  | rowReq => exact execRowReq_keeps (keeps_refl s)
  | rowData => exact execRowData_keeps (keeps_refl s)
  | gradientApply => exact execGradientApply_keeps (keeps_refl s)
  | hotPeriodExpiry _ => exact execHotPeriodExpiry_keeps (keeps_refl s)
  | tableReplace _ _ _ => exact execTableReplace_keeps (keeps_refl s)
  | tableReplaceCommit _ => exact execTableReplaceCommit_keeps (keeps_refl s)
  | tableHoldExpiry _ => exact execTableHoldExpiry_keeps (keeps_refl s)
  | guCommit _ _ => exact execGuCommit_keeps (keeps_refl s)
  | archiveWrite _ _ => exact execArchiveWrite_keeps (keeps_refl s)
  | archiveRead _ _ => exact execArchiveRead_keeps (keeps_refl s)
  | codewordReadDone _ _ _ => exact execCodewordReadDone_keeps (keeps_refl s)
  | stripeCloseExpiry _ => exact execStripeCloseExpiry_keeps (keeps_refl s)
  | stripeProgramDone _ _ => exact execStripeProgramDone_keeps (keeps_refl s)
  | journalCloseExpiry _ => exact execJournalCloseExpiry_keeps (keeps_refl s)
  | journalProgramDone _ => exact execJournalProgramDone_keeps (keeps_refl s)
  | checkpointRound _ => exact execCheckpointRound_keeps (keeps_refl s)
  | collectionIdleExpiry _ => exact execCollectionIdleExpiry_keeps (keeps_refl s)
  | collect _ _ => exact execCollect_keeps (keeps_refl s)
  | eraseDone _ _ => exact execEraseDone_keeps (keeps_refl s)
  | discard _ _ _ => exact execDiscard_keeps (keeps_refl s)
  | secureDiscard _ _ _ => exact execSecureDiscard_keeps (keeps_refl s)
  | discardAccept _ => exact execDiscardAccept_keeps (keeps_refl s)
  | collectionFlush _ _ _ => exact execCollectionFlush_keeps (keeps_refl s)
  | flashFormat _ _ _ => exact execFlashFormat_keeps (keeps_refl s)
  | archiveCommit _ => exact execArchiveCommit_keeps (keeps_refl s)
  | egressSlot _ => exact execEgressSlot_keeps (keeps_refl s)
  | flitReceive _ _ _ => exact execFlitReceive_keeps (keeps_refl s)
  | replayTimeout _ => exact execReplayTimeout_keeps (keeps_refl s)
  | linkTrainingDone _ _ _ => exact execLinkTrainingDone_keeps (keeps_refl s)
  | gateEntryExpiry _ => exact execGateEntryExpiry_keeps (keeps_refl s)
  | gclSwitch _ => exact execGclSwitch_keeps (keeps_refl s)
  | histSample _ => exact execHistSample_keeps (keeps_refl s)
  | histClear _ _ => exact execHistClear_keeps (keeps_refl s)
  | sendRingPoll _ => exact execSendRingPoll_keeps (keeps_refl s)
  | put _ => exact execPut_keeps (keeps_refl s)
  | sendComplete _ => exact execSendComplete_keeps (keeps_refl s)
  | vcOwnerChange _ _ => exact execVcOwnerChange_keeps (keeps_refl s)
  | linkCommit _ => exact execLinkCommit_keeps (keeps_refl s)
  | portCommit _ _ => exact execPortCommit_keeps (keeps_refl s)
  | linkPortReset _ _ => exact execLinkPortReset_keeps (keeps_refl s)
  | heartbeatSend => exact execHeartbeatSend_keeps (keeps_refl s)
  | heartbeatReceive => exact execHeartbeatReceive_keeps (keeps_refl s)
  | heartbeatMiss _ => exact execHeartbeatMiss_keeps (keeps_refl s)
  | lost => exact execLost_keeps (keeps_refl s)
  | arrive => exact execArrive_keeps (keeps_refl s)
  | release => exact execRelease_keeps (keeps_refl s)
  | abort => exact execAbort_keeps (keeps_refl s)
  | barrierPoll _ => exact execBarrierPoll_keeps (keeps_refl s)
  | portFenceWrite _ _ => exact execPortFenceWrite_keeps (keeps_refl s)
  | nodeFenceWrite _ _ _ => exact execNodeFenceWrite_keeps (keeps_refl s)
  | rollcallCommit _ => exact execRollcallCommit_keeps (keeps_refl s)
  | sqTailWrite _ _ _ => exact execSqTailWrite_keeps (keeps_refl s)
  | cqHeadWrite _ _ _ => exact execCqHeadWrite_keeps (keeps_refl s)
  | queueEnableWrite _ _ _ _ => exact execQueueEnableWrite_keeps (keeps_refl s)
  | cqTimerExpiry _ _ => exact execCqTimerExpiry_keeps (keeps_refl s)
  | hostCommit _ => exact execHostCommit_keeps (keeps_refl s)
  | perst _ => exact execPerst_keeps (keeps_refl s)
  | flr _ => exact execFlr_keeps (keeps_refl s)
  | partResetWrite _ _ => exact execPartResetWrite_keeps (keeps_refl s)
  | partitionReset _ => exact execPartitionReset_keeps (keeps_refl s)
  | partResetDone _ => exact execPartResetDone_keeps (keeps_refl s)
  | partCommit _ => exact execPartCommit_keeps (keeps_refl s)
  | partRunWrite _ _ => exact execPartRunWrite_keeps (keeps_refl s)
  | compositionChange _ _ _ => exact execCompositionChange_keeps (keeps_refl s)
  | bulkScan _ _ _ => exact execBulkScan_keeps (keeps_refl s)
  | powerCommit _ => exact execPowerCommit_keeps (keeps_refl s)
  | freqChangeDone _ => exact execFreqChangeDone_keeps (keeps_refl s)
  | vidStep _ => exact execVidStep_keeps (keeps_refl s)
  | droopDetect _ => exact execDroopDetect_keeps (keeps_refl s)
  | droopRecover _ _ => exact execDroopRecover_keeps (keeps_refl s)
  | pwrBrownout _ => exact execPwrBrownout_keeps (keeps_refl s)
  | brownoutEnd _ _ => exact execBrownoutEnd_keeps (keeps_refl s)
  | pwrSupplyReset _ => exact execPwrSupplyReset_keeps (keeps_refl s)
  | thermalSample _ => exact execThermalSample_keeps (keeps_refl s)
  | throttleStep _ => exact execThrottleStep_keeps (keeps_refl s)
  | ungateSlot => exact execUngateSlot_keeps (keeps_refl s)
  | engineRestartSlot => exact execEngineRestartSlot_keeps (keeps_refl s)
  | powerOn => exact execPowerOn_keeps (keeps_refl s)
  | pwrOkRise => exact execPwrOkRise_keeps (keeps_refl s)
  | pwrOkFall => exact execPwrOkFall_keeps (keeps_refl s)
  | startupStepDone _ => exact execStartupStepDone_keeps (keeps_refl s)
  | chipRstNAssert _ => exact execChipRstNAssert_keeps (keeps_refl s)
  | chipRstNRelease => exact execChipRstNRelease_keeps (keeps_refl s)
  | rstCmd _ _ => exact execRstCmd_keeps (keeps_refl s)
  | standbyLoss => exact execStandbyLoss_keeps (keeps_refl s)
  | mrExtend _ _ => exact execMrExtend_keeps (keeps_refl s)
  | push _ _ => exact execPush_keeps (keeps_refl s)
  | pushDone _ => exact execPushDone_keeps (keeps_refl s)
  | firmwareStage _ _ => exact execFirmwareStage_keeps (keeps_refl s)
  | getVersion _ => exact execGetVersion_keeps (keeps_refl s)
  | getCapabilities _ => exact execGetCapabilities_keeps (keeps_refl s)
  | negotiateAlgorithms _ _ _ => exact execNegotiateAlgorithms_keeps (keeps_refl s)
  | getDigests _ => exact execGetDigests_keeps (keeps_refl s)
  | getCertificate _ _ _ _ => exact execGetCertificate_keeps (keeps_refl s)
  | challenge _ _ _ => exact execChallenge_keeps (keeps_refl s)
  | getMeasurements _ _ _ _ => exact execGetMeasurements_keeps (keeps_refl s)
  | chunkSend _ _ _ => exact execChunkSend_keeps (keeps_refl s)
  | chunkGet _ _ => exact execChunkGet_keeps (keeps_refl s)
  | getPqCert _ _ _ => exact execGetPqCert_keeps (keeps_refl s)
  | getPqSig _ => exact execGetPqSig_keeps (keeps_refl s)
  | meterIncrement => exact execMeterIncrement_keeps (keeps_refl s)
  | energySample _ => exact execEnergySample_keeps (keeps_refl s)
  | energyApportion => exact execEnergyApportion_keeps (keeps_refl s)
  | meterIntervalExpiry => exact execMeterIntervalExpiry_keeps (keeps_refl s)
  | recordCut => exact execRecordCut_keeps (keeps_refl s)
  | meterStart _ => exact execMeterStart_keeps (keeps_refl s)
  | mirrorRefresh => exact execMirrorRefresh_keeps (keeps_refl s)
  | status _ => exact execStatus_keeps (keeps_refl s)
  | readRecord _ _ _ _ => exact execReadRecord_keeps (keeps_refl s)
  | readCert _ _ _ _ => exact execReadCert_keeps (keeps_refl s)
  | cut _ => exact execCut_keeps (keeps_refl s)
  | writeConfig _ _ _ => exact execWriteConfig_keeps (keeps_refl s)
  | fwPush _ _ _ => exact execFwPush_keeps (keeps_refl s)
  | fwCommit _ => exact execFwCommit_keeps (keeps_refl s)
  | reseal _ _ => exact execReseal_keeps (keeps_refl s)
  | logEventTake => exact execLogEventTake_keeps (keeps_refl s)
  | logTokenRefill _ => exact execLogTokenRefill_keeps (keeps_refl s)
  | logSummaryTimeout _ => exact execLogSummaryTimeout_keeps (keeps_refl s)
  | logPersistWriteDone _ => exact execLogPersistWriteDone_keeps (keeps_refl s)
  | logClear _ _ => exact execLogClear_keeps (keeps_refl s)
  | logCursor _ _ => exact execLogCursor_keeps (keeps_refl s)
  | logWindowAdvance _ => exact execLogWindowAdvance_keeps (keeps_refl s)
  | latchedLowRead _ _ _ => exact execLatchedLowRead_keeps (keeps_refl s)
  | quiesceReqWrite _ _ _ => exact execQuiesceReqWrite_keeps (keeps_refl s)
  | registerWrite _ _ _ _ => exact execRegisterWrite_keeps (keeps_refl s)
  | supplyResetRelease => exact execSupplyResetRelease_keeps (keeps_refl s)
  | recordSigningDone => exact execRecordSigningDone_keeps (keeps_refl s)
  | logPersist => exact execLogPersist_keeps (keeps_refl s)
  | opSecondsTick => exact execOpSecondsTick_keeps (keeps_refl s)

/-- What every step keeps, but for the queue. -/
theorem step_keeps {s t : State} (h : step s = .next t) : (memOk s → memOk t) ∧ (powerOk s → powerOk t) ∧ fusesRise s t := by
  unfold step at h
  split at h
  · cases h
    exact ⟨id, id, fusesRise_refl s⟩
  case _ i rest _ =>
    obtain ⟨-, hkept⟩ := completes_next (exec_keeps i { s with pending := rest }) h
    exact hkept

/-- Settles O57: every command is a composition of operations that keep the memory canonical. -/
theorem memoryStaysCanonical : Obligations.MemoryStaysCanonical := by
  unfold Obligations.MemoryStaysCanonical
  intro s t hs hstep
  obtain ⟨hmem, -, -⟩ := step_keeps hstep
  exact hmem hs

/-- Settles O58: the start-up steps and resets write legal phases and causes, and VID_STEP moves the target within the bounds that
the cores' need has. -/
theorem powerStaysLegal : Obligations.PowerStaysLegal := by
  unfold Obligations.PowerStaysLegal
  intro s t hs hstep
  obtain ⟨-, hpower, -⟩ := step_keeps hstep
  exact hpower hs

/-- Settles O59: resets carry the fuses over, and what burns them only sets bits or counts up. -/
theorem fusesOnlyRise : Obligations.FusesOnlyRise := by
  unfold Obligations.FusesOnlyRise
  intro s t hstep
  obtain ⟨-, -, hfuses⟩ := step_keeps hstep
  exact hfuses

end Sys2Proof.Machine
end

section
/-! SUPPORT. What the commands of frequency, droop, heat and the wake-up slots do to the power manager's state (O45). -/

namespace Sys2Proof.Machine

/-! ### What is noted of the cores' frequencies within a brown-out -/

theorem State.noteCore_eq (s : State) (c : Nat) : ∃ t, s.noteCore c = s.modPwr (fun w => { w with span := t }) := by
  unfold State.noteCore
  split
  · exact ⟨s.pwr.span, rfl⟩
  · exact ⟨_, rfl⟩

/-- Only the spans of the frequencies change. -/
theorem State.noteFreq_eq (s : State) : ∃ t, s.noteFreq = s.modPwr (fun w => { w with span := t }) := by
  unfold State.noteFreq
  induction List.range 144 generalizing s with
  | nil => exact ⟨s.pwr.span, rfl⟩
  | cons c r ih =>
    obtain ⟨t, ht⟩ := s.noteCore_eq c
    obtain ⟨u, hu⟩ := ih (s.noteCore c)
    exact ⟨u, by rw [List.foldl_cons, hu, ht]; rfl⟩

/-- A view of the power manager that leaves the spans out is as it was. -/
theorem State.noteFreq_pwr {β : Type} (g : Power → β) (hg : ∀ w t, g { w with span := t } = g w) (s : State) :
    g s.noteFreq.pwr = g s.pwr := by
  obtain ⟨t, ht⟩ := s.noteFreq_eq
  rw [ht]
  exact hg s.pwr t

/-! ### Frequency and voltage -/

/-- The change of core `c` waits: none is pending, or it is a raise that the target or READ_VOUT does not allow. -/
theorem State.mayChange_eq_false_iff (s : State) (c mv : Nat) : s.mayChange c mv = false ↔
    Tab.get z0 s.pwr.freq c = 0 ∨
      (s.runFreq c < s.coreFreq c ∧ (s.pwr.target < mvFor (s.coreFreq c) ∨ mv < mvFor (s.coreFreq c))) := by
  simp only [State.mayChange, Bool.and_eq_false_iff, Bool.or_eq_false_iff, decide_eq_false_iff_not]
  omega

theorem exec_freqChangeDone_waits {x : CoreMv} {s : State} (h : s.mayChange x.core x.mv.toNat = false) :
    goesTo (exec (.freqChangeDone x) s) s := by
  show execFreqChangeDone x s = .next s
  rw [execFreqChangeDone, h]
  rfl

theorem exec_freqChangeDone_takes {x : CoreMv} {s : State} (h : s.mayChange x.core x.mv.toNat = true) :
    completes (exec (.freqChangeDone x) s) (fun u => u.runFreq x.core = s.coreFreq x.core ∧ Tab.get z0 u.pwr.freq x.core = 0) := by
  obtain ⟨t, ht⟩ := (s.modPwr (fun w => { w with freq := Tab.set z0 w.freq x.core 0 })).noteFreq_eq
  refine ⟨_, by show execFreqChangeDone x s = _; rw [execFreqChangeDone, h]; rfl, ?_⟩
  rw [ht]
  have hnone : Tab.get z0 (Tab.set z0 s.pwr.freq x.core 0) x.core = 0 := Tab.get_set_same ..
  exact ⟨if_pos hnone, hnone⟩

/-! ### Droop -/

/-- The state once the droop of core `c` has ended. -/
def State.droopOver (s : State) (c : Nat) : State :=
  s.modPwr (fun w => { w with
    droop := Tab.set (fun _ => false) w.droop c false
    early := Tab.set (fun _ => false) w.early c false })

theorem exec_droopDetect_begins {x : CoreMv} {s : State} (h : s.coreClocked x.core = true ∧ s.below x.mv.toNat s.droopPct = true) :
    completes (exec (.droopDetect x) s) (fun u => Tab.get (fun _ => false) u.pwr.droop x.core = true) := by
  obtain ⟨hclock, hlow⟩ := h
  refine ⟨_, by show execDroopDetect x s = _; rw [execDroopDetect, hclock, hlow]; rfl, ?_⟩
  exact Tab.get_set_same ..

theorem exec_droopDetect_not {x : CoreMv} {s : State} (h : ¬(s.coreClocked x.core = true ∧ s.below x.mv.toNat s.droopPct = true)) :
    goesTo (exec (.droopDetect x) s) s := by
  show execDroopDetect x s = .next s
  rw [execDroopDetect, if_neg (by simpa using h)]

theorem exec_droopRecover_not {x : CoreMv} {n : Nat} {s : State}
    (h : Tab.get (fun _ => false) s.pwr.droop x.core = false ∨ s.above x.mv.toNat s.droopPct = false) :
    goesTo (exec (.droopRecover x n) s) s := by
  show execDroopRecover x n s = .next s
  rw [execDroopRecover, if_pos (by simpa using h)]

theorem exec_droopRecover_ends {x : CoreMv} {n : Nat} {s : State} (hdroop : Tab.get (fun _ => false) s.pwr.droop x.core = true)
    (hup : s.above x.mv.toNat s.droopPct = true) :
    completes (exec (.droopRecover x n) s) (fun u => Tab.get (fun _ => false) u.pwr.droop x.core = false ∧
      (s.pwr.brownout = false → counted s u 0x2048 n) ∧
      (s.pwr.brownout = true →
        ∃ k, counted s u 0x2048 k ∧ k ≤ if Tab.get (fun _ => false) s.pwr.early x.core then n else 0)) := by
  have hover : Tab.get (fun _ => false) (s.droopOver x.core).pwr.droop x.core = false := Tab.get_set_same ..
  show completes (execDroopRecover x n s) _
  unfold execDroopRecover
  rw [if_neg (by simp [hdroop, hup])]
  cases hbrown : s.pwr.brownout with
  | false =>
    refine ⟨_, rfl, hover, fun _ => ?_, fun h => Bool.noConfusion h⟩
    exact counted_bump (s.droopOver x.core) 0x2048 n
  | true =>
    cases hearly : Tab.get (fun _ => false) s.pwr.early x.core with
    | false =>
      refine ⟨_, rfl, hover, fun h => Bool.noConfusion h, fun _ => ⟨0, ?_, le_rfl⟩⟩
      show (s.reg 0x2048).toNat = _
      omega
    | true =>
      refine ⟨_, rfl, hover, fun h => Bool.noConfusion h, fun _ => ⟨Config.freePick s.free % (n + 1), ?_, ?_⟩⟩
      · exact counted_bump ({ s.droopOver x.core with free := s.free + 1 }) 0x2048 _
      · exact Nat.le_of_lt_succ (Nat.mod_lt _ (Nat.succ_pos n))

/-! ### Heat -/

/-- The greatest of a list of readings is one of them, or 0. -/
theorem foldl_max_spec (l : List Nat) (m : Nat) :
    (∀ d ∈ l, d ≤ l.foldl max m) ∧ m ≤ l.foldl max m ∧ (l.foldl max m = m ∨ l.foldl max m ∈ l) := by
  induction l generalizing m with
  | nil => simp
  | cons d r ih =>
    obtain ⟨hall, hm, hin⟩ := ih (max m d)
    simp only [List.foldl_cons, List.mem_cons, forall_eq_or_imp]
    refine ⟨⟨by omega, hall⟩, by omega, ?_⟩
    rcases hin with h | h
    · rcases max_choice m d with hd | hd <;> omega
    · exact .inr (.inr h)

/-- What the sensor of region `r` does to the region's throttling. -/
def State.sensed (ds : List Nat) (s : State) (r : Nat) : State :=
  let h := Tab.get (fun _ => false) s.pwr.hot r
  let d := ds.getD r 0
  let set (v : Bool) (s : State) : State := s.modPwr (fun w => { w with hot := Tab.set (fun _ => false) w.hot r v })
  if !h && decide (95 ≤ d) then (set true s).logEv 0x0C22 3 none []
  else if h && decide (d < 93) then set false s else s

theorem State.sensed_hot (ds : List Nat) (s : State) (r q : Nat) : Tab.get (fun _ => false) (s.sensed ds r).pwr.hot q =
    if q = r then (if Tab.get (fun _ => false) s.pwr.hot r then decide (93 ≤ ds.getD r 0) else decide (95 ≤ ds.getD r 0))
    else Tab.get (fun _ => false) s.pwr.hot q := by
  unfold State.sensed
  by_cases hq : q = r
  · subst hq
    cases hhot : Tab.get (fun _ => false) s.pwr.hot q <;> dsimp only
    · by_cases hd : 95 ≤ ds.getD q 0 <;> simp [State.logEv, hd, hhot, -List.getD_eq_getElem?_getD]
    · by_cases hd : ds.getD q 0 < 93 <;> simp [hd, hhot, Nat.not_le.mpr, Nat.le_of_not_lt, -List.getD_eq_getElem?_getD]
  · rw [if_neg hq]
    dsimp only
    split
    · exact Tab.get_set_other _ _ _ _ _ hq
    · split
      · exact Tab.get_set_other _ _ _ _ _ hq
      · rfl

/-- A view of the power manager without the regions' throttling stays. -/
theorem State.sensed_pwr {β : Type} (g : Power → β) (hg : ∀ w t, g { w with hot := t } = g w) (ds : List Nat) (s : State) (r : Nat) :
    g (s.sensed ds r).pwr = g s.pwr := by
  unfold State.sensed
  dsimp only
  split
  · exact hg _ _
  · split
    · exact hg _ _
    · rfl

theorem foldl_sensed_hot (ds : List Nat) {l : List Nat} (hnodup : l.Nodup) (s : State) (q : Nat) :
    Tab.get (fun _ => false) (l.foldl (fun s r => s.sensed ds r) s).pwr.hot q =
      if q ∈ l then (if Tab.get (fun _ => false) s.pwr.hot q then decide (93 ≤ ds.getD q 0) else decide (95 ≤ ds.getD q 0))
      else Tab.get (fun _ => false) s.pwr.hot q := by
  induction l generalizing s with
  | nil => rfl
  | cons r l ih =>
    obtain ⟨hr, hl⟩ := List.nodup_cons.1 hnodup
    rw [List.foldl_cons, ih hl, State.sensed_hot]
    by_cases hq : q = r
    · subst hq
      simp [hr]
    · simp [hq]

/-- A trip changes the trip itself, the spans and the log's queue alone. -/
theorem State.trip_eq (s : State) : ∃ t l, s.trip = { s with log := l, pwr := { s.pwr with span := t, tripped := true } } := by
  unfold State.trip
  split
  case isTrue h => exact ⟨s.pwr.span, s.log, by rw [← h]⟩
  case isFalse =>
    obtain ⟨t, ht⟩ := (s.modPwr (fun w => { w with tripped := true })).noteFreq_eq
    rw [ht]
    exact ⟨t, _, rfl⟩

/-- The temperatures that THERMAL_SAMPLE reports, by region. -/
def degsOf (deg : List Nat) : List Nat := (List.range 36).map (fun r => deg.getD r 0)

theorem degsOf_getD (deg : List Nat) {d : Nat} (hd : d < 36) : (degsOf deg).getD d 0 = deg.getD d 0 := by
  simp [degsOf, hd, -List.getD_eq_getElem?_getD, List.getD_eq_getElem]

theorem mem_degsOf (deg : List Nat) (n : Nat) : n ∈ degsOf deg ↔ ∃ d, d < 36 ∧ n = deg.getD d 0 := by
  simp only [degsOf, List.mem_map, List.mem_range, eq_comm]

/-- The state with the sensors' readings, before the regions answer to them. -/
def State.measured (s : State) (deg : List Nat) : State :=
  s.modPwr (fun w => { w with
    tj := (degsOf deg).foldl max 0, deg := (List.range 36).foldl (fun t r => Tab.set z0 t r ((degsOf deg).getD r 0)) w.deg })

/-- The state once the regions have answered, with PWR_THROTTLE_CNT. -/
def State.regionsAnswered (s : State) (deg : List Nat) : State :=
  let t := (List.range 36).foldl (fun s r => s.sensed (degsOf deg) r) (s.measured deg)
  if t.throttled then t.bump 0x1218 10 else t

/-- A view of the power manager that leaves the readings out is as it was. -/
theorem State.measured_pwr {β : Type} (g : Power → β) (hg : ∀ w n t, g { w with tj := n, deg := t } = g w) (s : State) (deg : List Nat) :
    g (s.measured deg).pwr = g s.pwr := hg _ _ _

theorem exec_thermalSample {deg : List Nat} {s : State} (h : s.powered = true) : exec (.thermalSample deg) s =
    .next (if 105 ≤ (degsOf deg).foldl max 0 then (s.regionsAnswered deg).trip else s.regionsAnswered deg) := by
  show execThermalSample deg s = _
  rw [execThermalSample, h]
  rfl

theorem State.regionsAnswered_hot (s : State) (deg : List Nat) {d : Nat} (hd : d < 36) :
    Tab.get (fun _ => false) (s.regionsAnswered deg).pwr.hot d =
      if Tab.get (fun _ => false) s.pwr.hot d then decide (93 ≤ deg.getD d 0) else decide (95 ≤ deg.getD d 0) := by
  have hall := foldl_sensed_hot (degsOf deg) (List.nodup_range (n := 36)) (s.measured deg) d
  rw [if_pos (List.mem_range.2 hd), degsOf_getD deg hd, State.measured_pwr Power.hot (fun _ _ _ => rfl)] at hall
  unfold State.regionsAnswered
  generalize (List.range 36).foldl (fun s r => s.sensed (degsOf deg) r) (s.measured deg) = t at hall ⊢
  dsimp only
  split <;> exact hall

/-- A view of the power manager without the regions' throttling is as the readings left it. -/
theorem State.regionsAnswered_pwr {β : Type} (g : Power → β) (hg : ∀ w t, g { w with hot := t } = g w) (s : State) (deg : List Nat) :
    g (s.regionsAnswered deg).pwr = g (s.measured deg).pwr := by
  have hall := foldl_unchanged (fun s : State => g s.pwr) (fun s r => State.sensed_pwr g hg (degsOf deg) s r) (List.range 36) (s.measured deg)
  unfold State.regionsAnswered
  generalize (List.range 36).foldl (fun s r => s.sensed (degsOf deg) r) (s.measured deg) = t at hall ⊢
  dsimp only
  split <;> exact hall

theorem State.measured_deg (s : State) (deg : List Nat) {d : Nat} (hd : d < 36) :
    Tab.get z0 (s.measured deg).pwr.deg d = deg.getD d 0 := by
  have hall := get_foldl_set z0 (fun r => (degsOf deg).getD r 0) (List.range 36) s.pwr.deg d
  rw [if_pos (List.mem_range.2 hd), degsOf_getD deg hd] at hall
  exact hall

theorem exec_thermalSample_reads {deg : List Nat} {s : State} (h : s.powered = true) :
    completes (exec (.thermalSample deg) s) (fun u => (∀ d, d < 36 → deg.getD d 0 ≤ u.pwr.tj) ∧
      (u.pwr.tj = 0 ∨ ∃ d, d < 36 ∧ u.pwr.tj = deg.getD d 0) ∧ u.pwr.tripped = decide (105 ≤ u.pwr.tj) ∧
      ∀ d, d < 36 → Tab.get z0 u.pwr.deg d = deg.getD d 0 ∧ Tab.get (fun _ => false) u.pwr.hot d =
        if Tab.get (fun _ => false) s.pwr.hot d then decide (93 ≤ deg.getD d 0) else decide (95 ≤ deg.getD d 0)) := by
  obtain ⟨hall, -, hin⟩ := foldl_max_spec (degsOf deg) 0
  rw [mem_degsOf] at hin
  have hread := exec_thermalSample (deg := deg) h
  have htj : (s.regionsAnswered deg).pwr.tj = (degsOf deg).foldl max 0 := State.regionsAnswered_pwr Power.tj (fun _ _ => rfl) s deg
  have hle : ∀ d, d < 36 → deg.getD d 0 ≤ (degsOf deg).foldl max 0 := fun d hd => hall _ ((mem_degsOf deg _).2 ⟨d, hd, rfl⟩)
  generalize (degsOf deg).foldl max 0 = tj at hread htj hle hin
  have hdeg (d : Nat) (hd : d < 36) : Tab.get z0 (s.regionsAnswered deg).pwr.deg d = deg.getD d 0 := by
    rw [State.regionsAnswered_pwr Power.deg (fun _ _ => rfl) s deg, State.measured_deg s deg hd]
  have huntripped : (s.regionsAnswered deg).pwr.tripped = false := by
    rw [State.regionsAnswered_pwr Power.tripped (fun _ _ => rfl) s deg, State.measured_pwr Power.tripped (fun _ _ _ => rfl)]
    simp only [State.powered, Bool.and_eq_true, Bool.not_eq_true'] at h
    exact h.2
  refine ⟨_, hread, ?_⟩
  split
  case isTrue hhot =>
    obtain ⟨t, l, ht⟩ := (s.regionsAnswered deg).trip_eq
    rw [ht]
    dsimp only
    rw [htj]
    exact ⟨hle, hin, (decide_eq_true hhot).symm, fun d hd => ⟨hdeg d hd, s.regionsAnswered_hot deg hd⟩⟩
  case isFalse hcool =>
    rw [htj, huntripped]
    exact ⟨hle, hin, (decide_eq_false hcool).symm, fun d hd => ⟨hdeg d hd, s.regionsAnswered_hot deg hd⟩⟩

theorem exec_throttleStep_trips {r : Fin 36} {s : State} (h : s.powered = true) (hhot : 105 ≤ s.pwr.tj) :
    completes (exec (.throttleStep r) s) (fun u => u.pwr.tripped = true) := by
  obtain ⟨t, l, ht⟩ := s.trip_eq
  refine ⟨s.trip, ?_, by rw [ht]⟩
  show execThrottleStep r s = _
  rw [execThrottleStep, h, if_neg (by decide), if_pos hhot]

theorem exec_throttleStep_steps {r : Fin 36} {s : State} (h : s.powered = true) (hcool : s.pwr.tj < 105) :
    let low := Tab.get z0 s.pwr.lowered r
    let top := (s.enabledCores.filter (fun d => decide (regionOf d = r.val))).foldl (fun m d => max m (s.runFreq d)) 8
    let d := Tab.get z0 s.pwr.deg r
    completes (exec (.throttleStep r) s) (fun u => Tab.get z0 u.pwr.lowered r =
      if 95 ≤ d then (if 8 + low < top then low + 1 else low) else if d < 93 then low - 1 else low) := by
  refine ⟨_, by show execThrottleStep r s = _; rw [execThrottleStep, h, if_neg (by decide), if_neg (Nat.not_le.2 hcool)], ?_⟩
  dsimp only
  rw [State.noteFreq_pwr Power.lowered (fun _ _ => rfl)]
  exact Tab.get_set_same ..

/-! ### The wake-up slots -/

/-- A slot that leaves requests of the queue `q` behind is counted once. -/
theorem State.countWait_counted (s : State) (eng : Bool) (q : List Nat) (k : Nat) :
    counted s (s.countWait eng (q.drop k)) 0x1220 (if q.length ≤ k ∨ s.pwr.rampAt = some (s.clk / 25, !eng) then 0 else 1) := by
  have hnot : counted s s 0x1220 0 := by unfold counted; omega
  unfold State.countWait
  simp only [List.drop_eq_nil_iff]
  by_cases hleft : q.length ≤ k
  · simp only [hleft, true_or, if_true]
    exact hnot
  · simp only [hleft, false_or, if_false]
    split
    · exact hnot
    · exact counted_bump (s.modPwr _) 0x1220 1

/-- A view of the power manager that leaves out the slot last counted is as it was. -/
theorem State.countWait_pwr {β : Type} (g : Power → β) (hg : ∀ w r, g { w with rampAt := r } = g w) (s : State) (eng : Bool)
    (left : List Nat) : g (s.countWait eng left).pwr = g s.pwr := by
  unfold State.countWait
  dsimp only
  split
  · rfl
  · split
    · exact hg _ _
    · exact hg _ _

theorem State.countWait_core (s : State) (eng : Bool) (left : List Nat) (d : Nat) : (s.countWait eng left).core d = s.core d := by
  unfold State.countWait
  dsimp only
  split
  · rfl
  · split <;> rfl

/-- A core that is released stays ungated and zeroing while others are. -/
theorem State.ungate_keeps_ungated (s : State) (c d : Nat)
    (h : Tab.get (fun _ => false) s.pwr.ungated d = true ∧ (s.core d).zeroing = true) :
    Tab.get (fun _ => false) (s.ungate c).pwr.ungated d = true ∧ ((s.ungate c).core d).zeroing = true := by
  obtain ⟨hu, hz⟩ := h
  refine ⟨(Tab.get_set _ _ _ _ _).trans ?_, ?_⟩
  · split
    · rfl
    · exact hu
  · rw [State.ungate, State.modCore, State.setCore_core]
    split
    · rfl
    · exact hz

theorem State.ungate_ungated (s : State) (c : Nat) :
    Tab.get (fun _ => false) (s.ungate c).pwr.ungated c = true ∧ ((s.ungate c).core c).zeroing = true := by
  refine ⟨Tab.get_set_same .., ?_⟩
  rw [State.ungate, State.modCore, State.setCore_core, if_pos rfl]

theorem foldl_ungate_ungated (l : List Nat) (s : State) : ∀ d ∈ l,
    Tab.get (fun _ => false) (l.foldl (fun s c => s.ungate c) s).pwr.ungated d = true ∧
      ((l.foldl (fun s c => s.ungate c) s).core d).zeroing = true := by
  have hstays (l : List Nat) (d : Nat) (s : State)
      (h : Tab.get (fun _ => false) s.pwr.ungated d = true ∧ (s.core d).zeroing = true) :
      Tab.get (fun _ => false) (l.foldl (fun s c => s.ungate c) s).pwr.ungated d = true ∧
        ((l.foldl (fun s c => s.ungate c) s).core d).zeroing = true := by
    induction l generalizing s with
    | nil => exact h
    | cons c r ih => exact ih _ (s.ungate_keeps_ungated c d h)
  induction l generalizing s with
  | nil => simp
  | cons c r ih =>
    rintro d (_ | ⟨_, hd⟩)
    · exact hstays r c _ (s.ungate_ungated c)
    · exact ih _ d hd

/-- A view of the state that no release changes is as it was after all of them. -/
theorem foldl_ungate_same {β : Type} (g : State → β) (hg : ∀ s c, g (s.ungate c) = g s) (l : List Nat) (s : State) :
    g (l.foldl (fun s c => s.ungate c) s) = g s := foldl_unchanged g hg l s

/-- The state once the cores at the head of the queue have been released. -/
def State.headUngated (s : State) (k : Nat) : State :=
  (s.pwr.ungateQ.take k).foldl (fun s c => s.ungate c) (s.modPwr (fun w => { w with ungateQ := w.ungateQ.drop k }))

theorem exec_ungateSlot {s : State} (h : s.powered = true) (hsupply : s.pwr.supply = false) (hlow : s.pwr.rstLow = false) :
    let k := if s.pwr.brownout then 0 else s.perSlot
    exec .ungateSlot s = .next ((s.headUngated k).countWait false (s.pwr.ungateQ.drop k)) := by
  show execUngateSlot s = _
  rw [execUngateSlot, h, hsupply, hlow]
  rfl

theorem exec_ungateSlot_ungates {s : State} (h : s.powered = true) (hsupply : s.pwr.supply = false) (hlow : s.pwr.rstLow = false) :
    let k := if s.pwr.brownout then 0 else s.perSlot
    completes (exec .ungateSlot s) (fun u => u.pwr.ungateQ = s.pwr.ungateQ.drop k ∧
      (∀ d ∈ s.pwr.ungateQ.take k, Tab.get (fun _ => false) u.pwr.ungated d = true ∧ (u.core d).zeroing = true) ∧
      counted s u 0x1220 (if s.pwr.ungateQ.length ≤ k ∨ s.pwr.rampAt = some (s.clk / 25, true) then 0 else 1)) := by
  intro k
  have hq : (s.headUngated k).pwr.ungateQ = s.pwr.ungateQ.drop k := foldl_ungate_same (fun s => s.pwr.ungateQ) (fun _ _ => rfl) _ _
  have hramp : (s.headUngated k).pwr.rampAt = s.pwr.rampAt := foldl_ungate_same (fun s => s.pwr.rampAt) (fun _ _ => rfl) _ _
  have hclk : (s.headUngated k).clk = s.clk := foldl_ungate_same State.clk (fun _ _ => rfl) _ _
  have hreg : (s.headUngated k).reg 0x1220 = s.reg 0x1220 := foldl_ungate_same (fun s => s.reg 0x1220) (fun _ _ => rfl) _ _
  have hcount := (s.headUngated k).countWait_counted false s.pwr.ungateQ k
  rw [hramp, hclk, counted, hreg] at hcount
  refine ⟨_, exec_ungateSlot h hsupply hlow, ?_, fun d hd => ?_, hcount⟩
  · rw [State.countWait_pwr Power.ungateQ (fun _ _ => rfl), hq]
  · rw [State.countWait_pwr Power.ungated (fun _ _ => rfl), State.countWait_core]
    exact foldl_ungate_ungated _ _ d hd

theorem exec_engineRestartSlot_restarts {s : State} (h : s.powered = true) :
    let k := if s.pwr.brownout then 0 else s.perSlot
    completes (exec .engineRestartSlot s) (fun u => u.pwr.restartQ = s.pwr.restartQ.drop (16 * k) ∧
      counted s u 0x1220 (if s.pwr.restartQ.length ≤ 16 * k ∨ s.pwr.rampAt = some (s.clk / 25, false) then 0 else 1)) := by
  intro k
  have hk : (if s.pwr.brownout then 0 else 16 * s.perSlot) = 16 * k := by
    show _ = 16 * (if s.pwr.brownout then 0 else s.perSlot)
    split <;> rfl
  have hexec : exec .engineRestartSlot s =
      .next ((s.modPwr (fun w => { w with restartQ := w.restartQ.drop (16 * k) })).countWait true (s.pwr.restartQ.drop (16 * k))) := by
    show execEngineRestartSlot s = _
    rw [execEngineRestartSlot, h, ← hk]
    rfl
  refine ⟨_, hexec, ?_, ?_⟩
  · rw [State.countWait_pwr Power.restartQ (fun _ _ => rfl)]
    rfl
  · exact State.countWait_counted (s.modPwr (fun w => { w with restartQ := w.restartQ.drop (16 * k) })) true s.pwr.restartQ (16 * k)

/-- Without power, neither the heat's commands nor the wake-up slots do anything. -/
theorem exec_heatAndWakeUp_unpowered {s : State} (h : s.powered = false) (deg : List Nat) (r : Fin 36) :
    goesTo (exec (.thermalSample deg) s) s ∧ goesTo (exec (.throttleStep r) s) s ∧
      goesTo (exec .ungateSlot s) s ∧ goesTo (exec .engineRestartSlot s) s := by
  refine ⟨?_, ?_, ?_, ?_⟩
  · show execThermalSample deg s = .next s
    rw [execThermalSample, h]
    rfl
  · show execThrottleStep r s = .next s
    rw [execThrottleStep, h]
    rfl
  · show execUngateSlot s = .next s
    rw [execUngateSlot, h]
    rfl
  · show execEngineRestartSlot s = .next s
    rw [execEngineRestartSlot, h]
    rfl

/-- Settles O45: each command by the case of its guard; the thermal sample by what one region's sensor does, region by region. -/
theorem frequencyHeatAndWakeUp : Obligations.FrequencyHeatAndWakeUp := by
  unfold Obligations.FrequencyHeatAndWakeUp
  intro x n deg r s
  refine ⟨fun h => ?_, fun h => ?_, rfl, rfl, exec_droopDetect_not, exec_droopDetect_begins, exec_droopRecover_not,
    exec_droopRecover_ends, fun h => exec_heatAndWakeUp_unpowered h deg r, fun h => ⟨exec_thermalSample_reads h,
      exec_throttleStep_trips h, exec_throttleStep_steps h, exec_ungateSlot_ungates h, exec_engineRestartSlot_restarts h⟩⟩
  · exact exec_freqChangeDone_waits ((s.mayChange_eq_false_iff x.core x.mv.toNat).2 h)
  · refine exec_freqChangeDone_takes (Bool.not_eq_false _ ▸ fun hwaits => h ?_)
    exact (s.mayChange_eq_false_iff x.core x.mv.toNat).1 hwaits

end Sys2Proof.Machine
end

section
/-! SUPPORT. What forming and programming stripes leaves of a namespace, and what holding and releasing long operations does to their
states (O46, O47). -/

namespace Sys2Proof.Machine

/-! ### What stripes leave of a namespace (R312, R330) -/

/-- A namespace but for what forming and programming stripes changes. -/
def Ns.held (n : Ns) : Ns :=
  { n with staging := [], seq := 0, hostSb := [], colSb := [], flying := [], again := [], sbs := ⟨[]⟩, colSince := 0, jAt := 0 }

@[simp] theorem Ns.held_stopped (n : Ns) : n.held.stopped = n.stopped := rfl

theorem Ns.timed_held (n old : Ns) (clk : Word) : (n.timed old clk).held = n.held := by
  unfold Ns.timed
  split <;> rfl

theorem State.modNs_ns_other (s : State) {p q : Nat} (f : Ns → Ns) (h : q ≠ p) : (s.modNs p f).ns q = s.ns q := by
  rw [State.modNs_ns, if_neg h]

theorem State.modNs_held {s : State} {p : Nat} {f : Ns → Ns} (h : (f (s.ns p)).held = (s.ns p).held) (q : Nat) :
    ((s.modNs p f).ns q).held = (s.ns q).held := by
  rw [State.modNs_ns]
  split
  case isTrue hq => rw [Ns.timed_held, h, hq]
  case isFalse => rfl

theorem Ns.takeRow_held {n m : Ns} {host high : Bool} {rows b r : Nat} (h : n.takeRow host high rows = some (b, r, m)) :
    m.held = n.held := by
  unfold Ns.takeRow at h
  dsimp only at h
  split at h
  · cases h
  · simp only [Option.some.injEq, Prod.mk.injEq] at h
    obtain ⟨-, -, rfl⟩ := h
    cases host <;> rfl

/-- What the stripes of partition `p` do not change, of its namespace and of the others. -/
def State.besidesStripes (s : State) (p q : Nat) : Ns := if q = p then (s.ns q).held else s.ns q

theorem State.besidesStripes_of_arc {s t : State} (h : s.arc = t.arc) (p q : Nat) : s.besidesStripes p q = t.besidesStripes p q := by
  unfold State.besidesStripes State.ns
  rw [h]

section
variable (s : State) (p q : Nat)

theorem State.bump_besidesStripes (a n : Nat) : (s.bump a n).besidesStripes p q = s.besidesStripes p q :=
  State.besidesStripes_of_arc (s.setReg_arc a _) p q

theorem State.modNs_besidesStripes {s : State} {f : Ns → Ns} (h : (f (s.ns p)).held = (s.ns p).held) :
    (s.modNs p f).besidesStripes p q = s.besidesStripes p q := by
  unfold State.besidesStripes
  split
  case isTrue => exact State.modNs_held h q
  case isFalse hq => exact s.modNs_ns_other f hq

theorem State.memberProgs_besidesStripes (b n : Nat) : (s.memberProgs p b n).besidesStripes p q = s.besidesStripes p q :=
  foldl_unchanged (fun s : State => s.besidesStripes p q)
    (fun s m => by rw [State.fcProg, State.bump_besidesStripes, State.bump_besidesStripes]) _ s

theorem State.launch_besidesStripes (st : Stripe) (again : Bool) : (s.launch p st again).besidesStripes p q = s.besidesStripes p q := by
  unfold State.launch
  dsimp only
  rw [State.modNs_besidesStripes p q (by rfl)]
  split
  · rw [State.bump_besidesStripes, State.memberProgs_besidesStripes]
  · rw [State.bump_besidesStripes, State.bump_besidesStripes, State.memberProgs_besidesStripes]

theorem State.enter_besidesStripes (st : Stripe) (again : Bool) : (s.enter p st again).besidesStripes p q = s.besidesStripes p q := by
  unfold State.enter State.launchSum
  dsimp only
  split
  · split
    · rw [State.launch_besidesStripes, State.launch_besidesStripes]
    · exact s.launch_besidesStripes ..
  · exact s.launch_besidesStripes ..

theorem State.relaunch_besidesStripes (k : Nat) : (s.relaunch p k).besidesStripes p q = s.besidesStripes p q := by
  induction k generalizing s with
  | zero => rfl
  | succ k ih =>
    unfold State.relaunch
    dsimp only
    split
    · rfl
    · split
      · rfl
      · split
        · rw [ih, State.modNs_besidesStripes p q (by rfl)]
        · split
          · rfl
          · rw [ih, State.launch_besidesStripes, State.modNs_besidesStripes p q (by split <;> rfl)]

theorem State.formStripes_besidesStripes (close : Bool) (fuel : Nat) :
    (s.formStripes p close fuel).besidesStripes p q = s.besidesStripes p q := by
  induction fuel generalizing s with
  | zero => rfl
  | succ k ih =>
    unfold State.formStripes
    dsimp only
    have hwait (s : State) (a : Nat) : (s.waitCycles a).besidesStripes p q = s.besidesStripes p q := by
      rw [State.waitCycles, State.bump_besidesStripes]
      exact State.besidesStripes_of_arc rfl p q
    split
    · rfl
    · split
      · exact hwait ..
      · split
        · exact hwait ..
        · split
          · rfl
          next b r m htake =>
            have hrow : m.held = (s.ns p).held := Ns.takeRow_held htake
            rw [ih, State.enter_besidesStripes, State.modNs_besidesStripes p q hrow]

/-- Forming stripes changes of a namespace what `Ns.held` leaves out, and no other namespace. -/
theorem State.fillStripes_besidesStripes (close : Bool) : (s.fillStripes p close).besidesStripes p q = s.besidesStripes p q := by
  have hlet : (s.letIn p).besidesStripes p q = s.besidesStripes p q := by
    unfold State.letIn
    split
    · rfl
    · exact State.modNs_besidesStripes p q rfl
  rw [State.fillStripes, State.formStripes_besidesStripes, State.relaunch_besidesStripes, hlet]

theorem State.fillStripes_held (close : Bool) : ((s.fillStripes p close).ns q).held = (s.ns q).held := by
  have h := s.fillStripes_besidesStripes p q close
  unfold State.besidesStripes at h
  split at h
  · exact h
  · rw [h]

theorem State.fillStripes_ns_other {p q : Nat} (close : Bool) (hq : q ≠ p) : (s.fillStripes p close).ns q = s.ns q := by
  have h := s.fillStripes_besidesStripes p q close
  rwa [State.besidesStripes, State.besidesStripes, if_neg hq, if_neg hq] at h

theorem State.fillStripes_stopped (close : Bool) : ((s.fillStripes p close).ns q).stopped = (s.ns q).stopped :=
  by rw [← Ns.held_stopped, s.fillStripes_held, Ns.held_stopped]

theorem State.fillStripes_parts (close : Bool) : (s.fillStripes p close).parts = s.parts :=
  State.fillStripes_unchanged (g := State.parts) (fun _ _ => rfl) (fun _ _ _ => rfl) (fun _ _ _ _ => rfl) (fun _ _ _ _ => rfl) s p close

theorem State.fillStripes_pwr (close : Bool) : (s.fillStripes p close).pwr = s.pwr :=
  State.fillStripes_unchanged (g := State.pwr) (fun _ _ => rfl) (fun _ _ _ => rfl) (fun _ _ _ _ => rfl) (fun _ _ _ _ => rfl) s p close

theorem State.fillStripes_log (close : Bool) : (s.fillStripes p close).log = s.log :=
  State.fillStripes_unchanged (g := State.log) (fun _ _ => rfl) (fun _ _ _ => rfl) (fun _ _ _ _ => rfl) (fun _ _ _ _ => rfl) s p close

/-- The programs of stripes count on the pages of the flash channels and the partitions' ARCHIVE counters alone. -/
theorem State.fillStripes_reg {a : Nat} (ha : a < 0x63040) (close : Bool) : (s.fillStripes p close).reg a = s.reg a :=
  State.fillStripes_unchanged (g := fun s => s.reg a) (fun _ _ => rfl) (fun _ _ _ => rfl)
    (fun s q k n => s.bump_reg_other n (by unfold arcCnt; omega)) (fun s c k n => s.bump_reg_other n (by unfold fcP; omega)) s p close

end

/-! ### States of long operations (R330, R385) -/

/-- Operation `o` of partition `p` goes to state `v` where `sel` selects it. -/
def State.turnOp (sel : Option ResetRun → Losw → Bool) (v p : Nat) (s : State) (o : Nat) : State :=
  if sel (s.part p).reset (s.losw p o) then s.modLosw p o (fun l => { l with state := v }) else s

section
variable (sel : Option ResetRun → Losw → Bool) (v : Nat) (s : State) (p : Nat)

theorem State.modLosw_losw_at (o q k : Nat) (f : Losw → Losw) :
    (s.modLosw p o f).losw q k = if q = p ∧ k = o then f (s.losw p o) else s.losw q k := by
  unfold State.modLosw
  rw [State.losw, State.modPart_part]
  by_cases hq : q = p
  · subst hq
    rw [if_pos rfl]
    dsimp only
    rw [Tab.get_set]
    simp only [true_and]
    rfl
  · simp only [hq, false_and, if_false]
    rfl

theorem State.modLosw_reset (o q : Nat) (f : Losw → Losw) : ((s.modLosw p o f).part q).reset = (s.part q).reset := by
  rw [State.modLosw, State.modPart_part]
  split
  case isTrue hq => rw [hq]
  case isFalse => rfl

theorem State.turnOp_losw (o q k : Nat) : (s.turnOp sel v p o).losw q k =
    if q = p ∧ k = o ∧ sel (s.part p).reset (s.losw p o) = true then { s.losw p o with state := v } else s.losw q k := by
  unfold State.turnOp
  split
  case isTrue h => simp only [State.modLosw_losw_at, h, and_true]
  case isFalse h => simp only [h, and_false, if_false, Bool.false_eq_true]

theorem State.turnOp_reset (o q : Nat) : ((s.turnOp sel v p o).part q).reset = (s.part q).reset := by
  unfold State.turnOp
  split
  · exact s.modLosw_reset p o q _
  · rfl

/-- Each operation listed that is selected goes to state `v`, and no other changes. -/
theorem foldl_turnOp_losw {l : List Nat} (hnodup : l.Nodup) (q k : Nat) : (l.foldl (fun s o => s.turnOp sel v p o) s).losw q k =
    if q = p ∧ k ∈ l ∧ sel (s.part p).reset (s.losw p k) = true then { s.losw p k with state := v } else s.losw q k := by
  induction l generalizing s with
  | nil => simp
  | cons o r ih =>
    obtain ⟨ho, hr⟩ := List.nodup_cons.1 hnodup
    rw [List.foldl_cons, ih _ hr, State.turnOp_losw, State.turnOp_losw, State.turnOp_reset]
    by_cases hk : k = o
    · subst hk
      simp [ho]
    · simp [hk]

theorem foldl_turnOp_other {β : Type} (g : State → β) (hg : ∀ (s : State) o f, g (s.modLosw p o f) = g s) (l : List Nat) :
    g (l.foldl (fun s o => s.turnOp sel v p o) s) = g s :=
  foldl_unchanged g (fun s o => by unfold State.turnOp; split; exacts [hg .., rfl]) l s

end

/-- What `State.flashOp` asks of an operation. -/
def waitsForFlash (r : Option ResetRun) (l : Losw) : Bool :=
  decide (l.state = 2) && (l.flash ||
    (decide (l.op = 7) && (match r with
      | some r => decide (r.step = 7)
      | none => false)))

theorem State.pauseOps_eq (s : State) (p : Nat) : s.pauseOps p = slots32.foldl (fun s o => s.turnOp waitsForFlash 6 p o) s := rfl

theorem State.pauseOps_losw (s : State) (p q k : Nat) : (s.pauseOps p).losw q k =
    if q = p ∧ k < 32 ∧ s.flashOp p k = true then { s.losw p k with state := 6 } else s.losw q k := by
  rw [State.pauseOps_eq, slots32, foldl_turnOp_losw _ _ _ _ List.nodup_range]
  simp only [List.mem_range]
  rfl

theorem State.resumeOps_eq (s : State) (p : Nat) :
    s.resumeOps p = slots32.foldl (fun s o => s.turnOp (fun _ l => decide (l.state = 6)) 2 p o) s := by
  unfold State.resumeOps State.turnOp
  simp only [decide_eq_true_eq]

theorem State.resumeOps_losw (s : State) (p q k : Nat) : (s.resumeOps p).losw q k =
    if q = p ∧ k < 32 ∧ (s.losw p k).state = 6 then { s.losw p k with state := 2 } else s.losw q k := by
  rw [State.resumeOps_eq, slots32, foldl_turnOp_losw _ _ _ _ List.nodup_range]
  simp only [List.mem_range, decide_eq_true_eq]

theorem State.flashOp_congr {s t : State} {p o : Nat} (h : s.part p = t.part p) : s.flashOp p o = t.flashOp p o := by
  unfold State.flashOp State.losw
  rw [h]

end Sys2Proof.Machine
end

section
/-! SUPPORT. The brown-out, its end, the supply reset and its release (O46). -/

namespace Sys2Proof.Machine

section
variable (s : State) (a n code sev : Nat) (part : Option Nat) (data : List Byte)

theorem State.logEv_reg (a : Nat) : (s.logEv code sev part data).reg a = s.reg a := rfl
theorem State.logEv_arc : (s.logEv code sev part data).arc = s.arc := rfl
theorem State.logEv_parts : (s.logEv code sev part data).parts = s.parts := rfl
theorem State.logEv_pwr : (s.logEv code sev part data).pwr = s.pwr := rfl
theorem State.bump_arc : (s.bump a n).arc = s.arc := s.setReg_arc a _
theorem State.bump_parts : (s.bump a n).parts = s.parts := s.setReg_parts a _
theorem State.bump_pwr : (s.bump a n).pwr = s.pwr := s.setReg_pwr a _
theorem State.bump_log : (s.bump a n).log = s.log := s.setReg_log a _

end

/-! ### A brown-out begins (R330, R418) -/

/-- Partition `p` starts no program any more, and what waits for one is paused. -/
def State.holdFlash (s : State) (p : Nat) : State := (s.modNs p (fun n => { n with stopped := true })).pauseOps p

/-- A view of the state without the namespaces and the partitions stays while flash programs are held. -/
theorem State.holdFlash_same {β : Type} (g : State → β) (hg : ∀ (s : State) a t, g { s with arc := a, parts := t } = g s) (s : State)
    (p : Nat) : g (s.holdFlash p) = g s := by
  rw [State.holdFlash, State.pauseOps_eq, foldl_turnOp_other _ _ _ _ g (fun s o f => hg s s.arc _)]
  exact hg s _ s.parts

theorem State.pauseOps_arc (s : State) (p : Nat) : (s.pauseOps p).arc = s.arc := by
  rw [State.pauseOps_eq, foldl_turnOp_other _ _ _ _ State.arc (fun _ _ _ => rfl)]

theorem State.pauseOps_part_other (s : State) {p q : Nat} (hq : q ≠ p) : (s.pauseOps p).part q = s.part q := by
  rw [State.pauseOps_eq]
  exact foldl_turnOp_other _ _ _ _ (fun s : State => s.part q) (fun s o f => by rw [State.modLosw, State.modPart_part, if_neg hq]) _

theorem State.ns_of_arc {s t : State} (h : s.arc = t.arc) (q : Nat) : s.ns q = t.ns q := by
  unfold State.ns
  rw [h]

theorem State.holdFlash_ns (s : State) (p q : Nat) :
    (s.holdFlash p).ns q = if q = p then { s.ns p with stopped := true } else s.ns q := by
  rw [State.holdFlash, State.ns_of_arc (State.pauseOps_arc ..), State.modNs_ns, Ns.timed, if_pos rfl]

theorem State.holdFlash_losw (s : State) (p k : Nat) (hk : k < 32) :
    ((s.holdFlash p).losw p k).state = if s.flashOp p k then 6 else (s.losw p k).state := by
  have hflash : (s.modNs p (fun n => { n with stopped := true })).flashOp p k = s.flashOp p k := State.flashOp_congr rfl
  rw [State.holdFlash, State.pauseOps_losw, hflash]
  simp only [hk, true_and]
  split <;> rfl

theorem State.holdFlash_other (s : State) {p q : Nat} (hq : q ≠ p) :
    (s.holdFlash p).ns q = s.ns q ∧ (s.holdFlash p).part q = s.part q := by
  refine ⟨?_, ?_⟩
  · rw [State.holdFlash_ns, if_neg hq]
  · rw [State.holdFlash, State.pauseOps_part_other _ hq]
    rfl

/-- What a brown-out does to the namespace and the long operations of a partition. -/
def flashHeld (s u : State) (p : Nat) : Prop :=
  (u.ns p).stopped = true ∧ (u.ns p).map = (s.ns p).map ∧
    ∀ o, o < 32 → (u.losw p o).state = if s.flashOp p o then 6 else (s.losw p o).state

theorem foldl_holdFlash (s : State) {p : Nat} (hp : p < 16) : flashHeld s (parts16.foldl (fun s p => s.holdFlash p) s) p := by
  refine foldl_at (P := fun t => t.ns p = s.ns p ∧ t.part p = s.part p) (Q := fun t => flashHeld s t p) (h := p)
    (List.mem_range.2 hp) List.nodup_range ?_ ?_ ?_ ⟨rfl, rfl⟩
  · rintro t q - hq ⟨hns, hpart⟩
    obtain ⟨hns', hpart'⟩ := t.holdFlash_other (Ne.symm hq)
    exact ⟨hns'.trans hns, hpart'.trans hpart⟩
  · rintro t ⟨hns, hpart⟩
    refine ⟨?_, ?_, fun o ho => ?_⟩
    · rw [State.holdFlash_ns, if_pos rfl]
    · rw [State.holdFlash_ns, if_pos rfl, hns]
    · rw [State.holdFlash_losw t p o ho, State.flashOp_congr hpart, State.losw, hpart]
      rfl
  · rintro t q - hq ⟨hstop, hmap, hops⟩
    obtain ⟨hns, hpart⟩ := t.holdFlash_other (Ne.symm hq)
    refine ⟨by rw [hns, hstop], by rw [hns, hmap], fun o ho => ?_⟩
    rw [State.losw, hpart]
    exact hops o ho

/-- The power manager's part of a brown-out's start. -/
def State.sagged (s : State) (mv : Nat) : State :=
  ((s.senseNow mv).modPwr (fun w => { w with brownout := true, early := w.droop, span := Tab.empty })).noteFreq

theorem State.sagged_eq (s : State) (mv : Nat) : ∃ w, s.sagged mv = { s with pwr := w } ∧ w.brownout = true ∧ w.sense = mv := by
  obtain ⟨t, ht⟩ := ((s.senseNow mv).modPwr (fun w => { w with brownout := true, early := w.droop, span := Tab.empty })).noteFreq_eq
  exact ⟨_, ht, rfl, rfl⟩

theorem exec_pwrBrownout_not {mv : BitVec 10} {s : State}
    (h : ¬(s.powered = true ∧ s.pwr.brownout = false ∧ s.pwr.supply = false ∧ s.pwr.rstLow = false) ∨ s.below mv.toNat s.warnPct = false) :
    goesTo (exec (.pwrBrownout mv) s) s := by
  change execPwrBrownout mv s = .next s
  unfold execPwrBrownout
  rw [if_pos]
  revert h
  cases s.powered <;> cases s.pwr.brownout <;> cases s.pwr.supply <;> cases s.pwr.rstLow <;> cases s.below mv.toNat s.warnPct <;> decide

theorem exec_pwrBrownout {mv : BitVec 10} {s : State}
    (h : s.powered = true ∧ s.pwr.brownout = false ∧ s.pwr.supply = false ∧ s.pwr.rstLow = false) (hlow : s.below mv.toNat s.warnPct = true) :
    exec (.pwrBrownout mv) s =
      .next (((parts16.foldl (fun s p => s.holdFlash p) (s.sagged mv.toNat)).bump 0x1200 1).logEv 0x0C20 4 none []) := by
  obtain ⟨hpowered, hbrown, hsupply, hrst⟩ := h
  change execPwrBrownout mv s = _
  unfold execPwrBrownout
  rw [hpowered, hbrown, hsupply, hrst, hlow, if_neg (by decide)]
  rfl

theorem exec_pwrBrownout_holds {mv : BitVec 10} {s : State}
    (h : s.powered = true ∧ s.pwr.brownout = false ∧ s.pwr.supply = false ∧ s.pwr.rstLow = false) (hlow : s.below mv.toNat s.warnPct = true) :
    completes (exec (.pwrBrownout mv) s) (fun u => u.pwr.brownout = true ∧ u.pwr.sense = mv.toNat ∧
      u.log.queue = putEvent s.log.queue ⟨0x0C20, 4, none, [], s.clk⟩ ∧ counted s u 0x1200 1 ∧
      ∀ p, p < 16 → (u.ns p).stopped = true ∧ (u.ns p).map = (s.ns p).map ∧
        ∀ o, o < 32 → (u.losw p o).state = if s.flashOp p o then 6 else (s.losw p o).state) := by
  obtain ⟨w, hsag, hbrown, hsense⟩ := s.sagged_eq mv.toNat
  have hsame {β : Type} (g : State → β) (hg : ∀ (s : State) a t, g { s with arc := a, parts := t } = g s) :
      g (parts16.foldl (fun s p => s.holdFlash p) (s.sagged mv.toNat)) = g (s.sagged mv.toNat) :=
    foldl_unchanged g (State.holdFlash_same g hg) _ _
  have hheld (p : Nat) (hp : p < 16) := foldl_holdFlash (s.sagged mv.toNat) hp
  have hpwr := hsame State.pwr (fun _ _ _ => rfl)
  have hlog := hsame State.log (fun _ _ _ => rfl)
  have hclk := hsame State.clk (fun _ _ _ => rfl)
  have hregs := hsame (fun s => s.reg 0x1200) (fun _ _ _ => rfl)
  refine ⟨_, exec_pwrBrownout h hlow, ?_⟩
  generalize parts16.foldl (fun s p => s.holdFlash p) (s.sagged mv.toNat) = v at hheld hpwr hlog hclk hregs
  have hcount : counted v ((v.bump 0x1200 1).logEv 0x0C20 4 none []) 0x1200 1 := by
    rw [counted, State.logEv_reg]
    exact counted_bump v 0x1200 1
  rw [hsag] at hheld hpwr hlog hclk hregs
  have harc : ((v.bump 0x1200 1).logEv 0x0C20 4 none []).arc = v.arc := by
    rw [State.logEv_arc, State.bump_arc]
  have hparts : ((v.bump 0x1200 1).logEv 0x0C20 4 none []).parts = v.parts := by
    rw [State.logEv_parts, State.bump_parts]
  refine ⟨?_, ?_, ?_, ?_, fun p hp => ?_⟩
  · rw [State.logEv_pwr, State.bump_pwr, hpwr]
    exact hbrown
  · rw [State.logEv_pwr, State.bump_pwr, hpwr]
    exact hsense
  · show putEvent (v.bump 0x1200 1).log.queue ⟨0x0C20, 4, none, [], (v.bump 0x1200 1).clk⟩ = _
    rw [State.bump_log, State.bump_clk, hlog, hclk]
  · rw [counted, hregs] at hcount
    exact hcount
  · obtain ⟨hstop, hmap, hops⟩ := hheld p hp
    rw [State.ns_of_arc harc]
    exact ⟨hstop, hmap, fun o ho => by rw [State.losw_of_parts hparts, hops o ho]; rfl⟩

/-! ### A brown-out ends (R419) -/

/-- Flash programs and erases of partition `p`, and what waits for them, go on. -/
def State.goOn (s : State) (p : Nat) : State := (s.resumeFlash p).resumeOps p

theorem Ns.closePage_stopped (n : Ns) : n.closePage.stopped = n.stopped := by
  unfold Ns.closePage
  split <;> rfl

theorem Ns.closeFull_stopped (k : Nat) (n : Ns) : (Ns.closeFull k n).stopped = n.stopped := by
  induction k generalizing n with
  | zero => rfl
  | succ k ih =>
    unfold Ns.closeFull
    split
    · rw [ih, Ns.closePage_stopped]
    · rfl

theorem Ns.fullPages_stopped (n : Ns) : n.fullPages.stopped = n.stopped := by
  unfold Ns.fullPages
  dsimp only
  split
  · rw [Ns.closePage_stopped, Ns.closeFull_stopped]
  · rw [Ns.closeFull_stopped]

theorem Ns.tryErase_stopped (n : Ns) (rows : Nat) : (n.tryErase rows).stopped = n.stopped := by
  unfold Ns.tryErase
  split
  · rfl
  · split <;> rfl

theorem Ns.timed_stopped (n old : Ns) (clk : Word) : (n.timed old clk).stopped = n.stopped := by
  unfold Ns.timed
  split <;> rfl

theorem State.resumeOps_same {β : Type} (g : State → β) (hg : ∀ (s : State) t, g { s with parts := t } = g s) (s : State) (p : Nat) :
    g (s.resumeOps p) = g s := by
  rw [State.resumeOps_eq, foldl_turnOp_other _ _ _ _ g (fun s o f => hg s _)]

theorem State.resumeOps_part_other (s : State) {p q : Nat} (hq : q ≠ p) : (s.resumeOps p).part q = s.part q := by
  rw [State.resumeOps_eq]
  exact foldl_turnOp_other _ _ _ _ (fun s : State => s.part q) (fun s o f => by rw [State.modLosw, State.modPart_part, if_neg hq]) _

theorem State.resumeFlash_stopped (s : State) (p q : Nat) :
    ((s.resumeFlash p).ns q).stopped = if q = p then false else (s.ns q).stopped := by
  rw [State.resumeFlash, State.fillStripes_stopped, State.modNs_ns]
  split
  · rw [Ns.timed_stopped, Ns.fullPages_stopped, Ns.tryErase_stopped]
  · rfl

theorem State.goOn_stopped (s : State) (p q : Nat) : ((s.goOn p).ns q).stopped = if q = p then false else (s.ns q).stopped := by
  rw [State.goOn, State.resumeOps_same (fun s => (s.ns q).stopped) (fun _ _ => rfl), State.resumeFlash_stopped]

theorem State.resumeFlash_parts (s : State) (p : Nat) : (s.resumeFlash p).parts = s.parts := State.fillStripes_parts _ p false

theorem State.part_of_parts {s t : State} (h : s.parts = t.parts) (p : Nat) : s.part p = t.part p := by
  unfold State.part
  rw [h]

theorem State.goOn_part_other (s : State) {p q : Nat} (hq : q ≠ p) : (s.goOn p).part q = s.part q := by
  rw [State.goOn, State.resumeOps_part_other _ hq, State.part_of_parts (s.resumeFlash_parts p)]

theorem State.goOn_losw (s : State) (p k : Nat) (hk : k < 32) :
    ((s.goOn p).losw p k).state = if (s.losw p k).state = 6 then 2 else (s.losw p k).state := by
  rw [State.goOn, State.resumeOps_losw, State.losw_of_parts (s.resumeFlash_parts p)]
  simp only [hk, true_and]
  split <;> rfl

theorem State.goOn_pwr (s : State) (p : Nat) : (s.goOn p).pwr = s.pwr := by
  rw [State.goOn, State.resumeOps_same State.pwr (fun _ _ => rfl), State.resumeFlash, State.fillStripes_pwr]
  rfl

theorem State.goOn_reg (s : State) (p : Nat) {a : Nat} (ha : a < 0x63040) : (s.goOn p).reg a = s.reg a := by
  rw [State.goOn, State.resumeOps_same (fun s => s.reg a) (fun _ _ => rfl), State.resumeFlash, State.fillStripes_reg _ _ ha]
  rfl

/-- Its namespace and its long operations go on. -/
def flashGoesOn (s u : State) (p : Nat) : Prop :=
  (u.ns p).stopped = false ∧ ∀ o, o < 32 → (u.losw p o).state = if (s.losw p o).state = 6 then 2 else (s.losw p o).state

theorem foldl_goOn (s : State) {p : Nat} (hp : p < 16) : flashGoesOn s (parts16.foldl (fun s p => s.goOn p) s) p := by
  refine foldl_at (P := fun t => t.part p = s.part p) (Q := fun t => flashGoesOn s t p) (h := p)
    (List.mem_range.2 hp) List.nodup_range ?_ ?_ ?_ rfl
  · intro t q _ hq hpart
    exact (t.goOn_part_other (Ne.symm hq)).trans hpart
  · intro t hpart
    refine ⟨by rw [State.goOn_stopped, if_pos rfl], fun o ho => ?_⟩
    rw [State.goOn_losw t p o ho, State.losw, hpart]
    rfl
  · rintro t q - hq ⟨hstop, hops⟩
    refine ⟨by rw [State.goOn_stopped, if_neg (Ne.symm hq), hstop], fun o ho => ?_⟩
    rw [State.losw, t.goOn_part_other (Ne.symm hq)]
    exact hops o ho

/-- The stretched cycles of a core go to CLK_STRETCH_CNT. -/
theorem State.countStretch_same {β : Type} (g : State → β) (hfree : ∀ (s : State) n, g { s with free := n } = g s)
    (hg : ∀ (s : State) n, g (s.bump 0x2048 n) = g s) (s : State) (c ns : Nat) : g (s.countStretch c ns) = g s := by
  unfold State.countStretch
  dsimp only
  generalize (if Tab.get (fun _ => false) s.pwr.droop c then 0 else (s.stretched c ns).1) = lo
  split
  · rfl
  · split
    · exact hg ..
    · rw [hg, hfree]

/-- The state in which a brown-out of `ns` has ended, before programs go on. -/
def State.recovered (s : State) (ns mv : Nat) : State :=
  let s1 := (List.range 144).foldl (fun s c => s.countStretch c ns) (s.bump 0x1208 (ns / 1000))
  (s1.senseNow mv).modPwr (fun w => { w with
    brownout := false, early := Tab.empty, span := Tab.empty
    restartQ := s.pwr.restartQ ++ s.allEngines.filter (fun e => !s.pwr.restartQ.contains e) })

theorem State.recovered_stretched {β : Type} (g : State → β) (hfree : ∀ (s : State) n, g { s with free := n } = g s)
    (hg : ∀ (s : State) n, g (s.bump 0x2048 n) = g s) (hpwr : ∀ (s : State) w, g { s with pwr := w } = g s) (s : State) (ns mv : Nat) :
    g (s.recovered ns mv) = g (s.bump 0x1208 (ns / 1000)) := by
  have hall := foldl_unchanged g (fun s c => State.countStretch_same g hfree hg s c ns) (List.range 144) (s.bump 0x1208 (ns / 1000))
  unfold State.recovered
  generalize (List.range 144).foldl (fun s c => s.countStretch c ns) (s.bump 0x1208 (ns / 1000)) = t at hall ⊢
  exact ((hpwr _ _).trans (hpwr _ _)).trans hall

theorem State.recovered_counted (s : State) (ns mv : Nat) : counted s (s.recovered ns mv) 0x1208 (ns / 1000) := by
  have hreg := State.recovered_stretched (fun s => s.reg 0x1208) (fun _ _ => rfl) (fun s n => s.bump_reg_other n (by decide))
    (fun _ _ => rfl) s ns mv
  rw [counted, hreg]
  exact counted_bump s 0x1208 (ns / 1000)

theorem State.recovered_arc (s : State) (ns mv : Nat) : (s.recovered ns mv).arc = s.arc :=
  State.recovered_stretched State.arc (fun _ _ => rfl) (fun _ _ => rfl) (fun _ _ => rfl) s ns mv

theorem State.recovered_parts (s : State) (ns mv : Nat) : (s.recovered ns mv).parts = s.parts :=
  State.recovered_stretched State.parts (fun _ _ => rfl) (fun _ _ => rfl) (fun _ _ => rfl) s ns mv

theorem State.recovered_restarts (s : State) (ns mv : Nat) {e : Nat} (he : e ∈ s.allEngines) : e ∈ (s.recovered ns mv).pwr.restartQ := by
  show e ∈ s.pwr.restartQ ++ s.allEngines.filter (fun e => !s.pwr.restartQ.contains e)
  by_cases hq : e ∈ s.pwr.restartQ <;> simp [hq, he]

theorem exec_brownoutEnd_not {ns : Nat} {mv : BitVec 10} {s : State}
    (h : s.pwr.brownout = false ∨ s.above mv.toNat (s.warnPct - 1) = false) : goesTo (exec (.brownoutEnd ns mv) s) s := by
  change execBrownoutEnd ns mv s = .next s
  unfold execBrownoutEnd
  rw [if_pos]
  rcases h with h | h
  · rw [h]
    rfl
  · rw [h, Bool.not_false, Bool.or_true]

theorem exec_brownoutEnd {ns : Nat} {mv : BitVec 10} {s : State} (hbrown : s.pwr.brownout = true)
    (hup : s.above mv.toNat (s.warnPct - 1) = true) : exec (.brownoutEnd ns mv) s =
      .next (if s.pwr.shutdown then s.recovered ns mv.toNat else parts16.foldl (fun s p => s.goOn p) (s.recovered ns mv.toNat)) := by
  change execBrownoutEnd ns mv s = _
  unfold execBrownoutEnd
  rw [hbrown, hup]
  rfl

theorem exec_brownoutEnd_ends {ns : Nat} {mv : BitVec 10} {s : State} (hbrown : s.pwr.brownout = true)
    (hup : s.above mv.toNat (s.warnPct - 1) = true) : completes (exec (.brownoutEnd ns mv) s) (fun u =>
      u.pwr.brownout = false ∧ counted s u 0x1208 (ns / 1000) ∧ (∀ e ∈ s.allEngines, e ∈ u.pwr.restartQ) ∧
      (s.pwr.shutdown = true → u.arc = s.arc ∧ ∀ p o, u.losw p o = s.losw p o) ∧
      (s.pwr.shutdown = false → ∀ p, p < 16 → (u.ns p).stopped = false ∧ ∀ o, o < 32 →
        (u.losw p o).state = if (s.losw p o).state = 6 then 2 else (s.losw p o).state)) := by
  have hcount := s.recovered_counted ns mv.toNat
  have harc := s.recovered_arc ns mv.toNat
  have hparts := s.recovered_parts ns mv.toNat
  have hend : (s.recovered ns mv.toNat).pwr.brownout = false := rfl
  have hrestarts (e : Nat) (he : e ∈ s.allEngines) := s.recovered_restarts ns mv.toNat he
  refine ⟨_, exec_brownoutEnd hbrown hup, ?_⟩
  generalize s.recovered ns mv.toNat = r at *
  cases hdown : s.pwr.shutdown with
  | true =>
    exact ⟨hend, hcount, hrestarts, fun _ => ⟨harc, fun p o => State.losw_of_parts hparts p o⟩, fun h => Bool.noConfusion h⟩
  | false =>
    have hpwr : (parts16.foldl (fun s p => s.goOn p) r).pwr = r.pwr := foldl_unchanged State.pwr (fun s p => s.goOn_pwr p) parts16 r
    have hreg : (parts16.foldl (fun s p => s.goOn p) r).reg 0x1208 = r.reg 0x1208 :=
      foldl_unchanged (fun s => s.reg 0x1208) (fun s p => s.goOn_reg p (by decide)) parts16 r
    have hall (p : Nat) (hp : p < 16) := foldl_goOn r hp
    rw [if_neg (by decide)]
    generalize parts16.foldl (fun s p => s.goOn p) r = v at *
    refine ⟨by rw [hpwr, hend], by rw [counted, hreg]; exact hcount, fun e he => by rw [hpwr]; exact hrestarts e he,
      fun h => Bool.noConfusion h, fun _ p hp => ?_⟩
    obtain ⟨hstop, hops⟩ := hall p hp
    refine ⟨hstop, fun o ho => ?_⟩
    rw [hops o ho, State.losw_of_parts hparts]

/-! ### What a reset of the islands leaves (R424, R481) -/

/-- A table that lists only the keys kept reads its default at every other. -/
theorem Tab.get_filter_keys {α : Type} (d : Nat → α) (t : Tab α) (keep : Nat → Bool) (a : Nat) :
    Tab.get d ⟨t.cells.filter (fun c => keep c.1)⟩ a = if keep a then Tab.get d t a else d a := by
  have hlook (l : List (Nat × α)) :
      Tab.lookup (l.filter (fun c => keep c.1)) a = if keep a then Tab.lookup l a else none := by
    induction l with
    | nil => simp [Tab.lookup]
    | cons c r ih =>
      obtain ⟨i, v⟩ := c
      by_cases hi : i = a
      · subst hi
        cases hk : keep i <;> simp [hk, Tab.lookup, ih]
      · cases hk : keep i <;> simp [hk, Tab.lookup, ih, hi]
  unfold Tab.get
  rw [hlook]
  cases keep a <;> rfl

theorem State.islandsReset_reg (s : State) (clock counters : Bool) (a : Nat) : (s.islandsReset clock counters).reg a =
    if alwaysOn a || (counters && chipKeeps a) then s.reg a else regReset a :=
  Tab.get_filter_keys regReset s.regs (fun a => alwaysOn a || (counters && chipKeeps a)) a

/-- A reset leaves of a namespace what lies in the flash, unmounted. -/
theorem State.cutFlash_ns (s : State) (stop : Bool) {p : Nat} (hp : p < 16) :
    ((s.cutFlash stop).ns p).cws = (s.ns p).cws ∧ ((s.cutFlash stop).ns p).mounted = false := by
  have htimed (n old : Ns) (clk : Word) : (n.timed old clk).cws = n.cws ∧ (n.timed old clk).mounted = n.mounted := by
    unfold Ns.timed
    split <;> exact ⟨rfl, rfl⟩
  refine foldl_at (P := fun t : State => t.ns p = s.ns p) (Q := fun t : State => (t.ns p).cws = (s.ns p).cws ∧ (t.ns p).mounted = false) (h := p)
    (List.mem_range.2 hp) List.nodup_range ?_ ?_ ?_ rfl
  · intro t q _ hq hns
    rw [State.modNs_ns_other _ _ (Ne.symm hq), hns]
  · intro t hns
    rw [State.modNs_ns, if_pos rfl, hns, (htimed _ _ _).1, (htimed _ _ _).2]
    exact ⟨rfl, rfl⟩
  · intro t q _ hq hns
    rw [State.modNs_ns_other _ _ (Ne.symm hq)]
    exact hns

/-! ### Supply reset (R420) -/

/-- The state in supply reset, before the reset is counted and reported. -/
def State.supplyReset (s : State) (mv : Nat) : State :=
  ((s.islandsReset false false).modPwr (fun w =>
    { w with supply := true, rstLow := s.pwr.rstLow, cause := 2, phase := 0, readyMs := 0 })).senseNow mv

theorem State.reg_of_regs {s t : State} (h : s.regs = t.regs) (a : Nat) : s.reg a = t.reg a := by
  unfold State.reg
  rw [h]

theorem State.supplyReset_reg (s : State) (mv a : Nat) :
    (s.supplyReset mv).reg a = if alwaysOn a then s.reg a else regReset a := by
  have hregs : (s.supplyReset mv).regs = (s.islandsReset false false).regs := by
    rw [State.supplyReset, State.senseNow, State.modPwr_regs, State.modPwr_regs]
  rw [State.reg_of_regs hregs, State.islandsReset_reg, Bool.false_and, Bool.or_false]

theorem State.supplyReset_ns (s : State) (mv p : Nat) : (s.supplyReset mv).ns p = (s.cutFlash s.pwr.brownout).ns p := by
  refine State.ns_of_arc ?_ p
  rw [State.supplyReset, State.senseNow, State.modPwr_arc, State.modPwr_arc, State.islandsReset]

theorem exec_pwrSupplyReset_not {mv : BitVec 10} {s : State}
    (h : s.powered = false ∨ s.pwr.supply = true ∨ s.below mv.toNat s.resetPct = false) : goesTo (exec (.pwrSupplyReset mv) s) s := by
  change execPwrSupplyReset mv s = .next s
  unfold execPwrSupplyReset
  rw [if_pos]
  rcases h with h | h | h <;> simp [h]

theorem exec_pwrSupplyReset {mv : BitVec 10} {s : State} (h : s.powered = true) (hsupply : s.pwr.supply = false)
    (hlow : s.below mv.toNat s.resetPct = true) :
    exec (.pwrSupplyReset mv) s = .next (((s.supplyReset mv.toNat).bump 0x1210 1).logEv 0x0C21 6 none []) := by
  change execPwrSupplyReset mv s = _
  unfold execPwrSupplyReset
  rw [h, hsupply, hlow, if_neg (by decide)]
  rfl

theorem exec_pwrSupplyReset_resets {mv : BitVec 10} {s : State} (h : s.powered = true) (hsupply : s.pwr.supply = false)
    (hlow : s.below mv.toNat s.resetPct = true) : completes (exec (.pwrSupplyReset mv) s) (fun u =>
      u.pwr.supply = true ∧ u.pwr.cause = 2 ∧ u.pwr.phase = 0 ∧ u.pwr.sense = mv.toNat ∧ u.clk = 0 ∧ u.cores = Tab.empty ∧
      u.mem = Tab.empty ∧ u.desk = {} ∧ u.meter = s.meter ∧ u.log.recs = s.log.recs ∧ counted s u 0x1210 1 ∧
      (∀ a, alwaysOn a = false → u.reg a = regReset a) ∧ (∀ a, alwaysOn a = true → a ≠ 0x1210 → u.reg a = s.reg a) ∧
      ∀ p, p < 16 → (u.ns p).cws = (s.ns p).cws ∧ (u.ns p).mounted = false) := by
  have hreg := s.supplyReset_reg mv.toNat
  have hns (p : Nat) (hp : p < 16) : ((s.supplyReset mv.toNat).ns p).cws = (s.ns p).cws ∧ ((s.supplyReset mv.toNat).ns p).mounted = false := by
    rw [State.supplyReset_ns]
    exact s.cutFlash_ns s.pwr.brownout hp
  have hpwr : (s.supplyReset mv.toNat).pwr.supply = true ∧ (s.supplyReset mv.toNat).pwr.cause = 2 ∧
    (s.supplyReset mv.toNat).pwr.phase = 0 ∧ (s.supplyReset mv.toNat).pwr.sense = mv.toNat := ⟨rfl, rfl, rfl, rfl⟩
  have hrest : (s.supplyReset mv.toNat).clk = 0 ∧ (s.supplyReset mv.toNat).cores = Tab.empty ∧ (s.supplyReset mv.toNat).mem = Tab.empty ∧
    (s.supplyReset mv.toNat).desk = {} ∧ (s.supplyReset mv.toNat).meter = s.meter ∧ (s.supplyReset mv.toNat).log.recs = s.log.recs :=
    ⟨rfl, rfl, rfl, rfl, rfl, rfl⟩
  refine ⟨_, exec_pwrSupplyReset h hsupply hlow, ?_⟩
  generalize s.supplyReset mv.toNat = r at *
  obtain ⟨hclk, hcores, hmem, hdesk, hmeter, hlog⟩ := hrest
  obtain ⟨hs, hc, hp, hv⟩ := hpwr
  have hother (a : Nat) (ha : a ≠ 0x1210) : ((r.bump 0x1210 1).logEv 0x0C21 6 none []).reg a = if alwaysOn a then s.reg a else regReset a := by
    rw [State.logEv_reg, State.bump_reg_other _ _ ha, hreg]
  have hcount : counted r ((r.bump 0x1210 1).logEv 0x0C21 6 none []) 0x1210 1 := by
    rw [counted, State.logEv_reg]
    exact counted_bump r 0x1210 1
  rw [counted, hreg, if_pos (by decide)] at hcount
  have harc : ((r.bump 0x1210 1).logEv 0x0C21 6 none []).arc = r.arc := by rw [State.logEv_arc, State.bump_arc]
  rw [State.logEv_pwr, State.bump_pwr]
  refine ⟨hs, hc, hp, hv, hclk, hcores, hmem, hdesk, hmeter, hlog, hcount, fun a ha => ?_, fun a ha hne => ?_, fun p hp => ?_⟩
  · rw [hother a (fun h => by rw [h] at ha; exact absurd ha (by decide)), ha]
    rfl
  · rw [hother a hne, ha]
    rfl
  · rw [State.ns_of_arc harc]
    exact hns p hp

/-- The voltage that releases the reset is above the level. -/
theorem State.above_releaseMv (s : State) : s.above s.releaseMv (s.warnPct - 1) = true := by
  unfold State.above State.releaseMv
  generalize s.pwr.target * (100 - (s.warnPct - 1)) = m
  have := Nat.div_add_mod m 100
  have := Nat.mod_lt m (show 0 < 100 by decide)
  generalize Config.freePick s.free % (1023 - m / 100) = k
  simp only [decide_eq_true_eq]
  omega

/-- The state with the supply back, before start-up goes on. -/
def State.supplyBack (s : State) : State :=
  (({ s with free := s.free + 1 } : State).senseNow s.releaseMv).modPwr (fun w => { w with supply := false })

theorem exec_supplyResetRelease {s : State} (h : s.pwr.supply = true) :
    exec .supplyResetRelease s = .next (if s.pwr.rstLow then s.supplyBack else s.supplyBack.afterReset false) := by
  change execSupplyResetRelease s = _
  unfold execSupplyResetRelease
  rw [h]
  rfl

theorem exec_supplyResetRelease_releases {s : State} (h : s.pwr.supply = true) : completes (exec .supplyResetRelease s) (fun u =>
    u.pwr.supply = false ∧ u.pwr.senseAt = s.clk ∧ s.above u.pwr.sense (s.warnPct - 1) = true ∧
      (s.pwr.rstLow = true → u.pwr.phase = s.pwr.phase) ∧
      (s.pwr.rstLow = false → u.pwr.phase = 3 ∧ u.pwr.ungateQ = s.enabledCores)) := by
  have habove := s.above_releaseMv
  refine ⟨_, exec_supplyResetRelease h, ?_⟩
  cases hlow : s.pwr.rstLow with
  | true => exact ⟨rfl, rfl, habove, fun _ => rfl, fun h => Bool.noConfusion h⟩
  | false => exact ⟨rfl, rfl, habove, fun h => Bool.noConfusion h, fun _ => ⟨rfl, rfl⟩⟩

/-- Settles O46: a brown-out and its end by what they do partition by partition and operation by operation; the supply reset by what
the islands' reset keeps. -/
theorem brownoutAndSupplyReset : Obligations.BrownoutAndSupplyReset := by
  unfold Obligations.BrownoutAndSupplyReset
  intro ns mv s
  refine ⟨exec_pwrBrownout_not, exec_pwrBrownout_holds, exec_brownoutEnd_not, exec_brownoutEnd_ends, exec_pwrSupplyReset_not,
    exec_pwrSupplyReset_resets, fun h => ?_, exec_supplyResetRelease_releases⟩
  change execSupplyResetRelease s = .next s
  unfold execSupplyResetRelease
  rw [if_pos]
  exact congrArg Bool.not h

end Sys2Proof.Machine
end

section
/-! SUPPORT. What the tiers, the flash and the accesses of the chip's blocks to them leave as it is, operation by operation in the
order of the model's files: the commands whose claims are about the other parts take it from here (O47). In a function of several steps
each step is made opaque (clear_value) once it is known, so that the next is not checked by unfolding it. -/

namespace Sys2Proof.Machine

/-- What accesses, programs and erases leave of a namespace. -/
def Ns.core (n : Ns) : Bool × Bool × Bool × Nat × Nat := (n.stopped, n.formatted, n.mounted, n.cap, n.dataSb)

/-- Parts of the state that the tiers, the flash and the accesses to them leave alone: of the log all but its queue, of a namespace
its core. -/
def State.offTiers (s : State) : (Power × Colophon × Tab Word × Tab Core × Tab HostFn × Log) × Tab LinkPort × RollCall × Tab (Option Req) ×
    (Nat → Bool × Bool × Bool × Nat × Nat) :=
  ((s.pwr, s.colo, s.force, s.cores, s.hosts, { s.log with queue := [] }), s.ports, s.rc, s.reqs, fun q => (s.ns q).core)

section
variable {s t : State} (h : s.offTiers = t.offTiers)
include h

theorem State.pwr_of_offTiers : s.pwr = t.pwr := congrArg (fun x => x.1.1) h
theorem State.colo_of_offTiers : s.colo = t.colo := congrArg (fun x => x.1.2.1) h
theorem State.force_of_offTiers : s.force = t.force := congrArg (fun x => x.1.2.2.1) h
theorem State.cores_of_offTiers : s.cores = t.cores := congrArg (fun x => x.1.2.2.2.1) h
theorem State.hosts_of_offTiers : s.hosts = t.hosts := congrArg (fun x => x.1.2.2.2.2.1) h
theorem State.core_of_offTiers (q : Nat) : (s.ns q).core = (t.ns q).core := congrFun (congrArg (fun x => x.2.2.2.2) h) q
theorem State.stopped_of_offTiers (q : Nat) : (s.ns q).stopped = (t.ns q).stopped := congrArg (fun x => x.1) (State.core_of_offTiers h q)
theorem State.writing_of_offTiers : s.log.writing = t.log.writing := congrArg (fun x => x.1.2.2.2.2.2.writing) h

end

@[simp] theorem Ns.timed_core (n old : Ns) (clk : Word) : (n.timed old clk).core = n.core := by
  unfold Ns.timed
  split <;> rfl

@[simp] theorem Ns.stage_core (n : Ns) (lu off : Nat) (bs : List Byte) (bad : Bool) (now : Word) (room : Bool) :
    (n.stage lu off bs bad now room).core = n.core := by
  unfold Ns.stage
  split
  · split <;> rfl
  · rfl

@[simp] theorem Ns.closePage_core (n : Ns) : n.closePage.core = n.core := by
  unfold Ns.closePage
  split <;> rfl

@[simp] theorem Ns.closeFull_core (k : Nat) (n : Ns) : (Ns.closeFull k n).core = n.core := by
  induction k generalizing n with
  | zero => rfl
  | succ k ih =>
    unfold Ns.closeFull
    split
    · rw [ih, Ns.closePage_core]
    · rfl

@[simp] theorem Ns.fullPages_core (n : Ns) : n.fullPages.core = n.core := by
  unfold Ns.fullPages
  dsimp only
  split
  · rw [Ns.closePage_core, Ns.closeFull_core]
  · rw [Ns.closeFull_core]

@[simp] theorem Ns.tryErase_core (n : Ns) (rows : Nat) : (n.tryErase rows).core = n.core := by
  unfold Ns.tryErase
  split
  · rfl
  · split <;> rfl

theorem Ns.takeRow_core {n m : Ns} {host high : Bool} {rows b r : Nat} (h : n.takeRow host high rows = some (b, r, m)) :
    m.core = n.core := by
  have hcore (k : Ns) : k.held.core = k.core := rfl
  rw [← hcore, Ns.takeRow_held h, hcore]

@[simp] theorem Ns.applyRec_core (n : Ns) (r : JRec) : (n.applyRec r).core = n.core := by
  unfold Ns.applyRec
  split
  · extract_lets newer cut
    split <;> rfl
  · rfl
  · rfl
  · rfl

@[simp] theorem Ns.programmed_core (n : Ns) (p : Nat) (st : Stripe) (rows : Nat) : (n.programmed p st rows).core = n.core := by
  unfold Ns.programmed
  extract_lets es units k n1
  have hrecs : n1.core = n.core := by
    dsimp only [n1]
    split <;> rfl
  clear_value n1
  exact hrecs

@[simp] theorem State.free_offTiers (s : State) (n : Nat) : ({ s with free := n } : State).offTiers = s.offTiers := rfl
@[simp] theorem State.setReg_offTiers (s : State) (a : Nat) (w : Word) : (s.setReg a w).offTiers = s.offTiers := rfl
theorem State.modNs_offTiers_at (s : State) (p : Nat) (f : Ns → Ns) (h : (f (s.ns p)).core = (s.ns p).core) :
    (s.modNs p f).offTiers = s.offTiers := by
  have hns (q : Nat) : ((s.modNs p f).ns q).core = (s.ns q).core := by
    rw [State.modNs_ns]
    split
    case isTrue hq => rw [Ns.timed_core, h, hq]
    case isFalse => rfl
  simp only [State.offTiers, hns]
  rfl

theorem State.modNs_offTiers (s : State) (p : Nat) {f : Ns → Ns} (h : ∀ n, (f n).core = n.core) : (s.modNs p f).offTiers = s.offTiers :=
  s.modNs_offTiers_at p f (h _)

@[simp] theorem State.modTp_offTiers (s : State) (p : Nat) (f : TierPart → TierPart) : (s.modTp p f).offTiers = s.offTiers := rfl
@[simp] theorem State.modCar_offTiers (s : State) (m : Nat) (f : Carrel → Carrel) : (s.modCar m f).offTiers = s.offTiers := rfl
@[simp] theorem State.memBad_offTiers (s : State) (m : Tab Bool) : ({ s with memBad := m } : State).offTiers = s.offTiers := rfl
@[simp] theorem State.badBlks_offTiers (s : State) (b : Tab (Option Nat)) : ({ s with badBlks := b } : State).offTiers = s.offTiers := rfl
@[simp] theorem State.logEv_offTiers (s : State) (code sev : Nat) (part : Option Nat) (data : List Byte) :
    (s.logEv code sev part data).offTiers = s.offTiers := rfl
@[simp] theorem State.meterAdd_offTiers (s : State) (p k n : Nat) : (s.meterAdd p k n).offTiers = s.offTiers := rfl

/-- A fold of steps that leave the rest alone leaves it alone. -/
@[simp] theorem State.foldl_offTiers {α : Type} {f : State → α → State} (h : ∀ s x, (f s x).offTiers = s.offTiers) (l : List α) (s : State) :
    (l.foldl f s).offTiers = s.offTiers := foldl_unchanged State.offTiers h l s

@[simp] theorem State.foldl_fst_offTiers {α β : Type} {f : State × β → α → State × β} (h : ∀ x y, (f x y).1.offTiers = x.1.offTiers)
    (l : List α) (x : State × β) : (l.foldl f x).1.offTiers = x.1.offTiers := foldl_unchanged (fun x => x.1.offTiers) h l x

@[simp] theorem State.bump_offTiers (s : State) (a n : Nat) : (s.bump a n).offTiers = s.offTiers := by simp [State.bump]

@[simp] theorem State.waitCycles_offTiers (s : State) (a : Nat) : (s.waitCycles a).offTiers = s.offTiers := by simp [State.waitCycles]

@[simp] theorem State.countPage_offTiers (s : State) (p g n : Nat) : (s.countPage p g n).offTiers = s.offTiers := rfl

@[simp] theorem State.countAccess_offTiers (s : State) (p : Nat) (a : Word) (n : Nat) : (s.countAccess p a n).offTiers = s.offTiers := by
  unfold State.countAccess
  split
  · rfl
  · exact foldl_unchanged State.offTiers (fun s j => s.countPage_offTiers ..) _ s

@[simp] theorem State.meterRead_offTiers (s : State) (p : Nat) (a : Word) (n : Nat) : (s.meterRead p a n).offTiers = s.offTiers := by
  unfold State.meterRead
  split <;> rfl

@[simp] theorem State.poisonRead_offTiers (s : State) (p : Nat) : (s.poisonRead p).offTiers = s.offTiers := by simp [State.poisonRead]

@[simp] theorem State.reportBad_offTiers (s : State) (p : Option Nat) (tier inst piece cause line : Nat) :
    (s.reportBad p tier inst piece cause line).offTiers = s.offTiers := rfl

@[simp] theorem State.uncorr_offTiers (s : State) (i o : Nat) (scrub : Bool) : (s.uncorr i o scrub).offTiers = s.offTiers := by
  simp [State.uncorr]

@[simp] theorem State.fcRead_offTiers (s : State) (c n : Nat) : (s.fcRead c n).offTiers = s.offTiers := by simp [State.fcRead]

@[simp] theorem State.fcProg_offTiers (s : State) (c n : Nat) : (s.fcProg c n).offTiers = s.offTiers := by simp [State.fcProg]

@[simp] theorem State.mapLook_offTiers (s : State) (p lu : Nat) : (s.mapLook p lu).offTiers = s.offTiers := by
  unfold State.mapLook
  extract_lets n l s0 s1 s2
  have hone : s0.offTiers = s.offTiers := (State.modNs_offTiers _ _ (by exact fun _ => rfl)).trans (State.free_offTiers _ _)
  clear_value s0
  have hloaded : s1.offTiers = s.offTiers := by
    dsimp only [s1]
    split
    · split
      · exact (s0.waitCycles_offTiers (arcCnt p 0x68)).trans hone
      · exact hone
    · rfl
  clear_value s1
  split
  · exact hloaded
  · exact (State.modNs_offTiers _ _ (by exact fun _ => rfl)).trans ((State.free_offTiers _ _).trans ((s1.bump_offTiers (arcCnt p 0x20) 1).trans hloaded))

@[simp] theorem State.noteRewrite_offTiers (s : State) (p cw : Nat) :
    (s.modNs p (fun n => { n with rewrite := n.rewrite ++ [cw] })).offTiers = s.offTiers :=
  State.modNs_offTiers _ _ (by exact fun _ => rfl)

@[simp] theorem State.flashRead_offTiers (s : State) (p cw : Nat) (q : CwOutcome) : (s.flashRead p cw q).offTiers = s.offTiers := by
  unfold State.flashRead
  extract_lets c retries s1 s2
  have hdirect : s1.offTiers = s.offTiers := by simp [s1]
  clear_value s1
  have hstripe : s2.offTiers = s.offTiers :=
    (foldl_unchanged State.offTiers (fun s m => by simp [apply_ite State.offTiers]) _ s1).trans hdirect
  clear_value s2
  split
  · exact (State.bump_offTiers ..).trans ((State.free_offTiers _ _).trans hdirect)
  · exact (s1.noteRewrite_offTiers p cw).trans hdirect
  · split
    · exact (State.noteRewrite_offTiers _ p cw).trans ((s2.bump_offTiers _ _).trans hstripe)
    · exact (s2.bump_offTiers _ _).trans hstripe

@[simp] theorem State.fetchUnit_offTiers (s : State) (p lu : Nat) : (s.fetchUnit p lu).1.offTiers = s.offTiers := by
  unfold State.fetchUnit
  split
  · rfl
  · dsimp only
    split
    · exact s.mapLook_offTiers p lu
    · exact (State.flashRead_offTiers ..).trans (s.mapLook_offTiers p lu)

@[simp] theorem State.t2Seen_offTiers (s : State) (p : Nat) : (s.t2Seen p).offTiers = s.offTiers := State.modNs_offTiers _ _ (by exact fun _ => rfl)

@[simp] theorem State.readUnit_offTiers (s : State) (p lu : Nat) : (s.readUnit p lu).1.offTiers = s.offTiers := by
  unfold State.readUnit
  dsimp only
  split <;> simp

@[simp] theorem State.readUnits_offTiers (s : State) (p : Nat) (a : Word) (n : Nat) : (s.readUnits p a n).1.offTiers = s.offTiers := by
  unfold State.readUnits
  split <;> simp

@[simp] theorem State.reportLoc_offTiers (s : State) (p : Nat) (l : Option Loc) : (s.reportLoc p l).offTiers = s.offTiers := by
  unfold State.reportLoc
  split <;> simp

@[simp] theorem State.reportLine_offTiers (s : State) (p : Nat) (a : Word) (first : Bool) :
    (s.reportLine p a first).offTiers = s.offTiers := by
  unfold State.reportLine
  split
  · rfl
  · split <;> simp [apply_ite State.offTiers]

@[simp] theorem State.cacheIn_offTiers (s : State) (p g : Nat) : (s.cacheIn p g).offTiers = s.offTiers := by
  unfold State.cacheIn
  dsimp only
  rw [State.modTp_offTiers]
  split
  · rfl
  · exact foldl_unchanged (fun x : State × Nat => x.1.offTiers) (fun x q => by dsimp only; split <;> rfl) _ _

@[simp] theorem State.translate_offTiers (s : State) (p g : Nat) : (s.translate p g).offTiers = s.offTiers := by
  unfold State.translate
  split
  · rfl
  · dsimp only
    split <;> simp

@[simp] theorem State.translateAll_offTiers (s : State) (p : Nat) (a : Word) (n : Nat) : (s.translateAll p a n).offTiers = s.offTiers := by
  unfold State.translateAll
  split
  · rfl
  · exact foldl_unchanged State.offTiers (fun s j => s.translate_offTiers ..) _ s

@[simp] theorem State.yieldAt_offTiers (s : State) (i o : Nat) : (s.yieldAt i o).offTiers = s.offTiers := by
  unfold State.yieldAt
  split
  · rfl
  · dsimp only
    split <;> simp

@[simp] theorem State.yieldLines_offTiers (s : State) (p : Nat) (a : Word) (n : Nat) : (s.yieldLines p a n).offTiers = s.offTiers :=
  foldl_unchanged State.offTiers (fun s l => by split <;> simp) _ s

@[simp] theorem State.keepBurst_offTiers (s : State) (i o : Nat) : (s.keepBurst i o).offTiers = s.offTiers := by
  unfold State.keepBurst
  split <;> rfl

@[simp] theorem State.modLosw_offTiers (s : State) (p o : Nat) (f : Losw → Losw) : (s.modLosw p o f).offTiers = s.offTiers := rfl

@[simp] theorem State.loswFail_offTiers (s : State) (p o code : Nat) : (s.loswFail p o code).offTiers = s.offTiers := rfl

@[simp] theorem State.loswDone_offTiers (s : State) (p o : Nat) : (s.loswDone p o).offTiers = s.offTiers := rfl

@[simp] theorem State.loswAbort_offTiers (s : State) (p o : Nat) : (s.loswAbort p o).offTiers = s.offTiers := rfl

@[simp] theorem State.loswRun_offTiers (s : State) (p o total : Nat) (partial_ : Bool) :
    (s.loswRun p o total partial_).offTiers = s.offTiers := rfl

@[simp] theorem State.loswProg_offTiers (s : State) (p o n : Nat) : (s.loswProg p o n).offTiers = s.offTiers := rfl

@[simp] theorem State.choose_offTiers (s : State) (l : List Nat) : (s.choose l).2.offTiers = s.offTiers := rfl

theorem State.offTiers_of_choose {s s1 : State} {l : List Nat} {o : Option Nat} (h : s.choose l = (o, s1)) : s1.offTiers = s.offTiers := by
  rw [← s.choose_offTiers l, h]

@[simp] theorem State.placeWaits_offTiers (s : State) (p t : Nat) (l : Option Loc) : (s.placeWaits p t l).offTiers = s.offTiers := by
  unfold State.placeWaits
  split <;> simp

@[simp] theorem State.blockWaits_offTiers (s : State) (p : Nat) (a : Word) (n : Nat) : (s.blockWaits p a n).offTiers = s.offTiers :=
  foldl_unchanged State.offTiers (fun s l => by simp [apply_ite State.offTiers]) _ s

@[simp] theorem State.zeroed_offTiers (s : State) (i : Nat) : (s.zeroed i).offTiers = s.offTiers := rfl

@[simp] theorem State.awaitZero_offTiers (s : State) (p : Nat) (a : Word) (n : Nat) : (s.awaitZero p a n).offTiers = s.offTiers :=
  foldl_unchanged State.offTiers (fun s l => by split <;> simp [apply_ite State.offTiers]) _ s

@[simp] theorem State.memberProgs_offTiers (s : State) (p b n : Nat) : (s.memberProgs p b n).offTiers = s.offTiers :=
  foldl_unchanged State.offTiers (fun s _ => s.fcProg_offTiers ..) _ s

@[simp] theorem State.launch_offTiers (s : State) (p : Nat) (st : Stripe) (again : Bool) : (s.launch p st again).offTiers = s.offTiers := by
  unfold State.launch
  dsimp only
  refine (State.modNs_offTiers _ _ (by exact fun _ => rfl)).trans ?_
  split <;> simp

@[simp] theorem State.launchSum_offTiers (s : State) (p b : Nat) : (s.launchSum p b).offTiers = s.offTiers := by
  unfold State.launchSum
  dsimp only
  split <;> simp

@[simp] theorem State.enter_offTiers (s : State) (p : Nat) (st : Stripe) (again : Bool) : (s.enter p st again).offTiers = s.offTiers := by
  unfold State.enter
  dsimp only
  split <;> simp

@[simp] theorem State.closeSb_offTiers (s : State) (p b : Nat) : (s.closeSb p b).offTiers = s.offTiers := by
  unfold State.closeSb
  dsimp only
  rw [State.launchSum_offTiers, State.foldl_offTiers (fun s j => s.launch_offTiers ..)]
  exact State.modNs_offTiers _ _ (by exact fun _ => rfl)

@[simp] theorem State.relaunch_offTiers (s : State) (p k : Nat) : (s.relaunch p k).offTiers = s.offTiers := by
  induction k generalizing s with
  | zero => rfl
  | succ k ih =>
    unfold State.relaunch
    dsimp only
    split
    · rfl
    · split
      · rfl
      · split
        · rw [ih]
          exact State.modNs_offTiers _ _ (by exact fun _ => rfl)
        · split
          · rfl
          · rw [ih, State.launch_offTiers]
            exact State.modNs_offTiers_at _ _ _ (by split <;> rfl)

@[simp] theorem State.formStripes_offTiers (s : State) (p : Nat) (close : Bool) (fuel : Nat) :
    (s.formStripes p close fuel).offTiers = s.offTiers := by
  induction fuel generalizing s with
  | zero => rfl
  | succ k ih =>
    unfold State.formStripes
    dsimp only
    split
    · rfl
    · split
      · simp
      · split
        · simp
        · split
          · rfl
          next b r m htake =>
            have hrow : m.core = (s.ns p).core := Ns.takeRow_core htake
            rw [ih, State.enter_offTiers]
            exact State.modNs_offTiers_at _ _ _ (by exact hrow)

@[simp] theorem State.letIn_offTiers (s : State) (p : Nat) : (s.letIn p).offTiers = s.offTiers := by
  unfold State.letIn
  split
  · rfl
  · exact State.modNs_offTiers _ _ (by exact fun _ => rfl)

@[simp] theorem State.fillStripes_offTiers (s : State) (p : Nat) (close : Bool) : (s.fillStripes p close).offTiers = s.offTiers := by
  simp [State.fillStripes]

@[simp] theorem State.readTo_offTiers (s : State) (p : Nat) (a : Word) (n : Nat) : (s.readTo p a n).1.offTiers = s.offTiers := by
  simp [State.readTo]

@[simp] theorem State.readBy_offTiers (s : State) (p : Nat) (a : Word) (n : Nat) : (s.readBy p a n).1.offTiers = s.offTiers := by
  unfold State.readBy
  dsimp only
  split <;> simp

@[simp] theorem State.devRead_offTiers (s : State) (p : Nat) (a : Word) (n : Nat) : (s.devRead p a n).1.offTiers = s.offTiers := by
  simp [State.devRead]

@[simp] theorem State.noteWrite_offTiers (s : State) (p : Nat) (a : Word) : (s.noteWrite p a).offTiers = s.offTiers := by
  unfold State.noteWrite
  split <;> rfl

@[simp] theorem State.fillAt_offTiers (s : State) (p : Nat) (a : Word) (n k : Nat) : (s.fillAt p a n k).offTiers = s.offTiers := by
  unfold State.fillAt
  split
  · rfl
  · split
    next o _ =>
      extract_lets lu y s1
      have hfetched : y.1.offTiers = s.offTiers := s.fetchUnit_offTiers p lu
      clear_value y
      have hreported : s1.offTiers = s.offTiers := by
        dsimp only [s1]
        split
        · exact (State.reportLoc_offTiers ..).trans hfetched
        · exact hfetched
      clear_value s1
      split
      · rfl
      · split
        · exact (State.modNs_offTiers _ _ (by exact fun _ => Ns.stage_core ..)).trans hreported
        · exact hreported
    · rfl

@[simp] theorem State.fillFor_offTiers (s : State) (p : Nat) (a : Word) (n : Nat) : (s.fillFor p a n).offTiers = s.offTiers := by
  unfold State.fillFor
  split
  · rfl
  · exact (State.foldl_offTiers (fun s j => s.fillAt_offTiers ..) _ _).trans (s.t2Seen_offTiers p)

@[simp] theorem State.putLoc_offTiers (s : State) (p : Nat) (l : Option Loc) (bs : List Byte) (bad : Bool) :
    (s.putLoc p l bs bad).offTiers = s.offTiers := by
  rcases l with _ | ⟨i, o⟩ | o
  · rfl
  · have hburst := s.keepBurst_offTiers i o
    simp only [State.putLoc]
    generalize s.keepBurst i o = t at hburst ⊢
    split
    · exact (State.bump_offTiers ..).trans hburst
    · split <;> exact hburst
  · simp only [State.putLoc]
    split
    · rfl
    · refine (State.modNs_offTiers _ _ (by exact fun _ => Ns.stage_core ..)).trans ?_
      split
      · rfl
      · exact s.waitCycles_offTiers (arcCnt p 0x58)

@[simp] theorem State.writeLine_offTiers (s : State) (p : Nat) (a : Word) (bs : List Byte) (bad : Bool) :
    (s.writeLine p a bs bad).offTiers = s.offTiers := by
  unfold State.writeLine
  split <;> simp

@[simp] theorem State.countDrops_offTiers (s : State) (p : Nat) (a : Word) (n : Nat) : (s.countDrops p a n).offTiers = s.offTiers := by
  unfold State.countDrops
  split <;> simp [apply_ite State.offTiers]

@[simp] theorem State.devWriteLines_offTiers (s : State) (p : Nat) (a : Word) (bs : List Byte) (bad : Nat → Bool) :
    (s.devWriteLines p a bs bad).offTiers = s.offTiers := by simp [State.devWriteLines]

@[simp] theorem State.devWrite_offTiers (s : State) (p : Nat) (a : Word) (bs : List Byte) (bad : Bool) :
    (s.devWrite p a bs bad).offTiers = s.offTiers := by
  exact s.devWriteLines_offTiers ..

@[simp] theorem State.updLife_offTiers (s : State) (p : Nat) : (s.updLife p).offTiers = s.offTiers := by
  refine (foldl_unchanged State.offTiers (fun s t => ?_) _ _).trans (State.modNs_offTiers _ _ (by exact fun _ => rfl))
  split <;> rfl

@[simp] theorem State.retireBlock_offTiers (s : State) (p sb k : Nat) (unerased : Bool) :
    (s.retireBlock p sb k unerased).offTiers = s.offTiers := by
  unfold State.retireBlock
  extract_lets lun used id s1 s2 s3
  have hbumped : s1.offTiers = s.offTiers := by simp [s1]
  clear_value s1
  have hcounted : s2.offTiers = s.offTiers := (State.modNs_offTiers _ _ (by exact fun _ => rfl)).trans hbumped
  clear_value s2
  have hspare : s3.offTiers = s.offTiers := by
    dsimp only [s3]
    split
    · refine (State.modNs_offTiers _ _ (by exact fun _ => rfl)).trans ?_
      split <;> exact hcounted
    · exact (State.modNs_offTiers _ _ (by exact fun _ => rfl)).trans hcounted
  split
  · rfl
  · exact (s3.updLife_offTiers p).trans hspare

@[simp] theorem State.programAgain_offTiers (s : State) (p : Nat) (st : Stripe) : (s.programAgain p st).offTiers = s.offTiers := by
  unfold State.programAgain
  extract_lets shut s1
  have hclosed : s1.offTiers = s.offTiers := State.modNs_offTiers _ _ (by intro n; split <;> rfl)
  clear_value s1
  rw [State.fillStripes_offTiers]
  split
  · exact (s1.launchSum_offTiers ..).trans hclosed
  · exact hclosed

@[simp] theorem State.programEnd_offTiers (s : State) (p : Nat) (fails : List Nat) : (s.programEnd p fails).offTiers = s.offTiers := by
  unfold State.programEnd
  split
  · rfl
  · extract_lets s0 bad
    have hleft : s0.offTiers = s.offTiers := State.modNs_offTiers _ _ (by exact fun _ => rfl)
    clear_value s0
    split
    · rw [State.programAgain_offTiers, State.foldl_offTiers (fun s m => by simp), hleft]
    · rw [State.fillStripes_offTiers]
      refine (State.modNs_offTiers _ _ (by intro n; simp)).trans ?_
      rw [hleft]

@[simp] theorem State.flushDone_offTiers (s : State) (p : Nat) (done : List (Nat × Nat)) : (s.flushDone p done).offTiers = s.offTiers := by
  unfold State.flushDone
  dsimp only
  refine (State.modNs_offTiers _ _ (by exact fun _ => rfl)).trans ?_
  refine State.foldl_offTiers (fun s f => ?_) _ s
  split <;> rfl

@[simp] theorem State.pageLuns_offTiers (s : State) (p : Nat) : (s.pageLuns p).1.offTiers = s.offTiers := by
  unfold State.pageLuns
  dsimp only
  split
  next h => exact State.offTiers_of_choose h
  next h =>
    have hfirst := State.offTiers_of_choose h
    split <;> next h' => simp [State.offTiers_of_choose h', hfirst]

@[simp] theorem State.ckptPages_offTiers (s : State) (p : Nat) : (s.ckptPages p).offTiers = s.offTiers := by
  unfold State.ckptPages
  split
  next h => simp [State.offTiers_of_choose h]
  next h => exact State.offTiers_of_choose h

@[simp] theorem State.ckptRound_offTiers (s : State) (p : Nat) : (s.ckptRound p).offTiers = s.offTiers := by
  unfold State.ckptRound
  dsimp only
  refine (State.modNs_offTiers _ _ (by exact fun _ => rfl)).trans ?_
  rw [State.ckptPages_offTiers, State.pageLuns_offTiers]

@[simp] theorem State.journalEnd_offTiers (s : State) (p : Nat) : (s.journalEnd p).offTiers = s.offTiers := by
  unfold State.journalEnd
  split
  · rfl
  · extract_lets l n n1 maps d n2 s1 s2
    have hpage : l.1.offTiers = s.offTiers := s.pageLuns_offTiers p
    have hn : n.core = (l.1.ns p).core := rfl
    clear_value n l
    have hrecs : n1.core = n.core := by
      dsimp only [n1]
      rw [foldl_unchanged Ns.core Ns.applyRec_core]
      rfl
    clear_value n1
    have hn2 : n2.core = n.core := by
      dsimp only [n2]
      rw [Ns.tryErase_core]
      exact hrecs
    clear_value n2
    have hdone : s1.offTiers = s.offTiers := by
      refine (State.foldl_offTiers (fun s d => by simp) _ _).trans ((State.modNs_offTiers_at _ _ _ ?_).trans hpage)
      exact (Ns.fullPages_core n2).trans (hn2.trans hn)
    clear_value s1
    rw [State.fillStripes_offTiers, State.flushDone_offTiers]
    dsimp only [s2]
    split
    · rw [State.ckptRound_offTiers, hdone]
    · exact hdone

@[simp] theorem State.wearCheck_offTiers (s : State) (p : Nat) : (s.wearCheck p).offTiers = s.offTiers := by
  unfold State.wearCheck
  dsimp only
  split
  · rfl
  · split
    · rfl
    · refine (State.modNs_offTiers _ _ (by exact fun _ => rfl)).trans ?_
      rw [State.foldl_offTiers (fun s b => s.closeSb_offTiers p b)]

@[simp] theorem State.discardArea_offTiers (s : State) (p : Nat) (d : SDiscard) : (s.discardArea p d).offTiers = s.offTiers :=
  s.devWrite_offTiers ..

@[simp] theorem State.discardEnd_offTiers (s : State) (p : Nat) : (s.discardEnd p).offTiers = s.offTiers := by
  unfold State.discardEnd
  split
  · split
    · extract_lets s1
      have harea : s1.offTiers = s.offTiers := (State.modNs_offTiers _ _ (by exact fun _ => Ns.fullPages_core _)).trans (s.discardArea_offTiers ..)
      clear_value s1
      split
      · exact (s1.loswDone_offTiers ..).trans harea
      · exact (s1.loswFail_offTiers ..).trans harea
    · rfl
  · rfl

@[simp] theorem State.eraseEnd_offTiers (s : State) (p : Nat) (fails : List Nat) : (s.eraseEnd p fails).offTiers = s.offTiers := by
  unfold State.eraseEnd
  split
  · rfl
  · extract_lets ks s0 s1 s2 s3
    have hblocks : s0.offTiers = s.offTiers := State.modNs_offTiers _ _ (by exact fun _ => rfl)
    clear_value s0
    have herased : s1.offTiers = s.offTiers :=
      (State.foldl_offTiers (fun s k => by simp [apply_ite State.offTiers]) ks s0).trans hblocks
    clear_value s1
    have hcounted : s2.offTiers = s.offTiers :=
      (State.modNs_offTiers _ _ (by exact fun _ => Ns.fullPages_core _)).trans ((s1.bump_offTiers ..).trans herased)
    clear_value s2
    have hdiscard : s3.offTiers = s.offTiers := by
      dsimp only [s3]
      split
      · split
        · exact (State.discardArea_offTiers ..).trans hcounted
        · exact hcounted
      · exact hcounted
    clear_value s3
    rw [State.fillStripes_offTiers, State.wearCheck_offTiers, State.discardEnd_offTiers, State.updLife_offTiers, hdiscard]

@[simp] theorem State.programsEnd_offTiers (s : State) (p : Nat) : (s.programsEnd p).offTiers = s.offTiers := by
  simp [State.programsEnd, apply_ite State.offTiers]

end Sys2Proof.Machine
end

section
/-! SUPPORT. Power-on, PWR_OK, CHIP_RST_N, RST_CMD and the steps of start-up (O47). -/

namespace Sys2Proof.Machine

/-! ### PWR_OK falls: the orderly shutdown (R412) -/

theorem State.closing_pwr (s : State) (p : Nat) {f : State → State} (h : ∀ t, (f t).pwr = t.pwr) : (s.closing p f).pwr = s.pwr := by
  rw [State.closing, State.modNs_pwr, h, State.modNs_pwr]

theorem State.closing_log (s : State) (p : Nat) {f : State → State} (h : ∀ t, (f t).log = t.log) : (s.closing p f).log = s.log := by
  rw [State.closing, State.modNs_log, h, State.modNs_log]

theorem State.closing_stopped (s : State) (p q : Nat) {f : State → State} (h : ∀ t, ((f t).ns q).stopped = (t.ns q).stopped) :
    ((s.closing p f).ns q).stopped = if q = p then true else (s.ns q).stopped := by
  rw [State.closing, State.modNs_ns]
  split
  case isTrue => rw [Ns.timed_stopped]
  case isFalse hq => rw [h, State.modNs_ns_other _ _ hq]

/-- The last page of a journal closes without a new program of the namespace being let in. -/
theorem State.closePages_stopped (s : State) (p q : Nat) :
    ((s.modNs p (fun n => (Ns.closeFull (n.jOpen.length / 1023) n).closePage)).ns q).stopped = (s.ns q).stopped := by
  rw [State.modNs_ns]
  split
  case isTrue hq => rw [Ns.timed_stopped, Ns.closePage_stopped, Ns.closeFull_stopped, hq]
  case isFalse => rfl

theorem State.programsEnd_stopped (s : State) (p q : Nat) : ((s.programsEnd p).ns q).stopped = (s.ns q).stopped :=
  State.stopped_of_offTiers (s.programsEnd_offTiers p) q

theorem State.closeFlash_pwr (s : State) (p : Nat) : (s.closeFlash p).pwr = s.pwr := by
  rw [State.closeFlash, State.pwr_of_offTiers (State.programsEnd_offTiers _ p), State.closing_pwr _ _ (fun t => State.modNs_pwr ..),
    State.pwr_of_offTiers (State.programsEnd_offTiers _ p), State.closing_pwr _ _ (fun t => t.fillStripes_pwr p true)]

theorem State.closeFlash_writing (s : State) (p : Nat) : (s.closeFlash p).log.writing = s.log.writing := by
  rw [State.closeFlash, State.writing_of_offTiers (State.programsEnd_offTiers _ p), State.closing_log _ _ (fun t => State.modNs_log ..),
    State.writing_of_offTiers (State.programsEnd_offTiers _ p), State.closing_log _ _ (fun t => t.fillStripes_log p true)]

theorem State.closeFlash_stopped (s : State) (p q : Nat) :
    ((s.closeFlash p).ns q).stopped = if q = p then true else (s.ns q).stopped := by
  rw [State.closeFlash, State.programsEnd_stopped, State.closing_stopped _ p q (fun t => t.closePages_stopped p q),
    State.programsEnd_stopped, State.closing_stopped _ p q (fun t => t.fillStripes_stopped p q true)]
  split <;> rfl

theorem foldl_closeFlash_stopped (s : State) {q : Nat} (hq : q < 16) :
    ((parts16.foldl (fun s p => s.closeFlash p) s).ns q).stopped = true := by
  refine foldl_at (P := fun _ => True) (Q := fun t : State => (t.ns q).stopped = true) (List.mem_range.2 hq) List.nodup_range
    (fun _ _ _ _ _ => trivial) (fun t _ => ?_) (fun t p _ _ ht => ?_) trivial
  · rw [State.closeFlash_stopped, if_pos rfl]
  · rw [State.closeFlash_stopped, ht, ite_self]

theorem State.persistLog_writes {s : State} (clean : Bool) (h : s.log.writing = none) :
    ∃ i, (s.persistLog clean).log.writing = some (i, false) ∧ i.clean = clean := by
  rw [State.persistLog, if_pos h]
  exact ⟨_, rfl, rfl⟩

theorem State.persistLog_waits {s : State} (clean : Bool) (h : s.log.writing ≠ none) :
    (s.persistLog clean).log.writing = s.log.writing ∧ (s.persistLog clean).log.due = some (clean || s.log.due.getD false) := by
  rw [State.persistLog, if_neg h]
  exact ⟨rfl, rfl⟩

theorem State.persistLog_ns (s : State) (clean : Bool) (q : Nat) : (s.persistLog clean).ns q = s.ns q := by
  unfold State.persistLog
  split <;> rfl

theorem State.persistLog_pwr (s : State) (clean : Bool) : (s.persistLog clean).pwr = s.pwr := by
  unfold State.persistLog
  split <;> rfl

/-- The state at PWR_OK's fall before the log persists: the flash is closed and the operating seconds are stored. -/
def State.shutFlash (s : State) : State :=
  (parts16.foldl (fun s p => s.closeFlash p) (s.modPwr (fun w => { w with pwrOk := false, shutdown := true }))).modLog
    (fun l => { l with opSaved := l.opSec })

theorem State.shutFlash_pwr (s : State) : s.shutFlash.pwr = { s.pwr with pwrOk := false, shutdown := true } := by
  rw [State.shutFlash, State.modLog_pwr, foldl_unchanged State.pwr State.closeFlash_pwr, State.modPwr_pwr]

theorem State.shutFlash_writing (s : State) : s.shutFlash.log.writing = s.log.writing := by
  have hclosed := foldl_unchanged (fun t : State => t.log.writing) State.closeFlash_writing parts16
    (s.modPwr (fun w => { w with pwrOk := false, shutdown := true }))
  unfold State.shutFlash
  generalize List.foldl _ _ _ = t at hclosed ⊢
  exact hclosed

theorem State.shutFlash_stopped (s : State) {q : Nat} (hq : q < 16) : (s.shutFlash.ns q).stopped = true := by
  have hclosed := foldl_closeFlash_stopped (s.modPwr (fun w => { w with pwrOk := false, shutdown := true })) hq
  unfold State.shutFlash
  generalize List.foldl _ _ _ = t at hclosed ⊢
  exact hclosed

theorem exec_pwrOkFall {s : State} (h : s.powered = true) : exec .pwrOkFall s = .next ((s.shutFlash.persistLog true).modMeter
    (fun m => { m with due := if m.running then m.due ++ [4] else m.due })) := by
  change execPwrOkFall s = _
  unfold execPwrOkFall
  rw [h, if_neg (by decide)]
  rfl

theorem exec_pwrOkFall_shuts {s : State} (h : s.powered = true) : completes (exec .pwrOkFall s) (fun u =>
    u.pwr.pwrOk = false ∧ u.pwr.shutdown = true ∧
      (s.log.writing = none → ∃ i, u.log.writing = some (i, false) ∧ i.clean = true) ∧
      (s.log.writing ≠ none → u.log.writing = s.log.writing ∧ u.log.due = some true) ∧ ∀ p, p < 16 → (u.ns p).stopped = true) := by
  have hpwr := s.shutFlash_pwr
  have hwriting := s.shutFlash_writing
  have hstopped (q : Nat) (hq : q < 16) := s.shutFlash_stopped hq
  have hexec := exec_pwrOkFall h
  generalize s.shutFlash = t at hpwr hwriting hstopped hexec
  refine ⟨_, hexec, ?_, ?_, fun hidle => ?_, fun hbusy => ?_, fun p hp => ?_⟩
  · exact congrArg Power.pwrOk ((t.persistLog_pwr true).trans hpwr)
  · exact congrArg Power.shutdown ((t.persistLog_pwr true).trans hpwr)
  · exact State.persistLog_writes true (hwriting.trans hidle)
  · obtain ⟨hkept, hdue⟩ := State.persistLog_waits true (hwriting.symm ▸ hbusy)
    exact ⟨hkept.trans hwriting, hdue⟩
  · exact (congrArg Ns.stopped (t.persistLog_ns true p)).trans (hstopped p hp)

theorem exec_pwrOkFall_not {s : State} (h : s.powered = false) : goesTo (exec .pwrOkFall s) s := by
  change execPwrOkFall s = .next s
  unfold execPwrOkFall
  rw [h]
  rfl

/-! ### The standby rails (R411, R465, R498) -/

section
variable (s : State)

theorem State.moveCursors_log (new : LogRec) (old : Option LogRec) : ∃ l, s.moveCursors new old = { s with log := l } ∧ l.pcc = s.log.pcc := by
  refine List.foldlRecOn (motive := fun t => ∃ l, t = { s with log := l } ∧ l.pcc = s.log.pcc) _ _ ⟨s.log, rfl, rfl⟩ ?_
  rintro _ ⟨l, rfl, hl⟩ k -
  exact ⟨_, rfl, hl⟩

theorem State.placeRec_log (code sev : Nat) (part : Option Nat) (summary : Bool) (data : List Byte) :
    ∃ l, s.placeRec code sev part summary data = { s with log := l } ∧ l.pcc = s.log.pcc := by
  unfold State.placeRec
  dsimp only
  generalize (if decide (4096 ≤ s.log.recs.length) = true then s.log.victim sev else none) = v
  split
  · exact ⟨_, rfl, rfl⟩
  · exact State.moveCursors_log ..

theorem State.takeEvent_log (e : Event) : ∃ l, s.takeEvent e = { s with log := l } ∧ l.pcc = s.log.pcc := by
  unfold State.takeEvent
  dsimp only
  split
  · exact State.placeRec_log ..
  · split
    · exact State.placeRec_log ..
    · exact ⟨_, rfl, rfl⟩

/-- Power-on changes of the state the log alone, whose power-cycle count advances. -/
theorem State.logPowerOn_log : ∃ l, s.logPowerOn = { s with log := l } ∧ l.pcc = (s.log.pcc + 1) % 2 ^ 24 := by
  unfold State.logPowerOn
  dsimp only
  split
  · exact ⟨_, rfl, rfl⟩
  · split
    · exact ⟨_, rfl, rfl⟩
    · exact State.takeEvent_log ..

end

theorem exec_powerOn_not {s : State} (h : s.pwr.standby = true) : goesTo (exec .powerOn s) s := by
  change execPowerOn s = .next s
  unfold execPowerOn
  rw [if_pos h]

theorem exec_powerOn_resets {s : State} (h : s.pwr.standby = false) : completes (exec .powerOn s) (fun u =>
    (∀ a, u.reg a = regReset a) ∧ u.cores = Tab.empty ∧ u.mem = Tab.empty ∧ u.pwr = { cause := if s.pwr.tripped then 5 else 1 } ∧
      u.colo.nor = s.colo.nor ∧ u.log.pcc = (s.log.pcc + 1) % 2 ^ 24) := by
  change completes (execPowerOn s) _
  unfold execPowerOn
  rw [h, if_neg (by decide)]
  dsimp only
  refine ⟨_, rfl, ?_⟩
  generalize hm : State.modMeter _ _ = t
  obtain ⟨l, ht, hl⟩ := t.logPowerOn_log
  rw [ht]
  subst hm
  exact ⟨fun a => rfl, rfl, rfl, rfl, rfl, hl⟩

theorem exec_standbyLoss_not {s : State} (h : s.pwr.standby = false) : goesTo (exec .standbyLoss s) s := by
  change execStandbyLoss s = .next s
  unfold execStandbyLoss
  rw [h]
  rfl

theorem exec_standbyLoss_loses {s : State} (h : s.pwr.standby = true) : completes (exec .standbyLoss s) (fun u =>
    u.pwr.standby = false ∧ u.mem = Tab.empty ∧ u.cores = Tab.empty ∧
      (∀ a, u.reg a = regReset a) ∧ u.colo.nor = s.colo.nor ∧ u.colo.fwSvn = s.colo.fwSvn ∧ u.log.recs = [] ∧ u.meter.running = false ∧
      ∀ p, p < 16 → (u.ns p).cws = (s.ns p).cws) := by
  change completes (execStandbyLoss s) _
  unfold execStandbyLoss
  rw [h, if_neg (by decide)]
  have hcws (p : Nat) (hp : p < 16) := (s.cutFlash_ns false hp).1
  unfold State.ns at hcws
  dsimp only [State.meterLost, State.modMeter]
  generalize (s.cutFlash false).arc = arc at hcws ⊢
  exact ⟨_, rfl, rfl, rfl, rfl, fun a => rfl, rfl, rfl, rfl, rfl, hcws⟩

end Sys2Proof.Machine
end

section
/-! SUPPORT. PWR_OK's rise, the chip resets and the steps of start-up (O47). -/

namespace Sys2Proof.Machine

/-! ### PWR_OK rises (R412) -/

theorem exec_pwrOkRise_not {s : State} (h : s.pwr.standby = false ∨ s.pwr.pwrOk = true ∨ s.pwr.tripped = true) :
    goesTo (exec .pwrOkRise s) s := by
  change execPwrOkRise s = .next s
  unfold execPwrOkRise
  rw [if_pos]
  rcases h with h | h | h <;> simp [h]

theorem exec_pwrOkRise_starts {s : State} (hstandby : s.pwr.standby = true) (hok : s.pwr.pwrOk = false) (htrip : s.pwr.tripped = false) :
    completes (exec .pwrOkRise s) (fun u => u.pwr.pwrOk = true ∧ u.pwr.phase = 1 ∧ u.pwr.t0 = s.clk) := by
  change completes (execPwrOkRise s) _
  unfold execPwrOkRise
  rw [hstandby, hok, htrip, if_neg (by decide)]
  refine ⟨_, rfl, rfl, rfl, ?_⟩
  change State.clk (if _ then _ else _) = _
  split <;> rfl

/-! ### Chip resets (R424, R425, R498) -/

/-- The flash programs that a chip reset lets complete. -/
def State.settleFlash (s : State) : State := parts16.foldl (fun s p => s.programsEnd p) s.stopFlash

theorem State.stopFlash_pwr (s : State) : s.stopFlash.pwr = s.pwr := foldl_unchanged State.pwr (fun _ _ => State.modNs_pwr ..) _ _

theorem State.stopFlash_colo (s : State) : s.stopFlash.colo = s.colo := foldl_unchanged State.colo (fun _ _ => State.modNs_colo ..) _ _

theorem State.settleFlash_pwr (s : State) : s.settleFlash.pwr = s.pwr :=
  (foldl_unchanged State.pwr (fun s p => State.pwr_of_offTiers (s.programsEnd_offTiers p)) parts16 _).trans s.stopFlash_pwr

theorem State.settleFlash_colo (s : State) : s.settleFlash.colo = s.colo :=
  (foldl_unchanged State.colo (fun s p => State.colo_of_offTiers (s.programsEnd_offTiers p)) parts16 _).trans s.stopFlash_colo

theorem State.chipReset_eq (s : State) (cause : Nat) : s.chipReset cause =
    (s.settleFlash.islandsReset true true).modPwr (fun w => { w with cause := cause, phase := 0, readyMs := 0 }) := rfl

/-- A chip reset begins: the always-on island alone keeps its state. -/
def startsAnew (s u : State) : Prop := u.cores = Tab.empty ∧ u.mem = Tab.empty ∧ u.desk = {} ∧ u.clk = s.clk

theorem State.chipReset_startsAnew (s : State) (cause : Nat) : startsAnew s (s.chipReset cause) := by
  have hclk := s.chipReset_clk cause
  rw [State.chipReset_eq] at hclk ⊢
  exact ⟨rfl, rfl, rfl, hclk⟩

theorem State.chipReset_recovery (s : State) (cause : Nat) : (s.chipReset cause).colo.recovery = s.colo.recovery := by
  have hcolo := congrArg Colophon.recovery s.settleFlash_colo
  rw [State.chipReset_eq]
  generalize s.settleFlash = t at hcolo ⊢
  exact hcolo

theorem State.chipReset_cause (s : State) (cause : Nat) : (s.chipReset cause).pwr.cause = cause := rfl

theorem exec_chipRstNAssert_not {ns : Nat} {s : State} (h : s.powered = false ∨ s.pwr.rstLow = true ∨ ns < 100) :
    goesTo (exec (.chipRstNAssert ns) s) s := by
  change execChipRstNAssert ns s = .next s
  unfold execChipRstNAssert
  rw [if_pos]
  rcases h with h | h | h <;> simp [h]

theorem exec_chipRstNAssert_resets {ns : Nat} {s : State} (h : s.powered = true) (hlow : s.pwr.rstLow = false) (hns : 1000 ≤ ns) :
    completes (exec (.chipRstNAssert ns) s) (fun u => startsAnew s u ∧ u.pwr.rstLow = true ∧ u.pwr.cause = 3) := by
  have hanew := s.chipReset_startsAnew 3
  have hcause := s.chipReset_cause 3
  change completes (execChipRstNAssert ns s) _
  unfold execChipRstNAssert
  rw [h, hlow, decide_eq_false (by omega), if_neg (by decide)]
  simp only [Nat.not_lt.2 hns, false_and, if_false]
  generalize s.chipReset 3 = t at hanew hcause
  exact ⟨_, rfl, hanew, rfl, hcause⟩

theorem exec_chipRstNRelease_not {s : State} (h : s.pwr.rstLow = false) : goesTo (exec .chipRstNRelease s) s := by
  change execChipRstNRelease s = .next s
  unfold execChipRstNRelease
  rw [h]
  rfl

theorem State.hostsTrain_pwr (s : State) : s.hostsTrain.pwr = s.pwr := rfl

theorem State.hostsTrain_colo (s : State) : s.hostsTrain.colo = s.colo := rfl

/-- Where start-up enters after a chip reset. -/
theorem State.afterReset_phase (s : State) : (s.afterReset true).pwr.phase = if s.colo.recovery then 2 else 3 := by
  unfold State.afterReset
  cases s.colo.recovery <;> rfl

/-- The parts that entering start-up leaves as a reset left them. -/
theorem State.afterReset_other (s : State) (chip : Bool) : (s.afterReset chip).mem = s.mem ∧ (s.afterReset chip).desk = s.desk ∧
    (s.afterReset chip).clk = s.clk ∧ (s.afterReset chip).pwr.cause = s.pwr.cause ∧ (s.afterReset chip).pwr.rstLow = s.pwr.rstLow := by
  unfold State.afterReset
  split <;> exact ⟨rfl, rfl, rfl, rfl, rfl⟩

theorem exec_chipRstNRelease_enters {s : State} (h : s.pwr.rstLow = true) : completes (exec .chipRstNRelease s) (fun u =>
    u.pwr.rstLow = false ∧ u.pwr.phase =
      if s.powered = true ∧ s.pwr.supply = false then (if s.colo.recovery then 2 else 3) else s.pwr.phase) := by
  change completes (execChipRstNRelease s) _
  unfold execChipRstNRelease
  rw [h, if_neg (by decide)]
  refine ⟨_, rfl, ?_⟩
  generalize hs1 : s.modPwr (fun w => { w with rstLow := false }) = t
  have hpowered : t.powered = s.powered := by rw [← hs1]; rfl
  have hsupply : t.pwr.supply = s.pwr.supply := by rw [← hs1]; rfl
  have hphase : t.pwr.phase = s.pwr.phase := by rw [← hs1]; rfl
  have hcolo : t.colo = s.colo := by rw [← hs1]; rfl
  have hlow : t.pwr.rstLow = false := by rw [← hs1]; rfl
  simp only [hpowered, hsupply]
  by_cases hgo : s.powered = true ∧ s.pwr.supply = false
  · obtain ⟨-, -, -, -, hrst⟩ := t.afterReset_other true
    rw [if_neg (by simp [hgo]), if_pos hgo, t.afterReset_phase, hcolo]
    exact ⟨hrst.trans hlow, rfl⟩
  · have hstay : (!s.powered || s.pwr.supply) = true := by
      cases hp : s.powered
      · rfl
      · simpa [hp] using hgo
    rw [if_pos hstay, if_neg hgo]
    exact ⟨hlow, hphase⟩

/-- A chip reset already goes on, or the supply is in reset. -/
def Power.resetHeld (w : Power) : Prop := w.rstLow = true ∨ w.supply = true

theorem exec_rstCmd_not {f : Fn} {key : BitVec 16} {s : State} (h : fnIsVf f = true ∨ s.seesPage f rstPage = false ∨ key ≠ 0xC41B ∨
    s.powered = false ∨ s.pwr.resetHeld) : goesTo (exec (.rstCmd f key) s) (s.access f) := by
  change execRstCmd f key s = .next _
  unfold execRstCmd
  have hsees : (s.access f).seesPage f rstPage = s.seesPage f rstPage := rfl
  have hpowered : (s.access f).powered = s.powered := rfl
  simp only [hsees, hpowered, State.access_pwr]
  rw [if_pos]
  unfold Power.resetHeld at h
  rcases h with h | h | h | h | h | h
  case hc.inr.inr.inl => exact .inr (.inr (.inl h))
  all_goals simp [h]

theorem exec_rstCmd_resets {f : Fn} {key : BitVec 16} {s : State} (hvf : fnIsVf f = false) (hsees : s.seesPage f rstPage = true)
    (hkey : key = 0xC41B) (hpowered : s.powered = true) (hheld : ¬s.pwr.resetHeld) : completes (exec (.rstCmd f key) s) (fun u =>
      u.mem = Tab.empty ∧ u.desk = {} ∧ u.clk = s.clk ∧ u.pwr.cause = 4 ∧ u.pwr.phase = if s.colo.recovery then 2 else 3) := by
  change completes (execRstCmd f key s) _
  have hs : (s.access f).seesPage f rstPage = true := hsees
  have hp : (s.access f).powered = true := hpowered
  have hclk : (s.access f).clk = s.clk := rfl
  have hrec : (s.access f).colo.recovery = s.colo.recovery := rfl
  have hh : ¬(s.access f).pwr.resetHeld := hheld
  unfold execRstCmd
  dsimp only
  generalize s.access f = t at hs hp hclk hrec hh
  obtain ⟨hlow, hsupply⟩ := not_or.1 hh
  obtain ⟨-, hmem, hdesk, hclk'⟩ := t.chipReset_startsAnew 4
  have hrecovery := t.chipReset_recovery 4
  have hcause := t.chipReset_cause 4
  rw [if_neg (by simp [hvf, hs, hp, hkey, hlow, hsupply])]
  refine ⟨_, rfl, ?_⟩
  generalize t.chipReset 4 = v at hmem hdesk hclk' hrecovery hcause
  obtain ⟨hm, hd, hc, hca, -⟩ := v.afterReset_other true
  rw [hm, hd, hc, hca, v.afterReset_phase, hrecovery, hrec]
  exact ⟨hmem, hdesk, hclk'.trans hclk, hcause, rfl⟩

/-! ### The steps of start-up (R426 to R428) -/

theorem exec_startupStepDone_unpowered {x : StartReport} {s : State} (h : s.powered = false) : goesTo (exec (.startupStepDone x) s) s := by
  change execStartupStepDone x s = .next s
  unfold execStartupStepDone
  rw [h]
  rfl

/-- The supply and the resets let start-up go on. -/
theorem Power.goesOn {s : State} (h : s.powered = true) (hheld : ¬s.pwr.resetHeld) :
    (!s.powered || s.pwr.rstLow || s.pwr.supply) = false := by
  obtain ⟨hlow, hsupply⟩ := not_or.1 hheld
  simp [h, hlow, hsupply]

theorem exec_startupStepDone_waits {x : StartReport} {s : State} (h : s.powered = true) (hheld : ¬s.pwr.resetHeld)
    (hphase : s.pwr.phase = 3 ∧ s.pwr.ungateQ ≠ [] ∨ s.pwr.phase ∈ [0, 9, 15]) : goesTo (exec (.startupStepDone x) s) s := by
  change execStartupStepDone x s = .next s
  unfold execStartupStepDone
  rw [Power.goesOn h hheld, if_neg (by decide)]
  dsimp only
  rcases hphase with ⟨hphase, hq⟩ | hphase
  · rw [hphase]
    exact if_pos hq
  · simp only [List.mem_cons, List.not_mem_nil, or_false] at hphase
    rcases hphase with hphase | hphase | hphase <;> (rw [hphase]; rfl)

theorem exec_startupStepDone_boots {x : StartReport} {s : State} (h : s.powered = true) (hheld : ¬s.pwr.resetHeld)
    (hphase : s.pwr.phase = 2) :
    completes (exec (.startupStepDone x) s) (fun u => u.pwr.phase = if u.colo.recovery then 15 else 3) := by
  change completes (execStartupStepDone x s) _
  unfold execStartupStepDone
  rw [Power.goesOn h hheld, if_neg (by decide), hphase]
  refine ⟨_, rfl, ?_⟩
  dsimp only
  generalize s.bootSlots = t
  cases hrec : t.colo.recovery
  · rw [if_neg (by decide)]
    change 3 = if t.colo.recovery = true then 15 else 3
    rw [hrec, if_neg (by decide)]
  · rw [if_pos rfl]
    change 15 = if t.colo.recovery = true then 15 else 3
    rw [hrec, if_pos rfl]

theorem exec_startupStepDone_ungates {x : StartReport} {s : State} (h : s.powered = true) (hheld : ¬s.pwr.resetHeld)
    (hphase : s.pwr.phase = 3) (hq : s.pwr.ungateQ = []) : completes (exec (.startupStepDone x) s) (fun u =>
      u.pwr.ungated = Tab.empty ∧ u.pwr.phase = if s.colo.recovery then 15 else 4) := by
  change completes (execStartupStepDone x s) _
  unfold execStartupStepDone
  rw [Power.goesOn h hheld, if_neg (by decide), hphase]
  dsimp only
  rw [if_neg (not_not.2 hq)]
  exact ⟨_, rfl, rfl, rfl⟩

theorem State.burn_pwr (s : State) (good : Colophon → Colophon) : (s.burn good).pwr = s.pwr := by
  unfold State.burn
  dsimp only
  split <;> rfl

theorem State.burnFuses_pwr (s : State) : s.burnFuses.pwr = s.pwr := by
  unfold State.burnFuses
  split
  · rfl
  · dsimp only
    rw [State.modColo_pwr, foldl_unchanged State.pwr (fun s g => by split; exacts [s.burn_pwr _, rfl]),
      foldl_unchanged State.pwr (fun s i => s.burn_pwr _)]

theorem State.trainFail_reg (s : State) (ty inst a : Nat) : (s.trainFail ty inst).reg a = s.reg a := rfl

/-- Training of one stack. -/
def State.trainStack (x : StartReport) (s : State) (h : Nat) : State :=
  if x.stackFail.contains h then (s.setField (hcP h + 0x40) 8 8 0).trainFail 0x21 h else s

theorem State.trainStack_reg (x : StartReport) (s : State) (h k : Nat) : (s.trainStack x k).reg (hcP h + 0x40) =
    if h = k ∧ k ∈ x.stackFail then putFld (s.reg (hcP h + 0x40)) 8 8 0 else s.reg (hcP h + 0x40) := by
  unfold State.trainStack
  by_cases hk : k ∈ x.stackFail
  · rw [if_pos (List.contains_iff_mem.2 hk), State.trainFail_reg, State.setField, State.setReg_reg]
    by_cases heq : h = k
    · simp [heq, hk]
    · rw [if_neg (by unfold hcP; omega), if_neg (by simp [heq])]
  · rw [if_neg (by simpa using hk), if_neg (by simp [hk])]

/-- Training writes the rate of a stack that fails to 0 and leaves the others' as they are. -/
theorem State.trainHbm_reg (s : State) (x : StartReport) {h : Nat} (hh : h < 6) : (s.trainHbm x).reg (hcP h + 0x40) =
    if h ∈ x.stackFail then putFld (s.reg (hcP h + 0x40)) 8 8 0 else s.reg (hcP h + 0x40) := by
  refine foldl_at (h := h) (step := State.trainStack x) (P := fun t : State => t.reg (hcP h + 0x40) = s.reg (hcP h + 0x40))
    (Q := fun t : State => t.reg (hcP h + 0x40) = if h ∈ x.stackFail then putFld (s.reg (hcP h + 0x40)) 8 8 0 else s.reg (hcP h + 0x40))
    (List.mem_range.2 hh) List.nodup_range (fun t k _ hk ht => ?_) (fun t ht => ?_) (fun t k _ hk ht => ?_) rfl
  · rw [State.trainStack_reg, if_neg (fun hboth => hk hboth.1.symm), ht]
  · simp only [State.trainStack_reg, ht, true_and]
  · rw [State.trainStack_reg, if_neg (fun hboth => hk hboth.1.symm), ht]

theorem exec_startupStepDone_leads {x : StartReport} {s : State} (h : s.powered = true) (hheld : ¬s.pwr.resetHeld)
    (hphase : s.pwr.phase ∈ [1, 4, 5, 6, 7, 8]) : completes (exec (.startupStepDone x) s) (fun u => u.pwr.phase = s.pwr.phase + 1 ∧
      (s.pwr.phase = 4 → ∀ h, h < 6 → u.reg (hcP h + 0x40) =
        if h ∈ x.stackFail then putFld (s.reg (hcP h + 0x40)) 8 8 0 else s.reg (hcP h + 0x40))) := by
  change completes (execStartupStepDone x s) _
  have hhbm (h : Nat) (hh : h < 6) := s.trainHbm_reg x hh
  unfold execStartupStepDone
  rw [Power.goesOn h hheld, if_neg (by decide)]
  simp only [List.mem_cons, List.not_mem_nil, or_false] at hphase
  rcases hphase with hphase | hphase | hphase | hphase | hphase | hphase <;> rw [hphase]
  case inr.inl =>
    refine ⟨_, rfl, rfl, fun _ => ?_⟩
    generalize s.trainHbm x = t at hhbm ⊢
    exact hhbm
  case inr.inr.inr.inr.inr =>
    refine ⟨_, rfl, ?_, fun h => absurd h (by decide)⟩
    rw [State.burnFuses_pwr]
    rfl
  all_goals exact ⟨_, rfl, rfl, fun h => absurd h (by decide)⟩

/-- Settles O47: the resets of the islands leave the always-on one, the steps of start-up lead on phase by phase, and what stops the
flash stops it for each namespace. -/
theorem resetKindsAndStartUp : Obligations.ResetKindsAndStartUp := by
  unfold Obligations.ResetKindsAndStartUp
  intro f ns key x s
  exact ⟨exec_powerOn_not, exec_powerOn_resets, exec_pwrOkRise_not, exec_pwrOkRise_starts,
    fun h => ⟨exec_pwrOkFall_not h, exec_startupStepDone_unpowered h⟩, exec_pwrOkFall_shuts, exec_standbyLoss_not, exec_standbyLoss_loses,
    exec_chipRstNAssert_not, exec_chipRstNAssert_resets, exec_chipRstNRelease_not, exec_chipRstNRelease_enters, exec_rstCmd_not,
    exec_rstCmd_resets, fun h hheld => ⟨exec_startupStepDone_waits h hheld, exec_startupStepDone_leads h hheld,
      exec_startupStepDone_boots h hheld, exec_startupStepDone_ungates h hheld⟩⟩

end Sys2Proof.Machine
end

section
/-! SUPPORT. Measurement registers, pushes and the firmware stage of Colophon (O49). -/

namespace Sys2Proof.Machine

/-! ### CRC-32C fits 32 bits -/

theorem crcBit_lt {c : Nat} (h : c < 2 ^ 32) : crcBit c < 2 ^ 32 := by
  unfold crcBit
  split
  · exact Nat.xor_lt_two_pow (by omega) (by norm_num)
  · omega

theorem crcByte_lt {c : Nat} (h : c < 2 ^ 32) (b : Byte) : crcByte c b < 2 ^ 32 := by
  have hstart : c ^^^ b.toNat < 2 ^ 32 := Nat.xor_lt_two_pow h (b.isLt.trans (by norm_num))
  exact crcBit_lt (crcBit_lt (crcBit_lt (crcBit_lt (crcBit_lt (crcBit_lt (crcBit_lt (crcBit_lt hstart)))))))

theorem crc32c_lt (bs : List Byte) : crc32c bs < 2 ^ 32 := by
  have hfold : bs.foldl crcByte 0xFFFFFFFF < 2 ^ 32 :=
    List.foldlRecOn (motive := fun c => c < 2 ^ 32) bs crcByte (by norm_num) (fun c hc b _ => crcByte_lt hc b)
  exact Nat.xor_lt_two_pow hfold (by norm_num)

/-! ### The boot directory (R434) -/

/-- A directory copy with its CRC. -/
def dirBytes (q k : Nat) : List Byte := (leBytes 4 q ++ leBytes 1 k) ++ zeros 3 ++ leBytes 4 (crc32c (leBytes 4 q ++ leBytes 1 k))

theorem dirBytes_length (q k : Nat) : (dirBytes q k).length = 12 := by simp [dirBytes, zeros]

theorem dirBytes_body (q k : Nat) : (dirBytes q k).take 5 = leBytes 4 q ++ leBytes 1 k := by
  rw [dirBytes, List.append_assoc, List.take_left' (by simp)]

theorem dirBytes_crc (q k : Nat) : leAt (dirBytes q k) 8 4 = crc32c (leBytes 4 q ++ leBytes 1 k) := by
  have hlen : ((leBytes 4 q ++ leBytes 1 k) ++ zeros 3).length = 8 := by simp [zeros]
  have hat := leAt_append_right ((leBytes 4 q ++ leBytes 1 k) ++ zeros 3) (leBytes 4 (crc32c (leBytes 4 q ++ leBytes 1 k)) ++ []) 0 4
  rw [hlen, List.append_nil] at hat
  rw [dirBytes, hat, ← List.append_nil (leBytes 4 _), leAt_leBytes]
  exact Nat.mod_eq_of_lt (crc32c_lt _)

theorem dirBytes_seq (q k : Nat) (h : q < 2 ^ 32) : leAt (dirBytes q k) 0 4 = q := by
  rw [dirBytes, List.append_assoc, List.append_assoc, leAt_leBytes]
  exact Nat.mod_eq_of_lt h

theorem dirBytes_slot (q k : Nat) (h : k < 2) : bAt (dirBytes q k) 4 % 2 = k := by
  have hbyte : (dirBytes q k).getD 4 0 = BitVec.ofNat 8 k := by simp [dirBytes, leBytes]
  rw [bAt, hbyte, BitVec.toNat_ofNat]
  omega

/-- The directory leads to the slot of the copy written last: the second copy, where the first was in force. -/
theorem State.dir_of_copies {s : State} {q j k m : Nat} (hfirst : s.dirCopy 0 = some (q, j)) (hsecond : s.dirCopy 1 = some (m, k))
    (h : q < m) : s.dir = (some 1, m, k) := by
  rw [State.dir, hfirst, hsecond]
  exact if_pos h

theorem State.dirCopy_zero {s : State} (h : s.dir.1 = some 0) : s.dirCopy 0 = some (s.dir.2.1, s.dir.2.2) := by
  cases hfirst : s.dirCopy 0 <;> cases hsecond : s.dirCopy 1 <;> simp only [State.dir, hfirst, hsecond] at h ⊢
  case none.none => exact absurd h (by simp)
  case none.some => exact absurd h (by simp)
  case some.some =>
    split at h
    · exact absurd h (by simp)
    next hlt => rw [if_neg hlt]

/-- What the second copy's bytes make of the directory. -/
theorem State.dir_written {s t : State} {q k : Nat} (hnor : t.colo.nor = Mem.putBytes s.colo.nor 0x8000 (dirBytes q k))
    (hfirst : s.dir.1 = some 0) (hq : q = s.dir.2.1 + 1) (hlt : q < 2 ^ 32) (hk : k < 2) : t.dir = (some 1, q, k) := by
  have hbytes : Mem.bytes t.colo.nor 0x8000 12 = dirBytes q k := by
    rw [hnor]
    have hsame := Mem.bytes_putBytes_same s.colo.nor 0x8000 (dirBytes q k)
    rwa [dirBytes_length] at hsame
  have hother : Mem.bytes t.colo.nor 0 12 = Mem.bytes s.colo.nor 0 12 := by
    rw [hnor]
    exact Mem.bytes_putBytes_out _ _ _ (.inl (by norm_num))
  have hcopy0 : t.dirCopy 0 = s.dirCopy 0 := by
    simp only [State.dirCopy, Nat.zero_mul, hother]
  have hcopy1 : t.dirCopy 1 = some (q, k) := by
    simp only [State.dirCopy, Nat.one_mul, hbytes, dirBytes_crc, dirBytes_body, dirBytes_seq q k hlt, dirBytes_slot q k hk, if_pos]
  exact State.dir_of_copies (hcopy0.trans (State.dirCopy_zero hfirst)) hcopy1 (by omega)

/-! ### Measurement registers (R438) -/

theorem exec_mrExtend_not {f : Fn} {v : BitVec 3} {s : State}
    (h : s.seesPage f coloPage = false ∨ v.toNat < 6 ∨ ∀ b, f ≠ .pf b) : goesTo (exec (.mrExtend f v) s) (s.access f) := by
  have hsees : (s.access f).seesPage f coloPage = s.seesPage f coloPage := rfl
  change execMrExtend f v s = .next _
  unfold execMrExtend
  dsimp only
  rw [hsees, if_pos]
  rcases h with h | h | h
  · simp [h]
  · exact .inr (.inr (.inr h))
  · cases f with
    | pf b => exact absurd rfl (h b)
    | vf b k => exact .inr (.inl rfl)
    | sp => exact .inl rfl

theorem State.mr_extend (s : State) (i j : Nat) (d : List Byte) :
    (s.extend i d).mr j = if j = i then Config.sha384 (s.mr i ++ d) else s.mr j := Tab.get_set ..

theorem exec_mrExtend_hashes {b : HPort} {v : BitVec 3} {s : State} (hsees : s.seesPage (.pf b) coloPage = true) (hv : 6 ≤ v.toNat) :
    completes (exec (.mrExtend (.pf b) v) s) (fun u => ∀ i, u.mr i = if i = v.toNat then
      Config.sha384 (s.mr i ++ (List.range 6).flatMap (fun k => leBytes 8 (s.reg (0x7300 + 8 * k)).toNat)) else s.mr i) := by
  have hs : (s.access (.pf b)).seesPage (.pf b) coloPage = true := hsees
  change completes (execMrExtend (.pf b) v s) _
  unfold execMrExtend
  dsimp only
  rw [if_neg (by simp [hs, fnIsVf, Nat.not_lt.2 hv])]
  refine ⟨_, rfl, fun i => ?_⟩
  rw [State.mr_extend]
  split
  case isTrue h => rw [h]; rfl
  case isFalse => rfl

/-! ### Pushes (R442) -/

/-- The 2 KiB of the push window. -/
def State.pushWindow (s : State) : List Byte := (List.range 256).flatMap (fun k => leBytes 8 (s.reg (0x7800 + 8 * k)).toNat)

section
variable {f : Fn} {n : BitVec 14} {s : State}

theorem exec_push_not (h : s.seesPage f coloPage = false) : goesTo (exec (.push f n) s) (s.access f) := by
  have hsees : (s.access f).seesPage f coloPage = false := h
  change execPush f n s = .next _
  unfold execPush
  dsimp only
  rw [hsees, if_pos (by decide)]

theorem exec_push_busy (hsees : s.seesPage f coloPage = true) (h : s.colo.pushing ≠ none ∨ s.colo.stage ≠ none) :
    completes (exec (.push f n) s) (fun u => u.colo = s.colo ∧ counted s u 0x7418 1) := by
  have hs : (s.access f).seesPage f coloPage = true := hsees
  change completes (execPush f n s) _
  unfold execPush
  dsimp only
  rw [hs, if_neg (by decide), State.access_colo, if_pos h]
  exact ⟨_, rfl, rfl, counted_bump (s.access f) 0x7418 1⟩

theorem exec_push_takes (hsees : s.seesPage f coloPage = true) (hpush : s.colo.pushing = none) (hstage : s.colo.stage = none) :
    completes (exec (.push f n) s) (fun u => u.colo.nor = s.colo.nor ∧
      u.colo.pushing = if 12287 < n.toNat then none else some (n.toNat, s.pushWindow)) := by
  have hs : (s.access f).seesPage f coloPage = true := hsees
  change completes (execPush f n s) _
  unfold execPush
  dsimp only
  rw [hs, if_neg (by decide), if_neg (by simp [hpush, hstage])]
  split
  · exact ⟨_, rfl, rfl, hpush⟩
  · exact ⟨_, rfl, rfl, rfl⟩

end

theorem exec_pushDone_not {ok : Bool} {s : State} (h : s.colo.pushing = none) : goesTo (exec (.pushDone ok) s) s := by
  change execPushDone ok s = .next s
  unfold execPushDone
  rw [h]

theorem exec_pushDone_programs {ok : Bool} {s : State} {o : Nat} {bs : List Byte} (h : s.colo.pushing = some (o, bs)) :
    completes (exec (.pushDone ok) s) (fun u => u.colo.pushing = none ∧
      (ok = true → u.colo.nor = Mem.putBytes s.colo.nor (slotBase (1 - s.dir.2.2) + o * 2048) bs ∧ u.colo.pushBad = s.colo.pushBad) ∧
      (ok = false → u.colo.pushBad = true)) := by
  change completes (execPushDone ok s) _
  unfold execPushDone
  rw [h]
  cases ok
  · exact ⟨_, rfl, rfl, fun h => absurd h (by decide), fun _ => Bool.or_true _⟩
  · exact ⟨_, rfl, rfl, fun _ => ⟨rfl, Bool.or_false _⟩, fun h => absurd h (by decide)⟩

/-! ### The firmware stage (R443, R445) -/

/-- A stage of the boot NOR `nor` has ended FAILED. -/
def stageFailed (nor : Mem) (code : Nat) (u : State) : Prop :=
  u.colo.losw.state = 4 ∧ u.colo.losw.error = code ∧ u.colo.nor = nor ∧ u.colo.losw.op = 0x0B ∧ u.colo.stage = none

section
variable {f : Fn} {s : State}

theorem exec_firmwareStage_not (h : s.seesPage f coloPage = false ∨ fnIsVf f = true) :
    goesTo (exec (.firmwareStage f none) s) (s.access f) := by
  have hsees : (s.access f).seesPage f coloPage = s.seesPage f coloPage := rfl
  change execFirmwareStage f none s = .next _
  unfold execFirmwareStage
  dsimp only
  rw [hsees, if_pos]
  rcases h with h | h <;> simp [h]

theorem exec_firmwareStage_start (hsees : s.seesPage f coloPage = true) (hf : fnIsVf f = false) :
    exec (.firmwareStage f none) s = .next (s.access f).stageStart := by
  have hs : (s.access f).seesPage f coloPage = true := hsees
  change execFirmwareStage f none s = _
  unfold execFirmwareStage
  dsimp only
  rw [hs, if_neg (by simp [hf])]

theorem exec_firmwareStage_busy (hsees : s.seesPage f coloPage = true) (hf : fnIsVf f = false) (h : s.colo.stage ≠ none) :
    completes (exec (.firmwareStage f none) s) (fun u => u.colo = { s.colo with losw := { s.colo.losw with state := 4, error := 0x0D07 } }) := by
  refine ⟨_, exec_firmwareStage_start hsees hf, ?_⟩
  rw [State.stageStart, State.access_colo, if_pos h]
  rfl

theorem exec_firmwareStage_bad (hsees : s.seesPage f coloPage = true) (hf : fnIsVf f = false) (h : s.colo.stage = none)
    (hbad : s.colo.pushBad = true) : completes (exec (.firmwareStage f none) s) (stageFailed s.colo.nor 0x0D06) := by
  refine ⟨_, exec_firmwareStage_start hsees hf, ?_⟩
  rw [State.stageStart, State.access_colo, if_neg (not_not.2 h), if_pos hbad]
  exact ⟨rfl, rfl, rfl, rfl, rfl⟩

theorem exec_firmwareStage_runs (hsees : s.seesPage f coloPage = true) (hf : fnIsVf f = false) (h : s.colo.stage = none)
    (hbad : s.colo.pushBad = false) : completes (exec (.firmwareStage f none) s) (fun u => u.colo.stage = some 0 ∧
      u.colo.nor = s.colo.nor ∧ u.colo.losw.op = 0x0B ∧ u.colo.losw.state = 2 ∧ u.colo.losw.prog = 0 ∧ u.colo.losw.total = 3) := by
  refine ⟨_, exec_firmwareStage_start hsees hf, ?_⟩
  rw [State.stageStart, State.access_colo, if_neg (not_not.2 h), if_neg (Bool.eq_false_iff.1 hbad)]
  exact ⟨rfl, rfl, rfl, rfl, rfl, rfl⟩

theorem exec_firmwareStage_idle {ok : Bool} (h : s.colo.stage = none) : goesTo (exec (.firmwareStage f (some ok)) s) s := by
  change execFirmwareStage f (some ok) s = .next s
  unfold execFirmwareStage
  dsimp only
  rw [h]

theorem exec_firmwareStage_verify {ok : Bool} {j : Nat} (h : s.colo.stage = some j) (hj : j < 2) :
    exec (.firmwareStage f (some ok)) s = .next (s.stageVerify j) := by
  change execFirmwareStage f (some ok) s = _
  unfold execFirmwareStage
  dsimp only
  rw [h]
  exact congrArg _ (if_pos hj)

theorem State.stageVerify_bad {j code : Nat} (hcode : s.coloCheck (decide (j = 1)) (1 - s.dir.2.2) = code) (h : code ≠ 0) :
    stageFailed s.colo.nor code (s.stageVerify j) ∧ counted s (s.stageVerify j) 0x7408 1 := by
  unfold State.stageVerify State.coloVerify
  rw [hcode]
  dsimp only
  rw [if_pos h, if_neg h]
  exact ⟨⟨rfl, rfl, rfl, rfl, rfl⟩, counted_bump s 0x7408 1⟩

theorem State.stageVerify_good {j : Nat} (hcode : s.coloCheck (decide (j = 1)) (1 - s.dir.2.2) = 0) :
    (s.stageVerify j).colo.stage = some (j + 1) ∧ (s.stageVerify j).colo.nor = s.colo.nor ∧ (s.stageVerify j).colo.losw.state = 2 ∧
      (s.stageVerify j).colo.losw.prog = j + 1 ∧ counted s (s.stageVerify j) 0x7400 1 := by
  unfold State.stageVerify State.coloVerify
  rw [hcode]
  dsimp only
  rw [if_neg (by decide), if_pos rfl]
  exact ⟨rfl, rfl, rfl, rfl, counted_bump s 0x7400 1⟩

theorem exec_firmwareStage_write {ok : Bool} (h : s.colo.stage = some 2) :
    exec (.firmwareStage f (some ok)) s = .next (s.stageWrite ok) := by
  change execFirmwareStage f (some ok) s = _
  unfold execFirmwareStage
  dsimp only
  rw [h]
  exact congrArg _ (if_neg (by decide))

theorem State.stageWrite_fails (s : State) : stageFailed s.colo.nor 0x0D06 (s.stageWrite false) := by
  unfold State.stageWrite
  exact ⟨rfl, rfl, rfl, rfl, rfl⟩

/-- The stage's last part writes the directory copy that was not in force and ends DONE. -/
theorem State.stageWrite_leads (hfirst : s.dir.1 = some 0) (hseq : s.dir.2.1 + 1 < 2 ^ 32) (hslot : s.dir.2.2 < 2) :
    (s.stageWrite true).colo.stage = none ∧ (s.stageWrite true).colo.losw.state = 3 ∧ (s.stageWrite true).colo.losw.prog = 3 ∧
      (s.stageWrite true).dir = (some 1, s.dir.2.1 + 1, 1 - s.dir.2.2) := by
  have hnor : (s.stageWrite true).colo.nor = Mem.putBytes s.colo.nor 0x8000 (dirBytes (s.dir.2.1 + 1) (1 - s.dir.2.2)) := by
    unfold State.stageWrite
    dsimp only
    rw [hfirst, Nat.mod_eq_of_lt hseq]
    rfl
  refine ⟨?_, ?_, ?_, State.dir_written hnor hfirst rfl hseq (by omega)⟩ <;>
  · unfold State.stageWrite
    rfl

end

/-- Settles O49: pushes are taken one at a time, and a stage verifies two images and then writes the directory copy not in force. -/
theorem colophonFirmware : Obligations.ColophonFirmware := by
  unfold Obligations.ColophonFirmware
  intro f v n ok s
  refine ⟨fun h => ⟨exec_mrExtend_not (.inl h), exec_push_not h, exec_firmwareStage_not (.inl h)⟩,
    fun hsees => ⟨fun h => exec_mrExtend_not (.inr h), ?_, exec_push_busy hsees, exec_push_takes hsees,
      fun hf => ⟨exec_firmwareStage_busy hsees hf, exec_firmwareStage_bad hsees hf, exec_firmwareStage_runs hsees hf⟩⟩,
    fun h => exec_firmwareStage_not (.inr h), exec_firmwareStage_idle, fun j hstage hj => ⟨fun hcode => ?_, fun hcode => ?_⟩,
    fun hstage => ⟨?_, ?_⟩, exec_pushDone_not, fun o bs => exec_pushDone_programs⟩
  · rintro b rfl hv
    exact exec_mrExtend_hashes hsees hv
  · obtain ⟨hfails, hcounts⟩ := State.stageVerify_bad rfl hcode
    exact ⟨⟨_, exec_firmwareStage_verify hstage hj, hfails⟩, ⟨_, exec_firmwareStage_verify hstage hj, hcounts⟩⟩
  · exact ⟨_, exec_firmwareStage_verify hstage hj, State.stageVerify_good hcode⟩
  · rintro rfl
    exact ⟨_, exec_firmwareStage_write hstage, s.stageWrite_fails⟩
  · rintro rfl hfirst hseq hslot
    exact ⟨_, exec_firmwareStage_write hstage, State.stageWrite_leads hfirst hseq hslot⟩

end Sys2Proof.Machine
end

section
/-! SUPPORT. The answers of an SPDM responder (O50). -/

namespace Sys2Proof.Machine

section
variable (s : State) (b : HPort)

@[simp] theorem State.modSpdm_spdm (f : Spdm → Spdm) : (s.modSpdm b f).spdm b = f (s.spdm b) := Tab.get_set_same ..

@[simp] theorem State.modSpdm_resp (f : Spdm → Spdm) : (s.modSpdm b f).resp = s.resp := rfl
@[simp] theorem State.modSpdm_regs (f : Spdm → Spdm) : (s.modSpdm b f).regs = s.regs := rfl
@[simp] theorem State.modSpdm_measurement (f : Spdm → Spdm) (i : Nat) : (s.modSpdm b f).measurement i = s.measurement i := rfl
@[simp] theorem State.spdmError_resp (code : Nat) : (s.spdmError code).resp = { status := code } := rfl
@[simp] theorem State.spdmError_spdm (code : Nat) : (s.spdmError code).spdm b = s.spdm b := rfl
@[simp] theorem State.spdmError_regs (code : Nat) : (s.spdmError code).regs = s.regs := rfl
@[simp] theorem State.bump_spdm (a n : Nat) : (s.bump a n).spdm b = s.spdm b := rfl
@[simp] theorem State.bump_measurement (a n i : Nat) : (s.bump a n).measurement i = s.measurement i := rfl

section
variable (code : Nat) (req data : List Byte)

@[simp] theorem State.spdmAnswer_resp : (s.spdmAnswer b code req data).resp = { bytes := Config.spdmBody code data } := rfl
@[simp] theorem State.spdmAnswer_regs : (s.spdmAnswer b code req data).regs = s.regs := rfl

/-- An answer extends the transcript and keeps the rest of the connection. -/
@[simp] theorem State.spdmAnswer_spdm : (s.spdmAnswer b code req data).spdm b =
    { s.spdm b with script := (s.spdm b).script ++ Config.spdmBody (512 + code) req ++ Config.spdmBody code data } :=
  State.modSpdm_spdm ..

/-- What a signed response signs. -/
def State.spdmMessage : List Byte := Config.spdmBody (256 + code)
  (Config.sha384 ((s.spdm b).script ++ Config.spdmBody (512 + code) req ++ Config.spdmBody code data))

@[simp] theorem State.spdmSigned_resp : (s.spdmSigned b code req data).resp =
    { bytes := Config.spdmBody code (data ++ Config.rsaSign Config.deviceSecret (s.spdmMessage b code req data)) } := rfl
@[simp] theorem State.spdmSigned_regs : (s.spdmSigned b code req data).regs = s.regs := rfl
@[simp] theorem State.spdmSigned_state : ((s.spdmSigned b code req data).spdm b).state = (s.spdm b).state := by
  rw [State.spdmSigned, State.modSpdm_spdm, State.spdmAnswer_spdm]
@[simp] theorem State.spdmSigned_signed : ((s.spdmSigned b code req data).spdm b).signed = some (s.spdmMessage b code req data) := by
  rw [State.spdmSigned, State.modSpdm_spdm]
  rfl

end

@[simp] theorem State.spdmLarge_resp (r : List Byte) : (s.spdmLarge b r).resp = { status := largeResponse } := rfl
@[simp] theorem State.spdmLarge_regs (r : List Byte) : (s.spdmLarge b r).regs = s.regs := rfl
@[simp] theorem State.spdmLarge_spdm (r : List Byte) : (s.spdmLarge b r).spdm b = { s.spdm b with large := r } := by
  rw [State.spdmLarge, State.spdmError_spdm, State.modSpdm_spdm]

/-! ### What each request is answered with, whatever the state of the connection -/

theorem State.answerAlgorithms_not {base hash : Bool} (h : base = false ∨ hash = false) :
    s.answerAlgorithms b base hash = s.spdmError invalidRequest := by
  rw [State.answerAlgorithms, if_neg]
  rcases h with h | h <;> simp [h]

theorem State.answerCertificate_not {slot off : Nat} (len : Nat) (h : slot ≠ 0 ∨ Config.rsaChain.length < off) :
    s.answerCertificate b slot off len = s.spdmError invalidRequest := if_pos h

theorem State.answerCertificate_long {off len : Nat} (hoff : off ≤ Config.rsaChain.length)
    (h : 4096 < 8 + ((Config.rsaChain.drop off).take len).length) :
    s.answerCertificate b 0 off len = s.spdmLarge b (Config.spdmBody 0x82 ((Config.rsaChain.drop off).take len)) := by
  rw [State.answerCertificate, if_neg (by omega), if_pos h]

theorem State.answerCertificate_whole {off len : Nat} (hoff : off ≤ Config.rsaChain.length)
    (h : 8 + ((Config.rsaChain.drop off).take len).length ≤ 4096) :
    s.answerCertificate b 0 off len = s.spdmAnswer b 0x82 (leBytes 1 0 ++ leBytes 2 off ++ leBytes 2 len) ((Config.rsaChain.drop off).take len) := by
  rw [State.answerCertificate, if_neg (by omega), if_neg (by omega)]

theorem State.answerChallenge_not {slot : Nat} (nonce : List Byte) (h : slot ≠ 0) :
    s.answerChallenge b slot nonce = s.spdmError invalidRequest := if_pos h

theorem State.answerMeasurements_not {index : Nat} (sign : Bool) (nonce : List Byte) (h : s.measurement index = none) :
    s.answerMeasurements b index sign nonce = s.spdmError invalidRequest := by
  rw [State.answerMeasurements, h]

theorem State.answerMeasurements_some {index : Nat} {m : List Byte} (sign : Bool) (nonce : List Byte) (h : s.measurement index = some m) :
    s.answerMeasurements b index sign nonce =
      if sign then s.spdmSigned b 0xE0 (leBytes 1 1 ++ leBytes 1 index ++ nonce) m
      else s.spdmAnswer b 0xE0 (leBytes 1 0 ++ leBytes 1 index ++ nonce) m := by
  rw [State.answerMeasurements, h]
  cases sign <;> rfl

/-! ### A request that chunks have carried (R439) -/

/-- The responses of two states agree, and so do their connections' states and their registers. -/
def sameAnswer (b : HPort) (t u : State) : Prop := t.resp = u.resp ∧ (t.spdm b).state = (u.spdm b).state ∧ t.regs = u.regs

/-- The connection once a large request has been taken out of it. -/
def State.gathered (s : State) (b : HPort) : State := s.modSpdm b (fun x => { x with gather := [] })

theorem State.gathered_spdm : (s.gathered b).spdm b = { s.spdm b with gather := [] } := State.modSpdm_spdm ..

theorem State.gathered_need (least : Nat) {t u : State} (h : sameAnswer b t u) :
    sameAnswer b (if ((s.gathered b).spdm b).state < least then (s.gathered b).spdmError unexpectedRequest else t)
      (if (s.spdm b).state < least then s.spdmError unexpectedRequest else u) := by
  rw [State.gathered_spdm]
  split
  · exact ⟨rfl, by rw [State.spdmError_spdm, State.gathered_spdm, State.spdmError_spdm], rfl⟩
  · exact h

theorem State.gathered_answer (code : Nat) (req data : List Byte) :
    sameAnswer b ((s.gathered b).spdmAnswer b code req data) (s.spdmAnswer b code req data) :=
  ⟨rfl, by rw [State.spdmAnswer_spdm, State.spdmAnswer_spdm, State.gathered_spdm], rfl⟩

theorem State.gathered_signed (code : Nat) (req data : List Byte) :
    sameAnswer b ((s.gathered b).spdmSigned b code req data) (s.spdmSigned b code req data) := by
  refine ⟨?_, by rw [State.spdmSigned_state, State.spdmSigned_state, State.gathered_spdm], rfl⟩
  rw [State.spdmSigned_resp, State.spdmSigned_resp, State.spdmMessage, State.spdmMessage, State.gathered_spdm]

theorem State.gathered_error (code : Nat) : sameAnswer b ((s.gathered b).spdmError code) (s.spdmError code) :=
  ⟨rfl, by rw [State.spdmError_spdm, State.spdmError_spdm, State.gathered_spdm], rfl⟩

theorem State.gathered_large (r : List Byte) : sameAnswer b ((s.gathered b).spdmLarge b r) (s.spdmLarge b r) :=
  ⟨rfl, by rw [State.spdmLarge_spdm, State.spdmLarge_spdm, State.gathered_spdm], rfl⟩

/-- What chunks have gathered plays no part in the response. -/
theorem State.gathered_serve (r : SpdmReq) : sameAnswer b ((s.gathered b).spdmServe b r) (s.spdmServe b r) := by
  cases r with
  | getVersion =>
    refine ⟨rfl, ?_, rfl⟩
    simp only [State.spdmServe, State.answerVersion, State.spdmAnswer_spdm, State.modSpdm_spdm]
  | getCapabilities =>
    refine s.gathered_need b 1 ⟨rfl, ?_, rfl⟩
    simp only [State.answerCapabilities, State.modSpdm_spdm, State.spdmAnswer_spdm, State.gathered_spdm]
  | negotiateAlgorithms base hash =>
    refine s.gathered_need b 2 ?_
    unfold State.answerAlgorithms
    split
    · refine ⟨rfl, ?_, rfl⟩
      rw [State.modSpdm_spdm, State.modSpdm_spdm]
    · exact s.gathered_error b _
  | getDigests => exact s.gathered_need b 3 (s.gathered_answer b ..)
  | getCertificate slot off len =>
    refine s.gathered_need b 3 ?_
    unfold State.answerCertificate
    dsimp only
    split
    · exact s.gathered_error b _
    · split
      · exact s.gathered_large b _
      · exact s.gathered_answer b ..
  | challenge slot nonce =>
    refine s.gathered_need b 3 ?_
    unfold State.answerChallenge
    split
    · exact s.gathered_error b _
    · exact s.gathered_signed b ..
  | getMeasurements index sign nonce =>
    refine s.gathered_need b 3 ?_
    have hsame : (s.gathered b).measurement index = s.measurement index := rfl
    cases hm : s.measurement index with
    | none =>
      rw [State.answerMeasurements_not _ b sign nonce hm, State.answerMeasurements_not _ b sign nonce (hsame.trans hm)]
      exact s.gathered_error b _
    | some m =>
      rw [State.answerMeasurements_some _ b sign nonce hm, State.answerMeasurements_some _ b sign nonce (hsame.trans hm)]
      split
      · exact s.gathered_signed b ..
      · exact s.gathered_answer b ..
  | getPqCert off len =>
    refine s.gathered_need b 3 ?_
    unfold State.answerPqCert
    split
    · exact s.gathered_error b _
    · exact s.gathered_answer b ..
  | getPqSig =>
    refine s.gathered_need b 3 ?_
    unfold State.answerPqSig
    rw [State.gathered_spdm]
    dsimp only
    cases (s.spdm b).signed with
    | none => exact s.gathered_error b _
    | some m => exact s.gathered_large b _

end

/-! ### Taking requests (R439) -/

/-- Colophon takes requests in phases 9 and 15. -/
def State.spdmRuns (s : State) : Prop := s.pwr.phase = 9 ∨ s.pwr.phase = 15

section
variable {s : State} {b : HPort} {least : Nat} {body : State → State}

theorem State.spdmTake_not (h9 : s.pwr.phase ≠ 9) (h15 : s.pwr.phase ≠ 15) : s.spdmTake least b body = .next s := if_pos ⟨h9, h15⟩

theorem State.spdmTake_early (hruns : s.spdmRuns) (h : (s.spdm b).state < least) :
    s.spdmTake least b body = .next ((s.bump 0x7410 1).spdmError unexpectedRequest) := by
  unfold State.spdmRuns at hruns
  rw [State.spdmTake, if_neg (by omega)]
  exact congrArg _ (if_pos h)

theorem State.spdmTake_serves (hruns : s.spdmRuns) (h : least ≤ (s.spdm b).state) :
    s.spdmTake least b body = .next (body (s.bump 0x7410 1)) := by
  unfold State.spdmRuns at hruns
  rw [State.spdmTake, if_neg (by omega)]
  exact congrArg _ (if_neg (Nat.not_lt.2 h))

end

/-- The state after a request was answered with `d`. -/
def answersWith (s : State) (code : Nat) (d : List Byte) (u : State) : Prop :=
  u.resp = { bytes := Config.spdmBody code d } ∧ counted s u 0x7410 1

/-- The state after a request was answered with an error. -/
def errsWith (s : State) (code : Nat) (u : State) : Prop := u.resp = { status := code } ∧ counted s u 0x7410 1

section
variable (s : State) (b : HPort)

theorem State.bump_errs (code : Nat) : errsWith s code ((s.bump 0x7410 1).spdmError code) := ⟨rfl, counted_bump s 0x7410 1⟩

theorem State.bump_answers (code : Nat) (req data : List Byte) :
    answersWith s code data ((s.bump 0x7410 1).spdmAnswer b code req data) := ⟨rfl, counted_bump s 0x7410 1⟩

end

/-- The command of a request on its own. -/
def aloneAt (b : HPort) : SpdmReq → Instr
  | .getVersion => .getVersion b
  | .getCapabilities => .getCapabilities b
  | .negotiateAlgorithms base hash => .negotiateAlgorithms b base hash
  | .getDigests => .getDigests b
  | .getCertificate slot off len => .getCertificate b slot off len
  | .challenge slot nonce => .challenge b slot nonce
  | .getMeasurements index sign nonce => .getMeasurements b index sign nonce
  | .getPqCert off len => .getPqCert b off len
  | .getPqSig => .getPqSig b

/-- The state of the connection that a request needs. -/
def spdmNeed : SpdmReq → Nat
  | .getVersion => 0
  | .getCapabilities => 1
  | .negotiateAlgorithms _ _ => 2
  | _ => 3

/-- What a request in its place in the connection is answered with. -/
def servedTo (b : HPort) : SpdmReq → State → State
  | .getVersion, s => s.answerVersion b
  | .getCapabilities, s => s.answerCapabilities b
  | .negotiateAlgorithms base hash, s => s.answerAlgorithms b base hash
  | .getDigests, s => s.answerDigests b
  | .getCertificate slot off len, s => s.answerCertificate b slot off len
  | .challenge slot nonce, s => s.answerChallenge b slot nonce
  | .getMeasurements index sign nonce, s => s.answerMeasurements b index sign nonce
  | .getPqCert off len, s => s.answerPqCert b off len
  | .getPqSig, s => s.answerPqSig b

theorem State.spdmServe_eq (s : State) (b : HPort) (r : SpdmReq) :
    s.spdmServe b r = if (s.spdm b).state < spdmNeed r then s.spdmError unexpectedRequest else servedTo b r s := by
  cases r
  case getVersion => exact (if_neg (Nat.not_lt_zero _)).symm
  all_goals rfl

section
variable {s : State} {b : HPort}

theorem exec_aloneAt (r : SpdmReq) : exec (aloneAt b r) s = s.spdmTake (spdmNeed r) b (servedTo b r) := by
  cases r <;> rfl

theorem exec_serves {r : SpdmReq} (hruns : s.spdmRuns) (h : spdmNeed r ≤ (s.spdm b).state) :
    exec (aloneAt b r) s = .next (servedTo b r (s.bump 0x7410 1)) := (exec_aloneAt r).trans (State.spdmTake_serves hruns h)

/-- A request on its own is served as one that chunks have carried is. -/
theorem exec_alone (hruns : s.spdmRuns) (r : SpdmReq) : exec (aloneAt b r) s = .next ((s.bump 0x7410 1).spdmServe b r) := by
  rw [exec_aloneAt, State.spdmServe_eq, State.bump_spdm]
  split
  case isTrue h => exact State.spdmTake_early hruns h
  case isFalse h => exact State.spdmTake_serves hruns (Nat.not_lt.1 h)

theorem State.spdmServe_regs (s : State) (b : HPort) (r : SpdmReq) : (s.spdmServe b r).regs = s.regs := by
  unfold State.spdmServe State.answerAlgorithms State.answerCertificate State.answerChallenge State.answerMeasurements
    State.answerPqCert State.answerPqSig
  cases r <;> dsimp only <;> repeat' split
  all_goals rfl

/-- The response of a request that chunks have carried goes into the acknowledgement of its last chunk. -/
def acknowledged (t : State) : State := { t with resp := { t.resp with bytes := Config.spdmBody 0x85 t.resp.bytes } }

theorem exec_chunkSend_last (hruns : s.spdmRuns) (h : 2 ≤ (s.spdm b).state) (r : SpdmReq) (data : List Byte) :
    ∃ t, exec (aloneAt b r) s = .next t ∧ completes (exec (.chunkSend b (some r) data) s) (fun u =>
      u.resp = { t.resp with bytes := Config.spdmBody 0x85 t.resp.bytes } ∧ (u.spdm b).state = (t.spdm b).state ∧ counted s u 0x7410 1) := by
  obtain ⟨hresp, hstate, hregs⟩ := (s.bump 0x7410 1).gathered_serve b r
  have hkept := (s.bump 0x7410 1).spdmServe_regs b r
  have hchunk : exec (.chunkSend b (some r) data) s = .next (acknowledged (((s.bump 0x7410 1).gathered b).spdmServe b r)) := by
    change execChunkSend b (some r) data s = _
    unfold execChunkSend
    exact State.spdmTake_serves hruns h
  refine ⟨_, exec_alone hruns r, _, hchunk, ?_, hstate, ?_⟩
  · exact congrArg (fun x : Resp => { x with bytes := Config.spdmBody 0x85 x.bytes }) hresp
  · have hreg := State.reg_of_regs (hregs.trans hkept) 0x7410
    exact (congrArg BitVec.toNat hreg).trans (counted_bump s 0x7410 1)

theorem exec_chunkSend_more (hruns : s.spdmRuns) (h : 2 ≤ (s.spdm b).state) (data : List Byte) :
    completes (exec (.chunkSend b none data) s) (answersWith s 0x85 []) ∧
      completes (exec (.chunkSend b none data) s) (fun u => (u.spdm b).gather = (s.spdm b).gather ++ data) := by
  have hexec : exec (.chunkSend b none data) s = .next (({ s.bump 0x7410 1 with resp := { bytes := Config.spdmBody 0x85 [] } } : State).modSpdm b
      (fun x => { x with gather := x.gather ++ data })) := by
    change execChunkSend b none data s = _
    unfold execChunkSend
    exact State.spdmTake_serves hruns h
  refine ⟨⟨_, hexec, rfl, counted_bump s 0x7410 1⟩, _, hexec, ?_⟩
  dsimp only
  rw [State.modSpdm_spdm]
  rfl

/-! ### Requests before their place in the connection (R439) -/

/-- Each request with the state of the connection that it needs. -/
def spdmOps (b : HPort) (base hash sign : Bool) (last : Option SpdmReq) (slot n len : Nat) (data : List Byte) : List (Nat × Instr) :=
  [(0, Instr.getVersion b), (1, .getCapabilities b), (2, .negotiateAlgorithms b base hash), (3, .getDigests b),
    (3, .getCertificate b slot n len), (3, .challenge b slot data), (3, .getMeasurements b n sign data),
    (2, .chunkSend b last data), (2, .chunkGet b n), (3, .getPqCert b n len), (3, .getPqSig b)]

theorem spdmOps_take {base hash sign : Bool} {last : Option SpdmReq} {slot n len : Nat} {data : List Byte} {q : Nat × Instr}
    (hq : q ∈ spdmOps b base hash sign last slot n len data) : ∃ body, exec q.2 s = s.spdmTake q.1 b body := by
  simp only [spdmOps, List.mem_cons, List.not_mem_nil, or_false] at hq
  rcases hq with rfl | rfl | rfl | rfl | rfl | rfl | rfl | rfl | rfl | rfl | rfl
  · exact ⟨_, exec_aloneAt .getVersion⟩
  · exact ⟨_, exec_aloneAt .getCapabilities⟩
  · exact ⟨_, exec_aloneAt (.negotiateAlgorithms base hash)⟩
  · exact ⟨_, exec_aloneAt .getDigests⟩
  · exact ⟨_, exec_aloneAt (.getCertificate slot n len)⟩
  · exact ⟨_, exec_aloneAt (.challenge slot data)⟩
  · exact ⟨_, exec_aloneAt (.getMeasurements n sign data)⟩
  · exact ⟨_, by change execChunkSend b last data s = _; unfold execChunkSend; rfl⟩
  · exact ⟨_, by change execChunkGet b n s = _; unfold execChunkGet; rfl⟩
  · exact ⟨_, exec_aloneAt (.getPqCert n len)⟩
  · exact ⟨_, exec_aloneAt .getPqSig⟩

theorem exec_spdmOps_early {base hash sign : Bool} {last : Option SpdmReq} {slot n len : Nat} {data : List Byte} {q : Nat × Instr}
    (hq : q ∈ spdmOps b base hash sign last slot n len data) :
    (s.pwr.phase ≠ 9 → s.pwr.phase ≠ 15 → goesTo (exec q.2 s) s) ∧
      (s.spdmRuns → (s.spdm b).state < q.1 → completes (exec q.2 s) (errsWith s unexpectedRequest)) := by
  obtain ⟨body, hbody⟩ := spdmOps_take (s := s) hq
  rw [hbody]
  exact ⟨State.spdmTake_not, fun hruns h => ⟨_, State.spdmTake_early hruns h, s.bump_errs _⟩⟩

/-! ### The answers (R440, R441) -/

theorem exec_getVersion (hruns : s.spdmRuns) : completes (exec (.getVersion b) s) (answersWith s 0x84 []) ∧
    completes (exec (.getVersion b) s) (fun u => (u.spdm b).state = 1) := by
  have hexec : exec (.getVersion b) s = .next ((s.bump 0x7410 1).answerVersion b) := exec_serves (r := .getVersion) hruns (Nat.zero_le _)
  refine ⟨⟨_, hexec, rfl, counted_bump s 0x7410 1⟩, _, hexec, ?_⟩
  dsimp only
  rw [State.answerVersion, State.spdmAnswer_spdm, State.modSpdm_spdm]

theorem exec_getCapabilities (hruns : s.spdmRuns) (h : 1 ≤ (s.spdm b).state) :
    completes (exec (.getCapabilities b) s) (answersWith s 0xE1 (leBytes 4 spdmFlags ++ leBytes 4 4096)) ∧
      completes (exec (.getCapabilities b) s) (fun u => (u.spdm b).state = max 2 (s.spdm b).state) := by
  have hexec : exec (.getCapabilities b) s = .next ((s.bump 0x7410 1).answerCapabilities b) := exec_serves (r := .getCapabilities) hruns h
  refine ⟨⟨_, hexec, rfl, counted_bump s 0x7410 1⟩, _, hexec, ?_⟩
  dsimp only
  rw [State.answerCapabilities, State.modSpdm_spdm, State.spdmAnswer_spdm]
  rfl

theorem exec_negotiateAlgorithms (hruns : s.spdmRuns) (h : 2 ≤ (s.spdm b).state) :
    completes (exec (.negotiateAlgorithms b true true) s) (answersWith s 0xE3 (leBytes 4 8 ++ leBytes 4 2 ++ leBytes 4 4)) ∧
      completes (exec (.negotiateAlgorithms b true true) s) (fun u => (u.spdm b).state = 3) := by
  have hexec : exec (.negotiateAlgorithms b true true) s = .next ((s.bump 0x7410 1).answerAlgorithms b true true) :=
    exec_serves (r := .negotiateAlgorithms true true) hruns h
  refine ⟨⟨_, hexec, rfl, counted_bump s 0x7410 1⟩, _, hexec, ?_⟩
  dsimp only
  rw [State.answerAlgorithms, if_pos (by decide), State.modSpdm_spdm]

theorem exec_negotiateAlgorithms_not {base hash : Bool} (hruns : s.spdmRuns) (h : 2 ≤ (s.spdm b).state)
    (hnot : base = false ∨ hash = false) : completes (exec (.negotiateAlgorithms b base hash) s) (errsWith s invalidRequest) := by
  refine ⟨_, exec_serves (r := .negotiateAlgorithms base hash) hruns h, ?_⟩
  dsimp only [servedTo]
  rw [State.answerAlgorithms_not _ b hnot]
  exact s.bump_errs _

theorem exec_chunkGet {n : Nat} (hruns : s.spdmRuns) (h : 2 ≤ (s.spdm b).state) :
    (((s.spdm b).large.drop (4084 * n)).take 4084 = [] → completes (exec (.chunkGet b n) s) (errsWith s invalidRequest)) ∧
      (((s.spdm b).large.drop (4084 * n)).take 4084 ≠ [] →
        completes (exec (.chunkGet b n) s) (answersWith s 0x86 (((s.spdm b).large.drop (4084 * n)).take 4084))) := by
  change (_ → completes (execChunkGet b n s) _) ∧ (_ → completes (execChunkGet b n s) _)
  unfold execChunkGet
  refine ⟨fun hc => ⟨_, State.spdmTake_serves hruns h, ?_⟩, fun hc => ⟨_, State.spdmTake_serves hruns h, ?_⟩⟩
  · dsimp only
    rw [State.bump_spdm, if_pos hc]
    exact s.bump_errs _
  · dsimp only
    rw [State.bump_spdm, if_neg hc]
    exact ⟨rfl, counted_bump s 0x7410 1⟩

section
variable (hruns : s.spdmRuns) (h : 3 ≤ (s.spdm b).state) {slot n len : Nat} {data : List Byte}
include hruns h

theorem exec_getDigests : completes (exec (.getDigests b) s) (answersWith s 0x81 (Config.sha384 Config.rsaChain)) :=
  ⟨_, exec_serves (r := .getDigests) hruns h, s.bump_answers b _ _ _⟩

theorem exec_getCertificate_whole (hslot : slot = 0) (hn : n ≤ Config.rsaChain.length)
    (hfits : 8 + ((Config.rsaChain.drop n).take len).length ≤ 4096) :
    completes (exec (.getCertificate b slot n len) s) (answersWith s 0x82 ((Config.rsaChain.drop n).take len)) := by
  refine ⟨_, exec_serves (r := .getCertificate slot n len) hruns h, ?_⟩
  dsimp only [servedTo]
  rw [hslot, State.answerCertificate_whole _ b hn hfits]
  exact s.bump_answers b _ _ _

theorem exec_getCertificate_long (hslot : slot = 0) (hn : n ≤ Config.rsaChain.length)
    (hlong : 4096 < 8 + ((Config.rsaChain.drop n).take len).length) : completes (exec (.getCertificate b slot n len) s) (fun u =>
      u.resp.status = largeResponse ∧ (u.spdm b).large = Config.spdmBody 0x82 ((Config.rsaChain.drop n).take len)) := by
  refine ⟨_, exec_serves (r := .getCertificate slot n len) hruns h, ?_⟩
  dsimp only [servedTo]
  rw [hslot, State.answerCertificate_long _ b hn hlong, State.spdmLarge_spdm]
  exact ⟨rfl, rfl⟩

theorem exec_getCertificate_not (hnot : slot ≠ 0 ∨ Config.rsaChain.length < n) :
    completes (exec (.getCertificate b slot n len) s) (errsWith s invalidRequest) := by
  refine ⟨_, exec_serves (r := .getCertificate slot n len) hruns h, ?_⟩
  dsimp only [servedTo]
  rw [State.answerCertificate_not _ b len hnot]
  exact s.bump_errs _

theorem exec_challenge_not (hslot : slot ≠ 0) : completes (exec (.challenge b slot data) s) (errsWith s invalidRequest) := by
  refine ⟨_, exec_serves (r := .challenge slot data) hruns h, ?_⟩
  dsimp only [servedTo]
  rw [State.answerChallenge_not _ b data hslot]
  exact s.bump_errs _

theorem exec_challenge_signs (hslot : slot = 0) : completes (exec (.challenge b slot data) s) (fun u => (u.spdm b).signed ≠ none ∧
    ∃ g, u.resp = { bytes := Config.spdmBody 0x83 (Config.sha384 Config.rsaChain ++ g) }) := by
  refine ⟨_, exec_serves (r := .challenge slot data) hruns h, ?_⟩
  dsimp only [servedTo]
  rw [State.answerChallenge, if_neg (not_not.2 hslot), State.spdmSigned_signed]
  exact ⟨nofun, _, rfl⟩

theorem exec_getMeasurements {m : List Byte} (hm : s.measurement n = some m) :
    completes (exec (.getMeasurements b n false data) s) (answersWith s 0xE0 m) := by
  refine ⟨_, exec_serves (r := .getMeasurements n false data) hruns h, ?_⟩
  dsimp only [servedTo]
  rw [State.answerMeasurements_some (s.bump 0x7410 1) b false data hm]
  exact s.bump_answers b _ _ _

theorem exec_getMeasurements_signs {m : List Byte} (hm : s.measurement n = some m) :
    completes (exec (.getMeasurements b n true data) s) (fun u => (u.spdm b).signed ≠ none ∧
      ∃ g, u.resp = { bytes := Config.spdmBody 0xE0 (m ++ g) }) := by
  refine ⟨_, exec_serves (r := .getMeasurements n true data) hruns h, ?_⟩
  dsimp only [servedTo]
  rw [State.answerMeasurements_some (s.bump 0x7410 1) b true data hm, if_pos rfl, State.spdmSigned_signed]
  exact ⟨nofun, _, rfl⟩

theorem exec_getMeasurements_not {sign : Bool} (hm : s.measurement n = none) :
    completes (exec (.getMeasurements b n sign data) s) (errsWith s invalidRequest) := by
  refine ⟨_, exec_serves (r := .getMeasurements n sign data) hruns h, ?_⟩
  dsimp only [servedTo]
  rw [State.answerMeasurements_not (s.bump 0x7410 1) b sign data hm]
  exact s.bump_errs _

theorem exec_getPqCert (hlen : len ≤ 4000) : completes (exec (.getPqCert b n len) s)
    (answersWith s 0x7E (leBytes 4 Config.slhChain.length ++ (Config.slhChain.drop n).take len)) := by
  refine ⟨_, exec_serves (r := .getPqCert n len) hruns h, ?_⟩
  dsimp only [servedTo]
  rw [State.answerPqCert, if_neg (Nat.not_lt.2 hlen)]
  exact s.bump_answers b _ _ _

theorem exec_getPqCert_not (hlen : 4000 < len) : completes (exec (.getPqCert b n len) s) (errsWith s invalidRequest) := by
  refine ⟨_, exec_serves (r := .getPqCert n len) hruns h, ?_⟩
  dsimp only [servedTo]
  rw [State.answerPqCert, if_pos hlen]
  exact s.bump_errs _

theorem exec_getPqSig_not (hsigned : (s.spdm b).signed = none) : completes (exec (.getPqSig b) s) (errsWith s invalidRequest) := by
  refine ⟨_, exec_serves (r := .getPqSig) hruns h, ?_⟩
  dsimp only [servedTo]
  rw [State.answerPqSig, State.bump_spdm, hsigned]
  exact s.bump_errs _

theorem exec_getPqSig {m : List Byte} (hsigned : (s.spdm b).signed = some m) : completes (exec (.getPqSig b) s) (fun u =>
    u.resp.status = largeResponse ∧ (u.spdm b).large = fit 16224 (Config.slhSign Config.deviceSecret m)) := by
  refine ⟨_, exec_serves (r := .getPqSig) hruns h, ?_⟩
  dsimp only [servedTo]
  rw [State.answerPqSig, State.bump_spdm, hsigned]
  dsimp only
  rw [State.spdmLarge_spdm]
  exact ⟨rfl, rfl⟩

end

end

/-- Settles O50: each request is answered, or refused, by the state of the connection that it needs. -/
theorem colophonSpdm : Obligations.ColophonSpdm := by
  unfold Obligations.ColophonSpdm
  intro b base hash sign last slot n len data s
  refine ⟨fun q hq => exec_spdmOps_early hq, fun ⟨hruns, _⟩ => exec_getVersion hruns, fun ⟨hruns, hstate⟩ => exec_getCapabilities hruns hstate,
    fun ⟨hruns, hstate⟩ => ⟨?_, exec_negotiateAlgorithms_not hruns hstate, ?_, ?_, exec_chunkGet hruns hstate⟩,
    fun ⟨hruns, hstate⟩ => ⟨exec_getDigests hruns hstate, exec_getCertificate_whole hruns hstate, exec_getCertificate_long hruns hstate,
      fun hn => exec_getCertificate_not hruns hstate (.inr hn),
      fun hslot => ⟨exec_getCertificate_not hruns hstate (.inl hslot), exec_challenge_not hruns hstate hslot⟩,
      exec_challenge_signs hruns hstate, fun m hm => ⟨?_, ?_⟩, exec_getMeasurements_not hruns hstate, exec_getPqCert hruns hstate,
      exec_getPqCert_not hruns hstate, exec_getPqSig_not hruns hstate, fun m => exec_getPqSig hruns hstate⟩⟩
  · rintro rfl rfl
    exact exec_negotiateAlgorithms hruns hstate
  · rintro rfl
    exact exec_chunkSend_more hruns hstate data
  · rintro r rfl
    exact exec_chunkSend_last hruns hstate r data
  · rintro rfl
    exact exec_getMeasurements hruns hstate hm
  · rintro rfl
    exact exec_getMeasurements_signs hruns hstate hm

end Sys2Proof.Machine
end

section
/-! SUPPORT. What the Ream Meter counts, cuts, signs and answers (O51). -/

namespace Sys2Proof.Machine

/-! ### Registers written one after the other -/

/-- In a run of writes to different registers each one holds what was written to it. -/
theorem State.foldl_setReg_reg (a : Nat → Nat) (v : Nat → Word) {l : List Nat} (hnodup : l.Nodup) {k : Nat} (hk : k ∈ l)
    (hinj : ∀ j ∈ l, j ≠ k → a j ≠ a k) (s : State) : (l.foldl (fun s j => s.setReg (a j) (v j)) s).reg (a k) = v k := by
  refine foldl_at (h := k) (P := fun _ => True) (Q := fun t : State => t.reg (a k) = v k) hk hnodup (fun _ _ _ _ _ => trivial) ?_ ?_ trivial
  · intro t _
    rw [State.setReg_reg, if_pos rfl]
  · intro t j hj hne ht
    rw [State.setReg_reg, if_neg (hinj j hj hne).symm, ht]

theorem State.foldl_setReg_reg_other (a : Nat → Nat) (v : Nat → Word) (l : List Nat) {x : Nat} (hx : ∀ j, a j ≠ x) (s : State) :
    (l.foldl (fun s j => s.setReg (a j) (v j)) s).reg x = s.reg x :=
  foldl_unchanged (fun t : State => t.reg x) (fun t j => by rw [State.setReg_reg, if_neg (hx j).symm]) l s

/-! ### Counting (R449, R451 to R453) -/

theorem exec_meterStill {uj : Nat} {s : State} (h : s.meter.running = false) :
    ∀ op ∈ [Instr.meterIncrement, .energySample uj, .meterIntervalExpiry, .recordCut, .mirrorRefresh], goesTo (exec op s) s := by
  intro op hop
  simp only [List.mem_cons, List.not_mem_nil, or_false] at hop
  rcases hop with rfl | rfl | rfl | rfl | rfl
  · change execMeterIncrement s = .next s
    simp only [execMeterIncrement, h]
  · change execEnergySample uj s = .next s
    rw [execEnergySample, h, if_neg (by decide)]
  · change execMeterIntervalExpiry s = .next s
    rw [execMeterIntervalExpiry, h, if_neg (by decide)]
  · change execRecordCut s = .next s
    simp only [execRecordCut, State.cutNext, h]
  · change execMirrorRefresh s = .next s
    unfold execMirrorRefresh
    dsimp only
    rw [h, if_pos (by decide)]

theorem exec_meterIncrement_adds {s : State} {k n : Nat} {r : List (Nat × Nat)} (h : s.meter.running = true) (har : s.meter.arriving = (k, n) :: r) :
    completes (exec .meterIncrement s) (fun u => u.meter.arriving = r ∧ ∀ j, Tab.get z0 u.meter.totals j =
      if j = k then min (if k % 8 = 7 then 2 ^ 32 - 1 else 2 ^ 64 - 1) (Tab.get z0 s.meter.totals k + n)
      else Tab.get z0 s.meter.totals j) := by
  change completes (execMeterIncrement s) _
  simp only [execMeterIncrement, h, har]
  exact ⟨_, rfl, rfl, fun j => Tab.get_set ..⟩

theorem exec_energySample_runs {s : State} (uj : Nat) (h : s.meter.running = true) :
    goesTo (exec (.energySample uj) s) { s with meter := { s.meter with energy := s.meter.energy + uj } } := by
  change execEnergySample uj s = _
  rw [execEnergySample, if_pos h]
  rfl

theorem exec_meterIntervalExpiry_runs {s : State} (h : s.meter.running = true) :
    goesTo (exec .meterIntervalExpiry s) { s with meter := { s.meter with due := s.meter.due ++ [0] } } := by
  change execMeterIntervalExpiry s = _
  rw [execMeterIntervalExpiry, if_pos h]
  rfl

/-- Values that are only added to are not smaller afterwards. -/
theorem get_foldl_add_le (add : Nat → Nat) (l : List Nat) (t : Tab Nat) (p : Nat) :
    Tab.get z0 t p ≤ Tab.get z0 (l.foldl (fun t p => Tab.set z0 t p (Tab.get z0 t p + add p)) t) p := by
  refine List.foldlRecOn (motive := fun u => Tab.get z0 t p ≤ Tab.get z0 u p) l _ le_rfl ?_
  intro u hu q _
  rw [Tab.get_set]
  split
  case isTrue hp =>
    subst hp
    exact hu.trans (Nat.le_add_right _ _)
  case isFalse => exact hu

theorem exec_energyApportion_adds (s : State) : completes (exec .energyApportion s) (fun u => u.meter.totals = s.meter.totals ∧
    u.meter.energy = s.meter.energy ∧ u.meter.estFrom = s.meter.energy ∧ ∀ p, p < 16 → Tab.get z0 s.meter.est p ≤ Tab.get z0 u.meter.est p) := by
  change completes (execEnergyApportion s) _
  unfold execEnergyApportion
  exact ⟨_, rfl, rfl, rfl, rfl, fun p _ => get_foldl_add_le _ _ s.meter.est p⟩

/-! ### Records (R454 to R456) -/

/-- The first fields of a record's body. -/
theorem Meter.body_fields (m : Meter) (flags seq ticks : Nat) : leAt (m.body flags seq ticks) 0 4 = 0x47534D54 ∧
    leAt (m.body flags seq ticks) 6 2 = flags % 2 ^ 16 ∧ leAt (m.body flags seq ticks) 8 8 = seq % 2 ^ 64 := by
  obtain ⟨rest, hrest⟩ : ∃ rest, m.body flags seq ticks =
      leBytes 4 0x47534D54 ++ (leBytes 2 1 ++ (leBytes 2 flags ++ (leBytes 8 seq ++ rest))) := by
    unfold Meter.body
    simp only [List.append_assoc]
    exact ⟨_, rfl⟩
  have hflags := leAt_append_right (leBytes 4 0x47534D54) (leBytes 2 1 ++ (leBytes 2 flags ++ (leBytes 8 seq ++ rest))) 2 2
  have hseq := leAt_append_right (leBytes 4 0x47534D54) (leBytes 2 1 ++ (leBytes 2 flags ++ (leBytes 8 seq ++ rest))) 4 8
  have hinner := leAt_append_right (leBytes 2 1) (leBytes 2 flags ++ (leBytes 8 seq ++ rest)) 2 8
  simp only [length_leBytes] at hflags hseq hinner
  refine ⟨?_, ?_, ?_⟩
  · rw [hrest, leAt_leBytes]
    decide
  · rw [hrest, hflags, leAt_after_leBytes, leAt_leBytes]
    norm_num
  · rw [hrest, hseq, hinner, leAt_after_leBytes, leAt_leBytes]
    norm_num

theorem exec_recordCut_cuts {s : State} {fl : Nat} {r : List Nat} (h : s.meter.running = true) (hsign : s.meter.signing = none)
    (hdue : s.meter.due = fl :: r) : completes (exec .recordCut s) (fun u => u.meter.seq = s.meter.seq + 1 ∧ u.meter.due = r ∧
      u.meter.gap = false ∧ u.meter.totals = s.meter.totals ∧ ∃ b, u.meter.signing = some b ∧ leAt b 0 4 = 0x47534D54 ∧
        leAt b 8 8 = (s.meter.seq + 1) % 2 ^ 64 ∧
        leAt b 6 2 = (fl + (if s.meter.gap then 1 else 0) + if s.meter.unsealed then 2 else 0) % 2 ^ 16) := by
  change completes (execRecordCut s) _
  simp only [execRecordCut, State.cutNext, h, hsign, hdue]
  refine ⟨_, rfl, rfl, rfl, rfl, rfl, _, rfl, ?_⟩
  obtain ⟨hmagic, hflags, hseq⟩ := Meter.body_fields _ _ _ _
  exact ⟨hmagic, hseq, hflags⟩

theorem exec_recordCut_waits {s : State} (h : s.meter.signing ≠ none ∨ s.meter.due = []) : goesTo (exec .recordCut s) s := by
  change execRecordCut s = .next s
  unfold execRecordCut State.cutNext
  dsimp only
  split
  next hsign hdue =>
    rcases h with h | h
    · exact absurd hsign h
    · rw [h] at hdue
      cases hdue
  next => rfl

theorem exec_recordSigningDone_not {s : State} (h : s.meter.signing = none) : goesTo (exec .recordSigningDone s) s := by
  change execRecordSigningDone s = .next s
  unfold execRecordSigningDone
  rw [h]

theorem State.cutNext_ring (s : State) : s.cutNext.meter.ring = s.meter.ring := by
  unfold State.cutNext
  dsimp only
  split <;> rfl

theorem length_fit (n : Nat) (bs : List Byte) : (fit n bs).length = n := by simp [fit, zeros]

/-- The last 64 entries of a list with one more. -/
theorem keep_last {α : Type} (l : List α) (x : α) : ((l ++ [x]).drop ((l ++ [x]).length - 64)).length ≤ 64 ∧
    ((l ++ [x]).drop ((l ++ [x]).length - 64)).getLast? = some x := by
  have hlen : (l ++ [x]).length = l.length + 1 := by simp
  refine ⟨by rw [List.length_drop]; omega, ?_⟩
  rw [hlen, List.drop_append_of_le_length (by omega), List.getLast?_concat]

theorem exec_recordSigningDone_signs {s : State} {b : List Byte} (h : s.meter.signing = some b) :
    completes (exec .recordSigningDone s) (fun u => u.meter.ring.length ≤ 64 ∧
      ∃ g, u.meter.ring.getLast? = some (leAt b 8 8, b ++ g) ∧ g.length = 16608) := by
  change completes (execRecordSigningDone s) _
  unfold execRecordSigningDone
  rw [h]
  refine ⟨_, rfl, ?_⟩
  dsimp only
  rw [State.cutNext_ring]
  obtain ⟨hlen, hlast⟩ := keep_last s.meter.ring (leAt b 8 8,
    b ++ fit 384 (Config.rsaSign Config.meterSecret b) ++ fit 16224 (Config.slhSign Config.meterSecret b))
  refine ⟨hlen, fit 384 (Config.rsaSign Config.meterSecret b) ++ fit 16224 (Config.slhSign Config.meterSecret b), ?_, ?_⟩
  · rw [← List.append_assoc]
    exact hlast
  · rw [List.length_append, length_fit, length_fit]

/-! ### Starting (R461) and the mirror page (R461 to R463) -/

theorem exec_meterStart_not {s : State} {slot : Bool} (h : s.meter.running = true ∨ s.pwr.standby = false ∨
    s.meter.boots (if slot then 1 else 0) = false) : goesTo (exec (.meterStart slot) s) s := by
  change execMeterStart slot s = .next s
  unfold execMeterStart
  dsimp only
  rw [if_pos]
  rcases h with h | h | h <;> simp [h]

theorem exec_meterStart_starts {s : State} {slot : Bool} (h : s.meter.running = false) (hstandby : s.pwr.standby = true)
    (hboots : s.meter.boots (if slot then 1 else 0) = true) : completes (exec (.meterStart slot) s) (fun u =>
      u.meter.running = true ∧ u.meter.slot = (if slot then 1 else 0) ∧ u.meter.pcc = s.meter.pcc + 1 ∧ u.meter.totals = s.meter.totals) := by
  change completes (execMeterStart slot s) _
  unfold execMeterStart
  dsimp only
  rw [h, hstandby, hboots, if_neg (by decide)]
  refine ⟨_, rfl, ?_⟩
  split <;> exact ⟨rfl, rfl, rfl, rfl⟩

/-- A value as a mirror register shows it. -/
def satWord (n : Nat) : Word := BitVec.ofNat 64 (min n (2 ^ 64 - 1))

/-- A partition's registers of the mirror page. -/
def State.mirrorPart (m : Meter) (s : State) (p : Nat) : State :=
  ((List.range 7).foldl (fun s k => s.setReg (0x6100 + p * 0x40 + 8 * k) (satWord (m.total p k))) s).setReg (0x6138 + p * 0x40)
    (satWord (Tab.get z0 m.est p / 1000))

/-- Outside its own 64 bytes a partition's refresh leaves the page as it is. -/
theorem State.mirrorPart_reg_other (m : Meter) (s : State) {p x : Nat} (hx : x < 0x6100 + p * 0x40 ∨ 0x6138 + p * 0x40 < x) :
    (s.mirrorPart m p).reg x = s.reg x := by
  rw [State.mirrorPart, State.setReg_reg, if_neg (by omega)]
  refine List.foldlRecOn (motive := fun t : State => t.reg x = s.reg x) (List.range 7) _ rfl (fun t ht k hk => ?_)
  have hk7 := List.mem_range.1 hk
  rw [State.setReg_reg, if_neg (by omega), ht]

/-- What a partition's registers show once it is refreshed. -/
def mirrored (m : Meter) (p : Nat) (u : State) : Prop :=
  (∀ k, k < 7 → u.reg (0x6100 + p * 0x40 + 8 * k) = satWord (m.total p k)) ∧ u.reg (0x6138 + p * 0x40) = satWord (Tab.get z0 m.est p / 1000)

theorem State.mirrorPart_mirrored (m : Meter) (s : State) (p : Nat) : mirrored m p (s.mirrorPart m p) := by
  refine ⟨fun k hk => ?_, by rw [State.mirrorPart, State.setReg_reg, if_pos rfl]⟩
  rw [State.mirrorPart, State.setReg_reg, if_neg (by omega)]
  exact State.foldl_setReg_reg (fun k => 0x6100 + p * 0x40 + 8 * k) (fun k => satWord (m.total p k)) List.nodup_range
    (List.mem_range.2 hk) (fun j _ hj => by omega) s

theorem State.mirrorPart_other (m : Meter) {s : State} {p q : Nat} (hq : q ≠ p) (h : mirrored m p s) : mirrored m p (s.mirrorPart m q) := by
  obtain ⟨hcounts, hest⟩ := h
  refine ⟨fun k hk => ?_, ?_⟩
  · rw [State.mirrorPart_reg_other m s (by omega)]
    exact hcounts k hk
  · rw [State.mirrorPart_reg_other m s (by omega)]
    exact hest

theorem exec_mirrorRefresh_shows {s : State} (h : s.meter.running = true) : completes (exec .mirrorRefresh s) (fun u =>
    u.reg 0x6048 = satWord s.meter.seq ∧ u.reg 0x6050 = satWord (s.meter.energy / 1000) ∧ u.reg 0x6058 = satWord s.meter.interval ∧
      ∀ p, p < 16 → mirrored s.meter p u) := by
  change completes (execMirrorRefresh s) _
  unfold execMirrorRefresh
  dsimp only
  rw [h, if_neg (by decide)]
  have hlow (x : Nat) (hx : x < 0x6100) (t : State) : ((List.range 16).foldl (State.mirrorPart s.meter) t).reg x = t.reg x :=
    foldl_unchanged (fun t : State => t.reg x) (fun t p => t.mirrorPart_reg_other s.meter (.inl (by omega))) _ t
  refine ⟨_, rfl, (hlow _ (by norm_num) _).trans ?_, (hlow _ (by norm_num) _).trans ?_, (hlow _ (by norm_num) _).trans ?_, fun p hp => ?_⟩
  · rw [State.setReg_reg, if_neg (by norm_num), State.setReg_reg, if_neg (by norm_num), State.setReg_reg, if_pos rfl]
    rfl
  · rw [State.setReg_reg, if_neg (by norm_num), State.setReg_reg, if_pos rfl]
    rfl
  · rw [State.setReg_reg, if_pos rfl]
    rfl
  · exact foldl_at (step := State.mirrorPart s.meter) (P := fun _ => True) (Q := mirrored s.meter p) (List.mem_range.2 hp) List.nodup_range
      (fun _ _ _ _ _ => trivial) (fun t _ => t.mirrorPart_mirrored s.meter p) (fun t q _ hq => State.mirrorPart_other s.meter hq) trivial

end Sys2Proof.Machine
end

section
/-! SUPPORT. The answers of the Ream Meter's I²C commands (O51). -/

namespace Sys2Proof.Machine

/-- The I²C commands. -/
def meterOps (crc : Bool) (seq : Word) (n len chain : Nat) (i : BitVec 16) (a : Byte) (fo : BitVec 32) (data : List Byte) : List Instr :=
  [.status crc, .readRecord crc seq n len, .readCert crc chain n len, .cut crc, .writeConfig crc i a, .fwPush crc fo data, .fwCommit crc,
    .reseal crc data]

/-- A command that only answers. -/
def tellsOf (s : State) (code : Nat) (d : List Byte) (u : State) : Prop := u.resp = { bytes := d, status := code } ∧ u.meter = s.meter

theorem State.i2c_tells (s : State) (code : Nat) (d : List Byte) : tellsOf s code d (s.i2c code d) := ⟨rfl, rfl⟩

section
variable {s : State} {crc : Bool} {body : State → State}

theorem State.i2cTake_unpowered (h : s.pwr.standby = false) : s.i2cTake crc body = .next { s with resp := {} } := by
  rw [State.i2cTake, h, if_pos (by decide)]

theorem State.i2cTake_busy (h : s.pwr.standby = true) (hrun : s.meter.running = false) : s.i2cTake crc body = .next (s.i2c 0x0E07) := by
  rw [State.i2cTake, h, hrun, if_neg (by decide), if_pos (by decide)]

theorem State.i2cTake_badCrc (h : s.pwr.standby = true) (hrun : s.meter.running = true) : s.i2cTake false body = .next (s.i2c 0x0E02) := by
  rw [State.i2cTake, h, hrun, if_neg (by decide), if_neg (by decide), if_pos (by decide)]

theorem State.i2cTake_runs (h : s.pwr.standby = true) (hrun : s.meter.running = true) : s.i2cTake true body = .next (body s) := by
  rw [State.i2cTake, h, hrun, if_neg (by decide), if_neg (by decide), if_neg (by decide)]

end

section
variable {s : State} {crc : Bool} {seq : Word} {n len chain : Nat} {i : BitVec 16} {a : Byte} {fo : BitVec 32} {data : List Byte}

theorem meterOps_take {op : Instr} (hop : op ∈ meterOps crc seq n len chain i a fo data) : ∃ body, exec op s = s.i2cTake crc body := by
  simp only [meterOps, List.mem_cons, List.not_mem_nil, or_false] at hop
  rcases hop with rfl | rfl | rfl | rfl | rfl | rfl | rfl | rfl
  · exact ⟨_, by change execStatus crc s = _; unfold execStatus; rfl⟩
  · exact ⟨_, by change execReadRecord crc seq n len s = _; unfold execReadRecord; rfl⟩
  · exact ⟨_, by change execReadCert crc chain n len s = _; unfold execReadCert; rfl⟩
  · exact ⟨_, by change execCut crc s = _; unfold execCut; rfl⟩
  · exact ⟨_, by change execWriteConfig crc i a s = _; unfold execWriteConfig; rfl⟩
  · exact ⟨_, by change execFwPush crc fo data s = _; unfold execFwPush; rfl⟩
  · exact ⟨_, by change execFwCommit crc s = _; unfold execFwCommit; rfl⟩
  · exact ⟨_, by change execReseal crc data s = _; unfold execReseal; rfl⟩

/-- A command that the meter does not take is answered without effect. -/
theorem exec_meterOps_refused {op : Instr} (hop : op ∈ meterOps crc seq n len chain i a fo data) :
    (s.pwr.standby = false → goesTo (exec op s) { s with resp := {} }) ∧
      (s.pwr.standby = true → s.meter.running = false → completes (exec op s) (tellsOf s 0x0E07 [])) ∧
      (s.pwr.standby = true → s.meter.running = true → crc = false → completes (exec op s) (tellsOf s 0x0E02 [])) := by
  obtain ⟨body, hbody⟩ := meterOps_take (s := s) hop
  rw [hbody]
  refine ⟨State.i2cTake_unpowered, fun h hrun => ⟨_, State.i2cTake_busy h hrun, s.i2c_tells _ _⟩, ?_⟩
  rintro h hrun rfl
  exact ⟨_, State.i2cTake_badCrc h hrun, s.i2c_tells _ _⟩

/-! ### Commands that a running meter takes (R457, R458) -/

variable (h : s.pwr.standby = true) (hrun : s.meter.running = true)
include h hrun

theorem exec_status_tells : ∃ d, d.length = 28 ∧ leAt d 1 4 = s.meter.sealCnt % 2 ^ 32 ∧ completes (exec (.status true) s) (tellsOf s 0 d) := by
  refine ⟨leBytes 1 (if s.meter.sealed then 1 else 0) ++ leBytes 4 s.meter.sealCnt ++ leBytes 8 s.meter.held.1 ++ leBytes 8 s.meter.held.2 ++
    leBytes 2 s.meter.interval ++ leBytes 4 s.meter.svn ++ leBytes 1 (if s.meter.signing = none then 0 else 1), ?_, ?_, ?_⟩
  · simp only [List.length_append, length_leBytes]
  · simp only [List.append_assoc]
    rw [leAt_after_leBytes, leAt_leBytes]
    norm_num
  · change completes (execStatus true s) _
    unfold execStatus
    exact ⟨_, State.i2cTake_runs h hrun, s.i2c_tells _ _⟩

theorem exec_readRecord_bounds (hlen : len = 0 ∨ 4096 < len ∨ 17696 < n + len) :
    completes (exec (.readRecord true seq n len) s) (tellsOf s 0x0E01 []) := by
  change completes (execReadRecord true seq n len s) _
  unfold execReadRecord
  refine ⟨_, State.i2cTake_runs h hrun, ?_⟩
  rw [if_pos hlen]
  exact s.i2c_tells _ _

theorem exec_readRecord_none (h0 : 0 < len) (hlen : len ≤ 4096) (hn : n + len ≤ 17696) (hring : ∀ r ∈ s.meter.ring, r.1 ≠ seq.toNat) :
    completes (exec (.readRecord true seq n len) s) (tellsOf s 0x0E06 []) := by
  change completes (execReadRecord true seq n len s) _
  unfold execReadRecord
  refine ⟨_, State.i2cTake_runs h hrun, ?_⟩
  have hfind : s.meter.ring.find? (fun r => decide (r.1 = seq.toNat)) = none :=
    List.find?_eq_none.2 (fun r hr => by simpa using hring r hr)
  rw [if_neg (by omega), hfind]
  exact s.i2c_tells _ _

theorem exec_readRecord_found (h0 : 0 < len) (hlen : len ≤ 4096) (hn : n + len ≤ 17696) {r : Nat × List Byte}
    (hring : s.meter.ring.find? (fun r => decide (r.1 = seq.toNat)) = some r) :
    completes (exec (.readRecord true seq n len) s) (tellsOf s 0 ((r.2.drop n).take len)) := by
  change completes (execReadRecord true seq n len s) _
  unfold execReadRecord
  refine ⟨_, State.i2cTake_runs h hrun, ?_⟩
  rw [if_neg (by omega), hring]
  exact s.i2c_tells _ _

theorem exec_readCert_not (hchain : 1 < chain) : completes (exec (.readCert true chain n len) s) (tellsOf s 0x0E01 []) := by
  change completes (execReadCert true chain n len s) _
  unfold execReadCert
  refine ⟨_, State.i2cTake_runs h hrun, ?_⟩
  rw [if_pos hchain]
  exact s.i2c_tells _ _

theorem exec_readCert_reads (hchain : chain ≤ 1) : completes (exec (.readCert true chain n len) s)
    (tellsOf s 0 (((if chain = 0 then Config.meterRsaChain else Config.meterSlhChain).drop n).take len)) := by
  change completes (execReadCert true chain n len s) _
  unfold execReadCert
  refine ⟨_, State.i2cTake_runs h hrun, ?_⟩
  rw [if_neg (Nat.not_lt.2 hchain)]
  exact s.i2c_tells _ _

theorem exec_cut_calls : goesTo (exec (.cut true) s) { s with meter := { s.meter with due := s.meter.due ++ [16] }, resp := {} } := by
  change execCut true s = _
  unfold execCut
  exact State.i2cTake_runs h hrun

/-! ### The configuration and the seal (R459, R460) -/

omit h hrun in
/-- The seal of meter `m` is broken in state `u`, without more of an answer. -/
theorem State.breakSeal_i2c (t : State) : ((t.breakSeal.i2c 0).meter.sealed = false ∧ (t.breakSeal.i2c 0).meter.sealCnt = t.meter.sealCnt + 1 ∧
    (t.breakSeal.i2c 0).meter.due = t.meter.due ++ [8] ∧ (t.breakSeal.i2c 0).resp = {}) := ⟨rfl, rfl, rfl, rfl⟩

theorem exec_writeConfig_not (hnot : ¬(10 ≤ i.toNat ∧ i.toNat ≤ 3600 ∧ 0x08 ≤ a.toNat ∧ a.toNat ≤ 0x77)) :
    completes (exec (.writeConfig true i a) s) (tellsOf s 0x0E01 []) := by
  change completes (execWriteConfig true i a s) _
  unfold execWriteConfig
  refine ⟨_, State.i2cTake_runs h hrun, ?_⟩
  dsimp only
  rw [if_pos (by omega)]
  exact s.i2c_tells _ _

theorem exec_writeConfig_same (hgood : 10 ≤ i.toNat ∧ i.toNat ≤ 3600 ∧ 0x08 ≤ a.toNat ∧ a.toNat ≤ 0x77) (hi : i.toNat = s.meter.interval)
    (ha : a.toNat = s.meter.addr) : completes (exec (.writeConfig true i a) s) (tellsOf s 0 []) := by
  change completes (execWriteConfig true i a s) _
  unfold execWriteConfig
  refine ⟨_, State.i2cTake_runs h hrun, ?_⟩
  dsimp only
  rw [if_neg (by omega), if_pos ⟨hi, ha⟩]
  exact s.i2c_tells _ _

theorem exec_writeConfig_changes (hgood : 10 ≤ i.toNat ∧ i.toNat ≤ 3600 ∧ 0x08 ≤ a.toNat ∧ a.toNat ≤ 0x77)
    (hnew : i.toNat ≠ s.meter.interval ∨ a.toNat ≠ s.meter.addr) : completes (exec (.writeConfig true i a) s) (fun u =>
      u.meter.interval = i.toNat ∧ u.meter.addr = a.toNat ∧
        u.meter.sealed = false ∧ u.meter.sealCnt = s.meter.sealCnt + 1 ∧ u.meter.due = s.meter.due ++ [8] ∧ u.resp = {}) := by
  change completes (execWriteConfig true i a s) _
  unfold execWriteConfig
  refine ⟨_, State.i2cTake_runs h hrun, ?_⟩
  dsimp only
  rw [if_neg (by omega), if_neg (not_and_or.2 hnew)]
  exact ⟨rfl, rfl, rfl, rfl, rfl, rfl⟩

theorem exec_fwPush_bounds (hlen : 2048 < data.length ∨ 0x80000 < fo.toNat + data.length) :
    completes (exec (.fwPush true fo data) s) (tellsOf s 0x0E01 []) := by
  change completes (execFwPush true fo data s) _
  unfold execFwPush
  refine ⟨_, State.i2cTake_runs h hrun, ?_⟩
  rw [if_pos hlen]
  exact s.i2c_tells _ _

theorem exec_fwPush_stores (hlen : data.length ≤ 2048) (hfo : fo.toNat + data.length ≤ 0x80000) :
    goesTo (exec (.fwPush true fo data) s) { s with
      meter := { s.meter with slots := Mem.putBytes s.meter.slots ((1 - s.meter.slot) * 0x80000 + fo.toNat) data }, resp := {} } := by
  change execFwPush true fo data s = _
  unfold execFwPush
  refine (State.i2cTake_runs h hrun).trans ?_
  dsimp only
  rw [if_neg (by omega)]
  rfl

/-- The state after a commit whose check gave `c`. -/
theorem exec_fwCommit {c : Nat} (hc : s.meter.verdict (1 - s.meter.slot) = c) : exec (.fwCommit true) s = .next (
    if c = 0x0D04 then s.i2c 0x0E01
    else if 64 < (s.meter.image (1 - s.meter.slot)).svn ∨ 64 < (s.meter.image (1 - s.meter.slot)).minSvn then s.i2c 0x0E01
    else if c = 0x0D03 then s.i2c 0x0E05
    else if c ≠ 0 then s.i2c 0x0E03
    else
      ((s.modMeter (fun m => { m with slot := 1 - m.slot, savedT := m.totals, savedE := m.energy, savedS := m.seconds })).breakSeal.modMeter
        (fun m => { m with running := false })).i2c 0) := by
  change execFwCommit true s = _
  unfold execFwCommit
  refine (State.i2cTake_runs h hrun).trans ?_
  dsimp only
  rw [hc]

theorem exec_fwCommit_format (hc : s.meter.verdict (1 - s.meter.slot) = 0x0D04) : completes (exec (.fwCommit true) s) (tellsOf s 0x0E01 []) :=
  ⟨_, exec_fwCommit h hrun hc, s.i2c_tells _ _⟩

theorem exec_fwCommit_old (hsvn : (s.meter.image (1 - s.meter.slot)).svn ≤ 64) (hmin : (s.meter.image (1 - s.meter.slot)).minSvn ≤ 64)
    (hc : s.meter.verdict (1 - s.meter.slot) = 0x0D03) : completes (exec (.fwCommit true) s) (tellsOf s 0x0E05 []) := by
  refine ⟨_, exec_fwCommit h hrun hc, ?_⟩
  rw [if_neg (by decide), if_neg (by omega), if_pos rfl]
  exact s.i2c_tells _ _

theorem exec_fwCommit_unverified (hsvn : (s.meter.image (1 - s.meter.slot)).svn ≤ 64) (hmin : (s.meter.image (1 - s.meter.slot)).minSvn ≤ 64)
    (hc : s.meter.verdict (1 - s.meter.slot) = 0x0D01 ∨ s.meter.verdict (1 - s.meter.slot) = 0x0D02 ∨ s.meter.verdict (1 - s.meter.slot) = 0x0D05) :
    completes (exec (.fwCommit true) s) (tellsOf s 0x0E03 []) := by
  refine ⟨_, exec_fwCommit h hrun rfl, ?_⟩
  rw [if_neg (by omega), if_neg (by omega), if_neg (by omega), if_pos (by omega)]
  exact s.i2c_tells _ _

theorem exec_fwCommit_restarts (hsvn : (s.meter.image (1 - s.meter.slot)).svn ≤ 64) (hmin : (s.meter.image (1 - s.meter.slot)).minSvn ≤ 64)
    (hc : s.meter.verdict (1 - s.meter.slot) = 0) : completes (exec (.fwCommit true) s) (fun u => u.meter.slot = 1 - s.meter.slot ∧
      u.meter.running = false ∧
        u.meter.sealed = false ∧ u.meter.sealCnt = s.meter.sealCnt + 1 ∧ u.meter.due = s.meter.due ++ [8] ∧ u.resp = {}) := by
  refine ⟨_, exec_fwCommit h hrun hc, ?_⟩
  rw [if_neg (by decide), if_neg (by omega), if_neg (by decide), if_neg (by decide)]
  exact ⟨rfl, rfl, rfl, rfl, rfl, rfl⟩

theorem exec_reseal_length (hlen : data.length ≠ 16717) : completes (exec (.reseal true data) s) (tellsOf s 0x0E01 []) := by
  change completes (execReseal true data s) _
  unfold execReseal
  refine ⟨_, State.i2cTake_runs h hrun, ?_⟩
  dsimp only
  rw [if_pos hlen]
  exact s.i2c_tells _ _

/-- A token that names this chip, its configuration and its firmware and that both approved keys signed. -/
theorem exec_reseal (hlen : data.length = 16717) (hgen : bAt data 0 < 2) (hserial : leAt data 1 8 = Config.serial.toNat)
    (hconfig : (data.drop 13).take 48 = Config.sha384 s.meter.config)
    (himage : (data.drop 61).take 48 = Config.sha384 (s.meter.image s.meter.slot).header)
    (hrsa : Config.rsaVerify ((Config.approvalDigest (bAt data 0)).take 48) (data.take 109) ((data.drop 109).take 384) = true)
    (hslh : Config.slhVerify ((Config.approvalDigest (bAt data 0)).drop 48) (data.take 109) ((data.drop 493).take 16224) = true) :
    exec (.reseal true data) s = .next (if leAt data 9 4 ≠ s.meter.sealCnt then s.i2c 0x0E04
      else ((s.modMeter (fun m => { m with sealed := true })).logEv 0x0E21 2 none []).i2c 0) := by
  change execReseal true data s = _
  unfold execReseal
  refine (State.i2cTake_runs h hrun).trans ?_
  dsimp only
  rw [if_neg (not_not.2 hlen), hserial, hconfig, himage, hrsa, hslh, if_neg (by simp [hgen])]

end

/-- Settles O51: the meter's counts, its records and what its commands answer follow the branches of the model's functions. -/
theorem meterCountsAndCommands : Obligations.MeterCountsAndCommands := by
  unfold Obligations.MeterCountsAndCommands
  refine ⟨fun uj slot s => ⟨exec_meterStill, fun h => ⟨fun k n r => exec_meterIncrement_adds h, exec_energySample_runs uj h,
      exec_meterIntervalExpiry_runs h, fun fl r => exec_recordCut_cuts h, exec_recordCut_waits, exec_mirrorRefresh_shows h⟩,
      exec_recordSigningDone_not, fun b => exec_recordSigningDone_signs, exec_energyApportion_adds s, exec_meterStart_not,
      exec_meterStart_starts⟩,
    fun crc seq n len chain i a fo data s => ⟨fun op hop => exec_meterOps_refused hop, ?_⟩⟩
  rintro h hrun rfl
  refine ⟨exec_status_tells h hrun, exec_readRecord_bounds h hrun,
    fun h0 hlen hn => ⟨exec_readRecord_none h hrun h0 hlen hn, fun r => exec_readRecord_found h hrun h0 hlen hn⟩,
    exec_readCert_not h hrun, exec_readCert_reads h hrun, exec_cut_calls h hrun,
    ⟨exec_writeConfig_not h hrun, exec_writeConfig_same h hrun, exec_writeConfig_changes h hrun⟩,
    exec_fwPush_bounds h hrun, exec_fwPush_stores h hrun, exec_fwCommit_format h hrun,
    fun hsvn hmin => ⟨exec_fwCommit_old h hrun hsvn hmin, exec_fwCommit_unverified h hrun hsvn hmin, exec_fwCommit_restarts h hrun hsvn hmin⟩,
    exec_reseal_length h hrun, fun hlen hgen hserial hconfig himage hrsa hslh => ⟨fun hcnt => ?_, fun hcnt => ?_⟩⟩
  · refine ⟨_, exec_reseal h hrun hlen hgen hserial hconfig himage hrsa hslh, ?_⟩
    rw [if_pos hcnt]
    exact s.i2c_tells _ _
  · refine ⟨_, exec_reseal h hrun hlen hgen hserial hconfig himage hrsa hslh, ?_⟩
    rw [if_neg (not_not.2 hcnt)]
    exact ⟨rfl, rfl, rfl⟩

end Sys2Proof.Machine
end

section
/-! SUPPORT. Taking, limiting, persisting, showing and clearing the records of the Accession Log (O52). -/

namespace Sys2Proof.Machine

/-! ### Records (R464, R469) -/

theorem leAt_from {a : List Byte} {k : Nat} (h : a.length = k) (b : List Byte) (off n : Nat) : leAt (a ++ b) (k + off) n = leAt b off n := by
  subst h
  exact leAt_append_right a b off n

/-- The record's bytes before the event's data. -/
def recHead (code sev : Nat) (part : Option Nat) (summary : Bool) (opSec pcc sub : Nat) : List Byte :=
  leBytes 2 code ++ leBytes 1 (sev + (match part with
    | some p => 8 * p
    | none => 128)) ++ leBytes 1 (if summary then 1 else 0) ++ leBytes 4 opSec ++ leBytes 3 pcc ++ zeros 1 ++ leBytes 2 sub ++ zeros 2

theorem recHead_fields (code sev : Nat) (part : Option Nat) (summary : Bool) (opSec pcc sub : Nat) :
    let bs := recHead code sev part summary opSec pcc sub
    bs.length = 16 ∧ leAt bs 0 2 = code % 2 ^ 16 ∧ bAt bs 3 = (if summary then 1 else 0) ∧ leAt bs 4 4 = opSec % 2 ^ 32 := by
  dsimp only
  unfold recHead
  generalize (sev + _ : Nat) = x
  refine ⟨by simp [zeros], ?_, ?_, ?_⟩
  · simp only [List.append_assoc]
    rw [leAt_leBytes]
    norm_num
  · cases summary <;> rfl
  · simp only [List.append_assoc]
    rw [← List.append_assoc, ← List.append_assoc, leAt_from (off := 0) (by simp), leAt_leBytes]
    norm_num

/-- What a record's fields hold. -/
theorem recBytes_fields (code sev : Nat) (part : Option Nat) (summary : Bool) (opSec pcc sub : Nat) (data : List Byte) :
    let bs := recBytes code sev part summary opSec pcc sub data
    bs.length = 32 ∧ leAt bs 0 2 = code % 2 ^ 16 ∧ leAt bs 4 4 = opSec % 2 ^ 32 ∧ bAt bs 3 = (if summary then 1 else 0) ∧
      ∀ off n, leAt bs (16 + off) n = leAt ((data ++ zeros 16).take 16) off n := by
  intro bs
  obtain ⟨hlen, hcode, hkind, hsec⟩ := recHead_fields code sev part summary opSec pcc sub
  have hbs : bs = recHead code sev part summary opSec pcc sub ++ (data ++ zeros 16).take 16 := rfl
  rw [hbs]
  refine ⟨?_, ?_, ?_, ?_, leAt_from hlen _⟩
  · rw [List.length_append, hlen]
    simp [zeros]
  · rw [leAt_append_left (by omega), hcode]
  · rw [leAt_append_left (by omega), hsec]
  · rw [bAt, List.getD_append _ _ _ _ (by omega)]
    exact hkind

/-- Moving the cursors changes nothing else. -/
theorem State.moveCursors_cursors (s : State) (new : LogRec) (old : Option LogRec) :
    ∃ c : Tab Cursor, s.moveCursors new old = { s with log := { s.log with cursors := c } } := by
  refine List.foldlRecOn (motive := fun t => ∃ c : Tab Cursor, t = { s with log := { s.log with cursors := c } }) _ _ ⟨s.log.cursors, rfl⟩ ?_
  rintro _ ⟨c, rfl⟩ k -
  exact ⟨_, rfl⟩

/-- A record is the one more that `l` takes: its number, its time and its code. -/
def takesRecord (l : Log) (u : State) (code : Nat) (p : LogRec → Prop) : Prop :=
  ∃ x, u.log.recs = l.recs ++ [x] ∧ x.num = l.next ∧ u.log.next = l.next + 1 ∧ x.bytes.length = 32 ∧
    leAt x.bytes 0 2 = code % 2 ^ 16 ∧ leAt x.bytes 4 4 = l.opSec % 2 ^ 32 ∧ p x

/-- The record of `s` for an event or a summary. -/
def ofEvent (sev : Nat) (part : Option Nat) (summary : Bool) (data : List Byte) (x : LogRec) : Prop :=
  x.sev = sev ∧ x.part = part ∧ bAt x.bytes 3 = (if summary then 1 else 0) ∧
    ∀ off n, leAt x.bytes (16 + off) n = leAt ((data ++ zeros 16).take 16) off n

/-- A log with a free place takes the record; of the rest it keeps all but its totals and its cursors. -/
theorem State.placeRec_takes {s : State} (h : s.log.recs.length < 4096) (code sev : Nat) (part : Option Nat) (summary : Bool) (data : List Byte) :
    takesRecord s.log (s.placeRec code sev part summary data) code (ofEvent sev part summary data) ∧
      (s.placeRec code sev part summary data).log.queue = s.log.queue ∧ (s.placeRec code sev part summary data).log.writing = s.log.writing ∧
      (s.placeRec code sev part summary data).log.due = s.log.due := by
  have hfields := recBytes_fields code sev part summary s.log.opSec s.log.pcc
    (if s.log.lastAt = (s.log.opSec, s.log.pcc) then min 0xFFFF s.log.subSeq else 0) data
  unfold State.placeRec
  dsimp only at hfields ⊢
  rw [decide_eq_false (Nat.not_le.2 h), Bool.false_and, if_neg (by decide), if_neg (by decide)]
  obtain ⟨hlen, hcode, hsec, hkind, hdata⟩ := hfields
  generalize recBytes _ _ _ _ _ _ _ _ = bs at hlen hcode hsec hkind hdata ⊢
  generalize hs1 : s.modLog _ = t
  obtain ⟨c, hc⟩ := t.moveCursors_cursors ⟨s.log.next, sev, part, bs⟩ none
  rw [hc]
  subst hs1
  exact ⟨⟨_, rfl, rfl, rfl, hlen, hcode, hsec, rfl, rfl, hkind, hdata⟩, rfl, rfl, rfl⟩

/-! ### Taking events (R466 to R468) -/

def State.setBuckets (s : State) (bs : List Bucket) : State := s.modLog (fun l => { l with buckets := bs })

/-- One more of what total `k` counts. -/
def totalRises (l : Log) (u : State) (k : Nat) : Prop := Tab.get z0 u.log.totals k = min (2 ^ 64 - 1) (Tab.get z0 l.totals k + 1)

theorem Log.count_rises (l : Log) (k : Nat) : Tab.get z0 (l.count k 1).totals k = min (2 ^ 64 - 1) (Tab.get z0 l.totals k + 1) :=
  Tab.get_set_same ..

section
variable {s : State} {e : Event} {r : List Event} {b : Bucket} {rest : List Bucket}

theorem exec_logEventTake_empty (h : s.log.queue = []) : goesTo (exec .logEventTake s) s := by
  change execLogEventTake s = .next s
  unfold execLogEventTake
  rw [h]

/-- The log without its queue's oldest event. -/
def State.popEvent (s : State) (r : List Event) : State := s.modLog (fun l => { l with queue := r })

theorem exec_logEventTake (h : s.log.queue = e :: r) : exec .logEventTake s = .next (if e.sev < s.logMinSev then
    (s.popEvent r).modLog (fun l => l.count 17 1) else (s.popEvent r).takeEvent e) := by
  change execLogEventTake s = _
  unfold execLogEventTake
  rw [h]
  rfl

theorem exec_logEventTake_minor (h : s.log.queue = e :: r) (hsev : e.sev < s.logMinSev) : completes (exec .logEventTake s) (fun u =>
    u.log.queue = r ∧ u.log.recs = s.log.recs ∧ totalRises s.log u 17) := by
  refine ⟨_, exec_logEventTake h, ?_⟩
  rw [if_pos hsev]
  exact ⟨rfl, rfl, Log.count_rises (s.popEvent r).log 17⟩

/-- An event whose bucket is empty is suppressed. -/
theorem State.takeEvent_suppressed (hb : s.log.takeBucket e.code s.logBurst = some (b, rest)) (htok : b.tokens = 0) :
    (s.takeEvent e).log.queue = s.log.queue ∧ (s.takeEvent e).log.recs = s.log.recs ∧ totalRises s.log (s.takeEvent e) 16 := by
  unfold State.takeEvent
  dsimp only
  rw [hb]
  dsimp only
  rw [if_neg (by omega)]
  exact ⟨rfl, rfl, Tab.get_set_same ..⟩

theorem State.takeEvent_eq (hb : s.log.takeBucket e.code s.logBurst = some (b, rest)) (htok : 0 < b.tokens) :
    ∃ bs, s.takeEvent e = (s.setBuckets bs).placeRec e.code e.sev e.part false e.data := by
  unfold State.takeEvent
  dsimp only
  rw [hb]
  dsimp only
  rw [if_pos htok]
  exact ⟨_, rfl⟩

/-- An event whose bucket holds a token is recorded. -/
theorem State.takeEvent_recorded (hb : s.log.takeBucket e.code s.logBurst = some (b, rest)) (htok : 0 < b.tokens)
    (hfree : s.log.recs.length < 4096) :
    takesRecord s.log (s.takeEvent e) e.code (ofEvent e.sev e.part false e.data) ∧ (s.takeEvent e).log.queue = s.log.queue ∧
      (s.takeEvent e).log.writing = s.log.writing ∧ (s.takeEvent e).log.due = s.log.due := by
  obtain ⟨bs, heq⟩ := State.takeEvent_eq hb htok
  rw [heq]
  exact State.placeRec_takes (s := s.setBuckets bs) hfree e.code e.sev e.part false e.data

theorem exec_logEventTake_suppressed (h : s.log.queue = e :: r) (hsev : s.logMinSev ≤ e.sev)
    (hb : s.log.takeBucket e.code s.logBurst = some (b, rest)) (htok : b.tokens = 0) : completes (exec .logEventTake s) (fun u =>
      u.log.queue = r ∧ u.log.recs = s.log.recs ∧ totalRises s.log u 16) := by
  refine ⟨_, exec_logEventTake h, ?_⟩
  rw [if_neg (Nat.not_lt.2 hsev)]
  exact State.takeEvent_suppressed (s := s.popEvent r) hb htok

theorem exec_logEventTake_records (h : s.log.queue = e :: r) (hsev : s.logMinSev ≤ e.sev)
    (hb : s.log.takeBucket e.code s.logBurst = some (b, rest)) (htok : 0 < b.tokens) (hfree : s.log.recs.length < 4096) :
    completes (exec .logEventTake s) (fun u => u.log.queue = r ∧
      takesRecord s.log u e.code (fun x => x.sev = e.sev ∧ x.part = e.part ∧ bAt x.bytes 3 = 0)) := by
  refine ⟨_, exec_logEventTake h, ?_⟩
  rw [if_neg (Nat.not_lt.2 hsev)]
  obtain ⟨⟨x, hrecs, hnum, hnext, hlen, hcode, hsec, hx, hpart, hkind, -⟩, hqueue, -, -⟩ :=
    State.takeEvent_recorded (s := s.popEvent r) (e := e) hb htok hfree
  exact ⟨hqueue, x, hrecs, hnum, hnext, hlen, hcode, hsec, hx, hpart, hkind⟩

end

/-! ### Refills and summaries (R467, R468) -/

/-- What a summary holds of its bucket. -/
def summaryOf (b : Bucket) (x : LogRec) : Prop := bAt x.bytes 3 = 1 ∧ leAt x.bytes 16 4 = b.supp % 2 ^ 32

section
variable {s : State} {code : BitVec 16} {b : Bucket}

/-- The data of a bucket's summary. -/
def Bucket.summaryData (b : Bucket) : List Byte :=
  leBytes 4 b.supp ++ leBytes 4 b.first ++ leBytes 4 b.last ++ leBytes 2 b.parts ++ leBytes 1 (if b.chip then 1 else 0) ++ zeros 1

theorem Bucket.summaryData_supp (b : Bucket) : leAt ((b.summaryData ++ zeros 16).take 16) 0 4 = b.supp % 2 ^ 32 := by
  have hlen : b.summaryData.length = 16 := by simp [Bucket.summaryData, zeros]
  rw [List.take_left' hlen]
  simp only [Bucket.summaryData, List.append_assoc]
  rw [leAt_leBytes]
  norm_num

theorem State.summary_eq (s : State) (b : Bucket) : ∃ part bs, s.summary b = (s.setBuckets bs).placeRec b.code b.sev part true b.summaryData :=
  ⟨_, _, rfl⟩

theorem State.summary_recorded (hfree : s.log.recs.length < 4096) (b : Bucket) :
    takesRecord s.log (s.summary b) b.code (summaryOf b) := by
  obtain ⟨part, bs, heq⟩ := s.summary_eq b
  obtain ⟨⟨x, hrecs, hnum, hnext, hlen, hcode, hsec, -, -, hkind, hbytes⟩, -⟩ :=
    State.placeRec_takes (s := s.setBuckets bs) hfree b.code b.sev part true b.summaryData
  rw [heq]
  exact ⟨x, hrecs, hnum, hnext, hlen, hcode, hsec, hkind, (hbytes 0 4).trans b.summaryData_supp⟩

theorem Bucket.code_of_find {l : List Bucket} {c : Nat} (h : l.find? (fun b => decide (b.code = c)) = some b) : b.code = c := by
  simpa using List.find?_some h

theorem exec_logTokenRefill_none (h : s.log.buckets.find? (fun b => decide (b.code = code.toNat)) = none) :
    goesTo (exec (.logTokenRefill code) s) s := by
  change execLogTokenRefill code s = .next s
  unfold execLogTokenRefill
  rw [h]

theorem exec_logSummaryTimeout_none (h : s.log.buckets.find? (fun b => decide (b.code = code.toNat)) = none) :
    goesTo (exec (.logSummaryTimeout code) s) s := by
  change execLogSummaryTimeout code s = .next s
  unfold execLogSummaryTimeout
  rw [h]

variable (h : s.log.buckets.find? (fun b => decide (b.code = code.toNat)) = some b)
include h

/-- The bucket with one token more. -/
def Bucket.refilled (b : Bucket) (rate : Nat) : Bucket := { b with tokens := b.tokens + 1, since := b.since + 100000000 / rate }

omit h in
/-- The buckets with the one of its code refilled. -/
def State.refill (s : State) (b : Bucket) : State :=
  s.setBuckets (s.log.buckets.map (fun x => if x.code = b.code then b.refilled s.logRate else x))

theorem exec_logTokenRefill : exec (.logTokenRefill code) s = .next (
    if s.logBurst ≤ b.tokens then (if b.supp = 0 then s else s.summary b)
    else if s.since b.since * s.logRate < 100000000 then s
    else if s.logBurst ≤ b.tokens + 1 ∧ b.supp ≠ 0 then (s.refill b).summary (b.refilled s.logRate) else s.refill b) := by
  change execLogTokenRefill code s = _
  unfold execLogTokenRefill
  rw [h]
  dsimp only
  split
  · rfl
  · split
    · rfl
    · rfl

theorem exec_logSummaryTimeout : exec (.logSummaryTimeout code) s = .next (
    if b.supp = 0 ∨ s.since b.suppAt < 6000000000 then s else s.summary b) := by
  change execLogSummaryTimeout code s = _
  unfold execLogSummaryTimeout
  rw [h]

theorem exec_logTokenRefill_not (hnot : s.logBurst ≤ b.tokens ∧ b.supp = 0 ∨ b.tokens < s.logBurst ∧ ¬100000000 ≤ s.since b.since * s.logRate) :
    goesTo (exec (.logTokenRefill code) s) s := by
  refine (exec_logTokenRefill h).trans (congrArg _ ?_)
  rcases hnot with ⟨hfull, hsupp⟩ | ⟨hlow, hearly⟩
  · rw [if_pos hfull, if_pos hsupp]
  · rw [if_neg (Nat.not_le.2 hlow), if_pos (Nat.not_le.1 hearly)]

theorem exec_logTokenRefill_summary (hfull : s.logBurst ≤ b.tokens) (hsupp : b.supp ≠ 0) (hfree : s.log.recs.length < 4096) :
    completes (exec (.logTokenRefill code) s) (fun u => takesRecord s.log u code.toNat (summaryOf b)) := by
  refine ⟨_, exec_logTokenRefill h, ?_⟩
  rw [if_pos hfull, if_neg hsupp, ← Bucket.code_of_find h]
  exact State.summary_recorded hfree b

theorem exec_logTokenRefill_adds (hlate : 100000000 ≤ s.since b.since * s.logRate) (hlow : b.tokens < s.logBurst)
    (hmore : b.supp = 0 ∨ b.tokens + 1 < s.logBurst) : completes (exec (.logTokenRefill code) s) (fun u => u.log.recs = s.log.recs ∧
      u.log.buckets.find? (fun x => decide (x.code = code.toNat)) = some { b with
        tokens := b.tokens + 1, since := b.since + 100000000 / s.logRate }) := by
  refine ⟨_, exec_logTokenRefill h, ?_⟩
  rw [if_neg (Nat.not_le.2 hlow), if_neg (Nat.not_lt.2 hlate), if_neg (by omega)]
  refine ⟨rfl, ?_⟩
  have hcode := Bucket.code_of_find h
  change (s.log.buckets.map (fun x => if x.code = b.code then b.refilled s.logRate else x)).find? _ = some (b.refilled s.logRate)
  have hkeeps : (fun x : Bucket => decide (x.code = code.toNat)) ∘ (fun x => if x.code = b.code then b.refilled s.logRate else x) =
      fun x => decide (x.code = code.toNat) := by
    funext x
    dsimp only [Function.comp_apply]
    split
    case isTrue hx => rw [hx]; rfl
    case isFalse => rfl
  rw [List.find?_map, hkeeps, h]
  exact congrArg some (if_pos rfl)

theorem exec_logTokenRefill_fills (hlate : 100000000 ≤ s.since b.since * s.logRate) (hlast : b.tokens + 1 = s.logBurst) (hsupp : b.supp ≠ 0)
    (hfree : s.log.recs.length < 4096) :
    completes (exec (.logTokenRefill code) s) (fun u => takesRecord s.log u code.toNat (summaryOf b)) := by
  refine ⟨_, exec_logTokenRefill h, ?_⟩
  rw [if_neg (by omega), if_neg (Nat.not_lt.2 hlate), if_pos ⟨hlast.ge, hsupp⟩, ← Bucket.code_of_find h]
  exact State.summary_recorded (s := s.refill b) hfree (b.refilled s.logRate)

theorem exec_logSummaryTimeout_not (hnot : b.supp = 0 ∨ ¬6000000000 ≤ s.since b.suppAt) : goesTo (exec (.logSummaryTimeout code) s) s := by
  refine (exec_logSummaryTimeout h).trans (congrArg _ (if_pos ?_))
  rwa [Nat.not_le] at hnot

theorem exec_logSummaryTimeout_summary (hsupp : b.supp ≠ 0) (hold : 6000000000 ≤ s.since b.suppAt) (hfree : s.log.recs.length < 4096) :
    completes (exec (.logSummaryTimeout code) s) (fun u => takesRecord s.log u code.toNat (summaryOf b)) := by
  refine ⟨_, exec_logSummaryTimeout h, ?_⟩
  rw [if_neg (by omega), ← Bucket.code_of_find h]
  exact State.summary_recorded hfree b

end

/-! ### Persistence (R465, R470) -/

/-- The image that a persistence of `l` writes. -/
def Log.imageNow (l : Log) (clean : Bool) : LogImage := ⟨l.imgSeq + 1, clean, l.recs, l.totals, l.next⟩

/-- A period of 600 s has begun since the last persistence. -/
def State.persistDue (s : State) : Prop := s.pwr.standby = true ∧ s.log.persistAt.toNat / 60000000000 < s.clk.toNat / 60000000000

section
variable {s : State} {ok : Bool} {i : LogImage} {again : Bool}

theorem exec_logPersist_not (h : ¬s.persistDue) : goesTo (exec .logPersist s) s := by
  change execLogPersist s = .next s
  unfold execLogPersist periodEnds
  rw [if_pos]
  unfold State.persistDue at h
  cases hstandby : s.pwr.standby
  · rfl
  · simpa [hstandby] using h

theorem exec_logPersist (h : s.persistDue) : exec .logPersist s = .next ((s.modLog (fun l => { l with persistAt := s.clk })).persistLog false) := by
  obtain ⟨hstandby, hdue⟩ := h
  change execLogPersist s = _
  unfold execLogPersist periodEnds
  rw [if_neg (by simpa [hstandby] using hdue)]

theorem exec_logPersist_waits (h : s.persistDue) (hw : s.log.writing ≠ none) : completes (exec .logPersist s) (fun u =>
    u.log.writing = s.log.writing ∧ u.log.due = some (s.log.due.getD false) ∧ u.log.persistAt = s.clk) := by
  refine ⟨_, exec_logPersist h, ?_⟩
  rw [State.persistLog, if_neg (by exact hw)]
  exact ⟨rfl, rfl, rfl⟩

theorem exec_logPersist_writes (h : s.persistDue) (hw : s.log.writing = none) : completes (exec .logPersist s) (fun u =>
    u.log.writing = some (s.log.imageNow false, false) ∧ u.log.slot = (s.log.slot + 1) % 32 ∧ u.log.persistAt = s.clk) := by
  refine ⟨_, exec_logPersist h, ?_⟩
  rw [State.persistLog, if_pos (by exact hw)]
  exact ⟨rfl, rfl, rfl⟩

theorem exec_logPersistWriteDone_idle (hw : s.log.writing = none) : goesTo (exec (.logPersistWriteDone ok) s) s := by
  change execLogPersistWriteDone ok s = .next s
  unfold execLogPersistWriteDone
  rw [hw]

/-- The persistence that waited for `l`'s write, if any, goes on. -/
def writesNext (l : Log) (u : State) : Prop := u.log.writing = l.due.map (fun c => (l.imageNow c, false)) ∧ u.log.due = none

/-- What is next after a write: the persistence that waits; images and queue stay. -/
theorem State.persistNext_writes {t : State} (hw : t.log.writing = none) : writesNext t.log t.persistNext ∧
    t.persistNext.log.images = t.log.images ∧ t.persistNext.log.queue = t.log.queue := by
  unfold State.persistNext writesNext
  cases hdue : t.log.due with
  | none => exact ⟨⟨hw, hdue⟩, rfl, rfl⟩
  | some c => exact ⟨⟨rfl, rfl⟩, rfl, rfl⟩

theorem exec_logPersistWriteDone_good (hw : s.log.writing = some (i, again)) : completes (exec (.logPersistWriteDone true) s) (fun u =>
    writesNext s.log u ∧ Tab.get (fun _ => none) u.log.images s.log.slot = some i) := by
  change completes (execLogPersistWriteDone true s) _
  unfold execLogPersistWriteDone
  rw [hw]
  dsimp only
  rw [if_pos rfl]
  refine ⟨_, rfl, ?_⟩
  obtain ⟨hnext, himages, -⟩ := State.persistNext_writes (t := s.modLog (fun l =>
    { l with images := Tab.set (fun _ => none) l.images l.slot (some i), writing := none })) rfl
  refine ⟨hnext, ?_⟩
  rw [himages]
  exact Tab.get_set_same ..

theorem exec_logPersistWriteDone_retries (hw : s.log.writing = some (i, false)) : completes (exec (.logPersistWriteDone false) s) (fun u =>
    u.log.writing = some (i, true) ∧ u.log.slot = (s.log.slot + 1) % 32) := by
  change completes (execLogPersistWriteDone false s) _
  unfold execLogPersistWriteDone
  rw [hw]
  exact ⟨_, rfl, rfl, rfl⟩

theorem exec_logPersistWriteDone_fails (hw : s.log.writing = some (i, true)) : completes (exec (.logPersistWriteDone false) s) (fun u =>
    writesNext s.log u ∧ u.log.queue = putEvent s.log.queue ⟨0x0F22, 5, none, [], s.clk⟩) := by
  change completes (execLogPersistWriteDone false s) _
  unfold execLogPersistWriteDone
  rw [hw]
  dsimp only
  rw [if_neg (by decide), if_pos rfl]
  refine ⟨_, rfl, ?_⟩
  obtain ⟨hnext, -, hqueue⟩ := State.persistNext_writes (t := (s.modLog (fun l =>
    { l with images := Tab.set (fun _ => none) l.images l.slot none, writing := none })).logEv 0x0F22 5 none []) rfl
  exact ⟨hnext, hqueue⟩

end

/-! ### Operating seconds, cursors and the clear (R465, R471, R473) -/

section
variable {f : Fn} {s : State} {atEnd : Bool} {key : BitVec 16}

theorem exec_opSecondsTick_not (h : s.pwr.standby = false) : goesTo (exec .opSecondsTick s) s := by
  change execOpSecondsTick s = .next s
  unfold execOpSecondsTick
  rw [h, if_pos (by decide)]

theorem exec_opSecondsTick_counts (h : s.pwr.standby = true) : goesTo (exec .opSecondsTick s) { s with log := { s.log with
    opSec := s.log.opSec + 1, opSaved := if (s.log.opSec + 1) % 600 = 0 then s.log.opSec + 1 else s.log.opSaved } } := by
  change execOpSecondsTick s = _
  unfold execOpSecondsTick
  rw [h, if_neg (by decide)]
  rfl

theorem exec_logCursor_not (h : s.seesPage f logPage = false) : goesTo (exec (.logCursor f atEnd) s) (s.access f) := by
  have hsees : (s.access f).seesPage f logPage = false := h
  change execLogCursor f atEnd s = .next _
  unfold execLogCursor
  dsimp only
  rw [hsees, if_pos (by decide)]

theorem exec_logWindowAdvance_not (h : s.seesPage f logPage = false ∨ (s.log.cursor (fnIdx f)).shown = none) :
    goesTo (exec (.logWindowAdvance f) s) (s.access f) := by
  have hsees : (s.access f).seesPage f logPage = s.seesPage f logPage := rfl
  change execLogWindowAdvance f s = .next _
  unfold execLogWindowAdvance
  dsimp only
  rw [hsees, State.access_log, if_pos]
  rcases h with h | h
  · exact .inl (by rw [h]; decide)
  · exact .inr h

theorem State.arrive_log (s : State) (k n skipped : Nat) : ∃ c : Cursor, (s.arrive k n skipped).log = s.log.setCursor k c ∧
    c.skipped = skipped ∧ c.shown = s.nextRec k n ∧ c.lost = 0 := by
  unfold State.arrive
  cases s.nextRec k n <;> exact ⟨_, rfl, rfl, rfl, rfl⟩

/-- A cursor that arrives shows the next visible record; the others stay. -/
theorem State.arrive_cursor (s : State) (k n skipped : Nat) :
    (s.arrive k n skipped).log.recs = s.log.recs ∧ ((s.arrive k n skipped).log.cursor k).skipped = skipped ∧
      ((s.arrive k n skipped).log.cursor k).shown = s.nextRec k n ∧ ((s.arrive k n skipped).log.cursor k).lost = 0 ∧
      ∀ j, j ≠ k → (s.arrive k n skipped).log.cursor j = s.log.cursor j := by
  obtain ⟨c, hlog, hskipped, hshown, hlost⟩ := s.arrive_log k n skipped
  have hself : (s.log.setCursor k c).cursor k = c := Tab.get_set_same ..
  rw [hlog, hself]
  refine ⟨rfl, hskipped, hshown, hlost, fun j hj => ?_⟩
  rw [Log.cursor, Log.setCursor, Tab.get_set, if_neg hj]
  rfl

theorem exec_logCursor_goes (h : s.seesPage f logPage = true) : completes (exec (.logCursor f atEnd) s) (fun u =>
    u.log.recs = s.log.recs ∧ (u.log.cursor (fnIdx f)).skipped = 0 ∧
      (u.log.cursor (fnIdx f)).shown = s.nextRec (fnIdx f) (if atEnd then s.log.next else 0) ∧
      ∀ j, j ≠ fnIdx f → u.log.cursor j = s.log.cursor j) := by
  have hsees : (s.access f).seesPage f logPage = true := h
  change completes (execLogCursor f atEnd s) _
  unfold execLogCursor
  dsimp only
  rw [hsees, if_neg (by decide)]
  obtain ⟨hrecs, hskipped, hshown, -, hother⟩ := (s.access f).arrive_cursor (fnIdx f) (if atEnd then (s.access f).log.next else 0) 0
  exact ⟨_, rfl, hrecs, hskipped, hshown, hother⟩

theorem exec_logWindowAdvance_goes (h : s.seesPage f logPage = true) (hshown : (s.log.cursor (fnIdx f)).shown ≠ none) :
    completes (exec (.logWindowAdvance f) s) (fun u => u.log.recs = s.log.recs ∧
      (u.log.cursor (fnIdx f)).shown = s.nextRec (fnIdx f) (s.log.cursor (fnIdx f)).next ∧
      (u.log.cursor (fnIdx f)).skipped = (s.log.cursor (fnIdx f)).lost ∧ (u.log.cursor (fnIdx f)).lost = 0) := by
  have hsees : (s.access f).seesPage f logPage = true := h
  change completes (execLogWindowAdvance f s) _
  unfold execLogWindowAdvance
  dsimp only
  rw [hsees, State.access_log, if_neg (by simpa using hshown)]
  obtain ⟨hrecs, hskipped, hnext, hlost, -⟩ := (s.access f).arrive_cursor (fnIdx f) (s.log.cursor (fnIdx f)).next (s.log.cursor (fnIdx f)).lost
  exact ⟨_, rfl, hrecs, hnext, hskipped, hlost⟩

theorem exec_logClear_not (h : s.seesPage f logPage = false ∨ (∀ b, f ≠ .pf b) ∨ key ≠ 0xC1EA) :
    goesTo (exec (.logClear f key) s) (s.access f) := by
  have hsees : (s.access f).seesPage f logPage = s.seesPage f logPage := rfl
  change execLogClear f key s = .next _
  unfold execLogClear
  dsimp only
  cases f with
  | vf b k => rfl
  | sp => rfl
  | pf b =>
    dsimp only
    rw [hsees, if_pos]
    rcases h with h | h | h
    · exact .inl (by rw [h]; decide)
    · exact absurd rfl (h b)
    · exact .inr h

/-- The log without its records and its buckets. -/
def State.clearedLog (s : State) : State := s.modLog (fun l => { l with
  recs := [], buckets := []
  cursors := (List.range 35).foldl (fun t k => Tab.set (fun _ => {}) t k { next := l.next }) l.cursors })

theorem exec_logClear_clears {b : HPort} (h : s.seesPage (.pf b) logPage = true) : exec (.logClear (.pf b) 0xC1EA) s =
    .next (((s.access (.pf b)).clearedLog.takeEvent
      { code := 0x0F20, sev := 3, part := none, data := leBytes 1 (portIdx b) ++ zeros 3 ++ leBytes 4 s.log.recs.length }).persistLog false) := by
  have hsees : (s.access (.pf b)).seesPage (.pf b) logPage = true := h
  change execLogClear (.pf b) 0xC1EA s = _
  unfold execLogClear
  dsimp only
  rw [hsees, if_neg (by decide)]
  rfl

theorem exec_logClear_leaves {b : HPort} (h : s.seesPage (.pf b) logPage = true) : completes (exec (.logClear (.pf b) 0xC1EA) s) (fun u =>
    ∃ x, u.log.recs = [x] ∧ x.num = s.log.next ∧ leAt x.bytes 0 2 = 0x0F20 ∧ leAt x.bytes 20 4 = s.log.recs.length % 2 ^ 32 ∧
      (s.log.writing = none → ∃ i, u.log.writing = some (i, false) ∧ i.recs = [x]) ∧
      (s.log.writing ≠ none → u.log.due = some (s.log.due.getD false))) := by
  refine ⟨_, exec_logClear_clears h, ?_⟩
  generalize hdata : leBytes 1 (portIdx b) ++ zeros 3 ++ leBytes 4 s.log.recs.length = data
  generalize ht : (s.access (.pf b)).clearedLog = t
  have hlog : t.log.recs = [] ∧ t.log.buckets = [] ∧ t.log.next = s.log.next ∧ t.log.writing = s.log.writing ∧ t.log.due = s.log.due := by
    subst ht
    exact ⟨rfl, rfl, rfl, rfl, rfl⟩
  obtain ⟨hnone, hbuckets, hnext, hwriting, hdue⟩ := hlog
  have hbucket : t.log.takeBucket 0x0F20 t.logBurst = some ({ code := 0x0F20, tokens := t.logBurst }, []) := by
    rw [Log.takeBucket, hbuckets]
    rfl
  have hburst : 0 < t.logBurst := Nat.lt_of_lt_of_le Nat.one_pos (Nat.le_max_left ..)
  obtain ⟨⟨x, hrecs, hnum, -, -, hcode, -, -, -, -, hbytes⟩, -, hw, hd⟩ := State.takeEvent_recorded
    (e := { code := 0x0F20, sev := 3, part := none, data := data }) hbucket hburst (by rw [hnone]; decide)
  generalize t.takeEvent _ = v at hrecs hnum hcode hbytes hw hd
  rw [hnone, List.nil_append] at hrecs
  have hcount : leAt x.bytes 20 4 = s.log.recs.length % 2 ^ 32 := by
    have hlen : data.length = 8 := by
      rw [← hdata]
      simp [zeros]
    have hat := leAt_from (a := leBytes 1 (portIdx b) ++ zeros 3) (k := 4) (by simp [zeros]) (leBytes 4 s.log.recs.length ++ zeros 8) 0 4
    have htake : (data ++ zeros 16).take 16 = leBytes 1 (portIdx b) ++ zeros 3 ++ (leBytes 4 s.log.recs.length ++ zeros 8) := by
      rw [List.take_append, List.take_of_length_le (by omega), hlen, ← hdata, List.append_assoc, List.append_assoc, List.append_assoc]
      rfl
    rw [hbytes 4 4, htake, hat, leAt_leBytes]
    norm_num
  unfold State.persistLog
  by_cases hbusy : s.log.writing = none
  · rw [if_pos (hw.trans (hwriting.trans hbusy))]
    exact ⟨x, hrecs, hnum.trans hnext, hcode, hcount, fun _ => ⟨_, rfl, hrecs⟩, fun hno => absurd hbusy hno⟩
  · rw [if_neg (fun hno => hbusy (hwriting.symm.trans (hw.symm.trans hno)))]
    refine ⟨x, hrecs, hnum.trans hnext, hcode, hcount, fun hno => absurd hno hbusy, fun _ => ?_⟩
    change some (false || v.log.due.getD false) = _
    rw [hd, hdue, Bool.false_or]

end

/-- Settles O52: records, buckets, persistence, cursors and the clear follow the branches of the log's functions. -/
theorem accessionLog : Obligations.AccessionLog := by
  unfold Obligations.AccessionLog
  refine ⟨fun code ok s => ⟨exec_logEventTake_empty, fun e r hq => ⟨exec_logEventTake_minor hq, fun b rest hsev hb =>
      ⟨exec_logEventTake_suppressed hq hsev hb, exec_logEventTake_records hq hsev hb⟩⟩,
      fun h => ⟨exec_logTokenRefill_none h, exec_logSummaryTimeout_none h⟩,
      fun b hb => ⟨exec_logTokenRefill_not hb, exec_logTokenRefill_summary hb, exec_logTokenRefill_adds hb, exec_logTokenRefill_fills hb,
        exec_logSummaryTimeout_not hb, exec_logSummaryTimeout_summary hb⟩,
      exec_logPersist_not, exec_logPersist_waits, fun hw => ⟨exec_logPersistWriteDone_idle hw, fun hdue => exec_logPersist_writes hdue hw⟩,
      fun i again hw => ⟨?_, ?_, ?_⟩⟩,
    fun f atEnd key s => ⟨exec_opSecondsTick_not, exec_opSecondsTick_counts,
      fun h => ⟨exec_logCursor_not h, exec_logWindowAdvance_not (.inl h), exec_logClear_not (.inl h)⟩,
      fun h => ⟨exec_logCursor_goes h, fun hc => exec_logWindowAdvance_not (.inr hc), exec_logWindowAdvance_goes h,
        fun hno => exec_logClear_not (.inr hno), ?_⟩⟩⟩
  · rintro rfl
    exact exec_logPersistWriteDone_good hw
  · rintro rfl rfl
    exact exec_logPersistWriteDone_retries hw
  · rintro rfl rfl
    exact exec_logPersistWriteDone_fails hw
  · rintro b rfl rfl
    exact exec_logClear_leaves h

end Sys2Proof.Machine
end

section
/-! SUPPORT. Interrupt messages and bad accesses: which registers they leave (O39, O53). -/

namespace Sys2Proof.Machine

theorem State.sendMsix_reg (s : State) (k v : Nat) {a : Nat} (hpba : a ≠ msixPba k) (hcnt : a ≠ viewP k + 0x620) :
    (s.sendMsix k v).reg a = s.reg a := by
  unfold State.sendMsix
  split
  · rw [State.setReg_reg, if_neg hpba]
  · rw [State.bump, State.setReg_reg, if_neg hcnt]
    rfl

/-- The registers below the functions' HOST views are no vector's. -/
theorem State.sendMsix_reg_low (s : State) (k v : Nat) {a : Nat} (ha : a < viewKey) : (s.sendMsix k v).reg a = s.reg a :=
  s.sendMsix_reg k v (by unfold msixPba viewP; omega) (by unfold viewP; omega)

theorem State.setIrq_reg_low (s : State) (base b : Nat) {a : Nat} (ha : a < viewKey) (hother : a ≠ base + 0x18) :
    (s.setIrq base b).reg a = s.reg a := by
  rw [State.setIrq_unchanged (fun t : State => t.reg a) (fun t k v => t.sendMsix_reg_low k v ha) (fun _ _ _ => rfl), State.setReg_reg,
    if_neg hother]

/-- An error of a page is noted in three registers of its header. -/
theorem State.setErr_reg_low (s : State) (base b : Nat) {a : Nat} (ha : a < viewKey) (herr : a ≠ base + 0x10) (hctrl : a ≠ base + 8)
    (hirq : a ≠ base + 0x18) : (s.setErr base b).reg a = s.reg a := by
  unfold State.setErr
  dsimp only
  split
  · rw [State.setReg_reg, if_neg hctrl, State.setReg_reg, if_neg herr]
  · rw [State.setIrq_reg_low _ _ _ ha hirq, State.setReg_reg, if_neg hctrl, State.setReg_reg, if_neg herr]

theorem State.setErr_force (s : State) (base b : Nat) : (s.setErr base b).force = s.force :=
  State.setErr_unchanged State.force (fun _ _ _ => rfl) (fun _ _ => rfl) (fun _ _ _ => rfl) s base b

theorem State.setErr_parts (s : State) (base b : Nat) : (s.setErr base b).parts = s.parts :=
  State.setErr_unchanged State.parts (fun _ _ _ => rfl) (fun _ _ => rfl) (fun _ _ _ => rfl) s base b

/-- A property of the page, if there is one. -/
def eachPage (P : Page → Prop) (o : Option Page) : Prop := ∀ p, o = some p → P p

section
variable {P : Page → Prop}

theorem eachPage_none : eachPage P none := nofun

theorem eachPage_some {p : Page} (h : P p) : eachPage P (some p) := by
  rintro q hq
  cases hq
  exact h

theorem eachPage_ite {c : Prop} [Decidable c] {x y : Option Page} (hx : c → eachPage P x) (hy : ¬c → eachPage P y) :
    eachPage P (if c then x else y) := by
  split
  case isTrue h => exact hx h
  case isFalse h => exact hy h

end

/-- The pages lie at multiples of 4 KiB. -/
theorem pageOf_base {a : Nat} {p : Page} (h : pageOf a = some p) : p.base = a / 0x1000 * 0x1000 := by
  have hall : eachPage (fun p => p.base = a / 0x1000 * 0x1000) (pageOf a) := by
    unfold pageOf
    dsimp only
    repeat' with_reducible refine eachPage_ite (fun _ => ?_) (fun _ => ?_)
    any_goals with_reducible exact eachPage_none
    any_goals with_reducible exact eachPage_some rfl
    split <;> exact eachPage_some rfl
  exact hall p h

/-- The pages of type CORE are those of the cores. -/
theorem core_of_pageOf {a : Nat} {p : Page} (h : pageOf a = some p) (hty : p.ty = .core) : ∃ c : CoreId, p.base = coreP c := by
  have hall : eachPage (fun p => p.ty = .core → ∃ c : CoreId, p.base = coreP c) (pageOf a) := by
    unfold pageOf
    dsimp only
    repeat' with_reducible refine eachPage_ite (fun _ => ?_) (fun _ => ?_)
    any_goals with_reducible exact eachPage_none
    any_goals with_reducible exact eachPage_some nofun
    split
    next hcore =>
      refine eachPage_some (fun _ => ⟨⟨(a - 0x100000) / 0x4000, by omega⟩, ?_⟩)
      dsimp only [coreP]
      omega
    all_goals exact eachPage_some nofun
  exact hall p h hty

/-- A bad access is counted, and noted at a page that the function sees. -/
theorem State.badAccess_counted (s : State) (f : Fn) (off : Nat) : counted s (s.badAccess f off) 0xC0 1 := by
  have hbump := counted_bump s 0xC0 1
  unfold State.badAccess
  dsimp only
  generalize s.bump 0xC0 1 = t at hbump
  split
  next p hp =>
    have hbase := pageOf_base hp
    split
    · unfold counted
      rw [State.setErr_reg_low _ _ _ (by decide) (by omega) (by omega) (by omega)]
      exact hbump
    · exact hbump
  next => exact hbump

theorem State.badAccess_force (s : State) (f : Fn) (off : Nat) : (s.badAccess f off).force = s.force := by
  unfold State.badAccess
  dsimp only
  split
  · split
    · exact State.setErr_force ..
    · rfl
  · rfl

theorem State.badAccess_parts (s : State) (f : Fn) (off : Nat) : (s.badAccess f off).parts = s.parts := by
  unfold State.badAccess
  dsimp only
  split
  · split
    · exact State.setErr_parts ..
    · rfl
  · rfl

/-! ### Reads (R479) -/

/-- The state from which a read of offset `o` takes its word. -/
def State.readFrom (s : State) (f : Fn) (o : Nat) : State := if o % 8 = 0 then s.conflicts f o else s

section
variable {f : Fn} {off : BitVec 25} {size : Nat} {s : State}

theorem exec_read_bad (hlow : off.toNat < cfgBase) (hbad : badShape off.toNat size = true) :
    completes (exec (.latchedLowRead f off size) s) (fun u => u.resp = { ur := true } ∧ counted s u 0xC0 1) := by
  change completes (execLatchedLowRead f off size s) _
  unfold execLatchedLowRead
  dsimp only
  rw [if_neg (Nat.not_le.2 hlow), hbad, Bool.true_or, if_pos rfl, if_pos rfl]
  exact ⟨_, rfl, rfl, s.badAccess_counted f off.toNat⟩

theorem State.readFrom_eq (s : State) (f : Fn) {o size : Nat} (hshape : badShape o size = false) :
    (if badShape o size || decide (o % 8 ≠ 0) then s else s.conflicts f o) = s.readFrom f o := by
  rw [hshape, State.readFrom]
  by_cases hword : o % 8 = 0
  · rw [if_pos hword, if_neg (by simp [hword])]
  · rw [if_neg hword, if_pos (by simp [hword])]

/-- A read of a whole word, or of its lower half. -/
theorem exec_read_low (hlow : off.toNat < cfgBase) (hshape : badShape off.toNat size = false) (hword : off.toNat % 8 = 0) :
    exec (.latchedLowRead f off size) s = .next (
      let r := s.readFrom f off.toNat
      let w := r.readWord f off.toNat
      let t : State := { r.access f with resp := { bytes := leBytes (if size = 8 then 8 else 4) w.toNat } }
      if size = 8 then t
      else if twoRegs off.toNat then t
      else { t with latch := Tab.set (fun _ => none) t.latch (fnIdx f) (some (off.toNat, w)) }) := by
  have haligned : off.toNat / 8 * 8 = off.toNat := by omega
  change execLatchedLowRead f off size s = _
  unfold execLatchedLowRead
  dsimp only
  rw [if_neg (Nat.not_le.2 hlow), s.readFrom_eq f hshape, hshape, haligned, if_neg (by decide)]
  by_cases hsize : size = 8
  · simp only [if_pos hsize]
  · simp only [if_neg hsize, if_pos hword]

theorem exec_read_word (hlow : off.toNat < cfgBase) (hshape : badShape off.toNat 8 = false) :
    completes (exec (.latchedLowRead f off 8) s) (fun u =>
      u.resp = { bytes := leBytes 8 ((s.readFrom f off.toNat).readWord f (off.toNat / 8 * 8)).toNat } ∧
        u.regs = (s.readFrom f off.toNat).regs ∧ Tab.get (fun _ => none) u.latch (fnIdx f) = none) := by
  have hword : off.toNat % 8 = 0 := by simpa [badShape] using hshape
  have haligned : off.toNat / 8 * 8 = off.toNat := by omega
  rw [haligned]
  exact ⟨_, exec_read_low hlow hshape hword, rfl, rfl, Tab.get_set_same ..⟩

theorem exec_read_lower (hlow : off.toNat < cfgBase) (hshape : badShape off.toNat 4 = false) (hword : off.toNat % 8 = 0) :
    completes (exec (.latchedLowRead f off 4) s) (fun u =>
      u.resp = { bytes := leBytes 4 ((s.readFrom f off.toNat).readWord f (off.toNat / 8 * 8)).toNat } ∧
        u.regs = (s.readFrom f off.toNat).regs ∧ Tab.get (fun _ => none) u.latch (fnIdx f) =
          if twoRegs (off.toNat / 8 * 8) then none
          else some (off.toNat / 8 * 8, (s.readFrom f off.toNat).readWord f (off.toNat / 8 * 8))) := by
  have haligned : off.toNat / 8 * 8 = off.toNat := by omega
  rw [haligned]
  refine ⟨_, exec_read_low hlow hshape hword, ?_⟩
  simp only [show ¬(4 = 8) by decide, if_false]
  split
  · exact ⟨rfl, rfl, Tab.get_set_same ..⟩
  · exact ⟨rfl, rfl, Tab.get_set_same ..⟩

/-- The upper half of a word whose lower half was read is the latched one. -/
theorem exec_read_upper {x : Word} (hlow : off.toNat < cfgBase) (hshape : badShape off.toNat 4 = false) (hhalf : off.toNat % 8 = 4)
    (hlatch : Tab.get (fun _ => none) s.latch (fnIdx f) = some (off.toNat / 8 * 8, x)) :
    completes (exec (.latchedLowRead f off 4) s) (fun u => u.resp = { bytes := leBytes 4 (x.toNat / 2 ^ 32) } ∧ u.regs = s.regs ∧
      Tab.get (fun _ => none) u.latch (fnIdx f) = none) := by
  change completes (execLatchedLowRead f off 4 s) _
  unfold execLatchedLowRead
  dsimp only
  have hfrom : s.readFrom f off.toNat = s := by rw [State.readFrom, if_neg (by omega)]
  rw [if_neg (Nat.not_le.2 hlow), s.readFrom_eq f hshape, hfrom, hshape, if_neg (by decide), if_neg (by decide), if_neg (by omega), hlatch]
  dsimp only
  rw [if_pos rfl]
  exact ⟨_, rfl, rfl, rfl, Tab.get_set_same ..⟩

/-- The only register that changes by being read. -/
theorem State.conflicts_regs {o : Nat} (h : ∀ c : CoreId, o ≠ coreP c + 0x88) : (s.conflicts f o).regs = s.regs := by
  unfold State.conflicts
  split
  next p hp =>
    split
    next hcore =>
      obtain ⟨hty, hoff, -⟩ := hcore
      obtain ⟨c, hc⟩ := core_of_pageOf hp hty
      have hbase := pageOf_base hp
      exact absurd (by omega) (h c)
    next => rfl
  next => rfl

end

end Sys2Proof.Machine
end

section
/-! SUPPORT. Writes of registers, of the LOSW area and of configuration space (O53). -/

namespace Sys2Proof.Machine

/-! ### QUIESCE_REQ (R478, R484) -/

section
variable {f : Fn} {page : BitVec 24} {q : Bool} {s : State} {p : Page}

theorem exec_quiesceReqWrite_not (hp : pageOf (keyOf f page.toNat) = some p) (h : s.seesPage f p = false) :
    goesTo (exec (.quiesceReqWrite f page q) s) (s.access f) := by
  have hsees : (s.access f).seesPage f p = false := h
  change execQuiesceReqWrite f page q s = .next _
  unfold execQuiesceReqWrite
  dsimp only
  rw [hp]
  dsimp only
  rw [hsees, if_neg (by decide)]

theorem exec_quiesceReqWrite_sets (hp : pageOf (keyOf f page.toNat) = some p) (h : s.seesPage f p = true) :
    completes (exec (.quiesceReqWrite f page q) s) (fun u =>
      u.reg (p.base + 8) = putFld (s.reg (p.base + 8)) 1 1 (if q then 1 else 0) ∧ ∀ b, b ≠ p.base + 8 → u.reg b = s.reg b) := by
  have hsees : (s.access f).seesPage f p = true := h
  have hset (a : Nat) : ((s.access f).setField (p.base + 8) 1 1 (if q then 1 else 0)).reg a =
      if a = p.base + 8 then putFld (s.reg (p.base + 8)) 1 1 (if q then 1 else 0) else s.reg a := State.setReg_reg ..
  change completes (execQuiesceReqWrite f page q s) _
  unfold execQuiesceReqWrite
  dsimp only
  rw [hp]
  dsimp only
  rw [hsees, if_pos rfl]
  refine ⟨_, rfl, ?_⟩
  have hreg (a : Nat) : (if p.ty = .collator ∧ !q then ((s.access f).setField (p.base + 8) 1 1 (if q then 1 else 0)).wakeUnit p.inst
      else (s.access f).setField (p.base + 8) 1 1 (if q then 1 else 0)).reg a =
      if a = p.base + 8 then putFld (s.reg (p.base + 8)) 1 1 (if q then 1 else 0) else s.reg a := by
    split
    · rw [State.wakeUnit_reg, hset]
    · exact hset a
  exact ⟨(hreg _).trans (if_pos rfl), fun b hb => (hreg b).trans (if_neg hb)⟩

end

/-! ### Registers of BAR0 (R479, R482) -/

/-- The bits of a 64-bit word that a write names: `v` itself, or its lower half in its place. -/
def writtenBits (o size : Nat) (v : Word) : Word := if size = 8 then v else (v &&& 0xFFFFFFFF#64) <<< (32 * (o % 8 / 4))

/-- The places of a write in its 64-bit word. -/
def writtenHalf (o size : Nat) : Nat := if size = 8 then 2 ^ 64 - 1 else (2 ^ 32 - 1) * 2 ^ (32 * (o % 8 / 4))

section
variable {f : Fn} {off : BitVec 25} {size : Nat} {v : Word} {s : State} (hlow : off.toNat < cfgBase)
include hlow

theorem exec_write_bad (hbad : badShape off.toNat size = true) :
    completes (exec (.registerWrite f off size v) s) (fun u => counted s u 0xC0 1 ∧ u.force = s.force ∧ u.parts = s.parts) := by
  change completes (execRegisterWrite f off size v s) _
  unfold execRegisterWrite
  dsimp only
  rw [if_neg (Nat.not_le.2 hlow), hbad, if_pos rfl]
  exact ⟨_, rfl, (s.access f).badAccess_counted f off.toNat, State.badAccess_force .., State.badAccess_parts ..⟩

variable (hshape : badShape off.toNat size = false)
include hshape

section
variable (hreg : isLosw off.toNat = false)
include hreg

theorem exec_write_unseen (hsees : s.sees f (off.toNat / 8 * 8) = false) : goesTo (exec (.registerWrite f off size v) s) (s.access f) := by
  have h : (s.access f).sees f (off.toNat / 8 * 8) = false := hsees
  change execRegisterWrite f off size v s = .next _
  unfold execRegisterWrite
  dsimp only
  rw [if_neg (Nat.not_le.2 hlow), hshape, hreg, h]
  rfl

theorem exec_write_partial (hsees : s.sees f (off.toNat / 8 * 8) = true) (hpartial : breaksPartial off.toNat size = true) :
    completes (exec (.registerWrite f off size v) s) (fun u => counted s u 0xC0 1 ∧ u.force = s.force) := by
  have h : (s.access f).sees f (off.toNat / 8 * 8) = true := hsees
  change completes (execRegisterWrite f off size v s) _
  unfold execRegisterWrite
  dsimp only
  rw [if_neg (Nat.not_le.2 hlow), hshape, hreg, h, hpartial]
  exact ⟨_, rfl, (s.access f).badAccess_counted f off.toNat, State.badAccess_force ..⟩

/-- What a write of a register without an action of its own leaves in it. -/
def State.written (s : State) (f : Fn) (p : Page) (a o half : Nat) (x : Word) : Word :=
  ((s.reg a &&& ~~~(w64 (s.writable f p a o half).1)) ||| (x &&& w64 (s.writable f p a o half).1)) &&&
    ~~~(x &&& w64 (s.writable f p a o half).2)

omit hlow hshape hreg in
/-- A page whose writes act only on the register written. -/
theorem State.actWrite_none {p : Page} (hty : p.ty ∉ [PTy.host, .tp, .rollcall, .core, .carrel]) {o : Nat}
    (hexp : p.ty = .exp → o < 0x40 ∨ 0x60 ≤ o) (x half : Word) : s.actWrite f p o x half = none := by
  unfold State.actWrite
  dsimp only
  split
  next h => exact absurd (by simp [h]) hty
  next h => exact if_neg (fun hno => by have := hexp h; omega)
  next h => exact absurd (by simp [h]) hty
  next => rfl

omit hlow hshape hreg in
theorem State.afterWrite_none {p : Page} (hty : p.ty ∉ [PTy.host, .tp, .rollcall, .core, .carrel]) {o : Nat} (ho : 0x20 ≤ o)
    (harc : p.ty = .archive → o ≠ 0x48) (a : Nat) (old : Word) : s.afterWrite f p a o old = s := by
  unfold State.afterWrite
  dsimp only
  rw [if_neg (by omega), if_neg (by omega)]
  split
  next h => exact absurd (by simp [h]) hty
  next h => exact absurd (by simp [h]) hty
  next h => exact absurd (by simp [h]) hty
  next h => exact absurd (by simp [h]) hty
  next h => exact if_neg (fun hno => harc h hno.2)
  next h => exact absurd (by simp [h]) hty
  next => rfl

theorem exec_write_sets {p : Page} (hsees : s.sees f (off.toNat / 8 * 8) = true) (hwhole : breaksPartial off.toNat size = false)
    (hp : pageOf (keyOf f (off.toNat / 8 * 8)) = some p) (hty : p.ty ∉ [PTy.host, .tp, .rollcall, .core, .carrel])
    (harc : p.ty = .archive → keyOf f (off.toNat / 8 * 8) - p.base ≠ 0x48)
    (hexp : p.ty = .exp → keyOf f (off.toNat / 8 * 8) - p.base < 0x40 ∨ 0x60 ≤ keyOf f (off.toNat / 8 * 8) - p.base)
    (ho : 0x20 ≤ keyOf f (off.toNat / 8 * 8) - p.base) : completes (exec (.registerWrite f off size v) s) (fun u => u.force = s.force ∧
      (∀ b, b ≠ keyOf f (off.toNat / 8 * 8) → u.reg b = s.reg b) ∧ u.reg (keyOf f (off.toNat / 8 * 8)) =
        s.written f p (keyOf f (off.toNat / 8 * 8)) (keyOf f (off.toNat / 8 * 8) - p.base) (writtenHalf off.toNat size)
          (writtenBits off.toNat size v)) := by
  have h : (s.access f).sees f (off.toNat / 8 * 8) = true := hsees
  change completes (execRegisterWrite f off size v s) _
  unfold execRegisterWrite
  dsimp only
  rw [if_neg (Nat.not_le.2 hlow), hshape, hreg, h, hwhole, if_neg (by decide), if_neg (by decide), if_neg (by decide), if_neg (by decide), hp]
  dsimp only
  rw [State.actWrite_none hty hexp]
  dsimp only
  refine ⟨_, rfl, ?_⟩
  rw [State.afterWrite_none hty ho harc]
  refine ⟨rfl, fun b hb => ?_, ?_⟩
  · rw [State.setReg_reg, if_neg hb]
    rfl
  · rw [State.setReg_reg, if_pos rfl]
    rfl

end

/-! ### The LOSW area (R384, R385) -/

section
variable (hlosw : isLosw off.toNat = true) (hsees : s.seesLosw f off.toNat = true)
include hlosw hsees

omit hlow hshape hlosw hsees in
/-- An operation that a function may start is QUEUED. -/
theorem lopAccept_of_mayStart {p o : Nat} (hmay : mayStart s f p o) (op : Nat) (body : State → State) : s.lopAccept f p o op body =
    body (s.modLosw p o (fun l => { l with op := op, state := 1, error := 0, prog := 0, total := 0, part := 0xFFFFFFFF })) := by
  obtain ⟨hsp, hlive, hbound, hslot, hqueued, hrunning, hpaused⟩ := hmay
  unfold State.lopAccept
  rw [if_neg, if_neg]
  · simp [hslot, hqueued, hrunning, hpaused]
  · rintro (hno | hno | ⟨hvf, hno⟩)
    · exact hsp hno
    · simp [hlive] at hno
    · exact hno (hbound hvf)

theorem exec_write_request (hsize : size = 8) (ho : off.toNat % 16 = 8) : completes (exec (.registerWrite f off size v) s) (fun u =>
    (u.losw (loswPart off.toNat) (loswSlot off.toNat)).req = v ∧ u.regs = s.regs) := by
  have h : (s.access f).seesLosw f off.toNat = true := hsees
  have hwhole : breaksPartial off.toNat size = false := by rw [breaksPartial, hsize]; rfl
  change completes (execRegisterWrite f off size v s) _
  unfold execRegisterWrite
  dsimp only
  rw [if_neg (Nat.not_le.2 hlow), hshape, hlosw, h, hwhole, if_neg (by decide), if_pos rfl, if_neg (by decide), if_neg (by decide), if_pos ho]
  refine ⟨_, rfl, ?_, rfl⟩
  rw [State.modLosw_losw]

theorem exec_write_start (hsize : size = 8) (ho : off.toNat % 16 = 0) (hzero : v.toNat % 2 ^ 56 = 0)
    (hop : lopAssigned (v.toNat / 2 ^ 56) = false) (hmay : mayStart s f (loswPart off.toNat) (loswSlot off.toNat)) :
    completes (exec (.registerWrite f off size v) s) (fun u => (u.losw (loswPart off.toNat) (loswSlot off.toNat)).state = 4 ∧
      (u.losw (loswPart off.toNat) (loswSlot off.toNat)).op = v.toNat / 2 ^ 56 ∧
      (u.losw (loswPart off.toNat) (loswSlot off.toNat)).error = if fnIsVf f = true ∧ v.toNat / 2 ^ 56 = 0x0B then 0x0A05 else 0x0A04) := by
  have h : (s.access f).seesLosw f off.toNat = true := hsees
  have hmay' : mayStart (s.access f) f (loswPart off.toNat) (loswSlot off.toNat) := hmay
  have hwhole : breaksPartial off.toNat size = false := by rw [breaksPartial, hsize]; rfl
  change completes (execRegisterWrite f off size v s) _
  unfold execRegisterWrite
  dsimp only
  rw [if_neg (Nat.not_le.2 hlow), hshape, hlosw, h, hwhole, if_neg (by decide), if_pos rfl, if_neg (by decide), if_neg (by decide),
    if_neg (by omega), if_pos hsize, if_pos ⟨.inl ⟨ho, hsize⟩, hzero, by rw [hop]; rfl⟩]
  refine ⟨_, rfl, ?_⟩
  rw [State.lopInvalid, lopAccept_of_mayStart hmay', State.loswFail]
  dsimp only
  rw [State.modLosw_losw, State.modLosw_losw]
  refine ⟨rfl, rfl, ?_⟩
  simp only [Bool.and_eq_true, decide_eq_true_eq]

end

end

/-! ### Configuration space (R364, R365, R426) -/

/-- The words of a configuration space, but for the function's reset in it, are above all registers of BAR0. -/
theorem State.fnReset_reg (s : State) (k : Nat) {a : Nat} (hhigh : cfgKey ≤ a) (hk : k < 35) (hother : ¬(cfgP k ≤ a ∧ a < cfgP k + 0x1000)) :
    (s.fnReset k).reg a = s.reg a := by
  have hview : viewP k + 0x1000 ≤ a := by
    unfold viewP viewKey
    unfold cfgKey at hhigh
    omega
  have hctl (v : Nat) (hv : v < 64) : a ≠ msixCtl k v := by unfold msixCtl; omega
  have hfilter : (({ s with regs := ⟨s.regs.cells.filter (fun c => !decide (cfgP k ≤ c.1 ∧ c.1 < cfgP k + 0x1000))⟩ } : State)).reg a = s.reg a := by
    have hget := Tab.get_filter_keys regReset s.regs (fun b => !decide (cfgP k ≤ b ∧ b < cfgP k + 0x1000)) a
    rw [if_pos (by rw [decide_eq_false hother]; rfl)] at hget
    exact hget
  have hmask (t : State) : (t.maskVectors k).reg a = t.reg a := by
    rw [State.maskVectors, State.setReg_reg, if_neg (by unfold msixPba; omega)]
    refine List.foldlRecOn (motive := fun u : State => u.reg a = t.reg a) (List.range 64) _ rfl (fun u hu v hv => ?_)
    rw [State.setField, State.setReg_reg, if_neg (hctl v (List.mem_range.1 hv)), hu]
  have hqueues (t : State) : (t.disableQueues k).reg a = t.reg a := by
    refine List.foldlRecOn (motive := fun u : State => u.reg a = t.reg a) (List.range 16) _ rfl (fun u hu q hq => ?_)
    have hq16 := List.mem_range.1 hq
    rw [State.setField, State.setReg_reg, if_neg (by unfold cqReg; omega), State.setField, State.setReg_reg, if_neg (by unfold sqReg; omega), hu]
  rw [State.fnReset, hqueues, hmask, hfilter]

theorem State.drainPba_reg (s : State) {k a : Nat} (hhigh : cfgKey ≤ a) (hk : k < 35) : (s.drainPba k).reg a = s.reg a := by
  have hview : viewP k + 0x1000 ≤ a := by
    unfold viewP viewKey
    unfold cfgKey at hhigh
    omega
  refine foldl_unchanged (fun t : State => t.reg a) (fun t v => ?_) _ s
  split
  · rw [State.sendMsix_reg _ _ _ (by unfold msixPba; omega) (by omega), State.setField, State.setReg_reg, if_neg (by unfold msixPba; omega)]
  · rfl

theorem fnIdx_lt (f : Fn) : fnIdx f < 35 := by
  cases f with
  | sp => decide
  | pf b => cases b <;> decide
  | vf b n =>
    have hn := n.isLt
    cases b <;> (dsimp only [fnIdx]; omega)

/-- What a write of a configuration word does beside storing it leaves the words of the function's space. -/
theorem State.afterCfg_cfg (s old : State) {f : Fn} {o : Nat} {x : Word} (hno : ¬(o = 0x58 ∧ x.getLsbD 15 = true)) {b : Nat} (hb : b < 0xFC0) :
    (s.afterCfg old f o x).cfg (fnIdx f) b = s.cfg (fnIdx f) b := by
  have hhigh : cfgKey ≤ cfgP (fnIdx f) + 0x40 + b := by unfold cfgP; omega
  unfold State.afterCfg State.cfg
  dsimp only
  rw [if_neg (by simpa using hno)]
  split
  next c =>
    rw [State.drainPba_reg _ hhigh (fnIdx_lt _)]
    refine List.foldlRecOn (motive := fun t : State => t.reg (cfgP (fnIdx (.pf c)) + 0x40 + b) = _) _ _ rfl (fun t ht n hn => ?_)
    have hn16 : n < 16 := List.mem_range.1 (List.mem_of_mem_filter hn)
    have hport : portIdx c < 2 := by cases c <;> decide
    have hself : fnIdx (.pf c) = 1 + portIdx c := by cases c <;> rfl
    rw [State.fnReset_reg _ _ hhigh (by omega) (by unfold cfgP; omega), ht]
  next => exact State.drainPba_reg _ hhigh (fnIdx_lt _)

/-- A function of a host that has come up, and whose configuration requests are answered. -/
def State.cfgThere (s : State) (f : Fn) : Prop := f ≠ .sp ∧ s.fnThere f = true

section
variable {f : Fn} {off : BitVec 25} {size : Nat} {v : Word} {s : State} (hhigh : cfgBase ≤ off.toNat)
include hhigh

theorem exec_cfgRead : exec (.latchedLowRead f off size) s = .next { s with resp := s.cfgRead f (off.toNat - cfgBase) size } := by
  change execLatchedLowRead f off size s = _
  unfold execLatchedLowRead
  exact if_pos hhigh

theorem exec_cfgWrite : exec (.registerWrite f off size v) s = .next (s.cfgWrite f (off.toNat - cfgBase) size v) := by
  change execRegisterWrite f off size v s = _
  unfold execRegisterWrite
  exact if_pos hhigh

theorem exec_cfgRead_unsupported (h : ¬s.cfgThere f ∨ s.cfgReady f = true ∧ cfgShape (off.toNat - cfgBase) size = false) :
    goesTo (exec (.latchedLowRead f off size) s) { s with resp := { ur := true } } := by
  refine (exec_cfgRead hhigh).trans ?_
  have hresp : s.cfgRead f (off.toNat - cfgBase) size = { ur := true } := by
    unfold State.cfgRead
    by_cases hthere : s.cfgThere f
    · obtain ⟨hready, hshape⟩ := h.resolve_left (not_not.2 hthere)
      obtain ⟨hsp, hfn⟩ := hthere
      rw [if_neg (by simp [hsp, hfn]), hready, if_neg (by decide), hshape, if_pos (by decide)]
    · rw [if_pos]
      unfold State.cfgThere at hthere
      simp only [Bool.or_eq_true, decide_eq_true_eq, Bool.not_eq_true']
      by_cases hsp : f = .sp
      · exact .inl hsp
      · exact .inr (Bool.eq_false_iff.2 (fun hfn => hthere ⟨hsp, hfn⟩))
  rw [hresp]

theorem exec_cfgRead_retry (hthere : s.cfgThere f) (hready : s.cfgReady f = false) :
    goesTo (exec (.latchedLowRead f off size) s) { s with resp := { crs := true } } := by
  obtain ⟨hsp, hfn⟩ := hthere
  refine (exec_cfgRead hhigh).trans ?_
  unfold State.cfgRead
  rw [if_neg (by simp [hsp, hfn]), hready, if_pos (by decide)]

theorem exec_cfgRead_word (h : s.cfgThere f ∧ s.cfgReady f = true ∧ cfgShape (off.toNat - cfgBase) size = true) :
    let w := s.cfg (fnIdx f) ((off.toNat - cfgBase) / 8 * 8)
    goesTo (exec (.latchedLowRead f off size) s)
      { s with resp := { bytes := leBytes size (w.toNat / 2 ^ (8 * ((off.toNat - cfgBase) % 8))) } } := by
  obtain ⟨⟨hsp, hfn⟩, hready, hshape⟩ := h
  refine (exec_cfgRead hhigh).trans ?_
  unfold State.cfgRead
  rw [if_neg (by simp [hsp, hfn]), hready, if_neg (by decide), hshape, if_neg (by decide)]

theorem exec_cfgWrite_not (h : ¬(s.cfgThere f ∧ s.cfgReady f = true ∧ cfgShape (off.toNat - cfgBase) size = true)) :
    goesTo (exec (.registerWrite f off size v) s) s := by
  refine (exec_cfgWrite hhigh).trans (congrArg _ ?_)
  unfold State.cfgWrite
  rw [if_pos]
  unfold State.cfgThere at h
  simp only [Bool.or_eq_true, decide_eq_true_eq, Bool.not_eq_true']
  by_contra hno
  simp only [not_or, Bool.not_eq_false] at hno
  obtain ⟨⟨⟨hsp, hfn⟩, hready⟩, hshape⟩ := hno
  exact h ⟨⟨hsp, hfn⟩, hready, hshape⟩

/-- What a configuration write stores, from the word `w` and the bits `x` written. -/
def cfgWritten (r : Row) (half : Nat) (w x : Word) : Word :=
  ((w &&& ~~~(w64 (r.rw &&& half))) ||| (x &&& w64 half &&& w64 r.rw)) &&& ~~~(x &&& w64 half &&& w64 r.wc)

section
variable (h : s.cfgThere f ∧ s.cfgReady f = true ∧ cfgShape (off.toNat - cfgBase) size = true) (hc : off.toNat - cfgBase < 0xFC0) {r : Row}
  (hrow : rowOf (cfgP (fnIdx f) + 0x40 + (off.toNat - cfgBase) / 8 * 8) = some r)
include h hc hrow

theorem exec_cfgWrite_stores : exec (.registerWrite f off size v) s = .next (
    (s.setReg (cfgP (fnIdx f) + 0x40 + (off.toNat - cfgBase) / 8 * 8) (cfgWritten r (writtenHalf (off.toNat - cfgBase) size)
      (s.cfg (fnIdx f) ((off.toNat - cfgBase) / 8 * 8)) (writtenBits (off.toNat - cfgBase) size v))).afterCfg s f
      ((off.toNat - cfgBase) / 8 * 8) (writtenBits (off.toNat - cfgBase) size v &&& w64 (writtenHalf (off.toNat - cfgBase) size))) := by
  obtain ⟨⟨hsp, hfn⟩, hready, hshape⟩ := h
  refine (exec_cfgWrite hhigh).trans (congrArg _ ?_)
  generalize hu : State.afterCfg _ _ _ _ _ = u
  unfold State.cfgWrite
  rw [if_neg (by simp [hsp, hfn, hready, hshape])]
  simp only [if_pos hc, hrow]
  exact hu

end

end

/-- The bit that a write names in its half of a word is a bit of the word written. -/
theorem writtenBits_half (o size : Nat) (v : Word) : writtenBits o size v &&& w64 (writtenHalf o size) = writtenBits o size v := by
  unfold writtenBits writtenHalf
  split
  next => exact BitVec.and_allOnes
  next =>
    have hlo : o % 8 / 4 = 0 ∨ o % 8 / 4 = 1 := by omega
    have hshift : w64 ((2 ^ 32 - 1) * 2 ^ (32 * (o % 8 / 4))) = 0xFFFFFFFF#64 <<< (32 * (o % 8 / 4)) := by
      rcases hlo with hlo | hlo <;> (rw [hlo]; decide)
    rw [hshift, ← BitVec.shiftLeft_and_distrib, BitVec.and_assoc, BitVec.and_self]

/-- The base of configuration space is a whole number of words: an offset in it has its place in a word. -/
theorem writtenBits_cfg {o : Nat} (h : cfgBase ≤ o) (size : Nat) (v : Word) : writtenBits (o - cfgBase) size v = writtenBits o size v := by
  have hmod : (o - cfgBase) % 8 = o % 8 := by unfold cfgBase at h ⊢; omega
  rw [writtenBits, writtenBits, hmod]

theorem writtenHalf_cfg {o : Nat} (h : cfgBase ≤ o) (size : Nat) : writtenHalf (o - cfgBase) size = writtenHalf o size := by
  have hmod : (o - cfgBase) % 8 = o % 8 := by unfold cfgBase at h ⊢; omega
  rw [writtenHalf, writtenHalf, hmod]

section
variable {f : Fn} {off : BitVec 25} {size : Nat} {v : Word} {s : State} (hhigh : cfgBase ≤ off.toNat)
  (h : s.cfgThere f ∧ s.cfgReady f = true ∧ cfgShape (off.toNat - cfgBase) size = true) (hc : off.toNat - cfgBase < 0xFC0) {r : Row}
  (hrow : rowOf (cfgP (fnIdx f) + 0x40 + (off.toNat - cfgBase) / 8 * 8) = some r)
include hhigh h hc hrow

/-- A write of Initiate Function Level Reset is the function's FLR. -/
theorem exec_cfgWrite_flr (hflr : (off.toNat - cfgBase) / 8 * 8 = 0x58 ∧ (writtenBits off.toNat size v).getLsbD 15 = true) :
    ∃ t, exec (.flr f) t = exec (.registerWrite f off size v) s ∧ t.resp = s.resp ∧ t.parts = s.parts ∧ t.hosts = s.hosts ∧
      ∀ b, b ≠ cfgP (fnIdx f) + 0x98 → t.reg b = s.reg b := by
  obtain ⟨hword, hbit⟩ := hflr
  rw [exec_cfgWrite_stores hhigh h hc hrow, writtenBits_half, writtenBits_cfg hhigh, hword]
  generalize cfgWritten r (writtenHalf (off.toNat - cfgBase) size) (s.cfg (fnIdx f) 0x58) (writtenBits off.toNat size v) = new
  refine ⟨s.setReg (cfgP (fnIdx f) + 0x98) new, ?_, rfl, rfl, rfl, fun b hb => ?_⟩
  · unfold State.afterCfg
    dsimp only
    rw [hbit, if_pos (by decide)]
    rfl
  · rw [State.setReg_reg, if_neg hb]

/-- Any other write changes the writable bits of its word alone. -/
theorem exec_cfgWrite_word (hno : ¬((off.toNat - cfgBase) / 8 * 8 = 0x58 ∧ (writtenBits off.toNat size v).getLsbD 15 = true)) :
    completes (exec (.registerWrite f off size v) s) (fun u =>
      u.cfg (fnIdx f) ((off.toNat - cfgBase) / 8 * 8) = cfgWritten r (writtenHalf off.toNat size)
        (s.cfg (fnIdx f) ((off.toNat - cfgBase) / 8 * 8)) (writtenBits off.toNat size v) ∧
      ∀ b, b < 0xFC0 → b ≠ (off.toNat - cfgBase) / 8 * 8 → u.cfg (fnIdx f) b = s.cfg (fnIdx f) b) := by
  refine ⟨_, exec_cfgWrite_stores hhigh h hc hrow, ?_⟩
  rw [writtenBits_half, writtenBits_cfg hhigh, writtenHalf_cfg hhigh]
  generalize off.toNat - cfgBase = c at hc hno ⊢
  refine ⟨?_, fun b hb hne => ?_⟩
  · rw [State.afterCfg_cfg _ _ hno (by omega), State.cfg, State.setReg_reg, if_pos rfl]
  · rw [State.afterCfg_cfg _ _ hno hb, State.cfg, State.setReg_reg, if_neg (by omega)]
    rfl

end

/-- Settles O53: the clauses of reads, of writes below `cfgBase` and of configuration space, each by its own lemma. -/
theorem registerAccess : Obligations.RegisterAccess := by
  intro f off page size q v s
  refine ⟨fun hlow hbad => ⟨exec_read_bad hlow hbad, exec_write_bad hlow hbad⟩, fun hlow hshape => ⟨fun hsize => ?_, fun hsize ho => ?_,
    fun x hsize ho hlatch => ?_, fun hne => ?_⟩, fun p hp => ⟨exec_quiesceReqWrite_not hp, exec_quiesceReqWrite_sets hp⟩,
    fun hlow hshape hreg => ⟨exec_write_unseen hlow hshape hreg, exec_write_partial hlow hshape hreg,
      fun p hsees hwhole hp hty harc hexp ho => exec_write_sets hlow hshape hreg hsees hwhole hp hty harc hexp ho⟩,
    fun hlow hshape hlosw hsees => ⟨fun ho hsize => exec_write_request hlow hshape hlosw hsees hsize ho,
      fun ho hsize hzero hop hmay => exec_write_start hlow hshape hlosw hsees hsize ho hzero hop hmay⟩,
    fun hhigh => ⟨exec_cfgRead_unsupported hhigh, fun hthere => exec_cfgRead_retry hhigh hthere, exec_cfgRead_word hhigh,
      exec_cfgWrite_not hhigh, fun h hc r hrow => ⟨exec_cfgWrite_flr hhigh h hc hrow, exec_cfgWrite_word hhigh h hc hrow⟩⟩⟩
  · subst hsize
    have hword : off.toNat % 8 = 0 := by simpa [badShape] using hshape
    have := exec_read_word (f := f) (s := s) hlow hshape
    rw [State.readFrom, if_pos hword] at this
    rwa [if_pos hword]
  · subst hsize
    have := exec_read_lower (f := f) (s := s) hlow hshape ho
    rw [State.readFrom, if_pos ho] at this
    rwa [if_pos ho]
  · subst hsize
    exact exec_read_upper hlow hshape ho hlatch
  · split
    next ho => exact State.conflicts_regs (fun c => by have := hne c; omega)
    next => rfl

end Sys2Proof.Machine
end

section
/-! SUPPORT. A LOST notice on a port whose partner is no node number (R400, R402); O42. -/

namespace Sys2Proof.Machine

/-- Port 0 has a partner whose place among the fences, 0x8100 + 99 × 8, is RC_LOST_CNT; CHIP mode; a notice that node 5 is lost has come
in on it. -/
def noticeHeld : State :=
  { State.reset with
    force := ⟨[(0x8040, 0)]⟩
    ports := ⟨[(0, { partner := 99 * 64 })]⟩
    rc := { queue := [(0, lostMsg 5 0 0)] } }

/-- The notice is taken, counted and signalled. -/
def noticeCounted : State := (({ noticeHeld with rc := { noticeHeld.rc with queue := [] } } : State).bump 0x8418 1).setIrq 0x8000 2

/-- Counting the notice fences the partner, and the notice is ignored. -/
theorem exec_noticeHeld : exec .lost noticeHeld = .next noticeCounted := by
  have htake : noticeHeld.takeCtl 2 = some (0, lostMsg 5 0 0, { noticeHeld with rc := { noticeHeld.rc with queue := [] } }) := rfl
  have hfenced : noticeCounted.nodeFenced (noticeCounted.port 0).partner = true := rfl
  change execLost noticeHeld = _
  unfold execLost
  rw [htake]
  exact if_pos hfenced

/-- Refutes O42: nothing bounds the number of a port's partner, so its place among the fences can lie at RC_LOST_CNT; counting a LOST
notice of that port then fences the partner, and the notice, which comes from an unfenced one, is not handled. -/
theorem not_membershipAndBarriers : ¬ Obligations.MembershipAndBarriers := by
  intro h
  obtain ⟨hmembers, -⟩ := h
  obtain ⟨-, -, hmessage, -⟩ := hmembers .sp 0 0 0 noticeHeld
  obtain ⟨-, -, hlost⟩ := hmessage 0 (lostMsg 5 0 0) [] rfl
  obtain ⟨u, hu, -, -, -, hhandled⟩ := hlost (by decide)
  obtain ⟨hnode, -⟩ := hhandled (by decide) (by decide) (by decide) (by decide)
  have hkept : noticeCounted.rc.handled = [] := rfl
  rw [← Host.Outcome.next.inj (exec_noticeHeld.symm.trans hu), hkept] at hnode
  exact absurd hnode (by decide)

end Sys2Proof.Machine
end

section
/-! SUPPORT. A reset that ends a bulk scan of the slot in which it shows itself (R388, R389); O44. -/

namespace Sys2Proof.Machine

/-- A query of partition 0 that runs for slot 30, which no function starts and where a reset shows itself. -/
def resetScan : Query :=
  { part := 0, cidx := 0, cls := [], epoch := 0, version := 0, publish := 0, t0 := 0, src := .bulk 0 30, cq := 0, cqGen := 0
    sqHead := 0, req := zeros 64, reqAddr := 0, stage := .search, busy := true, fan := [], waiting := [], recs := [], members := []
    remote := [], record := [], err := 0, wcet := 0 }

/-- A reset of partition 0 has reached step 3, no write is outstanding, and the query is live. -/
def scanHeld : State :=
  { State.reset with
    parts := ⟨[(0, { reset := some { step := 3, t0 := 0, flrs := [] } })]⟩
    desk := { queries := ⟨[(5, some resetScan)]⟩ } }

theorem exec_scanHeld : exec (.partitionReset 0) scanHeld = .next (scanHeld.resetDrained 0) := by
  have hreset : (scanHeld.part (0 : PartId)).reset = some { step := 3, t0 := 0, flrs := [] } := rfl
  have hnone : scanHeld.writesOut (0 : PartId) = false := rfl
  change execPartitionReset 0 scanHeld = _
  unfold execPartitionReset
  rw [hreset]
  dsimp only
  rw [if_neg (by decide : ¬3 = 7), if_neg (by decide : ¬3 = 2), hnone]
  rfl

/-- The end of the query fails slot 30. -/
theorem scanHeld_failed : ((scanHeld.resetDrained 0).losw 0 30).state = 4 := rfl

/-- Refutes O44: nothing keeps a bulk scan from slot 30, where a reset shows itself; a reset that ends such a query shows FAILED there,
where no brown-out has stopped it. -/
theorem not_partitionsResetAndCompose : ¬ Obligations.PartitionsResetAndCompose := by
  intro h
  obtain ⟨-, -, -, hsteps, -⟩ := h .sp 0 0 0 [] scanHeld
  obtain ⟨-, -, -, hdrained, -⟩ := hsteps _ rfl
  obtain ⟨u, hu, -, hstate, -⟩ := hdrained rfl rfl
  rw [← Host.Outcome.next.inj (exec_scanHeld.symm.trans hu)] at hstate
  exact absurd (scanHeld_failed.symm.trans hstate) (by decide)

end Sys2Proof.Machine
end

section
/-! SUPPORT. A flit whose source is no node number (R347, R401); O41. -/

namespace Sys2Proof.Machine

/-- A Roll Call message of node 64 × 70985, whose place among the fences, 0x8100 + 70985 × 8, is port 0's count of received flits of
channel 5. -/
def strayFlit : Flit :=
  { linkFlit with link := false, vc := 5, first := true, last := true, srcNode := 64 * ((vcCnt 0 5 8 - 0x8100) / 8), len := 1, payload := [2] }

/-- Port 0 is UP, no fence stands, and nothing has been received. -/
def flitHeld : State := { State.reset with regs := ⟨[(0x8048, 0)]⟩, ports := ⟨[(0, { state := 2 })]⟩ }

/-- The flit has come in, with `n` codewords corrected, and what it acknowledges is taken. -/
def flitCome (n : Nat) : State :=
  (({ flitHeld with free := flitHeld.free + 1 } : State).bump (tpCnt (0 : PortId) 0) n).takeAck (0 : PortId) strayFlit

/-- It has passed its checks in order. -/
def flitTaken (n : Nat) : State := (flitCome n).modPort (0 : PortId) (fun y => { y with rxSeq := strayFlit.lseq, dropping := false })

theorem exec_flitHeld :
    ∃ n, (n = 0 ∨ n = 1) ∧ exec (.flitReceive 0 strayFlit .good) flitHeld = .next ((flitTaken n).ingress (0 : PortId) strayFlit) := by
  have hup : ∀ n, n = 0 ∨ n = 1 → ¬(strayFlit.link = true ∨ (!(flitCome n).portUp (0 : PortId)) = true) := by
    rintro n (rfl | rfl) <;> decide
  have hbit : (if Config.freeBit flitHeld.free then 1 else 0) = 0 ∨ (if Config.freeBit flitHeld.free then 1 else 0) = 1 := by
    cases Config.freeBit flitHeld.free <;> decide
  refine ⟨_, hbit, ?_⟩
  change execFlitReceive 0 strayFlit .good flitHeld = _
  unfold execFlitReceive
  rw [if_neg (by decide)]
  refine (if_neg (hup _ hbit)).trans ((if_neg ?_).trans (if_neg ?_))
  · decide
  · decide

/-- Counting the flit fences its source, and the message goes nowhere. -/
theorem flitTaken_ingress {n : Nat} (hn : n = 0 ∨ n = 1) : ((flitTaken n).ingress (0 : PortId) strayFlit).rc.queue = [] := by
  rcases hn with rfl | rfl <;> rfl

/-- Refutes O41: nothing bounds the number of a flit's source node, so its place among the fences can lie at the count of received flits;
counting the flit then fences its source, and a Roll Call message in order, from an unfenced node, does not reach Roll Call. -/
theorem not_linkIngress : ¬ Obligations.LinkIngress := by
  intro h
  obtain ⟨-, hup, -⟩ := h .sp 0 0 strayFlit 0 0 flitHeld
  obtain ⟨-, -, -, horder⟩ := hup rfl
  obtain ⟨hmessage, -⟩ := horder rfl rfl rfl rfl rfl rfl rfl rfl rfl
  obtain ⟨u, hu, hqueue, -⟩ := hmessage rfl rfl (by decide) (by decide) (by decide)
  obtain ⟨n, hn, hexec⟩ := exec_flitHeld
  rw [← Host.Outcome.next.inj (hexec.symm.trans hu), flitTaken_ingress hn] at hqueue
  exact absurd hqueue (by decide)

end Sys2Proof.Machine
end

section
/-! SUPPORT. A flit to send whose destination is no node number (R350, R401); O40. -/

namespace Sys2Proof.Machine

/-- A Roll Call message to node 64 × 70948 + 3, whose place among the fences, bit 3 of 0x8100 + 70948 × 8, is in port 0's count of the
cycles that channel 0 was short of tokens. -/
def strayWait : Fwd :=
  { port := 8, stomp := false
    flit := { linkFlit with link := false, vc := 5, first := true, last := true, dstNode := 64 * ((vcCnt 0 0 0x20 - 0x8100) / 8) + 3, payload := [2] } }

/-- Port 0 is UP, no fence stands, and the message waits in the queue of channel 0, whose level is 0 and grows by 1 in a slot. -/
def waitHeld : State :=
  { State.reset with
    regs := ⟨[(0x8048, 0)]⟩
    force := ⟨[(shapeA 0 0, 1)]⟩
    ports := ⟨[(0, { state := 2, localQ := ⟨[(0, [strayWait])]⟩, shape := ⟨[(0, 0)]⟩ })]⟩ }

/-- The slot passes. -/
def waitPassed : State := (((waitHeld.slotWaits (0 : PortId)).purge (0 : PortId)).slotFlit (0 : PortId)).slotTime (0 : PortId)

theorem exec_waitHeld : exec (.egressSlot 0) waitHeld = .next waitPassed := by
  change execEgressSlot 0 waitHeld = _
  unfold execEgressSlot
  rw [if_neg (by decide)]
  exact if_neg (by decide)

/-- Counting the 8 cycles fences the message's destination, and it is dropped. -/
theorem waitPassed_txSeq : (waitPassed.port (0 : PortId)).txSeq = 0 := by decide +kernel

/-- Refutes O40: nothing bounds the number of a flit's destination, and nothing keeps a flit of channel 5 from the queue of another
channel; the cycles that the other channel is short of tokens are then counted where the destination's fence stands, and a flit
that is eligible, for an unfenced node, is not sent. -/
theorem not_linkEgressAndSends : ¬ Obligations.LinkEgressAndSends := by
  intro h
  obtain ⟨hport, -⟩ := h
  obtain ⟨-, -, hslot, -⟩ := hport 0 waitHeld
  obtain ⟨-, hsends⟩ := hslot (by decide) (by decide) (by decide)
  obtain ⟨u, hu, -, -, hseq, -⟩ := hsends 0 strayWait [] (by decide) (by decide) rfl rfl
    (by decide) (by decide) (by decide)
  rw [← Host.Outcome.next.inj (exec_waitHeld.symm.trans hu), waitPassed_txSeq] at hseq
  exact absurd hseq (by decide)

end Sys2Proof.Machine
end

section
/-! SUPPORT. A write that waits at the queue of a tier that does not exist (R221); O35. -/

namespace Sys2Proof.Machine

/-- The first address of space 3. -/
def unifiedBase : Word := BitVec.ofNat 64 (3 * 2 ^ 48)

/-- Superblock 5 is being erased while superblock 7 of a secure discard is still to be. The partial results of the discard's slot
go to the first page of space 3, in an extent of a tier whose count of waits would be ARC_ERASE_CNT of partition 0. -/
def strayErase : State :=
  { State.reset with
    regs := ⟨[(0x9100, 0), (partSlice 0 5, unifiedBase), (arcCnt 0 0x18, BitVec.ofNat 64 (2 ^ 64 - 3))]⟩
    force := ⟨[(0x9100, 0), (partSlice 0 5, unifiedBase)]⟩
    tierP := ⟨[(0, { ext := ⟨[(0, some ((arcCnt 0 0x18 - 0x9300) / 8, 0))]⟩ })]⟩
    arc := ⟨[(0, { erasing := some 5, discard := some ⟨0, 0, 0, 1, true, 1, [7], 0, 0, 0, true⟩ })]⟩ }

/-- The erase is counted, and the superblock is free. -/
def strayFreed : State :=
  ((strayErase.modNs 0 (fun n => n.modSb 5 (fun x => { x with retired := [] }))).bump (arcCnt 0 0x18) 1).modNs 0
    (fun n => (n.erased 5 0 0).fullPages)

/-- The discard's progress is noted. -/
def strayErased : State := strayFreed.loswProg 0 0 0

/-- The write of the partial results has found the queue of its tier full. -/
def strayCounted : State := ({ strayErased with free := strayErased.free + 1 } : State).setReg (arcCnt 0 0x18) (BitVec.allOnes 64)

theorem strayErased_waits : (strayErased.awaitZero 0 unifiedBase 16).blockWaits 0 unifiedBase 16 = strayCounted := by
  have hlines : linesOf (aOff unifiedBase) 16 = [0] := rfl
  have hplace : strayErased.locate 0 (addA unifiedBase (0 * 64 - aOff unifiedBase)) = some (.arch 0) := rfl
  have hfirst : (0 = aOff unifiedBase / 64 ∨ 0 % 4096 < 64) = True := by decide
  have hfull : strayErased.placeWaits 0 (strayErased.tierOf 0 (addA unifiedBase (0 * 64 - aOff unifiedBase))) (some (.arch 0)) =
      strayErased.waitCycles (arcCnt 0 0x18) := by
    rw [State.placeWaits, if_pos (by decide)]
    rfl
  have hawait : strayErased.awaitZero 0 unifiedBase 16 = strayErased := by
    rw [State.awaitZero, hlines]
    simp only [List.foldl_cons, List.foldl_nil, hplace]
  rw [hawait, State.blockWaits, hlines]
  simp only [List.foldl_cons, List.foldl_nil, hplace, hfirst, decide_true, if_true, hfull]
  exact State.waitCycles_saturates rfl

/-- What the write of the partial results does once its waits are over. -/
def strayShown (s : State) : State :=
  let bs := leBytes 4 1 ++ leBytes 4 0 ++ leBytes 4 0 ++ leBytes 4 0
  let ls := lineParts unifiedBase.toNat (16 + 1) bs
  let s1 := ((((s.translateAll 0 unifiedBase 16).yieldLines 0 unifiedBase 16).countAccess 0 unifiedBase
    (linesOf (aOff unifiedBase) 16).length).countDrops 0 unifiedBase 16).fillFor 0 unifiedBase 16
  (((List.range ls.length).zip ls).foldl (fun s l => s.writeLine 0 (BitVec.ofNat 64 l.2.1) l.2.2 false) s1).fillStripes 0 false

/-- The end of the erase. -/
def strayAfter (s : State) : State := ((((strayShown s).updLife 0).discardEnd 0).wearCheck 0).fillStripes 0 false

theorem exec_strayErase : exec (.eraseDone 0 []) strayErase = .next (strayAfter strayCounted) := by
  have hnone : (strayErase.ns ((0 : PartId) : Nat)).format = none := rfl
  have herasing : (strayErase.ns 0).erasing = some 5 := rfl
  have hplanes : strayErase.planes 0 = 0 := rfl
  have hrows : strayErase.sbRows 0 = 0 := rfl
  have hblocks : ((List.range 16).flatMap fun m => (List.range 0).map fun l => 4 * m + l) = [] := by decide
  have hdiscard : (strayFreed.ns 0).discard = some ⟨0, 0, 0, 1, true, 1, [7], 0, 0, 0, true⟩ := rfl
  have hwrite : strayErased.discardArea 0 ⟨0, 0, 0, 1, true, 1, [7], 0, 0, 0, true⟩ = strayShown strayCounted := by
    have harea : strayErased.lopArea 0 0 = unifiedBase := rfl
    have hlen : (leBytes 4 1 ++ leBytes 4 0 ++ leBytes 4 0 ++ leBytes 4 0 : List Byte).length = 16 := by decide
    unfold State.discardArea State.devWrite State.devWriteLines
    dsimp only
    rw [harea, hlen, strayErased_waits]
    rfl
  change execEraseDone 0 [] strayErase = _
  unfold execEraseDone
  rw [hnone]
  refine congrArg Host.Outcome.next ?_
  change strayErase.eraseEnd 0 [] = _
  unfold State.eraseEnd
  rw [herasing]
  simp only [hplanes, hrows, hblocks, List.foldl_nil, List.filter_nil, List.length_nil]
  change ((((match (strayFreed.ns 0).discard with
    | some d => if d.accepted then (strayFreed.loswProg 0 d.slot d.done).discardArea 0 d else strayFreed
    | none => strayFreed).updLife 0).discardEnd 0).wearCheck 0).fillStripes 0 false = _
  rw [hdiscard]
  change ((((strayErased.discardArea 0 ⟨0, 0, 0, 1, true, 1, [7], 0, 0, 0, true⟩).updLife 0).discardEnd 0).wearCheck 0).fillStripes 0 false = _
  rw [hwrite]
  rfl

/-- Refutes O35: nothing bounds the tier that a partition's map names, so the waits of the write that shows a secure discard's
progress can be counted at ARC_ERASE_CNT, which then rises by more than the one superblock that was erased. -/
theorem not_stripesJournalCollection : ¬ Obligations.StripesJournalCollection := by
  intro h
  obtain ⟨-, herase⟩ := h
  obtain ⟨-, -, -, hdone⟩ := herase 0 [] strayErase
  obtain ⟨u, hu, -, -, -, hcount⟩ := hdone 5 rfl rfl
  rw [← Host.Outcome.next.inj (exec_strayErase.symm.trans hu)] at hcount
  exact absurd hcount (by unfold counted; decide +kernel)

end Sys2Proof.Machine
end

section
/-! SUPPORT. A write of a partition whose settings are a flash channel's counters (R311, R313); O34. -/

namespace Sys2Proof.Machine

/-- The partition whose QUOTA registers would be the counters of flash channel 0. -/
def counterPart : Nat := (fcP 0 + 0x80 - 0x9100) / 0x20

/-- A hart writes 64 zeros to unit 0 of tier 2, in space 3. -/
def strayWra : Req := { kind := .wra, part := counterPart, ctx := 8192, addr := BitVec.ofNat 64 (3 * 2 ^ 48), len := 64, reached := true }

/-- Unit 0 is in flash and holds ones; the count of codewords read is one below its greatest value, an even number, so the partition
is not UNIFIED; the line of the map entry of page 0 is poisoned. -/
def strayStage : State :=
  { State.reset with
    free := 0
    regs := ⟨[(fcP 0 + 0x80, BitVec.ofNat 64 (2 ^ 64 - 2)), (0x61040 + counterPart * 8, 16), (partSlice counterPart 3, 1)]⟩
    force := ⟨[(0x61040 + counterPart * 8, 16), (partSlice counterPart 3, 1)]⟩
    memBad := ⟨[(0, true)]⟩
    reqs := ⟨[(0, some strayWra)]⟩
    arc := ⟨[(counterPart, {
      formatted := true, mounted := true, map := ⟨[(0, 1)]⟩, mapLines := [0]
      cws := ⟨[(0, some ⟨0, 1, 0, List.replicate 4096 1⟩)]⟩ })]⟩ }


/-- Line 0 of unit 0 has come to the Archive Controller. -/
def straySeen : State := ({ strayStage.t2Seen counterPart with free := 1 } : State)

/-- Its unit's codeword is read with the outcome `q`; `b` is whether a hard decision corrected a bit. -/
def strayFetched (q : CwOutcome) (b : Bool) : State :=
  let s := { straySeen with free := 2 }
  match q with
  | .hard => ({ (s.fcRead 0 1).bump (arcCnt counterPart 0x28) 0 with free := 3 } : State).bump (fcP 0 + 0x98) (if b then 1 else 0)
  | q => s.flashRead counterPart 0 q

/-- The unit is to be written: one that nothing recovers is staged as poison first. -/
def counterFilled (q : CwOutcome) (b : Bool) : State :=
  if q = .lost then
    ((strayFetched q b).reportLoc counterPart (some (.arch 0))).modNs counterPart (fun n =>
      let m := n.stage 0 0 [] false straySeen.clk (straySeen.stageRoom counterPart 0)
      { m with staging := m.staging.map (fun x => if x.lu = 0 then { x with bad := true } else x) })
  else strayFetched q b

/-- The line is written to where its address lies by then. -/
def strayWritten (s : State) : State :=
  let s1 := s.writeLine counterPart (strayWra.lineAddr 0) (zeros 64) false
  ((if s1.mapBad counterPart (strayWra.lineAddr 0) then s1.failMap strayWra else s1).setReq 0
    (some { strayWra with lines := Tab.set (fun _ => false) strayWra.lines 0 true })).fillStripes counterPart false

/-- The read has made the partition UNIFIED, its map entry is poisoned, and the line is not written. -/
theorem strayWritten_unit (q : CwOutcome) (b : Bool) :
    (((strayWritten (counterFilled q b)).ns counterPart).unit 0).1.getD 0 0 = 1 := by
  rcases q with _ | n | _ | _
  · revert b; decide
  · revert n b; decide
  · revert b; decide +kernel
  · revert b; decide +kernel

theorem straySeen_fetchUnit : ∃ q b, straySeen.fetchUnit counterPart 0 = (strayFetched q b, decide (q = .lost)) := by
  have hformatted : (straySeen.ns counterPart).formatted = true := rfl
  have hlook : straySeen.mapLook counterPart 0 = straySeen := by
    have hloading : (straySeen.ns counterPart).loading = false := rfl
    have hline : (straySeen.ns counterPart).mapLines.contains (0 / 16) = true := rfl
    unfold State.mapLook
    dsimp only
    rw [hloading, hline]
    rfl
  obtain ⟨cw, hcw⟩ : ∃ cw, (straySeen.ns counterPart).cw 0 = some cw := Option.isSome_iff_exists.1 rfl
  have hmap : Tab.get (fun _ => 0) (straySeen.ns counterPart).map 0 = 1 := rfl
  have hread (q : CwOutcome) : ∃ b, ({ straySeen with free := 2 } : State).flashRead counterPart 0 q = strayFetched q b := by
    cases q with
    | hard => exact ⟨Config.freeBit _, rfl⟩
    | retried | rebuilt | lost => exact ⟨false, rfl⟩
  obtain ⟨b, hb⟩ := hread (freeOutcome straySeen.free)
  refine ⟨freeOutcome straySeen.free, b, ?_⟩
  rw [State.fetchUnit, hformatted]
  dsimp only
  rw [hlook, hcw, hmap]
  exact congrArg (·, _) hb

theorem straySeen_fillAt : ∃ q b, straySeen.fillAt counterPart (strayWra.lineAddr 0) 64 0 = counterFilled q b := by
  obtain ⟨q, b, hfetch⟩ := straySeen_fetchUnit
  have hwhere : straySeen.locate counterPart (addA (strayWra.lineAddr 0) (4096 * 0 - aOff (strayWra.lineAddr 0))) = some (.arch 0) := by
    rfl
  have htakes : (!(straySeen.ns counterPart).takesWrite || (straySeen.ns counterPart).isStaged 0) = false := rfl
  refine ⟨q, b, ?_⟩
  rw [State.fillAt, if_neg (by decide), hwhere]
  dsimp only
  rw [Nat.zero_div, htakes, hfetch, counterFilled]
  by_cases hlost : q = .lost
  · simp only [hlost, decide_true, if_true, Bool.false_eq_true, if_false]
  · simp only [hlost, decide_false, if_false, Bool.false_eq_true]

theorem exec_strayStage_stages : exec (.archiveWrite 0 0) strayStage =
    .next (((strayStage.t2Seen counterPart).writeReqLine 0 strayWra 0).fillStripes counterPart false) := by
  have hreach : strayStage.reach 0 = strayStage := rfl
  have hreq : strayStage.req 0 = some strayWra := rfl
  have hseen : (strayStage.t2Seen counterPart).req 0 = some strayWra := rfl
  have hpart : strayWra.part = counterPart := rfl
  have hplace : strayStage.locate counterPart (strayWra.lineAddr 0) = some (.arch 0) := rfl
  have hlines : strayWra.lineGroup 0 = [0] := rfl
  have hbegun : (strayStage.unitsBegun strayWra [0]).foldl (fun s l => s.countDrops counterPart (strayWra.lineAddr l) 1) strayStage =
      strayStage := by
    have hunits : strayStage.unitsBegun strayWra [0] = [0] := rfl
    have htakes : (!(strayStage.ns counterPart).takesWrite) = false := rfl
    rw [hunits, List.foldl_cons, List.foldl_nil, State.countDrops, hplace]
    dsimp only
    rw [htakes]
    rfl
  change execArchiveWrite 0 0 strayStage = _
  rw [execArchiveWrite, hreach, hreq]
  dsimp only
  rw [hpart, hplace]
  dsimp only
  rw [if_neg (by decide), if_neg (by decide), if_neg (by decide), hlines, hbegun, State.writeReqLines,
    List.foldl_cons, List.foldl_nil, hseen]

theorem exec_strayStage : ∃ q b, exec (.archiveWrite 0 0) strayStage = .next (strayWritten (counterFilled q b)) := by
  obtain ⟨q, b, hfill⟩ := straySeen_fillAt
  have hline : (strayStage.t2Seen counterPart).wraLine strayWra 0 = (0, zeros 64, false) := rfl
  have haddr : addA (strayWra.lineAddr 0) 0 = strayWra.lineAddr 0 := by decide
  have hlen : strayWra.storedEnd - strayWra.addr.toNat % 64 = 64 := by decide
  have hfirst : strayWra.addr.toNat % 64 = 0 := by decide
  have hunit : strayWra.lineUnitNo 0 = 0 := by decide
  have hpart : strayWra.part = counterPart := rfl
  have hlinear : straySeen.unified counterPart = false := rfl
  have htranslated : (straySeen.translateAll counterPart (strayWra.lineAddr 0) 1).countAccess counterPart (strayWra.lineAddr 0) 1 =
      straySeen := by
    rw [State.translateAll, hlinear, Bool.not_false, Bool.true_or, if_pos rfl, State.countAccess, hlinear]
    rfl
  refine ⟨q, b, ?_⟩
  rw [exec_strayStage_stages, State.writeReqLine, hline]
  dsimp only
  rw [haddr, hlen, hfirst, haddr, hpart, hunit]
  change Host.Outcome.next (strayWritten (((straySeen.translateAll counterPart (strayWra.lineAddr 0) 1).countAccess counterPart
    (strayWra.lineAddr 0) 1).fillAt counterPart (strayWra.lineAddr 0) 64 0)) = _
  rw [htranslated, hfill]

/-- Refutes O34: nothing bounds the partition of a request, so the setting that makes it UNIFIED can be the count of codewords read of a
flash channel; reading the unit that a line is written to then puts the line's address behind a poisoned map entry, and the line
is not written. -/
theorem not_archiveReadsAndWrites : ¬ Obligations.ArchiveReadsAndWrites := by
  intro h
  obtain ⟨hwrite, -⟩ := h 0 0 0 0 0 strayWra [] .hard strayStage
  obtain ⟨u, hu, -, -, hunit⟩ := hwrite rfl rfl rfl rfl rfl rfl rfl rfl rfl rfl rfl rfl rfl (by decide) List.length_replicate
    rfl rfl rfl
  obtain ⟨q, b, hexec⟩ := exec_strayStage
  have hbyte := hunit 0 (by decide)
  rw [← Host.Outcome.next.inj (hexec.symm.trans hu), if_pos (by decide)] at hbyte
  exact absurd ((strayWritten_unit q b).symm.trans hbyte) (by decide)

end Sys2Proof.Machine
end

section
/-! SUPPORT. A format whose request waits at the queue of a tier that does not exist (R221, R329); O36. -/

namespace Sys2Proof.Machine

/-- The tier number whose TIER_Tt_QWAIT_CNT of partition 0, counted from TIER_T0_QWAIT_CNT, would lie at the geometry of flash
channel 0. -/
def geometryTier : Nat := (fcP 0 + 0x40 - 0x9300) / 8

/-- The start of the UNIFIED space. -/
def formatAt : Word := 3 * 2 ^ 48

/-- A format of channel 0 with SPARE_PCT and OP_PCT as they are by default. -/
def strayFormat : List Byte := leBytes 4 1 ++ zeros 12

/-- Flash channel 0 has 15 targets of 7 LUNs and is partition 0's; the map of partition 0 puts extent 0 in `geometryTier`, where the
request is staged. -/
def formatHeld : State :=
  { State.reset with
    regs := ⟨[(fcP 0 + 0x40, 0xFFFFFFFFFFFFFFEF)]⟩
    force := ⟨[(qReg 0 0, 1), (qReg 0 2, 0x0000010000000000), (partSlice 0 4, 0x0000000100000000)]⟩
    parts := ⟨[(0, { losw := ⟨[(0, { req := formatAt })]⟩ })]⟩
    tierP := ⟨[(0, { ext := ⟨[(0, some (geometryTier, 0))]⟩ })]⟩
    arc := ⟨[(0, { formatted := true, staging := [{ lu := 0, data := strayFormat ++ zeros 4080, bad := false }] })]⟩ }

/-- The format is QUEUED. -/
def formatQueued : State :=
  (formatHeld.access (.pf .A)).modLosw 0 0 (fun l =>
    { l with op := 10, state := 1, error := 0, prog := 0, total := 0, part := 0xFFFFFFFF })

/-- The read of its request has waited for `k + 1` cycles, or for more where `k` is 15, and has counted them at the channel's
geometry: it has at least 16 targets. -/
def formatWaited (k : Fin 16) : State :=
  ({ formatQueued with free := formatQueued.free + 1 } : State).setReg (fcP 0 + 0x40) (BitVec.ofNat 64 (2 ^ 64 - 16 + k))

/-- A count 16 below its greatest value reaches it at the latest with the sixteenth cycle. -/
theorem State.waitCycles_near {s : State} {a : Nat} (h : (s.reg a).toNat = 2 ^ 64 - 17) : ∃ k : Fin 16,
    s.waitCycles a = ({ s with free := s.free + 1 } : State).setReg a (BitVec.ofNat 64 (2 ^ 64 - 16 + k)) := by
  have hmin (n : Nat) : min (2 ^ 64 - 1) (2 ^ 64 - 17 + (1 + n)) = 2 ^ 64 - 16 + min 15 n := by omega
  refine ⟨⟨min 15 (Config.freePick s.free), by omega⟩, ?_⟩
  change ({ s with free := s.free + 1 } : State).setReg a (BitVec.ofNat 64 (min (2 ^ 64 - 1) ((s.reg a).toNat + (1 + _)))) = _
  rw [h, hmin]

theorem formatQueued_waits : ∃ k, (formatQueued.awaitZero 0 formatAt 16).blockWaits 0 formatAt 16 = formatWaited k := by
  have hzero : formatQueued.awaitZero 0 formatAt 16 = formatQueued := rfl
  have hwaits : formatQueued.blockWaits 0 formatAt 16 = formatQueued.waitCycles (fcP 0 + 0x40) := rfl
  rw [hzero, hwaits]
  exact State.waitCycles_near rfl

/-- A format by the request may start, of 64 LUNs. -/
theorem slotRequest_formatHeld :
    let r := slotRequest formatHeld (.pf .A) 0 0 10 16
    r.2 = (strayFormat, false) ∧ r.1.coresOf 0 = [] ∧ r.1.flashOf 0 = [0] ∧ (r.1.ns 0).format = none ∧
      (r.1.lunIds 0).length * (r.1.fcGeom 0).2 * r.1.planes 0 = 64 * 65535 * 7 := by
  obtain ⟨k, hwaits⟩ := formatQueued_waits
  have hrequest : slotRequest formatHeld (.pf .A) 0 0 10 16 = formatQueued.devRead 0 formatAt 16 := rfl
  dsimp only
  rw [hrequest, State.devRead, State.readBy, State.readTo, hwaits]
  clear hwaits
  revert k
  decide +kernel

theorem mayStart_formatHeld : mayStart formatHeld (.pf .A) 0 0 := by
  unfold mayStart
  decide

theorem asks_formatHeld : asks formatHeld (.pf .A) 0 0 10 16 strayFormat :=
  ⟨rfl, rfl, slotRequest_formatHeld.1⟩

/-- Refutes O36: nothing bounds the tier that a partition's map names, so the wait counter of a read at a stray tier can lie at the
geometry of a flash channel; reading the request of a format then gives the channel more LUNs, and TOTAL counts those. -/
theorem not_discardFlushFormat : ¬ Obligations.DiscardFlushFormat := by
  intro h
  obtain ⟨-, -, -, hformat, -⟩ := h (.pf .A) 0 0 strayFormat formatHeld mayStart_formatHeld
  obtain ⟨-, -, hstart⟩ := hformat asks_formatHeld
  obtain ⟨-, hruns⟩ := hstart rfl (by decide) (by decide) (by decide) (by decide) (by decide) rfl
  obtain ⟨u, hu, -, htotal, -⟩ := hruns rfl
  obtain ⟨-, hcores, hflash, hidle, hluns⟩ := slotRequest_formatHeld
  have hbody := hu.symm.trans (congrArg Host.Outcome.next (lopStart_of_asks mayStart_formatHeld asks_formatHeld _))
  rw [Host.Outcome.next.inj hbody] at htotal
  dsimp only at htotal
  have hp : ((0 : PartId) : Nat) = 0 := rfl
  rw [hp, if_neg, if_neg, State.loswRun, State.modLosw_losw, hluns] at htotal
  · exact absurd htotal (by decide)
  · rw [hflash, hidle]
    decide
  · rw [hcores]
    decide

end Sys2Proof.Machine
end

section
/-! SUPPORT. What a COMMIT of a page leaves of its staged registers, page by page (R482); O39. -/

namespace Sys2Proof.Machine

/-! ### Staged values and ERR_STATUS (R476, R477, R482) -/

theorem State.applyStaged_get (s : State) (g : Page) (a : Nat) :
    Tab.get regReset (s.applyStaged g).force a = if a ∈ stagedKeys g then s.reg a else Tab.get regReset s.force a := by
  have hkeys (l : List Nat) (t : State) (ht : ∀ b, t.reg b = s.reg b) :
      Tab.get regReset (l.foldl (fun s a => s.setForce a (s.reg a)) t).force a = if a ∈ l then s.reg a else Tab.get regReset t.force a := by
    induction l generalizing t with
    | nil => rfl
    | cons b l ih =>
      rw [List.foldl_cons, ih (t.setForce b (t.reg b)) ht, State.setForce_get, ht]
      by_cases hl : a ∈ l
      · rw [if_pos hl, if_pos (List.mem_cons_of_mem _ hl)]
      · by_cases hb : a = b
        · rw [if_neg hl, if_pos hb, if_pos (by simp [hb]), hb]
        · rw [if_neg hl, if_neg hb, if_neg (by simp [hl, hb])]
  exact hkeys (stagedKeys g) s (fun _ => rfl)

/-- A message of MSI-X leaves the registers of the pages' headers. -/
theorem State.sendMsix_header (s : State) (k v : Nat) {a : Nat} (ha : a % 0x1000 = 0x10) : (s.sendMsix k v).reg a = s.reg a := by
  unfold State.sendMsix
  split
  · rw [State.setReg_reg, if_neg (by unfold msixPba viewP viewKey; omega)]
  · rw [State.bump_reg_other _ _ (by unfold viewP viewKey; omega)]
    rfl

theorem State.setErr_status (s : State) {base b : Nat} (hbase : base % 0x1000 = 0) (hb : b < 64) :
    ((s.setErr base b).reg (base + 0x10)).getLsbD b = true := by
  have hset : ((s.reg (base + 0x10) ||| (1#64 <<< b)).getLsbD b) = true := by
    simp [BitVec.getLsbD_or, BitVec.getLsbD_shiftLeft, hb, -BitVec.getLsbD_eq_getElem]
  have hirq (t : State) : (t.setIrq base 31).reg (base + 0x10) = t.reg (base + 0x10) := by
    rw [State.setIrq_unchanged (fun t => t.reg (base + 0x10)) (fun t k v => t.sendMsix_header k v (by omega)) (fun _ _ _ => rfl),
      State.setReg_reg, if_neg (by omega)]
  unfold State.setErr
  dsimp only
  split
  · rwa [State.setReg_reg, if_neg (by omega), State.setReg_reg_same]
  · rwa [hirq, State.setReg_reg, if_neg (by omega), State.setReg_reg_same]

/-- A refusal with bit `b` leaves what is staged staged. -/
theorem refusedWith_setErr (s : State) {g : Page} {b : Nat} (hbase : g.base % 0x1000 = 0) (hb : b < 64) :
    refusedWith s (s.setErr g.base b) g b := by
  refine ⟨fun a _ => ?_, State.setErr_status s hbase hb⟩
  rw [State.setErr_unchanged State.force State.setReg_force (fun _ _ => rfl) (fun _ _ _ => rfl)]

/-- A COMMIT whose following work leaves the staged registers of its page as they came into force. -/
theorem State.commit_does {s : State} {f : Fn} {g : Page} {check : State → Commit} {c : Commit} {after : State → State}
    (hbase : g.base % 0x1000 = 0) (hcheck : check s = c) (hsees : s.seesPage f g = true)
    (hafter : ∀ a ∈ stagedKeys g, ∀ t : State, Tab.get regReset (after t).force a = Tab.get regReset t.force a) :
    commitDoes s (.next (s.commit f g check after)) g c := by
  unfold State.commit
  rw [hcheck, hsees, if_neg (by decide)]
  cases c with
  | ok => exact ⟨_, rfl, fun a ha => by rw [hafter a ha, State.applyStaged_get, if_pos ha]⟩
  | notQuiesced => exact ⟨_, rfl, refusedWith_setErr s hbase (by decide)⟩
  | invalid => exact ⟨_, rfl, refusedWith_setErr s hbase (by decide)⟩

/-- The latch that an access discards is no part of what a COMMIT does. -/
theorem commitDoes_of_access {s : State} {f : Fn} {o : Outc} {g : Page} {c : Commit} (h : commitDoes (s.access f) o g c) :
    commitDoes s o g c := by
  cases c <;> exact h

/-! ### Pages whose values act from their register alone (R73, R136, R259, R333, R393) -/

section
variable {f : Fn} {s : State}

theorem exec_coreCommit_resetting {c : CoreId} (hsees : s.seesPage f ⟨.core, c, coreP c⟩ = true) (hreset : (s.core c).resetting = true) :
    completes (exec (.coreCommit f c) s) (fun u => refusedWith s u ⟨.core, c, coreP c⟩ 3) := by
  have hexec : exec (.coreCommit f c) s = .next ((s.access f).setErr (coreP c) 3) := by
    have h : ((s.access f).seesPage f ⟨.core, c, coreP c⟩ && ((s.access f).core c).resetting) = true :=
      Bool.and_eq_true_iff.2 ⟨hsees, hreset⟩
    change execCoreCommit f c s = _
    unfold execCoreCommit
    dsimp only
    rw [h, if_pos rfl]
  exact ⟨_, hexec, refusedWith_setErr (s.access f) (g := ⟨.core, c, coreP c⟩) (by simp only [coreP]; omega) (by decide)⟩

theorem exec_coreCommit {c : CoreId} (hsees : s.seesPage f ⟨.core, c, coreP c⟩ = true) (hreset : (s.core c).resetting = false) :
    commitDoes s (exec (.coreCommit f c) s) ⟨.core, c, coreP c⟩ (if s.quiesced ⟨.core, c, coreP c⟩ then .ok else .notQuiesced) := by
  have hexec : exec (.coreCommit f c) s = .next ((s.access f).commit f ⟨.core, c, coreP c⟩
      (fun s => if s.quiesced ⟨.core, c, coreP c⟩ then .ok else .notQuiesced) id) := by
    have h : ((s.access f).seesPage f ⟨.core, c, coreP c⟩ && ((s.access f).core c).resetting) = false :=
      Bool.and_eq_false_iff.2 (.inr hreset)
    change execCoreCommit f c s = _
    unfold execCoreCommit
    dsimp only
    rw [h, if_neg (by decide)]
  rw [hexec]
  exact commitDoes_of_access (State.commit_does (by simp only [coreP]; omega) rfl hsees (fun _ _ _ => rfl))

theorem exec_collatorCommit {c : CoreId} (hsees : s.seesPage f ⟨.collator, c, colP c⟩ = true) :
    commitDoes s (exec (.collatorCommit f c) s) ⟨.collator, c, colP c⟩ (if s.quiesced ⟨.collator, c, colP c⟩ = false then .notQuiesced
      else if ((List.range 64).map (fun l => s.reg (colP c + 0x200 + l * 8))).all goodList &&
        decide (listsUsed ((List.range 64).map (fun l => s.reg (colP c + 0x200 + l * 8))) ≤ 4096) then .ok else .invalid) := by
  have hquiesced : (!(s.access f).quiesced ⟨.collator, c, colP c⟩) = true ↔ s.quiesced ⟨.collator, c, colP c⟩ = false := by
    rw [Bool.not_eq_true']
    rfl
  exact commitDoes_of_access (State.commit_does (by simp only [colP, coreP]; omega) (if_congr hquiesced rfl rfl) hsees (fun _ _ _ => rfl))

theorem exec_expanderCommit {x : ExpId} (hsees : s.seesPage f (expPage x) = true) :
    commitDoes s (exec (.expanderCommit f x) s) (expPage x) (if s.rangesOk x then .ok else .invalid) := by
  have hbase : ∀ x : ExpId, (expPage x).base % 0x1000 = 0 := by decide
  exact commitDoes_of_access (State.commit_does (hbase x) rfl hsees (fun _ _ _ => rfl))

theorem exec_archiveCommit (hsees : s.seesPage f ⟨.archive, 1, 0x61000⟩ = true) :
    commitDoes s (exec (.archiveCommit f) s) ⟨.archive, 1, 0x61000⟩ (if (List.range 16).all (fun p =>
      let new := fld (s.reg (0x61040 + p * 8)) 0 13
      decide (16 ≤ new ∧ new ≤ 4096 ∧ (new = fld (s.inForce (0x61040 + p * 8)) 0 13 ∨ s.coresOf p = []) ∧
        (s.flashOf p = [] ∨ s.quota p 1 + s.arcReserve p new ≤ sumNat ((s.chansOf p).map s.chanCap)))) then .ok else .invalid) := by
  refine commitDoes_of_access (State.commit_does (by decide) (if_congr ?_ rfl rfl) hsees (fun _ _ _ => rfl))
  rw [List.all_eq_true, List.all_eq_true]
  refine forall₂_congr fun p _ => ?_
  simp only [Bool.and_eq_true, Bool.or_eq_true, decide_eq_true_eq, and_assoc]
  rfl

theorem exec_hostCommit {b : HPort} (hsees : s.seesPage (.pf b) ⟨.host, portIdx b, viewP (1 + portIdx b)⟩ = true) :
    commitDoes s (exec (.hostCommit (.pf b)) s) ⟨.host, portIdx b, viewP (1 + portIdx b)⟩ (if s.bindOk (portIdx b) then .ok else .invalid) :=
  commitDoes_of_access (State.commit_does (by simp only [viewP, viewKey]; omega) rfl hsees (fun _ _ _ => rfl))

/-! ### Pages whose blocks read memory or change the operations under way (R237, R283, R303, R360, R429) -/

theorem State.newMap_force (s : State) (p : Nat) : (s.newMap p).force = s.force := by
  unfold State.newMap
  extract_lets u
  refine (foldl_unchanged State.force (fun s g => ?_) _ _).trans (State.modTp_force ..)
  split <;> rfl

theorem exec_tierCommit (hsees : s.seesPage f ⟨.tier, 0, 0x9000⟩ = true) :
    commitDoes s (exec (.tierCommit f) s) ⟨.tier, 0, 0x9000⟩ (if (List.range 16).all (tierOk s) then .ok else .invalid) := by
  refine commitDoes_of_access (State.commit_does (by decide) rfl hsees (fun a _ t => ?_))
  rw [foldl_unchanged State.force State.newMap_force]

theorem State.carHead_force (s : State) (m : Nat) : (s.carHead m).force = s.force := by
  unfold State.carHead
  split
  · rfl
  · dsimp only
    split
    · rw [State.modCar_force, State.devRead_force]
    · rfl

theorem exec_carrelCommit {m : ModId} (hsees : s.seesPage f ⟨.carrel, m, carP m⟩ = true) (hcar : s.isCarrel m = true) :
    commitDoes s (exec (.carrelCommit f m) s) ⟨.carrel, m, carP m⟩ (if (s.car m).run ≠ none then .notQuiesced
      else if decide (6 ≤ fld (s.reg (carP m + 0x48)) 8 5 ∧ fld (s.reg (carP m + 0x48)) 8 5 ≤ 16 ∧
        4 ≤ fld (s.reg (carP m + 0x48)) 16 5 ∧ fld (s.reg (carP m + 0x48)) 16 5 ≤ 16) then .ok else .invalid) := by
  have hthere : (!(s.access f).isCarrel m) = false := by
    have h : (s.access f).isCarrel m = true := hcar
    rw [h]
    rfl
  change commitDoes s (execCarrelCommit f m s) _ _
  unfold execCarrelCommit
  dsimp only
  rw [hthere, if_neg (by decide)]
  refine commitDoes_of_access (State.commit_does (by simp only [carP, mcP]; omega) rfl hsees (fun a _ t => ?_))
  split
  · rfl
  · rw [State.carHead_force]

theorem exec_guCommit {g : GuId} (hsees : s.seesPage f ⟨.gu, g, guP g⟩ = true) :
    commitDoes s (exec (.guCommit f g) s) ⟨.gu, g, guP g⟩ (if s.guOk g then .ok else .invalid) := by
  refine commitDoes_of_access (State.commit_does (by simp only [guP]; omega) rfl hsees (fun a _ t => ?_))
  refine congrArg (fun w => Tab.get regReset w a) (foldl_unchanged State.force (fun t p => ?_) _ t)
  extract_lets aborted t1 a r
  have hended : t1.force = t.force := by
    have haborted : aborted.force = t.force := by
      simp only [aborted]
      split <;> rfl
    simp only [t1]
    split
    · exact haborted
    · rfl
  clear_value t1
  split
  · rw [State.modGu_force, State.devRead_force, hended]
  · exact hended

theorem State.ringHeader_force (s : State) (p : Nat) (base : Word) : (s.ringHeader p base).force = s.force := by
  unfold State.ringHeader
  split
  · dsimp only
    rw [State.modLp_force, State.devRead_force]
  · rfl

theorem exec_linkCommit (hsees : s.seesPage f ⟨.link, 0, 0x90000⟩ = true) :
    commitDoes s (exec (.linkCommit f) s) ⟨.link, 0, 0x90000⟩ (if (List.range 16).all (fun p =>
      decide (6 ≤ fld (s.reg (tlRing p + 8)) 8 5 ∧ fld (s.reg (tlRing p + 8)) 8 5 ≤ 16)) then .ok else .invalid) := by
  refine commitDoes_of_access (State.commit_does (by decide) rfl hsees (fun a _ t => ?_))
  refine congrArg (fun w => Tab.get regReset w a) (foldl_unchanged State.force (fun t p => ?_) _ t)
  dsimp only
  split
  · rfl
  · exact State.ringHeader_force ..

theorem State.noteCore_force (s : State) (c : Nat) : (s.noteCore c).force = s.force := by
  unfold State.noteCore
  split <;> rfl

theorem exec_powerCommit (hsees : s.seesPage f powPage = true) : commitDoes s (exec (.powerCommit f) s) powPage s.powerCheck := by
  refine commitDoes_of_access (State.commit_does (by decide) rfl hsees (fun a _ t => ?_))
  refine congrArg (fun w => Tab.get regReset w a) ((foldl_unchanged State.force State.noteCore_force _ _).trans ?_)
  exact foldl_unchanged State.force (by intros; rfl) _ t

end

/-! ### PART_COMMIT (R63, R282, R393) -/

theorem State.freeGroup_force (s : State) (c g : Nat) : (s.freeGroup c g).force = s.force :=
  foldl_unchanged State.force (by intros; rfl) _ s

theorem State.groupEnded_force (s : State) (c g : Nat) : (s.groupEnded c g).force = s.force := by
  rw [State.groupEnded, State.freeGroup_force]
  rfl

theorem State.stopCore_force (s : State) (c : Nat) : (s.stopCore c).force = s.force := by
  have hgroups : (s.groupsEnded c).force = s.force :=
    foldl_unchanged State.force (fun s g => s.groupEnded_force c g) _ s
  rw [State.stopCore_eq, State.setField, State.setReg_force, State.setField, State.setReg_force]
  exact hgroups

theorem State.zeroRegs_force (s : State) (l : List Nat) : (s.zeroRegs l).force = s.force :=
  foldl_unchanged State.force (fun s a => s.setReg_force a 0) l s

/-- A change of owner of a core touches only the list configurations of the core's own Collator. -/
theorem State.ownerChange_force (s : State) (c : Nat) {a : Nat} (ha : a < 0x100000) :
    Tab.get regReset (s.ownerChange c).force a = Tab.get regReset s.force a := by
  unfold State.ownerChange
  extract_lets s1 s2
  have hstopped : s1.force = s.force := (State.zeroRegs_force ..).trans (s.stopCore_force c)
  have hlists : Tab.get regReset s2.force a = Tab.get regReset s1.force a := by
    refine foldl_unchanged (fun t : State => Tab.get regReset t.force a) (fun t l => ?_) (List.range 64) s1
    dsimp only
    rw [State.setForce_get, if_neg (by unfold colP coreP; omega), State.setField, State.setReg_force]
  rw [State.modCore, State.setCore_force, hlists, hstopped]

theorem State.coreGate_force (s : State) (c : Nat) (free : Bool) : (s.coreGate c free).force = s.force := State.noteCore_force ..

theorem State.coreMoved_force (s : State) (c : Nat) {a : Nat} (ha : a < 0x100000) :
    Tab.get regReset (s.coreMoved c).force a = Tab.get regReset s.force a := by
  rw [State.coreMoved, State.coreGate_force]
  exact State.ownerChange_force s c ha

theorem State.carStopped_force (s : State) (m p : Nat) (c : CarCmd) : (s.carStopped m p c).1.force = s.force := by
  unfold State.carStopped
  split
  · rfl
  · extract_lets v pick k sc fi s1 s2
    simp only [s2, s1, State.bump_force]
    rfl

theorem State.chanMoved_force (s : State) (m : Nat) (old : Option Nat) : (s.chanMoved m old).force = s.force := by
  unfold State.chanMoved
  split
  · rfl
  · rw [State.modCar_force]
    unfold State.carReset
    dsimp only
    rw [State.setField, State.setReg_force, State.modCar_force]
    split
    · rw [State.modCar_force, State.carStopped_force]
    · rfl

theorem State.nsLost_force (s : State) (p : Nat) : (s.nsLost p).force = s.force :=
  (State.modNs_force ..).trans (foldl_unchanged State.force (by intros; rfl) _ s)

theorem State.partApply_force (t s : State) {a : Nat} (ha : a < 0x100000) :
    Tab.get regReset (State.partApply t s).force a = Tab.get regReset s.force a := by
  refine (congrArg (fun w => Tab.get regReset w a) (foldl_unchanged State.force (fun s p => ?_) (List.range 16) _)).trans ?_
  · extract_lets s4
    have hlost : s4.force = s.force := by
      simp only [s4]
      split
      · rfl
      · exact State.nsLost_force s p
    split
    · exact hlost
    · exact hlost
  refine (congrArg (fun w => Tab.get regReset w a) (foldl_unchanged State.force (fun s m => ?_) (List.range 12) _)).trans ?_
  · split
    · rfl
    · exact State.chanMoved_force ..
  refine (congrArg (fun w => Tab.get regReset w a) (foldl_unchanged State.force (fun s i => ?_) (List.range 60) _)).trans ?_
  · split <;> rfl
  · refine foldl_unchanged (fun t : State => Tab.get regReset t.force a) (fun s c => ?_) (List.range 144) s
    split
    · rfl
    · rw [State.coreMoved_force s c ha]

section
variable {f : Fn} {s : State}

theorem partPage_low {a : Nat} (ha : a ∈ stagedKeys partPage) : a < 0x100000 := by
  have hpage : ∀ a ∈ stagedKeys partPage, a / 0x1000 = 0xD := by decide +kernel
  have := hpage a ha
  omega

theorem State.access_sliceBad (s : State) (f : Fn) : (s.access f).sliceBad = s.sliceBad := by
  have hnew : (s.access f).sliceNew = s.sliceNew := rfl
  have hslice : (s.access f).slice = s.slice := rfl
  have hcores : (s.access f).coresOf = s.coresOf := rfl
  have hfails : (s.access f).pieceFails = s.pieceFails := rfl
  have hstate : (s.access f).partState = s.partState := rfl
  have hin : (s.access f).inAlloc = s.inAlloc := rfl
  have halloc : (s.access f).hasAlloc = s.hasAlloc := by
    funext p
    rw [State.hasAlloc, State.hasAlloc, hin]
  funext p
  simp only [State.sliceBad, hnew, hslice, hcores, hfails, hstate, hin, halloc]

theorem State.access_partCheck (s : State) (f : Fn) : (s.access f).partCheck = s.partCheck := by
  have hnew : (s.access f).sliceNew = s.sliceNew := rfl
  have howner : (s.access f).coreOwner = s.coreOwner := rfl
  have hbusy : (s.access f).coreBusy = s.coreBusy := rfl
  rw [State.partCheck, State.partCheck, State.access_sliceBad, hnew, howner, hbusy]

theorem exec_partCommit (hsees : s.seesPage f partPage = true) : commitDoes s (exec (.partCommit f) s) partPage s.partCheck := by
  have hexec : exec (.partCommit f) s = .next ((s.access f).commit f partPage State.partCheck (State.partApply (s.access f))) := rfl
  rw [hexec]
  refine commitDoes_of_access (State.commit_does ?_ ?_ hsees ?_)
  · decide
  · exact s.access_partCheck f
  · exact fun a ha t => State.partApply_force (s.access f) t (partPage_low ha)

/-! ### The barrier contexts (R405, R408) -/

theorem State.readUnit_deskSide (s : State) (p lu : Nat) : (s.readUnit p lu).1.deskSide = s.deskSide := by
  unfold State.readUnit
  dsimp only
  split <;> simp

theorem State.readUnits_deskSide (s : State) (p : Nat) (a : Word) (n : Nat) : (s.readUnits p a n).1.deskSide = s.deskSide := by
  unfold State.readUnits
  split
  · rfl
  · refine (foldl_unchanged (fun x : State × List Nat => x.1.deskSide) (fun x u => State.readUnit_deskSide ..) _ _).trans ?_
    simp [State.t2Seen]

theorem State.reportLine_deskSide (s : State) (p : Nat) (a : Word) (first : Bool) : (s.reportLine p a first).deskSide = s.deskSide := by
  unfold State.reportLine
  split
  · rfl
  · split
    · split
      · simp
      · rfl
    · simp

theorem State.readBy_deskSide (s : State) (p : Nat) (a : Word) (n : Nat) : (s.readBy p a n).1.deskSide = s.deskSide := by
  have hread : (s.readTo p a n).1.deskSide = s.deskSide := by
    rw [State.readTo, State.readUnits_deskSide]
    simp
  unfold State.readBy
  extract_lets t s0 r s1 lost bad
  have hcount : s1.deskSide = s.deskSide := (State.countAccess_deskSide ..).trans hread
  split
  · refine Eq.trans ?_ ((foldl_unchanged State.deskSide (fun s l => s.reportLine_deskSide p (addA a (l * 64 - aOff a)) (decide (l = aOff a / 64))) bad s1).trans hcount)
    simp [State.poisonRead]
  · exact hcount

theorem State.barWrite_deskSide (s : State) (b off : Nat) (bs : List Byte) : (s.barWrite b off bs).deskSide = s.deskSide := by
  unfold State.barWrite
  split
  · simp
  · rfl

theorem State.sendCtl_deskSide (s : State) (q : Nat) (bs : List Byte) : (s.sendCtl q bs).deskSide = s.deskSide := by
  unfold State.sendCtl
  split
  · simp
  · rfl

theorem State.barSignal_deskSide (s : State) (b : Nat) : (s.barSignal b).deskSide = s.deskSide := by
  unfold State.barSignal
  split
  · rfl
  · dsimp only
    split
    · rw [State.gsig_deskSide, State.readBy_deskSide]
    · exact State.readBy_deskSide ..

/-- An abort writes tier bytes, sends its message, signals, and counts in RC_ABORT_CNT. -/
theorem State.barAbort_reg (s : State) (b : Nat) (but : Option Nat) {a : Nat} (hlow : a < 0x8430) : (s.barAbort b but).reg a = s.reg a := by
  unfold State.barAbort
  split
  · rfl
  · extract_lets g s1 ps s2
    have hsent : s2.deskSide = s.deskSide :=
      (foldl_unchanged State.deskSide (fun s q => s.sendCtl_deskSide ..) ps s1).trans (s.barWrite_deskSide ..)
    have hreg : (s2.barSignal b).reg a = s.reg a := State.reg_of_deskSide ((State.barSignal_deskSide ..).trans hsent) (by omega)
    rw [State.bump_reg_other _ _ (by omega)]
    exact hreg

theorem exec_rollcallCommit (hsees : s.seesPage f rcPage = true) :
    commitDoes s (exec (.rollcallCommit f) s) rcPage (if s.rcOk then .ok else .invalid) := by
  have hlow : ∀ a ∈ stagedKeys rcPage, a < 0x8430 := by decide +kernel
  have hsees' : (s.access f).seesPage f rcPage = true := hsees
  have hok : (s.access f).rcOk = s.rcOk := rfl
  change commitDoes s (execRollcallCommit f s) _ _
  unfold execRollcallCommit
  extract_lets s0 bs s1 s2
  have hs1 (a : Nat) (ha : a ∈ stagedKeys rcPage) : s1.reg a = s.reg a :=
    foldl_unchanged (fun s : State => s.reg a) (fun s b => s.barAbort_reg b none (hlow a ha)) bs s0
  have hstaged (a : Nat) (ha : a ∈ stagedKeys rcPage) : Tab.get regReset s2.force a = s.reg a := by
    rw [State.applyStaged_get, if_pos ha, hs1 a ha]
  clear_value s2
  rw [hsees', if_neg (by decide), hok]
  cases s.rcOk with
  | true => exact ⟨_, rfl, hstaged⟩
  | false => exact ⟨_, rfl, refusedWith_setErr s0 (g := rcPage) (by decide) (by decide)⟩

/-! ### The ports (R356, R361) -/

theorem tpP_aligned (q : Nat) : tpP q % 0x1000 = 0 := by unfold tpP; omega

theorem State.setVcOwner_force (s : State) (q v b : Nat) {a : Nat} (ha : a ≠ tpP q + 0x48) :
    Tab.get regReset (s.setVcOwner q v b).force a = Tab.get regReset s.force a := by
  rw [State.setVcOwner, State.modPort_force, State.setForce_get, if_neg ha]

theorem State.gclLoad_force (s : State) (q : Nat) (l : List Word) : (s.gclLoad q l).force = s.force := by
  rw [State.gclLoad, State.modPort_force]
  exact foldl_unchanged State.force (fun s e => s.setReg_force ..) (List.range 64) s

/-- The buckets of channel `v` after a COMMIT: full where their parameters have changed. -/
def State.levelSet (was : State) (q : Nat) (s : State) (v : Nat) : State := s.modPort q (fun x => { x with
    shape := if s.inForce (shapeA q v) &&& 0xFFFFFFFFFFFF = was.inForce (shapeA q v) &&& 0xFFFFFFFFFFFF then x.shape
      else setLvl x.shape v (bktBurst (s.inForce (shapeA q v)))
    police := if s.inForce (policeA q v) &&& 0xFFFFFFFFFFFF = was.inForce (policeA q v) &&& 0xFFFFFFFFFFFF then x.police
      else setLvl x.police v (bktBurst (s.inForce (policeA q v))) })

/-- The owner of channel `v` after a COMMIT of the owners `new`: at once, or once a busy data channel is idle. -/
def State.ownerStep (was : State) (q : Nat) (new : Word) (s : State) (v : Nat) : State :=
  if fld (was.inForce (tpP q + 0x48)) (8 * v) 8 = fld new (8 * v) 8 then s
  else if v < 5 && was.vcBusy q v then
    s.modPort q (fun x => { x with ownWait := Tab.set (fun _ => none) x.ownWait v (some (fld new (8 * v) 8)) })
  else s.setVcOwner q v (fld new (8 * v) 8)

/-- A COMMIT of a port but for its gate list. -/
def State.ownersSet (s : State) (q : Nat) (was : State) : State :=
  let s1 := (List.range 8).foldl (State.levelSet was q) s
  (List.range 8).foldl (State.ownerStep was q (s1.reg (tpP q + 0x48))) (s1.setForce (tpP q + 0x48) (was.inForce (tpP q + 0x48)))

/-- The gate list that a COMMIT of a port takes. -/
def State.gateList (s : State) (q : Nat) : List Word :=
  (List.range (max 1 (min 64 (fld (s.reg (tpP q + 0x50)) 1 7)))).map (fun e => s.reg (tpP q + 0x200 + 8 * e))

theorem State.portCommitted_eq (s : State) (q : Nat) (was : State) : s.portCommitted q was =
    if (s.ownersSet q was).gatesOn q then (s.ownersSet q was).modPort q (fun x => { x with gclWait := some ((s.ownersSet q was).gateList q) })
    else (s.ownersSet q was).gclLoad q ((s.ownersSet q was).gateList q) := rfl

theorem State.levelSet_reg (was : State) (q : Nat) (s : State) (v a : Nat) : (State.levelSet was q s v).reg a = s.reg a := rfl
theorem State.levelSet_force (was : State) (q : Nat) (s : State) (v : Nat) : (State.levelSet was q s v).force = s.force := rfl

theorem State.ownerStep_reg (was : State) (q : Nat) (new : Word) (s : State) (v a : Nat) : (State.ownerStep was q new s v).reg a = s.reg a := by
  unfold State.ownerStep
  split
  · rfl
  · split <;> rfl

/-- An owner that is put in force, or waits, is a field of the port's owner register. -/
theorem State.ownerStep_force (was : State) (q : Nat) (new : Word) (s : State) (v : Nat) {a : Nat} (ha : a ≠ tpP q + 0x48) :
    Tab.get regReset (State.ownerStep was q new s v).force a = Tab.get regReset s.force a := by
  unfold State.ownerStep
  split
  · rfl
  · split
    · rfl
    · exact State.setVcOwner_force _ _ _ _ ha

theorem State.ownersSet_force (s : State) (q : Nat) (was : State) {a : Nat} (ha : a ≠ tpP q + 0x48) :
    Tab.get regReset (s.ownersSet q was).force a = Tab.get regReset s.force a := by
  have hlevels (l : List Nat) : (l.foldl (State.levelSet was q) s).force = s.force :=
    foldl_unchanged State.force (State.levelSet_force was q) l s
  have howners (new : Word) (l : List Nat) (t : State) :
      Tab.get regReset (l.foldl (State.ownerStep was q new) t).force a = Tab.get regReset t.force a :=
    foldl_unchanged (fun t : State => Tab.get regReset t.force a) (fun t v => State.ownerStep_force was q new t v ha) l t
  rw [State.ownersSet, howners, State.setForce_get, if_neg ha, hlevels]

theorem State.ownersSet_reg (s : State) (q : Nat) (was : State) (a : Nat) : (s.ownersSet q was).reg a = s.reg a := by
  have hlevels (l : List Nat) : (l.foldl (State.levelSet was q) s).reg a = s.reg a :=
    foldl_unchanged (fun t : State => t.reg a) (fun t v => State.levelSet_reg was q t v a) l s
  have howners (new : Word) (l : List Nat) (t : State) : (l.foldl (State.ownerStep was q new) t).reg a = t.reg a :=
    foldl_unchanged (fun t : State => t.reg a) (fun t v => State.ownerStep_reg was q new t v a) l t
  have hforce (t : State) (k : Nat) (w : Word) : (t.setForce k w).reg a = t.reg a := rfl
  simp only [State.ownersSet, howners, hforce, hlevels]

/-- A gate list in force lies behind the staged one. -/
theorem State.gclLoad_reg (s : State) (q : Nat) (l : List Word) {a : Nat} (ha : a < tpP q + 0x400) : (s.gclLoad q l).reg a = s.reg a := by
  have hfold (t : State) (g : Nat → Word) (es : List Nat) : (es.foldl (fun s e => s.setReg (tpP q + 0x400 + 8 * e) (g e)) t).reg a = t.reg a :=
    foldl_unchanged (fun t : State => t.reg a) (fun t e => by rw [State.setReg_reg, if_neg (by omega)]) es t
  unfold State.gclLoad
  generalize List.range 64 = es
  exact hfold s _ es

/-- Owners and gate list wait for their boundaries; every other value of page 0 of a port is in force. -/
theorem State.portCommitted_force (s : State) (q : Nat) (was : State) {a : Nat} (ha : a ≠ tpP q + 0x48) :
    Tab.get regReset (s.portCommitted q was).force a = Tab.get regReset s.force a := by
  rw [State.portCommitted_eq, ← State.ownersSet_force s q was ha]
  split
  · rw [State.modPort_force]
  · rw [State.gclLoad_force]

theorem State.portCommitted_reg (s : State) (q : Nat) (was : State) {a : Nat} (ha : a < tpP q + 0x400) :
    (s.portCommitted q was).reg a = s.reg a := by
  rw [State.portCommitted_eq, ← State.ownersSet_reg s q was a]
  split
  · rfl
  · rw [State.gclLoad_reg _ _ _ ha]

/-- A register whose staged value is what it holds is in force as it stands. -/
theorem State.inForce_of_force {u : State} {a : Nat} {w : Word} (hreg : u.reg a = w) (hforce : Tab.get regReset u.force a = w) :
    u.inForce a = w := by
  rw [State.inForce_eq, hreg, hforce, ← BitVec.and_or_distrib_left, BitVec.not_or_self, BitVec.and_allOnes]

theorem State.applyStaged_reg (s : State) (g : Page) (a : Nat) : (s.applyStaged g).reg a = s.reg a :=
  foldl_unchanged (fun t : State => t.reg a) (fun _ _ => by rfl) _ s

theorem bucket_staged : ∀ q : PortId, ∀ v, v < 8 → shapeA q v ∈ stagedKeys ⟨.tp, 2 * q, tpP q⟩ ∧ policeA q v ∈ stagedKeys ⟨.tp, 2 * q, tpP q⟩ := by
  decide +kernel

section
variable {q : PortId} (hsees : s.seesPage f ⟨.tp, 2 * q, tpP q⟩ = true)
include hsees

theorem exec_portCommit_busy (hbusy : s.portBusy q = true) :
    completes (exec (.portCommit f q) s) (fun u => refusedWith s u ⟨.tp, 2 * q, tpP q⟩ 3) := by
  have h : ((s.access f).seesPage f ⟨.tp, 2 * q, tpP q⟩ && (s.access f).portBusy q) = true := Bool.and_eq_true_iff.2 ⟨hsees, hbusy⟩
  change completes (execPortCommit f q s) _
  unfold execPortCommit
  dsimp only
  rw [h, if_pos rfl]
  exact ⟨_, rfl, refusedWith_setErr (s.access f) (g := ⟨.tp, 2 * q, tpP q⟩) (tpP_aligned q) (by decide)⟩

variable (hfree : s.portBusy q = false)
include hfree

theorem exec_portCommit : exec (.portCommit f q) s = .next (if (List.range 8).all (fun v => decide (256 ≤ fld (s.reg (shapeA q v)) 24 24 ∧
      256 ≤ fld (s.reg (policeA q v)) 24 24)) then ((s.access f).applyStaged ⟨.tp, 2 * q, tpP q⟩).portCommitted q (s.access f)
    else (s.access f).setErr (tpP q) 1) := by
  have h : ((s.access f).seesPage f ⟨.tp, 2 * q, tpP q⟩ && (s.access f).portBusy q) = false := Bool.and_eq_false_iff.2 (.inr hfree)
  have hsees' : (s.access f).seesPage f ⟨.tp, 2 * q, tpP q⟩ = true := hsees
  change execPortCommit f q s = _
  unfold execPortCommit
  dsimp only
  rw [h, if_neg (by decide), State.commit, hsees', if_neg (by decide)]
  by_cases hok : (List.range 8).all (fun v => decide (256 ≤ fld (s.reg (shapeA q v)) 24 24 ∧ 256 ≤ fld (s.reg (policeA q v)) 24 24)) = true
  · rw [if_pos hok]
    have hok' : (List.range 8).all (fun v => decide (256 ≤ fld ((s.access f).reg (shapeA q v)) 24 24 ∧
      256 ≤ fld ((s.access f).reg (policeA q v)) 24 24)) = true := hok
    rw [if_pos hok']
  · rw [if_neg hok]
    have hok' : ¬(List.range 8).all (fun v => decide (256 ≤ fld ((s.access f).reg (shapeA q v)) 24 24 ∧
      256 ≤ fld ((s.access f).reg (policeA q v)) 24 24)) = true := hok
    rw [if_neg hok']

theorem portCommit_refused (hlow : ∃ v, v < 8 ∧ (fld (s.reg (shapeA q v)) 24 24 < 256 ∨ fld (s.reg (policeA q v)) 24 24 < 256)) :
    completes (exec (.portCommit f q) s) (fun u => refusedWith s u ⟨.tp, 2 * q, tpP q⟩ 1) := by
  refine ⟨_, exec_portCommit hsees hfree, ?_⟩
  rw [if_neg]
  · exact refusedWith_setErr (s.access f) (g := ⟨.tp, 2 * q, tpP q⟩) (tpP_aligned q) (by decide)
  · obtain ⟨v, hv, hbad⟩ := hlow
    intro hall
    have hgood := of_decide_eq_true (List.all_eq_true.1 hall v (List.mem_range.2 hv))
    omega

theorem portCommit_accepted (hok : ∀ v, v < 8 → 256 ≤ fld (s.reg (shapeA q v)) 24 24 ∧ 256 ≤ fld (s.reg (policeA q v)) 24 24) :
    completes (exec (.portCommit f q) s) (fun u => ∀ v, v < 8 → u.inForce (shapeA q v) = s.reg (shapeA q v) ∧
      u.inForce (policeA q v) = s.reg (policeA q v)) := by
  refine ⟨_, exec_portCommit hsees hfree, fun v hv => ?_⟩
  obtain ⟨hshape, hpolice⟩ := bucket_staged q v hv
  have hall : (List.range 8).all (fun v => decide (256 ≤ fld (s.reg (shapeA q v)) 24 24 ∧ 256 ≤ fld (s.reg (policeA q v)) 24 24)) = true :=
    List.all_eq_true.2 (fun v hv => decide_eq_true (hok v (List.mem_range.1 hv)))
  have heffect (a : Nat) (ha : a ∈ stagedKeys ⟨.tp, 2 * q, tpP q⟩) (hlist : tpP q + 0x100 ≤ a ∧ a < tpP q + 0x200) :
      ((s.access f).applyStaged ⟨.tp, 2 * q, tpP q⟩ |>.portCommitted q (s.access f)).inForce a = s.reg a := by
    refine State.inForce_of_force ?_ ?_
    · rw [State.portCommitted_reg _ _ _ (by omega), State.applyStaged_reg]
      rfl
    · rw [State.portCommitted_force _ _ _ (by omega), State.applyStaged_get, if_pos ha]
      rfl
  rw [if_pos hall]
  refine ⟨heffect _ hshape ?_, heffect _ hpolice ?_⟩
  · unfold shapeA
    omega
  · unfold policeA shapeA
    omega

end

end

/-- Settles O39: the COMMIT of each page by its lemma. -/
theorem commitsTakeEffectTogether : Obligations.CommitsTakeEffectTogether := by
  intro f c x m g q s
  exact ⟨fun hsees => ⟨exec_coreCommit_resetting hsees, exec_coreCommit hsees⟩, exec_collatorCommit, exec_tierCommit, exec_expanderCommit,
    exec_carrelCommit, exec_guCommit, exec_archiveCommit, exec_linkCommit, fun b hf => hf ▸ exec_hostCommit, exec_partCommit,
    exec_powerCommit, exec_rollcallCommit, fun hsees => ⟨exec_portCommit_busy hsees, portCommit_refused hsees, portCommit_accepted hsees⟩⟩

end Sys2Proof.Machine
end

section
/-! SUPPORT. Doorbells, queue registers and coalescing timers (R373, R376, R380, R391); O43. -/

namespace Sys2Proof.Machine

theorem State.modHost_reg (s : State) (k : Nat) (g : HostFn → HostFn) (a : Nat) : (s.modHost k g).reg a = s.reg a := rfl

/-- An error of a page changes three registers of its header, beside what a message of its interrupt changes. -/
theorem State.setErr_reg_other (s : State) {base a : Nat} (b : Nat) (hbase : base % 0x1000 = 0) (hheader : 0x20 ≤ a % 0x1000)
    (hpba : a % 0x1000 ≠ 0xC00) (hcount : a % 0x1000 ≠ 0x620) : (s.setErr base b).reg a = s.reg a := by
  have hsend (t : State) (k v : Nat) : (t.sendMsix k v).reg a = t.reg a :=
    t.sendMsix_reg k v (by unfold msixPba viewP viewKey; omega) (by unfold viewP viewKey; omega)
  unfold State.setErr
  dsimp only
  split
  · rw [State.setReg_reg, if_neg (by omega), State.setReg_reg, if_neg (by omega)]
  · rw [State.setIrq_unchanged (fun t : State => t.reg a) hsend (fun _ _ _ => rfl), State.setReg_reg, if_neg (by omega), State.setReg_reg,
      if_neg (by omega), State.setReg_reg, if_neg (by omega)]

theorem State.setErr_hosts (s : State) (base b : Nat) : (s.setErr base b).hosts = s.hosts :=
  State.setErr_unchanged State.hosts (fun _ _ _ => rfl) (fun _ _ => rfl) (fun _ _ _ => rfl) s base b

/-- A doorbell that is ignored is counted and noted at its view, and moves no index. -/
theorem State.badDoorbell_notes (s : State) (k : Nat) : (s.badDoorbell k).hosts = s.hosts ∧
    counted s (s.badDoorbell k) (viewP k + 0x608) 1 ∧ ((s.badDoorbell k).reg (viewP k + 0x10)).getLsbD 2 = true := by
  have hpage : viewP k % 0x1000 = 0 := by unfold viewP viewKey; omega
  have hbump := counted_bump s (viewP k + 0x608) 1
  have hhosts : (s.bump (viewP k + 0x608) 1).hosts = s.hosts := by rw [State.bump, State.setReg_hosts]
  rw [State.badDoorbell]
  generalize s.bump (viewP k + 0x608) 1 = t at hbump hhosts
  refine ⟨(State.setErr_hosts ..).trans hhosts, ?_, State.setErr_status _ hpage (by decide)⟩
  unfold counted at hbump ⊢
  rw [State.setErr_reg_other _ _ hpage (by omega) (by omega) (by omega), hbump]

section
variable {f : Fn} {q : Fin 16} {v : BitVec 16} {w : Word} {s : State}

/-! ### Doorbells (R376) -/

theorem exec_sqTailWrite_unseen (h : s.queueView f = none) : goesTo (exec (.sqTailWrite f q v) s) (s.access f) := by
  have hview : (s.access f).queueView f = none := h
  change execSqTailWrite f q v s = _
  unfold execSqTailWrite
  dsimp only
  rw [hview]

theorem exec_cqHeadWrite_unseen (h : s.queueView f = none) : goesTo (exec (.cqHeadWrite f q v) s) (s.access f) := by
  have hview : (s.access f).queueView f = none := h
  change execCqHeadWrite f q v s = _
  unfold execCqHeadWrite
  dsimp only
  rw [hview]

variable {k : Nat}

/-- The queue whose registers begin at `a` is enabled and has an entry of number `v`. -/
def doorbellFits (s : State) (v : BitVec 16) (a : Nat) : Prop := qOn (s.reg a) = true ∧ v.toNat < ringSize (s.reg (a + 8))

theorem doorbellFits_iff (s : State) (v : BitVec 16) (a : Nat) :
    (!qOn (s.reg a) || decide (ringSize (s.reg (a + 8)) ≤ v.toNat)) = true ↔ ¬doorbellFits s v a := by
  simp [doorbellFits, imp_iff_not_or]

theorem exec_sqTailWrite (hview : s.queueView f = some k) : exec (.sqTailWrite f q v) s = .next (
    if !qOn (s.reg (sqReg k q)) || decide (ringSize (s.reg (sqReg k q + 8)) ≤ v.toNat) then (s.access f).badDoorbell k
    else (s.access f).modHost k (fun h => { h with sqTail := Tab.set z0 h.sqTail q v.toNat })) := by
  have hseen : (s.access f).queueView f = some k := hview
  change execSqTailWrite f q v s = _
  unfold execSqTailWrite
  dsimp only
  rw [hseen]
  exact (apply_ite Host.Outcome.next ..).symm

theorem exec_cqHeadWrite (hview : s.queueView f = some k) : exec (.cqHeadWrite f q v) s = .next (
    if !qOn (s.reg (cqReg k q)) || decide (ringSize (s.reg (cqReg k q + 8)) ≤ v.toNat) then (s.access f).badDoorbell k
    else (s.access f).modHost k (fun h => { h with cqHead := Tab.set z0 h.cqHead q v.toNat })) := by
  have hseen : (s.access f).queueView f = some k := hview
  change execCqHeadWrite f q v s = _
  unfold execCqHeadWrite
  dsimp only
  rw [hseen]
  exact (apply_ite Host.Outcome.next ..).symm

theorem exec_sqTailWrite_sets (hview : s.queueView f = some k) (hfits : doorbellFits s v (sqReg k q)) :
    completes (exec (.sqTailWrite f q v) s) (fun u => Tab.get z0 (u.host k).sqTail q = v.toNat ∧ u.regs = s.regs) := by
  refine ⟨_, exec_sqTailWrite hview, ?_⟩
  rw [if_neg (fun h => (doorbellFits_iff ..).1 h hfits)]
  dsimp only
  rw [State.modHost_host, if_pos rfl]
  exact ⟨Tab.get_set_same .., rfl⟩

theorem exec_cqHeadWrite_sets (hview : s.queueView f = some k) (hfits : doorbellFits s v (cqReg k q)) :
    completes (exec (.cqHeadWrite f q v) s) (fun u => Tab.get z0 (u.host k).cqHead q = v.toNat ∧ u.regs = s.regs) := by
  refine ⟨_, exec_cqHeadWrite hview, ?_⟩
  rw [if_neg (fun h => (doorbellFits_iff ..).1 h hfits)]
  dsimp only
  rw [State.modHost_host, if_pos rfl]
  exact ⟨Tab.get_set_same .., rfl⟩

theorem exec_sqTailWrite_ignored (hview : s.queueView f = some k) (hbad : ¬doorbellFits s v (sqReg k q)) :
    completes (exec (.sqTailWrite f q v) s) (fun u => u.hosts = s.hosts ∧ counted s u (viewP k + 0x608) 1 ∧
      (u.reg (viewP k + 0x10)).getLsbD 2 = true) := by
  refine ⟨_, exec_sqTailWrite hview, ?_⟩
  rw [if_pos ((doorbellFits_iff ..).2 hbad)]
  exact (s.access f).badDoorbell_notes k

theorem exec_cqHeadWrite_ignored (hview : s.queueView f = some k) (hbad : ¬doorbellFits s v (cqReg k q)) :
    completes (exec (.cqHeadWrite f q v) s) (fun u => u.hosts = s.hosts ∧ counted s u (viewP k + 0x608) 1 ∧
      (u.reg (viewP k + 0x10)).getLsbD 2 = true) := by
  refine ⟨_, exec_cqHeadWrite hview, ?_⟩
  rw [if_pos ((doorbellFits_iff ..).2 hbad)]
  exact (s.access f).badDoorbell_notes k

/-! ### Queue bases (R373, R391) -/

variable {cq : Bool}

theorem exec_queueEnableWrite_unseen (h : s.queueView f = none) : goesTo (exec (.queueEnableWrite f cq q w) s) (s.access f) := by
  have hview : (s.access f).queueView f = none := h
  change Host.Outcome.next ((s.access f).queueBase f cq q w) = _
  rw [State.queueBase, hview]

/-- Register of a queue's base. -/
def baseReg (k : Nat) (cq : Bool) (q : Nat) : Nat := if cq then cqReg k q else sqReg k q

/-- The address that a write of a queue's base names. -/
def baseOf (w : Word) : Word := BitVec.ofNat 64 (fld w 6 44 * 64)

/-- The queue at the address that is written would lie in the function's partition. -/
def queueInside (s : State) (f : Fn) (k : Nat) (cq : Bool) (q : Nat) (w : Word) : Prop :=
  ∃ p, s.fnPart f = some p ∧ s.inAlloc p (baseOf w) ((if cq then 32 else 64) * ringSize (s.reg (baseReg k cq q + 8))) = true

/-- A write of the base of a queue that the function sees. -/
theorem exec_queueEnableWrite (hview : s.queueView f = some k) : exec (.queueEnableWrite f cq q w) s = .next (
    let t := s.access f
    if qOn (s.reg (baseReg k cq q)) then
      if w.getLsbD 0 then t
      else (t.setReg (baseReg k cq q) (baseOf w)).modHost k (fun h => if cq then { h with timer := Tab.set (fun _ => none) h.timer q none } else h)
    else if !w.getLsbD 0 then t.setReg (baseReg k cq q) (baseOf w)
    else if match s.fnPart f with
        | some p => s.inAlloc p (baseOf w) ((if cq then 32 else 64) * ringSize (s.reg (baseReg k cq q + 8)))
        | none => false
      then (t.setReg (baseReg k cq q) (baseOf w ||| 1)).modHost k (fun h => h.enable cq q)
      else (t.setReg (baseReg k cq q) (baseOf w)).setErr (viewP k) 1) := by
  have hseen : (s.access f).queueView f = some k := hview
  change Host.Outcome.next ((s.access f).queueBase f cq q w) = _
  rw [State.queueBase, hseen]
  rfl

/-- With ENABLE 0 the base is as it is written, whether the queue was enabled or not. -/
theorem exec_queueEnableWrite_off (hview : s.queueView f = some k) (hoff : w.getLsbD 0 = false) :
    completes (exec (.queueEnableWrite f cq q w) s) (fun u => u.reg (baseReg k cq q) = baseOf w) := by
  refine ⟨_, exec_queueEnableWrite hview, ?_⟩
  dsimp only
  rw [hoff]
  split
  · exact State.setReg_reg_same ..
  · exact State.setReg_reg_same ..

theorem exec_queueEnableWrite_on (hview : s.queueView f = some k) (hon : w.getLsbD 0 = true) (henabled : qOn (s.reg (baseReg k cq q)) = true) :
    goesTo (exec (.queueEnableWrite f cq q w) s) (s.access f) := by
  rw [exec_queueEnableWrite hview]
  dsimp only
  rw [hon, henabled]
  rfl

/-- A queue inside the partition is enabled, its indices at 0. -/
theorem exec_queueEnableWrite_enables (hview : s.queueView f = some k) (hon : w.getLsbD 0 = true)
    (hdisabled : qOn (s.reg (baseReg k cq q)) = false) (hinside : queueInside s f k cq q w) :
    completes (exec (.queueEnableWrite f cq q w) s) (fun u => u.reg (baseReg k cq q) = baseOf w ||| 1 ∧
      u.host k = (s.host k).enable cq q) := by
  obtain ⟨p, hpart, halloc⟩ := hinside
  have hgo : (match s.fnPart f with
      | some p => s.inAlloc p (baseOf w) ((if cq then 32 else 64) * ringSize (s.reg (baseReg k cq q + 8)))
      | none => false) = true := by
    rw [hpart]
    exact halloc
  refine ⟨_, exec_queueEnableWrite hview, ?_⟩
  dsimp only
  rw [hon, hdisabled, if_neg (by decide), if_neg (by decide), if_pos hgo]
  exact ⟨State.setReg_reg_same .., (State.modHost_host ..).trans (if_pos rfl)⟩

/-- One that would reach out of the partition stays disabled, and bit 1 of ERR_STATUS says so. -/
theorem exec_queueEnableWrite_outside (hview : s.queueView f = some k) (hon : w.getLsbD 0 = true)
    (hdisabled : qOn (s.reg (baseReg k cq q)) = false) (houtside : ¬queueInside s f k cq q w) :
    completes (exec (.queueEnableWrite f cq q w) s) (fun u => u.reg (baseReg k cq q) = baseOf w ∧
      (u.reg (viewP k + 0x10)).getLsbD 1 = true ∧ u.hosts = s.hosts) := by
  have hpage : viewP k % 0x1000 = 0 := by unfold viewP viewKey; omega
  have hnot : ¬((match s.fnPart f with
      | some p => s.inAlloc p (baseOf w) ((if cq then 32 else 64) * ringSize (s.reg (baseReg k cq q + 8)))
      | none => false) = true) := by
    intro h
    cases hpart : s.fnPart f with
    | none => simp [hpart] at h
    | some p => exact houtside ⟨p, hpart, by simpa [hpart] using h⟩
  have hbase : 0x200 ≤ baseReg k cq q % 0x1000 ∧ baseReg k cq q % 0x1000 < 0x400 := by
    have hq := q.isLt
    unfold baseReg sqReg cqReg
    split <;> omega
  refine ⟨_, exec_queueEnableWrite hview, ?_⟩
  dsimp only
  rw [hon, hdisabled, if_neg (by decide), if_neg (by decide), if_neg hnot]
  refine ⟨?_, State.setErr_status _ hpage (by decide), State.setErr_hosts ..⟩
  rw [State.setErr_reg_other _ _ hpage (by omega) (by omega) (by omega), State.setReg_reg_same]

/-! ### Coalescing timers (R380) -/

/-- The signal of a completion queue with IEN: its vector goes, or waits at the pending bit array; the queue's count and timer
begin anew. -/
theorem State.cqSignal_signals (s : State) (k q : Nat) (hien : (s.reg (cqReg k q + 8)).getLsbD 14 = true) :
    let n := fld (s.reg (cqReg k q + 8)) 8 6
    let u := s.cqSignal k q
    Tab.get z0 (u.host k).agg q = 0 ∧ Tab.get (fun _ => none) (u.host k).timer q = none ∧
      (if s.msixGo k n then u.msix = (k, n) :: s.msix else u.msix = s.msix ∧ (u.reg (msixPba k)).getLsbD n = true) := by
  have hvector : fld (s.reg (cqReg k q + 8)) 8 6 < 64 := by
    unfold fld
    exact BitVec.isLt _
  have hsignal : s.cqSignal k q = (s.sendMsix k (fld (s.reg (cqReg k q + 8)) 8 6)).modHost k (fun h => { h with
      agg := Tab.set z0 h.agg q 0, timer := Tab.set (fun _ => none) h.timer q none }) := by
    unfold State.cqSignal
    dsimp only
    rw [hien]
    rfl
  dsimp only
  rw [hsignal, State.modHost_host, if_pos rfl]
  refine ⟨Tab.get_set_same .., Tab.get_set_same .., ?_⟩
  rw [State.sendMsix]
  generalize fld (s.reg (cqReg k q + 8)) 8 6 = n at hvector
  by_cases hgo : s.msixGo k n = true
  · rw [if_pos hgo, if_neg (by simp [hgo])]
    rfl
  · rw [if_neg hgo, if_pos (by simpa using hgo)]
    rw [State.modHost_msix, State.setReg_msix, State.modHost_reg, State.setReg_reg_same]
    refine ⟨rfl, ?_⟩
    simp [BitVec.getLsbD_or, BitVec.getLsbD_shiftLeft, hvector, -BitVec.getLsbD_eq_getElem]

theorem exec_cqTimerExpiry : exec (.cqTimerExpiry f q) s = .next (
    match Tab.get (fun _ => none) (s.host (fnIdx f)).timer q with
    | some t => if fld (s.reg (cqReg (fnIdx f) q + 8)) 24 8 * 100 ≤ (s.clk - t).toNat then s.cqSignal (fnIdx f) q else s
    | none => s) := by
  change execCqTimerExpiry f q s = _
  unfold execCqTimerExpiry
  cases Tab.get (fun _ => none) (s.host (fnIdx f)).timer q with
  | some t => exact (apply_ite Host.Outcome.next _ _ _).symm
  | none => rfl

theorem exec_cqTimerExpiry_idle (hnone : Tab.get (fun _ => none) (s.host (fnIdx f)).timer q = none) :
    goesTo (exec (.cqTimerExpiry f q) s) s := by
  rw [exec_cqTimerExpiry, hnone]
  rfl

theorem exec_cqTimerExpiry_early {t : Word} (ht : Tab.get (fun _ => none) (s.host (fnIdx f)).timer q = some t)
    (hearly : (s.clk - t).toNat < fld (s.reg (cqReg (fnIdx f) q + 8)) 24 8 * 100) : goesTo (exec (.cqTimerExpiry f q) s) s := by
  rw [exec_cqTimerExpiry, ht]
  exact congrArg Host.Outcome.next (if_neg (Nat.not_le.2 hearly))

theorem exec_cqTimerExpiry_expired {t : Word} (ht : Tab.get (fun _ => none) (s.host (fnIdx f)).timer q = some t)
    (hlate : fld (s.reg (cqReg (fnIdx f) q + 8)) 24 8 * 100 ≤ (s.clk - t).toNat) :
    exec (.cqTimerExpiry f q) s = .next (s.cqSignal (fnIdx f) q) := by
  rw [exec_cqTimerExpiry, ht]
  exact congrArg Host.Outcome.next (if_pos hlate)

/-- Without IEN a queue has nothing to signal. -/
theorem exec_cqTimerExpiry_silent (hien : (s.reg (cqReg (fnIdx f) q + 8)).getLsbD 14 = false) : goesTo (exec (.cqTimerExpiry f q) s) s := by
  have hsignal : s.cqSignal (fnIdx f) q = s := by
    unfold State.cqSignal
    dsimp only
    rw [hien]
    rfl
  rw [exec_cqTimerExpiry, hsignal]
  split
  · exact congrArg Host.Outcome.next (ite_self s)
  · rfl

end

end Sys2Proof.Machine
end

section
/-! SUPPORT. Resets of functions and of host ports (R369, R388, R389); O43. -/

namespace Sys2Proof.Machine

/-- What a step of a fold brings about for its element, and every other step keeps, holds of every element. -/
theorem foldl_mem {σ α : Type} {step : σ → α → σ} (Q : α → σ → Prop) (l : List α) (hset : ∀ x ∈ l, ∀ s, Q x (step s x))
    (hkeep : ∀ x ∈ l, ∀ y ∈ l, ∀ s, Q x s → Q x (step s y)) (s : σ) : ∀ x ∈ l, Q x (l.foldl step s) := by
  have hfrom (m : List α) (hm : ∀ y ∈ m, y ∈ l) : ∀ x ∈ l, ∀ s, Q x s → Q x (m.foldl step s) := by
    induction m with
    | nil => exact fun _ _ _ h => h
    | cons y m ih =>
      intro x hx s h
      exact ih (fun z hz => hm z (List.mem_cons_of_mem _ hz)) x hx _ (hkeep x hx y (hm y List.mem_cons_self) s h)
  have hmem (m : List α) (hm : ∀ y ∈ m, y ∈ l) (s : σ) : ∀ x ∈ m, Q x (m.foldl step s) := by
    induction m generalizing s with
    | nil => nofun
    | cons y m ih =>
      intro x hx
      have hrest : ∀ z ∈ m, z ∈ l := fun z hz => hm z (List.mem_cons_of_mem _ hz)
      rcases List.mem_cons.1 hx with rfl | hx
      · exact hfrom m hrest x (hm x List.mem_cons_self) _ (hset x (hm x List.mem_cons_self) s)
      · exact ih hrest _ x hx
  exact hmem l (fun _ h => h) s

/-! ### One function (R364, R388) -/

/-- A register of the view of function number `k`, or a word of its configuration space. -/
def ownReg (k a : Nat) : Prop := viewP k ≤ a ∧ a < viewP k + 0x1000 ∨ cfgP k ≤ a ∧ a < cfgP k + 0x1000

/-- Function number `k` as its reset leaves it: its vectors masked, none pending, its queues disabled, its configuration space
reset. -/
def fnFresh (u : State) (k : Nat) : Prop :=
  (∀ v, v < 64 → (u.reg (msixCtl k v)).getLsbD 32 = true) ∧ u.reg (msixPba k) = 0 ∧
  (∀ q, q < 16 → qOn (u.reg (sqReg k q)) = false ∧ qOn (u.reg (cqReg k q)) = false) ∧
  ∀ o, o < 0x200 → u.cfg k o = regReset (cfgP k + 0x40 + o)

theorem fnFresh_of_reg {s u : State} {k : Nat} (hreg : ∀ a, ownReg k a → u.reg a = s.reg a) (hs : fnFresh s k) : fnFresh u k := by
  have hview (o : Nat) (ho : o < 0x1000) : u.reg (viewP k + o) = s.reg (viewP k + o) := hreg _ (.inl ⟨by omega, by omega⟩)
  obtain ⟨hmasked, hpba, hqueues, hcfg⟩ := hs
  refine ⟨fun v hv => ?_, ?_, fun q hq => ?_, fun o ho => ?_⟩
  · rw [hreg _ (.inl (by unfold msixCtl; omega))]
    exact hmasked v hv
  · rw [hreg _ (.inl (by unfold msixPba; omega))]
    exact hpba
  · rw [hreg _ (.inl (by unfold sqReg; omega)), hreg _ (.inl (by unfold cqReg; omega))]
    exact hqueues q hq
  · exact (hreg _ (.inr (by omega))).trans (hcfg o ho)

theorem State.setField_reg (s : State) (a lo n v b : Nat) :
    (s.setField a lo n v).reg b = if b = a then putFld (s.reg a) lo n v else s.reg b :=
  State.setReg_reg ..

theorem State.maskVectors_reg (s : State) {k a : Nat} (hpba : a ≠ msixPba k) (hctl : ∀ v, v < 64 → a ≠ msixCtl k v) :
    (s.maskVectors k).reg a = s.reg a := by
  rw [State.maskVectors, State.setReg_reg, if_neg hpba]
  refine List.foldlRecOn (motive := fun t : State => t.reg a = s.reg a) (List.range 64) _ rfl (fun t ht v hv => ?_)
  rw [State.setField_reg, if_neg (hctl v (List.mem_range.1 hv)), ht]

theorem State.maskVectors_masked (s : State) {k v : Nat} (hv : v < 64) : ((s.maskVectors k).reg (msixCtl k v)).getLsbD 32 = true := by
  rw [State.maskVectors, State.setReg_reg, if_neg (by unfold msixCtl msixPba; omega)]
  refine foldl_mem (fun v (t : State) => (t.reg (msixCtl k v)).getLsbD 32 = true) (List.range 64) (fun v _ t => ?_)
    (fun v _ w _ t ht => ?_) s v (List.mem_range.2 hv)
  · rw [State.setField_reg, if_pos rfl, getLsbD_putFld _ _ _ _ _ (by decide), if_pos (by decide)]
    decide
  · rw [State.setField_reg]
    split
    · rw [getLsbD_putFld _ _ _ _ _ (by decide), if_pos (by decide)]
      decide
    · exact ht

theorem State.disableQueues_reg (s : State) {k a : Nat} (hother : a < viewP k + 0x200 ∨ viewP k + 0x400 ≤ a) :
    (s.disableQueues k).reg a = s.reg a := by
  refine List.foldlRecOn (motive := fun t : State => t.reg a = s.reg a) (List.range 16) _ rfl (fun t ht q hq => ?_)
  have hq16 := List.mem_range.1 hq
  rw [State.setField_reg, if_neg (by unfold cqReg; omega), State.setField_reg, if_neg (by unfold sqReg; omega), ht]

theorem State.setField_off_same (s : State) (a : Nat) : qOn ((s.setField a 0 1 0).reg a) = false := by
  rw [State.setField_reg, if_pos rfl, qOn, getLsbD_putFld _ _ _ _ _ (by decide), if_pos (by decide)]
  decide

theorem State.setField_off (s : State) (a : Nat) {b : Nat} (h : qOn (s.reg b) = false) : qOn ((s.setField a 0 1 0).reg b) = false := by
  by_cases hb : b = a
  · rw [hb]
    exact s.setField_off_same a
  · rwa [State.setField_reg, if_neg hb]

theorem State.disableQueues_off (s : State) {k q : Nat} (hq : q < 16) :
    qOn ((s.disableQueues k).reg (sqReg k q)) = false ∧ qOn ((s.disableQueues k).reg (cqReg k q)) = false :=
  foldl_mem (fun q (t : State) => qOn (t.reg (sqReg k q)) = false ∧ qOn (t.reg (cqReg k q)) = false) (List.range 16)
    (fun _ _ _ => ⟨State.setField_off _ _ (State.setField_off_same ..), State.setField_off_same ..⟩)
    (fun _ _ _ _ _ h => ⟨State.setField_off _ _ (State.setField_off _ _ h.1), State.setField_off _ _ (State.setField_off _ _ h.2)⟩)
    s q (List.mem_range.2 hq)

theorem viewP_cfgP {k : Nat} (hk : k < 35) (j : Nat) : viewP k + 0x1000 ≤ cfgP j := by
  unfold viewP cfgP viewKey cfgKey
  omega

/-- The state from which a function's vectors are masked: its configuration space has its reset values. -/
def State.cfgCleared (s : State) (k : Nat) : State :=
  { s with regs := ⟨s.regs.cells.filter (fun c => !decide (cfgP k ≤ c.1 ∧ c.1 < cfgP k + 0x1000))⟩ }

theorem State.cfgCleared_reg (s : State) (k a : Nat) :
    (s.cfgCleared k).reg a = if cfgP k ≤ a ∧ a < cfgP k + 0x1000 then regReset a else s.reg a := by
  refine (Tab.get_filter_keys regReset s.regs (fun b => !decide (cfgP k ≤ b ∧ b < cfgP k + 0x1000)) a).trans ?_
  by_cases h : cfgP k ≤ a ∧ a < cfgP k + 0x1000
  · simp only [h, and_self, decide_true, Bool.not_true, Bool.false_eq_true, if_true, if_false]
  · simp only [h, decide_false, Bool.not_false, if_true, if_false]
    rfl

theorem State.fnReset_eq (s : State) (k : Nat) : s.fnReset k = ((s.cfgCleared k).maskVectors k).disableQueues k := rfl

theorem State.fnReset_fresh (s : State) {k : Nat} (hk : k < 35) : fnFresh (s.fnReset k) k := by
  have hhigh := viewP_cfgP hk k
  rw [State.fnReset_eq]
  refine ⟨fun v hv => ?_, ?_, fun q hq => State.disableQueues_off _ hq, fun o ho => ?_⟩
  · rw [State.disableQueues_reg _ (by unfold msixCtl; omega)]
    exact State.maskVectors_masked _ hv
  · rw [State.disableQueues_reg _ (by unfold msixPba; omega)]
    exact State.setReg_reg_same ..
  · rw [State.cfg, State.disableQueues_reg _ (by omega), State.maskVectors_reg _ (by unfold msixPba; omega)
      (fun v hv => by unfold msixCtl; omega), State.cfgCleared_reg, if_pos (by omega)]

/-- The reset of a function leaves the registers of the others. -/
theorem State.fnReset_reg_other (s : State) {j k a : Nat} (hj : j < 35) (hk : k < 35) (hjk : j ≠ k) (ha : ownReg j a) :
    (s.fnReset k).reg a = s.reg a := by
  have hcfg := viewP_cfgP hk j
  have hview := viewP_cfgP hj k
  have hout : (a < viewP k ∨ viewP k + 0x1000 ≤ a) ∧ ¬(cfgP k ≤ a ∧ a < cfgP k + 0x1000) := by
    unfold ownReg viewP cfgP at *
    omega
  rw [State.fnReset_eq, State.disableQueues_reg _ (by omega), State.maskVectors_reg _ (by unfold msixPba; omega)
    (fun v hv => by unfold msixCtl; omega), State.cfgCleared_reg, if_neg hout.2]

theorem State.fnReset_keepsFresh (s : State) {j k : Nat} (hj : j < 35) (hk : k < 35) (hs : fnFresh s j) : fnFresh (s.fnReset k) j := by
  by_cases hjk : j = k
  · rw [hjk]
    exact s.fnReset_fresh hk
  · exact fnFresh_of_reg (fun a ha => s.fnReset_reg_other hj hk hjk ha) hs

theorem State.fnReset_parts (s : State) (k : Nat) : (s.fnReset k).parts = s.parts := by
  have hmask (t : State) (l : List Nat) : (l.foldl (fun s v => s.setField (msixCtl k v) 32 1 1) t).parts = t.parts :=
    foldl_unchanged State.parts (fun t v => by rw [State.setField, State.setReg_parts]) l t
  have hqueues (t : State) (l : List Nat) : (l.foldl (fun s q => (s.setField (sqReg k q) 0 1 0).setField (cqReg k q) 0 1 0) t).parts =
      t.parts := foldl_unchanged State.parts (fun t q => by rw [State.setField, State.setReg_parts, State.setField, State.setReg_parts]) l t
  rw [State.fnReset_eq, State.disableQueues, hqueues, State.maskVectors, State.setReg_parts, hmask]
  rfl

end Sys2Proof.Machine
end

section
/-! SUPPORT. Function-level resets (R364, R388, R389); O43. -/

namespace Sys2Proof.Machine

/-! ### The links in a reset of a partition (R355) -/

theorem State.freePlace_parts (s : State) (q v : Nat) : (s.freePlace q v).parts = s.parts := by
  unfold State.freePlace
  split <;> rfl

theorem State.freePlaces_parts (s : State) (v : Nat) (ws : List Fwd) : (s.freePlaces v ws).parts = s.parts := by
  refine foldl_unchanged State.parts (fun t w => ?_) ws s
  split
  · exact t.freePlace_parts ..
  · rfl

theorem State.dropRest_parts (s : State) (k q v : Nat) : (s.dropRest k q v).parts = s.parts := by
  unfold State.dropRest
  split
  · split <;> rfl
  · rfl

theorem State.emptyVc_parts (s : State) (q v : Nat) : (s.emptyVc q v).parts = s.parts := by
  unfold State.emptyVc
  dsimp only
  rw [foldl_unchanged State.parts (fun t k => t.dropRest_parts k q v), State.modPort_parts, State.freePlaces_parts]

theorem State.resetVc_parts (s : State) (p q v : Nat) : (s.resetVc p q v).parts = s.parts := by
  unfold State.resetVc
  dsimp only
  split
  · split
    · rw [State.modPort_parts, State.modPort_parts, State.emptyVc_parts]
    · rw [State.modPort_parts, State.emptyVc_parts]
  · rw [State.modPort_parts, State.emptyVc_parts]

theorem State.writeSend_parts (s : State) (p : Nat) (c : Send) : (s.writeSend p c).parts = s.parts := by
  unfold State.writeSend
  dsimp only
  split
  · exact s.devWrite_parts ..
  · rfl

theorem State.linkReset_parts (s : State) (p : Nat) : (s.linkReset p).parts = s.parts := by
  unfold State.linkReset
  dsimp only
  rw [State.modLp_parts, foldl_unchanged State.parts (fun t c => t.writeSend_parts p c)]
  refine foldl_unchanged State.parts (fun t q => foldl_unchanged State.parts (fun t v => ?_) _ t) _ s
  split
  · exact t.resetVc_parts p q v
  · rfl

/-! ### The reset of a partition that a function-level reset asks for (R382, R388) -/

theorem State.requestReset_none {s : State} {p : Nat} (hnone : (s.part p).reset = none) (hcores : s.coresOf p = []) (k : Option Nat) :
    s.requestReset p k = s := by
  rw [State.requestReset, hnone]
  exact if_pos hcores

/-- The reset of a partition with cores begins at step 2 and is shown in slot 30. -/
theorem State.requestReset_begins {s : State} {p : Nat} (hnone : (s.part p).reset = none) (hcores : s.coresOf p ≠ []) (k : Nat) :
    (∃ r, ((s.requestReset p (some k)).part p).reset = some r ∧ r.step = 2 ∧ r.flrs = [k]) ∧
      ((s.requestReset p (some k)).losw p 30).op = 7 ∧ ((s.requestReset p (some k)).losw p 30).state = 2 := by
  have hreset (t : State) (o : Nat) (g : Losw → Losw) : ((t.modLosw p o g).part p).reset = (t.part p).reset := by
    rw [State.modLosw, State.modPart_part, if_pos rfl]
  rw [State.requestReset, hnone]
  dsimp only
  rw [if_neg hcores]
  refine ⟨⟨{ step := 2, t0 := s.clk, flrs := [k] }, ?_, rfl, rfl⟩, ?_, ?_⟩
  · rw [State.loswProg, hreset, State.loswRun, hreset, hreset, State.part_of_parts (State.linkReset_parts ..), State.modPart_part, if_pos rfl]
    rfl
  · rw [State.loswProg, State.modLosw_losw, State.loswRun, State.modLosw_losw, State.modLosw_losw]
  · rw [State.loswProg, State.modLosw_losw, State.loswRun, State.modLosw_losw, State.modLosw_losw]
    have hflash (l : Losw) : ({ l with op := 7, state := 1, error := 0, prog := 0, total := 0, part := 0xFFFFFFFF } : Losw).flash = false := by
      simp [Losw.flash]
    simp only [hflash, Bool.and_false, Bool.false_eq_true, if_false]

section
variable {f : Fn} {s : State}

theorem exec_flr (f : Fn) (s : State) : exec (.flr f) s = .next (s.flr f) := rfl

theorem exec_flr_absent (h : f = .sp ∨ s.fnThere f = false) : goesTo (exec (.flr f) s) s := by
  rw [exec_flr]
  cases f with
  | sp => rfl
  | pf b => exact absurd h (by simp [State.fnThere])
  | vf b n =>
    have hthere : s.fnThere (.vf b n) = false := by simpa using h
    unfold State.flr
    dsimp only
    rw [hthere]
    rfl

/-- A VF that is bound to no partition, or to one without cores that is in no reset, resets alone. -/
theorem State.flr_alone {b : HPort} {n : Fin 16} (hthere : s.fnThere (.vf b n) = true)
    (hfree : ∀ p, s.fnPart (.vf b n) = some p → s.coresOf p = [] ∧ (s.part p).reset = none) :
    s.flr (.vf b n) = s.fnReset (fnIdx (.vf b n)) := by
  unfold State.flr
  dsimp only
  rw [hthere, if_neg (by decide)]
  cases hpart : s.fnPart (.vf b n) with
  | none => rfl
  | some p =>
    obtain ⟨hcores, hnone⟩ := hfree p hpart
    dsimp only
    rw [State.requestReset_none hnone hcores, if_pos hnone]

theorem State.flr_bound {b : HPort} {n : Fin 16} {p : Nat} (hthere : s.fnThere (.vf b n) = true) (hpart : s.fnPart (.vf b n) = some p)
    (hcores : s.coresOf p ≠ []) (hnone : (s.part p).reset = none) :
    (s.flr (.vf b n)).parts = (s.requestReset p (some (fnIdx (.vf b n)))).parts := by
  obtain ⟨⟨r, hr, -⟩, -⟩ := State.requestReset_begins hnone hcores (fnIdx (.vf b n))
  unfold State.flr
  dsimp only
  rw [hthere, if_neg (by decide), hpart]
  dsimp only
  rw [if_neg (by rw [hr]; exact nofun)]

theorem vf_number (b : HPort) (n : Fin 16) : fnIdx (.vf b n) = 3 + 16 * portIdx b + n := by
  cases b <;> (dsimp only [fnIdx, portIdx])

theorem pf_number (b : HPort) : fnIdx (.pf b) = 1 + portIdx b := by
  cases b <;> rfl

theorem portIdx_lt (b : HPort) : portIdx b < 2 := by
  cases b <;> decide

/-- A physical function resets with its VFs. -/
theorem State.flr_pf_fresh (s : State) (b : HPort) : (s.flr (.pf b)).parts = s.parts ∧ fnFresh (s.flr (.pf b)) (fnIdx (.pf b)) ∧
    ∀ n, fnFresh (s.flr (.pf b)) (fnIdx (.vf b n)) := by
  have hport := portIdx_lt b
  have hflr : s.flr (.pf b) = (List.range 16).foldl (fun s n => s.fnReset (3 + 16 * portIdx b + n)) (s.fnReset (fnIdx (.pf b))) := rfl
  have hparts (l : List Nat) (t : State) : (l.foldl (fun s n => s.fnReset (3 + 16 * portIdx b + n)) t).parts = t.parts :=
    foldl_unchanged State.parts (fun t n => t.fnReset_parts _) l t
  rw [hflr]
  refine ⟨?_, ?_, fun n => ?_⟩
  · rw [hparts, State.fnReset_parts]
  · refine List.foldlRecOn (motive := fun t : State => fnFresh t (fnIdx (.pf b))) (List.range 16) _ (s.fnReset_fresh (fnIdx_lt _))
      (fun t ht n hn => t.fnReset_keepsFresh (fnIdx_lt _) ?_ ht)
    have := List.mem_range.1 hn
    omega
  · have hall := foldl_mem (step := fun (s : State) n => s.fnReset (3 + 16 * portIdx b + n))
      (fun n (t : State) => fnFresh t (3 + 16 * portIdx b + n)) (List.range 16)
      (fun m hm t => t.fnReset_fresh (by have := List.mem_range.1 hm; omega))
      (fun m hm l hl t ht => t.fnReset_keepsFresh (by have := List.mem_range.1 hm; omega) (by have := List.mem_range.1 hl; omega) ht)
    rw [vf_number]
    exact hall _ n (List.mem_range.2 n.isLt)

/-- A function that is bound to no partition resets alone, a physical one with its VFs. -/
theorem exec_flr_unbound (hsp : f ≠ .sp) (hthere : s.fnThere f = true) (hpart : s.fnPart f = none) :
    completes (exec (.flr f) s) (fun u => u.parts = s.parts ∧ fnFresh u (fnIdx f) ∧ ∀ c n, f = .pf c → fnFresh u (fnIdx (.vf c n))) := by
  refine ⟨_, exec_flr f s, ?_⟩
  cases f with
  | sp => exact absurd rfl hsp
  | pf b =>
    obtain ⟨hparts, hself, hvfs⟩ := s.flr_pf_fresh b
    refine ⟨hparts, hself, fun c n hc => ?_⟩
    cases hc
    exact hvfs n
  | vf b n =>
    rw [State.flr_alone hthere (fun p hp => by rw [hpart] at hp; cases hp)]
    exact ⟨s.fnReset_parts _, s.fnReset_fresh (fnIdx_lt _), nofun⟩

theorem exec_flr_coreless {p : Nat} (hthere : s.fnThere f = true) (hpart : s.fnPart f = some p) (hcores : s.coresOf p = [])
    (hnone : (s.part p).reset = none) : completes (exec (.flr f) s) (fun u => u.parts = s.parts ∧ fnFresh u (fnIdx f)) := by
  refine ⟨_, exec_flr f s, ?_⟩
  cases f with
  | sp | pf b => cases hpart
  | vf b n =>
    rw [State.flr_alone hthere (fun q hq => by rw [hpart] at hq; cases hq; exact ⟨hcores, hnone⟩)]
    exact ⟨s.fnReset_parts _, s.fnReset_fresh (fnIdx_lt _)⟩

/-- The reset of a bound VF is one of its partition. -/
theorem exec_flr_bound {p : Nat} (hthere : s.fnThere f = true) (hpart : s.fnPart f = some p) (hcores : s.coresOf p ≠ [])
    (hnone : (s.part p).reset = none) : completes (exec (.flr f) s) (fun u =>
      (∃ r, (u.part p).reset = some r ∧ r.step = 2 ∧ r.flrs = [fnIdx f]) ∧ (u.losw p 30).op = 7 ∧ (u.losw p 30).state = 2) := by
  refine ⟨_, exec_flr f s, ?_⟩
  cases f with
  | sp | pf b => cases hpart
  | vf b n =>
    have hparts := State.flr_bound hthere hpart hcores hnone
    rw [State.part_of_parts hparts, State.losw_of_parts hparts]
    exact State.requestReset_begins hnone hcores _

end

end Sys2Proof.Machine
end

section
/-! SUPPORT. The reset of a host port (R369); O43. -/

namespace Sys2Proof.Machine

/-- The numbers of a host port's functions. -/
def portFns (b : HPort) : List Nat := (1 + portIdx b) :: (List.range 16).map (fun n => 3 + 16 * portIdx b + n)

theorem portFns_lt {b : HPort} {k : Nat} (hk : k ∈ portFns b) : k < 35 := by
  have hport := portIdx_lt b
  rcases List.mem_cons.1 hk with rfl | hk
  · omega
  · obtain ⟨n, hn, rfl⟩ := List.mem_map.1 hk
    have := List.mem_range.1 hn
    omega

/-- What the reset of a host port leaves, whatever its sources then have pending. -/
def portFresh (s : State) (b : HPort) (u : State) : Prop :=
  (∀ n, n < 16 → u.reg (bindA (portIdx b) n) = s.reg (bindA (portIdx b) n)) ∧
  ∀ k ∈ portFns b, (u.host k).sqTail = Tab.empty ∧ (u.host k).cqTail = Tab.empty ∧
    (∀ o, 0x200 ≤ o → o < 0x800 → u.reg (viewP k + o) = regReset (viewP k + o)) ∧
    ∀ o, o < 0x200 → u.cfg k o = regReset (cfgP k + 0x40 + o)

/-- Bus Master Enable is 0 after a reset. -/
theorem busMaster_reset : ∀ k, k < 35 → (regReset (cfgP k + 0x40)).getLsbD 34 = false := by
  decide +kernel

/-- A function whose configuration space has been reset sends no message: its vectors wait at the pending bit array. -/
theorem portFresh_sendMsix {s t : State} {b : HPort} {k : Nat} (hk : k ∈ portFns b) (v : Nat) (ht : portFresh s b t) :
    portFresh s b (t.sendMsix k v) := by
  obtain ⟨hbind, hfns⟩ := ht
  have hgo : t.msixGo k v = false := by
    have hmaster : t.busMaster k = false := by
      obtain ⟨-, -, -, hcfg⟩ := hfns k hk
      rw [State.busMaster, hcfg 0 (by decide)]
      exact busMaster_reset k (portFns_lt hk)
    rw [State.msixGo, hmaster]
    rfl
  have hreg (a : Nat) (ha : a ≠ msixPba k) : (t.sendMsix k v).reg a = t.reg a := by
    rw [State.sendMsix, hgo, Bool.not_false, if_pos rfl, State.setReg_reg, if_neg ha]
  have hhosts : (t.sendMsix k v).hosts = t.hosts := by
    rw [State.sendMsix, hgo, Bool.not_false, if_pos rfl, State.setReg_hosts]
  have hhost (j : Nat) : (t.sendMsix k v).host j = t.host j := by
    unfold State.host
    rw [hhosts]
  have hport := portIdx_lt b
  refine ⟨fun n hn => ?_, fun j hj => ?_⟩
  · rw [hreg _ (by unfold bindA msixPba viewP viewKey; omega)]
    exact hbind n hn
  · obtain ⟨hsq, hcq, hview, hcfg⟩ := hfns j hj
    have hhigh := viewP_cfgP (portFns_lt hk) j
    rw [hhost]
    refine ⟨hsq, hcq, fun o hlo hhi => ?_, fun o ho => ?_⟩
    · rw [hreg _ (by unfold msixPba viewP viewKey; omega)]
      exact hview o hlo hhi
    · rw [State.cfg, hreg _ (by unfold msixPba; omega)]
      exact hcfg o ho

/-- An interrupt that is routed to a function of a port is routed to one of `portFns`. -/
theorem routeFn_mem : ∀ c, c < 256 → ∀ k ∈ routeFn c, ∀ b ∈ fnPort (fnOfIdx k), k ∈ portFns b := by
  decide +kernel

theorem portFresh_pendSources {s t : State} {b : HPort} (ht : portFresh s b t) : portFresh s b (t.pendSources b) := by
  refine List.foldlRecOn (motive := portFresh s b) _ _ ht (fun u hu a _ => ?_)
  split
  next k hroute =>
    dsimp only
    split
    next hsends =>
      have hport : fnPort (fnOfIdx k) = some b := by
        rw [Bool.and_eq_true, decide_eq_true_eq] at hsends
        exact hsends.2
      have hfunction : fld (u.reg (a + 8)) 8 8 < 256 := by
        unfold fld
        exact BitVec.isLt _
      exact portFresh_sendMsix (routeFn_mem _ hfunction k hroute b hport) _ hu
    next => exact hu
  next => exact hu

/-- The registers that the reset of a host port clears. -/
def portReg (b : HPort) (a : Nat) : Bool :=
  (portFns b).any (fun k => decide ((viewP k ≤ a ∧ a < viewP k + 0x1000) ∨ (cfgP k ≤ a ∧ a < cfgP k + 0x1000))) &&
    !decide (bindA (portIdx b) 0 ≤ a ∧ a ≤ bindA (portIdx b) 15)

theorem portReg_view {b : HPort} {k o : Nat} (hk : k ∈ portFns b) (hlo : 0x200 ≤ o) (hhi : o < 0x1000) : portReg b (viewP k + o) = true := by
  have hbind : ¬(bindA (portIdx b) 0 ≤ viewP k + o ∧ viewP k + o ≤ bindA (portIdx b) 15) := by
    unfold bindA viewP viewKey
    omega
  simp only [portReg, Bool.and_eq_true, List.any_eq_true, decide_eq_true_eq, Bool.not_eq_true', decide_eq_false_iff_not]
  exact ⟨⟨k, hk, .inl ⟨by omega, by omega⟩⟩, hbind⟩

theorem portReg_cfg {b : HPort} {k o : Nat} (hk : k ∈ portFns b) (ho : o < 0x1000) : portReg b (cfgP k + o) = true := by
  have hport := portIdx_lt b
  have hbind : ¬(bindA (portIdx b) 0 ≤ cfgP k + o ∧ cfgP k + o ≤ bindA (portIdx b) 15) := by
    unfold bindA viewP cfgP viewKey cfgKey
    omega
  simp only [portReg, Bool.and_eq_true, List.any_eq_true, decide_eq_true_eq, Bool.not_eq_true', decide_eq_false_iff_not]
  exact ⟨⟨k, hk, .inr ⟨by omega, by omega⟩⟩, hbind⟩

theorem portReg_bind (b : HPort) {n : Nat} (hn : n < 16) : portReg b (bindA (portIdx b) n) = false := by
  have hbind : bindA (portIdx b) 0 ≤ bindA (portIdx b) n ∧ bindA (portIdx b) n ≤ bindA (portIdx b) 15 := by
    unfold bindA
    omega
  simp only [portReg, hbind, and_self, decide_true, Bool.not_true, Bool.and_false]

/-- The state that the reset of a host port leaves but for what is then pending: its registers and queues cleared. -/
def State.perstCleared (s : State) (b : HPort) : State :=
  (portFns b).foldl (fun s k => s.modHost k (fun h => { cqGen := h.cqGen, link := h.link })) { s with
    regs := ⟨s.regs.cells.filter (fun c => !portReg b c.1)⟩
    latch := (portFns b).foldl (fun t k => Tab.set (fun _ => none) t k none) s.latch
    colo := { s.colo with spdm := Tab.set (fun _ => {}) s.colo.spdm (portIdx b) {} } }

theorem exec_perst (b : HPort) (s : State) : exec (.perst b) s = .next (
    (if ((s.host (1 + portIdx b)).link).isSome then (s.perstCleared b).hostTrain b else s.perstCleared b).pendSources b) := rfl

theorem State.perstCleared_reg (s : State) (b : HPort) (a : Nat) :
    (s.perstCleared b).reg a = if portReg b a then regReset a else s.reg a := by
  have hhosts (l : List Nat) (t : State) :
      (l.foldl (fun s k => s.modHost k (fun h => { cqGen := h.cqGen, link := h.link })) t).reg a = t.reg a :=
    foldl_unchanged (fun t : State => t.reg a) (fun t k => t.modHost_reg k _ a) l t
  rw [State.perstCleared, hhosts]
  refine (Tab.get_filter_keys regReset s.regs (fun c => !portReg b c) a).trans ?_
  cases portReg b a <;> rfl

theorem State.perstCleared_host (s : State) (b : HPort) {k : Nat} (hk : k ∈ portFns b) :
    ((s.perstCleared b).host k).sqTail = Tab.empty ∧ ((s.perstCleared b).host k).cqTail = Tab.empty := by
  refine foldl_mem (step := fun (s : State) k => s.modHost k (fun h => { cqGen := h.cqGen, link := h.link }))
    (fun k (t : State) => (t.host k).sqTail = Tab.empty ∧ (t.host k).cqTail = Tab.empty) (portFns b)
    (fun j _ t => ?_) (fun j _ i _ t ht => ?_) _ k hk
  · rw [State.modHost_host, if_pos rfl]
    exact ⟨rfl, rfl⟩
  · rw [State.modHost_host]
    split
    · exact ⟨rfl, rfl⟩
    · exact ht

theorem portFresh_perstCleared (s : State) (b : HPort) : portFresh s b (s.perstCleared b) := by
  refine ⟨fun n hn => ?_, fun k hk => ?_⟩
  · rw [State.perstCleared_reg, portReg_bind b hn]
    rfl
  · obtain ⟨hsq, hcq⟩ := s.perstCleared_host b hk
    refine ⟨hsq, hcq, fun o hlo hhi => ?_, fun o ho => ?_⟩
    · rw [State.perstCleared_reg, portReg_view hk hlo (by omega), if_pos rfl]
    · rw [State.cfg, Nat.add_assoc, State.perstCleared_reg, portReg_cfg hk (by omega), if_pos rfl]

/-- The training of the link changes the link alone. -/
theorem portFresh_hostTrain {s t : State} {b : HPort} (ht : portFresh s b t) : portFresh s b (t.hostTrain b) := by
  obtain ⟨hbind, hfns⟩ := ht
  refine ⟨hbind, fun k hk => ?_⟩
  obtain ⟨hsq, hcq, hregs⟩ := hfns k hk
  refine ⟨?_, ?_, hregs⟩
  all_goals
    rw [State.hostTrain, State.modHost_host]
    split
    next h =>
      subst h
      assumption
    next => assumption

theorem exec_perst_fresh (b : HPort) (s : State) : completes (exec (.perst b) s) (portFresh s b) := by
  refine ⟨_, exec_perst b s, portFresh_pendSources ?_⟩
  split
  · exact portFresh_hostTrain (portFresh_perstCleared s b)
  · exact portFresh_perstCleared s b

end Sys2Proof.Machine
end

section
/-! SUPPORT. Host queues and the resets of functions and ports; O43. -/

namespace Sys2Proof.Machine

/-- What the enabling of a queue sets. -/
theorem HostFn.enable_sq (h : HostFn) (q : Nat) : Tab.get z0 (h.enable false q).sqTail q = 0 ∧ Tab.get z0 (h.enable false q).sqHead q = 0 :=
  ⟨Tab.get_set_same .., Tab.get_set_same ..⟩

theorem HostFn.enable_cq (h : HostFn) (q : Nat) : Tab.get z0 (h.enable true q).cqTail q = 0 ∧ Tab.get z0 (h.enable true q).cqHead q = 0 ∧
    Tab.get z0 (h.enable true q).rsv q = 0 ∧ Tab.get (fun _ => false) (h.enable true q).phase q = false :=
  ⟨Tab.get_set_same .., Tab.get_set_same .., Tab.get_set_same .., Tab.get_set_same ..⟩

/-- Settles O43: the doorbells, bases and timers of a queue by what each command does; the resets by the state that each leaves a
function in (`fnFresh`, `portFresh`), which the resets of the other functions and the messages then pending keep. -/
theorem hostPorts : Obligations.HostPorts := by
  refine ⟨fun f q v w s => ⟨fun hview => ?_, fun k hview => ?_, ?_⟩, fun b f s => ⟨exec_perst_fresh b s, exec_flr_absent, fun hsp hthere => ?_⟩⟩
  · exact ⟨exec_sqTailWrite_unseen hview, exec_cqHeadWrite_unseen hview, exec_queueEnableWrite_unseen hview,
      exec_queueEnableWrite_unseen hview⟩
  · refine ⟨exec_sqTailWrite_sets hview, exec_sqTailWrite_ignored hview, exec_cqHeadWrite_sets hview, exec_cqHeadWrite_ignored hview,
      fun cq => ⟨exec_queueEnableWrite_off hview, exec_queueEnableWrite_on hview, fun hon hdisabled hinside => ?_,
        exec_queueEnableWrite_outside hview⟩⟩
    obtain ⟨u, hu, hreg, hhost⟩ := exec_queueEnableWrite_enables hview hon hdisabled hinside
    refine ⟨u, hu, hreg, ?_, ?_⟩
    · rintro rfl
      rw [hhost]
      exact HostFn.enable_sq ..
    · rintro rfl
      rw [hhost]
      exact HostFn.enable_cq ..
  · exact ⟨exec_cqTimerExpiry_idle, fun t => exec_cqTimerExpiry_early, exec_cqTimerExpiry_silent, fun t ht hlate hien =>
      ⟨_, exec_cqTimerExpiry_expired ht hlate, State.cqSignal_signals s _ _ hien⟩⟩
  · exact ⟨exec_flr_unbound hsp hthere, fun p hpart hcores hnone => exec_flr_coreless hthere hpart hcores hnone,
      fun p hpart hcores hnone => exec_flr_bound hthere hpart hcores hnone⟩

end Sys2Proof.Machine
end
